-- ==== Sys2Proof/Word.lean ====
section
/-! DEFINITION. The words of the manual: a byte, a register word (R448), a stored little-endian string
of bytes (R5). Everything a test could show wrong lives under Machine/, not here. -/

namespace Sys2Proof

/-- A byte (R5). -/
abbrev Byte := BitVec 8

/-- A 32-bit register word, and the bits of an FP32 value (R36, R448). -/
abbrev Word := BitVec 32

/-- A string of bytes as it lies in memory, the byte at the lowest address first (R5). -/
abbrev Bytes := List Byte

end Sys2Proof
end

