-- ==== Sys2Proof/Syntax.lean ====
section
/-! DEFINITION. The commands of the SKG-UT9: one constructor of `Instr` for each row of the table of
operations and events, with what the row's sender supplies. What the environment measures (a
temperature, a pulse width, an error in a stored word) reaches the device only as such an operand. -/

namespace Sys2Proof

/-- Where a command packet comes from: an open session's command window (R368), or a BOOT packet
(R354) of a port, an interface, a source address and a source UDP port. -/
inductive Origin where
  | session (n : Nat)
  | boot (port iface addr udp : Nat)
  deriving DecidableEq, Repr

/-- A command packet (R368, R371): the header fields that the sender chooses, and the parameter bytes
delivered after the 32-byte header. `reqPsn` is the PSN of the WRITE that carried it, when a WRITE did. `fault` is the step of R375
at which a firmware fault stops the command, when one does. -/
structure Packet where
  origin   : Origin
  reqPsn   : Option (BitVec 32) := none
  flags    : Byte := 0
  session  : BitVec 16 := 0
  tag      : BitVec 32 := 0
  length   : BitVec 32 := 0
  ringAck  : BitVec 32 := 0
  protocol : BitVec 16 := 1
  reserved : BitVec 112 := 0
  params   : Bytes := []
  fault    : Option Nat := none
  deriving DecidableEq, Repr

/-- A received UTX request (R340, R341) of one RMO type: where it came from (`addr` and `udp`, its source address and port),
its destination port, its header, its payload. -/
structure UtxReq where
  port    : Nat := 0
  iface   : Nat := 0
  addr    : Nat := 0
  udp     : Nat := 0
  dport   : Nat := 51440
  session : Nat
  psn     : BitVec 32
  ackPsn  : BitVec 32 := 0
  address : BitVec 64
  length  : Nat
  payload : Bytes := []
  deriving DecidableEq, Repr

/-- A received UTX packet of type RSP, ACK or NAK (R341); `port`, `iface`, `addr` and `udp` say where
it came from. -/
structure UtxBack where
  port        : Nat := 0
  iface       : Nat := 0
  addr        : Nat := 0
  udp         : Nat := 0
  dport       : Nat := 51440
  session     : Nat
  psn         : BitVec 32 := 0
  ackPsn      : BitVec 32
  creditLimit : BitVec 32 := 0
  status      : Byte := 0
  reqPsn      : BitVec 32 := 0
  length      : Nat := 0
  deriving DecidableEq, Repr

/-- What an interface sees in a frame that no other row handles (R332 to R338, R341, R342, R354, R356). -/
inductive FrameKind where
  | fecBad (codewords : Nat)  -- uncorrected FEC codewords: a lost frame (R332)
  | fcsBad                    -- a bad FCS: a lost frame (R348)
  | macsecBad                 -- verification or replay protection fails (R338)
  | ipv4Options | ipv4Fragment | ipv6Extension | otherProtocol   -- filtered (R336)
  | udpChecksumBad            -- lost (R348)
  | utxMalformed              -- VERSION or TYPE reserved, or a wrong size (R341)
  | utxOverLength             -- more payload than the segment size (R342)
  | utxReservedOp (op : Byte) (q : UtxReq)   -- a REQ whose OP is reserved (R341)
  | unknownSession            -- a frame of a session that is not open (R356)
  | bootOther (opcode : Byte) (addr udp : Nat) (tag : BitVec 32)
                              -- a BOOT packet with another opcode than SESSION_OPEN and PING (R354)
  | datagram (addr udp dport : Nat) (bytes : Bytes)  -- a UDP datagram as it stands, decoded by R341
  | ptpOther                  -- a PTP message of another domain, or a peer-to-peer one (R288)
  deriving DecidableEq, Repr

/-- What GCM-AES protects a frame with (R338): the SAK's eight words, the words of the salt, and the SSCI. The salt and the SSCI are
used with extended packet numbers alone. -/
structure Seal where
  key  : List Word := []
  salt : List Word := []
  ssci : BitVec 16 := 0
  deriving DecidableEq, Repr

/-- A received frame that no other row handles. -/
structure EthFrame where
  port    : Nat
  iface   : Nat
  size    : Nat
  vid     : Option (BitVec 12) := none
  isProtected : Bool := false
  an      : BitVec 2 := 0     -- of a protected frame, the association and the packet number (R338)
  pn      : Nat := 1
  keyed   : Seal := {}
  slots   : Nat := 1
  length  : Nat := 0          -- of a BOOT packet, the bytes of its payload (R341)
  fecCorrected : Nat := 0     -- FEC codewords corrected in it (R332)
  kind    : FrameKind
  deriving DecidableEq, Repr

/-- A PTP message as the time port reads it (R288, R289). Identities are in PTP octet order. -/
structure PtpMsg where
  port     : Nat
  domain   : Byte
  source   : BitVec 64        -- clockIdentity of the sender
  ip       : Option Bool := none -- the IP version that it came in, IPv6 or not; none for EtherType 0x88F7
  seqId    : BitVec 16
  twoStep  : Bool := false
  tsSec    : Nat := 0         -- originTimestamp, preciseOriginTimestamp or receiveTimestamp
  tsNs     : Nat := 0
  corrNs   : Int := 0         -- correctionField, whole ns
  deriving DecidableEq, Repr

/-- The transports of PTP messages (R288). -/
inductive PtpTransport where
  | ipv4 | ipv6 | ethernet
  deriving DecidableEq, Repr

/-- An Announce message: what the best master clock algorithm compares (R288). -/
structure PtpAnnounce where
  port        : Nat
  domain      : Byte
  source      : BitVec 64
  gm          : BitVec 64
  priority1   : Nat
  clockClass  : Nat
  accuracy    : Nat
  variance    : Nat
  priority2   : Nat
  steps       : Nat
  intervalMs  : Nat           -- the announced Announce interval
  transport   : PtpTransport := .ipv4
  delayReqLog : Int := 0      -- the announced Delay_Req interval, as log2 of seconds
  deriving DecidableEq, Repr

/-- A word met in error: the byte address (or offset) of the 32-byte codeword (R253) or of the 64-bit SRAM word (R66).
For an SRAM word, how many of its bits are wrong; for a codeword, the errors of its 36 bytes, as (position, difference). -/
structure EccFind where
  addr  : Nat
  bad   : Nat := 0
  flips : List (Nat × Byte) := []
  deriving DecidableEq, Repr

/-- The classes of bundles (R107), for naming what a bundle carries. -/
inductive AtomicType where
  | fetchAdd | atomicAdd | cas
  deriving DecidableEq, Repr

/-- A 32-byte bundle, decoded (R106, R107). Operands that a class does not have are zero. -/
structure Bundle where
  issue    : Nat
  swap     : Bool := false
  accAdd   : Bool := false
  strided  : Bool := false
  waitMask : BitVec 16 := 0
  setTag   : Option (BitVec 4) := none
  arrays   : BitVec 4 := 0
  due      : Nat := 0
  op       : Nat := 0
  abOff    : Nat := 0       -- AB offset, or the destination window offset, or the target window offset
  amOff    : Nat := 0
  wsOff    : Nat := 0
  rows     : Nat := 0
  abStride : Nat := 0       -- AB row stride of ROWS, per-array WS stride of WLOAD
  amStride : Nat := 0
  kStep    : Nat := 0
  addr     : BitVec 64 := 0 -- source, destination or target global address
  dstStride : Nat := 0
  size     : Nat := 0       -- bytes of MREAD, MWRITE and ARRIVE; width of ATOMIC
  kind     : AtomicType := .fetchAdd
  retOff   : Nat := 0       -- AB offset of the value ATOMIC returns
  hint     : BitVec 8 := 0
  source   : Nat := 0       -- ARRIVE: source engine or group member
  dueBeat  : Nat := 0       -- ARRIVE: due beat offset
  deriving DecidableEq, Repr

/-- One bundle issued by engine `engine`, the words in error that its reads meet (R66, R255), and the lateness of its
completion. -/
structure BundleEvent where
  engine : Nat
  bundle : Bundle
  sram   : List EccFind := []   -- by byte offset in the engine's window
  mem    : List EccFind := []   -- by linear local address
  late   : Nat := 0             -- cycles by which its completion is ready after its due cycle (R111, R272)
  deriving DecidableEq, Repr

/-- The transfer that an uncorrectable flit belongs to (R14): a completion on its way to the engine, a remote write on its
way to it, each by its place in the engine's list, its latest store or atomic request, bytes that a host or a peer has written,
or the data of the next READ of a session. -/
inductive FlitTarget where
  | completion (k : Nat)
  | arriving (k : Nat)
  | store
  | outside (address bytes : Nat)
  | hostRead (session : Nat)
  deriving DecidableEq, Repr

/-- A kernel record (R222) of the CALDERA_PROGRAM of a stack, decoded, run for a pass of image `image`. -/
structure Kernel where
  image       : BitVec 64
  stack       : Nat
  outModes    : BitVec 8 := 0
  units       : BitVec 16 := 0xFFFF
  startBeat   : Nat := 0
  startCycle  : Nat := 0
  budget      : Nat := 1
  duration    : Nat := 0
  rows        : Nat
  cols        : Nat
  row0        : Nat := 0
  slotRows    : Nat := 0
  opalTensor  : BitVec 32 := 0xFFFFFFFF
  digestLayer : BitVec 32 := 0xFFFFFFFF
  params      : Bytes := []
  deriving DecidableEq, Repr

/-- A kernel run to its end: the record, the codewords its reads find in error, the Caldera cycles by which
it ended after its span (R223), and the units in whose datapath an error occurred, corrected or not (R246). -/
structure KernelEvent where
  kernel : Kernel
  mem    : List EccFind := []
  late   : Nat := 0
  datapath : List (Nat × Bool) := []   -- (unit of the stack, uncorrectable)
  deriving DecidableEq, Repr

/-- What one rail's regulator answers to a poll (R476): `none` when it does not acknowledge. READ_VOUT is a LINEAR16 word, the other
readings are LINEAR11 words. -/
structure RailReading where
  rail    : Nat
  answer  : Option (BitVec 16)      -- STATUS_WORD
  voutMode : Byte := 0              -- VOUT_MODE
  vout    : BitVec 16 := 0          -- READ_VOUT, volts
  iout    : BitVec 16 := 0          -- READ_IOUT, amperes
  pout    : BitVec 16 := 0          -- READ_POUT, watts
  temp    : BitVec 16 := 0          -- READ_TEMPERATURE_1, °C
  railOff : Bool := false           -- the regulator has turned its rail off (R477)
  deriving DecidableEq, Repr

/-- An upset of one copy of a voted register (R455): copy 0 to 2, or 3, the security core's. -/
structure Upset where
  offset : Nat
  copy   : Nat
  word   : Word
  deriving DecidableEq, Repr

/-- The readings that a beat boundary and the power policy use (R400, R484, R486), and the upsets that a beat boundary brings. -/
structure Sensors where
  temps   : List Nat := []    -- readings in 1/16 °C, by the index of selector 4 (R494); missing ones 0
  powerW  : Nat := 0          -- mean package power of the preceding 1 ms (R400)
  windowW : Nat := 0          -- mean estimate of the ending 16 beats (R484)
  settled : Bool := true      -- every regulator reports its output settled (R475)
  upsets  : List Upset := []  -- of a BEAT_BOUNDARY: copies upset since the last one (R455)
  deriving DecidableEq, Repr

/-- The refresh status one DRAM die reports (R272, R273). -/
structure DieStatus where
  stack   : Nat
  channel : Nat
  rate    : BitVec 2          -- 0 rate 1, 1 rate 2, 2 rate 4
  tempC   : Nat := 25
  overLimit : Bool := false
  deriving DecidableEq, Repr

/-- What the start-up stages meet (R491): what the board and the parts show, stage by stage. -/
structure StartupReport where
  pufOk       : Bool := true                -- the SC reconstructs K_root (R498)
  vppOk       : Bool := true                -- VPP lies in its window (R474)
  trained     : BitVec 8 := 0xFF            -- bit s: stack s trained within three attempts
  lanes0      : BitVec 8 := 0xFF            -- port 0 lanes that completed training
  lanes1      : BitVec 8 := 0xFF
  badEngines  : List (Nat × BitVec 4) := [] -- engines whose array or SRAM self-test fails, failed arrays
  badUnits    : List Nat := []              -- Caldera units 16s + c whose self-test fails
  badCodecs   : List Nat := []
  stageMs     : List Nat := []              -- stage times, ms (event 0x0001)
  deriving DecidableEq, Repr

/-- One target's outcome of a DIAG_RUN test (R516 to R520). -/
structure DiagTarget where
  target : Nat
  errors : Nat := 0
  failedArrays : BitVec 4 := 0
  firstBad : Nat := 0          -- first failing offset or layer (event 0x0205)
  finds  : List EccFind := []  -- words that the test's reads meet in error (R66, R255)
  locked : Bool := true        -- SERDES: pattern lock
  bad    : Bool := false       -- the target failed
  deriving DecidableEq, Repr

/-- What a codec engine finishes at a tile boundary (R437, R439): a tile, or a whole frame with the error that it met (R441) and the
words in error that its reads met (R255). -/
structure CodecReport where
  engine    : Nat
  frameDone : Bool := false
  errKind   : Nat := 0         -- ERR_KIND of R441, 1 to 5; 0 none
  errPic    : Nat := 0
  errCol    : Byte := 0xFF
  errRow    : Byte := 0xFF
  mem       : List EccFind := []
  deriving DecidableEq, Repr

/-- Which pin ends power or asks for a reset (R490). -/
inductive ResetPin where
  | resetN | pwrGood
  deriving DecidableEq, Repr

/-- The values shifted through the boundary scan chain, by position (R521). -/
abbrev Chain := List Bool

/-- The commands, in the order of the table. -/
inductive Instr where
  -- sessions and commands (R368 to R397)
  | challenge (p : Packet)
  | ownerClaim (p : Packet)
  | reserve (p : Packet)
  | admitSession (p : Packet)
  | sessionClose (p : Packet)
  | ping (p : Packet)
  | regRead (p : Packet)
  | regWrite (p : Packet)
  | imageLoad (p : Packet)
  | imageLoadComplete (k : Nat)
  | imageVerify (p : Packet)
  | imageVerifyComplete (k : Nat)
  | imageUnload (p : Packet)
  | jobSubmit (p : Packet)
  | jobQuery (p : Packet)
  | jobCancel (p : Packet)
  | jobPause (p : Packet)
  | jobResume (p : Packet)
  | ctxSave (p : Packet)
  | ctxSaveComplete (ctx : Nat)
  | ctxRestore (p : Packet)
  | ctxRestoreComplete (ctx : Nat)
  | pageAlloc (p : Packet)
  | pageShare (p : Packet)
  | pageRelease (p : Packet)
  | digestRead (p : Packet)
  | vidOpen (p : Packet)
  | vidFrame (p : Packet)
  | vidClose (p : Packet)
  | vidCloseComplete (stream : Nat)
  | timeQuery (p : Packet)
  | fwStage (p : Packet)
  | fwStageComplete
  | fwCommit (p : Packet)
  | fwCommitComplete
  | commitRestartReset
  | attest (p : Packet)
  | attestComplete (k : Nat)
  -- DIAG_RUN, one row a test (R514 to R522)
  | array (p : Packet)
  | engineSram (p : Packet)
  | caldera (p : Packet)
  | codec (p : Packet)
  | memory (p : Packet)
  | serdes (p : Packet)
  | d2d (p : Packet)
  | knownAnswer (p : Packet)
  | diagTestComplete (results : List DiagTarget) (elapsedUs : Nat)
  | telemetryRead (p : Packet)
  | groupJoin (p : Packet)
  | groupLeave (p : Packet)
  | groupLeaveComplete
  -- register writes with an effect of their own (R447 to R454); `by` is the writing session
  | standbyEntry (by_ : Nat)
  | standbyExit (by_ : Nat)
  | forceLimited (by_ : Nat) (on : Bool)
  | engineFenceSet (by_ : Nat) (engine : Nat)
  | engineFenceLift (by_ : Nat) (engine : Nat)
  | calFenceWrite (by_ : Nat) (stack : Nat) (fenced : BitVec 16)
  | vidFenceWrite (by_ : Nat) (fenced : BitVec 8)
  | quadMirrorEnable (by_ : Nat) (quad : Nat) (on : Bool)
  | sourceWrite (by_ : Nat) (source : BitVec 2)
  | secSetWrite (by_ : Nat) (lo hi : Word)
  | opalWrite (by_ : Nat) (first : Nat) (words : List Word)
  | modeWrite (by_ : Nat) (port : Nat) (mode : BitVec 2)
  | maxFrameWrite (by_ : Nat) (port : Nat) (maxFrame : BitVec 14)
  | sakInstall (by_ : Nat) (port iface : Nat) (words : List Word)
  | kvPoolWrite (by_ : Nat) (stack : Nat) (base size : Option Word)
  | protEntryWrite (by_ : Nat) (entry : Nat) (words : List Word)
  | noticeClear (by_ : Nat) (bits : Word)
  | registerWrite (by_ : Nat) (offset : Nat) (words : List Word)
  -- UTX packets received (R344 to R351)
  | read (q : UtxReq) (mem : List EccFind)
  | write (q : UtxReq) (mem : List EccFind)
  | fetchAdd (q : UtxReq) (mem : List EccFind)
  | atomicAdd (q : UtxReq) (mem : List EccFind)
  | cas (q : UtxReq) (mem : List EccFind)
  | fence (q : UtxReq)
  | rsp (q : UtxBack)
  | ack (q : UtxBack)
  | nak (q : UtxBack)
  | ethFrameRx (f : EthFrame)
  | pfcFrame (port : Nat) (priority : BitVec 3) (pauseNs : Nat)
  | pfcPauseExpiry (port : Nat) (priority : BitVec 3)
  | arpRequest (port iface : Nat) (target : BitVec 32)
  | neighborSolicitation (port iface : Nat) (target : BitVec 128)
  | icmpEchoRequest (port iface : Nat) (v6 : Bool) (target : BitVec 128) (size : Nat)
  | txSend (port : Nat)
  | ackDelayExpiry (session : Nat)
  | rtoExpiry (session : Nat)
  | sessionFail (session : Nat)
  | challengeExpiry (k : Nat)
  | reservationExpiry (session : Nat)
  | linkTrainingRetry (port iface : Nat)
  | portFallback (port : Nat)
  -- time (R287 to R292, R310)
  | ptpSync (m : PtpMsg)
  | ptpFollowUp (m : PtpMsg)
  | ptpDelayResp (m : PtpMsg)
  | ptpAnnounce (m : PtpAnnounce)
  | delayReqSend
  | announceTimeout
  | syncTimeout
  | holdoverLimitExpiry
  | ppsInEdge (highNs : Nat)
  | ppsStuck
  | ppsOutRise
  | ppsOutFall
  -- pins, power and start-up (R310, R474 to R492)
  | reset (pin : ResetPin) (lowNs : Nat)
  | startup (r : StartupReport)
  | startupTimeTimeout
  | regulatorAlert (lowNs : Nat) (rails : List RailReading)
  | vrAlertSustained
  | thermalTrip (sensor : Nat) (tempC : Nat)
  | pmbusPoll (rails : List RailReading)
  | powerCalibration (readPoutW : Nat)
  | powerEvaluation (x : Sensors)
  | limitedExit
  | rampModeEnd
  | voteScrub
  | patrol (stack : Nat) (finds : List EccFind)
  | refreshRateRead (dies : List DieStatus)
  | healthTimeCheckpoint
  | healthRecordWriteDone
  | correctionWriteBack (addr : Nat)
  -- beats and groups (R120, R297 to R305)
  | beatBoundary (x : Sensors)
  | batchWaitExpiry (image : BitVec 64)
  | groupBeatStart
  | slipNotice (j : Nat)
  | groupHoldLimit (engine : Nat) (member : Nat)
  -- bundles (R107)
  | nop (v : BundleEvent)
  | rows (v : BundleEvent)
  | wload (v : BundleEvent)
  | epi (v : BundleEvent)
  | mread (v : BundleEvent)
  | mwrite (v : BundleEvent)
  | atomic (v : BundleEvent)
  | fenceBundle (v : BundleEvent)
  | arrive (v : BundleEvent)
  | completionLanded (engine : Nat) (tag : BitVec 4) (ready : Nat)
  | remoteWriteLanding (engine : Nat) (k : Nat)
  | holdSimmerExpiry (engine : Nat) (arr : Nat)
  | d2dFlitUncorrectable (edge : Nat) (engine : Nat) (target : FlitTarget)
  -- Caldera kernels (R232)
  | samplerStep (v : KernelEvent)
  | guidance (v : KernelEvent)
  | optim (v : KernelEvent)
  | reduce (v : KernelEvent)
  | quantiseDeferred (v : KernelEvent)
  | transpose (v : KernelEvent)
  | gather (v : KernelEvent)
  | scatter (v : KernelEvent)
  | gatherPageRead (v : KernelEvent)
  | scatterPageWrite (v : KernelEvent)
  | orderedAccumulate (v : KernelEvent)
  | cowCopyComplete (page : BitVec 24)
  | demotionCopyComplete (page : BitVec 24)
  | tokenSamplerRun (ctx : Nat)
  | codecTileBoundary (r : CodecReport)
  -- sideband and test access (R489, R521)
  | smbusReadByte (code : Byte)
  | smbusReadWord (code : Byte)
  | smbusWrite (code : Byte) (data : Bytes)
  | tapReset (rising : Bool)
  | extest (shift : Chain)
  | samplePreload (shift : Chain)
  | idcode
  | extestPulse (shift : Chain)
  | extestTrain (shift : Chain)
  | clamp
  | highz
  | bypass (code : Byte)
  | linkTrainingComplete (port iface : Nat) (lanes : BitVec 8)
  deriving DecidableEq, Repr

end Sys2Proof
end

