-- ==== Sys2Proof/Decode.lean ====
section
/-! DEFINITION. The words of the table. Every row of the table of operations and events is a command or an
event of the device with no encoding in bits (its "fields" are empty), so that no word spells one. The
command packets, the register words, the bundles and the sections of an image, which the manual does
encode, are read by the definitions under Machine/. -/

namespace Sys2Proof

/-- The command that a word spells by the bits of the table: none, for the table gives no row any bits. -/
def decodeTableWord (_nbits _w : Nat) : Option Instr := none

end Sys2Proof
end

