-- ==== Sys2Proof/Machine/Codeword.lean ====
section
/-! DEFINITION. The Reed–Solomon code of the stacks' codewords (R253): arithmetic in GF(2^8), the check bytes, the
syndromes, and the decoder. A codeword is 36 bytes, its 32 data bytes first; byte i is the coefficient of x^(35 − i)
(DESIGN CHOICE, assumption 80). -/

namespace Sys2Proof.Machine

open Sys2Proof

/-- Multiplication by α = 0x02 modulo x^8 + x^4 + x^3 + x^2 + 1. -/
def gfDouble (a : Byte) : Byte := (a <<< 1) ^^^ (if a.msb then 0x1D else 0)

/-- Multiplication in the field, over the bits of the second factor from the highest. -/
def gfMul (a b : Byte) : Byte :=
  (List.range 8).foldl (fun r k => gfDouble r ^^^ (if b.getLsbD (7 - k) then a else 0)) 0

/-- α^n. -/
def gfAlpha : Nat → Byte
  | 0 => 1
  | n + 1 => gfDouble (gfAlpha n)

/-- A polynomial, highest coefficient first, at a point. -/
def gfEval (p : Bytes) (x : Byte) : Byte := p.foldl (fun r c => gfMul r x ^^^ c) 0

/-- A polynomial, highest coefficient first, times x − α^j: in this field the sign does not matter. -/
def gfTimes (p : Bytes) (j : Nat) : Bytes :=
  ((p ++ [0]).zip (0 :: p)).map fun (hi, lo) => hi ^^^ gfMul lo (gfAlpha j)

/-- The generator polynomial, whose roots are α^0 to α^3. -/
def rsGenerator : Bytes := (List.range 4).foldl gfTimes [1]

/-- One step of the division by the generator: the leading coefficient is cancelled and the next one comes in. -/
def rsShift (r : Bytes) (c : Byte) : Bytes :=
  match r with
  | [] => []
  | h :: t =>
    let q := h ^^^ c
    ((t ++ [0]).zip rsGenerator.tail).map fun (x, g) => x ^^^ gfMul q g

/-- The 4 check bytes of 32 data bytes: the remainder of the data times x^4. -/
def rsCheck (data : Bytes) : Bytes := data.foldl rsShift [0, 0, 0, 0]

/-- A codeword: data and check bytes. -/
def rsEncode (data : Bytes) : Bytes := data ++ rsCheck data

/-- The four syndromes of a received word. -/
def rsSyndromes (w : Bytes) : List Byte := (List.range 4).map fun j => gfEval w (gfAlpha j)

/-- The syndromes that a single erroneous byte at a position leaves. -/
def rsSingle (v : Byte) (i : Nat) : List Byte := (List.range 4).map fun j => gfMul v (gfAlpha (j * (35 - i)))

/-- What the decoder makes of a received word. -/
inductive RsResult where
  | clean
  | corrected (word : Bytes)
  | uncorrectable
  deriving DecidableEq, Repr

/-- The decoder: a word with zero syndromes is taken as it is, one that a single byte explains is corrected, any other is
detected. -/
def rsDecode (w : Bytes) : RsResult :=
  let syn := rsSyndromes w
  if syn.all (· == 0) then .clean
  else
    let v := syn.headD 0
    match (List.range 36).find? fun i => v != 0 && syn == rsSingle v i with
    | some i => .corrected (w.set i (w.getD i 0 ^^^ v))
    | none => .uncorrectable

/-- The error word of a list of byte errors, (position, difference). -/
def errorWord (flips : List (Nat × Byte)) : Bytes :=
  flips.foldl (fun w (i, d) => w.set i (w.getD i 0 ^^^ d)) (List.replicate 36 0)

/-- The erroneous bytes of an error word. -/
def badBytes (w : Bytes) : Nat := (w.filter (· != 0)).length

end Sys2Proof.Machine
end

