-- ==== Sys2Proof/Config.lean ====
section
/-! DEFINITION. What the spec leaves open and the model does not choose: constants with no body, so that
no proof can see what they are. A statement that holds does so for every value of each of them.

`Config.free n` is the n-th free value of a run; `State.freeCtr` says which comes next. What depends on the
device's own secret, the keys that are built into it and the results of the codec standards are constants too:
the model says where each of them is used. -/

namespace Sys2Proof.Config

/-- The n-th free value of a run: a value that the spec does not fix (a random challenge of R383, a
choice of R267, a result of a codec standard). A reader narrows it to the width it needs. -/
opaque free (n : Nat) : Nat

/-- K_root, the 256-bit secret that the PUF gives this device, as 32 bytes (R498). -/
opaque rootSecret : Bytes

/-- r and s of the endorsement in the identity area (R499). -/
opaque endorsement : Bytes

/-- The firmware key that the boot ROM holds (R497). -/
opaque firmwareKey : Bytes

/-- The provisioning key that the boot ROM holds (R497). -/
opaque provisioningKey : Bytes

/-- Where in an Instruction Store the bytes of the loaded programs lie: the byte an OWNER reads at an
offset, given the programs in the order of their loading (R31, R34, R101 fix no layout). -/
opaque isByte (programs : List Bytes) (offset : Nat) : Byte

/-- Whether the load of the last of an Instruction Store's programs writes all of the 64-bit word at an offset (R34, R66; no rule
fixes the layout). -/
opaque isWritten (programs : List Bytes) (offset : Nat) : Bool

/-- What a codec standard and the encoder's own choices make of a stream, as functions of its descriptor and of what its frames held
in acceptance order (R444). The headers of a key picture: the sequence header, or the VPS, SPS and PPS (R426, R438). -/
opaque codecHeaders (descriptor : Bytes) : Bytes

/-- An SEI message: buffering period (0), picture timing (1) or recovery point (2, with its count), for a picture (R438, R440). -/
opaque codecSei (descriptor : Bytes) (kind picture count : Nat) : Bytes

/-- A picture coded at a quantiser from its source and the pictures that it refers to, with the columns of superblocks that its intra
band covers, the limit in bits after which its blocks are skip, and what a decoder then holds of it (R426, R438, R440). -/
opaque codecPicture (descriptor source : Bytes) (refs : List Bytes) (band : Option (Nat × Nat)) (quantiser : Nat)
    (skipAfter : Option Nat) : Bytes
opaque codecRecon (descriptor source : Bytes) (refs : List Bytes) (band : Option (Nat × Nat)) (quantiser : Nat)
    (skipAfter : Option Nat) : Bytes

/-- The pictures that an encoder would refer to, and the quantiser that it aims at TARGET_KBPS with. -/
opaque codecRefs (descriptor : Bytes) (frames : List Bytes) (frame : Nat) : List Nat
opaque codecQuantiser (descriptor : Bytes) (frames : List Bytes) (frame : Nat) : Nat

/-- Filler-data NAL units or padding OBUs of n bytes (R438). -/
opaque codecFiller (codec n : Nat) : Bytes

/-- A sample of a decoded picture: plane, column, row (R434, R436, R444). -/
opaque codecSample (descriptor : Bytes) (frames : List Bytes) (picture plane column row : Nat) : Nat

/-- What a decoder makes of its units: the pictures that are ready for output, all that it holds or has readied, both in output
order, the bytes that it consumes of the last unit, and that unit's mean quantiser (R436, R437). -/
opaque codecReady (descriptor : Bytes) (frames : List Bytes) : List Nat
opaque codecHeld (descriptor : Bytes) (frames : List Bytes) : List Nat
opaque codecConsumed (descriptor : Bytes) (frames : List Bytes) : Nat
opaque codecMeanQp (descriptor : Bytes) (frames : List Bytes) : Nat

/-- What an encoder's choices give a block or sample of an encoded picture (R443, R444): a block's motion in eighths of a luma sample,
horizontal (0) and vertical (1), whether it is intra, and the prediction of a luma sample. -/
opaque codecMotion (descriptor : Bytes) (frames : List Bytes) (frame axis column row : Nat) : Int
opaque codecIntra (descriptor : Bytes) (frames : List Bytes) (frame column row : Nat) : Bool
opaque codecPrediction (descriptor : Bytes) (frames : List Bytes) (frame column row : Nat) : Nat

/-- The clock increment that the discipline chooses for a sample, before the bounds of R289 are
applied: from the present increment and the sample's offset in units of 2^-32 ns. -/
opaque slew (increment : Nat) (offset : Int) : Nat

/-- The fixed latency of the PMA and SerDes of a port in an active mode, in units of 2^-32 ns, for a frame received or sent
(R339 names it and gives no value). -/
opaque pmaLatency (mode : Nat) (sending : Bool) : Nat

/-- The voltage table of the stepping: what VDD_Qq is set to, in µV, for a step-clock scale F. The table is indexed by the
quadrant's measured speed grade too, which is a property of the die (R475 gives no value of either). -/
opaque vddTable (quadrant f : Nat) : Nat

/-- The operating limit of DRAM die d (16 s + c) in °C: a property of the die (R273, R494). -/
opaque dramLimit (d : Nat) : Nat

/-- Whether a kernel's forbidden read of a granule of 128 B delivers its old contents (R115: which of the two it returns is not
fixed), by the beat, the kernels that have run before it in their passes, and the granule (UNVERIFIED, assumption 108). -/
opaque kernelReadsOld (beat kernel granule : Nat) : Bool

/-- The Delay_Req message of a port, for a domain and a sequence number: its layout is IEEE 1588-2019's (R288). -/
opaque delayReqBytes (port : Nat) (domain : Byte) (seqId : BitVec 16) : Bytes

/-- The channels of a page of a layer and kind for which an image has no page-form kernel: PAGE_ALLOC names no
channel count, and no rule gives one (R179, R394; assumption 21). -/
opaque pageChannels (image layer kind : Nat) : Nat

end Sys2Proof.Config
end

