-- ==== Sys2Proof/Machine/State.lean ====
section
/-! DEFINITION. The state of the device: plain data, holding every piece of state the manual names.

Registers that software reads live in ONE sparse register file `State.regs`, keyed by their offset in
register space (R458) and described field by field in Machine/Regs.lean; an offset not listed holds its
reset value. Everything that is not a register word has a field of its own below. Sparse tables (engines,
sessions, contexts) list only what differs from the state after reset. -/

namespace Sys2Proof.Machine

open Sys2Proof

/-- Why the machine stops with a fault: it never does. Every row of the table has an effect on every state. -/
inductive Fault where
  deriving DecidableEq, Repr

/-- Why the machine refuses a command. -/
inductive Refusal where
  /-- An arm of exec that has no meaning yet. Safe: nothing is claimed of it. -/
  | notModelled (mnemonic : String)
  deriving DecidableEq, Repr

/-- Completion codes (R374). -/
inductive Code where
  | ok | accepted | busy | badOpcode | badParam | badLength | priv | busError | noContext | noPages
  | noCredit | imageInvalid | signatureFail | aidMismatch | refoldUnavailable | streamDamaged
  | timeUnlocked | eccUncorrectable | internal
  deriving DecidableEq, Repr

/-- Session classes (R380). -/
inductive Cls where
  | owner | operator | job | peer
  deriving DecidableEq, Repr

/-- The time states (R290). -/
inductive TimeState where
  | free | acquiring | locked | holdover
  deriving DecidableEq, Repr

/-- The power states of R481; `starting` is the start-up of R491 between OFF and ready. -/
inductive Phase where
  | off | starting | failed | standby | idle | active | limited
  deriving DecidableEq, Repr

/-- The states of a context (R391). -/
inductive CtxState where
  | free | ready | running | paused | saved | done | failed
  deriving DecidableEq, Repr

/-- The states of a KV page (R183). -/
inductive PageState where
  | free | live | copying | demoting | demoted | dropped
  deriving DecidableEq, Repr

/-- The classes of bundles (R107). -/
inductive BundleClass where
  | nop | rows | wload | epi | mread | mwrite | atomic | fence | arrive
  deriving DecidableEq, Repr

/-- The kernel codes (R232). -/
inductive KernelCode where
  | samplerStep | guidance | optim | reduce | quantise | transpose | gather | scatter | accumulate
  deriving DecidableEq, Repr

/-! ## Outputs -/

/-- The IP packet around what leaves (R335, R336, R340): DSCP, Don't Fragment in IPv4, and of a UDP datagram its ports and the
checksum, where the model lays its payload out. -/
structure IpWire where
  v6       : Bool
  dst      : Option Nat
  dscp     : BitVec 6
  dontFrag : Bool
  ports    : Option (Nat × Nat) := none   -- source and destination UDP port
  checksum : Option (BitVec 16) := none
  deriving DecidableEq, Repr

/-- MACsec around a frame that leaves (R338): the association, the packet number, whether the number is extended, and what
GCM-AES-256 or GCM-AES-XPN-256 runs with. -/
structure SecWire where
  an  : BitVec 2
  pn  : Nat
  xpn : Bool
  keyed : Seal := {}
  deriving DecidableEq, Repr

/-- What a frame that leaves is wrapped in (R335, R336, R338, R340): the IEEE 802.1Q tag with PCP and VID, IP, MACsec. -/
structure Wire where
  vlan : Option (BitVec 3 × BitVec 12) := none
  ip   : Option IpWire := none
  sec  : Option SecWire := none
  deriving DecidableEq, Repr

/-- A reply packet (R372), as the control core forms it; `wire` wraps one that leaves in a BOOT packet. -/
structure Reply where
  origin   : Origin
  opcode   : Byte
  code     : Code
  tag      : BitVec 32
  session  : BitVec 16 := 0xFFFF -- SESSION of the command packet (R372)
  result   : Bytes
  dsw      : Word
  boundary : Nat
  doneSeq  : BitVec 32
  eventRef : BitVec 32
  wire     : Option Wire := none
  deriving DecidableEq, Repr

/-- A UTX packet that the device sends (R341). -/
structure UtxOut where
  session     : Nat
  type        : Byte            -- 1 REQ, 2 RSP, 3 ACK, 4 NAK
  psn         : BitVec 32
  ackPsn      : BitVec 32
  creditLimit : BitVec 32
  address     : BitVec 64
  op          : Byte
  status      : Byte
  reqPsn      : BitVec 32
  payload     : Bytes
  wire        : Wire := {}
  deriving DecidableEq, Repr

/-- Where a UTX packet goes (R340): the address, the destination port, and the source port it leaves from. -/
structure Dest where
  addr : Nat
  udp  : Nat
  from_ : Nat
  deriving DecidableEq, Repr

/-- An RSP that a session owed when it closed: it still leaves by its port and interface, under its priority (R344). -/
structure Parting where
  port     : Nat
  iface    : Nat
  dest     : Dest
  packet   : UtxOut
  deriving DecidableEq, Repr

/-- Frames that are not UTX (R288, R336, R337). -/
inductive OutFrame where
  | arpReply (addr : BitVec 32)
  | neighborAdvert (addr : BitVec 128)
  | echoReply (v6 : Bool) (size : Nat)
  | delayReq (domain : Byte) (seqId : BitVec 16) (transport : PtpTransport)
  | pfc (xoff : Bool)
  deriving DecidableEq, Repr

/-- A frame that waits until its priority is no longer paused and its interface can protect it (R337, R338): what a control core
answers, or a BOOT reply. -/
inductive Outgoing where
  | frame (f : OutFrame)
  | boot (d : Dest) (r : Reply)
  deriving DecidableEq, Repr

/-- An outgoing frame with its port and interface. -/
structure HeldFrame where
  port  : Nat
  iface : Nat
  what  : Outgoing
  deriving DecidableEq, Repr

/-- A transaction with a regulator (R476): OPERATION, VOUT_COMMAND with the voltage in µV, CLEAR_FAULTS, a read of STATUS_WORD, or a read
of all its telemetry. -/
inductive PmbusOp where
  | operation (on : Bool) | voutCommand (uv : Nat) | clearFaults | readStatus | readTelemetry
  deriving DecidableEq, Repr

/-- What leaves the device in the latest step. -/
inductive Output where
  | reply (r : Reply)
  | utx (port : Nat) (p : UtxOut)
  | frame (port iface : Nat) (w : Wire) (f : OutFrame)
  | smbus (v : BitVec 16) (pec : Byte)   -- the value of a Read Byte or Read Word, and the PEC byte that follows where the host asks for it
  | smbusNack
  | pmbus (rail address page : Nat) (op : PmbusOp)   -- a transaction with a rail's regulator
  | tdo (x : List Bool)          -- what a TAP instruction shifts out
  | status (c : Code)            -- the answer to a register write made as an RMO (R447)
  deriving DecidableEq, Repr

/-! ## Sessions and transport -/

/-- One completion ring entry (R378). -/
structure RingEntry where
  seq      : BitVec 32
  tag      : BitVec 32
  opcode   : Byte
  code     : Code
  ctx      : Option Nat
  dsw      : Word
  boundary : Nat
  eventRef : BitVec 32
  result   : Bytes
  deriving DecidableEq, Repr

/-- A ring entry that a boundary posts, until the boundary's DSW is known (R378). -/
structure Post where
  session  : Nat
  tag      : BitVec 32
  opcode   : Byte
  code     : Code
  ctx      : Option Nat := none
  eventRef : BitVec 32 := 0xFFFFFFFF
  result   : Bytes := []
  deriving DecidableEq, Repr

/-- A reply that a boundary forms, until the boundary's DSW is known (R373, R376). -/
structure LateReply where
  p        : Packet
  opcode   : Byte
  code     : Code
  eventRef : BitVec 32 := 0xFFFFFFFF
  result   : Bytes := []
  deriving DecidableEq, Repr

/-- A REQ or RSP that the device keeps until it is acknowledged (R350, R362). -/
structure Kept where
  psn     : BitVec 32
  isReq   : Bool
  op      : Byte
  status  : Code := .ok
  reqPsn  : BitVec 32 := 0
  address : BitVec 64 := 0
  payload : Bytes := []
  sent    : Bool := false        -- sent at least once
  resend  : Bool := false        -- waits for retransmission
  image   : Option (BitVec 64) := none   -- REQ: the image whose bundle issued it (R363)
  slots   : List Nat := []       -- REQ: the contexts it serves
  deriving DecidableEq, Repr

/-- An open session (R341 to R360, R377 to R381, R401). -/
structure Session where
  cls       : Cls
  port      : Nat
  iface     : Nat
  addr      : Nat
  udp       : Nat
  ownPort   : Nat := 51440       -- UTX_CTRL.PORT as the session opened (R367)
  window    : Nat                -- C
  segment   : Nat
  expect    : BitVec 32          -- E, the PSN expected next
  nakFor    : Option (BitVec 32) -- the E for which a NAK has been sent
  grant     : BitVec 32          -- G
  held      : Nat                -- H, slots that accepted REQs hold
  nextPsn   : BitVec 32          -- PSN of the device's next REQ or RSP
  kept      : List Kept
  ackSent   : BitVec 32          -- the ACK_PSN last sent
  grantSent : BitVec 32          -- the CREDIT_LIMIT last sent
  ackSince  : Option Nat         -- DT (2^-32 ns) of the oldest unsent acceptance or rise
  accepted  : Nat                -- packets accepted since an ACK_PSN was sent
  ackNow    : Bool               -- a standalone ACK is due (R348, R349)
  naks      : List (BitVec 32) := []  -- the NAKs that are due, each by the E it carries (R348)
  dups      : Nat := 0           -- ACKs that duplicates are owed (R348)
  timeouts  : Nat                -- consecutive timeouts
  rtoNs     : Nat                -- present retransmission timer
  timerAt   : Nat                -- DT (2^-32 ns) at which the timer was started
  ringAck   : BitVec 32
  doneSeq   : BitVec 32
  doneSnap  : BitVec 32 := 0     -- DONE_SEQ as of the snapshot boundary (R377)
  ring      : List RingEntry     -- the last 256 entries, newest first
  reserved  : Nat                -- entries reserved and not yet posted
  slipSeen  : Bool               -- a slip since the last reply (FLAGS bit 0)
  holdSeen  : Bool               -- a delayed boundary since the last reply (FLAGS bit 1)
  peerGrant : BitVec 32          -- requesting half: latest CREDIT_LIMIT received
  peerUsed  : BitVec 32          -- requesting half: U of R358
  waiting   : List (BitVec 32 × List Nat) := []  -- requesting half: REQs acknowledged and not yet answered, with the contexts they serve
  closed    : Bool := false      -- closed, and its last slots are not yet released (R357)
  deriving DecidableEq, Repr

/-- An outstanding challenge (R383). -/
structure Challenge where
  nonce : BitVec 128
  drawn : Nat                    -- DT, 2^-32 ns
  deriving DecidableEq, Repr

/-- A reserved session (R383). -/
structure Reservation where
  session : Nat
  cls     : Cls
  window  : Nat
  nonce   : BitVec 128
  made    : Nat                  -- DT, 2^-32 ns
  deriving DecidableEq, Repr

/-- The reply to an OWNER_CLAIM or ADMIT, kept for 10 s for a byte-for-byte repeat (R384). -/
structure BootMemo where
  packet : Packet
  reply  : Reply
  at_    : Nat
  deriving DecidableEq, Repr

/-- A REQ that waits for the beat boundary: an access to an AB, AM or WS window (R33, R344), a FENCE behind
one, or a REQ behind such a FENCE (R265). -/
structure Deferred where
  q    : UtxReq
  op   : Byte
  cls  : Cls
  cost : Nat
  ecc  : List EccFind
  deriving DecidableEq, Repr

/-- An installed MACsec key (R338), with how many frames have been sent under it and the lowest packet number that replay
protection still accepts. -/
structure Sak where
  port  : Nat
  iface : Nat
  an    : BitVec 2
  ssci  : BitVec 16
  key   : List Word
  salt  : List Word
  sent  : Nat := 0
  lowest : Nat := 1
  deriving DecidableEq, Repr

/-- A logical interface and its training (R331, R333, R337). -/
structure Iface where
  port     : Nat
  idx      : Nat
  up       : Bool := false
  failures : Nat := 0            -- consecutive failed training attempts
  attemptAt : Nat := 0           -- wall time at which the present attempt began or the last ended
  deriving DecidableEq, Repr

/-- A priority that a PFC frame has stopped (R337). -/
structure Pause where
  port     : Nat
  priority : BitVec 3
  until_   : Nat                 -- wall time, ns
  deriving DecidableEq, Repr

/-- A node table entry (R364). -/
structure Node where
  id      : BitVec 16
  port    : Nat
  iface   : Nat
  addr    : Nat
  udp     : Nat
  session : Option Nat
  member  : Nat
  deriving DecidableEq, Repr

/-! ## Schedule images -/

/-- An operation record of the numeric plan (R97). -/
structure OpRec where
  aFmt : Nat
  aScaled : Bool
  bFmt : Nat
  bScaled : Bool
  dFmt : Nat
  dScaled : Bool
  mixed : Bool
  sr : Bool
  ieee : Bool
  bf16Stage : Bool
  fusion : Nat
  m : Nat
  n : Nat
  k : Nat
  tileM : Nat
  tileN : Nat
  tileK : Nat
  kSplits : Nat
  tree : Bool                    -- K_ORDER 1
  tensorA : Nat
  tensorB : Nat
  tensorD : Nat
  tensorAux : Nat
  digestLayer : Nat
  deriving DecidableEq, Repr

/-- A tensor table entry (R98). -/
structure Tensor where
  id     : Nat
  base   : Nat
  fmt    : Nat
  addr   : Nat
  size   : Nat
  stride : Nat
  deriving DecidableEq, Repr

/-- A footprint record (R99). -/
structure Footprint where
  engine : Nat
  ab : Nat
  am : Nat
  ws : Nat
  is : Nat
  deriving DecidableEq, Repr

/-- A stride set (R104). -/
structure Strides where
  ab : Int := 0
  am : Int := 0
  ws : Int := 0
  src : Int := 0
  dst : Int := 0
  op : Int := 0
  deriving DecidableEq, Repr

/-- A beat record (R104). -/
structure BeatRec where
  first : Nat
  count : Nat
  reps  : Nat
  strideSet : Nat
  deriving DecidableEq, Repr

/-- A bundle of a program with its class. -/
structure Placed where
  cls : BundleClass
  b   : Bundle
  deriving DecidableEq, Repr

/-- An ENGINE_PROGRAM (R103). -/
structure Program where
  engine  : Nat
  strides : List Strides
  beats   : List BeatRec
  bundles : List Placed
  bytes   : Nat
  deriving DecidableEq, Repr

/-- A kernel record of a CALDERA_PROGRAM (R222). -/
structure KernelRec where
  code : KernelCode
  k    : Kernel
  deriving DecidableEq, Repr

/-- A refold table (R123). -/
structure Refold where
  number : Nat
  part   : Nat
  mask   : BitVec 256
  foots  : List Footprint
  progs  : List Program
  deriving DecidableEq, Repr

/-- What R102 records of a placement: the largest slots per window on each channel and the largest bytes
per window on each edge direction. -/
structure Load where
  channels : List (Nat × Nat)    -- (16 * stack + channel, slots), in quarter slots
  edges    : List (Nat × Nat)    -- (2 * edge + direction, bytes)
  deriving DecidableEq, Repr

/-- A schedule image as its sections give it (R94 to R125), with what the device records of it. -/
structure Image where
  id       : BitVec 64
  aid      : BitVec 32
  part     : Nat
  beats    : Nat
  mask     : BitVec 256
  slots    : Nat
  async    : Nat                 -- ASYNC_SHARE in sixteenths, the default resolved to 2
  sr3      : Bool                -- SR_WIDTH 1
  members  : Nat
  ops      : List OpRec
  tensors  : List Tensor
  foots    : List Footprint
  progs    : List Program
  calderas : List (Nat × List KernelRec)
  refolds  : List Refold
  source   : Nat                 -- local address of the retained range (R387)
  size     : Nat
  digest   : BitVec 512          -- SHA-512 of the range, for R482 and R512
  plan     : BitVec 512          -- PLAN_DIGEST (R414)
  loads    : List Load           -- main placement, then each refold table (R102)
  raw      : List Bytes          -- the ENGINE_PROGRAM sections (R103)
  deriving DecidableEq, Repr

/-! ## Contexts and passes -/

/-- A job descriptor (R389). -/
structure Desc where
  image     : BitVec 64
  base      : Nat
  seed      : BitVec 64
  stream    : BitVec 64
  stepFirst : BitVec 32
  steps     : BitVec 32
  priority  : Nat
  sampler   : Bool
  startPaused : Bool
  tokens    : Nat
  length    : Nat
  ptLayers  : Nat
  ptRoot    : Nat
  recompute : BitVec 64
  logBase   : Nat
  logEntries : Nat
  sampLogits : Nat
  sampTokens : Nat
  vocab     : Nat
  topK      : Nat
  greedy    : Bool
  invTemp   : BitVec 32
  topP      : BitVec 32
  opalTensor : BitVec 32
  raw       : Bytes              -- the 128 bytes as accepted (R413)
  deriving DecidableEq, Repr

/-- A job context that is not FREE (R403). -/
structure Ctx where
  num       : Nat
  state     : CtxState
  desc      : Desc
  step      : BitVec 32
  stepsLeft : BitVec 32
  length    : Nat
  readyBeat : Nat
  stateAt   : Nat                -- STATE_BOUNDARY
  owner     : Nat                -- owning session
  tag       : BitVec 32          -- TAG of the JOB_SUBMIT
  quiet     : Bool               -- no job-end entry
  failCode  : Code := .ok
  failEvent : BitVec 32 := 0xFFFFFFFF
  kvDemoted : Bool := false
  refolded  : Bool := false
  group     : Bool := false
  cancelled : Bool := false
  interrupted : Bool := false
  replayable : Bool := true
  slot      : Option Nat := none
  placement : Option Nat := none -- 0 main, n + 1 refold table n
  digests   : List (Nat × BitVec 128) := []   -- running sums of the pass by layer (R327)
  logged    : Nat := 0           -- SEQ of the next digest log entry
  token     : Bool := false      -- the sampler has written this pass's token
  allocFails : Nat := 0          -- consecutive pass starts with a failed allocation (R187)
  pageWork  : Bool := false      -- its slot runs empty until its page work is done (R187)
  recomputing : Bool := false    -- its recompute image runs next (R192)
  starved   : Bool := false      -- its recompute pass found no slot for a dropped page, and runs empty (R187)
  groupSeq  : Nat := 0           -- START sequence (R420)
  pauseSeq  : Nat := 0
  deriving DecidableEq, Repr

/-- A pass in progress (R74, R406). -/
structure Pass where
  image     : BitVec 64
  placement : Nat                -- 0 main, n + 1 refold table n
  beat      : Nat                -- beats of the pass already run
  slots     : List (Nat × Nat)   -- (slot, context)
  engines   : List Nat           -- engines it occupies, a mirrored partner's included (R307)
  recompute : Bool := false      -- it recomputes pages for its one job (R192)
  taken     : List Nat := []     -- the slots that held a job at its first cycle (R76)
  ran       : List (Nat × Nat) := []   -- the kernels that have run: stack, record (R226)
  deriving DecidableEq, Repr

/-- A job command whose effect waits for a boundary (R391). -/
inductive CtxOp where
  | pause | cancel | resume
  deriving DecidableEq, Repr

/-- A pending job command and the command that asked for it. -/
structure CtxReq where
  op  : CtxOp
  ctx : Nat
  p   : Packet
  cls : Cls := .job              -- the class of the session that sent it
  deriving DecidableEq, Repr

/-- A save in progress (R412). -/
structure Save where
  ctx  : Nat
  area : Nat
  size : Nat
  p    : Packet
  copied : Bool := false
  deriving DecidableEq, Repr

/-- A restore in progress (R416). -/
structure Restore where
  ctx  : Ctx
  area : Nat
  p    : Packet
  maps : Option (List (Nat × Nat × Nat × BitVec 24)) := none -- layer, kind, index, page, once the pages are allocated
  copied : Bool := false
  deriving DecidableEq, Repr

/-- An image load or verification in progress (R387). -/
structure ImageOp where
  verify : Bool
  source : Nat
  size   : Nat
  p      : Packet
  deriving DecidableEq, Repr

/-! ## KV pages -/

/-- A page descriptor (R181) of a page that is not FREE. -/
structure Page where
  id       : BitVec 24
  state    : PageState
  fmt      : Nat
  scaled   : Bool
  home     : Nat
  homeScaled : Bool
  pinned   : Bool
  refs     : Nat
  owner    : Nat
  layer    : Nat
  kind     : Nat
  index    : Nat
  valid    : Nat                 -- TOKENS_VALID
  granules : Nat
  slot     : Nat                 -- linear address of the slot; 0 when DROPPED
  slot2    : Option (Nat × Nat) := none   -- the slot being filled while DEMOTING, and its granules
  copied   : Bool := false       -- its copy or demotion completed in the ending beat
  source   : Option (BitVec 24) := none   -- COPYING: the page it copies
  lastRead : Nat := 0
  bytes    : Nat := 0            -- bytes of the page in its home format
  fresh    : Bool := false       -- given its slot back at the start of a recompute pass (R192)
  deriving DecidableEq, Repr

/-- The page commands of R184. -/
inductive PageOp where
  | alloc | share | release
  deriving DecidableEq, Repr

/-- A page command accepted in the present beat. -/
structure PageReq where
  op  : PageOp
  p   : Packet
  cls : Cls := .job              -- the class of the session that sent it
  deriving DecidableEq, Repr

/-- A command that takes effect at a boundary: a job that is submitted, a command on a job, a page command. -/
inductive BoundaryCmd where
  | submit (c : Ctx)
  | job (r : CtxReq)
  | page (r : PageReq)
  deriving DecidableEq, Repr

/-! ## Engines -/

/-- A value of the Wide Common Form or of FP32, held exactly: (-1)^neg × m × 2^e, an infinity, or NaN. -/
inductive Val where
  | fin (neg : Bool) (m : Nat) (e : Int)
  | inf (neg : Bool)
  | nan
  deriving DecidableEq, Repr

/-- A weight tile in a weight register (R67, R68): 32 columns of raw elements and their scales. -/
structure Tile where
  fmt    : Nat
  scaled : Bool
  cols   : List (List Nat)       -- column n: its K elements in increasing K order
  scales : List (List Byte)      -- column n: its block scales
  bad    : Bool := false         -- read from a poisoned word (R529)
  deriving DecidableEq, Repr

/-- One array of an engine (R73, R78 to R81). `none` is the register of +0 elements of R530. -/
structure ArrayState where
  active  : Option Tile := none
  shadow  : Option Tile := none
  density : Nat := 0             -- columns computing at the start of the present hold (R81)
  down    : Bool := false        -- ramps down in the present hold (R81)
  cast    : Option Nat := none   -- absolute cycle of the last broadcast of the pass
  deriving DecidableEq, Repr

/-- A kernel that ends after its span (R223, R248): its stack, by how many Caldera cycles, and the declared last beat of its
image's pass, in which it counts and holds. -/
structure LateKernel where
  stack  : Nat
  cycles : Nat
  image  : BitVec 64
  beat   : Nat
  bound  : Option (KernelCode × Kernel × Nat) := none   -- the kernel and tensor base that bound its lateness by refresh (R223)
  deriving DecidableEq, Repr

/-- A completion on its way (R111): the bytes as they stood at the issue, from where, and to where. -/
structure Inflight where
  tag  : Option (BitVec 4)
  due  : Nat                     -- the cycle in which its last byte lands, its lateness included
  dest : Nat                     -- window offset
  old  : Bytes
  src  : List (Nat × Nat × Nat) := [] -- until its bytes are settled (R267), those of a stack or the hub: place, local address, bytes
  slots : List Nat := []
  poisoned : List Nat := []      -- the bytes, by place, that carry poisoned data (R529)
  number : Nat := 0              -- its bundle's place among those that the engine issued in the beat
  filled : Nat := 0              -- bytes that have landed (R65)
  since  : Nat := 0              -- scheduled stores of the beat before its issue
  late   : Nat := 0              -- cycles by which it lands after its due cycle
  home   : List (Nat × Nat) := [] -- the local addresses and bytes that it accesses in stacks (R272, R273)
  fence  : Bool := false         -- a FENCE: it lands 16 cycles after the last RMO it covers (R534)
  deriving DecidableEq, Repr

/-- An ARRIVE that waits for its bytes (R532). -/
structure Arrival where
  tag    : Option (BitVec 4)
  source : Nat
  remote : Bool                  -- the source is a group member
  offset : Nat
  count  : Nat
  got    : Nat
  due    : Nat
  dueBeat : Nat                  -- beats still to pass before the DUE's beat
  deriving DecidableEq, Repr

/-- A remote write that has been issued and not landed (R114). -/
structure RemoteWrite where
  source : Nat
  offset : Nat
  data   : Bytes
  land   : Nat                   -- the cycle in which its last byte lands
  number : Nat := 0              -- its place among the remote writes that the beat has sent
  filled : Nat := 0              -- bytes that have landed (R65)
  contexts : List Nat := []
  poisoned : List Nat := []      -- the bytes, by place, that carry poisoned data (R529)
  deriving DecidableEq, Repr

/-- An engine's state outside its registers and its SRAM (R64, R110, R119). -/
structure Engine where
  arrays   : List ArrayState := [{}, {}, {}, {}]
  tags     : List (BitVec 4 × Bool) := []   -- settings in order, newest first; true when landed
  hold     : Nat := 0            -- accumulated hold of the beat, cycles
  holding  : Option Nat := none  -- the stated cycle of the bundle that waits
  holdMask : BitVec 16 := 0      -- the tags it waits on
  holdFrom : Nat := 0            -- the cycle at which the hold began
  holdAt   : Nat := 0            -- DT at which the hold began, 2^-32 ns
  early    : List (Nat × Nat × Nat) := []   -- landed remote writes that no ARRIVE has matched yet: source, offset, bytes
  inflight : List Inflight := []
  arrivals : List Arrival := []
  incoming : List RemoteWrite := []
  next     : Nat := 0            -- bundles issued in the beat
  rmos     : List (Nat × Nat) := []   -- the beat's RMOs to this device: the bundle's place, the completion cycle (R534)
  lastStore : List Nat := []     -- the contexts that the engine's latest EPI or MWRITE serves (R14, R529)
  lastSpans : List (Nat × Nat) := []  -- what that bundle has stored outside engine windows: local address, bytes
  lastNumber : Nat := 0          -- that bundle's place among those issued
  badStores : List Nat := []     -- the store bundles of the beat whose transfer a link has poisoned (R14)
  errors   : List Nat := []      -- health time of recorded uncorrectable events (R82)
  passArray : Bool := false      -- has passed its array self-test since its fence took effect (R87)
  passSram : Bool := false       -- has passed its SRAM self-test since then
  fenceReq : Option (Bool × BitVec 4) := none  -- a fence (true, cause) or lift to apply at the boundary
  abandoned : Bool := false      -- its remaining bundles of the beat are discarded (R305)
  heldAt  : Bool := false        -- it stood at a bundle whose tag had not landed as the latest boundary came (R89)
  deriving DecidableEq, Repr

/-! ## What is under way within the beat (R65, R71, R72, R111 to R115) -/

/-- Work of a bundle that takes place in its engine at a cycle after the issue. A read happens as the cycle begins,
a write as it ends (R65). -/
inductive Task where
  /-- The AB read of row j of a ROWS bundle; what the bundle read for all its rows at the issue (R71, R148). -/
  | row (b : Bundle) (finds : List EccFind) (j : Nat) (common : Bytes)
  /-- The swap of the active and shadow registers of arrays (R73). -/
  | swap (arrays : BitVec 4)
  /-- The broadcast of row j: its elements after the prologue, its integers, whether they are poisoned. -/
  | cast (b : Bundle) (finds : List EccFind) (j : Nat) (elems : List Val) (ints : List Int) (bad : Bool)
  /-- The AM reads of row j's sums, array by array: the sums, whether they are poisoned. -/
  | sums (b : Bundle) (finds : List EccFind) (j : Nat) (cols : List (Nat × List Word × Bool))
  /-- A write of bytes at a window offset, the places of poisoned ones, the jobs that it serves. -/
  | put (off : Nat) (data : Bytes) (bad jobs : List Nat)
  /-- The same for the last bytes of a transfer that lands a tag: a bundle that awaits the tag reads them in this cycle (R166). -/
  | land (tag : Option (BitVec 4)) (off : Nat) (data : Bytes) (bad jobs : List Nat)
  /-- The next WS read of a WLOAD bundle for array k: what it has read, whether it is poisoned (R72). -/
  | weights (b : Bundle) (finds : List EccFind) (k : Nat) (got : Bytes) (bad : Bool)
  /-- The last write of a weight load into the shadow register of array k. -/
  | tile (k : Nat) (t : Tile)
  /-- The next AM read of an EPI issued at a cycle: the next row, the bytes of it already read, poisoned places. -/
  | epi (b : Bundle) (cycle number : Nat) (finds mem : List EccFind) (j : Nat) (got : Bytes) (bad : List Nat)
  /-- The next bytes of the completion of bundle `number` land. -/
  | fill (number : Nat)
  /-- The next bytes of remote write `number` land. -/
  | arrival (number : Nat)
  /-- The next read of an MREAD from an engine window. -/
  | pull (number a : Nat) (finds : List EccFind) (left : Nat)
  /-- An ATOMIC reaches its home (R140): its local address, its operands. -/
  | atomic (b : Bundle) (number a : Nat) (operands : Bytes) (mem : List EccFind)
  deriving DecidableEq, Repr

/-- A task with its engine, its cycle of the beat, and its rank within the cycle: reads, then fills, then remote writes
by source engine, then the engine's own EPU writes (R65). -/
structure Timed where
  cycle  : Nat
  rank   : Nat
  engine : Nat
  task   : Task
  deriving DecidableEq, Repr

/-- A scheduled store to a stack or to the hub in the present beat (R115): who, where, the bytes that stood there, and
when the store is visible. -/
structure SchedStore where
  engine  : Nat
  lin     : Nat
  old     : Bytes
  visible : Nat
  number  : Nat := 0             -- the bundle's place among those that the engine issued in the beat (R265)
  deriving DecidableEq, Repr

/-- The splits that an AM word of a K_ORDER 1 operation has taken (R97): weight tiles so far, and the sums of runs of
splits not yet paired, newest first, each with the number of splits in it. -/
structure KTree where
  tiles : Nat
  runs  : List (Nat × Word)
  deriving DecidableEq, Repr

/-- A 64-bit SRAM word that is poisoned (R66). -/
abbrev Poison := List Nat        -- local addresses of 8-byte words (engine SRAM) and 32-byte codewords (stacks)

/-! ## Codec engines -/

/-- An accepted frame of a stream (R432, R437). -/
structure Frame where
  number   : Nat
  p        : Packet
  forceKey : Bool
  endFlag  : Bool
  noStats  : Bool
  deadline : Option Nat          -- DT, 2^-32 ns
  picBase  : Nat
  picStride : Nat
  bsBase   : Nat
  bsSize   : Nat
  statsBase : Nat
  accepted : Nat                 -- acceptance order over all streams
  started  : Bool := false
  preempted : Bool := false
  dropped  : Bool := false
  deriving DecidableEq, Repr

/-- An open stream (R428 to R442). -/
structure Stream where
  num      : Nat
  owner    : Nat
  encode   : Bool
  codec    : Nat
  live     : Bool
  lowLatency : Bool
  dropLate : Bool
  stats    : Bool
  chroma   : Nat
  depth    : Nat
  engine   : Nat
  width    : Nat
  height   : Nat
  fpsNum   : Nat
  fpsDen   : Nat
  gop      : Nat
  irPeriod : Nat
  normalised : Bool
  elemFmt  : Nat
  statsFmt : Nat
  workBase : Nat
  workSize : Nat
  raw      : Bytes
  frames   : List Frame := []    -- accepted, oldest first
  count    : Nat := 0            -- frames accepted since the stream opened
  sinceKey : Nat := 0            -- pictures coded since the last key picture
  started  : Bool := false       -- a picture has been coded
  ended    : Bool := false
  damaged  : Bool := false
  errKind  : Nat := 0
  errPic   : Nat := 0xFFFFFFFF
  errCol   : Byte := 0xFF
  errRow   : Byte := 0xFF
  queue    : List Nat := []      -- pictures ready for output
  readied  : List Nat := []      -- every picture that has joined the queue (R436)
  recon    : List (Nat × Bytes) := []   -- encode: the pictures coded since the last key picture, by number, as a decoder holds them
  fullness : Option Nat := none  -- what the receiver's buffer model holds, in its units; none before the first picture (R438)
  closing  : Option Packet := none
  closingNoEntry : Bool := false -- closed by its session's close
  history  : List Bytes := []    -- what each completed frame gave the codec, oldest first (R444)
  deriving DecidableEq, Repr

/-! ## Time, groups -/

/-- The clocks (R83, R285, R310). -/
structure Clock where
  dt     : Nat := 0              -- device time in units of 2^-32 ns
  inc    : Nat := 0x100000000    -- what DT adds on each tick, in units of 2^-32 ns
  wall   : Nat := 0              -- wall time since reset, ns
  healthNs : Nat := 0            -- out-of-OFF time beyond the last whole second, ns
  health : Nat := 0              -- health time, s
  deriving DecidableEq, Repr

/-- The discipline (R287 to R292). -/
structure Discipline where
  state   : TimeState := .free
  good    : Nat := 0             -- consecutive samples within LOCK_NS
  bad     : Nat := 0             -- consecutive samples above UNLOCK_NS
  segs    : List (Nat × Nat) := []   -- stretches of LOCKED, newest first: increment, length in ns of wall time
  segAt   : Nat := 0             -- wall time at which the present stretch of LOCKED began
  everLocked : Bool := false
  lockedAt : Option Nat := none  -- DT when the device was last LOCKED
  holdoverAt : Nat := 0          -- DT when HOLDOVER was entered
  edgeAt  : Option Nat := none   -- DT of the last accepted PPS_IN edge
  formed  : Bool := false        -- the latest Sync has formed its sample
  stuck   : Bool := false        -- a stuck episode is already counted
  secUsed : Bool := false        -- TB_SEC_SET has been taken
  masters : List (PtpAnnounce × Nat) := []   -- the latest Announce of each master heard, and the DT at which it came
  master  : Option PtpAnnounce := none
  announceAt : Nat := 0
  syncAt  : Nat := 0
  sync    : Option (PtpMsg × Int) := none   -- a two-step Sync that waits, and its receive timestamp
  delayReq : Option (BitVec 16 × Nat) := none  -- sequence and send timestamp of the latest Delay_Req
  delaySeq : BitVec 16 := 0
  delayAt : Nat := 0             -- DT of the latest Delay_Req
  delay   : Option Int := none   -- the measured mean path delay, 2^-32 ns
  lastSync : Option (Int × Int) := none     -- master send time and receive time of the latest Sync
  syncs   : List (Nat × Nat × Nat) := []    -- (port, DT second, Sync messages in it)
  ppsHigh : Bool := false        -- PPS_OUT
  ppsAt   : Nat := 0             -- DT of the latest rise
  deriving DecidableEq, Repr

/-- Membership of a locked group (R295 to R305, R418 to R423). -/
structure Group where
  epoch   : Nat                  -- DT of group beat 0, 2^-32 ns
  period  : Nat                  -- P in units of 2^-16 ns
  fMin    : Nat
  delay   : Nat                  -- D
  members : Nat
  index   : Nat
  gm      : BitVec 64
  ring    : Nat
  block   : Nat
  nodes   : List (BitVec 16)     -- NODE_ID by member index
  started : Bool := false        -- membership has begun with group beat 0
  beat    : Nat := 0             -- the next group beat to start
  sigma   : Nat := 0
  applied : List Nat := []       -- targets applied
  atBoundary : Bool := false     -- the boundary before `beat` has occurred
  p       : Packet
  leaving : Option Packet := none
  left    : Bool := false        -- the leave has taken effect and waits for its sessions
  startSeq : Nat := 0
  pauseSeq : Nat := 0
  deriving DecidableEq, Repr

/-! ## Power, flash, tests, pins -/

/-- The latest poll of a rail (R476, R494). -/
structure Rail where
  index  : Nat
  status : BitVec 16 := 0
  voutUv : Nat := 0
  ioutMa : Nat := 0
  poutMw : Nat := 0
  tempC  : Int := 0
  silent : Nat := 0              -- consecutive transactions without acknowledgement
  fault  : Bool := false         -- its latest STATUS_WORD held a fault bit, or it is silent (R476, R477)
  polledAt : Nat := 0
  deriving DecidableEq, Repr

/-- The power policy's own state (R310, R481 to R486). -/
structure Power where
  phase   : Phase := .off
  tripped : Bool := false        -- the THERM_TRIP_N latch
  alert   : Bool := false        -- VR_ALERT_N is asserted
  causes  : BitVec 5 := 0        -- causes that hold now
  recorded : BitVec 5 := 0       -- causes recorded since LIMITED was entered
  clearSince : Option Nat := none -- wall time since which every recorded cause is clear
  response : Option Nat := none  -- the evaluation at which a response interval began
  evals   : Nat := 0
  estimate : Nat := 0            -- the latest mean estimate, W
  calibrated : Nat := 0          -- READ_POUT of the latest calibration, W
  sensors : Sensors := {}
  rampUntil : Option Nat := none -- the beat count at which RAMP mode ends; none: until ready
  ramp    : Bool := true         -- RAMP mode
  rails   : List Rail := []
  enabled : List Nat := []       -- the rails that the device has enabled (R474)
  vddF    : Nat := 16            -- the F whose table value VDD_Q0 to VDD_Q3 are set to (R475)
  stageAt : Nat := 0             -- wall time at which stage 6 began
  stageMs : List Nat := []       -- the stage times of the start-up, ms
  pollAt  : Nat := 0             -- wall times of the latest poll, calibration and scrub
  calAt   : Nat := 0
  scrubAt : Nat := 0
  patrols : List (Nat × Nat) := []   -- (stack, DT of its latest patrol)
  refreshAt : Nat := 0           -- beat count of the latest reading of the refresh rates
  dramHot : List Nat := []       -- channels 16s + c whose die is above its limit
  tripLog : Bool := false        -- a trip to log at the next start-up
  outside : Bool := false        -- a regulator has turned its rail off: from here on the manual promises only the trip and the filters (R2, R477)
  deriving DecidableEq, Repr

/-- A boot record copy (R501). -/
structure BootRec where
  valid  : Bool := false
  slotB  : Bool := false
  config1 : Bool := false
  gen    : BitVec 32 := 0
  fwMin  : Nat := 0
  configMin : Nat := 0
  configDigest : BitVec 256 := 0
  deriving DecidableEq, Repr

/-- A fence that the health record holds (R82, R246, R445). -/
inductive FenceRec where
  | engine (e : Nat) (cause : BitVec 4)
  | caldera (u : Nat) (cause : BitVec 4)
  | codec (v : Nat) (cause : BitVec 4)
  deriving DecidableEq, Repr

/-- The health record (R82, R83, R274). -/
structure Health where
  time     : Nat := 0
  fences   : List FenceRec := []
  engineErrs : List (Nat × Nat) := []   -- (engine, health time)
  unitErrs : List (Nat × Nat) := []     -- (Caldera unit, health time)
  regionErrs : List (Nat × Nat) := []   -- (region of 1 MiB, health time)
  retired  : List Nat := []             -- regions in the order retired
  deriving DecidableEq, Repr

/-- The flash and what is being done to it (R500 to R511). -/
structure Flash where
  rec0   : BootRec := {}
  rec1   : BootRec := {}
  fwA    : Bytes := []
  fwB    : Bytes := []
  config0 : Bytes := []
  config1 : Bytes := []
  health : Health := {}          -- the valid health record
  runB   : Bool := false         -- the slot that runs
  inEffect1 : Bool := false      -- the configuration copy in effect
  blob   : Bytes := []           -- the blob in effect
  stage  : Option Packet := none -- an FW_STAGE in progress
  commit : Option Packet := none -- an FW_COMMIT in progress
  healthWrite : Bool := false    -- a health record write in progress
  healthNext : Health := {}      -- what that write records
  healthThen : Option Health := none  -- what the write that waits behind it records
  staged0 : Option (Nat × Bytes) := none -- staged firmware: version and image
  staged1 : Option (Nat × Bytes) := none -- staged configuration: SEQUENCE and blob
  fwPending : Bool := false
  configPending : Bool := false
  restartAt : Option Nat := none -- wall time of the reset of a commit with RESTART
  noJobs : Bool := false         -- a RESTART commit has been accepted (R510)
  deriving DecidableEq, Repr

/-- A DIAG_RUN in progress (R514). -/
structure DiagRun where
  test  : Nat
  port  : Nat
  first : Nat
  count : Nat
  iters : Nat
  base  : Nat
  size  : Nat
  mode  : Nat
  pattern : Nat
  p     : Packet
  started : Bool := false
  targets : List Nat := []       -- the targets not fenced when the test began (R517)
  deriving DecidableEq, Repr

/-- The latest MEMORY and SERDES records (selectors 5 and 6; R519, R520). -/
structure DiagLog where
  channels : List (Nat × Nat × Nat × Nat) := []
  lanes    : List (Nat × Bool × Nat) := []
  deriving DecidableEq, Repr

/-- TAP instructions (R521). -/
inductive TapInstr where
  | extest | samplePreload | idcode | extestPulse | extestTrain | clamp | highz | bypass
  deriving DecidableEq, Repr

/-- The TAP (R521): the instruction register, the boundary chain and the pins it drives. -/
structure Tap where
  ir    : TapInstr := .idcode
  chain : List Bool := []        -- preloaded values
  driven : Option (List Bool) := none   -- what the instruction drives while RESET_N is low
  released : Bool := false       -- HIGHZ, which releases the pins while RESET_N is low
  resetLow : Bool := false       -- RESET_N is low
  pwrGood : Bool := true
  deriving DecidableEq, Repr

/-- An event record (R396): DETAIL bytes 2 to 15, and the context of bytes 0 and 1 when bit 15 is set. -/
structure Event where
  seq      : BitVec 32
  code     : BitVec 12
  ctx      : Option (BitVec 16)
  unit     : BitVec 16
  boundary : Nat
  detail   : Bytes
  more     : Bytes := []         -- what the log records beside the DETAIL of R524: layer and digests (R309)
  deriving DecidableEq, Repr

/-- A disagreement in a voted register: copy (0, 1 or 2; 3 the security core's) and the word it holds. -/
abbrev Vote := Upset

/-- A line of the Quadrant Cache of a quadrant (R258 to R260), newest use first in `State.qc`. -/
structure QcLine where
  line : Nat                     -- linear address / 128
  deriving DecidableEq, Repr

/-- Device counters (R121, R397). -/
structure Counters where
  delayed : Nat := 0
  delayCycles : Nat := 0
  slips   : Nat := 0
  deriving DecidableEq, Repr

/-- What every reply shows of the snapshot boundary (R373, R398 to R400). -/
structure Snap where
  health   : Nat := 0
  time     : TimeState := .free
  headroom : Nat := 0
  demotion : Bool := false
  stampDt  : Nat := 0            -- DT stamp of the boundary, 2^-32 ns
  ramp     : Bool := true        -- RAMP mode (R89)
  running  : List Nat := []      -- engines of passes in progress (R89)
  holding  : List Nat := []      -- engines that stood at a bundle whose tag had not landed (R89)
  source   : Nat := 0            -- TB_CTRL.SOURCE
  offset   : Word := 0           -- TB_OFFSET
  counters : Counters := {}
  rails    : List Rail := []
  tests    : DiagLog := {}
  deriving DecidableEq, Repr

/-- The state of the device. -/
structure State where
  pending  : List Instr := []              -- the commands that wait, first in, first out
  out      : List Output := []             -- what left the device in the latest step (the model's own)
  freeCtr  : Nat := 0                      -- how many free values have been drawn (the model's own)
  clock    : Clock := {}
  beats    : Nat := 0                      -- beats since reset (TB_BEAT_CNT)
  regs     : List (Nat × Word) := []       -- registers that differ from their reset value
  votes    : List Vote := []
  noticeNext : Nat := 0                    -- NOTICE causes met since the last boundary (R467)
  regsNext : List (Nat × Word) := []       -- writes that take effect at the next boundary
  mem      : List Host.Cell := []          -- stack, engine SRAM and hub SRAM, by linear local address
  poison   : Poison := []
  taint    : List Nat := []                -- bytes of engine SRAM that hold poisoned data (R529)
  soft     : List Nat := []                -- words of engine SRAM with a single-bit error, which every read corrects (R66)
  flitReads : List Nat := []               -- sessions whose next READ's data a link has poisoned on its way (R14)
  agenda   : List Timed := []              -- work of the beat that is under way, soonest first (R65)
  stores   : List SchedStore := []         -- the beat's scheduled stores, newest first (R115)
  lateEnd  : Nat := 0                      -- the latest cycle of the beat in which a late effect took place (R120)
  trees    : List (Nat × KTree) := []      -- AM words of K_ORDER 1 operations, by linear address (R97)
  moves    : Nat := 0                      -- remote writes sent in the beat
  qc       : List QcLine := []
  ports    : List Iface := []
  saks     : List Sak := []
  pauses   : List Pause := []
  sessions : List (Nat × Session) := []    -- open sessions, by number; 4096 + j: the half that carries REQs to member j
  xoff     : Bool := false                 -- PFC XOFF has been sent
  heldOut  : List HeldFrame := []          -- frames that wait for a paused priority or for a key, oldest first
  bootCount : List (Nat × Nat × Nat) := [] -- (port, DT second, BOOT packets answered in it)
  posts    : List Post := []               -- entries of the boundary being taken
  lateReplies : List LateReply := []       -- replies of the boundary being taken
  challenges : List Challenge := []
  reservations : List Reservation := []
  bootMemo : List BootMemo := []
  deferred : List Deferred := []
  lateCmds : List Deferred := []           -- commands that waited behind a FENCE, at the boundary being taken
  turns    : List (Nat × Nat) := []        -- (16 × port + class, the session last served), R362
  parting  : List Parting := []            -- RSPs that closed sessions still owe, oldest first
  node     : Option (BitVec 16) := none    -- the device's own node ID
  nodes    : List Node := []
  group    : Option Group := none
  images   : List Image := []
  imageOps : List ImageOp := []
  ctxs     : List Ctx := []                -- contexts that are not FREE
  waiting  : List BoundaryCmd := []        -- accepted commands that take effect at a boundary, oldest first (R370)
  starting : List Nat := []                -- the jobs of the passes that start at the boundary being taken (R192)
  passes   : List Pass := []
  saves    : List Save := []
  restores : List Restore := []
  pages    : List Page := []
  engines  : List (Nat × Engine) := []
  unitErrs : List (Nat × Nat) := []        -- Caldera datapath errors: (unit, health time)
  unitCause : List (Nat × BitVec 4) := []   -- the cause of each fenced Caldera unit's fence
  codecCause : List (Nat × BitVec 4) := []  -- the cause of each fenced codec engine's fence
  unitPass : List Nat := []                -- fenced Caldera units that have passed their self-test since
  codecPass : List Nat := []               -- fenced codec engines that have passed since
  fencedUnits : List Nat := []             -- unit fences and lifts as in effect since the last boundary
  calNext  : List (Nat × BitVec 16) := []  -- CAL_FENCE values to apply at the boundary
  codecNext : List Nat := []               -- codec engines that a self-test fences at the boundary
  lateStacks : List Nat := []              -- stacks with a late scheduled request in the beat (R284)
  lates    : List LateKernel := []         -- kernels that end late in the present beat or a later one
  fails    : List (Nat × Code × BitVec 32) := []  -- contexts to fail at the boundary
  pauseCtx : List (Nat × Nat) := []        -- contexts to interrupt at the boundary, with the rule
  regionErrs : List (Nat × Nat) := []      -- uncorrectable codewords: (region, health time)
  retired  : List Nat := []                -- retired regions, oldest first
  withheld : List Nat := []                -- stacks withheld for the current start-up
  retireNext : List Nat := []
  streams  : List Stream := []
  frameSeq : Nat := 0                      -- frames accepted, over all streams
  running  : List (Nat × Nat) := []        -- (codec engine, stream) whose frame it runs
  disc     : Discipline := {}
  power    : Power := {}
  refresh  : List (Nat × BitVec 2) := []   -- channel rates read, set at the next boundary
  flash    : Flash := {}
  atts     : List Packet := []             -- ATTEST commands in progress
  reportSeq : BitVec 32 := 0
  diag     : Option DiagRun := none
  diagLog  : DiagLog := {}
  tap      : Tap := {}
  events   : List Event := []              -- newest first, at most 16,384
  nextSeq  : BitVec 32 := 1
  counters : Counters := {}
  snap     : Snap := {}
  mirrorNext : List (Nat × Bool) := []     -- QUAD_MIRROR.ENABLE writes that wait
  mirrorSums : List (Nat × Nat × BitVec 128) := []  -- the partner's digests: (context, layer, sum)
  correcting : List Nat := []              -- codewords whose corrected bytes wait to be written back
  deriving DecidableEq, Repr

/-- The machine right after reset (R490): OFF, every register at its reset value, no memory listed, no
session, no job. PWR_STATUS.STAGE reads 1 and UTX_GEYSER_* read full through their reset values. -/
def State.reset : State := {}

end Sys2Proof.Machine
end

