-- ==== Sys2Proof/Machine/Bits.lean ====
section
/-! DEFINITION. Little-endian fields of byte strings (R5), bit fields of words, completion-code and
state encodings (R374, R391), and the small arithmetic the rules share. -/

namespace Sys2Proof.Machine

open Sys2Proof

/-- ⌈a / b⌉. -/
def ceilDiv (a b : Nat) : Nat := (a + (b - 1)) / b

/-- a rounded up to a multiple of b. -/
def roundUp (a b : Nat) : Nat := ceilDiv a b * b

/-- The little-endian value of a byte string (R5). -/
def leNat : Bytes → Nat
  | [] => 0
  | b :: t => b.toNat + 256 * leNat t

/-- The k-byte little-endian encoding of n (R5). -/
def toLE (n : Nat) : Nat → Bytes
  | 0 => []
  | k + 1 => BitVec.ofNat 8 n :: toLE (n / 256) k

/-- The field of `size` bytes at byte offset `off`; bytes beyond the string read as zero. -/
def field (b : Bytes) (off size : Nat) : Nat := leNat ((b.drop off).take size)

/-- The bytes from `off` on, `size` of them. -/
def slice (b : Bytes) (off size : Nat) : Bytes := (b.drop off).take size

/-- Whether every byte from `off` on, `size` of them, is zero. -/
def zeroAt (b : Bytes) (off size : Nat) : Bool := (slice b off size).all (· == 0)

/-- A signed k-byte little-endian field. -/
def sfield (b : Bytes) (off size : Nat) : Int :=
  let n := field b off size
  if n < 2 ^ (8 * size - 1) then n else (n : Int) - 2 ^ (8 * size)

/-- A list of bytes with those from `off` on replaced by `x`. -/
def patch (b : Bytes) (off : Nat) (x : Bytes) : Bytes :=
  b.take off ++ x ++ b.drop (off + x.length)

/-- Pads with zero bytes, or cuts, to n bytes. -/
def fit (n : Nat) (b : Bytes) : Bytes := (b ++ List.replicate (n - b.length) 0).take n

/-- Bits hi:lo of a word, as a number. -/
def getF (w : Word) (hi lo : Nat) : Nat := (w.toNat >>> lo) % 2 ^ (hi + 1 - lo)

/-- A word with bits hi:lo set to v. -/
def setF (w : Word) (hi lo v : Nat) : Word :=
  let width := hi + 1 - lo
  let mask : Word := BitVec.ofNat 32 ((2 ^ width - 1) <<< lo)
  (w &&& ~~~mask) ||| (BitVec.ofNat 32 ((v % 2 ^ width) <<< lo))

/-- Bit i of a number. -/
def bit (n i : Nat) : Bool := n.testBit i

/-- A count that stops at `top`. -/
def satAdd (top a b : Nat) : Nat := min top (a + b)

/-- The bits of a mask that are set, in ascending order. -/
def bitsOf (w n : Nat) : List Nat := (List.range w).filter n.testBit

/-- How many of the low w bits are set. -/
def popCount (w n : Nat) : Nat := (bitsOf w n).length

/-- `a` is ahead of or equal to `b` in serial arithmetic modulo 2^32 (R348). -/
def serialGe (a b : BitVec 32) : Bool := (a - b).toNat < 2 ^ 31

/-- `a` is strictly ahead of `b` in serial arithmetic modulo 2^32 (R348). -/
def serialGt (a b : BitVec 32) : Bool := a != b && serialGe a b

/-- The 8-bit value of a completion code (R374). -/
def codeByte : Code → Byte
  | .ok => 0x00
  | .accepted => 0x01
  | .busy => 0x02
  | .badOpcode => 0x10
  | .badParam => 0x11
  | .badLength => 0x12
  | .priv => 0x20
  | .busError => 0x21
  | .noContext => 0x30
  | .noPages => 0x31
  | .noCredit => 0x32
  | .imageInvalid => 0x40
  | .signatureFail => 0x41
  | .aidMismatch => 0x42
  | .refoldUnavailable => 0x43
  | .streamDamaged => 0x50
  | .timeUnlocked => 0x60
  | .eccUncorrectable => 0x70
  | .internal => 0x7F

/-- The completion code of an 8-bit value; a reserved value reads as INTERNAL (R374). -/
def codeOf (b : Byte) : Code :=
  (([.ok, .accepted, .busy, .badOpcode, .badParam, .badLength, .priv, .busError, .noContext, .noPages,
    .noCredit, .imageInvalid, .signatureFail, .aidMismatch, .refoldUnavailable, .streamDamaged,
    .timeUnlocked, .eccUncorrectable] : List Code).find? (fun c => codeByte c == b)).getD .internal

/-- The state code of R391. -/
def ctxStateByte : CtxState → Nat
  | .free => 0
  | .ready => 1
  | .running => 2
  | .paused => 3
  | .saved => 4
  | .done => 5
  | .failed => 6

/-- The TIME field (R290, R398). -/
def timeByte : TimeState → Nat
  | .free => 0
  | .acquiring => 1
  | .locked => 2
  | .holdover => 3

/-- PWR_STATUS.STATE (R495): 0 during start-up. -/
def phaseField : Phase → Nat
  | .off | .starting | .failed => 0
  | .standby => 1
  | .idle => 2
  | .active => 3
  | .limited => 4

/-- The class code of R380. -/
def clsByte : Cls → Nat
  | .owner => 0
  | .operator => 1
  | .job => 2
  | .peer => 3

/-- The code of R181 for a page state. -/
def pageStateByte : PageState → Nat
  | .free => 0
  | .live => 1
  | .copying => 2
  | .demoting => 3
  | .demoted => 4
  | .dropped => 5

/-- The Caldera kernel code (R232). -/
def kernelByte : KernelCode → Nat
  | .samplerStep => 1
  | .guidance => 2
  | .optim => 3
  | .reduce => 4
  | .quantise => 5
  | .transpose => 6
  | .gather => 7
  | .scatter => 8
  | .accumulate => 9

/-- ⌊log2 n⌋, and 0 for 0. -/
def log2 (n : Nat) : Nat := Nat.log2 n

/-- One second of device time in units of 2^-32 ns. -/
def secondDt : Nat := 1000000000 * 2 ^ 32

/-- A signed field of n bits. -/
def signed (n v : Nat) : Int := if v < 2 ^ (n - 1) then v else (v : Int) - 2 ^ n

end Sys2Proof.Machine
end

