-- ==== Sys2Proof/Machine/Sparse.lean ====
section
/-! DEFINITION. Sparse tables with natural keys in one canonical form: keys strictly rising, and no entry
equal to what an unlisted key reads as. Memory, the register file and the engines are held so. -/

namespace Sys2Proof.Machine

/-- What key k holds, the default `d k` when it is not listed. -/
def sget {α : Type} (d : Nat → α) (l : List (Nat × α)) (k : Nat) : α :=
  match l with
  | [] => d k
  | (a, v) :: t => if a = k then v else sget d t k

/-- The table without key k. -/
def sdel {α : Type} (l : List (Nat × α)) (k : Nat) : List (Nat × α) :=
  match l with
  | [] => []
  | (a, v) :: t => if a = k then t else if k < a then (a, v) :: t else (a, v) :: sdel t k

/-- The table with key k holding v, whatever v is. -/
def sput {α : Type} (l : List (Nat × α)) (k : Nat) (v : α) : List (Nat × α) :=
  match l with
  | [] => [(k, v)]
  | (a, w) :: t => if a = k then (k, v) :: t else if k < a then (k, v) :: (a, w) :: t else (a, w) :: sput t k v

/-- The table after key k is given v: writing what an unlisted key reads as removes the entry. -/
def sset {α : Type} [DecidableEq α] (d : Nat → α) (l : List (Nat × α)) (k : Nat) (v : α) : List (Nat × α) :=
  if v = d k then sdel l k else sput l k v

/-- The canonical form: keys strictly rising, no entry at its default. -/
def swf {α : Type} [DecidableEq α] (d : Nat → α) : List (Nat × α) → Bool
  | [] => true
  | [(a, v)] => v != d a
  | (a, v) :: (b, w) :: t => v != d a && decide (a < b) && swf d ((b, w) :: t)

/-- The entry of key k, when it is listed. -/
def sfind {α : Type} (l : List (Nat × α)) (k : Nat) : Option α :=
  match l with
  | [] => none
  | (a, v) :: t => if a = k then some v else sfind t k

end Sys2Proof.Machine
end

