-- ==== Sys2Proof/Machine/Regs.lean ====
section
/-! DEFINITION. Register space as data: for every implemented word its privilege level (R451) and its
fields with their access and reset value, table by table as the chapters print them; and what a read
returns and a write leaves, the same for every register (R6, R448 to R454). -/

namespace Sys2Proof.Machine

open Sys2Proof

/-- Access of a field (the manual's register tables). `w1c` clears its whole field, `w1b` bit by bit. -/
inductive Access where
  | ro | rw | wo | w1c | w1b | rwv
  deriving DecidableEq, Repr

/-- Privilege levels (R451). -/
inductive Level where
  | opn | operatorWrite | ownerWrite | guarded
  deriving DecidableEq, Repr

/-- A field of a register: bits hi:lo, its access, its reset value. -/
structure Fld where
  hi    : Nat
  lo    : Nat
  acc   : Access
  reset : Nat := 0
  deriving DecidableEq, Repr

/-- A register: its level and its fields. Bits in no field are reserved (R6). -/
structure Reg where
  level  : Level
  fields : List Fld
  deriving DecidableEq, Repr

def ro (hi lo : Nat) (reset : Nat := 0) : Fld := ⟨hi, lo, .ro, reset⟩
def rw' (hi lo : Nat) (reset : Nat := 0) : Fld := ⟨hi, lo, .rw, reset⟩
def rwv (hi lo : Nat) (reset : Nat := 0) : Fld := ⟨hi, lo, .rwv, reset⟩
def wo (hi lo : Nat) : Fld := ⟨hi, lo, .wo, 0⟩
def w1c (hi lo : Nat) : Fld := ⟨hi, lo, .w1c, 0⟩
def w1b (hi lo : Nat) : Fld := ⟨hi, lo, .w1b, 0⟩

/-- A register of level OPERATOR-WRITE, the level of a register whose rule names none (R452). -/
def opw (fs : List Fld) : Reg := ⟨.operatorWrite, fs⟩
def ownw (fs : List Fld) : Reg := ⟨.ownerWrite, fs⟩
def grd (fs : List Fld) : Reg := ⟨.guarded, fs⟩

/-- The register of an offset within a block's table. -/
def regIn (t : List (Nat × Reg)) (off : Nat) : Option Reg := sfind t off

/-- DEV block (R466, R467, R469), by offset. -/
def devTable : List (Nat × Reg) :=
  [ (0x000, opw [ro 31 24 0x01, ro 15 0 0x0009])          -- DEV_ID
  , (0x004, opw [ro 31 0 0x00010001])                     -- DEV_AID
  , (0x008, opw [ro 31 0]), (0x00C, opw [ro 31 0])        -- DEV_UID_LO, DEV_UID_HI
  , (0x010, opw [ro 31 16, ro 0 0])                       -- DEV_FW
  , (0x020, opw [ro 31 28])                               -- DEV_HEALTH
  , (0x024, ownw [w1b 8 0])                               -- DEV_NOTICE
  , (0x028, opw [ro 4 0])                                 -- DEV_REPLACE
  , (0x030, opw [w1c 31 16, w1c 15 8])                    -- DEV_VOTE
  , (0x034, opw [ro 23 0])                                -- DEV_VOTE_LAST
  , (0x040, opw [ro 31 0]), (0x044, opw [ro 31 0]), (0x048, opw [ro 31 0]), (0x04C, opw [ro 31 0])
  , (0x050, opw [ro 31 0]), (0x054, opw [ro 31 0]), (0x058, opw [ro 31 0]), (0x05C, opw [ro 31 0])
  , (0x060, opw [ro 27 24, ro 23 16, ro 8 0 0x100]) ]     -- DEV_USABLE

/-- SEC boot and key registers (R513). -/
def secTable : List (Nat × Reg) :=
  [ (0x0, opw [ro 31 16, ro 2 2, ro 1 1, ro 0 0])         -- SEC_BOOT
  , (0x4, opw [ro 31 0])                                  -- SEC_RECORD
  , (0x8, opw [ro 31 0])                                  -- SEC_CONFIG
  , (0xC, opw [ro 3 2, ro 1 1, ro 0 0]) ]                 -- SEC_FLASH

/-- A protection map entry (R462), by offset within the entry. -/
def protTable : List (Nat × Reg) :=
  [ (0x00, grd [rwv 31 12]), (0x04, grd [rwv 15 0]), (0x08, grd [rwv 31 12]), (0x0C, grd [rwv 15 0])
  , (0x10, grd [rwv 31 31, rwv 30 30, rwv 27 16, rwv 7 0]) ]

/-- PWR block (R495). -/
def pwrTable : List (Nat × Reg) :=
  [ (0x000, grd [rwv 31 31, rwv 30 30, rwv 5 0 0x20])     -- PWR_CTRL
  , (0x008, grd [rwv 31 20 0x960, rwv 19 8 0x4B0, rwv 7 0 0x64])  -- PWR_LIMIT
  , (0x010, grd [rwv 7 0 0x64])                           -- PWR_THERM
  , (0x020, opw [ro 31 28, ro 27 24 1, ro 23 16, ro 5 0 0x20])    -- PWR_STATUS
  , (0x028, ownw [w1c 31 31, ro 15 0])                    -- PWR_TRIP
  , (0x030, opw [ro 31 24, ro 23 16, ro 15 8])            -- PWR_TEMP
  , (0x038, opw [ro 31 16, ro 15 0])                      -- PWR_POWER
  , (0x040, opw [w1c 31 16, w1c 15 8, w1c 7 0]) ]         -- PWR_EVENTS

/-- TB block (R311). -/
def tbTable : List (Nat × Reg) :=
  [ (0x000, grd [rwv 15 8, rwv 4 4, rwv 3 3, rwv 1 0])    -- TB_CTRL
  , (0x008, opw [ro 31 28, ro 23 23, ro 22 22])           -- TB_STATUS
  , (0x010, opw [ro 31 0]), (0x014, opw [ro 15 0])        -- TB_DT_SEC_LO, TB_DT_SEC_HI
  , (0x018, opw [ro 29 0]), (0x01C, opw [ro 15 0])        -- TB_DT_NS, TB_DT_FRAC
  , (0x020, grd [rw' 31 0]), (0x024, grd [rw' 15 0])      -- TB_SEC_SET_LO, TB_SEC_SET_HI
  , (0x028, grd [rwv 31 16 0x03E8, rwv 15 0 0x0064])      -- TB_LOCK
  , (0x02C, grd [rwv 31 0 0x3840])                        -- TB_HOLDOVER
  , (0x030, opw [ro 31 0])                                -- TB_OFFSET
  , (0x038, opw [w1c 31 16, w1c 15 0])                    -- TB_PPS_STAT
  , (0x03C, opw [w1c 31 16, w1c 15 0])                    -- TB_PTP_STAT
  , (0x040, opw [ro 31 26, ro 25 19, w1c 15 0])           -- TB_GROUP
  , (0x044, grd [rwv 15 0 0x0064])                        -- TB_GROUP_HOLD
  , (0x080, opw [ro 31 0]), (0x084, opw [ro 31 0])        -- TB_BEAT_CNT_LO, TB_BEAT_CNT_HI
  , (0x088, opw [ro 31 0]), (0x08C, opw [ro 15 0])        -- TB_BEAT_SEC_LO, TB_BEAT_SEC_HI
  , (0x090, opw [ro 29 0]) ]                              -- TB_BEAT_NS

/-- ETH block of a port (R366), without the interface registers. -/
def ethTable : List (Nat × Reg) :=
  [ (0x000, grd [rwv 31 24, rwv 15 2 0x2400, rwv 1 0])    -- ETH_CTRL
  , (0x008, opw [ro 15 8, ro 5 4, ro 3 0])                -- ETH_STATUS
  , (0x010, grd [rwv 15 8, rwv 7 0])                      -- ETH_LANES
  , (0x020, opw [ro 31 0]), (0x024, opw [ro 31 0])        -- ETH_FEC_CORR, ETH_FEC_UNCORR
  , (0x030, opw [ro 31 0]), (0x034, opw [ro 31 0])        -- ETH_RX_FRAMES, ETH_TX_FRAMES
  , (0x038, opw [w1c 31 16, w1c 15 0])                    -- ETH_RX_DROPS
  , (0x03C, opw [ro 31 0])                                -- ETH_MACSEC_DROPS
  , (0x040, grd [rwv 15 0]) ]                             -- ETH_TS_ADJ

/-- ETH_IF registers of an interface (R366), from its base. -/
def ethIfTable : List (Nat × Reg) :=
  [ (0x00, grd [rwv 31 0]), (0x04, grd [rwv 15 0])        -- ETH_IF_MAC_LO, ETH_IF_MAC_HI
  , (0x08, grd [rwv 21 16, rwv 15 15, rwv 14 12, rwv 11 0])  -- ETH_IF_VLAN
  , (0x0C, grd [rwv 31 0])                                -- ETH_IF_IPV4
  , (0x10, grd [rwv 31 0]), (0x14, grd [rwv 31 0]), (0x18, grd [rwv 31 0]), (0x1C, grd [rwv 31 0])
  , (0x20, grd [rwv 31 31, rwv 30 30, rwv 1 0]) ]         -- ETH_IF_MACSEC

/-- ETH_SAK registers of an interface (R366), from its base: twelve write-only words. -/
def ethSakTable : List (Nat × Reg) :=
  [ (0x00, grd [wo 31 0]), (0x04, grd [wo 31 0]), (0x08, grd [wo 31 0]), (0x0C, grd [wo 31 0])
  , (0x10, grd [wo 31 0]), (0x14, grd [wo 31 0]), (0x18, grd [wo 31 0]), (0x1C, grd [wo 31 0])
  , (0x20, grd [wo 31 0]), (0x24, grd [wo 31 0]), (0x28, grd [wo 31 0])
  , (0x2C, grd [wo 31 16, wo 1 0]) ]

/-- UTX block (R367). -/
def utxTable : List (Nat × Reg) :=
  [ (0x000, grd [rwv 23 16 0x04, rwv 15 0 0xC8F0])        -- UTX_CTRL
  , (0x004, grd [rwv 23 16 0x10, rwv 15 0 0x0040])        -- UTX_RTO
  , (0x008, opw [ro 16 16, ro 15 0])                      -- UTX_NODE
  , (0x010, opw [ro 12 0])                                -- UTX_SESSIONS
  , (0x018, opw [ro 31 16 0x1800, ro 15 0 0x1400])        -- UTX_GEYSER_RX
  , (0x01C, opw [ro 15 0 0x0800])                         -- UTX_GEYSER_TX
  , (0x020, opw [w1c 31 16, w1c 15 0])                    -- UTX_RETX
  , (0x024, opw [w1c 31 16, w1c 15 0])                    -- UTX_DROPS
  , (0x028, opw [w1c 31 16, w1c 15 0])                    -- UTX_FAILS
  , (0x02C, opw [ro 31 0]) ]                              -- UTX_RETX_PKTS

/-- CTX block (R77, R424). -/
def ctxTable : List (Nat × Reg) :=
  [ (0x000, opw [ro 16 0 0x10000])                        -- CTX_COUNT
  , (0x100, opw [rw' 15 0 0x0200]) ]                      -- CTX_BATCHWAIT

/-- KV block (R197 to R199), without the per-stack registers. -/
def kvTable : List (Nat × Reg) :=
  [ (0x000, ownw [rwv 31 31 1, rwv 30 30 1, rw' 23 16 0x04])  -- KV_CTRL
  , (0x010, opw [ro 31 24, ro 23 0]) ]                    -- KV_STAT

/-- OPAL block (R216). -/
def opalTable : List (Nat × Reg) :=
  [ (0x000, opw [ro 15 8 0x0C, ro 7 0 0x01])              -- OPAL_ID
  , (0x100, opw [rw' 31 0]), (0x104, opw [rw' 31 0]), (0x108, opw [rw' 31 0]), (0x10C, opw [rw' 31 0])
  , (0x110, opw [rw' 31 0]), (0x114, opw [rw' 31 0]), (0x118, opw [rw' 31 0]), (0x11C, opw [rw' 31 0])
  , (0x120, opw [ro 31 0 0x65C2C436]), (0x124, opw [ro 31 0 0xB73414B5])
  , (0x128, opw [ro 31 0 0xFF35A08D]), (0x12C, opw [ro 31 0 0x8DDC9BD5]) ]

/-- DIG block (R330). -/
def digTable : List (Nat × Reg) :=
  [ (0x000, opw [ro 15 8 0x0C, ro 7 0 0x01])              -- DIG_ID
  , (0x008, opw [rw' 0 0 1])                              -- DIG_CTRL
  , (0x010, opw [ro 31 0])                                -- DIG_STAT
  , (0x018, opw [w1c 15 0])                               -- DIG_ERR
  , (0x020, opw [ro 31 0 0x00010001]) ]                   -- DIG_AID

/-- VID block (R446). -/
def vidTable : List (Nat × Reg) :=
  [ (0x000, opw [ro 23 16 0x08, ro 15 0 0x0001])          -- VID_ID
  , (0x008, opw [ro 15 8, ro 7 0])                        -- VID_STATE
  , (0x010, opw [ro 8 0])                                 -- VID_STREAMS
  , (0x020, grd [ro 15 8, rwv 7 0])                       -- VID_FENCE
  , (0x030, opw [w1c 31 16, w1c 15 0])                    -- VID_EVENTS
  , (0x034, opw [w1c 31 16, w1c 15 0])                    -- VID_EVENTS2
  , (0x100, opw [ro 31 16, ro 15 0]), (0x104, opw [ro 31 16, ro 15 0])
  , (0x108, opw [ro 31 16, ro 15 0]), (0x10C, opw [ro 31 16, ro 15 0])
  , (0x110, opw [ro 31 16, ro 15 0]), (0x114, opw [ro 31 16, ro 15 0])
  , (0x118, opw [ro 31 16, ro 15 0]), (0x11C, opw [ro 31 16, ro 15 0]) ]

/-- SAMP block (R471). -/
def sampTable : List (Nat × Reg) :=
  [ (0x000, opw [ro 31 0]), (0x004, opw [w1c 15 0]) ]

/-- DIAG block (R525). -/
def diagTable : List (Nat × Reg) :=
  [ (0x000, opw [ro 31 31, ro 23 16, ro 7 0]), (0x008, opw [ro 31 16, ro 15 0]) ]

/-- The block of quadrant q (R313, R470). -/
def quadTable (q : Nat) : List (Nat × Reg) :=
  [ (0x000, opw [ro 1 0 q])                               -- QUAD_ID
  , (0x100, grd [rwv 31 31, ro 25 24 (q ^^^ 1), w1c 15 0]) ]  -- QUAD_MIRROR

/-- The block of engine e (R52, R88 to R91). -/
def engTable (e : Nat) : List (Nat × Reg) :=
  [ (0x000, opw [ro 9 8 (e / 64), ro 7 0 e])              -- ENG_ID
  , (0x008, opw [ro 31 28, ro 27 27 1, w1c 15 0])         -- ENG_STATE
  , (0x010, grd [rwv 31 31, ro 27 24, ro 23 20])          -- ENG_FENCE
  , (0x020, opw [ro 31 16, ro 15 8, ro 7 4])              -- ENG_ECC
  , (0x040, opw [rw' 31 16, rw' 15 0]) ]                  -- ENG_NUMEV

/-- The MEM block of stack s (R278 to R284). -/
def memTable (s : Nat) : List (Nat × Reg) :=
  [ (0x000, opw [ro 15 8 0x10, ro 2 0 s])                 -- MEM_ID
  , (0x008, opw [rw' 4 0 0x08])                           -- MEM_HINTCFG
  , (0x00C, opw [rw' 15 8 0x03, rw' 7 0 0x01])            -- MEM_PRIO
  , (0x010, opw [ro 31 0])                                -- MEM_REFRESH
  , (0x020, opw [ro 31 16, ro 15 8, ro 7 4])              -- MEM_ECC
  , (0x028, opw [ro 17 0])                                -- MEM_RETIRE
  , (0x030, opw [w1c 31 16, w1c 15 0]) ]                  -- MEM_HOLDS

/-- The CAL block of stack s (R247 to R250, R528). -/
def calTable (s : Nat) : List (Nat × Reg) :=
  [ (0x000, opw [ro 2 0 s])                               -- CAL_ID
  , (0x008, opw [w1c 31 16, ro 15 0])                     -- CAL_STATE
  , (0x010, grd [ro 31 16, rwv 15 0])                     -- CAL_FENCE
  , (0x020, opw [ro 31 16, ro 15 8, ro 7 0])              -- CAL_EVENTS
  , (0x028, opw [rw' 15 0]) ]                             -- CAL_NUMEV

/-- An ETH block: its own registers, then ETH_IF at 0x100 + 0x40 i and ETH_SAK at 0x400 + 0x40 i. -/
def ethReg (off : Nat) : Option Reg :=
  if off < 0x100 then regIn ethTable off
  else if off < 0x200 then regIn ethIfTable (off % 0x40)
  else if 0x400 ≤ off ∧ off < 0x500 then regIn ethSakTable (off % 0x40)
  else none

/-- The KV block, with KV_POOL_BASE_s, KV_POOL_SIZE_s (R198) and KV_FREE_s (R199). -/
def kvReg (off : Nat) : Option Reg :=
  if off < 0x100 then regIn kvTable off
  else if off < 0x180 then (if off % 0x10 = 0 ∨ off % 0x10 = 4 then some (ownw [rwv 16 0]) else none)
  else if 0x200 ≤ off ∧ off < 0x220 then some (opw [ro 20 0])
  else none

/-- The SEC block (R462, R513): the map's control register and entries, the boot registers, the reports. -/
def secReg (off : Nat) : Option Reg :=
  if off = 0 then some (grd [ro 31 16, rwv 7 0 0x03])
  else if 0x1000 ≤ off ∧ off < 0x3000 then regIn protTable (off % 0x20)
  else if 0x8000 ≤ off ∧ off < 0xC000 then regIn secTable (off - 0x8000)
  else if 0xC000 ≤ off ∧ off < 0x10000 then some (opw [ro 31 0])
  else none

/-- The register at a 4-byte aligned offset of register space, by the block map of R458; none where the
address is unimplemented (R450, R459). -/
def regAt (off : Nat) : Option Reg :=
  if off % 4 ≠ 0 then none
  else if off < 0x010000 then regIn devTable off
  else if off < 0x020000 then secReg (off - 0x010000)
  else if off < 0x030000 then regIn pwrTable (off - 0x020000)
  else if off < 0x040000 then regIn tbTable (off - 0x030000)
  else if off < 0x060000 then ethReg (off % 0x10000)
  else if off < 0x070000 then regIn utxTable (off - 0x060000)
  else if off < 0x080000 then regIn ctxTable (off - 0x070000)
  else if off < 0x090000 then kvReg (off - 0x080000)
  else if off < 0x0A0000 then regIn opalTable (off - 0x090000)
  else if off < 0x0B0000 then regIn digTable (off - 0x0A0000)
  else if off < 0x0C0000 then regIn vidTable (off - 0x0B0000)
  else if off < 0x0D0000 then regIn sampTable (off - 0x0C0000)
  else if off < 0x100000 then none
  else if off < 0x200000 then regIn (quadTable ((off - 0x100000) / 0x40000)) (off % 0x40000)
  else if off < 0x300000 then regIn (engTable ((off - 0x200000) / 0x1000)) (off % 0x1000)
  else if off < 0x400000 then none
  else if off < 0x480000 then regIn (memTable ((off - 0x400000) / 0x10000)) (off % 0x10000)
  else if off < 0x500000 then regIn (calTable ((off - 0x480000) / 0x10000)) (off % 0x10000)
  else if off < 0x600000 then none
  else if off < 0x610000 then regIn diagTable (off - 0x600000)
  else none

/-- The reset value of a register, field by field. -/
def regReset (r : Reg) : Word :=
  r.fields.foldl (fun w f => setF w f.hi f.lo f.reset) 0

/-- What the register file reads at an offset that it does not list: the reset value. -/
def resetWord (off : Nat) : Word :=
  match regAt off with
  | none => 0
  | some r => regReset r

/-- What one field of a register becomes when w is written over old (R6, R454). -/
def writeField (w : Word) (acc : Word) (f : Fld) : Word :=
  match f.acc with
  | .ro => acc
  | .rw | .rwv | .wo => setF acc f.hi f.lo (getF w f.hi f.lo)
  | .w1c => if getF w f.hi f.lo = 0 then acc else setF acc f.hi f.lo 0
  | .w1b => setF acc f.hi f.lo (getF (acc &&& ~~~w) f.hi f.lo)

/-- The word that a write of w leaves in a register that held old. -/
def writeWord (r : Reg) (old w : Word) : Word :=
  r.fields.foldl (writeField w) old

/-- What a read of a register that holds w returns: write-only fields read zero. -/
def readWord (r : Reg) (w : Word) : Word :=
  r.fields.foldl (fun acc f => if f.acc = .wo then setF acc f.hi f.lo 0 else acc) w

/-- Whether a class may write a register of a level (R451). -/
def mayWrite : Level → Cls → Bool
  | _, .peer => false
  | _, .owner => true
  | .opn, _ => true
  | .operatorWrite, .operator => true
  | _, _ => false

/-- Whether a class reads the register itself; other readers get zero (R451). -/
def mayRead : Level → Cls → Bool
  | _, .peer => false
  | .guarded, c => c == .owner
  | _, _ => true

/-! Offsets of the registers that the rules name. -/

def oNotice : Nat := 0x000024
def oReplace : Nat := 0x000028
def oVote : Nat := 0x000030
def oVoteLast : Nat := 0x000034
def oProtCtrl : Nat := 0x010000
def oProt (i : Nat) : Nat := 0x011000 + i * 0x20
def oSecBoot : Nat := 0x018000
def oSecRecord : Nat := 0x018004
def oSecConfig : Nat := 0x018008
def oSecFlash : Nat := 0x01800C
def oReport (b : Nat) : Nat := 0x01C000 + b * 0x400
def oPwrCtrl : Nat := 0x020000
def oPwrLimit : Nat := 0x020008
def oPwrTherm : Nat := 0x020010
def oPwrStatus : Nat := 0x020020
def oPwrTrip : Nat := 0x020028
def oPwrTemp : Nat := 0x020030
def oPwrPower : Nat := 0x020038
def oPwrEvents : Nat := 0x020040
def oTbCtrl : Nat := 0x030000
def oTbStatus : Nat := 0x030008
def oTbSecLo : Nat := 0x030020
def oTbSecHi : Nat := 0x030024
def oTbLock : Nat := 0x030028
def oTbHoldover : Nat := 0x03002C
def oTbOffset : Nat := 0x030030
def oTbPps : Nat := 0x030038
def oTbPtp : Nat := 0x03003C
def oTbGroup : Nat := 0x030040
def oTbGroupHold : Nat := 0x030044
def oEth (p : Nat) : Nat := 0x040000 + p * 0x10000
def oEthIf (p i : Nat) : Nat := oEth p + 0x100 + i * 0x40
def oEthSak (p i : Nat) : Nat := oEth p + 0x400 + i * 0x40
def oUtxCtrl : Nat := 0x060000
def oUtxRto : Nat := 0x060004
def oUtxNode : Nat := 0x060008
def oUtxSessions : Nat := 0x060010
def oUtxRx : Nat := 0x060018
def oUtxTx : Nat := 0x06001C
def oUtxRetx : Nat := 0x060020
def oUtxDrops : Nat := 0x060024
def oUtxFails : Nat := 0x060028
def oUtxRetxPkts : Nat := 0x06002C
def oCtxCount : Nat := 0x070000
def oBatchWait : Nat := 0x070100
def oKvCtrl : Nat := 0x080000
def oKvStat : Nat := 0x080010
def oKvBase (s : Nat) : Nat := 0x080100 + s * 0x10
def oKvSize (s : Nat) : Nat := 0x080104 + s * 0x10
def oKvFree (s : Nat) : Nat := 0x080200 + s * 4
def oOpalKey : Nat := 0x090100
def oOpalOut : Nat := 0x090120
def oDigCtrl : Nat := 0x0A0008
def oDigStat : Nat := 0x0A0010
def oDigErr : Nat := 0x0A0018
def oDigAid : Nat := 0x0A0020
def oVidState : Nat := 0x0B0008
def oVidStreams : Nat := 0x0B0010
def oVidFence : Nat := 0x0B0020
def oVidEvents : Nat := 0x0B0030
def oVidEvents2 : Nat := 0x0B0034
def oVidLoad (e : Nat) : Nat := 0x0B0100 + 4 * e
def oSampRows : Nat := 0x0C0000
def oSampEmpty : Nat := 0x0C0004
def oMirror (q : Nat) : Nat := 0x100100 + q * 0x40000
def oEng (e : Nat) : Nat := 0x200000 + e * 0x1000
def oMem (s : Nat) : Nat := 0x400000 + s * 0x10000
def oCal (s : Nat) : Nat := 0x480000 + s * 0x10000
def oDiagStatus : Nat := 0x600000
def oDiagLast : Nat := 0x600008

end Sys2Proof.Machine
end

