-- ==== Sys2Proof/Machine/Ops.lean ====
section
/-! DEFINITION. The named operations over the state: registers, memory, poison, free values, events,
NOTICE causes, sessions, contexts and engines as tables. Meanings are written over these. -/

namespace Sys2Proof.Machine

open Sys2Proof

/-! ## Registers (R6, R447 to R454) -/

/-- The word stored for a register. -/
def regGet (s : State) (off : Nat) : Word := sget resetWord s.regs off

/-- Stores a register word: what the hardware and the firmware do, whatever the field's access. -/
def regSet (s : State) (off : Nat) (w : Word) : State :=
  { s with regs := sset resetWord s.regs off w }

/-- Bits hi:lo of a register. -/
def regF (s : State) (off hi lo : Nat) : Nat := getF (regGet s off) hi lo

/-- Sets bits hi:lo of a register. -/
def regSetF (s : State) (off hi lo v : Nat) : State := regSet s off (setF (regGet s off) hi lo v)

/-- Adds to a counter field that stops at its largest value. -/
def regCount (s : State) (off hi lo n : Nat) : State :=
  regSetF s off hi lo (satAdd (2 ^ (hi + 1 - lo) - 1) (regF s off hi lo) n)

/-- Adds to a counter field that wraps. -/
def regWrap (s : State) (off hi lo n : Nat) : State := regSetF s off hi lo (regF s off hi lo + n)

/-! ## Free values -/

/-- The next free value, and the state in which the one after it is next. -/
def freeVal (s : State) : Nat × State := (Config.free s.freeCtr, { s with freeCtr := s.freeCtr + 1 })

/-- n free bytes, drawn from free values. -/
def freeBytes (s : State) (n : Nat) : Bytes × State :=
  ((List.range n).map (fun i => BitVec.ofNat 8 (Config.free (s.freeCtr + i))), { s with freeCtr := s.freeCtr + n })

/-! ## Outputs -/

/-- Adds an output of this step. -/
def emit (s : State) (o : Output) : State := { s with out := s.out ++ [o] }

/-! ## Events (R396, R523, R524, R536) -/

/-- UNIT of R523. -/
def unitOf (kind index : Nat) : BitVec 16 := BitVec.ofNat 16 (kind * 4096 + index % 4096)

/-- Logs an event with DETAIL bytes 2 onward, and the context of bytes 0 and 1 where it concerns one. It
belongs to the boundary that comes next, which at a boundary is that boundary (R536). -/
def logEvent (s : State) (code : Nat) (unit : BitVec 16) (ctx : Option Nat) (detail : Bytes) : State :=
  let e : Event :=
    { seq := s.nextSeq
      code := BitVec.ofNat 12 code
      ctx := ctx.map (BitVec.ofNat 16)
      unit := unit
      boundary := s.beats + 1
      detail := fit 14 detail }
  { s with events := (e :: s.events).take 16384, nextSeq := s.nextSeq + 1 }

/-- Logs under code 0x0FFF an event that the table of R524 does not list, with the rule that logs it. -/
def logOther (s : State) (unit : BitVec 16) (ctx : Option Nat) (rule : Nat) : State :=
  logEvent s 0x0FFF unit ctx (toLE rule 2)

/-- The sequence number of the latest record logged, or 0xFFFF_FFFF for none. -/
def lastSeq (s : State) : BitVec 32 := (s.events.head?.map (·.seq)).getD 0xFFFFFFFF

/-! ## NOTICE causes (R399, R467, R468) -/

/-- Records NOTICE cause `bit_` of DEV_NOTICE, shown from the next boundary on (R467). -/
def notice (s : State) (bit_ : Nat) : State := { s with noticeNext := s.noticeNext ||| (1 <<< bit_) }

/-! ## Health record (R82, R83, R502) -/

/-- The fenced engines, ascending: those whose ENG_FENCE holds FENCED (R90). -/
def fencedEngines (s : State) : List Nat :=
  s.regs.filterMap fun (o, w) =>
    if 0x200000 ≤ o ∧ o < 0x300000 ∧ o % 0x1000 = 0x10 ∧ getF w 31 31 = 1 then some ((o - 0x200000) / 0x1000) else none

/-- The fences of the device as the registers hold them. -/
def fencesNow (s : State) : List FenceRec :=
  ((fencedEngines s).map fun e => .engine e (BitVec.ofNat 4 (regF s (oEng e + 0x10) 27 24)))
    ++ ((List.range 128).filterMap fun u =>
      if (((sfind s.calNext (u / 16)).map (·.toNat)).getD (regF s (oCal (u / 16) + 0x10) 15 0)).testBit (u % 16) then
        some (.caldera u ((sfind s.unitCause u).getD 3)) else none)
    ++ ((List.range 8).filterMap fun v => if s.codecNext.contains v then some (.codec v 2)
      else if (regF s oVidFence 7 0).testBit v then some (.codec v ((sfind s.codecCause v).getD 3)) else none)

/-- What a health record write that begins now records: the health time, the fences in effect and asked
for, the error histories and the retirements, those found and not yet in effect included (R82, R274). -/
def healthNow (s : State) : Health :=
  let asked := s.engines.filterMap fun (e, x) => match x.fenceReq with
    | some (true, c) => some (FenceRec.engine e c)
    | _ => none
  let lifted (f : FenceRec) : Bool := match f with
    | .engine e _ => s.engines.any fun (k, x) => k == e && x.fenceReq.any (fun r => !r.1)
    | _ => false
  { time := s.clock.health
    fences := (fencesNow s).filter (fun f => !lifted f) ++ asked
    engineErrs := s.engines.flatMap fun (e, x) => x.errors.map fun t => (e, t)
    unitErrs := s.unitErrs
    regionErrs := s.regionErrs
    retired := s.retired ++ s.retireNext }

/-- The firmware begins a health record write, behind one that is in progress: SEC_FLASH.OPERATION reads 3 until it
completes (R82, R502). -/
def beginHealth (s : State) : State :=
  if s.flash.healthWrite then { s with flash := { s.flash with healthThen := some (healthNow s) } }
  else { s with flash := { s.flash with healthWrite := true, healthNext := healthNow s } }

/-! ## Memory

One canonical byte table over linear local addresses. An unlisted byte reads 0x00: the manual states no
contents for memory after power-on (DESIGN CHOICE, UNSAFE; assumption 3). -/

/-- What a byte that nothing has written reads as. -/
def memDefault (_ : Nat) : Byte := 0

/-- The canonical form of memory (keys rising, no byte at its default). -/
def Memory.wf (m : List Host.Cell) : Bool := swf memDefault m

/-- The byte at a linear local address. -/
def byteAt (s : State) (a : Nat) : Byte := sget memDefault s.mem a

/-- n bytes from a linear local address on. -/
def bytesAt (s : State) (a n : Nat) : Bytes := (List.range n).map fun i => byteAt s (a + i)

/-- Writes bytes into a memory table. -/
def memPut (m : List Host.Cell) (a : Nat) : Bytes → List Host.Cell
  | [] => m
  | b :: t => memPut (sset memDefault m a b) (a + 1) t

/-- Writes bytes from a linear local address on. -/
def bytesPut (s : State) (a : Nat) (b : Bytes) : State := { s with mem := memPut s.mem a b }

/-! ## Addresses (R26 to R30) -/

/-- The regions of the local address space (R26 to R28). -/
inductive Region where
  | linear | interleaved
  | ab (e : Nat) | am (e : Nat) | ws (e : Nat) | is (e : Nat)
  | hubFirmware | hubGeneral | hubGeyser
  | window (session : Nat)
  | register
  | none
  deriving DecidableEq, Repr

/-- The base of the engine SRAM windows (R26). -/
def sramBase : Nat := 0x200000000000
/-- The base of hub SRAM (R26). -/
def hubBase : Nat := 0x300000000000
/-- The base of general hub SRAM (R28). -/
def generalBase : Nat := 0x300000400000
/-- The base of the command windows (R26). -/
def windowBase : Nat := 0x7E0000000000
/-- The base of register space (R26). -/
def registerBase : Nat := 0x7F0000000000
/-- The bytes of one stack's linear view (R26). -/
def stackBytes : Nat := 0x2000000000

/-- The part of an engine's window that an offset lies in (R27). -/
def partOf (e off : Nat) : Region :=
  if off < 0x180000 then .ab e
  else if off < 0x280000 then .am e
  else if off < 0x300000 then .ws e
  else if off < 0x340000 then .is e
  else .none

/-- The region of a local address (R26 to R28). -/
def regionOf (a : Nat) : Region :=
  if a < 0x10000000000 then .linear
  else if a < 0x20000000000 then .interleaved
  else if a < sramBase then .none
  else if a < sramBase + 0x40000000 then partOf ((a - sramBase) / 0x400000) ((a - sramBase) % 0x400000)
  else if a < hubBase then .none
  else if a < generalBase then .hubFirmware
  else if a < hubBase + 0x1000000 then .hubGeneral
  else if a < hubBase + 0x2000000 then .hubGeyser
  else if a < windowBase then .none
  else if a < windowBase + 0x10000000 then .window ((a - windowBase) / 0x10000)
  else if a < registerBase then .none
  else if a < registerBase + 0x1000000 then .register
  else .none

/-- The linear-view address of a local address (R29); other addresses are themselves. -/
def linearOf (a : Nat) : Nat :=
  if 0x10000000000 ≤ a ∧ a < 0x20000000000 then
    let off := a - 0x10000000000
    let g := off / 4096
    (g % 8) * stackBytes + (g / 8) * 4096 + off % 4096
  else a

/-- The bytes of a span of local addresses, as linear addresses. A span that stays in one 4 KiB granule
of the interleaved view, or outside that view, is contiguous. -/
def spanLinear (a n : Nat) : List Nat := (List.range n).map fun i => linearOf (a + i)

/-- Reads n bytes of a span through either view. -/
def spanRead (s : State) (a n : Nat) : Bytes := (spanLinear a n).map (byteAt s)

/-- Writes bytes of a span into a memory table, through either view. -/
def spanPut (m : List Host.Cell) (a : Nat) : Bytes → List Host.Cell
  | [] => m
  | b :: t => spanPut (sset memDefault m (linearOf a) b) (a + 1) t

/-- Writes bytes of a span through either view. -/
def spanWrite (s : State) (a : Nat) (b : Bytes) : State := { s with mem := spanPut s.mem a b }

/-- Whether an address is in stack memory, in either view. -/
def isStack (a : Nat) : Bool := decide (a < 0x20000000000)

/-- The stack of a linear address of stack memory. -/
def stackOf (lin : Nat) : Nat := lin / stackBytes

/-- The region of 1 MiB that a linear stack address lies in, counted over all stacks (R274). -/
def mibOf (lin : Nat) : Nat := lin / 0x100000

/-- channel_of of R252. -/
def channelOf (lin : Nat) : Nat :=
  let o := lin % stackBytes
  ([8, 12, 16, 20, 24, 28, 32].foldl (fun c b => c ^^^ ((o >>> b) % 16)) 0) ^^^ ((o >>> 36) % 2)

/-- channel_addr of R252. -/
def channelAddr (lin : Nat) : Nat :=
  let o := lin % stackBytes
  (o / 4096) * 256 + o % 256

/-- Whether a linear stack address is unimplemented because its region is retired, or its stack is
withheld for this start-up (R275, R491). -/
def isRetired (s : State) (lin : Nat) : Bool :=
  s.retired.contains (mibOf lin) || s.withheld.contains (stackOf lin)

/-- Whether engine e is fenced, as in effect since the last boundary (R84). -/
def engineFenced (s : State) (e : Nat) : Bool := regF s (oEng e + 0x10) 31 31 == 1

/-- Whether a local address is implemented now: in a region of R26, not retired (R275), not in the SRAM of
a fenced engine (R85). -/
def implemented (s : State) (a : Nat) : Bool :=
  match regionOf a with
  | .none => false
  | .linear | .interleaved => !isRetired s (linearOf a)
  | .ab e | .am e | .ws e | .is e => !engineFenced s e
  | _ => true

/-- Whether two addresses lie in one region of R26 and one window part of R27 (R345). -/
def sameRegion (a b : Nat) : Bool :=
  match regionOf a, regionOf b with
  | .hubFirmware, .hubGeneral | .hubFirmware, .hubGeyser | .hubGeneral, .hubGeyser => true
  | .window _, .window _ => true
  | x, y => x == y

/-! ## Poison (R66, R255)

`State.poison` lists, in ascending order, the linear addresses of poisoned 32-byte codewords of stack
memory and of poisoned 8-byte words of engine SRAM. -/

/-- The size of the protected word that an address lies in: a codeword of stack memory (R253), a word of
engine SRAM (R66). -/
def wordSize (lin : Nat) : Nat := if lin < 0x10000000000 then 32 else 8

/-- The protected word that an address lies in. -/
def wordAt (lin : Nat) : Nat := lin - lin % wordSize lin

/-- The protected words that a list of linear addresses touches, each once, in order. -/
def wordsOf (lins : List Nat) : List Nat := (lins.map wordAt).dedup

/-- Whether any of the bytes at the linear addresses is poisoned. -/
def anyPoison (s : State) (lins : List Nat) : Bool :=
  !s.poison.isEmpty && (wordsOf lins).any s.poison.contains

/-- Adds a poisoned word. -/
def poisonAdd (s : State) (w : Nat) : State :=
  if s.poison.contains w then s
  else { s with poison := s.poison.filter (· < w) ++ w :: s.poison.filter (w < ·) }

/-- The words, among those written, that the written bytes cover whole. -/
def covered (lins : List Nat) (w : Nat) : Bool := (List.range (wordSize w)).all fun i => lins.contains (w + i)

/-- Whether a write of these bytes meets a poisoned word that it does not cover whole (R66, R255). -/
def partialPoison (s : State) (lins : List Nat) : Bool :=
  !s.poison.isEmpty && (wordsOf lins).any fun w => s.poison.contains w && !covered lins w

/-- A write of these bytes ends the single-bit error of every word that it covers whole (R66). -/
def softClear (s : State) (lins : List Nat) : State :=
  if s.soft.isEmpty then s
  else { s with soft := s.soft.filter fun w => !(lins.contains w && covered lins w) }

/-- A write of these bytes ends the poison, or the single-bit error, of every word that it covers whole. -/
def poisonClear (s : State) (lins : List Nat) : State :=
  let s := softClear s lins
  if s.poison.isEmpty then s
  else { s with poison := s.poison.filter fun w => !(lins.contains w && covered lins w) }

/-- A write that leaves alone every poisoned word that it covers in part (a scheduled write of R66, R255). -/
def storeBytes (s : State) (a : Nat) (b : Bytes) : State :=
  let lins := spanLinear a b.length
  if s.poison.isEmpty then softClear (spanWrite s a b) lins
  else
    let keep (l : Nat) : Bool := !(s.poison.contains (wordAt l)) || covered lins (wordAt l)
    let m := (lins.zip b).foldl (fun m (l, v) => if keep l then sset memDefault m l v else m) s.mem
    poisonClear { s with mem := m } lins

/-! ## Groups (R418, R419, R423) -/

/-- The locked group that the device has joined and not left. -/
def joined (s : State) : Option Group := s.group.filter fun g => !g.left

/-- The locked group that the device is a member of: membership begins with group beat 0 (R419). -/
def member (s : State) : Option Group := s.group.filter fun g => g.started && !g.left

/-- Whether the device waits at a boundary for the start of a group beat (R297). -/
def waitsForGroup (s : State) : Bool := (member s).any (·.atBoundary)

/-! ## Engines -/

/-- An engine's state. -/
def engGet (s : State) (e : Nat) : Engine := sget (fun _ => ({} : Engine)) s.engines e

/-- An engine's state replaced. -/
def engSet (s : State) (e : Nat) (x : Engine) : State :=
  { s with engines := sset (fun _ => ({} : Engine)) s.engines e x }

/-- The quadrant of an engine. -/
def quadOf (e : Nat) : Nat := e / 64

/-- One fence cause of an engine, to take effect at the next boundary, and the health record write that
begins at once (R82, R84). -/
def fenceEngine (s : State) (e cause : Nat) : State :=
  beginHealth (engSet s e { engGet s e with fenceReq := some (true, BitVec.ofNat 4 cause) })

/-- Whether one of the recorded errors lies within the 86,400 s of health time before `now` (R82). One exactly 86,400 s back does
not (DESIGN CHOICE, assumption 79). -/
def within (times : List Nat) (now : Nat) : Bool := times.any fun t => decide (now < t + 86400)

/-! ## Uncorrectable and corrected errors -/

/-- The SRAM code of R91 for a window offset: 0 AB, 1 AM, 2 WS, 3 IS. -/
def sramCode (off : Nat) : Nat :=
  if off < 0x180000 then 0 else if off < 0x280000 then 1 else if off < 0x300000 then 2 else 3

/-- The window offset at which an SRAM begins (R27). -/
def sramStart (code : Nat) : Nat :=
  match code with
  | 0 => 0
  | 1 => 0x180000
  | 2 => 0x280000
  | _ => 0x300000

/-- An uncorrectable event in engine SRAM at a linear address (R66): the word is poisoned, the event is
logged and counted, NOTICE SRAM_UE is recorded, and a second one within 86,400 s fences the engine. -/
def sramUncorrectable (s : State) (lin : Nat) : State :=
  let e := (lin - sramBase) / 0x400000
  let off := (lin - sramBase) % 0x400000
  let c := sramCode off
  let s := poisonAdd s (wordAt lin)
  let s := logEvent s 0x0201 (unitOf 1 e) none ([BitVec.ofNat 8 c, 0] ++ toLE (off - off % 8 - sramStart c) 4)
  let s := regSetF (regCount s (oEng e + 0x20) 15 8 1) (oEng e + 0x20) 7 4 c
  let s := notice s 1
  let x := engGet s e
  let second := within x.errors s.clock.health
  let s := engSet s e { x with errors := x.errors ++ [s.clock.health] }
  if second ∧ !engineFenced s e then fenceEngine s e 1 else beginHealth s

/-- An uncorrectable event in a codeword of stack memory (R255, R274): poisoned, logged with its channel
address, counted, NOTICE MEM_UE; a second one in its region within 86,400 s retires the region. -/
def stackUncorrectable (s : State) (lin : Nat) : State :=
  let st := stackOf lin
  let ch := channelOf lin
  let s := poisonAdd s (wordAt lin)
  let s := logEvent s 0x0101 (unitOf 3 (16 * st + ch)) none (toLE (channelAddr (wordAt lin)) 8)
  let s := regSetF (regCount s (oMem st + 0x20) 15 8 1) (oMem st + 0x20) 7 4 ch
  let s := notice s 3
  let r := mibOf lin
  let times := s.regionErrs.filterMap fun (k, t) => if k = r then some t else none
  let second := within times s.clock.health
  let s := { s with regionErrs := s.regionErrs ++ [(r, s.clock.health)] }
  let s := if second ∧ !s.retired.contains r ∧ !s.retireNext.contains r
    then { s with retireNext := s.retireNext ++ [r] } else s
  beginHealth s

/-- A single-bit error that a read of engine SRAM corrects: one corrected read is counted (R66, R91). -/
def sramCorrected (s : State) (lin : Nat) : State :=
  regCount s (oEng ((lin - sramBase) / 0x400000) + 0x20) 31 16 1

/-- A codeword that a read corrects (R254): counted, and its write-back waits as BULK traffic. -/
def stackCorrected (s : State) (lin : Nat) : State :=
  let s := regCount s (oMem (stackOf lin) + 0x20) 31 16 1
  let w := wordAt lin
  if s.correcting.contains w then s else { s with correcting := s.correcting ++ [w] }

/-- A word whose error lies outside the promise of its code (R66, R253): it is detected, miscorrected or
not detected, and a free value says which. Undetected or miscorrected data is free. -/
def outsideCode (s : State) (lin : Nat) (stack : Bool) : State :=
  let (v, s) := freeVal s
  if v % 3 = 0 then (if stack then stackUncorrectable s lin else sramUncorrectable s lin)
  else
    let (b, s) := freeBytes s (wordSize lin)
    let s := bytesPut s (wordAt lin) b
    if v % 3 = 1 then (if stack then stackCorrected s lin else sramCorrected s lin) else s

/-- A codeword of a stack met with errors (R253). The code is linear, so the decoder does with a codeword in error what it
does with the error alone; four erroneous bytes or more lie outside its promise. -/
def codewordFind (s : State) (lin : Nat) (err : Bytes) : State :=
  if 4 ≤ badBytes err then outsideCode s lin true
  else
    match rsDecode err with
    | .clean => s
    | .corrected _ => stackCorrected s lin
    | .uncorrectable => stackUncorrectable s lin

/-- An SRAM word met with this many wrong bits (R66). A single-bit error stays in the word, so that every later read corrects it
again; a word that is known to have one is counted by the read itself (`softRead`). -/
def sramFind (s : State) (lin bits : Nat) : State :=
  if bits = 0 then s
  else if bits = 1 then
    if s.soft.contains (wordAt lin) then s
    else { sramCorrected s lin with soft := s.soft ++ [wordAt lin] }
  else if bits = 2 then sramUncorrectable s lin
  else outsideCode s lin false

/-- One word met in error by a read (R66, R253 to R255). A word that is poisoned already is no new event. -/
def eccFind (s : State) (f : EccFind) : State :=
  if s.poison.contains (wordAt f.addr) then s
  else if f.addr < 0x10000000000 then codewordFind s f.addr (errorWord f.flips)
  else if sramBase ≤ f.addr ∧ f.addr < sramBase + 0x40000000 then sramFind s f.addr f.bad
  else s

/-- A read of bytes corrects and counts again the words among them that have a single-bit error (R66, R91). -/
def softRead (s : State) (lins : List Nat) : State :=
  if s.soft.isEmpty then s
  else ((wordsOf lins).filter fun w => s.soft.contains w && !s.poison.contains w).foldl sramCorrected s

/-- The words in error that a read of these bytes meets: those known to have a single-bit error, then those found now, each
once, in the order reported. -/
def eccScan (s : State) (lins : List Nat) (finds : List EccFind) : State :=
  (finds.filter fun f => (wordsOf lins).contains (wordAt f.addr)).foldl eccFind (softRead s lins)

/-! ## Sessions as a table -/

/-- An open session. -/
def sessGet (s : State) (n : Nat) : Option Session := (sfind s.sessions n).filter (fun x => !x.closed)

/-- A session replaced or added. -/
def sessSet (s : State) (n : Nat) (x : Session) : State := { s with sessions := sput s.sessions n x }

/-- Changes an open session. -/
def sessMap (s : State) (n : Nat) (f : Session → Session) : State :=
  match sessGet s n with
  | some x => sessSet s n (f x)
  | none => s

/-- Open sessions. -/
def openCount (s : State) : Nat := (s.sessions.filter fun (n, x) => !x.closed && decide (n < 4096)).length

/-- The credit slots in some session's window: open sessions, reservations, and closed sessions whose last
slot is not yet released (R357). -/
def granted (s : State) : Nat :=
  (s.sessions.map fun (_, x) => x.window).sum + (s.reservations.map (·.window)).sum

/-- Credit slots in no session's window (R357). -/
def ungranted (s : State) : Nat := 5120 - granted s

/-- The cost of a packet in slots (R356). -/
def costOf (len : Nat) : Nat := max 1 (ceilDiv len 2048)

/-- Receive slots on the free list (R361). -/
def rxFree (s : State) : Nat := 6144 - (s.sessions.map fun (_, x) => x.held).sum

/-- Transmit slots that a session's kept packets hold: those sent at least once (R362). -/
def txHeld (x : Session) : Nat := ((x.kept.filter (·.sent)).map fun k => costOf k.payload.length).sum

/-- Transmit slots on the free list (R361). -/
def txFree (s : State) : Nat := 2048 - (s.sessions.map fun (_, x) => txHeld x).sum

/-! ## Contexts, images, streams -/

/-- A context that is not FREE. -/
def ctxGet (s : State) (n : Nat) : Option Ctx := s.ctxs.find? (·.num == n)

/-- The jobs that have been submitted and not yet entered. -/
def submits (s : State) : List Ctx := s.waiting.filterMap fun w => match w with
  | .submit c => some c
  | _ => none

/-- The commands on jobs that wait for a boundary. -/
def ctxReqs (s : State) : List CtxReq := s.waiting.filterMap fun w => match w with
  | .job r => some r
  | _ => none

/-- The page commands that wait for a boundary. -/
def pageReqs (s : State) : List PageReq := s.waiting.filterMap fun w => match w with
  | .page r => some r
  | _ => none

/-- A command waits for the boundary, behind those accepted before it. -/
def waitFor (s : State) (w : BoundaryCmd) : State := { s with waiting := s.waiting ++ [w] }

/-- Changes a context. -/
def ctxMap (s : State) (n : Nat) (f : Ctx → Ctx) : State :=
  { s with ctxs := s.ctxs.map fun c => if c.num = n then f c else c }

/-- Frees a context. -/
def ctxFree (s : State) (n : Nat) : State := { s with ctxs := s.ctxs.filter (·.num != n) }

/-- A loaded image. -/
def imageGet (s : State) (id : BitVec 64) : Option Image := s.images.find? (·.id == id)

/-- An open stream. -/
def streamGet (s : State) (n : Nat) : Option Stream := s.streams.find? (·.num == n)

/-- Changes a stream. -/
def streamMap (s : State) (n : Nat) (f : Stream → Stream) : State :=
  { s with streams := s.streams.map fun x => if x.num = n then f x else x }

/-- A live page descriptor. -/
def pageGet (s : State) (id : BitVec 24) : Option Page := s.pages.find? (·.id == id)

/-! ## The clocks (R83, R285, R286) -/

/-- DT seconds. -/
def dtSec (s : State) : Nat := s.clock.dt / secondDt

/-- DT nanoseconds within the second. -/
def dtNs (s : State) : Nat := (s.clock.dt % secondDt) / 2 ^ 32

/-- DT fraction, 16 bits (R285). -/
def dtFrac (s : State) : Nat := (s.clock.dt % 2 ^ 32) / 2 ^ 16

/-- Microseconds in units of 2^-32 ns. -/
def usDt (n : Nat) : Nat := n * 1000 * 2 ^ 32

/-- Whether n microseconds of DT have passed since `since`. -/
def elapsedUs (s : State) (since n : Nat) : Bool := decide (since + usDt n ≤ s.clock.dt)

/-! ## Power states -/

/-- Whether the device has reported ready and has power (R481, R491). -/
def isReady (s : State) : Bool :=
  match s.power.phase with
  | .off | .starting | .failed => false
  | _ => true

/-- Whether beats run: not in OFF, start-up or STANDBY (R481, R482). -/
def beatsRun (s : State) : Bool := isReady s && s.power.phase != .standby

end Sys2Proof.Machine
end

