-- ==== Sys2Proof/Machine/Flags.lean ====
section
/-! DEFINITION. The flag computations: HEALTH and the NOTICE and REPLACE causes (R399, R467), HEADROOM
(R400), the Device Status Word (R398, R401), the snapshot that a boundary leaves for replies (R373). -/

namespace Sys2Proof.Machine

open Sys2Proof

/-- The highest of the readings from index i on, n of them, in sixteenths of a degree (R494). -/
def hottest16 (x : Sensors) (i n : Nat) : Nat := ((x.temps.drop i).take n).foldl max 0

/-- The same in °C. -/
def hottest (x : Sensors) (i n : Nat) : Nat := hottest16 x i n / 16

/-- The highest junction temperature: the quadrants' and the hub's sensors (R486, R494). -/
def tjMax (x : Sensors) : Nat := hottest x 0 72

/-- The highest hub temperature. -/
def hubMax (x : Sensors) : Nat := hottest x 64 8

/-- The highest DRAM die temperature. -/
def dramMax (x : Sensors) : Nat := hottest x 72 128

/-- The power limit in force, W (R483, R495). -/
def powerLimit (s : State) : Nat :=
  if s.power.phase = .limited then min 2400 (max 300 (regF s oPwrLimit 19 8))
  else min 2400 (max 600 (regF s oPwrLimit 31 20))

/-- F_MAX of PWR_CTRL (R495). -/
def fMax (s : State) : Nat := min 32 (max 16 (regF s oPwrCtrl 5 0))

/-- The step-clock scale F in use (R480). -/
def fNow (s : State) : Nat := regF s oPwrStatus 5 0

/-- TARGET_C of PWR_THERM (R495). -/
def targetC (s : State) : Nat := min 103 (max 70 (regF s oPwrTherm 7 0))

/-- Retired regions, a withheld stack counting whole (R277, R283, R491). -/
def retiredCount (s : State) : Nat :=
  (s.retired.filter fun r => !s.withheld.contains (r / 131072)).length + 131072 * s.withheld.length

/-- The causes of REPLACE, as the bits of DEV_REPLACE (R467). -/
def replaceBits (s : State) : Nat :=
  let eng := (fencedEngines s).any fun e =>
    let cause := regF s (oEng e + 0x10) 27 24
    cause == 1 || cause == 2
  let cal := (List.range 8).any fun st => regF s (oCal st + 0x10) 15 0 != 0
  let ret := decide (1049 ≤ retiredCount s) || (regF s oReplace 2 2 == 1)
  let p0 := regF s (oEth 0 + 8) 5 4 == 3
  let p1 := regF s (oEth 1 + 8) 5 4 == 3
  eng.toNat + 2 * cal.toNat + 4 * ret.toNat + 8 * p0.toNat + 16 * p1.toNat

/-- HEALTH (R399): the highest value whose condition holds. -/
def healthOf (s : State) : Nat :=
  if s.power.phase = .limited then 3
  else if regF s oReplace 4 0 ≠ 0 then 2
  else if regF s oNotice 8 0 ≠ 0 then 1
  else 0

/-- H_p of R400. -/
def headroomPower (limit p : Nat) : Nat := 255 * (limit - p) / limit

/-- H_t of R400, from a reading in sixteenths of a degree: only the quotient is rounded down. -/
def headroomThermal (t16 : Nat) : Nat := min 255 (255 * (16 * 105 - t16) / (16 * 40))

/-- HEADROOM (R400), from the readings of the boundary. -/
def headroomOf (s : State) : Nat :=
  min (headroomPower (powerLimit s) s.power.sensors.powerW) (headroomThermal (hottest16 s.power.sensors 0 72))

/-- Bits 7:0 of the sequence number of the latest event of the snapshot boundary or an earlier one; 0
before the first (R398, R536). -/
def eventSeq (s : State) : Nat :=
  match s.events.find? (fun e => decide (e.boundary ≤ s.beats)) with
  | some e => e.seq.toNat % 256
  | none => 0

/-- The Device Status Word of the snapshot boundary with the session's FLAGS bits 0 and 1 (R398, R401). -/
def dswOf (s : State) (slip hold : Bool) : Word :=
  BitVec.ofNat 32 (s.snap.health * 2 ^ 28 + timeByte s.snap.time * 2 ^ 24 + eventSeq s * 2 ^ 16
    + s.snap.headroom * 2 ^ 8 + s.snap.demotion.toNat * 4 + hold.toNat * 2 + slip.toNat)

/-- Whether demotion is active (FLAGS bit 2, R193): a page is DEMOTING or DEMOTED. -/
def demotionActive (s : State) : Bool :=
  s.pages.any fun p => p.state == .demoting || p.state == .demoted

/-- DT of a boundary to the nearest nanosecond, in units of 2^-32 ns (R293). -/
def stampOf (dt : Nat) : Nat := ((dt + 2 ^ 31) / 2 ^ 32) * 2 ^ 32

/-- Records what replies report of this boundary (R373, R467): the NOTICE causes met since the last one
join DEV_NOTICE, DEV_REPLACE and DEV_HEALTH follow, and the DSW fields are taken. -/
def takeSnapshot (s : State) : State :=
  let s := regSet s oNotice (regGet s oNotice ||| BitVec.ofNat 32 (s.noticeNext % 512))
  let s := { s with noticeNext := 0 }
  let s := regSetF s oReplace 4 0 (replaceBits s)
  let h := healthOf s
  let s := regSetF s 0x020 31 28 h
  { s with snap :=
      { health := h, time := s.disc.state, headroom := headroomOf s, demotion := demotionActive s
        stampDt := stampOf s.clock.dt, ramp := s.power.ramp
        running := (s.passes.flatMap (·.engines)).dedup, holding := (s.engines.filter (·.2.heldAt)).map (·.1)
        source := regF s oTbCtrl 1 0, offset := regGet s oTbOffset, counters := s.counters, rails := s.power.rails
        tests := s.diagLog } }

/-- What replies report of the latest boundary is taken again where an event at that boundary changes it: health, headroom, mode,
demotion, the engines that run (R373, R398, R467). -/
def retakeSnap (s : State) : State :=
  let h := healthOf s
  let s := regSetF s 0x000020 31 28 h
  { s with snap := { s.snap with health := h, headroom := headroomOf s, demotion := demotionActive s, ramp := s.power.ramp
                                 running := (s.passes.flatMap (·.engines)).dedup } }

end Sys2Proof.Machine
end

