-- ==== Sys2Proof/Machine/Frames.lean ====
section
/-! DEFINITION. Frames of the Ethernet interfaces (R334 to R341, R356): the settings of an interface, what a frame that leaves is
wrapped in, the layout of UTX packets, MACsec packet numbers, PFC, and the reserve slots. -/

namespace Sys2Proof.Machine

open Sys2Proof

/-! ## The settings of an interface (R335, R336, R338, R366, R367) -/

/-- UTX_CTRL.PORT; 0 acts as 51440 (R340, R367). -/
def utxPort (s : State) : Nat := if regF s oUtxCtrl 15 0 = 0 then 51440 else regF s oUtxCtrl 15 0

/-- The PCP of an interface. -/
def pcpOf (s : State) (port iface : Nat) : Nat := regF s (oEthIf port iface + 8) 14 12

/-- The IPv4 address of an interface; 0 disables IPv4. -/
def ipv4Of (s : State) (port iface : Nat) : Nat := regF s (oEthIf port iface + 0x0C) 31 0

/-- The IPv6 address of an interface; 0 disables IPv6. -/
def ipv6Of (s : State) (port iface : Nat) : Nat :=
  let w (i : Nat) : Nat := regF s (oEthIf port iface + 0x10 + 4 * i) 31 0
  w 0 * 2 ^ 96 + w 1 * 2 ^ 64 + w 2 * 2 ^ 32 + w 3

/-- Whether an address is an IPv6 one: the model holds IPv4 addresses as numbers below 2^32 (DESIGN CHOICE, assumption 84). -/
def isV6 (addr : Nat) : Bool := decide (2 ^ 32 ≤ addr)

/-- The interface's own address of an IP version. -/
def ownIp (s : State) (port iface : Nat) (v6 : Bool) : Nat := if v6 then ipv6Of s port iface else ipv4Of s port iface

/-- Whether an interface speaks the IP version of an address (R335). -/
def ipOn (s : State) (port iface addr : Nat) : Bool := ownIp s port iface (isV6 addr) != 0

/-- Whether MACsec is on at an interface (R338). -/
def macsecOn (s : State) (port iface : Nat) : Bool := regF s (oEthIf port iface + 0x20) 31 31 == 1

/-- Whether an interface uses extended packet numbers (R338). -/
def xpnOn (s : State) (port iface : Nat) : Bool := regF s (oEthIf port iface + 0x20) 30 30 == 1

/-- The key of an association of an interface. -/
def sakOf (s : State) (port iface : Nat) (an : BitVec 2) : Option Sak :=
  s.saks.find? fun k => k.port == port && k.iface == iface && k.an == an

/-- AN_TX, the association that sends (R338). -/
def txAn (s : State) (port iface : Nat) : BitVec 2 := BitVec.ofNat 2 (regF s (oEthIf port iface + 0x20) 1 0)

/-! ## The layout of a UTX packet (R341) -/

/-- The 32-byte header of a UTX packet, then its payload. -/
def utxBytes (o : UtxOut) : Bytes :=
  [1, o.type] ++ toLE o.session 2 ++ toLE o.psn.toNat 4 ++ toLE o.ackPsn.toNat 4 ++ toLE o.creditLimit.toNat 4
    ++ toLE o.address.toNat 8 ++ toLE o.payload.length 2 ++ [o.op, o.status] ++ toLE o.reqPsn.toNat 4 ++ o.payload

/-- A received header (R341). -/
structure UtxHead where
  type        : Nat
  session     : Nat
  psn         : BitVec 32
  ackPsn      : BitVec 32
  creditLimit : BitVec 32
  address     : BitVec 64
  length      : Nat
  op          : Byte
  status      : Byte
  reqPsn      : BitVec 32
  deriving DecidableEq, Repr

/-- The header of a datagram; none where the packet is malformed: shorter than a header, another VERSION, a reserved TYPE, or a
LENGTH other than the bytes that follow; a READ asks for LENGTH bytes and carries none (DEDUCED, assumption 85). -/
def utxHead (b : Bytes) : Option UtxHead :=
  let h : UtxHead :=
    { type := field b 1 1, session := field b 2 2, psn := BitVec.ofNat 32 (field b 4 4), ackPsn := BitVec.ofNat 32 (field b 8 4)
      creditLimit := BitVec.ofNat 32 (field b 12 4), address := BitVec.ofNat 64 (field b 16 8), length := field b 24 2
      op := BitVec.ofNat 8 (field b 26 1), status := BitVec.ofNat 8 (field b 27 1), reqPsn := BitVec.ofNat 32 (field b 28 4) }
  let carried := if h.type = 1 ∧ h.op = 0 then b.length - 32 == 0 || b.length - 32 == h.length else b.length - 32 == h.length
  if b.length < 32 ∨ field b 0 1 ≠ 1 ∨ h.type < 1 ∨ 5 < h.type ∨ !carried then none else some h

/-! ## What a frame that leaves is wrapped in (R335, R336, R338, R340) -/

/-- The 16-bit words of bytes in network order, an odd last byte padded with zero. -/
def netWords : Bytes → Nat
  | [] => 0
  | [a] => a.toNat * 256
  | a :: b :: t => a.toNat * 256 + b.toNat + netWords t

/-- A sum folded to 16 bits in one's complement, and complemented; a checksum of 0 is sent as 0xFFFF. -/
def onesSum (n : Nat) : BitVec 16 :=
  let n := n / 65536 + n % 65536
  let n := n / 65536 + n % 65536
  let n := n / 65536 + n % 65536
  let c : BitVec 16 := ~~~(BitVec.ofNat 16 n)
  if c = 0 then 0xFFFF else c

/-- The 16-bit words of an address, summed. -/
def addrSum (a : Nat) : Nat := ((List.range 8).map fun i => a / 65536 ^ i % 65536).sum

/-- The UDP checksum over the pseudo-header of either IP version, the UDP header and the payload (R336). -/
def udpChecksum (src dst sport dport : Nat) (payload : Bytes) : BitVec 16 :=
  onesSum (addrSum src + addrSum dst + 17 + 2 * (8 + payload.length) + sport + dport + netWords payload)

/-- An IP packet that an interface sends. -/
def ipWire (s : State) (port iface : Nat) (v6 : Bool) (dst : Option Nat) : IpWire :=
  { v6 := v6, dst := dst, dscp := BitVec.ofNat 6 (regF s (oEthIf port iface + 8) 21 16), dontFrag := !v6 }

/-- A UDP datagram that an interface sends. -/
def udpWire (s : State) (port iface : Nat) (d : Dest) (payload : Bytes) : IpWire :=
  { ipWire s port iface (isV6 d.addr) (some d.addr) with
    ports := some (d.from_, d.udp)
    checksum := some (udpChecksum (ownIp s port iface (isV6 d.addr)) d.addr d.from_ d.udp payload) }

/-- MACsec around the next frame of an interface. -/
def secWire (s : State) (port iface : Nat) : Option SecWire :=
  if !macsecOn s port iface then none
  else (sakOf s port iface (txAn s port iface)).map fun k =>
    { an := k.an, pn := k.sent + 1, xpn := xpnOn s port iface
      keyed := { key := k.key, salt := if xpnOn s port iface then k.salt else [], ssci := if xpnOn s port iface then k.ssci else 0 } }

/-- What the next frame of an interface is wrapped in. -/
def wireOf (s : State) (port iface : Nat) (ip : Option IpWire) : Wire :=
  { vlan := if regF s (oEthIf port iface + 8) 15 15 = 1 then
        some (BitVec.ofNat 3 (pcpOf s port iface), BitVec.ofNat 12 (regF s (oEthIf port iface + 8) 11 0)) else none
    ip := ip, sec := secWire s port iface }

/-! ## Sending (R337, R338, R366) -/

/-- A frame accepted on a port is counted (R366). -/
def countRx (s : State) (port : Nat) : State := regWrap s (oEth port + 0x30) 31 0 1

/-- A frame sent on a port is counted (R366). -/
def countTx (s : State) (port : Nat) : State := regWrap s (oEth port + 0x34) 31 0 1

/-- A protected frame takes the next packet number of its key (R338). -/
def useSak (s : State) (port iface : Nat) : State :=
  if !macsecOn s port iface then s
  else { s with saks := s.saks.map fun k =>
    if k.port = port ∧ k.iface = iface ∧ k.an = txAn s port iface then { k with sent := k.sent + 1 } else k }

/-- The priorities for which a port runs PFC (R337). -/
def pfcEnabled (s : State) (port : Nat) : Nat := regF s (oEth port) 31 24

/-- Whether the priority of an interface of a port is paused by PFC, which the port applies to the priorities of PFC_EN alone (R337). -/
def ifacePaused (s : State) (port iface : Nat) : Bool :=
  (pfcEnabled s port).testBit (pcpOf s port iface) && s.pauses.any fun y => y.port == port && y.priority.toNat == pcpOf s port iface

/-- Whether an interface may send a frame now: its priority is not paused (R337), and where it protects frames there is a key
with a packet number left (R338; PRESUMED from IEEE 802.1AE, assumption 100: without one no frame leaves). -/
def maySendOn (s : State) (port iface : Nat) : Bool :=
  !ifacePaused s port iface && (!macsecOn s port iface || (sakOf s port iface (txAn s port iface)).any fun k =>
    decide (k.sent + 1 < (if xpnOn s port iface then 2 ^ 64 else 2 ^ 32)))

/-- A frame leaves its interface. -/
def sendFrame (s : State) (port iface : Nat) (o : Output) : State := emit (countTx (useSak s port iface) port) o

/-- A PTP message as a UDP datagram to its multicast address (PRESUMED from IEEE 1588-2019, assumption 100); its checksum is computed
over the message (R336), whose own bytes the manual does not lay out. -/
def ptpWire (s : State) (port iface : Nat) (v6 : Bool) (dst : Nat) (message : Bytes) : IpWire :=
  { ipWire s port iface v6 (some dst) with
    ports := some (319, 319), checksum := some (udpChecksum (ownIp s port iface v6) dst 319 319 message) }

/-- The IP packet of a frame that a control core or the time port sends. -/
def frameIp (s : State) (port iface : Nat) (f : OutFrame) : Option IpWire :=
  match f with
  | .arpReply _ | .pfc _ | .delayReq _ _ .ethernet => none
  | .neighborAdvert _ => some (ipWire s port iface true none)
  | .echoReply v6 _ => some (ipWire s port iface v6 none)
  | .delayReq d q .ipv4 => some (ptpWire s port iface false 0xE0000181 (Config.delayReqBytes port d q))
  | .delayReq d q .ipv6 => some (ptpWire s port iface true 0xFF0E0000000000000000000000000181 (Config.delayReqBytes port d q))

/-! ## Received frames (R334 to R338, R356) -/

/-- A frame filtered: dropped and counted (R334 to R336). -/
def filterFrame (s : State) (port : Nat) : State := regCount s (oEth port + 0x38) 15 0 1

/-- Whether a frame verifies under an association (R338): its sender ran the same cipher suite with the same SAK and, for extended
packet numbers, the same salt and SSCI. GCM-AES itself stands as this comparison (DESIGN CHOICE, assumption 113). -/
def sealOk (s : State) (port iface : Nat) (k : Sak) (z : Seal) : Bool :=
  z.key == k.key && (!xpnOn s port iface || (z.salt == k.salt && z.ssci == k.ssci))

/-- Verification, then replay protection with a window of 0 (R338): the frame's packet number must not be below the lowest acceptable
one, which then moves beyond it. None where the frame fails, or no key is installed for its association. -/
def takeProtected (s : State) (port iface : Nat) (an : BitVec 2) (pn : Nat) (z : Seal) : Option State :=
  (sakOf s port iface an).bind fun k =>
    if !sealOk s port iface k z ∨ pn < k.lowest then none
    else some { s with saks := s.saks.map fun x =>
      if x.port = port ∧ x.iface = iface ∧ x.an = an then { x with lowest := pn + 1 } else x }

/-- PFC for the free receive slots: XOFF below 512, XON from 1,024 on, for the PCP of every interface whose priority runs PFC on its
port (R337). -/
def pfcWatch (s : State) (free : Nat) : State :=
  let tell (s : State) (off : Bool) : State :=
    let up := s.ports.filter fun f => f.up && (pfcEnabled s f.port).testBit (pcpOf s f.port f.idx)
    up.foldl (fun s f => emit (countTx s f.port) (.frame f.port f.idx {} (.pfc off))) { s with xoff := off }
  if free < 512 ∧ !s.xoff then tell s true else if 1024 ≤ free ∧ s.xoff then tell s false else s

/-- A frame that the reserve pays for takes its slots while it is looked at, or is dropped and counted (R356). -/
def chargeReserve (s : State) (port slots : Nat) (use : State → State) : State :=
  if 1024 < slots ∨ rxFree s < slots then regCount s (oEth port + 0x38) 31 16 1
  else
    let s := use (countRx (pfcWatch s (rxFree s - slots)) port)
    pfcWatch s (rxFree s)

end Sys2Proof.Machine
end

