-- ==== Sys2Proof/Machine/Sessions.lean ====
section
/-! DEFINITION. Sessions: the packets the device keeps for a session (R349, R350, R362), replies (R372,
R373), completion ring entries (R377 to R379), and how a session opens, closes and fails (R352, R357,
R381, R384). -/

namespace Sys2Proof.Machine

open Sys2Proof

/-! ## Kept packets -/

/-- RTO_US of UTX_RTO in nanoseconds; 0 acts as 1 (R367). -/
def rtoInitial (s : State) : Nat := max 1 (regF s oUtxRto 15 0) * 1000

/-- RETRY_LIMIT of UTX_RTO; 0 acts as 1 (R367). -/
def retryLimit (s : State) : Nat := max 1 (regF s oUtxRto 23 16)

/-- Keeps a REQ or RSP until it is acknowledged, under the session's next PSN. It is sent by TX_SEND; the
retransmission timer starts when nothing was kept before (R350). -/
def keepPacket (s : State) (n : Nat) (k : Kept) : State :=
  sessMap s n fun x =>
    { x with
      kept := x.kept ++ [{ k with psn := x.nextPsn }]
      nextPsn := x.nextPsn + 1
      timerAt := if x.kept.isEmpty then s.clock.dt else x.timerAt
      rtoNs := if x.kept.isEmpty then rtoInitial s else x.rtoNs
      timeouts := if x.kept.isEmpty then 0 else x.timeouts }

/-- Where a session's packets go: to its other end, a host session's from the UTX port, another device's from 0xC000 + the index
of its node table entry (R340). -/
def destOf (s : State) (n : Nat) (x : Session) : Dest :=
  let j := if n < 4096 then 4095 - n else n - 4096
  { addr := x.addr, udp := x.udp
    from_ := if x.cls = .peer then 0xC000 + (s.nodes.findIdx? fun y => y.member == j).getD 0 else x.ownPort }

/-- A RSP of a session as it leaves after the session's close. -/
def partingOf (s : State) (n : Nat) (x : Session) (k : Kept) : Parting :=
  { port := x.port, iface := x.iface, dest := destOf s n x
    packet :=
      { session := n, type := 2, psn := k.psn, ackPsn := x.expect, creditLimit := x.grant, address := 0, op := k.op
        status := codeByte k.status, reqPsn := k.reqPsn, payload := k.payload } }

/-- The RSP that answers one REQ (R344): payload only with OK. A REQ that is still to be answered when its session closes
gets its one RSP all the same, which leaves once and is not kept. -/
def sendRsp (s : State) (n : Nat) (op : Byte) (reqPsn : BitVec 32) (code : Code) (payload : Bytes) : State :=
  let k : Kept := { psn := 0, isReq := false, op := op, status := code, reqPsn := reqPsn
                    payload := if code = .ok then payload else [] }
  match sfind s.sessions n with
  | some x =>
    if x.closed then
      sessSet { s with parting := s.parting ++ [partingOf s n x { k with psn := x.nextPsn }] } n { x with nextPsn := x.nextPsn + 1 }
    else keepPacket s n k
  | none => s

/-! ## Replies -/

/-- The session an Origin names. -/
def originSession (o : Origin) : Option Nat :=
  match o with
  | .session n => some n
  | .boot .. => none

/-- The bytes of a reply packet (R372). -/
def replyBytes (r : Reply) : Bytes :=
  [r.opcode, codeByte r.code] ++ toLE r.session.toNat 2 ++ toLE r.tag.toNat 4 ++ toLE r.result.length 4
    ++ toLE r.dsw.toNat 4 ++ toLE r.boundary 8 ++ toLE r.doneSeq.toNat 4 ++ toLE r.eventRef.toNat 4 ++ r.result

/-- The reply to a packet, with the DSW and the counts of the snapshot boundary (R372, R373, R398). -/
def makeReply (s : State) (p : Packet) (opcode : Byte) (code : Code) (result : Bytes) (ev : BitVec 32) : Reply :=
  let x := (originSession p.origin).bind (sessGet s)
  { origin := p.origin, opcode := opcode, code := code, tag := p.tag, result := result
    session := if (originSession p.origin).isSome then p.session else 0xFFFF
    dsw := dswOf s (x.any (·.slipSeen)) (x.any (·.holdSeen))
    boundary := s.beats
    doneSeq := (x.map (·.doneSnap)).getD 0
    eventRef := ev }

/-- The UTX packet around a BOOT reply (R354). -/
def bootOut (r : Reply) : UtxOut :=
  { session := 0xFFFF, type := 5, psn := 0, ackPsn := 0, creditLimit := 0, address := 0, op := 0, status := 0, reqPsn := 0
    payload := replyBytes r }

/-- An outgoing frame leaves. -/
def sendHeld (s : State) (y : HeldFrame) : State :=
  match y.what with
  | .frame f => sendFrame s y.port y.iface (.frame y.port y.iface (wireOf s y.port y.iface (frameIp s y.port y.iface f)) f)
  | .boot d r =>
    let ip := udpWire s y.port y.iface d (utxBytes (bootOut r))
    sendFrame s y.port y.iface (.reply { r with wire := some (wireOf s y.port y.iface (some ip)) })

/-- Whether the interface of a frame speaks the IP version that it goes out in (R335). -/
def heldIpOn (s : State) (y : HeldFrame) : Bool :=
  match y.what with
  | .boot d _ => ipOn s y.port y.iface d.addr
  | .frame f => (frameIp s y.port y.iface f).all fun w => ownIp s y.port y.iface w.v6 != 0

/-- A frame of the first class (R362) leaves at once, or waits until its interface may send it (R335, R337, R338). -/
def sendOrHold (s : State) (port iface : Nat) (what : Outgoing) : State :=
  let y : HeldFrame := { port := port, iface := iface, what := what }
  if maySendOn s port iface && heldIpOn s y then sendHeld s y else { s with heldOut := s.heldOut ++ [y] }

/-- A reply is to leave in a BOOT packet, to where its BOOT packet came from (R340, R354): TX_SEND sends it in its turn (R362). -/
def sendBoot (s : State) (port iface addr udp : Nat) (r : Reply) : State :=
  { s with heldOut := s.heldOut ++ [{ port := port, iface := iface, what := .boot { addr := addr, udp := udp, from_ := utxPort s } r }] }

/-- Sends a reply: it leaves as the payload of the WRITE's RSP when a WRITE carried the command (R368), and
the session's FLAGS bits start over (R401). -/
def sendReply (s : State) (p : Packet) (opcode : Byte) (code : Code) (result : Bytes) (ev : BitVec 32) : State :=
  let r := makeReply s p opcode code result ev
  match p.origin with
  | .boot port iface addr udp => sendBoot s port iface addr udp r
  | .session n =>
    let s := if (sessGet s n).isSome then emit s (.reply r) else s
    let s := sessMap s n fun x => { x with slipSeen := false, holdSeen := false }
    match p.reqPsn with
    | some psn => sendRsp s n 0x01 psn .ok (replyBytes r)
    | none => s

/-! ## The completion ring -/

/-- The ring entries that a session holds: posted and not yet passed by RING_ACK, or reserved (R379). -/
def ringHeld (x : Session) : Nat := (x.doneSeq - x.ringAck).toNat + x.reserved

/-- Whether a session may reserve a ring entry (R379). A BOOT command needs none. -/
def ringFree (s : State) (p : Packet) : Bool :=
  match (originSession p.origin).bind (sessGet s) with
  | some x => decide (ringHeld x < 256)
  | none => true

/-- Reserves a ring entry for a command (R379). -/
def ringReserve (s : State) (p : Packet) : State :=
  match originSession p.origin with
  | some n => sessMap s n fun x => { x with reserved := x.reserved + 1 }
  | none => s

/-- Posts an entry whose reservation the session holds (R378); nothing for a session that has closed. -/
def postNow (s : State) (q : Post) : State :=
  sessMap s q.session fun x =>
    { x with
      ring := ({ seq := x.doneSeq, tag := q.tag, opcode := q.opcode, code := q.code, ctx := q.ctx
                 dsw := dswOf s false false, boundary := s.beats, eventRef := q.eventRef
                 result := fit 32 q.result } :: x.ring).take 256
      doneSeq := x.doneSeq + 1
      reserved := x.reserved - 1 }

/-- Posts the entry of a command at once, within a beat. -/
def postEntry (s : State) (p : Packet) (opcode : Byte) (code : Code) (result : Bytes)
    (ctx : Option Nat := none) (ev : BitVec 32 := 0xFFFFFFFF) : State :=
  match originSession p.origin with
  | some n => postNow s { session := n, tag := p.tag, opcode := opcode, code := code, ctx := ctx, eventRef := ev
                          result := result }
  | none => s

/-- Posts the entry of a command at the boundary being taken. -/
def postLater (s : State) (p : Packet) (opcode : Byte) (code : Code) (result : Bytes)
    (ctx : Option Nat := none) (ev : BitVec 32 := 0xFFFFFFFF) : State :=
  match originSession p.origin with
  | some n => { s with posts := s.posts ++ [{ session := n, tag := p.tag, opcode := opcode, code := code
                                              ctx := ctx, eventRef := ev, result := result }] }
  | none => s

/-- Forms a reply at the boundary being taken (R376). -/
def replyLater (s : State) (p : Packet) (opcode : Byte) (code : Code) (result : Bytes := [])
    (ev : BitVec 32 := 0xFFFFFFFF) : State :=
  { s with lateReplies := s.lateReplies ++ [{ p := p, opcode := opcode, code := code, eventRef := ev, result := result }] }

/-- Once the boundary's snapshot stands: its entries are posted, DONE_SEQ is taken, its replies are formed. -/
def flushPosts (s : State) : State :=
  let posts := s.posts
  let late := s.lateReplies
  let s : State := posts.foldl postNow { s with posts := [], lateReplies := [] }
  let s : State := { s with sessions := s.sessions.map fun (n, x) => (n, { x with doneSnap := x.doneSeq }) }
  late.foldl (fun s r => sendReply s r.p r.opcode r.code r.result r.eventRef) s

/-- The byte at an offset of a session's completion ring (R378): entry j at (j mod 256) × 64. -/
def ringByte (x : Session) (off : Nat) : Byte :=
  match x.ring.find? (fun e => e.seq.toNat % 256 == off / 64) with
  | none => 0
  | some e =>
    let b := toLE e.seq.toNat 4 ++ toLE e.tag.toNat 4 ++ [e.opcode, codeByte e.code]
      ++ toLE (e.ctx.getD 0) 2 ++ toLE e.dsw.toNat 4 ++ toLE e.boundary 8 ++ toLE e.eventRef.toNat 4
      ++ [BitVec.ofNat 8 e.ctx.isSome.toNat, 0, 0, 0] ++ fit 32 e.result
    b.getD (off % 64) 0

/-- The byte that a READ of a command window returns at an offset (R369). -/
def windowByte (x : Session) (off : Nat) : Byte :=
  if 0x8000 ≤ off ∧ off < 0xC000 then ringByte x (off - 0x8000) else 0

/-! ## Opening -/

/-- MAX_FRAME of a port; values outside 1,518 to 9,216 act as 9,216 (R366). -/
def maxFrame (s : State) (port : Nat) : Nat :=
  let m := regF s (oEth port) 15 2
  if 1518 ≤ m ∧ m ≤ 9216 then m else 9216

/-- The segment size for a largest frame (R342). -/
def segmentFor (m : Nat) : Nat :=
  if 8192 + 130 ≤ m then 8192 else if 4096 + 130 ≤ m then 4096 else if 2048 + 130 ≤ m then 2048
  else if 1024 + 130 ≤ m then 1024 else if 512 + 130 ≤ m then 512 else 256

/-- The segment size of an interface of a port now (R342). -/
def segmentOf (s : State) (port : Nat) : Nat := segmentFor (maxFrame s port)

/-- The least window that a session may be granted: the segment size over 2 KiB, or 1 (R357). -/
def leastWindow (segment : Nat) : Nat := max 1 (segment / 2048)

/-- The window granted for a request: the request, reduced to what remains, and never less than the least
(R357); none when the least cannot be granted. -/
def grantWindow (s : State) (segment requested : Nat) : Option Nat :=
  if ungranted s < leastWindow segment then none
  else some (max (leastWindow segment) (min requested (ungranted s)))

/-- The lowest session number that is neither open nor reserved (DESIGN CHOICE, assumption 57; R383 names no rule). -/
def freeSession (s : State) : Option Nat :=
  let used := (s.sessions.map (·.1)).filter (· < 4096) ++ s.reservations.map (·.session)
  if used.length < 4096 then (List.range (used.length + 1)).find? fun n => !used.contains n else none

/-- What stands for the number of a session that has closed, once another has its number: no session is ever 0xFFFF. -/
def nobody : Nat := 0xFFFF

/-- The packet of a command whose session's number passes to another session. -/
def disownPacket (n : Nat) (p : Packet) : Packet := if p.origin = .session n then { p with origin := .session nobody } else p

/-- The owner of a context or stream whose session's number passes to another session. -/
def disownNumber (n k : Nat) : Nat := if k = n then nobody else k

/-- A command that waits for the boundary, of a session whose number passes to another. -/
def disownWaiting (n : Nat) (w : BoundaryCmd) : BoundaryCmd :=
  match w with
  | .submit c => .submit { c with owner := disownNumber n c.owner }
  | .job r => .job { r with p := disownPacket n r.p }
  | .page r => .page { r with p := disownPacket n r.p }

/-- A closed session's number passes to a new one: no context, stream or command in progress of the closed session is named by it
any more, so that none of their outcomes is posted to the new session (R381, R392). -/
def disown (s : State) (n : Nat) : State :=
  let pk := disownPacket n
  { s with
    ctxs := s.ctxs.map fun c => { c with owner := disownNumber n c.owner }
    waiting := s.waiting.map (disownWaiting n)
    saves := s.saves.map fun x => { x with p := pk x.p }
    restores := s.restores.map fun x => { x with p := pk x.p, ctx := { x.ctx with owner := disownNumber n x.ctx.owner } }
    imageOps := s.imageOps.map fun x => { x with p := pk x.p }
    streams := s.streams.map fun x =>
      { x with owner := disownNumber n x.owner, frames := x.frames.map fun f => { f with p := pk f.p }, closing := x.closing.map pk }
    atts := s.atts.map pk
    diag := s.diag.map fun x => { x with p := pk x.p }
    flash := { s.flash with stage := s.flash.stage.map pk, commit := s.flash.commit.map pk }
    group := s.group.map fun g => { g with p := pk g.p, leaving := g.leaving.map pk } }

/-- Opens a session (R357, R383, R384); the first PSN of the device's packets is a free value. -/
def openSession (s : State) (n : Nat) (cls : Cls) (port iface addr udp window segment : Nat)
    (psnReq : BitVec 32) : State :=
  let (v, s) := freeVal s
  let psn := BitVec.ofNat 32 v
  sessSet (disown s n) n
    { cls := cls, port := port, iface := iface, addr := addr, udp := udp, ownPort := utxPort s, window := window, segment := segment
      expect := psnReq, nakFor := none, grant := BitVec.ofNat 32 window, held := 0, nextPsn := psn, kept := []
      ackSent := psnReq, grantSent := BitVec.ofNat 32 window, ackSince := none, accepted := 0, ackNow := false
      timeouts := 0, rtoNs := rtoInitial s, timerAt := s.clock.dt, ringAck := 0, doneSeq := 0, ring := []
      reserved := 0, slipSeen := false, holdSeen := false, peerGrant := 0, peerUsed := 0 }

/-! ## Closing and failing -/

/-- A close of every stream of a session, as VID_CLOSE would, without an entry of its own (R381, R442): a DAMAGED stream closes
at once. -/
def closeStreams (s : State) (n : Nat) : State :=
  { s with streams := (s.streams.filter fun x => !(x.owner == n && x.damaged)).map fun x =>
      if x.owner = n then { x with closingNoEntry := true } else x }

/-- The RSPs that a session has not yet sent, as they leave after its close: every REQ gets exactly one (R344). -/
def owedRsps (s : State) (n : Nat) (x : Session) : List Parting :=
  (x.kept.filter fun k => !k.isReq && !k.sent).map (partingOf s n x)

/-- Closes a session (R357, R381): its streams close, its ring and kept packets go, its jobs stay; the RSPs that it
owes still leave (R344). Its window returns when its last slot is released. A node table entry is left without a
session (R352). -/
def closeSession (s : State) (n : Nat) : State :=
  match sessGet s n with
  | none => s
  | some x =>
    let s := closeStreams { s with parting := s.parting ++ owedRsps s n x } n
    let s := { s with nodes := s.nodes.map fun k => if k.session = some n then { k with session := none } else k }
    if x.held = 0 then { s with sessions := sdel s.sessions n }
    else sessSet s n { x with closed := true, ring := [], kept := [], reserved := 0 }

/-- Releases slots that a REQ of a session held, and raises G by as much (R359). -/
def releaseSlots (s : State) (n cost : Nat) : State :=
  match sfind s.sessions n with
  | none => s
  | some x =>
    let left := x.held - cost
    if x.closed ∧ left = 0 then { s with sessions := sdel s.sessions n }
    else sessSet s n { x with
      held := left, grant := x.grant + BitVec.ofNat 32 cost
      ackSince := if x.ackSince.isSome then x.ackSince else some s.clock.dt
      ackNow := x.ackNow || decide (x.window ≤ 4 * (x.grant + BitVec.ofNat 32 cost - x.grantSent).toNat) }

/-- A session fails (R352): logged, counted, and closed as by SESSION_CLOSE. -/
def failSession (s : State) (n : Nat) : State :=
  match sessGet s n with
  | none => s
  | some _ => closeSession (regCount (logEvent s 0x0501 (unitOf 8 n) none []) oUtxFails 15 0 1) n

/-! ## Interfaces -/

/-- How many interfaces a mode has (R331); mode 3 is the fallback, with one. -/
def interfacesOf (mode : Nat) : Nat :=
  match mode with
  | 1 => 2
  | 2 => 4
  | _ => 1

/-- Whether an interface is up. -/
def ifaceUp (s : State) (port i : Nat) : Bool := (regF s (oEth port + 8) 3 0).testBit i

/-- A port's interfaces after its mode becomes `active`: all down and training, with the sessions bound to
an interface that no longer exists failed, and what closed sessions owed there lost (R331, R352). -/
def retrainPort (s : State) (port active : Nat) : State :=
  let n := interfacesOf active
  let s := regSetF (regSetF s (oEth port + 8) 5 4 active) (oEth port + 8) 3 0 0
  let others := s.ports.filter fun f => f.port != port
  let fresh := (List.range n).map fun i => ({ port := port, idx := i, attemptAt := s.clock.wall } : Iface)
  let s : State := { s with ports := others ++ fresh }
  let gone := s.sessions.filterMap fun (k, x) => if x.port = port ∧ n ≤ x.iface ∧ !x.closed then some k else none
  let s := gone.foldl failSession s
  { s with parting := s.parting.filter fun y => !(y.port == port && decide (n ≤ y.iface)) }

end Sys2Proof.Machine
end

