-- ==== Sys2Proof/Machine/Clock.lean ====
section
/-! DEFINITION. The passing of time (R83, R285) and a change of time state (R290, R291). -/

namespace Sys2Proof.Machine

open Sys2Proof

/-- One tick of the time clock, 1 ns of wall time: DT adds the increment (R285), and health time counts at
the nominal increment while the device is out of OFF (R83). DT does not run in OFF. -/
def tickClock (off : Bool) (c : Clock) : Clock :=
  if off then { c with wall := c.wall + 1 }
  else
    { c with
      dt := c.dt + c.inc
      wall := c.wall + 1
      healthNs := (c.healthNs + 1) % 1000000000
      health := if c.healthNs + 1 = 1000000000 then c.health + 1 else c.health }

/-- The device with no command waiting: 1 ns passes (DESIGN CHOICE; R83, R285). -/
def idle (s : State) : State :=
  { s with out := [], clock := tickClock (s.power.phase == .off) s.clock }

/-! ## The holdover estimate (R289) -/

/-- The weighted sum of increments over the most recent n ns of stretches, and the ns found. -/
def segSum : Nat → List (Nat × Nat) → Nat × Nat
  | _, [] => (0, 0)
  | 0, _ => (0, 0)
  | n, (inc, d) :: t =>
    let k := min n d
    let (s, m) := segSum (n - k) t
    (inc * k + s, k + m)

/-- The stretches of LOCKED up to now. -/
def segsNow (s : State) : List (Nat × Nat) :=
  if s.disc.state = .locked then (s.clock.inc, s.clock.wall - s.disc.segAt) :: s.disc.segs else s.disc.segs

/-- The mean increment over the most recent 64 s spent in LOCKED; the present increment when there has been none (DESIGN
CHOICE). -/
def estimateNow (s : State) : Nat :=
  let (a, m) := segSum 64000000000 (segsNow s)
  if m = 0 then s.clock.inc else a / m

/-- The stretch of LOCKED that ends now joins the history. -/
def closeSeg (s : State) : State :=
  { s with disc := { s.disc with segs := (segsNow s).take 8704, segAt := s.clock.wall } }

/-- The increment changes. -/
def setInc (s : State) (inc : Nat) : State :=
  let s := if s.disc.state = .locked then closeSeg s else s
  { s with clock := { s.clock with inc := inc } }

/-- The nearest value of `v` within lo to hi. -/
def clampN (lo hi v : Nat) : Nat := min hi (max lo v)

/-- An increment held to the bounds of R289 in a time state: ±100 ppm of nominal in ACQUIRING, ±10 ppm of the holdover estimate
in LOCKED. -/
def boundInc (s : State) (t : TimeState) (inc : Nat) : Nat :=
  match t with
  | .locked =>
    let e := estimateNow s
    clampN (e - e * 10 / 1000000) (e + e * 10 / 1000000) inc
  | .acquiring => clampN (2 ^ 32 - 2 ^ 32 * 100 / 1000000) (2 ^ 32 + 2 ^ 32 * 100 / 1000000) inc
  | _ => inc

/-- The time state becomes `new` (R290): the change is logged, the increment follows R289 and R291, and PPS_OUT is low in ACQUIRING
and FREE (R292). -/
def setTime (s : State) (new : TimeState) : State :=
  if s.disc.state = new then s
  else
    let old := s.disc.state
    let s := logEvent s 0x0401 (unitOf 0 0) none [BitVec.ofNat 8 (timeByte old), BitVec.ofNat 8 (timeByte new)]
    let s := if old = .locked then closeSeg s else s
    let inc := match new with
      | .holdover => estimateNow s
      | .free => if s.disc.everLocked then s.clock.inc else 2 ^ 32
      | _ => boundInc s new s.clock.inc
    { s with
      clock := { s.clock with inc := inc }
      disc := { s.disc with
        state := new, good := 0, bad := 0
        everLocked := s.disc.everLocked || (new == .locked)
        lockedAt := if old = .locked then some s.clock.dt else s.disc.lockedAt
        segAt := if new = .locked then s.clock.wall else s.disc.segAt
        ppsHigh := s.disc.ppsHigh && (new == .locked || new == .holdover)
        holdoverAt := if new = .holdover then s.clock.dt else s.disc.holdoverAt } }

end Sys2Proof.Machine
end

