-- ==== Sys2Proof/Machine/Numbers.lean ====
section
/-! DEFINITION. Number formats (R36 to R44), exact values, FP32 arithmetic with one rounding (R47 to R49,
R62), round to odd (R53), final rounding and overflow (R56 to R60), packing (R41). -/

namespace Sys2Proof.Machine

open Sys2Proof

/-- Positive zero. -/
def vzero : Val := .fin false 0 0

/-- Bits of a floating-point format: exponent bits, fraction bits, bias (R37). -/
structure FloatFmt where
  ebits : Nat
  fbits : Nat
  bias  : Int
  deriving DecidableEq, Repr

/-- The fields of a floating-point format code; none for the integer and reserved codes (R36, R37). -/
def floatFmt (code : Nat) : Option FloatFmt :=
  match code with
  | 0 => some ⟨8, 23, 127⟩
  | 1 => some ⟨8, 7, 127⟩
  | 2 => some ⟨5, 10, 15⟩
  | 3 => some ⟨4, 3, 7⟩
  | 4 => some ⟨5, 2, 15⟩
  | 5 => some ⟨3, 2, 3⟩
  | 6 => some ⟨2, 3, 1⟩
  | 7 => some ⟨2, 1, 1⟩
  | _ => none

/-- The width of a format in bits; 0 for a reserved code (R36). -/
def fmtWidth (code : Nat) : Nat :=
  match code with
  | 0 => 32
  | 1 | 2 => 16
  | 3 | 4 | 8 => 8
  | 5 | 6 => 6
  | 7 | 9 => 4
  | _ => 0

/-- Whether a format code is one of the two integer formats. -/
def isInt (code : Nat) : Bool := code == 8 || code == 9

/-- Whether a format may carry block scales (R42). -/
def mayScale (code : Nat) : Bool := decide (3 ≤ code ∧ code ≤ 9)

/-- Whether a format has a NaN encoding (R38). -/
def hasNan (code : Nat) : Bool := decide (code ≤ 4)

/-- Whether a format has infinities (R38). -/
def hasInf (code : Nat) : Bool := code == 0 || code == 1 || code == 2 || code == 4

/-- The canonical NaN of a format (R38). -/
def canonicalNan (code : Nat) : Nat :=
  match code with
  | 0 => 0x7FC00000
  | 1 => 0x7FC0
  | 2 => 0x7E00
  | 3 => 0x7F
  | 4 => 0x7E
  | _ => 0

/-- The encoding of a format's largest finite value (R38). -/
def maxFinite (code : Nat) : Nat :=
  match code with
  | 0 => 0x7F7FFFFF
  | 1 => 0x7F7F
  | 2 => 0x7BFF
  | 3 => 0x7E
  | 4 => 0x7B
  | 5 | 6 => 0x1F
  | 7 => 0x7
  | 8 => 127
  | _ => 7

/-- A floating-point element without its sign (R37, R38). -/
def decodeMag (code : Nat) (f : FloatFmt) (neg : Bool) (x : Nat) : Val :=
  let frac := x % 2 ^ f.fbits
  let ex := x / 2 ^ f.fbits
  if hasInf code ∧ ex = 2 ^ f.ebits - 1 then (if frac = 0 then .inf neg else .nan)
  else if code = 3 ∧ x = 0x7F then .nan
  else if ex = 0 then .fin neg frac (1 - f.bias - f.fbits)
  else .fin neg (frac + 2 ^ f.fbits) ((ex : Int) - f.bias - f.fbits)

/-- A signed integer of w bits. -/
def signedOf (w x : Nat) : Int := if x < 2 ^ (w - 1) then x else (x : Int) - 2 ^ w

/-- The exact value of a signed integer times a power of two. -/
def valOfInt (n : Int) (e : Int) : Val := .fin (decide (n < 0)) n.natAbs e

/-- Decodes one element; a scaled integer is fixed point (R37 to R39). -/
def decodeElem (code : Nat) (scaled : Bool) (x : Nat) : Val :=
  match floatFmt code with
  | some f =>
    let w := fmtWidth code
    let neg := x.testBit (w - 1)
    decodeMag code f neg (x % 2 ^ (w - 1))
  | none =>
    if code = 8 then valOfInt (signedOf 8 (x % 256)) (if scaled then -6 else 0)
    else valOfInt (signedOf 4 (x % 16)) (if scaled then -2 else 0)

/-- Multiplies by an E8M0 scale (R40, R43). -/
def applyScale (v : Val) (code : Byte) : Val :=
  if code = 0xFF then .nan
  else match v with
    | .fin n m e => .fin n m (e + (code.toNat : Int) - 127)
    | x => x

/-- Decodes one element with its block scale, when it carries one (R43). -/
def decodeScaled (code : Nat) (scale : Option Byte) (x : Nat) : Val :=
  match scale with
  | some s => applyScale (decodeElem code true x) s
  | none => decodeElem code false x

/-! ## Exact arithmetic (R49) -/

/-- A product; an infinity times zero is NaN. -/
def vmul (a b : Val) : Val :=
  match a, b with
  | .nan, _ | _, .nan => .nan
  | .inf s, .inf t => .inf (s != t)
  | .inf s, .fin t m _ => if m = 0 then .nan else .inf (s != t)
  | .fin s m _, .inf t => if m = 0 then .nan else .inf (s != t)
  | .fin s m e, .fin t n f => .fin (s != t) (m * n) (e + f)

/-- The signed mantissa at exponent q ≤ e. -/
def mantAt (neg : Bool) (m : Nat) (e q : Int) : Int :=
  let x := m * 2 ^ (e - q).toNat
  if neg then -(x : Int) else x

/-- A sum; infinities of opposite sign give NaN; a zero sum is +0 unless both terms are −0. -/
def vadd (a b : Val) : Val :=
  match a, b with
  | .nan, _ | _, .nan => .nan
  | .inf s, .inf t => if s = t then .inf s else .nan
  | .inf s, .fin .. => .inf s
  | .fin .., .inf t => .inf t
  | .fin s m e, .fin t n f =>
    if m = 0 ∧ n = 0 then .fin (s && t) 0 0
    else if m = 0 then .fin t n f
    else if n = 0 then .fin s m e
    else
      let q := min e f
      let x := mantAt s m e q + mantAt t n f q
      if x = 0 then vzero else .fin (decide (x < 0)) x.natAbs q

/-- Changes the sign. -/
def vneg (a : Val) : Val :=
  match a with
  | .fin s m e => .fin (!s) m e
  | .inf s => .inf (!s)
  | .nan => .nan

/-- Whether a finite value's magnitude comparison a < b holds. -/
def magLt (m : Nat) (e : Int) (n : Nat) (f : Int) : Bool :=
  let q := min e f
  decide (m * 2 ^ (e - q).toNat < n * 2 ^ (f - q).toNat)

/-- Order of two values that are not NaN; −0 equals +0. -/
def vlt (a b : Val) : Bool :=
  match a, b with
  | .nan, _ | _, .nan => false
  | .inf s, .inf t => s && !t
  | .inf s, .fin .. => s
  | .fin .., .inf t => !t
  | .fin s m e, .fin t n f =>
    let q := min e f
    decide (mantAt s m e q < mantAt t n f q)

/-! ## Rounding -/

/-- The two final roundings: to nearest even, or stochastic with r bits and the value u (R56, R57). -/
inductive Rounding where
  | rne
  | sr (r u : Nat)
  deriving DecidableEq, Repr

/-- round_mag: how many units of 2^q the magnitude m × 2^e rounds to. -/
def roundUlps (m : Nat) (e q : Int) (rnd : Rounding) : Nat :=
  if q ≤ e then m * 2 ^ (e - q).toNat
  else
    let sh := (q - e).toNat
    let n := m / 2 ^ sh
    let r := m % 2 ^ sh
    let up :=
      match rnd with
      | .rne => decide (2 ^ sh < 2 * r) || (2 * r == 2 ^ sh && n % 2 == 1)
      | .sr bits u => decide (2 ^ bits ≤ r * 2 ^ bits / 2 ^ sh + u)
    if up then n + 1 else n

/-- Round to odd at p significand bits (R53). -/
def rtoVal (p : Nat) (v : Val) : Val :=
  match v with
  | .fin s m e =>
    if m < 2 ^ p then v
    else
      let sh := log2 m + 1 - p
      let n := m / 2 ^ sh
      let n := if m % 2 ^ sh ≠ 0 ∧ n % 2 = 0 then n + 1 else n
      .fin s n (e + sh)
  | x => x

/-- The exponent of a magnitude's leading bit. -/
def ilogb (m : Nat) (e : Int) : Int := (log2 m : Int) + e

/-- The encoding, without sign, of n units of 2^q in a floating-point format, and whether it exceeds the
largest finite value. q is at least the subnormal spacing; n < 2^(p + 1). -/
def encodeMag (code : Nat) (f : FloatFmt) (n : Nat) (q : Int) : Nat × Bool :=
  let qmin := 1 - f.bias - f.fbits
  let x := if n < 2 ^ f.fbits then n
    else
      -- normal: exponent field, then the fraction; a carry out of the significand rolls into the exponent
      ((q - qmin).toNat + 1) * 2 ^ f.fbits + (n - 2 ^ f.fbits)
  (x, decide (maxFinite code < x))

/-- Rounds a finite magnitude to a floating-point format: the encoding without sign, and overflow. -/
def roundFloat (code : Nat) (f : FloatFmt) (m : Nat) (e : Int) (rnd : Rounding) : Nat × Bool :=
  if m = 0 then (0, false)
  else
    let q := max (ilogb m e) (1 - f.bias) - f.fbits
    encodeMag code f (roundUlps m e q rnd) q

/-- The sign bit of an encoding. -/
def signBit (code : Nat) (neg : Bool) : Nat := if neg then 2 ^ (fmtWidth code - 1) else 0

/-- Overflow of R59, with the sign: `ieee` is the overflow mode. -/
def overflowed (code : Nat) (ieee neg : Bool) : Nat :=
  if code = 8 then (if neg then 0x80 else 127)
  else if code = 9 then (if neg then 8 else 7)
  else if ieee ∧ hasInf code then
    (match floatFmt code with
     | some f => (2 ^ f.ebits - 1) * 2 ^ f.fbits + signBit code neg
     | none => 0)
  else if ieee ∧ code = 3 then canonicalNan 3
  else maxFinite code + signBit code neg

/-- How a final rounding is done: rounding and overflow mode. -/
structure Final where
  rnd  : Rounding := .rne
  ieee : Bool := false
  deriving DecidableEq, Repr

/-- The final rounding of one value to a format (R56 to R60): the element's bits, and whether a NaN found no
encoding and was written as zero. A scaled integer destination has fraction bits (R39). -/
def storeElem (code : Nat) (scaled : Bool) (o : Final) (v : Val) : Nat × Bool :=
  match v with
  | .nan => if hasNan code then (canonicalNan code, false) else (0, true)
  | .inf s => (overflowed code o.ieee s, false)
  | .fin s m e =>
    match floatFmt code with
    | some f =>
      let r := roundFloat code f m e o.rnd
      if r.2 then (overflowed code o.ieee s, false) else (r.1 + signBit code s, false)
    | none =>
      let w := fmtWidth code
      let n := roundUlps m (e + (if scaled then (if code = 8 then 6 else 2) else 0)) 0 o.rnd
      let top := 2 ^ (w - 1)
      if (if s then top < n else top ≤ n) then (overflowed code o.ieee s, false)
      else if s then ((2 ^ w - n) % 2 ^ w, false)
      else (n, false)

/-! ## FP32 (R47, R48, R62) -/

/-- An FP32 word's value. -/
def f32Val (w : Word) : Val := decodeElem 0 false w.toNat

/-- One rounding to FP32, to nearest even; overflow gives an infinity (R48). -/
def toF32 (v : Val) : Word := BitVec.ofNat 32 (storeElem 0 false { rnd := .rne, ieee := true } v).1

/-- FP32 addition. -/
def fadd (a b : Word) : Word := toF32 (vadd (f32Val a) (f32Val b))

/-- FP32 subtraction. -/
def fsub (a b : Word) : Word := toF32 (vadd (f32Val a) (vneg (f32Val b)))

/-- FP32 multiplication. -/
def fmul (a b : Word) : Word := toF32 (vmul (f32Val a) (f32Val b))

/-- FP32 fused multiply-add, one rounding: a × b + c. -/
def fma (a b c : Word) : Word := toF32 (vadd (vmul (f32Val a) (f32Val b)) (f32Val c))

/-- Floor of the square root. -/
def isqrt (n : Nat) : Nat := Nat.sqrt n

/-- FP32 division, rounded to nearest even. A quotient of finite values is taken to 40 bits beyond FP32 with a
sticky bit, so that one rounding follows. -/
def fdiv (a b : Word) : Word :=
  match f32Val a, f32Val b with
  | .nan, _ | _, .nan => 0x7FC00000
  | .inf _, .inf _ => 0x7FC00000
  | .inf s, .fin t _ _ => toF32 (.inf (s != t))
  | .fin s _ _, .inf t => toF32 (.fin (s != t) 0 0)
  | .fin s m e, .fin t n f =>
    if n = 0 then (if m = 0 then 0x7FC00000 else toF32 (.inf (s != t)))
    else if m = 0 then toF32 (.fin (s != t) 0 0)
    else
      let x := m * 2 ^ 90
      let q := 2 * (x / n) + (if x % n = 0 then 0 else 1)
      toF32 (.fin (s != t) q (e - f - 91))

/-- FP32 square root, rounded to nearest even, by an exact integer root with a sticky bit. -/
def fsqrt (a : Word) : Word :=
  match f32Val a with
  | .nan => 0x7FC00000
  | .inf s => if s then 0x7FC00000 else a
  | .fin s m e =>
    if m = 0 then a
    else if s then 0x7FC00000
    else
      let odd : Nat := (e % 2).toNat
      let x := m * 2 ^ (odd + 80)
      let r := isqrt x
      let q := 2 * r + (if r * r = x then 0 else 1)
      toF32 (.fin false q ((e - odd - 80) / 2 - 1))

/-- An FP32 constant of a small integer. -/
def f32Int (n : Int) : Word := toF32 (valOfInt n 0)

/-- Whether an FP32 word is NaN. -/
def isNan32 (w : Word) : Bool := f32Val w == .nan

/-- FP32 maximum; a NaN operand gives NaN, and +0 is above −0. -/
def fmax (a b : Word) : Word :=
  if isNan32 a ∨ isNan32 b then 0x7FC00000
  else if vlt (f32Val a) (f32Val b) then b
  else if vlt (f32Val b) (f32Val a) then a
  else if a = 0x80000000 then b else a

/-- A 32-bit integer sum as FP32, rounded to odd (R51). -/
def intToF32 (w : Word) : Word := toF32 (rtoVal 24 (valOfInt w.toInt 0))

/-! ## Packing (R41) -/

/-- The bytes that n elements of a width take; n is a whole number of groups. -/
def packedBytes (width n : Nat) : Nat := ceilDiv (width * n) 8

/-- Element i of packed bytes. Elements of 8 bits and more are little-endian; narrower ones are packed from
the least significant bit up, which is R41 for 4 and for 6 bits. -/
def elemAt (width : Nat) (b : Bytes) (i : Nat) : Nat :=
  let lo := width * i
  (leNat (slice b (lo / 8) (ceilDiv (lo % 8 + width) 8)) / 2 ^ (lo % 8)) % 2 ^ width

/-- The first n elements of packed bytes. -/
def unpack (width n : Nat) (b : Bytes) : List Nat := (List.range n).map (elemAt width b)

/-- Packs elements: their bits, element 0 lowest. -/
def packNat (width : Nat) : List Nat → Nat
  | [] => 0
  | x :: t => x % 2 ^ width + 2 ^ width * packNat width t

/-- The bytes of packed elements. -/
def pack (width : Nat) (xs : List Nat) : Bytes := toLE (packNat width xs) (packedBytes width xs.length)

end Sys2Proof.Machine
end

