-- ==== Sys2Proof/Machine/Opal.lean ====
section
/-! DEFINITION. The Opal function of R201, its lanes (R205), its counter (R200, R207, R208) and the division
of a draw (R202, R209). -/

namespace Sys2Proof.Machine

open Sys2Proof

/-- Four 32-bit words, word 0 first. -/
structure Quad where
  w0 : Word
  w1 : Word
  w2 : Word
  w3 : Word
  deriving DecidableEq, Repr

/-- Word i of four, i taken modulo 4. -/
def quadWord (q : Quad) (i : Nat) : Word :=
  match i % 4 with
  | 0 => q.w0
  | 1 => q.w1
  | 2 => q.w2
  | _ => q.w3

/-- The rotation table of R201, by r mod 4. -/
def opalRot (r : Nat) : Nat × Nat :=
  match r % 4 with
  | 0 => (13, 20)
  | 1 => (6, 24)
  | 2 => (17, 8)
  | _ => (25, 12)

/-- The key schedule word k[i mod 5] of R201. -/
def opalKey (k : Quad) (i : Nat) : Word :=
  match i % 5 with
  | 0 => k.w0
  | 1 => k.w1
  | 2 => k.w2
  | 3 => k.w3
  | _ => 0x6F70616C#32 ^^^ k.w0 ^^^ k.w1 ^^^ k.w2 ^^^ k.w3

/-- One round of R201: two additions and rotations, then words 1 and 3 change places. -/
def opalMix (r : Nat) (x : Quad) : Quad :=
  let a0 := x.w0 + x.w1
  let a1 := x.w1.rotateLeft (opalRot r).1 ^^^ a0
  let a2 := x.w2 + x.w3
  let a3 := x.w3.rotateLeft (opalRot r).2 ^^^ a2
  ⟨a0, a3, a2, a1⟩

/-- Injection s of R201, s from 1 to 3. -/
def opalInject (k : Quad) (s : Nat) (x : Quad) : Quad :=
  ⟨x.w0 + opalKey k s, x.w1 + opalKey k (s + 1), x.w2 + opalKey k (s + 2),
   x.w3 + opalKey k (s + 3) + BitVec.ofNat 32 s⟩

/-- Four rounds and the injection after them. -/
def opalStage (k : Quad) (s : Nat) (x : Quad) : Quad :=
  opalInject k s (opalMix 3 (opalMix 2 (opalMix 1 (opalMix 0 x))))

/-- A draw (R201). -/
def opalDraw (k c : Quad) : Quad :=
  let x : Quad := ⟨c.w0 + k.w0, c.w1 + k.w1, c.w2 + k.w2, c.w3 + k.w3⟩
  opalStage k 3 (opalStage k 2 (opalStage k 1 x))

/-- The key of a job in a lane (R200, R205). -/
def opalJobKey (seed stream : BitVec 64) (lane : Nat) : Quad :=
  let s := stream + BitVec.ofNat 64 lane
  ⟨seed.truncate 32, (seed >>> 32).truncate 32, s.truncate 32, (s >>> 32).truncate 32⟩

/-- The counter of a block at a step for a tensor ID (R200, R207). -/
def opalCounter (block : Nat) (step tensor : Word) : Quad :=
  ⟨BitVec.ofNat 32 block, BitVec.ofNat 32 (block / 2 ^ 32), step, tensor⟩

/-- The 128-bit output Y (R202). -/
def quadNat (q : Quad) : Nat :=
  q.w0.toNat + q.w1.toNat * 2 ^ 32 + q.w2.toNat * 2 ^ 64 + q.w3.toNat * 2 ^ 96

/-- What a job's draws need: its seed, its stream ID and the step of the pass. -/
structure OpalJob where
  seed   : BitVec 64
  stream : BitVec 64
  step   : Word
  deriving DecidableEq, Repr

/-- The w bits of element `index` in a use with group size g (R208, R209). -/
def opalBits (j : OpalJob) (lane : Nat) (tensor : Word) (g w index : Nat) : Nat :=
  let y := quadNat (opalDraw (opalJobKey j.seed j.stream lane) (opalCounter (index / g) j.step tensor))
  (y >>> (w * (index % g))) % 2 ^ w

/-- u of R58 for stochastic rounding: 4 bits, or the upper 3 of them (R209). -/
def opalRound (j : OpalJob) (tensor : Word) (sr3 : Bool) (index : Nat) : Nat :=
  let u := opalBits j 0 tensor 32 4 index
  if sr3 then u / 2 else u

end Sys2Proof.Machine
end

