-- ==== Sys2Proof/Machine/Digest.lean ====
section
/-! DEFINITION. Garnet digests: the element hash (R323), the running sums of a pass (R324, R327) and of the
partner of a mirrored pair (R308, R309). -/

namespace Sys2Proof.Machine

open Sys2Proof

/-- The element hash of R323. `scale` is the block's E8M0 code when the tensor is scaled. -/
def elementHash (layer fmt : Nat) (scale : Option Byte) (index bits : Nat) : BitVec 128 :=
  let key : Quad := ⟨BitVec.ofNat 32 layer, BitVec.ofNat 32 (fmt + (if scale.isSome then 16 else 0)), 0, 0⟩
  let ctr : Quad :=
    ⟨BitVec.ofNat 32 index, BitVec.ofNat 32 (index / 2 ^ 32), BitVec.ofNat 32 bits
     , BitVec.ofNat 32 ((scale.map (·.toNat)).getD 0)⟩
  BitVec.ofNat 128 (quadNat (opalDraw key ctr))

/-- Adds to the running sum of a layer; the layers are held in ascending order. -/
def digestAdd (l : List (Nat × BitVec 128)) (layer : Nat) (h : BitVec 128) : List (Nat × BitVec 128) :=
  sput l layer ((sfind l layer).getD 0 + h)

/-- Adds to a context's running sum of a layer; `partner` holds the partner's copy apart (R309). -/
def ctxDigest (s : State) (ctx layer : Nat) (h : BitVec 128) (partner : Bool) : State :=
  if partner then
    let old := (s.mirrorSums.find? (fun (c, l, _) => c == ctx && l == layer)).map (fun (_, _, d) => d)
    { s with mirrorSums := s.mirrorSums.filter (fun (c, l, _) => !(c == ctx && l == layer))
        ++ [(ctx, layer, old.getD 0 + h)] }
  else ctxMap s ctx fun c => { c with digests := digestAdd c.digests layer h }

end Sys2Proof.Machine
end

