-- ==== Sys2Proof/Machine/Operands.lean ====
section
/-! DEFINITION. Global addresses (R25), and the operand forms that memory holds as bytes: operation records (R97), tensor entries (R98),
footprints (R99), beat records and stride sets (R103, R104), bundles (R106, R107, R259), kernel records
(R222), job descriptors (R389) with their sampler records (R194). For each, its fields and whether its
reserved bits and encodings are as R7 requires. -/

namespace Sys2Proof.Machine

open Sys2Proof

/-! ## Global addresses -/

/-- The node of a global address (R25). -/
def nodeOf (a : BitVec 64) : Nat := a.toNat / 2 ^ 48

/-- The local address of a global address (R25). -/
def localOf (a : BitVec 64) : Nat := a.toNat % 2 ^ 48

/-- Whether a global address names this device (R25). -/
def isHere (s : State) (a : BitVec 64) : Bool :=
  nodeOf a == 0xFFFF || s.node.any (fun n => n.toNat == nodeOf a)

/-! ## Numeric plan and tensors -/

/-- A format byte of R97: format code in bits 3:0, scaled in bit 4. -/
def fmtByteOk (b : Nat) : Bool := decide (b < 32) && decide (b % 16 ≤ 9)

/-- An operation record (R97). -/
def opRecOf (b : Bytes) : OpRec :=
  { aFmt := field b 0 1 % 16, aScaled := (field b 0 1).testBit 4
    bFmt := field b 1 1 % 16, bScaled := (field b 1 1).testBit 4
    dFmt := field b 2 1 % 16, dScaled := (field b 2 1).testBit 4
    mixed := (field b 3 1).testBit 0, sr := (field b 3 1).testBit 1
    ieee := (field b 3 1).testBit 2, bf16Stage := (field b 3 1).testBit 3
    fusion := field b 4 1 % 64
    m := field b 8 4, n := field b 12 4, k := field b 16 4
    tileM := field b 20 2, tileN := field b 22 2, tileK := field b 24 4
    kSplits := field b 28 2, tree := field b 30 1 == 1
    tensorA := field b 32 4, tensorB := field b 36 4, tensorD := field b 40 4, tensorAux := field b 44 4
    digestLayer := field b 48 4 }

/-- The reserved bits and encodings of an operation record (R7, R97). -/
def opRecOk (b : Bytes) : Bool :=
  fmtByteOk (field b 0 1) && fmtByteOk (field b 1 1) && fmtByteOk (field b 2 1)
    && decide (field b 3 1 < 16) && decide (field b 4 1 < 0x3F) && zeroAt b 5 3
    && decide (field b 30 1 < 2) && zeroAt b 31 1 && zeroAt b 52 12

/-- A tensor table entry (R98). -/
def tensorOf (b : Bytes) : Tensor :=
  { id := field b 0 4, base := field b 4 1, fmt := field b 5 1
    addr := field b 8 8, size := field b 16 8, stride := field b 24 8 }

/-- The reserved bits and encodings of a tensor table entry (R7, R98). -/
def tensorOk (b : Bytes) : Bool :=
  decide (field b 4 1 < 3) && decide (field b 5 1 ≤ 9) && zeroAt b 6 2

/-- A footprint record (R99). -/
def footprintOf (b : Bytes) : Footprint :=
  { engine := field b 0 2, ab := field b 4 4, am := field b 8 4, ws := field b 12 4, is := field b 16 4 }

/-- The reserved bytes of a footprint record (R99). -/
def footprintOk (b : Bytes) : Bool := zeroAt b 2 2 && zeroAt b 20 12

/-! ## Engine programs -/

/-- A stride set (R104). -/
def stridesOf (b : Bytes) : Strides :=
  { ab := sfield b 0 8, am := sfield b 8 8, ws := sfield b 16 8
    src := sfield b 24 8, dst := sfield b 32 8, op := sfield b 40 8 }

/-- A beat record (R104). -/
def beatRecOf (b : Bytes) : BeatRec :=
  { first := field b 0 4, count := field b 4 2, reps := field b 6 2, strideSet := field b 8 1 }

/-- The class of a bundle's CLASS byte; none where it is reserved (R107). -/
def bundleClassOf (n : Nat) : Option BundleClass :=
  match n with
  | 0 => some .nop
  | 1 => some .rows
  | 2 => some .wload
  | 3 => some .epi
  | 4 => some .mread
  | 5 => some .mwrite
  | 6 => some .atomic
  | 7 => some .fence
  | 8 => some .arrive
  | _ => none

/-- The type of ATOMIC; none where it is reserved (R107). -/
def atomicTypeOf (n : Nat) : Option AtomicType :=
  match n with
  | 0 => some .fetchAdd
  | 1 => some .atomicAdd
  | 2 => some .cas
  | _ => none

/-- The common fields of a bundle (R106). -/
def bundleCommon (b : Bytes) : Bundle :=
  { issue := field b 0 2
    swap := (field b 3 1).testBit 0, accAdd := (field b 3 1).testBit 1, strided := (field b 3 1).testBit 2
    waitMask := BitVec.ofNat 16 (field b 4 2)
    setTag := if (field b 6 1).testBit 7 then some (BitVec.ofNat 4 (field b 6 1)) else none
    arrays := BitVec.ofNat 4 (field b 7 1)
    due := field b 8 2, op := field b 10 2 }

/-- The reserved bits of the common fields (R106). -/
def bundleCommonOk (b : Bytes) : Bool :=
  decide (field b 0 2 < 4096) && decide (field b 3 1 < 8) && decide (field b 6 1 / 16 % 8 = 0)
    && decide (field b 7 1 < 16) && decide (field b 8 2 < 4096)

/-- A bundle with its operands by its class (R107, R259). -/
def bundleOf (cls : BundleClass) (b : Bytes) : Bundle :=
  let c := bundleCommon b
  let o := b.drop 12
  match cls with
  | .nop | .fence => c
  | .rows =>
    { c with abOff := field o 0 4, rows := field o 4 2, abStride := field o 6 4, amOff := field o 10 4
             amStride := field o 14 4, kStep := field o 18 2 }
  | .wload => { c with wsOff := field o 0 4, abStride := field o 4 4 }
  | .epi =>
    { c with amOff := field o 0 4, rows := field o 4 2, addr := BitVec.ofNat 64 (field o 6 8)
             dstStride := field o 14 4, hint := BitVec.ofNat 8 (field o 18 1) }
  | .mread =>
    { c with addr := BitVec.ofNat 64 (field o 0 8), abOff := field o 8 4, size := field o 12 4
             hint := BitVec.ofNat 8 (field o 16 1) }
  | .mwrite =>
    { c with abOff := field o 0 4, addr := BitVec.ofNat 64 (field o 4 8), size := field o 12 4
             hint := BitVec.ofNat 8 (field o 16 1) }
  | .atomic =>
    { c with kind := (atomicTypeOf (field o 0 1)).getD .fetchAdd, size := field o 1 1
             addr := BitVec.ofNat 64 (field o 2 8), abOff := field o 10 4, retOff := field o 14 4
             hint := BitVec.ofNat 8 (field o 18 1) }
  | .arrive =>
    { c with source := field o 0 2, size := field o 2 4, dueBeat := field o 6 2, abOff := field o 8 4 }

/-- The unused operand bytes and the reserved encodings of a class (R7, R107, R259). -/
def bundleOperandsOk (cls : BundleClass) (b : Bytes) : Bool :=
  let o := b.drop 12
  match cls with
  | .nop | .fence => zeroAt o 0 20
  | .rows => true
  | .wload => zeroAt o 8 12
  | .epi => decide (field o 18 1 < 2) && zeroAt o 19 1
  | .mread => decide (field o 16 1 < 3) && zeroAt o 17 3
  | .mwrite => decide (field o 16 1 < 2) && zeroAt o 17 3
  | .atomic =>
    (atomicTypeOf (field o 0 1)).isSome && (field o 1 1 == 4 || field o 1 1 == 8) && decide (field o 18 1 < 2)
      && zeroAt o 19 1
  | .arrive => zeroAt o 12 8

/-- A bundle; none where a field holds a reserved encoding (R7, R106, R107). -/
def placedOf (b : Bytes) : Option Placed :=
  match bundleClassOf (field b 2 1) with
  | none => none
  | some c => if bundleCommonOk b && bundleOperandsOk c b then some { cls := c, b := bundleOf c b } else none

/-! ## Kernel records (R222) -/

/-- The kernel of a KERNEL byte; none where it is reserved (R232). -/
def kernelCodeOf (n : Nat) : Option KernelCode :=
  ([.samplerStep, .guidance, .optim, .reduce, .quantise, .transpose, .gather, .scatter, .accumulate] :
    List KernelCode).find? fun c => kernelByte c == n

/-- A kernel record of a stack's program in an image. -/
def kernelOf (image : BitVec 64) (stack : Nat) (b : Bytes) : Kernel :=
  { image := image, stack := stack
    outModes := BitVec.ofNat 8 (field b 1 1), units := BitVec.ofNat 16 (field b 2 2)
    startBeat := field b 4 4, startCycle := field b 8 2, budget := field b 10 1, duration := field b 12 4
    rows := field b 16 4, cols := field b 20 4, row0 := field b 24 4, slotRows := field b 28 2
    opalTensor := BitVec.ofNat 32 (field b 32 4), digestLayer := BitVec.ofNat 32 (field b 36 4)
    params := slice b 40 88 }

/-- The output format code of OUT_MODES (R222). -/
def outFmt (k : Kernel) : Nat := k.outModes.toNat % 16

/-- Whether OUT_MODES asks for block scales (R222, R228). -/
def outScaled (k : Kernel) : Bool := k.outModes.getLsbD 4

/-- The tensor ID at an offset of the parameters; none where it is absent. -/
def kTensor (k : Kernel) (off : Nat) : Option Nat :=
  if field k.params off 4 = 0xFFFFFFFF then none else some (field k.params off 4)

/-- An FP32 parameter. -/
def kF32 (k : Kernel) (off : Nat) : Word := BitVec.ofNat 32 (field k.params off 4)

/-- An unsigned parameter. -/
def kNat (k : Kernel) (off size : Nat) : Nat := field k.params off size

/-- Whether the parameter bytes that a kernel leaves unused or reserved are zero (R222). -/
def paramsZero (c : KernelCode) (k : Kernel) : Bool :=
  match c with
  | .samplerStep => zeroAt k.params 48 40
  | .guidance => zeroAt k.params 16 72
  | .optim => zeroAt k.params 29 59
  | .reduce => zeroAt k.params 14 74
  | .quantise => zeroAt k.params 2 2 && zeroAt k.params 16 72
  | .transpose => zeroAt k.params 20 68
  | .gather | .scatter => zeroAt k.params 1 3 && (if kNat k 0 1 = 0 then zeroAt k.params 16 72 else zeroAt k.params 20 68)
  | .accumulate => zeroAt k.params 15 1 && zeroAt k.params 24 64

/-- Whether no parameter of a kernel has a reserved encoding (R7, R233, R236, R238, R241 to R243). R233 lists 2 and 3 for NOISE_LANE
and does not say what the field holds when no noise is drawn: with NOISE 0 every value is accepted (DESIGN CHOICE, assumption 76). -/
def paramsCoded (c : KernelCode) (k : Kernel) : Bool :=
  match c with
  | .samplerStep => decide (kNat k 40 1 ≤ 2) && (kNat k 41 1 == 2 || kNat k 41 1 == 3 || kNat k 40 1 == 0)
  | .optim => decide (kNat k 28 1 < 2)
  | .reduce => decide (kNat k 12 1 ≤ 5) && decide (kNat k 13 1 < 2)
  | .gather | .scatter => decide (kNat k 0 1 < 2) && (kNat k 0 1 == 0 || decide (kNat k 9 1 < 2))
  | .accumulate => decide (kNat k 14 1 < 2)
  | .guidance | .quantise | .transpose => true

/-- The rule that lays out a kernel's parameters. -/
def paramsRuleNo (c : KernelCode) (k : Kernel) : Nat :=
  match c with
  | .samplerStep => 233
  | .guidance => 235
  | .optim => 236
  | .reduce => 238
  | .quantise => 239
  | .transpose => 240
  | .gather | .scatter => if kNat k 0 1 = 1 then 242 else 241
  | .accumulate => 243

/-- The reserved bits and encodings of a kernel record (R7, R222). -/
def kernelRecOk (b : Bytes) : Bool :=
  decide (field b 1 1 < 128) && decide (field b 1 1 % 16 ≤ 9) && zeroAt b 11 1 && zeroAt b 30 2

/-! ## Job descriptors (R389, R194) -/

/-- A job descriptor. -/
def descOf (b : Bytes) : Desc :=
  { image := BitVec.ofNat 64 (field b 0 8), base := field b 8 8
    seed := BitVec.ofNat 64 (field b 16 8), stream := BitVec.ofNat 64 (field b 24 8)
    stepFirst := BitVec.ofNat 32 (field b 32 4), steps := BitVec.ofNat 32 (field b 36 4)
    priority := field b 40 1
    sampler := (field b 41 1).testBit 0, startPaused := (field b 41 1).testBit 1
    tokens := field b 44 4, length := field b 48 4, ptLayers := field b 52 4, ptRoot := field b 56 8
    recompute := BitVec.ofNat 64 (field b 64 8)
    logBase := field b 72 8, logEntries := field b 80 4
    sampLogits := field b 96 4, sampTokens := field b 100 4, vocab := field b 104 4
    topK := field b 108 2, greedy := (field b 110 2).testBit 0
    invTemp := BitVec.ofNat 32 (field b 112 4), topP := BitVec.ofNat 32 (field b 116 4)
    opalTensor := BitVec.ofNat 32 (field b 120 4), raw := fit 128 b }

/-- Whether an FP32 word is finite and positive. -/
def positive32 (w : Word) : Bool :=
  match f32Val w with
  | .fin neg m _ => !neg && m != 0
  | _ => false

/-- The ranges of a sampler record (R194). -/
def samplerOk (b : Bytes) : Bool :=
  decide (1 ≤ field b 104 4 ∧ field b 104 4 ≤ 262144) && decide (field b 108 2 ≤ 1024) && decide (field b 110 2 < 2)
    && positive32 (BitVec.ofNat 32 (field b 112 4)) && positive32 (BitVec.ofNat 32 (field b 116 4))
    && !vlt (f32Val 0x3F800000) (f32Val (BitVec.ofNat 32 (field b 116 4))) && zeroAt b 124 4

/-- The reserved fields and ranges of a job descriptor (R389, the first check of R390), but for the LOG fields. -/
def descOk (b : Bytes) : Bool :=
  field b 24 2 == 0 && field b 36 4 != 0 && decide (field b 40 1 ≤ 7) && decide (field b 41 1 < 4) && zeroAt b 42 2
    && zeroAt b 84 12
    && (if field b 52 4 = 0 then field b 56 8 == 0 else field b 56 8 % 8 == 0 && decide (field b 56 8 < 0x20000000000))
    && (if (field b 41 1).testBit 0 then samplerOk b else zeroAt b 96 32)

end Sys2Proof.Machine
end

