-- ==== Sys2Proof/Machine/Engines.lean ====
section
/-! DEFINITION. What an engine runs for: its pass, its image and its jobs; the translation of a mirrored
partner (R308); reads and writes of an engine's SRAM with their errors (R66); which jobs a fault reaches
(R529); tensors, areas and the geometry of an operation (R42, R67, R68, R129 to R133, R145, R531); the
agenda of the beat (R65). -/

namespace Sys2Proof.Machine

open Sys2Proof

/-! ## The pass that an engine runs -/

/-- The pass of an engine, its image, and whether the engine is a mirrored partner. -/
structure Run where
  img     : Image
  pass    : Pass
  partner : Bool
  deriving DecidableEq, Repr

/-- The engines of a placement of an image: the main mask, or a refold table's REQUIRED_MASK. -/
def placementMask (i : Image) (placement : Nat) : BitVec 256 :=
  if placement = 0 then i.mask else ((i.refolds[placement - 1]?).map (·.mask)).getD 0

/-- Whether a pass runs on a mirrored pair. -/
def isMirrored (p : Pass) (i : Image) : Bool := p.engines.any fun e => !(placementMask i p.placement).getLsbD e

/-- What engine e runs in the present beat. -/
def runOf (s : State) (e : Nat) : Option Run :=
  match s.passes.find? (fun p => p.engines.contains e) with
  | none => none
  | some p => (imageGet s p.image).map fun i =>
      { img := i, pass := p, partner := !(placementMask i p.placement).getLsbD e }

/-- Whether a job takes part in a pass that holds a slot for it: its slot runs empty in a pass of its own image
while its page work is not done, and its recompute image runs for it alone (R187, R192). -/
def activeIn (p : Pass) (c : Ctx) : Bool :=
  if p.recompute then c.recomputing && !c.starved else !c.pageWork && p.image == c.desc.image

/-- The job in a slot of a pass. -/
def jobOf (s : State) (r : Run) (slot : Nat) : Option Ctx :=
  ((sfind r.pass.slots slot).bind (ctxGet s)).filter (activeIn r.pass)

/-- The jobs of a pass, lowest slot first. -/
def jobsOf (s : State) (r : Run) : List Ctx :=
  r.pass.slots.filterMap fun (_, c) => (ctxGet s c).filter (activeIn r.pass)

/-- The tensor base of BASE 1 tensors in a slot: that of the job that holds it (R74, R98), or of the lowest occupied
slot where the slot is empty. -/
def slotBase (s : State) (r : Run) (slot : Nat) : Nat :=
  (((jobOf s r slot).orElse fun _ => (jobsOf s r).head?).map (·.desc.base)).getD 0

/-- The tensor base of bytes that belong to no one slot: that of the lowest occupied slot (DEDUCED, assumption 45; a BASE 1 tensor of
an image of one slot has one base). -/
def baseOf (s : State) (r : Run) : Nat := (((jobsOf s r).head?).map (·.desc.base)).getD 0

/-- Fails the jobs with a code at the next beat boundary, citing the latest event (R529). -/
def failAt (s : State) (ctxs : List Nat) (c : Code) : State :=
  { s with fails := s.fails ++ (ctxs.filter fun n => !s.fails.any (fun f => f.1 == n)).map fun n => (n, c, lastSeq s) }

/-- Fails every job of a pass: the fault lies in a value that all its slots share (R529). -/
def failAll (s : State) (r : Run) (c : Code) : State := failAt s ((jobsOf s r).map (·.num)) c

/-! ## Mirrored pairs (R308) -/

/-- The local address that a partner's engine or unit uses for one of the primary's: engine windows by the
engine offset, stack addresses from S(2q + i) to S(2p + i). Mirrored images use the linear view only (R307). -/
def mirrorAddr (a : Nat) : Nat :=
  if a < 0x10000000000 then
    let st := stackOf a
    if (st / 2) % 2 = 0 then a + 2 * stackBytes else a
  else if sramBase ≤ a ∧ a < sramBase + 0x40000000 then
    let e := (a - sramBase) / 0x400000
    if (e / 64) % 2 = 0 then a + 64 * 0x400000 else a
  else a

/-- A local address that an image names, for a tensor base: inside a BASE 1 tensor, taken at a base of 0, and in no BASE 0
tensor, it moves with the tensor (DEDUCED from R535, whose load-time containment and resolution hold for every base;
assumption 45). -/
def relocated (i : Image) (base a : Nat) : Nat :=
  let inT (b : Nat) : Bool := i.tensors.any fun t => t.base == b && decide (t.addr ≤ a ∧ a < t.addr + t.size)
  if inT 1 && !inT 0 then (base + a) % 2 ^ 48 else a

/-- A bundle's global address for a job's tensor base. -/
def bundleAddr (s : State) (i : Image) (base : Nat) (a : BitVec 64) : BitVec 64 :=
  if isHere s a then BitVec.ofNat 64 (nodeOf a * 2 ^ 48 + relocated i base (localOf a)) else a

/-- A bundle's address as the engine that issues it uses it. -/
def runAddr (r : Run) (a : Nat) : Nat := if r.partner then mirrorAddr a else a

/-! ## Engine SRAM -/

/-- The linear address of an offset in an engine's window. -/
def winAddr (e off : Nat) : Nat := sramBase + e * 0x400000 + off

/-- The window offset at which AM begins (R27). -/
def amBase : Nat := 0x180000

/-- The window offset at which WS begins (R27). -/
def wsBase : Nat := 0x280000

/-- Whether any of the bytes is poisoned or holds poisoned data. -/
def anyBad (s : State) (lins : List Nat) : Bool :=
  anyPoison s lins || (!s.taint.isEmpty && lins.any s.taint.contains)

/-- The places among the bytes that are poisoned or hold poisoned data. -/
def badPlaces (s : State) (lins : List Nat) : List Nat :=
  if s.poison.isEmpty && s.taint.isEmpty then []
  else (lins.zipIdx.filter fun (l, _) => anyBad s [l]).map (·.2)

/-- A read of an engine's window by its own units: the words in error among those read are met (R66);
whether the data is poisoned; the bytes. -/
def winRead (s : State) (e off n : Nat) (finds : List EccFind) : Bytes × Bool × State :=
  let lins := (List.range n).map fun i => winAddr e off + i
  let s := eccScan s lins (finds.map fun f => { f with addr := winAddr e f.addr })
  (lins.map (byteAt s), anyBad s lins, s)

/-- Marks or clears the bytes of engine SRAM that hold poisoned data. -/
def taintSet (s : State) (a n : Nat) (bad : Bool) : State :=
  if bad then
    { s with taint := s.taint.filter (fun w => decide (w < a ∨ a + n ≤ w)) ++ (List.range n).map (a + ·) }
  else if s.taint.isEmpty then s
  else { s with taint := s.taint.filter fun w => decide (w < a ∨ a + n ≤ w) }

/-- A scheduled write into engine SRAM (R66): a poisoned word that it covers in part stays as it is, and the
answer says so; poisoned data keeps its mark. -/
def winWrite (s : State) (a : Nat) (b : Bytes) (bad : Bool) : Bool × State :=
  let part := partialPoison s ((List.range b.length).map (a + ·))
  (part, taintSet (if s.poison.isEmpty && s.soft.isEmpty then bytesPut s a b else storeBytes s a b) a b.length bad)

/-- The same for bytes of which some, by place, carry poisoned data (R529). -/
def winWriteAt (s : State) (a : Nat) (b : Bytes) (bad : List Nat) : Bool × State :=
  let (part, s) := winWrite s a b false
  (part, bad.foldl (fun s i => taintSet s (a + i) 1 true) s)

/-! ## The agenda (R65) -/

/-- Whether a task of the agenda comes before another: by cycle, then by rank. -/
def timedBefore (x y : Timed) : Bool := decide (x.cycle < y.cycle) || (x.cycle == y.cycle && decide (x.rank < y.rank))

/-- A task put into its place, behind those of its cycle and rank. -/
def agendaInsert (x : Timed) : List Timed → List Timed
  | [] => [x]
  | y :: t => if timedBefore x y then x :: y :: t else y :: agendaInsert x t

/-- A task of engine e for a cycle of the beat. -/
def taskAt (s : State) (e cycle rank : Nat) (t : Task) : State :=
  { s with agenda := agendaInsert ⟨cycle, rank, e, t⟩ s.agenda }

/-- The rank of reads in a cycle. -/
def rankRead : Nat := 0

/-- The rank of a completion's bytes, of sums and of weight registers. -/
def rankFill : Nat := 1

/-- The rank of a remote write of a source engine: the higher-numbered one is applied last. -/
def rankRemote (source : Nat) : Nat := 2 + source

/-- The rank of an engine's own EPU write: last of all. -/
def rankEpu : Nat := 1000

/-! ## Operations -/

/-- Operation number n of an image. -/
def opOf (i : Image) (n : Nat) : Option OpRec := i.ops[n]?

/-- The width that sets the rate of an operation (R46). -/
def rateWidth (o : OpRec) : Nat := max (fmtWidth o.aFmt) (fmtWidth o.bFmt)

/-- The tile depth D (R68). -/
def depthOf (o : OpRec) : Nat :=
  let w := rateWidth o
  if w ≤ 6 then 256 else if w = 8 then 128 else if w = 16 then 64 else 32

/-- The K padding multiple (R129). -/
def kPad (o : OpRec) : Nat :=
  let w := rateWidth o
  if w ≤ 8 then 128 else if w = 16 then 64 else 32

/-- Products per rounding (R47). -/
def roundGroup (o : OpRec) : Nat :=
  let kc := depthOf o / 32
  if o.mixed && decide (4 ≤ kc) then 2 else kc

/-- The fusion code's prologue: 0 to 3, and 4 for P4 (R142). -/
def prologueOf (o : OpRec) : Nat := if 0x3C ≤ o.fusion then 4 else o.fusion % 4

/-- The fusion code's epilogue chain (R142, R143). -/
def chainOf (o : OpRec) : Nat := if 0x3C ≤ o.fusion then 0 else o.fusion / 4

/-- Whether sums are exact 32-bit integers (R50); an element that P2, P3 or P4 has changed is none (R150). The spec does not say which
sum an operation under P2 to P4 takes when no element is changed: the model sums every one of them in floating point (DESIGN
CHOICE, assumption 76). -/
def isIntegerOp (o : OpRec) : Bool :=
  isInt o.aFmt && isInt o.bFmt && !o.aScaled && !o.bScaled && decide (prologueOf o < 2)

/-- The length of split j (R128). -/
def splitLen (o : OpRec) (j : Nat) : Nat := min o.tileK (o.k - j * o.tileK)

/-- The weight tiles of a split of length n (R130). -/
def splitTiles (o : OpRec) (n : Nat) : Nat := ceilDiv (roundUp n (kPad o)) (depthOf o)

/-- The weight tiles over the whole of K (R531). -/
def tilesOf (o : OpRec) : Nat :=
  let full := o.k / o.tileK
  let rest := o.k % o.tileK
  full * splitTiles o o.tileK + (if rest = 0 then 0 else splitTiles o rest)

/-- K_T of R531. -/
def kTotal (o : OpRec) : Nat := depthOf o * tilesOf o

/-- The per-slot M padded to 8 (R135). -/
def msOf (o : OpRec) : Nat := roundUp o.m 8

/-- N padded to 32 (R129). -/
def npadOf (o : OpRec) : Nat := roundUp o.n 32

/-- Whether a chain pairs columns (R158). -/
def pairsColumns (o : OpRec) : Bool := chainOf o == 4 || chainOf o == 14

/-- The logical width of the result (R158, R208). -/
def nlogOf (o : OpRec) : Nat := if pairsColumns o then o.n / 2 else o.n

/-- Whether an operation needs resolved destinations (R133). -/
def needsResolve (i : Image) (o : OpRec) : Bool :=
  o.sr || o.digestLayer != 0xFFFFFFFF || decide (1 < i.slots)
    || (decide (5 ≤ chainOf o)) || npadOf o % o.tileN != 0

/-- A tensor of an image. -/
def tensorGet (i : Image) (id : Nat) : Option Tensor := i.tensors.find? (·.id == id)

/-- The node ID of a group member, when the device is in a group. -/
def memberNode (s : State) (m : Nat) : Option Nat := (joined s).bind fun g => (g.nodes[m]?).map (·.toNat)

/-- The local address at which a tensor lies for a tensor base (R98): BASE 2 offsets are the owner's. -/
def tensorAddr (t : Tensor) (base : Nat) : Nat :=
  if t.base = 1 then base + t.addr else if t.base = 2 then t.addr % 2 ^ 48 else t.addr

/-- The auxiliary items of an operation in order: the prologue's, then each step's (R145). -/
def auxId (o : OpRec) (k : Nat) : Nat := o.tensorAux + k

/-- How many auxiliary items the prologue takes (R145). -/
def prologueItems (o : OpRec) : Nat := if 2 ≤ prologueOf o then 1 else 0

/-- How many items the epilogue chain takes (R145). -/
def chainItems (o : OpRec) : Nat :=
  match chainOf o with
  | 1 | 2 | 3 | 5 | 7 | 8 | 9 | 10 | 14 => 1
  | 6 | 11 | 13 => 2
  | 12 => 3
  | _ => 0

/-- The output tensors that an operation's EPU writes row by row: its scales or partial maxima, and its row statistic
(R149). -/
def outIds (o : OpRec) : List Nat :=
  (if chainOf o = 9 ∨ o.dScaled then [auxId o (prologueItems o + (if chainOf o = 13 then 1 else 0))] else [])
    ++ (if chainOf o = 10 ∨ chainOf o = 11 ∨ chainOf o = 12 then [auxId o (prologueItems o + (chainItems o - 1))] else [])

/-! ## The slots of a bundle's bytes (R74, R76, R529)

The rows of an operation's TENSOR_A, of its TENSOR_D and of its output tensors are numbered slot by slot, Ms to each (R135,
R149). Bytes of such a tensor belong to the slot of their row; other bytes belong to no one slot. -/

/-- The bytes of one slot in the tensor of rows that an address of the image lies in, and where that tensor begins. -/
def rowUnit (i : Image) (a : Nat) : Option (Nat × Nat) :=
  let at_ (base : Nat) : Option (Nat × Nat) := i.tensors.findSome? fun t =>
    if t.base = base ∧ t.addr ≤ a ∧ a < t.addr + t.size then
      (i.ops.find? fun o => o.tensorA == t.id || o.tensorD == t.id || (outIds o).contains t.id).bind fun o =>
        if msOf o * t.stride = 0 then none else some (t.addr, msOf o * t.stride)
    else none
  if i.tensors.any fun t => t.base == 0 && decide (t.addr ≤ a ∧ a < t.addr + t.size) then at_ 0 else at_ 1

/-- A part of a bundle's span that belongs to one slot, or to none. -/
structure Share where
  off  : Nat                     -- its place in the span
  len  : Nat
  slot : Option Nat
  deriving DecidableEq, Repr

/-- The parts of a span of n bytes at a local address that an image names. -/
def slotPieces (i : Image) (a n : Nat) : List Share :=
  if i.slots ≤ 1 then [⟨0, n, some 0⟩]
  else match rowUnit i a with
    | none => [⟨0, n, none⟩]
    | some (t, u) =>
      let j0 := (a - t) / u
      let j1 := (a + n - 1 - t) / u
      (List.range (j1 + 1 - j0)).map fun d =>
        let j := j0 + d
        let lo := max a (t + j * u)
        ⟨lo - a, (if j = j1 then a + n else t + (j + 1) * u) - lo, if j < i.slots then some j else none⟩

/-- The jobs that a part belongs to: its slot's, or all those of the pass. -/
def pieceJobs (s : State) (r : Run) (p : Share) : List Nat :=
  match p.slot with
  | some k => if r.img.slots ≤ 1 then (jobsOf s r).map (·.num) else ((jobOf s r k).map (·.num)).toList
  | none => (jobsOf s r).map (·.num)

/-- Whether a part's slot is empty: its rows are computed on zeros and written nowhere (R76). -/
def pieceEmpty (s : State) (r : Run) (p : Share) : Bool := decide (1 < r.img.slots) && p.slot.any fun k => (jobOf s r k).isNone

/-- The address of a part of a bundle's span, at the tensor base of its slot's job (R74, R98). -/
def pieceAddr (s : State) (r : Run) (a : BitVec 64) (p : Share) : BitVec 64 :=
  let base := match p.slot with
    | some k => slotBase s r k
    | none => baseOf s r
  bundleAddr s r.img base a + BitVec.ofNat 64 p.off

/-- The parts of a bundle's span of n bytes; bytes of another device belong to no slot. -/
def bundlePieces (s : State) (r : Run) (b : Bundle) (n : Nat) : List Share :=
  if isHere s b.addr then slotPieces r.img (localOf b.addr) n else [⟨0, n, none⟩]

/-- A bundle with the address of its span's first part. -/
def ownBundle (s : State) (r : Run) (b : Bundle) : Bundle :=
  { b with addr := match bundlePieces s r b b.size with
      | p :: _ => pieceAddr s r b.addr p
      | [] => b.addr }

/-! ## Input areas (R146) -/

/-- An input area in an engine's AB. -/
structure Area where
  ab     : Nat                   -- AB offset
  size   : Nat
  stride : Nat
  fmt    : Nat
  deriving DecidableEq, Repr

/-- The area of a tensor ID. -/
def areaOf (i : Image) (id : Nat) : Option Area :=
  (tensorGet i id).map fun t => { ab := t.addr % 2 ^ 22, size := t.size, stride := t.stride, fmt := t.fmt }

/-- n bytes of an area from an offset; bytes beyond its SIZE read +0 (R146). -/
def areaBytes (s : State) (e : Nat) (a : Area) (off n : Nat) : Bytes :=
  (List.range n).map fun k => if off + k < a.size then byteAt s (winAddr e (a.ab + off + k)) else 0

/-- Whether a read of an area's bytes delivers poisoned data (R529): what lies beyond SIZE is not read. -/
def areaBad (s : State) (e : Nat) (a : Area) (off n : Nat) : Bool :=
  anyBad s ((List.range (min n (a.size - off))).map fun k => winAddr e (a.ab + off + k))

/-- The words in error that a read of an area's bytes meets (R66), none beyond its SIZE. -/
def areaScan (s : State) (e : Nat) (a : Area) (off n : Nat) (finds : List EccFind) : State :=
  (winRead s e (a.ab + off) (min n (a.size - off)) finds).2.2

/-- An FP32 word of an area. -/
def areaF32 (s : State) (e : Nat) (a : Area) (off : Nat) : Word := BitVec.ofNat 32 (leNat (areaBytes s e a off 4))

/-- An element of an area in the area's format. -/
def areaElem (s : State) (e : Nat) (a : Area) (off : Nat) : Val :=
  decodeElem a.fmt false (leNat (areaBytes s e a off (fmtWidth a.fmt / 8)))

/-- A numeric event count of an engine (R52): 1 INT_WRAP, 2 NAN_LOST. -/
def engNumev (s : State) (e : Nat) (nanLost : Bool) (n : Nat) : State :=
  if n = 0 then s
  else if nanLost then regCount s (oEng e + 0x40) 31 16 n else regCount s (oEng e + 0x40) 15 0 n

end Sys2Proof.Machine
end

