-- ==== Sys2Proof/Machine/Functions.lean ====
section
/-! DEFINITION. The functions of the numeric library that the Epilogue Unit and the token sampler use: exp2
(R171) and the activation functions (R156). The coefficients are those that R156 defines; they were computed
from its formulas outside the model. -/

namespace Sys2Proof.Machine

open Sys2Proof

/-! ## exp2 (R171) -/

/-- ln 2 in units of 2^-256, truncated. -/
def ln2Fixed : Nat := 80260960185991308862233904206310070533990667611589946606122867505419956976171

/-- Terms of the exponential series of y (in units of 2^-256), from term t of index k on. -/
def expTerms (y : Nat) : Nat → Nat → Nat → Nat
  | 0, _, _ => 0
  | fuel + 1, k, t => t + expTerms y fuel (k + 1) (t * y / 2 ^ 256 / (k + 1))

/-- 2^f in units of 2^-256, for f = x / 2^256 in [0, 1). -/
def exp2Frac (x : Nat) : Nat := expTerms (x * ln2Fixed / 2 ^ 256) 70 0 (2 ^ 256)

/-- The FP32 value nearest to 2^x (R171). 2^x is irrational unless x is an integer, so a bit below the
computed fraction breaks every apparent tie the right way. -/
def exp2 (x : Word) : Word :=
  match f32Val x with
  | .nan => 0x7FC00000
  | .inf s => if s then 0 else 0x7F800000
  | .fin s m e =>
    if m = 0 then 0x3F800000
    else if 8 < ilogb m e then (if s then 0 else 0x7F800000)
    else
      let v := mantAt s m (e + 256) 0
      let n := v / 2 ^ 256
      let f := (v % 2 ^ 256).toNat
      if f = 0 then toF32 (.fin false 1 n) else toF32 (.fin false (2 * exp2Frac f + 1) (n - 257))

/-! ## Activation functions (R156) -/

/-- Taylor coefficients of the logistic function (R156), i from 0 to 15. -/
def siluPart0 : List (Word × Word × Word × Word) :=
  [(0x39C738A9, 0x39C72547, 0x3946FE89, 0x3884760F)
  , (0x39FFC713, 0x39FFA721, 0x397F6746, 0x38A9EFC4)
  , (0x3A243093, 0x3A24163F, 0x39A3E1A1, 0x38D9F5FB)
  , (0x3A52C94B, 0x3A529DE7, 0x39D24732, 0x390BBBFE)
  , (0x3A874BED, 0x3A87282D, 0x3A06E0BE, 0x39331823)
  , (0x3AADAC60, 0x3AAD7177, 0x3A2CFBCC, 0x39656BE9)
  , (0x3ADEEAC6, 0x3ADE89B8, 0x3A5DC7F1, 0x3992D8EA)
  , (0x3B0F0BE8, 0x3B0EBBF9, 0x3A8E1C76, 0x39BBD34F)
  , (0x3B378FC2, 0x3B370C23, 0x3AB605A2, 0x39EFF91C)
  , (0x3B6B82A6, 0x3B6AA9FC, 0x3AE8FA39, 0x3A1914E6)
  , (0x3B970BE5, 0x3B9659A7, 0x3B14F6CF, 0x3A42F2B6)
  , (0x3BC1B1A4, 0x3BC08C89, 0x3B3E45CB, 0x3A77AE30)
  , (0x3BF84A82, 0x3BF668E1, 0x3B72ACEC, 0x3A9CDC7D)
  , (0x3C1F104D, 0x3C1D84F8, 0x3B9A75FB, 0x3AC5E915)
  , (0x3C4BAE1F, 0x3C4925E9, 0x3BC4259A, 0x3AF870FA)
  , (0x3C824E1F, 0x3C803B84, 0x3BF84E5C, 0x3B1AEB20)]

/-- Taylor coefficients of the logistic function (R156), i from 16 to 31. -/
def siluPart1 : List (Word × Word × Word × Word) :=
  [(0x3CA69009, 0x3CA32D10, 0x3C1C8A60, 0x3B3F90D0)
  , (0x3CD4A486, 0x3CCF1F7F, 0x3C445ECC, 0x3B6A4502)
  , (0x3D07852A, 0x3D03094E, 0x3C74BB18, 0x3B8D2DD0)
  , (0x3D2C642E, 0x3D2522C2, 0x3C973C43, 0x3BA6EB6F)
  , (0x3D5ABD73, 0x3D4F0F00, 0x3CB8F180, 0x3BC0575F)
  , (0x3D8A55EB, 0x3D80FDD4, 0x3CDF2198, 0x3BD5FC96)
  , (0x3DAE4868, 0x3D9F7398, 0x3D04502D, 0x3BE292AA)
  , (0x3DDA8099, 0x3DC330B0, 0x3D198A50, 0x3BDEDB6A)
  , (0x3E0827C7, 0x3DEC1A69, 0x3D2D510E, 0x3BC21A5A)
  , (0x3E287701, 0x3E0CBFE7, 0x3D3CE070, 0x3B839682)
  , (0x3E4EA820, 0x3E24F360, 0x3D44BE94, 0x3A6BB6CE)
  , (0x3E7AF791, 0x3E3D7573, 0x3D412EFC, 0xBB5E8554)
  , (0x3E96A358, 0x3E54A2DD, 0x3D2F0785, 0xBC0B70F3)
  , (0x3EB2819D, 0x3E688ABA, 0x3D0CC910, 0xBC60D258)
  , (0x3ED08E01, 0x3E7734F2, 0x3CB74334, 0xBC93D27D)
  , (0x3EF00553, 0x3E7F00AA, 0x3BFEABCC, 0xBCA803C3)]

/-- Taylor coefficients of the logistic function (R156), i from 32 to 47. -/
def siluPart2 : List (Word × Word × Word × Word) :=
  [(0x3F07FD56, 0x3E7F00AA, 0xBBFEABCC, 0xBCA803C3)
  , (0x3F17B900, 0x3E7734F2, 0xBCB74334, 0xBC93D27D)
  , (0x3F26BF31, 0x3E688ABA, 0xBD0CC910, 0xBC60D258)
  , (0x3F34AE54, 0x3E54A2DD, 0xBD2F0785, 0xBC0B70F3)
  , (0x3F41421C, 0x3E3D7573, 0xBD412EFC, 0xBB5E8554)
  , (0x3F4C55F8, 0x3E24F360, 0xBD44BE94, 0x3A6BB6CE)
  , (0x3F55E240, 0x3E0CBFE7, 0xBD3CE070, 0x3B839682)
  , (0x3F5DF60E, 0x3DEC1A69, 0xBD2D510E, 0x3BC21A5A)
  , (0x3F64AFED, 0x3DC330B0, 0xBD198A50, 0x3BDEDB6A)
  , (0x3F6A36F3, 0x3D9F7398, 0xBD04502D, 0x3BE292AA)
  , (0x3F6EB543, 0x3D80FDD4, 0xBCDF2198, 0x3BD5FC96)
  , (0x3F725429, 0x3D4F0F00, 0xBCB8F180, 0x3BC0575F)
  , (0x3F7539BD, 0x3D2522C2, 0xBC973C43, 0x3BA6EB6F)
  , (0x3F7787AD, 0x3D03094E, 0xBC74BB18, 0x3B8D2DD0)
  , (0x3F795ADC, 0x3CCF1F7F, 0xBC445ECC, 0x3B6A4502)
  , (0x3F7ACB80, 0x3CA32D10, 0xBC1C8A60, 0x3B3F90D0)]

/-- Taylor coefficients of the logistic function (R156), i from 48 to 63. -/
def siluPart3 : List (Word × Word × Word × Word) :=
  [(0x3F7BED8F, 0x3C803B84, 0xBBF84E5C, 0x3B1AEB20)
  , (0x3F7CD148, 0x3C4925E9, 0xBBC4259A, 0x3AF870FA)
  , (0x3F7D83BF, 0x3C1D84F8, 0xBB9A75FB, 0x3AC5E915)
  , (0x3F7E0F6B, 0x3BF668E1, 0xBB72ACEC, 0x3A9CDC7D)
  , (0x3F7E7C9D, 0x3BC08C89, 0xBB3E45CB, 0x3A77AE30)
  , (0x3F7ED1E8, 0x3B9659A7, 0xBB14F6CF, 0x3A42F2B6)
  , (0x3F7F147D, 0x3B6AA9FC, 0xBAE8FA39, 0x3A1914E6)
  , (0x3F7F4870, 0x3B370C23, 0xBAB605A2, 0x39EFF91C)
  , (0x3F7F70F4, 0x3B0EBBF9, 0xBA8E1C76, 0x39BBD34F)
  , (0x3F7F908B, 0x3ADE89B8, 0xBA5DC7F1, 0x3992D8EA)
  , (0x3F7FA92A, 0x3AAD7177, 0xBA2CFBCC, 0x39656BE9)
  , (0x3F7FBC5A, 0x3A87282D, 0xBA06E0BE, 0x39331823)
  , (0x3F7FCB4E, 0x3A529DE7, 0xB9D24732, 0x390BBBFE)
  , (0x3F7FD6F4, 0x3A24163F, 0xB9A3E1A1, 0x38D9F5FB)
  , (0x3F7FE007, 0x39FFA721, 0xB97F6746, 0x38A9EFC4)
  , (0x3F7FE719, 0x39C72547, 0xB946FE89, 0x3884760F)]

/-- Taylor coefficients of the normal distribution function (R156), i from 0 to 15. -/
def geluPart0 : List (Word × Word × Word × Word) :=
  [(0x26F587F7, 0x287579B3, 0x2971A3CD, 0x2A1C04E4)
  , (0x285BCE80, 0x29D4FDFC, 0x2ACB0214, 0x2B7D8D59)
  , (0x29B9093C, 0x2B2D9C42, 0x2C200C0D, 0x2CC11B8F)
  , (0x2B127B05, 0x2C84EFC3, 0x2D6CCB13, 0x2E09D395)
  , (0x2C5A1B80, 0x2DBF3FD1, 0x2EA45AD8, 0x2F3856C3)
  , (0x2D98B8AB, 0x2F013C49, 0x2FD60BD8, 0x3066F53C)
  , (0x2EC92B7E, 0x302413F7, 0x3102BFE9, 0x318780D2)
  , (0x2FF944EA, 0x3143B16D, 0x3215D3D8, 0x3294DF3A)
  , (0x311149B2, 0x325B4246, 0x332104AB, 0x33991886)
  , (0x321F59A3, 0x3366C751, 0x34224425, 0x34935111)
  , (0x332475C6, 0x34642FCF, 0x3519501F, 0x358496C8)
  , (0x341FBD47, 0x3553F444, 0x3607C87B, 0x365F21A5)
  , (0x35120A4D, 0x3638F2BC, 0x36E167D5, 0x372F6F95)
  , (0x35FB6384, 0x37179AFE, 0x37AF4B35, 0x3800CE2E)
  , (0x36CBBADA, 0x37E97D22, 0x387F60DD, 0x38B07C15)
  , (0x379B7F57, 0x38A8E7D3, 0x392E2F12, 0x39616D67)]

/-- Taylor coefficients of the normal distribution function (R156), i from 16 to 31. -/
def geluPart1 : List (Word × Word × Word × Word) :=
  [(0x385F9BB3, 0x39659104, 0x39DE647B, 0x3A061030)
  , (0x39177FC0, 0x3A128DFC, 0x3A84D0AC, 0x3A9445A6)
  , (0x39C180DF, 0x3AAFC87B, 0x3B145128, 0x3B183543)
  , (0x3A690D7A, 0x3B461113, 0x3B9ABD57, 0x3B90AE79)
  , (0x3B046448, 0x3BD1A753, 0x3C16B043, 0x3BFDE09E)
  , (0x3B8DF736, 0x3C507916, 0x3C88CF76, 0x3C4CAC36)
  , (0x3C0FC2D1, 0x3CC2BD4A, 0x3CE740C8, 0x3C969E67)
  , (0x3C89921E, 0x3D2AE3A0, 0x3D3591DA, 0x3CC842BF)
  , (0x3CF901CA, 0x3D8CDFD2, 0x3D8411D5, 0x3CEC4208)
  , (0x3D55532E, 0x3DDA30BC, 0x3DB14799, 0x3CEEA54E)
  , (0x3DAD30CB, 0x3E1EBB89, 0x3DDA41DC, 0x3CBC7EB3)
  , (0x3E056BED, 0x3E58F631, 0x3DF414F7, 0x3C19AE63)
  , (0x3E435DA8, 0x3E8B4ACB, 0x3DF3C2E3, 0xBC2E1D7E)
  , (0x3E882F41, 0x3EA804B7, 0x3DD205E5, 0xBD0883D5)
  , (0x3EB5293D, 0x3EBE63CA, 0x3D8ECAD8, 0xBD5A27AD)
  , (0x3EE688B6, 0x3ECAAB3D, 0x3CCAAB3D, 0xBD850060)]

/-- Taylor coefficients of the normal distribution function (R156), i from 32 to 47. -/
def geluPart2 : List (Word × Word × Word × Word) :=
  [(0x3F0CBBA5, 0x3ECAAB3D, 0xBCCAAB3D, 0xBD850060)
  , (0x3F256B62, 0x3EBE63CA, 0xBD8ECAD8, 0xBD5A27AD)
  , (0x3F3BE85F, 0x3EA804B7, 0xBDD205E5, 0xBD0883D5)
  , (0x3F4F2896, 0x3E8B4ACB, 0xBDF3C2E3, 0xBC2E1D7E)
  , (0x3F5EA505, 0x3E58F631, 0xBDF414F7, 0x3C19AE63)
  , (0x3F6A59E7, 0x3E1EBB89, 0xBDDA41DC, 0x3CBC7EB3)
  , (0x3F72AACD, 0x3DDA30BC, 0xBDB14799, 0x3CEEA54E)
  , (0x3F7837F2, 0x3D8CDFD2, 0xBD8411D5, 0x3CEC4208)
  , (0x3F7BB36F, 0x3D2AE3A0, 0xBD3591DA, 0x3CC842BF)
  , (0x3F7DC0F5, 0x3CC2BD4A, 0xBCE740C8, 0x3C969E67)
  , (0x3F7EE412, 0x3C507916, 0xBC88CF76, 0x3C4CAC36)
  , (0x3F7F7B9C, 0x3BD1A753, 0xBC16B043, 0x3BFDE09E)
  , (0x3F7FC5BD, 0x3B461113, 0xBB9ABD57, 0x3B90AE79)
  , (0x3F7FE7D0, 0x3AAFC87B, 0xBB145128, 0x3B183543)
  , (0x3F7FF688, 0x3A128DFC, 0xBA84D0AC, 0x3A9445A6)
  , (0x3F7FFC82, 0x39659104, 0xB9DE647B, 0x3A061030)]

/-- Taylor coefficients of the normal distribution function (R156), i from 48 to 63. -/
def geluPart3 : List (Word × Word × Word × Word) :=
  [(0x3F7FFEC9, 0x38A8E7D3, 0xB92E2F12, 0x39616D67)
  , (0x3F7FFF9A, 0x37E97D22, 0xB87F60DD, 0x38B07C15)
  , (0x3F7FFFE1, 0x37179AFE, 0xB7AF4B35, 0x3800CE2E)
  , (0x3F7FFFF7, 0x3638F2BC, 0xB6E167D5, 0x372F6F95)
  , (0x3F7FFFFE, 0x3553F444, 0xB607C87B, 0x365F21A5)
  , (0x3F7FFFFF, 0x34642FCF, 0xB519501F, 0x358496C8)
  , (0x3F800000, 0x3366C751, 0xB4224425, 0x34935111)
  , (0x3F800000, 0x325B4246, 0xB32104AB, 0x33991886)
  , (0x3F800000, 0x3143B16D, 0xB215D3D8, 0x3294DF3A)
  , (0x3F800000, 0x302413F7, 0xB102BFE9, 0x318780D2)
  , (0x3F800000, 0x2F013C49, 0xAFD60BD8, 0x3066F53C)
  , (0x3F800000, 0x2DBF3FD1, 0xAEA45AD8, 0x2F3856C3)
  , (0x3F800000, 0x2C84EFC3, 0xAD6CCB13, 0x2E09D395)
  , (0x3F800000, 0x2B2D9C42, 0xAC200C0D, 0x2CC11B8F)
  , (0x3F800000, 0x29D4FDFC, 0xAACB0214, 0x2B7D8D59)
  , (0x3F800000, 0x287579B3, 0xA971A3CD, 0x2A1C04E4)]


/-- The coefficients c_0 to c_3 of segment i for the logistic function. -/
def siluCoeffs (i : Nat) : Word × Word × Word × Word :=
  (siluPart0 ++ siluPart1 ++ siluPart2 ++ siluPart3).getD i (0, 0, 0, 0)

/-- The coefficients c_0 to c_3 of segment i for the normal distribution function. -/
def geluCoeffs (i : Nat) : Word × Word × Word × Word :=
  (geluPart0 ++ geluPart1 ++ geluPart2 ++ geluPart3).getD i (0, 0, 0, 0)

/-- A cubic in d by three fused multiply-adds (R156, R211). -/
def cubic (c : Word × Word × Word × Word) (d : Word) : Word :=
  let (c0, c1, c2, c3) := c
  fma (fma (fma c3 d c2) d c1) d c0

/-- act(x) = x × g(x), with g the normal distribution function for GELU and the logistic one for SiLU. -/
def act (gelu : Bool) (x : Word) : Word :=
  let v := f32Val x
  if v = .nan then 0x7FC00000
  else if vlt v (.fin true 8 0) then 0x80000000
  else if !vlt v (.fin false 8 0) then x
  else
    match v with
    | .fin s m e =>
      -- i = floor((x + 8) × 4); x_i = (2 i - 63) / 8
      let w := vadd (.fin s m e) (.fin false 8 0)
      let i : Nat := match w with
        | .fin _ m' e' => if e' + 2 < 0 then m' / 2 ^ (-(e' + 2)).toNat else m' * 2 ^ (e' + 2).toNat
        | _ => 0
      let d := toF32 (vadd v (valOfInt (63 - 2 * (i : Int)) (-3)))
      fmul x (cubic (if gelu then geluCoeffs i else siluCoeffs i) d)
    | _ => 0

end Sys2Proof.Machine
end

