-- ==== Sys2Proof/Machine/Arrays.lean ====
section
/-! DEFINITION. What WLOAD and ROWS compute: weight tiles (R68, R69, R73, R530), prologues P0 to P4 (R150 to
R154, R177), column sums (R47 to R50, R67) and the accumulation in AM (R48, R50, R70, R107). -/

namespace Sys2Proof.Machine

open Sys2Proof

/-! ## Weight tiles -/

/-- The bytes of 32 columns of a tile without their scales. -/
def tileElemBytes (o : OpRec) : Nat := 32 * packedBytes (fmtWidth o.bFmt) (depthOf o)

/-- The bytes that a weight load reads: the elements, then the block scales, column by column (DEDUCED: R68,
R69 give the sizes and the K order, and no rule gives the place of the scales). -/
def tileBytes (o : OpRec) : Nat := tileElemBytes o + (if o.bScaled then depthOf o else 0)

/-- A tile from its bytes (R69). -/
def tileOf (o : OpRec) (b : Bytes) (bad : Bool) : Tile :=
  let d := depthOf o
  let w := fmtWidth o.bFmt
  let cb := packedBytes w d
  { fmt := o.bFmt, scaled := o.bScaled
    cols := (List.range 32).map fun n => unpack w d (slice b (n * cb) cb)
    scales := if o.bScaled then (List.range 32).map fun n => slice b (32 * cb + n * (d / 32)) (d / 32) else []
    bad := bad }

/-- The decoded weights of column n of a register; +0 where the pass has loaded nothing (R530). -/
def weightCol (t : Option Tile) (depth n : Nat) : List Val :=
  match t with
  | none => List.replicate depth vzero
  | some t =>
    let sc := t.scales.getD n []
    ((t.cols.getD n []).zipIdx).map fun (x, i) =>
      decodeScaled t.fmt (if t.scaled then some (sc.getD (i / 32) 0x7F) else none) x

/-- The raw integers of column n of a register. -/
def weightInts (t : Option Tile) (depth n : Nat) : List Int :=
  match t with
  | none => List.replicate depth 0
  | some t => (t.cols.getD n []).map fun x => signedOf (fmtWidth t.fmt) x

/-- An array of an engine. -/
def arrayGet (x : Engine) (k : Nat) : ArrayState := x.arrays.getD k {}

/-- An array of an engine replaced. -/
def arraySet (x : Engine) (k : Nat) (a : ArrayState) : Engine := { x with arrays := x.arrays.set k a }

/-- The arrays named by a bundle (R108). -/
def arraysOf (b : Bundle) : List Nat := bitsOf 4 b.arrays.toNat

/-- WLOAD (R72, R107): array Ak loads the tile at WS offset + k × the per-array stride into its shadow
register. Its reads of WS begin at the issue cycle. -/
def doWload (s : State) (e cycle : Nat) (b : Bundle) (finds : List EccFind) : State :=
  (arraysOf b).foldl (fun s k => taskAt s e cycle rankRead (.weights b finds k [] false)) s

/-- The next 256 B of a weight load, one read port cycle each (DEDUCED from R64, R72); the register holds the tile L
cycles after the second. Poisoned weights reach every job of the pass (R529). -/
def weightsStep (s : State) (e : Nat) (r : Run) (o : OpRec) (cycle : Nat) (b : Bundle) (finds : List EccFind) (k : Nat)
    (got : Bytes) (bad : Bool) : State :=
  let (bytes, hit, s) := winRead s e (wsBase + b.wsOff + k * b.abStride + got.length) (min 256 (tileBytes o - got.length)) finds
  let s := if hit then failAll s r .eccUncorrectable else s
  let got := got ++ bytes
  if got.length < tileBytes o then taskAt s e (cycle + 1) rankRead (.weights b finds k got (bad || hit))
  else taskAt s e (cycle + 2) rankFill (.tile k (tileOf o got (bad || hit)))

/-- The last write of a weight load. -/
def tileStep (s : State) (e k : Nat) (t : Tile) : State :=
  let x := engGet s e
  engSet s e (arraySet x k { arrayGet x k with shadow := some t })

/-! ## Prologues (R150 to R154, R177) -/

/-- One rounding to 24 significand bits, to nearest even, in the range of the Wide Common Form (R150). -/
def round24 (v : Val) : Val :=
  match v with
  | .fin s m e =>
    if m < 2 ^ 24 then v
    else
      let q := ilogb m e - 23
      .fin s (roundUlps m e q .rne) q
  | x => x

/-- The activation row as decoded: its elements, then one scale per 32 (DEDUCED place; R69, R42). -/
def actRow (o : OpRec) (b : Bytes) : List Val :=
  let d := depthOf o
  let w := fmtWidth o.aFmt
  let eb := packedBytes w d
  (unpack w d (b.take eb)).zipIdx.map fun (x, i) =>
    decodeScaled o.aFmt (if o.aScaled then some (b.getD (eb + i / 32) 0x7F) else none) x

/-- The bytes of an activation row with its scales. -/
def actBytes (o : OpRec) : Nat := packedBytes (fmtWidth o.aFmt) (depthOf o) + (if o.aScaled then depthOf o / 32 else 0)

/-- P2 (R152): (q − z) × s at tile-padded K index κ. `common` holds the tile's scales, then its zero-points. -/
def prologue2 (common : Bytes) (row : List Val) : List Val :=
  row.zipIdx.map fun (q, i) =>
    let sc := decodeElem 1 false (field common (2 * i) 2)
    let z := valOfInt (signedOf 8 (field common (2 * row.length + i) 1)) 0
    round24 (vmul (vadd q (vneg z)) sc)

/-- 1 / √w rounded once to BF16, with the special cases of R153. -/
def invSqrtBf16 (w : Word) : Val :=
  match f32Val w with
  | .nan => .nan
  | .inf s => if s then .nan else vzero
  | .fin s m e =>
    if m = 0 then .inf s
    else if s then .nan
    else
      let odd : Nat := (e % 2).toNat
      let x := m * 2 ^ odd                 -- w = x × 2^(e - odd), an even exponent
      let q := isqrt (2 ^ 160 / x)
      let m' := 2 * q + (if q * q * x = 2 ^ 160 then 0 else 1)
      decodeElem 1 false (storeElem 1 false { ieee := true } (.fin false m' (-81 - (e - odd) / 2))).1

/-- The row factor of P3 (R153). `common` is the area's header. -/
def rowFactor (s : State) (e : Nat) (a : Area) (common : Bytes) (k j : Nat) : Val :=
  let sum := (List.range (a.stride / 4)).foldl
    (fun acc i => fadd acc (areaF32 s e a (32 + j * a.stride + 4 * i))) (0 : Word)
  let q := fmul sum (fdiv 0x3F800000 (f32Int k))
  invSqrtBf16 (fadd q (BitVec.ofNat 32 (field common 0 4)))

/-- The 64-byte header of a P4 area (R170). -/
def p4Header (s : State) (e : Nat) (a : Area) : Bytes := areaBytes s e a 0 64

/-- Whether a P4 header holds a reserved value (R170). P_H in the 1-D variant, and P_W in the 1-D and 2-D variants,
are 0: any other value counts as reserved (DEDUCED). -/
def p4HeaderBad (fusion : Nat) (h : Bytes) : Bool :=
  decide (2 < field h 0 1) || decide (1 < field h 1 1) || !zeroAt h 5 3 || !zeroAt h 36 28
    || (fusion == 0x3C && field h 3 1 != 0) || (decide (fusion < 0x3E) && field h 4 1 != 0)

/-- Whether an operation's D_FORMAT or its header's STAT_STRIDE does not suit its mode (R170). -/
def p4ModeBad (o : OpRec) (h : Bytes) : Bool :=
  match field h 0 1 with
  | 1 => o.dFmt != 0 || o.dScaled
  | 2 => o.dScaled || decide (16 < fmtWidth o.dFmt) || field h 20 4 == 0 || field h 20 4 % 8 != 0
  | _ => false

/-- The place in the area of the rotation of pair i for a row with indices `index`; none is the identity by rule
(R177). The 1-D variant (code 0x3C) reads one table, the 2-D variant two. -/
def rotationAt (a : Area) (fusion : Nat) (h : Bytes) (index : Nat → Nat) (i : Nat) : Option Nat :=
  let pT := field h 2 1
  let pH := if fusion = 0x3C then 0 else field h 3 1
  let pW := if fusion < 0x3E then 0 else field h 4 1
  let entry (table x p q : Nat) : Nat := table + (x * p + q) * 2 * (fmtWidth a.fmt / 8)
  if field h 1 1 = 0 then none
  else if i < pT then some (entry (field h 24 4) (index 0) pT i)
  else if i < pT + pH then some (entry (field h 28 4) (index 1) pH (i - pT))
  else if i < pT + pH + pW then some (entry (field h 32 4) (index 2) pW (i - pT - pH))
  else none

/-- The indices in the record of row j (R177). -/
def rowIndex (s : State) (e : Nat) (a : Area) (j k : Nat) : Nat := leNat (areaBytes s e a (64 + 8 * j + 2 * k) 2)

/-- The rotation (c, s) of pair i for the record of row j. -/
def rotation (s : State) (e : Nat) (a : Area) (fusion : Nat) (h : Bytes) (j i : Nat) : Option (Val × Val) :=
  (rotationAt a fusion h (rowIndex s e a j) i).map fun x => (areaElem s e a x, areaElem s e a (x + fmtWidth a.fmt / 8))

/-- P4 (R154): each pair of elements of the row, which begins at tile-padded K index k0. -/
def prologue4 (s : State) (e : Nat) (a : Area) (fusion : Nat) (h : Bytes) (j : Nat) : Nat → List Val → List Val
  | k0, x :: y :: t =>
    match rotation s e a fusion h j (k0 / 2) with
    | none => x :: y :: prologue4 s e a fusion h j (k0 + 2) t
    | some (c, sn) =>
      round24 (vadd (vmul x c) (vneg (vmul y sn))) :: round24 (vadd (vmul x sn) (vmul y c))
        :: prologue4 s e a fusion h j (k0 + 2) t
  | _, l => l

/-- What a ROWS bundle reads of its area at its issue for all its rows (R148): offset and bytes of each part. -/
def commonParts (o : OpRec) (kStep : Nat) : List (Nat × Nat) :=
  match prologueOf o with
  | 2 => [(2 * kStep * depthOf o, 2 * depthOf o), (2 * kTotal o + kStep * depthOf o, depthOf o)]
  | 3 => [(0, 32)]
  | 4 => [(0, 64)]
  | _ => []

/-- The part of its area that a row reads for itself. -/
def ownPart (o : OpRec) (a : Area) (j : Nat) : Nat × Nat :=
  match prologueOf o with
  | 3 => (32 + j * a.stride, a.stride)
  | 4 => (64 + 8 * j, 8)
  | _ => (0, 0)

/-- The entries of the axis tables that row j reads, for the pairs of a tile: offsets in the area. -/
def tableReads (s : State) (e : Nat) (o : OpRec) (a : Area) (kStep j : Nat) (common : Bytes) : List Nat :=
  if prologueOf o = 4 then
    (List.range (depthOf o / 2)).filterMap fun i => rotationAt a o.fusion common (rowIndex s e a j) (kStep * depthOf o / 2 + i)
  else []

/-- The prologue of an operation applied to row j of a ROWS bundle whose tile begins at K_STEP × D. -/
def prologue (s : State) (e : Nat) (i : Image) (o : OpRec) (kStep j : Nat) (common : Bytes) (row : List Val) : List Val :=
  match areaOf i o.tensorAux with
  | none => row
  | some a =>
    match prologueOf o with
    | 2 => prologue2 common row
    | 3 => let f := rowFactor s e a common o.k j; row.map fun x => vmul x f
    | 4 => prologue4 s e a o.fusion common j (kStep * depthOf o) row
    | _ => row

/-! ## Column sums (R47, R49, R50, R67) -/

/-- Adds the products of one rounding point to a running sum, exactly, and rounds once to FP32. In cell row
0 there is no incoming sum (R70, R130). -/
def sumGroup (acc : Option Val) (ps : List Val) : Option Val :=
  let terms := acc.toList ++ ps
  match terms with
  | [] => none
  | v :: t => some (f32Val (toF32 (t.foldl vadd v)))

/-- The running sum over the rounding points of a column, g products each. -/
def sumColumn (g : Nat) : Nat → List Val → Option Val → Option Val
  | 0, _, acc => acc
  | fuel + 1, ps, acc =>
    match ps with
    | [] => acc
    | _ => sumColumn g fuel (ps.drop g) (sumGroup acc (ps.take g))

/-- A column's FP32 sum. -/
def floatColumn (o : OpRec) (row col : List Val) : Word :=
  let ps := (row.zip col).map fun (a, w) => vmul a w
  match sumColumn (roundGroup o) ps.length ps none with
  | some v => toF32 v
  | none => 0

/-- A wrapping 32-bit sum, and whether it wrapped (R50). -/
def wrapAdd (a : Word) (n : Int) : Word × Nat :=
  let x := a.toInt + n
  (BitVec.ofInt 32 x, if -2 ^ 31 ≤ x ∧ x < 2 ^ 31 then 0 else 1)

/-- A column's integer sum over the cells, kc products each, and how many additions wrapped: a cell's products are summed
first, and each cell counts for one addition, in either operand mode (DESIGN CHOICE, assumption 97; R50 counts wrapping additions and
does not say how many additions a cell's products are). -/
def intColumn (kc : Nat) : Nat → List Int → List Int → Word × Nat → Word × Nat
  | 0, _, _, acc => acc
  | fuel + 1, a, w, acc =>
    let p := ((a.take kc).zip (w.take kc)).foldl (fun t (x, y) => t + x * y) (0 : Int)
    let (v, c) := wrapAdd acc.1 p
    intColumn kc fuel (a.drop kc) (w.drop kc) (v, acc.2 + c)

/-- Adds 32 sums into AM words, or stores them (R48, R50, R70): the new words and the wraps. -/
def accumulate (integer add : Bool) (old new : List Word) : List Word × Nat :=
  if !add then (new, 0)
  else if integer then
    let r := (old.zip new).map fun (a, b) => wrapAdd a b.toInt
    (r.map (·.1), (r.map (·.2)).sum)
  else ((old.zip new).map fun (a, b) => fadd a b, 0)

/-! ## The pairwise tree of splits (R48, R97)

Under K_ORDER 1 an AM word holds the sum of the splits that have arrived, combined as the tree combines them. The spec
says what the sum is and not how the unit keeps its parts (DEDUCED; assumption 72). -/

/-- The split that weight tile n of an operation belongs to. -/
def splitOfTile (o : OpRec) (n : Nat) : Nat := n / max 1 (splitTiles o (min o.tileK o.k))

/-- The sum of two splits, or runs of splits, and whether it wrapped: an FP32 addition, or an integer one (R48, R50). -/
def addSplits (integer : Bool) (a b : Word) : Word × Nat := if integer then wrapAdd a b.toInt else (fadd a b, 0)

/-- Pairs equal runs of splits, newest first: an earlier run plus a later one; and how many additions wrapped. -/
def pairRuns (integer : Bool) : Nat → List (Nat × Word) → List (Nat × Word) × Nat
  | fuel + 1, (n, b) :: (m, a) :: t =>
    if n = m then
      let (x, w) := addSplits integer a b
      let (l, k) := pairRuns integer fuel ((2 * n, x) :: t)
      (l, w + k)
    else ((n, b) :: (m, a) :: t, 0)
  | _, l => (l, 0)

/-- The sum that runs of splits stand for, and how many of its additions wrap: what is odd at the end of a level passes up
unchanged. -/
def runsSum (integer : Bool) : List (Nat × Word) → Word × Nat
  | [] => (0, 0)
  | (_, x) :: t => t.foldl (fun acc (_, a) => let (y, w) := addSplits integer a acc.1; (y, acc.2 + w)) (x, 0)

/-- The next weight tile's sum: it adds to the split under way, or begins the next one. The last tile of K makes the sum of
what has stayed odd, so that its additions count once (R50). -/
def treeAdd (o : OpRec) (t : KTree) (x : Word) : KTree × Nat :=
  let int := isIntegerOp o
  let (u, w) : KTree × Nat :=
    if splitOfTile o t.tiles = splitOfTile o (t.tiles - 1) then
      match t.runs with
      | (n, a) :: r => let (y, w) := addSplits int a x; ({ tiles := t.tiles + 1, runs := (n, y) :: r }, w)
      | [] => ({ tiles := t.tiles + 1, runs := [(1, x)] }, 0)
    else let (l, w) := pairRuns int t.runs.length t.runs; ({ tiles := t.tiles + 1, runs := (1, x) :: l }, w)
  (u, if u.tiles = tilesOf o then w + (runsSum int u.runs).2 else w)

/-- What an AM word of a K_ORDER 1 operation holds and stands for after a sum, and how many additions wrapped: a word that
something else has written since begins anew from what it holds. -/
def treeWord (o : OpRec) (add : Bool) (t : Option KTree) (old x : Word) : KTree × Nat :=
  if !add then ({ tiles := 1, runs := [(1, x)] }, 0)
  else match t with
    | some t => if (runsSum (isIntegerOp o) t.runs).1 = old then treeAdd o t x else treeAdd o { tiles := t.tiles, runs := [(1, old)] } x
    | none => treeAdd o { tiles := 1, runs := [(1, old)] } x

/-- Whether an operation combines its splits by the tree: an integer sum is the same in either order, and which of its
additions wrap is not (R50). -/
def usesTree (o : OpRec) : Bool := o.tree && decide (o.tileK < o.k)

/-- 32 sums into AM words at a linear address, by the tree; and how many additions wrapped. -/
def accumulateTree (s : State) (o : OpRec) (add : Bool) (lin : Nat) (old new : List Word) : List Word × Nat × State :=
  let ts := new.zipIdx.map fun (x, n) => (lin + 4 * n, treeWord o add (sfind s.trees (lin + 4 * n)) (old.getD n 0) x)
  (ts.map fun (_, t, _) => (runsSum (isIntegerOp o) t.runs).1, (ts.map fun (_, _, w) => w).sum,
    { s with trees := ts.foldl (fun l (a, t, _) => sput l a t) s.trees })

/-- Words of a byte string. -/
def f32Words (b : Bytes) : List Word := (List.range (b.length / 4)).map fun i => BitVec.ofNat 32 (field b (4 * i) 4)

/-- The bytes of words. -/
def wordBytes (ws : List Word) : Bytes := ws.flatMap fun w => toLE w.toNat 4

/-! ## The slots that rows belong to (R74, R529)

A row of AB belongs to the batch slot of the result rows that it sums into: those of the EPI that next reads the AM words
it writes. `rowSlot` is that look-ahead, which Epilogue.lean gives. -/

/-- Fails the jobs that a row's poisoned data reaches: its slot's, or every job when its slot is not known. -/
def failRow (s : State) (r : Run) (slot : Option Nat) : State :=
  match slot with
  | some k => failAt s (((jobOf s r k).map (·.num)).toList) .eccUncorrectable
  | none => if r.img.slots = 1 then failAll s r .eccUncorrectable else s

/-- Whether a row's slot is known to be empty: it is computed on zero inputs. The rows of a job that has left its slot
within the pass run on (R76). -/
def rowEmpty (s : State) (r : Run) (slot : Option Nat) : Bool :=
  slot.any fun k => (jobOf s r k).isNone && !(r.pass.taken.contains k && (sfind r.pass.slots k).isNone)

/-! ## ROWS (R71, R107, R170) -/

/-- The first AM word that row j writes through the lowest of its arrays. -/
def rowAm (b : Bundle) (j : Nat) : Nat := b.amOff + j * b.amStride + 128 * (arraysOf b).headD 0

/-- The cycles between two rows: two at rate 0.5 (R68). -/
def rowCycles (o : OpRec) : Nat := if depthOf o = 32 then 2 else 1

/-- ROWS at its issue: the parameters that its rows share are read, and its rows and its swap follow. A P4 header that
is refused (R170) is met before anything is written. -/
def doRows (s : State) (e : Nat) (r : Run) (o : OpRec) (b : Bundle) (cycle : Nat) (finds : List EccFind) : State :=
  let a := areaOf r.img o.tensorAux
  let parts := commonParts o b.kStep
  let s := a.toList.foldl (fun s a => parts.foldl (fun s (off, n) => areaScan s e a off n finds) s) s
  let common := match a with
    | some a => parts.flatMap fun (off, n) => areaBytes s e a off n
    | none => []
  let s := if a.any fun a => parts.any fun (off, n) => areaBad s e a off n then failAll s r .eccUncorrectable else s
  let s := if b.swap then taskAt s e (cycle + 6) rankRead (.swap b.arrays) else s
  if prologueOf o = 4 ∧ a.isSome ∧ (p4HeaderBad o.fusion common ∨ p4ModeBad o common) then
    failAll (logOther s (unitOf 1 e) none 170) r .badParam
  else taskAt s e cycle rankRead (.row b finds 0 common)

/-- The swap at the broadcast of the first row that carries the flag (R73). -/
def swapStep (s : State) (e : Nat) (arrays : BitVec 4) : State :=
  (bitsOf 4 arrays.toNat).foldl (fun s k =>
    let x := engGet s e
    let a := arrayGet x k
    engSet s e (arraySet x k { a with active := a.shadow, shadow := a.active })) s

/-- The AB read of row j (R71): the row and its own record, and the next row's turn. -/
def rowStep (s : State) (e : Nat) (r : Run) (o : OpRec) (cycle : Nat) (b : Bundle) (finds : List EccFind) (j : Nat)
    (common : Bytes) (slot : Option Nat) : State :=
  let a := areaOf r.img o.tensorAux
  let s := match a with
    | some a => let (off, n) := ownPart o a j
      (tableReads s e o a b.kStep j common).foldl (fun s x => areaScan s e a x (fmtWidth a.fmt / 4) finds)
        (if n = 0 then s else areaScan s e a off n finds)
    | none => s
  let own := a.any fun a => let (off, n) := ownPart o a j; areaBad s e a off n
  let shared := a.any fun a => (tableReads s e o a b.kStep j common).any fun x => areaBad s e a x (fmtWidth a.fmt / 4)
  let (bytes, bad, s) := winRead s e (b.abOff + j * b.abStride) (actBytes o) finds
  let s := if shared then failAll s r .eccUncorrectable else s
  let s := if bad ∨ own then failRow s r slot else s
  let bytes := if rowEmpty s r slot then List.replicate bytes.length 0 else bytes
  let row := prologue s e r.img o b.kStep j common (actRow o bytes)
  let ints := if isIntegerOp o then (unpack (fmtWidth o.aFmt) (depthOf o) bytes).map (signedOf (fmtWidth o.aFmt)) else []
  let s := taskAt s e (cycle + 6) rankRead (.cast b finds j row ints (bad || own || shared))
  if j + 1 < b.rows then taskAt s e (cycle + rowCycles o) rankRead (.row b finds (j + 1) common) else s

/-- The broadcast of row j: the column sums with the active registers of the cycle (R67), bound for AM 33 cycles later,
one more at rate 0.5 (R71). -/
def castStep (s : State) (e : Nat) (o : OpRec) (cycle : Nat) (b : Bundle) (finds : List EccFind) (j : Nat) (row : List Val)
    (ints : List Int) (bad : Bool) : State :=
  let d := depthOf o
  let cols := (arraysOf b).map fun k =>
    let a := (arrayGet (engGet s e) k).active
    (k, (List.range 32).map (fun n =>
      if isIntegerOp o then intColumn (d / 32) 32 ints (weightInts a d n) (0, 0)
      else (floatColumn o row (weightCol a d n), 0)), bad || a.any (·.bad))
  let s := engNumev s e false ((cols.map fun (_, c, _) => (c.map (·.2)).sum).sum)
  taskAt s e (cycle + 33 + (if d = 32 then 1 else 0)) rankRead (.sums b finds j (cols.map fun (k, c, q) => (k, c.map (·.1), q)))

/-- The AM reads of row j's sums and their additions; the words are written two cycles later (R71). -/
def sumsStep (s : State) (e : Nat) (r : Run) (o : OpRec) (cycle : Nat) (b : Bundle) (finds : List EccFind) (j : Nat)
    (cols : List (Nat × List Word × Bool)) (slot : Option Nat) : State :=
  cols.foldl (fun s (k, new, bad) =>
    let off := amBase + b.amOff + j * b.amStride + 128 * k
    let (old, badOld, s) := if b.accAdd then winRead s e off 128 finds else ([], false, s)
    let s := if badOld then failRow s r slot else s
    let (ws, wraps, s) := if usesTree o then accumulateTree s o b.accAdd (winAddr e off) (f32Words old) new
      else
        let (ws, wraps) := accumulate (isIntegerOp o) b.accAdd (f32Words old) new
        (ws, wraps, s)
    let s := engNumev s e false wraps
    taskAt s e (cycle + 2) rankFill (.put off (wordBytes ws) (if bad || badOld then List.range 128 else []) [])) s

/-- A write into an engine's window at the end of a cycle (R65, R66). -/
def putStep (s : State) (e off : Nat) (data : Bytes) (bad jobs : List Nat) : State :=
  let (part, s) := winWriteAt s (winAddr e off) data bad
  if part then failAt s jobs .eccUncorrectable else s

end Sys2Proof.Machine
end

