-- ==== Sys2Proof/Machine/CodecCore.lean ====
section
/-! DEFINITION. The codec engines' books: loads and admission (R427), which frame an engine runs (R439), damaged streams
(R441), and the move of streams off a fenced engine (R445). -/

namespace Sys2Proof.Machine

open Sys2Proof

/-! ## Loads (R427) -/

/-- Luma samples per second as a fraction, its denominator never 0. -/
structure Rate where
  num : Nat
  den : Nat
  deriving DecidableEq, Repr

/-- The sum of two rates. -/
def rateAdd (a b : Rate) : Rate := ⟨a.num * b.den + b.num * a.den, a.den * b.den⟩

/-- The sum of rates. -/
def rateSum (l : List Rate) : Rate := l.foldl rateAdd ⟨0, 1⟩

/-- Whether a rate is below another. -/
def rateLt (a b : Rate) : Bool := decide (a.num * b.den < b.num * a.den)

/-- One engine's capacity, luma samples per second. -/
def codecCapacity : Nat := 497664000

/-- The load of a picture size and frame rate: half for decode. -/
def loadFor (encode : Bool) (w h num den : Nat) : Rate := ⟨w * h * num, (if encode then 1 else 2) * max 1 den⟩

/-- The load of a stream. -/
def streamLoad (x : Stream) : Rate := loadFor x.encode x.width x.height x.fpsNum x.fpsDen

/-- The total or the live load of an engine. -/
def engineLoad (s : State) (e : Nat) (liveOnly : Bool) : Rate :=
  rateSum ((s.streams.filter fun x => x.engine == e && (!liveOnly || x.live)).map streamLoad)

/-- A load in 1/1,024 of capacity, rounded up (R446). -/
def loadField (r : Rate) : Nat := min 65535 (ceilDiv (1024 * r.num) (codecCapacity * r.den))

/-- Whether a codec engine is fenced. -/
def codecFenced (s : State) (e : Nat) : Bool := (regF s oVidFence 7 0).testBit e

/-- The engine that R427 chooses: the lowest live load for a live stream, the lowest total load for another, ties to the
lowest number; none when every engine is fenced. -/
def lightestEngine (s : State) (live : Bool) : Option Nat :=
  ((List.range 8).filter fun e => !codecFenced s e).foldl (fun m e => match m with
    | none => some e
    | some k => if rateLt (engineLoad s e live) (engineLoad s k live) then some e else some k) none

/-! ## Entries (R437) -/

/-- What a frame's entry reports beyond the frame itself. -/
structure FrameOut where
  bytes   : Nat := 0
  key     : Bool := false
  late    : Bool := false
  noOutput : Bool := false
  stage2  : Bool := false
  stage3  : Bool := false
  qpAvg   : Nat := 0
  outPic  : Nat := 0xFFFFFFFF
  errPic  : Nat := 0xFFFFFFFF
  errCol  : Byte := 0xFF
  errRow  : Byte := 0xFF
  errKind : Nat := 0
  deriving DecidableEq, Repr

/-- The RESULT of a frame's entry. -/
def frameResult (s : State) (f : Frame) (o : FrameOut) : Bytes :=
  let flags := o.key.toNat + 2 * o.late.toNat + 4 * f.dropped.toNat + 8 * o.noOutput.toNat + 16 * o.stage2.toNat
    + 32 * o.stage3.toNat + 64 * f.preempted.toNat
  toLE f.number 4 ++ toLE o.bytes 4 ++ toLE flags 2 ++ [BitVec.ofNat 8 o.qpAvg, 0] ++ toLE o.outPic 4
    ++ toLE (dtSec s) 4 ++ toLE (dtNs s) 4 ++ toLE o.errPic 4 ++ [o.errCol, o.errRow, BitVec.ofNat 8 o.errKind, 0]

/-- Counts LATE and DROPPED (R446). -/
def countFlags (s : State) (late dropped : Bool) : State :=
  let s := if late then regCount s oVidEvents 31 16 1 else s
  if dropped then regCount s oVidEvents 15 0 1 else s

/-- Whether a frame's deadline has passed (R439). -/
def isLate (s : State) (f : Frame) : Bool := f.deadline.any fun d => decide (d < s.clock.dt)

/-- Posts a frame's entry, which carries LATE when the frame ends after its deadline, and counts it (R439, R446). -/
def postFrame (s : State) (f : Frame) (code : Code) (o : FrameOut) : State :=
  countFlags (postEntry s f.p 0x61 code (frameResult s f { o with late := isLate s f })) (isLate s f) f.dropped

/-! ## Damage (R441) -/

/-- Marks a stream DAMAGED: it stops, its frames post a code with the error's fields, and it is logged and counted. -/
def damageStream (s : State) (n : Nat) (first rest : Code) (o : FrameOut) : State :=
  match streamGet s n with
  | none => s
  | some x =>
    let s := regCount (logEvent s 0x0701 (unitOf 12 n) none [BitVec.ofNat 8 o.errKind]) oVidEvents2 31 16 1
    let s := match x.frames with
      | [] => s
      | f :: t => t.foldl (fun s f => postFrame s f rest { errPic := o.errPic, errCol := o.errCol, errRow := o.errRow, errKind := o.errKind })
          (postFrame s f first o)
    let s := streamMap s n fun x => { x with
      damaged := true, frames := [], errKind := o.errKind, errPic := o.errPic, errCol := o.errCol, errRow := o.errRow }
    { s with running := s.running.filter fun y => y.2 != n }

/-! ## Which frame an engine runs (R439) -/

/-- A frame that may run: its stream and itself. -/
def headFrame (x : Stream) : Option (Stream × Frame) := if x.damaged then none else x.frames.head?.map fun f => (x, f)

/-- The order of live frames: the earliest deadline, frames without one last, ties to the lowest stream number. -/
def liveBefore (a b : Stream × Frame) : Bool :=
  match a.2.deadline, b.2.deadline with
  | some x, some y => decide (x < y) || (x == y && decide (a.1.num < b.1.num))
  | some _, none => true
  | none, some _ => false
  | none, none => decide (a.1.num < b.1.num)

/-- The frame that an engine runs next: the first ready live one, else the oldest accepted other one. -/
def nextFrame (s : State) (e : Nat) : Option (Stream × Frame) :=
  let hs := (s.streams.filter fun x => x.engine == e).filterMap headFrame
  let best (l : List (Stream × Frame)) (lt : Stream × Frame → Stream × Frame → Bool) : Option (Stream × Frame) :=
    l.foldl (fun m y => match m with
      | none => some y
      | some z => if lt y z then some y else some z) none
  match best (hs.filter fun y => y.1.live) liveBefore with
  | some y => some y
  | none => best (hs.filter fun y => !y.1.live) fun a b => decide (a.2.accepted < b.2.accepted)

/-- Changes the oldest frame of a stream. -/
def headMap (s : State) (n : Nat) (f : Frame → Frame) : State :=
  streamMap s n fun x => match x.frames with
    | [] => x
    | h :: t => { x with frames := f h :: t }

/-- A frame starts or resumes: with DROP_LATE, a live frame whose deadline has passed before it starts is dropped. -/
def runFrame (s : State) (e : Nat) (y : Stream × Frame) : State :=
  let s : State := { s with running := sput s.running e y.1.num }
  if y.2.started then s
  else
    let drop := y.1.live && y.1.dropLate && y.2.deadline.any fun d => decide (d < s.clock.dt)
    headMap s y.1.num fun f => { f with started := true, dropped := drop }

/-- An engine with no frame to run takes the next one. On a fenced engine only streams with a picture in progress are
left (R445). -/
def codecPick (s : State) (e : Nat) : State :=
  if (sfind s.running e).isSome then s
  else match nextFrame s e with
    | some y => runFrame s e y
    | none => s

/-- A tile boundary within a frame: a non-live frame yields to a ready live one. -/
def codecYield (s : State) (e : Nat) : State :=
  match (sfind s.running e).bind (streamGet s), nextFrame s e with
  | some x, some y =>
    if x.live ∨ !y.1.live then s
    else
      let s := regCount (headMap s x.num fun f => { f with preempted := true }) oVidEvents2 15 0 1
      codecPick { s with running := sdel s.running e } e
  | _, _ => s

/-! ## Fenced engines (R445) -/

/-- A stream of a fenced engine at a picture boundary moves to the engine that R427 chooses, and the log says so; with
every engine fenced it is DAMAGED with ERR_KIND 0 and its frames post INTERNAL. -/
def moveStream (s : State) (n : Nat) : State :=
  match streamGet s n with
  | none => s
  | some x =>
    let busy := x.frames.head?.any (·.started)
    if x.damaged ∨ busy ∨ !codecFenced s x.engine then s
    else
      match lightestEngine s x.live with
      | none => damageStream s n .internal .internal {}
      | some e => logEvent (streamMap s n fun x => { x with engine := e }) 0x0701 (unitOf 12 n) none [0]

/-- Streams move off fenced engines, and idle engines take frames. -/
def codecMoves (s : State) : State :=
  let s := (s.streams.map (·.num)).foldl moveStream s
  (List.range 8).foldl codecPick s

end Sys2Proof.Machine
end

