-- ==== Sys2Proof/Machine/Crypto.lean ====
section
/-! DEFINITION. The functions of published standards that the manual names for its digests and signatures: SHA-512
(FIPS 180-4) and the verification and making of ECDSA signatures on P-521 (FIPS 186-5), with
HKDF (RFC 5869), which R96, R414, R496, R498 and R512 use. Their text is
the standards', not the manual's (PRESUMED; assumption 59). -/

namespace Sys2Proof.Machine

open Sys2Proof

/-! ## SHA-512 -/

/-- The round constants 0 to 19: the fractions of the cube roots of the first 80 primes (FIPS 180-4). -/
def shaKeys0 : List (BitVec 64) :=
  [0x428A2F98D728AE22, 0x7137449123EF65CD, 0xB5C0FBCFEC4D3B2F, 0xE9B5DBA58189DBBC, 0x3956C25BF348B538,
   0x59F111F1B605D019, 0x923F82A4AF194F9B, 0xAB1C5ED5DA6D8118, 0xD807AA98A3030242, 0x12835B0145706FBE,
   0x243185BE4EE4B28C, 0x550C7DC3D5FFB4E2, 0x72BE5D74F27B896F, 0x80DEB1FE3B1696B1, 0x9BDC06A725C71235,
   0xC19BF174CF692694, 0xE49B69C19EF14AD2, 0xEFBE4786384F25E3, 0x0FC19DC68B8CD5B5, 0x240CA1CC77AC9C65]

/-- The round constants 20 to 39: the fractions of the cube roots of the first 80 primes (FIPS 180-4). -/
def shaKeys1 : List (BitVec 64) :=
  [0x2DE92C6F592B0275, 0x4A7484AA6EA6E483, 0x5CB0A9DCBD41FBD4, 0x76F988DA831153B5, 0x983E5152EE66DFAB,
   0xA831C66D2DB43210, 0xB00327C898FB213F, 0xBF597FC7BEEF0EE4, 0xC6E00BF33DA88FC2, 0xD5A79147930AA725,
   0x06CA6351E003826F, 0x142929670A0E6E70, 0x27B70A8546D22FFC, 0x2E1B21385C26C926, 0x4D2C6DFC5AC42AED,
   0x53380D139D95B3DF, 0x650A73548BAF63DE, 0x766A0ABB3C77B2A8, 0x81C2C92E47EDAEE6, 0x92722C851482353B]

/-- The round constants 40 to 59: the fractions of the cube roots of the first 80 primes (FIPS 180-4). -/
def shaKeys2 : List (BitVec 64) :=
  [0xA2BFE8A14CF10364, 0xA81A664BBC423001, 0xC24B8B70D0F89791, 0xC76C51A30654BE30, 0xD192E819D6EF5218,
   0xD69906245565A910, 0xF40E35855771202A, 0x106AA07032BBD1B8, 0x19A4C116B8D2D0C8, 0x1E376C085141AB53,
   0x2748774CDF8EEB99, 0x34B0BCB5E19B48A8, 0x391C0CB3C5C95A63, 0x4ED8AA4AE3418ACB, 0x5B9CCA4F7763E373,
   0x682E6FF3D6B2B8A3, 0x748F82EE5DEFB2FC, 0x78A5636F43172F60, 0x84C87814A1F0AB72, 0x8CC702081A6439EC]

/-- The round constants 60 to 79: the fractions of the cube roots of the first 80 primes (FIPS 180-4). -/
def shaKeys3 : List (BitVec 64) :=
  [0x90BEFFFA23631E28, 0xA4506CEBDE82BDE9, 0xBEF9A3F7B2C67915, 0xC67178F2E372532B, 0xCA273ECEEA26619C,
   0xD186B8C721C0C207, 0xEADA7DD6CDE0EB1E, 0xF57D4F7FEE6ED178, 0x06F067AA72176FBA, 0x0A637DC5A2C898A6,
   0x113F9804BEF90DAE, 0x1B710B35131C471B, 0x28DB77F523047D84, 0x32CAAB7B40C72493, 0x3C9EBE0A15C9BEBC,
   0x431D67C49C100D4C, 0x4CC5D4BECB3E42B6, 0x597F299CFC657E2A, 0x5FCB6FAB3AD6FAEC, 0x6C44198C4A475817]

/-- The eight words of a running digest. -/
structure Sha where
  a : BitVec 64
  b : BitVec 64
  c : BitVec 64
  d : BitVec 64
  e : BitVec 64
  f : BitVec 64
  g : BitVec 64
  h : BitVec 64
  deriving DecidableEq, Repr

/-- The digest before the first block: the fractions of the square roots of the first 8 primes. -/
def shaStart : Sha :=
  ⟨0x6A09E667F3BCC908, 0xBB67AE8584CAA73B, 0x3C6EF372FE94F82B, 0xA54FF53A5F1D36F1,
   0x510E527FADE682D1, 0x9B05688C2B3E6C1F, 0x1F83D9ABFB41BD6B, 0x5BE0CD19137E2179⟩

/-- One round, with its constant and its word of the message schedule. -/
def shaRound (x : Sha) (k w : BitVec 64) : Sha :=
  let big1 := x.e.rotateRight 14 ^^^ x.e.rotateRight 18 ^^^ x.e.rotateRight 41
  let choose := (x.e &&& x.f) ^^^ (~~~x.e &&& x.g)
  let t1 := x.h + big1 + choose + k + w
  let big0 := x.a.rotateRight 28 ^^^ x.a.rotateRight 34 ^^^ x.a.rotateRight 39
  let majority := (x.a &&& x.b) ^^^ (x.a &&& x.c) ^^^ (x.b &&& x.c)
  ⟨t1 + (big0 + majority), x.a, x.b, x.c, x.d + t1, x.e, x.f, x.g⟩

/-- The word that the schedule takes 16 rounds after the first of a window of 16. -/
def shaNext (w : List (BitVec 64)) : BitVec 64 :=
  let at_ (i : Nat) : BitVec 64 := w.getD i 0
  let small0 := (at_ 1).rotateRight 1 ^^^ (at_ 1).rotateRight 8 ^^^ at_ 1 >>> 7
  let small1 := (at_ 14).rotateRight 19 ^^^ (at_ 14).rotateRight 61 ^^^ at_ 14 >>> 6
  small1 + at_ 9 + small0 + at_ 0

/-- The rounds of a block: the window of the schedule moves with them. -/
def shaRounds : List (BitVec 64) → List (BitVec 64) → Sha → Sha
  | [], _, x => x
  | k :: ks, w, x => shaRounds ks (w.drop 1 ++ [shaNext w]) (shaRound x k (w.getD 0 0))

/-- A block of 16 words, taken into the digest. -/
def shaBlock (x : Sha) (w : List (BitVec 64)) : Sha :=
  let y := shaRounds (shaKeys0 ++ shaKeys1 ++ shaKeys2 ++ shaKeys3) w x
  ⟨x.a + y.a, x.b + y.b, x.c + y.c, x.d + y.d, x.e + y.e, x.f + y.f, x.g + y.g, x.h + y.h⟩

/-- A big-endian number, as network addresses and PTP identities are too. -/
def beNat (b : Bytes) : Nat := leNat b.reverse

/-- The low n bytes of a number, highest first. -/
def toBE (v n : Nat) : Bytes := (toLE v n).reverse

/-- The message with its padding: a one bit, zeros, and its length in bits in 16 bytes. -/
def shaPadded (b : Bytes) : Bytes :=
  b ++ [0x80] ++ List.replicate ((239 - b.length % 128) % 128) 0 ++ toBE (8 * b.length) 16

/-- The 16 words of the block at the front of a message. -/
def shaWords (b : Bytes) : List (BitVec 64) := (List.range 16).map fun i => BitVec.ofNat 64 (beNat ((b.drop (8 * i)).take 8))

/-- n blocks of a padded message. -/
def shaBlocks : Nat → Bytes → Sha → Sha
  | 0, _, x => x
  | n + 1, b, x => shaBlocks n (b.drop 128) (shaBlock x (shaWords b))

/-- The 64 bytes of the SHA-512 digest of a byte string. -/
def shaBytes (b : Bytes) : Bytes :=
  let m := shaPadded b
  let x := shaBlocks (m.length / 128) m shaStart
  [x.a, x.b, x.c, x.d, x.e, x.f, x.g, x.h].flatMap fun w => toBE w.toNat 8

/-- The digest as a number, byte 0 of the digest lowest. -/
def sha512 (b : Bytes) : BitVec 512 := BitVec.ofNat 512 (leNat (shaBytes b))

/-! ## ECDSA on P-521 -/

/-- The prime of the field, 2^521 − 1. -/
def curveP : Nat := 2 ^ 521 - 1

/-- The coefficient b of the curve y² = x³ − 3 x + b. -/
def curveB : Nat :=
  0x51953EB9618E1C9A1F929A21A0B68540EEA2DA725B99B315F3B8B489918EF109E156193951EC7E937B1652C0BD3BB1BF073573DF883D2C34F1EF451FD46B503F00

/-- The order of the base point. -/
def curveN : Nat :=
  0x1FFFFFFFFFFFFFFFFFFFFFFFFFFFFFFFFFFFFFFFFFFFFFFFFFFFFFFFFFFFFFFFFFA51868783BF2F966B7FCC0148F709A5D03BB5C9B8899C47AEBB6FB71E91386409

/-- The base point's coordinates. -/
def curveGx : Nat :=
  0xC6858E06B70404E9CD9E3ECB662395B4429C648139053FB521F828AF606B4D3DBAA14B5E77EFE75928FE1DC127A2FFA8DE3348B3C1856A429BF97E7E31C2E5BD66

def curveGy : Nat :=
  0x11839296A789A3BC0045C8A5FB42C7D1BD998F54449579B446817AFBD17273E662C97EE72995EF42640C550B9013FAD0761353C7086A272C24088BE94769FD16650

/-- b to the power e modulo m, over the k low bits of e, the highest first. -/
def powMod (b e m : Nat) : Nat → Nat
  | 0 => 1 % m
  | k + 1 =>
    let r := powMod b (e / 2) m k
    let r := r * r % m
    if e % 2 = 1 then r * b % m else r

/-- The inverse modulo a prime of at most 521 bits. -/
def invMod (a m : Nat) : Nat := powMod (a % m) (m - 2) m 521

/-- a − b in the field. -/
def subMod (a b : Nat) : Nat := (a + curveP - b % curveP) % curveP

/-- A point: (x / z², y / z³), or the point at infinity when z is 0. -/
structure Point where
  x : Nat
  y : Nat
  z : Nat
  deriving DecidableEq, Repr

/-- The point at infinity. -/
def infinity : Point := ⟨1, 1, 0⟩

/-- Twice a point. -/
def pointDouble (p : Point) : Point :=
  let y2 := p.y * p.y % curveP
  let z2 := p.z * p.z % curveP
  let s := 4 * p.x * y2 % curveP
  let m := 3 * (subMod p.x z2 * (p.x + z2) % curveP) % curveP
  let x := subMod (m * m) (2 * s)
  ⟨x, subMod (m * subMod s x) (8 * (y2 * y2 % curveP)), 2 * p.y * p.z % curveP⟩

/-- The sum of two points. -/
def pointAdd (p q : Point) : Point :=
  if p.z = 0 then q
  else if q.z = 0 then p
  else
    let pz := p.z * p.z % curveP
    let qz := q.z * q.z % curveP
    let u1 := p.x * qz % curveP
    let u2 := q.x * pz % curveP
    let s1 := p.y * qz % curveP * q.z % curveP
    let s2 := q.y * pz % curveP * p.z % curveP
    if u1 = u2 then (if s1 = s2 then pointDouble p else infinity)
    else
      let h := subMod u2 u1
      let r := subMod s2 s1
      let h2 := h * h % curveP
      let h3 := h * h2 % curveP
      let v := u1 * h2 % curveP
      let x := subMod (r * r) (h3 + 2 * v)
      ⟨x, subMod (r * subMod v x) (s1 * h3), h * p.z % curveP * q.z % curveP⟩

/-- A multiple of a point, over the k low bits of the factor. -/
def pointMul (e : Nat) (p : Point) : Nat → Point
  | 0 => infinity
  | k + 1 =>
    let r := pointDouble (pointMul (e / 2) p k)
    if e % 2 = 1 then pointAdd r p else r

/-- A public key's point: 0x04, X and Y of 66 bytes each, on the curve (R496). -/
def keyPoint (k : Bytes) : Option Point :=
  let x := beNat ((k.drop 1).take 66)
  let y := beNat ((k.drop 67).take 66)
  if k.length = 133 ∧ k.head? = some 4 ∧ x < curveP ∧ y < curveP ∧ y * y % curveP = subMod (x * x * x + curveB) (3 * x) then
    some ⟨x, y, 1⟩
  else none

/-- Whether a signature (r, s) over a SHA-512 digest, used in full, verifies under a public key: r and s lie from 1 to
n − 1, and the x coordinate of u1 G + u2 Q is r modulo n (R496). -/
def ecdsaValid (key : Bytes) (digest : BitVec 512) (rb sb : Bytes) : Bool :=
  let r := beNat rb
  let s := beNat sb
  let e := beNat (toLE digest.toNat 64)
  match keyPoint key with
  | none => false
  | some q =>
    if r = 0 ∨ s = 0 ∨ curveN ≤ r ∨ curveN ≤ s then false
    else
      let w := invMod s curveN
      let p := pointAdd (pointMul (e * w % curveN) ⟨curveGx, curveGy, 1⟩ 521) (pointMul (r * w % curveN) q 521)
      p.z != 0 && p.x * invMod (p.z * p.z) curveP % curveP % curveN == r

/-- A point's coordinates. -/
def affine (p : Point) : Nat × Nat :=
  let w := invMod p.z curveP
  let w2 := w * w % curveP
  (p.x * w2 % curveP, p.y * (w2 * w % curveP) % curveP)

/-- The public key of a private key d: the SEC 1 encoding of d × G (R496, R498). -/
def publicKey (d : Nat) : Bytes :=
  let a := affine (pointMul d ⟨curveGx, curveGy, 1⟩ 521)
  [0x04] ++ toBE a.1 66 ++ toBE a.2 66

/-- r and s, 66 bytes each, of a signature by a private key d with the secret number k of the signature. -/
def ecdsaSign (d k : Nat) (digest : BitVec 512) : Bytes :=
  let r := (affine (pointMul k ⟨curveGx, curveGy, 1⟩ 521)).1 % curveN
  let s := invMod k curveN * (beNat (toLE digest.toNat 64) + r * d) % curveN
  toBE r 66 ++ toBE s 66

/-! ## Keys from a secret (R498) -/

/-- HMAC-SHA-512 under a key of at most 128 bytes. -/
def hmac (key msg : Bytes) : Bytes :=
  let k := key ++ List.replicate (128 - key.length) 0
  shaBytes (k.map (· ^^^ 0x5C) ++ shaBytes (k.map (· ^^^ 0x36) ++ msg))

/-- The first n bytes, up to 128, of HKDF-SHA-512 with an empty salt (RFC 5869). -/
def hkdf (secret info : Bytes) (n : Nat) : Bytes :=
  let prk := hmac (List.replicate 64 0) secret
  let t1 := hmac prk (info ++ [1])
  (t1 ++ hmac prk (t1 ++ info ++ [2])).take n

end Sys2Proof.Machine
end

