-- ==== Sys2Proof/Machine/Rails.lean ====
section
/-! DEFINITION. The regulators (R474 to R476): the rails that the device enables and their order, VDD_Q0 to VDD_Q3 and the step-clock scale
F, PMBus transactions and their number formats. -/

namespace Sys2Proof.Machine

open Sys2Proof

/-- The rails that the device sets (R474, R507). -/
def deviceRails : List Nat := [0, 1, 2, 3, 5, 6, 7, 8, 9, 10, 11, 12, 13]

/-- The rails that a blob maps: index, address, page (R506). -/
def blobRails (b : Bytes) : List (Nat × Nat × Nat) :=
  let at_ := 64 + 144 * field b 28 1
  (List.range (field b 29 1)).map fun i => (field b (at_ + 4 * i) 1, field b (at_ + 4 * i + 1) 1, field b (at_ + 4 * i + 2) 1)

/-- A transaction with the regulator of a rail, at the address and page that the blob in effect gives it (R476). -/
def pmbus (s : State) (op : PmbusOp) (rail : Nat) : State :=
  match (blobRails s.flash.blob).find? (·.1 == rail) with
  | some (_, address, page) => emit s (.pmbus rail address page op)
  | none => s

/-! ## Enabling and turning off (R474) -/

/-- A rail is enabled or turned off. -/
def railSwitch (on : Bool) (s : State) (rail : Nat) : State :=
  let s := pmbus s (.operation on) rail
  let others := s.power.enabled.filter (· != rail)
  { s with power := { s.power with enabled := if on then others ++ [rail] else others } }

/-- The quadrant rails are set to the table's value for an F (R475). -/
def setVdd (s : State) (f : Nat) : State :=
  let s : State := { s with power := { s.power with vddF := f } }
  (List.range 4).foldl (fun s q => pmbus s (.voutCommand (Config.vddTable q f)) q) s

/-- The quadrant rails come on, at the voltage for the F that is to run. -/
def enableQuadrants (s : State) : State := ([0, 1, 2, 3] : List Nat).foldl (railSwitch true) (setVdd s (fNow s))

/-- The rails come on in stage 3 of a start-up: VPP, then, once it lies in its window, the stack rails, then the quadrant rails. -/
def enableRails (s : State) (vppOk : Bool) : State :=
  let s := railSwitch true s 13
  if vppOk then enableQuadrants (([5, 6, 7, 8, 9, 10, 11, 12] : List Nat).foldl (railSwitch true) s) else s

/-- Rails are turned off in the reverse of the order in which they come on. -/
def disableRails (s : State) (rails : List Nat) : State :=
  ((([13, 5, 6, 7, 8, 9, 10, 11, 12, 0, 1, 2, 3] : List Nat).reverse).filter fun i => rails.contains i && s.power.enabled.contains i).foldl
    (railSwitch false) s

/-- Whether the device has a rail on. Within 10 ms of a trip the board removes their power (R486). -/
def railOn (s : State) (rail : Nat) : Bool := !s.power.tripped && s.power.enabled.contains rail

/-- What the device sets VDD_Qq to, in µV, while it is on (R475). -/
def vddSet (s : State) (quadrant : Nat) : Option Nat :=
  if railOn s quadrant then some (Config.vddTable quadrant s.power.vddF) else none

/-! ## The step-clock scale (R475) -/

/-- F is lowered, and then VDD. -/
def lowerF (s : State) (f : Nat) : State := setVdd (regSetF s oPwrStatus 5 0 f) f

/-- F is to rise: VDD is raised first, and F rises at a later occasion, when every regulator reports its output settled. -/
def raiseF (s : State) (f : Nat) (settled : Bool) : State :=
  if s.power.vddF < f then setVdd s f else if settled then regSetF s oPwrStatus 5 0 f else s

/-! ## Number formats (R476) -/

/-- A number m × 2^e in units of 1 / scale, rounded down (DESIGN CHOICE, assumption 114: no rule gives the rounding). -/
def linearValue (m : Int) (e : Int) (scale : Nat) : Int :=
  match e with
  | .ofNat k => m * scale * 2 ^ k
  | .negSucc k => m * scale / 2 ^ (k + 1)

/-- A LINEAR11 word: a 5-bit exponent above an 11-bit mantissa, both signed. -/
def linear11 (w : BitVec 16) (scale : Nat) : Int := linearValue (signed 11 (w.toNat % 2048)) (signed 5 (w.toNat / 2048)) scale

/-- A LINEAR16 word under its VOUT_MODE, whose low five bits are the exponent; none under a mode that is not linear. -/
def linear16 (mode : Byte) (w : BitVec 16) (scale : Nat) : Option Int :=
  if mode.toNat / 32 = 0 then some (linearValue w.toNat (signed 5 (mode.toNat % 32)) scale) else none

end Sys2Proof.Machine
end

