-- ==== Sys2Proof/Machine/RegAccess.lean ====
section
/-! DEFINITION. What a register read returns and what a register write does, whoever makes it (R447 to
R457): the checks in their order, each register's own rule, and the effects of a write. -/

namespace Sys2Proof.Machine

open Sys2Proof

/-! ## Voting (R455, R456) -/

/-- The word that copy `copy` of a voted register holds (0 to 2; 3 the security core's). -/
def voteCopy (s : State) (off copy : Nat) : Word :=
  match s.votes.find? (fun v => v.offset == off && v.copy == copy) with
  | some v => v.word
  | none => regGet s off

/-- One voted field of a register as a read meets it: one copy that disagrees is rewritten (R455); where all three differ, the fourth
copy restores the field (R456). Either is logged and counted. `s` still holds the copies as `t` is formed. -/
def voteField (s : State) (off : Nat) (t : State) (f : Fld) : State :=
  let v (k : Nat) : Nat := getF (voteCopy s off k) f.hi f.lo
  let log (t : State) (restored : Bool) : State :=
    regSetF (logEvent t 0x0005 (unitOf 0 0) none (toLE off 4 ++ [BitVec.ofNat 8 restored.toNat])) oVoteLast 23 0 off
  if v 0 = v 1 ∧ v 1 = v 2 then regSetF t off f.hi f.lo (v 0)
  else if v 0 = v 1 ∨ v 0 = v 2 then regCount (log (regSetF t off f.hi f.lo (v 0)) false) oVote 31 16 1
  else if v 1 = v 2 then regCount (log (regSetF t off f.hi f.lo (v 1)) false) oVote 31 16 1
  else notice (regCount (log (regSetF t off f.hi f.lo (v 3)) true) oVote 15 8 1) 7

/-- A read of the voted fields of a register: each is voted by itself, and the copies agree after it. -/
def voteFix (s : State) (off : Nat) : State :=
  match regAt off with
  | none => s
  | some r =>
    if s.votes.all (fun v => v.offset != off) then s
    else
      (r.fields.filter fun f => f.acc == .rwv).foldl (voteField s off) { s with votes := s.votes.filter (fun v => v.offset != off) }

/-! ## Reading -/

/-- The word of a register as it stands: what the hardware counts live, what changes at boundaries only, or the
stored word. -/
def liveWord (s : State) (off : Nat) : Word :=
  if off = oTbStatus then
    setF (setF (setF (regGet s off) 31 28 (timeByte s.disc.state)) 23 23 ((s.disc.master.map (·.port)).getD 0)) 22 22
      (member s).isSome.toNat
  else if off = oTbGroup then
    (match member s with
     | some g => setF (setF (regGet s off) 31 26 g.index) 25 19 g.members
     | none => regGet s off)
  else if off = 0x030010 then BitVec.ofNat 32 (dtSec s)
  else if off = 0x030014 then BitVec.ofNat 32 (dtSec s / 2 ^ 32 % 2 ^ 16)
  else if off = 0x030018 then BitVec.ofNat 32 (dtNs s)
  else if off = 0x03001C then BitVec.ofNat 32 (dtFrac s)
  else if off = 0x030080 then BitVec.ofNat 32 s.beats
  else if off = 0x030084 then BitVec.ofNat 32 (s.beats / 2 ^ 32)
  else if off = 0x030088 then BitVec.ofNat 32 (s.snap.stampDt / secondDt)
  else if off = 0x03008C then BitVec.ofNat 32 (s.snap.stampDt / secondDt / 2 ^ 32 % 2 ^ 16)
  else if off = 0x030090 then BitVec.ofNat 32 (s.snap.stampDt % secondDt / 2 ^ 32)
  else if off = oUtxNode then
    (match s.node with
     | some n => BitVec.ofNat 32 (0x10000 + n.toNat)
     | none => 0)
  else if off = oUtxSessions then BitVec.ofNat 32 (openCount s)
  else if off = oUtxRx then BitVec.ofNat 32 (rxFree s * 2 ^ 16 + ungranted s)
  else if off = oUtxTx then BitVec.ofNat 32 (txFree s)
  else if off = oCtxCount then BitVec.ofNat 32 (65536 - s.ctxs.length)
  else if 0x000040 ≤ off ∧ off < 0x000060 then
    BitVec.ofNat 32 (((fencedEngines s).filter fun e => e / 32 == (off - 0x40) / 4).map fun e => 2 ^ (e % 32)).sum
  else if off = 0x000060 then
    setF (setF (regGet s off) 23 16 s.fencedUnits.length) 8 0 (256 - (fencedEngines s).length)
  else if 0x200000 ≤ off ∧ off < 0x300000 ∧ off % 0x1000 = 8 then
    let e := (off - 0x200000) / 0x1000
    let state := if engineFenced s e then 3 else if s.snap.holding.contains e then 2 else if s.snap.running.contains e then 1 else 0
    setF (setF (regGet s off) 31 28 state) 27 27 s.snap.ramp.toNat
  else if off = oSecFlash then
    setF (regGet s off) 3 2
      (if s.flash.healthWrite then 3 else if s.flash.stage.isSome then 1 else if s.flash.commit.isSome then 2 else 0)
  else if off = oVidStreams then BitVec.ofNat 32 s.streams.length
  else if oVidLoad 0 ≤ off ∧ off < oVidLoad 8 then
    let e := (off - oVidLoad 0) / 4
    BitVec.ofNat 32 (loadField (engineLoad s e false) * 2 ^ 16 + loadField (engineLoad s e true))
  else if off = oVidState then
    s.running.foldl (fun w (e, n) =>
      let w := setF w e e 1
      if (streamGet s n).any (·.live) then setF w (8 + e) (8 + e) 1 else w) 0
  else regGet s off

/-- The words a read by a class returns (R450, R451, R453): BUS_ERROR when any word is unimplemented, zero
for each guarded word that the class may not read. -/
def regRead (s : State) (cls : Cls) (off n : Nat) : Except Code (List Word) :=
  if !(List.range n).all (fun i => (regAt (off + 4 * i)).isSome) then .error .busError
  else if cls = .peer then .error .priv
  else
    .ok ((List.range n).map fun i =>
      match regAt (off + 4 * i) with
      | some r => if mayRead r.level cls then readWord r (liveWord s (off + 4 * i)) else 0
      | none => 0)

/-- The voted fields that a read of n words meets. -/
def regTouch (s : State) (off n : Nat) : State :=
  if s.votes.isEmpty then s else (List.range n).foldl (fun s i => voteFix s (off + 4 * i)) s

/-! ## The registers' own rules -/

/-- The word of a write at an offset, when the write covers it. -/
def newWord (off : Nat) (ws : List Word) (o : Nat) : Option Word :=
  if off ≤ o ∧ (o - off) % 4 = 0 then ws[(o - off) / 4]? else none

/-- Whether a write covers every word of a range of offsets. -/
def coversAll (off : Nat) (ws : List Word) (o n : Nat) : Bool :=
  (List.range n).all fun i => (newWord off ws (o + 4 * i)).isSome

/-- The area of R463 that an address lies in: 1 the linear view, 2 general hub SRAM, 3 + e engine e's AB, AM
and WS; 0 for none. -/
def protArea (a : Nat) : Nat :=
  match regionOf a with
  | .linear => 1
  | .hubGeneral => 2
  | .ab e | .am e | .ws e => 3 + e
  | _ => 0

/-- A base or limit address of a protection map entry, from its two words; `low` fills bits 11:0. -/
def protAddr (lo hi : Word) (low : Nat) : Nat := getF hi 15 0 * 2 ^ 32 + getF lo 31 12 * 4096 + low

/-- The own rule of protection map entry i (R463). -/
def protRule (s : State) (off : Nat) (ws : List Word) (i : Nat) : Option Code :=
  let b := oProt i
  let before := regF s (b + 0x10) 31 31 == 1
  let after := match newWord off ws (b + 0x10) with
    | some w => getF w 31 31 == 1
    | none => before
  if !before && !after then none
  else if !coversAll off ws b 5 then some .badParam
  else if !after then none
  else
    let w (k : Nat) : Word := (newWord off ws (b + k)).getD 0
    let base := protAddr (w 0) (w 4) 0
    let limit := protAddr (w 8) (w 12) 0xFFF
    if base ≤ limit ∧ protArea base ≠ 0 ∧ protArea base = protArea limit then none else some .badParam

/-- Whether a KV pool of a base and a size in MiB may be set (R180, R198): it stays in its stack and covers
a granule beyond its descriptors. -/
def poolFits (base size : Nat) : Bool :=
  size == 0 || (decide (base + size ≤ 131072) && decide (ceilDiv (32 * (16 * size)) 65536 < 16 * size))

/-- The stack of a page ID (R180). -/
def pageStack (id : BitVec 24) : Nat := id.toNat / 2 ^ 21

/-- The own rule of KV_POOL_BASE_s and KV_POOL_SIZE_s (R198). -/
def poolRule (s : State) (off : Nat) (ws : List Word) (st : Nat) : Option Code :=
  if s.pages.any (fun p => pageStack p.id == st) then some .busy
  else
    let f (o : Nat) : Nat := getF ((newWord off ws o).getD (regGet s o)) 16 0
    if poolFits (f (oKvBase st)) (f (oKvSize st)) then none else some .badParam

/-- Whether a fence with a cause may be lifted (R87). -/
def liftable (cause : Nat) (passed : Bool) : Bool := cause == 3 || passed

/-- The units of a mask that are fenced now and not in a written mask. -/
def lifted (old new width : Nat) : List Nat := (bitsOf width old).filter fun i => !new.testBit i

/-- Whether a job runs on an engine of quadrant q (R306). -/
def quadBusy (s : State) (q : Nat) : Bool := s.passes.any fun p => p.engines.any fun e => quadOf e == q

/-- Whether a DIAG_RUN or another condition of R482 keeps the device out of STANDBY. -/
def standbyBusy (s : State) : Bool :=
  s.ctxs.any (fun c => c.state == .ready || c.state == .running || c.state == .paused)
    || !s.streams.isEmpty || (joined s).isSome || s.diag.isSome

/-- The largest segment size of an open session on a port. -/
def largestSegment (s : State) (port : Nat) : Nat :=
  (s.sessions.filter fun (_, x) => x.port == port && !x.closed).foldl (fun m (_, x) => max m x.segment) 0

/-- The codecs of a written VID_FENCE mask whose fences may not be lifted (R445). -/
def codecsRefused (s : State) (o : Nat) (w : Word) : List Nat :=
  (lifted (regF s o 7 0) (getF w 7 0) 8).filter fun v =>
    !liftable ((sfind s.codecCause v).getD 3).toNat (s.codecPass.contains v)

/-- The units of stack st in a written CAL_FENCE mask whose fences may not be lifted (R246). -/
def unitsRefused (s : State) (st o : Nat) (w : Word) : List Nat :=
  ((lifted (regF s o 15 0) (getF w 15 0) 16).map fun c => 16 * st + c).filter fun u =>
    !liftable ((sfind s.unitCause u).getD 3).toNat (s.unitPass.contains u)

/-- The own rule of the word at o of a write (R453): none admits it. -/
def ownRule (s : State) (off : Nat) (ws : List Word) (o : Nat) (w : Word) : Option Code :=
  if 0x011000 ≤ o ∧ o < 0x013000 then protRule s off ws ((o - 0x011000) / 0x20)
  else if o = oPwrCtrl then (if getF w 30 30 = 1 ∧ standbyBusy s then some .busy else none)
  else if o = oTbCtrl then
    (if getF w 1 0 = 3 then some .badParam
     else if getF w 1 0 ≠ regF s oTbCtrl 1 0 ∧ (member s).isSome then some .busy else none)
  else if o = oEth 0 ∨ o = oEth 1 then
    let p := (o - 0x040000) / 0x10000
    let m := getF w 15 2
    let m := if 1518 ≤ m ∧ m ≤ 9216 then m else 9216
    if getF w 1 0 = 3 then some .badParam
    else if m < largestSegment s p + 130 ∧ largestSegment s p ≠ 0 then some .busy else none
  else if 0x080100 ≤ o ∧ o < 0x080180 then poolRule s off ws ((o - 0x080100) / 0x10)
  else if o = oVidFence then
    if (codecsRefused s o w).isEmpty then none else some .badParam
  else if o = oMirror 1 ∨ o = oMirror 3 then some .badParam
  else if o = oMirror 0 then (if quadBusy s 0 ∨ quadBusy s 1 then some .busy else none)
  else if o = oMirror 2 then (if quadBusy s 2 ∨ quadBusy s 3 then some .busy else none)
  else if 0x200000 ≤ o ∧ o < 0x300000 ∧ o % 0x1000 = 0x10 then
    let e := (o - 0x200000) / 0x1000
    if getF w 31 31 = 0 ∧ engineFenced s e ∧ !liftable (regF s o 27 24) ((engGet s e).passArray && (engGet s e).passSram)
    then some .badParam else none
  else if 0x480000 ≤ o ∧ o < 0x500000 ∧ o % 0x10000 = 0x10 then
    if (unitsRefused s ((o - 0x480000) / 0x10000) o w).isEmpty then none else some .badParam
  else none

/-- The log entries of a refused lift, one for each unit whose fence may not be lifted (R87, R246, R445). -/
def logRefusedLift (s : State) (o : Nat) (w : Word) : State :=
  if o = oVidFence then (codecsRefused s o w).foldl (fun s v => logEvent s 0x0203 (unitOf 5 v) none [0]) s
  else if 0x200000 ≤ o ∧ o < 0x300000 ∧ o % 0x1000 = 0x10 then
    logEvent s 0x0203 (unitOf 1 ((o - 0x200000) / 0x1000)) none [0]
  else if 0x480000 ≤ o ∧ o < 0x500000 ∧ o % 0x10000 = 0x10 then
    (unitsRefused s ((o - 0x480000) / 0x10000) o w).foldl (fun s u => logEvent s 0x0203 (unitOf 2 u) none [0]) s
  else s

/-! ## Effects -/

/-- OPAL_OUT for the key and counter now held (R217). -/
def recomputeOpal (s : State) : State :=
  let k (i : Nat) : Word := regGet s (oOpalKey + 4 * i)
  let y := opalDraw ⟨k 0, k 1, k 2, k 3⟩ ⟨k 4, k 5, k 6, k 7⟩
  regSet (regSet (regSet (regSet s oOpalOut y.w0) (oOpalOut + 4) y.w1) (oOpalOut + 8) y.w2) (oOpalOut + 12) y.w3

/-- RAMP mode for the 4,096 beats after a number of beats counted (R78). -/
def rampFrom (s : State) (n : Nat) : State := { s with power := { s.power with ramp := true, rampUntil := some (n + 4096) } }

/-- RAMP mode for the 4,096 beats that begin now (R78). -/
def enterRamp (s : State) : State := rampFrom s s.beats

/-- The images whose retained range still matches the digest recorded at their load (R482). -/
def checkImages (s : State) : State :=
  let bad := s.images.filter fun i => decide (sha512 (spanRead s i.source i.size) ≠ i.digest)
  let s : State := { s with images := s.images.filter fun i => !bad.any (fun b => b.id == i.id) }
  bad.foldl (fun s i => logEvent s 0x0802 (unitOf 0 0) none (toLE i.id.toNat 8)) s

/-- The device leaves STANDBY for IDLE in RAMP mode (R482). -/
def leaveStandby (s : State) : State :=
  let s := enterRamp (checkImages (enableQuadrants s))
  regSetF { s with power := { s.power with phase := .idle } } oPwrStatus 31 28 2

/-- Installs the SAK of an interface from its twelve words (R338, R366). -/
def installSak (s : State) (port iface : Nat) (ws : List Word) : State :=
  let k : Sak :=
    { port := port, iface := iface
      an := BitVec.ofNat 2 (getF (ws.getD 11 0) 1 0)
      ssci := BitVec.ofNat 16 (getF (ws.getD 11 0) 31 16)
      key := ws.take 8, salt := (ws.drop 8).take 3 }
  { s with saks := s.saks.filter (fun x => !(x.port == port && x.iface == iface && x.an == k.an)) ++ [k] }

/-- A write of ENG_FENCE that its rules admit: a fence with cause 3, or a lift, at the next boundary, with
its health record write begun at once, whatever it changes (R82, R87). -/
def fenceWrite (s : State) (e : Nat) (fence : Bool) : State :=
  let x := engGet s e
  if fence then (if engineFenced s e ∨ x.fenceReq.any (·.1) then beginHealth s else fenceEngine s e 3)
  else if engineFenced s e then beginHealth (engSet s e { x with fenceReq := some (false, 0) })
  else if x.fenceReq = some (true, 3) then beginHealth (engSet s e { x with fenceReq := none })
  else beginHealth s

/-- The units of a stack that a fault is to fence at the next boundary: a write of CAL_FENCE in the same beat lifts none of them,
for their fences have not taken effect. -/
def pendingFaults (s : State) (st : Nat) : BitVec 16 :=
  let now := regF s (oCal st + 0x10) 15 0
  BitVec.ofNat 16 (((bitsOf 16 (((sfind s.calNext st).map (·.toNat)).getD 0)).filter fun c =>
    !now.testBit c && (sfind s.unitCause (16 * st + c)).any fun k => k != 3).map fun c => 2 ^ c).sum

/-- A write of CAL_FENCE: the new mask takes effect at the next boundary (R246). -/
def calFenceSet (s : State) (st : Nat) (mask : BitVec 16) : State :=
  let s : State := { s with calNext := sput s.calNext st (mask ||| pendingFaults s st) }
  beginHealth s

/-- A write of VID_FENCE: bits set fence with cause 3, bits cleared lift (R445). -/
def vidFenceSet (s : State) (old new : Nat) : State :=
  if old = new then s
  else
    let set := (bitsOf 8 new).filter fun i => !old.testBit i
    let cleared := lifted old new 8
    let s : State := { s with
      codecCause := set.foldl (fun l v => sput l v 3) (cleared.foldl sdel s.codecCause)
      codecPass := s.codecPass.filter fun v => !cleared.contains v }
    let s := set.foldl (fun s v => notice (logEvent s 0x0202 (unitOf 5 v) none [3]) 6) s
    let s := cleared.foldl (fun s v => logEvent s 0x0203 (unitOf 5 v) none [1]) s
    beginHealth (codecMoves s)

/-- The effect of one word of an admitted write beyond its fields: `old` is what the register held. The
words themselves are stored already, but for the registers that change at a boundary. -/
def writeEffect (s : State) (off : Nat) (ws : List Word) (o : Nat) (old w : Word) : State :=
  if o = oPwrCtrl then
    (if s.power.phase = .standby ∧ getF w 30 30 = 0 then leaveStandby s else s)
  else if o = oTbCtrl then
    let s : State := { s with disc := { s.disc with ppsHigh := s.disc.ppsHigh && getF w 4 4 == 1 } }
    if getF w 1 0 = getF old 1 0 then s
    else
      let s := setTime s .free
      { s with disc := { s.disc with good := 0, bad := 0, master := none, masters := [], sync := none, delay := none
                                     delayReq := none, edgeAt := none, secUsed := false, stuck := false } }
  else if o = oEth 0 ∨ o = oEth 1 then
    let p := (o - 0x040000) / 0x10000
    if getF w 1 0 ≠ getF old 1 0 ∨ regF s (o + 8) 5 4 = 3 then retrainPort s p (getF w 1 0) else s
  else if (0x040400 ≤ o ∧ o < 0x040500 ∨ 0x050400 ≤ o ∧ o < 0x050500) ∧ o % 0x40 = 0 then
    let p := (o - 0x040000) / 0x10000
    if coversAll off ws o 12 then
      installSak s p (o % 0x100 / 0x40) ((List.range 12).map fun i => (newWord off ws (o + 4 * i)).getD 0)
    else s
  else if o = oVidFence then vidFenceSet s (getF old 7 0) (getF w 7 0)
  else if o = oMirror 0 then { s with mirrorNext := sput s.mirrorNext 0 (getF w 31 31 == 1) }
  else if o = oMirror 2 then { s with mirrorNext := sput s.mirrorNext 2 (getF w 31 31 == 1) }
  else if 0x200000 ≤ o ∧ o < 0x300000 ∧ o % 0x1000 = 0x10 then
    fenceWrite s ((o - 0x200000) / 0x1000) (getF w 31 31 == 1)
  else if 0x480000 ≤ o ∧ o < 0x500000 ∧ o % 0x10000 = 0x10 then
    calFenceSet s ((o - 0x480000) / 0x10000) (BitVec.ofNat 16 (getF w 15 0))
  else s

/-- Whether a write of the register takes effect at the next boundary (R278, R330). -/
def atBoundary (o : Nat) : Bool :=
  o == oDigCtrl || (decide (0x400000 ≤ o ∧ o < 0x480000) && (o % 0x10000 == 0x08 || o % 0x10000 == 0x0C))

/-- Fields that a write does not store in the register: fences and mirroring take effect at a boundary. -/
def heldBack (o : Nat) (old new : Word) : Word :=
  if 0x200000 ≤ o ∧ o < 0x300000 ∧ o % 0x1000 = 0x10 then old
  else if 0x480000 ≤ o ∧ o < 0x500000 ∧ o % 0x10000 = 0x10 then old
  else if o = oMirror 0 ∨ o = oMirror 2 then setF new 31 31 (getF old 31 31)
  else if 0x040400 ≤ o ∧ o < 0x040500 ∨ 0x050400 ≤ o ∧ o < 0x050500 then old
  else new

/-- Whether the words of a write that stages a pair take effect: TB_SEC_SET only as a pair (R312). -/
def pairWhole (off : Nat) (ws : List Word) (o : Nat) : Bool :=
  if o = oTbSecLo ∨ o = oTbSecHi then coversAll off ws oTbSecLo 2 else true

/-- Stores one word of an admitted write; the voted copies agree after it (R455). -/
def storeWord (s : State) (off : Nat) (ws : List Word) (o : Nat) (w : Word) : State :=
  match regAt o with
  | none => s
  | some r =>
    if !pairWhole off ws o then s
    else if atBoundary o then { s with regsNext := s.regsNext ++ [(o, writeWord r (regGet s o) w)] }
    else
      let s := regSet s o (heldBack o (regGet s o) (writeWord r (regGet s o) w))
      { s with votes := s.votes.filter fun v => v.offset != o }

/-- Whether an offset is part of the protection map (R462). -/
def inProtMap (o : Nat) : Bool := o == oProtCtrl || decide (0x011000 ≤ o ∧ o < 0x013000)

/-- GEN rises by one, and the change is logged, when a write changed the map (R464). -/
def protGen (before after : State) (offs : List Nat) : State :=
  if offs.any (fun o => inProtMap o && regGet before o != regGet after o) then
    let s := regWrap after oProtCtrl 31 16 1
    logEvent s 0x0801 (unitOf 0 0) none (toLE (regF s oProtCtrl 31 16) 2)
  else after

/-- A register write by a class (R447 to R454): implemented words, then levels, then the registers' own
rules in ascending order; then every word changes together. -/
def regWrite (s : State) (cls : Cls) (off : Nat) (ws : List Word) : Code × State :=
  let idx := List.range ws.length
  let at_ (i : Nat) : Nat := off + 4 * i
  let w (i : Nat) : Word := ws.getD i 0
  if !idx.all (fun i => (regAt (at_ i)).isSome) then (.busError, s)
  else if cls = .peer then (.priv, s)
  else if !idx.all (fun i => (regAt (at_ i)).any fun r => mayWrite r.level cls) then (.priv, s)
  else
    match idx.find? (fun i => (ownRule s off ws (at_ i) (w i)).isSome) with
    | some i => ((ownRule s off ws (at_ i) (w i)).getD .badParam, logRefusedLift s (at_ i) (w i))
    | none =>
      let s1 := idx.foldl (fun s i => storeWord s off ws (at_ i) (w i)) s
      let s2 := idx.foldl (fun t i => writeEffect t off ws (at_ i) (regGet s (at_ i)) (w i)) s1
      let s3 := protGen s s2 (idx.map at_)
      let opal := idx.any fun i => decide (oOpalKey ≤ at_ i ∧ at_ i < oOpalOut)
      (.ok, if opal then recomputeOpal s3 else s3)

end Sys2Proof.Machine
end

