-- ==== Sys2Proof/Machine/Rmo.lean ====
section
/-! DEFINITION. Remote memory operations from host sessions and other devices (R23, R31, R33, R344 to R346),
the protection map (R460, R461), and what each does to memory (R255, R256, R263). -/

namespace Sys2Proof.Machine

open Sys2Proof

/-- The RMO types, by their OP code (R341). -/
inductive RmoOp where
  | read | write | fetchAdd | atomicAdd | cas | fence
  deriving DecidableEq, Repr

/-- The OP code of an RMO type (R341). -/
def rmoByte : RmoOp → Byte
  | .read => 0
  | .write => 1
  | .fetchAdd => 2
  | .atomicAdd => 3
  | .cas => 4
  | .fence => 5

/-! ## The protection map (R460, R461) -/

/-- The enabled entries in ascending number. -/
def protEnabled (s : State) : List Nat :=
  s.regs.filterMap fun (o, w) =>
    if 0x011000 ≤ o ∧ o < 0x013000 ∧ o % 0x20 = 0x10 ∧ getF w 31 31 = 1 then some ((o - 0x011000) / 0x20) else none

/-- Whether entry i holds a linear address and its session condition admits session n. -/
def protHolds (s : State) (i n lin : Nat) : Bool :=
  let b := oProt i
  let perm := regGet s (b + 0x10)
  decide (protAddr (regGet s b) (regGet s (b + 4)) 0 ≤ lin)
    && decide (lin ≤ protAddr (regGet s (b + 8)) (regGet s (b + 0xC)) 0xFFF)
    && (getF perm 30 30 == 0 || getF perm 27 16 == n)

/-- The permission bits that decide one byte for session n (R461). -/
def protPerms (s : State) (n lin : Nat) : Nat :=
  match (protEnabled s).find? (fun i => protHolds s i n lin) with
  | some i => regF s (oProt i + 0x10) 7 0
  | none => regF s oProtCtrl 7 0

/-- Whether the map lets session n of a class read (write) a byte. -/
def protBit (s : State) (cls : Cls) (n lin : Nat) (write : Bool) : Bool :=
  (protPerms s n lin).testBit (2 * clsByte cls + write.toNat)

/-- Whether the map permits an access to every byte (R461). -/
def protAllows (s : State) (cls : Cls) (n : Nat) (lins : List Nat) (needRead needWrite : Bool) : Bool :=
  lins.all fun l => (!needRead || protBit s cls n l false) && (!needWrite || protBit s cls n l true)

/-! ## Reservations of other chapters -/

/-- The interleaved-view address of a linear stack address (the inverse of R29). -/
def interleavedOf (lin : Nat) : Nat :=
  let o := lin % stackBytes
  0x10000000000 + ((o / 4096) * 8 + stackOf lin) * 4096 + o % 4096

/-- Whether a linear address lies in a span of local addresses given through either view. -/
def inSpan (base size lin : Nat) : Bool :=
  if 0x10000000000 ≤ base ∧ base < 0x20000000000 then
    decide (lin < 0x10000000000 ∧ base ≤ interleavedOf lin ∧ interleavedOf lin < base + size)
  else decide (base ≤ lin ∧ lin < base + size)

/-- Whether two byte ranges meet. -/
def meets (a n b k : Nat) : Bool := decide (0 < n) && decide (0 < k) && decide (a < b + k) && decide (b < a + n)

/-- A span of local addresses as runs of linear addresses, cut at granules of 4 KiB where the view needs it. -/
def spanRuns (a n : Nat) : List (Nat × Nat) :=
  (List.range (n / 4096 + 2)).filterMap fun k =>
    let x := if k = 0 then a else (a / 4096 + k) * 4096
    let y := min (a + n) ((a / 4096 + k + 1) * 4096)
    if x < y then some (linearOf x, y - x) else none

/-- Whether two spans of local addresses have a byte in common. -/
def spansMeet (a n b k : Nat) : Bool :=
  (spanRuns a n).any fun (x, l) => (spanRuns b k).any fun (y, m) => meets x l y m

/-- Whether a run of linear addresses inside one granule meets a span of local addresses given through either view. -/
def runHits (base size : Nat) (run : Nat × Nat) : Bool :=
  if 0x10000000000 ≤ base ∧ base < 0x20000000000 then
    decide (run.1 < 0x10000000000) && meets (interleavedOf run.1) run.2 base size
  else meets run.1 run.2 base size

/-- Whether an access of an image to a span meets a reservation: the working memory of an open codec stream, or for a write
the retained range of a loaded image (R387, R430). -/
def reservedSpan (s : State) (a n : Nat) (write : Bool) : Bool :=
  (spanRuns a n).any fun r =>
    s.streams.any (fun x => runHits x.workBase x.workSize r) || (write && s.images.any fun i => runHits i.source i.size r)

/-- Whether a byte belongs to a loaded image's retained range (R387). -/
def inImage (s : State) (lin : Nat) : Bool := s.images.any fun i => inSpan i.source i.size lin

/-- Whether a byte belongs to the working memory of an open stream (R430). -/
def inWorkMemory (s : State) (lin : Nat) : Bool := s.streams.any fun x => inSpan x.workBase x.workSize lin

/-! ## Which accesses are admitted -/

/-- Whether a LENGTH is in the table of R345. -/
def lengthOk (op : RmoOp) (a n segment : Nat) : Bool :=
  match op with
  | .read | .write =>
    if regionOf a = .register then n % 4 == 0 && decide (0 < n) && decide (n ≤ 256)
    else decide (1 ≤ n) && decide (n ≤ segment)
  | .fetchAdd | .atomicAdd => n == 4 || n == 8
  | .cas => n == 8 || n == 16
  | .fence => n == 0

/-- The alignment of R345. -/
def alignOk (op : RmoOp) (a n : Nat) : Bool :=
  match op with
  | .read | .write => regionOf a != .register || a % 4 == 0
  | .fetchAdd | .atomicAdd => a % n == 0
  | .cas => a % (n / 2) == 0
  | .fence => true

/-- The bytes that an RMO touches. -/
def touched (op : RmoOp) (n : Nat) : Nat :=
  match op with
  | .cas => n / 2
  | .fence => 0
  | _ => n

/-- Whether an RMO is an atomic operation. -/
def isAtomic (op : RmoOp) : Bool := op == .fetchAdd || op == .atomicAdd || op == .cas

/-- Whether the access is to AB, AM or WS of an engine, which waits for the boundary (R33). -/
def isWindow (a : Nat) : Bool :=
  match regionOf a with
  | .ab _ | .am _ | .ws _ => true
  | _ => false

/-- Whether R31 opens a region to an initiator at all, the protection map and the reservations apart. -/
def opensTo (cls : Cls) (n : Nat) (op : RmoOp) (a len : Nat) : Bool :=
  match regionOf a with
  | .linear | .interleaved | .hubGeneral | .ab _ | .am _ | .ws _ => true
  | .is _ => op == .read && cls == .owner
  | .window k => cls != .peer && k == n && decide ((a - windowBase) % 0x10000 + len ≤ 0x10000)
  | .register => cls != .peer
  | .hubFirmware | .hubGeyser | .none => false

/-- What R31, the map, and the reservations of other chapters answer to an access by session n (R460). -/
def privCheck (s : State) (cls : Cls) (n : Nat) (op : RmoOp) (a len : Nat) : Bool :=
  let lins := spanLinear a len
  let needRead := op != .write
  let needWrite := op != .read
  match regionOf a with
  | .linear | .interleaved | .hubGeneral | .ab _ | .am _ | .ws _ =>
    lins.all (fun l => match regionOf l with | .hubFirmware | .hubGeyser => false | _ => true)
      && protAllows s cls n lins needRead needWrite
      && !(needWrite && lins.any (inImage s))
      && !(lins.any (inWorkMemory s))
  | _ => opensTo cls n op a len

/-- The refusal of an RMO, if any, in the order of R345, R346, R450, R482 and R31. An atomic that R31 opens to the initiator, in a
region that has no atomics, answers BUS_ERROR, and one that it closes PRIV. -/
def rmoRefusal (s : State) (cls : Cls) (n segment : Nat) (op : RmoOp) (address : BitVec 64) (len : Nat) :
    Option Code :=
  if op = .fence then
    (if len ≠ 0 then some .badLength else if address ≠ 0 then some .busError else none)
  else if !isHere s address then some .busError
  else
    let a := localOf address
    let t := touched op len
    if !lengthOk op a len segment then some .badLength
    else if !alignOk op a len then some .busError
    else if !sameRegion a (a + t - 1) then some .busError
    else if !(List.range t).all (fun i => implemented s (a + i)) then some .busError
    else if regionOf a = .register ∧ !(List.range (ceilDiv t 4)).all (fun i => (regAt (a - registerBase + 4 * i)).isSome) then some .busError
    else if isAtomic op ∧ !(isStack a || regionOf a == .hubGeneral) ∧ opensTo cls n op a t then some .busError
    else if s.power.phase = .standby ∧ (isStack a || decide (sramBase ≤ a ∧ a < hubBase)) then some .busy
    else if !privCheck s cls n op a t then some .priv
    else none

/-! ## Effects on memory -/

/-- READ of memory: the data, or ECC_UNCORRECTABLE where a poisoned word is touched (R66, R255). -/
def memRead (s : State) (a n : Nat) (ecc : List EccFind) : Code × Bytes × State :=
  let lins := spanLinear a n
  let s := eccScan s lins ecc
  if anyPoison s lins then (.eccUncorrectable, [], s) else (.ok, lins.map (byteAt s), s)

/-- WRITE of memory: a write of part of a poisoned word has no effect (R66, R255); a write that covers part
of a codeword reads it first (R256). -/
def memWrite (s : State) (a : Nat) (b : Bytes) (ecc : List EccFind) : Code × State :=
  let lins := spanLinear a b.length
  let part := lins.filter fun l => !covered lins (wordAt l)
  let s := eccScan s part ecc
  if partialPoison s lins then (.eccUncorrectable, s)
  else
    let s := poisonClear (spanWrite s a b) lins
    (.ok, { s with taint := s.taint.filter fun w => !lins.contains w })

/-- FETCH_ADD and ATOMIC_ADD: the sum wraps at the operand's width; the old value is what FETCH_ADD
returns (R23, R263). -/
def memAdd (s : State) (a : Nat) (addend : Bytes) (ecc : List EccFind) : Code × Bytes × State :=
  let n := addend.length
  let lins := spanLinear a n
  let s := eccScan s lins ecc
  if anyPoison s lins then (.eccUncorrectable, [], s)
  else
    let old := lins.map (byteAt s)
    (.ok, old, spanWrite s a (toLE (leNat old + leNat addend) n))

/-- CAS: stores the new value when the old one equals the compare value; returns the old value (R23). -/
def memCas (s : State) (a : Nat) (operands : Bytes) (ecc : List EccFind) : Code × Bytes × State :=
  let n := operands.length / 2
  let lins := spanLinear a n
  let s := eccScan s lins ecc
  if anyPoison s lins then (.eccUncorrectable, [], s)
  else
    let old := lins.map (byteAt s)
    (.ok, old, if old = operands.take n then spanWrite s a (operands.drop n) else s)

/-- The programs of the loaded images in an engine's Instruction Store, in the order of their loading. -/
def isPrograms (s : State) (e : Nat) : List Bytes :=
  s.images.flatMap fun i => (i.progs.zip i.raw).filterMap fun (p, b) => if p.engine = e then some b else none

/-- Register words of a byte string. -/
def wordsLE (b : Bytes) : List Word :=
  (List.range (b.length / 4)).map fun i => BitVec.ofNat 32 (field b (4 * i) 4)

/-- An admitted RMO other than a command: its STATUS, its payload, and the state after it. A READ of memory whose data a link has
poisoned is answered as one of a poisoned word (R14, R66). -/
def rmoEffect (s : State) (cls : Cls) (n : Nat) (op : RmoOp) (a : Nat) (len : Nat) (payload : Bytes)
    (ecc : List EccFind) : Code × Bytes × State :=
  let data := fit len payload
  match regionOf a with
  | .register =>
    match op with
    | .read =>
      let s := regTouch s (a - registerBase) (len / 4)
      match regRead s cls (a - registerBase) (len / 4) with
      | .ok ws => (.ok, ws.flatMap fun w => toLE w.toNat 4, s)
      | .error c => (c, [], s)
    | _ => let (c, s) := regWrite s cls (a - registerBase) (wordsLE data); (c, [], s)
  | .window _ =>
    match op, sessGet s n with
    | .read, some x => (.ok, (List.range len).map fun i => windowByte x ((a - windowBase) % 0x10000 + i), s)
    | _, _ => (.busError, [], s)
  | .is e =>
    let lins := spanLinear a len
    let s := eccScan s lins ecc
    if s.flitReads.contains n then (.eccUncorrectable, [], { s with flitReads := s.flitReads.filter (· != n) })
    else if anyPoison s lins then (.eccUncorrectable, [], s)
    else (.ok, (List.range len).map fun i => Config.isByte (isPrograms s e) ((a + i - sramBase) % 0x400000 - 0x300000), s)
  | _ =>
    match op with
    | .read =>
      if s.flitReads.contains n then (.eccUncorrectable, [], { s with flitReads := s.flitReads.filter (· != n) })
      else memRead s a len ecc
    | .write => let (c, s) := memWrite s a data ecc; (c, [], s)
    | .fetchAdd => memAdd s a data ecc
    | .atomicAdd => let (c, _, s) := memAdd s a data ecc; (c, [], s)
    | .cas => memCas s a data ecc
    | .fence => (.ok, [], s)

end Sys2Proof.Machine
end

