-- ==== Sys2Proof/Machine/Scheduled.lean ====
section
/-! DEFINITION. Where a scheduled access goes and what it does there: routes and latencies (R12, R114, R115),
the Quadrant Caches (R258 to R262), regions closed to an image (R31, R32), remote writes between engines
(R114, R365) and to other devices (R113, R363). -/

namespace Sys2Proof.Machine

open Sys2Proof

/-! ## Routes -/

/-- How far the owner of a local address lies from an engine (R12). -/
inductive Route where
  | own | foreign | hub | sameWindow | facingWindow | diagonalWindow
  deriving DecidableEq, Repr

/-- The route from engine e to a linear local address. -/
def routeOf (e lin : Nat) : Route :=
  if lin < 0x10000000000 then (if stackOf lin / 2 = quadOf e then .own else .foreign)
  else if sramBase ≤ lin ∧ lin < sramBase + 0x40000000 then
    let q := quadOf ((lin - sramBase) / 0x400000)
    if q = quadOf e then .sameWindow else if q + quadOf e = 3 then .diagonalWindow else .facingWindow
  else .hub

/-- The minimum latency of a read of n bytes on a route (R114). -/
def readLatency (x : Route) (n : Nat) : Nat :=
  (match x with
   | .own => 384
   | .foreign => 512
   | .hub => 160
   | .sameWindow => 64
   | .facingWindow => 128
   | .diagonalWindow => 256) + n / 256

/-- The landing latency of a remote write of n bytes (R114), without the bytes for an EPI (R167). -/
def landLatency (x : Route) : Nat :=
  match x with
  | .facingWindow => 64
  | .diagonalWindow => 128
  | _ => 32

/-- The latency of a value that ATOMIC returns (R114). -/
def atomicLatency (x : Route) : Nat :=
  match x with
  | .own => 448
  | _ => 576

/-- When an MWRITE of n bytes becomes visible, counted from its issue (R115); an EPI's from its last output. -/
def visibleLatency (x : Route) : Nat :=
  match x with
  | .own => 256
  | _ => 384

/-- The linear addresses at which a span changes granule: one in each 4 KiB granule, and its ends. -/
def spanProbes (a n : Nat) : List Nat :=
  (List.range (n / 4096 + 2)).filterMap fun i =>
    let x := if i = 0 then a else (a / 4096 + i) * 4096
    if x < a + n then some (linearOf x) else none

/-- The fixed latency of a route from an engine to a home (R140): half of what the value takes to return (DESIGN CHOICE,
assumption 73; R114 states the whole only). -/
def homeLatency (x : Route) : Nat := atomicLatency x / 2

/-- The slowest of two routes by read latency. -/
def slower (x y : Route) : Route := if readLatency x 0 < readLatency y 0 then y else x

/-- The slowest route of a span (R114). -/
def spanRoute (e a n : Nat) : Route :=
  ((spanProbes a n).map (routeOf e)).foldl slower (routeOf e (linearOf a))

/-! ## Quadrant Caches -/

/-- KEEP_WAYS of a stack; larger values act as 16 (R279). -/
def keepWays (s : State) (st : Nat) : Nat := min 16 (regF s (oMem st + 8) 4 0)

/-- Whether two lines are in one set of one Quadrant Cache: 32,768 sets, by the low bits of the line number
(PRESUMED; R260 names no index function). -/
def sameSet (a b : Nat) : Bool :=
  stackOf (a * 128) / 2 == stackOf (b * 128) / 2 && a % 32768 == b % 32768

/-- Removes the last entry of a list that satisfies a test. -/
def dropLast {α : Type} (p : α → Bool) (l : List α) : List α :=
  let r := l.reverse
  ((r.takeWhile fun x => !p x) ++ (r.dropWhile fun x => !p x).drop 1).reverse

/-- Allocates a line with KEEP (R260): the least recently used line of the stack gives way at its limit, and
a line of the other stack only beyond that stack's own limit; with neither to give way nothing is allocated. -/
def qcKeep (s : State) (line : Nat) : State :=
  let st := stackOf (line * 128)
  let ways := keepWays s st
  if s.qc.any (fun q => q.line == line) then
    { s with qc := { line := line } :: s.qc.filter fun q => q.line != line }
  else if ways = 0 then s
  else
    let mine (q : QcLine) : Bool := sameSet q.line line && stackOf (q.line * 128) == st
    let theirs (q : QcLine) : Bool := sameSet q.line line && stackOf (q.line * 128) != st
    let m := (s.qc.filter mine).length
    let t := (s.qc.filter theirs).length
    if ways ≤ m then { s with qc := { line := line } :: dropLast mine s.qc }
    else if m + t < 16 then { s with qc := { line := line } :: s.qc }
    else if keepWays s (st ^^^ 1) < t then { s with qc := { line := line } :: dropLast theirs s.qc }
    else if 0 < m then { s with qc := { line := line } :: dropLast mine s.qc }
    else s

/-- The lines of a stack beyond its limit go, least recently used first, when MEM_HINTCFG lowers it (R260). -/
def qcTrim (s : State) (st : Nat) : State :=
  let mine (q : QcLine) : Bool := stackOf (q.line * 128) == st
  { s with qc := (s.qc.foldl (fun (kept : List QcLine) q =>
      if mine q ∧ keepWays s st ≤ (kept.filter fun k => mine k && sameSet k.line q.line).length then kept else kept ++ [q]) []) }

/-- One line of a scheduled access with a cache hint (R258, R259): 0 STREAM, 1 KEEP, 2 LAST_USE. -/
def qcLine (s : State) (hint : Nat) (line : Nat) : State :=
  if hint = 1 then qcKeep s line
  else if s.qc.any (fun q => q.line == line) then
    let rest := s.qc.filter fun q => q.line != line
    { s with qc := if hint = 2 then rest else { line := line } :: rest }
  else s

/-- Whether a narrow access lies in one codeword: it takes no line of a Quadrant Cache (R263). -/
def isNarrowSpan (a n : Nat) : Bool := decide (n ≤ 32) && a / 32 == (a + n - 1) / 32

/-- The lines of a scheduled access to stack memory. A narrow access uses a line that is present and allocates none
(R263). -/
def qcAccess (s : State) (hint : BitVec 8) (a n : Nat) : State :=
  let h := if isNarrowSpan a n ∧ hint.toNat % 4 = 1 then 0 else hint.toNat % 4
  if !isStack a ∨ (h ≠ 1 ∧ s.qc.isEmpty) then s
  else (((List.range (n / 128 + 2)).filterMap fun i =>
      let x := if i = 0 then a else (a / 128 + i) * 128
      if x < a + n then some (linearOf x / 128) else none).dedup).foldl (fun s l => qcLine s h l) s

/-- A Caldera unit's write takes its lines out of the owning cache (R262). -/
def qcInvalidate (s : State) (lin n : Nat) : State :=
  if s.qc.isEmpty then s
  else { s with qc := s.qc.filter fun q => !(decide (q.line * 128 < lin + n) && decide (lin < q.line * 128 + 128)) }

/-! ## Access from an image -/

/-- Whether the table of R31 lets an image access an address. -/
def openToImage (a : Nat) : Bool :=
  match regionOf a with
  | .linear | .interleaved | .hubGeneral | .ab _ | .am _ | .ws _ => true
  | _ => false

/-- Whether every byte of a span lies in implemented space that the table of R31 lets an image access (R31, R32, R85, R275). -/
def spanThere (s : State) (a n : Nat) : Bool :=
  (a :: (a + n - 1) :: (List.range (n / 4096 + 1)).map fun i => min (a + n - 1) ((a / 4096 + i + 1) * 4096)).all
    fun x => openToImage x && implemented s x

/-- Whether an image may access every byte of a span now: a reservation of another chapter closes it too (R387, R430). -/
def spanOpen (s : State) (a n : Nat) (write : Bool := false) : Bool := !reservedSpan s a n write && spanThere s a n

/-- What ends the jobs of a refused access: PRIV where the bytes are reserved, a loaded image's range or a stream's working memory
(R387, R430), BUS_ERROR in a closed region or unimplemented space (R32). -/
def refusalCode (s : State) (a n : Nat) (write : Bool := false) : Code := if reservedSpan s a n write then .priv else .busError

/-- A computed address that lands in bytes that the access may not touch (R32, R387, R430). -/
def refusedAccess (s : State) (unit : BitVec 16) (ctxs : List Nat) (code : Code := .busError) : State :=
  failAt (logOther s unit none 32) ctxs code

/-! ## Other devices -/

/-- The PEER session toward a node (R364). -/
def peerSession (s : State) (node : Nat) : Option Nat :=
  (s.nodes.find? (fun k => k.id.toNat == node)).bind (·.session)

/-- Cuts a write into pieces of at most n bytes. -/
def pieces (n : Nat) : Nat → Nat → Bytes → List (Nat × Bytes)
  | 0, _, _ => []
  | fuel + 1, off, b => if b.isEmpty then [] else (off, b.take n) :: pieces n fuel (off + n) (b.drop n)

/-- A scheduled write to another device's memory: REQs of type WRITE in its PEER session (R363). With no
session it cannot be sent; it is treated as a refused address (R32). -/
def remoteDeviceWrite (s : State) (unit : BitVec 16) (image : BitVec 64) (ctxs : List Nat) (op : Byte)
    (addr : BitVec 64) (b : Bytes) : State :=
  match (peerSession s (nodeOf addr)).bind fun n => (sessGet s n).map fun x => (n, x) with
  | none => refusedAccess s unit ctxs
  | some (n, x) =>
    (pieces (max 1 x.segment) (b.length + 1) 0 b).foldl (fun s (off, p) =>
      keepPacket s n { psn := 0, isReq := true, op := op, address := addr + BitVec.ofNat 64 off, payload := p
                       image := some image, slots := ctxs }) s

/-! ## Scheduled stores to stacks and the hub (R115, R140) -/

/-- What an atomic of a bundle does at its home (R107, R139, R140, R263): the value found and the new bytes. -/
def atomicEffect (k : AtomicType) (w : Nat) (old operands : Bytes) : Bytes :=
  match k with
  | .fetchAdd | .atomicAdd => toLE (leNat old + leNat (operands.take w)) w
  | .cas => if old = operands.take w then (operands.drop w).take w else old

/-- The runs of a span that lie together in linear addresses and in one granule of 128 B: first address, bytes. -/
def granuleRuns (lins : List Nat) (old : Bytes) : List (Nat × Bytes) :=
  (lins.zip old).foldr (fun (l, b) t => match t with
    | (m, bs) :: r => if m = l + 1 ∧ m / 128 = l / 128 then (l, b :: bs) :: r else (l, [b]) :: t
    | [] => [(l, [b])]) []

/-- A scheduled store is recorded with what stood there (R115). -/
def recordStore (s : State) (e number visible : Nat) (lins : List Nat) : State :=
  { s with stores := (granuleRuns lins (lins.map (byteAt s))).map (fun (l, b) => ⟨e, l, b, visible, number⟩) ++ s.stores }

/-- What a store of an engine's bundle leaves at linear addresses: bytes that a later bundle of the engine has stored in the
beat stay as that bundle left them (R265). -/
def underLater (s : State) (e number : Nat) (lins : List Nat) (b : Bytes) : Bytes :=
  let later := s.stores.filter fun w => w.engine == e && decide (number < w.number)
  if later.isEmpty then b
  else (lins.zip b).map fun (l, x) => if later.any fun w => decide (w.lin ≤ l ∧ l < w.lin + w.old.length) then byteAt s l else x

/-- Whether a span meets another, in linear addresses. -/
def linsMeet (a b : List Nat) : Bool := a.any b.contains

/-- The jobs that an ATOMIC serves: its slot's, or all those of the pass (R529). -/
def atomicJobs (s : State) (r : Run) (b : Bundle) : List Nat :=
  ((bundlePieces s r b b.size).take 1).flatMap (pieceJobs s r)

/-- An ATOMIC reaches its home (R107, R139, R140): it leaves its result there, and the value found goes back to its
engine. A poisoned codeword is left as it is (R255), and so is the home of a request that is poisoned (R14, R66; DEDUCED,
assumption 46). -/
def atomicStep (s : State) (e : Nat) (r : Run) (cycle : Nat) (b : Bundle) (number a : Nat) (operands : Bytes)
    (mem : List EccFind) : State :=
  let lins := spanLinear a b.size
  let s := eccScan s lins mem
  let old := lins.map (byteAt s)
  let bad := anyPoison s lins || (engGet s e).badStores.contains number
  let s := if bad then failAt s (atomicJobs s r b) .eccUncorrectable
    else spanWrite (recordStore s e number cycle lins) a (atomicEffect b.kind b.size old operands)
  let x := engGet s e
  engSet s e { x with inflight := x.inflight.map fun f => if f.number = number then
      { f with old := old, poisoned := if bad then List.range b.size else f.poisoned } else f }

/-- The bytes that a task of the agenda, an ATOMIC on its way to its home, will meet there. -/
def atomicLins (x : Timed) : List Nat :=
  match x.task with
  | .atomic b _ a _ _ => spanLinear a b.size
  | _ => []

/-- An engine's own ATOMICs on bytes that a later read or write of it meets take effect first (R265), and with them, in the
order of their arrival, the ATOMICs of other engines that come to the same home before them (R140). -/
def forceAtomics (s : State) (e : Nat) (lins : List Nat) : State :=
  let mine (x : Timed) : Bool := x.engine == e && linsMeet (atomicLins x) lins
  let own := s.agenda.filter mine
  match own.getLast? with
  | none => s
  | some z =>
    let home := lins ++ own.flatMap atomicLins
    let hit (x : Timed) : Bool := !timedBefore z x && linsMeet (atomicLins x) home
    (s.agenda.filter hit).foldl (fun s x => match x.task, runOf s x.engine with
      | .atomic b n a ops mem, some r => atomicStep s x.engine r x.cycle b n a ops mem
      | _, _ => s) { s with agenda := s.agenda.filter fun x => !hit x }

/-! ## Scheduled writes -/

/-- An engine's latest store bundle, and the jobs that it serves (R14). -/
def noteStore (s : State) (e number : Nat) (ctxs : List Nat) : State :=
  let x := engGet s e
  engSet s e { x with lastStore := ctxs, lastNumber := number, lastSpans := [] }

/-- The cycles in which the ⌈n / 256⌉ writes of an arriving transfer begin, for one that ends with a cycle (R65). -/
def fillStart (last n : Nat) : Nat := last + 1 - max 1 (ceilDiv n 256)

/-- Poisons the words of stored bytes that carry poisoned data, by place: what reads them consumes it (R14, R66). -/
def poisonPlaces (s : State) (lins : List Nat) (bad : List Nat) : State :=
  (wordsOf (bad.filterMap fun k => lins[k]?)).foldl poisonAdd s

/-- A scheduled write of an engine's bundle `number` (MWRITE, EPI): into memory, into its own SRAM when `outs` lists the EPU
output cycles with their bytes (R64, R65), as a remote write that lands later, or to another device. `ctxs` are the jobs
that it serves, `bad` the places of bytes that carry poisoned data; a write of part of a codeword reads it first (R256), and
one that covers a poisoned codeword in part has no effect (R255, R264). -/
def schedWrite (s : State) (e : Nat) (r : Run) (number : Nat) (outs : List (Nat × Nat)) (ctxs : List Nat) (hint : BitVec 8)
    (addr : BitVec 64) (b : Bytes) (land visible : Nat) (bad : List Nat) (finds : List EccFind) : State :=
  if b.isEmpty then s
  else if !isHere s addr then remoteDeviceWrite s (unitOf 1 e) r.img.id ctxs 0x01 addr b
  else
    let a := runAddr r (localOf addr)
    if !spanOpen s a b.length true then refusedAccess s (unitOf 1 e) ctxs (refusalCode s a b.length true)
    else if sramBase ≤ a ∧ a < hubBase then
      let t := (a - sramBase) / 0x400000
      let off := (a - sramBase) % 0x400000
      if !outs.isEmpty ∧ t = e then
        (outs.foldl (fun (s, k) (c, n) =>
          (taskAt s e c rankEpu (.put (off + k) (slice b k n) ((bad.filter fun i => decide (k ≤ i ∧ i < k + n)).map (· - k)) ctxs), k + n))
          (s, 0)).1
      else
        let x := engGet s t
        let w : RemoteWrite := { source := e, offset := off, data := b, land := land, number := s.moves, contexts := ctxs, poisoned := bad }
        taskAt { engSet s t { x with incoming := x.incoming ++ [w] } with moves := s.moves + 1 } t (fillStart land b.length)
          (rankRemote e) (.arrival w.number)
    else
      let lins := spanLinear a b.length
      let s := forceAtomics s e lins
      let s := qcAccess s hint a b.length
      let s := if finds.isEmpty then s else eccScan s (lins.filter fun l => !covered lins (wordAt l)) finds
      let s := if bad.isEmpty then s else failAt s ctxs .eccUncorrectable
      if partialPoison s lins then failAt s ctxs .eccUncorrectable
      else
        let x := engGet s e
        let s := engSet s e { x with lastSpans := (a, b.length) :: x.lastSpans }
        poisonPlaces (storeBytes (recordStore s e number visible lins) a (underLater s e number lins b)) lins bad

/-! ## What a read delivers (R115, R264, R267) -/

/-- Bytes at linear addresses of which each aligned granule of 128 B is wholly old or wholly new: a granule in which they
differ is what a free value says. -/
def pickGranules (s : State) : Nat → List (Nat × Byte × Byte) → Bytes × State
  | 0, _ => ([], s)
  | _, [] => ([], s)
  | fuel + 1, (l, x) :: t =>
    let g := (l, x) :: t.takeWhile fun y => y.1 / 128 == l / 128
    let (pick, s) := if g.all fun y => y.2.1 == y.2.2 then (g.map (·.2.1), s)
      else let (v, s) := freeVal s; (if v % 2 = 0 then g.map (·.2.1) else g.map (·.2.2), s)
    let (rest, s) := pickGranules s fuel (t.drop (g.length - 1))
    (pick ++ rest, s)

/-- The byte that stood at a linear address before those of the beat's stores that `early` holds of. -/
def byteBefore (s : State) (early : SchedStore → Bool) (l : Nat) : Byte :=
  ((s.stores.reverse.find? fun w => early w && decide (w.lin ≤ l ∧ l < w.lin + w.old.length)).bind fun w => w.old[l - w.lin]?).getD
    (byteAt s l)

/-- What a scheduled read of engine e issued at a cycle delivers of a stack or the hub: a read of bytes that another
engine has stored in the beat, or that its own engine has stored and are not yet visible, is one that R115 forbids, and
returns old or new granules. -/
def schedRead (s : State) (e cycle : Nat) (lins : List Nat) : Bytes × State :=
  if s.stores.isEmpty then (lins.map (byteAt s), s)
  else
    let early (w : SchedStore) : Bool := w.engine != e || decide (cycle < w.visible)
    pickGranules s (lins.length + 1) (lins.map fun l => (l, byteBefore s early l, byteAt s l))

end Sys2Proof.Machine
end

