-- ==== Sys2Proof/Machine/Programs.lean ====
section
/-! DEFINITION. The bundles that an engine's program issues in a beat of a pass (R104, R105), the gaps
between its broadcasts and the density of its arrays (R78 to R81). -/

namespace Sys2Proof.Machine

open Sys2Proof

/-- The programs of a placement (R103, R123). -/
def placementProgs (i : Image) (placement : Nat) : List Program :=
  if placement = 0 then i.progs else ((i.refolds[placement - 1]?).map (·.progs)).getD []

/-- The footprints of a placement. -/
def placementFoots (i : Image) (placement : Nat) : List Footprint :=
  if placement = 0 then i.foots else ((i.refolds[placement - 1]?).map (·.foots)).getD []

/-- An offset or a number moved by a stride (R105). A negative sum lies outside every window and every table, and so
does 2^64, which stands for it. -/
def moveNat (n : Nat) (d : Int) : Nat := if (n : Int) + d < 0 then 2 ^ 64 else ((n : Int) + d).toNat

/-- A bundle in repetition i of its beat record (R105); ATOMIC's operands lie in AB and its target is a
destination (DEDUCED). -/
def strideBundle (p : Placed) (st : Strides) (i : Nat) : Placed :=
  if !p.b.strided then p
  else
    let k : Int := i
    let b := p.b
    let b := { b with op := moveNat b.op (k * st.op) }
    let b := match p.cls with
      | .rows => { b with abOff := moveNat b.abOff (k * st.ab), amOff := moveNat b.amOff (k * st.am) }
      | .wload => { b with wsOff := moveNat b.wsOff (k * st.ws) }
      | .epi => { b with amOff := moveNat b.amOff (k * st.am), addr := b.addr + BitVec.ofInt 64 (k * st.dst) }
      | .mread =>
        { b with addr := b.addr + BitVec.ofInt 64 (k * st.src)
                 abOff := moveNat b.abOff (k * (if b.abOff < 0x180000 then st.ab else if b.abOff < 0x280000 then st.am else st.ws)) }
      | .mwrite => { b with abOff := moveNat b.abOff (k * st.ab), addr := b.addr + BitVec.ofInt 64 (k * st.dst) }
      | .atomic => { b with abOff := moveNat b.abOff (k * st.ab), retOff := moveNat b.retOff (k * st.ab)
                            addr := b.addr + BitVec.ofInt 64 (k * st.dst) }
      | .arrive => { b with abOff := moveNat b.abOff (k * (if b.abOff < 0x180000 then st.ab else if b.abOff < 0x280000 then st.am else st.ws)) }
      | _ => b
    { p with b := b }

/-- The beat record that covers a beat of the pass, and the repetition it is (R104). -/
def recordAt : List BeatRec → Nat → Option (BeatRec × Nat)
  | [], _ => none
  | r :: t, n => if n < r.reps then some (r, n) else recordAt t (n - r.reps)

/-- The bundles of a record in repetition i. -/
def recordBundles (p : Program) (r : BeatRec) (i : Nat) : List Placed :=
  ((p.bundles.drop r.first).take r.count).map fun b => strideBundle b (if r.strideSet = 0xFF then {} else p.strides.getD r.strideSet {}) i

/-- The bundles of a beat of the pass. -/
def bundlesAt (p : Program) (beat : Nat) : List Placed :=
  match recordAt p.beats beat with
  | none => []
  | some (r, i) => recordBundles p r i

/-- The program that an engine runs; a mirrored partner runs the primary's (R308). -/
def progOf (r : Run) (e : Nat) : Option Program :=
  (placementProgs r.img r.pass.placement).find? (·.engine == if r.partner then e - 64 else e)

/-- Bundle number n of a beat of the pass. -/
def bundleAt (p : Program) (beat n : Nat) : Option Placed :=
  (recordAt p.beats beat).bind fun (r, i) =>
    if n < r.count then (p.bundles[r.first + n]?).map fun b =>
      strideBundle b (if r.strideSet = 0xFF then {} else p.strides.getD r.strideSet {}) i
    else none

/-- The bundle that an engine issues next in the present beat (R92, R109). -/
def nextBundle (s : State) (r : Run) (e : Nat) : Option Placed :=
  (progOf r e).bind fun p => bundleAt p r.pass.beat (engGet s e).next

/-- The cycle of the present beat at which an array next broadcasts at or after a cycle, for an engine that has held for
`hold` cycles; a later beat's cycles count on from 4,096. Beyond the last beat comes the first beat of the next pass when
the pass `again` follows for a job that continues (R79). -/
def nextCast (p : Program) (again : Bool) (beats beat hold cycle k : Nat) : Option Nat :=
  let casts (n : Nat) : List Nat := ((bundlesAt p n).filter fun b => b.cls == .rows && b.b.arrays.toNat.testBit k).map (·.b.issue + 6)
  ((casts beat).map (· + hold) |>.find? fun c => decide (cycle ≤ c)).orElse fun _ =>
    if beat + 1 < beats then ((casts (beat + 1)).head?).map (4096 + hold + ·)
    else if again then ((casts 0).head?).map (4096 + hold + ·) else none

/-- The density t cycles into a gap of g cycles (R79); no known end for `none`. -/
def gapDensity (ramp : Bool) (g : Option Nat) (t : Nat) : Nat :=
  let long := match g with
    | none => true
    | some n => if ramp then decide (127 < n) else decide (256 < n)
  if !long then
    if !ramp then 32
    else
      let n := g.getD 0
      if t < n / 2 then 32 - t / 2 else 32 - (n - t) / 2
  else if t < 64 then 32 - t / 2
  else
    match g with
    | some n => if n < t + 64 then 32 - (n - t) / 2 else 0
    | none => 0

/-- The density of an array at a cycle of the present beat (R79, R80): an array that the pass finds idle ramps up over
the first 64 cycles of its first beat. -/
def densityAt (ramp : Bool) (p : Program) (a : ArrayState) (again : Bool) (passBeats beats beat hold k cycle : Nat) : Nat :=
  let now := beats * 4096 + cycle
  let next := (nextCast p again passBeats beat hold cycle k).map fun c => beats * 4096 + c
  let start := match a.cast with
    | some c => c + 1
    | none => (beats - beat) * 4096 + 64
  if now < start then (if a.cast.isSome then 32 else (64 - (start - now)) / 2)
  else gapDensity ramp (next.map fun c => c - start) (now - start)

/-- The density at the end of a hold of h cycles (R81). -/
def holdDensity (ramp : Bool) (d h : Nat) : Nat :=
  if ramp then d - h / 2
  else if h ≤ 256 then min 32 (d + h / 2)
  else 32 - (h - 256) / 2

/-- Whether a program broadcasts on an array at all. -/
def usesArray (p : Program) (k : Nat) : Bool := p.bundles.any fun b => b.cls == .rows && b.b.arrays.toNat.testBit k

end Sys2Proof.Machine
end

