-- ==== Sys2Proof/Machine/Epilogue.lean ====
section
/-! DEFINITION. What EPI computes and stores: positions (R133, R135), the tile it reads (R533), chains (R155
to R159), scales (R160 to R164, R527), score operations and masks (R169 to R176), final rounding (R53 to
R60), digests (R323, R324). -/

namespace Sys2Proof.Machine

open Sys2Proof

/-! ## Positions (R133) -/

/-- r of R133, when the destination resolves. A BASE 1 TENSOR_D is taken at a base of 0, as the bundle's address is: the
result holds for every job (R535). -/
def destOffset (s : State) (r : Run) (o : OpRec) (dest : BitVec 64) : Option Nat :=
  (tensorGet r.img o.tensorD).bind fun t =>
    let a := localOf dest
    let inWin (x : Nat) : Bool := decide (sramBase ≤ x ∧ x < sramBase + 0x40000000)
    let pick (x y : Nat) : Option Nat := if y ≤ x ∧ x < y + t.size then some (x - y) else none
    if t.base = 0 ∧ inWin t.addr ∧ inWin a then pick ((a - sramBase) % 2 ^ 22) (t.addr % 2 ^ 22)
    else if t.base = 2 then
      if memberNode s (t.addr / 2 ^ 48) = some (nodeOf dest) then pick a (t.addr % 2 ^ 48) else none
    else if !isHere s dest then none
    else pick a t.addr

/-- The bit width of R133: TENSOR_D's table FORMAT. -/
def destWidth (i : Image) (o : OpRec) : Nat :=
  if chainOf o = 9 then ((tensorGet i o.tensorD).map fun t => fmtWidth t.fmt).getD 32 else fmtWidth o.dFmt

/-- The position of an EPI row. -/
structure RowPos where
  row  : Nat                     -- padded row g, the slot included
  col  : Nat                     -- the first column
  slot : Nat
  m    : Nat
  resolved : Bool
  off  : Nat := 0                -- r of R133
  stride : Nat := 0              -- ROW_STRIDE of TENSOR_D
  deriving DecidableEq, Repr

/-- The position that an offset r in TENSOR_D gives (R133, R135). -/
def posAt (i : Image) (o : OpRec) (mode1 : Bool) (stride x : Nat) : RowPos :=
  let g := x / stride
  let col := if mode1 then (x % stride) / 8 * o.tileN else (x % stride) * 8 / destWidth i o
  if needsResolve i o then ⟨g, col, g / msOf o, g % msOf o, true, x, stride⟩ else ⟨g, col, 0, g, true, x, stride⟩

/-- The position of row j (R133, R135). Where a destination does not resolve, and need not, the EPU uses no
row or column: the row's number in the EPI and column 0 stand for them, and so they do under a TENSOR_D whose ROW_STRIDE
is 0, by which R133 divides (DESIGN CHOICE, assumption 93). An operation that needs no resolved destination belongs to one
slot. In mode 1 the pair of N-tile i lies at byte 8 i of the row's record (R172). -/
def rowPos (s : State) (r : Run) (o : OpRec) (b : Bundle) (mode1 : Bool) (j : Nat) : RowPos :=
  let t := tensorGet r.img o.tensorD
  match destOffset s r o (b.addr + BitVec.ofNat 64 (j * b.dstStride)), t.map (·.stride) with
  | some x, some stride =>
    if stride = 0 then ⟨j, 0, 0, j, false, 0, 0⟩ else posAt r.img o mode1 stride x
  | _, _ => ⟨j, 0, 0, j, false, 0, 0⟩

/-- The position that a bit of TENSOR_D has: elements of 4 and 6 bits begin within a byte. -/
def posAtBit (i : Image) (o : OpRec) (stride bit : Nat) : RowPos :=
  { posAt i o false stride (bit / 8) with col := bit % (8 * stride) / destWidth i o }

/-- The position of stored element t of a row, by its own address (R133): past the end of a stored row the next row begins. -/
def elemPos (i : Image) (o : OpRec) (p : RowPos) (t : Nat) : RowPos :=
  if p.resolved then posAtBit i o p.stride (8 * p.off + t * destWidth i o) else { p with col := p.col + t }

/-- W of R533: the last tile is narrower only where N padded is not a multiple of TILE_N. -/
def tileWidth (o : OpRec) (col : Nat) : Nat :=
  if chainOf o = 8 then npadOf o
  else if npadOf o % o.tileN = 0 then o.tileN
  else
    let start := if pairsColumns o then 2 * col else col
    if start < npadOf o ∧ npadOf o < start + o.tileN then npadOf o - start else o.tileN

/-! ## The slot of a row that is being summed (R74, R529) -/

/-- ATTN_MODE of an operation, as its header stands in the engine's AB; 0 where it is no score operation (R170). -/
def attnMode (s : State) (e : Nat) (i : Image) (o : OpRec) : Nat :=
  if prologueOf o = 4 then ((areaOf i o.tensorAux).map fun a => field (p4Header s e a) 0 1).getD 0 else 0

/-- The slot of the result row that an EPI among some bundles reads from an AM offset. -/
def slotAmong (s : State) (e : Nat) (r : Run) (off : Nat) (ps : List Placed) : Option Nat :=
  ps.findSome? fun q => if q.cls ≠ .epi then none else (opOf r.img q.b.op).bind fun o =>
    let mode1 := attnMode s e r.img o == 1
    let w := 4 * tileWidth o (rowPos s r o q.b mode1 0).col
    if q.b.amOff ≤ off ∧ off < q.b.amOff + q.b.rows * w then some (rowPos s r o q.b mode1 ((off - q.b.amOff) / w)).slot
    else none

/-- The same over the next n beats of a program. -/
def slotLater (s : State) (e : Nat) (r : Run) (p : Program) (off : Nat) : Nat → Nat → Option Nat
  | 0, _ => none
  | n + 1, beat => (slotAmong s e r off (bundlesAt p beat)).orElse fun _ => slotLater s e r p off n (beat + 1)

/-- The slot that a row of a ROWS bundle belongs to, by the first AM word that it writes: that of the result row of the
EPI that next reads the word in the pass. -/
def rowSlot (s : State) (e : Nat) (r : Run) (off : Nat) : Option Nat :=
  if r.img.slots = 1 then some 0
  else (progOf r e).bind fun p =>
    (slotAmong s e r off ((bundlesAt p r.pass.beat).drop (engGet s e).next)).orElse fun _ =>
      slotLater s e r p off (r.img.beats - (r.pass.beat + 1)) (r.pass.beat + 1)

/-! ## Chains (R157) -/

/-- The auxiliary areas of an EPI's chain, from the first item after the prologue's (R145). -/
def chainArea (i : Image) (o : OpRec) (k : Nat) : Option Area := areaOf i (auxId o (prologueItems o + k))

/-- A residual element (R147). -/
def residual (s : State) (e : Nat) (a : Option Area) (j t : Nat) : Word :=
  match a with
  | none => 0
  | some a => toF32 (areaElem s e a (j * a.stride + t * (fmtWidth a.fmt / 8)))

/-- The three vectors A, B, G of conditioning sample c at column n (R147, R157): FP32 words, 4 bytes apart as R147 spaces
them, whatever FORMAT the area has (DESIGN CHOICE, assumption 98: R146 lets FORMAT be BF16 or FP16 and R147 gives one spacing). -/
def modulation (s : State) (e : Nat) (o : OpRec) (a : Option Area) (row n : Nat) : Word × Word × Word :=
  match a with
  | none => (0x3F800000, 0, 0x3F800000)
  | some a =>
    let q := leNat (areaBytes s e a 0 4)
    let v (k : Nat) : Word := areaF32 s e a (32 + (row / q) * a.stride + 4 * (k * npadOf o + n))
    (v 0, v 1, v 2)

/-- Column t of the chain's result for a row of FP32 sums, before staging (R157, R158), at the position of its element. -/
def chainValue (s : State) (e : Nat) (i : Image) (o : OpRec) (p : RowPos) (j : Nat) (acc : List Word) (t : Nat) :
    Word :=
  let x := acc.getD t 0
  let a0 := chainArea i o 0
  let n := p.col
  let e1 (gelu : Bool) : Word := act gelu (fadd x ((a0.map fun a => areaF32 s e a (4 * n)).getD 0))
  let e2 : Word := fadd x (residual s e a0 j t)
  let e3 : Word :=
    let g := 64 * (t / 32) + t % 32
    fmul (act false (acc.getD g 0)) (acc.getD (g + 32) 0)
  let e4 (gated : Bool) : Word :=
    let (a, b, g) := modulation s e o a0 p.row n
    if gated then fma g (fma x a b) (residual s e (chainArea i o 1) j t) else fmul g (fma x a b)
  match chainOf o with
  | 1 | 13 => e1 true
  | 2 => e1 false
  | 3 | 11 => e2
  | 4 | 14 => e3
  | 5 => e4 false
  | 6 | 12 => e4 true
  | _ => x

/-- Whether a chain uses E4, whose area begins with a header (R157). -/
def usesE4 (o : OpRec) : Bool := chainOf o == 5 || chainOf o == 6 || chainOf o == 12

/-- Whether the E4 header is refused (R157). -/
def e4HeaderBad (s : State) (e : Nat) (i : Image) (o : OpRec) : Bool :=
  usesE4 o && (chainArea i o 0).any fun a =>
    let h := areaBytes s e a 0 32
    field h 0 4 == 0 || !zeroAt h 4 28

/-- A part of an area: AB offset and bytes, those beyond its SIZE left out. -/
def areaPart (a : Area) (off n : Nat) : Nat × Nat := (a.ab + off, min n (a.size - off))

/-- The parts of the chain's areas that rows share (R529): headers, biases, conditioning vectors. -/
def chainShared (s : State) (e : Nat) (i : Image) (o : OpRec) (p : RowPos) (w : Nat) : List (Nat × Nat) :=
  match chainArea i o 0 with
  | none => []
  | some a =>
    if chainOf o = 1 ∨ chainOf o = 2 ∨ chainOf o = 13 then [areaPart a (4 * p.col) (4 * w)]
    else if usesE4 o then
      let q := max 1 (leNat (areaBytes s e a 0 4))
      areaPart a 0 32 :: (List.range 3).map fun v => areaPart a (32 + (p.row / q) * a.stride + 4 * (v * npadOf o + p.col)) (4 * w)
    else []

/-- A row's own part of the chain's areas: its residual. -/
def chainOwn (i : Image) (o : OpRec) (j w : Nat) : List (Nat × Nat) :=
  let f (a : Option Area) : List (Nat × Nat) := a.toList.map fun a => areaPart a (j * a.stride) (w * (fmtWidth a.fmt / 8))
  if chainOf o = 3 ∨ chainOf o = 11 then f (chainArea i o 0)
  else if chainOf o = 6 ∨ chainOf o = 12 then f (chainArea i o 1)
  else []

/-! ## Scales (R160) -/

/-- e_max of a destination format (R160). -/
def eMax (code : Nat) : Int :=
  match code with
  | 3 => 8
  | 4 => 15
  | 5 => 4
  | 6 | 7 => 2
  | _ => 0

/-- The scale code of a set of values (R160). -/
def scaleOf (code : Nat) (vs : List Val) : Byte :=
  let exps := vs.filterMap fun v => match v with
    | .fin _ m e => if m = 0 then none else some (ilogb m e)
    | _ => none
  match exps with
  | [] => 0x7F
  | x :: t =>
    let c := t.foldl max x - eMax code + 127
    BitVec.ofNat 8 (max 0 (min 254 c)).toNat

/-- The scale code of a set of FP32 values (R160). -/
def scaleCode (code : Nat) (vs : List Word) : Byte := scaleOf code (vs.map f32Val)

/-! ## Final rounding of a row -/

/-- How a unit rounds finally: format, scaled, rounding settings, and u for a logical index. -/
structure Store where
  fmt    : Nat
  scaled : Bool
  sr     : Bool
  sr3    : Bool
  ieee   : Bool
  deriving DecidableEq, Repr

/-- One element: staged to 16 bits for destinations of 16 bits or narrower (R53), divided by its scale,
rounded and overflowed (R56 to R60). -/
def storeOne (st : Store) (scale : Option Byte) (u : Nat) (v : Val) : Nat × Bool :=
  let x := if fmtWidth st.fmt ≤ 16 then rtoVal 16 v else v
  let x := match scale, x with
    | some c, .fin s m e => .fin s m (e - ((c.toNat : Int) - 127))
    | _, y => y
  let rnd := if st.sr then (if st.sr3 then Rounding.sr 3 u else .sr 4 u) else .rne
  storeElem st.fmt st.scaled { rnd := rnd, ieee := st.ieee } x

/-- The elements of a row with one scale for each block of 32, when scaled: bits, scales as written, and the
NaNs written as zero without a scale. A block that meets a NaN its format cannot hold is written as zeros
with scale 0xFF (R60, R527). -/
def storeVals (st : Store) (u : Nat → Nat) (scales : List Byte) (vs : List Val) : List Nat × List Byte × Nat :=
  let rs := vs.zipIdx.map fun (v, t) =>
    storeOne st (if st.scaled then some (scales.getD (t / 32) 0x7F) else none) (if st.sr then u t else 0) v
  if st.scaled then
    let sc := scales.zipIdx.map fun (c, k) =>
      if c = 0xFF ∨ ((rs.drop (32 * k)).take 32).any (·.2) then 0xFF else c
    (rs.zipIdx.map fun (x, t) => if sc.getD (t / 32) 0x7F = 0xFF then 0 else x.1, sc, 0)
  else (rs.map (·.1), [], (rs.filter (·.2)).length)

/-- The elements of a row of FP32 values. -/
def storeRow (st : Store) (u : Nat → Nat) (scales : List Byte) (vs : List Word) : List Nat × List Byte × Nat :=
  storeVals st u scales (vs.map f32Val)

/-- BF16 bits of an FP32 value rounded to odd (R53). -/
def bf16Odd (w : Word) : Nat :=
  if isNan32 w then 0x7FC0
  else w.toNat / 2 ^ 16 + (if w.toNat % 2 ^ 16 ≠ 0 ∧ w.toNat / 2 ^ 16 % 2 = 0 then 1 else 0)

/-- The settings of an operation's final rounding. -/
def storeOf (i : Image) (o : OpRec) : Store :=
  { fmt := o.dFmt, scaled := o.dScaled, sr := o.sr, sr3 := i.sr3, ieee := o.ieee }

/-- The draws of a job. -/
def opalOf (c : Ctx) : OpalJob := { seed := c.desc.seed, stream := c.desc.stream, step := c.step }

/-- Adds the hashes of a row's elements to a job's digest of a layer (R323, R324). -/
def hashRow (s : State) (ctx layer fmt : Nat) (scaled partner : Bool) (index : Nat → Nat) (valid : Nat → Bool)
    (bits : List Nat) (scales : List Byte) : State :=
  if layer = 0xFFFFFFFF then s
  else
    let h := bits.zipIdx.foldl (fun (h : BitVec 128) (x, t) =>
      if valid t then h + elementHash layer fmt (if scaled then some (scales.getD (t / 32) 0x7F) else none) (index t) x
      else h) 0
    ctxDigest s ctx layer h partner

/-! ## Masks (R175, R176) -/

/-- Bytes of an engine's AB at an AB offset. -/
def abBytes (s : State) (e off n : Nat) : Bytes := bytesAt s (winAddr e off) n

/-- The summary code of row j and column t of a tile. -/
def summaryCode (s : State) (e maskOff tileN j t : Nat) : Nat :=
  let k := 2 * ((j / 128) * (tileN / 32) + t / 32)
  (leNat (abBytes s e (maskOff + k / 8) 1) / 2 ^ (k % 8)) % 4

/-- The bytes of the summary codes of a tile of `rows` rows, rounded up to 32 B. -/
def summaryBytes (tileN rows : Nat) : Nat := roundUp (ceilDiv (2 * (ceilDiv rows 128) * (tileN / 32)) 8) 32

/-- Whether the mask allows column t of row j. -/
def maskAllows (s : State) (e maskOff tileN rows j t : Nat) : Bool :=
  if maskOff = 0xFFFFFFFF then true
  else
    match summaryCode s e maskOff tileN j t with
    | 1 => true
    | 2 => false
    | _ => (leNat (abBytes s e (maskOff + summaryBytes tileN rows + j * (tileN / 8) + t / 8) 1)).testBit (t % 8)

/-- Whether a mask area holds a reserved summary code, which is logged (R175). -/
def maskReserved (s : State) (e maskOff tileN rows : Nat) : Bool :=
  maskOff != 0xFFFFFFFF && (List.range (ceilDiv rows 128)).any fun b =>
    (List.range (tileN / 32)).any fun c => summaryCode s e maskOff tileN (128 * b) (32 * c) == 3

/-! ## Scores (R172, R173) -/

/-- The largest of FP32 words; −∞ for none, NaN when one is NaN. -/
def largest (vs : List Word) : Word := vs.foldl fmax 0xFF800000

/-- The pair (m, l) of R172 for the included scores. -/
def statPair (vs : List Word) : Word × Word :=
  if vs.any isNan32 then (0x7FC00000, 0x7FC00000)
  else
    let m := largest vs
    if m = 0xFF800000 then (m, 0)
    else (m, vs.foldl (fun l v => fadd l (exp2 (fsub v m))) 0)

/-- M and R of R173 for a row's pairs; none when no pair remains. -/
def combinePairs (ps : List (Word × Word)) : Option (Word × Word) :=
  let ps := ps.filter fun (m, _) => f32Val m != .inf true
  if ps.isEmpty then none
  else
    let m := if ps.any (fun p => isNan32 p.1) then 0x7FC00000 else largest (ps.map (·.1))
    let l := ps.foldl (fun l (mi, li) => fma li (exp2 (fsub mi m)) l) (0 : Word)
    some (m, if l = 0 then 0 else fdiv 0x3F800000 l)

/-- A row of weights (R173): the included columns' probabilities, +0 elsewhere. -/
def weightsRow (scale : Word) (mr : Option (Word × Word)) (inc : Nat → Bool) (acc : List Word) : List Word :=
  acc.zipIdx.map fun (x, t) =>
    match mr with
    | none => 0
    | some (m, r) => if inc t then fmul (exp2 (fsub (fmul x scale) m)) r else 0

/-- The pairs of a row's statistics record. -/
def statRecord (s : State) (e : Nat) (h : Bytes) (j : Nat) : List (Word × Word) :=
  let stride := field h 20 4
  (List.range (stride / 8)).map fun i =>
    let b := abBytes s e (field h 16 4 + j * stride + 8 * i) 8
    (BitVec.ofNat 32 (field b 0 4), BitVec.ofNat 32 (field b 4 4))

/-- Whether a mode-1 EPI's destination is refused (R170, R172). -/
def statDestBad (h : Bytes) (b : Bundle) : Bool := field h 0 1 == 1 && (b.addr.toNat % 8 != 0 || b.dstStride % 8 != 0)

/-- The parts of the mask and statistics areas that row j of a score operation reads: those it shares, and its own
(R173, R175). -/
def scoreParts (o : OpRec) (mode : Nat) (h : Bytes) (rows j : Nat) : List (Nat × Nat) × List (Nat × Nat) :=
  let m := field h 12 4
  let n := summaryBytes o.tileN rows
  let (a, b) := if mode = 0 ∨ m = 0xFFFFFFFF then ([], []) else ([(m, n)], [(m + n + j * (o.tileN / 8), o.tileN / 8)])
  (a, if mode = 2 then (field h 16 4 + j * field h 20 4, field h 20 4) :: b else b)

/-! ## EPI -/

/-- What every row of an EPI shares. -/
structure EpiCtx where
  e     : Nat
  r     : Run
  o     : OpRec
  b     : Bundle
  mode  : Nat                    -- ATTN_MODE; 0 where the operation is no score operation
  head  : Bytes                  -- the P4 header
  cycle : Nat                    -- the issue cycle
  number : Nat                   -- the bundle's place among those issued in the beat
  w     : Nat                    -- W of R533
  flit  : Bool                   -- a link has poisoned its transfer (R14)
  finds : List EccFind           -- words in error met in the window
  mem   : List EccFind           -- codewords in error met in stacks

/-- The FP32 sums of row j, an integer sum converted (R51, R155). -/
def epiSums (o : OpRec) (b : Bytes) : List Word :=
  (f32Words b).map fun w => if isIntegerOp o then intToF32 w else w

/-- The added EPU latency of R143 for n elements. -/
def addedLatency (o : OpRec) (n : Nat) : Nat :=
  match chainOf o with
  | 1 | 2 => 10
  | 3 | 9 => 2
  | 4 => 12
  | 5 | 7 => 4
  | 6 => 6
  | 8 => ceilDiv n 64 + 4
  | 10 => 3
  | 11 => 5
  | 12 => 9
  | 13 => 14
  | 14 => 16
  | _ => 0

/-- The cycle of an EPI's last output (R112, R143). -/
def lastOutput (o : OpRec) (rows w cycle : Nat) : Nat := cycle + 6 + ceilDiv (rows * w) 64 + addedLatency o (rows * w)

/-- The cycle in which the results of AM element x of an EPI's tile leave the EPU (R112, R143): 64 elements a cycle. -/
def outCycle (c : EpiCtx) (x : Nat) : Nat := c.cycle + 7 + x / 64 + addedLatency c.o (c.b.rows * c.w)

/-- The cycle of row j's last output. -/
def rowOut (c : EpiCtx) (j : Nat) : Nat := outCycle c ((j + 1) * c.w - 1)

/-- The output cycles of row j's n result bytes, each with its bytes. -/
def outPieces (c : EpiCtx) (j n : Nat) : List (Nat × Nat) :=
  let x0 := j * c.w
  let x1 := (j + 1) * c.w
  (List.range ((x1 - 1) / 64 + 1 - x0 / 64)).map fun k =>
    let lo := max x0 (64 * (x0 / 64 + k))
    let hi := min x1 (64 * (x0 / 64 + k + 1))
    (outCycle c lo, (hi - x0) * n / c.w - (lo - x0) * n / c.w)

/-- How long before the last of an EPI's result bytes the last byte of row j's n lands, at 256 B per cycle (R65). -/
def outLag (c : EpiCtx) (j n : Nat) : Nat := ceilDiv (c.b.rows * n) 256 - ceilDiv ((j + 1) * n) 256

/-- An address of an output tensor for a row of a slot (R149): the row, the entry's byte offset. -/
def outAddr (s : State) (r : Run) (id slot row off : Nat) : Option (BitVec 64) :=
  (tensorGet r.img id).map fun t =>
    let a := tensorAddr t (slotBase s r slot) + row * t.stride + off
    if t.base = 2 then BitVec.ofNat 64 (((memberNode s (t.addr / 2 ^ 48)).getD 0xFFFF) * 2 ^ 48 + a)
    else BitVec.ofNat 64 (0xFFFF * 2 ^ 48 + a)

/-- A store of an EPI whose bytes leave the EPU in the listed cycles. It is visible, or has landed, a fixed time after the
EPI's last output (R115, R167), as a remote write `lag` cycles sooner (R65). -/
def epiWrite (c : EpiCtx) (ctx : Nat) (bad : Bool) (outs : List (Nat × Nat)) (lag : Nat) (s : State) (a : BitVec 64) (b : Bytes) :
    State :=
  let last := lastOutput c.o c.b.rows c.w c.cycle
  let x := spanRoute c.e (runAddr c.r (localOf a)) b.length
  schedWrite s c.e c.r c.number outs [ctx] c.b.hint a b (last + landLatency x - lag) (last + visibleLatency x)
    (if bad || c.flit then List.range b.length else []) c.mem

/-- Writes an entry of an output tensor, in the row's last output cycle. -/
def epiAux (c : EpiCtx) (ctx : Nat) (p : RowPos) (j : Nat) (bad : Bool) (s : State) (k off : Nat) (b : Bytes) : State :=
  match outAddr s c.r (auxId c.o (prologueItems c.o + k)) p.slot p.row off with
  | none => s
  | some a => epiWrite c ctx bad [(rowOut c j, b.length)] 0 s a b

/-- E7: the partial sum of squares of stored elements (R159). -/
def sumSquares (fmt : Nat) (bits : List Nat) : Word :=
  bits.foldl (fun s x => let y := toF32 (decodeElem fmt false x); fma y y s) 0

/-- The largest finite magnitude of FP32 values, or +0 (R164). -/
def maxMagnitude (vs : List Word) : Word :=
  (vs.filterMap fun w => match f32Val w with
    | .fin _ _ _ => some (w &&& 0x7FFFFFFF)
    | _ => none).foldl (fun a b => if a.toNat < b.toNat then b else a) 0

/-- An FP32 word as it is stored: a NaN is the canonical one (R38, R60). -/
def canonWord (w : Word) : Word := if isNan32 w then 0x7FC00000 else w

/-- Whether an element at a position is beyond the rows or columns of the operation: it is written as +0 (R133). -/
def isPad (i : Image) (o : OpRec) (q : RowPos) : Bool :=
  needsResolve i o && q.resolved && (decide (o.m ≤ q.m) || decide (nlogOf o ≤ q.col))

/-- The stored elements of a row: half as many where the chain pairs columns. -/
def outCount (o : OpRec) (w : Nat) : Nat := if pairsColumns o then w / 2 else w

/-- The result row of one EPI row, the elements of it that lie in one occupied slot, written with their digest and their output
tensors. The scale and the partial maximum of a pad row are those of zeros, which is what it stores (DESIGN CHOICE, assumption 99: R160
and R164 take the chain's values, R133 writes +0, and neither speaks of pad rows). -/
def epiStore (c : EpiCtx) (job : Ctx) (row : RowPos) (slot j : Nat) (addr : BitVec 64) (acc : List Word) (bad : Bool)
    (s : State) : State :=
  let o := c.o
  let wOut := outCount o acc.length
  let at_ (t : Nat) : RowPos := elemPos c.r.img o row t
  let mine := (List.range wOut).filter fun t => (at_ t).slot == slot
  let lo := mine.headD 0
  let n := mine.length
  let p := at_ lo
  let pad (t : Nat) : Bool := isPad c.r.img o (at_ t)
  let inc (t : Nat) : Bool :=
    decide ((at_ t).col < o.n) && maskAllows s c.e (field c.head 12 4) o.tileN c.b.rows j t
  let scale := BitVec.ofNat 32 (field c.head 8 4)
  let raw : List Word :=
    if c.mode = 2 then weightsRow scale (combinePairs (statRecord s c.e c.head j)) inc acc
    else (List.range wOut).map fun t => if pad t then 0 else chainValue s c.e c.r.img o (at_ t) j acc t
  let vals := raw.zipIdx.map fun (v, t) => if pad t then 0 else v
  let index (t : Nat) : Nat := (at_ t).m * nlogOf o + (at_ t).col
  let write (s : State) (b : Bytes) : State :=
    if n = wOut then epiWrite c job.num bad (outPieces c j b.length) (outLag c j b.length) s addr b
    else
      let x := b.length * lo / wOut
      let b := slice b x (b.length * n / wOut)
      epiWrite c job.num bad [(rowOut c j, b.length)] (outLag c j b.length) s (addr + BitVec.ofNat 64 x) b
  if chainOf o = 9 then
    let s := write s (if o.bf16Stage then vals.flatMap fun v => toLE (bf16Odd v) 2 else wordBytes (vals.map canonWord))
    epiAux c job.num p j bad s 0 (4 * (p.col / o.tileN)) (toLE (maxMagnitude vals).toNat 4)
  else
    let scales : List Byte :=
      if !o.dScaled then []
      else if chainOf o = 8 then List.replicate (ceilDiv wOut 32) (scaleCode o.dFmt vals)
      else (List.range (ceilDiv wOut 32)).map fun k => scaleCode o.dFmt ((vals.drop (32 * k)).take 32)
    let u (t : Nat) : Nat := if pad t then 0 else opalRound (opalOf job) (BitVec.ofNat 32 o.tensorD) c.r.img.sr3 (index t)
    let (bits, sc, lost) := storeRow (storeOf c.r.img o) u scales vals
    let s := engNumev s c.e true lost
    let s := write s (pack (fmtWidth o.dFmt) bits)
    let s := hashRow s job.num o.digestLayer o.dFmt o.dScaled c.r.partner index (fun t => mine.contains t && !pad t && !bad) bits sc
    let s := if o.dScaled then
        epiAux c job.num p j bad s (if chainOf o = 13 then 1 else 0) (p.col / 32) (slice sc (lo / 32) (ceilDiv n 32)) else s
    if chainOf o = 10 ∨ chainOf o = 11 ∨ chainOf o = 12 then
      epiAux c job.num p j bad s (chainItems o - 1) (4 * ((if pairsColumns o then 2 * p.col else p.col) / o.tileN))
        (toLE (sumSquares o.dFmt ((bits.drop lo).take n)).toNat 4)
    else s

/-- The pair that a mode-1 row writes (R172), for a row beyond M too (DESIGN CHOICE, assumption 99: R172 writes a pair for each row of
the EPI, R133 writes +0 there, and neither speaks of the other). -/
def epiStat (c : EpiCtx) (job : Ctx) (p : RowPos) (j : Nat) (addr : BitVec 64) (acc : List Word) (bad : Bool)
    (s : State) : State :=
  let inc (t : Nat) : Bool :=
    decide (p.col + t < c.o.n) && maskAllows s c.e (field c.head 12 4) c.o.tileN c.b.rows j t
  let scale := BitVec.ofNat 32 (field c.head 8 4)
  let vs := acc.zipIdx.filterMap fun (x, t) => if inc t then some (fmul x scale) else none
  let (m, l) := statPair vs
  epiWrite c job.num bad [(rowOut c j, 8)] (outLag c j 8) s addr (toLE m.toNat 4 ++ toLE l.toNat 4)

/-- Whether any of the parts of AB is poisoned. -/
def partsBad (s : State) (e : Nat) (ps : List (Nat × Nat)) : Bool :=
  ps.any fun (off, n) => anyBad s ((List.range n).map fun k => winAddr e (off + k))

/-- The words in error met in parts of AB (R66). -/
def partsScan (s : State) (e : Nat) (finds : List EccFind) (ps : List (Nat × Nat)) : State :=
  ps.foldl (fun s (off, n) => (winRead s e off n finds).2.2) s

/-- The slots of a row's elements, each once; a mode-1 row has one (R133). -/
def rowSlots (c : EpiCtx) (p : RowPos) : List Nat :=
  if c.mode = 1 ∨ !p.resolved then [p.slot]
  else ((List.range (outCount c.o c.w)).map fun t => (elemPos c.r.img c.o p t).slot).dedup

/-- Row j of an EPI, whose AM words have been read: what it reads of the areas, and what it writes, in a BASE 1 tensor at
the base of its own slot's job (R74, R98). A row of an empty slot is written nowhere, and a fault that it meets is still logged
and counted (R76, R529). A slot number at or beyond BATCH_SLOTS is one that no job holds, so a row there is written nowhere too
(DESIGN CHOICE, assumption 99: R133 gives such a row a number that R74 gives no slot). -/
def epiRow (c : EpiCtx) (s : State) (j : Nat) (bytes : Bytes) (badAm : Bool) : State :=
  let p := rowPos s c.r c.o c.b (c.mode == 1) j
  let (sh, ow) := scoreParts c.o c.mode c.head c.b.rows j
  let sh := chainShared s c.e c.r.img c.o p c.w ++ sh
  let ow := chainOwn c.r.img c.o j c.w ++ ow
  let s := partsScan s c.e c.finds (sh ++ ow)
  let shared := partsBad s c.e sh
  let own := partsBad s c.e ow
  let s := if shared then failAll s c.r .eccUncorrectable else s
  (rowSlots c p).foldl (fun s slot => match jobOf s c.r slot with
    | none => s
    | some job =>
      let s := if badAm ∨ own then failAt s [job.num] .eccUncorrectable else s
      let addr := bundleAddr s c.r.img job.desc.base (c.b.addr + BitVec.ofNat 64 (j * c.b.dstStride))
      let acc := epiSums c.o bytes
      if c.mode = 1 then epiStat c job p j addr acc (badAm || own || shared) s
      else epiStore c job p slot j addr acc (badAm || own || shared) s) s

/-- The slots' jobs that an EPI serves, by the first and the last element of each row. -/
def epiServed (s : State) (r : Run) (o : OpRec) (b : Bundle) (mode1 : Bool) : List Nat :=
  ((List.range b.rows).flatMap fun j =>
    let p := rowPos s r o b mode1 j
    let last := elemPos r.img o p (outCount o (tileWidth o p.col) - 1)
    ((if mode1 then [p.slot] else [p.slot, last.slot]).filterMap fun k => jobOf s r k).map (·.num)).dedup

/-- W of an EPI (R533). -/
def epiW (s : State) (e : Nat) (r : Run) (o : OpRec) (b : Bundle) : Nat :=
  tileWidth o (rowPos s r o b (attnMode s e r.img o == 1) 0).col

/-- What every row of an EPI shares, as the areas stand. -/
def epiCtx (s : State) (e : Nat) (r : Run) (o : OpRec) (b : Bundle) (cycle number : Nat) (finds mem : List EccFind) : EpiCtx :=
  let head := if prologueOf o = 4 then ((areaOf r.img o.tensorAux).map (p4Header s e)).getD [] else []
  { e := e, r := r, o := o, b := b, mode := attnMode s e r.img o, head := head, cycle := cycle, number := number, w := epiW s e r o b
    flit := (engGet s e).badStores.contains number, finds := finds, mem := mem }

/-- The rows of an EPI whose AM words have all been read, and what is left of the next one. -/
def epiRows (c : EpiCtx) : Nat → State → Nat → Bytes → List Nat → State × Nat × Bytes × List Nat
  | 0, s, j, got, bad => (s, j, got, bad)
  | fuel + 1, s, j, got, bad =>
    if got.length < 4 * c.w ∨ c.w = 0 then (s, j, got, bad)
    else
      let s := epiRow c s j (got.take (4 * c.w)) (bad.any fun k => decide (k < 4 * c.w))
      epiRows c fuel s (j + 1) (got.drop (4 * c.w)) ((bad.filter fun k => decide (4 * c.w ≤ k)).map (· - 4 * c.w))

/-- The cycles between two AM reads of 256 B: chain 8 reads every row twice, and its second reads are the ones that count
(R163; DEDUCED that the two alternate). -/
def readCycles (o : OpRec) : Nat := if chainOf o = 8 then 2 else 1

/-- One AM read of an EPI (R112): 256 B, from c + 2 on, one cycle later under chain 8, where the words in error are met once as
the row is scanned and once more as it is quantised (R66, R163). -/
def epiRead (c : EpiCtx) (s : State) (at_ number j : Nat) (got : Bytes) (bad : List Nat) : State :=
  let done := j * 4 * c.w + got.length
  let n := min 256 (c.b.rows * 4 * c.w - done)
  let s := if chainOf c.o = 8 then (winRead s c.e (amBase + c.b.amOff + done) n c.finds).2.2 else s
  let (bytes, _, s) := winRead s c.e (amBase + c.b.amOff + done) n c.finds
  let hit := badPlaces s ((List.range n).map fun i => winAddr c.e (amBase + c.b.amOff + done) + i)
  let (s, j, got, bad) := epiRows c 256 s j (got ++ bytes) (bad ++ hit.map (· + got.length))
  if n = 0 ∨ c.b.rows ≤ j then s
  else taskAt s c.e (at_ + readCycles c.o) rankRead (.epi c.b c.cycle number c.finds c.mem j got bad)

/-- An AM read of an EPI at a cycle (R112, R155, R157, R170). At the first one the headers are met: a refused header or
destination writes nothing and fails the jobs that the EPI serves. -/
def epiStep (s : State) (e : Nat) (r : Run) (o : OpRec) (at_ : Nat) (b : Bundle) (cycle number : Nat) (finds mem : List EccFind)
    (j : Nat) (got : Bytes) (bad : List Nat) : State :=
  if j ≠ 0 ∨ got ≠ [] then epiRead (epiCtx s e r o b cycle number finds mem) s at_ number j got bad
  else
    let heads := ((if prologueOf o = 4 then (areaOf r.img o.tensorAux).toList.map fun a => areaPart a 0 64 else [])
      ++ if usesE4 o then (chainArea r.img o 0).toList.map fun a => areaPart a 0 32 else [])
    let s := partsScan s e finds heads
    let s := if partsBad s e heads then failAll s r .eccUncorrectable else s
    let c := epiCtx s e r o b cycle number finds mem
    let served := epiServed s r o b (c.mode == 1)
    if prologueOf o = 4 ∧ (p4HeaderBad o.fusion c.head ∨ p4ModeBad o c.head ∨ statDestBad c.head b) then
      failAt (logOther s (unitOf 1 e) none 170) served .badParam
    else if e4HeaderBad s e r.img o then failAt (logOther s (unitOf 1 e) none 157) served .badParam
    else
      let s := if c.mode ≠ 0 ∧ maskReserved s e (field c.head 12 4) o.tileN b.rows
        then logOther s (unitOf 1 e) none 175 else s
      epiRead c s at_ number 0 [] []

end Sys2Proof.Machine
end

