-- ==== Sys2Proof/Machine/Cmd.lean ====
section
/-! DEFINITION. What a command answers, and the shared parts of the commands' own checks (R374, R375, R381,
R386). -/

namespace Sys2Proof.Machine

open Sys2Proof

/-- What a command answers once the checks of R375 before its own have passed: a code with its result, or a
reply that a boundary will form (`later`); and a session to close after its reply. -/
structure Ans where
  code   : Code
  result : Bytes := []
  ev     : BitVec 32 := 0xFFFFFFFF
  later  : Bool := false
  close  : Option Nat := none
  st     : State
  deriving DecidableEq, Repr

/-- A refusal: the command has no effect. -/
def refuse (s : State) (c : Code) : Ans := { code := c, st := s }

/-- A synchronous success. -/
def done (s : State) (result : Bytes := []) : Ans := { code := .ok, result := result, st := s }

/-- ACCEPTED, with a ring entry reserved for the outcome (R376, R379). -/
def accepted (s : State) (p : Packet) (result : Bytes := []) : Ans :=
  { code := .accepted, result := result, st := ringReserve s p }

/-- A command that a boundary applies; its reply is formed there. -/
def atNext (s : State) : Ans := { code := .ok, later := true, st := s }

/-- Who sent a command: its class, and its session number; a BOOT packet has none. -/
structure Who where
  cls     : Cls
  session : Option Nat
  deriving DecidableEq, Repr

/-- Whether a sender may name a context (R381): its own, or any for OWNER and OPERATOR. -/
def mayName (w : Who) (owner : Nat) : Bool := w.cls == .owner || w.cls == .operator || w.session == some owner

/-- The context that bytes 0 and 1 of the parameters name, with its state at the latest boundary: none for
FREE. -/
def namedCtx (s : State) (p : Packet) (off : Nat) : Option Ctx := ctxGet s (field p.params off 2)

/-- The most result bytes that a reply to a session may carry: the reply packet fits a segment (R386). -/
def resultRoom (s : State) (w : Who) : Nat :=
  match w.session.bind (sessGet s) with
  | some x => x.segment - 32
  | none => 256

end Sys2Proof.Machine
end

