-- ==== Sys2Proof/Machine/SessionCmds.lean ====
section
/-! DEFINITION. The own checks and effects of SESSION_OPEN, SESSION_CLOSE, PING, REG_READ, REG_WRITE,
TIME_QUERY, TELEMETRY_READ, JOB_QUERY and DIGEST_READ (R382 to R386, R393, R395, R397). -/

namespace Sys2Proof.Machine

open Sys2Proof

/-- The key identifier of a public key (R496). -/
def keyId (key : Bytes) : Bytes := (shaBytes key).take 8

/-- The key records of a configuration blob: the public key and its USAGE (R506). -/
def blobKeys (blob : Bytes) : List (Bytes × Nat) :=
  (List.range (field blob 28 1)).map fun i => (slice blob (64 + 144 * i) 133, field blob (64 + 144 * i + 133) 1)

/-- Whether (r, s) verifies over a digest under a key that the blob in effect accepts for a use, named by
its identifier (R496, R497). -/
def ownerKeyVerifies (s : State) (use : Nat) (id : Bytes) (digest : BitVec 512) (r t : Bytes) : Bool :=
  (blobKeys s.flash.blob).any fun (k, u) => u.testBit use && keyId k == id && ecdsaValid k digest r t

/-- The open result (R384). -/
def openResult (s : State) (n : Nat) : Bytes :=
  match sessGet s n with
  | none => []
  | some x => toLE n 2 ++ [BitVec.ofNat 8 (clsByte x.cls), 0] ++ toLE x.window 4 ++ toLE x.nextPsn.toNat 4
      ++ toLE x.segment 4

/-- Ten seconds and sixty seconds of DT, as the deadlines of R383 count them. -/
def seconds (n : Nat) : Nat := n * secondDt

/-- The challenges that have not expired (R383). -/
def liveChallenges (s : State) : List Challenge :=
  s.challenges.filter fun c => decide (s.clock.dt < c.drawn + seconds 10)

/-- The reservations that have not expired (R383). -/
def liveReservations (s : State) : List Reservation :=
  s.reservations.filter fun r => decide (s.clock.dt < r.made + seconds 60)

/-- CHALLENGE (R383). -/
def openChallenge (s : State) : Ans :=
  let (b, s) := freeBytes s 16
  let c : Challenge := { nonce := BitVec.ofNat 128 (leNat b), drawn := s.clock.dt }
  let old := liveChallenges s
  let keep := old.drop (old.length - 15)
  done { s with challenges := keep ++ [c] } b

/-- OWNER_CLAIM (R383). -/
def openClaim (s : State) (p : Packet) (port iface addr udp : Nat) : Ans :=
  let nonce := BitVec.ofNat 128 (field p.params 16 16)
  if !(liveChallenges s).any (fun c => c.nonce == nonce) then refuse s .badParam
  else if !ownerKeyVerifies s 0 (slice p.params 32 8) (sha512 (p.params.take 40)) (slice p.params 40 66)
      (slice p.params 106 66) then refuse s .signatureFail
  else
    match freeSession s with
    | none => refuse s .busy
    | some n =>
      match grantWindow s (segmentOf s port) (field p.params 4 4) with
      | none => refuse s .noCredit
      | some w =>
        let s : State := { s with challenges := s.challenges.filter fun c => c.nonce != nonce }
        let s := openSession s n .owner port iface addr udp w (segmentOf s port) (BitVec.ofNat 32 (field p.params 8 4))
        done s (openResult s n)

/-- RESERVE (R383). -/
def openReserve (s : State) (p : Packet) (n : Nat) : Ans :=
  match freeSession s, (sessGet s n) with
  | none, _ => refuse s .busy
  | _, none => refuse s .busy
  | some k, some x =>
    match grantWindow s x.segment (field p.params 4 4) with
    | none => refuse s .noCredit
    | some w =>
      let (b, s) := freeBytes s 16
      let r : Reservation :=
        { session := k, cls := if field p.params 1 1 = 1 then .operator else .job, window := w
          nonce := BitVec.ofNat 128 (leNat b), made := s.clock.dt }
      done { s with reservations := s.reservations ++ [r] } (toLE k 2 ++ List.replicate 14 0 ++ b)

/-- ADMIT (R383). The window is the reserved one, raised to the least that the segment size of the interface asks for (R357). -/
def openAdmit (s : State) (p : Packet) (port iface addr udp : Nat) : Ans :=
  let k := field p.params 2 2
  let nonce := BitVec.ofNat 128 (field p.params 16 16)
  match (liveReservations s).find? (fun r => r.session == k && r.nonce == nonce) with
  | none => refuse s .priv
  | some r =>
    let t : State := { s with reservations := s.reservations.filter fun x => x.session != k }
    match grantWindow t (segmentOf s port) r.window with
    | none => refuse s .noCredit
    | some w =>
      let t := openSession t k r.cls port iface addr udp w (segmentOf s port) (BitVec.ofNat 32 (field p.params 8 4))
      done t (openResult t k)

/-- The fields of SESSION_OPEN hold the mode, and those that it does not use are zero (R382). -/
def openFieldsOk (b : Bytes) (mode : Nat) : Bool :=
  field b 0 1 == mode && zeroAt b 12 4 && zeroAt b 172 4
    && (if mode = 2 then field b 1 1 == 1 || field b 1 1 == 2 else field b 1 1 == 0)
    && (mode == 3 || zeroAt b 2 2)
    && (mode == 1 || mode == 3 || zeroAt b 16 16)
    && (mode == 1 || (zeroAt b 32 8 && zeroAt b 40 132))

/-- SESSION_OPEN (R382, R383). -/
def cmdSessionOpen (w : Who) (p : Packet) (s : State) : Ans :=
  let mode := field p.params 0 1
  match p.origin with
  | .session n =>
    if mode ≠ 2 then refuse s .badParam
    else if w.cls ≠ .owner then refuse s .priv
    else if !openFieldsOk p.params 2 then refuse s .badParam
    else openReserve s p n
  | .boot port iface addr udp =>
    if mode = 2 then refuse s .priv
    else if 4 ≤ mode ∨ !openFieldsOk p.params mode then refuse s .badParam
    else if mode = 0 then openChallenge s
    else if mode = 1 then openClaim s p port iface addr udp
    else openAdmit s p port iface addr udp

/-- SESSION_CLOSE (R381, R385). -/
def cmdSessionClose (w : Who) (p : Packet) (s : State) : Ans :=
  let k := field p.params 0 2
  match w.session with
  | none => refuse s .priv
  | some n =>
    if k = 0xFFFF ∨ k = n then { code := .ok, st := s, close := some n }
    else if w.cls ≠ .owner then refuse s .priv
    else if 4096 ≤ k ∨ (sessGet s k).isNone then refuse s .badParam
    else done (closeSession s k)

/-- PING (R385). -/
def cmdPing (_ : Who) (_ : Packet) (s : State) : Ans := done s

/-- REG_READ (R385, R447). -/
def cmdRegRead (w : Who) (p : Packet) (s : State) : Ans :=
  let off := field p.params 0 4
  let n := field p.params 4 4
  if n < 1 ∨ 64 < n then refuse s .badParam
  else
    match regRead (regTouch s off n) w.cls off n with
    | .ok ws => done (regTouch s off n) (ws.flatMap fun x => toLE x.toNat 4)
    | .error c => refuse s c

/-- REG_WRITE (R385, R447). -/
def cmdRegWrite (w : Who) (p : Packet) (s : State) : Ans :=
  let off := field p.params 0 4
  let n := field p.params 4 4
  if n < 1 ∨ 64 < n then refuse s .badParam
  else
    let (c, s) := regWrite s w.cls off (wordsLE (slice p.params 8 (4 * n)))
    { code := c, st := s }

/-- TIME_QUERY: one value of DT (R286), with the time state, the source and the offset of the snapshot boundary (R373, R395;
DEDUCED, assumption 89). -/
def cmdTimeQuery (_ : Who) (_ : Packet) (s : State) : Ans :=
  done s (toLE (dtSec s) 8 ++ toLE (dtNs s) 4 ++ toLE (dtFrac s) 2
    ++ [BitVec.ofNat 8 (timeByte s.snap.time), BitVec.ofNat 8 s.snap.source]
    ++ toLE s.snap.offset.toNat 4 ++ toLE 0 4 ++ toLE s.beats 8)

/-- The image that a context runs (R393). -/
def runsImage (c : Ctx) : BitVec 64 := if c.recomputing then c.desc.recompute else c.desc.image

/-- The job status (R393). -/
def jobStatus (c : Ctx) : Bytes :=
  [BitVec.ofNat 8 (ctxStateByte c.state),
   if c.state = .failed then codeByte c.failCode else 0,
   BitVec.ofNat 8 (c.kvDemoted.toNat + 2 * c.refolded.toNat + 4 * c.group.toNat + 8 * c.cancelled.toNat),
   BitVec.ofNat 8 (c.slot.getD 0xFF)]
    ++ toLE c.step.toNat 4 ++ toLE c.stepsLeft.toNat 4 ++ toLE c.length 4 ++ toLE (runsImage c).toNat 8
    ++ toLE c.stateAt 8 ++ toLE c.failEvent.toNat 4 ++ List.replicate 12 0

/-- JOB_QUERY (R393). -/
def cmdJobQuery (w : Who) (p : Packet) (s : State) : Ans :=
  match namedCtx s p 0 with
  | none => refuse s .noContext
  | some c => if mayName w c.owner then done s (jobStatus c) else refuse s .priv

/-- DIGEST_READ: entries of the job's log from FIRST_SEQ on, up to the first that has been overwritten or is
not yet written (R328, R386). -/
def cmdDigestRead (w : Who) (p : Packet) (s : State) : Ans :=
  match namedCtx s p 0 with
  | none => refuse s .noContext
  | some c =>
    if !mayName w c.owner then refuse s .priv
    else if c.desc.logEntries = 0 ∨ !zeroAt p.params 2 6 then refuse s .badParam
    else
      let first := field p.params 8 8
      let most := min (field p.params 16 4) ((resultRoom s w - 8) / 32)
      let at_ (j : Nat) : Nat := c.desc.logBase + (j % c.desc.logEntries) * 32
      let there (j : Nat) : Bool :=
        decide (j < c.logged) && !anyPoison s (spanLinear (at_ j) 32) && field (spanRead s (at_ j) 32) 8 8 == j
      let js := ((List.range most).map (first + ·)).takeWhile there
      done s (toLE js.length 4 ++ toLE 0 4 ++ js.flatMap fun j => spanRead s (at_ j) 32)

/-! ## TELEMETRY_READ (R397, R494, R519, R520) -/

/-- The bytes of an event record (R396). -/
def eventBytes (e : Event) : Bytes :=
  toLE e.seq.toNat 4 ++ toLE (e.code.toNat + (if e.ctx.isSome then 0x8000 else 0)) 2 ++ toLE e.unit.toNat 2
    ++ toLE e.boundary 8 ++ toLE ((e.ctx.map (·.toNat)).getD 0) 2 ++ e.detail

/-- The record of temperature sensor i: its reading of the latest boundary and its limit (R494). -/
def sensorRecord (s : State) (i : Nat) : Bytes :=
  let limit := if i < 72 then 105 else Config.dramLimit (i - 72)
  toLE i 2 ++ toLE (s.power.sensors.temps.getD i 0) 2 ++ toLE limit 2 ++ toLE 0 2

/-- A rail record of selector 3. -/
def railRecord (r : Rail) : Bytes :=
  [BitVec.ofNat 8 r.index, BitVec.ofNat 8 r.status.toNat] ++ toLE 0 2 ++ toLE r.voutUv 4 ++ toLE r.ioutMa 4
    ++ toLE r.poutMw 4 ++ toLE ((r.tempC % 65536).toNat) 2 ++ List.replicate 6 0 ++ toLE r.polledAt 8

/-- The records of a selector that are shown at the snapshot boundary; none where no chapter defines it. -/
def telemetryRecords (s : State) (sel : Nat) : Option (Nat × List Bytes) :=
  match sel with
  | 1 => some (4, s.retired.map fun r => toLE r 4)
  | 2 => some (32, [toLE s.snap.counters.delayed 8 ++ toLE s.snap.counters.delayCycles 8 ++ toLE s.beats 8
        ++ toLE s.snap.counters.slips 8])
  | 3 => some (32, (List.range 17).map fun i => railRecord ((s.snap.rails.find? (·.index == i)).getD { index := i }))
  | 4 => some (8, (List.range 200).map (sensorRecord s))
  | 5 => some (16, s.snap.tests.channels.map fun (c, m, ce, ue) => toLE c 2 ++ toLE 0 2 ++ toLE m 4 ++ toLE ce 4 ++ toLE ue 4)
  | 6 => some (16, s.snap.tests.lanes.map fun (l, k, e) =>
        toLE l 2 ++ [BitVec.ofNat 8 k.toNat, 0] ++ toLE 0 4 ++ toLE e 8)
  | _ => none

/-- TELEMETRY_READ (R397). -/
def cmdTelemetry (w : Who) (p : Packet) (s : State) : Ans :=
  let sel := field p.params 0 2
  let first := field p.params 8 8
  let count := field p.params 16 4
  if !zeroAt p.params 2 6 then refuse s .badParam
  else if sel = 0 then
    let most := min count ((resultRoom s w - 16) / 32)
    let shown := (s.events.filter fun e => decide (e.boundary ≤ s.beats)).reverse
    let from_ := shown.dropWhile fun e => !serialGe e.seq (BitVec.ofNat 32 first)
    let es := from_.take most
    let f := (es.head?.map (·.seq.toNat)).getD first
    done s (toLE f 8 ++ toLE es.length 4 ++ toLE 0 4 ++ es.flatMap eventBytes)
  else
    match telemetryRecords s sel with
    | none => refuse s .badParam
    | some (size, rs) =>
      if sel = 2 ∧ first ≠ 0 then refuse s .badParam
      else
        let es := (rs.drop first).take (min count ((resultRoom s w - 16) / size))
        done s (toLE first 8 ++ toLE es.length 4 ++ toLE 0 4 ++ es.flatten)

end Sys2Proof.Machine
end

