-- ==== Sys2Proof/Machine/ImageParse.lean ====
section
/-! DEFINITION. A schedule image as a byte string: header, directory and sections (R94 to R99, R103, R104, R123,
R221, R222), the image that they give, and the checks of steps 1 and 5 of R125. -/

namespace Sys2Proof.Machine

open Sys2Proof

/-- Where an image breaks a rule, as R126 records it. -/
structure Broken where
  sec    : Nat
  index  : Nat := 0
  record : Nat := 0
  bundle : Nat := 0
  rule   : Nat
  deriving DecidableEq, Repr

/-- The outcome of a check: none when it passes. -/
abbrev Chk := Option Broken

/-- A condition that a section must meet. -/
def need (ok : Bool) (sec index rule : Nat) : Chk :=
  if ok then none else some { sec := sec, index := index, rule := rule }

/-- The first check of a list that fails. -/
def firstOf (l : List Chk) : Chk := l.findSome? id

/-- The first failure over a list. -/
def eachOf {α : Type} (l : List α) (f : α → Chk) : Chk := l.findSome? f

/-! ## Header and directory (R94, R95) -/

/-- A directory entry. -/
structure Section where
  kind   : Nat
  index  : Nat
  offset : Nat
  size   : Nat
  deriving DecidableEq, Repr

/-- The directory. -/
def sectionsOf (b : Bytes) : List Section :=
  (List.range (field b 30 2)).map fun i =>
    let o := 256 + 24 * i
    { kind := field b o 4, index := field b (o + 4) 4, offset := field b (o + 8) 8, size := field b (o + 16) 8 }

/-- A section's bytes. -/
def sectionBytes (b : Bytes) (x : Section) : Bytes := slice b x.offset x.size

/-- The bytes of the section of a kind and an index; none of them is empty in an image that step 5 passes. -/
def sectionOf (b : Bytes) (kind index : Nat) : Bytes :=
  (((sectionsOf b).find? fun x => x.kind == kind && x.index == index).map (sectionBytes b)).getD []

/-- Step 1 of R125 (R96). -/
def step1 (b : Bytes) : Bool :=
  decide (256 ≤ b.length) && field b 0 4 == 0x49474B53 && field b 4 2 == 1 && field b 32 8 == b.length
    && decide (256 + 24 * field b 30 2 ≤ b.length)
    && (match (sectionsOf b).filter (fun x => x.kind == 0xFF) with
        | [g] => g.size == 142 && decide (g.offset + 142 ≤ b.length)
            && (sectionsOf b).all fun x => decide (x.offset ≤ g.offset) && (x == g || x.offset != g.offset)
        | _ => false)

/-- The SIGNATURE section and the bytes that it signs (R96). -/
def signatureOf (b : Bytes) : Bytes × Bytes :=
  match (sectionsOf b).find? (fun x => x.kind == 0xFF) with
  | some g => (sectionBytes b g, b.take g.offset)
  | none => ([], b)

/-! ## Records of a section -/

/-- A section cut into records of n bytes. -/
def recordsOf (n : Nat) (b : Bytes) : List Bytes := (List.range (b.length / n)).map fun i => slice b (n * i) n

/-- The offsets of a program's parts: stride sets, beat records, bundles, end (R103). -/
def programParts (b : Bytes) : Nat × Nat × Nat × Nat :=
  let s := 16 + 48 * field b 0 2
  let r := s + 16 * field b 4 4
  (16, s, r, r + 32 * field b 8 4)

/-- The raw bundles of a program. -/
def rawBundles (b : Bytes) : List Bytes :=
  let (_, _, o, e) := programParts b
  recordsOf 32 (slice b o (e - o))

/-- The beat records of a program. -/
def beatRecsOf (b : Bytes) : List BeatRec :=
  let (_, o, e, _) := programParts b
  (recordsOf 16 (slice b o (e - o))).map beatRecOf

/-- The program of an engine from its bytes. -/
def programOf (engine : Nat) (b : Bytes) : Program :=
  let (o, e, _, _) := programParts b
  { engine := engine, strides := (recordsOf 48 (slice b o (e - o))).map stridesOf, beats := beatRecsOf b
    bundles := (rawBundles b).map fun x => (placedOf x).getD { cls := .nop, b := bundleOf .nop x }
    bytes := b.length }

/-- The first beat record that holds a bundle. -/
def recordOf (rs : List BeatRec) (bundle : Nat) : Nat :=
  (rs.findIdx? fun r => decide (r.first ≤ bundle ∧ bundle < r.first + r.count)).getD 0

/-- Reserved fields, ranges and encodings of a program (R103, R104, R106, R107, R259). -/
def programSyntax (sec index : Nat) (b : Bytes) : Chk :=
  let (_, _, o, e) := programParts b
  let rs := beatRecsOf b
  let bad (record bundle rule : Nat) : Broken := { sec := sec, index := index, record := record, bundle := bundle, rule := rule }
  firstOf
    [ need (decide (16 ≤ b.length) && decide (field b 0 2 ≤ 256) && zeroAt b 2 2
        && decide (1 ≤ field b 4 4 ∧ field b 4 4 ≤ 16384) && decide (field b 8 4 ≤ 8191) && zeroAt b 12 4
        && e == b.length) sec index 103
    , eachOf ((recordsOf 16 (slice b (o - 16 * field b 4 4) (16 * field b 4 4))).zipIdx) fun (x, i) =>
        let r := beatRecOf x
        if decide (r.count ≤ 4096) && decide (1 ≤ r.reps) && decide (r.first + r.count ≤ field b 8 4)
            && (r.strideSet == 0xFF || decide (r.strideSet < field b 0 2)) && zeroAt x 9 7
        then none else some (bad i 0 104)
    , eachOf ((rawBundles b).zipIdx) fun (x, i) =>
        match bundleClassOf (field x 2 1) with
        | none => some (bad (recordOf rs i) i 107)
        | some c =>
          if !bundleCommonOk x then some (bad (recordOf rs i) i 106)
          else if !bundleOperandsOk c x then some (bad (recordOf rs i) i 107)
          else if c == .mread && field (x.drop 12) 16 1 != 0
              && !isStack (localOf (BitVec.ofNat 64 (field (x.drop 12) 0 8))) then some (bad (recordOf rs i) i 259)
          else none ]

/-! ## Refold tables (R123) -/

/-- The programs of a refold table's body: engine, bytes. -/
def refoldProgs (fuel : Nat) (b : Bytes) : List (Nat × Bytes) :=
  match fuel with
  | 0 => []
  | fuel + 1 =>
    if b.length < 8 then []
    else (field b 0 4, slice b 8 (field b 4 4)) :: refoldProgs fuel (b.drop (8 + field b 4 4))

/-- A refold table. -/
def refoldOf (number : Nat) (b : Bytes) : Refold :=
  let n := field b 8 2
  { number := number, part := field b 0 2, mask := BitVec.ofNat 256 (field b 32 32)
    foots := (recordsOf 32 (slice b 64 (32 * n))).map footprintOf
    progs := (refoldProgs n (b.drop (64 + 32 * n))).map fun (e, x) => programOf e x }

/-- The index that a broken rule records (R126): the engine, and for a refold table its number in the upper half (DESIGN
CHOICE, assumption 74: R524 gives one field for it). -/
def ruleIndex (table : Option Nat) (e : Nat) : Nat := e + 65536 * table.getD 0

/-- The syntax of a refold table. Its ENGINE_PROGRAMs stand in ascending order of their engines (DESIGN CHOICE, assumption 106:
R123 asks for one for each engine of REQUIRED_MASK and names no order; the model refuses every other). -/
def refoldSyntax (number : Nat) (b : Bytes) : Chk :=
  let n := field b 8 2
  let mask := field b 32 32
  let ps := refoldProgs n (b.drop (64 + 32 * n))
  firstOf
    [ need (decide (64 ≤ b.length) && zeroAt b 2 6 && zeroAt b 10 22 && popCount 256 mask == n && decide (1 ≤ n)
        && decide (64 + 32 * n ≤ b.length) && ps.map (·.1) == bitsOf 256 mask
        && 64 + 32 * n + (ps.map fun (_, x) => 8 + x.length).sum == b.length) 6 (ruleIndex (some number) 0) 123
    , eachOf (recordsOf 32 (slice b 64 (32 * n))) fun x =>
        need (footprintOk x) 6 (ruleIndex (some number) (footprintOf x).engine) 99
    , eachOf ps fun (e, x) => programSyntax 6 (ruleIndex (some number) e) x ]

/-! ## Caldera programs (R221, R222) -/

/-- The raw kernel records of a CALDERA_PROGRAM. -/
def rawKernels (b : Bytes) : List Bytes := recordsOf 128 (slice b 32 (128 * field b 0 4))

/-- The kernel records of a stack's program. -/
def kernelsOf (id : BitVec 64) (stack : Nat) (b : Bytes) : List KernelRec :=
  (rawKernels b).map fun x => { code := (kernelCodeOf (field x 0 1)).getD .guidance, k := kernelOf id stack x }

/-- Reserved fields and encodings of a CALDERA_PROGRAM. -/
def calderaSyntax (stack : Nat) (b : Bytes) : Chk :=
  firstOf
    [ need (decide (1 ≤ field b 0 4 ∧ field b 0 4 ≤ 4096) && zeroAt b 4 28 && b.length == 32 + 128 * field b 0 4) 5 stack 221
    , eachOf ((rawKernels b).zipIdx) fun (x, i) =>
        match kernelCodeOf (field x 0 1) with
        | none => some { sec := 5, index := stack, record := i, rule := 232 }
        | some c =>
          let k := kernelOf 0 stack x
          if !kernelRecOk x || !paramsZero c k then some { sec := 5, index := stack, record := i, rule := 222 }
          else if !paramsCoded c k then some { sec := 5, index := stack, record := i, rule := paramsRuleNo c k }
          else none ]

/-! ## The whole image -/

/-- PLAN_DIGEST (R414). -/
def planDigest (b : Bytes) : BitVec 512 :=
  let tensors := (recordsOf 32 (sectionOf b 2 0)).flatMap fun t => slice t 0 4 ++ slice t 5 1 ++ slice t 24 8
  let kernels := ((sectionsOf b).filter fun x => x.kind == 5).flatMap fun x =>
    (rawKernels (sectionBytes b x)).flatMap fun k =>
      patch (patch k 2 (List.replicate 9 0)) 12 (List.replicate 4 0)
  sha512 (sectionOf b 1 0 ++ slice b 28 1 ++ tensors ++ kernels)

/-- The engines of the image's mask, ascending. -/
def maskEngines (m : BitVec 256) : List Nat := bitsOf 256 m.toNat

/-- The image that a byte string gives; `source` is where it lies. -/
def imageOf (b : Bytes) (source : Nat) : Image :=
  let id := BitVec.ofNat 64 (field b 8 8)
  let mask := BitVec.ofNat 256 (field b 40 32)
  let secs := sectionsOf b
  let raw := (maskEngines mask).map fun e => sectionOf b 4 e
  { id := id, aid := BitVec.ofNat 32 (field b 16 4), part := field b 6 2, beats := field b 20 4, mask := mask
    slots := field b 26 1, async := if field b 27 1 = 0 then 2 else field b 27 1, sr3 := field b 28 1 == 1
    members := field b 29 1
    ops := (recordsOf 64 (sectionOf b 1 0)).map opRecOf, tensors := (recordsOf 32 (sectionOf b 2 0)).map tensorOf
    foots := (recordsOf 32 (sectionOf b 3 0)).map footprintOf
    progs := (maskEngines mask).map fun e => programOf e (sectionOf b 4 e)
    calderas := (List.range 8).filterMap fun st =>
      if secs.any (fun x => x.kind == 5 && x.index == st) then some (st, kernelsOf id st (sectionOf b 5 st)) else none
    refolds := (List.range 16).filterMap fun n =>
      if secs.any (fun x => x.kind == 6 && x.index == n) then some (refoldOf n (sectionOf b 6 n)) else none
    source := source, size := b.length, digest := sha512 b, plan := planDigest b, loads := [], raw := raw }

/-! ## Step 5 -/

/-- Section counts and indices (R94, R95). -/
def countsOk (b : Bytes) : Bool :=
  let secs := sectionsOf b
  let of (k : Nat) : List Nat := (secs.filter fun x => x.kind == k).map (·.index)
  of 1 == [0] && of 2 == [0] && of 3 == [0] && of 0xFF == [0]
    && (of 4).length == popCount 256 (field b 40 32) && decide (of 4).Nodup && (of 4).all (field b 40 32).testBit
    && (of 5).all (fun i => decide (i < 8)) && decide (of 5).Nodup
    && (of 6).all (fun i => decide (i < 16)) && decide (of 6).Nodup
    && secs.all fun x => (1 ≤ x.kind && x.kind ≤ 6) || x.kind == 0xFF

/-- Offsets, alignment, overlap and padding of the sections (R95, R96). Bytes of the image after the end of the SIGNATURE section
must be zero too (DESIGN CHOICE, assumption 106: R96 speaks of padding between sections only, and no signature covers these). -/
def placesOk (b : Bytes) : Bool :=
  let secs := sectionsOf b
  let top := 256 + 24 * secs.length
  secs.all (fun x => x.offset % 64 == 0 && decide (top ≤ x.offset) && decide (x.offset + x.size ≤ b.length))
    && (secs.zipIdx).all (fun (x, i) => (secs.zipIdx).all fun (y, j) =>
        i == j || decide (x.offset + x.size ≤ y.offset) || decide (y.offset + y.size ≤ x.offset))
    && (b.zipIdx).all fun (v, i) => v == 0 || decide (i < top) || secs.any fun x => decide (x.offset ≤ i ∧ i < x.offset + x.size)

/-- The header's reserved bytes and ranges (R94). -/
def headerFieldsOk (b : Bytes) : Bool :=
  decide (1 ≤ field b 20 4 ∧ field b 20 4 ≤ 16777215) && field b 24 2 == popCount 256 (field b 40 32)
    && decide (1 ≤ field b 24 2 ∧ field b 24 2 ≤ 256) && decide (1 ≤ field b 26 1 ∧ field b 26 1 ≤ 64)
    && decide (field b 27 1 ≤ 4) && decide (field b 28 1 ≤ 1)
    && (field b 29 1 == 0 || decide (2 ≤ field b 29 1 ∧ field b 29 1 ≤ 64)) && zeroAt b 72 184

/-- Step 5 of R125. -/
def step5 (b : Bytes) : Chk :=
  let plan := sectionOf b 1 0
  let tens := sectionOf b 2 0
  let foot := sectionOf b 3 0
  firstOf
    [ need (headerFieldsOk b) 0 0 94, need (countsOk b) 0 0 95, need (placesOk b) 0 0 95
    , need (zeroAt (signatureOf b).1 140 2) 0xFF 0 96
    , need (plan.length % 64 == 0) 1 0 97
    , eachOf ((recordsOf 64 plan).zipIdx) fun (x, i) => if opRecOk x then none else some { sec := 1, record := i, rule := 97 }
    , need (tens.length % 32 == 0) 2 0 98
    , eachOf ((recordsOf 32 tens).zipIdx) fun (x, i) => if tensorOk x then none else some { sec := 2, record := i, rule := 98 }
    , need (foot.length == 32 * field b 24 2) 3 0 99
    , eachOf (recordsOf 32 foot) fun x => need (footprintOk x) 3 (footprintOf x).engine 99
    , eachOf (bitsOf 256 (field b 40 32)) fun e => programSyntax 4 e (sectionOf b 4 e)
    , eachOf ((sectionsOf b).filter fun x => x.kind == 5) fun x => calderaSyntax x.index (sectionBytes b x)
    , eachOf ((sectionsOf b).filter fun x => x.kind == 6) fun x => refoldSyntax x.index (sectionBytes b x) ]

end Sys2Proof.Machine
end

