-- ==== Sys2Proof/Machine/ImagePlan.lean ====
section
/-! DEFINITION. The checks of the numeric plan and of the footprints and addresses of a placement: steps 6, 7 and
8 of R125. -/

namespace Sys2Proof.Machine

open Sys2Proof

/-! ## Step 6: the numeric plan -/

/-- Where BF16 staging is permitted (R55). -/
def bf16Permitted (fmt : Nat) (sr sr3 : Bool) : Bool :=
  match fmt with
  | 4 | 5 | 7 => true
  | 3 | 6 | 9 => !sr || sr3
  | _ => false

/-- The auxiliary items of an operation in order; true for an input area, false for an output tensor (R145). -/
def auxKinds (o : OpRec) : List Bool :=
  List.replicate (prologueItems o) true ++
    (match chainOf o with
     | 1 | 2 | 3 | 5 => [true]
     | 6 => [true, true]
     | 7 | 8 | 9 | 10 | 14 => [false]
     | 11 | 13 => [true, false]
     | 12 => [true, true, false]
     | _ => [])

/-- The conditions of R144 on the prologue. -/
def prologueOk (o : OpRec) : Bool :=
  match prologueOf o with
  | 1 => o.aScaled
  | 2 => isInt o.aFmt && !o.aScaled && o.mixed
  | 3 => !o.aScaled && decide (fmtWidth o.aFmt ≤ 16)
  | 4 => !o.aScaled && (fmtWidth o.aFmt == 8 || fmtWidth o.aFmt == 16) && (rateWidth o == 8 || rateWidth o == 16)
  | _ => !o.aScaled

/-- The conditions of R144 on the chain. -/
def chainOk (sr3 : Bool) (o : OpRec) : Bool :=
  let c := chainOf o
  (if c = 7 ∨ c = 8 ∨ c = 13 ∨ c = 14 then o.dScaled && !o.ieee && !o.bf16Stage
   else if c = 9 then
    o.dScaled && !o.ieee && o.digestLayer == 0xFFFFFFFF && (!o.bf16Stage || bf16Permitted o.dFmt o.sr sr3)
   else !o.dScaled && !o.bf16Stage)
    && (!pairsColumns o || (o.n % 64 == 0 && o.tileN % 64 == 0))

/-- Tile shapes and splits (R127, R128). -/
def tilesOk (o : OpRec) : Bool :=
  o.tileM % 8 == 0 && decide (8 ≤ o.tileM ∧ o.tileM ≤ 4096) && o.tileN % 32 == 0 && decide (32 ≤ o.tileN ∧ o.tileN ≤ 4096)
    && decide (o.tileM * o.tileN * 4 ≤ 0x100000)

/-- K_SPLITS and TILE_K (R128). -/
def splitsOk (o : OpRec) : Bool :=
  decide (0 < o.tileK) && decide (1 ≤ o.kSplits) && o.kSplits == ceilDiv o.k o.tileK
    && (!(o.aScaled || o.bScaled) || o.tileK % 32 == 0)

/-- One operation record of an image. -/
def opChk (i : Image) (n : Nat) (o : OpRec) : Chk :=
  let rule (ok : Bool) (r : Nat) : Chk := if ok then none else some { sec := 1, record := n, rule := r }
  let has (t : Nat) : Bool := (tensorGet i t).isSome
  firstOf
    [ rule ((!o.aScaled || mayScale o.aFmt) && (!o.bScaled || mayScale o.bFmt) && (!o.dScaled || mayScale o.dFmt)) 42
    , rule (o.mixed || o.aFmt == o.bFmt) 45
    , rule (!o.bf16Stage || chainOf o == 9) 55
    , rule (tilesOk o) 127, rule (splitsOk o) 128
    , rule (prologueOk o && chainOk i.sr3 o) 144
    , rule (has o.tensorA && has o.tensorB && has o.tensorD) 97
    , rule ((List.range (auxKinds o).length).all (fun k => has (auxId o k)) && (!(auxKinds o).isEmpty || o.tensorAux == 0xFFFFFFFF)) 145
    , rule (chainOf o != 9 || (tensorGet i o.tensorD).any (fun t => t.fmt == (if o.bf16Stage then 1 else 0))) 164
    , rule (chainOf o == 9 || !needsResolve i o || (tensorGet i o.tensorD).any (fun t => t.fmt == o.dFmt)) 133 ]

/-- Step 6 of R125. -/
def step6 (i : Image) : Chk :=
  let srD := (i.ops.filter (·.sr)).map (·.tensorD)
  firstOf
    [ need (decide (i.tensors.map (·.id)).Nodup && i.tensors.all fun t => t.id != 0xFFFFFFFF) 2 0 98
    , need (i.tensors.all fun t => t.base != 2 || i.members != 0) 2 0 98
    , eachOf i.ops.zipIdx fun (o, n) => opChk i n o
    , need (decide srD.Nodup) 1 0 213 ]

/-! ## A placement and the bundles of its beats -/

/-- A placement under check: 0 the main one, or a refold table's number plus 1. -/
structure Place where
  img   : Image
  table : Option Nat
  foots : List Footprint
  progs : List Program
  deriving DecidableEq, Repr

/-- The main placement. -/
def mainPlace (i : Image) : Place := { img := i, table := none, foots := i.foots, progs := i.progs }

/-- A refold table's placement. -/
def refoldPlace (i : Image) (r : Refold) : Place :=
  { img := i, table := some r.number, foots := r.foots, progs := r.progs }

/-- A bundle in a beat of the pass: engine, beat record, index in its program. -/
structure Inst where
  e   : Nat
  recNo : Nat
  idx : Nat
  p   : Placed
  deriving DecidableEq, Repr

/-- The record that covers a beat, its index, and the repetition. -/
def recordIndex : List BeatRec → Nat → Nat → Option (Nat × BeatRec × Nat)
  | [], _, _ => none
  | r :: t, n, k => if n < r.reps then some (k, r, n) else recordIndex t (n - r.reps) (k + 1)

/-- The bundles of a program in a beat, in issue order. -/
def instsOf (p : Program) (beat : Nat) : List Inst :=
  match recordIndex p.beats beat 0 with
  | none => []
  | some (k, r, rep) => (recordBundles p r rep).zipIdx.map fun (b, j) =>
      { e := p.engine, recNo := k, idx := r.first + j, p := b }

/-- Every bundle of a beat. -/
def instsAt (x : Place) (beat : Nat) : List Inst := x.progs.flatMap fun p => instsOf p beat

/-- The first failure over the beats of a pass. -/
def eachBeat (x : Place) (f : Nat → List Inst → Chk) : Chk :=
  (List.range x.img.beats).findSome? fun b => f b (instsAt x b)

/-- The index that a broken rule of a placement records (R126). -/
def breakIndex (x : Place) (e : Nat) : Nat := ruleIndex x.table e

/-- A rule that a bundle of a placement breaks. -/
def breaks (x : Place) (v : Inst) (rule : Nat) : Broken :=
  { sec := if x.table.isNone then 4 else 6, index := breakIndex x v.e, record := v.recNo, bundle := v.idx, rule := rule }

/-- A condition on a bundle. -/
def needs (x : Place) (v : Inst) (ok : Bool) (rule : Nat) : Chk := if ok then none else some (breaks x v rule)

/-! ## Geometry without a job: BASE 1 tensors at base 0 (R535) -/

/-- r of R133 for a destination known at load. A BASE 2 tensor counts for every other device: member indices have no node
IDs before GROUP_JOIN (DESIGN CHOICE, assumption 92). -/
def destStatic (i : Image) (o : OpRec) (dest : BitVec 64) : Option Nat :=
  (tensorGet i o.tensorD).bind fun t =>
    let a := localOf dest
    let inWin (x : Nat) : Bool := decide (sramBase ≤ x ∧ x < sramBase + 0x40000000)
    let pick (x y : Nat) : Option Nat := if y ≤ x ∧ x < y + t.size then some (x - y) else none
    if t.base = 0 ∧ inWin t.addr ∧ inWin a then pick ((a - sramBase) % 2 ^ 22) (t.addr % 2 ^ 22)
    else if t.base = 2 then (if nodeOf dest = 0xFFFF then none else pick a (t.addr % 2 ^ 48))
    else if nodeOf dest = 0xFFFF then pick a t.addr
    else none

/-- The column of a destination (R133). -/
def colStatic (i : Image) (o : OpRec) (dest : BitVec 64) : Nat :=
  match destStatic i o dest, tensorGet i o.tensorD with
  | some r, some t => if t.stride = 0 then 0 else (r % t.stride) * 8 / destWidth i o
  | _, _ => 0

/-- The padded row of a destination (R133). -/
def rowStatic (i : Image) (o : OpRec) (dest : BitVec 64) : Nat :=
  match destStatic i o dest, tensorGet i o.tensorD with
  | some r, some t => if t.stride = 0 then 0 else r / t.stride
  | _, _ => 0

/-- W of R533 where a mode-1 score operation writes its pairs (R172): the row's record gives the N-tile. -/
def epiWidthStat (i : Image) (o : OpRec) (b : Bundle) : Nat :=
  tileWidth o (match destStatic i o b.addr, tensorGet i o.tensorD with
    | some r, some t => if t.stride = 0 then 0 else (r % t.stride) / 8 * o.tileN
    | _, _ => 0)

/-- W of R533 for an EPI. -/
def epiWidth (i : Image) (o : OpRec) (b : Bundle) : Nat := tileWidth o (colStatic i o b.addr)

/-- The stored columns of an EPI row (R158). -/
def epiOut (i : Image) (o : OpRec) (b : Bundle) : Nat := if pairsColumns o then epiWidth i o b / 2 else epiWidth i o b

/-- Whether the operation may be a mode-1 score operation, which only its run-time header says (R170, R172). -/
def maybeStat (o : OpRec) : Bool := prologueOf o == 4 && o.dFmt == 0 && !o.dScaled

/-- Cycles between the rows of a ROWS bundle (R71). -/
def rowStep2 (o : OpRec) : Nat := if depthOf o = 32 then 2 else 1

/-- The issue of the last row of a ROWS bundle. -/
def lastRow (o : OpRec) (b : Bundle) : Nat := b.issue + (b.rows - 1) * rowStep2 o

/-- The last output of an EPI (R112, R143). -/
def epiLast (i : Image) (o : OpRec) (b : Bundle) : Nat :=
  let n := b.rows * epiWidth i o b
  b.issue + 6 + ceilDiv n 64 + addedLatency o n

/-- The last AM read of an EPI (R112, R163). -/
def epiLastRead (i : Image) (o : OpRec) (b : Bundle) : Nat :=
  let n := ceilDiv (b.rows * epiWidth i o b) 64
  b.issue + 1 + (if chainOf o = 8 then 2 * n else n)

/-- A run of bytes of an engine's SRAM that a bundle touches: 0 AB, 1 AM, 2 WS; the cycles of the beat. -/
structure Touch where
  mem   : Nat
  off   : Nat
  n     : Nat
  write : Bool
  c0    : Nat
  c1    : Nat
  deriving DecidableEq, Repr

/-- The SRAM part of a window offset, and the offset in it. -/
def splitOff (off : Nat) : Nat × Nat :=
  if off < 0x180000 then (0, off) else if off < 0x280000 then (1, off - 0x180000) else (2, off - 0x280000)

/-- A part of an input area that a bundle reads: AB offset, bytes, first and last cycle of the reads (R148). -/
structure AreaRead where
  ab : Nat
  n  : Nat
  c0 : Nat
  c1 : Nat
  deriving DecidableEq, Repr

/-- A part of an area from an offset, clipped to its SIZE. -/
def areaReadOf (a : Area) (off n c0 c1 : Nat) : AreaRead := { ab := a.ab + off, n := min n (a.size - off), c0 := c0, c1 := c1 }

/-- The parts of its prologue's area that a ROWS bundle reads: per-K parameters and headers at the issue, each row's record
in the row's AB read cycles, and the axis tables, whose entries only run-time data names, through the bundle (R148). -/
def rowsAreaReads (i : Image) (o : OpRec) (b : Bundle) : List AreaRead :=
  match areaOf i o.tensorAux with
  | none => []
  | some a =>
    let c (j : Nat) : Nat := b.issue + j * rowStep2 o
    match prologueOf o with
    | 2 => (commonParts o b.kStep).map fun (off, n) => areaReadOf a off n b.issue b.issue
    | 3 | 4 =>
      ((commonParts o b.kStep).map fun (off, n) => areaReadOf a off n b.issue b.issue)
        ++ ((List.range b.rows).map fun j => let (off, n) := ownPart o a j; areaReadOf a off n (c j) (c j + 1))
        ++ (if prologueOf o = 4 then [areaReadOf a (64 + 8 * b.rows) a.size b.issue (lastRow o b + 1)] else [])
    | _ => []

/-- The parts of an E4 area that an EPI of w columns may read: its header, and its columns of the vectors of each conditioning
sample that one of its rows can name, the header's Q being 1 or more (R147, R157). -/
def e4AreaParts (i : Image) (o : OpRec) (b : Bundle) (a : Area) (w : Nat) : List (Nat × Nat) :=
  let rows := (List.range b.rows).map fun j => rowStatic i o (b.addr + BitVec.ofNat 64 (j * b.dstStride))
  let held := if a.stride = 0 then 1 else ceilDiv (a.size - 32) a.stride
  (0, 32) :: (List.range (min held (rows.foldl max 0 + 1))).flatMap fun c => (List.range 3).map fun v =>
    (32 + c * a.stride + 4 * (v * npadOf o + colStatic i o b.addr), 4 * w)

/-- The parts of its areas that an EPI reads, from c + 2 to its last AM read: biases of its columns, residual rows,
conditioning vectors, and a P4 header. -/
def epiAreaReads (i : Image) (o : OpRec) (b : Bundle) : List AreaRead :=
  let c0 := b.issue + 2
  let c1 := epiLastRead i o b
  let w := epiWidth i o b
  let area (k : Nat) : List Area := (areaOf i (auxId o (prologueItems o + k))).toList
  let residual (k : Nat) : List AreaRead := (area k).flatMap fun a =>
    (List.range b.rows).map fun j => areaReadOf a (j * a.stride) (w * (fmtWidth a.fmt / 8)) c0 c1
  let e4 (l : List Area) : List AreaRead := l.flatMap fun a =>
    (e4AreaParts i o b a w).map fun (off, n) => areaReadOf a off n c0 c1
  (match chainOf o with
   | 1 | 2 | 13 => (area 0).map fun a => areaReadOf a (4 * colStatic i o b.addr) (4 * w) c0 c1
   | 3 | 11 => residual 0
   | 5 => e4 (area 0)
   | 6 | 12 => e4 (area 0) ++ residual 1
   | _ => [])
    ++ (if prologueOf o = 4 then (areaOf i o.tensorAux).toList.map fun a => areaReadOf a 0 64 c0 c1 else [])

/-- The parts of input areas that a bundle reads (R146, R148). -/
def areaReads (i : Image) (cls : BundleClass) (o : OpRec) (b : Bundle) : List AreaRead :=
  match cls with
  | .rows => rowsAreaReads i o b
  | .epi => epiAreaReads i o b
  | _ => []

/-- One piece of an EPI's output: global address, bytes, the cycle of its last output, and how many cycles before the last
of the EPI's bytes its own land as a remote write (R65, R167). -/
structure Piece where
  addr : BitVec 64
  n    : Nat
  out  : Nat
  lag  : Nat := 0
  deriving DecidableEq, Repr

/-- The address of an entry of an output tensor, BASE 1 at base 0 (R149). -/
def outStatic (i : Image) (id row off : Nat) : Option (BitVec 64) :=
  (tensorGet i id).map fun t =>
    let a := t.addr % 2 ^ 48 + row * t.stride + off
    BitVec.ofNat 64 ((if t.base = 2 then t.addr / 2 ^ 48 else 0xFFFF) * 2 ^ 48 + a)

/-- The bytes of a result row of an EPI. -/
def epiRowBytes (i : Image) (o : OpRec) (b : Bundle) : Nat := packedBytes (destWidth i o) (epiOut i o b)

/-- The cycle in which the results of AM element x of an EPI's tile leave the EPU (R112, R143). -/
def epiOutCycle (i : Image) (o : OpRec) (b : Bundle) (x : Nat) : Nat :=
  b.issue + 7 + x / 64 + addedLatency o (b.rows * epiWidth i o b)

/-- How long before the last of an EPI's n × rows bytes the last byte of row j lands, at 256 B per cycle (R65). -/
def rowLag (rows n j : Nat) : Nat := ceilDiv (rows * n) 256 - ceilDiv ((j + 1) * n) 256

/-- The auxiliary items of an operation that are output tensors (R145). -/
def outputAux (o : OpRec) : List Nat := (auxKinds o).zipIdx.filterMap fun (area, k) => if area then none else some k

/-- Row j's entry in an output tensor of an EPI: its row, its byte offset in it, its bytes (R149). -/
def outEntry (i : Image) (o : OpRec) (b : Bundle) (j : Nat) : Nat × Nat × Nat :=
  let dest := b.addr + BitVec.ofNat 64 (j * b.dstStride)
  let col := colStatic i o dest
  let scale := o.dScaled && chainOf o != 9
  (rowStatic i o dest, if scale then col / 32 else 4 * ((if pairsColumns o then 2 * col else col) / o.tileN),
    if scale then ceilDiv (epiOut i o b) 32 else 4)

/-- Whether every output tensor of an EPI holds the entries of its rows within its SIZE (R132, R149). -/
def entriesHeld (i : Image) (o : OpRec) (b : Bundle) : Bool :=
  (outputAux o).all fun k => (tensorGet i (auxId o k)).all fun t => (List.range b.rows).all fun j =>
    let (row, off, len) := outEntry i o b j
    decide (row * t.stride + off + len ≤ t.size)

/-- What an EPI writes: its rows, then its output tensors' entries (R149). -/
def epiPieces (i : Image) (o : OpRec) (b : Bundle) : List Piece :=
  let w := epiWidth i o b
  let n := epiRowBytes i o b
  let out (j : Nat) : Nat := epiOutCycle i o b ((j + 1) * w - 1)
  let rows := (List.range b.rows).map fun j =>
    { addr := b.addr + BitVec.ofNat 64 (j * b.dstStride), n := n, out := out j, lag := rowLag b.rows n j : Piece }
  rows ++ (outputAux o).flatMap fun k => (List.range b.rows).filterMap fun j =>
    let (row, off, len) := outEntry i o b j
    (outStatic i (auxId o k) row off).map fun a => { addr := a, n := len, out := out j : Piece }

/-- The bytes that an EPI writes, cut by the cycles in which they leave the EPU (R65). -/
def epiOuts (i : Image) (o : OpRec) (b : Bundle) : List Piece :=
  let w := epiWidth i o b
  let n := epiRowBytes i o b
  let rows := (List.range b.rows).flatMap fun j =>
    (List.range (((j + 1) * w - 1) / 64 + 1 - j * w / 64)).map fun k =>
      let lo := max (j * w) (64 * (j * w / 64 + k)) - j * w
      let hi := min ((j + 1) * w) (64 * (j * w / 64 + k + 1)) - j * w
      { addr := b.addr + BitVec.ofNat 64 (j * b.dstStride + lo * n / w), n := hi * n / w - lo * n / w
        out := epiOutCycle i o b (j * w + lo) : Piece }
  rows ++ (epiPieces i o b).drop b.rows

/-- The engine and window offset of an address in an engine window of this device. -/
def windowOf (a : BitVec 64) : Option (Nat × Nat) :=
  let x := localOf a
  if nodeOf a = 0xFFFF ∧ sramBase ≤ x ∧ x < sramBase + 0x40000000 then
    some ((x - sramBase) / 0x400000, (x - sramBase) % 0x400000)
  else none

/-- What a bundle touches in its own engine's SRAM. -/
def touches (i : Image) (v : Inst) : List Touch :=
  let b := v.p.b
  let c := b.issue
  match v.p.cls, opOf i b.op with
  | .rows, some o =>
    let f := rowStep2 o
    (List.range b.rows).flatMap (fun j =>
      { mem := 0, off := b.abOff + j * b.abStride, n := actBytes o, write := false, c0 := c + j * f, c1 := c + j * f + 1 : Touch }
        :: (arraysOf b).map fun k =>
          { mem := 1, off := b.amOff + j * b.amStride + 128 * k, n := 128, write := true
            c0 := c + j * f + 38 + f, c1 := c + j * f + 40 + f })
      ++ (areaReads i .rows o b).map fun a => { mem := 0, off := a.ab, n := a.n, write := false, c0 := a.c0, c1 := a.c1 }
  | .wload, some o =>
    (arraysOf b).map fun k =>
      { mem := 2, off := b.wsOff + k * b.abStride, n := tileBytes o, write := false, c0 := c
        c1 := c + 1 + ceilDiv (tileElemBytes o) 256 }
  | .epi, some o =>
    { mem := 1, off := b.amOff, n := b.rows * 4 * epiWidth i o b, write := false, c0 := c + 2, c1 := epiLastRead i o b : Touch }
      :: (areaReads i .epi o b).map (fun a => { mem := 0, off := a.ab, n := a.n, write := false, c0 := a.c0, c1 := a.c1 })
      ++ (epiOuts i o b).filterMap fun q => match windowOf q.addr with
          | some (t, off) => if t = v.e then
              some { mem := (splitOff off).1, off := (splitOff off).2, n := q.n, write := true, c0 := q.out, c1 := q.out }
            else none
          | none => none
  | .mread, _ =>
    { mem := (splitOff b.abOff).1, off := (splitOff b.abOff).2, n := b.size, write := true
      c0 := b.due + 1 - ceilDiv b.size 256, c1 := b.due : Touch }
      :: match windowOf b.addr with
         | some (t, off) => if t = v.e then
             [{ mem := (splitOff off).1, off := (splitOff off).2, n := b.size, write := false, c0 := c + 32, c1 := c + 31 + b.size / 256 }]
           else []
         | none => []
  | .mwrite, _ => [{ mem := 0, off := b.abOff, n := b.size, write := false, c0 := c, c1 := c + b.size / 256 }]
  | .atomic, _ =>
    { mem := 0, off := b.abOff, n := if b.kind = .cas then 2 * b.size else b.size, write := false, c0 := c, c1 := c : Touch }
      :: (if b.kind = .atomicAdd then [] else [{ mem := 0, off := b.retOff, n := b.size, write := true, c0 := b.due, c1 := b.due }])
  | _, _ => []

/-- What an MREAD reads of another engine's window: the engine, the range (R100, R114). -/
def foreignRead (v : Inst) : Option (Nat × Touch) :=
  match v.p.cls, windowOf v.p.b.addr with
  | .mread, some (t, off) => if t = v.e then none else
      some (t, { mem := (splitOff off).1, off := (splitOff off).2, n := v.p.b.size, write := false, c0 := v.p.b.issue, c1 := v.p.b.due })
  | _, _ => none

/-- The end of a footprint's part. -/
def footEnd (f : Footprint) (mem : Nat) : Nat :=
  match mem with
  | 0 => f.ab
  | 1 => f.am
  | _ => f.ws

/-! ## Step 7 -/

/-- Step 7 of R125 for a placement. -/
def step7 (x : Place) : Chk :=
  let at_ (sec e : Nat) : Broken := { sec := if x.table.isNone then sec else 6, index := breakIndex x e, rule := 0 }
  let req (ok : Bool) (sec e rule : Nat) : Chk := if ok then none else some { at_ sec e with rule := rule }
  firstOf
    [ req (x.foots.map (·.engine) == x.progs.map (·.engine)) 3 0 99
    , eachOf x.foots fun f => req (decide (f.ab ≤ 0x180000) && decide (f.am ≤ 0x100000) && decide (f.ws ≤ 0x80000)
        && decide (f.is ≤ 0x40000)) 3 f.engine 100
    , eachOf (x.foots.zip x.progs) fun (f, p) => req (f.is == p.bytes) 3 f.engine 99
    , eachOf x.progs fun p => req ((p.beats.map (·.reps)).sum == x.img.beats) 4 p.engine 104
    , eachBeat x fun _ vs => eachOf vs fun v =>
        match x.foots.find? (·.engine == v.e) with
        | none => some (breaks x v 100)
        | some f =>
          let all := touches x.img v ++ (if v.p.cls = .arrive then
            [{ mem := (splitOff v.p.b.abOff).1, off := (splitOff v.p.b.abOff).2, n := v.p.b.size, write := true, c0 := 0, c1 := 0 }] else [])
          needs x v (all.all (fun t => decide (t.off + t.n ≤ footEnd f t.mem)) && (foreignRead v).all fun (e, t) =>
            (x.foots.find? (·.engine == e)).any fun g => decide (t.off + t.n ≤ footEnd g t.mem)) 100 ]

/-! ## Step 8 -/

/-- The first and last address of a span, and the first of each 4 KiB granule that it enters. -/
def spanEnds (a n : Nat) : List Nat :=
  a :: (a + n - 1) :: (List.range (n / 4096 + 1)).map fun i => min (a + n - 1) ((a / 4096 + i + 1) * 4096)

/-- Whether a local span is open to an image and implemented, in one region (R31, R32, R275); a fence does not
count (an image may name fenced engines, R125). -/
def spanStatic (s : State) (a n : Nat) : Bool :=
  sameRegion a (a + n - 1) && (spanEnds a n).all fun y => openToImage y && !(isStack y && isRetired s (linearOf y))

/-- Whether a span of another device's memory lies in one region that is open to an image (R31, R32). What that device has
retired, this one does not know. -/
def spanElsewhere (a n : Nat) : Bool :=
  sameRegion a (a + n - 1) && (spanEnds a n).all openToImage

/-- Whether a bundle's addresses may be named (R31, R32, R107, R113). -/
def addrOk (s : State) (i : Image) (v : Inst) : Bool :=
  let b := v.p.b
  let one (a : BitVec 64) (n : Nat) : Bool :=
    if nodeOf a = 0xFFFF then spanStatic s (localOf a) n else spanElsewhere (localOf a) n
  match v.p.cls with
  | .mread => nodeOf b.addr == 0xFFFF && one b.addr b.size
  | .mwrite => one b.addr b.size
  | .atomic =>
    one b.addr b.size && (b.kind == .atomicAdd || nodeOf b.addr == 0xFFFF)
      && (nodeOf b.addr != 0xFFFF || isStack (localOf b.addr) || regionOf (localOf b.addr) == .hubGeneral)
  | .epi => match opOf i b.op with
    | some o => (epiPieces i o b).all fun q => one q.addr q.n
    | none => false
  | _ => true

/-- Ranges of operands (R107, R139) and alignments (R132). -/
def operandsOk (i : Image) (v : Inst) : Nat :=
  let b := v.p.b
  match v.p.cls with
  | .rows =>
    if (opOf i b.op).isNone then 106 else if b.rows < 1 ∨ 256 < b.rows then 107
    else if b.abOff % 32 = 0 ∧ b.abStride % 32 = 0 ∧ b.amOff % 128 = 0 ∧ b.amStride % 128 = 0 then 0 else 132
  | .wload => if (opOf i b.op).isNone then 106 else if b.wsOff % 256 = 0 ∧ b.abStride % 256 = 0 then 0 else 132
  | .epi =>
    if (opOf i b.op).isNone then 106 else if b.rows < 1 ∨ 256 < b.rows then 107 else if b.amOff % 128 = 0 then 0 else 132
  | .mread =>
    if b.size % 256 = 0 ∧ 256 ≤ b.size ∧ b.size ≤ 65536 ∧ (splitOff b.abOff).1 ≠ 1 ∧ b.abOff < 0x300000 then 0 else 107
  | .mwrite => if b.size % 256 = 0 ∧ 256 ≤ b.size ∧ b.size ≤ 65536 then 0 else 107
  | .atomic => if localOf b.addr % b.size = 0 then 0 else 139
  | .arrive => if b.abOff < 0x300000 then 0 else 107
  | _ => 0

/-- Whether row j of an EPI ends inside TENSOR_D when it begins there (R132, R133). A row that may be a mode-1 pair counts
with the 8 bytes of the pair. -/
def rowHeld (i : Image) (o : OpRec) (b : Bundle) (j : Nat) : Bool :=
  match destStatic i o (b.addr + BitVec.ofNat 64 (j * b.dstStride)), tensorGet i o.tensorD with
  | some r, some t => decide (r + (if maybeStat o then 8 else epiRowBytes i o b) ≤ t.size)
  | _, _ => true

/-- Whether every EPI destination of an operation that needs it resolves, with all its elements (R133). -/
def resolves (i : Image) (v : Inst) : Bool :=
  match v.p.cls, opOf i v.p.b.op with
  | .epi, some o => !needsResolve i o || (List.range v.p.b.rows).all fun j =>
      rowHeld i o v.p.b j && (destStatic i o (v.p.b.addr + BitVec.ofNat 64 (j * v.p.b.dstStride))).isSome
  | _, _ => true

/-- Whether a span of bytes lies in one declared tensor, BASE 1 at a tensor base of 0 (R132, R535). For another device's
memory the member index of a BASE 2 tensor counts as the node ID in the bundle's address (DESIGN CHOICE, assumption 92). -/
def declared (i : Image) (a : BitVec 64) (n : Nat) : Bool :=
  i.tensors.any fun t =>
    (if nodeOf a = 0xFFFF then t.base != 2 else t.base == 2 && decide (t.addr / 2 ^ 48 = nodeOf a))
      && decide (t.addr % 2 ^ 48 ≤ localOf a ∧ localOf a + n ≤ t.addr % 2 ^ 48 + t.size)

/-- Whether a declared tensor holds one byte. -/
def declaredAt (i : Image) (a : BitVec 64) : Bool := declared i a 1

/-- Whether a run of bytes of an engine's window that begins inside a declared tensor ends inside one (R132). Windows also hold
bytes that no tensor declares, as tiles in flight, and partial sums: a run that begins among them is held to no tensor, and so is
the engine's own end of a transfer, which carries whole tiles (DESIGN CHOICE, assumption 112). -/
def windowHeld (i : Image) (a : BitVec 64) (n : Nat) : Bool := !declaredAt i a || declared i a n

/-- The global address of a run of bytes of an engine's SRAM. -/
def touchAddr (e : Nat) (t : Touch) : BitVec 64 :=
  BitVec.ofNat 64 (0xFFFF * 2 ^ 48 + sramBase + e * 0x400000 + (match t.mem with | 0 => 0 | 1 => 0x180000 | _ => 0x280000) + t.off)

/-- Whether a bundle stays inside the declared tensors: its bytes of stack memory and hub SRAM in one, its output tensors'
entries in their own, and what a ROWS, a WLOAD or an EPI touches of engine SRAM within the tensors in which its runs begin (R132). -/
def containedOk (i : Image) (v : Inst) : Bool :=
  let b := v.p.b
  let one (a : BitVec 64) (n : Nat) : Bool :=
    if isStack (localOf a) || regionOf (localOf a) == .hubGeneral then declared i a n else windowHeld i a n
  let local_ : Bool := (touches i v).all fun t => windowHeld i (touchAddr v.e t) t.n
  match v.p.cls with
  | .mread | .mwrite | .atomic => one b.addr b.size
  | .epi => match opOf i b.op with
    | some o => local_ && (List.range b.rows).all (rowHeld i o b) && entriesHeld i o b && (epiPieces i o b).all fun q => one q.addr q.n
    | none => local_
  | _ => local_

/-- Whether a tensor lies in one implemented region that is open to an image (R31, R32, R98), BASE 1 at a tensor base of 0
(R535). -/
def tensorOpen (s : State) (t : Tensor) : Bool := t.base == 2 || t.size == 0 || spanStatic s t.addr t.size

/-- Whether an operation's input areas lie in AB in a format that areas may have (R146). -/
def areasOk (i : Image) (o : OpRec) : Bool :=
  (auxKinds o).zipIdx.all fun (area, k) => !area || (tensorGet i (auxId o k)).all fun t =>
    t.base == 0 && decide (t.fmt ≤ 2) && decide (sramBase ≤ t.addr ∧ t.addr < sramBase + 0x40000000)
      && decide ((t.addr - sramBase) % 0x400000 + t.size ≤ 0x180000)

/-- Step 8 of R125 for a placement. -/
def step8 (s : State) (x : Place) : Chk :=
  firstOf
    [ eachOf x.img.tensors fun t => if tensorOpen s t then none else some { sec := 2, rule := 32 }
    , eachOf x.img.ops.zipIdx fun (o, n) =>
        if areasOk x.img o then none else some { sec := 1, record := n, rule := 146 }
    , eachBeat x fun _ vs => eachOf vs fun v =>
        let r := operandsOk x.img v
        if r ≠ 0 then some (breaks x v r)
        else if !addrOk s x.img v then some (breaks x v 32)
        else if !containedOk x.img v then some (breaks x v 132)
        else if !resolves x.img v then some (breaks x v 133) else none ]

end Sys2Proof.Machine
end

