-- ==== Sys2Proof/Machine/ImageTiming.lean ====
section
/-! DEFINITION. The checks of issue and timing, and of visibility and arrival, of a placement: steps 9 and 10 of
R125. Every bundle address is static; the checks take BASE 1 tensors at a tensor base of 0 (R535). -/

namespace Sys2Proof.Machine

open Sys2Proof

/-! ## Small helpers -/

/-- The first failure over ordered pairs, the earlier element first. -/
def eachPair {α : Type} : List α → (α → α → Chk) → Chk
  | [], _ => none
  | u :: t, f =>
    match t.findSome? (f u) with
    | some b => some b
    | none => eachPair t f

/-- Whether two touches have a byte in common. -/
def touchMeets (t u : Touch) : Bool := t.mem == u.mem && meets t.off t.n u.off u.n

/-- Whether two touches have a cycle in common. -/
def cyclesMeet (t u : Touch) : Bool := decide (t.c0 ≤ u.c1) && decide (u.c0 ≤ t.c1)

/-- The operation of a bundle of a class. -/
def opIf (i : Image) (v : Inst) (cls : BundleClass) : Option OpRec := if v.p.cls = cls then opOf i v.p.b.op else none

/-- Whether two bundles name an array in common. -/
def sharesArray (u v : Inst) : Bool := (u.p.b.arrays &&& v.p.b.arrays) != 0

/-- The load time L of a weight tile (R68). -/
def loadCycles (o : OpRec) : Nat := ceilDiv (tileElemBytes o) 256 + (if o.bScaled then 1 else 0)

/-- Every beat of every engine of a placement. -/
def eachEngineBeat (x : Place) (f : Nat → List Inst → Chk) : Chk :=
  eachOf x.progs fun p => (List.range x.img.beats).findSome? fun b => f b (instsOf p b)

/-! ## Issue (R108, R109) -/

/-- ARRAYS masks and the order and spacing of issues of one engine in one beat. -/
def issueChk (x : Place) (vs : List Inst) : Chk :=
  firstOf
    [ eachOf vs fun v => needs x v ((v.p.b.arrays != 0) == (v.p.cls == .rows || v.p.cls == .wload)) 108
    , eachPair vs fun u v => needs x v (decide (u.p.b.issue < v.p.b.issue)) 109
    , eachPair vs fun u v =>
        match opIf x.img u .rows, opIf x.img v .rows with
        | some o, some _ => needs x v (!sharesArray u v || decide (lastRow o u.p.b + rowStep2 o ≤ v.p.b.issue)) 109
        | _, _ => none
    , eachPair vs fun u v =>
        match opIf x.img u .epi, opIf x.img v .epi with
        | some o, some _ => needs x v (decide (epiLast x.img o u.p.b < v.p.b.issue)) 109
        | _, _ => none ]

/-! ## Tags (R110) -/

/-- A setting of a tag: the beat and the due cycle in which it lands, and whether a bundle has waited on it. -/
structure Setting where
  tag    : BitVec 4
  beat   : Nat
  due    : Nat
  waited : Bool
  deriving DecidableEq, Repr

/-- Whether a bundle has a completion that can set a tag (R107). -/
def completes (p : Placed) : Bool :=
  match p.cls with
  | .mread | .fence | .arrive => true
  | .atomic => p.b.kind != .atomicAdd
  | _ => false

/-- Whether every tag that a bundle waits on has a setting that lands in this beat, at or before its issue. -/
def waitsOk (beat : Nat) (l : List Setting) (b : Bundle) : Bool :=
  (bitsOf 16 b.waitMask.toNat).all fun t =>
    (l.find? (fun y => y.tag.toNat == t)).any fun y => y.beat == beat && decide (y.due ≤ b.issue)

/-- Whether a bundle may set its tag: every earlier setting has been waited on, by it or before it. -/
def setsOk (beat : Nat) (l : List Setting) (p : Placed) : Bool :=
  match p.b.setTag with
  | none => true
  | some t => completes p && l.all fun y =>
      y.tag != t || y.waited || (y.beat == beat && p.b.waitMask.toNat.testBit t.toNat)

/-- The settings after a bundle. -/
def settingsAfter (beat : Nat) (l : List Setting) (b : Bundle) : List Setting :=
  let l := l.map fun y => if b.waitMask.toNat.testBit y.tag.toNat then { y with waited := true } else y
  match b.setTag with
  | none => l
  | some t => { tag := t, beat := beat + b.dueBeat, due := b.due, waited := false } :: l

/-- The tags of one engine through the beats of the pass. -/
def tagsChk (x : Place) : List (Nat × Inst) → List Setting → Chk
  | [], _ => none
  | (beat, v) :: t, l =>
    let l := l.filter fun y => decide (beat ≤ y.beat)
    if waitsOk beat l v.p.b && setsOk beat l v.p then tagsChk x t (settingsAfter beat l v.p.b)
    else some (breaks x v 110)

/-- Every bundle of a program through the pass, with its beat. -/
def passInsts (x : Place) (p : Program) : List (Nat × Inst) :=
  (List.range x.img.beats).flatMap fun b => (instsOf p b).map fun v => (b, v)

/-! ## Latencies and limits (R111, R113, R114, R534) -/

/-- The route of an address of this device. -/
def staticRoute (v : Inst) (a : BitVec 64) : Route := routeOf v.e (linearOf (localOf a))

/-- When a write of a route has taken place, counted from its last byte's departure (R114, R115). -/
def settleLatency (r : Route) : Nat :=
  match r with
  | .own | .foreign | .hub => visibleLatency r
  | _ => landLatency r

/-- When one piece of an EPI's output has taken place with all its bytes: at once in the engine's own window, never on
this device's clock for another device, else by the slowest of its bytes' routes. -/
def pieceEnd (i : Image) (o : OpRec) (v : Inst) (q : Piece) : Nat :=
  if nodeOf q.addr ≠ 0xFFFF then 0
  else if (windowOf q.addr).any (fun w => w.1 == v.e) then q.out
  else epiLast i o v.p.b + settleLatency (spanRoute v.e (localOf q.addr) q.n)

/-- When an RMO of an engine that targets this device completes (R534); none for another bundle. -/
def rmoEnd (i : Image) (v : Inst) : Option Nat :=
  let b := v.p.b
  match v.p.cls with
  | .mread => some b.due
  | .atomic =>
    if b.kind != .atomicAdd then some b.due
    else if nodeOf b.addr = 0xFFFF then some (b.issue + atomicLatency (staticRoute v b.addr)) else none
  | .mwrite =>
    if nodeOf b.addr = 0xFFFF then
      some (b.issue + settleLatency (spanRoute v.e (localOf b.addr) b.size) + b.size / 256)
    else none
  | .epi => (opOf i b.op).map fun o => (epiPieces i o b).foldl (fun m q => max m (pieceEnd i o v q)) 0
  | _ => none

/-- The last cycle in which a bundle has an effect inside the device (R113). -/
def effectEnd (i : Image) (v : Inst) : Nat :=
  let b := v.p.b
  let end_ := (rmoEnd i v).getD 0
  match v.p.cls, opOf i b.op with
  | .rows, some o => lastRow o b + 40 + rowStep2 o
  | .wload, some o => b.issue + 1 + loadCycles o
  | .epi, some o => max (epiLast i o b) end_
  | _, _ => end_

/-- The minimum latency of a completion (R111, R114); an ARRIVE has none, so its DUE is not before its issue. -/
def dueOk (v : Inst) : Bool :=
  let b := v.p.b
  match v.p.cls with
  | .mread => decide (b.issue + readLatency (spanRoute v.e (localOf b.addr) b.size) b.size ≤ b.due)
  | .atomic => b.kind == .atomicAdd || decide (b.issue + atomicLatency (staticRoute v b.addr) ≤ b.due)
  | .arrive => decide (0 < b.dueBeat ∨ b.issue ≤ b.due)
  | _ => true

/-- Latencies, limits and fences of one engine in one beat. -/
def latencyChk (x : Place) (vs : List Inst) : Chk :=
  firstOf
    [ eachOf vs fun v => needs x v (dueOk v) 111
    , eachOf vs fun v => needs x v (decide (effectEnd x.img v ≤ 4095)) 113
    , eachOf vs fun v => needs x v (v.p.cls != .arrive || v.p.b.dueBeat == 0 || x.img.members != 0) 113
    , eachPair vs fun u v =>
        if v.p.cls = .fence then needs x v ((rmoEnd x.img u).all fun c => decide (c + 16 ≤ v.p.b.due)) 534 else none ]

/-! ## Weights, sums and their readers (R72, R80, R112, R531) -/

/-- The rows of an array that are issued before a cycle. -/
def rowsBefore (i : Image) (vs : List Inst) (k c : Nat) : List (OpRec × Bundle) :=
  vs.filterMap fun u => (opIf i u .rows).bind fun o =>
    if u.p.b.issue < c ∧ u.p.b.arrays.toNat.testBit k then some (o, u.p.b) else none

/-- Whether a weight load follows the last row that used the register which it fills (R72). -/
def loadClear (i : Image) (vs : List Inst) (v : Inst) : Bool :=
  (arraysOf v.p.b).all fun k =>
    match ((rowsBefore i vs k v.p.b.issue).filter fun y => y.2.swap).getLast? with
    | none => true
    | some (_, sw) =>
      match (rowsBefore i vs k sw.issue).getLast? with
      | none => true
      | some (o, u) => decide (lastRow o u + 5 ≤ v.p.b.issue)

/-- The AM writes of a ROWS bundle. -/
def sumWrites (i : Image) (v : Inst) : List Touch := (touches i v).filter fun t => t.mem == 1 && t.write && v.p.cls == .rows

/-- Whether two rows that add into one AM word are issued at least three cycles apart; both write a fixed time after
their issue (R72). -/
def addsApart (l : List (Touch × Bool)) : Bool :=
  (eachPair l fun (t, _) (u, add) => if add && touchMeets t u && decide (u.c0 < t.c0 + 3) && decide (t.c0 < u.c0 + 3)
    then some { sec := 0, rule := 72 } else none).isNone

/-- Weights, rows and sums of one engine in one beat. -/
def pipelineChk (x : Place) (beat : Nat) (vs : List Inst) : Chk :=
  let i := x.img
  firstOf
    [ eachPair vs fun u v =>
        match opIf i u .wload, opIf i v .rows with
        | some o, some _ => needs x v (!(v.p.b.swap && sharesArray u v) || decide (u.p.b.issue + loadCycles o ≤ v.p.b.issue + 4)) 72
        | _, _ => none
    , eachOf vs fun v => needs x v (v.p.cls != .wload || loadClear i vs v) 72
    , eachOf vs fun v => needs x v (addsApart ((sumWrites i v).map fun t => (t, v.p.b.accAdd))) 72
    , eachPair vs fun u v => needs x v (addsApart ((sumWrites i u).map (·, false) ++ (sumWrites i v).map (·, v.p.b.accAdd))
        || !addsApart ((sumWrites i v).map (·, v.p.b.accAdd))) 72
    , eachOf vs fun v => needs x v (!(beat == 0 && v.p.cls == .rows) || decide (58 ≤ v.p.b.issue)) 80
    , eachPair vs fun u v =>
        match opIf i v .epi with
        | some o => needs x v ((sumWrites i u).all fun t =>
            !meets t.off t.n v.p.b.amOff (v.p.b.rows * 4 * epiWidth i o v.p.b) || decide (t.c1 + 1 ≤ v.p.b.issue)) 112
        | none => none
    , eachOf vs fun v =>
        match opIf i v .rows with
        | some o => needs x v (!(prologueOf o == 2 || prologueOf o == 4) || decide (v.p.b.kStep < tilesOf o)) 531
        | none => none ]

/-! ## Remote writes as they land (R65, R114, R167) -/

/-- A scheduled remote write between engines of this device. -/
structure Landing where
  v    : Inst
  dst  : Nat
  off  : Nat
  n    : Nat
  land : Nat
  deriving DecidableEq, Repr

/-- The remote writes of a bundle. An EPI's output into its own window is no remote write. -/
def landingsOf (i : Image) (v : Inst) : List Landing :=
  let b := v.p.b
  match v.p.cls, opOf i b.op with
  | .mwrite, _ =>
    match windowOf b.addr with
    | some (t, off) => [{ v := v, dst := t, off := off, n := b.size
                          land := b.issue + landLatency (staticRoute v b.addr) + b.size / 256 }]
    | none => []
  | .epi, some o => (epiPieces i o b).filterMap fun q =>
      match windowOf q.addr with
      | some (t, off) => if t = v.e then none
          else some { v := v, dst := t, off := off, n := q.n, land := epiLast i o b + landLatency (staticRoute v q.addr) - q.lag }
      | none => none
  | _, _ => []

/-- The remote writes of a beat. -/
def landings (i : Image) (vs : List Inst) : List Landing := vs.flatMap (landingsOf i)

/-- Whether a bundle is an ARRIVE of the receiver of a remote write that names its source and holds its bytes in
its range (R532). -/
def declares (l : Landing) (v : Inst) : Bool :=
  v.p.cls == .arrive && v.e == l.dst && v.p.b.dueBeat == 0 && v.p.b.source == l.v.e
    && decide (v.p.b.abOff ≤ l.off ∧ l.off + l.n ≤ v.p.b.abOff + v.p.b.size)

/-- What a remote write touches in its receiver's SRAM. -/
def landTouch (l : Landing) : Touch :=
  { mem := (splitOff l.off).1, off := (splitOff l.off).2, n := l.n, write := true, c0 := l.land + 1 - ceilDiv l.n 256, c1 := l.land }

/-- Every write that lands in an engine's SRAM in a beat. -/
def writesInto (i : Image) (vs : List Inst) (e : Nat) : List (Inst × Touch) :=
  (vs.filter (·.e == e)).flatMap (fun v => ((touches i v).filter (·.write)).map fun t => (v, t))
    ++ ((landings i vs).filter (·.dst == e)).map fun l => (l.v, landTouch l)

/-- Two scheduled writes that land on one byte in one cycle (R65). -/
def collideChk (x : Place) (vs : List Inst) : Chk :=
  eachOf x.progs fun p => eachPair (writesInto x.img vs p.engine) fun (_, t) (v, u) =>
    needs x v (!(touchMeets t u && cyclesMeet t u)) 65

/-! ## Output tiles (R136, R533) -/

/-- Whether a range of AM lies in one of a list of ranges. -/
def inOne (t : Touch) (l : List Touch) : Bool := l.any fun u => decide (u.off ≤ t.off ∧ t.off + t.n ≤ u.off + u.n)

/-- The first EPI of an operation, among later bundles, whose AM reads cover a tile. -/
def closerOf (i : Image) (op : Nat) (ws : List Touch) (rest : List (Nat × Inst)) : Option (Nat × OpRec × Bundle) :=
  rest.findSome? fun (b, v) => (opIf i v .epi).bind fun o =>
    if v.p.b.op = op ∧ ws.all (fun t => decide (v.p.b.amOff ≤ t.off ∧
        t.off + t.n ≤ v.p.b.amOff + v.p.b.rows * 4 * epiWidth i o v.p.b)) then some (b, o, v.p.b) else none

/-- The first EPI of an operation, among later bundles, whose AM reads meet a ROWS bundle's writes. -/
def readerOf (i : Image) (op : Nat) (ws : List Touch) (rest : List (Nat × Inst)) : Option (OpRec × Bundle) :=
  rest.findSome? fun (_, v) => (opIf i v .epi).bind fun o =>
    if v.p.b.op = op ∧ ws.any (fun t => decide (v.p.b.amOff < t.off + t.n ∧
        t.off < v.p.b.amOff + v.p.b.rows * 4 * epiWidth i o v.p.b)) then some (o, v.p.b) else none

/-- Whether the arrays of a ROWS bundle write whole groups of 32 columns of one tile row, for rows of w bytes and
an AM offset `at_` from the tile (R533). -/
def rowsFit (w at_ : Nat) (ks : List Nat) : Bool :=
  ks.all fun k => at_ % 128 == 0 && decide ((at_ + 128 * k) % w + 128 ≤ w)
    && ks.all fun m => (at_ + 128 * k) / w == (at_ + 128 * m) / w

/-- Whether a ROWS bundle writes AM in the layout of the tile that an EPI of its operation next reads (R533). -/
def layoutOk (i : Image) (v : Inst) (rest : List (Nat × Inst)) : Bool :=
  match readerOf i v.p.b.op (sumWrites i v) rest with
  | none => true
  | some (o, e) =>
    (epiWidth i o e :: if maybeStat o then [epiWidthStat i o e] else []).any fun w =>
      v.p.b.amStride == 4 * w && rowsFit (4 * w) (v.p.b.amOff + 4 * w * e.amOff - e.amOff) (arraysOf v.p.b)

/-- One open tile: the stores and adds into it from the store of a word to its last AM read (R136). `before` are the beat's
earlier bundles, whose last rows may still be on their way. -/
def tileChk (x : Place) (beat : Nat) (v : Inst) (before : List Inst) (rest : List (Nat × Inst)) : Chk :=
  let i := x.img
  let ws := sumWrites i v
  let closer := closerOf i v.p.b.op ws rest
  let open_ (b : Nat) (t : Touch) : Bool := match closer with
    | none => true
    | some (cb, o, e) => decide (b * 4096 + t.c1 < cb * 4096 + epiLastRead i o e)
  firstOf
    [ eachOf before fun u => needs x u ((sumWrites i u).all fun t => ws.all fun w => !touchMeets t w || decide (t.c1 ≤ w.c1)) 136
    , eachOf rest fun (b, u) =>
        let us := sumWrites i u
        if us.any (fun t => open_ b t && ws.any (touchMeets t)) then
          needs x u (u.p.b.op == v.p.b.op && u.p.b.accAdd && us.all fun t => inOne t ws && decide (beat * 4096 ≤ b * 4096 + t.c0)) 136
        else none ]

/-- The tiles of one engine through the pass: each store opens one, and every ROWS bundle keeps the layout. -/
def tilesChk (x : Place) : List (Nat × Inst) → List (Nat × Inst) → Chk
  | [], _ => none
  | (b, v) :: t, seen =>
    match (if v.p.cls = .rows then
        firstOf [ if v.p.b.accAdd then none else tileChk x b v ((seen.filter (·.1 == b)).map (·.2)) t
                , needs x v (layoutOk x.img v t) 533 ]
      else none) with
    | some y => some y
    | none => tilesChk x t ((b, v) :: seen.filter (·.1 == b))

/-! ## Input areas (R148) -/

/-- The reads of input areas by a bundle. -/
def areaTouches (i : Image) (v : Inst) : List Touch :=
  match opOf i v.p.b.op with
  | none => []
  | some o => (areaReads i v.p.cls o v.p.b).map fun a => { mem := 0, off := a.ab, n := a.n, write := false, c0 := a.c0, c1 := a.c1 }

/-- The bytes that the completion of a bundle lands in its own engine's SRAM. -/
def landedBy (v : Inst) : Option Touch :=
  let b := v.p.b
  let t (off n : Nat) : Touch := { mem := (splitOff off).1, off := (splitOff off).2, n := n, write := true, c0 := b.due, c1 := b.due }
  match v.p.cls with
  | .mread => some { t b.abOff b.size with c0 := b.due + 1 - ceilDiv b.size 256 }
  | .arrive => some (t b.abOff b.size)
  | .atomic => if b.kind = .atomicAdd then none else some (t b.retOff b.size)
  | _ => none

/-- Whether a bundle waits on the tag that another sets. -/
def waitsOn (u v : Inst) : Bool := u.p.b.setTag.any fun g => v.p.b.waitMask.toNat.testBit g.toNat

/-- A bundle that reads area bytes landed before its issue in the same beat waits on their tag; a write that lands later
does so no earlier than the last read (R148). `early` are the ARRIVEs of earlier beats that are due in this one (R107). -/
def areaChk (x : Place) (early vs : List Inst) : Chk :=
  let i := x.img
  let meet (u v : Inst) : Chk := match landedBy u with
    | some t => needs x v ((areaTouches i v).all fun r => !touchMeets r t ||
        (if t.c1 ≤ v.p.b.issue then waitsOn u v else decide (r.c1 ≤ t.c0))) 148
    | none => none
  firstOf
    [ eachOf early fun u => eachOf vs fun v => meet u v
    , eachPair vs fun u v => firstOf
        [ if u.p.b.dueBeat = 0 then meet u v else none
        , eachOf ((touches i v).filter (·.write)) fun t =>
            needs x v ((areaTouches i u).all fun r => !touchMeets r t || decide (r.c1 ≤ t.c0)) 148
        , if v.p.b.dueBeat ≠ 0 then none else match landedBy v with
          | some t => needs x v ((areaTouches i u).all fun r => !touchMeets r t || decide (r.c1 ≤ t.c0)) 148
          | none => none ] ]

/-- The ARRIVEs of a program that are due in a beat and stand in an earlier one. -/
def earlyArrives (p : Program) (beat : Nat) : List Inst :=
  (List.range beat).flatMap fun b => (instsOf p b).filter fun v => v.p.cls == .arrive && b + v.p.b.dueBeat == beat

/-- A remote write that some ARRIVE of its receiver declares lands no later than the DUE of one of them (R114). -/
def landDueChk (x : Place) (vs : List Inst) : Chk :=
  eachOf (landings x.img vs) fun l =>
    let fits := vs.filter (declares l)
    match fits.getLast? with
    | none => none
    | some a => needs x a (fits.any fun v => decide (l.land ≤ v.p.b.due)) 114

/-- Step 9 of R125 for a placement. -/
def step9 (x : Place) : Chk :=
  firstOf
    [ eachEngineBeat x fun _ vs => issueChk x vs
    , eachOf x.progs fun p => tagsChk x (passInsts x p) []
    , eachEngineBeat x fun _ vs => latencyChk x vs
    , eachEngineBeat x fun b vs => pipelineChk x b vs
    , eachBeat x fun _ vs => collideChk x vs
    , eachOf x.progs fun p => tilesChk x (passInsts x p) []
    , eachOf x.progs fun p => (List.range x.img.beats).findSome? fun b => areaChk x (earlyArrives p b) (instsOf p b)
    , eachBeat x fun _ vs => landDueChk x vs ]

/-! ## Step 10: visibility (R115) -/

/-- Whether an address of this device is stack memory or hub SRAM. -/
def inMemory (a : BitVec 64) : Bool := nodeOf a == 0xFFFF && (windowOf a).isNone

/-- A span cut where the interleaved view may change its stack: at every 4 KiB (R27). -/
def cutSpan (a n : Nat) : List (Nat × Nat) :=
  (List.range (n / 4096 + 2)).filterMap fun k =>
    let x := if k = 0 then a else (a / 4096 + k) * 4096
    let y := min (a + n) ((a / 4096 + k + 1) * 4096)
    if x < y then some (x, y - x) else none

/-- What a bundle writes into stack memory or hub SRAM: local address, bytes, when it is visible. The bytes of an EPI row
on a foreign stack are visible later than those on an own one; an MWRITE's bytes all take its slowest route (R114, R115). -/
def memWrites (i : Image) (v : Inst) : List (Nat × Nat × Nat) :=
  let b := v.p.b
  match v.p.cls, opOf i b.op with
  | .mwrite, _ => if inMemory b.addr then [(localOf b.addr, b.size, (rmoEnd i v).getD 0)] else []
  | .epi, some o => (epiPieces i o b).flatMap fun q =>
      if inMemory q.addr then (cutSpan (localOf q.addr) q.n).map fun (a, n) =>
        (a, n, epiLast i o b + visibleLatency (routeOf v.e (linearOf a)))
      else []
  | _, _ => []

/-- What a bundle reads of stack memory or hub SRAM. -/
def memReads (v : Inst) : List (Nat × Nat) :=
  match v.p.cls with
  | .mread | .atomic => if inMemory v.p.b.addr then [(localOf v.p.b.addr, v.p.b.size)] else []
  | _ => []

/-- A read that meets a write of the same beat where R115 forbids it. -/
def readTooSoon (i : Image) (w r : Inst) : Bool :=
  (memWrites i w).any fun (a, n, seen) => (memReads r).any fun (b, k) =>
    spansMeet a n b k && (w.e != r.e || (decide (w.p.b.issue ≤ r.p.b.issue) && decide (r.p.b.issue < seen)))

/-! ## Arrivals (R116, R532) -/

/-- The ARRIVE of the receiver that a remote write matches: of its source, around its bytes, due no earlier than
its landing, and the earliest due of these. -/
def matchOf (vs : List Inst) (l : Landing) : Option Inst :=
  let fits := vs.filter fun v => declares l v && decide (l.land ≤ v.p.b.due)
  fits.foldl (fun m v => match m with
    | none => some v
    | some y => if v.p.b.due < y.p.b.due then some v else m) none

/-- What R116 asks of the receiver of a remote write: no touch of the target bytes between the issue and the DUE, and the
first bundle that touches them after the DUE, whenever it issued, waits on the ARRIVE's tag. -/
def receiverChk (x : Place) (vs : List Inst) (l : Landing) (a : Inst) : Chk :=
  let t := landTouch l
  let on (v : Inst) : List Touch := (touches x.img v).filter (touchMeets t)
  let mine := vs.filter fun v => v.e == l.dst && v != a && !(on v).isEmpty
  firstOf
    [ eachOf mine fun v => needs x v ((on v).all fun u => decide (u.c1 < l.v.p.b.issue) || decide (a.p.b.due ≤ u.c0)) 116
    , match mine.find? (fun v => (on v).any fun u => decide (a.p.b.due ≤ u.c0)) with
      | none => none
      | some v => needs x v (waitsOn a v) 116 ]

/-- What an ARRIVE of another device's write lets land in its engine's SRAM, at any cycle up to its DUE (R107, R116). -/
def arriveTouch (a : Inst) : Touch :=
  { mem := (splitOff a.p.b.abOff).1, off := (splitOff a.p.b.abOff).2, n := a.p.b.size, write := true, c0 := 0, c1 := a.p.b.due }

/-- The ARRIVEs of earlier beats whose bytes may still land in a beat: their due beat is this one or a later one. -/
def pendingArrives (x : Place) (beat : Nat) : List (Inst × Nat) :=
  x.progs.flatMap fun p => (List.range beat).flatMap fun b =>
    (instsOf p b).filterMap fun v =>
      if v.p.cls = .arrive ∧ beat ≤ b + v.p.b.dueBeat then some (v, b + v.p.b.dueBeat) else none

/-- What R116 asks in a beat of the receiver of another device's write, which issues in the ARRIVE's own beat: no touch of the
declared bytes before the DUE, and the first bundle that touches them after it waits on the ARRIVE's tag (DEDUCED, assumption
107: in the ARRIVE's own beat only the sender's image says when the write issues). -/
def arriveChk (x : Place) (beat : Nat) (vs : List Inst) (a : Inst) (dueBeat : Nat) : Chk :=
  let on (v : Inst) : List Touch := (touches x.img v).filter (touchMeets (arriveTouch a))
  let mine := vs.filter fun v => v.e == a.e && !(on v).isEmpty
  let after (u : Touch) : Bool := dueBeat == beat && decide (a.p.b.due ≤ u.c0)
  firstOf
    [ eachOf mine fun v => needs x v ((on v).all after) 116
    , match mine with
      | [] => none
      | v :: _ => needs x v (waitsOn a v) 116 ]

/-- What R116 asks of an MREAD from an engine window: no bundle writes and no remote write lands on the bytes, of this device or
of another (`early` are the ARRIVEs of earlier beats that are still pending). -/
def windowReadChk (x : Place) (early vs : List Inst) (v : Inst) : Chk :=
  match v.p.cls, windowOf v.p.b.addr with
  | .mread, some (t, off) =>
    let r : Touch := { mem := (splitOff off).1, off := (splitOff off).2, n := v.p.b.size, write := false
                       c0 := v.p.b.issue, c1 := v.p.b.due }
    let ws := (writesInto x.img vs t).map (·.2) ++ (early.filter (·.e == t)).map arriveTouch
    needs x v (ws.all fun u => !touchMeets r u || (t == v.e && !cyclesMeet r u)) 116
  | _, _ => none

/-- Step 10 of R125 for a placement. -/
def step10 (x : Place) : Chk :=
  eachBeat x fun beat vs => firstOf
    [ eachOf vs fun w => eachOf vs fun r => needs x r (!readTooSoon x.img w r) 115
    , eachOf (landings x.img vs) fun l =>
        match matchOf vs l with
        | none => some (breaks x l.v 532)
        | some a => receiverChk x vs l a
    , eachOf vs fun v => needs x v (v.p.cls != .arrive || decide (0 < v.p.b.dueBeat) ||
        (((landings x.img vs).filter fun l => matchOf vs l == some v).map (·.n)).sum == v.p.b.size) 532
    , eachOf (pendingArrives x beat) fun (a, due) => arriveChk x beat vs a due
    , eachOf vs fun v => windowReadChk x ((pendingArrives x beat).map (·.1)) vs v ]

end Sys2Proof.Machine
end

