-- ==== Sys2Proof/Machine/PageTables.lean ====
section
/-! DEFINITION. KV pages in memory: layouts (R179), pools and slots (R180), descriptors (R181), page tables
(R182). -/

namespace Sys2Proof.Machine

open Sys2Proof

/-! ## Layout of a page (R179) -/

/-- Elements of a page of C channels. -/
def pageElems (c : Nat) : Nat := 256 * c

/-- The bytes of a page of C channels in a format. -/
def pageBytes (fmt : Nat) (scaled : Bool) (c : Nat) : Nat :=
  packedBytes (fmtWidth fmt) (pageElems c) + (if scaled then 8 * c else 0)

/-- The element number of channel `ch` and token t: K token-major, V channel-major. -/
def pageElemNo (kind c ch t : Nat) : Nat := if kind = 0 then t * c + ch else ch * 256 + t

/-- The offset in the scale region of the block that holds channel `ch` and token t. -/
def pageScaleNo (kind c ch t : Nat) : Nat := if kind = 0 then t * (c / 32) + ch / 32 else ch * 8 + t / 32

/-- The linear addresses of the bytes that hold element i of a slot. -/
def pageElemLins (slot fmt i : Nat) : List Nat :=
  let w := fmtWidth fmt
  (List.range (ceilDiv (w * i % 8 + w) 8)).map fun j => slot + w * i / 8 + j

/-- The raw bits of element i of a slot. -/
def pageElem (s : State) (slot fmt i : Nat) : Nat :=
  (leNat ((pageElemLins slot fmt i).map (byteAt s)) / 2 ^ (fmtWidth fmt * i % 8)) % 2 ^ fmtWidth fmt

/-- The linear address of a scale entry of a slot of C channels. -/
def pageScaleLin (slot fmt c k : Nat) : Nat := slot + packedBytes (fmtWidth fmt) (pageElems c) + k

/-! ## Pools (R180, R198) -/

/-- The linear address of a stack's pool. -/
def poolBase (s : State) (st : Nat) : Nat := st * stackBytes + regF s (oKvBase st) 16 0 * 0x100000

/-- The granules of a stack's pool, G. -/
def poolGranules (s : State) (st : Nat) : Nat := 16 * regF s (oKvSize st) 16 0

/-- The granules that hold descriptors. -/
def descGranules (g : Nat) : Nat := ceilDiv (32 * g) 65536

/-- The stack of layer l and kind k. -/
def kvStack (layer kind : Nat) : Nat := (2 * layer + kind) % 8

/-- The granules in use of a stack's pool, as (first granule, number): the descriptors, then every slot. -/
def usedSlots (s : State) (st : Nat) : List (Nat × Nat) :=
  let base := poolBase s st
  (0, descGranules (poolGranules s st)) :: (s.pages.filter fun p => pageStack p.id == st).flatMap fun p =>
    (if p.slot = 0 then [] else [((p.slot - base) / 65536, p.granules)])
      ++ (match p.slot2 with
          | some (a, n) => [((a - base) / 65536, n)]
          | none => [])

/-- The retired regions that lie in a stack's pool, by their first granule: their free granules have left the
pool (R276). -/
def poolRetired (s : State) (st : Nat) : List Nat :=
  s.retired.filterMap fun r =>
    let g := (r * 0x100000 - poolBase s st) / 65536
    if r / 131072 = st ∧ poolBase s st ≤ r * 0x100000 ∧ g < poolGranules s st then some g else none

/-- How many granules two runs of granules share. -/
def sharedGranules (a n b m : Nat) : Nat := min (a + n) (b + m) - max a b

/-- The free granules of a stack's pool (R199, R276). -/
def freeGranules (s : State) (st : Nat) : Nat :=
  let used := usedSlots s st
  let lost := (poolRetired s st).map fun g => 16 - (used.map fun (a, n) => sharedGranules a n g 16).sum
  poolGranules s st - (used.map (·.2)).sum - lost.sum

/-- The linear address of a free slot of n granules, the lowest that fits (DESIGN CHOICE). -/
def findSlot (s : State) (st n : Nat) : Option Nat :=
  let used := usedSlots s st ++ (poolRetired s st).map fun g => (g, 16)
  let fits (g : Nat) : Bool :=
    decide (g + n ≤ poolGranules s st) && used.all fun (a, k) => decide (g + n ≤ a) || decide (a + k ≤ g)
  match ((used.map fun (a, k) => a + k).filter fits) with
  | [] => none
  | g :: t => some (poolBase s st + 65536 * t.foldl min g)

/-- The page indices of a stack's pool: as many as its descriptor granules hold, at most one for each granule (R180). -/
def pageIndices (s : State) (st : Nat) : Nat := min (poolGranules s st) (2048 * descGranules (poolGranules s st))

/-- A page ID of a stack that no page holds, the lowest (DESIGN CHOICE); none when the pool has no further descriptor. -/
def freePageId (s : State) (st : Nat) : Option (BitVec 24) :=
  let used := (s.pages.filter fun p => pageStack p.id == st).map fun p => p.id.toNat % 2 ^ 21
  ((List.range (min (used.length + 1) (pageIndices s st))).find? fun i => !used.contains i).map fun i =>
    BitVec.ofNat 24 (st * 2 ^ 21 + i)

/-! ## Descriptors (R181) -/

/-- The address of a page's descriptor. -/
def descAddr (s : State) (id : BitVec 24) : Nat := poolBase s (pageStack id) + 32 * (id.toNat % 2 ^ 21)

/-- The 32 bytes of a page's descriptor. -/
def descBytes (p : Page) : Bytes :=
  toLE p.id.toNat 4 ++ [BitVec.ofNat 8 (pageStateByte p.state)]
    ++ toLE (p.fmt + (if p.scaled then 16 else 0)) 1 ++ toLE (p.home + (if p.homeScaled then 16 else 0)) 1
    ++ [BitVec.ofNat 8 p.pinned.toNat] ++ toLE p.refs 4 ++ toLE p.owner 2 ++ toLE p.layer 2
    ++ toLE (p.index + p.kind * 2 ^ 31) 4 ++ toLE p.valid 2 ++ toLE p.granules 2 ++ toLE p.slot 8

/-- A page replaced or added, and its descriptor written; pages are held by ascending ID. -/
def pagePut (s : State) (p : Page) : State :=
  let s : State := { s with pages := s.pages.filter (fun q => q.id.toNat < p.id.toNat) ++ p
                                :: s.pages.filter (fun q => p.id.toNat < q.id.toNat) }
  storeBytes s (descAddr s p.id) (descBytes p)

/-- A page becomes FREE. -/
def pageFree (s : State) (p : Page) : State :=
  let s : State := { s with pages := s.pages.filter fun q => q.id != p.id }
  storeBytes s (descAddr s p.id) (descBytes { p with state := .free, refs := 0, slot := 0, granules := 0, valid := 0 })

/-- A page's count falls by one; at 0 the page becomes FREE (R183, R188). -/
def pageRelease (s : State) (id : BitVec 24) : State :=
  match pageGet s id with
  | none => s
  | some p => if p.refs ≤ 1 then pageFree s p else pagePut s { p with refs := p.refs - 1 }

/-! ## Page tables (R182) -/

/-- Whether the page manager can read some bytes: implemented now (R275), and not poisoned (R255). -/
def tableReadable (s : State) (lins : List Nat) : Bool := lins.all (implemented s) && !anyPoison s lins

/-- A word of a page table. One that cannot be read counts as a word that maps nothing (DESIGN CHOICE, assumption 81). -/
def tableWord (s : State) (a n other : Nat) : Nat :=
  if tableReadable s (spanLinear a n) then leNat (spanRead s a n) else other

/-- The directory word of layer l and kind k of a context: leaf address and leaf length. -/
def leafOf (s : State) (c : Ctx) (layer kind : Nat) : Nat × Nat :=
  if layer < c.desc.ptLayers then
    let w := tableWord s (c.desc.ptRoot + (2 * layer + kind) * 8) 8 0
    (w % 2 ^ 48, w / 2 ^ 48)
  else (0, 0)

/-- The page that a context maps at a logical index: none where it is unmapped. -/
def mapGet (s : State) (c : Ctx) (layer kind x : Nat) : Option (BitVec 24) :=
  let (a, n) := leafOf s c layer kind
  if x < n then
    let v := tableWord s (a + 4 * x) 4 0xFFFFFFFF
    if v < 0xFFFFFF then some (BitVec.ofNat 24 v) else none
  else none

/-- Maps or unmaps a logical index. A word in a poisoned codeword or a retired region stays as it is (R255, R275). -/
def mapSet (s : State) (c : Ctx) (layer kind x : Nat) (v : Option (BitVec 24)) : State :=
  let a := (leafOf s c layer kind).1 + 4 * x
  if !(spanLinear a 4).all (implemented s) then s
  else storeBytes s a
    (toLE (match v with
      | some id => id.toNat
      | none => 0xFFFFFFFF) 4)

/-- The bytes of a context's page tables: its directory and its leaves. -/
def tableBytes (s : State) (c : Ctx) : List Nat :=
  spanLinear c.desc.ptRoot (16 * c.desc.ptLayers) ++ (List.range c.desc.ptLayers).flatMap fun l => ([0, 1] : List Nat).flatMap fun k =>
    let (a, n) := leafOf s c l k
    spanLinear a (4 * n)

/-- What a pass start finds wrong with a job's page tables: bytes in unimplemented space (R275), or poisoned ones (R255). The job
ends as it does for any poisoned or refused read (DESIGN CHOICE, assumption 81). -/
def tableFault (s : State) (c : Ctx) : Option Code :=
  let lins := tableBytes s c
  if !lins.all (implemented s) then some .busError else if anyPoison s lins then some .eccUncorrectable else none

/-- What keeps the page manager from a job's directory word, or from the entry of a logical index in its leaf: unimplemented space
(R275) or a poisoned codeword (R255). -/
def entryFault (s : State) (c : Ctx) (layer kind x : Nat) : Option Code :=
  let dir := spanLinear (c.desc.ptRoot + (2 * layer + kind) * 8) 8
  let (a, n) := leafOf s c layer kind
  let lins := dir ++ (if x < n then spanLinear (a + 4 * x) 4 else [])
  if !lins.all (implemented s) then some .busError else if anyPoison s lins then some .eccUncorrectable else none

/-- The page descriptor that a context maps at a logical index. -/
def mappedPage (s : State) (c : Ctx) (layer kind x : Nat) : Option Page := (mapGet s c layer kind x).bind (pageGet s)

/-- The page indices that a job's pass writes, from its length and the tokens per pass that its descriptor declares. -/
def writeRange (c : Ctx) : List Nat :=
  let t := c.desc.tokens
  if t = 0 then [] else (List.range ((c.length + t - 1) / 256 - c.length / 256 + 1)).map (c.length / 256 + ·)

/-- Every mapping of a context: layer, kind, index, page. -/
def mappings (s : State) (c : Ctx) : List (Nat × Nat × Nat × BitVec 24) :=
  (List.range c.desc.ptLayers).flatMap fun l => ([0, 1] : List Nat).flatMap fun k =>
    (List.range (leafOf s c l k).2).filterMap fun x => (mapGet s c l k x).map fun id => (l, k, x, id)

end Sys2Proof.Machine
end

