-- ==== Sys2Proof/Machine/KernelCost.lean ====
section
/-! DEFINITION. What a Caldera kernel reads and writes, by the tables of its own rule (R233 to R243), and what that costs:
its slots, its lanes, its draws and its minimum duration (R220, R223 to R225, R232). -/

namespace Sys2Proof.Machine

open Sys2Proof

/-! ## What a kernel touches -/

/-- What a kernel reads or writes of one operand: rows of bytes of a tensor, as `copies` copies `step` bytes apart (the
slots of ORDERED_ACCUMULATE, R243); `dense` when R220 charges the operand by the 64 KiB rule. -/
structure KSpan where
  t      : Tensor
  rows   : Nat
  bytes  : Nat
  write  : Bool
  dense  : Bool := true
  copies : Nat := 1
  step   : Nat := 0
  deriving DecidableEq, Repr

/-- The offset in its tensor where a span's last byte ends. -/
def kspanEnd (x : KSpan) : Nat :=
  if x.rows = 0 ∨ x.bytes = 0 then 0 else (x.copies - 1) * x.step + (x.rows - 1) * x.t.stride + x.bytes

/-- The ranges of bytes of a span, at a tensor base. -/
def kspanRows (base : Nat) (x : KSpan) : List (Nat × Nat) :=
  (List.range x.copies).flatMap fun j =>
    (List.range x.rows).map fun m => (tensorAddr x.t base + j * x.step + m * x.t.stride, x.bytes)

/-- A tensor parameter. -/
def kParam (i : Image) (k : Kernel) (off : Nat) : Option Tensor := (kTensor k off).bind (tensorGet i)

/-- The scale tensor of an output (R228). -/
def outScalesOf (i : Image) (t : Tensor) : Option Tensor := tensorGet i (t.id + 1)

/-- A span over rows of n elements of a tensor's own format. -/
def rowsSpan (t : Tensor) (rows n : Nat) (write : Bool) : KSpan :=
  { t := t, rows := rows, bytes := packedBytes (fmtWidth t.fmt) n, write := write }

/-- A span over rows of a number of bytes. -/
def byteSpan (t : Tensor) (rows n : Nat) (write : Bool) : KSpan := { t := t, rows := rows, bytes := n, write := write }

/-- The spans of an optional tensor. -/
def optSpan (t : Option Tensor) (f : Tensor → KSpan) : List KSpan := (t.map f).toList

/-- An output with its scales where OUT_MODES asks for them (R228). -/
def outSpans (i : Image) (k : Kernel) (t : Option Tensor) : List KSpan :=
  optSpan t (fun t => rowsSpan t k.rows k.cols true)
    ++ (if outScaled k then optSpan (t.bind (outScalesOf i)) fun z => byteSpan z k.rows (ceilDiv k.cols 32) true else [])

/-- The operation that a QUANTISE_DEFERRED kernel completes (R239). -/
def quantOp (i : Image) (k : Kernel) : Option OpRec := opOf i (kNat k 0 2)

/-- What a kernel reads and writes, by the tables of its own rule. -/
def kernelSpans (i : Image) (c : KernelCode) (k : Kernel) : List KSpan :=
  let p := kParam i k
  let rd (o : Nat) : List KSpan := optSpan (p o) fun t => rowsSpan t k.rows k.cols false
  let scales (o : Nat) : List KSpan := optSpan (p o) fun t => byteSpan t k.rows (ceilDiv k.cols 32) false
  match c with
  | .samplerStep => rd 0 ++ rd 4 ++ rd 8 ++ rd 12 ++ outSpans i k (p 16)
  | .guidance => rd 0 ++ rd 4 ++ outSpans i k (p 8)
  | .optim =>
    let rw (o : Nat) : List KSpan := optSpan (p o) (fun t => rowsSpan t k.rows k.cols false)
      ++ optSpan (p o) fun t => rowsSpan t k.rows k.cols true
    rw 0 ++ rw 4 ++ rw 8 ++ rd 12 ++ scales 16 ++ optSpan (p 24) (fun t => byteSpan t 1 64 false) ++ outSpans i k (p 20)
  | .reduce => rd 0 ++ scales 4 ++ optSpan (p 8) fun t =>
      if kNat k 13 1 = 0 then byteSpan t k.rows 4 true
      else if k.slotRows = 0 then byteSpan t 1 (4 * k.cols) true
      else byteSpan t (ceilDiv k.rows k.slotRows) (4 * k.cols) true
  | .quantise =>
    match quantOp i k with
    | none => []
    | some o => optSpan (tensorGet i o.tensorD) (fun t => byteSpan t k.rows (packedBytes (destWidth i o) (npadOf o)) false)
        ++ optSpan (p 4) (fun t => byteSpan t k.rows (4 * ceilDiv (npadOf o) o.tileN) false)
        ++ optSpan (p 8) (fun t => rowsSpan t k.rows (npadOf o) true)
        ++ optSpan (p 12) fun t => byteSpan t k.rows (ceilDiv (npadOf o) 32) true
  | .transpose => rd 0 ++ scales 4 ++ optSpan (p 8) (fun t => rowsSpan t k.cols k.rows true)
      ++ (if outScaled k then optSpan (p 12) fun t => byteSpan t k.cols (ceilDiv k.rows 32) true else [])
  | .gather | .scatter =>
    let out := c == .gather
    if kNat k 0 1 = 0 then
      optSpan (p 4) (fun t => { t := t, rows := 1, bytes := t.size, write := !out, dense := false })
        ++ optSpan (p 8) (fun t => byteSpan t k.rows 4 false) ++ optSpan (p 12) fun t => rowsSpan t k.rows k.cols out
    else
      let heads := kNat k 12 2
      let d := kNat k 14 2
      let n := kNat k 16 4
      let scaled (t : Tensor) (rows len : Nat) : List KSpan :=
        if outScaled k then optSpan (outScalesOf i t) fun z => byteSpan z rows (ceilDiv len 32) out else []
      ((p 4).map fun t => if kNat k 9 1 = 0 then rowsSpan t (heads * n) d out :: scaled t (heads * n) d
          else rowsSpan t (heads * d) n out :: scaled t (heads * d) n).getD []
  | .accumulate =>
    optSpan (p 0) (fun t => { rowsSpan t k.rows k.cols false with copies := kNat k 12 2, step := kNat k 16 8 })
      ++ rd 4 ++ outSpans i k (p 8)

/-- The tensor parameters of a kernel: offset, and whether it may be absent. -/
def tensorParams (c : KernelCode) (k : Kernel) : List (Nat × Bool) :=
  match c with
  | .samplerStep => [(0, true), (4, true), (8, true), (12, true), (16, false)]
  | .guidance => [(0, false), (4, false), (8, false)]
  | .optim => [(0, false), (4, false), (8, true), (12, false), (16, true), (20, true), (24, false)]
  | .reduce => [(0, false), (4, true), (8, false)]
  | .quantise => [(4, false), (8, false), (12, false)]
  | .transpose => [(0, false), (4, true), (8, false), (12, true)]
  | .gather | .scatter => if kNat k 0 1 = 0 then [(4, false), (8, false), (12, false)] else [(4, false)]
  | .accumulate => [(0, false), (4, true), (8, false)]

/-- Every tensor that a kernel names: by a parameter, used or not, or as what its rule adds to one (R227). -/
def kernelTensors (i : Image) (c : KernelCode) (k : Kernel) : List Tensor :=
  (kernelSpans i c k).map (·.t) ++ (tensorParams c k).filterMap fun y => kParam i k y.1

/-! ## Time and capacity (R220, R222 to R225) -/

/-- The first items of a list, every U-th of them from the i-th. -/
def everyNth (u i : Nat) (l : List Nat) : List Nat := (l.zipIdx.filter fun y => y.2 % u == i).map (·.1)

/-- The largest share of one of U units, of work items that go to the units in turn. -/
def unitShare (u : Nat) (l : List Nat) : Nat := ((List.range u).map fun i => (everyNth u i l).sum).foldl max 0

/-- n cut into pieces of at most m. -/
def cutInto (n m : Nat) : List Nat := (List.range (ceilDiv n m)).map fun j => min m (n - j * m)

/-- The pages that a page form may touch (R220, R242). -/
def pageCount (c : KernelCode) (k : Kernel) : Nat := kNat k 16 4 / 256 + (if c = .scatter then 1 else 0)

/-- The work items of a kernel, in elements (R225). A page counts in full in both page forms, also where SCATTER writes TOKENS rows
of it only (DESIGN CHOICE, assumption 103: R223 and R225 count pages, and give a page no number of elements). -/
def workItems (c : KernelCode) (k : Kernel) : List Nat :=
  match c with
  | .reduce => if kNat k 13 1 = 0 then List.replicate k.rows k.cols else (cutInto k.cols 64).map (· * k.rows)
  | .quantise | .transpose => List.replicate k.rows k.cols
  | .gather | .scatter =>
    if kNat k 0 1 = 0 then List.replicate k.rows k.cols
    else List.replicate (pageCount c k) (256 * (kNat k 12 2 * kNat k 14 2))
  | _ => cutInto (k.rows * k.cols) 4096

/-- The lane cost of a kernel (R232). -/
def laneCost (c : KernelCode) (k : Kernel) : Nat :=
  match c with
  | .samplerStep => ((([0, 4, 8, 12] : List Nat).filter fun o => (kTensor k o).isSome).length) + 2
  | .guidance | .reduce | .transpose => 2
  | .optim => if kNat k 28 1 = 0 then 12 else 8
  | .quantise => 4
  | .gather | .scatter => 1
  | .accumulate => kNat k 12 2 + 1

/-- Whether a kernel stores an output by SR (R222, R232, R239): an OPTIM without a COPY stores none, nor do GATHER and SCATTER, which
move bits (R185, R186, R241). -/
def kernelSr (i : Image) (c : KernelCode) (k : Kernel) : Bool :=
  match c with
  | .quantise => (quantOp i k).any (·.sr)
  | .optim => k.outModes.getLsbD 5 && (kTensor k 20).isSome
  | .gather | .scatter => false
  | _ => k.outModes.getLsbD 5

/-- The draw uses of a kernel: lane and group size (R232). -/
def drawUses (i : Image) (c : KernelCode) (k : Kernel) : List (Nat × Nat) :=
  (if c = .samplerStep ∧ kNat k 40 1 ≠ 0 then [(kNat k 41 1, 4)] else [])
    ++ (if c = .samplerStep ∧ kNat k 42 2 ≠ 0 then [(1, 8)] else [])
    ++ (if kernelSr i c k then [(0, 32)] else [])

/-- The ranges of 64 KiB that a span touches, each once (R220). -/
def rangesOf (base : Nat) (x : KSpan) : Nat :=
  ((kspanRows base x).flatMap fun (a, n) => if n = 0 then [] else
    (List.range ((a + n - 1) / 65536 - a / 65536 + 1)).map fun j => a / 65536 + j).dedup.length

/-- S_c in quarter slots (R220). A row of the index form moves in granules of 32 B. The pages of a page form are charged in the format
of STAGING, scaled as OUT_MODES bit 4 says (DESIGN CHOICE, assumption 103: the parameters of R242 name no format of a page). -/
def chargeQuarters (i : Image) (base : Nat) (c : KernelCode) (k : Kernel) : Nat :=
  let dense := (((kernelSpans i c k).filter (·.dense)).map fun x => 64 * rangesOf base x).sum
  match c with
  | .gather | .scatter =>
    if kNat k 0 1 = 0 then
      dense + k.rows * (ceilDiv (((kParam i k 4).map fun t => packedBytes (fmtWidth t.fmt) k.cols).getD 0) 32)
    else
      let bytes := ((kParam i k 4).map fun t => pageBytes t.fmt (outScaled k) (kNat k 12 2 * kNat k 14 2)).getD 0
      dense + pageCount c k * (64 * ceilDiv bytes 65536)
  | _ => dense

/-- D_min of a kernel at a tensor base (R223). -/
def minDuration (i : Image) (base : Nat) (c : KernelCode) (k : Kernel) : Nat :=
  let u := max 1 (popCount 16 k.units.toNat)
  let items := workItems c k
  let e := unitShare u items
  let n := ceilDiv items.length u
  let lane := ceilDiv (e * laneCost c k) 64
  let draw := ((drawUses i c k).map fun (_, g) => ceilDiv e g + n).sum
  let mem := ceilDiv (chargeQuarters i base c k) (4 * max 1 k.budget) * 384
  64 + max lane (max draw mem)

/-- The beats of a kernel's span: first and last (R223). -/
def kernelBeats (k : Kernel) : Nat × Nat := (k.startBeat, (k.startBeat * 3072 + k.startCycle + max 1 k.duration - 1) / 3072)

end Sys2Proof.Machine
end

