-- ==== Sys2Proof/Machine/Channels.lean ====
section
/-! DEFINITION. The load of the memory channels and of the die-to-die edges (R10, R12, R117, R224, R252, R256, R263), and
whether refresh may make a scheduled request or a kernel late (R223, R272). -/

namespace Sys2Proof.Machine

open Sys2Proof

/-- The sum of the entries of a key. -/
def sumFor (l : List (Nat × Nat)) (k : Nat) : Nat := ((l.filter fun y => y.1 == k).map (·.2)).sum

/-! ## Channels (R117, R252, R256, R263) -/

/-- An access of a bundle to stack memory: linear address, bytes, whether it writes, whether it is an atomic. -/
structure MemTouch where
  lin   : Nat
  n     : Nat
  write : Bool
  atom  : Bool
  deriving DecidableEq, Repr

/-- The global spans that a bundle accesses, with writing and atomicity. -/
def spansOfBundle (i : Image) (v : Inst) : List (BitVec 64 × Nat × Bool × Bool) :=
  let b := v.p.b
  match v.p.cls, opOf i b.op with
  | .mread, _ => [(b.addr, b.size, false, false)]
  | .mwrite, _ => [(b.addr, b.size, true, false)]
  | .atomic, _ => [(b.addr, b.size, true, true)]
  | .epi, some o => (epiPieces i o b).map fun q => (q.addr, q.n, true, false)
  | _, _ => []

/-- The stack accesses of spans, cut at granules. -/
def accessesOf (spans : List (BitVec 64 × Nat × Bool × Bool)) : List MemTouch :=
  spans.flatMap fun (a, n, w, at_) =>
    if nodeOf a = 0xFFFF ∧ isStack (localOf a) then
      (spanRuns (localOf a) n).map fun (l, k) => { lin := l, n := k, write := w, atom := at_ }
    else []

/-- Whether an access uses the narrow path (R263). -/
def isNarrow (x : MemTouch) : Bool := decide (x.n ≤ 32) && x.lin / 32 == (x.lin + x.n - 1) / 32

/-- The lines of 128 B that accesses touch, each once. -/
def linesOf (l : List MemTouch) : List Nat :=
  (l.flatMap fun x => (List.range ((x.lin + x.n - 1) / 128 - x.lin / 128 + 1)).map fun k => x.lin / 128 + k).dedup

/-- The codewords that the writes of accesses cover in part, each once (R256). -/
def partWords (l : List MemTouch) : List Nat :=
  let ws := l.filter fun x => x.write && !x.atom
  let ends := (ws.flatMap fun x => [x.lin / 32, (x.lin + x.n - 1) / 32]).dedup
  ends.filter fun c => !(List.range 32).all fun k => ws.any fun x => decide (x.lin ≤ 32 * c + k ∧ 32 * c + k < x.lin + x.n)

/-- The quarter slots of a bundle's spans on the device's channels, by 16 × stack + channel. A line counts once in a
bundle; the burst of a codeword that is written in part counts once more (DEDUCED from R256). -/
def chargesOf (spans : List (BitVec 64 × Nat × Bool × Bool)) : List (Nat × Nat) :=
  let l := accessesOf spans
  let wide := l.filter fun x => !isNarrow x
  let ch (lin : Nat) : Nat := 16 * stackOf lin + channelOf lin
  (linesOf wide).map (fun k => (ch (128 * k), 4))
    ++ ((partWords wide).map (fun c => c / 4)).dedup.map (fun k => (ch (128 * k), 4))
    ++ (l.filter isNarrow).map fun x => (ch x.lin, if x.write && !x.atom && x.n != 32 then 2 else 1)

/-! ## Edges (R10, R12) -/

/-- The direct edge between two facing quadrants and its direction; edges are numbered Q0–HD to Q3–HD, Q0–Q1,
Q2–Q3, Q0–Q2, Q1–Q3, and key 2e + d names direction d of edge e. -/
def facingEdge (a b : Nat) : Nat :=
  let e := if min a b = 0 then (if max a b = 1 then 4 else 6) else if min a b = 2 then 5 else 7
  2 * e + (if a < b then 0 else 1)

/-- The edge directions that data crosses from a quadrant to a quadrant; 4 stands for the hub. -/
def edgePath (direct : Bool) (a b : Nat) : List Nat :=
  if a = b then []
  else if a = 4 then [2 * b + 1]
  else if b = 4 then [2 * a]
  else if direct ∧ a + b ≠ 3 then [facingEdge a b]
  else [2 * a, 2 * b + 1]

/-- The home of a linear address: a quadrant, or the hub; whether it is an engine window. -/
def homeOf (lin : Nat) : Nat × Bool :=
  if lin < 0x10000000000 then (stackOf lin / 2, false)
  else if sramBase ≤ lin ∧ lin < hubBase then (quadOf ((lin - sramBase) / 0x400000), true)
  else (4, false)

/-- The bytes of a bundle on the edge directions. -/
def edgesOf (i : Image) (v : Inst) : List (Nat × Nat) :=
  let q := quadOf v.e
  (spansOfBundle i v).flatMap fun (a, n, w, at_) =>
    if nodeOf a ≠ 0xFFFF then (edgePath false q 4).map fun k => (k, n)
    else (spanRuns (localOf a) n).flatMap fun (l, k) =>
      let (h, direct) := homeOf l
      let out := if v.p.b.kind = .cas ∧ at_ then 2 * k else k
      (if w then (edgePath direct q h).map (fun y => (y, out)) else [])
        ++ (if !w || (at_ && v.p.b.kind != .atomicAdd) then (edgePath direct h q).map (fun y => (y, k)) else [])

/-! ## Windows -/

/-- The windows of 384 Caldera cycles that a kernel's span overlaps, counted from the pass's first beat. -/
def spanWindows (k : Kernel) : Nat × Nat :=
  let c := k.startBeat * 3072 + k.startCycle
  (c / 384, (c + max 1 k.duration - 1) / 384)

/-- The quarter slots that the kernels of a stack hold on each of its channels in a window of a beat (R224). -/
def budgetAt (i : Image) (stack beat w : Nat) : Nat :=
  ((i.calderas.filter fun c => c.1 == stack).flatMap fun c => c.2.filterMap fun r =>
    let (a, b) := spanWindows r.k
    if a ≤ 8 * beat + w ∧ 8 * beat + w ≤ b then some (4 * r.k.budget) else none).sum

/-- The traffic of one window of a beat: quarter slots by channel, bytes by edge direction. -/
def windowLoad (i : Image) (vs : List Inst) (beat w : Nat) : Load :=
  let mine := vs.filter fun v => v.p.b.issue / 512 == w
  let cs := mine.flatMap fun v => chargesOf (spansOfBundle i v)
  let es := mine.flatMap (edgesOf i)
  { channels := (List.range 128).map fun c => (c, sumFor cs c + budgetAt i (c / 16) beat w)
    edges := (List.range 16).map fun e => (e, sumFor es e) }

/-! ## Lateness (R223, R272) -/

/-- H_k(F): the slots that refresh takes in a window at most, at a channel's rate. -/
def refreshSlots (s : State) (ch : Nat) : Nat :=
  let n := match regF s (oMem (ch / 16) + 0x10) (2 * (ch % 16) + 1) (2 * (ch % 16)) with
    | 0 => 320
    | 1 => 704
    | _ => 1408
  ceilDiv n (fNow s)

/-- C(F): the raw slots of a channel in a window. -/
def rawSlots (s : State) : Nat := 5440 / fNow s

/-- The channel whose load the programs of a pass state: on a mirrored partner's stack, the primary's (R308). -/
def statedChannel (p : Pass) (i : Image) (ch : Nat) : Nat := if isMirrored p i ∧ (ch / 32) % 2 = 1 then ch - 32 else ch

/-- The quarter slots that a pass schedules on a channel in a window of a beat. -/
def passQuarters (s : State) (p : Pass) (ch beat w : Nat) : Nat :=
  match imageGet s p.image with
  | none => 0
  | some i =>
    let base := (((p.slots.filterMap fun y => ctxGet s y.2).head?).map (·.desc.base)).getD 0
    let c := statedChannel p i ch
    let vs := (placementProgs i p.placement).flatMap fun q => instsOf q beat
    sumFor ((vs.filter fun v => v.p.b.issue / 512 == w).flatMap fun v =>
        chargesOf ((spansOfBundle i v).map fun (a, n) => (if isHere s a then
          BitVec.ofNat 64 (0xFFFF * 2 ^ 48 + localOf (bundleAddr s i base a)) else a, n))) c
      + budgetAt i (c / 16) beat w

/-- The slots by which a channel's scheduled requests and refresh exceed what it has in a window of the present beat; `back`
counts beats back. -/
def shortSlots (s : State) (ch back w : Nat) : Nat :=
  ceilDiv (s.passes.map fun p => if p.beat < back then 0 else passQuarters s p ch (p.beat - back) w).sum 4 + refreshSlots s ch - rawSlots s

/-- Whether a scheduled request to these bytes may be late: on some channel that it uses, in some window of the beat, the
scheduled slots and refresh exceed the channel's (R272). -/
def mayBeLate (s : State) (lins : List Nat) : Bool :=
  (((lins.filter (· < 0x10000000000)).map fun l => 16 * stackOf l + channelOf l).dedup).any fun ch =>
    (List.range 8).any fun w => 0 < shortSlots s ch 0 w

/-- The most cycles by which a kernel may end after its span (R223): over the windows of its span up to the present beat (all of
them, in its declared last beat), the time of the budget that refresh took on the channel where it took most, less the margin of DURATION. -/
def kernelLateness (s : State) (p : Pass) (i : Image) (base : Nat) (c : KernelCode) (k : Kernel) : Nat :=
  let (a, b) := spanWindows k
  let lost := ((List.range (b + 1 - a)).map fun n =>
    let beat := (a + n) / 8
    if p.beat < beat then 0
    else min k.budget ((List.range 16).foldl (fun m ch => max m (shortSlots s (16 * k.stack + ch) (p.beat - beat) ((a + n) % 8))) 0)).sum
  ceilDiv (lost * 384) (max 1 k.budget) - (k.duration - minDuration i base c k)

end Sys2Proof.Machine
end

