-- ==== Sys2Proof/Machine/Bundles.lean ====
section
/-! DEFINITION. The bundles (R105 to R115, R532 to R534), completions and remote writes as they land (R111,
R114, R166), and holds (R81, R119). A bundle event is one issue; the work that follows it stands in the agenda,
each part at its own cycle (R65). -/

namespace Sys2Proof.Machine

open Sys2Proof

/-! ## Issue and tags (R109, R110, R119) -/

/-- Whether the latest setting of a tag has landed. -/
def tagLanded (x : Engine) (t : BitVec 4) : Bool :=
  (x.tags.find? (fun y => y.1 == t)).any (·.2)

/-- Whether every tag of a mask has landed. -/
def tagsLanded (x : Engine) (mask : BitVec 16) : Bool :=
  (bitsOf 16 mask.toNat).all fun t => tagLanded x (BitVec.ofNat 4 t)

/-- A bundle sets a tag, which has not landed yet. -/
def tagSet (x : Engine) (t : Option (BitVec 4)) : Engine :=
  match t with
  | none => x
  | some t => { x with tags := (t, false) :: x.tags.filter fun y => y.1 != t }

/-- A tag lands. -/
def tagLand (x : Engine) (t : Option (BitVec 4)) : Engine :=
  match t with
  | none => x
  | some t => { x with tags := x.tags.map fun y => if y.1 = t then (t, true) else y }

/-- Whether the pass of an engine is followed by another for a job that continues (R75, R79). -/
def passAgain (s : State) (r : Run) : Bool := !r.pass.recompute && (jobsOf s r).any fun c => decide (1 < c.stepsLeft)

/-- An engine begins to hold for a bundle that awaits the tags of a mask (R119): the density of its arrays is taken, at the cycle
that the bundle has reached (R81). -/
def beginHold (s : State) (r : Run) (e : Nat) (b : Bundle) (mask : BitVec 16) : State :=
  let x := engGet s e
  if x.holding = some b.issue then s
  else
    let c := b.issue + x.hold
    let arrays := x.arrays.zipIdx.map fun (a, k) =>
      { a with down := s.power.ramp
               density := match progOf r e with
                 | some p => densityAt s.power.ramp p a (passAgain s r) r.img.beats s.beats r.pass.beat x.hold k c
                 | none => 0 }
    engSet s e { x with holding := some b.issue, holdMask := mask, holdFrom := c, holdAt := s.clock.dt, arrays := arrays }

/-- The hold ends, or goes on for another tag, after a tag has landed at a cycle (R81, R119). The ramp-up of the lowest array
adds to the hold: of the arrays that the program broadcasts on at all, since an array that the image leaves idle is at density 0
by R79 and has nothing to issue (DESIGN CHOICE, assumption 101: R81 says "an array below density 32"). -/
def endHold (s : State) (e cycle : Nat) : State :=
  let x := engGet s e
  match x.holding with
  | none => s
  | some c =>
    if !tagsLanded x x.holdMask then s
    else
      let h := cycle - x.holdFrom
      let used (k : Nat) : Bool := ((runOf s e).bind fun r => progOf r e).any fun p => usesArray p k
      let low := (x.arrays.zipIdx.filter fun (_, k) => used k).foldl
        (fun m (a, _) => min m (holdDensity s.power.ramp a.density h)) 32
      let hold := if cycle ≤ x.holdFrom then x.hold else cycle - c + 2 * (32 - low)
      engSet s e { x with hold := hold, arrays := x.arrays.map fun a => { a with down := false } }

/-! ## The bytes of completions and of remote writes (R65, R111, R267) -/

/-- The bytes of a completion are settled as its first ones land (R267): a granule that someone else has changed since
the issue is old or new; what its own engine stored since does not show (R115). -/
def settleBytes (s : State) (e : Nat) (f : Inflight) : Inflight × State :=
  let own := (s.stores.take (s.stores.length - f.since)).filter (·.engine == e)
  let (b, s) := f.src.foldl (fun ((old, s) : Bytes × State) (at_, a, n) =>
    let (b, s) := pickGranules s (n + 1) (((spanLinear a n).zip (slice old at_ n)).map fun (l, o) =>
      (l, o, if own.any fun w => decide (w.lin ≤ l ∧ l < w.lin + w.old.length) then o else byteAt s l))
    (old.take at_ ++ b ++ old.drop (at_ + n), s)) (f.old, s)
  ({ f with old := b, src := [] }, s)

/-- A completion of an engine replaced, by its bundle's place. -/
def inflightSet (s : State) (e : Nat) (f : Inflight) : State :=
  let x := engGet s e
  engSet s e { x with inflight := x.inflight.map fun g => if g.number = f.number then f else g }

/-- The next n bytes of a completion land (R65). -/
def landBytes (s : State) (e : Nat) (f : Inflight) (n : Nat) : Inflight × State :=
  let (f, s) := settleBytes s e f
  let b := slice f.old f.filled n
  let bad := (f.poisoned.filter fun i => decide (f.filled ≤ i ∧ i < f.filled + n)).map (· - f.filled)
  let s := if b.isEmpty then s else putStep s e (f.dest + f.filled) b bad f.slots
  ({ f with filled := f.filled + b.length }, s)

/-- The linear addresses that a completion accesses in stacks. -/
def homeLins (f : Inflight) : List Nat := f.home.flatMap fun (a, n) => spanLinear a n

/-- The cycle's share of a completion (R111): 256 B, and the next cycle's turn. Data that refresh may still make late stays in the
fill path until the completion lands. -/
def fillStep (s : State) (e cycle number : Nat) : State :=
  match (engGet s e).inflight.find? (fun f => f.number == number) with
  | none => s
  | some f =>
    if f.tag.isSome && mayBeLate s (homeLins f) then s
    else
      let (f, s) := landBytes s e f 256
      let s := inflightSet s e f
      if f.filled < f.old.length then taskAt s e (cycle + 1) rankFill (.fill number) else s

/-- What is left of a transfer lands at 256 B per cycle, in the cycles that end with a cycle (R65, R111). -/
def landRest256 (s : State) (e cycle rank : Nat) (tag : Option (BitVec 4)) (off : Nat) (data : Bytes) (bad jobs : List Nat) : State :=
  let n := ceilDiv data.length 256
  (List.range n).foldl (fun s k => taskAt s e (cycle + k + 1 - n) rank (.land tag (off + 256 * k) (slice data (256 * k) 256)
    ((bad.filter fun i => decide (256 * k ≤ i ∧ i < 256 * (k + 1))).map (· - 256 * k)) jobs)) s

/-- The cycle's share of a remote write (R65, R114). -/
def arrivalStep (s : State) (e cycle number : Nat) : State :=
  match (engGet s e).incoming.find? (fun w => w.number == number) with
  | none => s
  | some w =>
    let b := slice w.data w.filled 256
    let bad := (w.poisoned.filter fun i => decide (w.filled ≤ i ∧ i < w.filled + 256)).map (· - w.filled)
    let s := putStep s e (w.offset + w.filled) b bad w.contexts
    let x := engGet s e
    let w' := { w with filled := w.filled + b.length }
    let s := engSet s e { x with incoming := x.incoming.map fun v => if v.number = number then w' else v }
    if w'.filled < w.data.length then taskAt s e (cycle + 1) (rankRemote w.source) (.arrival number) else s

/-- The cycle's share of an MREAD from an engine window (R114): 256 B, in ascending address order. -/
def pullStep (s : State) (e cycle number a : Nat) (finds : List EccFind) (left : Nat) : State :=
  match (engGet s e).inflight.find? (fun f => f.number == number) with
  | none => s
  | some f =>
    let lins := (List.range (min 256 left)).map (a + ·)
    let s := eccScan s lins finds
    let at_ := f.old.length - left
    let f := { f with old := (f.old.take at_) ++ lins.map (byteAt s) ++ f.old.drop (at_ + lins.length)
                      poisoned := f.poisoned ++ (badPlaces s lins).map (· + at_) }
    let s := if anyBad s lins ∧ (runOf s e).any (fun r => r.img.slots == 1) then failAt s f.slots .eccUncorrectable else s
    let s := inflightSet s e f
    if 256 < left then taskAt s e (cycle + 1) rankRead (.pull number (a + 256) finds (left - 256)) else s

/-! ## The agenda at work (R65) -/

/-- One task of the agenda takes place. -/
def runTask (s : State) (x : Timed) : State :=
  let e := x.engine
  let c := x.cycle
  match x.task with
  | .put off data bad jobs | .land _ off data bad jobs => putStep s e off data bad jobs
  | .tile k t => tileStep s e k t
  | .swap arrays => swapStep s e arrays
  | .fill number => fillStep s e c number
  | .arrival number => arrivalStep s e c number
  | .pull number a finds left => pullStep s e c number a finds left
  | t =>
    match runOf s e with
    | none => s
    | some r =>
      match t with
      | .row b finds j common => (opOf r.img b.op).elim s fun o => rowStep s e r o c b finds j common (rowSlot s e r (rowAm b j))
      | .cast b finds j row ints bad => (opOf r.img b.op).elim s fun o => castStep s e o c b finds j row ints bad
      | .sums b finds j cols => (opOf r.img b.op).elim s fun o => sumsStep s e r o c b finds j cols (rowSlot s e r (rowAm b j))
      | .weights b finds k got bad => (opOf r.img b.op).elim s fun o => weightsStep s e r o c b finds k got bad
      | .epi b cycle number finds mem j got bad =>
        (opOf r.img b.op).elim s fun o => epiStep s e r o c b cycle number finds mem j got bad
      | .atomic b number a ops mem => atomicStep s e r c b number a ops mem
      | _ => s

/-- The tasks of all cycles before one, in their order. -/
def settle (s : State) (cycle : Nat) : Nat → State
  | 0 => s
  | fuel + 1 =>
    match s.agenda with
    | [] => s
    | x :: t => if x.cycle < cycle then settle (runTask { s with agenda := t } x) cycle fuel else s

/-- More tasks than a beat can hold. -/
def agendaFuel : Nat := 2 ^ 40

/-- The state as the cycle begins: what earlier cycles have under way has taken place. -/
def settled (s : State) (cycle : Nat) : State := settle s cycle agendaFuel

/-! ## Completions (R110, R111) -/

/-- The stacks that a completion accesses. -/
def homeStacks (f : Inflight) : List Nat := ((homeLins f).map stackOf).dedup

/-- Lateness is counted on every stack that a late request accesses (R273, R284). -/
def countLate (s : State) (f : Inflight) (late : Bool) : State :=
  if !late then s
  else (homeStacks f).foldl (fun s st =>
    let s := regCount s (oMem st + 0x30) 31 16 1
    if s.lateStacks.contains st then s else { s with lateStacks := s.lateStacks ++ [st] }) s

/-- A late effect of the beat takes place at a cycle (R120). -/
def noteLate (s : State) (late : Bool) (cycle : Nat) : State := if late then { s with lateEnd := max s.lateEnd cycle } else s

/-- A completion that has left the engine's list lands at a cycle: what is left of its bytes, then its tag (R110, R111). -/
def landCompletion (s : State) (e : Nat) (f : Inflight) (cycle : Nat) : State :=
  let (f, s) := settleBytes s e f
  let s := landRest256 s e cycle rankFill f.tag (f.dest + f.filled) (f.old.drop f.filled)
    ((f.poisoned.filter fun i => decide (f.filled ≤ i)).map (· - f.filled)) f.slots
  let late := decide (f.due < cycle) || decide (0 < f.late)
  let s := noteLate (countLate s f late) late cycle
  let x := engGet s e
  endHold (engSet s e (tagLand x f.tag)) e cycle

/-! ## The order of events (R18, R92, R109, R120) -/

/-- Whether an engine stands at a bundle that awaits a tag which has not landed. -/
def isHeld (x : Engine) : Bool := x.holding.isSome && !tagsLanded x x.holdMask

/-- The cycle in which a completion lands (R111, R534): `ready`, when refresh makes it late (R272). -/
def landCycle (s : State) (x : Engine) (f : Inflight) (ready : Nat) : Nat :=
  let c := if f.due < ready ∧ mayBeLate s (homeLins f) then ready else f.due
  if f.fence then ((x.rmos.filter fun y => decide (y.1 < f.number)).map (·.2 + 16)).foldl max c else c

/-- Whether a FENCE still waits for a completion that it covers. -/
def fenceWaits (x : Engine) (f : Inflight) : Bool :=
  f.fence && x.inflight.any fun g => !g.fence && decide (g.number < f.number)

/-- Completions that set no tag land on the way, once their landing cycle has passed. -/
def landUntagged (s : State) (e cycle : Nat) : State :=
  let x := engGet s e
  let gone (f : Inflight) : Bool := f.tag.isNone && !fenceWaits x f && decide (landCycle s x f 0 < cycle)
  let due := x.inflight.filter gone
  if due.isEmpty then s
  else due.foldl (fun s f => landCompletion s e f (landCycle s x f 0)) (engSet s e { x with inflight := x.inflight.filter fun f => !gone f })

/-- Whether a bundle is an access of its engine: none issues before an earlier FENCE of the engine completes (R265). -/
def isAccess (cls : BundleClass) : Bool := cls == .mread || cls == .mwrite || cls == .atomic || cls == .epi

/-- A mask of tags. -/
def maskOf (ts : List (Option (BitVec 4))) : BitVec 16 :=
  (ts.filterMap id).foldl (fun m t => m ||| BitVec.ofNat 16 (2 ^ t.toNat)) 0

/-- The tags that a bundle awaits: those of its WAIT_MASK (R109), and for an access those of the FENCEs on their way, or, of a FENCE
that sets no tag, those of what it still covers (R265; DEDUCED, assumption 102: R18 and R92 let a bundle issue at its stated cycle and
R265 lets no access issue before the FENCE completes, so an access that comes sooner holds as for a tag). -/
def issueMask (x : Engine) (p : Placed) : BitVec 16 :=
  if isAccess p.cls then
    p.b.waitMask ||| maskOf (x.inflight.flatMap fun f =>
      if !f.fence then [] else if f.tag.isSome then [f.tag] else
        (x.inflight.filter fun g => !g.fence && decide (g.number < f.number)).map (·.tag))
  else p.b.waitMask

/-- The cycle in which a bundle issues when its tags have landed: its stated cycle and the engine's hold (R119), for an access not
before the completion of a FENCE that sets no tag (R265). -/
def issueAt (s : State) (x : Engine) (p : Placed) : Nat :=
  if isAccess p.cls then
    ((x.inflight.filter fun f => f.fence && f.tag.isNone).map fun f => landCycle s x f 0).foldl max (p.b.issue + x.hold)
  else p.b.issue + x.hold

/-- Whether nothing of the pass has to happen before a cycle: no engine has a bundle to issue before it (those that hold, or
have abandoned the beat, have none), and no remote write and no completion that sets a tag lands before it, but one that
refresh may make late (R92, R110, R272). -/
def inTurn (s : State) (cycle : Nat) : Bool :=
  (s.passes.all fun p => p.engines.all fun e =>
    let x := engGet s e
    x.abandoned || isHeld x || match (runOf s e).bind fun r => nextBundle s r e with
      | some b => decide (cycle ≤ issueAt s x b)
      | none => true)
  && s.engines.all fun (_, x) => (x.incoming.all fun w => decide (cycle ≤ w.land))
    && x.inflight.all fun f => f.tag.isNone || fenceWaits x f || decide (cycle ≤ landCycle s x f 0) || mayBeLate s (homeLins f)

/-- What the agenda has before the next issue and the next landing takes place, for as many tasks as the fuel allows. -/
def advance (s : State) : Nat → State
  | 0 => s
  | fuel + 1 =>
    match s.agenda with
    | [] => s
    | x :: t => if inTurn s (x.cycle + 1) then advance (runTask { s with agenda := t } x) fuel else s

/-- The jobs that a bundle serves (R529): those of its rows' slots, of the slots of its bytes, or all those of the pass. -/
def bundleJobs (s : State) (e : Nat) (r : Run) (cls : BundleClass) (b : Bundle) : List Nat :=
  let all := (jobsOf s r).map (·.num)
  if r.img.slots ≤ 1 then all
  else match cls with
    | .rows =>
      let ks := ((List.range b.rows).map fun j => rowSlot s e r (rowAm b j)).dedup
      if ks.contains none then all else ks.filterMap fun k => (k.bind (jobOf s r)).map (·.num)
    | .epi => ((opOf r.img b.op).map fun o => epiServed s r o b (attnMode s e r.img o == 1)).getD all
    | .mread | .mwrite | .atomic => ((bundlePieces s r b b.size).flatMap (pieceJobs s r)).dedup
    | _ => all

/-- Words of the Instruction Store in error, which a bundle's fetch meets (R66): poisoned, they reach the jobs that the bundle
serves (R529). -/
def fetchErrors (s : State) (e : Nat) (r : Run) (cls : BundleClass) (b : Bundle) (finds : List EccFind) : State :=
  let hit := (finds.filter fun f => decide (0x300000 ≤ f.addr)).map fun f => { f with addr := winAddr e f.addr }
  if hit.isEmpty then s
  else
    let s := eccScan s (hit.map (·.addr)) hit
    if hit.any fun f => s.poison.contains (wordAt f.addr) then failAt s (bundleJobs s e r cls b) .eccUncorrectable else s

/-- The bytes that land, in the cycle of a bundle's issue, with a tag that it awaits: what the cycle reads for earlier bundles comes
first, and the bundle reads them landed (R65, R166). -/
def landAwaited (s : State) (e cycle : Nat) (mask : BitVec 16) : State :=
  let due (x : Timed) : Bool := x.engine == e && x.cycle == cycle && match x.task with
    | .land (some t) _ _ _ _ => mask.getLsbD t.toNat
    | _ => false
  if s.agenda.all fun x => !due x then s
  else
    let now (x : Timed) : Bool := due x || (x.cycle == cycle && x.rank == rankRead)
    (s.agenda.filter now).foldl runTask { s with agenda := s.agenda.filter fun x => !now x }

/-- Issues a bundle (R18, R92, R109, R119): nothing when the engine runs no pass, a group member waits for the start of its beat
(R297), the engine has abandoned the beat (R305), or the bundle is not the program's next one, in turn, when what earlier
cycles have under way has taken place; a hold when an awaited tag has not landed; otherwise its effect, at its stated cycle
plus the accumulated hold. -/
def issueBundle (cls : BundleClass) (v : BundleEvent) (f : Run → Nat → State → State) (s : State) : State :=
  let e := v.engine
  match runOf s e with
  | none => s
  | some r =>
    let x := engGet s e
    let p : Placed := ⟨cls, v.bundle⟩
    let cycle := issueAt s x p
    let u := settled s cycle
    if waitsForGroup s ∨ x.abandoned ∨ nextBundle s r e ≠ some p ∨ !inTurn u cycle then s
    else if !tagsLanded x (issueMask x p) then beginHold s r e v.bundle (issueMask x p)
    else
      let s := fetchErrors (landAwaited (landUntagged u e cycle) e cycle v.bundle.waitMask) e r cls v.bundle v.sram
      let x := engGet s e
      f r cycle (engSet s e (tagSet { x with holding := none, next := x.next + 1, hold := cycle - v.bundle.issue } v.bundle.setTag))

/-- The place of the bundle that an engine has just issued. -/
def numberOf (s : State) (e : Nat) : Nat := (engGet s e).next

/-- An RMO of an engine to this device and its completion cycle (R534). -/
def rmoNote (s : State) (e number cycle : Nat) : State :=
  let x := engGet s e
  engSet s e { x with rmos := (number, cycle) :: x.rmos.filter fun y => y.1 != number }

/-- A completion on its way; its bytes land at 256 B per cycle (R65, R111). -/
def launch (s : State) (e : Nat) (f : Inflight) : State :=
  let x := engGet s e
  let s := engSet s e { x with inflight := x.inflight ++ [f] }
  if f.old.isEmpty then s else taskAt s e (fillStart f.due f.old.length) rankFill (.fill f.number)

/-- Broadcasts of an array recorded for the gaps of R79. -/
def noteCasts (s : State) (e : Nat) (o : OpRec) (b : Bundle) (cycle : Nat) : State :=
  (arraysOf b).foldl (fun s k =>
    let x := engGet s e
    engSet s e (arraySet x k { arrayGet x k with cast := some (s.beats * 4096 + cycle + 5 + b.rows * rowCycles o) })) s

/-! ## The classes -/

/-- NOP. -/
def execNop (v : BundleEvent) (s : State) : Host.Outcome State Fault Refusal :=
  .next (issueBundle .nop v (fun _ _ s => s) { s with out := [] })

/-- ROWS (R71). -/
def execRows (v : BundleEvent) (s : State) : Host.Outcome State Fault Refusal :=
  .next (issueBundle .rows v (fun r cycle s =>
    match opOf r.img v.bundle.op with
    | none => s
    | some o => noteCasts (doRows s v.engine r o v.bundle cycle v.sram) v.engine o v.bundle cycle) { s with out := [] })

/-- WLOAD (R72). -/
def execWload (v : BundleEvent) (s : State) : Host.Outcome State Fault Refusal :=
  .next (issueBundle .wload v (fun _ cycle s => doWload s v.engine cycle v.bundle v.sram) { s with out := [] })

/-- The route of a bundle's RMO to the bytes of its parts (R114): the slowest of their routes. -/
def bundleRoute (s : State) (r : Run) (e : Nat) (b : Bundle) (n : Nat) : Route :=
  let route (p : Share) : Route := spanRoute e (runAddr r (localOf (pieceAddr s r b.addr p))) p.len
  match bundlePieces s r b n with
  | [] => spanRoute e (runAddr r (localOf b.addr)) n
  | p :: t => (t.map route).foldl slower (route p)

/-- Whether a route ends in an engine window. -/
def isWindowRoute : Route → Bool
  | .sameWindow | .facingWindow | .diagonalWindow => true
  | _ => false

/-- The bytes that an EPI row of W columns stores (R158, R172). -/
def epiStored (i : Image) (o : OpRec) (mode1 : Bool) (w : Nat) : Nat :=
  if mode1 then 8 else ceilDiv (outCount o w * destWidth i o) 8

/-- The slowest route of an EPI's rows, each to its own bytes (R114, R534). -/
def epiRoute (s : State) (e : Nat) (r : Run) (o : OpRec) (b : Bundle) : Route :=
  let mode1 := attnMode s e r.img o == 1
  let n := epiStored r.img o mode1 (epiW s e r o b)
  let route (j : Nat) : Route :=
    spanRoute e (runAddr r (localOf (bundleAddr s r.img (slotBase s r (rowPos s r o b mode1 j).slot) (b.addr + BitVec.ofNat 64 (j * b.dstStride))))) n
  ((List.range (b.rows - 1)).map fun j => route (j + 1)).foldl slower (route 0)

/-- EPI (R112): its AM reads begin two cycles after the issue. Its completion as an RMO is the visibility or the landing
of its last output (R534); into its own window that output itself is the write (R64). -/
def execEpi (v : BundleEvent) (s : State) : Host.Outcome State Fault Refusal :=
  .next (issueBundle .epi v (fun r cycle s =>
    match opOf r.img v.bundle.op with
    | none => s
    | some o =>
      let e := v.engine
      let b := v.bundle
      let last := lastOutput o b.rows (epiW s e r o b) cycle
      let x := epiRoute s e r o b
      let own := decide (winAddr e 0 ≤ runAddr r (localOf b.addr) ∧ runAddr r (localOf b.addr) < winAddr (e + 1) 0)
      let t := if own then 0 else if isWindowRoute x then landLatency x else visibleLatency x
      let s := noteStore s e (numberOf s e) (epiServed s r o b (attnMode s e r.img o == 1))
      let s := taskAt s e (cycle + 1 + readCycles o) rankRead (.epi b cycle (numberOf s e) v.sram v.mem 0 [] [])
      if isHere s b.addr then rmoNote s e (numberOf s e) (last + t) else s) { s with out := [] })

/-- The cycle in which an MREAD from an engine window begins to read its source (R114). -/
def pullDelay (x : Route) : Nat :=
  match x with
  | .facingWindow => 64
  | .diagonalWindow => 128
  | _ => 32

/-- A part of a bundle's span with its address as the engine uses it, its jobs, and whether the engine may access it: a part of an
empty slot is none to access (R76), and one in a closed region is refused (R32). -/
structure Part where
  p     : Share
  addr  : Nat
  jobs  : List Nat
  empty : Bool
  open_ : Bool
  deriving DecidableEq, Repr

/-- The parts of a bundle's span of n bytes. -/
def bundleParts (s : State) (r : Run) (b : Bundle) (n : Nat) (write : Bool) : List Part :=
  (bundlePieces s r b n).map fun p =>
    let a := runAddr r (localOf (pieceAddr s r b.addr p))
    { p := p, addr := a, jobs := pieceJobs s r p, empty := pieceEmpty s r p, open_ := isHere s b.addr && spanOpen s a p.len write }

/-- The jobs of parts. -/
def partsJobs (l : List Part) : List Nat := (l.flatMap (·.jobs)).dedup

/-- Fails the jobs of a part whose slot is known; poison in bytes of no known slot goes with them to what reads them (R529). -/
def failPart (s : State) (x : Part) (bad : Bool) : State := if bad ∧ x.p.slot.isSome then failAt s x.jobs .eccUncorrectable else s

/-- What an MREAD of a stack or the hub takes of its parts at a cycle: the bytes, the places of poisoned ones. -/
def readParts (s : State) (e cycle : Nat) (hint : BitVec 8) (parts : List Part) : Bytes × List Nat × State :=
  parts.foldl (fun ((old, bad, s) : Bytes × List Nat × State) x =>
    if x.empty || !x.open_ then (old ++ List.replicate x.p.len 0, bad, s)
    else
      let lins := spanLinear x.addr x.p.len
      let s := qcAccess (failPart s x (anyBad s lins)) hint x.addr x.p.len
      let (b, s) := schedRead s e cycle lins
      (old ++ b, bad ++ (badPlaces s lins).map (· + x.p.off), s)) ([], [], s)

/-- MREAD (R107, R111, R115, R116): bytes of a stack or the hub are those at the issue (DEDUCED, assumption 51), bytes of
an engine window are read as R114 says; they land by the due cycle, or later when the completion is late. Bytes that belong to
the rows of a slot come from its job's tensors (R74); those of an empty slot are zeros (R76). -/
def execMread (v : BundleEvent) (s : State) : Host.Outcome State Fault Refusal :=
  .next (issueBundle .mread v (fun r cycle s =>
    let e := v.engine
    let b := v.bundle
    let number := numberOf s e
    let parts := bundleParts s r b b.size false
    let jobs := partsJobs parts
    let a := (parts.head?.map (·.addr)).getD 0
    let due := b.due + (engGet s e).hold
    let closed := parts.filter fun x => !x.empty && !x.open_
    let used := parts.filter fun x => !x.empty && x.open_
    let s := if closed.isEmpty then s
      else refusedAccess s (unitOf 1 e) (partsJobs closed) (refusalCode s ((closed.head?.map (·.addr)).getD 0) ((closed.head?.map (·.p.len)).getD 0))
    if used.isEmpty then
      launch (rmoNote s e number due) e
        { tag := b.setTag, due := due, dest := b.abOff, old := List.replicate b.size 0, slots := jobs, number := number }
    else if sramBase ≤ a ∧ a < hubBase then
      taskAt (launch (rmoNote s e number due) e
          { tag := b.setTag, due := due, dest := b.abOff, old := List.replicate b.size 0, slots := jobs, number := number })
        e (cycle + pullDelay (bundleRoute s r e b b.size)) rankRead (.pull number a v.mem b.size)
    else
      let lins := used.flatMap fun x => spanLinear x.addr x.p.len
      let s := eccScan (forceAtomics s e lins) lins v.mem
      let (old, bad, s) := readParts s e cycle b.hint parts
      let late := if 0 < v.late ∧ mayBeLate s lins then v.late else 0
      launch (rmoNote s e number (due + late)) e
        { tag := b.setTag, due := due + late, dest := b.abOff, old := old, src := used.map fun x => (x.p.off, x.addr, x.p.len)
          slots := jobs, poisoned := bad, number := number, since := s.stores.length, late := late
          home := (used.filter fun x => isStack x.addr).map fun x => (x.addr, x.p.len) }) { s with out := [] })

/-- MWRITE (R107, R115, R137): the AB bytes are those at the issue (R166). Bytes for memory that belong to the rows of a slot go to
its job's tensors (R74), and those of an empty slot nowhere (R76). -/
def execMwrite (v : BundleEvent) (s : State) : Host.Outcome State Fault Refusal :=
  .next (issueBundle .mwrite v (fun r cycle s =>
    let e := v.engine
    let b := v.bundle
    let number := numberOf s e
    let parts := bundleParts s r b b.size true
    let (bytes, _, s) := winRead s e b.abOff b.size v.sram
    let places := badPlaces s ((List.range b.size).map fun i => winAddr e b.abOff + i)
    let x := bundleRoute s r e b b.size
    let land := cycle + landLatency x + b.size / 256
    let visible := cycle + visibleLatency x + b.size / 256
    let s := if isHere s b.addr then rmoNote s e number (if isWindowRoute x then land else visible) else s
    let s := noteStore s e number (partsJobs parts)
    if isWindowRoute x || !isHere s b.addr then
      let s := parts.foldl (fun s x => failPart s x (places.any fun i => decide (x.p.off ≤ i ∧ i < x.p.off + x.p.len))) s
      schedWrite s e r number [] (partsJobs parts) b.hint (ownBundle s r b).addr bytes land visible places v.mem
    else parts.foldl (fun s x =>
      let bad := (places.filter fun i => decide (x.p.off ≤ i ∧ i < x.p.off + x.p.len)).map (· - x.p.off)
      if x.empty then s
      else schedWrite (failPart s x (!bad.isEmpty)) e r number [] x.jobs b.hint (pieceAddr s r b.addr x.p) (slice bytes x.p.off x.p.len)
        land visible bad v.mem) s) { s with out := [] })

/-- ATOMIC (R107, R139, R140): the request reaches its home when its route's fixed latency has passed; requests that
arrive in one cycle apply in ascending engine number. The value found returns in its due cycle. A request with poisoned operands
is a poisoned transfer (R66). -/
def execAtomic (v : BundleEvent) (s : State) : Host.Outcome State Fault Refusal :=
  .next (issueBundle .atomic v (fun r cycle s =>
    let e := v.engine
    let b := v.bundle
    let own := ownBundle s r b
    let w := b.size
    let number := numberOf s e
    let jobs := atomicJobs s r b
    let (ops, bad, s) := winRead s e b.abOff (if b.kind = .cas then 2 * w else w) v.sram
    let s := noteStore s e number jobs
    let s := if bad then
        let x := engGet s e
        failAt (engSet s e { x with badStores := number :: x.badStores }) jobs .eccUncorrectable
      else s
    if !isHere s b.addr then
      (if b.kind = .atomicAdd then remoteDeviceWrite s (unitOf 1 e) r.img.id jobs 0x03 b.addr ops
       else refusedAccess s (unitOf 1 e) jobs)
    else
      let a := runAddr r (localOf own.addr)
      let late := if 0 < v.late ∧ mayBeLate s (spanLinear a w) then v.late else 0
      let x := routeOf e (linearOf a)
      let due := if b.kind = .atomicAdd then cycle + atomicLatency x else b.due + (engGet s e).hold + late
      let s := rmoNote s e number due
      let s := if b.kind = .atomicAdd then s else
        launch s e { tag := b.setTag, due := due, dest := b.retOff, old := List.replicate w 0, slots := jobs
                     number := number, late := late, home := if isStack a then [(a, w)] else [] }
      if !spanOpen s a w true ∨ !(isStack a || regionOf a == .hubGeneral) then
        refusedAccess s (unitOf 1 e) jobs (refusalCode s a w true)
      else taskAt (qcAccess s b.hint a w) e (cycle + homeLatency x) (rankRemote e) (.atomic b number a ops v.mem)) { s with out := [] })

/-- FENCE (R534): its tag lands at its DUE, or 16 cycles after the latest completion that it covers. -/
def execFenceBundle (v : BundleEvent) (s : State) : Host.Outcome State Fault Refusal :=
  .next (issueBundle .fence v (fun _ _ s =>
    let x := engGet s v.engine
    launch s v.engine { tag := v.bundle.setTag, due := v.bundle.due + x.hold, dest := 0, old := [], number := x.next, fence := true }) { s with out := [] })

/-! ## Arrivals (R114, R116, R532) -/

/-- Whether a remote write of an offset and a size matches an ARRIVE of a source. -/
def arrivalTakes (y : Arrival) (source : Nat) (remote : Bool) (off n : Nat) : Bool :=
  y.source == source && y.remote == remote && decide (y.offset ≤ off) && decide (off + n ≤ y.offset + y.count)
    && decide (y.got < y.count)

/-- The ARRIVE that landed bytes match (R532): of those around them that still lack bytes, the earliest due, since a source's writes
land in the order in which their ARRIVEs are due. -/
def arrivalFor (l : List Arrival) (source : Nat) (remote : Bool) (off n : Nat) : Option Arrival :=
  (l.filter fun y => arrivalTakes y source remote off n).foldl (fun (m : Option Arrival) y => match m with
    | none => some y
    | some z => if y.dueBeat < z.dueBeat ∨ (y.dueBeat = z.dueBeat ∧ y.due < z.due) then some y else m) none

/-- Counts landed bytes toward the ARRIVE that they match; a complete one lands its tag. Bytes that no ARRIVE
has declared yet are remembered. -/
def arrivalCount (s : State) (e source : Nat) (remote : Bool) (off n cycle : Nat) : State :=
  let x := engGet s e
  match arrivalFor x.arrivals source remote off n with
  | none => engSet s e { x with early := x.early ++ [(source + (if remote then 65536 else 0), off, n)] }
  | some y =>
    let y' := { y with got := y.got + n }
    if y'.got < y.count then engSet s e { x with arrivals := x.arrivals.map fun z => if z = y then y' else z }
    else
      let x := tagLand { x with arrivals := x.arrivals.filter fun z => z != y } y.tag
      endHold (noteLate (engSet s e x) (decide (y.due < cycle)) cycle) e (max y.due cycle)

/-- ARRIVE (R107, R532): with a due beat offset the source is a group member; on a mirrored partner it is the partner's
engine of the primary's (R308). -/
def execArrive (v : BundleEvent) (s : State) : Host.Outcome State Fault Refusal :=
  .next (issueBundle .arrive v (fun r cycle s =>
    let e := v.engine
    let b := v.bundle
    let x := engGet s e
    let remote := decide (0 < b.dueBeat)
    let y : Arrival := { tag := b.setTag, source := if r.partner ∧ !remote then b.source + 64 else b.source, remote := remote, offset := b.abOff, count := b.size, got := 0
                         due := b.due + x.hold, dueBeat := b.dueBeat }
    let mine := x.early.filter fun (k, off, n) => arrivalTakes y (k % 65536) (decide (65536 ≤ k)) off n
    let s := engSet s e { x with arrivals := x.arrivals ++ [y], early := x.early.filter fun z => !mine.contains z }
    mine.foldl (fun s (k, off, n) => arrivalCount s e (k % 65536) (decide (65536 ≤ k)) off n cycle) s) { s with out := [] })

/-- What is left of the bytes of a remote write that has left the engine's list lands, and its ARRIVE counts them. -/
def landRemote (s : State) (e : Nat) (w : RemoteWrite) : State :=
  let bad := (w.poisoned.filter fun i => decide (w.filled ≤ i)).map (· - w.filled)
  let tag := (arrivalFor (engGet s e).arrivals w.source false w.offset w.data.length).bind (·.tag)
  let s := landRest256 s e w.land (rankRemote w.source) tag (w.offset + w.filled) (w.data.drop w.filled) bad w.contexts
  arrivalCount s e w.source false w.offset w.data.length w.land

/-- A scheduled remote write lands (R114, R365), when the engines have come to its landing cycle. One that no bundle has sent
yet is looked for when what precedes the next issue and the next landing has taken place. -/
def execRemoteWriteLanding (engine : Nat) (k : Nat) (s : State) : Host.Outcome State Fault Refusal :=
  let s : State := { s with out := [] }
  let u := if (engGet s engine).incoming[k]?.isSome then s else advance s agendaFuel
  match (engGet u engine).incoming[k]? with
  | none => .next s
  | some w =>
    let u := settled u w.land
    if !inTurn u w.land then .next s
    else
      let x := engGet u engine
      match x.incoming[k]? with
      | none => .next s
      | some w => .next (landRemote (engSet u engine { x with incoming := x.incoming.eraseIdx k }) engine w)

/-- A completion lands at its due cycle, or at the cycle `ready` where refresh makes it late (R111, R272), when the engines
have come to that cycle; a FENCE after what it covers (R534). -/
def execCompletionLanded (engine : Nat) (tag : BitVec 4) (ready : Nat) (s : State) :
    Host.Outcome State Fault Refusal :=
  let s : State := { s with out := [] }
  let x := engGet s engine
  match x.inflight.find? (fun f => f.tag == some tag) with
  | none => .next s
  | some f =>
    let cycle := landCycle s x f ready
    let u := settled s cycle
    if fenceWaits x f ∨ !inTurn u cycle then .next s
    else
      let s := u
      let x := engGet s engine
      match x.inflight.find? (fun g => g.number == f.number) with
      | none => .next s
      | some f =>
        let s := engSet s engine { x with inflight := x.inflight.filter fun g => g.number != f.number }
        let s := if f.due < cycle ∧ !f.fence then rmoNote s engine f.number cycle else s
        .next (landCompletion s engine f cycle)

/-- The step-clock cycles that an engine's hold has lasted by DT (R4). -/
def heldCycles (s : State) (e : Nat) : Nat := (s.clock.dt - (engGet s e).holdAt) * fNow s / (16 * 2 ^ 32)

/-- After 256 cycles of a hold in SIMMER mode an array ramps down (R81). -/
def execHoldSimmerExpiry (engine : Nat) (arr : Nat) (s : State) : Host.Outcome State Fault Refusal :=
  let s : State := { s with out := [] }
  let x := engGet s engine
  if isHeld x ∧ 256 ≤ heldCycles s engine ∧ !s.power.ramp ∧ arr < 4 then
    .next (engSet s engine (arraySet x arr { arrayGet x arr with down := true }))
  else .next s

/-- A completion on its way whose transfer a link has poisoned: all its bytes, those landed included. -/
def poisonFlight (s : State) (e : Nat) (f : Inflight) : State :=
  let s := inflightSet s e { f with poisoned := List.range f.old.length }
  if f.filled = 0 then s else taintSet s (winAddr e f.dest) f.filled true

/-- A flit that a die-to-die link cannot correct (R14): logged on its edge, HEALTH at least NOTICE, and the transfer that
it belongs to is poisoned: a completion on its way, a remote write on its way, the engine's latest store or atomic request, bytes
that a host or a peer has written, or those that its next READ returns. The data keeps its mark where it goes; the jobs that it reaches end. -/
def execD2dFlitUncorrectable (edge engine : Nat) (target : FlitTarget) (s : State) :
    Host.Outcome State Fault Refusal :=
  let s := notice (logEvent { s with out := [] } 0x0204 (unitOf 7 edge) none []) 0
  let x := engGet s engine
  let jobs := match runOf s engine with
    | some r => if r.img.slots = 1 then (jobsOf s r).map (·.num) else []
    | none => []
  match target with
  | .completion k =>
    match x.inflight[k]? with
    | none => .next s
    | some f => .next (failAt (poisonFlight s engine f) jobs .eccUncorrectable)
  | .arriving k =>
    match x.incoming[k]? with
    | none => .next s
    | some w =>
      let w' := { w with poisoned := List.range w.data.length }
      let s := engSet s engine { x with incoming := x.incoming.set k w' }
      let s := if w.filled = 0 then s else taintSet s (winAddr engine w.offset) w.filled true
      .next (failAt s jobs .eccUncorrectable)
  | .store =>
    let s := engSet s engine { x with badStores := x.lastNumber :: x.badStores }
    let s := x.lastSpans.foldl (fun s (a, n) => (wordsOf (spanLinear a n)).foldl poisonAdd s) s
    .next (failAt s x.lastStore .eccUncorrectable)
  | .outside a n => .next (if spanOpen s a n true then (wordsOf (spanLinear a n)).foldl poisonAdd s else s)
  | .hostRead n => .next { s with flitReads := (s.flitReads ++ [n]).dedup }

end Sys2Proof.Machine
end

