-- ==== Sys2Proof/Machine/ImageCapacity.lean ====
section
/-! DEFINITION. The capacity check of a placement and what the device records of it (R102, R117, R224): step 11 of
R125. -/

namespace Sys2Proof.Machine

open Sys2Proof

/-- The larger of two loads, channel by channel and edge by edge. -/
def loadMax (a b : Load) : Load :=
  { channels := a.channels.map fun (c, n) => (c, max n ((sfind b.channels c).getD 0))
    edges := a.edges.map fun (e, n) => (e, max n ((sfind b.edges e).getD 0)) }

/-- A load of nothing. -/
def loadZero : Load := { channels := (List.range 128).map fun c => (c, 0), edges := (List.range 16).map fun e => (e, 0) }

/-- What R102 records of a placement. -/
def loadOf (x : Place) : Load :=
  (List.range x.img.beats).foldl (fun l b => (List.range 8).foldl (fun l w =>
    loadMax l (windowLoad x.img (instsAt x b) b w)) l) loadZero

/-- The quarter slots of a channel in a window that an ASYNC_SHARE leaves to the schedule (R117). -/
def slotLimit (a : Nat) : Nat := 4 * (160 - 10 * a)

/-- The bytes of an edge direction in a window that an ASYNC_SHARE leaves to the schedule (R117). -/
def edgeLimit (a : Nat) : Nat := 64000 * (16 - a)

/-- Whether a load fits beside an ASYNC_SHARE. -/
def loadFits (a : Nat) (l : Load) : Bool :=
  l.channels.all (fun (_, n) => decide (n ≤ slotLimit a)) && l.edges.all fun (_, n) => decide (n ≤ edgeLimit a)

/-- What a window over its capacity records (R126): the first bundle of the window that loads the channel or the edge, or
the stack whose kernels do. -/
def overloaded (x : Place) (vs : List Inst) (w : Nat) (l : Load) : Broken :=
  let mine := vs.filter fun v => v.p.b.issue / 512 == w
  let ch := l.channels.find? fun (_, n) => decide (slotLimit x.img.async < n)
  let ed := l.edges.find? fun (_, n) => decide (edgeLimit x.img.async < n)
  let by_ (v : Inst) : Bool := match ch, ed with
    | some (c, _), _ => (chargesOf (spansOfBundle x.img v)).any (·.1 == c)
    | none, some (e, _) => (edgesOf x.img v).any (·.1 == e)
    | none, none => false
  match mine.find? by_ with
  | some v => breaks x v 117
  | none => { sec := 5, index := (ch.map (·.1 / 16)).getD 0, rule := 117 }

/-- Step 11 of R125 for a placement. -/
def step11 (x : Place) : Chk :=
  eachBeat x fun b vs => eachOf (List.range 8) fun w =>
    let l := windowLoad x.img vs b w
    if loadFits x.img.async l then none else some (overloaded x vs w l)

end Sys2Proof.Machine
end

