-- ==== Sys2Proof/Machine/Draws.lean ====
section
/-! DEFINITION. Normal, uniform and dropout values of a draw (R209 to R211). The coefficients are those that
R211 defines; they were computed from its formula outside the model. -/

namespace Sys2Proof.Machine

open Sys2Proof

/-- Coefficients of R211, binades 0 to 3, four segments each. -/
def normalPart0 : List (Word × Word × Word × Word) :=
  [(0x3F144201, 0xBF3DB6D5, 0x3E22D7A3, 0xBDE81A36)
  , (0x3ECDF3B8, 0xBF2DF141, 0x3DBE29D7, 0xBD8DB8AA)
  , (0x3E72E51C, 0xBF25005D, 0x3D49CF81, 0xBD4B5BE7)
  , (0x3DA096B0, 0xBF20EB0C, 0x3C7DCECA, 0xBD2BA32B)
  , (0x3F89EC08, 0xBF0F561E, 0x3E2CF3D0, 0xBDC70A01)
  , (0x3F72604A, 0xBEFB246A, 0x3DE943D2, 0xBD6101DE)
  , (0x3F549C5C, 0xBEE27D26, 0x3DA66AE3, 0xBD0C9CD8)
  , (0x3F3979C6, 0xBED09251, 0x3D763BC9, 0xBCBD3275)
  , (0x3FBC9A96, 0xBEED83A8, 0x3E225964, 0xBDB6096E)
  , (0x3FAEDFC4, 0xBECBF620, 0x3DDE0270, 0xBD4C4260)
  , (0x3FA2E7CA, 0xBEB449B8, 0x3DA1977A, 0xBCFCB947)
  , (0x3F98368A, 0xBEA2ABCD, 0x3D75D710, 0xBCA7A1D5)
  , (0x3FE7AA8D, 0xBECE4F7C, 0x3E167624, 0xBDA8A3E9)
  , (0x3FDBCE22, 0xBEAF34C8, 0x3DCDEA1B, 0xBD3CB13B)
  , (0x3FD193E1, 0xBE993B0D, 0x3D962BCF, 0xBCE8D437)
  , (0x3FC88940, 0xBE88D60A, 0x3D652DB8, 0xBC9A025D)]

/-- Coefficients of R211, binades 4 to 7, four segments each. -/
def normalPart1 : List (Word × Word × Word × Word) :=
  [(0x4006D1C8, 0xBEB86921, 0x3E0BEB1A, 0xBD9D7F09)
  , (0x40018970, 0xBE9B81FD, 0x3DBF320B, 0xBD2FD7C4)
  , (0x3FFA0683, 0xBE871D1D, 0x3D8B4B54, 0xBCD8904F)
  , (0x3FF213CD, 0xBE6FD2B2, 0x3D54731B, 0xBC8F01A1)
  , (0x4017F5F4, 0xBEA80563, 0x3E02EBBE, 0xBD94147B)
  , (0x401328C0, 0xBE8D003C, 0x3DB29237, 0xBD2506BA)
  , (0x400F10EA, 0xBE73EF6D, 0x3D81E626, 0xBCCAEB2A)
  , (0x400B7C6A, 0xBE57996E, 0x3D45DE33, 0xBC85CE78)
  , (0x4027B091, 0xBE9B31F7, 0x3DF683C8, 0xBD8C0768)
  , (0x4023432F, 0xBE81C71E, 0x3DA7D43C, 0xBD1BCF05)
  , (0x401F8045, 0xBE5FCDF7, 0x3D73CF58, 0xBCBF52C6)
  , (0x401C38A0, 0xBE453AA8, 0x3D3973C6, 0xBC7C0410)
  , (0x40364B84, 0xBE90D2B9, 0x3DE95CBE, 0xBD85117C)
  , (0x40322B49, 0xBE718F0A, 0x3D9EA275, 0xBD13DD4F)
  , (0x402EAC34, 0xBE4FC9A6, 0x3D6626E5, 0xBCB55B46)
  , (0x402BA17E, 0xBE36B710, 0x3D2EDC8A, 0xBC6EA3E0)]

/-- Coefficients of R211, binades 8 to 11, four segments each. -/
def normalPart2 : List (Word × Word × Word × Word) :=
  [(0x4043FADD, 0xBE8838C6, 0x3DDDF710, 0xBD7DF9DE)
  , (0x40401A67, 0xBE62BBB7, 0x3D96B0B1, 0xBD0CF1F3)
  , (0x403CD309, 0xBE42ABC8, 0x3D5A60FF, 0xBCACB266)
  , (0x4039FA17, 0xBE2AE47E, 0x3D25C02D, 0xBC630B2B)
  , (0x4050E4DD, 0xBE80F20F, 0x3DD3FDDB, 0xBD7340D7)
  , (0x404D3A35, 0xBE564220, 0x3D8FC1EF, 0xBD06DC1E)
  , (0x404A219C, 0xBE37AF7E, 0x3D502121, 0xBCA5191E)
  , (0x40477243, 0xBE210857, 0x3D1DD5CA, 0xBC58E348)
  , (0x405D2691, 0xBE756178, 0x3DCB2F11, 0xBD69B7D1)
  , (0x4059AA10, 0xBE4B9491, 0x3D89A69E, 0xBD017610)
  , (0x4056B96C, 0xBE2E5173, 0x3D471EEB, 0xBC9E5ED1)
  , (0x40542D7B, 0xBE18A751, 0x3D16E420, 0xBC4FE97A)
  , (0x4068D69C, 0xBE6A7B57, 0x3DC3573A, 0xBD612CA5)
  , (0x4065823E, 0xBE424FB0, 0x3D8439BD, 0xBCF944AD)
  , (0x4062B43B, 0xBE26365E, 0x3D3F2216, 0xBC985DA4)
  , (0x406046E3, 0xBE116C62, 0x3D10BEAC, 0xBC47E9E9)]

/-- Coefficients of R211, binades 12 to 15, four segments each. -/
def normalPart3 : List (Word × Word × Word × Word) :=
  [(0x4074070B, 0xBE60E146, 0x3DBC4DEC, 0xBD59779C)
  , (0x4070D5FB, 0xBE3A2B93, 0x3D7EBC9C, 0xBCF09365)
  , (0x406E2659, 0xBE1F1CA2, 0x3D37FEA5, 0xBC92F7CF)
  , (0x406BD3C6, 0xBE0B1AD1, 0x3D0B42AF, 0xBC40BBDF)
  , (0x407EC684, 0xBE585708, 0x3DB5F31A, 0xBD5278EB)
  , (0x407BB4D0, 0xBE32F2C3, 0x3D75FACC, 0xBCE8B32C)
  , (0x40792019, 0xBE18D3C3, 0x3D3191E4, 0xBC8E159C)
  , (0x4076E531, 0xBE0585FA, 0x3D0654D2, 0xBC3A3F09)
  , (0x4084908D, 0xBE50AE87, 0x3DB02D0F, 0xBD4C16D8)
  , (0x408315BF, 0xBE2C7C95, 0x3D6E0963, 0xBCE18616)
  , (0x4081D76B, 0xBE133713, 0x3D2BC02A, 0xBC89A3F7)
  , (0x4080C486, 0xBE008C41, 0x3D01DF52, 0xBC345971)
  , (0x40899072, 0xBE49C3DC, 0x3DAAE6F5, 0xBD463C59)
  , (0x40882250, 0xBE26A984, 0x3D66CAC5, 0xBCDAF3BB)
  , (0x4086EED2, 0xBE0E2A40, 0x3D26732B, 0xBC85935C)
  , (0x4085E56C, 0xBDF82797, 0x3CFBA160, 0xBC2EF608)]

/-- Coefficients of R211, binades 16 to 19, four segments each. -/
def normalPart4 : List (Word × Word × Word × Word) :=
  [(0x408E6736, 0xBE437A93, 0x3DA60FC1, 0xBD40D812)
  , (0x408D0496, 0xBE2160B4, 0x3D6026C9, 0xBCD4E804)
  , (0x408BDAEA, 0xBE09970C, 0x3D2198BE, 0xBC81D70C)
  , (0x408ADA1D, 0xBDF010BA, 0x3CF4356D, 0xBC2A038A)
  , (0x4093187E, 0xBE3DBBD1, 0x3DA19959, 0xBD3BDB8D)
  , (0x4091C060, 0xBE1C8E3F, 0x3D5A0982, 0xBCCF5242)
  , (0x40909FA9, 0xBE056BB9, 0x3D1D21F6, 0xBC7CC8F1)
  , (0x408FA6B0, 0xBDE8B3BC, 0x3CED6373, 0xBC2573AE)
  , (0x4097A76D, 0xBE387500, 0x3D9D7800, 0xBD373AA6)
  , (0x409658F5, 0xBE182204, 0x3D546260, 0xBCCA247B)
  , (0x40954073, 0xBE0199F1, 0x3D190270, 0xBC766598)
  , (0x40944EA5, 0xBDE1F6AB, 0x3CE71820, 0xBC213A88)
  , (0x409C16BF, 0xBE3396D1, 0x3D99A1D3, 0xBD32EB17)
  , (0x409AD12B, 0xBE140EC8, 0x3D4F237E, 0xBCC552E1)
  , (0x4099C03A, 0xBDFC2BF0, 0x3D152FCC, 0xBC70752C)
  , (0x4098D504, 0xBDDBC45B, 0x3CE1434B, 0xBC1D4E11)]

/-- Coefficients of R211, binades 20 to 23, four segments each. -/
def normalPart5 : List (Word × Word × Word × Word) :=
  [(0x40A068D8, 0xBE2F148E, 0x3D960E76, 0xBD2EE421)
  , (0x409F2B7F, 0xBE104994, 0x3D4A411E, 0xBCC0D36D)
  , (0x409E218C, 0xBDF5AC37, 0x3D11A14C, 0xBC6AEB09)
  , (0x409D3C6E, 0xBDD60B51, 0x3CDBD75C, 0xBC19A5C6)
  , (0x40A49FD2, 0xBE2AE38C, 0x3D92B6C7, 0xBD2B1E43)
  , (0x40A36A20, 0xBE0CC93A, 0x3D45B142, 0xBCBC9D88)
  , (0x40A266AA, 0xBDEFA483, 0x3D0E4F7E, 0xBC65BC63)
  , (0x40A18733, 0xBDD0BD01, 0x3CD6C8C6, 0xBC163A68)
  , (0x40A8BD8C, 0xBE26FAC6, 0x3D8F94A7, 0xBD279302)
  , (0x40A78EFC, 0xBE0985FF, 0x3D416B5A, 0xBCB8A9CB)
  , (0x40A69192, 0xBDEA0733, 0x3D0B3409, 0xBC60DFF2)
  , (0x40A5B75D, 0xBDCBCD2C, 0x3CD20DAD, 0xBC1305BA)
  , (0x40ACC3B1, 0xBE23528D, 0x3D8CA2CA, 0xBD243CC0)
  , (0x40AB9BCB, 0xBE06794B, 0x3D3D6803, 0xBCB4F1CD)
  , (0x40AAA407, 0xBDE4C8B3, 0x3D084970, 0xBC5C4DAC)
  , (0x40A9CEBC, 0xBDC73174, 0x3CCD9D96, 0xBC100259)]

/-- Coefficients of R211, binades 24 to 27, four segments each. -/
def normalPart6 : List (Word × Word × Word × Word) :=
  [(0x40B0B3BC, 0xBE1FE448, 0x3D89DC9A, 0xBD211698)
  , (0x40AF9217, 0xBE039D7E, 0x3D39A0D6, 0xBCB16FFC)
  , (0x40AE9F9F, 0xBDDFDF1E, 0x3D058AF8, 0xBC57FE94)
  , (0x40ADCEED, 0xBDC2E0FF, 0x3CC9712C, 0xBC0D2B97)
  , (0x40B48F07, 0xBE1CAA46, 0x3D873E14, 0xBD1E1C3E)
  , (0x40B37343, 0xBE00EDBA, 0x3D361040, 0xBCAE1F72)
  , (0x40B285C3, 0xBDDB41F1, 0x3D02F47F, 0xBC53EC8E)
  , (0x40B1B963, 0xBDBED431, 0x3CC5820E, 0xBC0A7D5D)
  , (0x40B856C7, 0xBE199F95, 0x3D84C3B3, 0xBD1B49E9)
  , (0x40B7408D, 0xBDFCCB97, 0x3D32B15B, 0xBCAAFBE6)
  , (0x40B657BC, 0xBDD6E9CB, 0x3D008268, 0xBC50123D)
  , (0x40B58F6D, 0xBDBB0476, 0x3CC1CAA8, 0xBC07F417)
  , (0x40BC0C15, 0xBE16BFE6, 0x3D826A5F, 0xBD189C42)
  , (0x40BAFB16, 0xBDF8040A, 0x3D2F7FDC, 0xBCA8018B)
  , (0x40BA16B2, 0xBDD2D043, 0x3CFC630E, 0xBC4C6AE4)
  , (0x40B95239, 0xBDB76C15, 0x3CBE4614, 0xBC058C99)]

/-- Coefficients of R211, binades 28 to 31, four segments each. -/
def normalPart7 : List (Word × Word × Word × Word) :=
  [(0x40BFAFF2, 0xBE14076D, 0x3D802F59, 0xBD161051)
  , (0x40BEA3E7, 0xBDF37E60, 0x3D2C77F4, 0xBCA52D04)
  , (0x40BDC3B1, 0xBDCEEFB9, 0x3CF7FE1A, 0xBC48F251)
  , (0x40BD02D8, 0xBDB4060D, 0x3CBAF002, 0xBC034417)
  , (0x40C34347, 0xBE1172D5, 0x3D7C2061, 0xBD13A370)
  , (0x40C23BEF, 0xBDEF34EE, 0x3D299643, 0xBCA27B52)
  , (0x40C15FB0, 0xBDCB433E, 0x3CF3D0FD, 0xBC45A4C9)
  , (0x40C0A247, 0xBDB0CDFB, 0x3CB7C49D, 0xBC011815)
  , (0x40C6C6EC, 0xBE0EFF29, 0x3D781575, 0xBD115341)
  , (0x40C5C40A, 0xBDEB22B3, 0x3D26D7C9, 0xBC9FE9C8)
  , (0x40C4EB8E, 0xBDC7C674, 0x3CEFD74A, 0xBC427EF7)
  , (0x40C43168, 0xBDADBFFC, 0x3CB4C07D, 0xBBFE0CB4)
  , (0x40CA3BA5, 0xBE0CA9C8, 0x3D743A08, 0xBD0F1DA5)
  , (0x40C93D01, 0xBDE7433C, 0x3D2439D4, 0xBC9D7601)
  , (0x40C8681A, 0xBDC4757D, 0x3CEC0D0C, 0xBC3F7DE0)
  , (0x40C7B10D, 0xBDAAD8A2, 0x3CB1E099, 0xBBFA19D4)]


/-- The coefficients of binade i and segment q (R211). -/
def normalCoeffs (i q : Nat) : Word × Word × Word × Word :=
  (normalPart0 ++ normalPart1 ++ normalPart2 ++ normalPart3 ++ normalPart4 ++ normalPart5 ++ normalPart6
    ++ normalPart7).getD (4 * i + q) (0, 0, 0, 0)

/-- The normal value of a 32-bit word (R211). y = (2 v + 1) × 2^-32, in binade i. -/
def normalValue (w : Nat) : Word :=
  let n := 2 * (w % 2 ^ 31) + 1
  let i := 31 - log2 n
  -- t = y × 2^(i + 1) − 1 = (n − 2^(31 − i)) / 2^(31 − i)
  let top := 2 ^ (31 - i)
  let q := 4 * (n - top) / top
  let d := toF32 (vadd (valOfInt (n - top : Nat) (-(31 - i : Nat))) (valOfInt (-(2 * (q : Int) + 1)) (-3)))
  let z := cubic (normalCoeffs i q) d
  if 2 ^ 31 ≤ w then z ^^^ 0x80000000 else z

/-- The uniform value of a 32-bit word (R209). -/
def uniformValue (w : Nat) : Word := toF32 (valOfInt (w / 2 ^ 8 : Nat) (-24))

end Sys2Proof.Machine
end

