-- ==== Sys2Proof/Machine/Kernels.lean ====
section
/-! DEFINITION. The kernels of the Caldera units (R218 to R246). A kernel event is the whole kernel: what it
reads as the memory stands, and every byte that it writes. -/

namespace Sys2Proof.Machine

open Sys2Proof

/-! ## The kernel that runs -/

/-- A kernel with the pass that it serves; `partner` when it is the copy that a mirrored partner's stack runs
(R308). -/
structure KRun where
  k   : Kernel
  run : Run
  deriving DecidableEq, Repr

/-- Every kernel of an image with its stack and its place in the program. -/
def kernelsAll (i : Image) : List (Nat × Nat × KernelRec) :=
  i.calderas.flatMap fun (st, ks) => ks.zipIdx.map fun (r, n) => (st, n, r)

/-- The kernels of a pass with the stacks that run them: on a mirrored pair, the partner's stacks too (R308). -/
def passKernels (p : Pass) (i : Image) : List (Nat × Nat × KernelRec) :=
  (kernelsAll i).flatMap fun (st, n, r) => (st, n, r) :: (if isMirrored p i then [(st + 2, n, r)] else [])

/-- Whether a kernel may start in the present beat of its pass (R18, R226): its START_BEAT has come, it has not run, and every
earlier record of its stack has, since the units of a stack start kernels in record order. A kernel is one step, so one that
reads what an earlier one writes reads it after that one's end. -/
def kernelReady (p : Pass) (i : Image) (st n : Nat) (r : KernelRec) : Bool :=
  decide (r.k.startBeat ≤ p.beat) && !p.ran.contains (st, n)
    && (passKernels p i).all fun (q, m, _) => q != st || decide (n ≤ m) || p.ran.contains (q, m)

/-- A kernel's record in a pass: its place on its stack, when it may start now. -/
def kernelTurn (s : State) (code : KernelCode) (k : Kernel) (p : Pass) : Option (Image × Nat) :=
  (imageGet s p.image).bind fun i => ((passKernels p i).find? fun (st, n, r) => st == k.stack && r.code == code
    && { r.k with image := k.image, stack := k.stack } == k && kernelReady p i st n r).map fun (_, n, _) => (i, n)

/-- The pass that a kernel runs for, when its image's program has it there now, and its place in the program; none while a group
member waits for the start of its beat (R297). -/
def kernelRun (s : State) (code : KernelCode) (k : Kernel) : Option (KRun × Nat) :=
  if waitsForGroup s then none else (s.passes.filter (fun p => p.image == k.image)).findSome? fun p => (kernelTurn s code k p).map fun (i, n) =>
    ({ k := k, run := { img := i, pass := p, partner := !i.calderas.any (fun c => c.1 == k.stack) && (k.stack / 2) % 2 == 1 } }, n)

/-- The address of a tensor as the kernel uses it for a batch slot (R74, R98). -/
def kBase (s : State) (x : KRun) (slot : Nat) (t : Tensor) : Nat := runAddr x.run (tensorAddr t (slotBase s x.run slot))

/-- The batch slot of kernel row m (R229). -/
def kSlot (k : Kernel) (m : Nat) : Nat := if k.slotRows = 0 then 0 else m / k.slotRows

/-- The address of a tensor's row for a batch slot (R227). -/
def kRowIn (s : State) (x : KRun) (slot : Nat) (t : Tensor) (row : Nat) : Nat := kBase s x slot t + row * t.stride

/-- The address of row m of a tensor (R227), at the base of the row's own job (R74). -/
def kRow (s : State) (x : KRun) (t : Tensor) (m : Nat) : Nat := kRowIn s x (kSlot x.k m) t m

/-- The logical row of kernel row m (R229). -/
def kLogical (k : Kernel) (m : Nat) : Nat := k.row0 + (if k.slotRows = 0 then m else m % k.slotRows)

/-- The job in whose slot kernel row m lies. -/
def kJob (s : State) (x : KRun) (m : Nat) : Option Ctx := jobOf s x.run (kSlot x.k m)

/-- A tensor that a parameter names. -/
def kTens (x : KRun) (off : Nat) : Option Tensor := (kTensor x.k off).bind (tensorGet x.run.img)

/-! ## Reading -/

/-- An element as a kernel reads it: stored bits, exact value, whether it is poisoned. -/
structure KElem where
  raw : Nat
  v   : Val
  bad : Bool
  deriving DecidableEq, Repr

/-- A byte as a kernel's read delivers it: one that an engine has stored in the beat is read against R115, and its granule is old
or new as an open value says. -/
def kByte (s : State) (l : Nat) : Byte :=
  let old := byteBefore s (fun _ => true) l
  if s.stores.isEmpty || old == byteAt s l then byteAt s l
  else if Config.kernelReadsOld s.beats (s.passes.map fun p => p.ran.length).sum (l / 128) then old
  else byteAt s l

/-- The bytes that a kernel reads: zero where it may not read (R32, R275). -/
def kBytes (s : State) (a n : Nat) : Bytes := if spanOpen s a n then (spanLinear a n).map (kByte s) else List.replicate n 0

/-- Whether bytes that a kernel reads are poisoned. -/
def kPoison (s : State) (a n : Nat) : Bool := !s.poison.isEmpty && anyPoison s (spanLinear a n) && spanOpen s a n

/-- n elements of a format from an address, with the block scales at another (R42, R43). -/
def kRead (s : State) (fmt : Nat) (a n : Nat) (scales : Option Nat) : List KElem :=
  let w := fmtWidth fmt
  let b := kBytes s a (packedBytes w n)
  (List.range n).map fun i =>
    let raw := elemAt w b i
    let sc := scales.map fun z => (kBytes s (z + i / 32) 1).headD 0
    { raw := raw, v := decodeScaled fmt sc raw
      bad := kPoison s (a + w * i / 8) (ceilDiv (w * i % 8 + w) 8) || scales.any fun z => kPoison s (z + i / 32) 1 }

/-- Row m of an unscaled tensor, n elements of it. -/
def kReadRow (s : State) (x : KRun) (t : Tensor) (m n : Nat) : List KElem := kRead s t.fmt (kRow s x t m) n none

/-- Row m of a tensor with a scale tensor, when it has one. -/
def kReadScaled (s : State) (x : KRun) (t : Tensor) (z : Option Tensor) (m n : Nat) : List KElem :=
  kRead s t.fmt (kRow s x t m) n (z.map fun y => kRow s x y m)

/-- An element's value as FP32: exact for an unscaled element. -/
def kWord (e : KElem) : Word := toF32 e.v

/-! ## Writing -/

/-- Runs of bytes to write, with their offsets. -/
def byteRuns : List (Byte × Bool) → Nat → List (Nat × Bytes)
  | [], _ => []
  | (_, false) :: t, i => byteRuns t (i + 1)
  | (b, true) :: t, i =>
    match byteRuns t (i + 1) with
    | (j, bs) :: r => if j = i + 1 then (i, b :: bs) :: r else (i, [b]) :: (j, bs) :: r
    | [] => [(i, [b])]

/-- A burst of a kernel's write (R219), of n bytes from byte i of them on: one that covers part of a poisoned codeword has no
effect, and fails the jobs (R255). -/
def kBurst (jobs : List Nat) (a : Nat) (b : Bytes) (s : State) (i n : Nat) : State :=
  if partialPoison s (spanLinear (a + i) n) then failAt s jobs .eccUncorrectable
  else qcInvalidate (storeBytes s (a + i) (slice b i n)) (linearOf (a + i)) n

/-- The aligned bursts of 256 B of n bytes from an address on: place and length of each. -/
def burstsOf (a n : Nat) : List (Nat × Nat) :=
  (List.range (n / 256 + 2)).filterMap fun k =>
    let i := if k = 0 then 0 else 256 * (a / 256 + k) - a
    let j := min n (256 * (a / 256 + k + 1) - a)
    if i < j then some (i, j - i) else none

/-- A kernel's write of bytes, in bursts where something is poisoned; one outside what the image may access has no effect
(R32, R275). -/
def kWrite (s : State) (jobs : List Nat) (a : Nat) (b : Bytes) : State :=
  if b.isEmpty then s
  else if !spanOpen s a b.length true then s
  else
    if s.poison.isEmpty then qcInvalidate (storeBytes s a b) (linearOf a) b.length
    else (burstsOf a b.length).foldl (fun s (i, n) => kBurst jobs a b s i n) s

/-- Writes packed elements of width w, leaving those that `ok` excludes as they are (R245). -/
def kPut (s : State) (jobs : List Nat) (a w : Nat) (bits : List Nat) (ok : List Bool) : State :=
  if ok.all id then kWrite s jobs a (pack w bits)
  else
    let old := spanRead s a (packedBytes w bits.length)
    let merged := (bits.zip ok).zipIdx.map fun ((x, k), i) => if k then x else elemAt w old i
    let hit (j : Nat) : Bool := (List.range (8 / (min w 8) + 2)).any fun d =>
      let i := 8 * j / w + d
      ok.getD i false && decide (w * i < 8 * (j + 1)) && decide (8 * j < w * (i + 1))
    let bytes := (pack w merged).zipIdx.map fun (b, j) => (b, hit j)
    (byteRuns bytes 0).foldl (fun s (o, b) => kWrite s jobs (a + o) b) s

/-- Writes FP32 words. -/
def kPutWords (s : State) (jobs : List Nat) (a : Nat) (ws : List Word) (ok : List Bool) : State :=
  kPut s jobs a 32 (ws.map (·.toNat)) ok

/-- NAN_LOST of the stack (R528). -/
def calNumev (s : State) (st n : Nat) : State := if n = 0 then s else regCount s (oCal st + 0x28) 15 0 n

/-- The settings of OUT_MODES (R222, R228). -/
def kStoreOf (x : KRun) : Store :=
  { fmt := outFmt x.k, scaled := outScaled x.k, sr := x.k.outModes.getLsbD 5, sr3 := x.run.img.sr3
    ieee := x.k.outModes.getLsbD 6 }

/-- Which elements are written: with block scales, a poisoned element takes its block with it (R245). -/
def okOf (scaled : Bool) (bad : List Bool) : List Bool :=
  if bad.all (!·) then bad.map (!·)
  else if scaled then bad.zipIdx.map fun (_, t) => !((bad.drop (32 * (t / 32))).take 32).any id
  else bad.map (!·)

/-- Stores a row of FP32 values of one job under R228: scales, final rounding, NAN_LOST, poison, digest. -/
def kStoreRow (x : KRun) (st : Store) (scales : List Byte) (s : State) (job : Ctx) (a : Nat) (z : Option Nat)
    (index : Nat → Nat) (valid : Nat → Bool) (vals : List Word) (bad : List Bool) : State :=
  let u (t : Nat) : Nat := opalRound (opalOf job) x.k.opalTensor st.sr3 (index t)
  let (bits, sc, _) := storeRow st u scales vals
  let ok := okOf st.scaled bad
  let lost := if st.scaled then 0 else
    ((vals.zip ok).filter fun (v, k) => k && isNan32 v && !hasNan st.fmt).length
  let s := calNumev s x.k.stack lost
  let s := if bad.any id then failAt s [job.num] .eccUncorrectable else s
  let s := kPut s [job.num] a (fmtWidth st.fmt) bits ok
  let s := match z with
    | some z => if st.scaled then
        kPut s [job.num] z 8 (sc.map (·.toNat)) (sc.zipIdx.map fun (_, k) => ok.getD (32 * k) true) else s
    | none => s
  hashRow s job.num x.k.digestLayer.toNat st.fmt st.scaled x.run.partner index (fun t => valid t && ok.getD t false) bits sc

/-- Block scales of a row under R160 and R228. -/
def blockScales (st : Store) (vals : List Word) : List Byte :=
  if st.scaled then (List.range (ceilDiv vals.length 32)).map fun k => scaleCode st.fmt ((vals.drop (32 * k)).take 32)
  else []

/-- Stores row m of an output whose scale tensor has the next ID (R228). -/
def kStore (x : KRun) (s : State) (job : Ctx) (out : Tensor) (m : Nat) (vals : List Word) (bad : List Bool) : State :=
  let st := kStoreOf x
  let z := (tensorGet x.run.img (out.id + 1)).map fun y => kRow s x y m
  kStoreRow x st (blockScales st vals) s job (kRow s x out m) z (fun n => kLogical x.k m * x.k.cols + n) (fun _ => true)
    vals bad

/-- Every row of an occupied slot in turn (R229). -/
def kRows (x : KRun) (s : State) (f : State → Nat → Ctx → State) : State :=
  (List.range x.k.rows).foldl (fun s m => match kJob s x m with
    | some job => f s m job
    | none => s) s

/-! ## SAMPLER_STEP (R233, R234) -/

/-- The noise value z of an element. -/
def noiseOf (x : KRun) (job : Ctx) (index : Nat) : Word :=
  let w := opalBits (opalOf job) (kNat x.k 41 1) x.k.opalTensor 4 32 index
  if kNat x.k 40 1 = 1 then normalValue w else uniformValue w

/-- The present inputs: coefficient and tensor. -/
def stepInputs (x : KRun) : List (Word × Tensor) :=
  (List.range 4).filterMap fun i => (kTens x (4 * i)).map fun t => (kF32 x.k (20 + 4 * i), t)

/-- The sum of the inputs: the first as a product, each later one by a fused multiply-add. -/
def stepSum (xs : List (Word × Val)) : Word :=
  match xs with
  | [] => 0
  | (c, v) :: t => t.foldl (fun acc (c, v) => toF32 (vadd (vmul (f32Val c) v) (f32Val acc))) (toF32 (vmul (f32Val c) v))

/-- SAMPLER_STEP. -/
def kSamplerStep (x : KRun) (s : State) : State :=
  match kTens x 16 with
  | none => s
  | some out => kRows x s fun s m job =>
    let ins := (stepInputs x).map fun (c, t) => (c, kReadRow s x t m x.k.cols)
    let cols := List.range x.k.cols
    let vals := cols.map fun n =>
      let index := kLogical x.k m * x.k.cols + n
      let acc := stepSum (ins.map fun (c, r) => (c, (r.getD n ⟨0, vzero, false⟩).v))
      let acc := if kNat x.k 40 1 = 0 then acc else fma (kF32 x.k 36) (noiseOf x job index) acc
      if kNat x.k 42 2 = 0 then acc
      else if opalBits (opalOf job) 1 x.k.opalTensor 8 16 index < kNat x.k 42 2 then 0
      else fmul acc (kF32 x.k 44)
    kStore x s job out m vals (cols.map fun n => ins.any fun (_, r) => (r.getD n ⟨0, vzero, false⟩).bad)

/-! ## GUIDANCE (R235) -/

/-- GUIDANCE. -/
def kGuidance (x : KRun) (s : State) : State :=
  match kTens x 0, kTens x 4, kTens x 8 with
  | some tu, some tc, some out => kRows x s fun s m job =>
    let rs := (kReadRow s x tu m x.k.cols).zip (kReadRow s x tc m x.k.cols)
    kStore x s job out m
      (rs.map fun (u, c) => fma (kF32 x.k 12) (fsub (kWord c) (kWord u)) (kWord u))
      (rs.map fun (u, c) => u.bad || c.bad)
  | _, _, _ => s

/-! ## OPTIM (R236, R237) -/

/-- Changes the sign of an FP32 word. -/
def fneg (a : Word) : Word := if isNan32 a then a else a ^^^ 0x80000000

/-- signf of R237. -/
def fsign (a : Word) : Word :=
  match f32Val a with
  | .nan => 0x7FC00000
  | .inf n => if n then 0xBF800000 else 0x3F800000
  | .fin n m _ => if m = 0 then 0 else if n then 0xBF800000 else 0x3F800000

/-- One element of OPTIM: new master, first and second moment. -/
def optimStep (algo : Nat) (sc : Nat → Word) (grad : Val) (w m v : Word) : Word × Word × Word :=
  let one : Word := 0x3F800000
  let g := toF32 (vmul grad (f32Val (sc 28)))
  let w1 := fma (fneg (fmul (sc 0) (sc 4))) w w
  if algo = 0 then
    let m := fma (sc 8) m (fmul (fsub one (sc 8)) g)
    let v := fma (sc 12) v (fmul (fsub one (sc 12)) (fmul g g))
    let den := fadd (fsqrt (fmul v (sc 24))) (sc 16)
    (fma (fneg (sc 0)) (fdiv (fmul m (sc 20)) den) w1, m, v)
  else
    let c := fma (sc 8) m (fmul (fsub one (sc 8)) g)
    (fma (fneg (sc 0)) (fsign c) w1, fma (sc 12) m (fmul (fsub one (sc 12)) g), v)

/-- OPTIM. The scalar block is read once, at the base of slot 0's job; its poison reaches the jobs in whose slots the
kernel has rows (R245, R529). -/
def kOptim (x : KRun) (s : State) : State :=
  match kTens x 0, kTens x 4, kTens x 12, kTens x 24 with
  | some tw, some tm, some tg, some ts =>
    let a := kBase s x 0 ts
    let blk := kBytes s a 64
    if kPoison s a 64 then
      failAt s (((List.range x.k.rows).filterMap fun m => (kJob s x m).map (·.num)).dedup) .eccUncorrectable
    else if field blk 32 4 ≠ 0 then s
    else
      let sc (o : Nat) : Word := BitVec.ofNat 32 (field blk o 4)
      let algo := kNat x.k 28 1
      kRows x s fun s m job =>
        let rw := kReadRow s x tw m x.k.cols
        let rm := kReadRow s x tm m x.k.cols
        let rv := match kTens x 8 with
          | some t => kReadRow s x t m x.k.cols
          | none => rw.map fun _ => ⟨0, vzero, false⟩
        let rg := kReadScaled s x tg (kTens x 16) m x.k.cols
        let els := (rw.zip rm).zip (rv.zip rg)
        let bad := els.map fun ((w, mm), (v, g)) => w.bad || mm.bad || v.bad || g.bad
        let ok := bad.map (!·)
        let res := els.map fun ((w, mm), (v, g)) => optimStep algo sc g.v (kWord w) (kWord mm) (kWord v)
        let s := if bad.any id then failAt s [job.num] .eccUncorrectable else s
        let s := kPutWords s [job.num] (kRow s x tw m) (res.map (·.1)) ok
        let s := kPutWords s [job.num] (kRow s x tm m) (res.map (·.2.1)) ok
        let s := match kTens x 8 with
          | some t => if algo = 0 then kPutWords s [job.num] (kRow s x t m) (res.map (·.2.2)) ok else s
          | none => s
        match kTens x 20 with
        | some out => kStore x s job out m (res.map (·.1)) bad
        | none => s
  | _, _, _, _ => s

/-! ## REDUCE (R238) -/

/-- FP32 minimum; a NaN operand gives NaN, and −0 is below +0. -/
def fmin (a b : Word) : Word :=
  if isNan32 a ∨ isNan32 b then 0x7FC00000
  else if vlt (f32Val a) (f32Val b) then a
  else if vlt (f32Val b) (f32Val a) then b
  else if b = 0x80000000 then b else a

/-- Where a fold starts. -/
def redInit (op : Nat) : Word :=
  match op with
  | 3 => 0xFF800000
  | 4 => 0x7F800000
  | _ => 0

/-- The magnitude of a value. -/
def vabs (v : Val) : Val :=
  match v with
  | .fin _ m e => .fin false m e
  | .inf _ => .inf false
  | .nan => .nan

/-- Whether a value is NaN or infinite. -/
def nonFinite (v : Val) : Bool :=
  match v with
  | .fin .. => false
  | _ => true

/-- One step of a fold. -/
def redStep (op : Nat) (acc : Word) (v : Val) : Word :=
  match op with
  | 0 => toF32 (vadd (f32Val acc) v)
  | 1 => toF32 (vadd (vmul v v) (f32Val acc))
  | 2 => fmax acc (toF32 (vabs v))
  | 3 => fmax acc (toF32 v)
  | 4 => fmin acc (toF32 v)
  | _ => if nonFinite v then acc + 1 else acc

/-- How two partial results combine. -/
def redComb (op : Nat) (a b : Word) : Word :=
  match op with
  | 0 | 1 => fadd a b
  | 2 | 3 => fmax a b
  | 4 => fmin a b
  | _ => a + b

/-- One level of the pairwise tree of K_ORDER 1 (R97): an odd element passes up unchanged. -/
def pairUp (f : Word → Word → Word) : List Word → List Word
  | a :: b :: t => f a b :: pairUp f t
  | l => l

/-- The pairwise tree over a list, in at most `fuel` levels. -/
def pairTree (f : Word → Word → Word) : Nat → List Word → Word
  | _, [] => 0
  | _, [a] => a
  | 0, a :: _ => a
  | fuel + 1, l => pairTree f fuel (pairUp f l)

/-- The result of a row. -/
def reduceRow (op : Nat) (vs : List Val) : Word :=
  let part (l : Nat) : Word := (vs.zipIdx.filter fun (_, n) => n % 64 == l).foldl (fun a (v, _) => redStep op a v) (redInit op)
  pairTree (redComb op) 7 ((List.range 64).map part)

/-- REDUCE along rows. -/
def kReduceRows (x : KRun) (tin out : Tensor) (s : State) : State :=
  kRows x s fun s m job =>
    let r := kReadScaled s x tin (kTens x 4) m x.k.cols
    if r.any (·.bad) then failAt s [job.num] .eccUncorrectable
    else kPutWords s [job.num] (kRow s x out m) [reduceRow (kNat x.k 12 1) (r.map (·.v))] [true]

/-- REDUCE along columns over the rows of one slot. -/
def kReduceCols (x : KRun) (tin out : Tensor) (s : State) (slot : Nat) : State :=
  match jobOf s x.run slot with
  | none => s
  | some job =>
    let op := kNat x.k 12 1
    let rows := (List.range x.k.rows).filter fun m => kSlot x.k m == slot
    let init := List.replicate x.k.cols (redInit op, false)
    let res := rows.foldl (fun acc m =>
      (acc.zip (kReadScaled s x tin (kTens x 4) m x.k.cols)).map fun ((a, b), e) => (redStep op a e.v, b || e.bad)) init
    let s := if res.any (·.2) then failAt s [job.num] .eccUncorrectable else s
    let a := kRowIn s x slot out (if x.k.slotRows = 0 then 0 else slot)
    kPutWords s [job.num] a (res.map (·.1)) (res.map fun r => !r.2)

/-- REDUCE. -/
def kReduce (x : KRun) (s : State) : State :=
  match kTens x 0, kTens x 8 with
  | some tin, some out =>
    if kNat x.k 13 1 = 0 then kReduceRows x tin out s
    else
      let slots := if x.k.slotRows = 0 then 1 else ceilDiv x.k.rows x.k.slotRows
      (List.range slots).foldl (kReduceCols x tin out) s
  | _, _ => s

/-! ## QUANTISE_DEFERRED (R164, R239) -/

/-- QUANTISE_DEFERRED. -/
def kQuantise (x : KRun) (s : State) : State :=
  match opOf x.run.img (kNat x.k 0 2), kTens x 4, kTens x 8 with
  | some o, some tp, some out =>
    match tensorGet x.run.img o.tensorD with
    | none => s
    | some td => kRows x s fun s m job =>
      let tiles := ceilDiv (npadOf o) o.tileN
      let ps := kRead s 0 (kRow s x tp m) tiles none
      let r := kReadRow s x td m x.k.cols
      let code := scaleCode o.dFmt (ps.map kWord)
      let vals := (r.map kWord) ++ List.replicate (npadOf o - x.k.cols) 0
      let bad := ps.any (·.bad) || r.any (·.bad)
      let logical := kLogical x.k m
      kStoreRow x (storeOf x.run.img o) (List.replicate (ceilDiv (npadOf o) 32) code) s job (kRow s x out m)
        ((kTens x 12).map fun z => kRow s x z m) (fun n => logical * x.k.cols + n)
        (fun n => decide (n < o.n) && decide (logical < o.m)) vals (vals.map fun _ => bad)
  | _, _, _ => s

/-! ## TRANSPOSE (R240) -/

/-- Whether TRANSPOSE copies bit for bit. -/
def transposeCopies (x : KRun) (tin : Tensor) : Bool :=
  outFmt x.k == tin.fmt && !outScaled x.k && (kTensor x.k 4).isNone && !x.k.outModes.getLsbD 5

/-- Output row n: element m of kernel row m, of the job in its slot and at that job's base. -/
def transposeRow (x : KRun) (tin out : Tensor) (rows : List (List KElem)) (s : State) (n : Nat) : State :=
  let st := kStoreOf x
  let els := rows.map fun r => r.getD n ⟨0, vzero, true⟩
  let jobs := (List.range x.k.rows).map (kJob s x)
  let lr := if kNat x.k 16 4 ≠ 0 then kNat x.k 16 4 else if x.k.slotRows ≠ 0 then x.k.slotRows else x.k.rows
  let index (m : Nat) : Nat := n * lr + kLogical x.k m
  let copy := transposeCopies x tin
  let vals := els.map (·.v)
  let scales := if st.scaled then (List.range (ceilDiv vals.length 32)).map fun k => scaleOf st.fmt ((vals.drop (32 * k)).take 32)
    else []
  let u (m : Nat) : Nat := match jobs.getD m none with
    | some j => opalRound (opalOf j) x.k.opalTensor st.sr3 (index m)
    | none => 0
  let (bits, sc, _) := storeVals st u scales vals
  let bits := if copy then els.map (·.raw) else bits
  let good := okOf st.scaled (els.map (·.bad))
  let here (m : Nat) : Bool := (jobs.getD m none).isSome
  let ok := good.zipIdx.map fun (g, m) => g && here m
  let hurt := (good.zipIdx.filterMap fun (g, m) => if g then none else (jobs.getD m none).map (·.num)).dedup
  let lost := if copy ∨ st.scaled then 0 else
    ((vals.zip ok).filter fun (v, k) => k && v == .nan && !hasNan st.fmt).length
  let s := calNumev (failAt s hurt .eccUncorrectable) x.k.stack lost
  let slots := ((List.range x.k.rows).map (kSlot x.k)).dedup
  let s := slots.foldl (fun s q =>
    let mine := ok.zipIdx.map fun (k, m) => k && kSlot x.k m == q
    let nums := ((jobOf s x.run q).map (·.num)).toList
    let s := kPut s nums (kRowIn s x q out n) (fmtWidth st.fmt) bits mine
    match kTens x 12 with
    | some z => if st.scaled then
        kPut s nums (kRowIn s x q z n) 8 (sc.map (·.toNat)) (sc.zipIdx.map fun (_, k) => ((mine.drop (32 * k)).take 32).any id)
      else s
    | none => s) s
  if x.k.digestLayer = 0xFFFFFFFF then s
  else
    (bits.zipIdx.filter fun (_, m) => ok.getD m false).foldl (fun s (b, m) => match jobs.getD m none with
      | some j => ctxDigest s j.num x.k.digestLayer.toNat
          (elementHash x.k.digestLayer.toNat st.fmt (if st.scaled then some (sc.getD (m / 32) 0x7F) else none) (index m) b)
          x.run.partner
      | none => s) s

/-- TRANSPOSE. -/
def kTranspose (x : KRun) (s : State) : State :=
  match kTens x 0, kTens x 8 with
  | some tin, some out =>
    let rows := (List.range x.k.rows).map fun m => kReadScaled s x tin (kTens x 4) m x.k.cols
    (List.range x.k.cols).foldl (transposeRow x tin out rows) s
  | _, _ => s

/-! ## GATHER and SCATTER, index form (R241) -/

/-- The bytes of a row of COLS elements of a format. -/
def rowBytes (fmt cols : Nat) : Nat := packedBytes (fmtWidth fmt) cols

/-- Whether TABLE holds row k. -/
def holdsRow (t : Tensor) (cols k : Nat) : Bool := decide (k * t.stride + rowBytes t.fmt cols ≤ t.size)

/-- INDEX[i], and whether it is poisoned. -/
def indexAt (s : State) (x : KRun) (t : Tensor) (i : Nat) : Nat × Bool :=
  let a := kRow s x t i
  (leNat (kBytes s a 4), kPoison s a 4)

/-- One out-of-range index counted (R250). -/
def indexRange (s : State) (st : Nat) : State := regCount s (oCal st + 0x20) 31 16 1

/-- GATHER, index form. -/
def kGather (x : KRun) (s : State) : State :=
  match kTens x 4, kTens x 8, kTens x 12 with
  | some table, some index, some out => kRows x s fun s m job =>
    let (k, badK) := indexAt s x index m
    let n := rowBytes out.fmt x.k.cols
    if badK then failAt s [job.num] .eccUncorrectable
    else if k = 0xFFFFFFFF then kWrite s [job.num] (kRow s x out m) (List.replicate n 0)
    else if !holdsRow table x.k.cols k then
      kWrite (indexRange s x.k.stack) [job.num] (kRow s x out m) (List.replicate n 0)
    else
      let a := kRowIn s x (kSlot x.k m) table k
      if kPoison s a n then failAt s [job.num] .eccUncorrectable
      else kWrite s [job.num] (kRow s x out m) (kBytes s a n)
  | _, _, _ => s

/-- SCATTER, index form: rows in ascending order. -/
def kScatter (x : KRun) (s : State) : State :=
  match kTens x 4, kTens x 8, kTens x 12 with
  | some table, some index, some src => kRows x s fun s m job =>
    let (k, badK) := indexAt s x index m
    let n := rowBytes src.fmt x.k.cols
    let a := kRow s x src m
    if badK then failAt s [job.num] .eccUncorrectable
    else if k = 0xFFFFFFFF then s
    else if !holdsRow table x.k.cols k then indexRange s x.k.stack
    else if kPoison s a n then failAt s [job.num] .eccUncorrectable
    else kWrite s [job.num] (kRowIn s x (kSlot x.k m) table k) (kBytes s a n)
  | _, _, _ => s

/-! ## Page forms (R185, R186, R242) -/

/-- The channels of a page that a page form moves. -/
def pageChannels (k : Kernel) : Nat := kNat k 12 2 * kNat k 14 2

/-- An element of a page as GATHER delivers it: bits in the home format, scale, poison (R185). -/
def pageRead (s : State) (p : Page) (kind c ch t : Nat) : Nat × Byte × Bool :=
  let i := pageElemNo kind c ch t
  let raw := pageElem s p.slot p.fmt i
  let zl := pageScaleLin p.slot p.fmt c (pageScaleNo kind c ch t)
  let sc := if p.scaled then byteAt s zl else 0x7F
  let bad := !s.poison.isEmpty && (anyPoison s (pageElemLins p.slot p.fmt i) || (p.scaled && anyPoison s [zl]))
  if p.state ≠ .demoted then (raw, sc, bad)
  else if p.homeScaled then ((storeElem p.home true {} (decodeElem p.fmt true raw)).1, sc, bad)
  else ((storeElem p.home false {} (decodeScaled p.fmt (some sc) raw)).1, 0x7F, bad)

/-- A page as the unit that runs the kernel finds it: on a mirrored partner its slot is at the translated address (R308). -/
def kPage (x : KRun) (p : Page) : Page := { p with slot := runAddr x.run p.slot }

/-- The pages that a page form of a job covers, by logical index. -/
def kPages (s : State) (x : KRun) (c : Ctx) (n : Nat) : List (Option Page) :=
  (List.range n).map fun i => (mappedPage s c (kNat x.k 10 2) (kNat x.k 9 1) i).map (kPage x)

/-- One staging row: its elements and the scales of its blocks. -/
def stagingRow (s : State) (x : KRun) (job : Ctx) (staging : Tensor) (scaled : Bool) (row : Nat)
    (els : List (Nat × Byte × Bool)) : State :=
  if els.any (·.2.2) then failAt s [job.num] .eccUncorrectable
  else
    let s := kWrite s [job.num] (kRowIn s x (kNat x.k 8 1) staging row) (pack (fmtWidth staging.fmt) (els.map (·.1)))
    match tensorGet x.run.img (staging.id + 1) with
    | some z => if scaled then
        kWrite s [job.num] (kRowIn s x (kNat x.k 8 1) z row)
          ((List.range (ceilDiv els.length 32)).map fun b => (els.getD (32 * b) (0, 0x7F, false)).2.1)
      else s
    | none => s

/-- GATHER, page-read form. A DEMOTED page that it reads sets the job's flag, one that has become so within the pass too (R193). -/
def kGatherPages (x : KRun) (s : State) : State :=
  match kTens x 4, jobOf s x.run (kNat x.k 8 1) with
  | some staging, some job =>
    let kind := kNat x.k 9 1
    let heads := kNat x.k 12 2
    let d := kNat x.k 14 2
    let tokens := kNat x.k 16 4
    let ps := kPages s x job (min (tokens / 256) (ceilDiv job.length 256))
    let scaled := outScaled x.k || ps.any (fun p => p.any (·.homeScaled))
    let s := if ps.any (fun p => p.any (fun q => q.state == .dropped)) then failAt (logOther s (unitOf 2 (16 * x.k.stack)) (some job.num) 185) [job.num] .internal else s
    let hit (q : Page) : Bool := ps.any fun p => p.any fun y => y.id == q.id
    let pages := s.pages.map fun q => if hit q then { q with lastRead := s.beats } else q
    let s : State := { s with pages := pages }
    let s := if ps.any (fun p => p.any (·.state == .demoted)) then ctxMap s job.num fun c => { c with kvDemoted := true } else s
    let elem (s : State) (ch tok : Nat) : Nat × Byte × Bool :=
      match ps.getD (tok / 256) none with
      | some p => if tok < job.length ∧ tok % 256 < p.valid ∧ p.state ≠ .dropped
          then pageRead s p kind (heads * d) ch (tok % 256) else (0, 0x7F, false)
      | none => (0, 0x7F, false)
    (List.range heads).foldl (fun s h =>
      if kind = 0 then
        (List.range tokens).foldl (fun s tok =>
          stagingRow s x job staging scaled (h * tokens + tok) ((List.range d).map fun ch => elem s (h * d + ch) tok)) s
      else
        (List.range d).foldl (fun s ch =>
          stagingRow s x job staging scaled (h * d + ch) ((List.range tokens).map fun tok => elem s (h * d + ch) tok)) s) s
  | _, _ => s

/-- Writes consecutive elements of a slot from element i on, leaving the bits around them. -/
def putElems (s : State) (jobs : List Nat) (slot fmt i : Nat) (bits : List Nat) : State :=
  let w := fmtWidth fmt
  let sh := w * i % 8
  let n := ceilDiv (sh + w * bits.length) 8
  let a := slot + w * i / 8
  let old := leNat (bytesAt s a n)
  let top := 2 ^ (w * bits.length)
  let cleared := old - (old / 2 ^ sh % top) * 2 ^ sh
  kWrite s jobs a (toLE (cleared + packNat w bits * 2 ^ sh) n)

/-- Where token t of the staging rows goes: logical page and position. In a recompute pass the dropped
positions are taken in ascending order (DESIGN CHOICE, assumption 96; R192 names no order over several pages). -/
def tokenPlace (s : State) (x : KRun) (job : Ctx) (t : Nat) : Option (Nat × Nat) :=
  if job.recomputing then
    let mine := (List.range (leafOf s job (kNat x.k 10 2) (kNat x.k 9 1)).2).filter fun i =>
      (mappedPage s job (kNat x.k 10 2) (kNat x.k 9 1) i).any (·.fresh)
    (mine[t / 256]?).map fun i => (i, t % 256)
  else some ((job.length + t) / 256, (job.length + t) % 256)

/-- The page at a logical index, when the pass start has made it writable (R186, R187). -/
def writablePage (s : State) (x : KRun) (job : Ctx) (i : Nat) : Option Page :=
  (mappedPage s job (kNat x.k 10 2) (kNat x.k 9 1) i).filter fun p =>
    p.state == .live && p.refs == 1 && (if job.recomputing then p.fresh else (writeRange job).contains i)

/-- One token of the page-write form. -/
def scatterToken (x : KRun) (job : Ctx) (staging : Tensor) (s : State) (tok : Nat) : State :=
  let kind := kNat x.k 9 1
  let heads := kNat x.k 12 2
  let d := kNat x.k 14 2
  let tokens := kNat x.k 16 4
  let c := heads * d
  let place := tokenPlace s x job tok
  match place, place.bind (fun (i, _) => writablePage s x job i) with
  | some (_, t), some own =>
    let p := kPage x own
    let w := fmtWidth p.home
    let z := tensorGet x.run.img (staging.id + 1)
    let s := (List.range heads).foldl (fun s h =>
      if kind = 0 then
        let row := h * tokens + tok
        let els := kRead s p.home (kRowIn s x (kNat x.k 8 1) staging row) d none
        let zs := match z with
          | some y => if p.homeScaled then kRead s 8 (kRowIn s x (kNat x.k 8 1) y row) (d / 32) none else []
          | none => []
        if els.any (·.bad) || zs.any (·.bad) then failAt s [job.num] .eccUncorrectable
        else
          let s := putElems s [job.num] p.slot p.home (pageElemNo 0 c (h * d) t) (els.map (·.raw))
          if zs.isEmpty then s
          else kWrite s [job.num] (pageScaleLin p.slot p.home c (pageScaleNo 0 c (h * d) t))
            (zs.map fun e => BitVec.ofNat 8 e.raw)
      else
        (List.range d).foldl (fun s ch =>
          let row := h * d + ch
          let a := kRowIn s x (kNat x.k 8 1) staging row
          let raw := elemAt w (kBytes s a (packedBytes w tokens)) tok
          let bad := kPoison s a (packedBytes w tokens)
          let zl := z.map fun y => kRowIn s x (kNat x.k 8 1) y row + tok / 32
          if bad || (p.homeScaled && zl.any fun l => kPoison s l 1) then failAt s [job.num] .eccUncorrectable
          else
            let s := putElems s [job.num] p.slot p.home (pageElemNo 1 c (h * d + ch) t) [raw]
            match zl with
            | some l => if p.homeScaled then
                kWrite s [job.num] (pageScaleLin p.slot p.home c (pageScaleNo 1 c (h * d + ch) t)) (kBytes s l 1)
              else s
            | none => s) s) s
    if p.valid < t + 1 then pagePut s { own with valid := t + 1 } else s
  | _, _ => failAt (logOther s (unitOf 2 (16 * x.k.stack)) (some job.num) 186) [job.num] .internal

/-- SCATTER, page-write form. -/
def kScatterPages (x : KRun) (s : State) : State :=
  match kTens x 4, jobOf s x.run (kNat x.k 8 1) with
  | some staging, some job => (List.range (kNat x.k 16 4)).foldl (scatterToken x job staging) s
  | _, _ => s

/-! ## ORDERED_ACCUMULATE (R243) -/

/-- ORDERED_ACCUMULATE. -/
def kAccumulate (x : KRun) (s : State) : State :=
  match kTens x 0, kTens x 8 with
  | some slots, some out => kRows x s fun s m job =>
    let rows := (List.range (kNat x.k 12 2)).map fun c =>
      kRead s slots.fmt (kRow s x slots m + c * kNat x.k 16 8) x.k.cols none
    let init := (kTens x 4).map fun t => kReadRow s x t m x.k.cols
    let cols := List.range x.k.cols
    let zero : KElem := ⟨0, vzero, false⟩
    let vals := cols.map fun n =>
      let vs := rows.map fun r => kWord (r.getD n zero)
      let sum := if kNat x.k 14 1 = 1 then pairTree fadd 11 vs
        else match vs with
          | [] => 0
          | v :: t => t.foldl fadd v
      match init with
      | some r => fadd sum (kWord (r.getD n zero))
      | none => sum
    kStore x s job out m vals (cols.map fun n =>
      rows.any (fun r => (r.getD n zero).bad) || init.any (fun r => (r.getD n zero).bad))
  | _, _ => s

/-! ## Ends of kernels (R223, R246, R248, R250) -/

/-- An error in a unit's datapath (R246, R250): corrected ones are counted; an uncorrectable one is logged and
recorded, and a second within 86,400 s fences the unit at the next boundary, for that cause whatever an owner has written for the
unit in the beat. -/
def unitError (s : State) (st unit : Nat) (bad : Bool) : State :=
  let u := 16 * st + unit % 16
  if !bad then regCount s (oCal st + 0x20) 7 0 1
  else
    let s := notice (logEvent (regCount s (oCal st + 0x20) 15 8 1) 0x0201 (unitOf 2 u) none [0xFF]) 1
    let times := s.unitErrs.filterMap fun (k, t) => if k = u then some t else none
    let second := within times s.clock.health
    let s : State := { s with unitErrs := s.unitErrs ++ [(u, s.clock.health)] }
    let now := (sfind s.calNext st).getD (BitVec.ofNat 16 (regF s (oCal st + 0x10) 15 0))
    let s : State := if second then
        { s with calNext := sput s.calNext st (now ||| BitVec.ofNat 16 (2 ^ (unit % 16)))
                 unitCause := sput s.unitCause u 1 }
      else s
    beginHealth s

/-- What bounds the cycles by which a kernel ends after its span: refresh in the windows of its span (R223), which its last beat has
all seen. Where it does the share of a fenced unit, or waits for an earlier kernel that is late, the spec bounds the lost time by
no number (R226, R246). -/
def lateBound (code : KernelCode) (x : KRun) (s : State) : Option (KernelCode × Kernel × Nat) :=
  if (bitsOf 16 x.k.units.toNat).any (fun c => s.fencedUnits.contains (16 * x.k.stack + c)) || s.lates.any (·.stack == x.k.stack)
  then none
  else some (code, x.k, baseOf s x.run)

/-- What the end of a kernel records; it counts as late at the end of its declared last beat (R118, R248). -/
def kernelEnd (code : KernelCode) (v : KernelEvent) (x : KRun) (s : State) : State :=
  let st := v.kernel.stack
  let s := v.datapath.foldl (fun s (u, bad) => unitError s st u bad) s
  if v.late = 0 then s
  else { s with lates := s.lates ++
    [{ stack := st, cycles := v.late, image := x.run.img.id, beat := (kernelBeats x.k).2, bound := lateBound code x s }] }

/-- The jobs whose rows of a kernel lie where it may not go, and must end with a code (R32, R275, R387, R430). -/
def closedJobs (s : State) (code : KernelCode) (x : KRun) (why : Code) : List Nat :=
  (x.run.pass.slots.filter fun (k, n) => (ctxGet s n).any (activeIn x.run.pass) && (kernelSpans x.run.img code x.k).any fun y =>
    (kspanRows (slotBase s x.run k) y).any fun (a, m) => decide (0 < m) && !spanOpen s (runAddr x.run a) m y.write
      && refusalCode s (runAddr x.run a) m y.write == why).map (·.2)

/-- The refusals of a kernel's accesses: the jobs that meet reserved bytes, then those that meet closed ones. -/
def refuseKernel (s : State) (code : KernelCode) (x : KRun) : State :=
  ([.priv, .busError] : List Code).foldl (fun s why =>
    let jobs := closedJobs s code x why
    if jobs.isEmpty then s else refusedAccess s (unitOf 2 (16 * x.k.stack)) jobs why) s

/-- Runs a kernel of its image's program (R18): the codewords in error that it meets, its effect, its end. -/
def runKernel (code : KernelCode) (v : KernelEvent) (f : KRun → State → State) (s : State) : State :=
  let s : State := { s with out := [] }
  match kernelRun s code v.kernel with
  | none => s
  | some (x, n) =>
    let s := kernelEnd code v x (f x (v.mem.foldl eccFind (refuseKernel s code x)))
    { s with passes := s.passes.map fun p => if p = x.run.pass then { p with ran := (v.kernel.stack, n) :: p.ran } else p }

/-! ## The rows -/

/-- SAMPLER_STEP. -/
def execSamplerStep (v : KernelEvent) (s : State) : Host.Outcome State Fault Refusal := .next (runKernel .samplerStep v kSamplerStep s)

/-- GUIDANCE. -/
def execGuidance (v : KernelEvent) (s : State) : Host.Outcome State Fault Refusal := .next (runKernel .guidance v kGuidance s)

/-- OPTIM. -/
def execOptim (v : KernelEvent) (s : State) : Host.Outcome State Fault Refusal := .next (runKernel .optim v kOptim s)

/-- REDUCE. -/
def execReduce (v : KernelEvent) (s : State) : Host.Outcome State Fault Refusal := .next (runKernel .reduce v kReduce s)

/-- QUANTISE_DEFERRED. -/
def execQuantiseDeferred (v : KernelEvent) (s : State) : Host.Outcome State Fault Refusal := .next (runKernel .quantise v kQuantise s)

/-- TRANSPOSE. -/
def execTranspose (v : KernelEvent) (s : State) : Host.Outcome State Fault Refusal := .next (runKernel .transpose v kTranspose s)

/-- GATHER in its index form, FORM 0. -/
def execGather (v : KernelEvent) (s : State) : Host.Outcome State Fault Refusal :=
  .next (if kNat v.kernel 0 1 ≠ 0 then { s with out := [] } else runKernel .gather v kGather s)

/-- SCATTER in its index form, FORM 0. -/
def execScatter (v : KernelEvent) (s : State) : Host.Outcome State Fault Refusal :=
  .next (if kNat v.kernel 0 1 ≠ 0 then { s with out := [] } else runKernel .scatter v kScatter s)

/-- GATHER in its page-read form. -/
def execGatherPageRead (v : KernelEvent) (s : State) : Host.Outcome State Fault Refusal :=
  .next (if kNat v.kernel 0 1 = 0 then { s with out := [] } else runKernel .gather v kGatherPages s)

/-- SCATTER in its page-write form. -/
def execScatterPageWrite (v : KernelEvent) (s : State) : Host.Outcome State Fault Refusal :=
  .next (if kNat v.kernel 0 1 = 0 then { s with out := [] } else runKernel .scatter v kScatterPages s)

/-- ORDERED_ACCUMULATE. -/
def execOrderedAccumulate (v : KernelEvent) (s : State) : Host.Outcome State Fault Refusal := .next (runKernel .accumulate v kAccumulate s)

end Sys2Proof.Machine
end

