-- ==== Sys2Proof/Machine/ImageKernels.lean ====
section
/-! DEFINITION. The checks of the Caldera programs of an image (R118, R220 to R231, R233 to R243, R174, R230, R325):
step 12 of R125. -/

namespace Sys2Proof.Machine

open Sys2Proof

/-! ## A kernel record against the pass -/

/-- The fields of a kernel record against the pass (R222, R223); the minimum duration at a tensor base of 0. -/
def kernelTimeOk (i : Image) (c : KernelCode) (k : Kernel) : Nat :=
  if k.units = 0 ∨ i.beats ≤ k.startBeat ∨ k.startCycle % 384 ≠ 0 ∨ 2688 < k.startCycle
      ∨ k.budget < 1 ∨ 160 - 10 * i.async < k.budget then 222
  else if k.duration < minDuration i 0 c k ∨ i.beats ≤ (kernelBeats k).2 then 223
  else 0

/-! ## Tensors and formats (R227, R228) -/

/-- Whether every tensor parameter is in the table, or absent where it may be. -/
def paramsPresent (i : Image) (c : KernelCode) (k : Kernel) : Bool :=
  (tensorParams c k).all fun (o, opt) => (kParam i k o).isSome || (opt && (kTensor k o).isNone)

/-- The base of every tensor that a kernel names: BASE 0 in the linear view of the stack, BASE 1 checked at submission (R227). -/
def basesOk (i : Image) (stack : Nat) (c : KernelCode) (k : Kernel) : Bool :=
  ((kernelSpans i c k).all fun x => decide (kspanEnd x ≤ x.t.size)) && (kernelTensors i c k).all fun t =>
    t.base == 1 || (t.base == 0 && decide (t.size = 0 ∨ (stack * stackBytes ≤ t.addr ∧ t.addr + t.size ≤ (stack + 1) * stackBytes)))

/-- The output tensor that a kernel writes under OUT_MODES (R228). -/
def modesOut (i : Image) (c : KernelCode) (k : Kernel) : Option Tensor :=
  match c with
  | .samplerStep => kParam i k 16
  | .guidance | .accumulate | .transpose => kParam i k 8
  | .optim => kParam i k 20
  | _ => none

/-- The scale tensor of an output that takes scales (R228). -/
def modesScales (i : Image) (c : KernelCode) (k : Kernel) : Option Tensor :=
  if c = .transpose then kParam i k 12 else (modesOut i c k).bind (outScalesOf i)

/-- Formats and scale tensors of outputs, with room for one scale per block (R228). -/
def outputsOk (i : Image) (c : KernelCode) (k : Kernel) : Bool :=
  let (rows, cols) := if c = .transpose then (k.cols, k.rows) else (k.rows, k.cols)
  match modesOut i c k with
  | none => true
  | some t => t.fmt == outFmt k && (!outScaled k || (mayScale (outFmt k) && (modesScales i c k).any fun z =>
      decide (kspanEnd (byteSpan z rows (ceilDiv cols 32) true) ≤ z.size)))

/-- The parameter rules of each kernel (R233 to R243): the rule that is broken, or 0. -/
def paramRule (i : Image) (stack : Nat) (c : KernelCode) (k : Kernel) : Nat :=
  let fmtIs (o f : Nat) : Bool := (kParam i k o).all fun t => t.fmt == f
  match c with
  | .samplerStep => 0
  | .guidance => 0
  | .optim =>
    if fmtIs 0 0 && fmtIs 4 0 && fmtIs 8 0 && ((kTensor k 8).isSome == (kNat k 28 1 == 0)) then 0 else 236
  | .reduce => if k.outModes == 0 && (kNat k 12 1 == 5 || fmtIs 8 0) then 0 else 238
  | .quantise =>
    match quantOp i k with
    | none => 239
    | some o =>
      if chainOf o == 9 && kTensor k 4 == some (auxId o (prologueItems o)) && fmtIs 8 o.dFmt
        && k.opalTensor.toNat == o.tensorD && k.outModes == 0 && k.rows == msOf o && k.cols == o.n then 0 else 239
  | .transpose => 0
  | .gather | .scatter =>
    if kNat k 0 1 = 0 then
      (if k.outModes == 0 && (kParam i k 4).map (·.fmt) == (kParam i k 12).map (·.fmt) then 0 else 241)
    else if stack == (2 * kNat k 10 2 + kNat k 9 1) % 8 && decide (kNat k 8 1 < i.slots)
        && (c == .scatter || kNat k 16 4 % 256 == 0) then 0 else 242
  | .accumulate =>
    if decide (1 ≤ kNat k 12 2 ∧ kNat k 12 2 ≤ 1024) && kNat k 16 8 % 256 == 0 then 0 else 243

/-- Whether a kernel may carry a digest (R231, R232). -/
def mayDigest (c : KernelCode) : Bool :=
  match c with
  | .samplerStep | .guidance | .quantise | .transpose | .accumulate => true
  | _ => false

/-- One kernel record: the rule that it breaks, or 0. -/
def kernelRule (i : Image) (stack : Nat) (c : KernelCode) (k : Kernel) : Nat :=
  let t := kernelTimeOk i c k
  let p := paramRule i stack c k
  if !paramsPresent i c k then 227
  else if p ≠ 0 then p
  else if !outputsOk i c k then 228
  else if !basesOk i stack c k then 227
  else if t ≠ 0 then t
  else if (k.opalTensor == 0xFFFFFFFF) != (drawUses i c k).isEmpty && c != .quantise then 222
  else if k.digestLayer != 0xFFFFFFFF && !mayDigest c then 231
  else 0

/-! ## Kernels beside each other (R221, R226) -/

/-- The lowest unit of a mask. -/
def lowUnit (k : Kernel) : Nat := ((bitsOf 16 k.units.toNat).head?).getD 16

/-- The order of R221. -/
def kernelLe (a b : Kernel) : Bool :=
  decide (a.startBeat < b.startBeat) || (a.startBeat == b.startBeat && (decide (a.startCycle < b.startCycle)
    || (a.startCycle == b.startCycle && decide (lowUnit a ≤ lowUnit b))))

/-- The span of a kernel in Caldera cycles of the pass: from, to (exclusive). -/
def kernelTime (k : Kernel) : Nat × Nat :=
  (k.startBeat * 3072 + k.startCycle, k.startBeat * 3072 + k.startCycle + k.duration)

/-- Whether two spans meet, BASE 1 tensors at a tensor base of 0 (R535). -/
def kspansMeet (x y : KSpan) : Bool :=
  (kspanRows 0 x).any fun (a, n) => (kspanRows 0 y).any fun (b, m) => meets a n b m

/-- Whether some span of one list meets some span of another. -/
def anyMeet (l m : List KSpan) : Bool := l.any fun x => m.any (kspansMeet x)

/-- Two kernels of a stack in record order (R226). -/
def pairOk (i : Image) (e f : KernelRec) : Bool :=
  let es := kernelSpans i e.code e.k
  let fs := kernelSpans i f.code f.k
  let (_, e1) := kernelTime e.k
  let (f0, _) := kernelTime f.k
  if e1 ≤ f0 then true
  else !anyMeet (es.filter (·.write)) fs && !anyMeet (fs.filter (·.write)) es

/-- The inputs that a kernel may overwrite, by parameter offset, and its output (R226). -/
def inPlace (i : Image) (c : KernelCode) (k : Kernel) (x y : KSpan) : Bool :=
  let same : Bool := x.t.addr == y.t.addr && x.t.base == y.t.base && x.t.fmt == y.t.fmt && x.t.stride == y.t.stride
  let isOne (os : List Nat) (t : Tensor) : Bool := os.any fun o => kParam i k o == some t
  match c with
  | .samplerStep => same && isOne [16] x.t && isOne [0, 4, 8, 12] y.t
  | .guidance => same && isOne [8] x.t && isOne [0, 4] y.t
  | .accumulate => same && isOne [8] x.t && isOne [4] y.t
  | .optim => same && isOne [0, 4, 8] x.t && x.t == y.t
  | _ => false

/-- No kernel writes over an input but in place (R226). -/
def ownOverlapOk (i : Image) (r : KernelRec) : Bool :=
  let sp := kernelSpans i r.code r.k
  (sp.filter (·.write)).all fun x => (sp.filter (!·.write)).all fun y => !kspansMeet x y || inPlace i r.code r.k x y

/-! ## Engines beside kernels (R118) -/

/-- Engine accesses to bytes that a kernel writes, or writes to bytes that it reads, within its beats. -/
def engineMeets (i : Image) (sp : List KSpan) (v : Inst) : Bool :=
  let runs (l : List (Nat × Nat)) (ks : List KSpan) : Bool := l.any fun (a, n) => (spanRuns a n).any fun (y, m) =>
    ks.any fun x => (kspanRows 0 x).any fun (b, k) => meets y m b k
  let ws := (memWrites i v).map (fun (a, n, _) => (a, n)) ++ if v.p.cls = .atomic then memReads v else []
  runs ws sp || runs (memReads v) (sp.filter (·.write))

/-- R118 for one kernel against the programs of a placement. -/
def meetChk (x : Place) (r : KernelRec) : Bool :=
  let (a, b) := kernelBeats r.k
  let sp := kernelSpans x.img r.code r.k
  (List.range (b + 1 - a)).all fun d => (instsAt x (a + d)).all fun v => !engineMeets x.img sp v

/-! ## Opal tensors and digests (R230, R325) -/

/-- The logical rows that a kernel has in its fullest batch slot, the first (R229). -/
def slotSpan (k : Kernel) : Nat := if k.slotRows = 0 then k.rows else min k.rows k.slotRows

/-- The logical row ranges of two kernels, taken in each slot, do not overlap (R230; DEDUCED, assumption 75: a range ends
where R229 wraps it). -/
def rowsApart (a b : Kernel) : Bool := decide (a.row0 + slotSpan a ≤ b.row0) || decide (b.row0 + slotSpan b ≤ a.row0)

/-- Whether two kernels count as one user of an Opal tensor (R230). -/
def oneUser (a b : KernelRec) : Bool :=
  a.code == b.code && a.k.outModes == b.k.outModes && a.k.cols == b.k.cols && a.k.slotRows == b.k.slotRows
    && (a.code != .samplerStep || slice a.k.params 40 4 == slice b.k.params 40 4)
    && (a.code != .quantise || kNat a.k 0 2 == kNat b.k 0 2) && rowsApart a.k b.k

/-- The lanes in which a kernel draws. -/
def lanesOf (i : Image) (r : KernelRec) : List Nat := (drawUses i r.code r.k).map (·.1)

/-- Whether two kernels may share the Opal tensors and lanes that they do. -/
def opalOk (i : Image) (a b : KernelRec) : Bool :=
  a.k.opalTensor != b.k.opalTensor || !(lanesOf i a).any (lanesOf i b).contains || oneUser a b

/-- Whether a kernel and an operation record do not share lane 0 of an Opal tensor (R213, R230). -/
def opalOpOk (i : Image) (r : KernelRec) (n : Nat) (o : OpRec) : Bool :=
  !(o.sr && o.tensorD == r.k.opalTensor.toNat && (lanesOf i r).contains 0) || (r.code == .quantise && kNat r.k 0 2 == n)

/-- The format in which a kernel's output is stored: for QUANTISE_DEFERRED, its operation's (R239). -/
def storedFmt (i : Image) (r : KernelRec) : Nat :=
  if r.code = .quantise then ((quantOp i r.k).map (·.dFmt)).getD 0 else outFmt r.k

/-- Whether two kernels may share a digest layer (R325). -/
def layerOk (i : Image) (a b : KernelRec) : Bool :=
  a.k.digestLayer == 0xFFFFFFFF || a.k.digestLayer != b.k.digestLayer ||
    (a.code == b.code && a.k.cols == b.k.cols && storedFmt i a == storedFmt i b && a.k.slotRows == 0 && b.k.slotRows == 0
      && rowsApart a.k b.k)

/-- The operation records that name a layer. -/
def layerOps (i : Image) (l : Nat) : List OpRec := i.ops.filter fun o => o.digestLayer == l

/-- Whether the digest layers of operation records are named once, and by no kernel (R325). -/
def layersOk (i : Image) : Bool :=
  i.ops.all fun o => o.digestLayer == 0xFFFFFFFF || ((layerOps i o.digestLayer).length == 1
    && (kernelsAll i).all fun (_, _, r) => r.k.digestLayer.toNat != o.digestLayer)

/-! ## Step 12 -/

/-- The staging tensors of page-read kernels (R174). -/
def stagingIds (i : Image) : List Nat := (kernelsAll i).filterMap fun (_, _, r) =>
  if r.code = .gather ∧ kNat r.k 0 1 = 1 then kTensor r.k 4 else none

/-- The rules over pairs of kernels, by record. -/
def kernelPairsChk (i : Image) : Chk :=
  eachPair (kernelsAll i) fun (st, _, a) (su, n, b) =>
    let bad (r : Nat) : Chk := some { sec := 5, index := su, record := n, rule := r }
    if !opalOk i a b then bad 230
    else if !layerOk i a b then bad 325
    else if st = su ∧ !kernelLe a.k b.k then bad 221
    else if st = su ∧ !pairOk i a b then bad 226
    else none

/-- Step 12 of R125 for the main placement. -/
def step12 (x : Place) : Chk :=
  let i := x.img
  firstOf
    [ eachOf (kernelsAll i) fun (st, n, r) =>
        let bad (k : Nat) : Chk := some { sec := 5, index := st, record := n, rule := k }
        let rule := kernelRule i st r.code r.k
        if rule ≠ 0 then bad rule
        else if !ownOverlapOk i r then bad 226
        else if !meetChk x r then bad 118
        else if !(i.ops.zipIdx.all fun (o, k) => opalOpOk i r k o) then bad 230
        else none
    , kernelPairsChk i
    , eachOf i.ops.zipIdx fun (o, n) =>
        if (stagingIds i).contains o.tensorB ∧ !o.mixed then some { sec := 1, record := n, rule := 174 } else none
    , need (layersOk i) 1 0 325 ]

/-- R118 for a refold table (R124). -/
def step12Refold (x : Place) : Chk :=
  eachOf (kernelsAll x.img) fun (st, n, r) =>
    if meetChk x r then none else some { sec := 5, index := st, record := n, rule := 118 }

end Sys2Proof.Machine
end

