-- ==== Sys2Proof/Machine/ImageLoad.lean ====
section
/-! DEFINITION. IMAGE_LOAD, IMAGE_VERIFY and IMAGE_UNLOAD (R101, R125, R126, R387, R388), their completions, and
whether images may run together (R102). -/

namespace Sys2Proof.Machine

open Sys2Proof

/-- The verdict on an image: a code, and where it broke a rule of steps 5 to 13. -/
structure Verdict where
  code   : Code
  broken : Chk := none
  deriving DecidableEq, Repr

/-- Steps 7 to 11 for a placement. -/
def placeChk (s : State) (x : Place) : Chk := firstOf [step7 x, step8 s x, step9 x, step10 x, step11 x]

/-- Step 13 (R124): tables for this part in full, others by their syntax at step 5. -/
def step13 (s : State) (i : Image) : Chk :=
  eachOf i.refolds fun r =>
    if r.part = 9 then
      let x := refoldPlace i r
      firstOf [placeChk s x, step12Refold x]
    else none

/-- An image as the checks of a load take it: a bundle's address that carries the device's own node ID is local, exactly as
if it carried 0xFFFF (R25). -/
def localImage (s : State) (i : Image) : Image :=
  let here (q : Placed) : Placed :=
    if isHere s q.b.addr then { q with b := { q.b with addr := BitVec.ofNat 64 (0xFFFF * 2 ^ 48 + localOf q.b.addr) } } else q
  let prog (p : Program) : Program := { p with bundles := p.bundles.map here }
  { i with progs := i.progs.map prog, refolds := i.refolds.map fun r => { r with progs := r.progs.map prog } }

/-- The image with what R102 records of each placement. -/
def recordLoads (s : State) (i : Image) : Image :=
  let l := localImage s i
  { i with loads := loadOf (mainPlace l) :: l.refolds.map fun r => loadOf (refoldPlace l r) }

/-- Whether the Instruction Stores hold the image beside those already loaded (R101). -/
def isRoom (s : State) (i : Image) : Bool :=
  decide (s.images.length < 64) && i.foots.all fun f =>
    decide (f.is + (s.images.map fun j => ((j.foots.filter (·.engine == f.engine)).map (·.is)).sum).sum ≤ 0x40000)

/-- Steps 1 to 15 of R125, in order; 14 and 15 for a load only. -/
def verdict (s : State) (load : Bool) (b : Bytes) (source : Nat) : Verdict :=
  if !step1 b then { code := .imageInvalid }
  else
    let (sig, signed) := signatureOf b
    if !ownerKeyVerifies s 1 (slice sig 0 8) (sha512 signed) (slice sig 8 66) (slice sig 74 66) then
      { code := .signatureFail }
    else if field b 6 2 ≠ 9 then { code := .imageInvalid }
    else if field b 16 4 ≠ (regGet s 0x0A0020).toNat then { code := .aidMismatch }
    else
      match step5 b with
      | some x => { code := .imageInvalid, broken := some x }
      | none =>
        let i := imageOf b source
        let l := localImage s i
        let x := mainPlace l
        match firstOf [step6 l, placeChk s x, step12 x, step13 s l] with
        | some y => { code := .imageInvalid, broken := some y }
        | none =>
          if !load then { code := .ok }
          else if !isRoom s i then { code := .busy }
          else if s.images.any (·.id == i.id) then { code := .badParam }
          else { code := .ok }

/-- The event record of a failed check (R126, R524). -/
def logBroken (s : State) (b : Broken) : State :=
  logEvent s 0x0301 (unitOf 0 0) none (toLE b.sec 2 ++ toLE b.index 4 ++ toLE b.record 2 ++ toLE b.bundle 2 ++ toLE b.rule 2)

/-- IMAGE_LOAD and IMAGE_VERIFY: the immediate checks (R385, R387). -/
def cmdImageOp (verify : Bool) (_ : Who) (p : Packet) (s : State) : Ans :=
  let source := field p.params 0 8
  let size := field p.params 8 8
  let inside (a : Nat) : Bool := isStack a || regionOf a == .hubGeneral
  if size = 0 ∨ !inside source ∨ !inside (source + size - 1) ∨ !sameRegion source (source + size - 1) then refuse s .badParam
  else if !(spanProbes source size).all (implemented s) ∨ !implemented s (source + size - 1) then refuse s .busError
  else if !ringFree s p then refuse s .busy
  else
    let s : State := { s with imageOps := s.imageOps ++ [{ verify := verify, source := source, size := size, p := p }] }
    accepted s p

/-- An image's programs are written to the Instruction Stores (R34): a word that this covers keeps no error (R66). -/
def isLoaded (s : State) (i : Image) : State :=
  let clear (w : Nat) : Bool := match regionOf w with
    | .is e => i.progs.any (·.engine == e) && Config.isWritten (isPrograms s e) ((w - sramBase) % 0x400000 - 0x300000)
    | _ => false
  { s with poison := s.poison.filter fun w => !clear w, soft := s.soft.filter fun w => !clear w }

/-- An IMAGE_LOAD or IMAGE_VERIFY in progress ends: the bytes are judged, an image that passes is loaded, and the
entry is posted (R125, R387). A poisoned byte ends it with ECC_UNCORRECTABLE. -/
def imageEnd (s : State) (k : Nat) (verify : Bool) : State :=
  match s.imageOps[k]? with
  | none => s
  | some op =>
    if op.verify ≠ verify then s
    else
      let s : State := { s with imageOps := s.imageOps.eraseIdx k }
      let opcode : Byte := if verify then 0x21 else 0x20
      if anyPoison s (spanLinear op.source op.size) then postEntry s op.p opcode .eccUncorrectable (toLE 0 8)
      else
        let b := spanRead s op.source op.size
        let v := verdict s (!verify) b op.source
        let s := match v.broken with
          | some x => logBroken s x
          | none => s
        let ev := if v.broken.isSome then lastSeq s else 0xFFFFFFFF
        let s : State := if v.code = .ok ∧ !verify then
          let i := recordLoads s (imageOf b op.source)
          isLoaded { s with images := s.images ++ [i] } i else s
        postEntry s op.p opcode v.code (slice b 8 8) none ev

/-- Whether a context that holds its image refers to an image (R388). -/
def imageInUse (s : State) (id : BitVec 64) : Bool :=
  (s.ctxs ++ submits s).any fun c => (c.state == .ready || c.state == .running || c.state == .paused)
    && (c.desc.image == id || c.desc.recompute == id)

/-- IMAGE_UNLOAD (R388). -/
def cmdImageUnload (_ : Who) (p : Packet) (s : State) : Ans :=
  let id := BitVec.ofNat 64 (field p.params 0 8)
  let loading := s.imageOps.any fun op => !op.verify && field (spanRead s (op.source + 8) 8) 0 8 == id.toNat
  if loading then refuse s .busy
  else if (imageGet s id).isNone then refuse s .badParam
  else if imageInUse s id then refuse s .busy
  else done { s with images := s.images.filter fun i => i.id != id }

/-- IMAGE_LOAD ends. -/
def execImageLoadComplete (k : Nat) (s : State) : Host.Outcome State Fault Refusal :=
  .next (imageEnd { s with out := [] } k false)

/-- IMAGE_VERIFY ends. -/
def execImageVerifyComplete (k : Nat) (s : State) : Host.Outcome State Fault Refusal :=
  .next (imageEnd { s with out := [] } k true)

/-! ## Images that run together (R102) -/

/-- The Caldera units that an image's kernels use, as 16 × stack + unit. -/
def unitsOf (i : Image) : List Nat :=
  (i.calderas.flatMap fun (st, ks) => ks.flatMap fun r => (bitsOf 16 r.k.units.toNat).map fun c => 16 * st + c).dedup

/-- The load of a placement of an image. -/
def placedLoad (i : Image) (placement : Nat) : Load := i.loads.getD placement loadZero

/-- Whether images in placements may run passes in the same beats (R102). -/
def jointOk (l : List (Image × Nat)) : Bool :=
  let a := (l.map fun y => y.1.async).foldl max 1
  (l.flatMap fun y => unitsOf y.1).Nodup
    && (List.range 128).all (fun c =>
      decide ((l.map fun y => (sfind (placedLoad y.1 y.2).channels c).getD 0).sum ≤ slotLimit a))
    && (List.range 16).all fun e =>
      decide ((l.map fun y => (sfind (placedLoad y.1 y.2).edges e).getD 0).sum ≤ edgeLimit a)

end Sys2Proof.Machine
end

