-- ==== Sys2Proof/Machine/Contexts.lean ====
section
/-! DEFINITION. Job contexts: changes of state and what goes with them (R391, R392, R403 to R405, R408, R409, R422),
usable placements (R307, R407), the replay property (R410), and what a job reaches (R276, R390, R535). -/

namespace Sys2Proof.Machine

open Sys2Proof

/-! ## Changes of state -/

/-- The beat count of the boundary being taken. -/
def boundaryNow (s : State) : Nat := s.beats + 1

/-- A context takes a state at the boundary being taken (R393, R403). -/
def ctxEnter (s : State) (n : Nat) (st : CtxState) : State :=
  ctxMap s n fun c => { c with
    state := st, stateAt := boundaryNow s
    readyBeat := if st = .ready then boundaryNow s else c.readyBeat
    slot := if st = .running then c.slot else none }

/-- A context leaves whatever slots it holds (R76). -/
def leaveSlots (s : State) (n : Nat) : State :=
  { s with passes := s.passes.map fun p => { p with slots := p.slots.filter fun y => y.2 != n } }

/-- The partner's sums of a job go: its pass is over or starts again (R309, R327). -/
def dropPartnerSums (s : State) (n : Nat) : State :=
  { s with mirrorSums := s.mirrorSums.filter fun (k, _, _) => k != n }

/-- The job-end entry (R392): bytes 0 to 15 of the job status, for a job without QUIET whose session is open. -/
def jobEnd (s : State) (n : Nat) : State :=
  match ctxGet s n with
  | none => s
  | some c =>
    if c.quiet ∨ (sessGet s c.owner).isNone then s
    else { s with posts := s.posts ++ [{ session := c.owner, tag := c.tag, opcode := 0x30
                                         code := if c.state = .failed then c.failCode else .ok
                                         ctx := some n, eventRef := c.failEvent, result := (jobStatus c).take 16 }] }

/-- Whether a context is in a state that a failure ends: READY, RUNNING or PAUSED (R404). -/
def isLive (x : CtxState) : Bool := x == .ready || x == .running || x == .paused

/-- A job ends in FAILED with a code (R404), from a state that may; a cancelled one has code 0 and no failure record (R391). -/
def failCtx (s : State) (n : Nat) (code : Code) (cancelled : Bool := false) : State :=
  match (ctxGet s n).filter fun c => isLive c.state with
  | none => s
  | some _ =>
    let s := if cancelled then s else logEvent s 0x0302 (unitOf 0 0) (some n) [codeByte code]
    let s := dropPartnerSums (leaveSlots (ctxEnter s n .failed) n) n
    let s := ctxMap s n fun c => { c with
      failCode := if cancelled then .ok else code, failEvent := if cancelled then 0xFFFFFFFF else lastSeq s
      cancelled := c.cancelled || cancelled, pageWork := false, recomputing := false, digests := [] }
    jobEnd s n

/-- A job is done: its last pass has ended (R404). -/
def doneCtx (s : State) (n : Nat) : State := jobEnd (leaveSlots (ctxEnter s n .done) n) n

/-- Whether a job stands inside a pass: in a slot of one that does not end at the boundary being taken (R408). -/
def insidePass (s : State) (n : Nat) : Bool :=
  s.passes.any fun p => p.slots.any (fun y => y.2 == n) && !(imageGet s p.image).any fun i => decide (i.beats ≤ p.beat + 1)

/-- The validity of a job's pages after an interruption (R409). -/
def trimPages (s : State) (c : Ctx) : State :=
  (mappings s c).foldl (fun s (_, _, x, id) =>
    match pageGet s id with
    | none => s
    | some p =>
      let v := min p.valid (c.length - 256 * x)
      if v = p.valid then s else pagePut s { p with valid := v }) s

/-- A fault moves a READY or RUNNING job to PAUSED (R84, R276, R306, R309, R404, R408, R409): inside a pass it is interrupted. One
whose pass ends at this boundary has gone on by a step (R405): it is between passes, and done when that was its last (DEDUCED,
assumption 8). A group job is never interrupted: it fails, with INTERNAL for a fence (R422). A job whose slot runs empty has run
nothing of the pass. -/
def interruptCtx (s : State) (n rule : Nat) : State :=
  match (ctxGet s n).filter fun c => c.state == .ready || c.state == .running with
  | none => s
  | some c =>
    let inside := c.state == .running && insidePass s n
    if c.group then failCtx s n (if rule = 276 then .eccUncorrectable else .internal)
    else if c.state = .running ∧ !inside ∧ c.stepsLeft = 0 then doneCtx s n
    else
      let s := logEvent s 0x0303 (unitOf 0 0) (some n) (toLE rule 2)
      let s := dropPartnerSums (leaveSlots (ctxEnter s n .paused) n) n
      let s := ctxMap s n fun c => { c with
        interrupted := c.interrupted || (inside && !c.pageWork), digests := [], token := false, pageWork := false
        recomputing := false, allocFails := 0 }
      if inside then trimPages s c else s

/-! ## Pages of a context that is freed (R189, R405) -/

/-- The copy in progress for a mapping of a context. -/
def copyOf (s : State) (ctx layer kind x : Nat) : Option Page :=
  s.pages.find? fun p => p.state == .copying && p.owner == ctx && p.layer == layer && p.kind == kind && p.index == x

/-- A mapping is released: a copy for it is cancelled, the page's count falls by one (R188, R189). -/
def unmapPage (s : State) (c : Ctx) (layer kind x : Nat) (id : BitVec 24) : State :=
  let s := match copyOf s c.num layer kind x with
    | some p => pageFree s p
    | none => s
  pageRelease (mapSet s c layer kind x none) id

/-- Every mapping of a context is released. -/
def unmapAll (s : State) (c : Ctx) : State :=
  (mappings s c).foldl (fun s (l, k, x, id) => unmapPage s c l k x id) s

/-- A context becomes FREE (R404, R405). -/
def freeCtx (s : State) (n : Nat) : State :=
  match ctxGet s n with
  | none => s
  | some c => ctxFree (unmapAll s c) n

/-- The lowest context that is FREE and not taken by a submission or a restore (DESIGN CHOICE; R390 names none). -/
def freeContext (s : State) : Option Nat :=
  let used := s.ctxs.map (·.num) ++ (submits s).map (·.num) ++ s.restores.map fun r => r.ctx.num
  if used.length < 65536 then (List.range (used.length + 1)).find? (fun n => !used.contains n) else none

/-! ## Placements (R246, R307, R407) -/

/-- Whether a stack has both units of a pair fenced (R246, R407). -/
def pairFenced (s : State) (st : Nat) : Bool :=
  (List.range 8).any fun j => s.fencedUnits.contains (16 * st + 2 * j) && s.fencedUnits.contains (16 * st + 2 * j + 1)

/-- Whether the mirrored pair of a primary quadrant is enabled. -/
def mirrorOn (s : State) (q : Nat) : Bool := regF s (oMirror q) 31 31 == 1

/-- Whether every engine of a mask lies in a quadrant. -/
def maskIn (m : BitVec 256) (q : Nat) : Bool := (maskEngines m).all fun e => quadOf e == q

/-- Whether a mask has an engine in one of two quadrants. -/
def maskMeets (m : BitVec 256) (a b : Nat) : Bool := (maskEngines m).any fun e => quadOf e == a || quadOf e == b

/-- Whether a local address lies in a primary's engine windows or its two stacks in the linear view (R307). -/
def inPrimary (q a : Nat) : Bool :=
  (decide (a < 0x10000000000) && stackOf a / 2 == q)
    || (decide (sramBase ≤ a ∧ a < sramBase + 0x40000000) && quadOf ((a - sramBase) / 0x400000) == q)

/-- The static addresses of the bundles of a placement. -/
def staticSpans (i : Image) (ps : List Program) : List (BitVec 64 × Nat) :=
  ps.flatMap fun p => (List.range i.beats).flatMap fun b => (instsOf p b).flatMap fun v =>
    (spansOfBundle i v).map fun y => (y.1, y.2.1)

/-- Whether a placement of an image, its tensors at a base, may run on a mirrored pair (R307). -/
def mirrorAdmits (s : State) (i : Image) (m : BitVec 256) (ps : List Program) (base q : Nat) : Bool :=
  i.members == 0 && maskIn m q && i.calderas.all (fun c => c.1 / 2 == q)
    && (staticSpans i ps).all (fun (a, n) =>
      let x := localOf (bundleAddr s i base a)
      isHere s a && inPrimary q x && inPrimary q (x + n - 1))
    && i.tensors.all fun t => t.size == 0 || (inPrimary q (tensorAddr t base) && inPrimary q (tensorAddr t base + t.size - 1))

/-- Whether a placement stays clear of the enabled mirrored pairs, with its engines and its Caldera programs, but for an
image that a pair admits (R307, R407). -/
def mirrorClear (s : State) (i : Image) (m : BitVec 256) (ps : List Program) (base : Nat) : Bool :=
  ([0, 2] : List Nat).all fun q =>
    !mirrorOn s q || !(maskMeets m q (q + 1) || i.calderas.any fun c => c.1 / 2 == q || c.1 / 2 == q + 1)
      || (mirrorAdmits s i i.mask i.progs base q && mirrorAdmits s i m ps base q)

/-- Whether a placement is usable (R407). -/
def usable (s : State) (i : Image) (m : BitVec 256) (ps : List Program) (base : Nat) : Bool :=
  (maskEngines m).all (fun e => !engineFenced s e) && mirrorClear s i m ps base
    && i.calderas.all fun c => !pairFenced s c.1

/-- The placement that R407 chooses: 0 the main one, n + 1 the n-th refold table. -/
def choosePlacement (s : State) (i : Image) (base : Nat) : Option Nat :=
  if usable s i i.mask i.progs base then some 0
  else
    let ts := (i.refolds.zipIdx).filter fun (r, _) => r.part == 9 && usable s i r.mask r.progs base
    (ts.foldl (fun (m : Option (Nat × Nat)) (r, k) => match m with
      | none => some (popCount 256 r.mask.toNat, k)
      | some (n, j) => if n < popCount 256 r.mask.toNat then some (popCount 256 r.mask.toNat, k) else some (n, j)) none).map
        fun y => y.2 + 1

/-- The engines that a placement occupies, the partners of a mirrored image included (R307, R308). -/
def enginesOf (s : State) (i : Image) (placement : Nat) : List Nat :=
  let es := maskEngines (placementMask i placement)
  es ++ (es.filter fun e => quadOf e % 2 == 0 && mirrorOn s (quadOf e)).map (· + 64)

/-! ## Replay (R410) -/

/-- The accesses of a bundle to stack memory and hub SRAM, reads before writes: whether it writes, address, bytes. -/
def bundleAccess (i : Image) (base : Nat) (v : Inst) : List (Bool × Nat × Nat) :=
  (memReads v).map (fun (a, n) => (false, relocated i base a, n))
    ++ (if v.p.cls = .atomic then (memReads v).map fun (a, n) => (true, relocated i base a, n) else [])
    ++ (memWrites i v).map fun (a, n, _) => (true, relocated i base a, n)

/-- The accesses of a kernel but of the page forms, reads before writes. -/
def kernelAccess (i : Image) (base : Nat) (r : KernelRec) : List (Bool × Nat × Nat) :=
  if (r.code = .gather ∨ r.code = .scatter) ∧ kNat r.k 0 1 = 1 then []
  else
    let sp := kernelSpans i r.code r.k
    ((sp.filter (!·.write)).flatMap fun x => (kspanRows base x).map fun (a, n) => (false, a, n))
      ++ (sp.filter (·.write)).flatMap fun x => (kspanRows base x).map fun (a, n) => (true, a, n)

/-- The accesses of a pass in beat order, as linear runs. -/
def passAccess (i : Image) (base : Nat) : List (Bool × Nat × Nat) :=
  (List.range i.beats).flatMap fun b =>
    (((instsAt (mainPlace i) b).flatMap (bundleAccess i base))
      ++ (kernelsAll i).flatMap fun (_, _, r) => if r.k.startBeat = b then kernelAccess i base r else []).flatMap
        fun (w, a, n) => (spanRuns a n).map fun (l, k) => (w, l, k)

/-- Whether some byte is read before it is written, and written later. -/
def readsThenWrites : List (Bool × Nat × Nat) → List (Nat × Nat) → Bool
  | [], _ => false
  | (true, a, n) :: t, ws => readsThenWrites t ((a, n) :: ws)
  | (false, a, n) :: t, ws =>
    (List.range n).any (fun k => !ws.any (fun (b, m) => decide (b ≤ a + k ∧ a + k < b + m))
        && t.any fun (w, b, m) => w && decide (b ≤ a + k ∧ a + k < b + m))
      || readsThenWrites t ws

/-- Whether an image is replayable for a tensor base (R410). -/
def replayable (s : State) (i : Image) (base : Nat) : Bool := !readsThenWrites (passAccess (localImage s i) base) []

/-! ## What a job reaches (R276, R390, R535) -/

/-- The spans of a job's tensors. -/
def jobTensors (i : Image) (base : Nat) : List (Nat × Nat) :=
  i.tensors.filterMap fun t => if t.base = 2 ∨ t.size = 0 then none else some (tensorAddr t base, t.size)

/-- The spans of a job's page table: its directory and its leaves. -/
def tableSpans (s : State) (c : Ctx) : List (Nat × Nat) :=
  if c.desc.ptLayers = 0 then []
  else (c.desc.ptRoot, 16 * c.desc.ptLayers) :: (List.range (2 * c.desc.ptLayers)).filterMap fun j =>
    let (a, n) := leafOf s c (j / 2) (j % 2)
    if n = 0 then none else some (a, 4 * n)

/-- The checks of R535 that BUS_ERROR answers: regions, and retired space, of tensors and page table. -/
def reachOk (s : State) (i : Image) (c : Ctx) : Bool :=
  (jobTensors i c.desc.base).all (fun (a, n) => spanStatic s a n)
    && (tableSpans s c).all fun (a, n) => isStack a && spanStatic s a n

/-- The checks of R535 that BAD_PARAM answers: BASE 1 tensors of kernels in their stack (R227), and the minimum
duration at this base (R220, R223). -/
def kernelsAtOk (i : Image) (base : Nat) : Bool :=
  (kernelsAll i).all fun (st, _, r) =>
    (kernelTensors i r.code r.k).all (fun t => t.base != 1 || t.size == 0 ||
      (decide (st * stackBytes ≤ base + t.addr) && decide (base + t.addr + t.size ≤ (st + 1) * stackBytes)))
      && decide (minDuration i base r.code r.k ≤ r.k.duration)

/-- Whether a job's resolved tensors reach a region of 1 MiB (R276). -/
def reachesRegion (i : Image) (base region : Nat) : Bool :=
  (jobTensors i base).any fun (a, n) => spansMeet a n (region * 0x100000) 0x100000

/-- Whether a job's resolved tensors reach any retired region: it cannot continue in place (R276). -/
def reachesRetired (s : State) (c : Ctx) : Bool :=
  (imageGet s c.desc.image).any fun i => s.retired.any (reachesRegion i c.desc.base)

end Sys2Proof.Machine
end

