-- ==== Sys2Proof/Machine/GroupWords.lean ====
section
/-! DEFINITION. The words that group members write into each other's memory: START and PAUSE (R420, R421), slip
notices (R300 to R302), and the timing of group beats (R297). -/

namespace Sys2Proof.Machine

open Sys2Proof

/-- A WRITE of a word by this member into every member's memory at one local address, its own included (R300, R420).
The REQs go out in the PEER sessions. -/
def memberWrite (s : State) (g : Group) (addr : Nat) (b : Bytes) : State :=
  let s := storeBytes s addr b
  (g.nodes.zipIdx.filter fun y => y.2 != g.index).foldl (fun s (node, _) =>
    match peerSession s node.toNat with
    | some n => keepPacket s n { psn := 0, isReq := true, op := 0x01
                                 address := BitVec.ofNat 64 (node.toNat * 2 ^ 48 + addr), payload := b }
    | none => s) s

/-- A word of a target beat and a sequence or count. -/
def groupWord (target low : Nat) : Bytes := toLE (target * 256 + low % 256) 8

/-- The target and the low byte of a word in this member's memory. -/
def wordIn (s : State) (addr : Nat) : Nat × Nat :=
  let v := leNat (spanRead s addr 8)
  (v / 256, v % 256)

/-- The START words of the members, as this member's control block holds them. -/
def startWords (s : State) (g : Group) : List (Nat × Nat) := (List.range g.members).map fun i => wordIn s (g.block + 8 * i)

/-- The PAUSE words of the members. -/
def pauseWords (s : State) (g : Group) : List (Nat × Nat) :=
  (List.range g.members).map fun i => wordIn s (g.block + 512 + 8 * i)

/-- The group job enters READY: this member's START word (R421). -/
def writeStart (s : State) : State :=
  match member s with
  | none => s
  | some g =>
    let seq := g.startSeq + 1
    let s : State := { s with group := some { g with startSeq := seq } }
    memberWrite s g (g.block + 8 * g.index) (groupWord (g.beat + g.delay) seq)

/-- The member accepts JOB_PAUSE for its group job: its PAUSE word (R421). -/
def writePause (s : State) : State :=
  match member s with
  | none => s
  | some g =>
    let seq := g.pauseSeq + 1
    let s : State := { s with group := some { g with pauseSeq := seq } }
    memberWrite s g (g.block + 512 + 8 * g.index) (groupWord (g.beat + g.delay) seq)

/-- Whether the group job's pass may start with the next beat: every START word carries this member's sequence, and
no target is later (R421). -/
def startDue (s : State) : Bool :=
  match member s with
  | none => false
  | some g => (startWords s g).all fun (t, q) => q == g.startSeq % 256 && decide (t ≤ g.beat)

/-- The PAUSE words that a job has not applied: those whose sequence is ahead of the last one applied. -/
def openPauses (s : State) (g : Group) (c : Ctx) : List (Nat × Nat) :=
  (pauseWords s g).filter fun (_, q) => (q + 256 - c.pauseSeq % 256) % 256 ≠ 0 && decide ((q + 256 - c.pauseSeq % 256) % 256 < 128)

/-- Whether the group job pauses at the end of the pass whose last beat is the one before the next (R421). -/
def pauseDue (s : State) (c : Ctx) : Bool :=
  match member s with
  | none => false
  | some g => (openPauses s g c).any fun (t, _) => decide (t ≤ g.beat)

/-- The largest PAUSE sequence, once applied. -/
def pauseApplied (s : State) (c : Ctx) : Nat :=
  match member s with
  | none => c.pauseSeq
  | some g => (openPauses s g c).foldl (fun m (_, q) => max m (c.pauseSeq + (q + 256 - c.pauseSeq % 256) % 256)) c.pauseSeq

/-- P in units of 2^-32 ns. -/
def periodDt (g : Group) : Nat := g.period * 2 ^ 16

/-- T_m of group beat m for a number of slip periods applied, in units of 2^-32 ns (R297). -/
def startTime (g : Group) (m sigma : Nat) : Nat := g.epoch + (m + sigma) * periodDt g

/-- The address of member i's word in the entry of a target beat (R300). -/
def slipAddr (g : Group) (target i : Nat) : Nat := g.ring + (target % 64) * 512 + 8 * i

/-- The notices in the ring that have not been applied: the largest k for each target (R301, R302). -/
def openSlips (s : State) (g : Group) : List (Nat × Nat) :=
  let words := (List.range 64).flatMap fun e => (List.range g.members).filterMap fun i =>
    let (t, k) := wordIn s (g.ring + e * 512 + 8 * i)
    if k = 0 ∨ t % 64 ≠ e ∨ g.applied.contains t then none else some (t, k)
  words.foldl (fun l (t, k) => sput l t (max k ((sfind l t).getD 0))) []

end Sys2Proof.Machine
end

