-- ==== Sys2Proof/Machine/Pages.lean ====
section
/-! DEFINITION. The KV page manager (R183 to R193, R276, R394): copies and demotions as they complete, page commands,
allocation, pressure, and what a pass start does. -/

namespace Sys2Proof.Machine

open Sys2Proof

/-! ## Sizes -/

/-- Whether a format may be a page's format: a code of R36, scaled only where the format may be (R42, R181). -/
def pageFmtOk (b : Nat) : Bool := decide (b < 32) && decide (b % 16 ≤ 9) && (decide (b < 16) || mayScale (b % 16))

/-- The channels of a page, from its bytes (R179). -/
def chansOf (p : Page) : Nat := p.bytes / (32 * fmtWidth p.home + (if p.homeScaled then 8 else 0))

/-- The granules of a slot of a number of bytes (R180). -/
def granulesOf (bytes : Nat) : Nat := ceilDiv bytes 65536

/-- The page-form kernels of an image for a layer and kind. -/
def pageKernels (i : Image) (layer kind : Nat) : List KernelRec :=
  (kernelsAll i).filterMap fun (_, _, r) =>
    if (r.code = .gather ∨ r.code = .scatter) ∧ kNat r.k 0 1 = 1 ∧ kNat r.k 10 2 = layer ∧ kNat r.k 9 1 = kind
    then some r else none

/-- The channels of a job's pages of a layer and kind: those of its image's page-form kernels (DEDUCED); free where
it has none. -/
def jobChans (s : State) (c : Ctx) (layer kind : Nat) : Nat :=
  match (imageGet s c.desc.image).bind fun i => (pageKernels i layer kind).head? with
  | some r => pageChannels r.k
  | none => Config.pageChannels c.desc.image.toNat layer kind

/-! ## Demotion and drops (R190 to R192) -/

/-- The format that a home format is demoted to (R191). -/
def demotedFmt (home : Nat) : Option Nat :=
  match home with
  | 1 | 2 => some 3
  | 3 | 4 | 5 | 6 => some 7
  | _ => none

/-- The granules that a page holds once demoted; none where it may not be demoted now (R187, R191). A page whose demoted form
needs as many granules as its home slot is demoted like any other (DESIGN CHOICE, assumption 77: R191 speaks of a smaller slot). -/
def demotedGranules (p : Page) : Option Nat :=
  if p.pinned ∨ p.state ≠ .live ∨ p.valid ≠ 256 then none
  else (demotedFmt p.home).map fun f => granulesOf (pageBytes f true (chansOf p))

/-- The context that maps a page. -/
def holderOf (s : State) (p : Page) : Option Ctx :=
  s.ctxs.find? fun c => (mapGet s c p.layer p.kind p.index) == some p.id || (mappings s c).any fun y => y.2.2.2 == p.id

/-- Whether a page may be dropped now: not one of a job in a pass, or in one that starts at this boundary (R192). -/
def droppable (s : State) (p : Page) : Bool :=
  (p.state == .live || p.state == .demoted) && !p.pinned && p.refs == 1
    && (holderOf s p).any fun c => c.state != .running && !s.starting.contains c.num && c.desc.recompute != 0

/-- The order of candidates: lowest priority, then the oldest read, then the highest ID (R190). -/
def candidateLt (s : State) (a b : Page) : Bool :=
  let pr (p : Page) : Nat := ((ctxGet s p.owner).map fun c => c.desc.priority).getD 0
  decide (pr a < pr b) || (pr a == pr b && (decide (a.lastRead < b.lastRead)
    || (a.lastRead == b.lastRead && decide (b.id.toNat < a.id.toNat))))

/-- Inserts a page in the order of candidates. -/
def insertCandidate (s : State) (p : Page) : List Page → List Page
  | [] => [p]
  | q :: t => if candidateLt s p q then p :: q :: t else q :: insertCandidate s p t

/-- The pages of a stack that satisfy a test, in the order of candidates. -/
def candidates (s : State) (st : Nat) (ok : Page → Bool) : List Page :=
  (s.pages.filter fun p => pageStack p.id == st && ok p).foldr (insertCandidate s) []

/-- Starts a demotion: a second slot for the demoted copy. -/
def startDemotion (s : State) (p : Page) (n : Nat) : State :=
  match findSlot s (pageStack p.id) n with
  | none => s
  | some a => pagePut s { p with state := .demoting, slot2 := some (a, n), copied := false }

/-- Drops a page: its slot is free, its mapping stays. A copy of it that is in progress has lost its source and is cancelled; a later
pass start finds the page DROPPED (R187). -/
def dropPage (s : State) (p : Page) : State :=
  let s := (s.pages.filter fun q => q.state == .copying && q.source == some p.id).foldl pageFree s
  pagePut s { p with state := .dropped, slot := 0, granules := 0, slot2 := none, fmt := p.home, scaled := p.homeScaled
                     copied := false, fresh := false }

/-- The granules that the demotions in progress of a stack will free. -/
def pendingGain (s : State) (st : Nat) : Nat :=
  ((s.pages.filter fun p => pageStack p.id == st && p.state == .demoting).map fun p => p.granules).sum

/-- The free granules below which pressure actions run (R190, R197). -/
def lowWater (s : State) (st : Nat) : Nat := ceilDiv (min 100 (regF s oKvCtrl 23 16) * poolGranules s st) 100

/-- Pressure actions of a stack until a goal is met: demotions first, then drops (R190). Demotions in progress count
by what they will free toward the low-water mark; an allocation needs a slot at once. -/
def pressureFor (s : State) (st : Nat) (met : State → Bool) (metLater : State → Bool) : State :=
  let s := if regF s oKvCtrl 31 31 = 1 then
      (candidates s st fun p => (demotedGranules p).isSome).foldl (fun s p =>
        if metLater s then s else startDemotion s p ((demotedGranules p).getD 0)) s
    else s
  if regF s oKvCtrl 30 30 = 1 then
    (candidates s st (droppable s)).foldl (fun s p => if met s then s else dropPage s p) s
  else s

/-- Pressure actions at the low-water mark. -/
def lowPressure (s : State) (st : Nat) : State :=
  if poolGranules s st = 0 ∨ lowWater s st ≤ freeGranules s st then s
  else
    let ok (s : State) : Bool := decide (lowWater s st ≤ freeGranules s st + pendingGain s st)
    pressureFor s st ok ok

/-- A slot of n granules of a stack, after the pressure actions when none is free (R184, R190). -/
def slotFor (s : State) (st n : Nat) : Option Nat × State :=
  match findSlot s st n with
  | some a => (some a, s)
  | none =>
    let ok (s : State) : Bool := (findSlot s st n).isSome
    let s := pressureFor s st ok ok
    (findSlot s st n, s)

/-! ## Allocation -/

/-- A new page of a context in a format, with a slot; none when the stack has no slot, or no page ID. A page that no pass has read yet stands
among R190's candidates by the beat of its allocation (DESIGN CHOICE, assumption 77). -/
def newPage (s : State) (ctx layer kind x fmt : Nat) (scaled : Bool) (c : Nat) (state : PageState) (source : Option (BitVec 24)) :
    Option (BitVec 24) × State :=
  let st := kvStack layer kind
  let bytes := pageBytes fmt scaled c
  let (slot, s) := slotFor s st (granulesOf bytes)
  match slot with
  | none => (none, s)
  | some a =>
    match freePageId s st with
    | none => (none, s)
    | some id => (some id, pagePut s
      { id := id, state := state, fmt := fmt, scaled := scaled, home := fmt, homeScaled := scaled, pinned := false, refs := 1
        owner := ctx, layer := layer, kind := kind, index := x, valid := 0, granules := granulesOf bytes, slot := a
        source := source, lastRead := s.beats, bytes := bytes })

/-- Allocates a page and maps it (R187, R394). -/
def allocPage (s : State) (c : Ctx) (layer kind x fmt : Nat) (scaled : Bool) (chans : Nat) : Option (BitVec 24) × State :=
  match newPage s c.num layer kind x fmt scaled chans .live none with
  | (some id, s) => (some id, mapSet s c layer kind x (some id))
  | (none, s) => (none, s)

/-! ## Copies that complete (R189, R191) -/

/-- Copies the poison of the codewords of a slot. -/
def copyPoison (s : State) (src dst n : Nat) : State :=
  (s.poison.filter fun w => decide (src ≤ w ∧ w < src + n)).foldl (fun s w => poisonAdd s (dst + (w - src))) s

/-- The copy of a copy-on-write completes: the slot's bytes are in the new slot (R189). -/
def copyDone (s : State) (p : Page) : State :=
  match p.source.bind (pageGet s) with
  | none => s
  | some q =>
    let s := copyPoison (storeBytes s p.slot (bytesAt s q.slot p.bytes)) q.slot p.slot p.bytes
    pagePut s { p with copied := true, valid := q.valid }

/-- The demoted elements and scale of block b of a page (R191). -/
def demoteBlock (s : State) (p : Page) (fmt c b : Nat) : List Nat × Byte × Bool :=
  let zl := pageScaleLin p.slot p.fmt c b
  let sc := if p.scaled then some (byteAt s zl) else none
  let vs := (List.range 32).map fun j => decodeScaled p.fmt sc (pageElem s p.slot p.fmt (32 * b + j))
  let st : Store := { fmt := fmt, scaled := true, sr := false, sr3 := false, ieee := false }
  let (bits, scales, _) := storeVals st (fun _ => 0) [scaleOf fmt vs] vs
  let bad := !s.poison.isEmpty && (((List.range 32).any fun j => anyPoison s (pageElemLins p.slot p.fmt (32 * b + j)))
    || (p.scaled && anyPoison s [zl]))
  (bits, scales.getD 0 0x7F, bad)

/-- The copy of a demotion completes: the second slot holds the page in its demoted format (R191). -/
def demoteDone (s : State) (p : Page) : State :=
  match p.slot2, demotedFmt p.home with
  | some (a, _), some f =>
    let c := chansOf p
    let blocks := (List.range (pageElems c / 32)).map (demoteBlock s p f c)
    let s := storeBytes s a (pack (fmtWidth f) (blocks.flatMap (·.1)) ++ blocks.map (·.2.1))
    let s := blocks.zipIdx.foldl (fun s (y, b) =>
      if y.2.2 then (poisonAdd (poisonAdd s (wordAt (a + 4 * fmtWidth f * b))) (wordAt (pageScaleLin a f c b))) else s) s
    pagePut s { p with copied := true }
  | _, _ => s

/-- COW_COPY_COMPLETE. -/
def execCowCopyComplete (page : BitVec 24) (s : State) : Host.Outcome State Fault Refusal :=
  let s : State := { s with out := [] }
  match pageGet s page with
  | some p => .next (if p.state = .copying ∧ !p.copied then copyDone s p else s)
  | none => .next s

/-- DEMOTION_COPY_COMPLETE. -/
def execDemotionCopyComplete (page : BitVec 24) (s : State) : Host.Outcome State Fault Refusal :=
  let s : State := { s with out := [] }
  match pageGet s page with
  | some p => .next (if p.state = .demoting ∧ !p.copied then demoteDone s p else s)
  | none => .next s

/-- Step 2 of R184 for one page. -/
def applyCopied (s : State) (p : Page) : State :=
  if !p.copied then s
  else if p.state = .demoting then
    match p.slot2, demotedFmt p.home with
    | some (a, n), some f =>
      pagePut s { p with state := .demoted, fmt := f, scaled := true, slot := a, granules := n, slot2 := none, copied := false }
    | _, _ => s
  else if p.state = .copying then
    let s := pagePut s { p with state := .live, source := none, copied := false }
    match ctxGet s p.owner, p.source with
    | some c, some q => pageRelease (mapSet s c p.layer p.kind p.index (some p.id)) q
    | _, _ => s
  else s

/-! ## Page commands (R184, R188, R376, R394) -/

/-- A page command waits for the boundary, where its own checks are made and its reply is formed (R376). -/
def cmdPage (op : PageOp) (w : Who) (p : Packet) (s : State) : Ans := atNext (waitFor s (.page { op := op, p := p, cls := w.cls }))

/-- PAGE_ALLOC, a boundary command. -/
def cmdPageAlloc (w : Who) (p : Packet) (s : State) : Ans := cmdPage .alloc w p s

/-- PAGE_SHARE, a boundary command. -/
def cmdPageShare (w : Who) (p : Packet) (s : State) : Ans := cmdPage .share w p s

/-- PAGE_RELEASE, a boundary command. -/
def cmdPageRelease (w : Who) (p : Packet) (s : State) : Ans := cmdPage .release w p s

/-- Who sent a page command. -/
def pageSender (r : PageReq) : Who := { cls := r.cls, session := originSession r.p.origin }

/-- The layer that a page command names. -/
def layerOf (p : Packet) : Nat := field p.params 2 2

/-- The kind that a page command names. -/
def kindOf (p : Packet) : Nat := field p.params 4 1

/-- The logical index that a page command names. -/
def indexOf (p : Packet) : Nat := field p.params 8 4

/-- The own checks that every page command makes of a context it names: FREE, the sender's right, RUNNING. -/
def pageCtxCode (s : State) (r : PageReq) (off : Nat) : Code :=
  match namedCtx s r.p off with
  | none => .badParam
  | some c => if !mayName (pageSender r) c.owner then .priv else if c.state = .running then .busy else .ok

/-- The code of a PAGE_ALLOC up to its slot (R394). -/
def allocCode (s : State) (r : PageReq) (c : Ctx) : Code :=
  let p := r.p
  if pageCtxCode s r 0 ≠ .ok then pageCtxCode s r 0
  else if 2 ≤ kindOf p ∨ !zeroAt p.params 6 2 ∨ c.desc.ptLayers ≤ layerOf p ∨ !pageFmtOk (field p.params 5 1) then .badParam
  else
    match entryFault s c (layerOf p) (kindOf p) (indexOf p) with
    | some code => code
    | none =>
      if (leafOf s c (layerOf p) (kindOf p)).2 ≤ indexOf p ∨ (mapGet s c (layerOf p) (kindOf p) (indexOf p)).isSome then .badParam
      else .ok

/-- PAGE_ALLOC at the boundary. -/
def applyAlloc (s : State) (r : PageReq) : State :=
  let p := r.p
  let fmt := field p.params 5 1
  match namedCtx s p 0 with
  | none => replyLater s p 0x40 .badParam
  | some c =>
    if allocCode s r c ≠ .ok then replyLater s p 0x40 (allocCode s r c)
    else
      match allocPage s c (layerOf p) (kindOf p) (indexOf p) (fmt % 16) (decide (16 ≤ fmt)) (jobChans s c (layerOf p) (kindOf p)) with
      | (some id, s) => replyLater s p 0x40 .ok (toLE id.toNat 4)
      | (none, s) => replyLater s p 0x40 .noPages

/-- The state of a page that keeps it from being shared (R188). -/
def unshareable (q : Page) : Bool := q.state == .copying || q.state == .demoting || q.state == .dropped

/-- The code of a PAGE_SHARE of context c's page in context d (R188). A destination index that is mapped or beyond its leaf, and a
context that already maps the page, answer BAD_PARAM (DESIGN CHOICE, assumption 77: R188 names no code; R182 forbids the last). -/
def shareCode (s : State) (r : PageReq) (c d : Ctx) : Code :=
  let p := r.p
  let y := field p.params 16 4
  if pageCtxCode s r 0 ≠ .ok then pageCtxCode s r 0
  else if pageCtxCode s r 12 ≠ .ok then pageCtxCode s r 12
  else if 2 ≤ kindOf p ∨ !zeroAt p.params 5 3 ∨ !zeroAt p.params 14 2 ∨ c.desc.ptLayers ≤ layerOf p ∨ d.desc.ptLayers ≤ layerOf p
  then .badParam
  else
    match entryFault s c (layerOf p) (kindOf p) (indexOf p), entryFault s d (layerOf p) (kindOf p) y with
    | some code, _ => code
    | none, some code => code
    | none, none =>
      match mappedPage s c (layerOf p) (kindOf p) (indexOf p) with
      | none => .badParam
      | some q =>
        if (leafOf s d (layerOf p) (kindOf p)).2 ≤ y ∨ (mapGet s d (layerOf p) (kindOf p) y).isSome then .badParam
        else if (mappings s d).any (fun m => m.2.2.2 == q.id) then .badParam
        else if unshareable q then .busy else .ok

/-- PAGE_SHARE at the boundary. -/
def applyShare (s : State) (r : PageReq) : State :=
  let p := r.p
  match namedCtx s p 0, namedCtx s p 12 with
  | some c, some d =>
    if shareCode s r c d ≠ .ok then replyLater s p 0x41 (shareCode s r c d)
    else
      match mappedPage s c (layerOf p) (kindOf p) (indexOf p) with
      | none => replyLater s p 0x41 .badParam
      | some q => replyLater (mapSet (pagePut s { q with refs := q.refs + 1 }) d (layerOf p) (kindOf p) (field p.params 16 4) (some q.id)) p 0x41 .ok
  | _, _ => replyLater s p 0x41 .badParam

/-- The code of a PAGE_RELEASE (R188). -/
def releaseCode (s : State) (r : PageReq) (c : Ctx) : Code :=
  let p := r.p
  if pageCtxCode s r 0 ≠ .ok then pageCtxCode s r 0
  else if 2 ≤ kindOf p ∨ !zeroAt p.params 5 3 ∨ c.desc.ptLayers ≤ layerOf p then .badParam
  else
    match entryFault s c (layerOf p) (kindOf p) (indexOf p) with
    | some code => code
    | none => if (mapGet s c (layerOf p) (kindOf p) (indexOf p)).isNone then .badParam else .ok

/-- PAGE_RELEASE at the boundary; a second one of the same mapping finds nothing. -/
def applyRelease (s : State) (r : PageReq) : State :=
  let p := r.p
  match namedCtx s p 0 with
  | none => replyLater s p 0x42 .badParam
  | some c =>
    if releaseCode s r c ≠ .ok then replyLater s p 0x42 (releaseCode s r c)
    else
      match mapGet s c (layerOf p) (kindOf p) (indexOf p) with
      | none => replyLater s p 0x42 .badParam
      | some id => replyLater (unmapPage s c (layerOf p) (kindOf p) (indexOf p) id) p 0x42 .ok

/-- A page command at the boundary. -/
def applyPage (s : State) (r : PageReq) : State :=
  match r.op with
  | .alloc => applyAlloc s r
  | .share => applyShare s r
  | .release => applyRelease s r

/-- A release request's page, for the order of step 1. -/
def releaseKey (s : State) (r : PageReq) : Nat :=
  (((namedCtx s r.p 0).bind fun c => mapGet s c (layerOf r.p) (kindOf r.p) (indexOf r.p)).map (·.toNat)).getD 0

/-- Inserts a release by ascending page ID. -/
def insertRelease (s : State) (r : PageReq) : List PageReq → List PageReq
  | [] => [r]
  | q :: t => if releaseKey s r < releaseKey s q then r :: q :: t else q :: insertRelease s r t

/-- Step 1 of R184: releases in ascending page ID. -/
def applyReleases (s : State) (rs : List PageReq) : State :=
  (rs.foldl (fun l r => insertRelease s r l) []).foldl applyRelease s

/-- Step 2 of R184: copies and demotions that completed. -/
def applyCopies (s : State) : State :=
  s.pages.foldl (fun s p => match pageGet s p.id with
    | some q => applyCopied s q
    | none => s) s

/-! ## Pass starts (R184, R187, R192, R193) -/

/-- A job of a pass that starts at the boundary: its slot, the pass's image, whether the pass recomputes its pages. -/
structure Begin where
  num       : Nat
  slot      : Nat
  img       : Image
  recompute : Bool
  deriving DecidableEq, Repr

/-- A page that a job's pass will write: layer, kind, index, and the kernel that does. -/
structure Target where
  num   : Nat
  layer : Nat
  kind  : Nat
  x     : Nat
  fmt   : Nat
  scaled : Bool
  chans : Nat
  deriving DecidableEq, Repr

/-- The pages that the pass of a job will write: those of its slot's page-write kernels, by record and index. -/
def targetsOf (s : State) (b : Begin) : List Target :=
  match ctxGet s b.num with
  | none => []
  | some c => ((kernelsAll b.img).flatMap fun (_, _, r) =>
      if r.code = .scatter ∧ kNat r.k 0 1 = 1 ∧ kNat r.k 8 1 = b.slot then
        (writeRange c).map fun x => { num := b.num, layer := kNat r.k 10 2, kind := kNat r.k 9 1, x := x
                                      fmt := ((kParam b.img r.k 4).map (·.fmt)).getD 0, scaled := outScaled r.k, chans := pageChannels r.k }
      else []).dedup

/-- Whether a pass reads a page of a job that satisfies a test: the pages up to the job's length of each layer and kind that a
page-read kernel of its slot names (R185). -/
def readsPage (s : State) (b : Begin) (ok : Page → Bool) : Bool :=
  match ctxGet s b.num with
  | none => false
  | some c => (kernelsAll b.img).any fun (_, _, r) =>
      decide (r.code = .gather ∧ kNat r.k 0 1 = 1 ∧ kNat r.k 8 1 = b.slot) &&
        (List.range (min (kNat r.k 16 4 / 256) (ceilDiv c.length 256))).any fun x => (mappedPage s c (kNat r.k 10 2) (kNat r.k 9 1) x).any ok

/-- The page that a target maps. -/
def targetPage (s : State) (t : Target) : Option Page := (ctxGet s t.num).bind fun c => mappedPage s c t.layer t.kind t.x

/-- Whether a copy for a target is in progress (R189). -/
def targetCopies (s : State) (t : Target) : Bool := (copyOf s t.num t.layer t.kind t.x).isSome

/-- Inserts by a key, ascending. -/
def insertBy {α : Type} (key : α → Nat) (x : α) : List α → List α
  | [] => [x]
  | y :: t => if key x < key y then x :: y :: t else y :: insertBy key x t

/-- The DROPPED pages of the jobs whose recompute passes start, in ascending page ID, each with its job. -/
def droppedOf (s : State) (bs : List Begin) : List (Nat × BitVec 24) :=
  ((bs.filter (·.recompute)).flatMap fun b => match ctxGet s b.num with
    | none => []
    | some c => (mappings s c).filterMap fun (_, _, _, id) =>
        if (pageGet s id).any (fun p => p.state == .dropped) then some (b.num, id) else none).foldr (insertBy fun y => y.2.toNat) []

/-- Recompute allocations (R192): a DROPPED page gets a slot in its home format. The failed jobs go on in the list. -/
def giveSlotBack (a : State × List Nat) (y : Nat × BitVec 24) : State × List Nat :=
  let (s, fails) := a
  match pageGet s y.2 with
  | none => a
  | some p =>
    match slotFor s (pageStack p.id) (granulesOf p.bytes) with
    | (some x, s) => (pagePut s { p with state := .live, slot := x, granules := granulesOf p.bytes, valid := 0, fresh := true }, fails)
    | (none, s) => (s, y.1 :: fails)

/-- Write allocations (R187): an unmapped target is allocated. An index at or beyond the leaf's length cannot be mapped: the
model counts it as a failed allocation (DESIGN CHOICE, assumption 77). -/
def allocTarget (a : State × List Nat) (t : Target) : State × List Nat :=
  let (s, fails) := a
  match ctxGet s t.num with
  | none => a
  | some c =>
    if (mapGet s c t.layer t.kind t.x).isSome then a
    else if (leafOf s c t.layer t.kind).2 ≤ t.x then (s, t.num :: fails)
    else
      match allocPage s c t.layer t.kind t.x t.fmt t.scaled t.chans with
      | (some _, s) => (s, fails)
      | (none, s) => (s, t.num :: fails)

/-- Whether a copy-on-write starts for a target (R187, R189). -/
def copyStarts (s : State) (t : Target) : Bool :=
  !targetCopies s t && (targetPage s t).any fun p => p.state == .live && decide (1 < p.refs)

/-- The start of a copy-on-write (R189). -/
def startCopy (a : State × List Nat) (t : Target) : State × List Nat :=
  let (s, fails) := a
  match targetPage s t with
  | none => a
  | some p =>
    match newPage s t.num t.layer t.kind t.x p.home p.homeScaled (chansOf p) .copying (some p.id) with
    | (some _, s) => (s, fails)
    | (none, s) => (s, t.num :: fails)

/-- Whether a target is as its job's pass may write it: mapped, not dropped, and no copy of it under way or needed. A page that is
DEMOTING or DEMOTED with REFCOUNT above 1 has no row in R187: its job's slot runs empty, no copy starts, and nothing counts as a
failed allocation (DESIGN CHOICE, assumption 77). -/
def targetReady (s : State) (t : Target) : Bool :=
  !targetCopies s t && (targetPage s t).any fun p => p.state != .dropped && decide (p.refs ≤ 1)

/-- One more failed allocation of a job: the 64th pass start in a row ends it (R187). -/
def countFails (s : State) (n : Nat) (failed : Bool) : State :=
  match ctxGet s n with
  | none => s
  | some c =>
    let k := if failed then c.allocFails + 1 else 0
    if 64 ≤ k then failCtx s n .noPages else ctxMap s n fun c => { c with allocFails := k }

/-- A recompute pass for which a slot was missing runs empty, and its pages stay DROPPED (R187, R192). -/
def starveRecompute (s : State) (n : Nat) : State :=
  match ctxGet s n with
  | none => s
  | some c =>
    let s := (mappings s c).foldl (fun s (_, _, _, id) => match pageGet s id with
      | some p => if p.fresh then dropPage s p else s
      | none => s) s
    ctxMap s n fun c => { c with starved := true }

/-- What a pass start leaves of a job (R187, R192, R193): whether its slot runs empty, whether its recompute image runs next,
and KV_DEMOTED when the pass reads a DEMOTED page. -/
def beginJob (ts : List Target) (fails : List Nat) (s : State) (b : Begin) : State :=
  let failed := fails.contains b.num
  let demoted := readsPage s b (·.state == .demoted)
  if b.recompute then
    let s := ctxMap s b.num fun c => { c with starved := false, kvDemoted := c.kvDemoted || (!failed && demoted) }
    countFails (if failed then starveRecompute s b.num else s) b.num failed
  else
    let mine := ts.filter (·.num == b.num)
    let dropped := mine.any (fun t => (targetPage s t).any (·.state == .dropped)) || readsPage s b (·.state == .dropped)
    let ready := !failed && !dropped && mine.all (targetReady s)
    let s := ctxMap s b.num fun c => { c with
      pageWork := !ready, recomputing := dropped, kvDemoted := c.kvDemoted || (ready && demoted)
      interrupted := c.interrupted && !ready }
    countFails s b.num failed

/-- A job whose page tables cannot be read at its pass start ends at the next beat boundary (R255, R275). -/
def tablesHold (s : State) (b : Begin) : State :=
  match (ctxGet s b.num).bind (tableFault s) with
  | some code => failAt s [b.num] code
  | none => s

/-- Step 4 of R184 for the passes that start at a boundary: recompute allocations and copy-on-write starts in ascending page ID;
write allocations, whose pages have no ID yet, by job and record (DESIGN CHOICE, assumption 77). -/
def pageStarts (s : State) (bs : List Begin) : State :=
  let s := bs.foldl tablesHold s
  let a := (droppedOf s bs).foldl giveSlotBack (s, [])
  let ts := (bs.filter fun b => !b.recompute).flatMap (targetsOf a.1)
  let a := ts.foldl allocTarget a
  let copies := (ts.filter (copyStarts a.1)).foldr (insertBy fun t => ((targetPage a.1 t).map (·.id.toNat)).getD 0) []
  let (s, fails) := copies.foldl startCopy a
  bs.foldl (beginJob ts fails) s

/-- A recompute pass ends: the pages it gave slots to are pages like others. -/
def endRecompute (s : State) (n : Nat) : State :=
  match ctxGet s n with
  | none => s
  | some c =>
    let s := (mappings s c).foldl (fun s (_, _, _, id) => match pageGet s id with
      | some p => if p.fresh then pagePut s { p with fresh := false } else s
      | none => s) s
    ctxMap s n fun c => { c with recomputing := c.starved, starved := false }

/-! ## Retirement (R276) -/

/-- Whether a slot lies in a region of 1 MiB. -/
def slotIn (r a n : Nat) : Bool := decide (0 < a) && meets (65536 * (a / 65536)) (65536 * n) (r * 0x100000) 0x100000

/-- The pages whose slots lie in a retired region: dropped whatever DROP_EN says; a job that names no recompute image
fails. A copy whose new slot is lost starts again at a later pass start. -/
def retirePages (s : State) (r : Nat) : State :=
  s.pages.foldl (fun s p =>
    if (pageGet s p.id).isNone then s
    else if p.state = .copying ∧ slotIn r p.slot p.granules then pageFree s p
    else if slotIn r p.slot p.granules then
      let s := dropPage s p
      (s.ctxs.filter fun c => c.desc.recompute == 0 && isLive c.state && (mappings s c).any fun m => m.2.2.2 == p.id).foldl
        (fun s c => failCtx s c.num .eccUncorrectable) s
    else
      match p.slot2 with
      | some (a, n) => if slotIn r a n then pagePut s { p with state := .live, slot2 := none, copied := false } else s
      | none => s) s

end Sys2Proof.Machine
end

