-- ==== Sys2Proof/Machine/Jobs.lean ====
section
/-! DEFINITION. JOB_SUBMIT, JOB_PAUSE, JOB_RESUME and JOB_CANCEL (R389 to R391, R420 to R422), CTX_SAVE and CTX_RESTORE
(R412 to R416), and their effects at boundaries. -/

namespace Sys2Proof.Machine

open Sys2Proof

/-! ## JOB_SUBMIT (R390) -/

/-- The LOG fields of a descriptor (R328). -/
def logFieldsOk (d : Desc) : Bool :=
  d.logEntries == 0 || (decide (16 ≤ d.logEntries ∧ d.logEntries ≤ 2 ^ 24) && 2 ^ log2 d.logEntries == d.logEntries
    && d.logBase % 32 == 0
    && (isStack d.logBase || regionOf d.logBase == .hubGeneral))

/-- The tensors of a sampler record: in the image, LOGITS in a format that R194 allows, TOKENS with room. -/
def samplerTensorsOk (i : Image) (d : Desc) : Bool :=
  !d.sampler ||
    ((tensorGet i d.sampLogits).any (fun t => decide (t.fmt ≤ 2) && decide (fmtWidth t.fmt / 8 * d.vocab ≤ t.size))
      && (tensorGet i d.sampTokens).any fun t => decide (4 ≤ t.size))

/-- Whether the device holds a group job (R420), in a state other than DONE and FAILED. -/
def hasGroupJob (s : State) : Bool :=
  (s.ctxs ++ submits s ++ s.restores.map (·.ctx)).any fun c => c.group && c.state != .done && c.state != .failed

/-- Whether a group image may run on this device, a member of a group of its size that holds no other group job (R390, R420). -/
def groupOk (s : State) (i : Image) : Bool :=
  i.members == 0 || ((member s).any (fun g => g.members == i.members) && !hasGroupJob s)

/-- A context from a descriptor. -/
def ctxOf (s : State) (n : Nat) (d : Desc) (owner : Nat) (p : Packet) (i : Image) : Ctx :=
  { num := n, state := if d.startPaused then .paused else .ready, desc := d, step := d.stepFirst, stepsLeft := d.steps
    length := d.length, readyBeat := 0, stateAt := 0, owner := owner, tag := p.tag
    quiet := p.flags.getLsbD 0, group := i.members != 0, replayable := replayable s i d.base }

/-- The last checks of R390 and the acceptance. -/
def submitAccept (s : State) (p : Packet) (d : Desc) (owner : Nat) (i : Image) : Ans :=
  let quiet := p.flags.getLsbD 0
  if !quiet ∧ !ringFree s p then refuse s .busy
  else
    match freeContext s with
    | none => refuse s .noContext
    | some n =>
      let s := waitFor s (.submit (ctxOf s n d owner p i))
      { code := .accepted, result := toLE n 2, st := if quiet then s else ringReserve s p }

/-- JOB_SUBMIT. -/
def cmdJobSubmit (w : Who) (p : Packet) (s : State) : Ans :=
  let d := descOf p.params
  if s.power.phase = .standby ∨ s.flash.noJobs then refuse s .busy
  else if !descOk p.params ∨ !logFieldsOk d then refuse s .badParam
  else
    match imageGet s d.image with
    | none => refuse s .badParam
    | some i =>
      let c := ctxOf s 0 d (w.session.getD 0) p i
      if d.recompute ≠ 0 ∧ (imageGet s d.recompute).isNone then refuse s .badParam
      else if !samplerTensorsOk i d ∨ !groupOk s i ∨ !mirrorClear s i i.mask i.progs d.base then refuse s .badParam
      else if !reachOk s i c then refuse s .busError
      else if !kernelsAtOk i d.base then refuse s .badParam
      else if (choosePlacement s i d.base).isNone then refuse s .refoldUnavailable
      else submitAccept s p d (w.session.getD 0) i

/-- A submitted job enters its first state at the boundary (R390, R404). One whose tensors reach a region that is retired at this
same boundary moves to PAUSED (R276). -/
def enterSubmit (s : State) (c : Ctx) : State :=
  let s : State := { s with ctxs := s.ctxs ++ [{ c with stateAt := boundaryNow s, readyBeat := boundaryNow s }] }
  if c.state ≠ .ready then s
  else if reachesRetired s c then interruptCtx s c.num 276
  else if c.group then writeStart s else s

/-! ## JOB_PAUSE, JOB_CANCEL, JOB_RESUME (R391) -/

/-- The immediate answer of a job command by the context's state. -/
def jobCmd (op : CtxOp) (w : Who) (p : Packet) (s : State) (ok : Ctx → Bool) : Ans :=
  match namedCtx s p 0 with
  | none => refuse s .noContext
  | some c =>
    if !mayName w c.owner then refuse s .priv
    else if !ok c then refuse s .badParam
    else
      let r := waitFor s (.job { op := op, ctx := c.num, p := p, cls := w.cls })
      if !ringFree s p then refuse s .busy
      else accepted (if op = .pause ∧ c.group ∧ (c.state = .running ∨ c.state = .ready) then writePause r else r) p

/-- JOB_CANCEL. -/
def cmdJobCancel (w : Who) (p : Packet) (s : State) : Ans := jobCmd .cancel w p s fun _ => true

/-- JOB_PAUSE. -/
def cmdJobPause (w : Who) (p : Packet) (s : State) : Ans :=
  jobCmd .pause w p s fun c => c.state == .ready || c.state == .running || c.state == .paused

/-- Whether a save of a context is in progress. -/
def saving (s : State) (n : Nat) : Bool := s.saves.any fun v => v.ctx == n

/-- JOB_RESUME, a boundary command: its own checks are made where it takes effect (R376). -/
def cmdJobResume (w : Who) (p : Packet) (s : State) : Ans :=
  atNext (waitFor s (.job { op := .resume, ctx := field p.params 0 2, p := p, cls := w.cls }))

/-- Who sent a command that a boundary applies. -/
def senderOf (r : CtxReq) : Who := { cls := r.cls, session := originSession r.p.origin }

/-- A job command's ring entry or reply. -/
def endJobCmd (s : State) (r : CtxReq) (code : Code) : State :=
  match r.op with
  | .pause => postLater s r.p 0x33 code [] (some r.ctx)
  | .cancel => postLater s r.p 0x32 code [] (some r.ctx)
  | .resume => replyLater s r.p 0x34 code

/-- A save in progress is abandoned: its entry carries BAD_PARAM (R412). -/
def abandonSave (s : State) (n : Nat) : State :=
  let s := (s.saves.filter fun v => v.ctx == n).foldl (fun s v => postLater s v.p 0x38 .badParam (toLE 0 8) (some n)) s
  { s with saves := s.saves.filter fun v => v.ctx != n }

/-- JOB_CANCEL takes effect: a job that has ended or is saved is freed, another fails as cancelled (R391). -/
def applyCancel (s : State) (c : Ctx) : State :=
  match c.state with
  | .saved | .done | .failed => freeCtx s c.num
  | _ => failCtx (abandonSave s c.num) c.num .ok true

/-- JOB_PAUSE takes effect on a READY or RUNNING job (R408). -/
def pauseCtx (s : State) (n : Nat) : State :=
  let s := leaveSlots (ctxEnter s n .paused) n
  ctxMap s n fun c => { c with pageWork := false, recomputing := false, pauseSeq := pauseApplied s c }

/-- JOB_RESUME takes effect on a context: its code, the event that says why an interrupted job cannot be replayed,
and the state (R391, R407, R411). -/
def applyResume (s : State) (c : Ctx) : Code × BitVec 32 × State :=
  let none_ : BitVec 32 := 0xFFFFFFFF
  if c.state = .ready ∨ c.state = .running then (.ok, none_, s)
  else if c.state = .paused ∧ c.interrupted ∧ !c.replayable then
    let s := logOther s (unitOf 0 0) (some c.num) 411
    (.badParam, lastSeq s, s)
  else if c.state ≠ .paused ∨ saving s c.num ∨ reachesRetired s c then (.badParam, none_, s)
  else
    match (imageGet s c.desc.image).bind fun i => choosePlacement s i c.desc.base with
    | none => (.refoldUnavailable, none_, s)
    | some _ =>
      let s := ctxEnter s c.num .ready
      (.ok, none_, if c.group then writeStart s else s)

/-- One job command at a boundary. `atEnd` tells whether the job stands at the end of a pass, or in none: a RUNNING job
inside a pass keeps its commands waiting. A JOB_PAUSE of a group job waits until the members' words pause it (R421). -/
def applyReq (atEnd : Ctx → Bool) (s : State) (r : CtxReq) : State :=
  match ctxGet s r.ctx with
  | none => endJobCmd s r .noContext
  | some c =>
    let wait : Bool := c.state == .running && !atEnd c && r.op != .resume
    if wait then waitFor s (.job r)
    else
      match r.op with
      | .resume =>
        if !mayName (senderOf r) c.owner then endJobCmd s r .priv
        else
          let (code, ev, s) := applyResume s c
          replyLater s r.p 0x34 code [] ev
      | .cancel => endJobCmd (applyCancel s c) r .ok
      | .pause =>
        match c.state with
        | .paused => endJobCmd s r .ok
        | .ready | .running => if c.group then waitFor s (.job r) else endJobCmd (pauseCtx s c.num) r .ok
        | _ => endJobCmd s r .badParam

/-- The group job pauses at the end of a pass for a PAUSE word of any member (R421). -/
def groupPauses (atEnd : Ctx → Bool) (s : State) : State :=
  (s.ctxs.filter fun c => c.group && c.state == .running && atEnd c && pauseDue s c).foldl (fun s c => pauseCtx s c.num) s

/-- Saves of jobs that are no longer PAUSED are abandoned: only a PAUSED context is saved (R404, R412). -/
def dropSaves (s : State) : State :=
  s.saves.foldl (fun s v => if (ctxGet s v.ctx).any fun c => c.state == .paused then s else abandonSave s v.ctx) s

/-! ## CTX_SAVE (R412 to R415) -/

/-- The bytes of a context's BASE 1 tensors from its tensor base (R413). -/
def tensorBytes (i : Image) : Nat := (i.tensors.filter (·.base == 1)).foldl (fun m t => max m (t.addr + t.size)) 0

/-- The pages of a context by ascending layer, kind and index. -/
def savedPages (s : State) (c : Ctx) : List (Nat × Nat × Nat × Page) :=
  (mappings s c).filterMap fun (l, k, x, id) => (pageGet s id).map fun p => (l, k, x, p)

/-- The bytes that a page occupies in its present format; a dropped one none. -/
def pageNow (p : Page) : Nat := if p.state = .dropped then 0 else pageBytes p.fmt p.scaled (chansOf p)

/-- A page record (R415). -/
def pageRecord (s : State) (layer kind x : Nat) (p : Page) : Bytes :=
  let n := pageNow p
  let fmtByte (f : Nat) (z : Bool) : Nat := f + (if z then 16 else 0)
  let head := toLE layer 2 ++ toLE kind 1 ++ toLE (fmtByte p.fmt p.scaled) 1 ++ toLE (fmtByte p.home p.homeScaled) 1
    ++ [BitVec.ofNat 8 p.pinned.toNat] ++ toLE p.valid 2 ++ toLE x 4 ++ toLE 0 4 ++ toLE n 8
  fit (roundUp (64 + n) 4096) (fit 64 head ++ bytesAt s p.slot n)

/-- The size that a save needs (R412). -/
def saveSize (s : State) (c : Ctx) (i : Image) : Nat :=
  4096 + roundUp (tensorBytes i) 4096 + ((savedPages s c).map fun y => roundUp (64 + pageNow y.2.2.2) 4096).sum

/-- The area with BODY_DIGEST and the editable fields read as zero (R414). -/
def digestView (area : Bytes) : Bytes :=
  patch (patch area 36 (List.replicate 28 0)) 128 (List.replicate 64 0)

/-- The save area of a context (R413, R414). -/
def saveArea (s : State) (c : Ctx) (i : Image) : Bytes :=
  let d := c.desc
  let t := tensorBytes i
  let ps := savedPages s c
  let body := fit 128 d.raw
    ++ toLE c.step.toNat 4 ++ toLE c.stepsLeft.toNat 4 ++ toLE c.length 4 ++ [BitVec.ofNat 8 d.priority
        , BitVec.ofNat 8 (c.kvDemoted.toNat + 2 * c.interrupted.toNat), 0, 0]
    ++ List.replicate 3696 0 ++ fit (roundUp t 4096) (spanRead s d.base t)
    ++ ps.flatMap fun (l, k, x, p) => pageRecord s l k x p
  let head := toLE 0x43474B53 4 ++ toLE 1 2 ++ toLE 9 2 ++ toLE (regGet s oDigAid).toNat 4
    ++ [BitVec.ofNat 8 (if c.group then ((member s).map (·.index)).getD 0xFF else 0xFF), 0, 0, 0]
    ++ toLE (256 + body.length) 8 ++ toLE t 8 ++ toLE ps.length 4 ++ toLE d.logEntries 4 ++ toLE d.base 8 ++ toLE d.ptRoot 8
    ++ toLE d.logBase 8 ++ toLE i.plan.toNat 64 ++ List.replicate 128 0
  let area := head ++ body
  patch area 128 (shaBytes (digestView area))

/-- Whether every byte of a span is implemented now (R275). -/
def memoryThere (s : State) (a n : Nat) : Bool := n == 0 || ((spanProbes a n).all (implemented s) && implemented s (a + n - 1))

/-- Whether a span meets a job's tensors, its page table or a retired region (R412). -/
def areaMeets (s : State) (i : Image) (c : Ctx) (a n : Nat) : Bool :=
  (jobTensors i c.desc.base ++ tableSpans s c).any (fun (b, k) => spansMeet a n b k)
    || s.retired.any fun r => spansMeet a n (r * 0x100000) 0x100000

/-- CTX_SAVE. -/
def cmdCtxSave (w : Who) (p : Packet) (s : State) : Ans :=
  let area := field p.params 8 8
  let size := field p.params 16 8
  match namedCtx s p 0 with
  | none => refuse s .busy
  | some c =>
    if !mayName w c.owner then refuse s .priv
    else if !zeroAt p.params 2 6 then refuse s .badParam
    else if c.state ≠ .paused ∨ saving s c.num then refuse s .busy
    else
      match imageGet s c.desc.image with
      | none => refuse s .badParam
      | some i =>
        let n := saveSize s c i
        if area % 4096 ≠ 0 ∨ 0x10000000000 ≤ area ∨ (size ≠ 0 ∧ (size < n ∨ 0x10000000000 < area + size
            ∨ areaMeets s i c area size))
            ∨ (c.interrupted ∧ !c.replayable) ∨ (c.group ∧ (member s).isNone) then refuse s .badParam
        else if size ≠ 0 ∧ !memoryThere s area size then refuse s .busError
        else if !ringFree s p then refuse s .busy
        else if size = 0 then
          { code := .accepted, st := postEntry (ringReserve s p) p 0x38 .ok (toLE n 8) (some c.num) }
        else accepted { s with saves := s.saves ++ [{ ctx := c.num, area := area, size := size, p := p }] } p

/-- A save ends at once with a code. -/
def endSave (s : State) (v : Save) (code : Code) : State :=
  postEntry { s with saves := s.saves.filter fun x => x.ctx != v.ctx } v.p 0x38 code (toLE 0 8) (some v.ctx)

/-- The copy of a save completes: the area is written; a poisoned byte ends the save with ECC_UNCORRECTABLE, bytes of the area in
space that has been retired since with BUS_ERROR (R275). -/
def execCtxSaveComplete (ctx : Nat) (s : State) : Host.Outcome State Fault Refusal :=
  let s : State := { s with out := [] }
  match s.saves.find? (fun v => v.ctx == ctx && !v.copied), ctxGet s ctx with
  | some v, some c =>
    match imageGet s c.desc.image with
    | none => .next s
    | some i =>
      if anyPoison s (spanLinear c.desc.base (tensorBytes i)) ∨
          (savedPages s c).any (fun y => anyPoison s (spanLinear y.2.2.2.slot (pageNow y.2.2.2))) then
        .next (endSave s v .eccUncorrectable)
      else if !memoryThere s v.area v.size ∨ !memoryThere s c.desc.base (tensorBytes i) then .next (endSave s v .busError)
      else
        let s := storeBytes s v.area (saveArea s c i)
        .next { s with saves := s.saves.map fun x => if x.ctx = ctx then { x with copied := true } else x }
  | _, _ => .next s

/-- A completed save at the boundary: SAVED, pages released, the entry (R412). -/
def applySave (s : State) (v : Save) : State :=
  if !v.copied then s
  else
    match ctxGet s v.ctx with
    | none => s
    | some c =>
      let n := ((imageGet s c.desc.image).map fun i => saveSize s c i).getD 0
      let s := ctxEnter (unmapAll s c) c.num .saved
      let s := postLater s v.p 0x38 .ok (toLE n 8) (some c.num)
      { s with saves := s.saves.filter fun x => x.ctx != v.ctx }

/-! ## CTX_RESTORE (R416) -/

/-- A save area's page records: the header bytes and the offset of the page's bytes. -/
def areaPages (area : Bytes) : Nat → Nat → List (Bytes × Nat)
  | 0, _ => []
  | n + 1, off =>
    let h := slice area off 64
    (h, off + 64) :: areaPages area n (off + roundUp (64 + field h 16 8) 4096)

/-- The context that a save area describes, with the edited fields (R414). -/
def restoredCtx (s : State) (n : Nat) (owner : Nat) (p : Packet) (area : Bytes) (i : Image) : Ctx :=
  let d := descOf (slice area 256 128)
  let d := { d with base := field area 40 8, ptRoot := field area 48 8, logBase := field area 56 8, logEntries := field area 36 4
                    image := i.id }
  { num := n, state := .paused, desc := d, step := BitVec.ofNat 32 (field area 384 4)
    stepsLeft := BitVec.ofNat 32 (field area 388 4), length := field area 392 4, readyBeat := 0, stateAt := s.beats, owner := owner
    tag := p.tag, quiet := true, kvDemoted := (field area 397 1).testBit 0, interrupted := (field area 397 1).testBit 1
    group := i.members != 0, replayable := replayable s i d.base }

/-- The header of a save area (first check of R416). -/
def areaHeadOk (h : Bytes) (size : Nat) : Bool :=
  field h 0 4 == 0x43474B53 && field h 4 2 == 1 && zeroAt h 13 3 && zeroAt h 192 64
    && decide (field h 16 8 ≤ size) && decide (4096 ≤ field h 16 8)

/-- Whether the edited bases lie in implemented, unretired memory and clear of the area (fifth check of R416). -/
def restoreBasesOk (s : State) (i : Image) (c : Ctx) (area n : Nat) : Bool :=
  spanStatic s c.desc.base 1 && (jobTensors i c.desc.base).all (fun (a, k) => !spansMeet a k area n)
    && (c.desc.ptLayers == 0 || (c.desc.ptRoot % 8 == 0 && spanStatic s c.desc.ptRoot (16 * c.desc.ptLayers)
      && !spansMeet c.desc.ptRoot (16 * c.desc.ptLayers) area n))
    && logFieldsOk c.desc && (c.desc.logEntries == 0 || (spanStatic s c.desc.logBase (32 * c.desc.logEntries)
      && !spansMeet c.desc.logBase (32 * c.desc.logEntries) area n))

/-- The checks of R416 up to a usable placement, in order; then the answer for an area that passes. -/
def restoreChecks (s : State) (p : Packet) (owner area n : Nat) (b : Bytes) (ok : Image → Ctx → Ans) : Ans :=
  if shaBytes (digestView b) ≠ slice b 128 64 then refuse s .badParam
  else if field b 8 4 ≠ (regGet s oDigAid).toNat then refuse s .aidMismatch
  else
    match imageGet s (BitVec.ofNat 64 (field p.params 16 8)) with
    | none => refuse s .badParam
    | some i =>
      let c := restoredCtx s 0 owner p b i
      if i.plan.toNat ≠ field b 64 64 ∨ (c.desc.recompute ≠ 0 ∧ (imageGet s c.desc.recompute).isNone) then refuse s .badParam
      else if !restoreBasesOk s i c area n then refuse s .badParam
      else if !(jobTensors i c.desc.base).all (fun (a, k) => spanStatic s a k) then refuse s .busError
      else if !kernelsAtOk i c.desc.base ∨ (c.interrupted ∧ !c.replayable) then refuse s .badParam
      else if (field b 12 1 ≠ 0xFF ∧ !((member s).any fun g => g.index == field b 12 1 && g.members == i.members))
          ∨ (c.group ∧ hasGroupJob s) then refuse s .badParam
      else if (choosePlacement s i c.desc.base).isNone then refuse s .refoldUnavailable
      else ok i c

/-- One page record of a restore: a page in its saved state, not yet mapped; none where no slot, or no page ID, is found (R416). -/
def restorePage (s : State) (c : Ctx) (h bytes : Bytes) : Option (Nat × Nat × Nat × BitVec 24) × State :=
  let layer := field h 0 2
  let kind := field h 2 1
  let x := field h 8 4
  let n := field h 16 8
  let st := kvStack layer kind
  let fmt := field h 3 1
  let home := field h 4 1
  let chans := n / (32 * fmtWidth (fmt % 16) + (if 16 ≤ fmt then 8 else 0))
  let base (id : BitVec 24) (s : State) : Page :=
    { id := id, state := .dropped, fmt := home % 16, scaled := decide (16 ≤ home), home := home % 16
      homeScaled := decide (16 ≤ home), pinned := (field h 5 1).testBit 0, refs := 1, owner := c.num, layer := layer, kind := kind
      index := x, valid := field h 6 2, granules := 0, slot := 0, lastRead := s.beats
      bytes := pageBytes (home % 16) (decide (16 ≤ home)) (if n = 0 then jobChans s c layer kind else chans) }
  if n = 0 then
    match freePageId s st with
    | none => (none, s)
    | some id => (some (layer, kind, x, id), pagePut s (base id s))
  else
    match slotFor s st (granulesOf n), freePageId s st with
    | (none, s), _ | (_, s), none => (none, s)
    | (some a, s), some id =>
      let p := { base id s with
        state := if fmt = home then .live else .demoted, fmt := fmt % 16, scaled := decide (16 ≤ fmt), granules := granulesOf n
        slot := a }
      (some (layer, kind, x, p.id), storeBytes (pagePut s p) a bytes)

/-- The pages of a restore, in order, as long as each finds a slot; with the state, whether all did. -/
def restorePages (s : State) (c : Ctx) (area : Bytes) : List (Bytes × Nat) → List (Nat × Nat × Nat × BitVec 24) →
    Bool × List (Nat × Nat × Nat × BitVec 24) × State
  | [], ms => (true, ms, s)
  | (h, off) :: t, ms =>
    match restorePage s c h (slice area off (field h 16 8)) with
    | (none, s) => (false, ms, s)
    | (some m, s) => restorePages s c area t (ms ++ [m])

/-- The page records of a save area. -/
def savedRecords (area : Bytes) : List (Bytes × Nat) := areaPages area (field area 32 4) (4096 + roundUp (field area 24 8) 4096)

/-- Whether the bytes of a save area can be read: in memory, and not poisoned. Damage of either kind counts as damage of the area,
which its first two checks answer (DEDUCED, assumption 78: R416 names no other code). -/
def areaReadable (s : State) (a n : Nat) : Bool := spanStatic s a n && !anyPoison s (spanLinear a n)

/-- CTX_RESTORE: the checks of R416. The slots of its pages, which the pressure actions may have to free, are sought at the next
boundary, where every change of a page's state takes place (R183, R190; DEDUCED, assumption 78). -/
def cmdCtxRestore (w : Who) (p : Packet) (s : State) : Ans :=
  let area := field p.params 0 8
  let size := field p.params 8 8
  if s.power.phase = .standby then refuse s .busy
  else if area % 4096 ≠ 0 ∨ !isStack area ∨ size < 4096 ∨ !areaReadable s area 4096 then refuse s .badParam
  else
    let head := spanRead s area 4096
    if !areaHeadOk head size ∨ !areaReadable s area (field head 16 8) then refuse s .badParam
    else
      let b := spanRead s area (field head 16 8)
      restoreChecks s p (w.session.getD 0) area b.length b fun _ c =>
        match freeContext s with
        | none => refuse s .noContext
        | some k =>
          if c.desc.recompute = 0 ∧ (savedRecords b).any (fun y => field y.1 16 8 == 0) then refuse s .badParam
          else if !ringFree s p then refuse s .busy
          else accepted { s with restores := s.restores ++ [{ ctx := { c with num := k }, area := area, p := p }] } p

/-- The pages of an accepted restore at a boundary: allocated as the area says, or the restore ends with BAD_PARAM when one
finds no slot after the pressure actions (R416). -/
def allocRestore (s : State) (r : Restore) : State :=
  if r.maps.isSome then s
  else
    let n := field (spanRead s r.area 256) 16 8
    let b := spanRead s r.area n
    let (ok, ms, s) := restorePages s r.ctx b (savedRecords b) []
    if ok then { s with restores := s.restores.map fun x => if x.ctx.num = r.ctx.num then { x with maps := some ms } else x }
    else
      let s := ms.foldl (fun s y => match pageGet s y.2.2.2 with
        | some p => pageFree s p
        | none => s) s
      postLater { s with restores := s.restores.filter fun x => x.ctx.num != r.ctx.num } r.p 0x39 .badParam (toLE 0 2)

/-- Builds the leaf tables of a restored context behind its directory and maps the pages (R182, R416). The leaves follow
the directory at PT_ROOT, each as long as its highest index needs (DESIGN CHOICE). -/
def buildTable (s : State) (c : Ctx) (maps : List (Nat × Nat × Nat × BitVec 24)) : State :=
  let lens := (List.range (2 * c.desc.ptLayers)).map fun j =>
    (maps.filter fun (l, k, _) => 2 * l + k == j).foldl (fun m (_, _, x, _) => max m (x + 1)) 0
  let start := c.desc.ptRoot + 16 * c.desc.ptLayers
  let s := (List.range (2 * c.desc.ptLayers)).foldl (fun s j =>
    let a := start + 4 * (lens.take j).sum
    let n := lens.getD j 0
    storeBytes (storeBytes s (c.desc.ptRoot + 8 * j) (toLE (a + n * 2 ^ 48) 8)) a (List.replicate (4 * n) 0xFF)) s
  maps.foldl (fun s (l, k, x, id) => mapSet s c l k x (some id)) s

/-- A restore ends without its context: the pages that it has taken are free again. -/
def endRestore (s : State) (r : Restore) (code : Code) : State :=
  let s := (r.maps.getD []).foldl (fun s y => match pageGet s y.2.2.2 with
    | some p => pageFree s p
    | none => s) s
  postEntry { s with restores := s.restores.filter fun x => x.ctx.num != r.ctx.num } r.p 0x39 code (toLE 0 2)

/-- CTX_RESTORE_COMPLETE: the tensor bytes are at TENSOR_BASE; the pages have been allocated. Bytes in space that has been retired
since the command end the restore with BUS_ERROR, poisoned ones of the area with ECC_UNCORRECTABLE (R255, R275). -/
def execCtxRestoreComplete (ctx : Nat) (s : State) : Host.Outcome State Fault Refusal :=
  let s : State := { s with out := [] }
  match s.restores.find? (fun r => r.ctx.num == ctx && r.maps.isSome && !r.copied) with
  | none => .next s
  | some r =>
    let n := field (spanRead s r.area 256) 24 8
    if !memoryThere s r.area (4096 + n) ∨ !memoryThere s r.ctx.desc.base n then .next (endRestore s r .busError)
    else if anyPoison s (spanLinear r.area (4096 + n)) then .next (endRestore s r .eccUncorrectable)
    else
    let s := storeBytes s r.ctx.desc.base (spanRead s (r.area + 4096) n)
    .next { s with restores := s.restores.map fun x => if x.ctx.num = ctx then { x with copied := true } else x }

/-- A completed restore at the boundary: the page table is built, and the context enters PAUSED. -/
def applyRestore (s : State) (r : Restore) : State :=
  if !r.copied then s
  else
    let s := buildTable s r.ctx (r.maps.getD [])
    let s : State := { s with ctxs := s.ctxs ++ [{ r.ctx with stateAt := boundaryNow s }]
                              restores := s.restores.filter fun x => x.ctx.num != r.ctx.num }
    postLater s r.p 0x39 .ok (toLE r.ctx.num 2) (some r.ctx.num)

end Sys2Proof.Machine
end

