-- ==== Sys2Proof/Machine/BoundaryEngines.lean ====
section
/-! DEFINITION. What a beat boundary does to engines, units and memory (R82 to R87, R119 to R121, R246, R274 to R277,
R306): what is still on its way lands, holds are counted, fences, lifts and retirements take effect. -/

namespace Sys2Proof.Machine

open Sys2Proof

/-! ## The end of the beat (R119 to R121) -/

/-- What is on its way to an engine lands: completions at their landing cycles, then remote writes. -/
def landRest (s : State) (e : Nat) : State :=
  let x := engGet s e
  let s := engSet s e { x with inflight := [], incoming := [] }
  let s := x.inflight.foldl (fun s f => landCompletion s e f (landCycle s x f 0)) s
  x.incoming.foldl (fun s w => landRemote s e w) s

/-- Every effect of the beat takes place (R113, R120): the agenda to its end, then what is on its way. -/
def landAll (s : State) : State :=
  let s := settled s (2 ^ 64)
  settled ((s.engines.map (·.1)).foldl landRest s) (2 ^ 64)

/-- Whether an engine that runs a pass still waits for bytes that another device owes it in this beat: its beat has not
ended (R120). -/
def awaits (s : State) (e : Nat) : Bool :=
  let x := engGet s e
  !x.abandoned && (runOf s e).isSome && x.arrivals.any fun y => y.remote && y.dueBeat == 0

/-- Whether an engine has passed its last cycle of the beat: its bundles have issued, or it has abandoned them (R305), and
no ARRIVE of another device is open. -/
def engineDone (s : State) (e : Nat) : Bool :=
  (engGet s e).abandoned || (!awaits s e && ((runOf s e).bind fun r => nextBundle s r e).isNone)

/-- Whether a pass has run its beat (R18, R92, R120): every engine is done, and no kernel of the beat has still to start. -/
def passDone (s : State) (p : Pass) : Bool :=
  p.engines.all (engineDone s)
    && (imageGet s p.image).all fun i => (passKernels p i).all fun (st, n, r) => !kernelReady p i st n r

/-- The cycles by which a kernel ends late, in the last beat of its span: the stated ones, as far as refresh over all its windows can
make it late (R223). -/
def lateBy (s : State) (p : Pass) (y : LateKernel) : Nat :=
  match y.bound, imageGet s p.image with
  | some (code, k, base), some i => min y.cycles (kernelLateness s p i base code k)
  | _, _ => y.cycles

/-- The kernels that are late in the ending beat (R118, R223). -/
def latesNow (s : State) : List LateKernel :=
  s.lates.filterMap fun y => (s.passes.find? fun p => p.image == y.image && p.beat == y.beat).bind fun p =>
    if lateBy s p y = 0 then none else some { y with cycles := lateBy s p y }

/-- The delay of the boundary in step-clock cycles: the largest lateness of an engine or a unit, or of an effect that has come after
the beat's last cycle; three Caldera cycles are four step-clock cycles (R120, R479). -/
def beatDelay (s : State) : Nat :=
  max (s.lateEnd - 4095)
    (max ((s.engines.map fun y => y.2.hold).foldl max 0) (((latesNow s).map fun y => ceilDiv (4 * y.cycles) 3).foldl max 0))

/-- Whether an engine has held in the beat (R121). -/
def heldInBeat (x : Engine) : Bool := decide (0 < x.hold) || isHeld x

/-- An engine at the start of the next beat. Its arrays' last broadcasts lie the boundary's delay further back (R79, R81, R120). -/
def engineNext (delay : Nat) (x : Engine) : Engine :=
  { x with
    hold := 0, holding := none, holdMask := 0, holdFrom := 0, holdAt := 0, inflight := [], incoming := [], next := 0, rmos := []
    lastStore := [], lastSpans := [], lastNumber := 0, badStores := [], abandoned := false
    arrivals := if x.abandoned then [] else (x.arrivals.filter fun y => decide (0 < y.dueBeat)).map fun y => { y with dueBeat := y.dueBeat - 1 }
    arrays := x.arrays.map fun a => { a with down := false, cast := a.cast.map (· - delay) }, heldAt := isHeld x }

/-- Holds and lateness are counted (R121, R248, R284, R401), and every engine is ready for the next beat. -/
def endHolds (s : State) : State :=
  let d := beatDelay s
  let s := (s.engines.filter fun y => heldInBeat y.2).foldl (fun s y => regCount s (oEng y.1 + 8) 15 0 1) s
  let s := s.lateStacks.foldl (fun s st => regCount s (oMem st + 0x30) 15 0 1) s
  let s := (latesNow s).foldl (fun s y => regCount s (oCal y.stack + 8) 31 16 1) s
  let s : State := if d = 0 then s else
    { s with counters := { s.counters with delayed := s.counters.delayed + 1, delayCycles := s.counters.delayCycles + d }
             sessions := s.sessions.map fun (n, x) => (n, { x with holdSeen := true }) }
  let s := (s.engines.map (·.1)).foldl (fun s e => engSet s e (engineNext d (engGet s e))) s
  { s with lateStacks := [], agenda := [], stores := [], moves := 0, lateEnd := 0
           lates := s.lates.filter fun y => s.passes.any fun p => p.image == y.image && decide (p.beat < y.beat) }

/-! ## Fences of engines (R84, R86, R87, R306) -/

/-- The running jobs of the passes that satisfy a test, ascending. -/
def jobsIn (s : State) (ok : Pass → Bool) : List Nat :=
  ((s.passes.filter ok).flatMap fun p => p.slots.map (·.2)).dedup

/-- A fence in a quadrant ends its mirrored pair, and a mirrored job pauses (R306). -/
def endMirror (s : State) (quad : Nat) : State :=
  let q := quad - quad % 2
  if !mirrorOn s q then s
  else
    let s := regSetF s (oMirror q) 31 31 0
    (jobsIn s fun p => p.engines.any fun e => quadOf e / 2 == q / 2).foldl (fun s n => interruptCtx s n 306) s

/-- A fence of an engine takes effect (R84, R86): the running jobs of its pass pause, and RAMP mode begins (R78). -/
def applyFence (s : State) (e : Nat) (cause : BitVec 4) : State :=
  let s := engSet s e { engGet s e with fenceReq := none, passArray := false, passSram := false }
  let s := regSetF (regSetF s (oEng e + 0x10) 31 31 1) (oEng e + 0x10) 27 24 cause.toNat
  let s := logEvent s 0x0202 (unitOf 1 e) none [BitVec.ofNat 8 cause.toNat]
  let s := if cause = 3 then notice s 2 else s
  let s := (jobsIn s fun p => p.engines.contains e).foldl (fun s n => interruptCtx s n 84) s
  rampFrom (endMirror s (quadOf e)) (boundaryNow s)

/-- A lift takes effect (R87). -/
def applyLift (s : State) (e : Nat) : State :=
  let s := engSet s e { engGet s e with fenceReq := none, passArray := false, passSram := false }
  let s := regSetF (regSetF s (oEng e + 0x10) 31 31 0) (oEng e + 0x10) 27 24 0
  logEvent s 0x0203 (unitOf 1 e) none [1]

/-- The fence or lift that waits on an engine. -/
def engineFence (s : State) (e : Nat) : State :=
  match (engGet s e).fenceReq with
  | some (true, c) => applyFence s e c
  | some (false, _) => applyLift s e
  | none => s

/-! ## Fences of Caldera units (R246) -/

/-- The jobs, READY or RUNNING, whose images place a kernel on a unit. -/
def jobsOnUnit (s : State) (u : Nat) : List Nat :=
  (s.ctxs.filter fun c => (c.state == .ready || c.state == .running)
    && (imageGet s c.desc.image).any fun i => (unitsOf i).contains u).map (·.num)

/-- A unit's fence takes effect: with its partner fenced too, the jobs on either unit pause. -/
def fenceUnit (s : State) (u : Nat) : State :=
  let cause := (sfind s.unitCause u).getD 3
  let s : State := { s with unitCause := sput s.unitCause u cause, unitPass := s.unitPass.filter (· != u)
                            fencedUnits := s.fencedUnits ++ [u] }
  let s := logEvent s 0x0202 (unitOf 2 u) none [BitVec.ofNat 8 cause.toNat]
  let s := endMirror s (u / 32)
  if s.fencedUnits.contains (u ^^^ 1) then
    (jobsOnUnit s u ++ jobsOnUnit s (u ^^^ 1)).dedup.foldl (fun s n => interruptCtx s n 246) s
  else s

/-- A unit's lift takes effect. -/
def liftUnit (s : State) (u : Nat) : State :=
  let s : State := { s with unitCause := sdel s.unitCause u, unitPass := s.unitPass.filter (· != u)
                            fencedUnits := s.fencedUnits.filter (· != u) }
  logEvent s 0x0203 (unitOf 2 u) none [1]

/-- A stack's new fence mask takes effect. -/
def applyCalMask (s : State) (st : Nat) (mask : BitVec 16) : State :=
  let old := regF s (oCal st + 0x10) 15 0
  let s := regSetF s (oCal st + 0x10) 15 0 mask.toNat
  let s := ((bitsOf 16 mask.toNat).filter fun c => !old.testBit c).foldl (fun s c => fenceUnit s (16 * st + c)) s
  ((bitsOf 16 old).filter fun c => !mask.getLsbD c).foldl (fun s c => liftUnit s (16 * st + c)) s

/-- A codec engine's fence, for a failed self-test, takes effect (R445, R518). -/
def fenceCodec (s : State) (v : Nat) : State :=
  let s := regSetF s oVidFence v v 1
  let s : State := { s with codecCause := sput s.codecCause v 2, codecPass := s.codecPass.filter (· != v) }
  codecMoves (notice (logEvent s 0x0202 (unitOf 5 v) none [2]) 6)

/-! ## Retirement (R274 to R277) -/

/-- A region's retirement takes effect. -/
def applyRetire (s : State) (r : Nat) : State :=
  if s.retired.contains r then s
  else
    let st := r / 131072
    let s : State := { s with retired := s.retired ++ [r] }
    let s := regSetF s (oMem st + 0x28) 17 0 (regF s (oMem st + 0x28) 17 0 + 1)
    let s := notice (logEvent s 0x0102 (unitOf 4 st) none (toLE (r % 131072) 4)) 5
    let s := retirePages s r
    let hit := (s.ctxs.filter fun c => (c.state == .ready || c.state == .running)
      && (imageGet s c.desc.image).any fun i => reachesRegion i c.desc.base r).map (·.num)
    hit.foldl (fun s n => interruptCtx s n 276) s

/-- Fences, lifts and retirements in effect from this boundary on, and the interruptions asked for in the beat. -/
def applyFaults (s : State) : State :=
  let s := (s.engines.map (·.1)).foldl engineFence s
  let cal := s.calNext
  let s : State := cal.foldl (fun s y => applyCalMask s y.1 y.2) { s with calNext := [] }
  let codecs := s.codecNext
  let s : State := codecs.foldl fenceCodec { s with codecNext := [] }
  let ret := s.retireNext
  let s : State := ret.foldl applyRetire { s with retireNext := [] }
  let pauses := s.pauseCtx
  pauses.foldl (fun s y => interruptCtx s y.1 y.2) { s with pauseCtx := [] }

/-- The jobs that faults in the beat ended (R404). -/
def applyFails (s : State) : State :=
  let fails := s.fails
  fails.foldl (fun s y => match ctxGet s y.1 with
    | some c => if c.state = .ready ∨ c.state = .running ∨ c.state = .paused then failCtx s y.1 y.2.1 else s
    | none => s) { s with fails := [] }

end Sys2Proof.Machine
end

