-- ==== Sys2Proof/Machine/Sampler.lean ====
section
/-! DEFINITION. The token sampler (R194 to R196), in Opal lane 4 (R205). -/

namespace Sys2Proof.Machine

open Sys2Proof

/-- A logit with its index, as the sampler orders them: z descending, ties by the lower index. +0 and −0 compare
equal. -/
def logitBefore (a b : Nat × Word) : Bool :=
  vlt (f32Val b.2) (f32Val a.2) || (!vlt (f32Val a.2) (f32Val b.2) && decide (a.1 < b.1))

/-- Inserts a logit in the sampler's order. -/
def insertLogit (x : Nat × Word) : List (Nat × Word) → List (Nat × Word)
  | [] => [x]
  | y :: t => if logitBefore x y then x :: y :: t else y :: insertLogit x t

/-- The candidates in order: every logit that is no NaN once scaled (R195). -/
def sortLogits (zs : List Word) : List (Nat × Word) :=
  ((zs.zipIdx.map fun (z, i) => (i, z)).filter fun x => !isNan32 x.2).foldr insertLogit []

/-- The running sums of the exponentials, each addition one FP32 rounding. -/
def cumulate (m : Word) : Word → List (Nat × Word) → List Word
  | _, [] => []
  | c, x :: t =>
    let c := fadd c (exp2 (fsub x.2 m))
    c :: cumulate m c t

/-- The token of a row of logits for a draw (R195); none when no candidate is left. The loop that looks for the
prefix ends at the last candidate. -/
def sampleToken (d : Desc) (logits : List Word) (draw : Nat) : Option Nat :=
  match sortLogits (logits.map fun x => fmul x d.invTemp) with
  | [] => none
  | x :: t =>
    if d.greedy then some x.1
    else
      let order := x :: t
      let order := if d.topK ≠ 0 ∧ d.topK < order.length then order.take d.topK else order
      let cum := cumulate x.2 0 order
      let total := (cum.getLast?).getD 0
      let cut := fmul d.topP total
      let last := min (cum.length - 1) ((cum.takeWhile fun c => vlt (f32Val c) (f32Val cut)).length)
      let target := fmul (toF32 (valOfInt (draw / 256 : Nat) (-24))) (cum.getD last 0)
      let j := ((List.range (last + 1)).find? fun j => vlt (f32Val target) (f32Val (cum.getD j 0))).getD last
      some (order.getD j x).1

/-- The logits row of a job: addresses, and values as FP32. -/
def logitRow (s : State) (c : Ctx) (t : Tensor) : List Nat × List Word :=
  let w := fmtWidth t.fmt / 8
  let a := tensorAddr t c.desc.base
  (spanLinear a (w * c.desc.vocab)
   , (List.range c.desc.vocab).map fun i => toF32 (decodeElem t.fmt false (leNat (spanRead s (a + w * i) w))))

/-- The sampler writes a token. A word in a poisoned codeword or in closed or retired space stays, and the job fails (R32, R255,
R275). -/
def putToken (s : State) (c : Ctx) (a k : Nat) : State :=
  if !spanOpen s a 4 true then refusedAccess s (unitOf 0 0) [c.num] (refusalCode s a 4 true)
  else if anyPoison s (spanLinear a 4) then failAt s [c.num] .eccUncorrectable
  else storeBytes s a (toLE k 4)

/-- The sampler runs for a job: its token is written at the start of TOKENS (R194, R196). Poisoned logits end the
job in FAILED, and logits in closed or retired space are not read (R32, R275). -/
def runSampler (s : State) (c : Ctx) : State :=
  let done (s : State) : State := ctxMap s c.num fun c => { c with token := true }
  match (imageGet s c.desc.image).bind fun i => (tensorGet i c.desc.sampLogits).bind fun l =>
      (tensorGet i c.desc.sampTokens).map fun t => (l, t) with
  | none => done s
  | some (l, t) =>
    let (lins, zs) := logitRow s c l
    if !spanOpen s (tensorAddr l c.desc.base) (fmtWidth l.fmt / 8 * c.desc.vocab) then
      done (refusedAccess s (unitOf 0 0) [c.num] (refusalCode s (tensorAddr l c.desc.base) (fmtWidth l.fmt / 8 * c.desc.vocab)))
    else if anyPoison s lins then done (failAt s [c.num] .eccUncorrectable)
    else
      let draw := opalBits { seed := c.desc.seed, stream := c.desc.stream, step := c.step } 4 c.desc.opalTensor 4 32 0
      let s := regWrap s oSampRows 31 0 1
      match sampleToken c.desc zs draw with
      | some k => done (putToken s c (tensorAddr t c.desc.base) k)
      | none =>
        let s := logOther (regCount s oSampEmpty 15 0 1) (unitOf 0 0) (some c.num) 195
        done (putToken s c (tensorAddr t c.desc.base) 0xFFFFFFFF)

end Sys2Proof.Machine
end

