-- ==== Sys2Proof/Machine/BoundaryPasses.lean ====
section
/-! DEFINITION. Digest log entries and the comparison of mirrored pairs (R309, R327, R328), the ends of passes (R76, R404,
R405) and their starts (R75, R102, R187, R192, R406, R407). -/

namespace Sys2Proof.Machine

open Sys2Proof

/-! ## Digests (R309, R327, R328) -/

/-- The layers that a placement of an image stores in a beat of the pass: its epilogues', but for chain 9 (R324), and
those of the kernels that end in it. -/
def layersStored (i : Image) (placement beat : Nat) : List Nat :=
  let eps := (placementProgs i placement).flatMap fun p => (bundlesAt p beat).filterMap fun b =>
    if b.cls = .epi then (opOf i b.b.op).bind fun o => if chainOf o = 9 then none else some o.digestLayer else none
  let ks := (kernelsAll i).filterMap fun (_, _, r) => if (kernelBeats r.k).2 = beat then some r.k.digestLayer.toNat else none
  (eps ++ ks).filter (· != 0xFFFFFFFF)

/-- The layers whose last store lies in a beat of the pass, ascending. -/
def layersDone (i : Image) (placement beat : Nat) : List Nat :=
  let later := (List.range (i.beats - (beat + 1))).flatMap fun d => layersStored i placement (beat + 1 + d)
  (((layersStored i placement beat).filter fun l => !later.contains l).foldl (fun t l => sput t l ()) []).map (·.1)

/-- Whether an address lies in stack memory or in general hub SRAM, where a digest log may lie (R328). -/
def isEngineFree (a : Nat) : Bool := isStack a || regionOf a == .hubGeneral

/-- One entry of a job's digest log (R328): SEQ advances whether or not the entry can be written. -/
def logDigest (s : State) (n layer : Nat) : State :=
  match ctxGet s n with
  | none => s
  | some c =>
    if c.desc.logEntries = 0 ∨ regF s oDigCtrl 0 0 = 0 then s
    else
      let a := c.desc.logBase + (c.logged % c.desc.logEntries) * 32
      let entry := toLE c.step.toNat 4 ++ toLE layer 4 ++ toLE c.logged 8 ++ toLE ((sfind c.digests layer).getD 0).toNat 16
      let s := ctxMap s n fun c => { c with logged := c.logged + 1 }
      if !(spanOpen s a 32 true && isEngineFree a) ∨ anyPoison s (spanLinear a 32) then regCount (logOther s (unitOf 0 0) (some n) 328) oDigErr 15 0 1
      else regWrap (spanWrite s a entry) oDigStat 31 0 1

/-- The partner's digest of a layer for a job. -/
def partnerSum (s : State) (n layer : Nat) : BitVec 128 :=
  ((s.mirrorSums.find? fun (c, l, _) => c == n && l == layer).map fun (_, _, d) => d).getD 0

/-- The digest of a layer in a job's own quadrant. -/
def ownSum (s : State) (n layer : Nat) : BitVec 128 := ((ctxGet s n).bind fun c => sfind c.digests layer).getD 0

/-- The layers that a pass completes in the ending beat, with each job that completes them: one that fails in the beat has not
(R309, R328; DEDUCED, assumption 83). -/
def layersOf (s : State) (p : Pass) : List (Nat × Nat) :=
  match imageGet s p.image with
  | none => []
  | some i =>
    let jobs := ((p.slots.filterMap fun (_, c) => (ctxGet s c).filter (activeIn p)).map (·.num)).filter fun n =>
      !s.fails.any fun f => f.1 == n
    jobs.flatMap fun n => (layersDone i p.placement p.beat).map fun l => (n, l)

/-- The job layers of a pass on a mirrored pair whose two digests differ (R309). -/
def mirrorDiffers (s : State) (p : Pass) : List (Nat × Nat) :=
  if (imageGet s p.image).any (isMirrored p) then (layersOf s p).filter fun (n, l) => ownSum s n l != partnerSum s n l else []

/-- One mismatch: the log records the beat, the layer and both digests, and the job moves to PAUSED (R309). -/
def mirrorMismatch (q : Nat) (s : State) (y : Nat × Nat) : State :=
  let more := toLE y.2 4 ++ toLE (ownSum s y.1 y.2).toNat 16 ++ toLE (partnerSum s y.1 y.2).toNat 16
  let s := logOther s (unitOf 11 q) (some y.1) 309
  { s with events := s.events.modify 0 fun e => { e with more := more }
           pauseCtx := s.pauseCtx ++ [(y.1, 309)] }

/-- The quadrant of a pass. -/
def quadOfPass (p : Pass) : Nat := quadOf ((p.engines.head?).getD 0)

/-- The log entries of every pass at the boundary that ends its beat, then the comparisons; a pair whose digests differ counts one
beat (R309, R328). -/
def passDigests (s : State) : State :=
  let ps := s.passes
  let s := ps.foldl (fun s p => (layersOf s p).foldl (fun s y => logDigest s y.1 y.2) s) s
  let s := ps.foldl (fun s p => (mirrorDiffers s p).foldl (mirrorMismatch (quadOfPass p)) s) s
  ([0, 2] : List Nat).foldl (fun s q =>
    if ps.any fun p => quadOfPass p == q && !(mirrorDiffers s p).isEmpty then regCount s (oMirror q) 15 0 1 else s) s

/-! ## Ends of passes (R76, R196, R404, R405) -/

/-- Whether a pass runs its last beat. -/
def atLastBeat (s : State) (p : Pass) : Bool := (imageGet s p.image).any fun i => decide (i.beats ≤ p.beat + 1)

/-- The sampler has run for every job of a pass that ends, in slot order (R196). -/
def passTokens (s : State) (p : Pass) : State :=
  if !atLastBeat s p then s
  else p.slots.foldl (fun s y => match ctxGet s y.2 with
    | some c => if c.desc.sampler ∧ !c.token ∧ activeIn p c ∧ !p.recompute then runSampler s c else s
    | none => s) s

/-- The job of a pass that the sampler takes next: the lowest slot that samples and has no token yet (R196). -/
def nextToSample (s : State) (p : Pass) : Option Nat :=
  if p.recompute ∨ !atLastBeat s p then none
  else (p.slots.find? fun y => (ctxGet s y.2).any fun c => c.desc.sampler && !c.token && activeIn p c).map (·.2)

/-- TOKEN_SAMPLER_RUN: at the end of a pass, when every effect of its last beat has taken place, for the jobs in ascending slot
order (R196). -/
def execTokenSamplerRun (ctx : Nat) (s : State) : Host.Outcome State Fault Refusal :=
  let s : State := { s with out := [] }
  if !(s.passes.all (passDone s) && s.passes.any fun p => nextToSample s p == some ctx) then .next s
  else
    let s := settled s (2 ^ 64)
    match ctxGet s ctx with
    | none => .next s
    | some c => .next (runSampler s c)

/-- A job's own progress at the end of a pass of its own image (R405), before R404 applies; a job whose slot ran empty has made
none. -/
def jobStep (s : State) (p : Pass) (n : Nat) : State :=
  if p.recompute ∨ (ctxGet s n).all (·.pageWork) then s
  else ctxMap (dropPartnerSums s n) n fun c => { c with
    step := c.step + 1, stepsLeft := c.stepsLeft - 1, length := c.length + c.desc.tokens, digests := [], token := false }

/-- Every job of a pass that ends at the boundary goes on by a step. -/
def passSteps (s : State) (p : Pass) : State := if atLastBeat s p then p.slots.foldl (fun s y => jobStep s p y.2) s else s

/-- A job that is still in its slot at the end of a pass (R192, R404): a recompute pass gives its pages back, a job without steps
left is done. -/
def jobPassEnd (s : State) (p : Pass) (n : Nat) : State :=
  match ctxGet s n with
  | none => s
  | some c =>
    if p.recompute then ctxMap (endRecompute (dropPartnerSums s n) n) n fun c => { c with digests := [] }
    else if !c.pageWork ∧ c.stepsLeft = 0 then doneCtx s n else s

/-- One pass at a boundary: it ends with its last beat, or when no job is left in a slot; otherwise a beat has run. -/
def advancePass (s : State) (k : Nat) : State :=
  match s.passes[k]? with
  | none => s
  | some p =>
    if atLastBeat s p then
      let slots := p.slots
      let s := slots.foldl (fun s y => jobPassEnd s p y.2) s
      { s with passes := s.passes.modify k fun q => { q with slots := [], engines := [] } }
    else if p.slots.isEmpty then { s with passes := s.passes.modify k fun q => { q with engines := [] } }
    else { s with passes := s.passes.modify k fun q => { q with beat := q.beat + 1 } }

/-- Every pass at a boundary; those that have ended go. -/
def advancePasses (s : State) : State :=
  let s := (List.range s.passes.length).foldl advancePass s
  { s with passes := s.passes.filter fun p => !p.engines.isEmpty }

/-! ## Which passes may start (R75, R192, R406, R420) -/

/-- The rank of jobs: priority, then the READY beat, then the context number (R75, R406). -/
def ranksBefore (a b : Ctx) : Bool :=
  decide (b.desc.priority < a.desc.priority) || (a.desc.priority == b.desc.priority && (decide (a.readyBeat < b.readyBeat)
    || (a.readyBeat == b.readyBeat && decide (a.num < b.num))))

/-- Inserts a job by rank. -/
def insertJob (c : Ctx) : List Ctx → List Ctx
  | [] => [c]
  | d :: t => if ranksBefore c d then c :: d :: t else d :: insertJob c t

/-- Jobs by rank. -/
def byRank (l : List Ctx) : List Ctx := l.foldr insertJob []

/-- A pass that may begin: of which image, for which slots, and whether it recomputes pages; the best of the jobs that get a slot,
and the best job of the image, by which it is ranked (R406). -/
structure Candidate where
  img       : Image
  slots     : List (Nat × Nat)
  recompute : Bool
  lead      : Ctx
  best      : Ctx
  deriving DecidableEq, Repr

/-- Whether a job has a slot in a pass in progress of an image. -/
def inPassOf (s : State) (n : Nat) (id : BitVec 64) : Bool :=
  s.passes.any fun p => p.image == id && p.slots.any fun y => y.2 == n

/-- Whether a recompute pass runs for a job. -/
def inRecompute (s : State) (n : Nat) : Bool := s.passes.any fun p => p.recompute && p.slots.any fun y => y.2 == n

/-- Gives jobs the lowest-numbered free slots below a number, in order. -/
def giveSlots (slots : Nat) : List (Nat × Nat) → List Ctx → List (Nat × Nat)
  | taken, [] => taken
  | taken, c :: t =>
    match (List.range slots).find? fun k => (sfind taken k).isNone with
    | some k => giveSlots slots (sput taken k c.num) t
    | none => taken

/-- The jobs of an image that wait: READY ones, the group job once the members agree (R421). -/
def waitingJobs (s : State) (i : Image) : List Ctx :=
  byRank (s.ctxs.filter fun c => c.state == .ready && c.desc.image == i.id && (!c.group || startDue s))

/-- The jobs of an image that continue from a pass (R75). -/
def continuingJobs (s : State) (i : Image) : List Ctx :=
  byRank (s.ctxs.filter fun c => c.state == .running && c.desc.image == i.id && !inPassOf s c.num i.id)

/-- Whether an image's next pass may begin at beat count `now` (R75, R421). -/
def mayBegin (s : State) (i : Image) (now : Nat) : Bool :=
  let w := waitingJobs s i
  let c := continuingJobs s i
  let waited (x : Ctx) : Bool := decide (x.readyBeat + regF s oBatchWait 15 0 ≤ now)
  !(s.passes.any fun p => p.image == i.id)
    && (!c.isEmpty || (!w.isEmpty && (decide (i.slots ≤ w.length) || w.any fun x => waited x || x.group)))

/-- The candidate of an image. -/
def imageCandidate (s : State) (i : Image) (now : Nat) : Option Candidate :=
  if !mayBegin s i now then none
  else
    let c := continuingJobs s i
    let w := waitingJobs s i
    let kept := c.foldl (fun t x => match x.slot with
      | some k => if (sfind t k).isNone ∧ k < i.slots then sput t k x.num else t
      | none => t) []
    let rest := c.filter fun x => !kept.any fun y => y.2 == x.num
    let slots := giveSlots i.slots kept (rest ++ w)
    let l := byRank (c ++ w)
    (l.filter fun x => slots.any fun y => y.2 == x.num).head?.map fun x =>
      { img := i, slots := slots, recompute := false, lead := x, best := (l.head?).getD x }

/-- The recompute passes that jobs wait for (R192). -/
def recomputeCandidates (s : State) : List Candidate :=
  (s.ctxs.filter fun c => c.recomputing && (c.state == .running || c.state == .ready)).filterMap fun c =>
    (imageGet s c.desc.recompute).bind fun i =>
      if s.passes.any (fun p => p.image == i.id) then none
      else some { img := i, slots := [(0, c.num)], recompute := true, lead := c, best := c }

/-- Inserts a candidate by the rank of its best job; a recompute pass goes before its job's own image. -/
def insertCand (x : Candidate) : List Candidate → List Candidate
  | [] => [x]
  | y :: t => if ranksBefore y.best x.best then y :: insertCand x t else x :: y :: t

/-- The candidates at beat count `now`, in rank order. -/
def candidatesAt (s : State) (now : Nat) (only : Option (BitVec 64)) : List Candidate :=
  let mine (i : Image) : Bool := only.all fun x => x == i.id
  ((recomputeCandidates s).filter (fun x => mine x.img) ++ (s.images.filter mine).filterMap fun i => imageCandidate s i now).foldr
    insertCand []

/-! ## Starts of passes (R102, R187, R406, R407, R530) -/

/-- A job for which no placement is usable moves to PAUSED (R407). -/
def noPlacement (s : State) (n : Nat) : State :=
  let s := logEvent s 0x0303 (unitOf 0 0) (some n) (toLE 407 2)
  let s := leaveSlots (ctxEnter s n .paused) n
  ctxMap s n fun c => { c with pageWork := false, recomputing := false, allocFails := 0 }

/-- The engines of a pass at its first cycle: weight registers of +0 (R530), no tag, nothing expected. Where a job goes on from the
pass before, the gap since that pass's last broadcast goes on too (R79, R80). -/
def freshEngine (goesOn : Bool) (s : State) (e : Nat) : State :=
  let x := engGet s e
  engSet s e { x with arrays := x.arrays.map (fun a => { cast := if goesOn then a.cast else none }), tags := [], arrivals := [], early := [] }

/-- A job takes its slot at a pass start (R404, R407). While a recompute pass runs for it, its slot runs empty (R187, R192), and the
sums of that pass stay (R327). -/
def takeSlot (s : State) (n slot placement : Nat) : State :=
  match ctxGet s n with
  | none => s
  | some c =>
    let s := if c.state = .running then s else ctxEnter s n .running
    let again := inRecompute s n
    ctxMap (if again then s else dropPartnerSums s n) n fun c => { c with
      slot := some slot, placement := some placement, refolded := decide (placement ≠ 0), token := false
      pageWork := again || c.pageWork, digests := if again then c.digests else [] }

/-- Starts a pass in a placement. -/
def startPass (s : State) (x : Candidate) (placement : Nat) : State :=
  let es := enginesOf s x.img placement
  let p : Pass :=
    { image := x.img.id, placement := placement, beat := 0, slots := x.slots, engines := es, recompute := x.recompute
      taken := x.slots.map (·.1) }
  let goesOn := !x.recompute && x.slots.any fun y => (ctxGet s y.2).any fun c => c.state == .running && c.placement == some placement
  let s : State := { s with passes := s.passes ++ [p] }
  let s := es.foldl (freshEngine goesOn) s
  x.slots.foldl (fun s y => if x.recompute then (match ctxGet s y.2 with
      | some c => ctxMap (dropPartnerSums (if c.state = .running then s else ctxEnter s y.2 .running) y.2) y.2 fun c => { c with digests := [] }
      | none => s) else takeSlot s y.2 y.1 placement) s

/-- Grants engines to a candidate, or not (R102, R406, R407). Images whose ENGINE_MASKs overlap never run in the same beat,
wherever their passes are placed (R101). -/
def grant (s : State) (x : Candidate) : State :=
  match choosePlacement s x.img x.lead.desc.base with
  | none => x.slots.foldl (fun s y => noPlacement s y.2) s
  | some pl =>
    let es := enginesOf s x.img pl
    let busy := s.passes.any fun p => p.engines.any es.contains
      || (p.image != x.img.id && (imageGet s p.image).any fun j => (j.mask &&& x.img.mask) != 0)
    let load := s.passes.filterMap fun p => (imageGet s p.image).map fun i => (i, p.placement)
    if busy ∨ !jointOk (load ++ [(x.img, pl)]) then s else startPass s x pl

/-- The control cores start no new pass in LIMITED while the estimate is above LIMITED_W (R483). -/
def passesHeld (s : State) : Bool := s.power.phase == .limited && decide (powerLimit s < s.power.estimate)

/-- A job whose pass has ended and whose next pass does not start is READY again (R404). -/
def backToReady (s : State) : State :=
  let idle := s.ctxs.filter fun c => c.state == .running && !(s.passes.any fun p => p.slots.any fun y => y.2 == c.num)
  idle.foldl (fun s c =>
    let s := ctxMap (ctxEnter s c.num .ready) c.num fun c => { c with pageWork := false }
    if c.group then writeStart s else s) s

/-- The jobs of the passes that have just started. A job whose recompute pass runs is prepared by that pass alone. -/
def beginsOf (s : State) (ps : List Pass) : List Begin :=
  ps.flatMap fun p => match imageGet s p.image with
    | none => []
    | some i => p.slots.filterMap fun (slot, n) =>
        if p.recompute ∨ !inRecompute s n then some { num := n, slot := slot, img := i, recompute := p.recompute } else none

/-- The grants at beat count `now` (R75, R102, R406). -/
def grants (s : State) (now : Nat) (only : Option (BitVec 64)) : State :=
  if passesHeld s then s else (candidatesAt s now only).foldl grant s

/-- The passes that start at beat count `now`, then the jobs that none has taken up, then step 4 of R184. -/
def startPasses (s : State) (now : Nat) (only : Option (BitVec 64)) : State :=
  let n := s.passes.length
  let s := backToReady (grants s now only)
  pageStarts s (beginsOf s (s.passes.drop n))

end Sys2Proof.Machine
end

