-- ==== Sys2Proof/Machine/Flash.lean ====
section
/-! DEFINITION. The boot flash (R500 to R503), firmware images and configuration blobs (R504 to R508), staging and
commit (R509 to R511), and attestation (R512). -/

namespace Sys2Proof.Machine

open Sys2Proof

/-! ## The boot record (R501, R502) -/

/-- Which copy of the boot record is in force: the valid one with the higher GENERATION; none when no copy is valid. -/
def copyInForce (f : Flash) : Option Bool :=
  match f.rec0.valid, f.rec1.valid with
  | true, true => some (decide (f.rec0.gen.toNat < f.rec1.gen.toNat))
  | true, false => some false
  | false, true => some true
  | false, false => none

/-- The boot record in force. -/
def recordInForce (f : Flash) : Option BootRec := (copyInForce f).map fun one => if one then f.rec1 else f.rec0

/-- A record update: GENERATION + 1 into the copy not in force (R502); copy 0 when none is valid (R503). -/
def updateRecord (f : Flash) (change : BootRec → BootRec) : Flash :=
  let old := (recordInForce f).getD {}
  let new : BootRec := { change old with valid := true, gen := old.gen + 1 }
  if copyInForce f = some false then { f with rec1 := new } else { f with rec0 := new }

/-! ## Contents -/

/-- Bytes of a firmware slot (R500, R504). -/
def slotBytes : Nat := 12 * 0x100000

/-- Bytes of a configuration copy (R500, R506). -/
def configBytes : Nat := 0x80000

/-- The bytes before a signature block that ends `b` (R96). -/
def signedPart (b : Bytes) : Bytes := b.take (b.length - 142)

/-- The signature block at the end of `b`. -/
def signaturePart (b : Bytes) : Bytes := b.drop (b.length - 142)

/-- Whether a signature block ends in two zero bytes, as R96 lays it out. -/
def signatureForm (b : Bytes) : Bool := zeroAt (signaturePart b) 140 2

/-- Whether the signature at the end of `b` is valid under a key (R496). -/
def signedBy (key b : Bytes) : Bool :=
  let sig := signaturePart b
  slice sig 0 8 == keyId key
    && ecdsaValid key (sha512 (signedPart b)) (slice sig 8 66) (slice sig 74 66)

/-- The device's private identity key d, from K_root under the info string "SKG identity" (R498). -/
def identityD : Nat :=
  let info : Bytes := [0x53, 0x4B, 0x47, 0x20, 0x69, 0x64, 0x65, 0x6E, 0x74, 0x69, 0x74, 0x79]
  beNat (hkdf Config.rootSecret info 80) % (curveN - 1) + 1

/-- The device's public identity key (R498). -/
def identityKey : Bytes := publicKey identityD

/-- This device's key identifier, as DEV_UID holds it (R466, R498). -/
def deviceKeyId : Nat := leNat (keyId identityKey)

/-- The format and the PART_CODE of a firmware image (R504). -/
def firmwareForm (b : Bytes) : Bool :=
  field b 0 4 == 0x46474B53 && field b 4 2 == 1 && field b 6 2 == 9 && zeroAt b 12 4 && zeroAt b 24 104
    && field b 16 4 == b.length && decide (128 + 142 ≤ b.length) && decide (b.length ≤ slotBytes) && signatureForm b

/-- FW_VERSION (R504). -/
def firmwareVersion (b : Bytes) : Nat := field b 8 2

/-- The image that a firmware slot holds: TOTAL_SIZE bytes of it. -/
def slotImage (slot : Bytes) : Bytes := slot.take (field slot 16 4)

/-- Whether a slot boots over a floor (R505). -/
def slotBoots (slot : Bytes) (floor : Nat) : Bool :=
  let b := slotImage slot
  firmwareForm b && signedBy Config.firmwareKey b && decide (floor ≤ firmwareVersion b)

/-- The register writes of a blob (R506). -/
def blobWrites (b : Bytes) : List (Nat × Word) :=
  let at_ := 64 + 144 * field b 28 1 + 4 * field b 29 1
  (List.range (field b 32 4)).map fun i => (field b (at_ + 8 * i) 4, BitVec.ofNat 32 (field b (at_ + 8 * i + 4) 4))

/-- The format, the reserved fields and the PART_CODE of a blob (R506). -/
def blobForm (b : Bytes) : Bool :=
  let keys := field b 28 1
  let rails := field b 29 1
  let writes := field b 32 4
  field b 0 4 == 0x42474B53 && field b 4 2 == 1 && field b 6 2 == 9 && decide (field b 12 4 ≤ 1) && zeroAt b 30 2
    && zeroAt b 36 28 && field b 24 4 == b.length && decide (b.length ≤ configBytes)
    && decide (1 ≤ keys ∧ keys ≤ 8 ∧ rails = 13 ∧ writes ≤ 16384)
    && b.length == 64 + 144 * keys + 4 * rails + 8 * writes + 142
    && (List.range keys).all (fun i => zeroAt b (64 + 144 * i + 134) 10)
    && (List.range rails).all (fun i => field b (64 + 144 * keys + 4 * i + 3) 1 == 0)
    && (blobRails b).all (fun r => decide (r.2.1 < 128)) && signatureForm b

/-- Whether a blob may write a register word (R507). -/
def blobMayWrite (off : Nat) : Bool :=
  (regAt off).isSome && (decide (0x010000 ≤ off ∧ off < 0x013000) || decide (0x020000 ≤ off ∧ off < 0x090000)
    || decide (0x0A0000 ≤ off ∧ off < 0x0B0000) || decide (0x400000 ≤ off ∧ off < 0x480000))

/-- Whether a blob is acceptable but for its format and its signature (R507). -/
def blobFits (b : Bytes) : Bool :=
  deviceRails.all (fun r => (blobRails b).any fun x => x.1 == r) && (blobWrites b).all (fun w => blobMayWrite w.1)
    && (field b 16 8 == 0 || field b 16 8 == deviceKeyId)

/-- Whether the signature of a blob is one that the blob in effect admits (R507). -/
def blobSigned (s : State) (b : Bytes) : Bool :=
  (blobKeys s.flash.blob).any (fun (k, u) => u.testBit 2 && signedBy k b)
    || ((s.flash.blob.isEmpty || field s.flash.blob 12 4 % 2 == 0) && field b 16 8 == deviceKeyId
        && signedBy Config.provisioningKey b)

/-- Whether a configuration copy is in effect under its own signature (R508). -/
def copySigned (b : Bytes) : Bool :=
  blobForm b && ((blobKeys b).any (fun (k, u) => u.testBit 2 && signedBy k b) || signedBy Config.provisioningKey b)

/-- CONFIG_DIGEST of a blob (R501). -/
def blobDigest (b : Bytes) : BitVec 256 := BitVec.ofNat 256 (leNat ((shaBytes b).take 32))

/-! ## Staging (R509) -/

/-- What a staging or a commit judges of a target's bytes: the format, the signature, the floor. -/
def stageCheck (s : State) (config : Bool) (b : Bytes) : Code :=
  let r := (recordInForce s.flash).getD {}
  if config then
    if !blobForm b then .imageInvalid
    else if !blobSigned s b then .signatureFail
    else if !blobFits b ∨ field b 8 4 ≤ r.configMin then .imageInvalid else .ok
  else
    if !firmwareForm b then .imageInvalid
    else if !signedBy Config.firmwareKey b then .signatureFail
    else if firmwareVersion b < r.fwMin then .imageInvalid else .ok

/-- FW_VERSION of firmware, SEQUENCE of a blob. -/
def stagedVersion (config : Bool) (b : Bytes) : Nat := if config then field b 8 4 else firmwareVersion b

/-- Whether the record in force names the target of a staging. -/
def recordNames (f : Flash) (config : Bool) : Bool :=
  (recordInForce f).any fun r => if config then r.config1 == !f.inEffect1 else r.slotB == !f.runB

/-- The record, rewritten to name the running slot or the copy in effect before its target is written (R502, R509). -/
def nameRunning (f : Flash) (config : Bool) : Flash :=
  if recordNames f config then
    updateRecord f fun r => if config then { r with config1 := f.inEffect1 } else { r with slotB := f.runB }
  else f

/-- The target of a staging holds bytes. -/
def putTarget (f : Flash) (config : Bool) (b : Bytes) : Flash :=
  match config, (if config then !f.inEffect1 else !f.runB) with
  | true, true => { f with config1 := b }
  | true, false => { f with config0 := b }
  | false, true => { f with fwB := b }
  | false, false => { f with fwA := b }

/-- FW_STAGE: the immediate checks (R509, R515). -/
def cmdFwStage (_ : Who) (p : Packet) (s : State) : Ans :=
  let target := field p.params 0 1
  let source := field p.params 8 8
  let size := field p.params 16 8
  let inside (a : Nat) : Bool := isStack a || regionOf a == .hubGeneral
  if 1 < target ∨ !zeroAt p.params 1 7 ∨ size = 0 ∨ (if target = 0 then slotBytes else configBytes) < size then refuse s .badParam
  else if !inside source ∨ !inside (source + size - 1) ∨ !sameRegion source (source + size - 1) then refuse s .badParam
  else if s.flash.stage.isSome ∨ s.flash.commit.isSome ∨ s.diag.isSome ∨ !ringFree s p then refuse s .busy
  else accepted { s with flash := { s.flash with stage := some p } } p

/-- What a staging reads: a code when the source is not implemented or poisoned, else its bytes. -/
def stageSource (s : State) (p : Packet) : Code × Bytes :=
  let source := field p.params 8 8
  let size := field p.params 16 8
  if !(List.range size).all (fun i => implemented s (source + i)) then (.busError, [])
  else if anyPoison s (spanLinear source size) then (.eccUncorrectable, [])
  else (.ok, spanRead s source size)

/-- Records what is staged for a target. -/
def putStaged (f : Flash) (config : Bool) (b : Bytes) : Flash :=
  if config then { f with staged1 := some (stagedVersion config b, b) } else { f with staged0 := some (stagedVersion config b, b) }

/-- FW_STAGE_COMPLETE (R509). -/
def execFwStageComplete (s : State) : Host.Outcome State Fault Refusal :=
  let s : State := { s with out := [] }
  match s.flash.stage with
  | none => .next s
  | some p =>
    let config := field p.params 0 1 == 1
    let s : State := { s with flash := { s.flash with stage := none } }
    let (c, b) := stageSource s p
    let code := if c = .ok then stageCheck s config b else c
    if code ≠ .ok then .next (postEntry s p 0x80 code [])
    else
      let target := if config then !s.flash.inEffect1 else !s.flash.runB
      let f := putStaged (putTarget (nameRunning s.flash config) config b) config b
      .next (postEntry { s with flash := f } p 0x80 .ok (toLE (stagedVersion config b) 4 ++ [BitVec.ofNat 8 target.toNat]))

/-! ## Commit (R510) -/

/-- What is staged for a target since start-up: FW_VERSION or SEQUENCE, and the bytes. -/
def stagedFor (f : Flash) (config : Bool) : Option (Nat × Bytes) := if config then f.staged1 else f.staged0

/-- Whether a restart or a test finds jobs, streams or a group (R510, R515). -/
def workPresent (s : State) : Bool :=
  s.ctxs.any (fun c => c.state == .ready || c.state == .running || c.state == .paused)
    || !s.streams.isEmpty || (joined s).isSome

/-- FW_COMMIT: the immediate checks, in order (R510). -/
def cmdFwCommit (_ : Who) (p : Packet) (s : State) : Ans :=
  let target := field p.params 0 1
  let flags := field p.params 1 1
  let restart := flags.testBit 1
  if 1 < target ∨ 3 < flags ∨ (flags.testBit 0 ∧ target = 1) ∨ !zeroAt p.params 2 6 ∨ !zeroAt p.params 12 4 then
    refuse s .badParam
  else if !(stagedFor s.flash (target == 1)).any (fun x => x.1 == field p.params 8 4) then refuse s .badParam
  else if s.flash.stage.isSome ∨ s.flash.commit.isSome ∨ s.flash.healthWrite ∨ s.diag.isSome then refuse s .busy
  else if restart ∧ workPresent s then refuse s .busy
  else if !ringFree s p then refuse s .busy
  else accepted { s with flash := { s.flash with commit := some p, noJobs := s.flash.noJobs || restart } } p

/-- The record update of a commit (R510). -/
def commitRecord (f : Flash) (p : Packet) (b : Bytes) : Flash :=
  if field p.params 0 1 = 1 then
    updateRecord f fun r => { r with config1 := !f.inEffect1, configMin := stagedVersion true b, configDigest := blobDigest b }
  else
    updateRecord f fun r =>
      { r with slotB := !f.runB, fwMin := if (field p.params 1 1).testBit 0 then firmwareVersion b else r.fwMin }

/-- What a commit judges again, and the bytes. -/
def commitCheck (s : State) (p : Packet) : Code × Bytes :=
  let config := field p.params 0 1 == 1
  match stagedFor s.flash config with
  | some (_, b) => (stageCheck s config b, b)
  | none => (.imageInvalid, [])

/-- FW_COMMIT_COMPLETE (R510): with RESTART the reset follows 100 ms of wall time after the entry. -/
def execFwCommitComplete (s : State) : Host.Outcome State Fault Refusal :=
  let s : State := { s with out := [] }
  match s.flash.commit with
  | none => .next s
  | some p =>
    let (code, b) := commitCheck s p
    let config := field p.params 0 1 == 1
    let f := if code = .ok then commitRecord s.flash p b else s.flash
    let f : Flash := { f with
      commit := none
      fwPending := f.fwPending || (decide (code = .ok) && !config)
      configPending := f.configPending || (decide (code = .ok) && config)
      restartAt := if (field p.params 1 1).testBit 1 then some (s.clock.wall + 100000000) else f.restartAt }
    .next (postEntry { s with flash := f } p 0x81 code [])

/-! ## What a reset leaves of an operation (R502, R511) -/

/-- A staging that a reset interrupts: its target may have been written in part, once the record no longer names it. A
free value says how far it came. -/
def tornStage (s : State) : State :=
  match s.flash.stage with
  | none => s
  | some p =>
    let config := field p.params 0 1 == 1
    let (c, b) := stageSource s p
    if c ≠ .ok ∨ stageCheck s config b ≠ .ok then s
    else
      let (v, s) := freeVal s
      if v % 3 = 0 then s
      else
        let s : State := { s with flash := nameRunning s.flash config }
        if v % 3 = 1 then s
        else
          let (x, s) := freeBytes s b.length
          { s with flash := putTarget s.flash config x }

/-- A commit that a reset interrupts: its record write has completed or not. -/
def tornCommit (s : State) : State :=
  match s.flash.commit with
  | none => s
  | some p =>
    let (code, b) := commitCheck s p
    let (v, s) := freeVal s
    if code = .ok ∧ v % 2 = 1 then { s with flash := commitRecord s.flash p b } else s

/-- The flash as a reset leaves it: its contents, and nothing of what was being done to it or of the last start-up. -/
def flashKept (f : Flash) : Flash :=
  { rec0 := f.rec0, rec1 := f.rec1, fwA := f.fwA, fwB := f.fwB, config0 := f.config0, config1 := f.config1, health := f.health }

/-! ## The SEC registers (R513) -/

/-- What the SEC registers report of the record in force and of commits that wait. -/
def secRegs (s : State) : State :=
  let f := s.flash
  let r := recordInForce f
  let s := regSetF s oSecBoot 31 16 ((r.map (·.fwMin)).getD 0)
  let s := regSet s oSecRecord ((r.map (·.gen)).getD 0)
  regSetF s oSecFlash 1 0 (2 * f.configPending.toNat + f.fwPending.toNat)

/-! ## Attestation (R512) -/

/-- ATTEST (R385, R512). -/
def cmdAttest (_ : Who) (p : Packet) (s : State) : Ans :=
  if !ringFree s p then refuse s .busy else accepted { s with atts := s.atts ++ [p] } p

/-- A number put into a rising list. -/
def rising (l : List Nat) (n : Nat) : List Nat := l.filter (· < n) ++ n :: l.filter (n < ·)

/-- SHA-512 over IMAGE_ID and the image's digest, image by image in ascending IMAGE_ID. -/
def imagesDigest (s : State) : Bytes :=
  let ids := (s.images.map fun i => i.id.toNat).foldl rising []
  shaBytes (ids.flatMap fun n => match imageGet s (BitVec.ofNat 64 n) with
    | some i => toLE n 8 ++ toLE i.digest.toNat 64
    | none => [])

/-- Bytes 0 to 607 of a report: everything that is signed. -/
def reportBody (s : State) (p : Packet) (seq : BitVec 32) : Bytes :=
  let f := s.flash
  let r := recordInForce f
  let n := originSession p.origin
  let x := n.bind (sessGet s)
  let run := slotImage (if f.runB then f.fwB else f.fwA)
  toLE 0x41474B53 4 ++ toLE 1 2 ++ toLE 9 2 ++ toLE seq.toNat 4 ++ toLE (regGet s 0x000004).toNat 4
    ++ toLE deviceKeyId 8 ++ [BitVec.ofNat 8 (regF s 0 31 24), BitVec.ofNat 8 f.runB.toNat]
    ++ toLE (firmwareVersion run) 2 ++ toLE ((r.map (·.fwMin)).getD 0) 2 ++ [BitVec.ofNat 8 (regF s oSecBoot 2 2), 0]
    ++ toLE ((r.map (·.gen.toNat)).getD 0) 4 ++ toLE (field f.blob 8 4) 4 ++ toLE (dswOf s false false).toNat 4
    ++ toLE (n.getD 0xFFFF) 2 ++ [BitVec.ofNat 8 ((x.map fun y => clsByte y.cls).getD 0), 0] ++ toLE s.beats 8
    ++ toLE (s.snap.stampDt / secondDt % 2 ^ 48) 8 ++ toLE (s.snap.stampDt % secondDt / 2 ^ 32) 4
    ++ [BitVec.ofNat 8 (timeByte s.snap.time), 0, 0, 0] ++ toLE s.images.length 4 ++ toLE 0 4 ++ fit 64 p.params
    ++ shaBytes run ++ shaBytes f.blob ++ imagesDigest s ++ identityKey ++ List.replicate 3 0
    ++ fit 132 Config.endorsement ++ toLE 0 4

/-- A report with its signature, as its buffer holds it: 1,024 bytes. The secret number of the signature is a free
value, from 1 to n − 1. -/
def reportBytes (s : State) (p : Packet) (seq : BitVec 32) (v : Nat) : Bytes :=
  let body := reportBody s p seq
  fit 1024 (body ++ ecdsaSign identityD (v % (curveN - 1) + 1) (sha512 body))

/-- Writes a report into its buffer. -/
def putReport (s : State) (b : Nat) (bytes : Bytes) : State :=
  (List.range 256).foldl (fun s i => regSet s (oReport b + 4 * i) (BitVec.ofNat 32 (field bytes (4 * i) 4))) s

/-- ATTEST_COMPLETE: report REPORT_SEQ goes into buffer REPORT_SEQ mod 16, and the entry is posted. -/
def execAttestComplete (k : Nat) (s : State) : Host.Outcome State Fault Refusal :=
  let s : State := { s with out := [] }
  match s.atts[k]? with
  | none => .next s
  | some p =>
    let seq := s.reportSeq + 1
    let b := seq.toNat % 16
    let s : State := { s with atts := s.atts.eraseIdx k, reportSeq := seq }
    let (v, s) := freeVal s
    let s := putReport s b (reportBytes s p seq v)
    .next (postEntry s p 0x90 .ok ([BitVec.ofNat 8 b, 0, 0, 0] ++ toLE seq.toNat 4))

end Sys2Proof.Machine
end

