-- ==== Sys2Proof/Machine/Boundary.lean ====
section
/-! DEFINITION. The beat boundary as a whole (R19, R120, R122): one event that ends the beat, changes the states of jobs,
fences, pages and passes, and lets the next beat start; BATCH_WAIT_EXPIRY (R75). -/

namespace Sys2Proof.Machine

open Sys2Proof

/-! ## Groups -/

/-- The length of an ordinary beat at the present F, in units of 2^-32 ns: 65,536 / F ns (R4). -/
def beatDt (s : State) : Nat := 65536 * 2 ^ 32 / max 16 (fNow s)

/-- F rises to F_MIN where a member would run below it outside LIMITED, at the first boundary at which VDD allows it (R299, R475, R480;
DEDUCED, assumption 91). -/
def floorF (s : State) : State :=
  match member s with
  | some g => if s.power.phase ≠ .limited ∧ fNow s < min 32 g.fMin then raiseF s (min 32 g.fMin) s.power.sensors.settled else s
  | none => s

/-- A group at a boundary (R419, R423). The member that waits for group beat 0 stops at the last boundary from which an
ordinary beat would outlast the epoch (DEDUCED, assumption 25), and its GROUP_JOIN is complete. A leave takes effect. -/
def groupBoundary (s : State) : State :=
  match joined s with
  | none => s
  | some g =>
    match g.leaving with
    | some _ =>
      { s with group := some { g with left := true }, node := none, nodes := [] }
    | none =>
      if g.started then s
      else if startTime g 0 0 < s.clock.dt + beatDt s then
        let s : State := { s with group := some { g with started := true, atBoundary := true, beat := 0 } }
        let s := if s.ctxs.any fun c => c.group && c.state == .ready then writeStart s else s
        postLater s g.p 0xF0 .ok []
      else s

/-- The group beat that a boundary ends. -/
def groupBeatEnd (s : State) : State :=
  match member s with
  | some g => { s with group := some { g with beat := g.beat + 1, atBoundary := true } }
  | none => s

/-! ## Waiting commands and accesses -/

/-- The RMO type of an OP code. -/
def opOfByte (b : Byte) : Option RmoOp :=
  ([.read, .write, .fetchAdd, .atomicAdd, .cas, .fence] : List RmoOp).find? fun o => rmoByte o == b

/-- Whether a REQ is a WRITE that covers offset 0 of a command window (R368). -/
def isCommand (op : Byte) (address : BitVec 64) : Bool :=
  op == 0x01 && (match regionOf (localOf address) with
    | .window _ => (localOf address - windowBase) % 0x10000 == 0
    | _ => false)

/-- The cycle of an engine's beat at which something comes to it from outside: where its hold has got to by DT, or, when it has
no bundle left, where the beat has. -/
def cycleNow (s : State) (e : Nat) : Nat :=
  let x := engGet s e
  if x.holding.isSome then x.holdFrom + heldCycles s e
  else if ((runOf s e).bind fun r => nextBundle s r e).isNone then (s.clock.dt - s.snap.stampDt) * fNow s / (16 * 2 ^ 32)
  else 0

/-- A member's write into an engine's window counts toward the ARRIVE that declares it (R532). -/
def peerArrival (s : State) (session : Nat) (op : Byte) (address : BitVec 64) (n : Nat) : State :=
  let a := localOf address
  match regionOf a with
  | .ab e | .am e | .ws e =>
    if op = 0x01 ∧ (runOf s e).isSome then
      arrivalCount s e (4095 - session) true ((a - sramBase) % 0x400000) n (cycleNow s e)
    else s
  | _ => s

/-- A REQ takes effect, or is refused, and is answered; its slots are released (R344, R356). -/
def performReq (s : State) (q : UtxReq) (op : RmoOp) (cls : Cls) (cost : Nat) (ecc : List EccFind) : State :=
  match sfind s.sessions q.session with
  | none => s
  | some x =>
    let refused := rmoRefusal s cls q.session x.segment op q.address q.length
    let (code, data, s) := match refused with
      | some c => (c, [], s)
      | none => rmoEffect s cls q.session op (localOf q.address) q.length q.payload ecc
    let s := if code = .ok ∧ cls = .peer then peerArrival s q.session (rmoByte op) q.address q.length else s
    sendRsp (releaseSlots s q.session cost) q.session (rmoByte op) q.psn code data

/-- Whether a command of a session waits for the boundary that answers it (R344, R376). -/
def commandWaits (s : State) (session : Nat) : Bool :=
  (pageReqs s).any (fun r => r.p.origin == .session session)
    || (ctxReqs s).any fun r => r.op == .resume && r.p.origin == .session session

/-- An access to an engine window, or a FENCE or REQ behind one, takes effect at the boundary and is answered (R33, R265). A FENCE
behind a command that the boundary answers waits for that answer, and so does what follows it; a command behind a FENCE is
interpreted after the boundary (R344). -/
def performDeferred (s : State) (d : Deferred) : State :=
  if isCommand d.op d.q.address ∨ (d.op = 0x05 ∧ commandWaits s d.q.session)
      ∨ s.lateCmds.any (fun x => x.q.session == d.q.session) then
    { s with lateCmds := s.lateCmds ++ [d] }
  else
    match opOfByte d.op with
    | some op => performReq s d.q op d.cls d.cost d.ecc
    | none => s

/-- The accesses that waited, in the order of their acceptance. -/
def performAll (s : State) : State :=
  let ds := s.deferred
  ds.foldl performDeferred { s with deferred := [] }

/-- A job that has ended by itself at this boundary: its own end stands against a command that waited (R391). -/
def endedNow (s : State) (n : Nat) : Bool :=
  (ctxGet s n).any fun c => (c.state == .done || c.state == .failed) && !c.cancelled && c.stateAt == boundaryNow s

/-- Whether a job stands in no slot: between passes, or not yet in one (R76, R391). -/
def outOfSlots (s : State) (c : Ctx) : Bool := !s.passes.any fun p => p.slots.any fun y => y.2 == c.num

/-- A command that has waited for the boundary takes effect, or goes on waiting (R76, R390, R391, R394). -/
def applyWaiting (s : State) (w : BoundaryCmd) : State :=
  match w with
  | .submit c => enterSubmit s c
  | .job r => if endedNow s r.ctx ∧ r.op ≠ .resume then endJobCmd s r .badParam else applyReq (outOfSlots s) s r
  | .page r => applyPage s r

/-- Whether a command frees a context now: a JOB_CANCEL of one that is SAVED, DONE or FAILED (R391). -/
def freesNow (s : State) (n : Nat) (w : BoundaryCmd) : Bool :=
  match w with
  | .job r => r.op == .cancel && r.ctx == n && !endedNow s n
      && (ctxGet s n).any fun c => c.state == .saved || c.state == .done || c.state == .failed
  | _ => false

/-- The PAGE_RELEASEs among waiting commands that step 1 of R184 takes: all but those whose context an earlier command frees
(R370). -/
def firstReleases (s : State) : List BoundaryCmd → List BoundaryCmd → List PageReq
  | _, [] => []
  | before, .page r :: t =>
    if r.op = .release ∧ !before.any (freesNow s (field r.p.params 0 2)) then r :: firstReleases s before t else firstReleases s before t
  | before, w :: t => firstReleases s (w :: before) t

/-- The jobs whose passes will start at this boundary, found by the waiting job commands and the grants alone, which depend on no
page (R192). -/
def startingJobs (s : State) (ws : List BoundaryCmd) : List Nat :=
  if s.pages.isEmpty then []
  else
    let jobs := ws.filter fun w => match w with
      | .page _ => false
      | _ => true
    let u := grants (groupBoundary (jobs.foldl applyWaiting s)) (boundaryNow s) none
    (u.passes.drop s.passes.length).flatMap fun p => p.slots.map (·.2)

/-- The commands that have waited for the boundary: releases and completed copies (steps 1 and 2 of R184), then everything else in
the order of its acceptance (step 3 of R184, R370; DEDUCED, assumption 8). -/
def applyCommands (s : State) : State :=
  let ws := s.waiting
  let s := groupPauses (outOfSlots s) { s with waiting := [] }
  let s : State := { s with starting := startingJobs s ws }
  let rs := firstReleases s [] ws
  let s := applyCopies (applyReleases s rs)
  (ws.filter fun w => match w with
    | .page r => !rs.contains r
    | _ => true).foldl applyWaiting s

/-- Saves and restores that have completed. -/
def applySaves (s : State) : State :=
  let s := dropSaves s
  let s := s.saves.foldl applySave s
  s.restores.foldl applyRestore s

/-! ## Registers and modes -/

/-- Register writes that waited (R278, R330), and the KEEP lines beyond a new limit (R260), refresh rates (R272), mirror switches that no job holds up (R306): a job whose pass starts at the same boundary holds one up too
(DESIGN CHOICE, assumption 104). -/
def applyWrites (s : State) : State :=
  let ws := s.regsNext
  let s : State := ws.foldl (fun s y => { regSet s y.1 y.2 with votes := s.votes.filter fun v => v.offset != y.1 }) { s with regsNext := [] }
  let s := (ws.filter fun y => y.1 / 0x10000 * 0x10000 + 8 == y.1 && decide (0x400000 ≤ y.1)).foldl (fun s y =>
    qcTrim s ((y.1 - 0x400000) / 0x10000)) s
  let rates := s.refresh
  let s : State := { s with refresh := [] }
  let s := rates.foldl (fun s y => regSetF s (oMem (y.1 / 16) + 0x10) (2 * (y.1 % 16) + 1) (2 * (y.1 % 16)) y.2.toNat) s
  let ms := s.mirrorNext
  ms.foldl (fun s y => if quadBusy s y.1 ∨ quadBusy s (y.1 + 1) then s
    else { regSetF s (oMirror y.1) 31 31 y.2.toNat with mirrorNext := sdel s.mirrorNext y.1 }) s

/-- The causes of LIMITED that a boundary finds (R483): 2 by the junction temperature, 3 by the estimate, 4 by the
register; 0 and 1 stand as the regulators left them. -/
def causesNow (s : State) : BitVec 5 :=
  let c := s.power.causes
  let tj := tjMax s.power.sensors
  let hot := if 105 ≤ tj then true else if tj + 5 ≤ targetC s then false else c.getLsbD 2
  let sustained := min 2400 (max 600 (regF s oPwrLimit 31 20))
  let excess := c.getLsbD 3 && !decide (2 * s.power.estimate ≤ sustained - regF s oPwrLimit 7 0)
  BitVec.ofNat 5 ((c.toNat % 4) + 4 * hot.toNat + 8 * excess.toNat + 16 * regF s oPwrCtrl 31 31)

/-- The device enters LIMITED (R483): F is 16, the entry is counted and logged. -/
def enterLimited (s : State) (c : BitVec 5) : State :=
  let s : State := { s with power := { s.power with phase := .limited, recorded := c, clearSince := none } }
  let s := regCount (lowerF s 16) oPwrEvents 15 8 1
  logEvent s 0x0602 (unitOf 0 0) none [BitVec.ofNat 8 c.toNat]

/-- LIMITED at a boundary: entered when a cause holds, and the time since every recorded cause is clear. -/
def limitedBoundary (s : State) : State :=
  let c := causesNow s
  let s : State := { s with power := { s.power with causes := c } }
  if s.power.phase = .limited then
    { s with power := { s.power with
        recorded := s.power.recorded ||| c
        clearSince := if c = 0 then some (s.power.clearSince.getD s.clock.wall) else none } }
  else if c ≠ 0 ∧ s.power.phase ≠ .standby then enterLimited s c
  else s

/-- STANDBY is entered (R482): the engines lose their contents; the stacks keep theirs. -/
def enterStandby (s : State) : State :=
  let s := disableRails s [0, 1, 2, 3]
  let keep (a : Nat) : Bool := !(decide (sramBase ≤ a ∧ a < hubBase))
  { s with power := { s.power with phase := .standby }
           mem := s.mem.filter fun y => keep y.1
           poison := s.poison.filter keep, taint := [], soft := [], qc := [] }

/-- IDLE and ACTIVE follow the passes, and PWR_STATUS reports the state (R481). -/
def phaseOfPasses (s : State) : State :=
  let s : State := if s.power.phase = .idle ∨ s.power.phase = .active then
      { s with power := { s.power with phase := if s.passes.isEmpty then .idle else .active } }
    else s
  regSetF (regSetF s oPwrStatus 31 28 (phaseField s.power.phase)) oPwrStatus 23 16 s.power.recorded.toNat

/-- Whether a target of a test is fenced (R517). -/
def diagFenced (s : State) (test i : Nat) : Bool :=
  match test with
  | 1 | 2 => engineFenced s i
  | 3 => s.fencedUnits.contains i
  | 4 => (regF s oVidFence 7 0).testBit i
  | _ => false

/-- A DIAG_RUN that has been accepted begins its test (R515): in RAMP mode (R78, R516), SERDES with its port down (R520). -/
def startDiag (s : State) : State :=
  match s.diag with
  | none => s
  | some d =>
    if d.started then s
    else
      let targets := ((List.range d.count).map (d.first + ·)).filter fun i => !diagFenced s d.test i
      let s : State := { s with diag := some { d with started := true, targets := targets }
                                power := { s.power with ramp := true } }
      let s := regSet s oDiagStatus (BitVec.ofNat 32 (2 ^ 31 + d.test * 2 ^ 16))
      if d.test = 6 then
        regSetF { s with ports := s.ports.map fun f => if f.port = d.port then { f with up := false } else f }
          (oEth d.port + 8) 3 0 0
      else s

/-- F never exceeds F_MAX: a boundary lowers it by one step where a write has lowered F_MAX, and in a locked group not
below F_MIN (R299, R480). -/
def capF (s : State) : State :=
  if s.power.phase ≠ .limited ∧ fMax s < fNow s ∧ !(member s).any (fun g => decide (fNow s ≤ g.fMin)) then
    lowerF s (fNow s - 1)
  else s

/-- The power state at a boundary (R481, R482). -/
def phaseBoundary (s : State) : State :=
  let s := floorF (capF (limitedBoundary s))
  phaseOfPasses
    (if regF s oPwrCtrl 30 30 = 1 ∧ s.power.phase = .idle ∧ s.passes.isEmpty ∧ !standbyBusy s then enterStandby s else s)

/-- What the PWR registers report of a boundary (R495). -/
def powerRegs (s : State) : State :=
  let x := s.power.sensors
  let b (n : Nat) : Nat := min 255 n
  let s := regSet s oPwrTemp (BitVec.ofNat 32 (b (tjMax x) * 2 ^ 24 + b (dramMax x) * 2 ^ 16 + b (hubMax x) * 2 ^ 8))
  regSet s oPwrPower (BitVec.ofNat 32 (min 65535 x.powerW * 2 ^ 16 + min 65535 s.power.estimate))

/-- The units of a stack that were running a kernel as the boundary came: one that had started, and whose span goes on; a
fenced unit's share is its partner's (R246, R248). -/
def activeUnits (s : State) (st : Nat) : Nat :=
  let us := s.passes.flatMap fun p => match imageGet s p.image with
    | none => []
    | some i => (kernelsAll i).flatMap fun (k, _, r) =>
        if (k = st ∨ (isMirrored p i ∧ k + 2 = st)) ∧ (kernelTime r.k).1 < p.beat * 3072 ∧ p.beat * 3072 < (kernelTime r.k).2
        then bitsOf 16 r.k.units.toNat else []
  let run := us.map fun c => if s.fencedUnits.contains (16 * st + c) then c ^^^ 1 else c
  (run.dedup.map fun c => 2 ^ c).sum

/-- What the KV, CAL and DEV registers report of a boundary (R199, R248, R469). -/
def boundaryRegs (s : State) : State :=
  let copies := (s.pages.filter fun p => p.state == .copying).length
  let demoted := (s.pages.filter fun p => p.state == .demoting || p.state == .demoted).length
  let s := regSet s oKvStat (BitVec.ofNat 32 (min 255 copies * 2 ^ 24 + min 0xFFFFFF demoted))
  let s := (List.range 8).foldl (fun s st => regSetF s (oKvFree st) 20 0 (freeGranules s st)) s
  let s := (List.range 8).foldl (fun s st => regSetF s (oCal st + 8) 15 0 (activeUnits s st)) s
  regSetF s 0x000060 27 24 (popCount 8 (regF s oVidFence 7 0))

/-! ## The boundary -/

/-- What the ending beat leaves: what was on its way, digests and tokens, the jobs' progress, failures and faults (R405). -/
def boundaryEnds (s : State) : State :=
  let s := landAll s
  let s := endHolds s
  let s := groupBeatEnd s
  let s := passDigests s
  let s := s.passes.foldl passTokens s
  let s := s.passes.foldl passSteps s
  applyFaults (applyFails s)

/-- What changes between two beats: accesses and commands that waited, pages, passes. -/
def boundaryWork (s : State) : State :=
  let s := performAll s
  let s := advancePasses s
  let s := applyCommands (applySaves s)
  let s := s.restores.foldl allocRestore s
  let s := groupBoundary s
  let s : State := { startPasses s (boundaryNow s) none with starting := [] }
  let s := (List.range 8).foldl lowPressure s
  phaseBoundary (startDiag (applyWrites s))

/-- The boundary is counted and stamped, and replies may report it (R293, R373, R376). -/
def boundaryDone (s : State) : State :=
  let s := secRegs (boundaryRegs (powerRegs s))
  let s := takeSnapshot { s with beats := s.beats + 1 }
  flushPosts s

/-- Whether the beat has ended (R120): the device runs beats, has started the present one, and every pass has run it. -/
def beatOver (s : State) : Bool := beatsRun s && !waitsForGroup s && s.passes.all (passDone s)

/-- The copies of voted registers that met an upset in the beat stand as it left them until the next vote (R455; that an upset comes
with a boundary is a DESIGN CHOICE, assumption 111). -/
def upsetCopies (s : State) (us : List Upset) : State := { s with votes := (us.filter fun u => (regAt u.offset).isSome) ++ s.votes }

/-- A whole boundary with its readings, but for the commands that waited behind a FENCE. -/
def boundary (x : Sensors) (s : State) : State :=
  boundaryDone (boundaryWork (boundaryEnds (upsetCopies { s with power := { s.power with sensors := x } } x.upsets)))

/-- Whether the device stands at a boundary: no time has passed since it, and nothing of the beat has begun (R122). -/
def standsAtBoundary (s : State) : Bool :=
  beatsRun s && stampOf s.clock.dt == s.snap.stampDt && s.engines.all (fun y => y.2.next == 0 && y.2.holding.isNone)

/-- An event at the boundary at which the device stands: what it logs and changes belongs to that boundary, and replies report it
(R373, R536). -/
def onBoundary (s : State) (f : State → State) : State :=
  let n := s.beats
  retakeSnap { f { s with beats := n - 1 } with beats := n }

/-- BATCH_WAIT_EXPIRY: at the boundary just taken, the image's pass may start with free slots (R19, R75, R122). -/
def execBatchWaitExpiry (image : BitVec 64) (s : State) : Host.Outcome State Fault Refusal :=
  let s : State := { s with out := [] }
  if !standsAtBoundary s then .next s
  else .next (flushPosts (onBoundary s fun u => phaseOfPasses (startPasses u s.beats (some image))))

end Sys2Proof.Machine
end

