-- ==== Sys2Proof/Machine/Encoder.lean ====
section
/-! DEFINITION. What an encoder does with a picture (R426, R438, R440, R443): the parts of its access unit, the buffer model, the
stages of rate control, intra refresh, and the maps. What a standard leaves to the encoder comes from constants of `Config`. -/

namespace Sys2Proof.Machine

open Sys2Proof

/-! ## Fields of the stream descriptor (R429) -/

/-- RC_MODE: 0 CQP, 1 VBR, 2 CBR. -/
def rcMode (x : Stream) : Nat := field x.raw 20 1

/-- The highest quantiser of a codec. -/
def topQuantiser (x : Stream) : Nat := if x.codec = 0 then 255 else 63

/-- Whether an encoded picture is a key picture (R435). -/
def isKey (x : Stream) (f : Frame) : Bool := !x.started || f.forceKey || (x.gop != 0 && decide (x.gop ≤ x.sinceKey))

/-! ## Intra refresh (R440) -/

/-- The superblock columns [lo, hi) that the intra band of the n-th picture after a key picture covers, n ≥ 1. -/
def bandOf (width period n : Nat) : Nat × Nat :=
  let c := ceilDiv width 64
  let b := (n - 1) % period
  (b * c / period, (b + 1) * c / period)

/-- The band of a picture: none for a key picture, and outside LOW_LATENCY. Columns left of it have been refreshed since the cycle
began. -/
def refreshBand (x : Stream) (f : Frame) : Option (Nat × Nat) :=
  if !x.lowLatency ∨ isKey x f then none else some (bandOf x.width (max 1 x.irPeriod) x.sinceKey)

/-- Whether a picture begins a refresh cycle. -/
def beginsCycle (x : Stream) (f : Frame) : Bool := x.lowLatency && !isKey x f && (x.sinceKey - 1) % max 1 x.irPeriod == 0

/-! ## The parts of an access unit (R426, R438, R440) -/

/-- The pictures that a picture refers to: earlier ones, since the last key picture, up to REFS of them (R426). -/
def refsOf (x : Stream) (f : Frame) (history : List Bytes) : List Bytes :=
  if isKey x f then []
  else (((Config.codecRefs x.raw history f.number).filterMap (sfind x.recon)).take (field x.raw 23 1))

/-- What comes before the coded picture: the headers in a key picture; in HEVC the messages of the buffer model under VBR and CBR, and
the recovery point in the first picture of each refresh cycle. AV1 has the model's parameters in its sequence header. -/
def preamble (x : Stream) (f : Frame) : Bytes :=
  (if isKey x f then Config.codecHeaders x.raw else [])
    ++ (if x.codec = 1 ∧ rcMode x ≠ 0 then
        (if isKey x f then Config.codecSei x.raw 0 f.number 0 else []) ++ Config.codecSei x.raw 1 f.number 0 else [])
    ++ (if x.codec = 1 ∧ beginsCycle x f then Config.codecSei x.raw 2 f.number (max 1 x.irPeriod - 1) else [])

/-- The access unit of a picture at a quantiser, before padding. -/
def unitAt (x : Stream) (f : Frame) (history : List Bytes) (q : Nat) (skip : Option Nat) : Bytes :=
  preamble x f ++ Config.codecPicture x.raw (history.getLastD []) (refsOf x f history) (refreshBand x f) q skip

/-! ## The receiver's buffer model (R438)

The leaky bucket of both standards' models, in units of 1 / (90,000 × FPS_NUM) bit (PRESUMED; assumption 31). -/

/-- One bit in the model's units. -/
def bitUnit (x : Stream) : Nat := 90000 * x.fpsNum

/-- The model's bit rate in bits a second: TARGET_KBPS for CBR, MAX_KBPS for VBR. -/
def modelRate (x : Stream) : Nat := 1000 * (if rcMode x = 2 then field x.raw 24 4 else field x.raw 28 4)

/-- What the buffer holds at most. -/
def modelSize (x : Stream) : Nat := 1000 * field x.raw 32 4 * bitUnit x

/-- What arrives from one picture to the next. -/
def modelInflow (x : Stream) : Nat := modelRate x * x.fpsDen * 90000

/-- What the buffer holds as a picture is removed: at first what INIT_DELAY_90K lets in. -/
def modelHolds (x : Stream) : Nat := x.fullness.getD (min (modelSize x) (modelRate x * field x.raw 36 4 * x.fpsNum))

/-- What it holds as the next picture is removed, after one of n bytes. -/
def modelAfter (x : Stream) (n : Nat) : Nat := min (modelSize x) (modelHolds x - 8 * n * bitUnit x + modelInflow x)

/-- Whether a picture of n bytes keeps the model from underflow, with the bits of a picture coded wholly as skip left for the next one.
CQP makes no promise. -/
def meetsModel (x : Stream) (skipBytes n : Nat) : Bool :=
  rcMode x == 0 || (decide (8 * n * bitUnit x ≤ modelHolds x)
    && decide (8 * skipBytes * bitUnit x ≤ modelHolds x - 8 * n * bitUnit x + modelInflow x))

/-- The bytes with which CBR pads a picture of n bytes, so that the buffer does not overflow. -/
def padding (x : Stream) (n : Nat) : Nat :=
  if rcMode x ≠ 2 then 0
  else ceilDiv (modelHolds x - 8 * n * bitUnit x + modelInflow x - modelSize x) (8 * bitUnit x)

/-! ## Rate control (R438) -/

/-- How a picture is coded: its quantiser, the stages that it needed, and where its blocks become skip. -/
structure Coding where
  q      : Nat
  stage2 : Bool := false
  stage3 : Bool := false
  skip   : Option Nat := none
  deriving DecidableEq, Repr

/-- The quantisers of stage 1: QP_MIN alone under CQP, else the one that the encoder aims at TARGET_KBPS with, then the others from
QP_MIN to QP_MAX (DESIGN CHOICE, assumption 110). -/
def stageOne (x : Stream) (f : Frame) (history : List Bytes) : List Nat :=
  let lo := field x.raw 21 1
  let hi := field x.raw 22 1
  if rcMode x = 0 then [lo]
  else max lo (min hi (Config.codecQuantiser x.raw history f.number)) :: (List.range (hi + 1 - lo)).map (lo + ·)

/-- The quantisers of stage 2. -/
def stageTwo (x : Stream) : List Nat := (List.range (topQuantiser x - field x.raw 22 1)).map (field x.raw 22 1 + 1 + ·)

/-- The coding of a picture: the first stage that meets the model and BS_SIZE. A dropped picture is coded wholly as skip (R439). -/
def codingOf (x : Stream) (f : Frame) (history : List Bytes) : Coding :=
  let top := topQuantiser x
  let skipBytes := (unitAt x f history top (some 0)).length
  let fits (q : Nat) : Bool :=
    let n := (unitAt x f history q none).length
    decide (n ≤ f.bsSize) && meetsModel x skipBytes n
  if f.dropped then { q := field x.raw 21 1, skip := some 0 }
  else
    match (stageOne x f history).find? fits with
    | some q => { q := q }
    | none =>
      match (stageTwo x).find? fits with
      | some q => { q := q, stage2 := true }
      | none =>
        let room := if rcMode x = 0 then 8 * f.bsSize else min (8 * f.bsSize) (modelHolds x / bitUnit x)
        { q := top, stage3 := true, skip := some room }

/-- The bytes of an encoded picture: its access unit, within BS_SIZE, then CBR's padding as far as BS_SIZE leaves room. -/
def bitstreamOf (x : Stream) (f : Frame) (history : List Bytes) (c : Coding) : Bytes :=
  let u := (unitAt x f history c.q c.skip).take f.bsSize
  u ++ fit (min (padding x u.length) (f.bsSize - u.length)) (Config.codecFiller x.codec (padding x u.length))

/-! ## Maps (R443) -/

/-- Whether a block is intra: in a key picture, in the intra band (R440), or by the encoder's choice; a block of a dropped picture is
skip, which is inter. -/
def intraBlock (x : Stream) (f : Frame) (column row : Nat) : Bool :=
  !f.dropped && (isKey x f || (refreshBand x f).any (fun b => decide (b.1 ≤ column / 4 ∧ column / 4 < b.2))
    || Config.codecIntra x.raw x.history f.number column row)

/-- A block's motion in eighths of a luma sample. Left of the band, the prediction of its top-left sample stays within the refreshed
columns (R440). -/
def motionOf (x : Stream) (f : Frame) (axis column row : Nat) : Int :=
  let v := Config.codecMotion x.raw x.history f.number axis column row
  match refreshBand x f with
  | some (lo, _) =>
    if axis = 0 ∧ column / 4 < lo then max (-(128 * column : Int)) (min v (8 * (64 * lo - 1 - 16 * column : Int))) else v
  | none => v

/-- A luma sample of the source that an encoder read, from what it kept of the frame. -/
def sourceSample (x : Stream) (f : Frame) (column row : Nat) : Nat :=
  field (x.history.getD f.number []) (1 + 2 * (row * x.width + column)) 2

/-- The residual of a luma sample: the source less the prediction, and zero outside the picture. -/
def lumaResidual (x : Stream) (f : Frame) (column row : Nat) : Int :=
  if x.width ≤ column ∨ x.height ≤ row then 0
  else (sourceSample x f column row : Int) - (Config.codecPrediction x.raw x.history f.number column row % 2 ^ x.depth : Nat)

/-- An entry of the 4 × 4 Hadamard matrix. -/
def hadamard (i j : Nat) : Int := if (i % 2 * (j % 2) + i / 2 * (j / 2)) % 2 = 0 then 1 else -1

/-- The transform T = H × D × Hᵀ of a 4 × 4 block D, at (i, j). -/
def transformAt (d : Nat → Nat → Int) (i j : Nat) : Int :=
  ((List.range 4).map fun a => ((List.range 4).map fun b => hadamard i a * d a b * hadamard j b).sum).sum

/-- The SATD of a 16 × 16 block: over its sixteen 4 × 4 sub-blocks, (Σ|T| + 1) >> 1. -/
def satd (x : Stream) (f : Frame) (column row : Nat) : Nat :=
  ((List.range 16).map fun k =>
    let d (a b : Nat) : Int := lumaResidual x f (16 * column + 4 * (k % 4) + b) (16 * row + 4 * (k / 4) + a)
    (((List.range 16).map fun t => (transformAt d (t / 4) (t % 4)).natAbs).sum + 1) / 2).sum

/-- The exact value of a map's channel for a block: motion is truncated toward zero to quarter samples. -/
def mapValue (x : Stream) (f : Frame) (channel column row : Nat) : Val :=
  let intra := intraBlock x f column row
  match channel with
  | 0 | 1 => if intra then vzero else valOfInt ((motionOf x f channel column row).tdiv 2) (-2)
  | 2 => valOfInt (satd x f column row) (-(x.depth : Int))
  | _ => valOfInt (if intra then 1 else 0) 0

end Sys2Proof.Machine
end

