-- ==== Sys2Proof/Machine/Codec.lean ====
section
/-! DEFINITION. VID_OPEN, VID_FRAME and VID_CLOSE (R425 to R436, R442) and the tile boundaries of the codec engines (R437,
R439, R441, R443, R444). The error that a unit holds comes with the report of a tile boundary, what a codec standard makes of a unit
from constants of `Config`; how samples and maps are read and written is R434's and R443's. -/

namespace Sys2Proof.Machine

open Sys2Proof

/-! ## Limits (R425) -/

/-- The limits that a level places on pictures: luma samples, width, height, tile columns, tiles (or tile rows for HEVC).
Taken from the AV1, HEVC and AVC standards, which the manual only names (PRESUMED; assumption 31). -/
structure LevelLimit where
  samples : Nat
  width   : Nat
  height  : Nat
  cols    : Nat
  tiles   : Nat
  deriving DecidableEq, Repr

/-- AV1 levels by seq_level_idx: the last number bounds the tiles of a picture. -/
def av1Level (n : Nat) : Option LevelLimit :=
  match n with
  | 0 => some ⟨147456, 2048, 1152, 4, 8⟩
  | 1 => some ⟨278784, 2816, 1584, 4, 8⟩
  | 4 => some ⟨665856, 4352, 2448, 6, 16⟩
  | 5 => some ⟨1065024, 5504, 3096, 6, 16⟩
  | 8 | 9 => some ⟨2359296, 6144, 3456, 8, 32⟩
  | 12 | 13 | 14 | 15 => some ⟨8912896, 8192, 4352, 8, 64⟩
  | 16 | 17 => some ⟨35651584, 16384, 8704, 16, 128⟩
  | _ => none

/-- HEVC levels by general_level_idc: a side is at most √(8 × samples); the last number bounds the tile rows. -/
def hevcLevel (n : Nat) : Option LevelLimit :=
  let f (ps side cols rows : Nat) : Option LevelLimit := some ⟨ps, side, side, cols, rows⟩
  match n with
  | 30 => f 36864 543 1 1
  | 60 => f 122880 991 1 1
  | 63 => f 245760 1402 1 1
  | 90 => f 552960 2103 2 2
  | 93 => f 983040 2804 3 3
  | 120 | 123 => f 2228224 4222 5 5
  | 150 | 153 | 156 => f 8912896 8444 10 11
  | 180 | 183 => f 35651584 16888 20 22
  | _ => none

/-- AVC levels by level_idc, in macroblocks; AVC has no tiles. -/
def avcLevel (n : Nat) : Option LevelLimit :=
  let f (mb side : Nat) : Option LevelLimit := some ⟨256 * mb, 16 * side, 16 * side, 1, 1⟩
  match n with
  | 9 | 10 => f 99 28
  | 11 | 12 | 13 | 20 => f 396 56
  | 21 => f 792 79
  | 22 | 30 => f 1620 113
  | 31 => f 3600 169
  | 32 => f 5120 202
  | 40 | 41 => f 8192 256
  | 42 => f 8704 263
  | 50 => f 22080 420
  | 51 | 52 => f 36864 543
  | _ => none

/-- The limits of a codec's level. -/
def levelLimit (codec level : Nat) : Option LevelLimit :=
  match codec with
  | 0 => av1Level level
  | 1 => hevcLevel level
  | _ => avcLevel level

/-- Whether a picture size and its tiles keep within a level: AV1 bounds the number of tiles, HEVC the tile rows. -/
def levelOk (codec level w h cols rows : Nat) : Bool :=
  match levelLimit codec level with
  | none => false
  | some l =>
    let aw := if codec = 2 then roundUp w 16 else w
    let ah := if codec = 2 then roundUp h 16 else h
    decide (aw * ah ≤ l.samples) && decide (aw ≤ l.width) && decide (ah ≤ l.height) && decide (cols ≤ l.cols)
      && (if codec = 0 then decide (cols * rows ≤ l.tiles) else decide (rows ≤ l.tiles))

/-- A codec's own tile limits (PRESUMED from the standards; assumption 31): no more tile columns or rows than superblocks or coding tree
blocks; HEVC tiles of at least 256 × 64 samples, AV1 tiles at most 4,096 samples wide and 4,096 × 2,304 large. -/
def codecTilesOk (codec w h cols rows : Nat) : Bool :=
  let bw := ceilDiv w 64
  let bh := ceilDiv h 64
  decide (cols ≤ bw) && decide (rows ≤ bh) &&
    match codec with
    | 0 => decide (64 * ceilDiv bw cols ≤ 4096) && decide (64 * ceilDiv bw cols * (64 * ceilDiv bh rows) ≤ 4096 * 2304)
    | 1 => (cols == 1 && rows == 1) || (decide (256 * cols ≤ w) && decide (64 * rows ≤ h))
    | _ => true

/-- The profiles of the table of R425 with their chroma format and bit depth. -/
def profileOk (encode : Bool) (codec profile chroma depth : Nat) : Bool :=
  (depth == 8 || depth == 10) &&
    match codec with
    | 0 => (profile == 0 && chroma == 1) || (profile == 1 && chroma == 3 && !encode) || (profile == 2 && chroma == 2)
    | 1 => (profile == 1 && chroma == 1 && depth == 8) || (profile == 2 && chroma == 1) || (profile == 4 && (chroma == 1 || chroma == 2))
    | _ => codec == 2 && profile == 100 && chroma == 1 && depth == 8 && !encode

/-! ## VID_OPEN (R429 to R431) -/

/-- The bits of SFLAGS. -/
def sflag (b : Bytes) (k : Nat) : Bool := (field b 4 1).testBit k

/-- Fields that only an encode descriptor has (R429). -/
def encodeFieldsOk (b : Bytes) (encode : Bool) : Bool :=
  if encode then
    decide (field b 20 1 ≤ 2) && decide (1 ≤ field b 23 1 ∧ field b 23 1 ≤ 4)
      && (field b 20 1 != 1 || decide (field b 24 4 ≤ field b 28 4))
  else field b 20 1 == 0 && field b 23 1 == 0 && !sflag b 1 && !sflag b 3

/-- Reserved fields and ranges (first check of R431). -/
def streamDescOk (b : Bytes) : Bool :=
  let encode := field b 0 1 == 0
  let codec := field b 1 1
  let w := field b 8 2
  let h := field b 10 2
  let qmax := if codec = 0 then 255 else 63
  let ir := field b 44 2
  decide (field b 0 1 ≤ 1) && profileOk encode codec (field b 2 1) (field b 5 1) (field b 6 1)
    && decide (field b 4 1 < 32) && (decide (field b 7 1 ≤ 7) || field b 7 1 == 0xFF)
    && decide (64 ≤ w ∧ w ≤ 8192) && decide (64 ≤ h ∧ h ≤ 4352) && field b 12 4 != 0 && field b 16 4 != 0
    && encodeFieldsOk b encode && decide (field b 21 1 ≤ field b 22 1) && decide (field b 22 1 ≤ qmax)
    && (if sflag b 1 then decide (2 ≤ ir ∧ ir ≤ 256) else ir == 0)
    && decide (1 ≤ field b 46 1 ∧ field b 46 1 ≤ 64) && decide (1 ≤ field b 47 1 ∧ field b 47 1 ≤ 64)
    && field b 48 8 % 4096 == 0 && isStack (field b 48 8)
    && decide (field b 64 1 ≤ 1) && (if field b 64 1 = 1 then decide (field b 65 1 ≤ 2) else field b 65 1 == 0)
    && (if sflag b 3 then decide (field b 66 1 ≤ 2) else field b 66 1 == 0)
    && decide (field b 67 1 ≤ 2) && zeroAt b 68 60
    && levelOk codec (field b 3 1) w h (field b 46 1) (field b 47 1) && codecTilesOk codec w h (field b 46 1) (field b 47 1)

/-- LOW_LATENCY's own ranges (second check of R431). -/
def lowLatencyOk (b : Bytes) : Bool :=
  !sflag b 1 || (field b 40 4 == 0 && decide (field b 44 2 ≤ ceilDiv (field b 8 2) 64))

/-- Bytes of the working memory (R430): pictures of 2 × (1 + c) bytes a sample, and 4 MiB. -/
def workBytes (b : Bytes) : Nat :=
  let per := match field b 5 1 with
    | 1 => 3
    | 2 => 4
    | _ => 6
  let pics := if field b 0 1 = 0 then field b 23 1 + 2 else if field b 1 1 = 0 then 10 else 18
  pics * (roundUp (field b 8 2) 64 * roundUp (field b 10 2) 64 * per) + 4194304

/-- Whether the protection map opens a span to a session: the map's entries have a granularity of 4 KiB. -/
def mapOpens (s : State) (w : Who) (a n : Nat) (read write : Bool) : Bool :=
  protAllows s w.cls (w.session.getD 0) (spanProbes a n) read write

/-- The working memory (third check of R431). -/
def workOk (s : State) (w : Who) (b : Bytes) : Bool :=
  let a := field b 48 8
  let n := field b 56 8
  decide (workBytes b ≤ n) && sameRegion a (a + n - 1) && (spanProbes a n).all (implemented s) && mapOpens s w a n true true

/-- The lowest stream number that is free (DESIGN CHOICE; R431 names none). -/
def freeStream (s : State) : Option Nat :=
  if s.streams.length < 256 then (List.range (s.streams.length + 1)).find? (fun n => (streamGet s n).isNone) else none

/-- The engine of a new stream: the one it names, or the choice of R427. A descriptor that names a fenced engine gets
the choice too (DESIGN CHOICE). -/
def openEngine (s : State) (b : Bytes) : Option Nat :=
  let e := field b 7 1
  if e ≤ 7 ∧ !codecFenced s e then some e else lightestEngine s (sflag b 0)

/-- Whether an engine admits a stream (R427): only live streams are refused for load. -/
def admits (s : State) (b : Bytes) (e : Nat) : Bool :=
  !sflag b 0 || !rateLt ⟨codecCapacity, 1⟩
    (rateAdd (engineLoad s e true) (loadFor (field b 0 1 == 0) (field b 8 2) (field b 10 2) (field b 12 4) (field b 16 4)))

/-- The stream of a descriptor. -/
def streamOf (n e owner : Nat) (b : Bytes) : Stream :=
  { num := n, owner := owner, encode := field b 0 1 == 0, codec := field b 1 1, live := sflag b 0, lowLatency := sflag b 1
    dropLate := sflag b 2, stats := sflag b 3, chroma := field b 5 1, depth := field b 6 1, engine := e, width := field b 8 2
    height := field b 10 2, fpsNum := field b 12 4, fpsDen := field b 16 4, gop := field b 40 4, irPeriod := field b 44 2
    normalised := field b 64 1 == 1, elemFmt := field b 65 1, statsFmt := field b 66 1, workBase := field b 48 8
    workSize := field b 56 8, raw := b }

/-- VID_OPEN. -/
def cmdVidOpen (w : Who) (p : Packet) (s : State) : Ans :=
  let b := p.params
  if s.power.phase = .standby then refuse s .busy
  else if !streamDescOk b ∨ !lowLatencyOk b ∨ !workOk s w b then refuse s .badParam
  else
    match freeStream s, openEngine s b with
    | some n, some e =>
      if !admits s b e then refuse s .busy
      else done { s with streams := s.streams ++ [streamOf n e (w.session.getD 0) b] } (toLE n 2)
    | _, _ => refuse s .busy

/-! ## VID_FRAME (R432 to R436) -/

/-- The width of a stored sample in bytes (R434). -/
def sampleBytes (x : Stream) : Nat := if x.normalised then fmtWidth x.elemFmt / 8 else if x.depth = 8 then 1 else 2

/-- The planes of a picture buffer: offset, row stride, columns, rows (R434). -/
def planesOf (x : Stream) (stride : Nat) : List (Nat × Nat × Nat × Nat) :=
  let cs := if x.chroma = 3 then stride else stride / 2
  let cw := if x.chroma = 3 then x.width else ceilDiv x.width 2
  let ch := if x.chroma = 1 then ceilDiv x.height 2 else x.height
  [(0, stride, x.width, x.height), (stride * x.height, cs, cw, ch), (stride * x.height + cs * ch, cs, cw, ch)]

/-- The bytes from a picture buffer's base to the end of its last row. -/
def pictureSize (x : Stream) (stride : Nat) : Nat :=
  (planesOf x stride).foldl (fun m (o, st, w, h) => max m (o + st * (h - 1) + w * sampleBytes x)) 0

/-- The row stride of a map plane (R443). -/
def mapStride (x : Stream) : Nat := roundUp (ceilDiv x.width 16 * (fmtWidth x.statsFmt / 8)) 32

/-- The bytes of a map tensor: four planes. -/
def mapSize (x : Stream) : Nat := 4 * (ceilDiv x.height 16 * mapStride x)

/-- Reserved fields and ranges of a frame descriptor (fifth check of R433). -/
def frameDescOk (x : Stream) (b : Bytes) : Bool :=
  let f := field b 2 1
  let stride := field b 32 4
  let size := field b 48 4
  let wantsMap := x.stats && !f.testBit 2
  decide (f < 8) && zeroAt b 3 5 && zeroAt b 20 4 && zeroAt b 36 4 && zeroAt b 52 4
    && (x.encode || !f.testBit 0) && decide (field b 8 8 < 2 ^ 48) && decide (field b 16 4 ≤ 999999999)
    && field b 24 8 % 128 == 0 && stride % 128 == 0
    && (planesOf x stride).all (fun (_, st, w, _) => decide (w * sampleBytes x ≤ st))
    && (if x.encode then decide (65536 ≤ size) else decide (0 < size) || f.testBit 1)
    && (if wantsMap then field b 56 8 % 32 == 0 else field b 56 8 == 0)
    && !(x.ended && x.encode)

/-- The region of R26 that an address lies in, as its table lists them: the engine windows together, the hub SRAM together. -/
def mapRegion (a : Nat) : Nat :=
  match regionOf a with
  | .linear => 1
  | .interleaved => 2
  | _ => if sramBase ≤ a ∧ a < sramBase + 0x40000000 then 3 else if hubBase ≤ a ∧ a < hubBase + 0x2000000 then 4 else 0

/-- Whether a buffer lies in one region of R26 that R31 opens to the session, every byte of it (sixth check of R433). -/
def bufferOk (s : State) (w : Who) (a n : Nat) (write : Bool) : Bool :=
  n == 0 || (mapRegion a == mapRegion (a + n - 1) && spanThere s a n && mapOpens s w a n (!write) write)

/-- The buffers of a frame (sixth check of R433). -/
def buffersOk (s : State) (w : Who) (x : Stream) (b : Bytes) : Bool :=
  bufferOk s w (field b 24 8) (pictureSize x (field b 32 4)) (!x.encode)
    && bufferOk s w (field b 40 8) (field b 48 4) x.encode
    && (!(x.stats && !(field b 2 1).testBit 2) || bufferOk s w (field b 56 8) (mapSize x) true)

/-- A frame's deadline in units of 2^-32 ns. -/
def deadlineOf (b : Bytes) : Option Nat :=
  let sec := field b 8 8
  let ns := field b 16 4
  if sec = 0 ∧ ns = 0 then none else some ((sec * 1000000000 + ns) * 2 ^ 32)

/-- The frame of a descriptor. -/
def frameOf (s : State) (x : Stream) (p : Packet) : Frame :=
  let b := p.params
  { number := x.count, p := p, forceKey := (field b 2 1).testBit 0, endFlag := (field b 2 1).testBit 1
    noStats := (field b 2 1).testBit 2, deadline := deadlineOf b, picBase := field b 24 8, picStride := field b 32 4
    bsBase := field b 40 8, bsSize := field b 48 4, statsBase := field b 56 8, accepted := s.frameSeq }

/-- VID_FRAME. -/
def cmdVidFrame (w : Who) (p : Packet) (s : State) : Ans :=
  let b := p.params
  match streamGet s (field b 0 2) with
  | none => refuse s .badParam
  | some x =>
    if !mayName w x.owner then refuse s .priv
    else if x.damaged then refuse s .streamDamaged
    else if x.closing.isSome ∨ x.closingNoEntry then refuse s .badParam
    else if 16 ≤ x.frames.length then refuse s .busy
    else if !frameDescOk x b then refuse s .badParam
    else if !buffersOk s w x b then refuse s .busError
    else if !ringFree s p then refuse s .busy
    else
      let f := frameOf s x p
      let s := streamMap s x.num fun x => { x with frames := x.frames ++ [f], count := x.count + 1, ended := x.ended || f.endFlag }
      accepted (codecPick { s with frameSeq := s.frameSeq + 1 } x.engine) p

/-! ## Frames as they complete (R435 to R437, R443, R444) -/

/-- How the codec engines store elements: RNE, SAT, no block scale (R434, R443). -/
def codecStore (fmt : Nat) : Store := { fmt := fmt, scaled := false, sr := false, sr3 := false, ieee := false }

/-- The exact value n / k as the roundings see it: 80 fraction bits and a sticky one. -/
def ratio (n k : Nat) : Val :=
  let q := n * 2 ^ 80 / k
  .fin false (2 * q + (if n * 2 ^ 80 % k = 0 then 0 else 1)) (-81)

/-- The integer nearest to m × 2^e, ties to even. -/
def nearest (m : Nat) (e : Int) : Nat :=
  match e with
  | .ofNat k => m * 2 ^ k
  | .negSucc k =>
    let d := 2 ^ (k + 1)
    let q := m / d
    if d < 2 * (m % d) ∨ (2 * (m % d) = d ∧ q % 2 = 1) then q + 1 else q

/-- The sample that an encoder reads from stored bytes (R434). -/
def readSample (x : Stream) (b : Bytes) : Nat :=
  let top : Nat := 2 ^ x.depth - 1
  if !x.normalised then leNat b % 2 ^ x.depth
  else
    match f32Val (toF32 (vmul (decodeElem x.elemFmt false (leNat b)) (valOfInt top 0))) with
    | .nan => 0
    | .inf neg => if neg then 0 else top
    | .fin neg m e => if neg then 0 else min top (nearest m e)

/-- The bytes of a sample that a decoder writes (R434). -/
def sampleOut (x : Stream) (v : Nat) : Bytes :=
  let v := v % 2 ^ x.depth
  if !x.normalised then toLE v (sampleBytes x)
  else toLE ((storeVals (codecStore x.elemFmt) (fun _ => 0) [] [ratio v (2 ^ x.depth - 1)]).1.headD 0) (sampleBytes x)

/-- What a completed frame gave the codec (R444): its flags, whether it was dropped, and its samples or bytes. -/
def frameInput (s : State) (x : Stream) (f : Frame) : Bytes :=
  let flags : Byte := BitVec.ofNat 8 (f.forceKey.toNat + 2 * f.endFlag.toNat + 4 * f.noStats.toNat + 8 * f.dropped.toNat)
  flags :: (if x.encode then
      (planesOf x f.picStride).flatMap fun (o, st, w, h) => (List.range h).flatMap fun r =>
        let b := spanRead s (f.picBase + o + r * st) (w * sampleBytes x)
        (List.range w).flatMap fun c => toLE (readSample x (slice b (c * sampleBytes x) (sampleBytes x))) 2
    else spanRead s f.bsBase f.bsSize)

/-- The spans of memory that a frame's input lies in: the rows of an encoder's picture (R434), a decoder's unit. -/
def inputSpans (x : Stream) (f : Frame) : List (Nat × Nat) :=
  if x.encode then (planesOf x f.picStride).flatMap fun (o, st, w, h) => (List.range h).map fun r =>
    (f.picBase + o + r * st, w * sampleBytes x)
  else [(f.bsBase, f.bsSize)]

/-- The read of a frame's input corrects or poisons the words in error that it meets (R255). -/
def readInput (s : State) (x : Stream) (f : Frame) (finds : List EccFind) : State :=
  if finds.isEmpty ∧ s.soft.isEmpty then s else (inputSpans x f).foldl (fun s (a, n) => eccScan s (spanLinear a n) finds) s

/-- Whether the input of a frame holds a poisoned word (ERR_KIND 6). -/
def inputBad (s : State) (x : Stream) (f : Frame) : Bool :=
  !s.poison.isEmpty && (inputSpans x f).any fun (a, n) => anyPoison s (spanLinear a n)

/-- Whether a codec engine may write a buffer of a frame now: regions retired and images loaded since the frame was accepted are closed
to it (R275, R387). -/
def codecMay (s : State) (a n : Nat) : Bool :=
  spanThere s a n && !(spanRuns a n).any fun r => s.images.any fun i => runHits i.source i.size r

/-- A codec engine's write of a buffer: a refused one has no effect and is logged (DESIGN CHOICE, assumption 105). -/
def codecWrite (s : State) (e a n : Nat) (write : State → State) : State :=
  if n = 0 then s
  else if codecMay s a n then write s
  else logOther s (unitOf 5 e) none (if spanThere s a n then 387 else 275)

/-- Writes a decoded picture into a picture buffer: the bytes between a row's end and the stride stay (R434). -/
def putPicture (s : State) (x : Stream) (f : Frame) (pic : Nat) : State :=
  codecWrite s x.engine f.picBase (pictureSize x f.picStride) fun s =>
    (planesOf x f.picStride).zipIdx.foldl (fun s ((o, st, w, h), k) => (List.range h).foldl (fun s r =>
      storeBytes s (f.picBase + o + r * st)
        ((List.range w).flatMap fun c => sampleOut x (Config.codecSample x.raw x.history pic k c r))) s) s

/-- Writes the map of an encoded picture: the bytes between a row's last block and the stride are +0 (R443). -/
def putMap (s : State) (x : Stream) (f : Frame) : State :=
  let mc := ceilDiv x.width 16
  let mr := ceilDiv x.height 16
  codecWrite s x.engine f.statsBase (mapSize x) fun s => (List.range (4 * mr)).foldl (fun s r =>
    let els := (storeVals (codecStore x.statsFmt) (fun _ => 0) [] ((List.range mc).map fun c => mapValue x f (r / mr) c (r % mr))).1
    storeBytes s (f.statsBase + r * mapStride x)
      (fit (mapStride x) (els.flatMap fun e => toLE e (fmtWidth x.statsFmt / 8)))) s

/-- An encode frame completes: bitstream, map, entry (R435, R437, R438, R443). -/
def encodeDone (s : State) (x : Stream) (f : Frame) : State :=
  let history := x.history ++ [frameInput s x f]
  let x' := { x with history := history }
  let key := isKey x f
  let c := codingOf x f history
  let b := bitstreamOf x f history c
  let t := codecWrite s x.engine f.bsBase b.length fun s => storeBytes s f.bsBase b
  let t := if x.stats ∧ !f.noStats then putMap t x' f else t
  let recon := Config.codecRecon x.raw (history.getLastD []) (refsOf x f history) (refreshBand x f) c.q c.skip
  let t := streamMap t x.num fun z => { z with
    frames := z.frames.drop 1, started := true, history := history, sinceKey := if key then 1 else x.sinceKey + 1
    recon := (if key then [] else x.recon) ++ [(f.number, recon)], fullness := some (modelAfter x b.length) }
  postFrame t f .ok { bytes := b.length, key := key, stage2 := c.stage2, stage3 := c.stage3, qpAvg := c.q }

/-- The pictures that join the output queue with a unit: those that are ready, and with END all that the decoder holds, each once
(R436). -/
def newlyReady (x : Stream) (f : Frame) (history : List Bytes) : List Nat :=
  ((Config.codecReady x.raw history ++ (if f.endFlag then Config.codecHeld x.raw history else [])).filter
    fun k => !x.readied.contains k).dedup

/-- A decode frame completes: pictures that became ready join the queue, the oldest is written, the entry is posted. END with
BS_SIZE 0 decodes nothing (R436, R437). -/
def decodeDone (s : State) (x : Stream) (f : Frame) : State :=
  let history := x.history ++ (if f.bsSize = 0 then [] else [frameInput s x f])
  let x' := { x with history := history }
  let fresh := newlyReady x f history
  let queue := x.queue ++ fresh
  let out := if f.dropped then none else queue.head?
  let t := match out with
    | some k => putPicture s x' f k
    | none => s
  let t := streamMap t x.num fun z => { z with
    frames := z.frames.drop 1, started := true, history := history, queue := if out.isSome then queue.drop 1 else queue
    readied := x.readied ++ fresh }
  postFrame t f .ok
    { bytes := min (Config.codecConsumed x.raw history) f.bsSize, noOutput := out.isNone
      qpAvg := if f.bsSize = 0 then 0 else Config.codecMeanQp x.raw history % 256, outPic := out.getD 0xFFFFFFFF }

/-- The error that a frame met, if any (R441): a poisoned word of its input for either direction, and a decoder's own kinds. -/
def errorKind (s : State) (x : Stream) (f : Frame) (r : CodecReport) : Nat :=
  if inputBad s x f then 6 else if x.encode ∨ 5 < r.errKind then 0 else r.errKind

/-- The frame that an engine runs ends. -/
def frameDone (s : State) (x : Stream) (f : Frame) (r : CodecReport) : State :=
  let s := readInput { s with running := sdel s.running r.engine } x f r.mem
  let k := errorKind s x f r
  if k = 0 then (if x.encode then encodeDone s x f else decodeDone s x f)
  else
    damageStream s x.num (if k = 6 then .eccUncorrectable else .streamDamaged) .streamDamaged
      { noOutput := !x.encode, errPic := if x.encode then f.number else r.errPic, errCol := r.errCol, errRow := r.errRow, errKind := k }

/-- CODEC_TILE_BOUNDARY: an engine finishes a tile, or its frame, and chooses its next unit of work. -/
def execCodecTileBoundary (r : CodecReport) (s : State) : Host.Outcome State Fault Refusal :=
  let s : State := { s with out := [] }
  match (sfind s.running r.engine).bind (streamGet s) with
  | none => .next (codecPick s r.engine)
  | some x =>
    match x.frames.head? with
    | none => .next (codecPick { s with running := sdel s.running r.engine } r.engine)
    | some f => .next (if r.frameDone then codecMoves (frameDone s x f r) else codecYield s r.engine)

/-! ## VID_CLOSE (R442) -/

/-- A stream closes: its working memory and its number are released, and a VID_CLOSE posts its entry. -/
def closeStream (s : State) (x : Stream) : State :=
  let s : State := { s with streams := s.streams.filter fun y => y.num != x.num }
  match x.closing with
  | some p => postEntry s p 0x62 .ok []
  | none => s

/-- VID_CLOSE: a DAMAGED stream closes at once. -/
def cmdVidClose (w : Who) (p : Packet) (s : State) : Ans :=
  match streamGet s (field p.params 0 2) with
  | none => refuse s .badParam
  | some x =>
    if !mayName w x.owner then refuse s .priv
    else if x.closing.isSome ∨ x.closingNoEntry then refuse s .badParam
    else if !ringFree s p then refuse s .busy
    else
      let a := accepted (streamMap s x.num fun x => { x with closing := some p }) p
      if x.damaged then { a with st := closeStream a.st { x with closing := some p } } else a

/-- VID_CLOSE_COMPLETE: every frame accepted before the close has posted its entry. -/
def execVidCloseComplete (stream : Nat) (s : State) : Host.Outcome State Fault Refusal :=
  let s : State := { s with out := [] }
  match streamGet s stream with
  | none => .next s
  | some x => .next (if (x.closing.isSome || x.closingNoEntry) && x.frames.isEmpty then closeStream s x else s)

end Sys2Proof.Machine
end

