-- ==== Sys2Proof/Machine/Links.lean ====
section
/-! DEFINITION. The logical interfaces of the Ethernet ports: training, retries and the fallback (R331, R333). -/

namespace Sys2Proof.Machine

open Sys2Proof

/-- Whether the device's links run: from stage 5 on, but for a start-up that failed (R491). -/
def linkRuns (s : State) : Bool := s.power.phase != .off && s.power.phase != .failed

/-- ACTIVE_MODE of a port (R366). -/
def activeMode (s : State) (port : Nat) : Nat := regF s (oEth port + 8) 5 4

/-- HEALTHY_LANES of a port (R366). -/
def healthyLanes (s : State) (port : Nat) : Nat := regF s (oEth port + 8) 15 8

/-- Whether all the lanes of a list are in a mask. -/
def allLanes (mask : Nat) (lanes : List Nat) : Bool := lanes.all mask.testBit

/-- The four lanes of the fallback: 0 to 3, or else 4 to 7; none when neither group is healthy (R333). -/
def fallbackLanes (mask : Nat) : Option (List Nat) :=
  if allLanes mask [0, 1, 2, 3] then some [0, 1, 2, 3]
  else if allLanes mask [4, 5, 6, 7] then some [4, 5, 6, 7]
  else none

/-- The port lanes of an interface in a mode (R331); in the fallback, those that the healthy lanes give (R333). -/
def portLanes (mode healthy i : Nat) : List Nat :=
  match mode with
  | 0 => List.range 8
  | 1 => (List.range 4).map (4 * i + ·)
  | 2 => [2 * i, 2 * i + 1]
  | _ => (fallbackLanes healthy).getD [0, 1, 2, 3]

/-- An interface of the table of interfaces. -/
def ifaceGet (s : State) (port i : Nat) : Option Iface := s.ports.find? fun f => f.port == port && f.idx == i

/-- Changes an interface. -/
def ifaceMap (s : State) (port i : Nat) (f : Iface → Iface) : State :=
  { s with ports := s.ports.map fun x => if x.port = port ∧ x.idx = i then f x else x }

/-- HEALTHY_LANES takes what a training found of an interface's lanes. -/
def setHealthy (s : State) (port : Nat) (lanes : List Nat) (mask : Nat) : State :=
  let old := healthyLanes s port
  let bits := (List.range 8).map fun n => if (if lanes.contains n then mask.testBit n else old.testBit n) then 2 ^ n else 0
  regSetF s (oEth port + 8) 15 8 bits.sum

/-- A training attempt shows which lanes have completed: with all of its lanes the interface is up (R333). -/
def trainIface (s : State) (port i mask : Nat) : State :=
  let lanes := portLanes (activeMode s port) (healthyLanes s port) i
  let s := setHealthy s port lanes mask
  if allLanes mask lanes then
    regSetF (ifaceMap s port i fun f => { f with up := true, failures := 0 }) (oEth port + 8) i i 1
  else s

/-- The port falls back to one 400GBASE-R interface, when four healthy lanes allow it (R333, R524). -/
def fallBack (s : State) (port : Nat) : State :=
  match fallbackLanes (healthyLanes s port) with
  | none => ifaceMap s port 0 fun f => { f with failures := 3 }
  | some _ => logEvent (retrainPort s port 3) 0x0502 (unitOf 6 (8 * port)) none []

/-- Stage 5 on a port: every interface of its mode trains, MODE 0 with its fallback (R333, R491). -/
def trainPort (s : State) (port mask : Nat) : State :=
  let s := retrainPort s port (regF s (oEth port) 1 0)
  let s := (List.range (interfacesOf (activeMode s port))).foldl (fun s i => trainIface s port i mask) s
  if activeMode s port = 0 ∧ !ifaceUp s port 0 then
    let s := fallBack s port
    if activeMode s port = 3 then trainIface s port 0 mask else s
  else s

/-- Whether a SERDES test holds a port's interfaces down (R520). -/
def serdesHolds (s : State) (port : Nat) : Bool := s.diag.any fun d => d.test == 6 && d.port == port && d.started

/-- Whether an attempt of an interface has lasted its 5 s (R333). -/
def attemptOver (s : State) (f : Iface) : Bool := !f.up && decide (f.attemptAt + 5000000000 ≤ s.clock.wall)

/-- LINK_TRAINING_COMPLETE: `lanes` are the port lanes that have completed training. -/
def execLinkTrainingComplete (port iface : Nat) (lanes : BitVec 8) (s : State) : Host.Outcome State Fault Refusal :=
  let s : State := { s with out := [] }
  if linkRuns s ∧ !serdesHolds s port ∧ (ifaceGet s port iface).any (fun f => !f.up) then
    .next (trainIface s port iface lanes.toNat)
  else .next s

/-- LINK_TRAINING_RETRY: the attempt has failed and the next begins. The third failure in MODE 0 is PORT_FALLBACK's. -/
def execLinkTrainingRetry (port iface : Nat) (s : State) : Host.Outcome State Fault Refusal :=
  let s : State := { s with out := [] }
  match ifaceGet s port iface with
  | none => .next s
  | some f =>
    if !linkRuns s ∨ serdesHolds s port ∨ !attemptOver s f ∨ (activeMode s port = 0 ∧ 2 ≤ f.failures) then .next s
    else .next (ifaceMap s port iface fun x => { x with failures := x.failures + 1, attemptAt := s.clock.wall })

/-- PORT_FALLBACK: the third attempt of a port in MODE 0 has failed (R333). -/
def execPortFallback (port : Nat) (s : State) : Host.Outcome State Fault Refusal :=
  let s : State := { s with out := [] }
  match ifaceGet s port 0 with
  | none => .next s
  | some f =>
    if linkRuns s ∧ !serdesHolds s port ∧ activeMode s port = 0 ∧ attemptOver s f ∧ f.failures = 2 then
      .next (fallBack s port)
    else .next s

end Sys2Proof.Machine
end

