-- ==== Sys2Proof/Machine/Startup.lean ====
section
/-! DEFINITION. Reset and start-up (R473, R486, R490 to R492): what a reset loses and keeps, the seven stages, and
ready. -/

namespace Sys2Proof.Machine

open Sys2Proof

/-! ## Reset (R490) -/

/-- OFF after a reset: everything is lost but the flash's contents, the trip latch and PWR_TRIP. The commands that wait,
the count of free values and the TAP are not the device's to lose. -/
def loseState (s : State) : State :=
  let s := tornCommit (tornStage s)
  let t : State :=
    { pending := s.pending, freeCtr := s.freeCtr, flash := flashKept s.flash, tap := s.tap
      power := { tripped := s.power.tripped, tripLog := s.power.tripLog } }
  regSet t oPwrTrip (regGet s oPwrTrip)

/-- A reset turns the rails off (R474), and then the state is lost. -/
def powerDown (s : State) : State :=
  let off := disableRails s s.power.enabled
  { loseState s with out := off.out }

/-- An accepted reset by a pin: PWR_GOOD falling releases THERM_TRIP_N (R486), and the trip counter outlasts it only
while VDD_HUB stays up, which a free value decides. -/
def resetBy (s : State) (pin : ResetPin) : State :=
  let s := powerDown s
  match pin with
  | .resetN => { s with tap := { s.tap with resetLow := true } }
  | .pwrGood =>
    let (v, s) := freeVal s
    let s : State := { s with power := { s.power with tripped := false }, tap := { s.tap with pwrGood := false } }
    if v % 2 = 0 then s else regSetF s oPwrTrip 15 0 0

/-- RESET: a pin low for less than 1 µs is rejected (R310). -/
def execReset (pin : ResetPin) (lowNs : Nat) (s : State) : Host.Outcome State Fault Refusal :=
  let s : State := { s with out := [] }
  if lowNs < 1000 then .next s else .next (resetBy s pin)

/-- COMMIT_RESTART_RESET: 100 ms after the entry of a commit with RESTART, the device resets itself (R510). -/
def execCommitRestartReset (s : State) : Host.Outcome State Fault Refusal :=
  let s : State := { s with out := [] }
  match s.flash.restartAt with
  | some t => if t ≤ s.clock.wall then .next (powerDown s) else .next s
  | none => .next s

/-- THERMAL_TRIP: a junction sensor at 115 °C or above (R486). The clocks stop and nothing runs until PWR_GOOD has
fallen, so what the trip leaves is what OFF leaves. -/
def execThermalTrip (sensor tempC : Nat) (s : State) : Host.Outcome State Fault Refusal :=
  let s : State := { s with out := [] }
  if s.power.phase = .off ∨ tempC < 115 ∨ 72 ≤ sensor then .next s
  else
    let s := loseState s
    let s : State := { s with power := { s.power with tripped := true, tripLog := true } }
    .next (regCount (regSetF s oPwrTrip 31 31 1) oPwrTrip 15 0 1)

/-! ## Stage 2: the firmware slot (R505) -/

/-- The contents of a firmware slot. -/
def slotOf (f : Flash) (b : Bool) : Bytes := if b then f.fwB else f.fwA

/-- The slot that boots: the record's, or else the other; none when neither does. -/
def bootSlot (f : Flash) : Option Bool :=
  let r := (recordInForce f).getD {}
  if slotBoots (slotOf f r.slotB) r.fwMin then some r.slotB
  else if slotBoots (slotOf f (!r.slotB)) r.fwMin then some (!r.slotB)
  else none

/-! ## Stage 3: the configuration (R508) -/

/-- The contents of a configuration copy. -/
def configOf (f : Flash) (one : Bool) : Bytes := if one then f.config1 else f.config0

/-- The configuration copy in effect; none when the start-up fails for want of one. -/
def bootConfig (f : Flash) : Option Bool :=
  match recordInForce f with
  | some r =>
    if copySigned (configOf f r.config1) ∧ blobDigest (configOf f r.config1) = r.configDigest then some r.config1 else none
  | none => if copySigned f.config0 then some false else if copySigned f.config1 then some true else none

/-- The writes of a blob as accesses. The words of one protection map entry that follow each other in ascending order
are one access, as R463 needs; so is the pair TB_SEC_SET (R312). Every other write is an access of its own. -/
def joinWrites (ws : List (Nat × Word)) : List (Nat × List Word) :=
  (ws.foldl (fun acc y =>
    match acc with
    | (b, l) :: t =>
      let entry := decide (0x011000 ≤ b ∧ b < 0x013000 ∧ b % 0x20 = 0 ∧ l.length < 5)
      let pair := b == oTbSecLo && l.length == 1
      if y.1 = b + 4 * l.length ∧ (entry ∨ pair) then (b, l ++ [y.2]) :: t else (y.1, [y.2]) :: acc
    | [] => [(y.1, [y.2])]) []).reverse

/-- One access of the blob, with the security core's rights; a refused one is logged and skipped. -/
def configWrite (s : State) (y : Nat × List Word) : State :=
  let (c, t) := regWrite s .owner y.1 y.2
  if c = .ok then t
  else (List.range y.2.length).foldl (fun s i => logEvent s 0x0004 (unitOf 0 0) none (toLE (y.1 + 4 * i) 4)) t

/-- The health record is reapplied: health time, error histories, retirements and fences (R82, R83, R274, R445). -/
def reapplyFence (s : State) (f : FenceRec) : State :=
  match f with
  | .engine e c => regSetF (regSetF s (oEng e + 0x10) 31 31 1) (oEng e + 0x10) 27 24 c.toNat
  | .caldera u c =>
    let s := regSetF s (oCal (u / 16) + 0x10) (u % 16) (u % 16) 1
    { s with unitCause := sput s.unitCause u c, fencedUnits := (s.fencedUnits ++ [u]).dedup }
  | .codec v c =>
    let s := regSetF s oVidFence v v 1
    { s with codecCause := sput s.codecCause v c }

/-- A retired region counts again in MEM_RETIRE. -/
def reapplyRetired (s : State) (r : Nat) : State :=
  if s.retired.contains r then s
  else
    let o := oMem (r / 131072) + 0x28
    regSetF { s with retired := s.retired ++ [r] } o 17 0 (regF s o 17 0 + 1)

/-- What start-up takes from the health record. -/
def reapplyHealth (s : State) : State :=
  let h := s.flash.health
  let s : State := { s with
    clock := { s.clock with health := h.time, healthNs := 0 }
    unitErrs := h.unitErrs, regionErrs := h.regionErrs }
  let s := h.engineErrs.foldl (fun s y =>
    let x := engGet s y.1
    engSet s y.1 { x with errors := x.errors ++ [y.2] }) s
  h.fences.foldl reapplyFence (h.retired.foldl reapplyRetired s)

/-- The registers that name the device, its firmware and its configuration (R316, R466, R513). -/
def identify (s : State) : State :=
  let f := s.flash
  let run := slotImage (slotOf f f.runB)
  let uid := deviceKeyId
  let aid := BitVec.ofNat 32 (0x10000 + field run 10 2)
  let s := regSet (regSet s 0x000004 aid) oDigAid aid
  let s := regSet (regSet s 0x000008 (BitVec.ofNat 32 uid)) 0x00000C (BitVec.ofNat 32 (uid / 2 ^ 32))
  let s := regSet s 0x000010 (BitVec.ofNat 32 (firmwareVersion run * 2 ^ 16 + f.runB.toNat))
  let s := regSetF (regSetF s oSecBoot 0 0 f.runB.toNat) oSecBoot 1 1 f.inEffect1.toNat
  secRegs (regSet s oSecConfig (BitVec.ofNat 32 (field f.blob 8 4)))

/-! ## Self-tests and stage 4 -/

/-- A self-test at start-up that fails fences its unit with cause 2 (R82, R246, R445). -/
def selfTestEngine (s : State) (y : Nat × BitVec 4) : State :=
  let s := regSetF s (oEng y.1 + 0x10) 23 20 y.2.toNat
  if engineFenced s y.1 then s
  else logEvent (reapplyFence s (.engine y.1 2)) 0x0202 (unitOf 1 y.1) none [2]

/-- As `selfTestEngine`, for a Caldera unit. -/
def selfTestUnit (s : State) (u : Nat) : State :=
  let o := oCal (u / 16) + 0x10
  let was := (regF s o 15 0).testBit (u % 16)
  let s := regSetF s o (16 + u % 16) (16 + u % 16) 1
  if was then s else logEvent (reapplyFence s (.caldera u 2)) 0x0202 (unitOf 2 u) none [2]

/-- As `selfTestEngine`, for a codec engine. -/
def selfTestCodec (s : State) (v : Nat) : State :=
  let was := (regF s oVidFence 7 0).testBit v
  let s := regSetF s oVidFence (8 + v) (8 + v) 1
  if was then s else notice (logEvent (reapplyFence s (.codec v 2)) 0x0202 (unitOf 5 v) none [2]) 6

/-- A stack that fails its training is withheld: all its regions count as retired for this start-up (R491). -/
def withhold (s : State) (st : Nat) : State :=
  let s := regSetF { s with withheld := s.withheld ++ [st] } (oMem st + 0x28) 17 0 131072
  notice (logEvent s 0x0104 (unitOf 4 st) none []) 5

/-! ## Ready (R492, R503) -/

/-- The device reports ready: IDLE, still in RAMP mode until the first boundary (R78), its health taken, and its first
boot record written where none was valid. -/
def deviceReady (s : State) : State :=
  let s := logEvent s 0x0001 (unitOf 0 0) none (s.power.stageMs.take 7 |>.flatMap fun n => toLE n 2)
  let f := s.flash
  let f := if (recordInForce f).isSome then f else
    updateRecord f fun r => { r with slotB := f.runB, config1 := f.inEffect1, configMin := field f.blob 8 4
                                     configDigest := blobDigest f.blob }
  let s : State := { s with flash := f, power := { s.power with phase := .idle, ramp := true, rampUntil := some 1 } }
  let s := regSetF (regSetF s oPwrStatus 27 24 7) oPwrStatus 31 28 2
  takeSnapshot (secRegs s)

/-- A start-up that cannot go on: stage code 0xF until a reset (R491). -/
def startFailed (s : State) : State :=
  regSetF { s with power := { s.power with phase := .failed } } oPwrStatus 27 24 0xF

/-- Stages 1 to 3: the PUF, the firmware slot, the configuration, the rails and the health record, and whether none of them fails. VPP
outside its window is a failure that comes once the configuration has been applied and VPP enabled (R474, R491). -/
def startFirmware (s : State) (r : StartupReport) : State × Bool :=
  match (if r.pufOk then bootSlot s.flash else none), bootConfig s.flash with
  | some slot, some one =>
    let f := s.flash
    let fallback := ((recordInForce f).getD {}).slotB != slot
    let s : State := { s with flash := { f with runB := slot, inEffect1 := one, blob := configOf f one } }
    let s := if s.power.tripLog then notice (logEvent { s with power := { s.power with tripLog := false } } 0x0002 (unitOf 0 0) none []) 8 else s
    let s := if fallback then
        notice (logEvent (regSetF s oSecBoot 2 2 1) 0x0003 (unitOf 0 0) none [BitVec.ofNat 8 slot.toNat]) 8 else s
    let s := enableRails ((joinWrites (blobWrites s.flash.blob)).foldl configWrite (identify s)) r.vppOk
    if r.vppOk then (reapplyHealth s, true) else (s, false)
  | _, _ => (s, false)

/-- Stages 4 and 5, the self-tests among them. -/
def startUnits (s : State) (r : StartupReport) : State :=
  let s := r.badEngines.foldl selfTestEngine s
  let s := r.badUnits.foldl selfTestUnit s
  let s := r.badCodecs.foldl selfTestCodec s
  let s := if r.badEngines.isEmpty && r.badUnits.isEmpty && r.badCodecs.isEmpty then s else beginHealth s
  let s := ((List.range 8).filter fun st => !r.trained.getLsbD st).foldl withhold s
  trainPort (trainPort s 0 r.lanes0.toNat) 1 r.lanes1.toNat

/-- STARTUP: PWR_GOOD and RESET_N are both high. With a time source, stage 6 lasts until LOCKED or its limit. -/
def execStartup (r : StartupReport) (s : State) : Host.Outcome State Fault Refusal :=
  let s : State := { s with out := [] }
  if s.power.phase ≠ .off then .next s
  else
    let s : State := { s with tap := { s.tap with ir := .idcode, driven := none, released := false, resetLow := false, pwrGood := true } }
    if s.power.tripped then .next s
    else
      match startFirmware { s with power := { s.power with phase := .starting, stageMs := r.stageMs } } r with
      | (s, false) => .next (startFailed s)
      | (s, true) =>
        let s := startUnits s r
        if regF s oTbCtrl 1 0 = 0 ∨ s.disc.state = .locked then .next (deviceReady s)
        else .next (regSetF { s with power := { s.power with stageAt := s.clock.wall } } oPwrStatus 27 24 6)

/-- STARTUP_TIME_TIMEOUT: stage 6 ends after 10 s of wall time without LOCKED. -/
def execStartupTimeTimeout (s : State) : Host.Outcome State Fault Refusal :=
  let s : State := { s with out := [] }
  if s.power.phase = .starting ∧ s.power.stageAt + 10000000000 ≤ s.clock.wall then .next (deviceReady s) else .next s

end Sys2Proof.Machine
end

