-- ==== Sys2Proof/Machine/Power.lean ====
section
/-! DEFINITION. The power and thermal policy (R475 to R486), the regulators, and the device's own periodic work: RAMP
mode, the vote scrub, the patrol, refresh rates, the health record (R78, R83, R257, R272, R457, R502). -/

namespace Sys2Proof.Machine

open Sys2Proof

/-! ## Regulators (R476, R477) -/

/-- Whether a STATUS_WORD holds a fault bit: over-voltage, over-current, under-voltage or over-temperature, at the bits
that PMBus gives them (PRESUMED; assumption 34). Any other bit is a warning. -/
def faultBits (w : BitVec 16) : Bool := (w &&& 0x003C) != 0

/-- The latest poll of a rail. -/
def railGet (s : State) (i : Nat) : Rail := (s.power.rails.find? (·.index == i)).getD { index := i }

/-- A rail's record replaced. -/
def railSet (s : State) (r : Rail) : State :=
  { s with power := { s.power with rails := s.power.rails.filter (fun x => x.index != r.index) ++ [r] } }

/-- Sets or clears a cause of LIMITED. -/
def setCause (s : State) (i : Nat) (on : Bool) : State :=
  let c := s.power.causes.toNat
  let c := c - c / 2 ^ i % 2 * 2 ^ i + on.toNat * 2 ^ i
  { s with power := { s.power with causes := BitVec.ofNat 5 c } }

/-- The log entry of a regulator (R524). -/
def logRail (s : State) (i : Nat) (w : BitVec 16) : State := logEvent s 0x0601 (unitOf 9 i) none (toLE w.toNat 2)

/-- A transaction with a regulator: three without acknowledgement are logged and act as a fault (R476). A warning is cleared with
CLEAR_FAULTS, unless a fault bit stands beside it (R477; DESIGN CHOICE for the latter, assumption 114). -/
def railAnswer (s : State) (r : RailReading) (log : BitVec 16 → Rail → Bool) : State :=
  let old := railGet s r.rail
  match r.answer with
  | none =>
    let n := old.silent + 1
    let s := railSet s { old with silent := n, fault := old.fault || decide (3 ≤ n) }
    if n = 3 then setCause (logRail s r.rail 0) 0 true else s
  | some w =>
    let s := if log w old then logRail s r.rail w else s
    let s := if log w old ∧ !faultBits w then pmbus s .clearFaults r.rail else s
    let s := railSet s { old with silent := 0, fault := faultBits w }
    if faultBits w then setCause s 0 true else s

/-- Causes 0 and 1 clear: VR_ALERT_N deasserted, and for cause 0 no STATUS_WORD with a fault bit (R483). -/
def clearRailCauses (s : State) : State :=
  let faulty := s.power.rails.any (·.fault)
  let s := if !s.power.alert ∧ !faulty then setCause s 0 false else s
  if !s.power.alert then setCause s 1 false else s

/-- Whether the firmware runs: from stage 3 of a start-up that has not failed. -/
def firmwareRuns (s : State) : Bool := s.power.phase != .off && s.power.phase != .failed

/-- REGULATOR_ALERT: VR_ALERT_N asserted for `lowNs`, and what each regulator answers (R310, R477). One that has turned its rail
off takes the device outside R2: the state records it, and the trip and the input filters go on (assumption 39). -/
def execRegulatorAlert (lowNs : Nat) (rails : List RailReading) (s : State) : Host.Outcome State Fault Refusal :=
  let s : State := { s with out := [] }
  if !firmwareRuns s ∨ lowNs < 1000 then .next s
  else
    let s := regCount s oPwrEvents 7 0 1
    let s : State := { s with power := { s.power with alert := true, outside := s.power.outside || rails.any (·.railOff) } }
    .next (rails.foldl (fun s r => railAnswer (pmbus s .readStatus r.rail) r fun w _ => w != 0) s)

/-- VR_ALERT_SUSTAINED: VR_ALERT_N has been asserted for 10 ms (R310, R477): logged, of no rail, and LIMITED. -/
def execVrAlertSustained (s : State) : Host.Outcome State Fault Refusal :=
  let s : State := { s with out := [] }
  if !firmwareRuns s then .next s
  else
    let s := if s.power.causes.getLsbD 1 then s else logEvent s 0x0601 (unitOf 0 0) none (toLE 0 2)
    .next (setCause { s with power := { s.power with alert := true } } 1 true)

/-- Milliseconds of wall time in nanoseconds. -/
def msWall (n : Nat) : Nat := n * 1000000

/-- The telemetry of one rail (R476, R494). -/
def railTelemetry (s : State) (r : RailReading) : State :=
  match r.answer with
  | none => s
  | some w =>
    let old := railGet s r.rail
    railSet s { old with
      status := w, voutUv := ((linear16 r.voutMode r.vout 1000000).map Int.toNat).getD old.voutUv
      ioutMa := (linear11 r.iout 1000).toNat, poutMw := (linear11 r.pout 1000).toNat, tempC := linear11 r.temp 1
      polledAt := s.beats }

/-- PMBUS_POLL, every 10 ms: telemetry, silence, and faults that were not there before. When every rail the device sets
answers with no status bit, VR_ALERT_N counts as deasserted (DESIGN CHOICE; assumption 94). -/
def execPmbusPoll (rails : List RailReading) (s : State) : Host.Outcome State Fault Refusal :=
  let s : State := { s with out := [] }
  if !firmwareRuns s ∨ s.clock.wall < s.power.pollAt + msWall 10 then .next s
  else
    let s : State := { s with power := { s.power with pollAt := s.clock.wall, outside := s.power.outside || rails.any (·.railOff) } }
    let s := rails.foldl (fun s r => railAnswer (railTelemetry (pmbus s .readTelemetry r.rail) r) r fun w old => faultBits w && !old.fault) s
    let quiet := deviceRails.all fun i => rails.any fun r => r.rail == i && r.answer == some 0
    .next (clearRailCauses { s with power := { s.power with alert := s.power.alert && !quiet } })

/-- POWER_CALIBRATION, every 10 ms: the READ_POUT against which the estimate is calibrated (R484). -/
def execPowerCalibration (readPoutW : Nat) (s : State) : Host.Outcome State Fault Refusal :=
  let s : State := { s with out := [] }
  if !isReady s ∨ s.clock.wall < s.power.calAt + msWall 10 then .next s
  else .next { s with power := { s.power with calibrated := readPoutW, calAt := s.clock.wall } }

/-! ## The policy (R484, R485) -/

/-- The lowest F that the policy may step to: 16, or F_MIN in a locked group. -/
def lowestF (s : State) : Nat :=
  match member s with
  | some g => max 16 g.fMin
  | none => 16

/-- Whether an evaluation must lower F (R484). -/
def mustLower (s : State) (x : Sensors) : Bool :=
  decide (powerLimit s < x.windowW) || decide (16 * targetC s < ((x.temps.take 72).foldl max 0)) || !s.power.dramHot.isEmpty

/-- Whether an evaluation is to raise F, but for the regulators (R484). -/
def mayRaise (s : State) (x : Sensors) : Bool :=
  decide (fNow s < fMax s) && decide (x.windowW + regF s oPwrLimit 7 0 ≤ powerLimit s)
    && decide (((x.temps.take 72).foldl max 0) + 32 ≤ 16 * targetC s) && s.power.dramHot.isEmpty

/-- A change of F by the policy is counted. -/
def countF (s : State) (f : Nat) (t : State) : State := if fNow t = f ∧ fNow s ≠ f then regCount t oPwrEvents 31 16 1 else t

/-- What the policy does at an evaluation outside LIMITED. -/
def policy (s : State) (x : Sensors) : State :=
  if mustLower s x then
    if fNow s ≤ lowestF s then phaseOfPasses (enterLimited (setCause s 3 true) (setCause s 3 true).power.causes)
    else countF s (fNow s - 1) (lowerF s (fNow s - 1))
  else if mayRaise s x then countF s (fNow s + 1) (raiseF s (fNow s + 1) x.settled)
  else s

/-- POWER_EVALUATION, at every 16th boundary counted from reset, with the readings of the ending 16 beats. -/
def execPowerEvaluation (x : Sensors) (s : State) : Host.Outcome State Fault Refusal :=
  let s : State := { s with out := [] }
  if !standsAtBoundary s ∨ s.beats = 0 ∨ s.beats % 16 ≠ 0 ∨ s.power.evals = s.beats / 16 then .next s
  else
    let excess := decide (powerLimit s < x.windowW)
    let s : State := { s with power := { s.power with
      evals := s.beats / 16, estimate := x.windowW
      response := if excess then some (s.power.response.getD s.beats) else none } }
    let s := regSetF s oPwrPower 15 0 (min 65535 x.windowW)
    .next (onBoundary s fun s => if s.power.phase = .limited then s else policy s x)

/-- LIMITED_EXIT: at the first boundary at which every recorded cause has been clear for 1 s of wall time (R483). -/
def execLimitedExit (s : State) : Host.Outcome State Fault Refusal :=
  let s : State := { s with out := [] }
  match s.power.phase, s.power.clearSince with
  | .limited, some t =>
    if standsAtBoundary s ∧ causesNow s = 0 ∧ t + 1000000000 ≤ s.clock.wall then
      let s : State := { s with power := { s.power with phase := .idle, recorded := 0, clearSince := none } }
      .next (retakeSnap (phaseOfPasses (floorF (enterRamp s))))
    else .next s
  | _, _ => .next s

/-- RAMP_MODE_END, at a boundary (R122): RAMP mode has lasted its beats (R78); a DIAG_RUN keeps it. -/
def execRampModeEnd (s : State) : Host.Outcome State Fault Refusal :=
  let s : State := { s with out := [] }
  match s.power.rampUntil with
  | some b =>
    if s.power.ramp ∧ standsAtBoundary s ∧ b ≤ s.beats ∧ s.diag.isNone then
      .next { s with power := { s.power with ramp := false, rampUntil := none }, snap := { s.snap with ramp := false } }
    else .next s
  | none => .next s

/-! ## Scrubbing, patrol, refresh -/

/-- VOTE_SCRUB, every 1 ms of wall time: every voted field is read (R455 to R457). What the hardware uses of a field is a read too,
but the model votes at a read of the register by software and at the scrub (DESIGN CHOICE, assumption 111). -/
def execVoteScrub (s : State) : Host.Outcome State Fault Refusal :=
  let s : State := { s with out := [] }
  if !firmwareRuns s ∨ s.clock.wall < s.power.scrubAt + msWall 1 then .next s
  else
    let s : State := { s with power := { s.power with scrubAt := s.clock.wall } }
    .next ((s.votes.map (·.offset)).dedup.foldl voteFix s)

/-- PATROL of a stack, every 86,400 s of device time: what it reads in error is corrected, counted and poisoned like
any other read (R254, R255, R257). -/
def execPatrol (stack : Nat) (finds : List EccFind) (s : State) : Host.Outcome State Fault Refusal :=
  let s : State := { s with out := [] }
  let due := (sfind s.power.patrols stack).getD 0 + 86400 * secondDt
  if !beatsRun s ∨ 8 ≤ stack ∨ s.clock.dt < due then .next s
  else
    let s : State := { s with power := { s.power with patrols := sput s.power.patrols stack s.clock.dt } }
    let mine := finds.filter fun f => decide (f.addr < 0x10000000000) && stackOf f.addr == stack && !isRetired s f.addr
    .next (mine.foldl eccFind s)

/-- What one die reports: its channel's rate for the next boundary, and a temperature above its limit (R272, R273). -/
def readDie (s : State) (d : DieStatus) : State :=
  let c := 16 * d.stack + d.channel
  let s : State := if d.rate = 3 then s else { s with refresh := sput s.refresh c d.rate }
  if d.overLimit then
    let s : State := { s with power := { s.power with dramHot := s.power.dramHot.filter (· != c) ++ [c] } }
    notice (logEvent s 0x0103 (unitOf 10 (72 + c)) none [BitVec.ofNat 8 (min 255 d.tempC)]) 4
  else { s with power := { s.power with dramHot := s.power.dramHot.filter (· != c) } }

/-- REFRESH_RATE_READ, every 256 beats (R272). -/
def execRefreshRateRead (dies : List DieStatus) (s : State) : Host.Outcome State Fault Refusal :=
  let s : State := { s with out := [] }
  if !beatsRun s ∨ s.beats < s.power.refreshAt + 256 then .next s
  else
    let s : State := { s with power := { s.power with refreshAt := s.beats } }
    .next ((dies.filter fun d => decide (d.stack < 8 ∧ d.channel < 16)).foldl readDie s)

/-- CORRECTION_WRITE_BACK: the QC writes a corrected codeword back (R254). -/
def execCorrectionWriteBack (addr : Nat) (s : State) : Host.Outcome State Fault Refusal :=
  .next { s with out := [], correcting := s.correcting.filter (· != wordAt addr) }

/-! ## The health record (R82, R83, R502) -/

/-- HEALTH_TIME_CHECKPOINT: health time has reached a whole multiple of 3,600 s that the record does not hold (R83). -/
def execHealthTimeCheckpoint (s : State) : Host.Outcome State Fault Refusal :=
  let s : State := { s with out := [] }
  let h := s.clock.health
  let held := s.flash.health.time == h || (s.flash.healthWrite && s.flash.healthNext.time == h)
    || s.flash.healthThen.any (·.time == h)
  if !firmwareRuns s ∨ h = 0 ∨ h % 3600 ≠ 0 ∨ held then .next s else .next (beginHealth s)

/-- HEALTH_RECORD_WRITE_DONE: the record holds what the write began with; a write that waited begins (R82, R502). -/
def execHealthRecordWriteDone (s : State) : Host.Outcome State Fault Refusal :=
  let s : State := { s with out := [] }
  if !s.flash.healthWrite then .next s
  else
    let f := s.flash
    let f : Flash := { f with health := f.healthNext }
    .next { s with flash := match f.healthThen with
      | some h => { f with healthNext := h, healthThen := none }
      | none => { f with healthWrite := false } }

end Sys2Proof.Machine
end

