-- ==== Sys2Proof/Machine/Diag.lean ====
section
/-! DEFINITION. DIAG_RUN: its checks, one row a test, and what its end leaves (R514 to R522, R525). -/

namespace Sys2Proof.Machine

open Sys2Proof

/-- How many targets a test's index space holds (R516). -/
def diagSpace (test : Nat) : Nat :=
  match test with
  | 1 | 2 => 256
  | 3 | 5 => 128
  | 4 | 6 | 7 => 8
  | 8 => 4
  | _ => 0

/-- The fields of DIAG_RUN (R514). -/
def diagOf (p : Packet) : DiagRun :=
  let f := field p.params
  { test := f 0 1, pattern := f 1 1, port := f 2 1, mode := f 3 1, first := f 4 2, count := f 6 2, iters := f 8 4
    base := f 16 8, size := f 24 8, p := p }

/-- Reserved fields zero, fields within range, targets inside the index space (R514, R515). -/
def diagFields (p : Packet) : Bool :=
  let d := diagOf p
  let ms := field p.params 32 4
  let memory := d.test == 5
  let serdes := d.test == 6
  decide (1 ≤ d.test ∧ d.test ≤ 8) && zeroAt p.params 12 4 && zeroAt p.params 36 12
    && decide (1 ≤ d.count ∧ d.first + d.count ≤ diagSpace d.test ∧ 1 ≤ d.iters ∧ d.iters ≤ 65535)
    && (if memory then decide (d.pattern ≤ 3 ∧ d.base < 0x10000000000 ∧ d.base % 0x100000 = 0 ∧ d.size ≠ 0 ∧ d.size % 0x100000 = 0)
        else decide (d.pattern = 0 ∧ d.base = 0 ∧ d.size = 0))
    && (if serdes then decide (d.port ≤ 1 ∧ d.mode ≤ 5 ∧ 1 ≤ ms ∧ ms ≤ 60000) else decide (d.port = 0 ∧ d.mode = 0 ∧ ms = 0))
    && (!memory || (decide (d.first / 16 = stackOf d.base) && decide ((d.first + d.count - 1) / 16 = stackOf d.base)))

/-- Whether a span, given through either view, reaches a 1 MiB-aligned range of the linear view. -/
def spanReaches (source size base n : Nat) : Bool :=
  decide (0 < size) && (spanProbes source size).any fun a => decide (base ≤ linearOf a ∧ linearOf a < base + n)

/-- Whether two ranges of linear addresses meet. -/
def rangesMeet (a n b m : Nat) : Bool := decide (a < b + m ∧ b < a + n)

/-- Whether a MEMORY test may use a range (R515). -/
def memoryFree (s : State) (base size : Nat) : Bool :=
  decide (stackOf base = stackOf (base + size - 1)) && decide (base + size ≤ 0x10000000000)
    && (List.range (size / 0x100000)).all (fun i => !isRetired s (base + i * 0x100000))
    && s.images.all (fun i => !spanReaches i.source i.size base size)
    && s.pages.all (fun p => p.state == .dropped || p.state == .free
        || (!rangesMeet p.slot (p.granules * 0x10000) base size
            && !p.slot2.any fun y => rangesMeet y.1 (y.2 * 0x10000) base size))
    && s.streams.all fun x => !spanReaches x.workBase x.workSize base size

/-- DIAG_RUN (R515): the checks in order, then ACCEPTED; the test begins at the next boundary. -/
def cmdDiag (_ : Who) (p : Packet) (s : State) : Ans :=
  let d := diagOf p
  if !diagFields p then refuse s .badParam
  else if d.test = 5 ∧ !memoryFree s d.base d.size then refuse s .badParam
  else if s.diag.isSome ∨ s.flash.stage.isSome ∨ s.flash.commit.isSome ∨ workPresent s ∨ s.power.phase = .standby
      ∨ s.power.phase = .limited then refuse s .busy
  else if d.test = 6 ∧ s.sessions.any (fun y => y.2.port == d.port && !y.2.closed) then refuse s .busy
  else if !ringFree s p then refuse s .busy
  else accepted { s with diag := some d } p

/-! ## The end of a test (R517, R518) -/

/-- UNIT of a target (R516, R523). -/
def diagUnit (d : DiagRun) (i : Nat) : BitVec 16 :=
  match d.test with
  | 1 | 2 => unitOf 1 i
  | 3 => unitOf 2 i
  | 4 => unitOf 5 i
  | 5 => unitOf 3 i
  | 6 => unitOf 6 (8 * d.port + i)
  | 7 => unitOf 7 i
  | _ => unitOf 11 i

/-- The outcome that a test reports for a target; one it does not list has passed. -/
def diagResult (results : List DiagTarget) (i : Nat) : DiagTarget :=
  (results.find? (·.target == i)).getD { target := i }

/-- Codewords that a target's reads corrected, and those that could not be corrected. -/
def correctedIn (r : DiagTarget) : Nat := (r.finds.filter fun f => match rsDecode (errorWord f.flips) with
  | .corrected _ => true
  | _ => false).length
def uncorrectableIn (r : DiagTarget) : Nat := (r.finds.filter fun f => rsDecode (errorWord f.flips) == .uncorrectable).length

/-- Whether a target failed: by miscompared words or uncorrectable codewords in MEMORY (R519), by bit errors or loss of
lock in the modes of SERDES that check (R520). -/
def diagFailed (d : DiagRun) (r : DiagTarget) : Bool :=
  match d.test with
  | 5 => decide (0 < r.errors) || decide (0 < uncorrectableIn r)
  | 6 => (d.mode == 1 || d.mode == 3 || d.mode == 4) && (decide (0 < r.errors) || !r.locked)
  | _ => r.bad

/-- The errors that count in ERRORS. -/
def diagErrors (d : DiagRun) (r : DiagTarget) : Nat :=
  if d.test = 6 ∧ !(d.mode = 1 ∨ d.mode = 3 ∨ d.mode = 4) then 0 else r.errors

/-- What a failed target brings (R518). -/
def diagFail (d : DiagRun) (s : State) (r : DiagTarget) : State :=
  let i := r.target
  let s := logEvent s 0x0205 (diagUnit d i) none
    ([BitVec.ofNat 8 d.test, 0] ++ toLE (min 0xFFFFFFFF (diagErrors d r)) 4 ++ toLE r.firstBad 4)
  match d.test with
  | 1 | 2 => fenceEngine (regSetF s (oEng i + 0x10) 23 20 r.failedArrays.toNat) i 2
  | 3 =>
    let st := i / 16
    let mask := (sfind s.calNext st).getD (BitVec.ofNat 16 (regF s (oCal st + 0x10) 15 0))
    let s := regSetF s (oCal st + 0x10) (16 + i % 16) (16 + i % 16) 1
    calFenceSet { s with unitCause := sput s.unitCause i 2 } st (mask ||| BitVec.ofNat 16 (2 ^ (i % 16)))
  | 4 => beginHealth (regSetF { s with codecNext := s.codecNext ++ [i] } oVidFence (8 + i) (8 + i) 1)
  | 7 | 8 => notice s 8
  | _ => s

/-- What a target that passes brings: its FAILED bits clear, and its fence may be lifted (R87, R518). -/
def diagPass (d : DiagRun) (s : State) (i : Nat) : State :=
  match d.test with
  | 1 => engSet (regSetF s (oEng i + 0x10) 23 20 0) i { engGet s i with passArray := true }
  | 2 => engSet (regSetF s (oEng i + 0x10) 23 20 0) i { engGet s i with passSram := true }
  | 3 => { regSetF s (oCal (i / 16) + 0x10) (16 + i % 16) (16 + i % 16) 0 with unitPass := (s.unitPass ++ [i]).dedup }
  | 4 => { regSetF s oVidFence (8 + i) (8 + i) 0 with codecPass := (s.codecPass ++ [i]).dedup }
  | _ => s

/-- One target's outcome. -/
def diagTarget (d : DiagRun) (results : List DiagTarget) (s : State) (i : Nat) : State :=
  let r := { diagResult results i with target := i }
  let s := r.finds.foldl eccFind s
  if diagFailed d r then diagFail d s r else diagPass d s i

/-- The bytes of memory for which `gone` holds become zero, and the poison there ends. -/
def zeroWhere (s : State) (gone : Nat → Bool) : State :=
  { s with
    mem := s.mem.filter fun y => !gone y.1
    poison := s.poison.filter fun w => !gone w
    taint := s.taint.filter fun w => !gone w
    soft := s.soft.filter fun w => !gone w }

/-- The engines whose SRAM a test leaves zero (R516). -/
def diagEngines (d : DiagRun) : List Nat :=
  match d.test with
  | 1 | 2 => d.targets
  | 8 => d.targets.flatMap fun q => (List.range 64).map (64 * q + ·)
  | _ => []

/-- Whether a linear address is in AB, AM or WS of one of the engines. -/
def inWindows (es : List Nat) (a : Nat) : Bool :=
  match regionOf a with
  | .ab e | .am e | .ws e => es.contains e
  | _ => false

/-- The Instruction Stores of engines are written anew (R516, R518): no word of theirs keeps an error (R66). -/
def isRestored (s : State) (es : List Nat) : State :=
  let here (a : Nat) : Bool := match regionOf a with
    | .is e => es.contains e
    | _ => false
  { s with poison := s.poison.filter fun w => !here w, soft := s.soft.filter fun w => !here w }

/-- What a test leaves behind (R516, R518, R520). -/
def diagLeaves (d : DiagRun) (s : State) : State :=
  match d.test with
  | 1 | 2 | 8 => checkImages (isRestored (zeroWhere s (inWindows (diagEngines d))) (diagEngines d))
  | 5 => zeroWhere s fun a =>
      decide (d.base ≤ a ∧ a < d.base + d.size) && d.targets.contains (16 * stackOf a + channelOf a)
  | 6 => retrainPort s d.port (activeMode s d.port)
  | _ => s

/-- The records of selectors 5 and 6 (R519, R520). -/
def diagRecords (d : DiagRun) (results : List DiagTarget) (s : State) : State :=
  match d.test with
  | 5 => { s with diagLog := { s.diagLog with channels := d.targets.map fun i =>
      let r := diagResult results i
      (i, r.errors, correctedIn r, uncorrectableIn r) } }
  | 6 => { s with diagLog := { s.diagLog with lanes := d.targets.map fun i =>
      let r := diagResult results i
      (i, r.locked, diagErrors d r) } }
  | _ => s

/-- The RESULT of the entry (R517). -/
def diagReport (d : DiagRun) (results : List DiagTarget) (first : BitVec 32) (elapsedUs : Nat) : Bytes :=
  let failed := d.targets.filter fun i => diagFailed d (diagResult results i)
  let unit := (failed.head?.map (diagUnit d)).getD 0xFFFF
  toLE d.targets.length 2 ++ toLE failed.length 2 ++ toLE 0 4
    ++ toLE ((d.targets.map fun i => diagErrors d (diagResult results i)).sum) 8
    ++ toLE unit.toNat 2 ++ toLE 0 2 ++ toLE (if failed.isEmpty then 0xFFFFFFFF else first.toNat) 4 ++ toLE elapsedUs 8

/-- The sequence number of the first self-test record logged from `seq` on. -/
def firstFailure (s : State) (seq : BitVec 32) : BitVec 32 :=
  ((s.events.filter fun e => e.code == 0x205 && serialGe e.seq seq).getLast?.map (·.seq)).getD 0xFFFFFFFF

/-- DIAG_TEST_COMPLETE: failures logged and acted on, what the test leaves, the registers, the entry. RAMP mode ends at
the next boundary at the earliest (R78). -/
def execDiagTestComplete (results : List DiagTarget) (elapsedUs : Nat) (s : State) : Host.Outcome State Fault Refusal :=
  let s : State := { s with out := [] }
  match s.diag with
  | none => .next s
  | some d =>
    if !d.started then .next s
    else
      let seq := s.nextSeq
      let s := d.targets.foldl (diagTarget d results) s
      let s := diagRecords d results (diagLeaves d s)
      let failed := (d.targets.filter fun i => diagFailed d (diagResult results i)).length
      let s := regSet s oDiagStatus (BitVec.ofNat 32 (d.test * 2 ^ 16 + 100))
      let s := regSet s oDiagLast (BitVec.ofNat 32 (d.targets.length * 2 ^ 16 + failed))
      let s : State := { s with
        diag := none
        power := { s.power with rampUntil := some (max (s.power.rampUntil.getD 0) (s.beats + 1)) } }
      .next (postEntry s d.p 0xA0 .ok (diagReport d results (firstFailure s seq) elapsedUs))

end Sys2Proof.Machine
end

