-- ==== Sys2Proof/Machine/Groups.lean ====
section
/-! DEFINITION. Locked groups: GROUP_JOIN and GROUP_LEAVE (R295, R296, R418, R419, R423), the start of a group beat
(R297, R302), slip notices (R300, R301), the hold limit (R305). -/

namespace Sys2Proof.Machine

open Sys2Proof

/-! ## GROUP_JOIN (R296, R418, R419) -/

/-- P of a timing record in units of 2^-16 ns. -/
def recordPeriod (b : Bytes) : Nat := field b 12 4 * 65536 + field b 16 2

/-- The epoch of a timing record in units of 2^-32 ns. -/
def recordEpoch (b : Bytes) : Nat := (field b 0 8 * 1000000000 + field b 8 4) * 2 ^ 32

/-- The fields of a timing record (first check of R296). -/
def recordOk (b : Bytes) : Bool :=
  decide (field b 0 8 < 2 ^ 48) && decide (field b 8 4 ≤ 999999999)
    && decide (16 ≤ field b 18 1 ∧ field b 18 1 ≤ 32) && decide (2 ≤ field b 19 1 ∧ field b 19 1 ≤ 32)
    && decide (2 ≤ field b 20 1 ∧ field b 20 1 ≤ 64) && decide (field b 21 1 < field b 20 1)
    && zeroAt b 22 2 && zeroAt b 40 24

/-- LOCKED by PTP, in TB_CTRL.DOMAIN, to the record's grandmaster, in PTP octet order (R295; second check of R296). -/
def groupTimeOk (s : State) (b : Bytes) : Bool :=
  s.disc.state == .locked && regF s oTbCtrl 1 0 == 1
    && s.disc.master.any fun m => m.domain.toNat == regF s oTbCtrl 15 8 && m.gm == BitVec.ofNat 64 (beNat (slice b 24 8))

/-- A 4 KiB-aligned range of general hub SRAM. -/
def hubRange (a n : Nat) : Bool := a % 4096 == 0 && regionOf a == .hubGeneral && regionOf (a + n - 1) == .hubGeneral

/-- The members of a group other than this device. -/
def otherMembers (b : Bytes) : List Nat := (List.range (field b 20 1)).filter (· != field b 21 1)

/-- The slip ring: in place, and writable by every member under the protection map (last check of R296). -/
def slipRingOk (s : State) (b : Bytes) : Bool :=
  let a := field b 32 8
  hubRange a 32768 && (otherMembers b).all fun j =>
    protAllows s .peer (4095 - j) ((List.range 8).map fun k => a + 4096 * k) false true

/-- The offset of member j's table entry. -/
def memberOff (j : Nat) : Nat := 80 + 32 * j

/-- The member table's fields, the control block and this device's interface (R419). -/
def memberTableOk (s : State) (b : Bytes) : Bool :=
  let js := List.range (field b 20 1)
  let own := field b (memberOff (field b 21 1) + 2) 1
  zeroAt b 76 4 && hubRange (field b 64 8) 4096
    && (js.map fun j => field b (memberOff j) 2).Nodup
    && js.all (fun j =>
      let o := memberOff j
      field b o 2 != 0xFFFF && decide (field b (o + 2) 1 < 8) && (field b (o + 3) 1 == 4 || field b (o + 3) 1 == 6)
        && zeroAt b (o + 6) 2 && zeroAt b (o + 24) 8 && (field b (o + 3) 1 == 6 || zeroAt b (o + 12) 12))
    && ifaceUp s (own / 4) (own % 4)

/-- The group that a join makes. -/
def groupOf (b : Bytes) (p : Packet) : Group :=
  { epoch := recordEpoch b, period := recordPeriod b, fMin := field b 18 1, delay := field b 19 1, members := field b 20 1
    index := field b 21 1, gm := BitVec.ofNat 64 (beNat (slice b 24 8)), ring := field b 32 8, block := field b 64 8
    nodes := (List.range (field b 20 1)).map fun j => BitVec.ofNat 16 (field b (memberOff j) 2), p := p }

/-- The peer of table entry j: its address and UDP port. -/
def memberAddr (b : Bytes) (j : Nat) : Nat :=
  let o := memberOff j
  if field b (o + 3) 1 = 4 then beNat (slice b (o + 8) 4) else beNat (slice b (o + 8) 16)

/-- One half of the traffic with member j, with PSN 0 in both directions (R419). -/
def peerHalf (s : State) (own addr udp window credits : Nat) : Session :=
  { cls := .peer, port := own / 4, iface := own % 4, addr := addr, udp := udp, ownPort := utxPort s, window := window
    segment := segmentOf s (own / 4), expect := 0, nakFor := none, grant := BitVec.ofNat 32 window, held := 0, nextPsn := 0
    kept := [], ackSent := 0, grantSent := BitVec.ofNat 32 window, ackSince := none, accepted := 0, ackNow := false
    timeouts := 0, rtoNs := rtoInitial s, timerAt := s.clock.dt, ringAck := 0, doneSeq := 0, ring := [], reserved := 0
    slipSeen := false, holdSeen := false, peerGrant := BitVec.ofNat 32 credits, peerUsed := 0 }

/-- Opens the PEER session of member j, and the half that carries this device's REQs to it in the session that member j
opens; enters it in the node table. -/
def openPeer (b : Bytes) (s : State) (j : Nat) : State :=
  let own := field b (memberOff (field b 21 1) + 2) 1
  let credits := field b 72 4
  let addr := memberAddr b j
  let udp := field b (memberOff j + 4) 2
  let s := sessSet s (4095 - j) (peerHalf s own addr udp credits 0)
  let s := sessSet s (4096 + j) (peerHalf s own addr udp 0 credits)
  { s with nodes := s.nodes ++ [{ id := BitVec.ofNat 16 (field b (memberOff j) 2), port := own / 4, iface := own % 4
                                  addr := addr, udp := udp, session := some (4096 + j), member := j }] }

/-- Memory with a range of hub SRAM zeroed: an unlisted byte reads 0x00. -/
def zeroRange (s : State) (a n : Nat) : State := { s with mem := s.mem.filter fun y => !decide (a ≤ y.1 ∧ y.1 < a + n) }

/-- GROUP_JOIN. -/
def cmdGroupJoin (_ : Who) (p : Packet) (s : State) : Ans :=
  let b := p.params
  let others := otherMembers b
  if s.group.isSome then refuse s .busy
  else if !recordOk b then refuse s .badParam
  else if !groupTimeOk s b then refuse s .timeUnlocked
  else if recordPeriod b * field b 18 1 < 65536 * 65536 then refuse s .badParam
  else if recordEpoch b < s.clock.dt + usDt 1000 then refuse s .badParam
  else if !slipRingOk s b ∨ !memberTableOk s b then refuse s .badParam
  else if others.any (fun j => (sfind s.sessions (4095 - j)).isSome || s.reservations.any fun r => r.session == 4095 - j) then
    refuse s .busy
  else if ungranted s < others.length * field b 72 4 then refuse s .noCredit
  else if !ringFree s p then refuse s .busy
  else
    let s : State := { s with group := some (groupOf b p), node := some (BitVec.ofNat 16 (field b (memberOff (field b 21 1)) 2)) }
    let s := others.foldl (openPeer b) s
    accepted (zeroRange (zeroRange s (field b 64 8) 4096) (field b 32 8) 32768) p

/-! ## GROUP_LEAVE (R423) -/

/-- GROUP_LEAVE. -/
def cmdGroupLeave (_ : Who) (p : Packet) (s : State) : Ans :=
  match member s with
  | none => refuse s .badParam
  | some g =>
    if hasGroupJob s ∨ g.leaving.isSome ∨ !ringFree s p then refuse s .busy
    else accepted { s with group := some { g with leaving := some p } } p

/-- The PEER sessions. -/
def peerSessions (s : State) : List (Nat × Session) := s.sessions.filter fun y => y.2.cls == .peer && !y.2.closed

/-- GROUP_LEAVE_COMPLETE: every PEER session has sent its last acknowledgement, or has failed; they close, their windows
return, and the entry is posted. -/
def execGroupLeaveComplete (s : State) : Host.Outcome State Fault Refusal :=
  let s : State := { s with out := [] }
  match s.group with
  | none => .next s
  | some g =>
    if !g.left ∨ !(peerSessions s).all (fun y => y.2.ackSent == y.2.expect) then .next s
    else
      let s := (peerSessions s).foldl (fun s y => closeSession s y.1) { s with group := none }
      .next (match g.leaving with
        | some p => postEntry s p 0xF1 .ok []
        | none => s)

/-! ## Group beats (R297, R302) -/

/-- The member whose word asks for the most periods for a target, the lowest of several. -/
def slipMember (s : State) (g : Group) (t k : Nat) : Nat :=
  ((List.range g.members).find? fun i => wordIn s (slipAddr g t i) == (t, k)).getD 0

/-- The slips that a start decision for the next beat applies: those of targets up to it (R302). -/
def dueSlips (s : State) (g : Group) : List (Nat × Nat) := (openSlips s g).filter fun y => decide (y.1 ≤ g.beat)

/-- Slips are applied: counted, shown in FLAGS bit 0, the late ones logged (R302, R303). -/
def applySlips (s : State) (g : Group) : State :=
  let due := dueSlips s g
  let sum := (due.map (·.2)).sum
  if due.isEmpty then s
  else
    let s := (due.filter fun y => decide (y.1 < g.beat)).foldl (fun s (t, k) =>
      logEvent s 0x0304 (unitOf 0 0) none ([BitVec.ofNat 8 (slipMember s g t k), 0] ++ toLE t 8)) s
    let s := regCount s oTbGroup 15 0 sum
    { s with counters := { s.counters with slips := s.counters.slips + sum }
             sessions := s.sessions.map fun (n, x) => (n, { x with slipSeen := true })
             group := some { g with sigma := g.sigma + sum, applied := g.applied ++ due.map (·.1) } }

/-- The wait before a group beat was a scheduled gap: every array of a pass has come back to density 32 at the first cycle of the
beat (R79, R298). -/
def waitFilled (s : State) : State :=
  (s.passes.flatMap (·.engines)).foldl (fun s e =>
    let x := engGet s e
    engSet s e { x with arrays := x.arrays.map fun a => { a with cast := some (s.beats * 4096 - 1) } }) s

/-- GROUP_BEAT_START: beat m starts once its boundary has occurred and DT has reached T_m with the slips applied to it. -/
def execGroupBeatStart (s : State) : Host.Outcome State Fault Refusal :=
  let s : State := { s with out := [] }
  match member s with
  | none => .next s
  | some g =>
    if !g.atBoundary ∨ s.clock.dt < startTime g g.beat (g.sigma + ((dueSlips s g).map (·.2)).sum) then .next s
    else
      let s := applySlips s g
      let s := if stampOf s.clock.dt = s.snap.stampDt then s else waitFilled s
      .next { s with group := s.group.map fun g => { g with atBoundary := false } }

/-- SLIP_NOTICE at instant τ_j for beat m, the one after the beat that runs: the member that has not reached its boundary
asks for j + 1 periods, unless the outstanding slips already cover them (R301). From j = 255 on, where the count no longer fits its
field of 8 bits, no notice is sent (DESIGN CHOICE, assumption 104). -/
def execSlipNotice (j : Nat) (s : State) : Host.Outcome State Fault Refusal :=
  let s : State := { s with out := [] }
  match member s with
  | none => .next s
  | some g =>
    let m := g.beat + 1
    if g.atBoundary ∨ s.clock.dt < startTime g (m + j) g.sigma ∨ j < ((openSlips s g).map (·.2)).sum ∨ 255 ≤ j then .next s
    else .next (memberWrite s g (slipAddr g (m + g.delay) g.index) (groupWord (m + g.delay) (j + 1)))

/-! ## The hold limit (R305) -/

/-- Whether an engine has held at an ARRIVE of a member for longer than HOLD_LIMIT_MS. -/
def heldTooLong (s : State) (e m : Nat) : Bool :=
  let x := engGet s e
  let limit := usDt (1000 * max 1 (regF s oTbGroupHold 15 0))
  x.holding.isSome && decide (x.holdAt + limit < s.clock.dt)
    && x.arrivals.any fun y => y.remote && y.source == m && y.dueBeat == 0 && y.tag.any fun t => x.holdMask.getLsbD t.toNat

/-- An engine abandons the rest of its beat (R305): what it has held so far stays its hold (R121). -/
def abandon (s : State) (e : Nat) : State :=
  let x := engGet s e
  engSet s e { x with abandoned := true, hold := if isHeld x then x.hold + max 1 (heldCycles s e) else x.hold, holding := none, arrivals := [] }

/-- GROUP_HOLD_LIMIT: the group job's engines stop for the rest of the beat, and the job fails at the boundary. -/
def execGroupHoldLimit (engine member_ : Nat) (s : State) : Host.Outcome State Fault Refusal :=
  let s : State := { s with out := [] }
  match member s, runOf s engine with
  | some g, some r =>
    if r.img.members = 0 ∨ !heldTooLong s engine member_ then .next s
    else
      let s := logEvent s 0x0304 (unitOf 1 engine) ((jobsOf s r).head?.map (·.num))
        ([BitVec.ofNat 8 member_, 0] ++ toLE g.beat 8)
      let s := r.pass.engines.foldl abandon s
      .next (failAll s r .internal)
  | _, _ => .next s

end Sys2Proof.Machine
end

