-- ==== Sys2Proof/Machine/Time.lean ====
section
/-! DEFINITION. The time base: PTP and PPS_IN, samples, the time states, PPS_OUT (R287 to R292, R310, R339). -/

namespace Sys2Proof.Machine

open Sys2Proof

/-! ## Samples (R289, R290) -/

/-- A number of nanoseconds in units of 2^-32 ns. -/
def nsDt (n : Int) : Int := n * 2 ^ 32

/-- A slew: the discipline's increment for the sample, within its bounds. -/
def slewBy (s : State) (off : Int) : State := setInc s (boundInc s s.disc.state (Config.slew s.clock.inc off))

/-- A step of DT to the reference, counted and logged. Stamps taken before it no longer serve. -/
def stepBy (s : State) (off : Int) : State :=
  let s : State := { s with
    clock := { s.clock with dt := ((s.clock.dt : Int) - off).toNat }
    disc := { s.disc with sync := none, lastSync := none, delayReq := none } }
  let ns : Int := off / 2 ^ 32
  logEvent (regCount s oTbPtp 31 16 1) 0x0402 (unitOf 0 0) none (toLE (ns % 2 ^ 64).toNat 8)

/-- TB_OFFSET: whole nanoseconds, signed, saturating (R311); a fraction is rounded down (DESIGN CHOICE, assumption 104). -/
def offsetWord (off : Int) : Word :=
  let ns := off / 2 ^ 32
  BitVec.ofInt 32 (max (-(2 ^ 31)) (min (2 ^ 31 - 1) ns))

/-- Whether an offset's magnitude exceeds n nanoseconds. -/
def beyond (off : Int) (n : Nat) : Bool := decide (n * 2 ^ 32 < off.natAbs)

/-- LOCKED is reached: a start-up that waited in stage 6 is ready (R491). -/
def reachLocked (s : State) : State :=
  let s := setTime s .locked
  if s.power.phase = .starting then deviceReady s else s

/-- The count of samples within LOCK_NS and beyond UNLOCK_NS, and the transitions they bring (R290). -/
def countSample (s : State) (off : Int) : State :=
  let good := if beyond off (regF s oTbLock 15 0) then 0 else s.disc.good + 1
  let bad := if beyond off (regF s oTbLock 31 16) then s.disc.bad + 1 else 0
  let s : State := { s with disc := { s.disc with good := good, bad := bad } }
  if s.disc.state = .acquiring ∧ 16 ≤ good then reachLocked s
  else if s.disc.state = .locked ∧ 4 ≤ bad then setTime s .acquiring
  else s

/-- The discipline acts on a sample: DT less the reference (R289, R290). -/
def takeSample (s : State) (off : Int) : State :=
  let s := if s.disc.state = .free ∨ s.disc.state = .holdover then setTime s .acquiring else s
  let s := regSet s oTbOffset (offsetWord off)
  let s := if s.disc.state = .acquiring ∧ beyond off 1000000 ∧ (member s).isNone then stepBy s off else slewBy s off
  countSample s off

/-- A loss of reference (R290). -/
def loseReference (s : State) : State :=
  let limit := regF s oTbHoldover 31 0 * secondDt
  match s.disc.state with
  | .locked => setTime s .holdover
  | .acquiring =>
    if s.disc.lockedAt.any (fun t => decide (s.clock.dt ≤ t + limit)) then setTime s .holdover else setTime s .free
  | _ => s

/-! ## PTP (R288, R339) -/

/-- Whether the time port of a physical port listens: SOURCE 1, interface 0 up, the message's domain (R288). -/
def ptpListens (s : State) (port : Nat) (domain : Byte) : Bool :=
  linkRuns s && regF s oTbCtrl 1 0 == 1 && decide (port < 2) && ifaceUp s port 0 && regF s oTbCtrl 15 8 == domain.toNat

/-- Whether a message comes from the chosen master, on the time port. -/
def fromMaster (s : State) (port : Nat) (source : BitVec 64) : Bool :=
  s.disc.master.any fun a => a.port == port && a.source == source

/-- The receive timestamp: DT as the frame crosses the PCS, less the fixed latency that it has behind it, with the owner's
correction (R339; DEDUCED that the latency of a received frame is taken off and that of a sent one put on, assumption 87). -/
def receiveStamp (s : State) (port : Nat) : Int :=
  (s.clock.dt : Int) - (Config.pmaLatency (activeMode s port) false : Int) + nsDt (signed 16 (regF s (oEth port + 0x40) 15 0))

/-- The send timestamp: DT with the fixed latency that the frame has before it (R339). -/
def sendStamp (s : State) (port : Nat) : Nat := s.clock.dt + Config.pmaLatency (activeMode s port) true

/-- The timestamp that a message carries, in units of 2^-32 ns. -/
def stampIn (m : PtpMsg) : Int := nsDt (m.tsSec * 1000000000 + m.tsNs)

/-- A PTP message that the time port does not act on is still a frame that an up interface 0 accepts and counts
(R366). -/
def ptpUnheard (s : State) (port : Nat) : State :=
  if linkRuns s && decide (port < 2) && ifaceUp s port 0 then chargeReserve s port 1 id else s

/-- How many Sync messages a port has taken in the present second of DT. -/
def syncsIn (s : State) (port : Nat) : Nat :=
  ((s.disc.syncs.find? fun y => y.1 == port && y.2.1 == dtSec s).map (·.2.2)).getD 0

/-- One more Sync in this second. -/
def countSync (s : State) (port : Nat) : State :=
  let n := syncsIn s port + 1
  { s with disc := { s.disc with syncs := s.disc.syncs.filter (fun y => y.1 != port) ++ [(port, dtSec s, n)] } }

/-- A Sync's send and receive times are known: a sample, when the delay measurement is complete (R289). -/
def completeSync (s : State) (t1 t2 : Int) : State :=
  let s : State := { s with disc := { s.disc with lastSync := some (t1, t2), sync := none, formed := false } }
  match s.disc.delay with
  | some d => takeSample { s with disc := { s.disc with formed := true } } (t2 - t1 - d)
  | none => s

/-- Whether interface 0 of a port speaks the IP version of a PTP message (R335). -/
def ptpIpOn (s : State) (port : Nat) (ip : Option Bool) : Bool := ip.all fun v6 => ownIp s port 0 v6 != 0

/-- The IP version of a transport of PTP; none for EtherType 0x88F7 (R288). -/
def transportIp (t : PtpTransport) : Option Bool :=
  match t with
  | .ipv4 => some false
  | .ipv6 => some true
  | .ethernet => none

/-- What a PTP message does that the time port hears; the reserve pays for its frame (R356). One in an IP version that the interface
does not speak is dropped and counted (R335). -/
def ptpTake (s : State) (port : Nat) (domain : Byte) (ip : Option Bool) (use : State → State) : State :=
  let s : State := { s with out := [] }
  if !ptpIpOn s port ip then (if linkRuns s && decide (port < 2) && ifaceUp s port 0 then filterFrame s port else s)
  else if !ptpListens s port domain then ptpUnheard s port else chargeReserve s port 1 use

/-- A Sync: at most 128 in a second of DT on a port (R310); a two-step Sync waits for its Follow_Up (R288). -/
def takeSync (m : PtpMsg) (s : State) : State :=
  if 128 ≤ syncsIn s m.port then regCount s oTbPtp 15 0 1
  else
    let s := countSync s m.port
    if !fromMaster s m.port m.source then s
    else
      let t2 := receiveStamp s m.port
      let s : State := { s with disc := { s.disc with syncAt := s.clock.dt } }
      if m.twoStep then { s with disc := { s.disc with sync := some (m, t2) } }
      else completeSync s (stampIn m + nsDt m.corrNs) t2

/-- PTP_SYNC. -/
def execPtpSync (m : PtpMsg) (s : State) : Host.Outcome State Fault Refusal := .next (ptpTake s m.port m.domain m.ip (takeSync m))

/-- A Follow_Up: the send time of the Sync that waits, when it is that Sync's. -/
def takeFollowUp (m : PtpMsg) (s : State) : State :=
  match s.disc.sync with
  | some (y, t2) =>
    if y.seqId = m.seqId ∧ y.source = m.source ∧ y.port = m.port ∧ fromMaster s m.port m.source then
      completeSync s (stampIn m + nsDt m.corrNs + nsDt y.corrNs) t2
    else s
  | none => s

/-- PTP_FOLLOW_UP. -/
def execPtpFollowUp (m : PtpMsg) (s : State) : Host.Outcome State Fault Refusal :=
  .next (ptpTake s m.port m.domain m.ip (takeFollowUp m))

/-- A Delay_Resp: the mean path delay from the latest Sync and the Delay_Req it answers; the Sync's sample is formed
when it waited for it (R288, R289). -/
def takeDelayResp (m : PtpMsg) (s : State) : State :=
  match s.disc.delayReq, s.disc.lastSync with
  | some (q, t3), some (t1, t2) =>
    if q ≠ m.seqId ∨ !fromMaster s m.port m.source then s
    else
      let t4 := stampIn m - nsDt m.corrNs
      let d := ((t2 - t1) + (t4 - t3)) / 2
      let formed := s.disc.formed
      let s : State := { s with disc := { s.disc with delay := some d, delayReq := none, formed := true } }
      if formed then s else takeSample s (t2 - t1 - d)
  | _, _ => s

/-- PTP_DELAY_RESP. -/
def execPtpDelayResp (m : PtpMsg) (s : State) : Host.Outcome State Fault Refusal :=
  .next (ptpTake s m.port m.domain m.ip (takeDelayResp m))

/-- The order of the best master clock algorithm, as a key (PRESUMED, IEEE 1588-2019; assumption 35). -/
def masterKey (a : PtpAnnounce) : List Nat :=
  [a.priority1, a.clockClass, a.accuracy, a.variance, a.priority2, a.gm.toNat, a.steps, a.source.toNat, a.port]

/-- Whether a key comes first. -/
def keyLt : List Nat → List Nat → Bool
  | a :: t, b :: u => decide (a < b) || (a == b && keyLt t u)
  | _, _ => false

/-- The better of two masters. -/
def betterMaster (a b : PtpAnnounce) : PtpAnnounce := if keyLt (masterKey b) (masterKey a) then b else a

/-- The best of the masters heard within three of their own announce intervals. -/
def bestMaster (s : State) : Option PtpAnnounce :=
  let live := s.disc.masters.filter fun (a, t) => decide (s.clock.dt ≤ t + usDt (3000 * a.intervalMs))
  live.foldl (fun b y => some (match b with | some x => betterMaster x y.1 | none => y.1)) none

/-- The device follows another master: its delay is measured anew, and LOCKED becomes ACQUIRING (R290). -/
def changeMaster (s : State) (a : PtpAnnounce) : State :=
  let had := s.disc.master.isSome
  let s : State := { s with disc := { s.disc with
    master := some a, announceAt := s.clock.dt, syncAt := s.clock.dt, sync := none, lastSync := none
    delayReq := none, delay := none, formed := false } }
  if had ∧ s.disc.state = .locked then setTime s .acquiring else s

/-- An Announce: the masters heard, and the one that the device follows (R288). -/
def takeAnnounce (m : PtpAnnounce) (s : State) : State :=
  let others := s.disc.masters.filter fun (a, _) => !(a.port == m.port && a.source == m.source)
  let s : State := { s with disc := { s.disc with masters := others ++ [(m, s.clock.dt)] } }
  match bestMaster s with
  | none => s
  | some b =>
    if fromMaster s b.port b.source then
      let same := b.port == m.port && b.source == m.source
      { s with disc := { s.disc with master := some b, announceAt := if same then s.clock.dt else s.disc.announceAt } }
    else changeMaster s b

/-- PTP_ANNOUNCE. -/
def execPtpAnnounce (m : PtpAnnounce) (s : State) : Host.Outcome State Fault Refusal :=
  .next (ptpTake s m.port m.domain (transportIp m.transport) (takeAnnounce m))

/-- The interval of Delay_Req messages: 2^k s for the announced k, within the supported 2^−7 s to 2^1 s (R288). A value outside them
acts as the nearest (DESIGN CHOICE, assumption 82). -/
def delayInterval (k : Int) : Nat := secondDt / 128 * 2 ^ (max 0 (min 8 (k + 7))).toNat

/-- DELAY_REQ_SEND, when the interface may send (R337), at the interval that the master announces (R288). -/
def execDelayReqSend (s : State) : Host.Outcome State Fault Refusal :=
  let s : State := { s with out := [] }
  match s.disc.master with
  | none => .next s
  | some a =>
    if !linkRuns s ∨ regF s oTbCtrl 1 0 ≠ 1 ∨ !ifaceUp s a.port 0 ∨ !maySendOn s a.port 0 ∨ !ptpIpOn s a.port (transportIp a.transport) ∨ s.clock.dt < s.disc.delayAt + delayInterval a.delayReqLog then
      .next s
    else
      let q := s.disc.delaySeq + 1
      let s : State := { s with disc := { s.disc with delaySeq := q, delayReq := some (q, sendStamp s a.port), delayAt := s.clock.dt } }
      .next (sendOrHold s a.port 0 (.frame (.delayReq (BitVec.ofNat 8 (regF s oTbCtrl 15 8)) q a.transport)))

/-- ANNOUNCE_TIMEOUT: three announce intervals without an Announce of the chosen master (R290). -/
def execAnnounceTimeout (s : State) : Host.Outcome State Fault Refusal :=
  let s : State := { s with out := [] }
  match s.disc.master with
  | none => .next s
  | some a =>
    if !linkRuns s ∨ regF s oTbCtrl 1 0 ≠ 1 ∨ s.clock.dt < s.disc.announceAt + usDt (3000 * a.intervalMs) then .next s
    else
      let s := loseReference s
      .next { s with disc := { s.disc with
        master := none, sync := none, lastSync := none, delayReq := none, delay := none, formed := false
        masters := s.disc.masters.filter fun (b, _) => !(b.port == a.port && b.source == a.source) } }

/-- SYNC_TIMEOUT: 3 s without a Sync (R290). -/
def execSyncTimeout (s : State) : Host.Outcome State Fault Refusal :=
  let s : State := { s with out := [] }
  if !linkRuns s ∨ regF s oTbCtrl 1 0 ≠ 1 ∨ s.disc.master.isNone ∨ s.clock.dt < s.disc.syncAt + 3 * secondDt then .next s
  else .next (loseReference s)

/-- HOLDOVER_LIMIT_EXPIRY: LIMIT_S seconds of DT in HOLDOVER (R290). -/
def execHoldoverLimitExpiry (s : State) : Host.Outcome State Fault Refusal :=
  let s : State := { s with out := [] }
  if s.disc.state = .holdover ∧ s.disc.holdoverAt + regF s oTbHoldover 31 0 * secondDt ≤ s.clock.dt then
    .next (setTime s .free)
  else .next s

/-! ## PPS (R289, R292, R310) -/

/-- The whole second of DT nearest to it. -/
def nearestSecond (s : State) : Nat := (s.clock.dt + secondDt / 2) / secondDt

/-- The first accepted edge under SOURCE 2 gives DT its seconds (R287, R311); in a locked group DT is only ever slewed (R289). -/
def takeSeconds (s : State) : State :=
  if s.disc.secUsed || (member s).isSome then s
  else
    let sec : Nat := regF s oTbSecLo 31 0 + regF s oTbSecHi 15 0 * 2 ^ 32
    let dt : Int := (s.clock.dt : Int) + ((sec : Int) - (nearestSecond s : Int)) * (secondDt : Int)
    { s with clock := { s.clock with dt := dt.toNat }, disc := { s.disc with secUsed := true } }

/-- PPS_IN_EDGE: a rising edge and how long PPS_IN stays high; noise and early edges are ignored and counted (R310). -/
def execPpsInEdge (highNs : Nat) (s : State) : Host.Outcome State Fault Refusal :=
  let s : State := { s with out := [] }
  let early := s.disc.edgeAt.any fun t => decide (s.clock.dt < t + secondDt / 2)
  if !linkRuns s then .next s
  else if highNs < 100 ∨ early then .next (regCount s oTbPps 15 0 1)
  else if regF s oTbCtrl 1 0 ≠ 2 then .next { s with disc := { s.disc with edgeAt := some s.clock.dt, stuck := false } }
  else
    let s := takeSeconds s
    let off : Int := (s.clock.dt : Int) - ((nearestSecond s * secondDt : Nat) : Int)
    let s := takeSample s off
    .next { s with disc := { s.disc with edgeAt := some s.clock.dt, stuck := false } }

/-- PPS_STUCK: 1.5 s of DT without an accepted edge (R310). -/
def execPpsStuck (s : State) : Host.Outcome State Fault Refusal :=
  let s : State := { s with out := [] }
  if !linkRuns s ∨ s.disc.stuck ∨ !s.disc.edgeAt.any (fun t => decide (t + secondDt * 3 / 2 ≤ s.clock.dt)) then .next s
  else
    let s := regCount { s with disc := { s.disc with stuck := true } } oTbPps 31 16 1
    .next (if regF s oTbCtrl 1 0 = 2 then loseReference s else s)

/-- Whether PPS_OUT is enabled and the time state drives it (R292). -/
def ppsDriven (s : State) : Bool :=
  linkRuns s && regF s oTbCtrl 4 4 == 1 && (s.disc.state == .locked || s.disc.state == .holdover)

/-- The level of PPS_OUT: low whenever it is not driven (R292, R473). -/
def ppsOut (s : State) : Bool := s.disc.ppsHigh && ppsDriven s

/-- PPS_OUT_RISE: the tick at which DT has passed a whole second (R292). -/
def execPpsOutRise (s : State) : Host.Outcome State Fault Refusal :=
  let s : State := { s with out := [] }
  if ppsDriven s ∧ s.clock.dt % secondDt < s.clock.inc then
    .next { s with disc := { s.disc with ppsHigh := true, ppsAt := s.clock.dt } }
  else .next s

/-- PPS_OUT_FALL: 100 ms of DT after the rise (R292). -/
def execPpsOutFall (s : State) : Host.Outcome State Fault Refusal :=
  let s : State := { s with out := [] }
  if !ppsDriven s ∨ s.disc.ppsAt + secondDt / 10 ≤ s.clock.dt then
    .next { s with disc := { s.disc with ppsHigh := false } }
  else .next s

end Sys2Proof.Machine
end

