-- ==== Sys2Proof/Machine/Commands.lean ====
section
/-! DEFINITION. Commands (R368 to R386): the order of the checks, the opcode table, BOOT (R354, R384, R492), and one
row for each command of the table of operations. -/

namespace Sys2Proof.Machine

open Sys2Proof

/-! ## The opcode table (R385) -/

/-- Whether an opcode is defined. -/
def opDefined (op : Byte) : Bool :=
  ([0x01, 0x02, 0x03, 0x10, 0x11, 0x20, 0x21, 0x22, 0x30, 0x31, 0x32, 0x33, 0x34, 0x38, 0x39, 0x40, 0x41, 0x42, 0x50,
    0x60, 0x61, 0x62, 0x70, 0x80, 0x81, 0x90, 0xA0, 0xA1, 0xF0, 0xF1] : List Byte).contains op

/-- Whether a class may issue an opcode (R380, R385). -/
def classMay (c : Cls) (op : Byte) : Bool :=
  match c with
  | .owner => true
  | .operator => !(([0x01, 0x80, 0x81, 0xA0, 0xF0, 0xF1] : List Byte).contains op)
  | .job => !(([0x01, 0x20, 0x21, 0x22, 0x38, 0x39, 0x80, 0x81, 0xA0, 0xF0, 0xF1] : List Byte).contains op)
  | .peer => false

/-- The parameter length of an opcode (R385). -/
def paramLength (op : Byte) (b : Bytes) : Nat :=
  match op.toNat with
  | 0x01 => 176
  | 0x02 => 2
  | 0x10 => 8
  | 0x11 => 8 + 4 * field b 4 4
  | 0x20 | 0x21 => 16
  | 0x22 => 8
  | 0x30 => 128
  | 0x31 | 0x32 | 0x33 | 0x34 => 2
  | 0x38 | 0x39 => 24
  | 0x40 => 12
  | 0x41 => 20
  | 0x42 => 12
  | 0x50 => 20
  | 0x60 => 128
  | 0x61 => 64
  | 0x62 => 2
  | 0x80 => 24
  | 0x81 => 16
  | 0x90 => 64
  | 0xA0 => 48
  | 0xA1 => 20
  | 0xF0 => 80 + 32 * field b 20 1
  | _ => 0

/-- The commands that STANDBY, a commit with RESTART or a test answer with BUSY (R482, R510, R515). -/
def heldOff (s : State) (op : Byte) : Bool :=
  (s.power.phase == .standby && ([0x30, 0x39, 0x60] : List Byte).contains op)
    || (s.flash.noJobs && ([0x30, 0x39, 0x60, 0xF0] : List Byte).contains op)
    || (s.diag.isSome && ([0x30, 0x39, 0x60, 0xF0, 0x20, 0x40, 0x80, 0x81] : List Byte).contains op)

/-- An opcode's own checks and its effect (step 7 of R375). -/
def ownCommand (op : Byte) (w : Who) (p : Packet) (s : State) : Ans :=
  match op.toNat with
  | 0x01 => cmdSessionOpen w p s
  | 0x02 => cmdSessionClose w p s
  | 0x03 => cmdPing w p s
  | 0x10 => cmdRegRead w p s
  | 0x11 => cmdRegWrite w p s
  | 0x20 => cmdImageOp false w p s
  | 0x21 => cmdImageOp true w p s
  | 0x22 => cmdImageUnload w p s
  | 0x30 => cmdJobSubmit w p s
  | 0x31 => cmdJobQuery w p s
  | 0x32 => cmdJobCancel w p s
  | 0x33 => cmdJobPause w p s
  | 0x34 => cmdJobResume w p s
  | 0x38 => cmdCtxSave w p s
  | 0x39 => cmdCtxRestore w p s
  | 0x40 => cmdPageAlloc w p s
  | 0x41 => cmdPageShare w p s
  | 0x42 => cmdPageRelease w p s
  | 0x50 => cmdDigestRead w p s
  | 0x60 => cmdVidOpen w p s
  | 0x61 => cmdVidFrame w p s
  | 0x62 => cmdVidClose w p s
  | 0x70 => cmdTimeQuery w p s
  | 0x80 => cmdFwStage w p s
  | 0x81 => cmdFwCommit w p s
  | 0x90 => cmdAttest w p s
  | 0xA0 => cmdDiag w p s
  | 0xA1 => cmdTelemetry w p s
  | 0xF0 => cmdGroupJoin w p s
  | 0xF1 => cmdGroupLeave w p s
  | _ => refuse s .badOpcode

/-! ## The order of checks (R375) -/

/-- The first of some checks that fails: its step, and its code. Each check is its step, whether it fails, its code. -/
def firstStop (checks : List (Nat × Bool × Code)) : Option (Nat × Code) := (checks.find? (·.2.1)).map fun y => (y.1, y.2.2)

/-- The code that the checks answer, if any: that of the first failure, or INTERNAL for a firmware fault that stops the command at
that step or before it. -/
def codeOfChecks (p : Packet) (checks : List (Nat × Bool × Code)) : Option Code :=
  match p.fault, firstStop checks with
  | some k, some (j, c) => some (if k ≤ j then .internal else c)
  | some _, none => some .internal
  | none, r => r.map (·.2)

/-- Steps 1 and 2: the length delivered, the protocol, the reserved fields, the session number. -/
def headerChecks (p : Packet) (session : Nat) : List (Nat × Bool × Code) :=
  [(1, p.length.toNat != p.params.length, .badLength),
   (2, p.protocol != 1 || p.reserved != 0 || decide (1 < p.flags.toNat) || p.session.toNat != session, .badParam)]

/-- Steps 1 to 6 for a command of an open session, and a firmware fault at any step. -/
def sessionCheck (x : Session) (n : Nat) (op : Byte) (p : Packet) : Option Code :=
  codeOfChecks p (headerChecks p n ++
    [(3, !opDefined op, .badOpcode), (4, !classMay x.cls op, .priv),
     (5, p.params.length != paramLength op p.params, .badLength), (6, !serialGe x.doneSeq p.ringAck, .badParam)])

/-- RING_ACK is taken, unless it is lower than the one before it (R379). -/
def takeRingAck (s : State) (n : Nat) (ack : BitVec 32) : State :=
  sessMap s n fun x => { x with ringAck := if serialGt ack x.ringAck then ack else x.ringAck }

/-- The answer of a command's own part: its reply, unless a boundary forms it, and the close of its session. -/
def answer (s : State) (p : Packet) (op : Byte) : State :=
  match originSession p.origin with
  | none => s
  | some n =>
    match sessGet s n with
    | none => s
    | some x =>
      let s := takeRingAck s n p.ringAck
      let a := if heldOff s op then refuse s .busy else ownCommand op ⟨x.cls, some n⟩ p s
      if a.later then a.st
      else
        match a.close with
        | some k => closeSession (sendReply a.st p op a.code a.result a.ev) k
        | none => sendReply a.st p op a.code a.result a.ev

/-- A command that the checks stop: its code, and for a firmware fault the event that explains it (R375). One that a fault stops in its
own checks has passed step 6, so that its RING_ACK is taken. -/
def stopCommand (s : State) (p : Packet) (op : Byte) (c : Code) : State :=
  if c = .internal then
    let s := match originSession p.origin with
      | some n => if p.fault.any (fun k => decide (7 ≤ k)) then takeRingAck s n p.ringAck else s
      | none => s
    let s := logOther s (unitOf 0 0) none 375
    sendReply s p op .internal [] (lastSeq s)
  else sendReply s p op c [] 0xFFFFFFFF

/-- A command of an open session (R368, R375); a packet longer than the session's segment size is dropped (R342, R370). -/
def sessionCommand (op : Byte) (p : Packet) (n : Nat) (s : State) : State :=
  match sessGet s n with
  | none => s
  | some x =>
    if x.segment < 32 + p.params.length then s
    else
      match sessionCheck x n op p with
      | some c => stopCommand s p op c
      | none => answer s p op

/-! ## BOOT (R354, R384, R492) -/

/-- The BOOT packets that a port has answered in the present second of DT. -/
def bootsIn (s : State) (port : Nat) : Nat :=
  ((s.bootCount.find? fun y => y.1 == port && y.2.1 == dtSec s).map (·.2.2)).getD 0

/-- One more BOOT packet answered. -/
def countBoot (s : State) (port : Nat) : State :=
  { s with bootCount := s.bootCount.filter (fun y => y.1 != port) ++ [(port, dtSec s, bootsIn s port + 1)] }

/-- Steps 1 to 6 for a BOOT packet, whose session is 0xFFFF and whose RING_ACK is 0 (R354, R371). -/
def bootCheck (op : Byte) (p : Packet) : Option Code :=
  codeOfChecks p (headerChecks p 0xFFFF ++
    [(4, op != 0x01 && op != 0x03, .priv), (5, p.params.length != paramLength op p.params, .badLength),
     (6, p.ringAck != 0, .badParam)])

/-- The replies to claims and admissions that are still kept for a repeat (R384). -/
def liveMemos (s : State) : List BootMemo := s.bootMemo.filter fun m => decide (s.clock.dt < m.at_ + seconds 10)

/-- Whether a packet is an OWNER_CLAIM or an ADMIT, whose reply is kept. -/
def isClaim (op : Byte) (p : Packet) : Bool := op == 0x01 && (field p.params 0 1 == 1 || field p.params 0 1 == 3)

/-- A BOOT command of a ready device. -/
def bootReady (op : Byte) (p : Packet) (s : State) : State :=
  match bootCheck op p with
  | some c => stopCommand s p op c
  | none =>
    match (liveMemos s).find? (fun m => m.packet == p) with
    | some m =>
      match p.origin with
      | .boot port iface addr udp => sendBoot s port iface addr udp m.reply
      | .session _ => s
    | none =>
      let a := ownCommand op ⟨.job, none⟩ p s
      let r := makeReply a.st p op a.code a.result a.ev
      let s := sendReply a.st p op a.code a.result a.ev
      if isClaim op p then { s with bootMemo := liveMemos s ++ [{ packet := p, reply := r, at_ := s.clock.dt }] } else s

/-- Whether the interface that a BOOT packet reaches speaks its IP version (R335). -/
def bootIpOn (s : State) (p : Packet) : Bool :=
  match p.origin with
  | .boot port iface addr _ => ipOn s port iface addr
  | .session _ => true

/-- A BOOT packet, charged to the reserve (R356): dropped where it is longer than the interface's segment size (R342); at most 1,024 in a second of DT on
a port; before ready, PING is answered and the rest is BUSY. -/
def bootCommand (op : Byte) (p : Packet) (port iface : Nat) (s : State) : State :=
  if !linkRuns s ∨ 2 ≤ port ∨ !ifaceUp s port iface then s
  else if !bootIpOn s p then filterFrame s port
  else chargeReserve s port (costOf (32 + p.params.length)) fun s =>
    if segmentOf s port < 32 + p.params.length then s
    else if 1024 ≤ bootsIn s port then regCount s oUtxFails 31 16 1
    else
      let s := countBoot s port
      if isReady s then bootReady op p s
      else if op = 0x03 ∧ bootCheck op p = none then sendReply s p op .ok [] 0xFFFFFFFF
      else sendReply s p op .busy [] 0xFFFFFFFF

/-- A command packet, from a session or in BOOT. -/
def command (op : Byte) (p : Packet) (s : State) : State :=
  let s : State := { s with out := [] }
  match p.origin with
  | .session n => if isReady s then sessionCommand op p n s else s
  | .boot port iface _ _ => bootCommand op p port iface s

/-- A packet whose first parameter byte is what its row says, unless it holds a value that the manual reserves: that
is sent as it stands, and refused (R382, R514). -/
def withFirst (reserved : Byte → Bool) (b : Byte) (p : Packet) : Packet :=
  match p.params with
  | [] => p
  | x :: t => if reserved x then p else { p with params := b :: t }

/-- SESSION_OPEN's MODE: values from 4 up are reserved (R382). -/
def withMode (b : Byte) (p : Packet) : Packet := withFirst (fun x => decide (4 ≤ x.toNat)) b p

/-- DIAG_RUN's TEST: the codes are 1 to 8 (R516). -/
def withTest (b : Byte) (p : Packet) : Packet := withFirst (fun x => decide (x.toNat = 0 ∨ 8 < x.toNat)) b p

/-! ## The rows -/

/-- CHALLENGE: SESSION_OPEN in mode 0. -/
def execChallenge (p : Packet) (s : State) : Host.Outcome State Fault Refusal := .next (command 0x01 (withMode 0 p) s)
/-- OWNER_CLAIM: SESSION_OPEN in mode 1. -/
def execOwnerClaim (p : Packet) (s : State) : Host.Outcome State Fault Refusal := .next (command 0x01 (withMode 1 p) s)
/-- RESERVE: SESSION_OPEN in mode 2. -/
def execReserve (p : Packet) (s : State) : Host.Outcome State Fault Refusal := .next (command 0x01 (withMode 2 p) s)
/-- ADMIT: SESSION_OPEN in mode 3. -/
def execAdmitSession (p : Packet) (s : State) : Host.Outcome State Fault Refusal := .next (command 0x01 (withMode 3 p) s)
/-- SESSION_CLOSE. -/
def execSessionClose (p : Packet) (s : State) : Host.Outcome State Fault Refusal := .next (command 0x02 p s)
/-- PING. -/
def execPing (p : Packet) (s : State) : Host.Outcome State Fault Refusal := .next (command 0x03 p s)
/-- REG_READ. -/
def execRegRead (p : Packet) (s : State) : Host.Outcome State Fault Refusal := .next (command 0x10 p s)
/-- REG_WRITE. -/
def execRegWrite (p : Packet) (s : State) : Host.Outcome State Fault Refusal := .next (command 0x11 p s)
/-- IMAGE_LOAD. -/
def execImageLoad (p : Packet) (s : State) : Host.Outcome State Fault Refusal := .next (command 0x20 p s)
/-- IMAGE_VERIFY. -/
def execImageVerify (p : Packet) (s : State) : Host.Outcome State Fault Refusal := .next (command 0x21 p s)
/-- IMAGE_UNLOAD. -/
def execImageUnload (p : Packet) (s : State) : Host.Outcome State Fault Refusal := .next (command 0x22 p s)
/-- JOB_SUBMIT. -/
def execJobSubmit (p : Packet) (s : State) : Host.Outcome State Fault Refusal := .next (command 0x30 p s)
/-- JOB_QUERY. -/
def execJobQuery (p : Packet) (s : State) : Host.Outcome State Fault Refusal := .next (command 0x31 p s)
/-- JOB_CANCEL. -/
def execJobCancel (p : Packet) (s : State) : Host.Outcome State Fault Refusal := .next (command 0x32 p s)
/-- JOB_PAUSE. -/
def execJobPause (p : Packet) (s : State) : Host.Outcome State Fault Refusal := .next (command 0x33 p s)
/-- JOB_RESUME. -/
def execJobResume (p : Packet) (s : State) : Host.Outcome State Fault Refusal := .next (command 0x34 p s)
/-- CTX_SAVE. -/
def execCtxSave (p : Packet) (s : State) : Host.Outcome State Fault Refusal := .next (command 0x38 p s)
/-- CTX_RESTORE. -/
def execCtxRestore (p : Packet) (s : State) : Host.Outcome State Fault Refusal := .next (command 0x39 p s)
/-- PAGE_ALLOC. -/
def execPageAlloc (p : Packet) (s : State) : Host.Outcome State Fault Refusal := .next (command 0x40 p s)
/-- PAGE_SHARE. -/
def execPageShare (p : Packet) (s : State) : Host.Outcome State Fault Refusal := .next (command 0x41 p s)
/-- PAGE_RELEASE. -/
def execPageRelease (p : Packet) (s : State) : Host.Outcome State Fault Refusal := .next (command 0x42 p s)
/-- DIGEST_READ. -/
def execDigestRead (p : Packet) (s : State) : Host.Outcome State Fault Refusal := .next (command 0x50 p s)
/-- VID_OPEN. -/
def execVidOpen (p : Packet) (s : State) : Host.Outcome State Fault Refusal := .next (command 0x60 p s)
/-- VID_FRAME. -/
def execVidFrame (p : Packet) (s : State) : Host.Outcome State Fault Refusal := .next (command 0x61 p s)
/-- VID_CLOSE. -/
def execVidClose (p : Packet) (s : State) : Host.Outcome State Fault Refusal := .next (command 0x62 p s)
/-- TIME_QUERY. -/
def execTimeQuery (p : Packet) (s : State) : Host.Outcome State Fault Refusal := .next (command 0x70 p s)
/-- FW_STAGE. -/
def execFwStage (p : Packet) (s : State) : Host.Outcome State Fault Refusal := .next (command 0x80 p s)
/-- FW_COMMIT. -/
def execFwCommit (p : Packet) (s : State) : Host.Outcome State Fault Refusal := .next (command 0x81 p s)
/-- ATTEST. -/
def execAttest (p : Packet) (s : State) : Host.Outcome State Fault Refusal := .next (command 0x90 p s)
/-- DIAG_RUN with test ARRAY. -/
def execArray (p : Packet) (s : State) : Host.Outcome State Fault Refusal := .next (command 0xA0 (withTest 1 p) s)
/-- DIAG_RUN with test ENGINE_SRAM. -/
def execEngineSram (p : Packet) (s : State) : Host.Outcome State Fault Refusal := .next (command 0xA0 (withTest 2 p) s)
/-- DIAG_RUN with test CALDERA. -/
def execCaldera (p : Packet) (s : State) : Host.Outcome State Fault Refusal := .next (command 0xA0 (withTest 3 p) s)
/-- DIAG_RUN with test CODEC. -/
def execCodec (p : Packet) (s : State) : Host.Outcome State Fault Refusal := .next (command 0xA0 (withTest 4 p) s)
/-- DIAG_RUN with test MEMORY. -/
def execMemory (p : Packet) (s : State) : Host.Outcome State Fault Refusal := .next (command 0xA0 (withTest 5 p) s)
/-- DIAG_RUN with test SERDES. -/
def execSerdes (p : Packet) (s : State) : Host.Outcome State Fault Refusal := .next (command 0xA0 (withTest 6 p) s)
/-- DIAG_RUN with test D2D. -/
def execD2d (p : Packet) (s : State) : Host.Outcome State Fault Refusal := .next (command 0xA0 (withTest 7 p) s)
/-- DIAG_RUN with test KNOWN_ANSWER. -/
def execKnownAnswer (p : Packet) (s : State) : Host.Outcome State Fault Refusal := .next (command 0xA0 (withTest 8 p) s)
/-- TELEMETRY_READ. -/
def execTelemetryRead (p : Packet) (s : State) : Host.Outcome State Fault Refusal := .next (command 0xA1 p s)
/-- GROUP_JOIN. -/
def execGroupJoin (p : Packet) (s : State) : Host.Outcome State Fault Refusal := .next (command 0xF0 p s)
/-- GROUP_LEAVE. -/
def execGroupLeave (p : Packet) (s : State) : Host.Outcome State Fault Refusal := .next (command 0xF1 p s)

end Sys2Proof.Machine
end

