-- ==== Sys2Proof/Machine/Utx.lean ====
section
/-! DEFINITION. The UTX transport (R340 to R365): what a received packet does, what is sent and when, the timers, and
BEAT_BOUNDARY with the commands that waited behind a FENCE. -/

namespace Sys2Proof.Machine

open Sys2Proof

/-! ## Kept packets, acknowledgements, credits (R349, R350, R358, R359) -/

/-- An ACK_PSN releases the kept packets behind it; an advance starts the timer over (R350). A REQ that is acknowledged
and not yet answered is remembered for its RSP (R363). -/
def takeAck (s : State) (k : Nat) (ack : BitVec 32) : State :=
  sessMap s k fun x =>
    if !serialGe x.nextPsn ack then x
    else
      let gone := x.kept.filter fun y => y.sent && serialGt ack y.psn
      if gone.isEmpty then x
      else
        { x with
          kept := x.kept.filter fun y => !(y.sent && serialGt ack y.psn)
          waiting := x.waiting ++ (gone.filter (·.isReq)).map fun y => (y.psn, y.slots)
          timerAt := s.clock.dt, timeouts := 0, rtoNs := rtoInitial s }

/-- A CREDIT_LIMIT that is ahead of the one held raises it (R358). -/
def takeCredit (s : State) (k : Nat) (limit : BitVec 32) : State :=
  sessMap s k fun x => { x with peerGrant := if serialGt limit x.peerGrant then limit else x.peerGrant }

/-- What R348 does with a PSN. -/
inductive Verdict348 where
  | accept | ahead | behind
  deriving DecidableEq, Repr

/-- The comparison of a PSN with the one expected (R348). -/
def judgePsn (e p : BitVec 32) : Verdict348 := if p = e then .accept else if serialGt p e then .ahead else .behind

/-- A packet is accepted: E rises, and an acknowledgement is owed; after 16 it is due (R348, R349). -/
def acceptPsn (s : State) (k : Nat) : State :=
  sessMap s k fun x =>
    { x with
      expect := x.expect + 1, nakFor := none, accepted := x.accepted + 1
      ackSince := some (x.ackSince.getD s.clock.dt), ackNow := x.ackNow || decide (16 ≤ x.accepted + 1) }

/-- A packet is discarded: ahead of E with one NAK that carries this E, behind it with an ACK (R348). -/
def discardPsn (s : State) (k : Nat) (v : Verdict348) : State :=
  regCount (sessMap s k fun x =>
    match v with
    | .ahead => if x.nakFor = some x.expect then x else { x with nakFor := some x.expect, naks := x.naks ++ [x.expect] }
    | _ => { x with dups := x.dups + 1 }) oUtxDrops 15 0 1

/-! ## Which session a packet belongs to -/

/-- Whether a packet comes from the other end of a session, to the port that the session took when it opened; another device
sends from ports of its own (R340, R367). -/
def fromOther (x : Session) (port iface addr udp dport : Nat) : Bool :=
  x.port == port && x.iface == iface && x.addr == addr && x.ownPort == dport && (x.cls == .peer || x.udp == udp)

/-- The session of a REQ: open, with the packet from its other end. -/
def reqSession (s : State) (q : UtxReq) : Option Session :=
  if q.session < 4096 then (sessGet s q.session).filter fun x => fromOther x q.port q.iface q.addr q.udp q.dport else none

/-- The session number that carries this device's REQs at its peers: 4,095 − its own member index (R419). -/
def ownNumber (s : State) : Option Nat := s.group.map fun g => 4095 - g.index

/-- The requesting half that an RSP, ACK or NAK of a session number belongs to. -/
def requestHalf (s : State) (q : UtxBack) : Option Nat :=
  if ownNumber s = some q.session then
    (s.nodes.find? fun k => k.port == q.port && k.iface == q.iface && k.addr == q.addr).bind (·.session)
  else none

/-- The half that an ACK or NAK belongs to: the requesting one, or the session of that number. -/
def backHalf (s : State) (q : UtxBack) : Option Nat :=
  match requestHalf s q with
  | some k => some k
  | none =>
    if q.session < 4096 ∧ (sessGet s q.session).any (fun x => fromOther x q.port q.iface q.addr q.udp q.dport) then some q.session
    else none

/-- Whether an interface takes in frames: the links run and it is up. -/
def takesFrames (s : State) (port iface : Nat) : Bool := linkRuns s && decide (port < 2) && ifaceUp s port iface

/-- Whether an interface accepts a UTX datagram: it speaks the IP version, and the destination port is UTX_CTRL.PORT or that of an
open session (R335, R336, R340, R367). -/
def acceptsUtx (s : State) (port iface addr dport : Nat) : Bool :=
  ipOn s port iface addr && (dport == utxPort s || s.sessions.any fun y => !y.2.closed && y.2.ownPort == dport)

/-- A UTX datagram that an interface takes in (R336, R356, R366): looked at for the session that it belongs to, or filtered. The frame of
an unknown session is charged to the reserve; one to a port that sessions alone still have is filtered. -/
def takeUtx {α : Type} (s : State) (port iface addr dport cost : Nat) (of_ : Option α) (use : State → α → State) : State :=
  if !takesFrames s port iface then s
  else if !acceptsUtx s port iface addr dport then filterFrame s port
  else
    match of_ with
    | some k => use (countRx s port) k
    | none => if dport = utxPort s then chargeReserve s port cost id else filterFrame s port

/-- Whether a session's account covers a frame's slots (R356, R359): the half that carries this device's own REQs shares the window
that it grants the same peer (DEDUCED, assumption 86). -/
def covers (s : State) (k cost : Nat) : Bool :=
  (sessGet s (if k < 4096 then k else 4095 - (k - 4096))).all fun x => decide (x.held + cost ≤ x.window)

/-! ## REQs (R344 to R351) -/

/-- The header and parameters of a command packet that a WRITE carries (R371). A packet shorter than its header fails
the first check of R375. -/
def parsePacket (q : UtxReq) : Byte × Packet :=
  let b := fit q.length q.payload
  (BitVec.ofNat 8 (field b 0 1),
    { origin := .session q.session, reqPsn := some q.psn
      flags := BitVec.ofNat 8 (field b 1 1), session := BitVec.ofNat 16 (field b 2 2), tag := BitVec.ofNat 32 (field b 4 4)
      length := if b.length < 32 then 1 else BitVec.ofNat 32 (field b 8 4)
      ringAck := BitVec.ofNat 32 (field b 12 4), protocol := BitVec.ofNat 16 (field b 16 2)
      reserved := BitVec.ofNat 112 (field b 18 14), params := b.drop 32 })

/-- A WRITE of the session's own command window at offset 0: a control core reads it, and its slots are released. A
WRITE whose length or address is refused carries no command (R345, R368). -/
def commandReq (s : State) (q : UtxReq) (cls : Cls) (cost : Nat) : State :=
  match sfind s.sessions q.session with
  | none => s
  | some x =>
    match rmoRefusal s cls q.session x.segment .write q.address q.length with
    | some c => sendRsp (releaseSlots s q.session cost) q.session 0x01 q.psn c []
    | none =>
      let (op, p) := parsePacket q
      sessionCommand op p q.session (releaseSlots s q.session cost)

/-- Whether an accepted REQ waits for the boundary: an access to AB, AM or WS that nothing but the map could refuse, a
FENCE behind one that waits or behind a command that a boundary answers, or a REQ behind a FENCE that waits (R33, R265, R344). A member's write that an ARRIVE of this
beat has declared does not wait: it is scheduled traffic (R113, R532). -/
def waitsForBoundary (s : State) (q : UtxReq) (op : RmoOp) (cls : Cls) (segment : Nat) : Bool :=
  let mine := s.deferred.filter fun d => d.q.session == q.session
  let a := localOf q.address
  let declared := cls == .peer && op == .write && (match regionOf a with
    | .ab e | .am e | .ws e => (engGet s e).arrivals.any fun y =>
        arrivalTakes y (4095 - q.session) true ((a - sramBase) % 0x400000) q.length
    | _ => false)
  let window := op != .fence && isHere s q.address && isWindow a && s.power.phase != .standby
    && (match rmoRefusal s cls q.session segment op q.address q.length with
      | none => true
      | some c => c == .priv)
  if op = .fence then (!mine.isEmpty || commandWaits s q.session) && q.length == 0 && q.address == 0
  else mine.any (fun d => d.op == 0x05) || (window && !declared)

/-- An accepted REQ. -/
def startReq (s : State) (q : UtxReq) (op : RmoOp) (x : Session) (mem : List EccFind) : State :=
  let cost := costOf q.length
  if waitsForBoundary s q op x.cls x.segment then
    { s with deferred := s.deferred ++ [{ q := q, op := rmoByte op, cls := x.cls, cost := cost, ecc := mem }] }
  else if isCommand (rmoByte op) q.address then commandReq s q x.cls cost
  else performReq s q op x.cls cost mem

/-- A REQ that arrives (R342, R348, R356, R359): dropped where its payload is longer than the session's segment size, charged to
its session's window, then judged by its PSN. `start` is what an accepted one does. -/
def receiveReq (s : State) (q : UtxReq) (payload : Nat) (start : State → Session → State) : State :=
  takeUtx s q.port q.iface q.addr q.dport (costOf q.length) (reqSession s q) fun s x =>
    if x.segment < payload then s
    else if x.window < x.held + costOf q.length then regCount s oUtxDrops 31 16 1
    else
      let s := takeAck s q.session q.ackPsn
      match judgePsn x.expect q.psn with
      | .accept =>
        let s := acceptPsn s q.session
        let s := sessMap s q.session fun y => { y with held := y.held + costOf q.length }
        start s x
      | v => discardPsn s q.session v

/-- The payload bytes of a REQ: a READ carries none (R342). -/
def payloadOf (op : RmoOp) (q : UtxReq) : Nat := if op = .read then 0 else q.length

/-- A REQ of an RMO type. -/
def takeReq (op : RmoOp) (q : UtxReq) (mem : List EccFind) (s : State) : State :=
  receiveReq s q (payloadOf op q) fun s x => startReq s q op x mem

/-- One row for each RMO type. -/
def reqRow (op : RmoOp) (q : UtxReq) (mem : List EccFind) (s : State) : Host.Outcome State Fault Refusal :=
  .next (takeReq op q mem { s with out := [] })

/-- READ (R344). -/
def execRead (q : UtxReq) (mem : List EccFind) (s : State) : Host.Outcome State Fault Refusal := reqRow .read q mem s
/-- WRITE (R344, R368). -/
def execWrite (q : UtxReq) (mem : List EccFind) (s : State) : Host.Outcome State Fault Refusal := reqRow .write q mem s
/-- FETCH_ADD (R344). -/
def execFetchAdd (q : UtxReq) (mem : List EccFind) (s : State) : Host.Outcome State Fault Refusal := reqRow .fetchAdd q mem s
/-- ATOMIC_ADD (R344). -/
def execAtomicAdd (q : UtxReq) (mem : List EccFind) (s : State) : Host.Outcome State Fault Refusal := reqRow .atomicAdd q mem s
/-- CAS (R344). -/
def execCas (q : UtxReq) (mem : List EccFind) (s : State) : Host.Outcome State Fault Refusal := reqRow .cas q mem s
/-- FENCE (R344). -/
def execFence (q : UtxReq) (s : State) : Host.Outcome State Fault Refusal := reqRow .fence q [] s

/-! ## RSP, ACK, NAK (R348 to R351, R363) -/

/-- The contexts that a REQ served, while it is kept or waits for its RSP. -/
def servedBy (x : Session) (psn : BitVec 32) : List Nat :=
  ((x.kept.find? fun y => y.isReq && y.psn == psn).map (·.slots)).getD
    (((x.waiting.find? fun y => y.1 == psn).map (·.2)).getD [])

/-- Whether an answer is longer than its session's segment size, and so dropped (R342). -/
def overLength (s : State) (k : Nat) (q : UtxBack) : Bool := (sessGet s k).any fun x => decide (x.segment < q.length)

/-- An RSP, ACK or NAK for one of this device's halves of a session: dropped where it is over-length (R342) or where its session's
account does not cover it (R356). -/
def takeBack (s : State) (q : UtxBack) (half : Option Nat) (use : State → Nat → State) : State :=
  takeUtx s q.port q.iface q.addr q.dport (costOf q.length) half fun s k =>
    if overLength s k q then s
    else if !covers s k (costOf q.length) then regCount s oUtxDrops 31 16 1
    else use (takeCredit (takeAck s k q.ackPsn) k q.creditLimit) k

/-- An RSP: accepted by its PSN; a STATUS other than OK is logged and fails the jobs that issued the REQ (R363). -/
def takeRsp (q : UtxBack) (s : State) : State :=
  takeBack s q (requestHalf s q) fun t k =>
    match sessGet s k with
    | none => t
    | some x =>
      let jobs := servedBy x q.reqPsn
      match judgePsn x.expect q.psn with
      | .accept =>
        let t := sessMap (acceptPsn t k) k fun y => { y with waiting := y.waiting.filter fun w => w.1 != q.reqPsn }
        if q.status = 0 then t
        else failAt (logEvent t 0x0503 (unitOf 8 q.session) none [q.status]) jobs (codeOf q.status)
      | v => discardPsn t k v

/-- An ACK (R350). -/
def takeAckPacket (q : UtxBack) (s : State) : State := takeBack s q (backHalf s q) fun s _ => s

/-- A NAK: every kept packet from its ACK_PSN on is sent again. The timer runs on from the last advance, but for a timeout at the
same instant, with which the NAK makes one retransmission (R350). -/
def takeNak (q : UtxBack) (s : State) : State :=
  takeBack s q (backHalf s q) fun s k =>
    sessMap (regCount s oUtxRetx 15 0 1) k fun x =>
      { x with
        kept := x.kept.map fun y => if y.sent ∧ serialGe y.psn q.ackPsn then { y with resend := true } else y
        timerAt := if x.timerAt + x.rtoNs * 2 ^ 32 ≤ s.clock.dt then s.clock.dt else x.timerAt }

/-- RSP. -/
def execRsp (q : UtxBack) (s : State) : Host.Outcome State Fault Refusal := .next (takeRsp q { s with out := [] })

/-- ACK. -/
def execAck (q : UtxBack) (s : State) : Host.Outcome State Fault Refusal := .next (takeAckPacket q { s with out := [] })

/-- NAK. -/
def execNak (q : UtxBack) (s : State) : Host.Outcome State Fault Refusal := .next (takeNak q { s with out := [] })

/-! ## Sending (R337, R349, R361, R362) -/

/-- What a session may have to send. -/
inductive Item where
  | packet (k : Kept) | ack | nak (e : BitVec 32)
  deriving DecidableEq, Repr

/-- The priority class of a packet that has not been sent (R362): words of the group control block are control-core
traffic, other REQs scheduled traffic or slip notices, and the rest RSPs. -/
def freshClass (s : State) (k : Kept) : Nat :=
  if !k.isReq then 4
  else
    match s.group with
    | some g => if g.block ≤ localOf k.address ∧ localOf k.address < g.block + 4096 then 5 else 3
    | none => 3

/-- Whether a first sending finds its transmit slots and, for a REQ, its credit (R358, R361, R362). -/
def maySend (s : State) (x : Session) (k : Kept) : Bool :=
  let cost := costOf k.payload.length
  decide (txHeld x + cost ≤ 512)
    && (if freshClass s k = 3 then decide (cost ≤ txFree s) else decide (cost + 512 ≤ txFree s))
    && (!k.isReq || serialGe x.peerGrant (x.peerUsed + BitVec.ofNat 32 cost))

/-- What a session offers, with its class: a retransmission first, then what is owed, then its next packet in PSN order. -/
def offers (s : State) (x : Session) : List (Nat × Item) :=
  let again := match x.kept.find? (·.resend) with
    | some k => [(2, Item.packet k)]
    | none => []
  let next := match x.kept.find? (fun k => !k.sent) with
    | some k => if maySend s x k then [(freshClass s k, Item.packet k)] else []
    | none => []
  again ++ (x.naks.take 1).map (fun e => (4, Item.nak e)) ++ next ++ (if x.ackNow ∨ 0 < x.dups then [(4, Item.ack)] else [])

/-- Everything that waits on a port, session by session. -/
def waitingOn (s : State) (port : Nat) : List (Nat × Nat × Item) :=
  s.sessions.flatMap fun (k, x) =>
    if x.port = port ∧ !x.closed ∧ ifaceUp s port x.iface ∧ maySendOn s port x.iface ∧ ipOn s port x.iface x.addr then (offers s x).map fun y => (k, y) else []

/-- The session number on the wire: the requesting half sends in the session that its peer opened. -/
def wireNumber (s : State) (k : Nat) : Nat := if k < 4096 then k else (ownNumber s).getD 0

/-- Every packet carries the current ACK_PSN, and the receiving side's the current CREDIT_LIMIT (R349). -/
def noteSent (s : State) (k : Nat) : State :=
  sessMap s k fun x =>
    { x with ackSent := x.expect, grantSent := x.grant, ackSince := none, accepted := 0, ackNow := false }

/-- A UTX packet leaves an interface in a datagram (R335, R336, R338, R340). -/
def sendUtx (s : State) (port iface : Nat) (d : Dest) (o : UtxOut) : State :=
  sendFrame s port iface (.utx port { o with wire := wireOf s port iface (some (udpWire s port iface d (utxBytes o))) })

/-- A UTX packet of a session leaves its port. -/
def putOut (s : State) (k : Nat) (x : Session) (type : Byte) (y : Kept) : State :=
  let o : UtxOut :=
    { session := wireNumber s k, type := type
      psn := if type = 1 ∨ type = 2 then y.psn else 0
      ackPsn := x.expect, creditLimit := if k < 4096 then x.grant else 0
      address := if type = 1 then y.address else 0
      op := if type = 1 ∨ type = 2 then y.op else 0
      status := if type = 2 then codeByte y.status else 0
      reqPsn := if type = 2 then y.reqPsn else 0
      payload := if type = 1 ∨ type = 2 then y.payload else [] }
  noteSent (sendUtx s x.port x.iface (destOf s k x) o) k

/-- A NAK of a session leaves its port: it carries the E for which it is due, and acknowledges no more (R348). -/
def putNak (s : State) (k : Nat) (x : Session) (e : BitVec 32) : State :=
  let o : UtxOut :=
    { session := wireNumber s k, type := 4, psn := 0, ackPsn := e, creditLimit := if k < 4096 then x.grant else 0
      address := 0, op := 0, status := 0, reqPsn := 0, payload := [] }
  let s := sendUtx s x.port x.iface (destOf s k x) o
  if e = x.expect then noteSent s k else sessMap s k fun y => { y with grantSent := y.grant }

/-- An item is sent. The first packet in flight starts the retransmission timer (R350). -/
def sendItem (s : State) (k : Nat) (i : Item) : State :=
  match sessGet s k with
  | none => s
  | some x =>
    match i with
    | .ack => sessMap (putOut s k x 3 { psn := 0, isReq := false, op := 0 }) k fun y => { y with dups := y.dups - 1 }
    | .nak e => sessMap (putNak s k x e) k fun y => { y with naks := y.naks.drop 1 }
    | .packet p =>
      let s := putOut s k x (if p.isReq then 1 else 2) p
      let s := if p.sent then regWrap s oUtxRetxPkts 31 0 1 else s
      sessMap s k fun y =>
        let idle := !y.kept.any (·.sent)
        { y with
          kept := y.kept.map fun z => if z.psn = p.psn ∧ z.isReq = p.isReq then { z with sent := true, resend := false } else z
          peerUsed := if p.isReq && !p.sent then y.peerUsed + BitVec.ofNat 32 (costOf p.payload.length) else y.peerUsed
          timerAt := if idle then s.clock.dt else y.timerAt
          rtoNs := if idle then rtoInitial s else y.rtoNs
          timeouts := if idle then 0 else y.timeouts }

/-- The candidate whose turn it is: the first session after the one last served in its class, else the first (R362). -/
def nextTurn (last : Option Nat) (l : List (Nat × Nat × Item)) : Option (Nat × Nat × Item) :=
  match last with
  | none => l.head?
  | some n => (l.find? fun y => decide (n < y.1)).or l.head?

/-- A packet of a class leaves a port, in the turns that sessions take (R362). -/
def sendTurn (s : State) (port : Nat) (all : List (Nat × Nat × Item)) (c : Nat) : State :=
  match nextTurn (sfind s.turns (16 * port + c)) (all.filter fun y => y.2.1 == c) with
  | none => s
  | some (k, _, i) => sendItem { s with turns := sput s.turns (16 * port + c) k } k i

/-- The next RSP of a closed session that a port may send. -/
def nextParting (s : State) (port : Nat) : Option Parting :=
  s.parting.find? fun y => y.port == port && ifaceUp s port y.iface && maySendOn s port y.iface && ipOn s port y.iface y.dest.addr

/-- The next frame of a port that waited and may leave now: those of the control cores and the time port first of all, BOOT replies
after every other packet (R362 names PTP, ARP, neighbour discovery and ICMP; DESIGN CHOICE for BOOT, assumption 95). -/
def nextHeld (s : State) (port : Nat) (boot : Bool) : Option HeldFrame :=
  s.heldOut.find? fun y => y.port == port && ifaceUp s port y.iface && maySendOn s port y.iface && heldIpOn s y
    && (match y.what with
      | .boot _ _ => boot
      | .frame _ => !boot)

/-- A frame that waited leaves. -/
def sendWaiting (s : State) (y : HeldFrame) : State := sendHeld { s with heldOut := s.heldOut.erase y } y

/-- TX_SEND: one packet, of the highest class that waits on the port. Among RSPs those of closed sessions leave first. -/
def execTxSend (port : Nat) (s : State) : Host.Outcome State Fault Refusal :=
  let s : State := { s with out := [] }
  if !linkRuns s ∨ 2 ≤ port then .next s
  else if let some y := nextHeld s port false then .next (sendWaiting s y)
  else
    let all := waitingOn s port
    let cls := ([2, 3, 4, 5] : List Nat).find? fun c => all.any fun y => y.2.1 == c
    match nextParting s port with
    | some y =>
      if cls = some 2 ∨ cls = some 3 then .next (sendTurn s port all (cls.getD 0))
      else .next { sendUtx s port y.iface y.dest y.packet with parting := s.parting.erase y }
    | none =>
      match cls with
      | none => .next (((nextHeld s port true).map (sendWaiting s)).getD s)
      | some c => .next (sendTurn s port all c)

/-! ## Timers (R349, R350, R352, R383) -/

/-- ACK_DELAY_US; 0 acts as 1 (R367). -/
def ackDelay (s : State) : Nat := max 1 (regF s oUtxCtrl 23 16)

/-- ACK_DELAY_EXPIRY: a standalone ACK is due (R349); TX_SEND sends it in its turn (R362). -/
def execAckDelayExpiry (session : Nat) (s : State) : Host.Outcome State Fault Refusal :=
  let s : State := { s with out := [] }
  match sessGet s session with
  | none => .next s
  | some x =>
    if !linkRuns s ∨ !x.ackSince.any (fun t => elapsedUs s t (ackDelay s)) then .next s
    else .next (sessMap s session fun y => { y with ackNow := true })

/-- RTO_EXPIRY: every kept packet that has been sent is sent again, and the timer doubles up to 8 ms (R350). -/
def execRtoExpiry (session : Nat) (s : State) : Host.Outcome State Fault Refusal :=
  let s : State := { s with out := [] }
  match sessGet s session with
  | none => .next s
  | some x =>
    if !linkRuns s ∨ !x.kept.any (·.sent) ∨ retryLimit s ≤ x.timeouts ∨ s.clock.dt < x.timerAt + x.rtoNs * 2 ^ 32 then .next s
    else
      let s := regCount s oUtxRetx 31 16 1
      .next (sessMap s session fun y =>
        { y with
          kept := y.kept.map fun z => if z.sent then { z with resend := true } else z
          timeouts := y.timeouts + 1, timerAt := s.clock.dt, rtoNs := max y.rtoNs (min (2 * y.rtoNs) 8000000) })

/-- SESSION_FAIL: RETRY_LIMIT consecutive timeouts (R352). -/
def execSessionFail (session : Nat) (s : State) : Host.Outcome State Fault Refusal :=
  let s : State := { s with out := [] }
  match sessGet s session with
  | none => .next s
  | some x => if linkRuns s ∧ retryLimit s ≤ x.timeouts then .next (failSession s session) else .next s

/-- CHALLENGE_EXPIRY: 10 s of DT after it was drawn (R383). -/
def execChallengeExpiry (k : Nat) (s : State) : Host.Outcome State Fault Refusal :=
  let s : State := { s with out := [] }
  match s.challenges[k]? with
  | some c => if c.drawn + seconds 10 ≤ s.clock.dt then .next { s with challenges := s.challenges.eraseIdx k } else .next s
  | none => .next s

/-- RESERVATION_EXPIRY: 60 s of DT after RESERVE; the session and its credit return (R383). -/
def execReservationExpiry (session : Nat) (s : State) : Host.Outcome State Fault Refusal :=
  let s : State := { s with out := [] }
  .next { s with reservations := s.reservations.filter fun r =>
    !(r.session == session && decide (r.made + seconds 60 ≤ s.clock.dt)) }

/-! ## BEAT_BOUNDARY -/

/-- One REQ that waited behind a FENCE. A FENCE behind a command that has only now begun to wait for the next boundary waits for it,
and so does what follows that FENCE (R344). -/
def lateReq (s : State) (d : Deferred) : State :=
  if s.deferred.any (fun y => y.q.session == d.q.session) ∨ (d.op = 0x05 ∧ commandWaits s d.q.session) then
    { s with deferred := s.deferred ++ [d] }
  else if isCommand d.op d.q.address then commandReq s d.q d.cls d.cost
  else
    match opOfByte d.op with
    | some op => performReq s d.q op d.cls d.cost d.ecc
    | none => s

/-- What waited behind a FENCE is interpreted once the boundary's replies have been formed, in its order. -/
def runLate (s : State) : State :=
  let ds := s.lateCmds
  ds.foldl lateReq { s with lateCmds := [] }

/-- BEAT_BOUNDARY with the readings of the boundary. -/
def execBeatBoundary (x : Sensors) (s : State) : Host.Outcome State Fault Refusal :=
  let s : State := { s with out := [] }
  if !beatOver s then .next s else .next (runLate (boundary x s))

end Sys2Proof.Machine
end

