-- ==== Sys2Proof/Machine/Network.lean ====
section
/-! DEFINITION. Frames that are not UTX requests or answers (R332 to R338, R341, R342, R354, R356): filters, PFC, and what
the control cores answer themselves. -/

namespace Sys2Proof.Machine

open Sys2Proof

/-! ## Datagrams (R341, R342, R354) -/

/-- Whether the VLAN setting of an interface admits a frame (R335). -/
def vlanAdmits (s : State) (port iface : Nat) (vid : Option (BitVec 12)) : Bool :=
  let o := oEthIf port iface + 8
  if regF s o 15 15 = 1 then vid.any (fun v => v.toNat == regF s o 11 0) else vid.isNone

/-- A REQ whose OP is reserved: accepted by its PSN and answered with BAD_PARAM, the RSP carrying its OP (R341). -/
def reservedReq (s : State) (f : EthFrame) (op : Byte) (q : UtxReq) : State :=
  receiveReq s { q with port := f.port, iface := f.iface } q.length fun s _ =>
    sendRsp (releaseSlots s q.session (costOf q.length)) q.session op q.psn .badParam []

/-- A BOOT packet with another opcode than SESSION_OPEN and PING is answered with PRIV, or with BUSY before the device is ready
(R354, R492). -/
def bootRefused (s : State) (port iface slots length : Nat) (op : Byte) (addr udp : Nat) (tag : BitVec 32) : State :=
  if !ipOn s port iface addr then filterFrame s port
  else chargeReserve s port slots fun s =>
    if segmentOf s port < length then s
    else if 1024 ≤ bootsIn s port then regCount s oUtxFails 31 16 1
    else sendReply (countBoot s port) { origin := .boot port iface addr udp, session := 0xFFFF, tag := tag } op
      (if isReady s then .priv else .busy) [] 0xFFFFFFFF

/-- A BOOT packet as it stands in a datagram: its payload is one command packet (R354, R371). -/
def bootDatagram (s : State) (f : EthFrame) (addr udp : Nat) (b : Bytes) : State :=
  let p : Packet :=
    { origin := .boot f.port f.iface addr udp, flags := BitVec.ofNat 8 (field b 1 1), session := BitVec.ofNat 16 (field b 2 2)
      tag := BitVec.ofNat 32 (field b 4 4), length := if b.length < 32 then 1 else BitVec.ofNat 32 (field b 8 4)
      ringAck := BitVec.ofNat 32 (field b 12 4), protocol := BitVec.ofNat 16 (field b 16 2)
      reserved := BitVec.ofNat 112 (field b 18 14), params := b.drop 32 }
  let op := BitVec.ofNat 8 (field b 0 1)
  if op = 0x01 ∨ op = 0x03 then bootCommand op p f.port f.iface s
  else bootRefused s f.port f.iface (costOf b.length) b.length op addr udp p.tag

/-- A UDP datagram to an interface, decoded by R341: one to a PTP port that no other row takes is accepted (R336), one to another port
that is not the UTX port, or malformed, is dropped and counted. BOOT packets come to the UTX port of UTX_CTRL alone (R367). -/
def datagram (s : State) (f : EthFrame) (addr udp dport : Nat) (b : Bytes) : State :=
  if ipOn s f.port f.iface addr ∧ (dport = 319 ∨ dport = 320) ∧ dport ≠ utxPort s then chargeReserve s f.port 1 id
  else if !acceptsUtx s f.port f.iface addr dport then filterFrame s f.port
  else
    match utxHead b with
    | none => filterFrame s f.port
    | some h =>
      let q : UtxReq :=
        { port := f.port, iface := f.iface, addr := addr, udp := udp, dport := dport, session := h.session, psn := h.psn
          ackPsn := h.ackPsn, address := h.address, length := h.length, payload := b.drop 32 }
      let k : UtxBack :=
        { port := f.port, iface := f.iface, addr := addr, udp := udp, dport := dport, session := h.session, psn := h.psn
          ackPsn := h.ackPsn, creditLimit := h.creditLimit, status := h.status, reqPsn := h.reqPsn, length := h.length }
      if h.type = 1 then
        match opOfByte h.op with
        | some op => takeReq op q [] s
        | none => reservedReq s f h.op q
      else if h.type = 2 then takeRsp k s
      else if h.type = 3 then takeAckPacket k s
      else if h.type = 4 then takeNak k s
      else if h.session = 0xFFFF ∧ dport = utxPort s then bootDatagram s f addr udp (b.drop 32)
      else filterFrame s f.port

/-! ## Frames (R332 to R338) -/

/-- What an admitted frame does by its kind. -/
def frameKind (s : State) (f : EthFrame) : State :=
  match f.kind with
  | .fecBad n => regWrap s (oEth f.port + 0x24) 31 0 n
  | .fcsBad | .udpChecksumBad | .utxOverLength => s
  | .macsecBad => regWrap s (oEth f.port + 0x3C) 31 0 1
  | .ipv4Options | .ipv4Fragment | .ipv6Extension | .otherProtocol | .utxMalformed => filterFrame s f.port
  | .utxReservedOp op q => reservedReq s f op q
  | .unknownSession | .ptpOther => chargeReserve s f.port f.slots id
  | .bootOther op addr udp tag => bootRefused s f.port f.iface f.slots f.length op addr udp tag
  | .datagram addr udp dport b => datagram s f addr udp dport b

/-- Whether a kind of frame is lost before any filter looks at it. -/
def lostEarly (k : FrameKind) : Bool :=
  match k with
  | .fecBad _ | .fcsBad | .macsecBad => true
  | _ => false

/-- ETH_FRAME_RX. -/
def execEthFrameRx (f : EthFrame) (s : State) : Host.Outcome State Fault Refusal :=
  let s : State := { s with out := [] }
  if !takesFrames s f.port f.iface then .next s
  else
    let s := regWrap s (oEth f.port + 0x20) 31 0 f.fecCorrected
    if lostEarly f.kind then .next (frameKind s f)
    else if maxFrame s f.port < f.size ∨ !vlanAdmits s f.port f.iface f.vid then .next (filterFrame s f.port)
    else if !macsecOn s f.port f.iface then
      .next (if f.isProtected then filterFrame s f.port else frameKind s f)
    else
      match if f.isProtected then takeProtected s f.port f.iface f.an f.pn f.keyed else none with
      | some s => .next (frameKind s f)
      | none => .next (regWrap s (oEth f.port + 0x3C) 31 0 1)

/-! ## PFC (R337) -/

/-- PFC_FRAME: the priority stops for the pause time; a port without PFC for it drops the frame. -/
def execPfcFrame (port : Nat) (priority : BitVec 3) (pauseNs : Nat) (s : State) : Host.Outcome State Fault Refusal :=
  let s : State := { s with out := [] }
  if !linkRuns s ∨ 2 ≤ port ∨ !(pfcEnabled s port).testBit priority.toNat then .next s
  else
    let others := s.pauses.filter fun y => !(y.port == port && y.priority == priority)
    let s := countRx s port
    if pauseNs = 0 then .next { s with pauses := others }
    else .next { s with pauses := others ++ [{ port := port, priority := priority, until_ := s.clock.wall + pauseNs }] }

/-- PFC_PAUSE_EXPIRY. -/
def execPfcPauseExpiry (port : Nat) (priority : BitVec 3) (s : State) : Host.Outcome State Fault Refusal :=
  let s : State := { s with out := [] }
  .next { s with pauses := s.pauses.filter fun y => !(y.port == port && y.priority == priority && decide (y.until_ ≤ s.clock.wall)) }

/-! ## What the control cores answer (R336) -/

/-- A request to an interface: charged to the reserve and answered when it names the interface's address, else dropped and counted
(R336, R356). -/
def answerRequest (s : State) (port iface own target : Nat) (f : OutFrame) : Host.Outcome State Fault Refusal :=
  let s : State := { s with out := [] }
  if !takesFrames s port iface then .next s
  else if own = 0 ∨ own ≠ target then .next (filterFrame s port)
  else .next (chargeReserve s port 1 fun s => sendOrHold s port iface (.frame f))

/-- ARP_REQUEST. -/
def execArpRequest (port iface : Nat) (target : BitVec 32) (s : State) : Host.Outcome State Fault Refusal :=
  answerRequest s port iface (ipv4Of s port iface) target.toNat (.arpReply target)

/-- NEIGHBOR_SOLICITATION. -/
def execNeighborSolicitation (port iface : Nat) (target : BitVec 128) (s : State) : Host.Outcome State Fault Refusal :=
  answerRequest s port iface (ipv6Of s port iface) target.toNat (.neighborAdvert target)

/-- ICMP_ECHO_REQUEST, of ICMP or ICMPv6; a frame longer than MAX_FRAME is dropped (R334). -/
def execIcmpEchoRequest (port iface : Nat) (v6 : Bool) (target : BitVec 128) (size : Nat) (s : State) :
    Host.Outcome State Fault Refusal :=
  let own := if v6 then ipv6Of s port iface else ipv4Of s port iface
  let own := if maxFrame s port < size then 0 else own
  answerRequest s port iface own target.toNat (.echoReply v6 size)

end Sys2Proof.Machine
end

