-- ==== Sys2Proof/Machine/RegisterWrites.lean ====
section
/-! DEFINITION. The rows that write registers (R447 to R454): each builds the words of one access by session `by_` and
makes it under the level and the registers' own rules. Where a row changes one field, the other fields of its word are
written with what they hold. -/

namespace Sys2Proof.Machine

open Sys2Proof

/-- One register access by an open session, and its answer; nothing for a session that is not open. -/
def registerAccess (by_ off : Nat) (ws : List Word) (s : State) : Host.Outcome State Fault Refusal :=
  let s : State := { s with out := [] }
  match (if isReady s then sessGet s by_ else none) with
  | none => .next s
  | some x =>
    if ws.isEmpty ∨ 64 < ws.length then .next (emit s (.status .badLength))
    else
      let (c, s) := regWrite s x.cls off ws
      .next (emit s (.status c))

/-- An access to a register of a block that has no such index: the address is unimplemented (R450). -/
def noSuchBlock (s : State) : Host.Outcome State Fault Refusal := .next (emit { s with out := [] } (.status .busError))

/-- An access to a register of block i of n. -/
def blockAccess (by_ i n off : Nat) (ws : List Word) (s : State) : Host.Outcome State Fault Refusal :=
  if i < n then registerAccess by_ off ws s else noSuchBlock s

/-- STANDBY_ENTRY: 1 to PWR_CTRL.STANDBY_REQ (R482). -/
def execStandbyEntry (by_ : Nat) (s : State) : Host.Outcome State Fault Refusal :=
  registerAccess by_ oPwrCtrl [setF (regGet s oPwrCtrl) 30 30 1] s

/-- STANDBY_EXIT: 0 to PWR_CTRL.STANDBY_REQ (R482). -/
def execStandbyExit (by_ : Nat) (s : State) : Host.Outcome State Fault Refusal :=
  registerAccess by_ oPwrCtrl [setF (regGet s oPwrCtrl) 30 30 0] s

/-- FORCE_LIMITED: PWR_CTRL.FORCE_LIMITED (R483). -/
def execForceLimited (by_ : Nat) (on : Bool) (s : State) : Host.Outcome State Fault Refusal :=
  registerAccess by_ oPwrCtrl [setF (regGet s oPwrCtrl) 31 31 on.toNat] s

/-- ENGINE_FENCE_SET: 1 to ENG_FENCE.FENCED (R82). -/
def execEngineFenceSet (by_ engine : Nat) (s : State) : Host.Outcome State Fault Refusal :=
  blockAccess by_ engine 256 (oEng engine + 0x10) [setF 0 31 31 1] s

/-- ENGINE_FENCE_LIFT: 0 to ENG_FENCE.FENCED (R87). -/
def execEngineFenceLift (by_ engine : Nat) (s : State) : Host.Outcome State Fault Refusal :=
  blockAccess by_ engine 256 (oEng engine + 0x10) [0] s

/-- CAL_FENCE_WRITE: CAL_FENCE.FENCED of a stack (R246). -/
def execCalFenceWrite (by_ stack : Nat) (fenced : BitVec 16) (s : State) : Host.Outcome State Fault Refusal :=
  blockAccess by_ stack 8 (oCal stack + 0x10) [setF 0 15 0 fenced.toNat] s

/-- VID_FENCE_WRITE: VID_FENCE.FENCED (R445). -/
def execVidFenceWrite (by_ : Nat) (fenced : BitVec 8) (s : State) : Host.Outcome State Fault Refusal :=
  registerAccess by_ oVidFence [setF 0 7 0 fenced.toNat] s

/-- QUAD_MIRROR_ENABLE: QUAD_MIRROR.ENABLE of a quadrant (R306). -/
def execQuadMirrorEnable (by_ quad : Nat) (on : Bool) (s : State) : Host.Outcome State Fault Refusal :=
  blockAccess by_ quad 4 (oMirror quad) [setF 0 31 31 on.toNat] s

/-- SOURCE_WRITE: TB_CTRL.SOURCE (R287). -/
def execSourceWrite (by_ : Nat) (source : BitVec 2) (s : State) : Host.Outcome State Fault Refusal :=
  registerAccess by_ oTbCtrl [setF (regGet s oTbCtrl) 1 0 source.toNat] s

/-- SEC_SET_WRITE: TB_SEC_SET_LO and TB_SEC_SET_HI in one access (R312). -/
def execSecSetWrite (by_ : Nat) (lo hi : Word) (s : State) : Host.Outcome State Fault Refusal :=
  registerAccess by_ oTbSecLo [lo, hi] s

/-- OPAL_WRITE: words of OPAL_KEY and OPAL_CTR from word `first` on (R217). -/
def execOpalWrite (by_ first : Nat) (words : List Word) (s : State) : Host.Outcome State Fault Refusal :=
  blockAccess by_ first 8 (oOpalKey + 4 * first) words s

/-- MODE_WRITE: ETH_CTRL.MODE of a port (R331). -/
def execModeWrite (by_ port : Nat) (mode : BitVec 2) (s : State) : Host.Outcome State Fault Refusal :=
  blockAccess by_ port 2 (oEth port) [setF (regGet s (oEth port)) 1 0 mode.toNat] s

/-- MAX_FRAME_WRITE: ETH_CTRL.MAX_FRAME of a port (R343). -/
def execMaxFrameWrite (by_ port : Nat) (maxFrame : BitVec 14) (s : State) : Host.Outcome State Fault Refusal :=
  blockAccess by_ port 2 (oEth port) [setF (regGet s (oEth port)) 15 2 maxFrame.toNat] s

/-- SAK_INSTALL: the ETH_SAK registers of an interface, from the first on (R338). -/
def execSakInstall (by_ port iface : Nat) (words : List Word) (s : State) : Host.Outcome State Fault Refusal :=
  if port < 2 then blockAccess by_ iface 4 (oEthSak port iface) words s else noSuchBlock s

/-- KV_POOL_WRITE: KV_POOL_BASE and KV_POOL_SIZE of a stack, one or both (R198). -/
def execKvPoolWrite (by_ stack : Nat) (base size : Option Word) (s : State) : Host.Outcome State Fault Refusal :=
  match base, size with
  | some b, some z => blockAccess by_ stack 8 (oKvBase stack) [b, z] s
  | some b, none => blockAccess by_ stack 8 (oKvBase stack) [b] s
  | none, some z => blockAccess by_ stack 8 (oKvSize stack) [z] s
  | none, none => blockAccess by_ stack 8 (oKvBase stack) [] s

/-- PROT_ENTRY_WRITE: the registers of a protection map entry, from the first on (R463). -/
def execProtEntryWrite (by_ entry : Nat) (words : List Word) (s : State) : Host.Outcome State Fault Refusal :=
  blockAccess by_ entry 256 (oProt entry) words s

/-- NOTICE_CLEAR: 1 to bits of DEV_NOTICE (R468). -/
def execNoticeClear (by_ : Nat) (bits : Word) (s : State) : Host.Outcome State Fault Refusal :=
  registerAccess by_ oNotice [bits] s

/-- REGISTER_WRITE: any words of register space (R453). -/
def execRegisterWrite (by_ offset : Nat) (words : List Word) (s : State) : Host.Outcome State Fault Refusal :=
  registerAccess by_ offset words s

end Sys2Proof.Machine
end

