-- ==== Sys2Proof/Machine/Sideband.lean ====
section
/-! DEFINITION. The SMBus sideband (R489), the health LED (R488), and the TAP (R521). -/

namespace Sys2Proof.Machine

open Sys2Proof

/-! ## HEALTH_LED_N (R488) -/

/-- What HEALTH_LED_N shows: released, asserted, or blinking at a rate in tenths of a hertz. -/
inductive Led where
  | off | on | blink (tenthsHz : Nat)
  deriving DecidableEq, Repr

/-- The health LED. While RESET_N is low the output is released (R473); else a thermal trip shows first, and in OFF nothing. -/
def healthLed (s : State) : Led :=
  if s.tap.resetLow then .off
  else if s.power.tripped then .blink 40
  else
    match s.power.phase with
    | .off => .off
    | .starting => .blink 5
    | .failed => .blink 80
    | _ =>
      match s.snap.health with
      | 0 => .off
      | 1 => .blink 10
      | 2 => .on
      | _ => .blink 40

/-! ## The outputs while RESET_N is low (R473) -/

/-- The outputs that R473 names beside THERM_TRIP_N, which keeps its latched state, and HEALTH_LED_N. -/
structure IdlePins where
  pmReleased : Bool            -- PM_SCL and PM_SDA
  sbReleased : Bool            -- SB_SDA
  tdoReleased : Bool           -- TDO
  spiCsHigh  : Bool            -- SPI_CS_N
  ppsLow     : Bool            -- PPS_OUT
  txIdle     : Bool            -- the Ethernet transmitters
  deriving DecidableEq, Repr

/-- How these outputs stand while RESET_N is low; while it is high they are driven by what their own rules do. -/
def idlePins (s : State) : Option IdlePins :=
  if s.tap.resetLow then
    some { pmReleased := true, sbReleased := true, tdoReleased := true, spiCsHigh := true, ppsLow := true, txIdle := true }
  else none

/-! ## SMBus (R489) -/

/-- The value of a Read Byte; none for a command code that it does not support. -/
def smbusByte (s : State) (code : Byte) : Option Nat :=
  match code.toNat with
  | 0 => some (s.snap.health * 16 + regF s oPwrStatus 31 28)
  | 1 => some (regF s oPwrTemp 31 24)
  | 2 => some (regF s oPwrTemp 23 16)
  | 4 => some s.snap.headroom
  | 5 => some (regF s oPwrStatus 27 24 * 16)
  | 6 => some (regF s oPwrStatus 23 16)
  | _ => none

/-- The value of a Read Word. -/
def smbusWord (s : State) (code : Byte) : Option Nat :=
  if code = 3 then some (regF s oPwrPower 31 16) else none

/-- One byte of a CRC-8 with the polynomial x^8 + x^2 + x + 1. -/
def crc8Step (crc b : Byte) : Byte :=
  (List.range 8).foldl (fun c _ => if c.msb then (c <<< 1) ^^^ 0x07 else c <<< 1) (crc ^^^ b)

/-- The PEC byte of a Read Byte or Read Word at address 0x4E: the CRC-8 of SMBus 3.1 over both address bytes, the command code and
the data (PRESUMED, assumption 109: R489 names PEC and leaves it to the SMBus standard). -/
def smbusPec (code : Byte) (data : Bytes) : Byte := ([0x9C, code, 0x9D] ++ data).foldl crc8Step 0

/-- The answer of the SMBus target: a value, with the PEC byte that follows where the host asks for it, or a NACK. In OFF nothing
answers (R473, R481). -/
def smbusAnswer (s : State) (code : Byte) (bytes : Nat) (v : Option Nat) : State :=
  match (if s.power.phase = .off then none else v) with
  | some n => emit { s with out := [] } (.smbus (BitVec.ofNat 16 n) (smbusPec code (toLE n bytes)))
  | none => emit { s with out := [] } .smbusNack

/-- SMBUS_READ_BYTE. -/
def execSmbusReadByte (code : Byte) (s : State) : Host.Outcome State Fault Refusal :=
  .next (smbusAnswer s code 1 (smbusByte s code))

/-- SMBUS_READ_WORD. -/
def execSmbusReadWord (code : Byte) (s : State) : Host.Outcome State Fault Refusal :=
  .next (smbusAnswer s code 2 (smbusWord s code))

/-- SMBUS_WRITE: every data byte is NACKed and nothing changes. -/
def execSmbusWrite (_code : Byte) (_data : Bytes) (s : State) : Host.Outcome State Fault Refusal :=
  .next (emit { s with out := [] } .smbusNack)

/-! ## The TAP (R521) -/

/-- What the TAP drives onto the pins: only while RESET_N is low. -/
def tapDrives (t : Tap) : Option (List Bool) := if t.resetLow then t.driven else none

/-- Whether the TAP releases the pins: only while RESET_N is low. -/
def tapReleases (t : Tap) : Bool := t.resetLow && t.released

/-- Test-Logic-Reset: IDCODE is loaded and every pin is released. -/
def tapHome (t : Tap) : Tap := { t with ir := .idcode, driven := none, released := false }

/-- An instruction is loaded, with what it drives or releases, and bits leave TDO. -/
def tapRun (s : State) (i : TapInstr) (driven : Option (List Bool)) (released : Bool) (tdo : List Bool) : State :=
  emit { s with out := [], tap := { s.tap with ir := i, driven := driven, released := released } } (.tdo tdo)

/-- What the boundary cells capture: the levels at the pins, which the board sets (free values). -/
def capture (s : State) (n : Nat) : List Bool × State :=
  ((List.range n).map (fun i => (Config.free (s.freeCtr + i)).testBit 0), { s with freeCtr := s.freeCtr + n })

/-- An instruction that captures the pins and shifts new values into the chain. -/
def tapScan (s : State) (i : TapInstr) (shift : Chain) (drive : Bool) : State :=
  let (bits, s) := capture s shift.length
  let s : State := { s with tap := { s.tap with chain := shift } }
  tapRun s i (if drive then some shift else none) false bits

/-- TAP_RESET: TRST_N low, or a rising edge of RESET_N. -/
def execTapReset (rising : Bool) (s : State) : Host.Outcome State Fault Refusal :=
  let t := tapHome s.tap
  .next { s with out := [], tap := if rising then { t with resetLow := false } else t }

/-- EXTEST. -/
def execExtest (shift : Chain) (s : State) : Host.Outcome State Fault Refusal := .next (tapScan s .extest shift true)

/-- SAMPLE/PRELOAD. -/
def execSamplePreload (shift : Chain) (s : State) : Host.Outcome State Fault Refusal :=
  .next (tapScan s .samplePreload shift false)

/-- The identification code, least significant bit first: version 1, part 0x0009, manufacturer 0x25D. -/
def idcodeBits : List Bool := (List.range 32).map (0x100094BB : Nat).testBit

/-- IDCODE. -/
def execIdcode (s : State) : Host.Outcome State Fault Refusal := .next (tapRun s .idcode none false idcodeBits)

/-- EXTEST_PULSE, on the Ethernet lanes (IEEE 1149.6). -/
def execExtestPulse (shift : Chain) (s : State) : Host.Outcome State Fault Refusal := .next (tapScan s .extestPulse shift true)

/-- EXTEST_TRAIN, on the Ethernet lanes (IEEE 1149.6). -/
def execExtestTrain (shift : Chain) (s : State) : Host.Outcome State Fault Refusal := .next (tapScan s .extestTrain shift true)

/-- CLAMP: the pins hold the preloaded values, and the bypass register is selected. -/
def execClamp (s : State) : Host.Outcome State Fault Refusal := .next (tapRun s .clamp (some s.tap.chain) false [false])

/-- HIGHZ: the pins are released, and the bypass register is selected. -/
def execHighz (s : State) : Host.Outcome State Fault Refusal := .next (tapRun s .highz none true [false])

/-- The codes that R521 defines besides BYPASS. -/
def definedCodes : List Byte := [0x00, 0x01, 0x02, 0x08, 0x09, 0x0C, 0x0D]

/-- BYPASS: code 0xFF and every code that R521 does not define. Another code is another row's instruction. -/
def execBypass (code : Byte) (s : State) : Host.Outcome State Fault Refusal :=
  if definedCodes.contains code then .next { s with out := [] } else .next (tapRun s .bypass none false [false])

end Sys2Proof.Machine
end

