-- ==== Sys2Proof/Machine/Dispatch.lean ====
section
/-! DEFINITION. What each command does: one arm for each row of the table of operations and events, each
one direct call of the row's meaning. -/

namespace Sys2Proof.Machine

open Sys2Proof

/-- The effect of a command on everything but the queue of commands that wait. -/
def exec (i : Instr) (s : State) : Host.Outcome State Fault Refusal :=
  match i with
  | .challenge p => Sys2Proof.Machine.execChallenge p s
  | .ownerClaim p => Sys2Proof.Machine.execOwnerClaim p s
  | .reserve p => Sys2Proof.Machine.execReserve p s
  | .admitSession p => Sys2Proof.Machine.execAdmitSession p s
  | .sessionClose p => Sys2Proof.Machine.execSessionClose p s
  | .ping p => Sys2Proof.Machine.execPing p s
  | .regRead p => Sys2Proof.Machine.execRegRead p s
  | .regWrite p => Sys2Proof.Machine.execRegWrite p s
  | .imageLoad p => Sys2Proof.Machine.execImageLoad p s
  | .imageLoadComplete k => Sys2Proof.Machine.execImageLoadComplete k s
  | .imageVerify p => Sys2Proof.Machine.execImageVerify p s
  | .imageVerifyComplete k => Sys2Proof.Machine.execImageVerifyComplete k s
  | .imageUnload p => Sys2Proof.Machine.execImageUnload p s
  | .jobSubmit p => Sys2Proof.Machine.execJobSubmit p s
  | .jobQuery p => Sys2Proof.Machine.execJobQuery p s
  | .jobCancel p => Sys2Proof.Machine.execJobCancel p s
  | .jobPause p => Sys2Proof.Machine.execJobPause p s
  | .jobResume p => Sys2Proof.Machine.execJobResume p s
  | .ctxSave p => Sys2Proof.Machine.execCtxSave p s
  | .ctxSaveComplete ctx => Sys2Proof.Machine.execCtxSaveComplete ctx s
  | .ctxRestore p => Sys2Proof.Machine.execCtxRestore p s
  | .ctxRestoreComplete ctx => Sys2Proof.Machine.execCtxRestoreComplete ctx s
  | .pageAlloc p => Sys2Proof.Machine.execPageAlloc p s
  | .pageShare p => Sys2Proof.Machine.execPageShare p s
  | .pageRelease p => Sys2Proof.Machine.execPageRelease p s
  | .digestRead p => Sys2Proof.Machine.execDigestRead p s
  | .vidOpen p => Sys2Proof.Machine.execVidOpen p s
  | .vidFrame p => Sys2Proof.Machine.execVidFrame p s
  | .vidClose p => Sys2Proof.Machine.execVidClose p s
  | .vidCloseComplete stream => Sys2Proof.Machine.execVidCloseComplete stream s
  | .timeQuery p => Sys2Proof.Machine.execTimeQuery p s
  | .fwStage p => Sys2Proof.Machine.execFwStage p s
  | .fwStageComplete => Sys2Proof.Machine.execFwStageComplete s
  | .fwCommit p => Sys2Proof.Machine.execFwCommit p s
  | .fwCommitComplete => Sys2Proof.Machine.execFwCommitComplete s
  | .commitRestartReset => Sys2Proof.Machine.execCommitRestartReset s
  | .attest p => Sys2Proof.Machine.execAttest p s
  | .attestComplete k => Sys2Proof.Machine.execAttestComplete k s
  | .array p => Sys2Proof.Machine.execArray p s
  | .engineSram p => Sys2Proof.Machine.execEngineSram p s
  | .caldera p => Sys2Proof.Machine.execCaldera p s
  | .codec p => Sys2Proof.Machine.execCodec p s
  | .memory p => Sys2Proof.Machine.execMemory p s
  | .serdes p => Sys2Proof.Machine.execSerdes p s
  | .d2d p => Sys2Proof.Machine.execD2d p s
  | .knownAnswer p => Sys2Proof.Machine.execKnownAnswer p s
  | .diagTestComplete results elapsedUs => Sys2Proof.Machine.execDiagTestComplete results elapsedUs s
  | .telemetryRead p => Sys2Proof.Machine.execTelemetryRead p s
  | .groupJoin p => Sys2Proof.Machine.execGroupJoin p s
  | .groupLeave p => Sys2Proof.Machine.execGroupLeave p s
  | .groupLeaveComplete => Sys2Proof.Machine.execGroupLeaveComplete s
  | .standbyEntry by_ => Sys2Proof.Machine.execStandbyEntry by_ s
  | .standbyExit by_ => Sys2Proof.Machine.execStandbyExit by_ s
  | .forceLimited by_ on => Sys2Proof.Machine.execForceLimited by_ on s
  | .engineFenceSet by_ engine => Sys2Proof.Machine.execEngineFenceSet by_ engine s
  | .engineFenceLift by_ engine => Sys2Proof.Machine.execEngineFenceLift by_ engine s
  | .calFenceWrite by_ stack fenced => Sys2Proof.Machine.execCalFenceWrite by_ stack fenced s
  | .vidFenceWrite by_ fenced => Sys2Proof.Machine.execVidFenceWrite by_ fenced s
  | .quadMirrorEnable by_ quad on => Sys2Proof.Machine.execQuadMirrorEnable by_ quad on s
  | .sourceWrite by_ source => Sys2Proof.Machine.execSourceWrite by_ source s
  | .secSetWrite by_ lo hi => Sys2Proof.Machine.execSecSetWrite by_ lo hi s
  | .opalWrite by_ first words => Sys2Proof.Machine.execOpalWrite by_ first words s
  | .modeWrite by_ port mode => Sys2Proof.Machine.execModeWrite by_ port mode s
  | .maxFrameWrite by_ port maxFrame => Sys2Proof.Machine.execMaxFrameWrite by_ port maxFrame s
  | .sakInstall by_ port iface words => Sys2Proof.Machine.execSakInstall by_ port iface words s
  | .kvPoolWrite by_ stack base size => Sys2Proof.Machine.execKvPoolWrite by_ stack base size s
  | .protEntryWrite by_ entry words => Sys2Proof.Machine.execProtEntryWrite by_ entry words s
  | .noticeClear by_ bits => Sys2Proof.Machine.execNoticeClear by_ bits s
  | .registerWrite by_ offset words => Sys2Proof.Machine.execRegisterWrite by_ offset words s
  | .read q mem => Sys2Proof.Machine.execRead q mem s
  | .write q mem => Sys2Proof.Machine.execWrite q mem s
  | .fetchAdd q mem => Sys2Proof.Machine.execFetchAdd q mem s
  | .atomicAdd q mem => Sys2Proof.Machine.execAtomicAdd q mem s
  | .cas q mem => Sys2Proof.Machine.execCas q mem s
  | .fence q => Sys2Proof.Machine.execFence q s
  | .rsp q => Sys2Proof.Machine.execRsp q s
  | .ack q => Sys2Proof.Machine.execAck q s
  | .nak q => Sys2Proof.Machine.execNak q s
  | .ethFrameRx f => Sys2Proof.Machine.execEthFrameRx f s
  | .pfcFrame port priority pauseNs => Sys2Proof.Machine.execPfcFrame port priority pauseNs s
  | .pfcPauseExpiry port priority => Sys2Proof.Machine.execPfcPauseExpiry port priority s
  | .arpRequest port iface target => Sys2Proof.Machine.execArpRequest port iface target s
  | .neighborSolicitation port iface target => Sys2Proof.Machine.execNeighborSolicitation port iface target s
  | .icmpEchoRequest port iface v6 target size => Sys2Proof.Machine.execIcmpEchoRequest port iface v6 target size s
  | .txSend port => Sys2Proof.Machine.execTxSend port s
  | .ackDelayExpiry session => Sys2Proof.Machine.execAckDelayExpiry session s
  | .rtoExpiry session => Sys2Proof.Machine.execRtoExpiry session s
  | .sessionFail session => Sys2Proof.Machine.execSessionFail session s
  | .challengeExpiry k => Sys2Proof.Machine.execChallengeExpiry k s
  | .reservationExpiry session => Sys2Proof.Machine.execReservationExpiry session s
  | .linkTrainingRetry port iface => Sys2Proof.Machine.execLinkTrainingRetry port iface s
  | .portFallback port => Sys2Proof.Machine.execPortFallback port s
  | .ptpSync m => Sys2Proof.Machine.execPtpSync m s
  | .ptpFollowUp m => Sys2Proof.Machine.execPtpFollowUp m s
  | .ptpDelayResp m => Sys2Proof.Machine.execPtpDelayResp m s
  | .ptpAnnounce m => Sys2Proof.Machine.execPtpAnnounce m s
  | .delayReqSend => Sys2Proof.Machine.execDelayReqSend s
  | .announceTimeout => Sys2Proof.Machine.execAnnounceTimeout s
  | .syncTimeout => Sys2Proof.Machine.execSyncTimeout s
  | .holdoverLimitExpiry => Sys2Proof.Machine.execHoldoverLimitExpiry s
  | .ppsInEdge highNs => Sys2Proof.Machine.execPpsInEdge highNs s
  | .ppsStuck => Sys2Proof.Machine.execPpsStuck s
  | .ppsOutRise => Sys2Proof.Machine.execPpsOutRise s
  | .ppsOutFall => Sys2Proof.Machine.execPpsOutFall s
  | .reset pin lowNs => Sys2Proof.Machine.execReset pin lowNs s
  | .startup r => Sys2Proof.Machine.execStartup r s
  | .startupTimeTimeout => Sys2Proof.Machine.execStartupTimeTimeout s
  | .regulatorAlert lowNs rails => Sys2Proof.Machine.execRegulatorAlert lowNs rails s
  | .vrAlertSustained => Sys2Proof.Machine.execVrAlertSustained s
  | .thermalTrip sensor tempC => Sys2Proof.Machine.execThermalTrip sensor tempC s
  | .pmbusPoll rails => Sys2Proof.Machine.execPmbusPoll rails s
  | .powerCalibration readPoutW => Sys2Proof.Machine.execPowerCalibration readPoutW s
  | .powerEvaluation x => Sys2Proof.Machine.execPowerEvaluation x s
  | .limitedExit => Sys2Proof.Machine.execLimitedExit s
  | .rampModeEnd => Sys2Proof.Machine.execRampModeEnd s
  | .voteScrub => Sys2Proof.Machine.execVoteScrub s
  | .patrol stack finds => Sys2Proof.Machine.execPatrol stack finds s
  | .refreshRateRead dies => Sys2Proof.Machine.execRefreshRateRead dies s
  | .healthTimeCheckpoint => Sys2Proof.Machine.execHealthTimeCheckpoint s
  | .healthRecordWriteDone => Sys2Proof.Machine.execHealthRecordWriteDone s
  | .correctionWriteBack addr => Sys2Proof.Machine.execCorrectionWriteBack addr s
  | .beatBoundary x => Sys2Proof.Machine.execBeatBoundary x s
  | .batchWaitExpiry image => Sys2Proof.Machine.execBatchWaitExpiry image s
  | .groupBeatStart => Sys2Proof.Machine.execGroupBeatStart s
  | .slipNotice j => Sys2Proof.Machine.execSlipNotice j s
  | .groupHoldLimit engine member => Sys2Proof.Machine.execGroupHoldLimit engine member s
  | .nop v => Sys2Proof.Machine.execNop v s
  | .rows v => Sys2Proof.Machine.execRows v s
  | .wload v => Sys2Proof.Machine.execWload v s
  | .epi v => Sys2Proof.Machine.execEpi v s
  | .mread v => Sys2Proof.Machine.execMread v s
  | .mwrite v => Sys2Proof.Machine.execMwrite v s
  | .atomic v => Sys2Proof.Machine.execAtomic v s
  | .fenceBundle v => Sys2Proof.Machine.execFenceBundle v s
  | .arrive v => Sys2Proof.Machine.execArrive v s
  | .completionLanded engine tag ready => Sys2Proof.Machine.execCompletionLanded engine tag ready s
  | .remoteWriteLanding engine k => Sys2Proof.Machine.execRemoteWriteLanding engine k s
  | .holdSimmerExpiry engine arr => Sys2Proof.Machine.execHoldSimmerExpiry engine arr s
  | .d2dFlitUncorrectable edge engine target => Sys2Proof.Machine.execD2dFlitUncorrectable edge engine target s
  | .samplerStep v => Sys2Proof.Machine.execSamplerStep v s
  | .guidance v => Sys2Proof.Machine.execGuidance v s
  | .optim v => Sys2Proof.Machine.execOptim v s
  | .reduce v => Sys2Proof.Machine.execReduce v s
  | .quantiseDeferred v => Sys2Proof.Machine.execQuantiseDeferred v s
  | .transpose v => Sys2Proof.Machine.execTranspose v s
  | .gather v => Sys2Proof.Machine.execGather v s
  | .scatter v => Sys2Proof.Machine.execScatter v s
  | .gatherPageRead v => Sys2Proof.Machine.execGatherPageRead v s
  | .scatterPageWrite v => Sys2Proof.Machine.execScatterPageWrite v s
  | .orderedAccumulate v => Sys2Proof.Machine.execOrderedAccumulate v s
  | .cowCopyComplete page => Sys2Proof.Machine.execCowCopyComplete page s
  | .demotionCopyComplete page => Sys2Proof.Machine.execDemotionCopyComplete page s
  | .tokenSamplerRun ctx => Sys2Proof.Machine.execTokenSamplerRun ctx s
  | .codecTileBoundary r => Sys2Proof.Machine.execCodecTileBoundary r s
  | .smbusReadByte code => Sys2Proof.Machine.execSmbusReadByte code s
  | .smbusReadWord code => Sys2Proof.Machine.execSmbusReadWord code s
  | .smbusWrite code data => Sys2Proof.Machine.execSmbusWrite code data s
  | .tapReset rising => Sys2Proof.Machine.execTapReset rising s
  | .extest shift => Sys2Proof.Machine.execExtest shift s
  | .samplePreload shift => Sys2Proof.Machine.execSamplePreload shift s
  | .idcode => Sys2Proof.Machine.execIdcode s
  | .extestPulse shift => Sys2Proof.Machine.execExtestPulse shift s
  | .extestTrain shift => Sys2Proof.Machine.execExtestTrain shift s
  | .clamp => Sys2Proof.Machine.execClamp s
  | .highz => Sys2Proof.Machine.execHighz s
  | .bypass code => Sys2Proof.Machine.execBypass code s
  | .linkTrainingComplete port iface lanes => Sys2Proof.Machine.execLinkTrainingComplete port iface lanes s

end Sys2Proof.Machine
end

