-- ==== Sys2Proof/Safety.lean ====
section
/-! DEFINITION. What counts as a safe run: no step of it stops. -/

namespace Sys2Proof

open Sys2Proof.Machine

/-- n steps from a state, when none of them stops. -/
def runN : Nat → State → Option State
  | 0, s => some s
  | n + 1, s =>
    match step s with
    | .next t => runN n t
    | _ => none

/-- A state from which no run of steps stops. -/
def Safe (s : State) : Prop := ∀ n, (runN n s).isSome

/-- The keys of a table strictly rise. -/
def keysRise {α : Type} : List (Nat × α) → Bool
  | [] => true
  | [_] => true
  | (a, _) :: (b, y) :: t => decide (a < b) && keysRise ((b, y) :: t)

/-- The tables of the state are in their canonical forms: memory, registers and engines list in rising order exactly
what differs from the unlisted value; sessions stand in rising order; the event log holds at most 16,384 records
(R396). -/
structure Canonical (s : State) : Prop where
  mem      : Memory.wf s.mem = true
  regs     : swf resetWord s.regs = true
  engines  : swf (fun _ => ({} : Engine)) s.engines = true
  sessions : keysRise s.sessions = true
  events   : s.events.length ≤ 16384

end Sys2Proof
end

