-- ==== Sys2Proof/Certificates/Slice0/Obligations.lean ====
section
/-! DEFINITION. The statements about the model, for the provers. -/

namespace Sys2Proof.Terms

open Sys2Proof Sys2Proof.Machine

/-! ## Words that the statements share -/

/-- The opcode and the packet of a row that is a host command; a row of SESSION_OPEN or DIAG_RUN fixes the first
parameter byte (R382, R514). -/
def commandOf : Instr → Option (Byte × Packet)
  | .challenge p => some (0x01, withMode 0 p)
  | .ownerClaim p => some (0x01, withMode 1 p)
  | .reserve p => some (0x01, withMode 2 p)
  | .admitSession p => some (0x01, withMode 3 p)
  | .sessionClose p => some (0x02, p)
  | .ping p => some (0x03, p)
  | .regRead p => some (0x10, p)
  | .regWrite p => some (0x11, p)
  | .imageLoad p => some (0x20, p)
  | .imageVerify p => some (0x21, p)
  | .imageUnload p => some (0x22, p)
  | .jobSubmit p => some (0x30, p)
  | .jobQuery p => some (0x31, p)
  | .jobCancel p => some (0x32, p)
  | .jobPause p => some (0x33, p)
  | .jobResume p => some (0x34, p)
  | .ctxSave p => some (0x38, p)
  | .ctxRestore p => some (0x39, p)
  | .pageAlloc p => some (0x40, p)
  | .pageShare p => some (0x41, p)
  | .pageRelease p => some (0x42, p)
  | .digestRead p => some (0x50, p)
  | .vidOpen p => some (0x60, p)
  | .vidFrame p => some (0x61, p)
  | .vidClose p => some (0x62, p)
  | .timeQuery p => some (0x70, p)
  | .fwStage p => some (0x80, p)
  | .fwCommit p => some (0x81, p)
  | .attest p => some (0x90, p)
  | .array p => some (0xA0, withTest 1 p)
  | .engineSram p => some (0xA0, withTest 2 p)
  | .caldera p => some (0xA0, withTest 3 p)
  | .codec p => some (0xA0, withTest 4 p)
  | .memory p => some (0xA0, withTest 5 p)
  | .serdes p => some (0xA0, withTest 6 p)
  | .d2d p => some (0xA0, withTest 7 p)
  | .knownAnswer p => some (0xA0, withTest 8 p)
  | .telemetryRead p => some (0xA1, p)
  | .groupJoin p => some (0xF0, p)
  | .groupLeave p => some (0xF1, p)
  | _ => none

/-- A command of open session n, with its opcode and packet, that is no longer than the session's segment size (R342), passes steps
1 to 6 of R375 and meets no interlock (R482, R510, R515): its own checks come next. -/
structure Admitted (c : Instr) (s : State) (n : Nat) (x : Session) (op : Byte) (p : Packet) : Prop where
  command : commandOf c = some (op, p)
  ready   : isReady s = true
  origin  : p.origin = .session n
  opened  : sessGet s n = some x
  fits    : 32 + p.params.length ≤ x.segment
  checks  : sessionCheck x n op p = none
  free    : heldOff s op = false

/-- The state in which an admitted command's own checks are made: its RING_ACK is taken (R379). -/
def taken (s : State) (n : Nat) (p : Packet) : State := takeRingAck { s with out := [] } n p.ringAck

/-- The step's one output is a reply to packet p with an opcode, a code and a result, and no event (R372). -/
def Replied (t : State) (p : Packet) (op : Byte) (c : Code) (result : Bytes) : Prop :=
  ∃ r, t.out = [.reply r] ∧ r.origin = p.origin ∧ r.opcode = op ∧ r.code = c ∧ r.tag = p.tag ∧ r.result = result
    ∧ r.eventRef = 0xFFFFFFFF

/-- A reply to packet p with an opcode, a code and a result, and no event, waits to leave in a BOOT packet to where the packet
came from (R354, R362, R372). -/
def BootReplied (s t : State) (p : Packet) (op : Byte) (c : Code) (result : Bytes) : Prop :=
  ∃ port iface r d, t.heldOut = s.heldOut ++ [{ port := port, iface := iface, what := .boot d r }]
    ∧ p.origin = .boot port iface d.addr d.udp ∧ r.opcode = op ∧ r.code = c ∧ r.tag = p.tag ∧ r.session = 0xFFFF
    ∧ r.result = result ∧ r.eventRef = 0xFFFFFFFF

/-- Session n stands after a command that reserved k ring entries, with its class and window (R379). -/
def Booked (s t : State) (n k : Nat) : Prop :=
  ∃ x y, sessGet s n = some x ∧ sessGet t n = some y ∧ y.reserved = x.reserved + k ∧ y.doneSeq = x.doneSeq
    ∧ y.cls = x.cls ∧ y.window = x.window

end Sys2Proof.Terms

open Sys2Proof Sys2Proof.Machine Sys2Proof.Terms

/-! ## The block -/

/-- A step takes the command at the front of the queue and runs it on the state with the queue's rest (the model's
frame: a block of commands, first in, first out), and no command leaves a command in the queue or takes one out; every
command ends in a next state, so that no run stops. The queue, and the tick of 1 ns on an empty queue, are the model's own
(log entry 1). -/
def Obligations.StepRunsTheFrontCommand : Prop :=
  (∀ (c : Instr) (rest : List Instr) (s : State), s.pending = c :: rest → step s = exec c { s with pending := rest })
    ∧ (∀ s : State, s.pending = [] →
      ∃ t, step s = .next t ∧ t = { s with out := [], clock := t.clock } ∧ t.clock.wall = s.clock.wall + 1)
    ∧ (∀ (c : Instr) (s : State), ∃ t, exec c s = .next t ∧ t.pending = s.pending)
    ∧ ∀ s : State, Safe s

/-- After reset the tables are in canonical form, nothing waits, no memory byte is listed, and every register reads
its reset value (R490). That memory reads 0, and the values of registers for which the manual gives none, are the
model's choice (log entries 3 and 5). -/
def Obligations.ResetIsCanonical : Prop :=
  Canonical State.reset ∧ State.reset.pending = [] ∧ State.reset.sessions = [] ∧ State.reset.ctxs = []
    ∧ (∀ a, byteAt State.reset a = 0) ∧ ∀ off, regGet State.reset off = resetWord off

/-- Every step from a state in canonical form that goes on ends in a state in canonical form. The canonical form is
the model's own representation (log entries 3 and 4). -/
def Obligations.StepKeepsCanonical : Prop :=
  ∀ s t : State, Canonical s → step s = .next t → Canonical t

/-! ## Commands (R368 to R397) -/

/-- A command that fails steps 1 to 6 of R375 answers the first failure's code and has no effect on anything but the
session's own books and the reply; one that a firmware fault stops at a step that no earlier failure precedes answers INTERNAL, the
fault is logged, and the reply names its record. -/
def Obligations.FirstFailedCheckDecides : Prop :=
  ∀ (c : Instr) (op : Byte) (p : Packet) (s : State) (n : Nat) (x : Session) (code : Code),
    commandOf c = some (op, p) → isReady s = true → p.origin = .session n → sessGet s n = some x →
    32 + p.params.length ≤ x.segment → sessionCheck x n op p = some code →
    (p.fault = none →
      ∃ t, exec c s = .next t ∧ Replied t p op code [] ∧ t = { s with out := t.out, sessions := t.sessions } ∧ Booked s t n 0)
    ∧ (code = .internal →
      ∃ t r e, exec c s = .next t ∧ t.out = [.reply r] ∧ r.opcode = op ∧ r.code = .internal ∧ r.result = []
        ∧ t.events.head? = some e ∧ e.code = 0xFFF ∧ e.detail.take 2 = toLE 375 2 ∧ r.eventRef = e.seq
        ∧ t = { s with out := t.out, sessions := t.sessions, events := t.events, nextSeq := s.nextSeq + 1 } ∧ Booked s t n 0)

/-- PING, TIME_QUERY, JOB_QUERY, TELEMETRY_READ of the device counters, DIGEST_READ and REG_READ answer OK with their
records and change nothing but the session's own books. That the time state, the source and the offset of TIME_QUERY are
those of the latest boundary is deduced (log entry 89). -/
def Obligations.QueriesAnswerAndChangeNothing : Prop :=
  ∀ (c : Instr) (s : State) (n : Nat) (x : Session) (op : Byte) (p : Packet), Admitted c s n x op p →
    (c = .ping p → ∃ t, exec c s = .next t ∧ Replied t p op .ok []
      ∧ t = { s with out := t.out, sessions := t.sessions })
    ∧ (c = .timeQuery p → ∃ t result, exec c s = .next t ∧ Replied t p op .ok result
      ∧ t = { s with out := t.out, sessions := t.sessions }
      ∧ result.length = 32 ∧ field result 0 8 = dtSec s % 2 ^ 64 ∧ field result 8 4 = dtNs s
      ∧ field result 12 2 = dtFrac s ∧ field result 14 1 = timeByte s.snap.time ∧ field result 15 1 = s.snap.source % 256
      ∧ field result 16 4 = s.snap.offset.toNat ∧ field result 24 8 = s.beats % 2 ^ 64)
    ∧ (c = .jobQuery p → ∀ k, ctxGet s (field p.params 0 2) = some k → mayName ⟨x.cls, some n⟩ k.owner = true →
      ∃ t result, exec c s = .next t ∧ Replied t p op .ok result ∧ t = { s with out := t.out, sessions := t.sessions }
        ∧ result.length = 48 ∧ field result 0 1 = ctxStateByte k.state ∧ field result 4 4 = k.step.toNat
        ∧ field result 8 4 = k.stepsLeft.toNat ∧ field result 16 8 = (runsImage k).toNat)
    ∧ (c = .telemetryRead p → field p.params 0 2 = 2 → zeroAt p.params 2 6 = true → field p.params 8 8 = 0 →
      0 < field p.params 16 4 → 48 ≤ x.segment - 32 →
      ∃ t result, exec c s = .next t ∧ Replied t p op .ok result ∧ t = { s with out := t.out, sessions := t.sessions }
        ∧ field result 8 4 = 1 ∧ field result 16 8 = s.snap.counters.delayed % 2 ^ 64
        ∧ field result 24 8 = s.snap.counters.delayCycles % 2 ^ 64
        ∧ field result 32 8 = s.beats % 2 ^ 64 ∧ field result 40 8 = s.snap.counters.slips % 2 ^ 64)
    ∧ (c = .digestRead p → ∀ k, ctxGet s (field p.params 0 2) = some k → mayName ⟨x.cls, some n⟩ k.owner = true →
      k.desc.logEntries ≠ 0 → zeroAt p.params 2 6 = true → k.logged = field p.params 8 8 + 1 → 0 < field p.params 16 4 →
      40 ≤ x.segment - 32 →
      let a := k.desc.logBase + field p.params 8 8 % k.desc.logEntries * 32
      anyPoison s (spanLinear a 32) = false → field (spanRead s a 32) 8 8 = field p.params 8 8 →
      ∃ t, exec c s = .next t ∧ Replied t p op .ok (toLE 1 4 ++ toLE 0 4 ++ spanRead s a 32)
        ∧ t = { s with out := t.out, sessions := t.sessions })
    ∧ (c = .regRead p → s.votes = [] → ∀ ws, regRead (taken s n p) x.cls (field p.params 0 4) (field p.params 4 4) = .ok ws →
      0 < field p.params 4 4 → field p.params 4 4 ≤ 64 →
      ∃ t, exec c s = .next t ∧ Replied t p op .ok (ws.flatMap fun w => toLE w.toNat 4)
        ∧ t = { s with out := t.out, sessions := t.sessions })

/-- The state that a BOOT packet which is answered finds: the frame and the packet are counted (R354). -/
def Sys2Proof.Terms.booted (s : State) (port : Nat) : State := countBoot (countRx { s with out := [] } port) port

/-- A BOOT packet that the device answers by its own checks: the interface is up and speaks the packet's IP version, the reserve has room for the frame, the port has not used its 1,024 BOOT packets of this second, steps 1 to 6 of R375
pass, and it repeats no claim (R335, R337, R354, R356, R371, R384). -/
structure Sys2Proof.Terms.BootAdmitted (c : Instr) (s : State) (port iface addr udp : Nat) (p : Packet) : Prop where
  command : commandOf c = some (0x01, p)
  ready   : isReady s = true
  origin  : p.origin = .boot port iface addr udp
  port_ok : port < 2
  up      : ifaceUp s port iface = true
  ip      : ipOn s port iface addr = true
  size    : 32 + p.params.length ≤ segmentOf s port
  room    : costOf (32 + p.params.length) + 512 ≤ rxFree s ∧ costOf (32 + p.params.length) ≤ 1024 ∧ s.xoff = false
  rate    : bootsIn (countRx s port) port < 1024
  checks  : bootCheck 0x01 p = none
  fresh   : (liveMemos (booted s port)).find? (fun m => m.packet == p) = none

/-- Session n is open in a class, bound to the port, the interface, the source address and the source UDP port of the
packet that opened it, with window and PSNs as asked (R357, R383, R384). -/
def Sys2Proof.Terms.Opened (t : State) (n : Nat) (cls : Cls) (port iface addr udp window psn : Nat) : Prop :=
  ∃ x, sessGet t n = some x ∧ x.cls = cls ∧ x.port = port ∧ x.iface = iface ∧ x.addr = addr ∧ x.udp = udp
    ∧ x.window = window ∧ x.expect = BitVec.ofNat 32 psn ∧ x.held = 0 ∧ x.kept = [] ∧ x.doneSeq = 0

/-- SESSION_OPEN (R383): a CHALLENGE draws a nonce and keeps at most 16; an OWNER_CLAIM whose nonce is outstanding
opens an OWNER session when its signature verifies, and answers SIGNATURE_FAIL otherwise; a RESERVE by an OWNER
session keeps a session and its window; an ADMIT with the admission code opens the reserved session. Which free
session is taken, and that ADMIT raises a reserved window to the least of its own interface, are the model's choices (log
entries 57 and 60). -/
def Obligations.SessionsOpenByChallengeClaimReserveAdmit : Prop :=
  (∀ (c : Instr) (s : State) (port iface addr udp : Nat) (p : Packet), BootAdmitted c s port iface addr udp p →
    (∀ q, c = .challenge q → openFieldsOk p.params 0 = true →
      ∃ t nonce, exec c s = .next t ∧ nonce.length = 16 ∧ BootReplied s t p 0x01 .ok nonce
        ∧ t.challenges.getLast? = some { nonce := BitVec.ofNat 128 (leNat nonce), drawn := s.clock.dt }
        ∧ t.challenges.length ≤ 16 ∧ t.sessions = s.sessions)
    ∧ (∀ q, c = .ownerClaim q → openFieldsOk p.params 1 = true → ∀ n w,
      (liveChallenges s).any (fun y => y.nonce == BitVec.ofNat 128 (field p.params 16 16)) = true →
      freeSession s = some n → grantWindow s (segmentOf s port) (field p.params 4 4) = some w →
      ∃ t, exec c s = .next t ∧
        (if ownerKeyVerifies s 0 (slice p.params 32 8) (sha512 (p.params.take 40)) (slice p.params 40 66)
              (slice p.params 106 66) then
          Opened t n .owner port iface addr udp w (field p.params 8 4)
            ∧ BootReplied s t p 0x01 .ok (openResult t n)
            ∧ t.challenges.all (fun y => y.nonce != BitVec.ofNat 128 (field p.params 16 16)) = true
        else BootReplied s t p 0x01 .signatureFail [] ∧ t.sessions = s.sessions ∧ t.challenges = s.challenges))
    ∧ (∀ q, c = .admitSession q → openFieldsOk p.params 3 = true → ∀ r ∈ liveReservations s,
      (liveReservations s).find? (fun y => y.session == field p.params 2 2
        && y.nonce == BitVec.ofNat 128 (field p.params 16 16)) = some r →
      ∀ w, grantWindow { s with reservations := s.reservations.filter fun y => y.session != r.session } (segmentOf s port)
          r.window = some w →
      ∃ t, exec c s = .next t ∧ Opened t r.session r.cls port iface addr udp w (field p.params 8 4)
        ∧ BootReplied s t p 0x01 .ok (openResult t r.session)
        ∧ t.reservations.all (fun y => y.session != r.session) = true))
  ∧ ∀ (s : State) (n k w : Nat) (x : Session) (p q : Packet), Admitted (.reserve q) s n x 0x01 p → x.cls = .owner →
      openFieldsOk p.params 2 = true → freeSession (taken s n p) = some k →
      grantWindow (taken s n p) x.segment (field p.params 4 4) = some w →
      ∃ t code, exec (.reserve q) s = .next t ∧ code.length = 16
        ∧ Replied t p 0x01 .ok (toLE k 2 ++ List.replicate 14 0 ++ code)
        ∧ t.reservations = s.reservations ++ [{ session := k, cls := if field p.params 1 1 = 1 then .operator else .job
                                                window := w, nonce := BitVec.ofNat 128 (leNat code), made := s.clock.dt }]

/-- SESSION_CLOSE of the own session (R381, R442): after its reply the session is gone, its streams close, those that are
DAMAGED at once, and its jobs stay. -/
def Obligations.SessionCloseLeavesJobs : Prop :=
  ∀ (s : State) (n : Nat) (x : Session) (p : Packet), Admitted (.sessionClose p) s n x 0x02 p → keysRise s.sessions = true →
    field p.params 0 2 = 0xFFFF → x.held = 0 →
    ∃ t, exec (.sessionClose p) s = .next t ∧ Replied t p 0x02 .ok [] ∧ sessGet t n = none ∧ t.ctxs = s.ctxs
      ∧ (∀ psn, p.reqPsn = some psn → ∃ y r, t.parting.getLast? = some y ∧ y.port = x.port ∧ y.iface = x.iface
          ∧ y.packet.type = 2 ∧ y.packet.session = n ∧ y.packet.reqPsn = psn ∧ y.packet.status = 0
          ∧ t.out = [.reply r] ∧ y.packet.payload = replyBytes r ∧ r.session = p.session)
      ∧ (∀ k, k ≠ n → sessGet t k = sessGet s k)
      ∧ t.streams.map (·.num) = (s.streams.filter fun y => !(y.owner == n && y.damaged)).map (·.num)
      ∧ (∀ y ∈ t.streams, y.owner = n → y.closingNoEntry = true)
      ∧ t = { s with out := t.out, sessions := t.sessions, streams := t.streams, nodes := t.nodes, parting := t.parting }

/-! ## Register space (R447 to R469) -/

/-- A register write by an open session of a ready device whose words are implemented, whose level admits the class, and
which no register's own rule refuses (R450, R453). -/
structure Sys2Proof.Terms.WriteAdmitted (s : State) (b : Nat) (x : Session) (off : Nat) (ws : List Word) : Prop where
  ready   : isReady s = true
  opened  : sessGet s b = some x
  length  : 1 ≤ ws.length ∧ ws.length ≤ 64
  host    : x.cls ≠ .peer
  words   : ∀ i < ws.length, ∃ r, regAt (off + 4 * i) = some r ∧ mayWrite r.level x.cls = true
  rules   : ∀ i < ws.length, ownRule s off ws (off + 4 * i) (ws.getD i 0) = none

/-- The step's one output is the status of a register access. -/
def Sys2Proof.Terms.Status (t : State) (c : Code) : Prop := t.out = [.status c]

/-- Every register but those at the listed offsets reads in its stored word as before. -/
def Sys2Proof.Terms.RegsBut (s t : State) (offs : List Nat) : Prop := ∀ a, a ∉ offs → regGet t a = regGet s a

/-- A register whose write does nothing beyond storing its fields at once: none of those whose own rule gives the write
another effect or another time. -/
def Sys2Proof.Terms.plain (off : Nat) : Bool :=
  !([oPwrCtrl, oTbCtrl, oTbSecLo, oTbSecHi, oEth 0, oEth 1, oVidFence, oMirror 0, oMirror 2, oDigCtrl] : List Nat).contains off
    && !(decide (0x200000 ≤ off ∧ off < 0x300000) && off % 0x1000 == 0x10)
    && !(decide (0x480000 ≤ off ∧ off < 0x500000) && off % 0x10000 == 0x10)
    && !(decide (0x400000 ≤ off ∧ off < 0x480000) && (off % 0x10000 == 8 || off % 0x10000 == 0xC))
    && !(decide (0x040400 ≤ off ∧ off < 0x040500)) && !(decide (0x050400 ≤ off ∧ off < 0x050500))
    && !inProtMap off && !(decide (oOpalKey ≤ off ∧ off < oOpalOut))

/-- A refused register write has no effect: BUS_ERROR when a word is unimplemented, whatever the class; PRIV when a
level refuses a word (R450, R453). -/
def Obligations.RefusedRegisterWriteHasNoEffect : Prop :=
  ∀ (s : State) (b off : Nat) (ws : List Word) (x : Session), isReady s = true → sessGet s b = some x → x.cls ≠ .peer →
    1 ≤ ws.length → ws.length ≤ 64 →
    ((∃ i < ws.length, regAt (off + 4 * i) = none) →
      ∃ t, exec (.registerWrite b off ws) s = .next t ∧ Status t .busError ∧ t = { s with out := t.out })
    ∧ ((∀ i < ws.length, (regAt (off + 4 * i)).isSome) →
      (∃ i < ws.length, ∃ r, regAt (off + 4 * i) = some r ∧ mayWrite r.level x.cls = false) →
      ∃ t, exec (.registerWrite b off ws) s = .next t ∧ Status t .priv ∧ t = { s with out := t.out })

/-- R454: a write that the level admits leaves every bit outside the writable fields of its word as it was and answers
OK; a write to a register whose fields are all RO is answered with OK and has no effect. -/
def Obligations.WritesLeaveReadOnlyBitsAlone : Prop :=
  (∀ (r : Reg) (old w : Word) (i : Nat), i < 32 → (∀ f ∈ r.fields, f.acc ≠ .ro → i < f.lo ∨ f.hi < i) →
    (writeWord r old w).getLsbD i = old.getLsbD i)
  ∧ (∀ (s : State) (b off : Nat) (w : Word) (x : Session) (r : Reg), Canonical s → WriteAdmitted s b x off [w] →
    regAt off = some r → plain off = true → ∀ i < 32, (∀ f ∈ r.fields, f.acc ≠ .ro → i < f.lo ∨ f.hi < i) →
    ∃ t, exec (.registerWrite b off [w]) s = .next t ∧ Status t .ok
      ∧ (regGet t off).getLsbD i = (regGet s off).getLsbD i)
  ∧ ∀ (s : State) (b off : Nat) (w : Word) (x : Session) (r : Reg), Canonical s → isReady s = true →
    sessGet s b = some x → x.cls ≠ .peer → regAt off = some r → mayWrite r.level x.cls = true →
    (∀ f ∈ r.fields, f.acc = .ro) →
    ∃ t, exec (.registerWrite b off [w]) s = .next t ∧ Status t .ok ∧ (∀ a, regGet t a = regGet s a)
      ∧ t = { s with out := t.out, regs := t.regs, votes := t.votes }

/-- REGISTER_WRITE and REG_WRITE of one word of a register without a rule of its own store its fields under their
access and change no other register and nothing else (R447, R453, R454). -/
def Obligations.PlainRegisterWriteStoresItsFields : Prop :=
  ∀ (s : State) (b off : Nat) (w : Word) (x : Session) (r : Reg), Canonical s → WriteAdmitted s b x off [w] →
    regAt off = some r → plain off = true →
    (∃ t, exec (.registerWrite b off [w]) s = .next t ∧ Status t .ok ∧ regGet t off = writeWord r (regGet s off) w
      ∧ RegsBut s t [off] ∧ t = { s with out := t.out, regs := t.regs, votes := t.votes })
    ∧ ∀ p : Packet, Admitted (.regWrite p) s b x 0x11 p → field p.params 0 4 = off → field p.params 4 4 = 1 →
      BitVec.ofNat 32 (field p.params 8 4) = w →
      ∃ t, exec (.regWrite p) s = .next t ∧ Replied t p 0x11 .ok [] ∧ regGet t off = writeWord r (regGet s off) w
        ∧ RegsBut s t [off] ∧ t = { s with out := t.out, regs := t.regs, votes := t.votes, sessions := t.sessions }

/-- The writes of PWR_CTRL (R482, R483): STANDBY_REQ is set when nothing of R482 stands in the way; its clearing in
STANDBY brings rails 0 to 3 back, at the voltages for the present F, and IDLE in RAMP mode; FORCE_LIMITED is stored. -/
def Obligations.PowerControlWrites : Prop :=
  ∀ (s : State) (b : Nat) (x : Session), Canonical s → isReady s = true → sessGet s b = some x → x.cls = .owner →
    (standbyBusy s = false →
      ∃ t, exec (.standbyEntry b) s = .next t ∧ Status t .ok ∧ regF t oPwrCtrl 30 30 = 1
        ∧ RegsBut s t [oPwrCtrl] ∧ t = { s with out := t.out, regs := t.regs, votes := t.votes })
    ∧ (standbyBusy s = true →
      ∃ t, exec (.standbyEntry b) s = .next t ∧ Status t .busy ∧ t = { s with out := t.out })
    ∧ (s.power.phase ≠ .standby →
      ∃ t, exec (.standbyExit b) s = .next t ∧ Status t .ok ∧ regF t oPwrCtrl 30 30 = 0
        ∧ RegsBut s t [oPwrCtrl] ∧ t = { s with out := t.out, regs := t.regs, votes := t.votes })
    ∧ (s.power.phase = .standby →
      ∃ t ops, exec (.standbyExit b) s = .next t ∧ t.out = ops ++ [.status .ok] ∧ (∀ o ∈ ops, ∃ r a g y, o = .pmbus r a g y)
        ∧ (∀ q < 4, q ∈ t.power.enabled) ∧ t.power.vddF = fNow s ∧ regF t oPwrCtrl 30 30 = 0 ∧ t.power.phase = .idle
        ∧ t.power.ramp = true ∧ regF t oPwrStatus 31 28 = 2 ∧ t.mem = s.mem ∧ t.ctxs = s.ctxs
        ∧ ∀ i ∈ t.images, i ∈ s.images)
    ∧ ∀ on : Bool, regF s oPwrCtrl 30 30 = 0 → s.power.phase ≠ .standby →
      ∃ t, exec (.forceLimited b on) s = .next t ∧ Status t .ok ∧ regF t oPwrCtrl 31 31 = on.toNat
        ∧ regF t oPwrCtrl 5 0 = regF s oPwrCtrl 5 0
        ∧ RegsBut s t [oPwrCtrl] ∧ t = { s with out := t.out, regs := t.regs, votes := t.votes }

/-- The writes of the fences and of QUAD_MIRROR (R82, R87, R246, R306, R445): an engine's or a unit's fence or lift,
and mirroring, wait for the next beat boundary; the registers stand as they were until then. VID_FENCE changes at
once. That VID_FENCE changes at once is deduced (log entry 61). -/
def Obligations.FenceWritesWaitForTheBoundary : Prop :=
  ∀ (s : State) (b : Nat) (x : Session), Canonical s → isReady s = true → sessGet s b = some x → x.cls = .owner →
    (∀ e < 256, engineFenced s e = false → (engGet s e).fenceReq = none →
      ∃ t, exec (.engineFenceSet b e) s = .next t ∧ Status t .ok ∧ (engGet t e).fenceReq = some (true, 3)
        ∧ (∀ k, k ≠ e → engGet t k = engGet s k) ∧ RegsBut s t [] ∧ t.flash.healthWrite = true
        ∧ t = { s with out := t.out, regs := t.regs, votes := t.votes, engines := t.engines, flash := t.flash })
    ∧ (∀ e < 256, engineFenced s e = true →
        liftable (regF s (oEng e + 0x10) 27 24) ((engGet s e).passArray && (engGet s e).passSram) = true →
      ∃ t, exec (.engineFenceLift b e) s = .next t ∧ Status t .ok ∧ (engGet t e).fenceReq = some (false, 0)
        ∧ engineFenced t e = true ∧ RegsBut s t [] ∧ t.flash.healthWrite = true)
    ∧ (∀ e < 256, engineFenced s e = true →
        liftable (regF s (oEng e + 0x10) 27 24) ((engGet s e).passArray && (engGet s e).passSram) = false →
      ∃ t, exec (.engineFenceLift b e) s = .next t ∧ Status t .badParam ∧ engGet t e = engGet s e ∧ RegsBut s t [])
    ∧ (∀ st < 8, ∀ m : BitVec 16, (∀ c ∈ bitsOf 16 (regF s (oCal st + 0x10) 15 0), m.getLsbD c = false →
        liftable ((sfind s.unitCause (16 * st + c)).getD 3).toNat (s.unitPass.contains (16 * st + c)) = true) →
      ∃ t, exec (.calFenceWrite b st m) s = .next t ∧ Status t .ok ∧ sfind t.calNext st = some m ∧ RegsBut s t []
        ∧ t.flash.healthWrite = true
        ∧ t = { s with out := t.out, regs := t.regs, votes := t.votes, calNext := t.calNext, flash := t.flash })
    ∧ (∀ m : BitVec 8, (∀ v ∈ bitsOf 8 (regF s oVidFence 7 0), m.getLsbD v = false →
        liftable ((sfind s.codecCause v).getD 3).toNat (s.codecPass.contains v) = true) →
      ∃ t, exec (.vidFenceWrite b m) s = .next t ∧ Status t .ok ∧ regF t oVidFence 7 0 = m.toNat)
    ∧ (∀ q, q = 0 ∨ q = 2 → quadBusy s q = false → quadBusy s (q + 1) = false → ∀ on : Bool,
      ∃ t, exec (.quadMirrorEnable b q on) s = .next t ∧ Status t .ok ∧ sfind t.mirrorNext q = some on ∧ RegsBut s t []
        ∧ t = { s with out := t.out, regs := t.regs, votes := t.votes, mirrorNext := t.mirrorNext })
    ∧ ∀ q, q = 1 ∨ q = 3 → ∀ on : Bool,
      ∃ t, exec (.quadMirrorEnable b q on) s = .next t ∧ Status t .badParam ∧ t = { s with out := t.out }

/-- The writes of the time base, the Opal block and the Ethernet ports (R217, R287, R312, R331, R338, R343): a new
SOURCE enters FREE; TB_SEC_SET is stored as a pair; OPAL_OUT is the draw of the new key and counter; a new MODE brings its
interfaces down and into training; MAX_FRAME is stored; a SAK of twelve words is installed. -/
def Obligations.TimeOpalAndPortWrites : Prop :=
  ∀ (s : State) (b : Nat) (x : Session), Canonical s → isReady s = true → sessGet s b = some x → x.cls = .owner →
    (∀ src : BitVec 2, src ≠ 3 → (joined s).isSome = false → src.toNat ≠ regF s oTbCtrl 1 0 →
      ∃ t, exec (.sourceWrite b src) s = .next t ∧ Status t .ok ∧ regF t oTbCtrl 1 0 = src.toNat
        ∧ t.disc.state = .free ∧ t.disc.master = none ∧ t.clock.dt = s.clock.dt ∧ RegsBut s t [oTbCtrl])
    ∧ (∀ lo hi : Word,
      ∃ t, exec (.secSetWrite b lo hi) s = .next t ∧ Status t .ok ∧ regGet t oTbSecLo = lo
        ∧ regF t oTbSecHi 15 0 = getF hi 15 0 ∧ RegsBut s t [oTbSecLo, oTbSecHi]
        ∧ t = { s with out := t.out, regs := t.regs, votes := t.votes })
    ∧ (∀ k0 k1 k2 k3 c0 c1 c2 c3 : Word,
      ∃ t, exec (.opalWrite b 0 [k0, k1, k2, k3, c0, c1, c2, c3]) s = .next t ∧ Status t .ok
        ∧ (let y := opalDraw ⟨k0, k1, k2, k3⟩ ⟨c0, c1, c2, c3⟩
           regGet t oOpalOut = y.w0 ∧ regGet t (oOpalOut + 4) = y.w1 ∧ regGet t (oOpalOut + 8) = y.w2
             ∧ regGet t (oOpalOut + 12) = y.w3)
        ∧ regGet t oOpalKey = k0 ∧ regGet t (oOpalKey + 16) = c0
        ∧ RegsBut s t ((List.range 12).map fun i => oOpalKey + 4 * i))
    ∧ (∀ port < 2, ∀ m : BitVec 2, m ≠ 3 → m.toNat ≠ regF s (oEth port) 1 0 →
        (largestSegment s port = 0 ∨ largestSegment s port + 130 ≤ maxFrame s port) →
      ∃ t, exec (.modeWrite b port m) s = .next t ∧ Status t .ok ∧ regF t (oEth port) 1 0 = m.toNat
        ∧ (t.ports.filter fun f => f.port == port).length = interfacesOf m.toNat
        ∧ (∀ i, ifaceUp t port i = false)
        ∧ ∀ k y, sessGet t k = some y → y.port = port → y.iface < interfacesOf m.toNat)
    ∧ (∀ port < 2, ∀ m : BitVec 14, regF s (oEth port) 1 0 ≠ 3 → regF s (oEth port + 8) 5 4 ≠ 3 →
        (largestSegment s port = 0 ∨ largestSegment s port + 130 ≤ (if 1518 ≤ m.toNat ∧ m.toNat ≤ 9216 then m.toNat else 9216)) →
      ∃ t, exec (.maxFrameWrite b port m) s = .next t ∧ Status t .ok ∧ regF t (oEth port) 15 2 = m.toNat
        ∧ regF t (oEth port) 1 0 = regF s (oEth port) 1 0 ∧ RegsBut s t [oEth port]
        ∧ t = { s with out := t.out, regs := t.regs, votes := t.votes })
    ∧ ∀ port < 2, ∀ i < 4, ∀ ws : List Word, ws.length = 12 →
      ∃ t k, exec (.sakInstall b port i ws) s = .next t ∧ Status t .ok ∧ k ∈ t.saks ∧ k.port = port ∧ k.iface = i
        ∧ k.an = BitVec.ofNat 2 (getF (ws.getD 11 0) 1 0) ∧ k.key = ws.take 8 ∧ k.salt = (ws.drop 8).take 3
        ∧ (∀ y ∈ t.saks, y.port = port → y.iface = i → y.an = k.an → y = k) ∧ RegsBut s t []

/-- The writes of a KV pool, a protection map entry and DEV_NOTICE (R198, R463, R464, R468). -/
def Obligations.PoolMapAndNoticeWrites : Prop :=
  ∀ (s : State) (b : Nat) (x : Session), Canonical s → isReady s = true → sessGet s b = some x → x.cls = .owner →
    (∀ st < 8, ∀ base size : Word, s.pages.any (fun p => pageStack p.id == st) = false →
        poolFits (getF base 16 0) (getF size 16 0) = true →
      ∃ t, exec (.kvPoolWrite b st (some base) (some size)) s = .next t ∧ Status t .ok
        ∧ regF t (oKvBase st) 16 0 = getF base 16 0 ∧ regF t (oKvSize st) 16 0 = getF size 16 0
        ∧ RegsBut s t [oKvBase st, oKvSize st] ∧ t = { s with out := t.out, regs := t.regs, votes := t.votes })
    ∧ (∀ st < 8, ∀ base size : Option Word, (base.isSome || size.isSome) = true →
        s.pages.any (fun p => pageStack p.id == st) = true →
      ∃ t, exec (.kvPoolWrite b st base size) s = .next t ∧ Status t .busy ∧ t = { s with out := t.out })
    ∧ (∀ i < 256, ∀ w0 w1 w2 w3 w4 : Word, getF w4 31 31 = 1 → protAddr w0 w1 0 ≤ protAddr w2 w3 0xFFF →
        protArea (protAddr w0 w1 0) ≠ 0 → protArea (protAddr w0 w1 0) = protArea (protAddr w2 w3 0xFFF) →
      ∃ t, exec (.protEntryWrite b i [w0, w1, w2, w3, w4]) s = .next t ∧ Status t .ok
        ∧ protAddr (regGet t (oProt i)) (regGet t (oProt i + 4)) 0 = protAddr w0 w1 0
        ∧ protAddr (regGet t (oProt i + 8)) (regGet t (oProt i + 12)) 0xFFF = protAddr w2 w3 0xFFF
        ∧ regF t (oProt i + 16) 31 31 = 1 ∧ regF t (oProt i + 16) 7 0 = getF w4 7 0
        ∧ RegsBut s t [oProt i, oProt i + 4, oProt i + 8, oProt i + 12, oProt i + 16, oProtCtrl]
        ∧ (regF t oProtCtrl 31 16 = regF s oProtCtrl 31 16 ∨ regF t oProtCtrl 31 16 = (regF s oProtCtrl 31 16 + 1) % 65536))
    ∧ (∀ i < 256, ∀ w : Word, regF s (oProt i + 16) 31 31 = 1 →
      ∃ t, exec (.protEntryWrite b i [w]) s = .next t ∧ Status t .badParam ∧ t = { s with out := t.out })
    ∧ ∀ bits : Word,
      ∃ t, exec (.noticeClear b bits) s = .next t ∧ Status t .ok
        ∧ regF t oNotice 8 0 = getF (regGet s oNotice &&& ~~~bits) 8 0
        ∧ RegsBut s t [oNotice] ∧ t = { s with out := t.out, regs := t.regs, votes := t.votes }

/-! ## Images, jobs and contexts (R385 to R392, R403 to R416) -/

/-- Session n has posted one more ring entry, with a tag, an opcode and a code, from a reservation (R378, R379). -/
def Sys2Proof.Terms.Posted (s t : State) (n : Nat) (tag : BitVec 32) (op : Byte) (c : Code) : Prop :=
  ∃ x y e, sessGet s n = some x ∧ sessGet t n = some y ∧ y.ring.head? = some e ∧ e.seq = x.doneSeq ∧ e.tag = tag
    ∧ e.opcode = op ∧ e.code = c ∧ y.doneSeq = x.doneSeq + 1

/-- The latest entry of session n holds a RESULT, padded to 32 bytes (R377). -/
def Sys2Proof.Terms.PostedResult (t : State) (n : Nat) (result : Bytes) : Prop :=
  ∃ y e, sessGet t n = some y ∧ y.ring.head? = some e ∧ e.result = fit 32 result

/-- A range of n bytes that begins and ends in stack memory or general hub SRAM and lies in one region (R385, R509). -/
def Sys2Proof.Terms.ownRange (a n : Nat) : Prop :=
  (isStack a = true ∨ regionOf a = .hubGeneral) ∧ (isStack (a + n - 1) = true ∨ regionOf (a + n - 1) = .hubGeneral)
    ∧ sameRegion a (a + n - 1) = true

/-- IMAGE_LOAD, IMAGE_VERIFY and IMAGE_UNLOAD (R385, R387, R388): the first two are accepted for an implemented range in
one region of stack memory or general hub SRAM, and begin; an unload answers BUSY while a load of the same IMAGE_ID is in progress or a context in
READY, RUNNING or PAUSED refers to the image, and removes a loaded image, and nothing else, when neither holds. -/
def Obligations.ImageCommandsAreTaken : Prop :=
  ∀ (s : State) (n : Nat) (x : Session) (p : Packet), isReady s = true →
    (∀ c verify, (c = .imageLoad p ∧ verify = false ∨ c = .imageVerify p ∧ verify = true) →
      Admitted c s n x (if verify then 0x21 else 0x20) p → ringFree (taken s n p) p = true →
      let a := field p.params 0 8
      let k := field p.params 8 8
      0 < k → ownRange a k → (∀ i < k, implemented s (a + i) = true) →
      ∃ t, exec c s = .next t ∧ Replied t p (if verify then 0x21 else 0x20) .accepted [] ∧ Booked s t n 1
        ∧ t.imageOps = s.imageOps ++ [{ verify := verify, source := a, size := k, p := p }]
        ∧ t = { s with out := t.out, sessions := t.sessions, imageOps := t.imageOps })
    ∧ (Admitted (.imageUnload p) s n x 0x22 p →
      let id := BitVec.ofNat 64 (field p.params 0 8)
      let loading := ∃ o ∈ s.imageOps, o.verify = false ∧ field (spanRead s (o.source + 8) 8) 0 8 = id.toNat
      let held := ∃ c ∈ s.ctxs ++ submits s, (c.state = .ready ∨ c.state = .running ∨ c.state = .paused)
        ∧ (c.desc.image = id ∨ c.desc.recompute = id)
      (∀ i : Image, imageGet s id = some i → ¬loading → ¬held →
        ∃ t, exec (.imageUnload p) s = .next t ∧ Replied t p 0x22 .ok [] ∧ imageGet t id = none
          ∧ (∀ k, k ≠ id → imageGet t k = imageGet s k)
          ∧ t = { s with out := t.out, sessions := t.sessions, images := t.images })
      ∧ (loading ∨ ((imageGet s id).isSome = true ∧ held) →
        ∃ t, exec (.imageUnload p) s = .next t ∧ Replied t p 0x22 .busy []
          ∧ t = { s with out := t.out, sessions := t.sessions }))

/-- An image load or verification ends (R125, R387): its entry carries the verdict on the bytes of the range and the IMAGE_ID
that stands in them; a load that passes adds the image, and anything else leaves the loaded images as they were. Memory is
not written. -/
def Obligations.ImageCompletionPostsTheVerdict : Prop :=
  ∀ (s : State) (k n : Nat) (x : Session) (op : ImageOp), s.imageOps[k]? = some op → op.p.origin = .session n →
    sessGet s n = some x → anyPoison s (spanLinear op.source op.size) = false →
    let c : Instr := if op.verify then .imageVerifyComplete k else .imageLoadComplete k
    let b := spanRead s op.source op.size
    let v := verdict { s with imageOps := s.imageOps.eraseIdx k, out := [] } (!op.verify) b op.source
    ∃ t, exec c s = .next t ∧ Posted s t n op.p.tag (if op.verify then 0x21 else 0x20) v.code
      ∧ PostedResult t n (slice b 8 8)
      ∧ t.imageOps = s.imageOps.eraseIdx k ∧ t.mem = s.mem ∧ t.regs = s.regs
      ∧ t.images = (if v.code = .ok ∧ op.verify = false then s.images ++ [recordLoads s (imageOf b op.source)] else s.images)

/-- JOB_SUBMIT (R389, R390): a descriptor that passes every check is accepted, with the context's number as the
result, and the job waits for the next boundary; a ring entry is reserved unless QUIET. Which free context is taken is
the model's choice (log entry 56). -/
def Obligations.JobSubmitIsAccepted : Prop :=
  ∀ (s : State) (n k : Nat) (x : Session) (p : Packet) (i : Image), Admitted (.jobSubmit p) s n x 0x30 p →
    let d := descOf p.params
    descOk p.params = true → logFieldsOk d = true → imageGet s d.image = some i →
    (d.recompute ≠ 0 → (imageGet s d.recompute).isSome = true) →
    samplerTensorsOk i d = true → groupOk s i = true → mirrorClear s i i.mask i.progs d.base = true →
    reachOk s i (ctxOf s 0 d n p i) = true → kernelsAtOk i d.base = true → (choosePlacement s i d.base).isSome = true →
    (p.flags.getLsbD 0 = false → ringFree (taken s n p) p = true) → freeContext s = some k →
    ∃ t, exec (.jobSubmit p) s = .next t ∧ Replied t p 0x30 .accepted (toLE k 2)
      ∧ Booked s t n (if p.flags.getLsbD 0 then 0 else 1)
      ∧ t.waiting = s.waiting ++ [.submit (ctxOf s k d n p i)]
      ∧ t = { s with out := t.out, sessions := t.sessions, waiting := t.waiting }

/-- JOB_CANCEL, JOB_PAUSE and JOB_RESUME (R391), but for a pause of a group job that is not paused: the command waits for its boundary; the
first two answer ACCEPTED with an entry reserved, or NO_CONTEXT for a FREE context; the third answers at the boundary, whatever the
context. -/
def Obligations.JobCommandsWaitForTheirBoundary : Prop :=
  ∀ (s : State) (n : Nat) (x : Session) (p : Packet) (op : Byte) (c : Instr) (o : CtxOp),
    (c = .jobCancel p ∧ op = 0x32 ∧ o = .cancel ∨ c = .jobPause p ∧ op = 0x33 ∧ o = .pause
      ∨ c = .jobResume p ∧ op = 0x34 ∧ o = .resume) → Admitted c s n x op p →
    (o ≠ .resume → ∀ k : Ctx, ctxGet s (field p.params 0 2) = some k → mayName ⟨x.cls, some n⟩ k.owner = true →
      (o = .pause → k.group = false ∨ k.state = .paused) → (o = .cancel ∨ k.state = .ready ∨ k.state = .running ∨ k.state = .paused) →
      ringFree (taken s n p) p = true →
      ∃ t, exec c s = .next t ∧ t.waiting = s.waiting ++ [.job { op := o, ctx := k.num, p := p, cls := x.cls }]
        ∧ Replied t p op .accepted [] ∧ Booked s t n 1
        ∧ t = { s with out := t.out, sessions := t.sessions, waiting := t.waiting })
    ∧ (o ≠ .resume → ctxGet s (field p.params 0 2) = none →
      ∃ t, exec c s = .next t ∧ Replied t p op .noContext [] ∧ t = { s with out := t.out, sessions := t.sessions })
    ∧ (o = .resume →
      ∃ t, exec c s = .next t ∧ t.waiting = s.waiting ++ [.job { op := .resume, ctx := field p.params 0 2, p := p, cls := x.cls }]
        ∧ t.out = [] ∧ Booked s t n 0
        ∧ t = { s with out := t.out, sessions := t.sessions, waiting := t.waiting })

/-- CTX_SAVE of a PAUSED job (R412): AREA_SIZE 0 posts the size that the save needs and writes nothing; an area of enough
bytes begins the copy. When the copy completes, the area holds the save area of R413 and every other byte of memory reads
as before. -/
def Obligations.ContextSaveWritesItsArea : Prop :=
  ∀ (s : State) (n : Nat) (k : Ctx) (i : Image), ctxGet s k.num = some k → imageGet s k.desc.image = some i →
    (∀ (x : Session) (p : Packet), Admitted (.ctxSave p) s n x 0x38 p → field p.params 0 2 = k.num →
      mayName ⟨x.cls, some n⟩ k.owner = true → zeroAt p.params 2 6 = true → k.state = .paused → saving s k.num = false →
      (k.interrupted = true → k.replayable = true) → (k.group = true → (member s).isSome = true) →
      ringFree (taken s n p) p = true → field p.params 8 8 % 4096 = 0 →
      field p.params 8 8 < 0x10000000000 →
      (field p.params 16 8 = 0 →
        ∃ t, exec (.ctxSave p) s = .next t ∧ Replied t p 0x38 .accepted [] ∧ Posted s t n p.tag 0x38 .ok
          ∧ PostedResult t n (toLE (saveSize s k i) 8)
          ∧ t = { s with out := t.out, sessions := t.sessions })
      ∧ (saveSize s k i ≤ field p.params 16 8 → field p.params 16 8 ≠ 0 →
          field p.params 8 8 + field p.params 16 8 ≤ 0x10000000000 →
          areaMeets s i k (field p.params 8 8) (field p.params 16 8) = false →
          memoryThere s (field p.params 8 8) (field p.params 16 8) = true →
        ∃ t, exec (.ctxSave p) s = .next t ∧ Replied t p 0x38 .accepted [] ∧ Booked s t n 1
          ∧ t.saves = s.saves ++ [{ ctx := k.num, area := field p.params 8 8, size := field p.params 16 8, p := p }]
          ∧ t = { s with out := t.out, sessions := t.sessions, saves := t.saves }))
    ∧ ∀ v : Save, s.saves.find? (fun y => y.ctx == k.num && !y.copied) = some v → s.poison = [] → s.soft = [] → Memory.wf s.mem = true →
      v.area + (saveArea s k i).length ≤ 0x10000000000 → memoryThere s v.area v.size = true →
      memoryThere s k.desc.base (tensorBytes i) = true →
      ∃ t, exec (.ctxSaveComplete k.num) s = .next t
        ∧ bytesAt t v.area (saveArea s k i).length = saveArea s k i
        ∧ (∀ a, a < v.area ∨ v.area + (saveArea s k i).length ≤ a → byteAt t a = byteAt s a)
        ∧ t.saves = s.saves.map (fun y => if y.ctx = k.num then { y with copied := true } else y)
        ∧ t = { s with out := t.out, mem := t.mem, saves := t.saves }

/-- CTX_RESTORE of an area without pages (R416): with every other check passed, the body digest decides between
ACCEPTED, with a context taken and the copy begun, and BAD_PARAM. When the copy of a restore whose pages have been allocated completes, TENSOR_BASE holds the saved
tensor bytes and every other byte of memory reads as before. Which free context is taken is the model's choice (log
entry 56). -/
def Obligations.ContextRestoreChecksItsDigest : Prop :=
  (∀ (s : State) (n k : Nat) (x : Session) (p : Packet) (i : Image), Admitted (.ctxRestore p) s n x 0x39 p →
    let area := field p.params 0 8
    let size := field p.params 8 8
    let b := spanRead s area (field (spanRead s area 4096) 16 8)
    let c := restoredCtx s 0 n p b i
    area % 4096 = 0 → isStack area = true → 4096 ≤ size → spanStatic s area 4096 = true →
    spanStatic s area (field (spanRead s area 4096) 16 8) = true → s.poison = [] →
    areaHeadOk (spanRead s area 4096) size = true → field b 8 4 = (regGet s oDigAid).toNat →
    imageGet s (BitVec.ofNat 64 (field p.params 16 8)) = some i → i.plan.toNat = field b 64 64 →
    (c.desc.recompute ≠ 0 → (imageGet s c.desc.recompute).isSome = true) →
    restoreBasesOk s i c area b.length = true →
    (jobTensors i c.desc.base).all (fun y => spanStatic s y.1 y.2) = true → kernelsAtOk i c.desc.base = true →
    (c.interrupted = true → c.replayable = true) →
    (field b 12 1 = 0xFF ∨ ((member s).any fun g => g.index == field b 12 1 && g.members == i.members) = true) →
    (c.group = true → hasGroupJob s = false) →
    (choosePlacement s i c.desc.base).isSome = true → freeContext s = some k → field b 32 4 = 0 →
    ringFree (taken s n p) p = true →
    ∃ t, exec (.ctxRestore p) s = .next t
      ∧ (if shaBytes (digestView b) = slice b 128 64 then
          Replied t p 0x39 .accepted [] ∧ Booked s t n 1
            ∧ t.restores = s.restores ++ [{ ctx := { c with num := k }, area := area, p := p }]
        else Replied t p 0x39 .badParam [] ∧ Booked s t n 0 ∧ t.restores = s.restores)
      ∧ t = { s with out := t.out, sessions := t.sessions, restores := t.restores })
  ∧ ∀ (s : State) (r : Restore) (k : Nat), s.restores.find? (fun y => y.ctx.num == k && y.maps.isSome && !y.copied) = some r →
    s.poison = [] → s.soft = [] → Memory.wf s.mem = true →
    let m := field (spanRead s r.area 256) 24 8
    r.ctx.desc.base + m ≤ 0x10000000000 → r.area + 4096 + m ≤ 0x10000000000 → memoryThere s r.area (4096 + m) = true →
    memoryThere s r.ctx.desc.base m = true →
    ∃ t, exec (.ctxRestoreComplete k) s = .next t
      ∧ bytesAt t r.ctx.desc.base m = bytesAt s (r.area + 4096) m
      ∧ (∀ a, a < r.ctx.desc.base ∨ r.ctx.desc.base + m ≤ a → byteAt t a = byteAt s a)
      ∧ t.restores = s.restores.map (fun y => if y.ctx.num = k then { y with copied := true } else y)
      ∧ t = { s with out := t.out, mem := t.mem, restores := t.restores }

/-! ## KV pages (R183 to R194) -/

/-- PAGE_ALLOC, PAGE_SHARE and PAGE_RELEASE wait for the next boundary, behind the commands that already wait: the boundary makes
their own checks and forms the reply (R184, R188, R376, R394). Nothing else changes. -/
def Obligations.PageCommandsWaitForTheBoundary : Prop :=
  ∀ (s : State) (n : Nat) (x : Session) (p : Packet) (op : Byte) (c : Instr) (o : PageOp),
    (c = .pageAlloc p ∧ op = 0x40 ∧ o = .alloc ∨ c = .pageShare p ∧ op = 0x41 ∧ o = .share
      ∨ c = .pageRelease p ∧ op = 0x42 ∧ o = .release) → Admitted c s n x op p →
    ∃ t, exec c s = .next t ∧ t.out = [] ∧ Booked s t n 0
      ∧ t.waiting = s.waiting ++ [.page { op := o, p := p, cls := x.cls }]
      ∧ t = { s with out := [], sessions := t.sessions, waiting := t.waiting }

/-- The copy of a page completes (R189, R191): a copy-on-write fills the new slot with the source's bytes and takes its
validity; a demotion fills the second slot with the page's blocks in the demoted format. The page changes state at the next boundary only; memory outside the slot that
is filled and the page's descriptor reads as before. -/
def Obligations.PageCopiesFillTheirSlot : Prop :=
  ∀ (s : State) (id : BitVec 24) (p : Page), pageGet s id = some p → p.copied = false → s.poison = [] → s.soft = [] →
    Memory.wf s.mem = true → descAddr s id + 32 ≤ 0x10000000000 →
    (∀ q r, p.state = .copying → p.source = some r → pageGet s r = some q → p.slot + p.bytes ≤ 0x10000000000 →
      ∃ t, exec (.cowCopyComplete id) s = .next t
        ∧ pageGet t id = some { p with copied := true, valid := q.valid }
        ∧ (∀ i < p.bytes, p.slot + i < descAddr s id ∨ descAddr s id + 32 ≤ p.slot + i →
          byteAt t (p.slot + i) = byteAt s (q.slot + i))
        ∧ (∀ a, (a < p.slot ∨ p.slot + p.bytes ≤ a) → (a < descAddr s id ∨ descAddr s id + 32 ≤ a) →
          byteAt t a = byteAt s a)
        ∧ t = { s with out := [], mem := t.mem, pages := t.pages })
    ∧ (∀ a m f, p.state = .demoting → p.slot2 = some (a, m) → demotedFmt p.home = some f →
        a + pageBytes f true (chansOf p) ≤ 0x10000000000 →
      let blocks := (List.range (pageElems (chansOf p) / 32)).map (demoteBlock s p f (chansOf p))
      let data := pack (fmtWidth f) (blocks.flatMap (·.1)) ++ blocks.map (·.2.1)
      ∃ t, exec (.demotionCopyComplete id) s = .next t ∧ pageGet t id = some { p with copied := true }
        ∧ (∀ i < pageBytes f true (chansOf p), a + i < descAddr s id ∨ descAddr s id + 32 ≤ a + i →
          byteAt t (a + i) = data.getD i 0)
        ∧ (∀ b, (b < a ∨ a + pageBytes f true (chansOf p) ≤ b) → (b < descAddr s id ∨ descAddr s id + 32 ≤ b) →
          byteAt t b = byteAt s b)
        ∧ t = { s with out := [], mem := t.mem, pages := t.pages })

/-! ## Video streams (R425 to R446) -/

/-- VID_OPEN, VID_FRAME and VID_CLOSE (R427 to R433, R442): a descriptor that passes every check opens the lowest free
stream; a frame joins the stream's queue; a close of a stream that is not DAMAGED waits for its frames. Which free
stream is taken is the model's choice (log entry 41). -/
def Obligations.VideoCommandsAreTaken : Prop :=
  ∀ (s : State) (n : Nat) (x : Session) (p : Packet),
    (Admitted (.vidOpen p) s n x 0x60 p → ∀ k e : Nat, streamDescOk p.params = true → lowLatencyOk p.params = true →
      workOk s ⟨x.cls, some n⟩ p.params = true → freeStream s = some k → openEngine s p.params = some e →
      admits s p.params e = true →
      ∃ t, exec (.vidOpen p) s = .next t ∧ Replied t p 0x60 .ok (toLE k 2) ∧ Booked s t n 0
        ∧ t.streams = s.streams ++ [streamOf k e n p.params]
        ∧ t = { s with out := t.out, sessions := t.sessions, streams := t.streams })
    ∧ ∀ v : Stream, streamGet s (field p.params 0 2) = some v → mayName ⟨x.cls, some n⟩ v.owner = true →
      v.damaged = false → v.closing = none → v.closingNoEntry = false → ringFree (taken s n p) p = true →
      (Admitted (.vidFrame p) s n x 0x61 p → v.frames.length < 16 → frameDescOk v p.params = true →
          buffersOk s ⟨x.cls, some n⟩ v p.params = true →
        ∃ t y, exec (.vidFrame p) s = .next t ∧ Replied t p 0x61 .accepted [] ∧ Booked s t n 1
          ∧ streamGet t v.num = some y ∧ y.count = v.count + 1 ∧ y.frames.length = v.frames.length + 1
          ∧ t.frameSeq = s.frameSeq + 1
          ∧ t = { s with out := t.out, sessions := t.sessions, streams := t.streams, frameSeq := t.frameSeq
                         running := t.running })
      ∧ (Admitted (.vidClose p) s n x 0x62 p →
        ∃ t y, exec (.vidClose p) s = .next t ∧ Replied t p 0x62 .accepted [] ∧ Booked s t n 1
          ∧ streamGet t v.num = some y ∧ y.closing = some p ∧ y.frames = v.frames
          ∧ t = { s with out := t.out, sessions := t.sessions, streams := t.streams })

/-- An encode frame ends with no error (R435, R437): the stream's next frame is its oldest, the entry is posted with
OK, and memory outside the frame's bitstream buffer and map reads as before. A tile boundary inside a frame writes no
memory. A close whose frames have all ended releases the stream and posts its entry. What the codec standards make of a picture is
a free value (log entry 41). -/
def Obligations.FramesEndAndStreamsClose : Prop :=
  (∀ (s : State) (n : Nat) (x : Session) (v : Stream) (f : Frame) (r : CodecReport), Memory.wf s.mem = true →
    sfind s.running r.engine = some v.num → streamGet s v.num = some v → v.frames.head? = some f →
    f.p.origin = .session n → sessGet s n = some x → regF s oVidFence 7 0 = 0 →
    (r.frameDone = true → v.encode = true → v.stats = false → r.mem = [] → s.poison = [] → s.soft = [] → f.bsBase + f.bsSize ≤ 0x10000000000 →
      ∃ t y, exec (.codecTileBoundary r) s = .next t ∧ Posted s t n f.p.tag 0x61 .ok ∧ streamGet t v.num = some y
        ∧ y.frames.length = (v.frames.drop 1).length
        ∧ (∀ a, a < f.bsBase ∨ f.bsBase + f.bsSize ≤ a → byteAt t a = byteAt s a))
    ∧ (r.frameDone = false →
      ∃ t y, exec (.codecTileBoundary r) s = .next t ∧ t.mem = s.mem ∧ t.sessions = s.sessions
        ∧ streamGet t v.num = some y ∧ y.frames.length = v.frames.length))
  ∧ ∀ (s : State) (n : Nat) (x : Session) (v : Stream) (p : Packet), streamGet s v.num = some v → v.closing = some p →
    v.frames = [] → p.origin = .session n → sessGet s n = some x →
    ∃ t, exec (.vidCloseComplete v.num) s = .next t ∧ Posted s t n p.tag 0x62 .ok ∧ streamGet t v.num = none
      ∧ (∀ k, k ≠ v.num → streamGet t k = streamGet s k)
      ∧ t = { s with out := [], sessions := t.sessions, streams := t.streams }

/-! ## Flash, attestation, tests (R500 to R522) -/

/-- FW_STAGE, FW_COMMIT, ATTEST and the eight tests of DIAG_RUN are accepted when nothing that their rules name stands
in the way, and begin (R509, R510, R512, R515). The range check of FW_STAGE is deduced (log entry 18). -/
def Obligations.LongCommandsBegin : Prop :=
  ∀ (s : State) (n : Nat) (x : Session) (p : Packet), ringFree (taken s n p) p = true →
    (Admitted (.fwStage p) s n x 0x80 p → field p.params 0 1 ≤ 1 → zeroAt p.params 1 7 = true → 0 < field p.params 16 8 →
      field p.params 16 8 ≤ (if field p.params 0 1 = 0 then slotBytes else configBytes) →
      ownRange (field p.params 8 8) (field p.params 16 8) → s.flash.stage = none → s.flash.commit = none →
      s.diag = none →
      ∃ t, exec (.fwStage p) s = .next t ∧ Replied t p 0x80 .accepted [] ∧ Booked s t n 1
        ∧ t = { s with out := t.out, sessions := t.sessions, flash := { s.flash with stage := some p } })
    ∧ (Admitted (.fwCommit p) s n x 0x81 p → field p.params 0 1 ≤ 1 → field p.params 1 1 ≤ 3 →
      let restart := (field p.params 1 1).testBit 1
      (field p.params 0 1 = 1 → (field p.params 1 1).testBit 0 = false) → (restart = true → workPresent s = false) → zeroAt p.params 2 6 = true → zeroAt p.params 12 4 = true →
      (stagedFor s.flash (field p.params 0 1 == 1)).any (fun y => y.1 == field p.params 8 4) = true →
      s.flash.stage = none → s.flash.commit = none → s.flash.healthWrite = false → s.diag = none →
      ∃ t, exec (.fwCommit p) s = .next t ∧ Replied t p 0x81 .accepted [] ∧ Booked s t n 1
        ∧ t = { s with out := t.out, sessions := t.sessions
                       flash := { s.flash with commit := some p, noJobs := s.flash.noJobs || restart } })
    ∧ (Admitted (.attest p) s n x 0x90 p →
      ∃ t, exec (.attest p) s = .next t ∧ Replied t p 0x90 .accepted [] ∧ Booked s t n 1
        ∧ t = { s with out := t.out, sessions := t.sessions, atts := s.atts ++ [p] })
    ∧ ∀ (c : Instr) (q : Packet), c ∈ [.array q, .engineSram q, .caldera q, .codec q, .memory q, .serdes q, .d2d q, .knownAnswer q] →
      Admitted c s n x 0xA0 p → diagFields p = true → (field p.params 0 1 = 5 → memoryFree s (diagOf p).base (diagOf p).size = true) →
      (field p.params 0 1 = 6 → s.sessions.any (fun y => y.2.port == (diagOf p).port && !y.2.closed) = false) →
      s.diag = none → s.flash.stage = none → s.flash.commit = none → workPresent s = false → s.power.phase ≠ .standby →
      s.power.phase ≠ .limited →
      ∃ t, exec c s = .next t ∧ Replied t p 0xA0 .accepted [] ∧ Booked s t n 1
        ∧ t = { s with out := t.out, sessions := t.sessions, diag := some (diagOf p) }

/-- A staging ends (R509): the entry carries the code of the first check that its bytes fail; with OK the target,
never the running slot or the copy in effect, holds exactly those bytes, and the record in force never names it. A
commit ends (R510): with OK the record in force names what was staged. The checks of a staged image are read as log
entry 18 says. -/
def Obligations.StagingAndCommitEnd : Prop :=
  (∀ (s : State) (n : Nat) (x : Session) (p : Packet), s.flash.stage = some p → p.origin = .session n →
    sessGet s n = some x → (∀ r, recordInForce s.flash = some r → r.gen ≠ 0xFFFFFFFF) →
    (∀ i < field p.params 16 8, implemented s (field p.params 8 8 + i) = true) →
    anyPoison s (spanLinear (field p.params 8 8) (field p.params 16 8)) = false →
    let config := field p.params 0 1 == 1
    let b := spanRead s (field p.params 8 8) (field p.params 16 8)
    let code := stageCheck { s with flash := { s.flash with stage := none } } config b
    ∃ t, exec .fwStageComplete s = .next t ∧ Posted s t n p.tag 0x80 code ∧ t.flash.stage = none
      ∧ t = { s with out := [], sessions := t.sessions, flash := t.flash }
      ∧ (code = .ok →
          stagedFor t.flash config = some (stagedVersion config b, b) ∧ recordNames t.flash config = false
          ∧ (if config then (if s.flash.inEffect1 then t.flash.config0 else t.flash.config1)
              else (if s.flash.runB then t.flash.fwA else t.flash.fwB)) = b
          ∧ (if s.flash.runB then t.flash.fwB = s.flash.fwB else t.flash.fwA = s.flash.fwA)
          ∧ (if s.flash.inEffect1 then t.flash.config1 = s.flash.config1 else t.flash.config0 = s.flash.config0))
      ∧ (code ≠ .ok → t.flash = { s.flash with stage := none }))
  ∧ ∀ (s : State) (n : Nat) (x : Session) (p : Packet) (v : Nat) (b : Bytes), s.flash.commit = some p →
    p.origin = .session n → sessGet s n = some x → (∀ r, recordInForce s.flash = some r → r.gen ≠ 0xFFFFFFFF) →
    stagedFor s.flash (field p.params 0 1 == 1) = some (v, b) →
    let code := stageCheck s (field p.params 0 1 == 1) b
    ∃ t, exec .fwCommitComplete s = .next t ∧ Posted s t n p.tag 0x81 code ∧ t.flash.commit = none
      ∧ (code = .ok → recordNames t.flash (field p.params 0 1 == 1) = true)
      ∧ ((field p.params 1 1).testBit 1 = true → t.flash.restartAt = some (s.clock.wall + 100000000))
      ∧ t = { s with out := [], sessions := t.sessions, flash := t.flash }

/-- An attestation ends (R512): REPORT_SEQ rises by one, buffer REPORT_SEQ mod 16 holds the report's 1,024 bytes, and the
entry names the buffer and the sequence number. A test ends (R517, R525): DIAG_STATUS shows it at 100 %, DIAG_LAST its
targets and failures, and its entry is posted with its report. The secret number of the signature is a free value (log
entry 59). -/
def Obligations.AttestationAndTestsEnd : Prop :=
  (∀ (s : State) (k n : Nat) (x : Session) (p : Packet), Canonical s → s.atts[k]? = some p → p.origin = .session n →
    sessGet s n = some x →
    let seq := s.reportSeq + 1
    let b := seq.toNat % 16
    ∃ t v, exec (.attestComplete k) s = .next t ∧ Posted s t n p.tag 0x90 .ok ∧ t.reportSeq = seq
      ∧ PostedResult t n ([BitVec.ofNat 8 b, 0, 0, 0] ++ toLE seq.toNat 4)
      ∧ t.atts = s.atts.eraseIdx k
      ∧ (∀ i < 256, regGet t (oReport b + 4 * i) = BitVec.ofNat 32 (field (reportBytes s p seq v) (4 * i) 4))
      ∧ RegsBut s t ((List.range 256).map fun i => oReport b + 4 * i)
      ∧ t = { s with out := [], sessions := t.sessions, regs := t.regs, reportSeq := t.reportSeq, atts := t.atts
                     freeCtr := t.freeCtr })
  ∧ ∀ (s : State) (n : Nat) (x : Session) (d : DiagRun) (results : List DiagTarget) (us : Nat), Canonical s →
    s.diag = some d → d.started = true → 1 ≤ d.test → d.test ≤ 8 → d.p.origin = .session n →
    sessGet s n = some x → (d.test = 6 → x.port = d.port → x.iface < interfacesOf (activeMode s d.port)) →
    ∃ t first, exec (.diagTestComplete results us) s = .next t ∧ Posted s t n d.p.tag 0xA0 .ok ∧ t.diag = none
      ∧ PostedResult t n (diagReport d results first us)
      ∧ regF t oDiagStatus 31 31 = 0 ∧ regF t oDiagStatus 23 16 = d.test ∧ regF t oDiagStatus 7 0 = 100
      ∧ regF t oDiagLast 15 0 = (d.targets.filter fun i => diagFailed d (diagResult results i)).length % 65536
      ∧ regF t oDiagLast 31 16 = d.targets.length % 65536
      ∧ t.ctxs = s.ctxs ∧ t.images.length ≤ s.images.length

/-! ## Locked groups (R295 to R305, R418 to R423) -/

/-- GROUP_JOIN that passes every check of R296 and R419 is accepted: the device takes its node ID, opens a PEER
session 4,095 − j for every other member j with PEER_CREDITS, and the control block and the slip ring read zero.
GROUP_LEAVE of a member without a group job is accepted, and ends when every PEER session has sent its last
acknowledgement. The group commands are read as log entry 25 says. -/
def Obligations.GroupsAreJoinedAndLeft : Prop :=
  (∀ (s : State) (n : Nat) (x : Session) (p : Packet), Canonical s → n < 4095 → Admitted (.groupJoin p) s n x 0xF0 p →
    let b := p.params
    s.group = none → recordOk b = true → groupTimeOk s b = true → 65536 * 65536 ≤ recordPeriod b * field b 18 1 →
    s.clock.dt + usDt 1000 ≤ recordEpoch b → slipRingOk s b = true → memberTableOk s b = true →
    (∀ j ∈ otherMembers b, sfind s.sessions (4095 - j) = none ∧ s.reservations.all (fun r => r.session != 4095 - j) = true) →
    (otherMembers b).length * field b 72 4 ≤ ungranted s → ringFree (taken s n p) p = true →
    ∃ t, exec (.groupJoin p) s = .next t ∧ Replied t p 0xF0 .accepted [] ∧ Booked s t n 1
      ∧ t.group = some (groupOf b p) ∧ t.node = some (BitVec.ofNat 16 (field b (memberOff (field b 21 1)) 2))
      ∧ (∀ j ∈ otherMembers b, ∃ y, sessGet t (4095 - j) = some y ∧ y.cls = .peer ∧ y.window = field b 72 4
          ∧ y.expect = 0 ∧ y.nextPsn = 0)
      ∧ (∀ i < 4096, byteAt t (field b 64 8 + i) = 0) ∧ (∀ i < 32768, byteAt t (field b 32 8 + i) = 0)
      ∧ (∀ a, (a < field b 64 8 ∨ field b 64 8 + 4096 ≤ a) → (a < field b 32 8 ∨ field b 32 8 + 32768 ≤ a) →
          byteAt t a = byteAt s a))
  ∧ (∀ (s : State) (n : Nat) (x : Session) (p : Packet) (g : Group), Admitted (.groupLeave p) s n x 0xF1 p →
    member s = some g → hasGroupJob s = false → g.leaving = none → ringFree (taken s n p) p = true →
    ∃ t, exec (.groupLeave p) s = .next t ∧ Replied t p 0xF1 .accepted [] ∧ Booked s t n 1
      ∧ t = { s with out := t.out, sessions := t.sessions, group := some { g with leaving := some p } })
  ∧ ∀ (s : State) (n : Nat) (x : Session) (p : Packet) (g : Group), Canonical s → s.group = some g → g.left = true →
    g.leaving = some p → p.origin = .session n → sessGet s n = some x → x.cls ≠ .peer →
    (∀ k y, sessGet s k = some y → y.cls = .peer → y.ackSent = y.expect) →
    ∃ t, exec .groupLeaveComplete s = .next t ∧ Posted s t n p.tag 0xF1 .ok ∧ t.group = none
      ∧ (∀ k y, sessGet t k = some y → y.cls ≠ .peer) ∧ t.ctxs = s.ctxs ∧ t.mem = s.mem

/-- A group beat starts once its boundary has occurred and DT has reached its start with the slips that apply (R297,
R302); they are added, counted, and shown to every session. A late member asks for periods in its own slip ring, and by a
REQ in that of every member with a PEER session (R300, R301). A hold at an ARRIVE of a member beyond HOLD_LIMIT stops the
group job's engines for the beat, is logged, and fails the jobs at the boundary (R305). The group beat is read as log entry
25 says. -/
def Obligations.GroupBeatsSlipsAndHolds : Prop :=
  (∀ (s : State) (g : Group), Canonical s → member s = some g → g.atBoundary = true →
    let due := dueSlips s g
    let sum := (due.map (·.2)).sum
    startTime g g.beat (g.sigma + sum) ≤ s.clock.dt →
    ∃ t, exec .groupBeatStart s = .next t
      ∧ t.group = some { g with atBoundary := false, sigma := g.sigma + sum, applied := g.applied ++ due.map (·.1) }
      ∧ t.counters = { s.counters with slips := s.counters.slips + sum }
      ∧ regF t oTbGroup 15 0 = min 65535 (regF s oTbGroup 15 0 + sum) ∧ RegsBut s t [oTbGroup]
      ∧ (due ≠ [] → ∀ n y, sessGet t n = some y → y.slipSeen = true)
      ∧ (∀ e, engGet t e = { engGet s e with arrays := (engGet t e).arrays })
      ∧ t = { s with out := [], regs := t.regs, sessions := t.sessions, engines := t.engines, group := t.group
                     counters := t.counters, events := t.events, nextSeq := t.nextSeq })
  ∧ (∀ (s : State) (g : Group) (j : Nat), Canonical s → s.poison = [] → member s = some g →
    g.atBoundary = false → s.soft = [] → startTime g (g.beat + 1 + j) g.sigma ≤ s.clock.dt → ((openSlips s g).map (·.2)).sum ≤ j →
    j < 255 → let m := g.beat + 1 + g.delay
    generalBase ≤ slipAddr g m g.index → slipAddr g m g.index + 8 ≤ hubBase + 0x1000000 →
    ∃ t, exec (.slipNotice j) s = .next t ∧ bytesAt t (slipAddr g m g.index) 8 = groupWord m (j + 1)
      ∧ (∀ a, a < slipAddr g m g.index ∨ slipAddr g m g.index + 8 ≤ a → byteAt t a = byteAt s a)
      ∧ (∀ node i n x, (node, i) ∈ g.nodes.zipIdx → i ≠ g.index → peerSession s node.toNat = some n → sessGet s n = some x →
          ∃ y k, sessGet t n = some y ∧ k ∈ y.kept ∧ k.isReq = true ∧ k.op = 1
            ∧ k.address = BitVec.ofNat 64 (node.toNat * 2 ^ 48 + slipAddr g m g.index) ∧ k.payload = groupWord m (j + 1))
      ∧ t = { s with out := [], mem := t.mem, sessions := t.sessions })
  ∧ ∀ (s : State) (g : Group) (r : Run) (e m : Nat), member s = some g → runOf s e = some r → r.img.members ≠ 0 →
    heldTooLong s e m = true →
    ∃ t, exec (.groupHoldLimit e m) s = .next t
      ∧ (∀ k ∈ r.pass.engines, (engGet t k).abandoned = true ∧ (engGet t k).holding = none ∧ (engGet t k).arrivals = [])
      ∧ (∀ k, k ∉ r.pass.engines → engGet t k = engGet s k) ∧ t.mem = s.mem ∧ t.regs = s.regs
      ∧ (t.events.head?.map (·.code)) = some 0x304 ∧ t.nextSeq = s.nextSeq + 1
      ∧ (∀ c ∈ jobsOf s r, ∃ f ∈ t.fails, f.1 = c.num)
      ∧ t = { s with out := [], engines := t.engines, events := t.events, nextSeq := t.nextSeq, fails := t.fails }

/-! ## Bundles (R105 to R116, R532 to R534) -/

/-- The bytes b read at a local address. -/
def Sys2Proof.Terms.Holds (t : State) (a : Nat) (b : Bytes) : Prop := spanRead t a b.length = b

/-- Every byte of memory outside the listed linear addresses reads as before. -/
def Sys2Proof.Terms.MemBut (s t : State) (lins : List Nat) : Prop := ∀ y, y ∉ lins → byteAt t y = byteAt s y

/-- A local address that is in no engine window: a stack or the hub. -/
def Sys2Proof.Terms.outsideWindows (a : Nat) : Prop := ¬(sramBase ≤ a ∧ a < hubBase)

/-- The cycle in which a bundle issues: its stated cycle and the engine's accumulated hold (R119). -/
def Sys2Proof.Terms.issueCycle (s : State) (v : BundleEvent) : Nat := v.bundle.issue + (engGet s v.engine).hold

/-- A bundle that issues now: its engine runs a pass and has not abandoned the beat, no group beat is waited for, it is the
program's next one and in turn, every tag that it awaits has landed, nothing of an earlier bundle is under way in the beat,
and no word is poisoned or in error (R18, R92, R109, R119, R297). -/
structure Sys2Proof.Terms.Issues (cls : BundleClass) (s : State) (v : BundleEvent) (r : Run) : Prop where
  canon    : Canonical s
  runs     : runOf s v.engine = some r
  beat     : waitsForGroup s = false ∧ (engGet s v.engine).abandoned = false
  program  : nextBundle s r v.engine = some ⟨cls, v.bundle⟩
  turn     : inTurn s (issueCycle s v) = true
  landed   : tagsLanded (engGet s v.engine) v.bundle.waitMask = true
  quiet    : (engGet s v.engine).inflight = []
  idle     : s.agenda = [] ∧ s.stores = []
  clean    : s.poison = [] ∧ s.soft = [] ∧ s.taint = [] ∧ (engGet s v.engine).badStores = []
  sound    : v.sram = [] ∧ v.mem = [] ∧ v.late = 0

/-- The class of a bundle and the event that issues it. -/
def Sys2Proof.Terms.bundleOf : Instr → Option (BundleClass × BundleEvent)
  | .nop v => some (.nop, v)
  | .rows v => some (.rows, v)
  | .wload v => some (.wload, v)
  | .epi v => some (.epi, v)
  | .mread v => some (.mread, v)
  | .mwrite v => some (.mwrite, v)
  | .atomic v => some (.atomic, v)
  | .fenceBundle v => some (.fence, v)
  | .arrive v => some (.arrive, v)
  | _ => none

/-- The engine after a bundle's issue: it holds for nothing, it comes to the next bundle, and the bundle's tag has not
landed (R109, R110, R119). -/
def Sys2Proof.Terms.issued (s : State) (v : BundleEvent) : Engine :=
  let x := engGet s v.engine
  tagSet { x with holding := none, next := x.next + 1 } v.bundle.setTag

/-- A bundle of an engine that runs no pass or has abandoned the beat, one that comes while its group's beat has not begun, one
that is not the program's next, and one that is not in turn have no effect: the program runs as it stands (R18, R92, R297,
R305). One that awaits a tag which has not landed, or as an access a FENCE, makes its engine hold from its cycle on, and
changes nothing else (R109, R119, R265). One event is one issue, an event out of turn has no effect, and that an access holds
for a FENCE as for a tag is deduced (log entries 7 and 102). -/
def Obligations.BundlesHoldForTheirTags : Prop :=
  ∀ (c : Instr) (cls : BundleClass) (v : BundleEvent) (s : State), bundleOf c = some (cls, v) → Canonical s →
    let x := engGet s v.engine
    let p : Placed := ⟨cls, v.bundle⟩
    let at_ := issueAt s x p
    (runOf s v.engine = none → exec c s = .next { s with out := [] })
    ∧ ∀ r, runOf s v.engine = some r →
      (waitsForGroup s = true ∨ x.abandoned = true ∨ nextBundle s r v.engine ≠ some p
          ∨ inTurn (settled s at_) at_ = false → exec c s = .next { s with out := [] })
      ∧ (waitsForGroup s = false → x.abandoned = false → nextBundle s r v.engine = some p →
        inTurn (settled s at_) at_ = true → tagsLanded x (issueMask x p) = false →
        (x.holding = some v.bundle.issue → exec c s = .next { s with out := [] })
        ∧ (x.holding ≠ some v.bundle.issue →
          ∃ t, exec c s = .next t ∧ (engGet t v.engine).holding = some v.bundle.issue
            ∧ (engGet t v.engine).holdMask = issueMask x p ∧ (engGet t v.engine).holdFrom = issueCycle s v
            ∧ (engGet t v.engine).next = x.next ∧ (engGet t v.engine).tags = x.tags
            ∧ (∀ k, k ≠ v.engine → engGet t k = engGet s k) ∧ t = { s with out := [], engines := t.engines }))

/-- Completion of NOP, FENCE and ARRIVE (R107, R532, R534): under the conditions of an issue alone, `exec` answers a next state.
A NOP sets its tag and does nothing else; a FENCE is on its way to its DUE; an ARRIVE waits for its bytes, and one whose bytes
have all landed before lands its tag at once. Nothing but their engine changes. One event is one issue (log entry 7). -/
def Obligations.NopFenceArriveChangeTheirEngineOnly : Prop :=
  ∀ (s : State) (v : BundleEvent) (r : Run),
    let e := v.engine
    let b := v.bundle
    let x := engGet s e
    let remote := decide (0 < b.dueBeat)
    let source := if r.partner = true ∧ remote = false then b.source + 64 else b.source
    let y : Arrival := ⟨b.setTag, source, remote, b.abOff, b.size, 0, b.due + x.hold, b.dueBeat⟩
    (Issues .nop s v r → exec (.nop v) s = .next (engSet { s with out := [] } e (issued s v)))
    ∧ (Issues .fence s v r → exec (.fenceBundle v) s = .next (engSet { s with out := [] } e { issued s v with inflight :=
          [{ tag := b.setTag, due := b.due + x.hold, dest := 0, old := [], number := x.next + 1, fence := true }] }))
    ∧ (Issues .arrive s v r →
        (x.early = [] → exec (.arrive v) s = .next (engSet { s with out := [] } e { issued s v with arrivals := x.arrivals ++ [y] }))
        ∧ (x.arrivals = [] → 0 < b.size → source < 65536 →
            x.early = [(source + (if remote then 65536 else 0), b.abOff, b.size)] → issueCycle s v ≤ y.due →
            exec (.arrive v) s = .next (engSet { s with out := [] } e (tagLand { issued s v with early := [] } b.setTag)))
        ∧ ∃ t, exec (.arrive v) s = .next t ∧ (engGet t e).next = x.next + 1 ∧ (∀ k, k ≠ e → engGet t k = engGet s k)
            ∧ t = { s with out := [], engines := t.engines, lateEnd := t.lateEnd })

/-- WLOAD (R65, R68, R69, R72): for each named array a read of WS begins in the issue cycle, and nothing else changes yet.
Of one array, the shadow register holds the tile at its place in WS three cycles after its last read at the latest;
its active register, the other arrays and engines and memory are as before. The layout of a tile in WS and the reads of
256 B per cycle are deduced (log entry 44). -/
def Obligations.WloadFillsTheShadowRegister : Prop :=
  ∀ (s : State) (v : BundleEvent) (r : Run), Issues .wload s v r →
    let e := v.engine
    let b := v.bundle
    ∃ t, exec (.wload v) s = .next t
      ∧ t.agenda = (arraysOf b).map (fun k => ⟨issueCycle s v, rankRead, e, .weights b [] k [] false⟩)
      ∧ engGet t e = issued s v ∧ (∀ k, k ≠ e → engGet t k = engGet s k)
      ∧ t = { s with out := [], engines := t.engines, agenda := t.agenda }
      ∧ ∀ (o : OpRec) (k : Nat), opOf r.img b.op = some o → k < 4 → b.arrays = BitVec.ofNat 4 (2 ^ k) →
        let u := settled t (issueCycle s v + ceilDiv (tileBytes o) 256 + 3)
        let tile := tileOf o (bytesAt s (winAddr e (wsBase + b.wsOff + k * b.abStride)) (tileBytes o)) false
        engGet u e = arraySet (issued s v) k { arrayGet (engGet s e) k with shadow := some tile }
          ∧ (∀ q, q ≠ e → engGet u q = engGet s q) ∧ u = { s with out := [], engines := u.engines }

/-- What a ROWS bundle reads of its area for all its rows (R148). -/
def Sys2Proof.Terms.shared (s : State) (e : Nat) (r : Run) (o : OpRec) (b : Bundle) : Bytes :=
  match areaOf r.img o.tensorAux with
  | some a => (commonParts o b.kStep).flatMap fun (off, n) => areaBytes s e a off n
  | none => []

/-- Whether the header of a ROWS bundle's area is refused (R170). -/
def Sys2Proof.Terms.headRefused (s : State) (e : Nat) (r : Run) (o : OpRec) (b : Bundle) : Prop :=
  prologueOf o = 4 ∧ (areaOf r.img o.tensorAux).isSome
    ∧ (p4HeaderBad o.fusion (shared s e r o b) = true ∨ p4ModeBad o (shared s e r o b) = true)

/-- ROWS (R47 to R50, R65, R67, R71, R73, R150 to R154, R170): its first row's read begins in the issue cycle, its swap takes
place six cycles later, and nothing else changes yet; a refused P4 header is logged, fails the pass's jobs and writes
nothing. Of one row through one array without accumulation, AM holds the 32 column sums of the row after its prologue
and the active tile 41 cycles after the issue, one more at rate 0.5, and every other byte of memory reads as before; the
row of an empty slot is computed on zeros (R76). The layout of a tile in WS is deduced, and so is the slot of a row (log
entries 44 and 45). -/
def Obligations.RowsStoresColumnSums : Prop :=
  ∀ (s : State) (v : BundleEvent) (r : Run) (o : OpRec), Issues .rows s v r → opOf r.img v.bundle.op = some o →
    let e := v.engine
    let b := v.bundle
    let c := issueCycle s v
    let swap : List Timed := if b.swap then [⟨c + 6, rankRead, e, .swap b.arrays⟩] else []
    ∃ t, exec (.rows v) s = .next t
      ∧ engGet t e = (arraysOf b).foldl (fun x k =>
          arraySet x k { arrayGet x k with cast := some (s.beats * 4096 + c + 5 + b.rows * rowCycles o) }) (issued s v)
      ∧ (∀ k, k ≠ e → engGet t k = engGet s k)
      ∧ (headRefused s e r o b →
          t.agenda = swap ∧ (t.events.head?.map (·.code)) = some 0xFFF ∧ t.nextSeq = s.nextSeq + 1
          ∧ (s.fails = [] → t.fails = (jobsOf s r).map fun j => (j.num, .badParam, s.nextSeq))
          ∧ t = { s with out := [], engines := t.engines, agenda := t.agenda, events := t.events, nextSeq := t.nextSeq
                         fails := t.fails })
      ∧ (¬headRefused s e r o b →
          t.agenda = ⟨c, rankRead, e, .row b [] 0 (shared s e r o b)⟩ :: swap
          ∧ t = { s with out := [], engines := t.engines, agenda := t.agenda }
          ∧ ∀ k < 4, b.arrays = BitVec.ofNat 4 (2 ^ k) → b.rows = 1 → b.accAdd = false → b.swap = false →
            let u := settled t (c + 44)
            let read := bytesAt s (winAddr e b.abOff) (actBytes o)
            let row := if rowEmpty t r (rowSlot t e r (rowAm b 0)) then List.replicate read.length 0 else read
            let tile := (arrayGet (engGet s e) k).active
            let a := winAddr e (amBase + b.amOff + 128 * k)
            let word (n : Nat) : Word :=
              if isIntegerOp o then
                (intColumn (depthOf o / 32) 32 ((unpack (fmtWidth o.aFmt) (depthOf o) row).map (signedOf (fmtWidth o.aFmt)))
                  (weightInts tile (depthOf o) n) (0, 0)).1
              else floatColumn o (prologue s e r.img o b.kStep 0 (shared s e r o b) (actRow o row)) (weightCol tile (depthOf o) n)
            (∀ n < 32, leNat (bytesAt u (a + 4 * n) 4) = (word n).toNat)
              ∧ (∀ x, x < a ∨ a + 128 ≤ x → byteAt u x = byteAt s x)
              ∧ (∀ q, engGet u q = engGet t q)
              ∧ u = { s with out := [], mem := u.mem, engines := u.engines, regs := u.regs, trees := u.trees, taint := u.taint })

/-- EPI (R53 to R60, R65, R76, R112, R133): its first AM read comes two cycles after the issue, three under chain 8, and
nothing else changes yet. Of one row with no chain and an unscaled result that goes to a stack or the hub, all of whose
elements lie in one slot, the destination, at the slot's own tensor base, then holds the packed result, and every other byte
of memory reads as before; a row of an empty slot is written nowhere. One event is one issue (log entry 7). -/
def Obligations.EpiStoresItsRow : Prop :=
  ∀ (s : State) (v : BundleEvent) (r : Run) (o : OpRec), Issues .epi s v r → opOf r.img v.bundle.op = some o →
    let e := v.engine
    let b := v.bundle
    let c := issueCycle s v
    ∃ t, exec (.epi v) s = .next t
      ∧ t.agenda = [⟨c + 1 + readCycles o, rankRead, e, .epi b c ((engGet s e).next + 1) [] [] 0 [] []⟩]
      ∧ engGet t e = { issued s v with lastStore := epiServed s r o b (attnMode s e r.img o == 1), lastSpans := []
                                       lastNumber := (engGet s e).next + 1, rmos := (engGet t e).rmos }
      ∧ (∀ k, k ≠ e → engGet t k = engGet s k) ∧ t = { s with out := [], engines := t.engines, agenda := t.agenda }
      ∧ (b.rows = 1 → prologueOf o < 2 → chainOf o = 0 → o.dScaled = false → o.digestLayer = 0xFFFFFFFF →
          let p := rowPos s r o b false 0
          let w := tileWidth o p.col
          let at_ (k : Nat) : RowPos := elemPos r.img o p k
          let u := settled t (c + 3 + w)
          let acc := epiSums o (bytesAt s (winAddr e (amBase + b.amOff)) (4 * w))
          let vals := (List.range w).map fun k => if isPad r.img o (at_ k) then 0 else acc.getD k 0
          (∀ k < w, (at_ k).slot = p.slot) →
          (∀ job, jobOf s r p.slot = some job →
            let draw (k : Nat) : Nat := if isPad r.img o (at_ k) then 0 else
              opalRound (opalOf job) (BitVec.ofNat 32 o.tensorD) r.img.sr3 ((at_ k).m * nlogOf o + (at_ k).col)
            let bytes := pack (fmtWidth o.dFmt) (storeRow (storeOf r.img o) draw [] vals).1
            let dest := bundleAddr s r.img job.desc.base b.addr
            let a := runAddr r (localOf dest)
            isHere s dest = true → outsideWindows a → 0 < bytes.length → spanOpen s a bytes.length true = true →
            (spanLinear a bytes.length).Nodup →
              Holds u a bytes ∧ MemBut s u (spanLinear a bytes.length) ∧ (∀ q, q ≠ e → engGet u q = engGet s q)
                ∧ u = { s with out := [], mem := u.mem, engines := u.engines, regs := u.regs, qc := u.qc, stores := u.stores })
          ∧ (jobOf s r p.slot = none → u = { t with agenda := [] }))

/-- The bytes that an MREAD of a stack or the hub takes: those of its open parts, zeros for the others. -/
def Sys2Proof.Terms.partBytes (s : State) (l : List Part) : Bytes :=
  l.flatMap fun x => if x.empty || !x.open_ then List.replicate x.p.len 0 else spanRead s x.addr x.p.len

/-- MREAD, MWRITE and ATOMIC (R32, R74, R76, R107, R111, R114, R115, R139, R140, R263), each part of the bundle's bytes at the
tensor base of its slot's job. An MREAD of a stack or the hub takes its bytes at the issue and sends them on their way; a part
of an empty slot is zeros, and one in a closed region is logged and fails its jobs. An MWRITE stores the AB bytes in a stack or
the hub, or sends them to an engine window as a remote write. An ATOMIC does its work when it reaches its home, and sends the
value found on its way. Every other byte of memory reads as before. That an MREAD takes its bytes at its issue, and the latency
of the way to a home, are the model's choices, and so is the slot of a bundle's bytes (log entries 51, 73 and 45). -/
def Obligations.MemoryBundlesMoveTheirBytes : Prop :=
  ∀ (s : State) (v : BundleEvent) (r : Run),
    let e := v.engine
    let b := v.bundle
    let x := engGet s e
    let c := issueCycle s v
    let due := b.due + x.hold
    let number := x.next + 1
    let later := x.rmos.filter fun y => y.1 != number
    0 < b.size →
    (Issues .mread s v r →
      let parts := bundleParts s r b b.size false
      let used := parts.filter fun y => !y.empty && y.open_
      let closed := parts.filter fun y => !y.empty && !y.open_
      let a := (parts.head?.map (·.addr)).getD 0
      let flight (old : Bytes) (src : List (Nat × Nat × Nat)) (home : List (Nat × Nat)) : Inflight :=
        { tag := b.setTag, due := due, dest := b.abOff, old := old, src := src, slots := partsJobs parts, number := number, home := home }
      let launched (f : Inflight) : Engine := { issued s v with inflight := [f], rmos := (number, due) :: later }
      let fills (n : Nat) : List Timed := if n = 0 then [] else [⟨fillStart due n, rankFill, e, .fill number⟩]
      ∃ t, exec (.mread v) s = .next t ∧ (∀ k, k ≠ e → engGet t k = engGet s k)
        ∧ (used = [] → engGet t e = launched (flight (List.replicate b.size 0) [] []) ∧ t.agenda = fills b.size)
        ∧ (used ≠ [] → outsideWindows a →
            engGet t e = launched (flight (partBytes s parts) (used.map fun y => (y.p.off, y.addr, y.p.len))
                ((used.filter fun y => isStack y.addr).map fun y => (y.addr, y.p.len)))
            ∧ t.agenda = fills (partBytes s parts).length)
        ∧ (used ≠ [] → ¬outsideWindows a →
            engGet t e = launched (flight (List.replicate b.size 0) [] [])
            ∧ ∀ y, y ∈ t.agenda ↔ y ∈ fills b.size
                ∨ y = ⟨c + pullDelay (bundleRoute s r e b b.size), rankRead, e, .pull number a [] b.size⟩)
        ∧ (closed = [] → t = { s with out := [], engines := t.engines, qc := t.qc, agenda := t.agenda })
        ∧ (closed ≠ [] → (t.events.head?.map (·.code)) = some 0xFFF ∧ (∀ j ∈ partsJobs closed, ∃ g ∈ t.fails, g.1 = j)
            ∧ t.mem = s.mem))
    ∧ (Issues .mwrite s v r → isHere s b.addr = true →
      let parts := bundleParts s r b b.size true
      let bytes := bytesAt s (winAddr e b.abOff) b.size
      let road := bundleRoute s r e b b.size
      let a := runAddr r (localOf (ownBundle s r b).addr)
      let land := c + landLatency road + b.size / 256
      ∃ t, exec (.mwrite v) s = .next t
        ∧ (isWindowRoute road = false → (∀ y ∈ parts, y.empty = true ∨ outsideWindows y.addr) →
            let stored := parts.filter fun y => !y.empty
            let lins := stored.flatMap fun y => spanLinear y.addr (slice bytes y.p.off y.p.len).length
            lins.Nodup → (∀ y ∈ stored, isHere s (pieceAddr s r b.addr y.p) = true) →
            (∀ y ∈ stored, spanOpen s y.addr (slice bytes y.p.off y.p.len).length true = true) →
            (∀ y ∈ stored, Holds t y.addr (slice bytes y.p.off y.p.len)) ∧ MemBut s t lins ∧ (∀ k, k ≠ e → engGet t k = engGet s k)
            ∧ t = { s with out := [], mem := t.mem, engines := t.engines, qc := t.qc, stores := t.stores })
        ∧ (isWindowRoute road = true → isHere s (ownBundle s r b).addr = true → ¬outsideWindows a → spanOpen s a b.size true = true →
            let k := (a - sramBase) / 0x400000
            (engGet t k).incoming = (engGet s k).incoming
                ++ [⟨e, (a - sramBase) % 0x400000, bytes, land, s.moves, 0, partsJobs parts, []⟩]
            ∧ t.agenda = [⟨fillStart land b.size, rankRemote e, k, .arrival s.moves⟩]
            ∧ (∀ q, q ≠ e → q ≠ k → engGet t q = engGet s q)
            ∧ t = { s with out := [], engines := t.engines, agenda := t.agenda, moves := s.moves + 1 }))
    ∧ (Issues .atomic s v r → isHere s b.addr = true →
      let a := runAddr r (localOf (ownBundle s r b).addr)
      let home := if isStack a then [(a, b.size)] else []
      spanOpen s a b.size true = true → isStack a = true ∨ regionOf a = .hubGeneral →
      (spanLinear a b.size).Nodup →
      let arrives := c + homeLatency (routeOf e (linearOf a))
      let old := spanRead s a b.size
      let operands := bytesAt s (winAddr e b.abOff) (if b.kind = .cas then 2 * b.size else b.size)
      let back : Inflight := { tag := b.setTag, due := due, dest := b.retOff, old := old, slots := atomicJobs s r b
                               number := number, home := home }
      (b.kind = .atomicAdd ∨ arrives < fillStart due b.size) →
      ∃ t, exec (.atomic v) s = .next t ∧
        let u := settled t (arrives + 1)
        Holds u a (atomicEffect b.kind b.size old operands) ∧ MemBut s u (spanLinear a b.size)
          ∧ (engGet u e).inflight = (if b.kind = .atomicAdd then [] else [back]) ∧ (∀ k, k ≠ e → engGet u k = engGet s k)
          ∧ u = { s with out := [], mem := u.mem, engines := u.engines, qc := u.qc, stores := u.stores, agenda := u.agenda })

/-- A completion lands when the engines have come to its cycle (R65, R110, R111, R272): its tag lands, and when the cycle is over
the bytes that had not landed yet are in the engine's window. A FENCE lands its tag after the completions that it covers (R534).
A remote write lands in the same way (R114, R532). Every other byte of memory reads as before. An event out of turn has no
effect, and a completion carries the bytes taken at its issue where nothing wrote them since: the model's choices (log entries
7 and 51). -/
def Obligations.CompletionsAndRemoteWritesLand : Prop :=
  ∀ (s : State) (e : Nat), Canonical s → s.agenda = [] → s.stores = [] → s.poison = [] ∧ s.soft = [] → s.taint = [] →
  (∀ (tag : BitVec 4) (ready : Nat) (f : Inflight), (engGet s e).inflight.find? (fun g => g.tag == some tag) = some f →
    (engGet s e).inflight.find? (fun g => g.number == f.number) = some f →
    let c := landCycle s (engGet s e) f ready
    let at_ := winAddr e (f.dest + f.filled)
    (fenceWaits (engGet s e) f = true ∨ inTurn s c = false → exec (.completionLanded e tag ready) s = .next { s with out := [] })
    ∧ (fenceWaits (engGet s e) f = false → inTurn s c = true → f.poisoned = [] → f.old.length ≤ 0x400000 →
        (∀ x ∈ f.src, spanRead s x.2.1 x.2.2 = slice f.old x.1 x.2.2) → (∃ y ∈ (engGet s e).tags, y.1 = tag) →
        ∃ t, exec (.completionLanded e tag ready) s = .next t
          ∧ tagLanded (engGet t e) tag = true
          ∧ (engGet t e).inflight = (engGet s e).inflight.filter (fun g => g.number != f.number)
          ∧ (∀ k, k ≠ e → engGet t k = engGet s k)
          ∧ t = { s with out := [], engines := t.engines, regs := t.regs, lateStacks := t.lateStacks, lateEnd := t.lateEnd
                         agenda := t.agenda }
          ∧ let u := settled t (c + 1)
            bytesAt u at_ (f.old.length - f.filled) = f.old.drop f.filled
            ∧ (∀ x, x < at_ ∨ at_ + (f.old.length - f.filled) ≤ x → byteAt u x = byteAt s x)
            ∧ u = { t with mem := u.mem, agenda := [] }))
  ∧ ∀ (k : Nat) (w : RemoteWrite), (engGet s e).incoming[k]? = some w →
    let at_ := winAddr e (w.offset + w.filled)
    (inTurn s w.land = false → exec (.remoteWriteLanding e k) s = .next { s with out := [] })
    ∧ (inTurn s w.land = true → w.poisoned = [] → w.data.length ≤ 0x400000 →
        ∃ t, exec (.remoteWriteLanding e k) s = .next t
          ∧ (engGet t e).incoming = (engGet s e).incoming.eraseIdx k
          ∧ (∀ q, q ≠ e → engGet t q = engGet s q)
          ∧ t = { s with out := [], engines := t.engines, lateEnd := t.lateEnd, agenda := t.agenda }
          ∧ let u := settled t (w.land + 1)
            bytesAt u at_ (w.data.length - w.filled) = w.data.drop w.filled
            ∧ (∀ x, x < at_ ∨ at_ + (w.data.length - w.filled) ≤ x → byteAt u x = byteAt s x)
            ∧ u = { t with mem := u.mem, agenda := [] })

/-- An array whose engine has held for 256 cycles in SIMMER mode ramps down, and none sooner (R81). A flit that a die-to-die link
cannot correct is logged on its edge, makes HEALTH at least NOTICE and poisons the transfer that it belongs to: a completion on
its way, a remote write on its way, the engine's latest store, bytes that a host or a peer has moved, or the next READ of a
session (R14). -/
def Obligations.HoldsRampDownAndBadFlitsAreLogged : Prop :=
  (∀ (s : State) (e k : Nat), Canonical s → k < 4 → (engGet s e).arrays.length = 4 →
    (isHeld (engGet s e) = true → s.power.ramp = false → 256 ≤ heldCycles s e →
      ∃ t, exec (.holdSimmerExpiry e k) s = .next t
        ∧ engGet t e = arraySet (engGet s e) k { arrayGet (engGet s e) k with down := true }
        ∧ (arrayGet (engGet t e) k).down = true
        ∧ (∀ q, q ≠ e → engGet t q = engGet s q) ∧ t = { s with out := [], engines := t.engines })
    ∧ (heldCycles s e < 256 → exec (.holdSimmerExpiry e k) s = .next { s with out := [] }))
  ∧ ∀ (s : State) (edge e : Nat) (target : FlitTarget), Canonical s →
    ∃ t ev, exec (.d2dFlitUncorrectable edge e target) s = .next t ∧ t.events.head? = some ev ∧ ev.code = 0x204
      ∧ ev.unit = unitOf 7 edge ∧ ev.seq = s.nextSeq ∧ t.nextSeq = s.nextSeq + 1 ∧ t.noticeNext.testBit 0 = true
      ∧ t.mem = s.mem ∧ t.regs = s.regs ∧ t.ctxs = s.ctxs ∧ (∀ k, k ≠ e → engGet t k = engGet s k)
      ∧ (∀ k f, target = .completion k → (engGet s e).inflight[k]? = some f →
          (engGet t e).inflight = (engGet s e).inflight.map fun g =>
            if g.number = f.number then { f with poisoned := List.range f.old.length } else g)
      ∧ (∀ k w, target = .arriving k → (engGet s e).incoming[k]? = some w →
          (engGet t e).incoming = (engGet s e).incoming.set k { w with poisoned := List.range w.data.length })
      ∧ (target = .store → (engGet t e).badStores = (engGet s e).lastNumber :: (engGet s e).badStores
          ∧ ∀ x ∈ (engGet s e).lastSpans, ∀ l ∈ spanLinear x.1 x.2, wordAt l ∈ t.poison)
      ∧ (∀ a n, target = .outside a n → spanOpen s a n true = true → ∀ l ∈ spanLinear a n, wordAt l ∈ t.poison)
      ∧ (∀ n, target = .hostRead n → n ∈ t.flitReads)

/-! ## Caldera kernels (R218 to R246) -/

/-- A kernel that its image's program has now, in a state without a word in error and without stores of the beat; it meets no
word in error, ends in its span, and all that its image declares it to access is open to it (R18, R115, R226, R245, R275). -/
structure Sys2Proof.Terms.KernelRuns (code : KernelCode) (s : State) (v : KernelEvent) (x : KRun) (n : Nat) : Prop where
  runs   : kernelRun s code v.kernel = some (x, n)
  reach  : ∀ why, closedJobs s code x why = []
  sound  : v.mem = [] ∧ v.datapath = [] ∧ v.late = 0
  clean  : s.poison = [] ∧ s.soft = [] ∧ s.stores = []
  canon  : Canonical s

/-- The passes after a kernel has run: its place is among those that its pass has run. -/
def Sys2Proof.Terms.ran (s : State) (x : KRun) (n : Nat) : List Pass :=
  s.passes.map fun p => if p = x.run.pass then { p with ran := (x.k.stack, n) :: p.ran } else p

/-- The kernel that a row runs. -/
def Sys2Proof.Terms.kernelOf : Instr → Option (KernelCode × KernelEvent)
  | .samplerStep v => some (.samplerStep, v)
  | .guidance v => some (.guidance, v)
  | .optim v => some (.optim, v)
  | .reduce v => some (.reduce, v)
  | .quantiseDeferred v => some (.quantise, v)
  | .transpose v => some (.transpose, v)
  | .gather v | .gatherPageRead v => some (.gather, v)
  | .scatter v | .scatterPageWrite v => some (.scatter, v)
  | .orderedAccumulate v => some (.accumulate, v)
  | _ => none

/-- Whether an image may write every byte of a list of spans, each an address and a count (R32, R275, R387, R430). -/
def Sys2Proof.Terms.Writable (s : State) (l : List (Nat × Nat)) : Prop := ∀ y ∈ l, 0 < y.2 → spanOpen s y.1 y.2 true = true

/-- The words that a kernel stores for row 0 of an output, as elements under OUT_MODES (R228). -/
def Sys2Proof.Terms.outBits (x : KRun) (job : Ctx) (vals : List Word) : List Nat × List Byte × Nat :=
  storeRow (kStoreOf x) (fun n => opalRound (opalOf job) x.k.opalTensor (kStoreOf x).sr3 (kLogical x.k 0 * x.k.cols + n))
    (blockScales (kStoreOf x) vals) vals

/-- Value n of row 0 of a SAMPLER_STEP (R233): the inputs' sum, the noise term, dropout. -/
def Sys2Proof.Terms.stepValue (s : State) (x : KRun) (job : Ctx) (n : Nat) : Word :=
  let index := kLogical x.k 0 * x.k.cols + n
  let sum := stepSum ((stepInputs x).map fun (c, t) => (c, ((kReadRow s x t 0 x.k.cols).getD n ⟨0, vzero, false⟩).v))
  let acc := if kNat x.k 40 1 = 0 then sum else fma (kF32 x.k 36) (noiseOf x job index) sum
  if kNat x.k 42 2 = 0 then acc
  else if opalBits (opalOf job) 1 x.k.opalTensor 8 16 index < kNat x.k 42 2 then 0 else fmul acc (kF32 x.k 44)

/-- Value n of row 0 of an ORDERED_ACCUMULATE (R243): the slots in their order or as a tree, then the initial value. -/
def Sys2Proof.Terms.sumValue (s : State) (x : KRun) (slots : Tensor) (n : Nat) : Word :=
  let vs := (List.range (kNat x.k 12 2)).map fun c =>
    kWord ((kRead s slots.fmt (kRow s x slots 0 + c * kNat x.k 16 8) x.k.cols none).getD n ⟨0, vzero, false⟩)
  let sum := if kNat x.k 14 1 = 1 then pairTree fadd 11 vs else vs.tail.foldl fadd (vs.headD 0)
  match kTens x 4 with
  | some t => fadd sum (kWord ((kReadRow s x t 0 x.k.cols).getD n ⟨0, vzero, false⟩))
  | none => sum

/-- A kernel that its program does not have now has no effect (R18, R226). SAMPLER_STEP, GUIDANCE and ORDERED_ACCUMULATE of
one row (R228, R233, R235, R243) store their values in the output's row and, when OUT_MODES asks for scales, the scales
in the next tensor's row; no other byte of memory changes. A kernel runs as one step (log entry 7). -/
def Obligations.SumKernelsStoreTheirRow : Prop :=
  (∀ (s : State) (c : Instr) (code : KernelCode) (v : KernelEvent), kernelOf c = some (code, v) →
    kernelRun s code v.kernel = none → exec c s = .next { s with out := [] })
  ∧ ∀ (s : State) (v : KernelEvent) (x : KRun) (n : Nat) (job : Ctx) (out : Tensor), kJob s x 0 = some job → v.kernel.rows = 1 →
    let Stored := fun (c : Instr) (vals : List Word) =>
      let bits := outBits x job vals
      let data := pack (fmtWidth (outFmt x.k)) bits.1
      let z := if outScaled x.k then tensorGet x.run.img (out.id + 1) else none
      let lins := spanLinear (kRow s x out 0) data.length
      let scaleLins := match z with
        | some y => spanLinear (kRow s x y 0) bits.2.1.length
        | none => []
      (lins ++ scaleLins).Nodup →
      Writable s ((kRow s x out 0, data.length) :: z.toList.map fun y => (kRow s x y 0, bits.2.1.length)) →
      ∃ t, exec c s = .next t ∧ Holds t (kRow s x out 0) data
        ∧ (∀ y, z = some y → Holds t (kRow s x y 0) bits.2.1)
        ∧ MemBut s t (lins ++ scaleLins)
        ∧ (x.k.digestLayer = 0xFFFFFFFF → t.ctxs = s.ctxs ∧ t.mirrorSums = s.mirrorSums)
        ∧ RegsBut s t [oCal x.k.stack + 0x28]
        ∧ t = { s with out := [], mem := t.mem, regs := t.regs, qc := t.qc, ctxs := t.ctxs, mirrorSums := t.mirrorSums
                       passes := ran s x n }
    (KernelRuns .samplerStep s v x n → kTens x 16 = some out →
        Stored (.samplerStep v) ((List.range x.k.cols).map (stepValue s x job)))
    ∧ (∀ tu tc : Tensor, KernelRuns .guidance s v x n → kTens x 0 = some tu → kTens x 4 = some tc → kTens x 8 = some out →
        Stored (.guidance v) (((kReadRow s x tu 0 x.k.cols).zip (kReadRow s x tc 0 x.k.cols)).map fun (u, c) =>
          fma (kF32 x.k 12) (fsub (kWord c) (kWord u)) (kWord u)))
    ∧ (∀ slots : Tensor, KernelRuns .accumulate s v x n → kTens x 0 = some slots → kTens x 8 = some out →
        Stored (.orderedAccumulate v) ((List.range x.k.cols).map (sumValue s x slots)))

/-- OPTIM of one row (R236, R237): the master, the moments and, where it is present, the output take the step's
results; a scalar block whose SKIP word is not 0 leaves everything as it was. REDUCE (R238): a row's fold over 64
partial sums and their tree goes to the output's row; along columns each column's fold over the rows of the slot does.
A kernel runs as one step (log entry 7). -/
def Obligations.OptimAndReduceStoreTheirResults : Prop :=
  ∀ (s : State) (v : KernelEvent) (x : KRun) (n : Nat) (job : Ctx), kJob s x 0 = some job →
    (∀ tw tm tg ts : Tensor, KernelRuns .optim s v x n →
      kTens x 0 = some tw → kTens x 4 = some tm → kTens x 12 = some tg → kTens x 24 = some ts →
      let blk := kBytes s (kBase s x 0 ts) 64
      (field blk 32 4 ≠ 0 → exec (.optim v) s = .next { s with out := [], passes := ran s x n })
      ∧ (field blk 32 4 = 0 → v.kernel.rows = 1 →
        let algo := kNat x.k 28 1
        let moment := if algo = 0 then kTens x 8 else none
        let rv := match kTens x 8 with
          | some t => (kReadRow s x t 0 x.k.cols).map kWord
          | none => List.replicate x.k.cols 0
        let els := (((kReadRow s x tw 0 x.k.cols).map kWord).zip ((kReadRow s x tm 0 x.k.cols).map kWord)).zip
          (rv.zip ((kReadScaled s x tg (kTens x 16) 0 x.k.cols).map (·.v)))
        let res := els.map fun ((w, m), (u, g)) => optimStep algo (fun o => BitVec.ofNat 32 (field blk o 4)) g w m u
        let lins (t : Tensor) := spanLinear (kRow s x t 0) (4 * x.k.cols)
        let bits := outBits x job (res.map (·.1))
        let data := pack (fmtWidth (outFmt x.k)) bits.1
        let out := kTens x 20
        let scales := if outScaled x.k then out.bind fun y => tensorGet x.run.img (y.id + 1) else none
        let all := lins tw ++ lins tm ++ (moment.map lins).getD []
          ++ (out.map fun y => spanLinear (kRow s x y 0) data.length).getD []
          ++ (scales.map fun y => spanLinear (kRow s x y 0) bits.2.1.length).getD []
        all.Nodup →
        Writable s ((tw :: tm :: moment.toList).map (fun y => (kRow s x y 0, 4 * x.k.cols))
          ++ out.toList.map (fun y => (kRow s x y 0, data.length)) ++ scales.toList.map fun y => (kRow s x y 0, bits.2.1.length)) →
        ∃ t, exec (.optim v) s = .next t ∧ Holds t (kRow s x tw 0) (pack 32 (res.map fun r => r.1.toNat))
          ∧ Holds t (kRow s x tm 0) (pack 32 (res.map fun r => r.2.1.toNat))
          ∧ (∀ y, moment = some y → Holds t (kRow s x y 0) (pack 32 (res.map fun r => r.2.2.toNat)))
          ∧ (∀ y, out = some y → Holds t (kRow s x y 0) data)
          ∧ (∀ y, scales = some y → Holds t (kRow s x y 0) bits.2.1)
          ∧ MemBut s t all ∧ RegsBut s t [oCal x.k.stack + 0x28]
          ∧ (x.k.digestLayer = 0xFFFFFFFF → t.ctxs = s.ctxs ∧ t.mirrorSums = s.mirrorSums)
          ∧ t = { s with out := [], mem := t.mem, regs := t.regs, qc := t.qc, ctxs := t.ctxs, mirrorSums := t.mirrorSums
                         passes := ran s x n }))
    ∧ ∀ tin out : Tensor, KernelRuns .reduce s v x n → kTens x 0 = some tin → kTens x 8 = some out →
      (kNat x.k 13 1 = 0 → v.kernel.rows = 1 → (spanLinear (kRow s x out 0) 4).Nodup → Writable s [(kRow s x out 0, 4)] →
        ∃ t, exec (.reduce v) s = .next t
          ∧ Holds t (kRow s x out 0)
              (pack 32 [(reduceRow (kNat x.k 12 1) ((kReadScaled s x tin (kTens x 4) 0 x.k.cols).map (·.v))).toNat])
          ∧ MemBut s t (spanLinear (kRow s x out 0) 4)
          ∧ t = { s with out := [], mem := t.mem, qc := t.qc, passes := ran s x n })
      ∧ (kNat x.k 13 1 = 1 → x.k.slotRows = 0 ∨ (0 < x.k.rows ∧ x.k.rows ≤ x.k.slotRows) →
        (spanLinear (kBase s x 0 out) (4 * x.k.cols)).Nodup → Writable s [(kBase s x 0 out, 4 * x.k.cols)] →
        ∃ t, exec (.reduce v) s = .next t
          ∧ Holds t (kBase s x 0 out) (pack 32 ((List.range x.k.cols).map fun n =>
              ((List.range x.k.rows).foldl (fun a m =>
                redStep (kNat x.k 12 1) a ((kReadScaled s x tin (kTens x 4) m x.k.cols).getD n ⟨0, vzero, false⟩).v)
                (redInit (kNat x.k 12 1))).toNat))
          ∧ MemBut s t (spanLinear (kBase s x 0 out) (4 * x.k.cols))
          ∧ t = { s with out := [], mem := t.mem, qc := t.qc, passes := ran s x n })

/-- QUANTISE_DEFERRED of one row (R164, R239) stores the row of TENSOR_D under one scale, found from the row's partial
maxima. TRANSPOSE without block scales (R240) writes only its output rows, each row's elements at the base of its own
slot's job; where its rows lie in one slot, element m of input row m, column n, is element m of output row n: bit for bit
where its formats agree, else converted. A kernel runs as one step, and is read as log entry 54 says. -/
def Obligations.QuantiseAndTransposeStoreTheirRows : Prop :=
  ∀ (s : State) (v : KernelEvent) (x : KRun) (n : Nat) (job : Ctx), kJob s x 0 = some job →
    (∀ (o : OpRec) (tp out td : Tensor), KernelRuns .quantise s v x n →
      opOf x.run.img (kNat x.k 0 2) = some o → kTens x 4 = some tp →
      kTens x 8 = some out → tensorGet x.run.img o.tensorD = some td → v.kernel.rows = 1 →
      let code := scaleCode o.dFmt ((kRead s 0 (kRow s x tp 0) (ceilDiv (npadOf o) o.tileN) none).map kWord)
      let vals := (kReadRow s x td 0 x.k.cols).map kWord ++ List.replicate (npadOf o - x.k.cols) 0
      let st := storeOf x.run.img o
      let bits := storeRow st
        (fun n => opalRound (opalOf job) x.k.opalTensor st.sr3 (kLogical x.k 0 * x.k.cols + n))
        (List.replicate (ceilDiv (npadOf o) 32) code) vals
      let data := pack (fmtWidth o.dFmt) bits.1
      let z := if o.dScaled then kTens x 12 else none
      let lins := spanLinear (kRow s x out 0) data.length
      let scaleLins := match z with
        | some y => spanLinear (kRow s x y 0) bits.2.1.length
        | none => []
      (lins ++ scaleLins).Nodup →
      Writable s ((kRow s x out 0, data.length) :: z.toList.map fun y => (kRow s x y 0, bits.2.1.length)) →
      ∃ t, exec (.quantiseDeferred v) s = .next t ∧ Holds t (kRow s x out 0) data
        ∧ (∀ y, z = some y → Holds t (kRow s x y 0) bits.2.1)
        ∧ MemBut s t (lins ++ scaleLins) ∧ RegsBut s t [oCal x.k.stack + 0x28]
        ∧ (x.k.digestLayer = 0xFFFFFFFF → t.ctxs = s.ctxs ∧ t.mirrorSums = s.mirrorSums)
        ∧ t = { s with out := [], mem := t.mem, regs := t.regs, qc := t.qc, ctxs := t.ctxs, mirrorSums := t.mirrorSums
                       passes := ran s x n })
    ∧ ∀ tin out : Tensor, KernelRuns .transpose s v x n → kTens x 0 = some tin → kTens x 8 = some out → outScaled x.k = false →
      let elem (m n : Nat) := (kReadScaled s x tin (kTens x 4) m x.k.cols).getD n ⟨0, vzero, true⟩
      let slotLen := if kNat x.k 16 4 ≠ 0 then kNat x.k 16 4 else if x.k.slotRows ≠ 0 then x.k.slotRows else x.k.rows
      let draw (n m : Nat) := opalRound (opalOf job) x.k.opalTensor (kStoreOf x).sr3 (n * slotLen + kLogical x.k m)
      let row (n : Nat) := if transposeCopies x tin then (List.range x.k.rows).map fun m => (elem m n).raw
        else (storeVals (kStoreOf x) (draw n) [] ((List.range x.k.rows).map fun m => (elem m n).v)).1
      let len := packedBytes (fmtWidth (outFmt x.k)) x.k.rows
      let rowsOf (q : Nat) := (List.range x.k.cols).flatMap fun n => spanLinear (kRowIn s x q out n) len
      ∃ t, exec (.transpose v) s = .next t
        ∧ MemBut s t ((List.range x.k.rows).flatMap fun m => rowsOf (kSlot x.k m)) ∧ RegsBut s t [oCal x.k.stack + 0x28]
        ∧ (x.k.digestLayer = 0xFFFFFFFF → t.ctxs = s.ctxs ∧ t.mirrorSums = s.mirrorSums)
        ∧ t = { s with out := [], mem := t.mem, regs := t.regs, qc := t.qc, ctxs := t.ctxs, mirrorSums := t.mirrorSums
                       passes := ran s x n }
        ∧ ((∀ m < x.k.rows, kSlot x.k m = 0) → (rowsOf 0).Nodup →
            Writable s ((List.range x.k.cols).map fun n => (kRowIn s x 0 out n, len)) →
            ∀ n < x.k.cols, Holds t (kRowIn s x 0 out n) (pack (fmtWidth (outFmt x.k)) (row n)))

/-- GATHER and SCATTER in their index form, of one row (R241, R250): GATHER copies table row INDEX[0] to the output,
and writes zeros for the index 0xFFFF_FFFF and for one beyond the table, which is counted; SCATTER copies the source
row to table row INDEX[0], and writes nothing in those two cases. Table rows lie at the base of the row's own job. The
addresses of rows are read as log entry 54 says. -/
def Obligations.IndexKernelsMoveRows : Prop :=
  ∀ (s : State) (v : KernelEvent) (x : KRun) (m : Nat) (job : Ctx) (table index other : Tensor), kJob s x 0 = some job →
    kNat v.kernel 0 1 = 0 → v.kernel.rows = 1 → kTens x 4 = some table → kTens x 8 = some index → kTens x 12 = some other →
    let k := leNat (kBytes s (kRow s x index 0) 4)
    let n := rowBytes other.fmt x.k.cols
    let a := kRow s x other 0
    let b := kRowIn s x 0 table k
    let lost : Bool := k != 0xFFFFFFFF && !holdsRow table x.k.cols k
    let Counted := fun (t : State) =>
      regF t (oCal x.k.stack + 0x20) 31 16
        = (if lost = true then min 65535 (regF s (oCal x.k.stack + 0x20) 31 16 + 1) else regF s (oCal x.k.stack + 0x20) 31 16)
    (KernelRuns .gather s v x m → (spanLinear a n).Nodup → Writable s [(a, n)] →
      ∃ t, exec (.gather v) s = .next t
        ∧ Holds t a (if k = 0xFFFFFFFF ∨ lost = true then List.replicate n 0 else kBytes s b n)
        ∧ MemBut s t (spanLinear a n) ∧ Counted t ∧ RegsBut s t [oCal x.k.stack + 0x20]
        ∧ t = { s with out := [], mem := t.mem, regs := t.regs, qc := t.qc, passes := ran s x m })
    ∧ (KernelRuns .scatter s v x m → (spanLinear b n).Nodup → Writable s [(b, n)] →
      ∃ t, exec (.scatter v) s = .next t
        ∧ (if k = 0xFFFFFFFF ∨ lost = true then t.mem = s.mem
            else Holds t b (kBytes s a n) ∧ MemBut s t (spanLinear b n))
        ∧ Counted t ∧ RegsBut s t [oCal x.k.stack + 0x20]
        ∧ t = { s with out := [], mem := t.mem, regs := t.regs, qc := t.qc, passes := ran s x m })

/-- GATHER in its page-read form (R185, R242) lays the elements of the job's pages into the staging rows: token-major
for K, channel-major for V, zeros beyond the length and beyond what a page holds, and marks a job of which it reads a
DEMOTED page (R193). Pages lie at the addresses of the unit's own half of a mirrored pair (R308). SCATTER in its page-write form
(R186) puts one token into the page that the pass start has made writable, and the page's TOKENS_VALID covers it. The
staging is read as log entry 54 says. -/
def Obligations.PageKernelsMoveTokens : Prop :=
  ∀ (s : State) (v : KernelEvent) (x : KRun) (n : Nat) (job : Ctx) (staging : Tensor), kNat v.kernel 0 1 ≠ 0 →
    kTens x 4 = some staging → jobOf s x.run (kNat x.k 8 1) = some job → tensorGet x.run.img (staging.id + 1) = none →
    let kind := kNat x.k 9 1
    let layer := kNat x.k 10 2
    let heads := kNat x.k 12 2
    let d := kNat x.k 14 2
    let tokens := kNat x.k 16 4
    let rowAt (r : Nat) := kRowIn s x (kNat x.k 8 1) staging r
    kind < 2 →
    (KernelRuns .gather s v x n →
     let pages := (List.range (min (tokens / 256) (ceilDiv job.length 256))).map fun i => (mappedPage s job layer kind i).map (kPage x)
     let elem (ch tok : Nat) : Nat := match pages.getD (tok / 256) none with
      | some p => if tok < job.length ∧ tok % 256 < p.valid then (pageRead s p kind (heads * d) ch (tok % 256)).1 else 0
      | none => 0
     let rows := if kind = 0 then heads * tokens else heads * d
     let row (r : Nat) : List Nat := if kind = 0 then (List.range d).map fun ch => elem (r / tokens * d + ch) (r % tokens)
      else (List.range tokens).map (elem r)
     let len := packedBytes (fmtWidth staging.fmt) (if kind = 0 then d else tokens)
     let lins := (List.range rows).flatMap fun r => spanLinear (rowAt r) len
     lins.Nodup → Writable s ((List.range rows).map fun r => (rowAt r, len)) →
     (∀ q ∈ s.pages, q.state ≠ .dropped ∧ ∀ y ∈ lins,
        y < (kPage x q).slot ∨ (kPage x q).slot + pageBytes q.fmt q.scaled (heads * d) ≤ y) →
     ∃ t, exec (.gatherPageRead v) s = .next t
      ∧ (∀ r < rows, Holds t (rowAt r) (pack (fmtWidth staging.fmt) (row r)))
      ∧ MemBut s t lins
      ∧ t.pages = s.pages.map (fun q => if pages.any (fun p => p.any fun y => y.id == q.id) then { q with lastRead := s.beats } else q)
      ∧ t.ctxs = (if pages.any (fun p => p.any fun y => y.state == .demoted) then
          ctxMap s job.num fun c => { c with kvDemoted := true } else s).ctxs
      ∧ t = { s with out := [], mem := t.mem, qc := t.qc, pages := t.pages, ctxs := t.ctxs, passes := ran s x n })
    ∧ ∀ p : Page, KernelRuns .scatter s v x n → tokens = 1 → job.recomputing = false →
      mappedPage s job layer kind (job.length / 256) = some p → (writeRange job).contains (job.length / 256) = true →
      pageGet s p.id = some p → p.state = .live → p.refs = 1 → p.homeScaled = false →
      let slot := (kPage x p).slot
      slot + pageBytes p.home false (heads * d) ≤ 0x10000000000 → descAddr s p.id + 32 ≤ 0x10000000000 →
      (descAddr s p.id + 32 ≤ slot ∨ slot + pageBytes p.home false (heads * d) ≤ descAddr s p.id) →
      let w := fmtWidth p.home
      let run := if kind = 0 then d else 1
      let count := if kind = 0 then heads else heads * d
      let len := packedBytes w run
      let place (r : Nat) := w * pageElemNo kind (heads * d) (r * run) (job.length % 256)
      (∀ r < count, spanOpen s (rowAt r) len = true) →
      Writable s ((List.range count).map fun r => (slot + place r / 8, ceilDiv (place r % 8 + w * run) 8)) →
      (∀ r < count, ∀ y ∈ spanLinear (rowAt r) len,
        (y < slot ∨ slot + pageBytes p.home false (heads * d) ≤ y) ∧ (y < descAddr s p.id ∨ descAddr s p.id + 32 ≤ y)) →
      ∃ t, exec (.scatterPageWrite v) s = .next t
        ∧ (∀ h < heads, ∀ ch < d, pageElem t slot p.home (pageElemNo kind (heads * d) (h * d + ch) (job.length % 256))
            = if kind = 0 then elemAt w (spanRead s (rowAt h) len) ch
              else elemAt w (spanRead s (rowAt (h * d + ch)) len) 0)
        ∧ (∀ i < pageElems (heads * d), (∀ ch < heads * d, i ≠ pageElemNo kind (heads * d) ch (job.length % 256)) →
            pageElem t slot p.home i = pageElem s slot p.home i)
        ∧ (∀ y, (y < slot ∨ slot + pageBytes p.home false (heads * d) ≤ y) →
            (y < descAddr s p.id ∨ descAddr s p.id + 32 ≤ y) → byteAt t y = byteAt s y)
        ∧ pageGet t p.id = some { p with valid := max p.valid (job.length % 256 + 1) }
        ∧ t = { s with out := [], mem := t.mem, qc := t.qc, pages := t.pages, passes := ran s x n }

/-- TOKEN_SAMPLER_RUN at the end of a pass, when every effect of its last beat has taken place, for the job of the lowest
slot that samples and has no token yet (R194 to R196): the token that the sampler draws stands at the start of TOKENS,
or 0xFFFF_FFFF where no candidate is left; the row is counted; every other byte of memory reads as before. At any other
time, and for any other job, nothing changes. That the token stands at the start of TOKENS is deduced (log entry 63). -/
def Obligations.TokenSamplerWritesItsToken : Prop :=
  ∀ (s : State) (n : Nat), Canonical s → s.agenda = [] →
    (s.passes.all (passDone s) = false ∨ (∀ p ∈ s.passes, nextToSample s p ≠ some n) →
      exec (.tokenSamplerRun n) s = .next { s with out := [] })
    ∧ ∀ (c : Ctx) (p : Pass) (i : Image) (l t : Tensor), s.passes.all (passDone s) = true → p ∈ s.passes →
      nextToSample s p = some n → ctxGet s n = some c → imageGet s c.desc.image = some i →
      tensorGet i c.desc.sampLogits = some l → tensorGet i c.desc.sampTokens = some t → s.poison = [] ∧ s.soft = [] →
      let a := tensorAddr t c.desc.base
      let draw := opalBits { seed := c.desc.seed, stream := c.desc.stream, step := c.step } 4 c.desc.opalTensor 4 32 0
      let token := sampleToken c.desc (logitRow s c l).2 draw
      spanOpen s (tensorAddr l c.desc.base) (fmtWidth l.fmt / 8 * c.desc.vocab) = true → spanOpen s a 4 true = true →
      (spanLinear a 4).Nodup →
      ∃ u, exec (.tokenSamplerRun n) s = .next u ∧ Holds u a (toLE (token.getD 0xFFFFFFFF) 4)
        ∧ MemBut s u (spanLinear a 4)
        ∧ (∃ d, ctxGet u n = some d ∧ d = { c with token := true })
        ∧ regF u oSampRows 31 0 = (regF s oSampRows 31 0 + 1) % 2 ^ 32
        ∧ (token.isSome = true → RegsBut s u [oSampRows] ∧ u.events = s.events)
        ∧ u = { s with out := [], mem := u.mem, regs := u.regs, ctxs := u.ctxs, events := u.events, nextSeq := u.nextSeq }

/-! ## UTX (R340 to R365) -/

/-- The row of an RMO type whose memory reads meet no word in error. -/
def Sys2Proof.Terms.rmoRow (op : RmoOp) (q : UtxReq) : Instr :=
  match op with
  | .read => .read q []
  | .write => .write q []
  | .fetchAdd => .fetchAdd q []
  | .atomicAdd => .atomicAdd q []
  | .cas => .cas q []
  | .fence => .fence q

/-- A REQ that comes from the other end of an open session, on an interface that is up and speaks its IP version, to a port
that takes UTX, and whose payload fits the session's segment size and its window (R336, R340, R342, R356, R358). -/
structure Sys2Proof.Terms.Arrives (s : State) (q : UtxReq) (x : Session) (op : RmoOp) : Prop where
  canon   : Canonical s
  taken   : takesFrames s q.port q.iface = true
  port    : acceptsUtx s q.port q.iface q.addr q.dport = true
  session : reqSession s q = some x
  size    : payloadOf op q ≤ x.segment
  window  : x.held + costOf q.length ≤ x.window

/-- The REQ is answered: its RSP, with a status and a payload, is kept until it is acknowledged, under the session's next
PSN; the PSN expected rises by one, and the slots are free again with the credit raised (R344, R348, R350, R359). -/
def Sys2Proof.Terms.Answered (t : State) (q : UtxReq) (x : Session) (op : RmoOp) (c : Code) (data : Bytes) : Prop :=
  ∃ y k, sessGet t q.session = some y ∧ y.kept.getLast? = some k ∧ k.isReq = false ∧ k.op = rmoByte op ∧ k.status = c
    ∧ k.reqPsn = q.psn ∧ k.payload = data ∧ k.psn = x.nextPsn ∧ k.sent = false ∧ y.nextPsn = x.nextPsn + 1
    ∧ y.expect = x.expect + 1 ∧ y.held = x.held ∧ y.window = x.window
    ∧ y.grant = x.grant + BitVec.ofNat 32 (costOf q.length)

/-- Every session but session n stands as before. -/
def Sys2Proof.Terms.SessBut (s t : State) (n : Nat) : Prop := ∀ k, k ≠ n → sessGet t k = sessGet s k

/-- The REQs of R344 on stack memory, each in its turn: a refused one answers its code and changes no memory; READ
returns the bytes; WRITE stores its payload; FETCH_ADD and ATOMIC_ADD add at the operand's width, the first returning the
old value; CAS stores the new value where the old one equals its operand, and returns the old one; FENCE with nothing to
wait for is answered at once. Every other byte of memory reads as before. -/
def Obligations.RequestsAreServedAndAnswered : Prop :=
  ∀ (s : State) (q : UtxReq) (x : Session) (op : RmoOp), Arrives s q x op → q.psn = x.expect → s.poison = [] ∧ s.soft = [] ∧ q.session ∉ s.flitReads →
    isStack (localOf q.address) = true → (∀ d ∈ s.deferred, d.q.session ≠ q.session) →
    (op = .fence → commandWaits s q.session = false) →
    let a := localOf q.address
    let n := touched op q.length
    let old := spanRead s a n
    let data := fit q.length q.payload
    let refused := rmoRefusal s x.cls q.session x.segment op q.address q.length
    let Frame := fun t : State => SessBut s t q.session ∧ RegsBut s t [oEth q.port + 0x30]
      ∧ t = { s with out := [], mem := t.mem, regs := t.regs, sessions := t.sessions, taint := t.taint }
    (∀ c, refused = some c →
      ∃ t, exec (rmoRow op q) s = .next t ∧ Answered t q x op c [] ∧ t.mem = s.mem ∧ Frame t)
    ∧ (refused = none → (spanLinear a n).Nodup →
      ∃ t, exec (rmoRow op q) s = .next t
        ∧ Answered t q x op .ok (match op with
            | .read | .fetchAdd | .cas => old
            | .write | .atomicAdd | .fence => [])
        ∧ (match op with
            | .read | .fence => t.mem = s.mem
            | .write => Holds t a data
            | .fetchAdd | .atomicAdd => Holds t a (toLE (leNat old + leNat data) n)
            | .cas => Holds t a (if old = data.take n then data.drop n else old))
        ∧ MemBut s t (spanLinear a n) ∧ Frame t)

/-- A REQ to an AB, AM or WS window that nothing refuses waits for the boundary with its slots (R33, R344). A datagram to a port
that takes no UTX, or of an IP version that is off, is dropped and counted (R335, R336, R340). A REQ whose payload is longer
than the session's segment size is dropped (R342), and one beyond its window is dropped and counted (R356). A REQ with
another PSN than the one expected is discarded and counted: ahead of it one NAK is owed that carries the PSN expected, behind it
one ACK for each (R348). None of them changes memory. -/
def Obligations.RequestsOutOfTurnChangeNoMemory : Prop :=
  ∀ (s : State) (q : UtxReq) (x : Session) (op : RmoOp),
    (Arrives s q x op → q.psn = x.expect → op ≠ .fence → isWindow (localOf q.address) = true → isHere s q.address = true →
        s.power.phase ≠ .standby → x.cls ≠ .peer →
        rmoRefusal s x.cls q.session x.segment op q.address q.length = none →
      ∃ t y d, exec (rmoRow op q) s = .next t ∧ t.deferred = s.deferred ++ [d] ∧ d.q = q ∧ d.op = rmoByte op ∧ d.cls = x.cls
        ∧ sessGet t q.session = some y ∧ y.held = x.held + costOf q.length ∧ y.expect = x.expect + 1
        ∧ SessBut s t q.session
        ∧ t = { s with out := [], regs := t.regs, sessions := t.sessions, deferred := t.deferred })
    ∧ (Arrives s q x op → q.psn ≠ x.expect →
      ∃ t y, exec (rmoRow op q) s = .next t ∧ sessGet t q.session = some y ∧ y.expect = x.expect ∧ y.held = x.held
        ∧ (if serialGt q.psn x.expect then y.nakFor = some x.expect ∧ y.dups = x.dups
              ∧ y.naks = (if x.nakFor = some x.expect then x.naks else x.naks ++ [x.expect])
            else y.dups = x.dups + 1 ∧ y.naks = x.naks ∧ y.nakFor = x.nakFor)
        ∧ regF t oUtxDrops 15 0 = min 65535 (regF s oUtxDrops 15 0 + 1)
        ∧ SessBut s t q.session ∧ RegsBut s t [oEth q.port + 0x30, oUtxDrops]
        ∧ t = { s with out := [], regs := t.regs, sessions := t.sessions })
    ∧ (Canonical s → takesFrames s q.port q.iface = true → acceptsUtx s q.port q.iface q.addr q.dport = false →
      ∃ t, exec (rmoRow op q) s = .next t ∧ regF t (oEth q.port + 0x38) 15 0 = min 65535 (regF s (oEth q.port + 0x38) 15 0 + 1)
        ∧ RegsBut s t [oEth q.port + 0x38] ∧ t = { s with out := [], regs := t.regs })
    ∧ (Canonical s → takesFrames s q.port q.iface = true → acceptsUtx s q.port q.iface q.addr q.dport = true →
        reqSession s q = some x → x.segment < payloadOf op q →
      ∃ t, exec (rmoRow op q) s = .next t ∧ RegsBut s t [oEth q.port + 0x30] ∧ t = { s with out := [], regs := t.regs })
    ∧ (Canonical s → takesFrames s q.port q.iface = true → acceptsUtx s q.port q.iface q.addr q.dport = true →
        reqSession s q = some x → payloadOf op q ≤ x.segment → x.window < x.held + costOf q.length →
      ∃ t, exec (rmoRow op q) s = .next t ∧ regF t oUtxDrops 31 16 = min 65535 (regF s oUtxDrops 31 16 + 1)
        ∧ RegsBut s t [oEth q.port + 0x30, oUtxDrops] ∧ t = { s with out := [], regs := t.regs })

/-- What an ACK_PSN and a CREDIT_LIMIT do to a session (R350, R358): the kept packets behind the first are released unless
it is ahead of everything sent; the second raises the credit when it is ahead. -/
def Sys2Proof.Terms.Acked (x y : Session) (ack limit : BitVec 32) : Prop :=
  y.kept.map (·.psn) = (if serialGe x.nextPsn ack = true then x.kept.filter (fun k => !(k.sent && serialGt ack k.psn))
      else x.kept).map (·.psn)
    ∧ y.peerGrant = (if serialGt limit x.peerGrant = true then limit else x.peerGrant)

/-- ACK releases what it acknowledges; NAK does so too, and every kept packet from its ACK_PSN on is to be sent again
(R350). RSP under the expected PSN is accepted; a STATUS other than OK is logged and fails the jobs that the REQ
served (R363). One that the session's account does not cover is dropped and counted (R356). None of them changes memory.
What a STATUS other than OK does, and which account the requesting half draws on, is read as log entries 37 and 86 say. -/
def Obligations.AnswersAndAcknowledgementsAreTaken : Prop :=
  ∀ (s : State) (q : UtxBack) (k : Nat) (x : Session), Canonical s → takesFrames s q.port q.iface = true →
    acceptsUtx s q.port q.iface q.addr q.dport = true → sessGet s k = some x → q.length ≤ x.segment →
    (covers s k (costOf q.length) = false → ∀ c : Instr, (backHalf s q = some k ∧ (c = .ack q ∨ c = .nak q))
        ∨ (requestHalf s q = some k ∧ c = .rsp q) →
      ∃ t, exec c s = .next t ∧ regF t oUtxDrops 31 16 = min 65535 (regF s oUtxDrops 31 16 + 1)
        ∧ RegsBut s t [oEth q.port + 0x30, oUtxDrops] ∧ t = { s with out := [], regs := t.regs })
    ∧ (covers s k (costOf q.length) = true →
    (backHalf s q = some k →
      (∃ t y, exec (.ack q) s = .next t ∧ sessGet t k = some y ∧ Acked x y q.ackPsn q.creditLimit
        ∧ SessBut s t k ∧ RegsBut s t [oEth q.port + 0x30]
        ∧ t = { s with out := [], regs := t.regs, sessions := t.sessions })
      ∧ ∃ t y, exec (.nak q) s = .next t ∧ sessGet t k = some y ∧ Acked x y q.ackPsn q.creditLimit
        ∧ (∀ z ∈ y.kept, z.sent = true → serialGe z.psn q.ackPsn = true → z.resend = true)
        ∧ y.timerAt = (if y.kept.length ≠ x.kept.length ∨ x.timerAt + x.rtoNs * 2 ^ 32 ≤ s.clock.dt then s.clock.dt else x.timerAt)
        ∧ regF t oUtxRetx 15 0 = min 65535 (regF s oUtxRetx 15 0 + 1)
        ∧ SessBut s t k ∧ RegsBut s t [oEth q.port + 0x30, oUtxRetx]
        ∧ t = { s with out := [], regs := t.regs, sessions := t.sessions })
    ∧ (requestHalf s q = some k → q.psn = x.expect →
      ∃ t y, exec (.rsp q) s = .next t ∧ sessGet t k = some y ∧ Acked x y q.ackPsn q.creditLimit
        ∧ y.expect = x.expect + 1 ∧ (∀ w ∈ y.waiting, w.1 ≠ q.reqPsn)
        ∧ SessBut s t k ∧ RegsBut s t [oEth q.port + 0x30]
        ∧ (if q.status = 0 then t = { s with out := [], regs := t.regs, sessions := t.sessions }
            else (t.events.head?.map (·.code)) = some 0x503 ∧ (∀ j ∈ servedBy x q.reqPsn, ∃ f ∈ t.fails, f.1 = j)
              ∧ t = { s with out := [], regs := t.regs, sessions := t.sessions, events := t.events, nextSeq := t.nextSeq
                             fails := t.fails })))

/-- What a held frame is as it leaves. -/
def Sys2Proof.Terms.Leaves (t : State) (y : HeldFrame) : Prop :=
  match y.what with
  | .frame f => ∃ w, t.out = [.frame y.port y.iface w f]
  | .boot _ r => ∃ w, t.out = [.reply { r with wire := some w }]

/-- TX_SEND sends one packet of the highest class that waits on the port: a frame that the control cores or the time port
hold first of all, then a session's packet, with the session's credit and its current ACK_PSN, a NAK with the PSN that it is due
for, and a BOOT reply last (R337, R348, R349, R362); at the expiry of the acknowledgement delay a standalone ACK is owed, which
TX_SEND sends in its turn (R349, R362). The turns among sessions, and the class of BOOT replies, are the model's choice (log
entry 95). -/
def Obligations.SendingFollowsTheClasses : Prop :=
  (∀ (s : State) (port : Nat), Canonical s → linkRuns s = true → port < 2 →
    (∀ y, nextHeld s port false = some y ∨ (nextHeld s port false = none ∧ waitingOn s port = [] ∧ nextParting s port = none
          ∧ nextHeld s port true = some y) →
      ∃ t, exec (.txSend port) s = .next t ∧ Leaves t y
        ∧ t = { s with out := t.out, regs := t.regs, saks := t.saks, heldOut := s.heldOut.erase y })
    ∧ (nextHeld s port false = none → waitingOn s port = [] → nextParting s port = none → nextHeld s port true = none →
      exec (.txSend port) s = .next { s with out := [] })
    ∧ (∀ y, nextHeld s port false = none → nextParting s port = some y → (∀ z ∈ waitingOn s port, 4 ≤ z.2.1) →
      ∃ t w, exec (.txSend port) s = .next t ∧ t.out = [.utx port { y.packet with wire := w }]
        ∧ t = { s with out := t.out, regs := t.regs, saks := t.saks, parting := s.parting.erase y })
    ∧ (nextHeld s port false = none → waitingOn s port ≠ [] → (nextParting s port = none ∨ ∃ z ∈ waitingOn s port, z.2.1 < 4) →
      ∃ t n c i o x y, exec (.txSend port) s = .next t ∧ (n, c, i) ∈ waitingOn s port
        ∧ (∀ z ∈ waitingOn s port, c ≤ z.2.1) ∧ t.out = [.utx port o]
        ∧ sessGet s n = some x ∧ sessGet t n = some y ∧ o.session = wireNumber s n
        ∧ (n < 4096 → o.creditLimit = x.grant)
        ∧ (match i with
            | .ack => o.type = 3 ∧ o.ackPsn = x.expect ∧ y.dups = x.dups - 1
            | .nak p => o.type = 4 ∧ o.ackPsn = p ∧ y.naks = x.naks.drop 1
            | .packet p => o.type = (if p.isReq then 1 else 2) ∧ o.ackPsn = x.expect ∧ o.psn = p.psn ∧ o.payload = p.payload
                ∧ ∀ z ∈ y.kept, z.psn = p.psn → z.isReq = p.isReq → z.sent = true ∧ z.resend = false)
        ∧ (o.ackPsn = x.expect → y.ackSent = x.expect ∧ y.ackNow = false ∧ y.ackSince = none)
        ∧ SessBut s t n
        ∧ t = { s with out := t.out, regs := t.regs, sessions := t.sessions, turns := t.turns, saks := t.saks }))
  ∧ ∀ (s : State) (n : Nat) (x : Session) (since : Nat), Canonical s → sessGet s n = some x → linkRuns s = true →
    x.ackSince = some since →
    (since + usDt (ackDelay s) ≤ s.clock.dt →
      ∃ t, exec (.ackDelayExpiry n) s = .next t ∧ sessGet t n = some { x with ackNow := true } ∧ SessBut s t n
        ∧ t = { s with out := [], sessions := t.sessions })
    ∧ (s.clock.dt < since + usDt (ackDelay s) → exec (.ackDelayExpiry n) s = .next { s with out := [] })

/-- The timers of sessions (R350, R352, R357, R383): an expired retransmission timer marks every packet sent and doubles up
to 8 ms; after RETRY_LIMIT timeouts the session fails, is logged and closes; a challenge ends after 10 s and a reservation
after 60 s of device time. -/
def Obligations.TimersOfSessionsExpire : Prop :=
  (∀ (s : State) (n : Nat) (x : Session), Canonical s → sessGet s n = some x → linkRuns s = true →
    (x.kept.any (·.sent) = true → x.timeouts < retryLimit s → x.timerAt + x.rtoNs * 2 ^ 32 ≤ s.clock.dt →
      ∃ t y, exec (.rtoExpiry n) s = .next t ∧ sessGet t n = some y
        ∧ (∀ z ∈ y.kept, z.sent = true → z.resend = true) ∧ y.kept.map (·.psn) = x.kept.map (·.psn)
        ∧ y.timeouts = x.timeouts + 1 ∧ y.timerAt = s.clock.dt ∧ y.rtoNs = max x.rtoNs (min (2 * x.rtoNs) 8000000)
        ∧ regF t oUtxRetx 31 16 = min 65535 (regF s oUtxRetx 31 16 + 1)
        ∧ SessBut s t n ∧ RegsBut s t [oUtxRetx] ∧ t = { s with out := [], regs := t.regs, sessions := t.sessions })
    ∧ (retryLimit s ≤ x.timeouts →
      ∃ t, exec (.sessionFail n) s = .next t ∧ sessGet t n = none ∧ SessBut s t n
        ∧ (t.events.head?.map (·.code)) = some 0x501
        ∧ regF t oUtxFails 15 0 = min 65535 (regF s oUtxFails 15 0 + 1) ∧ RegsBut s t [oUtxFails]
        ∧ (∀ z ∈ t.nodes, z.session ≠ some n) ∧ (∀ z ∈ t.streams, z.owner = n → z.closingNoEntry = true)
        ∧ t = { s with out := [], regs := t.regs, sessions := t.sessions, events := t.events, nextSeq := t.nextSeq
                       streams := t.streams, nodes := t.nodes, parting := t.parting }))
  ∧ (∀ (s : State) (k : Nat) (c : Challenge), s.challenges[k]? = some c → c.drawn + 10 * secondDt ≤ s.clock.dt →
    exec (.challengeExpiry k) s = .next { s with out := [], challenges := s.challenges.eraseIdx k })
  ∧ ∀ (s : State) (r : Reservation), r ∈ s.reservations → r.made + 60 * secondDt ≤ s.clock.dt →
    ∃ t, exec (.reservationExpiry r.session) s = .next t ∧ r ∉ t.reservations
      ∧ (∀ z ∈ s.reservations, z.session ≠ r.session → z ∈ t.reservations)
      ∧ t = { s with out := [], reservations := t.reservations }

/-! ## Frames and links (R331 to R338, R354, R356) -/

/-- Frames that no other row handles (R334 to R338, R354, R356): one longer than MAX_FRAME or with the wrong VLAN is
filtered and counted; one that fails MACsec, or that is not protected where MACsec is on, one sealed with another key, or a
replayed one, is counted apart; one of an unknown session is counted and dropped; a BOOT packet with another opcode is answered
with PRIV, or with BUSY before the device is ready, in a reply that waits for its turn, and an over-length one is dropped. A PFC
frame stops its priority for its time; the pause ends. That a seal is compared by its key is the model's choice (log entry 113). -/
def Obligations.FramesAreFilteredAndPausesKept : Prop :=
  (∀ (s : State) (f : EthFrame), Canonical s → takesFrames s f.port f.iface = true → f.fecCorrected = 0 →
    let filtered := regF s (oEth f.port + 0x38) 15 0
    (lostEarly f.kind = false → (maxFrame s f.port < f.size ∨ vlanAdmits s f.port f.iface f.vid = false) →
      ∃ t, exec (.ethFrameRx f) s = .next t ∧ regF t (oEth f.port + 0x38) 15 0 = min 65535 (filtered + 1)
        ∧ RegsBut s t [oEth f.port + 0x20, oEth f.port + 0x38] ∧ t = { s with out := [], regs := t.regs })
    ∧ (f.kind = .macsecBad →
      ∃ t, exec (.ethFrameRx f) s = .next t
        ∧ regF t (oEth f.port + 0x3C) 31 0 = (regF s (oEth f.port + 0x3C) 31 0 + 1) % 2 ^ 32
        ∧ RegsBut s t [oEth f.port + 0x20, oEth f.port + 0x3C] ∧ t = { s with out := [], regs := t.regs })
    ∧ (lostEarly f.kind = false → f.size ≤ maxFrame s f.port → vlanAdmits s f.port f.iface f.vid = true →
      (macsecOn s f.port f.iface = false → f.isProtected = true →
        ∃ t, exec (.ethFrameRx f) s = .next t ∧ regF t (oEth f.port + 0x38) 15 0 = min 65535 (filtered + 1)
          ∧ RegsBut s t [oEth f.port + 0x20, oEth f.port + 0x38] ∧ t = { s with out := [], regs := t.regs })
      ∧ (macsecOn s f.port f.iface = true →
          (f.isProtected = false ∨ ∀ k, sakOf s f.port f.iface f.an = some k →
            f.pn < k.lowest ∨ sealOk s f.port f.iface k f.keyed = false) →
        ∃ t, exec (.ethFrameRx f) s = .next t
          ∧ regF t (oEth f.port + 0x3C) 31 0 = (regF s (oEth f.port + 0x3C) 31 0 + 1) % 2 ^ 32
          ∧ RegsBut s t [oEth f.port + 0x20, oEth f.port + 0x3C] ∧ t = { s with out := [], regs := t.regs }))
    ∧ (f.size ≤ maxFrame s f.port → vlanAdmits s f.port f.iface f.vid = true →
        (macsecOn s f.port f.iface = false ∧ f.isProtected = false
          ∨ macsecOn s f.port f.iface = true ∧ f.isProtected = true
            ∧ ∃ k, sakOf s f.port f.iface f.an = some k ∧ k.lowest ≤ f.pn ∧ sealOk s f.port f.iface k f.keyed = true) →
        s.xoff = false → f.slots ≤ 1024 → f.slots + 512 ≤ rxFree s →
      (f.kind = .unknownSession →
        ∃ t, exec (.ethFrameRx f) s = .next t
          ∧ regF t (oEth f.port + 0x30) 31 0 = (regF s (oEth f.port + 0x30) 31 0 + 1) % 2 ^ 32
          ∧ RegsBut s t [oEth f.port + 0x20, oEth f.port + 0x30] ∧ t = { s with out := [], regs := t.regs, saks := t.saks })
      ∧ ∀ op addr udp tag, f.kind = .bootOther op addr udp tag → ipOn s f.port f.iface addr = true → bootsIn s f.port < 1024 →
        (segmentOf s f.port < f.length →
          ∃ t, exec (.ethFrameRx f) s = .next t ∧ RegsBut s t [oEth f.port + 0x20, oEth f.port + 0x30]
            ∧ t = { s with out := [], regs := t.regs, saks := t.saks })
        ∧ (f.length ≤ segmentOf s f.port → ∃ t r d, exec (.ethFrameRx f) s = .next t
          ∧ t.heldOut = s.heldOut ++ [⟨f.port, f.iface, .boot d r⟩]
          ∧ r.code = (if isReady s = true then .priv else .busy) ∧ r.opcode = op ∧ r.tag = tag
          ∧ r.origin = .boot f.port f.iface addr udp ∧ r.result = [] ∧ bootsIn t f.port = bootsIn s f.port + 1
          ∧ t = { s with out := [], regs := t.regs, bootCount := t.bootCount, saks := t.saks, heldOut := t.heldOut })))
  ∧ ∀ (s : State) (port : Nat) (priority : BitVec 3) (ns : Nat), linkRuns s = true → port < 2 →
    ((pfcEnabled s port).testBit priority.toNat = true →
      ∃ t, exec (.pfcFrame port priority ns) s = .next t
        ∧ (∀ z ∈ s.pauses, (z.port ≠ port ∨ z.priority ≠ priority) → z ∈ t.pauses)
        ∧ (∀ z ∈ t.pauses, z.port = port → z.priority = priority → z.until_ = s.clock.wall + ns)
        ∧ ((∃ z ∈ t.pauses, z.port = port ∧ z.priority = priority) ↔ ns ≠ 0)
        ∧ t = { s with out := [], regs := t.regs, pauses := t.pauses })
    ∧ ((pfcEnabled s port).testBit priority.toNat = false → exec (.pfcFrame port priority ns) s = .next { s with out := [] })
    ∧ ∃ t, exec (.pfcPauseExpiry port priority) s = .next t
        ∧ (∀ z, z ∈ t.pauses ↔ z ∈ s.pauses ∧ ¬(z.port = port ∧ z.priority = priority ∧ z.until_ ≤ s.clock.wall))
        ∧ t = { s with out := [], pauses := t.pauses }

/-- The control cores answer ARP, neighbor solicitation and echo requests that name the interface's own address, at once or
when the interface may send, and drop and count those that do not (R336, R337). That a request for another address is
counted as filtered is deduced (log entry 38). -/
def Obligations.OwnAddressesAreAnswered : Prop :=
  ∀ (s : State) (port iface : Nat), Canonical s → takesFrames s port iface = true →
    let Sent := fun (c : Instr) (f : OutFrame) => s.xoff = false → 513 ≤ rxFree s →
      ∃ t, exec c s = .next t
      ∧ (maySendOn s port iface = true → (∃ w, t.out = [.frame port iface w f])
          ∧ regF t (oEth port + 0x34) 31 0 = (regF s (oEth port + 0x34) 31 0 + 1) % 2 ^ 32
          ∧ RegsBut s t [oEth port + 0x30, oEth port + 0x34] ∧ t = { s with out := t.out, regs := t.regs, saks := t.saks })
      ∧ (maySendOn s port iface = false → RegsBut s t [oEth port + 0x30]
          ∧ t = { s with out := [], regs := t.regs, heldOut := s.heldOut ++ [⟨port, iface, .frame f⟩] })
    let Dropped := fun c : Instr => ∃ t, exec c s = .next t
      ∧ regF t (oEth port + 0x38) 15 0 = min 65535 (regF s (oEth port + 0x38) 15 0 + 1)
      ∧ RegsBut s t [oEth port + 0x38] ∧ t = { s with out := [], regs := t.regs }
    (∀ target : BitVec 32,
      (target ≠ 0 → ipv4Of s port iface = target.toNat → Sent (.arpRequest port iface target) (.arpReply target))
      ∧ ((target = 0 ∨ ipv4Of s port iface ≠ target.toNat) → Dropped (.arpRequest port iface target)))
    ∧ ∀ target : BitVec 128,
      (target ≠ 0 → ipv6Of s port iface = target.toNat →
        Sent (.neighborSolicitation port iface target) (.neighborAdvert target))
      ∧ ((target = 0 ∨ ipv6Of s port iface ≠ target.toNat) → Dropped (.neighborSolicitation port iface target))
      ∧ ∀ (v6 : Bool) (size : Nat), let own := if v6 then ipv6Of s port iface else ipv4Of s port iface
        (target ≠ 0 → own = target.toNat → size ≤ maxFrame s port →
          Sent (.icmpEchoRequest port iface v6 target size) (.echoReply v6 size))
        ∧ ((target = 0 ∨ own ≠ target.toNat ∨ maxFrame s port < size) →
          Dropped (.icmpEchoRequest port iface v6 target size))

/-- Training of interfaces (R331, R333): with all its lanes an interface comes up; an attempt that has lasted 5 s
fails and the next begins; the third failure of a port in MODE 0 with four healthy lanes brings the fallback, with one
interface, and is logged; without them the port stays as it is. The attempts and the fallback are read as log entry 27
says. -/
def Obligations.LinksTrainRetryAndFallBack : Prop :=
  ∀ (s : State) (port i : Nat) (f : Iface), Canonical s → port < 2 → linkRuns s = true → serdesHolds s port = false →
    ifaceGet s port i = some f → i < 4 → f.up = false →
    (∀ lanes : BitVec 8,
      (allLanes lanes.toNat (portLanes (activeMode s port) (healthyLanes s port) i) = true →
        ∃ t g, exec (.linkTrainingComplete port i lanes) s = .next t ∧ ifaceUp t port i = true
          ∧ (∀ j < 4, j ≠ i → ifaceUp t port j = ifaceUp s port j)
          ∧ ifaceGet t port i = some g ∧ g.up = true ∧ g.failures = 0 ∧ activeMode t port = activeMode s port
          ∧ RegsBut s t [oEth port + 8] ∧ t = { s with out := [], regs := t.regs, ports := t.ports })
      ∧ (allLanes lanes.toNat (portLanes (activeMode s port) (healthyLanes s port) i) = false →
        ∃ t, exec (.linkTrainingComplete port i lanes) s = .next t ∧ (∀ j < 4, ifaceUp t port j = ifaceUp s port j)
          ∧ RegsBut s t [oEth port + 8] ∧ t = { s with out := [], regs := t.regs }))
    ∧ (f.attemptAt + 5000000000 ≤ s.clock.wall → (activeMode s port ≠ 0 ∨ f.failures < 2) →
      ∃ t g, exec (.linkTrainingRetry port i) s = .next t ∧ ifaceGet t port i = some g ∧ g.up = false
        ∧ g.failures = f.failures + 1 ∧ g.attemptAt = s.clock.wall ∧ t = { s with out := [], ports := t.ports })
    ∧ (f.attemptAt + 5000000000 ≤ s.clock.wall → activeMode s port = 0 → i = 0 → f.failures = 2 →
      ((fallbackLanes (healthyLanes s port)).isSome = true →
        ∃ t, exec (.portFallback port) s = .next t ∧ activeMode t port = 3 ∧ (∀ j, ifaceUp t port j = false)
          ∧ (t.ports.filter fun y => y.port == port).length = 1 ∧ (t.events.head?.map (·.code)) = some 0x502
          ∧ healthyLanes t port = healthyLanes s port)
      ∧ (fallbackLanes (healthyLanes s port) = none →
        ∃ t, exec (.portFallback port) s = .next t ∧ t = { s with out := [], ports := t.ports }))

/-! ## Time (R287 to R292, R310) -/

/-- A sample of an offset has reached the discipline (R289, R290): TB_OFFSET shows it; in ACQUIRING, outside a group, an
offset beyond 1 ms steps DT by it, logged and counted; any other slews the increment within its bounds and leaves DT. -/
def Sys2Proof.Terms.Sampled (s t : State) (off : Int) : Prop :=
  let locked := s.disc.state = .locked
  let nominal := 2 ^ 32
  let e := estimateNow s
  regGet t oTbOffset = offsetWord off
    ∧ (if ¬locked ∧ beyond off 1000000 = true ∧ (member s).isNone = true then
        t.clock.dt = ((s.clock.dt : Int) - off).toNat
          ∧ regF t oTbPtp 31 16 = min 65535 (regF s oTbPtp 31 16 + 1)
          ∧ ∃ x ∈ t.events, x.code = 0x402
      else
        t.clock.dt = s.clock.dt
          ∧ (t.disc.state = .acquiring →
              nominal - nominal * 100 / 1000000 ≤ t.clock.inc ∧ t.clock.inc ≤ nominal + nominal * 100 / 1000000)
          ∧ (locked → t.disc.state = .locked → e - e * 10 / 1000000 ≤ t.clock.inc ∧ t.clock.inc ≤ e + e * 10 / 1000000))

/-- The messages of PTP under SOURCE 1 (R288, R289, R310): a Sync beyond 128 in a second is counted and dropped; a
two-step Sync waits for its Follow_Up, a one-step one forms a sample once the path delay is known; a Delay_Resp
completes the delay; the first Announce heard makes its sender the master; a Delay_Req leaves at its interval, when its
interface may send, and waits for that else. A message that the time port does not hear changes nothing but the count
of frames, and one in an IP version that the interface does not speak is dropped and counted (R335). When a sample forms, that the slew within its bounds is a free value, and the latency that a stamp takes in,
are the model's choices (log entries 28 and 87). -/
def Obligations.PtpMessagesDisciplineTheClock : Prop :=
  (∀ (s : State) (m : PtpMsg), Canonical s → s.xoff = false → 513 ≤ rxFree s →
    (ptpIpOn s m.port m.ip = false → ∀ c ∈ [Instr.ptpSync m, .ptpFollowUp m, .ptpDelayResp m],
      ∃ t, exec c s = .next t ∧ RegsBut s t [oEth m.port + 0x38] ∧ t = { s with out := [], regs := t.regs })
    ∧ (ptpIpOn s m.port m.ip = true → ptpListens s m.port m.domain = false →
      ∀ c ∈ [Instr.ptpSync m, .ptpFollowUp m, .ptpDelayResp m],
      ∃ t, exec c s = .next t ∧ RegsBut s t [oEth m.port + 0x30] ∧ t = { s with out := [], regs := t.regs })
    ∧ (ptpIpOn s m.port m.ip = true → ptpListens s m.port m.domain = true → fromMaster s m.port m.source = true →
      let t2 := receiveStamp s m.port
      (128 ≤ syncsIn s m.port →
        ∃ t, exec (.ptpSync m) s = .next t ∧ regF t oTbPtp 15 0 = min 65535 (regF s oTbPtp 15 0 + 1)
          ∧ t = { s with out := [], regs := t.regs })
      ∧ (syncsIn s m.port < 128 → m.twoStep = true →
        ∃ t, exec (.ptpSync m) s = .next t ∧ t.disc.sync = some (m, t2) ∧ t.disc.syncAt = s.clock.dt
          ∧ syncsIn t m.port = syncsIn s m.port + 1 ∧ t = { s with out := [], regs := t.regs, disc := t.disc })
      ∧ (syncsIn s m.port < 128 → m.twoStep = false →
        let t1 := stampIn m + nsDt m.corrNs
        (s.disc.delay = none →
          ∃ t, exec (.ptpSync m) s = .next t ∧ t.disc.lastSync = some (t1, t2) ∧ t.disc.formed = false
            ∧ t = { s with out := [], regs := t.regs, disc := t.disc })
        ∧ ∀ d, s.disc.delay = some d →
          ∃ t, exec (.ptpSync m) s = .next t ∧ Sampled s t (t2 - t1 - d) ∧ t.disc.delay = some d
            ∧ t.mem = s.mem ∧ t.ctxs = s.ctxs)
      ∧ (∀ (y : PtpMsg) (at_ : Int), s.disc.sync = some (y, at_) → y.seqId = m.seqId → y.source = m.source →
          y.port = m.port → s.disc.delay = none →
        ∃ t, exec (.ptpFollowUp m) s = .next t ∧ t.disc.sync = none
          ∧ t.disc.lastSync = some (stampIn m + nsDt m.corrNs + nsDt y.corrNs, at_)
          ∧ t = { s with out := [], regs := t.regs, disc := t.disc })
      ∧ ∀ (t3 : Nat) (a1 a2 : Int), s.disc.delayReq = some (m.seqId, t3) → s.disc.lastSync = some (a1, a2) →
        ∃ t, exec (.ptpDelayResp m) s = .next t
          ∧ t.disc.delay = some (((a2 - a1) + (stampIn m - nsDt m.corrNs - t3)) / 2) ∧ t.disc.delayReq = none
          ∧ (s.disc.formed = false → Sampled s t (a2 - a1 - ((a2 - a1) + (stampIn m - nsDt m.corrNs - t3)) / 2))
          ∧ (s.disc.formed = true → t = { s with out := [], regs := t.regs, disc := t.disc })))
  ∧ (∀ (s : State) (m : PtpAnnounce), s.xoff = false → 513 ≤ rxFree s → ptpListens s m.port m.domain = true →
    ptpIpOn s m.port (transportIp m.transport) = true → s.disc.master = none → s.disc.masters = [] →
    ∃ t, exec (.ptpAnnounce m) s = .next t ∧ t.disc.master = some m ∧ t.disc.announceAt = s.clock.dt
      ∧ t.disc.delay = none ∧ t.disc.state = s.disc.state ∧ t = { s with out := [], regs := t.regs, disc := t.disc })
  ∧ ∀ (s : State) (a : PtpAnnounce), s.disc.master = some a → linkRuns s = true → regF s oTbCtrl 1 0 = 1 →
    ifaceUp s a.port 0 = true → s.disc.delayAt + delayInterval a.delayReqLog ≤ s.clock.dt →
    (maySendOn s a.port 0 = false ∨ ptpIpOn s a.port (transportIp a.transport) = false →
      exec .delayReqSend s = .next { s with out := [] })
    ∧ (maySendOn s a.port 0 = true → ptpIpOn s a.port (transportIp a.transport) = true → ∃ t w, exec .delayReqSend s = .next t
      ∧ t.out = [.frame a.port 0 w (.delayReq (BitVec.ofNat 8 (regF s oTbCtrl 15 8)) (s.disc.delaySeq + 1) a.transport)]
      ∧ t.disc.delayReq = some (s.disc.delaySeq + 1, sendStamp s a.port) ∧ t.disc.delaySeq = s.disc.delaySeq + 1
      ∧ t.disc.delayAt = s.clock.dt ∧ t = { s with out := t.out, regs := t.regs, disc := t.disc, saks := t.saks })

/-- Losses of reference, HOLDOVER and PPS (R290 to R292, R310): a master or its Syncs that fall silent bring LOCKED to
HOLDOVER, with the estimate as increment, and HOLDOVER to FREE after its limit, each logged; an edge of PPS_IN that is
too short or too early is counted and ignored, another forms a sample under SOURCE 2; a missing edge is counted once;
PPS_OUT rises at the tick at which DT passes a whole second while it is enabled in LOCKED or HOLDOVER, falls 100 ms of
DT later, and is low in any other case. The estimate of a device that has never been in LOCKED is the model's choice
(log entry 29). -/
def Obligations.TimeStatesAndPulses : Prop :=
  ∀ s : State, Canonical s →
    let Lost := fun t : State => t.clock.dt = s.clock.dt ∧
      (s.disc.state = .locked → t.disc.state = .holdover ∧ t.disc.holdoverAt = s.clock.dt
        ∧ t.clock.inc = estimateNow (closeSeg s) ∧ (t.events.head?.map (·.code)) = some 0x401)
      ∧ (s.disc.state = .acquiring →
          t.disc.state = (if s.disc.lockedAt.any (fun d => decide (s.clock.dt ≤ d + regF s oTbHoldover 31 0 * secondDt)) = true
            then .holdover else .free))
      ∧ ((s.disc.state = .free ∨ s.disc.state = .holdover) → t.disc.state = s.disc.state)
    (∀ a : PtpAnnounce, s.disc.master = some a → linkRuns s = true → regF s oTbCtrl 1 0 = 1 →
      (s.disc.announceAt + usDt (3000 * a.intervalMs) ≤ s.clock.dt →
        ∃ t, exec .announceTimeout s = .next t ∧ Lost t ∧ t.disc.master = none
          ∧ t = { s with out := [], clock := t.clock, disc := t.disc, events := t.events, nextSeq := t.nextSeq })
      ∧ (s.disc.syncAt + 3 * secondDt ≤ s.clock.dt →
        ∃ t, exec .syncTimeout s = .next t ∧ Lost t ∧ t.disc.master = some a
          ∧ t = { s with out := [], clock := t.clock, disc := t.disc, events := t.events, nextSeq := t.nextSeq }))
    ∧ (s.disc.state = .holdover →
      (s.disc.holdoverAt + regF s oTbHoldover 31 0 * secondDt ≤ s.clock.dt →
        ∃ t, exec .holdoverLimitExpiry s = .next t ∧ t.disc.state = .free
          ∧ t.clock.inc = (if s.disc.everLocked = true then s.clock.inc else 2 ^ 32)
          ∧ t = { s with out := [], clock := t.clock, disc := t.disc, events := t.events, nextSeq := t.nextSeq })
      ∧ (s.clock.dt < s.disc.holdoverAt + regF s oTbHoldover 31 0 * secondDt →
        exec .holdoverLimitExpiry s = .next { s with out := [] }))
    ∧ (linkRuns s = true → ∀ ns : Nat,
      let early := s.disc.edgeAt.any fun t => decide (s.clock.dt < t + secondDt / 2)
      ((ns < 100 ∨ early = true) →
        ∃ t, exec (.ppsInEdge ns) s = .next t ∧ regF t oTbPps 15 0 = min 65535 (regF s oTbPps 15 0 + 1)
          ∧ t = { s with out := [], regs := t.regs })
      ∧ (100 ≤ ns → early = false → regF s oTbCtrl 1 0 = 2 → s.disc.secUsed = true ∨ (member s).isSome = true →
        ∃ t, exec (.ppsInEdge ns) s = .next t
          ∧ Sampled s t ((s.clock.dt : Int) - ((nearestSecond s * secondDt : Nat) : Int))
          ∧ t.disc.edgeAt = some t.clock.dt ∧ t.disc.stuck = false)
      ∧ (100 ≤ ns → early = false → regF s oTbCtrl 1 0 = 2 → s.disc.secUsed = false → member s = none →
        ∃ t, exec (.ppsInEdge ns) s = .next t ∧ t.disc.secUsed = true ∧ t.disc.edgeAt = some t.clock.dt))
    ∧ (∀ e, s.disc.edgeAt = some e → linkRuns s = true → s.disc.stuck = false → e + secondDt * 3 / 2 ≤ s.clock.dt →
      ∃ t, exec .ppsStuck s = .next t ∧ t.disc.stuck = true ∧ regF t oTbPps 31 16 = min 65535 (regF s oTbPps 31 16 + 1)
        ∧ (regF s oTbCtrl 1 0 = 2 → Lost t) ∧ (regF s oTbCtrl 1 0 ≠ 2 → t.disc.state = s.disc.state))
    ∧ (let driven := regF s oTbCtrl 4 4 = 1 ∧ (s.disc.state = .locked ∨ s.disc.state = .holdover)
      (linkRuns s = true → driven → s.clock.dt % secondDt < s.clock.inc →
        ∃ t, exec .ppsOutRise s = .next t ∧ ppsOut t = true ∧ t.disc.ppsAt = s.clock.dt
          ∧ t = { s with out := [], disc := t.disc })
      ∧ (s.disc.ppsAt + secondDt / 10 ≤ s.clock.dt →
        ∃ t, exec .ppsOutFall s = .next t ∧ ppsOut t = false ∧ t = { s with out := [], disc := t.disc })
      ∧ (¬driven → ppsOut s = false))

/-! ## Pins, start-up and power (R310, R473 to R492) -/

/-- A reset (R490, R510) and a thermal trip (R486) lose everything but the flash, the trip's records and what is not the
device's: every register reads its reset value but PWR_TRIP. -/
def Sys2Proof.Terms.Lost (s t : State) : Prop :=
  t.power.phase = .off ∧ t.mem = [] ∧ t.sessions = [] ∧ t.ctxs = [] ∧ t.images = [] ∧ t.passes = [] ∧ t.pages = []
    ∧ t.streams = [] ∧ t.events = [] ∧ t.nextSeq = 1 ∧ t.beats = 0 ∧ t.clock.dt = 0 ∧ t.disc.state = .free ∧ t.group = none
    ∧ t.pending = s.pending ∧ (∀ a, a ≠ oPwrTrip → regGet t a = resetWord a)
    ∧ (s.flash.stage = none → s.flash.commit = none →
        t.flash.fwA = s.flash.fwA ∧ t.flash.fwB = s.flash.fwB ∧ t.flash.config0 = s.flash.config0
          ∧ t.flash.config1 = s.flash.config1 ∧ t.flash.rec0 = s.flash.rec0 ∧ t.flash.rec1 = s.flash.rec1
          ∧ t.flash.health = s.flash.health)

/-- RESET_N low for 1 µs resets the device, less is rejected (R310, R490); a commit with RESTART resets it when its
100 ms are over (R510); a junction at 115 °C trips it (R486). A start-up of a device that can boot reaches ready, or
stage 6 when a time source is set, and one that cannot stops with stage code 0xF (R491); stage 6 ends after 10 s. What
a reset interrupts and the trip's records are read as log entries 13, 14 and 15 say. -/
def Obligations.ResetsTripsAndStartUps : Prop :=
  ∀ s : State, Canonical s →
    (∀ pin ns, ns < 1000 → exec (.reset pin ns) s = .next { s with out := [] })
    ∧ (∀ ns, 1000 ≤ ns →
      (∃ t, exec (.reset .resetN ns) s = .next t ∧ Terms.Lost s t ∧ regGet t oPwrTrip = regGet s oPwrTrip
        ∧ t.power.tripped = s.power.tripped ∧ t.tap.resetLow = true)
      ∧ ∃ t, exec (.reset .pwrGood ns) s = .next t ∧ Terms.Lost s t ∧ t.power.tripped = false)
    ∧ (∀ due, s.flash.restartAt = some due → due ≤ s.clock.wall →
      ∃ t, exec .commitRestartReset s = .next t ∧ Terms.Lost s t ∧ regGet t oPwrTrip = regGet s oPwrTrip)
    ∧ (∀ sensor tempC, sensor < 72 → 115 ≤ tempC → s.power.phase ≠ .off →
      ∃ t, exec (.thermalTrip sensor tempC) s = .next t ∧ Terms.Lost s t ∧ t.power.tripped = true
        ∧ regF t oPwrTrip 31 31 = 1 ∧ regF t oPwrTrip 15 0 = min 65535 (regF s oPwrTrip 15 0 + 1))
    ∧ (∀ r : StartupReport, s.power.phase = .off →
      (s.power.tripped = true → ∃ t, exec (.startup r) s = .next t ∧ t.power.phase = .off)
      ∧ (s.power.tripped = false → (r.pufOk = false ∨ r.vppOk = false ∨ bootSlot s.flash = none ∨ bootConfig s.flash = none) →
        ∃ t, exec (.startup r) s = .next t ∧ t.power.phase = .failed ∧ regF t oPwrStatus 27 24 = 0xF
          ∧ (r.pufOk = false ∨ bootSlot s.flash = none ∨ bootConfig s.flash = none → t.flash = s.flash))
      ∧ (∀ slot one, s.power.tripped = false → r.pufOk = true → r.vppOk = true → bootSlot s.flash = some slot →
          bootConfig s.flash = some one →
        ∃ t, exec (.startup r) s = .next t ∧ t.flash.runB = slot ∧ t.flash.inEffect1 = one
          ∧ (t.power.phase = .idle ∧ regF t oPwrStatus 27 24 = 7 ∧ regF t oPwrStatus 31 28 = 2
                ∧ (t.events.head?.map (·.code)) = some 0x001 ∧ t.power.ramp = true
              ∨ t.power.phase = .starting ∧ regF t oPwrStatus 27 24 = 6 ∧ regF t oTbCtrl 1 0 ≠ 0)))
    ∧ (s.power.phase = .starting → s.power.stageAt + 10000000000 ≤ s.clock.wall →
      ∃ t, exec .startupTimeTimeout s = .next t ∧ t.power.phase = .idle ∧ regF t oPwrStatus 27 24 = 7
        ∧ (t.events.head?.map (·.code)) = some 0x001)

/-- Regulators and the power policy (R2, R475 to R485): a regulator that turns its rail off takes the device outside R2,
which the state records, and the device goes on; an alert is counted, a fault bit gives cause 0 of LIMITED, a warning is cleared,
an alert of 10 ms is logged and gives cause 1; a poll takes the telemetry; an evaluation lowers F by one step when it must, and
VDD after it, enters LIMITED where F can go no lower, and where it may raises VDD first, then F once the regulators report their
outputs settled; LIMITED ends at a boundary when its causes have been clear for 1 s; RAMP mode ends at
a boundary after its beats. The fault bits of STATUS_WORD are presumed (log entry 34), and that the device goes on outside
R2 is the model's choice (log entry 39). -/
def Obligations.RegulatorsAndPowerPolicy : Prop :=
  ∀ s : State, Canonical s →
    (firmwareRuns s = true → ∀ (ns : Nat) (rails : List RailReading), 1000 ≤ ns →
        ∃ t, exec (.regulatorAlert ns rails) s = .next t ∧ t.power.alert = true
          ∧ t.power.outside = (s.power.outside || rails.any (·.railOff))
          ∧ regF t oPwrEvents 7 0 = min 255 (regF s oPwrEvents 7 0 + 1) ∧ RegsBut s t [oPwrEvents]
          ∧ (∀ r ∈ rails, ∀ w, r.answer = some w → faultBits w = true → t.power.causes.getLsbD 0 = true)
          ∧ (∀ (r : RailReading) (w : BitVec 16) (z : Nat × Nat × Nat), rails = [r] → r.answer = some w → w ≠ 0 → faultBits w = false →
              (blobRails s.flash.blob).find? (·.1 == r.rail) = some z →
              t.out = [.pmbus r.rail z.2.1 z.2.2 .readStatus, .pmbus r.rail z.2.1 z.2.2 .clearFaults])
          ∧ t = { s with out := t.out, regs := t.regs, power := t.power, events := t.events, nextSeq := t.nextSeq })
    ∧ (firmwareRuns s = true →
      ∃ t, exec .vrAlertSustained s = .next t ∧ t.power.causes.getLsbD 1 = true ∧ t.power.alert = true
        ∧ (s.power.causes.getLsbD 1 = false → (t.events.head?.map (·.code)) = some 0x601)
        ∧ t = { s with out := [], power := t.power, events := t.events, nextSeq := t.nextSeq })
    ∧ (firmwareRuns s = true → s.power.pollAt + 10000000 ≤ s.clock.wall → ∀ rails : List RailReading,
      (∃ t, exec (.pmbusPoll rails) s = .next t ∧ t.power.pollAt = s.clock.wall
          ∧ t.power.outside = (s.power.outside || rails.any (·.railOff))
          ∧ t = { s with out := t.out, power := t.power, events := t.events, nextSeq := t.nextSeq })
      ∧ (∀ (r : RailReading) (w : BitVec 16), rails = [r] → r.answer = some w →
        ∃ t, exec (.pmbusPoll rails) s = .next t ∧ t.power.pollAt = s.clock.wall ∧ (railGet t r.rail).status = w
          ∧ (∀ n, linear16 r.voutMode r.vout 1000000 = some n → (railGet t r.rail).voutUv = n.toNat)
          ∧ (railGet t r.rail).ioutMa = (linear11 r.iout 1000).toNat ∧ (railGet t r.rail).poutMw = (linear11 r.pout 1000).toNat
          ∧ (railGet t r.rail).tempC = linear11 r.temp 1 ∧ (railGet t r.rail).silent = 0
          ∧ (railGet t r.rail).fault = faultBits w
          ∧ t = { s with out := t.out, power := t.power, events := t.events, nextSeq := t.nextSeq }))
    ∧ (isReady s = true → s.power.calAt + 10000000 ≤ s.clock.wall → ∀ n,
      exec (.powerCalibration n) s = .next { s with out := [], power := { s.power with calibrated := n, calAt := s.clock.wall } })
    ∧ (∀ x : Sensors, standsAtBoundary s = true → 0 < s.beats → s.beats % 16 = 0 → s.power.evals ≠ s.beats / 16 →
      ∃ t, exec (.powerEvaluation x) s = .next t ∧ t.power.estimate = x.windowW ∧ t.power.evals = s.beats / 16
        ∧ regF t oPwrPower 15 0 = min 65535 x.windowW
        ∧ (s.power.phase = .limited → fNow t = fNow s)
        ∧ (s.power.phase ≠ .limited → mustLower s x = true → lowestF s < fNow s →
            fNow t = fNow s - 1 ∧ t.power.vddF = fNow s - 1)
        ∧ (s.power.phase ≠ .limited → mustLower s x = true → fNow s ≤ lowestF s →
            t.power.phase = .limited ∧ fNow t = 16 ∧ t.power.recorded.getLsbD 3 = true
              ∧ (t.events.head?.map (·.code)) = some 0x602)
        ∧ (s.power.phase ≠ .limited → mustLower s x = false → mayRaise s x = true →
            (s.power.vddF < fNow s + 1 → fNow t = fNow s ∧ t.power.vddF = fNow s + 1)
            ∧ (fNow s + 1 ≤ s.power.vddF → fNow t = (if x.settled = true then fNow s + 1 else fNow s)))
        ∧ (s.power.phase ≠ .limited → mustLower s x = false → mayRaise s x = false → fNow t = fNow s))
    ∧ (∀ since, standsAtBoundary s = true → s.power.phase = .limited → s.power.clearSince = some since → causesNow s = 0 →
        since + 1000000000 ≤ s.clock.wall →
      ∃ t, exec .limitedExit s = .next t
        ∧ t.power.phase = (if s.passes.isEmpty = true then .idle else .active) ∧ t.power.recorded = 0
        ∧ t.power.ramp = true ∧ regF t oPwrStatus 31 28 = (if s.passes.isEmpty = true then 2 else 3))
    ∧ ∀ b, s.power.rampUntil = some b → s.power.ramp = true → standsAtBoundary s = true → b ≤ s.beats → s.diag = none →
      exec .rampModeEnd s = .next { s with
        out := [], power := { s.power with ramp := false, rampUntil := none }, snap := { s.snap with ramp := false } }

/-- The device's own periodic work (R83, R254, R257, R272, R273, R455, R502): a vote scrub is due every 1 ms, changes
nothing when the copies agree, and restores one copy that disagrees; a patrol counts and corrects a codeword with one wrong byte and poisons one that its code
detects and cannot correct; refresh
rates read are set at the next boundary; the health record is written each 3,600 s of health time, and holds at its end
what it began with; a corrected word is written back. -/
def Obligations.PeriodicWorkIsDone : Prop :=
  ∀ s : State, Canonical s →
    (firmwareRuns s = true → s.power.scrubAt + 1000000 ≤ s.clock.wall →
      (s.votes = [] → exec .voteScrub s = .next { s with out := [], power := { s.power with scrubAt := s.clock.wall } })
      ∧ ∀ u : Upset, s.votes = [u] → u.copy < 3 → (regAt u.offset).isSome = true → u.offset ≠ oVote → u.offset ≠ oVoteLast →
        ∃ t, exec .voteScrub s = .next t ∧ t.votes = [] ∧ RegsBut s t [oVote, oVoteLast] ∧ t.power.scrubAt = s.clock.wall
          ∧ t = { s with out := [], votes := [], regs := t.regs, events := t.events, nextSeq := t.nextSeq, power := t.power })
    ∧ (∀ (st : Nat) (f : EccFind), beatsRun s = true → st < 8 →
        (sfind s.power.patrols st).getD 0 + 86400 * secondDt ≤ s.clock.dt → f.addr < 0x10000000000 → stackOf f.addr = st →
        isRetired s f.addr = false → s.poison.contains (wordAt f.addr) = false →
      ((∃ i d, f.flips = [(i, d)] ∧ i < 36 ∧ d ≠ 0) → ∃ t, exec (.patrol st [f]) s = .next t ∧ wordAt f.addr ∈ t.correcting
        ∧ regF t (oMem st + 0x20) 31 16 = min 65535 (regF s (oMem st + 0x20) 31 16 + 1)
        ∧ sfind t.power.patrols st = some s.clock.dt
        ∧ t = { s with out := [], regs := t.regs, correcting := t.correcting, power := t.power })
      ∧ (badBytes (errorWord f.flips) < 4 → rsDecode (errorWord f.flips) = .uncorrectable → ∃ t, exec (.patrol st [f]) s = .next t ∧ wordAt f.addr ∈ t.poison
        ∧ (t.events.head?.map (·.code)) = some 0x101 ∧ t.noticeNext.testBit 3 = true ∧ t.flash.healthWrite = true
        ∧ t.mem = s.mem ∧ t.ctxs = s.ctxs))
    ∧ (∀ d : DieStatus, beatsRun s = true → s.power.refreshAt + 256 ≤ s.beats → d.stack < 8 → d.channel < 16 →
      ∃ t, exec (.refreshRateRead [d]) s = .next t ∧ (d.rate ≠ 3 → sfind t.refresh (16 * d.stack + d.channel) = some d.rate)
        ∧ t.power.refreshAt = s.beats ∧ (d.overLimit = true ↔ 16 * d.stack + d.channel ∈ t.power.dramHot)
        ∧ t.regs = s.regs ∧ t.mem = s.mem)
    ∧ (firmwareRuns s = true → s.clock.health ≠ 0 → s.clock.health % 3600 = 0 → s.flash.health.time ≠ s.clock.health →
        s.flash.healthWrite = false → s.flash.healthThen = none →
      ∃ t, exec .healthTimeCheckpoint s = .next t ∧ t.flash.healthWrite = true ∧ t.flash.healthNext.time = s.clock.health
        ∧ t = { s with out := [], flash := t.flash })
    ∧ (s.flash.healthWrite = true →
      ∃ t, exec .healthRecordWriteDone s = .next t ∧ t.flash.health = s.flash.healthNext
        ∧ (s.flash.healthThen = none → t.flash.healthWrite = false)
        ∧ (∀ h, s.flash.healthThen = some h → t.flash.healthWrite = true ∧ t.flash.healthNext = h ∧ t.flash.healthThen = none)
        ∧ t = { s with out := [], flash := t.flash })
    ∧ ∀ a, ∃ t, exec (.correctionWriteBack a) s = .next t ∧ wordAt a ∉ t.correcting
        ∧ t = { s with out := [], correcting := t.correcting }

/-! ## Beat boundaries (R75, R120, R293, R373, R399, R400) -/

/-- A boundary finds nothing that waits for it: no engine, job, page, group, access, fence, write or test. -/
structure Sys2Proof.Terms.Quiet (s : State) : Prop where
  engines : s.engines = [] ∧ s.agenda = [] ∧ s.lates = [] ∧ s.lateStacks = [] ∧ s.passes = [] ∧ s.lateEnd = 0
  jobs    : s.ctxs = [] ∧ s.waiting = [] ∧ s.saves = [] ∧ s.restores = []
  pages   : s.pages = [] ∧ s.starting = []
  group   : s.group = none
  faults  : s.fails = [] ∧ s.calNext = [] ∧ s.codecNext = [] ∧ s.retireNext = [] ∧ s.pauseCtx = []
  waiting : s.deferred = [] ∧ s.lateCmds = [] ∧ s.posts = [] ∧ s.lateReplies = []
  writes  : s.regsNext = [] ∧ s.refresh = [] ∧ s.mirrorNext = [] ∧ s.diag = none

/-- A beat boundary at which nothing waits counts the beat, stamps it, shows the causes of NOTICE met since the last
one, and takes the DSW's fields: HEALTH, TIME and HEADROOM, the smaller of H_p and H_t (R293, R398 to R400, R467).
Copies of voted registers that an upset has met stand beside those that stood (log entry 111).
Without power or in STANDBY no beat runs (R481, R482). At the boundary just taken, BATCH_WAIT_EXPIRY starts the pass
of an image whose job has waited long enough (R75). The order of a boundary's work is the model's choice (log entry
8). -/
def Obligations.BoundariesCountStampAndStart : Prop :=
  (∀ (s : State) (x : Sensors), Canonical s →
    (beatsRun s = false → exec (.beatBoundary x) s = .next { s with out := [] })
    ∧ (beatsRun s = true → Quiet s → s.power.phase = .idle → s.power.causes = 0 → regF s oPwrCtrl 31 30 = 0 → tjMax x < 105 →
      let limit := min 2400 (max 600 (regF s oPwrLimit 31 20))
      ∃ t, exec (.beatBoundary x) s = .next t ∧ t.beats = s.beats + 1 ∧ t.power.phase = .idle
        ∧ t.snap.stampDt = stampOf s.clock.dt ∧ t.snap.time = s.disc.state ∧ t.snap.demotion = false
        ∧ t.votes = (x.upsets.filter fun u => (regAt u.offset).isSome) ++ s.votes
        ∧ t.snap.headroom = min (255 * (limit - x.powerW) / limit) (min 255 (255 * (16 * 105 - hottest16 x 0 72) / (16 * 40)))
        ∧ t.snap.health = healthOf t
        ∧ regF t oNotice 8 0 = regF s oNotice 8 0 ||| s.noticeNext % 512 ∧ t.noticeNext = 0
        ∧ (∀ n y, sessGet t n = some y → ∃ z, sessGet s n = some z ∧ y = { z with doneSnap := z.doneSeq })
        ∧ t.mem = s.mem ∧ t.clock = s.clock ∧ t.images = s.images ∧ t.streams = s.streams ∧ t.events = s.events
        ∧ t.retired = s.retired ∧ t.flash = s.flash ∧ t.disc = s.disc))
  ∧ ∀ (s : State) (i : Image) (c : Ctx) (pl : Nat), standsAtBoundary s = true → s.passes = [] → s.images = [i] → s.ctxs = [c] →
    s.pages = [] → s.posts = [] → s.lateReplies = [] → s.power.phase = .idle → c.state = .ready → c.desc.image = i.id →
    c.group = false → c.recomputing = false → c.allocFails = 0 → 0 < i.slots →
    c.readyBeat + regF s oBatchWait 15 0 ≤ s.beats → choosePlacement s i c.desc.base = some pl →
    jointOk [(i, pl)] = true →
    ∃ t p d, exec (.batchWaitExpiry i.id) s = .next t ∧ t.passes = [p] ∧ p.image = i.id ∧ p.placement = pl ∧ p.beat = 0
      ∧ p.slots = [(0, c.num)] ∧ p.engines = enginesOf s i pl ∧ ctxGet t c.num = some d ∧ d.state = .running
      ∧ d.slot = some 0 ∧ d.placement = some pl ∧ t.power.phase = .active ∧ t.beats = s.beats

/-! ## Sideband and test access (R489, R521) -/

/-- The SMBus target answers its command codes and NACKs every other and every write, and in OFF everything; no state
changes (R489); the PEC byte is that of SMBus, presumed (log entry 109). The TAP loads its instructions: EXTEST and its kin drive the pins only while RESET_N is low, IDCODE
shifts out 0x1_0009_4BB, HIGHZ releases the pins, BYPASS takes every code without a meaning (R521). What the TAP
shifts out is the model's choice, or free, as log entry 32 says. -/
def Obligations.SidebandAnswersAndTapLoads : Prop :=
  ∀ s : State,
    (s.power.phase ≠ .off →
      (∀ code v, smbusByte s code = some v → exec (.smbusReadByte code) s = .next { s with out := [.smbus (BitVec.ofNat 16 v) (smbusPec code (toLE v 1))] })
      ∧ (smbusByte s 0 = some (s.snap.health * 16 + regF s oPwrStatus 31 28)) ∧ smbusByte s 4 = some s.snap.headroom
      ∧ exec (.smbusReadWord 3) s = .next { s with out :=
          [.smbus (BitVec.ofNat 16 (regF s oPwrPower 31 16)) (smbusPec 3 (toLE (regF s oPwrPower 31 16) 2))] })
    ∧ (∀ code : Byte, (code = 3 ∨ 6 < code.toNat) → exec (.smbusReadByte code) s = .next { s with out := [.smbusNack] })
    ∧ (∀ code : Byte, code ≠ 3 → exec (.smbusReadWord code) s = .next { s with out := [.smbusNack] })
    ∧ (s.power.phase = .off → ∀ code, exec (.smbusReadByte code) s = .next { s with out := [.smbusNack] }
        ∧ exec (.smbusReadWord code) s = .next { s with out := [.smbusNack] })
    ∧ (∀ code data, exec (.smbusWrite code data) s = .next { s with out := [.smbusNack] })
    ∧ (∀ rising, ∃ t, exec (.tapReset rising) s = .next t ∧ t.tap.ir = .idcode ∧ tapDrives t.tap = none
        ∧ tapReleases t.tap = false ∧ t = { s with out := [], tap := t.tap })
    ∧ (∀ (bits : Chain) (c : Instr) (ir : TapInstr),
        (c = .extest bits ∧ ir = .extest ∨ c = .extestPulse bits ∧ ir = .extestPulse ∨ c = .extestTrain bits ∧ ir = .extestTrain) →
      ∃ t, exec c s = .next t ∧ t.tap.ir = ir ∧ t.tap.chain = bits
        ∧ tapDrives t.tap = (if s.tap.resetLow = true then some bits else none)
        ∧ (∃ o, t.out = [.tdo o] ∧ o.length = bits.length)
        ∧ t = { s with out := t.out, tap := t.tap, freeCtr := t.freeCtr })
    ∧ (∀ bits : Chain, ∃ t, exec (.samplePreload bits) s = .next t ∧ t.tap.ir = .samplePreload ∧ t.tap.chain = bits
        ∧ tapDrives t.tap = none ∧ (∃ o, t.out = [.tdo o] ∧ o.length = bits.length)
        ∧ t = { s with out := t.out, tap := t.tap, freeCtr := t.freeCtr })
    ∧ (∃ t, exec .idcode s = .next t ∧ t.tap.ir = .idcode ∧ t.out = [.tdo ((List.range 32).map (0x100094BB : Nat).testBit)]
        ∧ tapDrives t.tap = none ∧ t = { s with out := t.out, tap := t.tap })
    ∧ (∃ t, exec .clamp s = .next t ∧ t.tap.ir = .clamp ∧ t.out = [.tdo [false]]
        ∧ tapDrives t.tap = (if s.tap.resetLow = true then some s.tap.chain else none)
        ∧ t = { s with out := t.out, tap := t.tap })
    ∧ (∃ t, exec .highz s = .next t ∧ t.tap.ir = .highz ∧ t.out = [.tdo [false]] ∧ tapReleases t.tap = s.tap.resetLow
        ∧ tapDrives t.tap = none ∧ t = { s with out := t.out, tap := t.tap })
    ∧ ∀ code : Byte, code ∉ definedCodes →
      ∃ t, exec (.bypass code) s = .next t ∧ t.tap.ir = .bypass ∧ t.out = [.tdo [false]] ∧ tapDrives t.tap = none
        ∧ t = { s with out := t.out, tap := t.tap }

/-! ## Addresses and the protection map (R29, R461) -/

/-- R29: an address of the interleaved view maps to the linear view by its granule, and both name the same bytes; every
linear stack address has exactly one interleaved one. -/
def Obligations.TwoViewsNameTheSameBytes : Prop :=
  (∀ x, 0x10000000000 ≤ x → x < 0x20000000000 →
    let off := x - 0x10000000000
    let granule := off >>> 12
    linearOf x = (granule &&& 7) * 0x2000000000 + ((granule >>> 3) <<< 12) + (off &&& 0xFFF)
      ∧ linearOf x < 0x10000000000
      ∧ (∀ s : State, spanRead s x 1 = [byteAt s (linearOf x)])
      ∧ ∀ (s : State) (b : Byte), Memory.wf s.mem = true → byteAt (spanWrite s x [b]) (linearOf x) = b)
  ∧ ∀ y, y < 0x10000000000 →
    ∃ x, 0x10000000000 ≤ x ∧ x < 0x20000000000 ∧ linearOf x = y
      ∧ ∀ z, 0x10000000000 ≤ z → z < 0x20000000000 → linearOf z = y → z = x

/-- Entry i of the protection map is enabled, holds a linear byte address, and admits session n (R460, R461). -/
def Sys2Proof.Terms.Qualifies (s : State) (i n lin : Nat) : Prop :=
  regF s (oProt i + 16) 31 31 = 1
    ∧ protAddr (regGet s (oProt i)) (regGet s (oProt i + 4)) 0 ≤ lin
    ∧ lin ≤ protAddr (regGet s (oProt i + 8)) (regGet s (oProt i + 12)) 0xFFF
    ∧ (regF s (oProt i + 16) 30 30 = 0 ∨ regF s (oProt i + 16) 27 16 = n)

/-- The map permits a byte to a class and session for an RMO (R461): the lowest entry that qualifies decides, or else
DEFAULT; READ needs the read bit, WRITE the write bit, the atomic operations both. -/
def Sys2Proof.Terms.Permits (s : State) (cls : Cls) (n : Nat) (op : RmoOp) (lin : Nat) : Prop :=
  ∃ perms, ((∃ i < 256, Qualifies s i n lin ∧ (∀ j < i, ¬Qualifies s j n lin) ∧ perms = regF s (oProt i + 16) 7 0)
      ∨ ((∀ i < 256, ¬Qualifies s i n lin) ∧ perms = regF s oProtCtrl 7 0))
    ∧ (op ≠ .write → perms.testBit (2 * clsByte cls) = true) ∧ (op ≠ .read → perms.testBit (2 * clsByte cls + 1) = true)

/-- An address that the protection map governs (R460): stack memory in either view, the hub's general area, and the AB,
AM and WS windows. -/
def Sys2Proof.Terms.governed (a : Nat) : Bool :=
  match regionOf a with
  | .linear | .interleaved | .hubGeneral | .ab _ | .am _ | .ws _ => true
  | _ => false

/-- R461: an access to bytes that the map governs passes the checks of privilege only when the map permits every byte
that it touches, each at its linear address; an access that touches no image and no working memory then passes; FENCE is
not checked. -/
def Obligations.ProtectionMapDecidesEveryByte : Prop :=
  ∀ (s : State) (cls : Cls) (n a len : Nat) (op : RmoOp), Canonical s → 0 < len → (∀ i < len, governed (a + i) = true) →
    (op ≠ .fence →
      (privCheck s cls n op a len = true → ∀ i < len, Permits s cls n op (linearOf (a + i)))
      ∧ ((∀ i < len, Permits s cls n op (linearOf (a + i)) ∧ inImage s (linearOf (a + i)) = false
            ∧ inWorkMemory s (linearOf (a + i)) = false) → privCheck s cls n op a len = true))
    ∧ ∀ segment, rmoRefusal s cls n segment .fence 0 0 = none
end

