-- ==== Sys2Proof/Laws/Bundles.lean ====
section
/-! SUPPORT. What the issue of a bundle can do: nothing, a hold, or its effect (R92, R109, R119). -/

namespace Sys2Proof.Machine

open Sys2Proof

variable {s : State} {cls : BundleClass} {v : BundleEvent} {f : Run → Nat → State → State} {r : Run}

theorem settle_idle (c n : Nat) (h : s.agenda = []) : settle s c n = s := by
  cases n with
  | zero => rfl
  | succ n => simp only [settle, h]

/-- With nothing under way, a cycle begins with the state as it is. -/
theorem settled_idle (c : Nat) (h : s.agenda = []) : settled s c = s := settle_idle c _ h

theorem advance_idle (n : Nat) (h : s.agenda = []) : advance s n = s := by
  cases n with
  | zero => rfl
  | succ n => simp only [advance, h]

/-- The bundle is its engine's next one, and its turn has come. -/
def Due (cls : BundleClass) (v : BundleEvent) (s : State) (r : Run) : Prop :=
  let c := issueAt s (engGet s v.engine) ⟨cls, v.bundle⟩
  waitsForGroup s = false ∧ (engGet s v.engine).abandoned = false ∧ nextBundle s r v.engine = some ⟨cls, v.bundle⟩
    ∧ inTurn (settled s c) c = true

/-- The tags that the bundle awaits have landed. -/
def Awaited (cls : BundleClass) (v : BundleEvent) (s : State) : Bool :=
  tagsLanded (engGet s v.engine) (issueMask (engGet s v.engine) ⟨cls, v.bundle⟩)

/-- The effect of a bundle of a class that issues: its own, after its fetch, in the cycle that it has come to, with its tag set. -/
def issuedAs (cls : BundleClass) (v : BundleEvent) (f : Run → Nat → State → State) (s : State) (r : Run) : State :=
  let e := v.engine
  let c := issueAt s (engGet s e) ⟨cls, v.bundle⟩
  let u := fetchErrors (landAwaited (landUntagged (settled s c) e c) e c v.bundle.waitMask) e r cls v.bundle v.sram
  let x := engGet u e
  f r c (engSet u e (tagSet { x with holding := none, next := x.next + 1, hold := c - v.bundle.issue } v.bundle.setTag))

/-- An engine that runs no pass issues nothing. -/
theorem issueBundle_no_run (h : runOf s v.engine = none) : issueBundle cls v f s = s := by
  simp only [issueBundle, h]

/-- A bundle that is not the program's next one, or not in turn, has no effect. -/
theorem issueBundle_not_due (hr : runOf s v.engine = some r) (h : ¬Due cls v s r) : issueBundle cls v f s = s := by
  simp only [issueBundle, hr]
  refine if_pos ?_
  simp only [Due, not_and_or] at h
  simpa using h

/-- A bundle in turn whose tags have not landed makes its engine hold, and does nothing else. -/
theorem issueBundle_holds (hr : runOf s v.engine = some r) (h : Due cls v s r) (ht : Awaited cls v s = false) :
    issueBundle cls v f s = beginHold s r v.engine v.bundle (issueMask (engGet s v.engine) ⟨cls, v.bundle⟩) := by
  obtain ⟨h0, h1, h2, h3⟩ := h
  simp only [Awaited] at ht
  simp only [issueBundle, hr]
  rw [if_neg (by simp [h0, h1, h2, h3]), if_pos (by simp [ht])]

/-- A bundle in turn whose tags have landed has its effect, after its fetch and with its tag set. -/
theorem issueBundle_issues (hr : runOf s v.engine = some r) (h : Due cls v s r) (ht : Awaited cls v s = true) :
    issueBundle cls v f s = issuedAs cls v f s r := by
  obtain ⟨h0, h1, h2, h3⟩ := h
  simp only [Awaited] at ht
  simp only [issueBundle, hr, issuedAs]
  rw [if_neg (by simp [h0, h1, h2, h3]), if_neg (by simp [ht])]

/-- Those four are all that an issue can do. -/
theorem issueBundle_cases (cls : BundleClass) (v : BundleEvent) (f : Run → Nat → State → State) (s : State) :
    issueBundle cls v f s = s
    ∨ ∃ r, runOf s v.engine = some r ∧ Due cls v s r ∧
      ((Awaited cls v s = false ∧
          issueBundle cls v f s = beginHold s r v.engine v.bundle (issueMask (engGet s v.engine) ⟨cls, v.bundle⟩))
      ∨ (Awaited cls v s = true ∧ issueBundle cls v f s = issuedAs cls v f s r)) := by
  cases hr : runOf s v.engine with
  | none => exact .inl (issueBundle_no_run hr)
  | some r =>
    by_cases h : Due cls v s r
    · refine .inr ⟨r, rfl, h, ?_⟩
      cases ht : Awaited cls v s
      · exact .inl ⟨rfl, issueBundle_holds hr h ht⟩
      · exact .inr ⟨rfl, issueBundle_issues hr h ht⟩
    · exact .inl (issueBundle_not_due hr h)

end Sys2Proof.Machine
end

