-- ==== Sys2Proof/Laws/Tables.lean ====
section
/-! SUPPORT. The laws of the sparse tables that hold memory, the registers, the engines and the sessions: a
read after a write, the canonical form that every write keeps, and that two canonical tables that read alike
are equal. -/

namespace Sys2Proof.Machine

open Sys2Proof

variable {α : Type} {d : Nat → α}

/-! ## Rising keys -/

/-- Every key of a table lies above a bound. -/
def keysAbove (n : Nat) (l : List (Nat × α)) : Prop := ∀ x ∈ l, n < x.1

theorem keysRise_cons {a : Nat} {v : α} {t : List (Nat × α)} :
    keysRise ((a, v) :: t) = true ↔ keysAbove a t ∧ keysRise t = true := by
  induction t generalizing a v with
  | nil => simp [keysRise, keysAbove]
  | cons b t ih =>
    obtain ⟨b, w⟩ := b
    rw [keysRise, Bool.and_eq_true, decide_eq_true_eq, ih]
    constructor
    · rintro ⟨h, h1, h2⟩
      refine ⟨fun x hx => ?_, h1, h2⟩
      rcases List.mem_cons.1 hx with rfl | hx
      · exact h
      · exact lt_trans h (h1 x hx)
    · rintro ⟨h, h1, h2⟩
      exact ⟨h (b, w) (by simp), h1, h2⟩

theorem swf_iff [DecidableEq α] {l : List (Nat × α)} : swf d l = true ↔ keysRise l = true ∧ ∀ x ∈ l, x.2 ≠ d x.1 := by
  induction l with
  | nil => simp [swf, keysRise]
  | cons b t ih =>
    obtain ⟨a, v⟩ := b
    cases t with
    | nil => simp [swf, keysRise]
    | cons c t =>
      obtain ⟨b, w⟩ := c
      rw [swf, Bool.and_eq_true, Bool.and_eq_true, ih, keysRise, Bool.and_eq_true]
      constructor
      · rintro ⟨⟨h1, h2⟩, h3, h4⟩
        refine ⟨⟨h2, h3⟩, fun x hx => ?_⟩
        rcases List.mem_cons.1 hx with rfl | hx
        · simpa using h1
        · exact h4 x hx
      · rintro ⟨⟨h1, h2⟩, h3⟩
        exact ⟨⟨by simpa using h3 (a, v) (by simp), h1⟩, h2, fun x hx => h3 x (List.mem_cons_of_mem _ hx)⟩

/-! ## Reading -/

theorem sget_of_above {l : List (Nat × α)} {k : Nat} (h : ∀ x ∈ l, x.1 ≠ k) : sget d l k = d k := by
  induction l with
  | nil => rfl
  | cons b t ih =>
    obtain ⟨a, v⟩ := b
    rw [sget, if_neg (h (a, v) (by simp))]
    exact ih fun x hx => h x (List.mem_cons_of_mem _ hx)

theorem sfind_of_above {l : List (Nat × α)} {k : Nat} (h : ∀ x ∈ l, x.1 ≠ k) : sfind l k = none := by
  induction l with
  | nil => rfl
  | cons b t ih =>
    obtain ⟨a, v⟩ := b
    rw [sfind, if_neg (h (a, v) (by simp))]
    exact ih fun x hx => h x (List.mem_cons_of_mem _ hx)

theorem sget_eq_sfind (l : List (Nat × α)) (k : Nat) : sget d l k = (sfind l k).getD (d k) := by
  induction l with
  | nil => rfl
  | cons b t ih =>
    obtain ⟨a, v⟩ := b
    rw [sget, sfind]
    split <;> simp [ih]

theorem mem_of_sfind {l : List (Nat × α)} {k : Nat} {v : α} (h : sfind l k = some v) : (k, v) ∈ l := by
  induction l with
  | nil => simp [sfind] at h
  | cons b t ih =>
    obtain ⟨a, w⟩ := b
    rw [sfind] at h
    split at h
    · rename_i e
      cases h
      simp [e]
    · exact List.mem_cons_of_mem _ (ih h)

/-! ## Putting and deleting -/

theorem sfind_sput_same (l : List (Nat × α)) (k : Nat) (v : α) : sfind (sput l k v) k = some v := by
  induction l with
  | nil => simp [sput, sfind]
  | cons b t ih =>
    obtain ⟨a, w⟩ := b
    rw [sput]
    split
    · simp [sfind]
    · split
      · simp [sfind]
      · rename_i h1 _
        rw [sfind, if_neg h1, ih]

theorem sfind_sput_other (l : List (Nat × α)) {k j : Nat} (v : α) (h : j ≠ k) : sfind (sput l k v) j = sfind l j := by
  induction l with
  | nil => simp [sput, sfind, Ne.symm h]
  | cons b t ih =>
    obtain ⟨a, w⟩ := b
    rw [sput]
    split
    · rename_i e
      subst e
      simp [sfind, Ne.symm h]
    · split
      · simp [sfind, Ne.symm h]
      · rw [sfind, sfind, ih]

theorem sfind_sdel_other (l : List (Nat × α)) {k j : Nat} (h : j ≠ k) : sfind (sdel l k) j = sfind l j := by
  induction l with
  | nil => rfl
  | cons b t ih =>
    obtain ⟨a, w⟩ := b
    rw [sdel]
    split
    · rename_i e
      subst e
      simp [sfind, Ne.symm h]
    · split
      · rfl
      · rw [sfind, sfind, ih]

theorem keysAbove_sput {l : List (Nat × α)} {n k : Nat} {v : α} (h : keysAbove n l) (hk : n < k) :
    keysAbove n (sput l k v) := by
  induction l with
  | nil => intro x hx; simp [sput] at hx; simp [hx, hk]
  | cons b t ih =>
    obtain ⟨a, w⟩ := b
    have ht : keysAbove n t := fun x hx => h x (List.mem_cons_of_mem _ hx)
    rw [sput]
    split
    · intro x hx
      rcases List.mem_cons.1 hx with rfl | hx
      · exact hk
      · exact ht x hx
    · split
      · intro x hx
        rcases List.mem_cons.1 hx with rfl | hx
        · exact hk
        · exact h x hx
      · intro x hx
        rcases List.mem_cons.1 hx with rfl | hx
        · exact h (a, w) (by simp)
        · exact ih ht x hx

theorem keysRise_sput {l : List (Nat × α)} (h : keysRise l = true) (k : Nat) (v : α) : keysRise (sput l k v) = true := by
  induction l with
  | nil => rfl
  | cons b t ih =>
    obtain ⟨a, w⟩ := b
    obtain ⟨h1, h2⟩ := keysRise_cons.1 h
    rw [sput]
    split
    · rename_i e
      subst e
      exact keysRise_cons.2 ⟨h1, h2⟩
    · split
      · rename_i hlt
        refine keysRise_cons.2 ⟨fun x hx => ?_, h⟩
        rcases List.mem_cons.1 hx with rfl | hx
        · exact hlt
        · exact lt_trans hlt (h1 x hx)
      · exact keysRise_cons.2 ⟨keysAbove_sput h1 (by omega), ih h2⟩

theorem mem_sdel {l : List (Nat × α)} {k : Nat} {x : Nat × α} (h : x ∈ sdel l k) : x ∈ l := by
  induction l with
  | nil => exact h
  | cons b t ih =>
    obtain ⟨a, w⟩ := b
    rw [sdel] at h
    split at h
    · exact List.mem_cons_of_mem _ h
    · split at h
      · exact h
      · rcases List.mem_cons.1 h with rfl | h
        · simp
        · exact List.mem_cons_of_mem _ (ih h)

theorem keysRise_sdel {l : List (Nat × α)} (h : keysRise l = true) (k : Nat) : keysRise (sdel l k) = true := by
  induction l with
  | nil => rfl
  | cons b t ih =>
    obtain ⟨a, w⟩ := b
    obtain ⟨h1, h2⟩ := keysRise_cons.1 h
    rw [sdel]
    split
    · exact h2
    · split
      · exact h
      · exact keysRise_cons.2 ⟨fun x hx => h1 x (mem_sdel hx), ih h2⟩

theorem sfind_sdel_same {l : List (Nat × α)} (h : keysRise l = true) (k : Nat) : sfind (sdel l k) k = none := by
  induction l with
  | nil => rfl
  | cons b t ih =>
    obtain ⟨a, w⟩ := b
    obtain ⟨h1, h2⟩ := keysRise_cons.1 h
    rw [sdel]
    split
    · rename_i e
      subst e
      exact sfind_of_above fun x hx => by have := h1 x hx; omega
    · split
      · refine sfind_of_above fun x hx => ?_
        rcases List.mem_cons.1 hx with rfl | hx
        · assumption
        · have := h1 x hx; omega
      · rename_i h3 _
        rw [sfind, if_neg h3, ih h2]

theorem mem_sput {l : List (Nat × α)} {k : Nat} {v : α} {x : Nat × α} (h : x ∈ sput l k v) : x = (k, v) ∨ x ∈ l := by
  induction l with
  | nil => simpa [sput] using h
  | cons b t ih =>
    obtain ⟨a, w⟩ := b
    rw [sput] at h
    split at h
    · rcases List.mem_cons.1 h with h | h
      · exact .inl h
      · exact .inr (List.mem_cons_of_mem _ h)
    · split at h
      · rcases List.mem_cons.1 h with h | h
        · exact .inl h
        · exact .inr h
      · rcases List.mem_cons.1 h with rfl | h
        · exact .inr (by simp)
        · exact (ih h).imp_right (List.mem_cons_of_mem _)

/-! ## Writing in canonical form -/

/-- A write keeps the canonical form. -/
theorem swf_sset [DecidableEq α] {l : List (Nat × α)} (h : swf d l = true) (k : Nat) (v : α) : swf d (sset d l k v) = true := by
  obtain ⟨h1, h2⟩ := swf_iff.1 h
  rw [sset]
  split
  · exact swf_iff.2 ⟨keysRise_sdel h1 k, fun x hx => h2 x (mem_sdel hx)⟩
  · rename_i hv
    refine swf_iff.2 ⟨keysRise_sput h1 k v, fun x hx => ?_⟩
    rcases mem_sput hx with rfl | hx
    · exact hv
    · exact h2 x hx

/-- A read of the key that was written gives what was written. -/
theorem sget_sset_same [DecidableEq α] {l : List (Nat × α)} (h : swf d l = true) (k : Nat) (v : α) : sget d (sset d l k v) k = v := by
  rw [sget_eq_sfind, sset]
  split
  · rename_i e
    rw [sfind_sdel_same (swf_iff.1 h).1, e]
    rfl
  · rw [sfind_sput_same]
    rfl

/-- A read of any other key gives what it gave. -/
@[simp] theorem sget_sset_other [DecidableEq α] (l : List (Nat × α)) {k j : Nat} (v : α) (h : j ≠ k) :
    sget d (sset d l k v) j = sget d l j := by
  rw [sget_eq_sfind, sget_eq_sfind, sset]
  split
  · rw [sfind_sdel_other l h]
  · rw [sfind_sput_other l v h]

/-- A read after a write. -/
theorem sget_sset [DecidableEq α] {l : List (Nat × α)} (h : swf d l = true) (k j : Nat) (v : α) :
    sget d (sset d l k v) j = if j = k then v else sget d l j := by
  split
  · rename_i e
    rw [e, sget_sset_same h]
  · exact sget_sset_other l v ‹_›

/-- Entries left out of a canonical table leave a canonical one. -/
theorem swf_filter [DecidableEq α] {l : List (Nat × α)} (h : swf d l = true) (p : Nat × α → Bool) : swf d (l.filter p) = true := by
  obtain ⟨h1, h2⟩ := swf_iff.1 h
  refine swf_iff.2 ⟨?_, fun x hx => h2 x (List.mem_of_mem_filter hx)⟩
  clear h h2
  induction l with
  | nil => rfl
  | cons b t ih =>
    obtain ⟨a, w⟩ := b
    obtain ⟨h3, h4⟩ := keysRise_cons.1 h1
    rw [List.filter_cons]
    split
    · exact keysRise_cons.2 ⟨fun x hx => h3 x (List.mem_of_mem_filter hx), ih h4⟩
    · exact ih h4

/-- A listed entry of a canonical table reads as it is listed. -/
theorem sget_of_mem {l : List (Nat × α)} (h : keysRise l = true) {k : Nat} {v : α} (hm : (k, v) ∈ l) : sget d l k = v := by
  induction l with
  | nil => simp at hm
  | cons b t ih =>
    obtain ⟨a, w⟩ := b
    obtain ⟨h1, h2⟩ := keysRise_cons.1 h
    rw [sget]
    rcases List.mem_cons.1 hm with e | hm
    · cases e
      simp
    · rw [if_neg (by have := h1 _ hm; simp at this; omega), ih h2 hm]

/-- Two canonical tables that read alike are equal. -/
theorem sget_ext [DecidableEq α] {l m : List (Nat × α)} (hl : swf d l = true) (hm : swf d m = true) (h : ∀ k, sget d l k = sget d m k) :
    l = m := by
  have mem : ∀ {l m : List (Nat × α)}, swf d l = true → swf d m = true → (∀ k, sget d l k = sget d m k) →
      ∀ x ∈ l, x ∈ m := by
    intro l m hl hm h x hx
    obtain ⟨k, v⟩ := x
    have e := h k
    rw [sget_of_mem (swf_iff.1 hl).1 hx, sget_eq_sfind] at e
    cases hs : sfind m k with
    | none =>
      rw [hs] at e
      exact absurd e ((swf_iff.1 hl).2 _ hx)
    | some w =>
      rw [hs] at e
      subst e
      exact mem_of_sfind hs
  have sorted : ∀ {l : List (Nat × α)}, keysRise l = true → l.Pairwise (fun x y => x.1 < y.1) := by
    intro l h
    induction l with
    | nil => exact .nil
    | cons b t ih =>
      obtain ⟨a, w⟩ := b
      obtain ⟨h1, h2⟩ := keysRise_cons.1 h
      exact .cons (fun x hx => h1 x hx) (ih h2)
  have sl := sorted (swf_iff.1 hl).1
  have sm := sorted (swf_iff.1 hm).1
  refine List.Perm.eq_of_pairwise (le := fun x y => x.1 < y.1) ?_ sl sm ?_
  · intro x y _ _ h1 h2
    omega
  · refine (List.perm_ext_iff_of_nodup ?_ ?_).2 fun x => ⟨mem hl hm h x, mem hm hl (fun k => (h k).symm) x⟩
    · exact sl.imp fun {x y} h e => by subst e; omega
    · exact sm.imp fun {x y} h e => by subst e; omega

end Sys2Proof.Machine
end

