-- ==== Sys2Proof/Laws/Memory.lean ====
section
/-! SUPPORT. The laws of memory: a read after a write, what a write leaves alone, the canonical form that every
memory operation keeps, and the two views of stack memory (R29). -/

namespace Sys2Proof.Machine

open Sys2Proof

/-! ## Tables of bytes -/

theorem memory_wf_memPut {m : List Host.Cell} (h : Memory.wf m = true) (a : Nat) (b : Bytes) :
    Memory.wf (memPut m a b) = true := by
  induction b generalizing m a with
  | nil => exact h
  | cons x t ih => exact ih (swf_sset h a x) (a + 1)

theorem memory_wf_spanPut {m : List Host.Cell} (h : Memory.wf m = true) (a : Nat) (b : Bytes) :
    Memory.wf (spanPut m a b) = true := by
  induction b generalizing m a with
  | nil => exact h
  | cons x t ih => exact ih (swf_sset h _ x) (a + 1)

/-- A write of bytes leaves every byte outside them alone. -/
theorem sget_memPut_other (m : List Host.Cell) {a c : Nat} {b : Bytes} (h : c < a ∨ a + b.length ≤ c) :
    sget memDefault (memPut m a b) c = sget memDefault m c := by
  induction b generalizing m a with
  | nil => rfl
  | cons x t ih =>
    simp only [List.length_cons] at h
    rw [memPut, ih _ (by omega), sget_sset_other _ _ (by omega)]

/-- A write of bytes writes each of them. -/
theorem sget_memPut_same {m : List Host.Cell} (hm : Memory.wf m = true) (a : Nat) {b : Bytes} {i : Nat} (h : i < b.length) :
    sget memDefault (memPut m a b) (a + i) = b[i] := by
  induction b generalizing m a i with
  | nil => simp at h
  | cons x t ih =>
    rw [memPut]
    cases i with
    | zero =>
      rw [sget_memPut_other _ (by omega)]
      exact sget_sset_same hm a x
    | succ i =>
      have e : a + (i + 1) = a + 1 + i := by omega
      rw [e, ih (swf_sset hm a x) (a + 1) (by simpa using h)]
      rfl

/-- A write of a span leaves every byte outside its linear addresses alone. -/
theorem sget_spanPut_other (m : List Host.Cell) {a c : Nat} {b : Bytes} (h : ∀ i < b.length, linearOf (a + i) ≠ c) :
    sget memDefault (spanPut m a b) c = sget memDefault m c := by
  induction b generalizing m a with
  | nil => rfl
  | cons x t ih =>
    rw [spanPut, ih]
    · exact sget_sset_other _ _ fun e => h 0 (by simp) e.symm
    · intro i hi
      have := h (i + 1) (by simpa using hi)
      rwa [show a + (i + 1) = a + 1 + i by omega] at this

/-- A write of a span whose linear addresses differ writes each of its bytes. -/
theorem sget_spanPut_same {m : List Host.Cell} (hm : Memory.wf m = true) (a : Nat) {b : Bytes}
    (hn : (spanLinear a b.length).Nodup) {i : Nat} (h : i < b.length) :
    sget memDefault (spanPut m a b) (linearOf (a + i)) = b[i] := by
  induction b generalizing m a i with
  | nil => simp at h
  | cons x t ih =>
    rw [spanPut]
    have inj : ∀ i j, i < t.length + 1 → j < t.length + 1 → linearOf (a + i) = linearOf (a + j) → i = j := by
      intro i j hi hj e
      unfold spanLinear at hn
      exact List.inj_on_of_nodup_map hn (by simpa using hi) (by simpa using hj) e
    cases i with
    | zero =>
      rw [sget_spanPut_other]
      · exact sget_sset_same hm _ x
      · intro j hj e
        rw [show a + 1 + j = a + (j + 1) by omega] at e
        have := inj (j + 1) 0 (by omega) (by omega) e
        omega
    | succ i =>
      have e : a + (i + 1) = a + 1 + i := by omega
      rw [e, ih (swf_sset hm _ x) (a + 1)]
      · rfl
      · unfold spanLinear
        rw [List.nodup_map_iff_inj_on List.nodup_range]
        intro p hp q hq e
        rw [List.mem_range] at hp hq
        have := inj (p + 1) (q + 1) (by omega) (by omega)
          (by rw [show a + (p + 1) = a + 1 + p by omega, show a + (q + 1) = a + 1 + q by omega]; exact e)
        omega

/-! ## Bytes of the state -/

theorem wf_bytesPut {s : State} (h : Memory.wf s.mem = true) (a : Nat) (b : Bytes) :
    Memory.wf (bytesPut s a b).mem = true := memory_wf_memPut h a b

theorem wf_spanWrite {s : State} (h : Memory.wf s.mem = true) (a : Nat) (b : Bytes) :
    Memory.wf (spanWrite s a b).mem = true := memory_wf_spanPut h a b

theorem byteAt_bytesPut_other (s : State) {a c : Nat} {b : Bytes} (h : c < a ∨ a + b.length ≤ c) :
    byteAt (bytesPut s a b) c = byteAt s c := sget_memPut_other _ h

theorem byteAt_bytesPut_same {s : State} (hm : Memory.wf s.mem = true) (a : Nat) {b : Bytes} {i : Nat} (h : i < b.length) :
    byteAt (bytesPut s a b) (a + i) = b[i] := sget_memPut_same hm a h

theorem byteAt_spanWrite_other (s : State) {a c : Nat} {b : Bytes} (h : ∀ i < b.length, linearOf (a + i) ≠ c) :
    byteAt (spanWrite s a b) c = byteAt s c := sget_spanPut_other _ h

theorem byteAt_spanWrite_same {s : State} (hm : Memory.wf s.mem = true) (a : Nat) {b : Bytes}
    (hn : (spanLinear a b.length).Nodup) {i : Nat} (h : i < b.length) :
    byteAt (spanWrite s a b) (linearOf (a + i)) = b[i] := sget_spanPut_same hm a hn h

@[simp] theorem bytesAt_length (s : State) (a n : Nat) : (bytesAt s a n).length = n := by simp [bytesAt]

@[simp] theorem spanLinear_length (a n : Nat) : (spanLinear a n).length = n := by simp [spanLinear]

@[simp] theorem spanRead_length (s : State) (a n : Nat) : (spanRead s a n).length = n := by simp [spanRead]

/-- A span read back is what was written. -/
theorem spanRead_spanWrite {s : State} (hm : Memory.wf s.mem = true) (a : Nat) (b : Bytes)
    (hn : (spanLinear a b.length).Nodup) : spanRead (spanWrite s a b) a b.length = b := by
  apply List.ext_getElem (by simp)
  intro i h1 h2
  simp only [spanRead, spanLinear, List.getElem_map, List.getElem_range]
  exact byteAt_spanWrite_same hm a hn h2

/-- A fold of single-byte writes keeps the canonical form. -/
theorem memory_wf_foldl {β : Type} (f : List Host.Cell → β → List Host.Cell)
    (hf : ∀ m x, Memory.wf m = true → Memory.wf (f m x) = true) {m : List Host.Cell} (h : Memory.wf m = true) (l : List β) :
    Memory.wf (l.foldl f m) = true := by
  induction l generalizing m with
  | nil => exact h
  | cons x t ih => exact ih (hf m x h)

/-- The end of single-bit errors changes nothing else. -/
theorem softClear_eq (s : State) (lins : List Nat) : softClear s lins = { s with soft := (softClear s lins).soft } := by
  unfold softClear
  split <;> rfl

@[simp] theorem mem_softClear (s : State) (lins : List Nat) : (softClear s lins).mem = s.mem := by rw [softClear_eq]

@[simp] theorem poison_softClear (s : State) (lins : List Nat) : (softClear s lins).poison = s.poison := by rw [softClear_eq]

/-- Where no word has a single-bit error, nothing ends. -/
theorem softClear_clean {s : State} (h : s.soft = []) (lins : List Nat) : softClear s lins = s := by simp [softClear, h]

theorem mem_soft_softClear {s : State} {lins : List Nat} {w : Nat} (h : w ∈ (softClear s lins).soft) : w ∈ s.soft := by
  unfold softClear at h
  split at h
  · exact h
  · exact List.mem_of_mem_filter h

theorem byteAt_softClear (s : State) (lins : List Nat) (c : Nat) : byteAt (softClear s lins) c = byteAt s c := by
  simp [byteAt]

/-- The end of poison and of single-bit errors changes nothing else, and begins none. -/
theorem poisonClear_spec (s : State) (lins : List Nat) :
    poisonClear s lins = { s with poison := (poisonClear s lins).poison, soft := (poisonClear s lins).soft }
    ∧ (∀ w ∈ (poisonClear s lins).poison, w ∈ s.poison) ∧ ∀ w ∈ (poisonClear s lins).soft, w ∈ s.soft := by
  refine ⟨by unfold poisonClear softClear; split <;> dsimp only <;> split <;> rfl, ?_⟩
  unfold poisonClear
  dsimp only
  split
  · exact ⟨fun w h => by simpa using h, fun w h => mem_soft_softClear h⟩
  · exact ⟨fun w h => by simpa using List.mem_of_mem_filter h, fun w h => mem_soft_softClear h⟩

theorem mem_poisonClear (s : State) (lins : List Nat) : (poisonClear s lins).mem = s.mem := by
  rw [(poisonClear_spec s lins).1]

theorem mem_poisonAdd (s : State) (w : Nat) : (poisonAdd s w).mem = s.mem := by
  unfold poisonAdd
  split <;> rfl

theorem wf_storeBytes {s : State} (h : Memory.wf s.mem = true) (a : Nat) (b : Bytes) :
    Memory.wf (storeBytes s a b).mem = true := by
  unfold storeBytes
  dsimp only
  split
  · simpa using wf_spanWrite h a b
  · rw [mem_poisonClear]
    refine memory_wf_foldl _ (fun m x hm => ?_) h _
    split
    · exact swf_sset hm _ _
    · exact hm

/-- Where nothing is poisoned and no word has an error, a scheduled write is a plain one. -/
theorem storeBytes_clean {s : State} (h : s.poison = []) (hs : s.soft = []) (a : Nat) (b : Bytes) :
    storeBytes s a b = spanWrite s a b := by
  have hw : (spanWrite s a b).soft = [] := hs
  simp [storeBytes, h, softClear_clean hw]

/-- A scheduled write leaves every byte outside its span alone. -/
theorem byteAt_storeBytes_other (s : State) {a c : Nat} {b : Bytes} (h : ∀ i < b.length, linearOf (a + i) ≠ c) :
    byteAt (storeBytes s a b) c = byteAt s c := by
  unfold storeBytes
  dsimp only
  split
  · rw [byteAt_softClear]
    exact byteAt_spanWrite_other s h
  · unfold byteAt
    rw [mem_poisonClear]
    have hz : ∀ x ∈ (spanLinear a b.length).zip b, x.1 ≠ c := by
      intro x hx
      have := List.of_mem_zip hx
      unfold spanLinear at this
      obtain ⟨i, hi, e⟩ := List.mem_map.1 this.1
      rw [← e]
      exact h i (List.mem_range.1 hi)
    dsimp only
    generalize (spanLinear a b.length).zip b = l at hz
    generalize s.mem = m
    induction l generalizing m with
    | nil => rfl
    | cons x t ih =>
      rw [List.foldl_cons, ih fun y hy => hz y (List.mem_cons_of_mem _ hy)]
      split
      · exact sget_sset_other _ _ (hz x (by simp)).symm
      · rfl

/-- What a scheduled write can do: memory stays canonical, every byte outside the span stays, poison and single-bit errors only
end, and nothing else changes. -/
theorem storeBytes_spec (s : State) (a : Nat) (b : Bytes) :
    (Memory.wf s.mem = true → Memory.wf (storeBytes s a b).mem = true)
    ∧ (∀ c, (∀ i < b.length, linearOf (a + i) ≠ c) → byteAt (storeBytes s a b) c = byteAt s c)
    ∧ (∀ w ∈ (storeBytes s a b).poison, w ∈ s.poison) ∧ (∀ w ∈ (storeBytes s a b).soft, w ∈ s.soft)
    ∧ storeBytes s a b
      = { s with mem := (storeBytes s a b).mem, poison := (storeBytes s a b).poison, soft := (storeBytes s a b).soft } := by
  refine ⟨fun h => wf_storeBytes h a b, fun c h => byteAt_storeBytes_other s h, ?_⟩
  unfold storeBytes
  dsimp only
  split
  · refine ⟨fun w h => ?_, fun w h => mem_soft_softClear (s := spanWrite s a b) h, ?_⟩
    · rw [poison_softClear] at h
      exact h
    · conv_lhs => rw [softClear_eq]
      rw [mem_softClear, poison_softClear]
      rfl
  · generalize ((spanLinear a b.length).zip b).foldl _ s.mem = m
    obtain ⟨h1, h2, h3⟩ := poisonClear_spec { s with mem := m } (spanLinear a b.length)
    refine ⟨h2, h3, ?_⟩
    conv_lhs => rw [h1]
    rw [mem_poisonClear]

/-! ## The two views (R29) -/

theorem linearOf_linear {a : Nat} (h : a < 0x10000000000) : linearOf a = a := by
  unfold linearOf
  rw [if_neg (by omega)]

theorem linearOf_outside {a : Nat} (h : 0x20000000000 ≤ a) : linearOf a = a := by
  unfold linearOf
  rw [if_neg (by omega)]

theorem linearOf_lt {a : Nat} (h : a < 0x20000000000) : linearOf a < 0x10000000000 := by
  unfold linearOf
  split
  · rename_i hc
    obtain ⟨p, rfl⟩ := Nat.exists_eq_add_of_le hc.1
    have hp : p < 0x10000000000 := by omega
    have h2 : p / 4096 / 8 * 4096 + p % 4096 < stackBytes := by unfold stackBytes; omega
    have h1 : p / 4096 % 8 + 1 ≤ 8 := by omega
    have h3 := Nat.mul_le_mul_right stackBytes h1
    rw [Nat.add_mul, Nat.one_mul] at h3
    simp only [Nat.add_sub_cancel_left, Nat.add_assoc]
    exact lt_of_lt_of_le (Nat.add_lt_add_left h2 _) h3
  · omega

/-- A number is split one way only into a multiple of a unit and a rest below it. -/
theorem mul_add_inj {u a b m n : Nat} (hm : m < u) (hn : n < u) (h : a * u + m = b * u + n) : a = b ∧ m = n := by
  have hu : 0 < u := by omega
  have ha : (a * u + m) / u = a := by rw [Nat.mul_comm, Nat.mul_add_div hu, Nat.div_eq_of_lt hm, Nat.add_zero]
  have hb : (b * u + n) / u = b := by rw [Nat.mul_comm, Nat.mul_add_div hu, Nat.div_eq_of_lt hn, Nat.add_zero]
  have e : a = b := by rw [← ha, h, hb]
  subst e
  exact ⟨rfl, by omega⟩

theorem linearOf_injective {x y : Nat} (hx : 0x10000000000 ≤ x) (hx' : x < 0x20000000000) (hy : 0x10000000000 ≤ y)
    (hy' : y < 0x20000000000) (h : linearOf x = linearOf y) : x = y := by
  obtain ⟨p, rfl⟩ := Nat.exists_eq_add_of_le hx
  obtain ⟨q, rfl⟩ := Nat.exists_eq_add_of_le hy
  have hp : p < 0x10000000000 := by omega
  have hq : q < 0x10000000000 := by omega
  unfold linearOf at h
  rw [if_pos ⟨hx, hx'⟩, if_pos ⟨hy, hy'⟩] at h
  simp only [Nat.add_sub_cancel_left, stackBytes, Nat.add_assoc] at h
  have bound : ∀ r : Nat, r < 0x10000000000 → r / 4096 / 8 * 4096 + r % 4096 < 0x2000000000 := by
    intro r hr
    omega
  obtain ⟨h1, h2⟩ := mul_add_inj (bound p hp) (bound q hq) h
  obtain ⟨h3, h4⟩ := mul_add_inj (Nat.mod_lt p (by decide)) (Nat.mod_lt q (by decide)) h2
  have e : p / 4096 = q / 4096 := by omega
  omega

theorem spanLinear_linear {a n : Nat} (h : a + n ≤ 0x10000000000) : spanLinear a n = (List.range n).map (a + ·) := by
  unfold spanLinear
  apply List.map_congr_left
  intro i hi
  rw [List.mem_range] at hi
  exact linearOf_linear (by omega)

theorem spanLinear_nodup {a n : Nat} (h : a + n ≤ 0x10000000000) : (spanLinear a n).Nodup := by
  rw [spanLinear_linear h]
  exact List.nodup_range.map fun x y h => Nat.add_left_cancel h

/-- Outside the interleaved view too, a span is contiguous. -/
theorem spanLinear_nodup_outside {a n : Nat} (h : 0x20000000000 ≤ a) : (spanLinear a n).Nodup := by
  unfold spanLinear
  rw [List.nodup_map_iff_inj_on List.nodup_range]
  intro x _ y _ e
  rw [linearOf_outside (by omega), linearOf_outside (by omega)] at e
  omega

end Sys2Proof.Machine
end

