-- ==== Sys2Proof/Laws/Registers.lean ====
section
/-! SUPPORT. The laws of the register file, the engines and the sessions: a read after a write. -/

namespace Sys2Proof.Machine

open Sys2Proof

/-! ## Bit fields -/

theorem getF_lt (w : Word) (hi lo : Nat) : getF w hi lo < 2 ^ (hi + 1 - lo) := Nat.mod_lt _ (Nat.two_pow_pos _)

/-- A field that was set reads as what was set. -/
theorem getF_setF_same (w : Word) {hi lo : Nat} (v : Nat) (h : lo ≤ hi) (h' : hi < 32) :
    getF (setF w hi lo v) hi lo = v % 2 ^ (hi + 1 - lo) := by
  apply Nat.eq_of_testBit_eq
  intro i
  simp only [getF, setF, Nat.testBit_mod_two_pow, Nat.testBit_shiftRight]
  by_cases hi' : i < hi + 1 - lo
  · have h1 : lo + i < 32 := by omega
    rw [← BitVec.getLsbD, BitVec.getLsbD_or, BitVec.getLsbD_and, BitVec.getLsbD_not]
    simp only [BitVec.getLsbD, BitVec.toNat_ofNat, Nat.testBit_mod_two_pow, Nat.testBit_shiftLeft, Nat.testBit_two_pow_sub_one,
      h1, decide_true, Bool.true_and, hi', Nat.add_sub_cancel_left, Nat.le_add_right, Nat.testBit_mod_two_pow]
    simp
  · simp [hi']

/-- Setting a field leaves every field apart from it alone. -/
theorem getF_setF_other (w : Word) {hi lo hi' lo' : Nat} (v : Nat) (h : hi' < lo ∨ hi < lo') (h1 : hi' < 32) :
    getF (setF w hi lo v) hi' lo' = getF w hi' lo' := by
  apply Nat.eq_of_testBit_eq
  intro i
  simp only [getF, setF, Nat.testBit_mod_two_pow, Nat.testBit_shiftRight]
  by_cases hi2 : i < hi' + 1 - lo'
  · have h2 : lo' + i < 32 := by omega
    rw [← BitVec.getLsbD, ← BitVec.getLsbD, BitVec.getLsbD_or, BitVec.getLsbD_and, BitVec.getLsbD_not]
    simp only [BitVec.getLsbD, BitVec.toNat_ofNat, Nat.testBit_mod_two_pow, Nat.testBit_shiftLeft, Nat.testBit_two_pow_sub_one,
      h2, decide_true, Bool.true_and, hi2]
    rcases h with h | h
    · have : ¬(lo ≤ lo' + i) := by omega
      simp [this]
    · have : ¬(lo' + i - lo < hi + 1 - lo) ∨ ¬ (lo ≤ lo' + i) := by omega
      rcases this with this | this <;> simp [this]
  · simp [hi2]

/-! ## Registers -/

theorem regGet_regSet_same {s : State} (h : swf resetWord s.regs = true) (a : Nat) (w : Word) :
    regGet (regSet s a w) a = w := sget_sset_same h a w

@[simp] theorem regGet_regSet_other (s : State) {a b : Nat} (w : Word) (h : b ≠ a) : regGet (regSet s a w) b = regGet s b :=
  sget_sset_other _ _ h

theorem swf_regSet {s : State} (h : swf resetWord s.regs = true) (a : Nat) (w : Word) :
    swf resetWord (regSet s a w).regs = true := swf_sset h a w

@[simp] theorem regF_regSet_other (s : State) {a b : Nat} (w : Word) (hi lo : Nat) (h : b ≠ a) :
    regF (regSet s a w) b hi lo = regF s b hi lo := by
  rw [regF, regGet_regSet_other s w h, regF]

theorem regF_lt (s : State) (a hi lo : Nat) : regF s a hi lo < 2 ^ (hi + 1 - lo) := getF_lt _ _ _

/-- A register field that was set reads as what was set. -/
theorem regF_regSetF_same {s : State} (h : swf resetWord s.regs = true) (a : Nat) {hi lo : Nat} (v : Nat) (hl : lo ≤ hi)
    (hh : hi < 32) : regF (regSetF s a hi lo v) a hi lo = v % 2 ^ (hi + 1 - lo) := by
  rw [regF, regSetF, regGet_regSet_same h]
  exact getF_setF_same _ v hl hh

/-- The other fields of the register, and the other registers, stay. -/
theorem regF_regSetF_field {s : State} (h : swf resetWord s.regs = true) (a : Nat) {hi lo hi' lo' : Nat} (v : Nat)
    (hd : hi' < lo ∨ hi < lo') (hh : hi' < 32) : regF (regSetF s a hi lo v) a hi' lo' = regF s a hi' lo' := by
  rw [regF, regSetF, regGet_regSet_same h]
  exact getF_setF_other _ v hd hh

@[simp] theorem regGet_regSetF_other (s : State) {a b : Nat} (hi lo v : Nat) (h : b ≠ a) :
    regGet (regSetF s a hi lo v) b = regGet s b := regGet_regSet_other s _ h

@[simp] theorem regGet_regCount_other (s : State) {a b : Nat} (hi lo n : Nat) (h : b ≠ a) :
    regGet (regCount s a hi lo n) b = regGet s b := regGet_regSet_other s _ h

@[simp] theorem regGet_regWrap_other (s : State) {a b : Nat} (hi lo n : Nat) (h : b ≠ a) :
    regGet (regWrap s a hi lo n) b = regGet s b := regGet_regSet_other s _ h

/-- A saturating counter adds and stops at its largest value. -/
theorem regF_regCount_same {s : State} (h : swf resetWord s.regs = true) (a : Nat) {hi lo : Nat} (n : Nat) (hl : lo ≤ hi)
    (hh : hi < 32) : regF (regCount s a hi lo n) a hi lo = min (2 ^ (hi + 1 - lo) - 1) (regF s a hi lo + n) := by
  rw [regCount, regF_regSetF_same h a _ hl hh, satAdd]
  apply Nat.mod_eq_of_lt
  have := Nat.two_pow_pos (hi + 1 - lo)
  omega

/-- A wrapping counter adds modulo its width. -/
theorem regF_regWrap_same {s : State} (h : swf resetWord s.regs = true) (a : Nat) {hi lo : Nat} (n : Nat) (hl : lo ≤ hi)
    (hh : hi < 32) : regF (regWrap s a hi lo n) a hi lo = (regF s a hi lo + n) % 2 ^ (hi + 1 - lo) := by
  rw [regWrap, regF_regSetF_same h a _ hl hh]

/-- At reset every register reads its reset value. -/
@[simp] theorem regGet_reset (a : Nat) : regGet State.reset a = resetWord a := rfl

/-! ## Engines -/

theorem engGet_engSet_same {s : State} (h : swf (fun _ => ({} : Engine)) s.engines = true) (e : Nat) (x : Engine) :
    engGet (engSet s e x) e = x := sget_sset_same h e x

@[simp] theorem engGet_engSet_other (s : State) {e f : Nat} (x : Engine) (h : f ≠ e) : engGet (engSet s e x) f = engGet s f :=
  sget_sset_other _ _ h

theorem swf_engSet {s : State} (h : swf (fun _ => ({} : Engine)) s.engines = true) (e : Nat) (x : Engine) :
    swf (fun _ => ({} : Engine)) (engSet s e x).engines = true := swf_sset h e x

/-! ## Sessions -/

theorem sessGet_sessSet_same (s : State) (n : Nat) (x : Session) :
    sessGet (sessSet s n x) n = if x.closed = true then none else some x := by
  unfold sessGet sessSet
  rw [sfind_sput_same]
  cases h : x.closed <;> simp [Option.filter, h]

@[simp] theorem sessGet_sessSet_other (s : State) {n k : Nat} (x : Session) (h : k ≠ n) :
    sessGet (sessSet s n x) k = sessGet s k := by
  unfold sessGet sessSet
  rw [sfind_sput_other _ _ h]

theorem keysRise_sessSet {s : State} (h : keysRise s.sessions = true) (n : Nat) (x : Session) :
    keysRise (sessSet s n x).sessions = true := keysRise_sput h n x

theorem sessMap_some {s : State} {n : Nat} {x : Session} (h : sessGet s n = some x) (f : Session → Session) :
    sessMap s n f = sessSet s n (f x) := by simp [sessMap, h]

theorem sessMap_none {s : State} {n : Nat} (h : sessGet s n = none) (f : Session → Session) : sessMap s n f = s := by
  simp [sessMap, h]

@[simp] theorem sessGet_sessMap_other (s : State) {n k : Nat} (f : Session → Session) (h : k ≠ n) :
    sessGet (sessMap s n f) k = sessGet s k := by
  unfold sessMap
  split
  · exact sessGet_sessSet_other s _ h
  · rfl

/-! ## Contexts -/

@[simp] theorem ctxGet_ctxFree_same (s : State) (n : Nat) : ctxGet (ctxFree s n) n = none := by
  simp [ctxGet, ctxFree, List.find?_eq_none]

end Sys2Proof.Machine
end

