-- ==== Sys2Proof/Laws/State.lean ====
section
/-! SUPPORT. What each named update of the state leaves alone: one lemma per field, so that no proof unfolds an
update. The updates over these (regSetF, regCount, regWrap, logOther) have one lemma that writes them as one of
these. -/

namespace Sys2Proof.Machine

open Sys2Proof

variable (s : State)

theorem regSetF_eq (a hi lo v : Nat) : regSetF s a hi lo v = regSet s a (setF (regGet s a) hi lo v) := rfl

theorem regCount_eq (a hi lo n : Nat) :
    regCount s a hi lo n = regSet s a (setF (regGet s a) hi lo (satAdd (2 ^ (hi + 1 - lo) - 1) (regF s a hi lo) n)) := rfl

theorem regWrap_eq (a hi lo n : Nat) :
    regWrap s a hi lo n = regSet s a (setF (regGet s a) hi lo (regF s a hi lo + n)) := rfl

theorem logOther_eq (u : BitVec 16) (n : Option Nat) (r : Nat) : logOther s u n r = logEvent s 0x0FFF u n (toLE r 2) := rfl

/-! ## regSet -/

@[simp] theorem regSet_pending (a : Nat) (w : Word) : (regSet s a w).pending = s.pending := rfl
@[simp] theorem regSet_out (a : Nat) (w : Word) : (regSet s a w).out = s.out := rfl
@[simp] theorem regSet_freeCtr (a : Nat) (w : Word) : (regSet s a w).freeCtr = s.freeCtr := rfl
@[simp] theorem regSet_clock (a : Nat) (w : Word) : (regSet s a w).clock = s.clock := rfl
@[simp] theorem regSet_beats (a : Nat) (w : Word) : (regSet s a w).beats = s.beats := rfl
@[simp] theorem regSet_votes (a : Nat) (w : Word) : (regSet s a w).votes = s.votes := rfl
@[simp] theorem regSet_noticeNext (a : Nat) (w : Word) : (regSet s a w).noticeNext = s.noticeNext := rfl
@[simp] theorem regSet_regsNext (a : Nat) (w : Word) : (regSet s a w).regsNext = s.regsNext := rfl
@[simp] theorem regSet_mem (a : Nat) (w : Word) : (regSet s a w).mem = s.mem := rfl
@[simp] theorem regSet_poison (a : Nat) (w : Word) : (regSet s a w).poison = s.poison := rfl
@[simp] theorem regSet_taint (a : Nat) (w : Word) : (regSet s a w).taint = s.taint := rfl
@[simp] theorem regSet_soft (a : Nat) (w : Word) : (regSet s a w).soft = s.soft := rfl
@[simp] theorem regSet_flitReads (a : Nat) (w : Word) : (regSet s a w).flitReads = s.flitReads := rfl
@[simp] theorem regSet_agenda (a : Nat) (w : Word) : (regSet s a w).agenda = s.agenda := rfl
@[simp] theorem regSet_stores (a : Nat) (w : Word) : (regSet s a w).stores = s.stores := rfl
@[simp] theorem regSet_lateEnd (a : Nat) (w : Word) : (regSet s a w).lateEnd = s.lateEnd := rfl
@[simp] theorem regSet_trees (a : Nat) (w : Word) : (regSet s a w).trees = s.trees := rfl
@[simp] theorem regSet_moves (a : Nat) (w : Word) : (regSet s a w).moves = s.moves := rfl
@[simp] theorem regSet_qc (a : Nat) (w : Word) : (regSet s a w).qc = s.qc := rfl
@[simp] theorem regSet_ports (a : Nat) (w : Word) : (regSet s a w).ports = s.ports := rfl
@[simp] theorem regSet_saks (a : Nat) (w : Word) : (regSet s a w).saks = s.saks := rfl
@[simp] theorem regSet_pauses (a : Nat) (w : Word) : (regSet s a w).pauses = s.pauses := rfl
@[simp] theorem regSet_sessions (a : Nat) (w : Word) : (regSet s a w).sessions = s.sessions := rfl
@[simp] theorem regSet_xoff (a : Nat) (w : Word) : (regSet s a w).xoff = s.xoff := rfl
@[simp] theorem regSet_heldOut (a : Nat) (w : Word) : (regSet s a w).heldOut = s.heldOut := rfl
@[simp] theorem regSet_bootCount (a : Nat) (w : Word) : (regSet s a w).bootCount = s.bootCount := rfl
@[simp] theorem regSet_posts (a : Nat) (w : Word) : (regSet s a w).posts = s.posts := rfl
@[simp] theorem regSet_lateReplies (a : Nat) (w : Word) : (regSet s a w).lateReplies = s.lateReplies := rfl
@[simp] theorem regSet_challenges (a : Nat) (w : Word) : (regSet s a w).challenges = s.challenges := rfl
@[simp] theorem regSet_reservations (a : Nat) (w : Word) : (regSet s a w).reservations = s.reservations := rfl
@[simp] theorem regSet_bootMemo (a : Nat) (w : Word) : (regSet s a w).bootMemo = s.bootMemo := rfl
@[simp] theorem regSet_deferred (a : Nat) (w : Word) : (regSet s a w).deferred = s.deferred := rfl
@[simp] theorem regSet_lateCmds (a : Nat) (w : Word) : (regSet s a w).lateCmds = s.lateCmds := rfl
@[simp] theorem regSet_turns (a : Nat) (w : Word) : (regSet s a w).turns = s.turns := rfl
@[simp] theorem regSet_parting (a : Nat) (w : Word) : (regSet s a w).parting = s.parting := rfl
@[simp] theorem regSet_node (a : Nat) (w : Word) : (regSet s a w).node = s.node := rfl
@[simp] theorem regSet_nodes (a : Nat) (w : Word) : (regSet s a w).nodes = s.nodes := rfl
@[simp] theorem regSet_group (a : Nat) (w : Word) : (regSet s a w).group = s.group := rfl
@[simp] theorem regSet_images (a : Nat) (w : Word) : (regSet s a w).images = s.images := rfl
@[simp] theorem regSet_imageOps (a : Nat) (w : Word) : (regSet s a w).imageOps = s.imageOps := rfl
@[simp] theorem regSet_ctxs (a : Nat) (w : Word) : (regSet s a w).ctxs = s.ctxs := rfl
@[simp] theorem regSet_waiting (a : Nat) (w : Word) : (regSet s a w).waiting = s.waiting := rfl
@[simp] theorem regSet_starting (a : Nat) (w : Word) : (regSet s a w).starting = s.starting := rfl
@[simp] theorem regSet_passes (a : Nat) (w : Word) : (regSet s a w).passes = s.passes := rfl
@[simp] theorem regSet_saves (a : Nat) (w : Word) : (regSet s a w).saves = s.saves := rfl
@[simp] theorem regSet_restores (a : Nat) (w : Word) : (regSet s a w).restores = s.restores := rfl
@[simp] theorem regSet_pages (a : Nat) (w : Word) : (regSet s a w).pages = s.pages := rfl
@[simp] theorem regSet_engines (a : Nat) (w : Word) : (regSet s a w).engines = s.engines := rfl
@[simp] theorem regSet_unitErrs (a : Nat) (w : Word) : (regSet s a w).unitErrs = s.unitErrs := rfl
@[simp] theorem regSet_unitCause (a : Nat) (w : Word) : (regSet s a w).unitCause = s.unitCause := rfl
@[simp] theorem regSet_codecCause (a : Nat) (w : Word) : (regSet s a w).codecCause = s.codecCause := rfl
@[simp] theorem regSet_unitPass (a : Nat) (w : Word) : (regSet s a w).unitPass = s.unitPass := rfl
@[simp] theorem regSet_codecPass (a : Nat) (w : Word) : (regSet s a w).codecPass = s.codecPass := rfl
@[simp] theorem regSet_fencedUnits (a : Nat) (w : Word) : (regSet s a w).fencedUnits = s.fencedUnits := rfl
@[simp] theorem regSet_calNext (a : Nat) (w : Word) : (regSet s a w).calNext = s.calNext := rfl
@[simp] theorem regSet_codecNext (a : Nat) (w : Word) : (regSet s a w).codecNext = s.codecNext := rfl
@[simp] theorem regSet_lateStacks (a : Nat) (w : Word) : (regSet s a w).lateStacks = s.lateStacks := rfl
@[simp] theorem regSet_lates (a : Nat) (w : Word) : (regSet s a w).lates = s.lates := rfl
@[simp] theorem regSet_fails (a : Nat) (w : Word) : (regSet s a w).fails = s.fails := rfl
@[simp] theorem regSet_pauseCtx (a : Nat) (w : Word) : (regSet s a w).pauseCtx = s.pauseCtx := rfl
@[simp] theorem regSet_regionErrs (a : Nat) (w : Word) : (regSet s a w).regionErrs = s.regionErrs := rfl
@[simp] theorem regSet_retired (a : Nat) (w : Word) : (regSet s a w).retired = s.retired := rfl
@[simp] theorem regSet_withheld (a : Nat) (w : Word) : (regSet s a w).withheld = s.withheld := rfl
@[simp] theorem regSet_retireNext (a : Nat) (w : Word) : (regSet s a w).retireNext = s.retireNext := rfl
@[simp] theorem regSet_streams (a : Nat) (w : Word) : (regSet s a w).streams = s.streams := rfl
@[simp] theorem regSet_frameSeq (a : Nat) (w : Word) : (regSet s a w).frameSeq = s.frameSeq := rfl
@[simp] theorem regSet_running (a : Nat) (w : Word) : (regSet s a w).running = s.running := rfl
@[simp] theorem regSet_disc (a : Nat) (w : Word) : (regSet s a w).disc = s.disc := rfl
@[simp] theorem regSet_power (a : Nat) (w : Word) : (regSet s a w).power = s.power := rfl
@[simp] theorem regSet_refresh (a : Nat) (w : Word) : (regSet s a w).refresh = s.refresh := rfl
@[simp] theorem regSet_flash (a : Nat) (w : Word) : (regSet s a w).flash = s.flash := rfl
@[simp] theorem regSet_atts (a : Nat) (w : Word) : (regSet s a w).atts = s.atts := rfl
@[simp] theorem regSet_reportSeq (a : Nat) (w : Word) : (regSet s a w).reportSeq = s.reportSeq := rfl
@[simp] theorem regSet_diag (a : Nat) (w : Word) : (regSet s a w).diag = s.diag := rfl
@[simp] theorem regSet_diagLog (a : Nat) (w : Word) : (regSet s a w).diagLog = s.diagLog := rfl
@[simp] theorem regSet_tap (a : Nat) (w : Word) : (regSet s a w).tap = s.tap := rfl
@[simp] theorem regSet_events (a : Nat) (w : Word) : (regSet s a w).events = s.events := rfl
@[simp] theorem regSet_nextSeq (a : Nat) (w : Word) : (regSet s a w).nextSeq = s.nextSeq := rfl
@[simp] theorem regSet_counters (a : Nat) (w : Word) : (regSet s a w).counters = s.counters := rfl
@[simp] theorem regSet_snap (a : Nat) (w : Word) : (regSet s a w).snap = s.snap := rfl
@[simp] theorem regSet_mirrorNext (a : Nat) (w : Word) : (regSet s a w).mirrorNext = s.mirrorNext := rfl
@[simp] theorem regSet_mirrorSums (a : Nat) (w : Word) : (regSet s a w).mirrorSums = s.mirrorSums := rfl
@[simp] theorem regSet_correcting (a : Nat) (w : Word) : (regSet s a w).correcting = s.correcting := rfl

/-! ## emit -/

@[simp] theorem emit_pending (o : Output) : (emit s o).pending = s.pending := rfl
@[simp] theorem emit_freeCtr (o : Output) : (emit s o).freeCtr = s.freeCtr := rfl
@[simp] theorem emit_clock (o : Output) : (emit s o).clock = s.clock := rfl
@[simp] theorem emit_beats (o : Output) : (emit s o).beats = s.beats := rfl
@[simp] theorem emit_regs (o : Output) : (emit s o).regs = s.regs := rfl
@[simp] theorem emit_votes (o : Output) : (emit s o).votes = s.votes := rfl
@[simp] theorem emit_noticeNext (o : Output) : (emit s o).noticeNext = s.noticeNext := rfl
@[simp] theorem emit_regsNext (o : Output) : (emit s o).regsNext = s.regsNext := rfl
@[simp] theorem emit_mem (o : Output) : (emit s o).mem = s.mem := rfl
@[simp] theorem emit_poison (o : Output) : (emit s o).poison = s.poison := rfl
@[simp] theorem emit_taint (o : Output) : (emit s o).taint = s.taint := rfl
@[simp] theorem emit_soft (o : Output) : (emit s o).soft = s.soft := rfl
@[simp] theorem emit_flitReads (o : Output) : (emit s o).flitReads = s.flitReads := rfl
@[simp] theorem emit_agenda (o : Output) : (emit s o).agenda = s.agenda := rfl
@[simp] theorem emit_stores (o : Output) : (emit s o).stores = s.stores := rfl
@[simp] theorem emit_lateEnd (o : Output) : (emit s o).lateEnd = s.lateEnd := rfl
@[simp] theorem emit_trees (o : Output) : (emit s o).trees = s.trees := rfl
@[simp] theorem emit_moves (o : Output) : (emit s o).moves = s.moves := rfl
@[simp] theorem emit_qc (o : Output) : (emit s o).qc = s.qc := rfl
@[simp] theorem emit_ports (o : Output) : (emit s o).ports = s.ports := rfl
@[simp] theorem emit_saks (o : Output) : (emit s o).saks = s.saks := rfl
@[simp] theorem emit_pauses (o : Output) : (emit s o).pauses = s.pauses := rfl
@[simp] theorem emit_sessions (o : Output) : (emit s o).sessions = s.sessions := rfl
@[simp] theorem emit_xoff (o : Output) : (emit s o).xoff = s.xoff := rfl
@[simp] theorem emit_heldOut (o : Output) : (emit s o).heldOut = s.heldOut := rfl
@[simp] theorem emit_bootCount (o : Output) : (emit s o).bootCount = s.bootCount := rfl
@[simp] theorem emit_posts (o : Output) : (emit s o).posts = s.posts := rfl
@[simp] theorem emit_lateReplies (o : Output) : (emit s o).lateReplies = s.lateReplies := rfl
@[simp] theorem emit_challenges (o : Output) : (emit s o).challenges = s.challenges := rfl
@[simp] theorem emit_reservations (o : Output) : (emit s o).reservations = s.reservations := rfl
@[simp] theorem emit_bootMemo (o : Output) : (emit s o).bootMemo = s.bootMemo := rfl
@[simp] theorem emit_deferred (o : Output) : (emit s o).deferred = s.deferred := rfl
@[simp] theorem emit_lateCmds (o : Output) : (emit s o).lateCmds = s.lateCmds := rfl
@[simp] theorem emit_turns (o : Output) : (emit s o).turns = s.turns := rfl
@[simp] theorem emit_parting (o : Output) : (emit s o).parting = s.parting := rfl
@[simp] theorem emit_node (o : Output) : (emit s o).node = s.node := rfl
@[simp] theorem emit_nodes (o : Output) : (emit s o).nodes = s.nodes := rfl
@[simp] theorem emit_group (o : Output) : (emit s o).group = s.group := rfl
@[simp] theorem emit_images (o : Output) : (emit s o).images = s.images := rfl
@[simp] theorem emit_imageOps (o : Output) : (emit s o).imageOps = s.imageOps := rfl
@[simp] theorem emit_ctxs (o : Output) : (emit s o).ctxs = s.ctxs := rfl
@[simp] theorem emit_waiting (o : Output) : (emit s o).waiting = s.waiting := rfl
@[simp] theorem emit_starting (o : Output) : (emit s o).starting = s.starting := rfl
@[simp] theorem emit_passes (o : Output) : (emit s o).passes = s.passes := rfl
@[simp] theorem emit_saves (o : Output) : (emit s o).saves = s.saves := rfl
@[simp] theorem emit_restores (o : Output) : (emit s o).restores = s.restores := rfl
@[simp] theorem emit_pages (o : Output) : (emit s o).pages = s.pages := rfl
@[simp] theorem emit_engines (o : Output) : (emit s o).engines = s.engines := rfl
@[simp] theorem emit_unitErrs (o : Output) : (emit s o).unitErrs = s.unitErrs := rfl
@[simp] theorem emit_unitCause (o : Output) : (emit s o).unitCause = s.unitCause := rfl
@[simp] theorem emit_codecCause (o : Output) : (emit s o).codecCause = s.codecCause := rfl
@[simp] theorem emit_unitPass (o : Output) : (emit s o).unitPass = s.unitPass := rfl
@[simp] theorem emit_codecPass (o : Output) : (emit s o).codecPass = s.codecPass := rfl
@[simp] theorem emit_fencedUnits (o : Output) : (emit s o).fencedUnits = s.fencedUnits := rfl
@[simp] theorem emit_calNext (o : Output) : (emit s o).calNext = s.calNext := rfl
@[simp] theorem emit_codecNext (o : Output) : (emit s o).codecNext = s.codecNext := rfl
@[simp] theorem emit_lateStacks (o : Output) : (emit s o).lateStacks = s.lateStacks := rfl
@[simp] theorem emit_lates (o : Output) : (emit s o).lates = s.lates := rfl
@[simp] theorem emit_fails (o : Output) : (emit s o).fails = s.fails := rfl
@[simp] theorem emit_pauseCtx (o : Output) : (emit s o).pauseCtx = s.pauseCtx := rfl
@[simp] theorem emit_regionErrs (o : Output) : (emit s o).regionErrs = s.regionErrs := rfl
@[simp] theorem emit_retired (o : Output) : (emit s o).retired = s.retired := rfl
@[simp] theorem emit_withheld (o : Output) : (emit s o).withheld = s.withheld := rfl
@[simp] theorem emit_retireNext (o : Output) : (emit s o).retireNext = s.retireNext := rfl
@[simp] theorem emit_streams (o : Output) : (emit s o).streams = s.streams := rfl
@[simp] theorem emit_frameSeq (o : Output) : (emit s o).frameSeq = s.frameSeq := rfl
@[simp] theorem emit_running (o : Output) : (emit s o).running = s.running := rfl
@[simp] theorem emit_disc (o : Output) : (emit s o).disc = s.disc := rfl
@[simp] theorem emit_power (o : Output) : (emit s o).power = s.power := rfl
@[simp] theorem emit_refresh (o : Output) : (emit s o).refresh = s.refresh := rfl
@[simp] theorem emit_flash (o : Output) : (emit s o).flash = s.flash := rfl
@[simp] theorem emit_atts (o : Output) : (emit s o).atts = s.atts := rfl
@[simp] theorem emit_reportSeq (o : Output) : (emit s o).reportSeq = s.reportSeq := rfl
@[simp] theorem emit_diag (o : Output) : (emit s o).diag = s.diag := rfl
@[simp] theorem emit_diagLog (o : Output) : (emit s o).diagLog = s.diagLog := rfl
@[simp] theorem emit_tap (o : Output) : (emit s o).tap = s.tap := rfl
@[simp] theorem emit_events (o : Output) : (emit s o).events = s.events := rfl
@[simp] theorem emit_nextSeq (o : Output) : (emit s o).nextSeq = s.nextSeq := rfl
@[simp] theorem emit_counters (o : Output) : (emit s o).counters = s.counters := rfl
@[simp] theorem emit_snap (o : Output) : (emit s o).snap = s.snap := rfl
@[simp] theorem emit_mirrorNext (o : Output) : (emit s o).mirrorNext = s.mirrorNext := rfl
@[simp] theorem emit_mirrorSums (o : Output) : (emit s o).mirrorSums = s.mirrorSums := rfl
@[simp] theorem emit_correcting (o : Output) : (emit s o).correcting = s.correcting := rfl

/-! ## logEvent -/

@[simp] theorem logEvent_pending (c : Nat) (u : BitVec 16) (n : Option Nat) (d : Bytes) : (logEvent s c u n d).pending = s.pending := rfl
@[simp] theorem logEvent_out (c : Nat) (u : BitVec 16) (n : Option Nat) (d : Bytes) : (logEvent s c u n d).out = s.out := rfl
@[simp] theorem logEvent_freeCtr (c : Nat) (u : BitVec 16) (n : Option Nat) (d : Bytes) : (logEvent s c u n d).freeCtr = s.freeCtr := rfl
@[simp] theorem logEvent_clock (c : Nat) (u : BitVec 16) (n : Option Nat) (d : Bytes) : (logEvent s c u n d).clock = s.clock := rfl
@[simp] theorem logEvent_beats (c : Nat) (u : BitVec 16) (n : Option Nat) (d : Bytes) : (logEvent s c u n d).beats = s.beats := rfl
@[simp] theorem logEvent_regs (c : Nat) (u : BitVec 16) (n : Option Nat) (d : Bytes) : (logEvent s c u n d).regs = s.regs := rfl
@[simp] theorem logEvent_votes (c : Nat) (u : BitVec 16) (n : Option Nat) (d : Bytes) : (logEvent s c u n d).votes = s.votes := rfl
@[simp] theorem logEvent_noticeNext (c : Nat) (u : BitVec 16) (n : Option Nat) (d : Bytes) : (logEvent s c u n d).noticeNext = s.noticeNext := rfl
@[simp] theorem logEvent_regsNext (c : Nat) (u : BitVec 16) (n : Option Nat) (d : Bytes) : (logEvent s c u n d).regsNext = s.regsNext := rfl
@[simp] theorem logEvent_mem (c : Nat) (u : BitVec 16) (n : Option Nat) (d : Bytes) : (logEvent s c u n d).mem = s.mem := rfl
@[simp] theorem logEvent_poison (c : Nat) (u : BitVec 16) (n : Option Nat) (d : Bytes) : (logEvent s c u n d).poison = s.poison := rfl
@[simp] theorem logEvent_taint (c : Nat) (u : BitVec 16) (n : Option Nat) (d : Bytes) : (logEvent s c u n d).taint = s.taint := rfl
@[simp] theorem logEvent_soft (c : Nat) (u : BitVec 16) (n : Option Nat) (d : Bytes) : (logEvent s c u n d).soft = s.soft := rfl
@[simp] theorem logEvent_flitReads (c : Nat) (u : BitVec 16) (n : Option Nat) (d : Bytes) : (logEvent s c u n d).flitReads = s.flitReads := rfl
@[simp] theorem logEvent_agenda (c : Nat) (u : BitVec 16) (n : Option Nat) (d : Bytes) : (logEvent s c u n d).agenda = s.agenda := rfl
@[simp] theorem logEvent_stores (c : Nat) (u : BitVec 16) (n : Option Nat) (d : Bytes) : (logEvent s c u n d).stores = s.stores := rfl
@[simp] theorem logEvent_lateEnd (c : Nat) (u : BitVec 16) (n : Option Nat) (d : Bytes) : (logEvent s c u n d).lateEnd = s.lateEnd := rfl
@[simp] theorem logEvent_trees (c : Nat) (u : BitVec 16) (n : Option Nat) (d : Bytes) : (logEvent s c u n d).trees = s.trees := rfl
@[simp] theorem logEvent_moves (c : Nat) (u : BitVec 16) (n : Option Nat) (d : Bytes) : (logEvent s c u n d).moves = s.moves := rfl
@[simp] theorem logEvent_qc (c : Nat) (u : BitVec 16) (n : Option Nat) (d : Bytes) : (logEvent s c u n d).qc = s.qc := rfl
@[simp] theorem logEvent_ports (c : Nat) (u : BitVec 16) (n : Option Nat) (d : Bytes) : (logEvent s c u n d).ports = s.ports := rfl
@[simp] theorem logEvent_saks (c : Nat) (u : BitVec 16) (n : Option Nat) (d : Bytes) : (logEvent s c u n d).saks = s.saks := rfl
@[simp] theorem logEvent_pauses (c : Nat) (u : BitVec 16) (n : Option Nat) (d : Bytes) : (logEvent s c u n d).pauses = s.pauses := rfl
@[simp] theorem logEvent_sessions (c : Nat) (u : BitVec 16) (n : Option Nat) (d : Bytes) : (logEvent s c u n d).sessions = s.sessions := rfl
@[simp] theorem logEvent_xoff (c : Nat) (u : BitVec 16) (n : Option Nat) (d : Bytes) : (logEvent s c u n d).xoff = s.xoff := rfl
@[simp] theorem logEvent_heldOut (c : Nat) (u : BitVec 16) (n : Option Nat) (d : Bytes) : (logEvent s c u n d).heldOut = s.heldOut := rfl
@[simp] theorem logEvent_bootCount (c : Nat) (u : BitVec 16) (n : Option Nat) (d : Bytes) : (logEvent s c u n d).bootCount = s.bootCount := rfl
@[simp] theorem logEvent_posts (c : Nat) (u : BitVec 16) (n : Option Nat) (d : Bytes) : (logEvent s c u n d).posts = s.posts := rfl
@[simp] theorem logEvent_lateReplies (c : Nat) (u : BitVec 16) (n : Option Nat) (d : Bytes) : (logEvent s c u n d).lateReplies = s.lateReplies := rfl
@[simp] theorem logEvent_challenges (c : Nat) (u : BitVec 16) (n : Option Nat) (d : Bytes) : (logEvent s c u n d).challenges = s.challenges := rfl
@[simp] theorem logEvent_reservations (c : Nat) (u : BitVec 16) (n : Option Nat) (d : Bytes) : (logEvent s c u n d).reservations = s.reservations := rfl
@[simp] theorem logEvent_bootMemo (c : Nat) (u : BitVec 16) (n : Option Nat) (d : Bytes) : (logEvent s c u n d).bootMemo = s.bootMemo := rfl
@[simp] theorem logEvent_deferred (c : Nat) (u : BitVec 16) (n : Option Nat) (d : Bytes) : (logEvent s c u n d).deferred = s.deferred := rfl
@[simp] theorem logEvent_lateCmds (c : Nat) (u : BitVec 16) (n : Option Nat) (d : Bytes) : (logEvent s c u n d).lateCmds = s.lateCmds := rfl
@[simp] theorem logEvent_turns (c : Nat) (u : BitVec 16) (n : Option Nat) (d : Bytes) : (logEvent s c u n d).turns = s.turns := rfl
@[simp] theorem logEvent_parting (c : Nat) (u : BitVec 16) (n : Option Nat) (d : Bytes) : (logEvent s c u n d).parting = s.parting := rfl
@[simp] theorem logEvent_node (c : Nat) (u : BitVec 16) (n : Option Nat) (d : Bytes) : (logEvent s c u n d).node = s.node := rfl
@[simp] theorem logEvent_nodes (c : Nat) (u : BitVec 16) (n : Option Nat) (d : Bytes) : (logEvent s c u n d).nodes = s.nodes := rfl
@[simp] theorem logEvent_group (c : Nat) (u : BitVec 16) (n : Option Nat) (d : Bytes) : (logEvent s c u n d).group = s.group := rfl
@[simp] theorem logEvent_images (c : Nat) (u : BitVec 16) (n : Option Nat) (d : Bytes) : (logEvent s c u n d).images = s.images := rfl
@[simp] theorem logEvent_imageOps (c : Nat) (u : BitVec 16) (n : Option Nat) (d : Bytes) : (logEvent s c u n d).imageOps = s.imageOps := rfl
@[simp] theorem logEvent_ctxs (c : Nat) (u : BitVec 16) (n : Option Nat) (d : Bytes) : (logEvent s c u n d).ctxs = s.ctxs := rfl
@[simp] theorem logEvent_waiting (c : Nat) (u : BitVec 16) (n : Option Nat) (d : Bytes) : (logEvent s c u n d).waiting = s.waiting := rfl
@[simp] theorem logEvent_starting (c : Nat) (u : BitVec 16) (n : Option Nat) (d : Bytes) : (logEvent s c u n d).starting = s.starting := rfl
@[simp] theorem logEvent_passes (c : Nat) (u : BitVec 16) (n : Option Nat) (d : Bytes) : (logEvent s c u n d).passes = s.passes := rfl
@[simp] theorem logEvent_saves (c : Nat) (u : BitVec 16) (n : Option Nat) (d : Bytes) : (logEvent s c u n d).saves = s.saves := rfl
@[simp] theorem logEvent_restores (c : Nat) (u : BitVec 16) (n : Option Nat) (d : Bytes) : (logEvent s c u n d).restores = s.restores := rfl
@[simp] theorem logEvent_pages (c : Nat) (u : BitVec 16) (n : Option Nat) (d : Bytes) : (logEvent s c u n d).pages = s.pages := rfl
@[simp] theorem logEvent_engines (c : Nat) (u : BitVec 16) (n : Option Nat) (d : Bytes) : (logEvent s c u n d).engines = s.engines := rfl
@[simp] theorem logEvent_unitErrs (c : Nat) (u : BitVec 16) (n : Option Nat) (d : Bytes) : (logEvent s c u n d).unitErrs = s.unitErrs := rfl
@[simp] theorem logEvent_unitCause (c : Nat) (u : BitVec 16) (n : Option Nat) (d : Bytes) : (logEvent s c u n d).unitCause = s.unitCause := rfl
@[simp] theorem logEvent_codecCause (c : Nat) (u : BitVec 16) (n : Option Nat) (d : Bytes) : (logEvent s c u n d).codecCause = s.codecCause := rfl
@[simp] theorem logEvent_unitPass (c : Nat) (u : BitVec 16) (n : Option Nat) (d : Bytes) : (logEvent s c u n d).unitPass = s.unitPass := rfl
@[simp] theorem logEvent_codecPass (c : Nat) (u : BitVec 16) (n : Option Nat) (d : Bytes) : (logEvent s c u n d).codecPass = s.codecPass := rfl
@[simp] theorem logEvent_fencedUnits (c : Nat) (u : BitVec 16) (n : Option Nat) (d : Bytes) : (logEvent s c u n d).fencedUnits = s.fencedUnits := rfl
@[simp] theorem logEvent_calNext (c : Nat) (u : BitVec 16) (n : Option Nat) (d : Bytes) : (logEvent s c u n d).calNext = s.calNext := rfl
@[simp] theorem logEvent_codecNext (c : Nat) (u : BitVec 16) (n : Option Nat) (d : Bytes) : (logEvent s c u n d).codecNext = s.codecNext := rfl
@[simp] theorem logEvent_lateStacks (c : Nat) (u : BitVec 16) (n : Option Nat) (d : Bytes) : (logEvent s c u n d).lateStacks = s.lateStacks := rfl
@[simp] theorem logEvent_lates (c : Nat) (u : BitVec 16) (n : Option Nat) (d : Bytes) : (logEvent s c u n d).lates = s.lates := rfl
@[simp] theorem logEvent_fails (c : Nat) (u : BitVec 16) (n : Option Nat) (d : Bytes) : (logEvent s c u n d).fails = s.fails := rfl
@[simp] theorem logEvent_pauseCtx (c : Nat) (u : BitVec 16) (n : Option Nat) (d : Bytes) : (logEvent s c u n d).pauseCtx = s.pauseCtx := rfl
@[simp] theorem logEvent_regionErrs (c : Nat) (u : BitVec 16) (n : Option Nat) (d : Bytes) : (logEvent s c u n d).regionErrs = s.regionErrs := rfl
@[simp] theorem logEvent_retired (c : Nat) (u : BitVec 16) (n : Option Nat) (d : Bytes) : (logEvent s c u n d).retired = s.retired := rfl
@[simp] theorem logEvent_withheld (c : Nat) (u : BitVec 16) (n : Option Nat) (d : Bytes) : (logEvent s c u n d).withheld = s.withheld := rfl
@[simp] theorem logEvent_retireNext (c : Nat) (u : BitVec 16) (n : Option Nat) (d : Bytes) : (logEvent s c u n d).retireNext = s.retireNext := rfl
@[simp] theorem logEvent_streams (c : Nat) (u : BitVec 16) (n : Option Nat) (d : Bytes) : (logEvent s c u n d).streams = s.streams := rfl
@[simp] theorem logEvent_frameSeq (c : Nat) (u : BitVec 16) (n : Option Nat) (d : Bytes) : (logEvent s c u n d).frameSeq = s.frameSeq := rfl
@[simp] theorem logEvent_running (c : Nat) (u : BitVec 16) (n : Option Nat) (d : Bytes) : (logEvent s c u n d).running = s.running := rfl
@[simp] theorem logEvent_disc (c : Nat) (u : BitVec 16) (n : Option Nat) (d : Bytes) : (logEvent s c u n d).disc = s.disc := rfl
@[simp] theorem logEvent_power (c : Nat) (u : BitVec 16) (n : Option Nat) (d : Bytes) : (logEvent s c u n d).power = s.power := rfl
@[simp] theorem logEvent_refresh (c : Nat) (u : BitVec 16) (n : Option Nat) (d : Bytes) : (logEvent s c u n d).refresh = s.refresh := rfl
@[simp] theorem logEvent_flash (c : Nat) (u : BitVec 16) (n : Option Nat) (d : Bytes) : (logEvent s c u n d).flash = s.flash := rfl
@[simp] theorem logEvent_atts (c : Nat) (u : BitVec 16) (n : Option Nat) (d : Bytes) : (logEvent s c u n d).atts = s.atts := rfl
@[simp] theorem logEvent_reportSeq (c : Nat) (u : BitVec 16) (n : Option Nat) (d : Bytes) : (logEvent s c u n d).reportSeq = s.reportSeq := rfl
@[simp] theorem logEvent_diag (c : Nat) (u : BitVec 16) (n : Option Nat) (d : Bytes) : (logEvent s c u n d).diag = s.diag := rfl
@[simp] theorem logEvent_diagLog (c : Nat) (u : BitVec 16) (n : Option Nat) (d : Bytes) : (logEvent s c u n d).diagLog = s.diagLog := rfl
@[simp] theorem logEvent_tap (c : Nat) (u : BitVec 16) (n : Option Nat) (d : Bytes) : (logEvent s c u n d).tap = s.tap := rfl
@[simp] theorem logEvent_counters (c : Nat) (u : BitVec 16) (n : Option Nat) (d : Bytes) : (logEvent s c u n d).counters = s.counters := rfl
@[simp] theorem logEvent_snap (c : Nat) (u : BitVec 16) (n : Option Nat) (d : Bytes) : (logEvent s c u n d).snap = s.snap := rfl
@[simp] theorem logEvent_mirrorNext (c : Nat) (u : BitVec 16) (n : Option Nat) (d : Bytes) : (logEvent s c u n d).mirrorNext = s.mirrorNext := rfl
@[simp] theorem logEvent_mirrorSums (c : Nat) (u : BitVec 16) (n : Option Nat) (d : Bytes) : (logEvent s c u n d).mirrorSums = s.mirrorSums := rfl
@[simp] theorem logEvent_correcting (c : Nat) (u : BitVec 16) (n : Option Nat) (d : Bytes) : (logEvent s c u n d).correcting = s.correcting := rfl

/-! ## notice -/

@[simp] theorem notice_pending (i : Nat) : (notice s i).pending = s.pending := rfl
@[simp] theorem notice_out (i : Nat) : (notice s i).out = s.out := rfl
@[simp] theorem notice_freeCtr (i : Nat) : (notice s i).freeCtr = s.freeCtr := rfl
@[simp] theorem notice_clock (i : Nat) : (notice s i).clock = s.clock := rfl
@[simp] theorem notice_beats (i : Nat) : (notice s i).beats = s.beats := rfl
@[simp] theorem notice_regs (i : Nat) : (notice s i).regs = s.regs := rfl
@[simp] theorem notice_votes (i : Nat) : (notice s i).votes = s.votes := rfl
@[simp] theorem notice_regsNext (i : Nat) : (notice s i).regsNext = s.regsNext := rfl
@[simp] theorem notice_mem (i : Nat) : (notice s i).mem = s.mem := rfl
@[simp] theorem notice_poison (i : Nat) : (notice s i).poison = s.poison := rfl
@[simp] theorem notice_taint (i : Nat) : (notice s i).taint = s.taint := rfl
@[simp] theorem notice_soft (i : Nat) : (notice s i).soft = s.soft := rfl
@[simp] theorem notice_flitReads (i : Nat) : (notice s i).flitReads = s.flitReads := rfl
@[simp] theorem notice_agenda (i : Nat) : (notice s i).agenda = s.agenda := rfl
@[simp] theorem notice_stores (i : Nat) : (notice s i).stores = s.stores := rfl
@[simp] theorem notice_lateEnd (i : Nat) : (notice s i).lateEnd = s.lateEnd := rfl
@[simp] theorem notice_trees (i : Nat) : (notice s i).trees = s.trees := rfl
@[simp] theorem notice_moves (i : Nat) : (notice s i).moves = s.moves := rfl
@[simp] theorem notice_qc (i : Nat) : (notice s i).qc = s.qc := rfl
@[simp] theorem notice_ports (i : Nat) : (notice s i).ports = s.ports := rfl
@[simp] theorem notice_saks (i : Nat) : (notice s i).saks = s.saks := rfl
@[simp] theorem notice_pauses (i : Nat) : (notice s i).pauses = s.pauses := rfl
@[simp] theorem notice_sessions (i : Nat) : (notice s i).sessions = s.sessions := rfl
@[simp] theorem notice_xoff (i : Nat) : (notice s i).xoff = s.xoff := rfl
@[simp] theorem notice_heldOut (i : Nat) : (notice s i).heldOut = s.heldOut := rfl
@[simp] theorem notice_bootCount (i : Nat) : (notice s i).bootCount = s.bootCount := rfl
@[simp] theorem notice_posts (i : Nat) : (notice s i).posts = s.posts := rfl
@[simp] theorem notice_lateReplies (i : Nat) : (notice s i).lateReplies = s.lateReplies := rfl
@[simp] theorem notice_challenges (i : Nat) : (notice s i).challenges = s.challenges := rfl
@[simp] theorem notice_reservations (i : Nat) : (notice s i).reservations = s.reservations := rfl
@[simp] theorem notice_bootMemo (i : Nat) : (notice s i).bootMemo = s.bootMemo := rfl
@[simp] theorem notice_deferred (i : Nat) : (notice s i).deferred = s.deferred := rfl
@[simp] theorem notice_lateCmds (i : Nat) : (notice s i).lateCmds = s.lateCmds := rfl
@[simp] theorem notice_turns (i : Nat) : (notice s i).turns = s.turns := rfl
@[simp] theorem notice_parting (i : Nat) : (notice s i).parting = s.parting := rfl
@[simp] theorem notice_node (i : Nat) : (notice s i).node = s.node := rfl
@[simp] theorem notice_nodes (i : Nat) : (notice s i).nodes = s.nodes := rfl
@[simp] theorem notice_group (i : Nat) : (notice s i).group = s.group := rfl
@[simp] theorem notice_images (i : Nat) : (notice s i).images = s.images := rfl
@[simp] theorem notice_imageOps (i : Nat) : (notice s i).imageOps = s.imageOps := rfl
@[simp] theorem notice_ctxs (i : Nat) : (notice s i).ctxs = s.ctxs := rfl
@[simp] theorem notice_waiting (i : Nat) : (notice s i).waiting = s.waiting := rfl
@[simp] theorem notice_starting (i : Nat) : (notice s i).starting = s.starting := rfl
@[simp] theorem notice_passes (i : Nat) : (notice s i).passes = s.passes := rfl
@[simp] theorem notice_saves (i : Nat) : (notice s i).saves = s.saves := rfl
@[simp] theorem notice_restores (i : Nat) : (notice s i).restores = s.restores := rfl
@[simp] theorem notice_pages (i : Nat) : (notice s i).pages = s.pages := rfl
@[simp] theorem notice_engines (i : Nat) : (notice s i).engines = s.engines := rfl
@[simp] theorem notice_unitErrs (i : Nat) : (notice s i).unitErrs = s.unitErrs := rfl
@[simp] theorem notice_unitCause (i : Nat) : (notice s i).unitCause = s.unitCause := rfl
@[simp] theorem notice_codecCause (i : Nat) : (notice s i).codecCause = s.codecCause := rfl
@[simp] theorem notice_unitPass (i : Nat) : (notice s i).unitPass = s.unitPass := rfl
@[simp] theorem notice_codecPass (i : Nat) : (notice s i).codecPass = s.codecPass := rfl
@[simp] theorem notice_fencedUnits (i : Nat) : (notice s i).fencedUnits = s.fencedUnits := rfl
@[simp] theorem notice_calNext (i : Nat) : (notice s i).calNext = s.calNext := rfl
@[simp] theorem notice_codecNext (i : Nat) : (notice s i).codecNext = s.codecNext := rfl
@[simp] theorem notice_lateStacks (i : Nat) : (notice s i).lateStacks = s.lateStacks := rfl
@[simp] theorem notice_lates (i : Nat) : (notice s i).lates = s.lates := rfl
@[simp] theorem notice_fails (i : Nat) : (notice s i).fails = s.fails := rfl
@[simp] theorem notice_pauseCtx (i : Nat) : (notice s i).pauseCtx = s.pauseCtx := rfl
@[simp] theorem notice_regionErrs (i : Nat) : (notice s i).regionErrs = s.regionErrs := rfl
@[simp] theorem notice_retired (i : Nat) : (notice s i).retired = s.retired := rfl
@[simp] theorem notice_withheld (i : Nat) : (notice s i).withheld = s.withheld := rfl
@[simp] theorem notice_retireNext (i : Nat) : (notice s i).retireNext = s.retireNext := rfl
@[simp] theorem notice_streams (i : Nat) : (notice s i).streams = s.streams := rfl
@[simp] theorem notice_frameSeq (i : Nat) : (notice s i).frameSeq = s.frameSeq := rfl
@[simp] theorem notice_running (i : Nat) : (notice s i).running = s.running := rfl
@[simp] theorem notice_disc (i : Nat) : (notice s i).disc = s.disc := rfl
@[simp] theorem notice_power (i : Nat) : (notice s i).power = s.power := rfl
@[simp] theorem notice_refresh (i : Nat) : (notice s i).refresh = s.refresh := rfl
@[simp] theorem notice_flash (i : Nat) : (notice s i).flash = s.flash := rfl
@[simp] theorem notice_atts (i : Nat) : (notice s i).atts = s.atts := rfl
@[simp] theorem notice_reportSeq (i : Nat) : (notice s i).reportSeq = s.reportSeq := rfl
@[simp] theorem notice_diag (i : Nat) : (notice s i).diag = s.diag := rfl
@[simp] theorem notice_diagLog (i : Nat) : (notice s i).diagLog = s.diagLog := rfl
@[simp] theorem notice_tap (i : Nat) : (notice s i).tap = s.tap := rfl
@[simp] theorem notice_events (i : Nat) : (notice s i).events = s.events := rfl
@[simp] theorem notice_nextSeq (i : Nat) : (notice s i).nextSeq = s.nextSeq := rfl
@[simp] theorem notice_counters (i : Nat) : (notice s i).counters = s.counters := rfl
@[simp] theorem notice_snap (i : Nat) : (notice s i).snap = s.snap := rfl
@[simp] theorem notice_mirrorNext (i : Nat) : (notice s i).mirrorNext = s.mirrorNext := rfl
@[simp] theorem notice_mirrorSums (i : Nat) : (notice s i).mirrorSums = s.mirrorSums := rfl
@[simp] theorem notice_correcting (i : Nat) : (notice s i).correcting = s.correcting := rfl

/-! ## bytesPut -/

@[simp] theorem bytesPut_pending (a : Nat) (b : Bytes) : (bytesPut s a b).pending = s.pending := rfl
@[simp] theorem bytesPut_out (a : Nat) (b : Bytes) : (bytesPut s a b).out = s.out := rfl
@[simp] theorem bytesPut_freeCtr (a : Nat) (b : Bytes) : (bytesPut s a b).freeCtr = s.freeCtr := rfl
@[simp] theorem bytesPut_clock (a : Nat) (b : Bytes) : (bytesPut s a b).clock = s.clock := rfl
@[simp] theorem bytesPut_beats (a : Nat) (b : Bytes) : (bytesPut s a b).beats = s.beats := rfl
@[simp] theorem bytesPut_regs (a : Nat) (b : Bytes) : (bytesPut s a b).regs = s.regs := rfl
@[simp] theorem bytesPut_votes (a : Nat) (b : Bytes) : (bytesPut s a b).votes = s.votes := rfl
@[simp] theorem bytesPut_noticeNext (a : Nat) (b : Bytes) : (bytesPut s a b).noticeNext = s.noticeNext := rfl
@[simp] theorem bytesPut_regsNext (a : Nat) (b : Bytes) : (bytesPut s a b).regsNext = s.regsNext := rfl
@[simp] theorem bytesPut_poison (a : Nat) (b : Bytes) : (bytesPut s a b).poison = s.poison := rfl
@[simp] theorem bytesPut_taint (a : Nat) (b : Bytes) : (bytesPut s a b).taint = s.taint := rfl
@[simp] theorem bytesPut_soft (a : Nat) (b : Bytes) : (bytesPut s a b).soft = s.soft := rfl
@[simp] theorem bytesPut_flitReads (a : Nat) (b : Bytes) : (bytesPut s a b).flitReads = s.flitReads := rfl
@[simp] theorem bytesPut_agenda (a : Nat) (b : Bytes) : (bytesPut s a b).agenda = s.agenda := rfl
@[simp] theorem bytesPut_stores (a : Nat) (b : Bytes) : (bytesPut s a b).stores = s.stores := rfl
@[simp] theorem bytesPut_lateEnd (a : Nat) (b : Bytes) : (bytesPut s a b).lateEnd = s.lateEnd := rfl
@[simp] theorem bytesPut_trees (a : Nat) (b : Bytes) : (bytesPut s a b).trees = s.trees := rfl
@[simp] theorem bytesPut_moves (a : Nat) (b : Bytes) : (bytesPut s a b).moves = s.moves := rfl
@[simp] theorem bytesPut_qc (a : Nat) (b : Bytes) : (bytesPut s a b).qc = s.qc := rfl
@[simp] theorem bytesPut_ports (a : Nat) (b : Bytes) : (bytesPut s a b).ports = s.ports := rfl
@[simp] theorem bytesPut_saks (a : Nat) (b : Bytes) : (bytesPut s a b).saks = s.saks := rfl
@[simp] theorem bytesPut_pauses (a : Nat) (b : Bytes) : (bytesPut s a b).pauses = s.pauses := rfl
@[simp] theorem bytesPut_sessions (a : Nat) (b : Bytes) : (bytesPut s a b).sessions = s.sessions := rfl
@[simp] theorem bytesPut_xoff (a : Nat) (b : Bytes) : (bytesPut s a b).xoff = s.xoff := rfl
@[simp] theorem bytesPut_heldOut (a : Nat) (b : Bytes) : (bytesPut s a b).heldOut = s.heldOut := rfl
@[simp] theorem bytesPut_bootCount (a : Nat) (b : Bytes) : (bytesPut s a b).bootCount = s.bootCount := rfl
@[simp] theorem bytesPut_posts (a : Nat) (b : Bytes) : (bytesPut s a b).posts = s.posts := rfl
@[simp] theorem bytesPut_lateReplies (a : Nat) (b : Bytes) : (bytesPut s a b).lateReplies = s.lateReplies := rfl
@[simp] theorem bytesPut_challenges (a : Nat) (b : Bytes) : (bytesPut s a b).challenges = s.challenges := rfl
@[simp] theorem bytesPut_reservations (a : Nat) (b : Bytes) : (bytesPut s a b).reservations = s.reservations := rfl
@[simp] theorem bytesPut_bootMemo (a : Nat) (b : Bytes) : (bytesPut s a b).bootMemo = s.bootMemo := rfl
@[simp] theorem bytesPut_deferred (a : Nat) (b : Bytes) : (bytesPut s a b).deferred = s.deferred := rfl
@[simp] theorem bytesPut_lateCmds (a : Nat) (b : Bytes) : (bytesPut s a b).lateCmds = s.lateCmds := rfl
@[simp] theorem bytesPut_turns (a : Nat) (b : Bytes) : (bytesPut s a b).turns = s.turns := rfl
@[simp] theorem bytesPut_parting (a : Nat) (b : Bytes) : (bytesPut s a b).parting = s.parting := rfl
@[simp] theorem bytesPut_node (a : Nat) (b : Bytes) : (bytesPut s a b).node = s.node := rfl
@[simp] theorem bytesPut_nodes (a : Nat) (b : Bytes) : (bytesPut s a b).nodes = s.nodes := rfl
@[simp] theorem bytesPut_group (a : Nat) (b : Bytes) : (bytesPut s a b).group = s.group := rfl
@[simp] theorem bytesPut_images (a : Nat) (b : Bytes) : (bytesPut s a b).images = s.images := rfl
@[simp] theorem bytesPut_imageOps (a : Nat) (b : Bytes) : (bytesPut s a b).imageOps = s.imageOps := rfl
@[simp] theorem bytesPut_ctxs (a : Nat) (b : Bytes) : (bytesPut s a b).ctxs = s.ctxs := rfl
@[simp] theorem bytesPut_waiting (a : Nat) (b : Bytes) : (bytesPut s a b).waiting = s.waiting := rfl
@[simp] theorem bytesPut_starting (a : Nat) (b : Bytes) : (bytesPut s a b).starting = s.starting := rfl
@[simp] theorem bytesPut_passes (a : Nat) (b : Bytes) : (bytesPut s a b).passes = s.passes := rfl
@[simp] theorem bytesPut_saves (a : Nat) (b : Bytes) : (bytesPut s a b).saves = s.saves := rfl
@[simp] theorem bytesPut_restores (a : Nat) (b : Bytes) : (bytesPut s a b).restores = s.restores := rfl
@[simp] theorem bytesPut_pages (a : Nat) (b : Bytes) : (bytesPut s a b).pages = s.pages := rfl
@[simp] theorem bytesPut_engines (a : Nat) (b : Bytes) : (bytesPut s a b).engines = s.engines := rfl
@[simp] theorem bytesPut_unitErrs (a : Nat) (b : Bytes) : (bytesPut s a b).unitErrs = s.unitErrs := rfl
@[simp] theorem bytesPut_unitCause (a : Nat) (b : Bytes) : (bytesPut s a b).unitCause = s.unitCause := rfl
@[simp] theorem bytesPut_codecCause (a : Nat) (b : Bytes) : (bytesPut s a b).codecCause = s.codecCause := rfl
@[simp] theorem bytesPut_unitPass (a : Nat) (b : Bytes) : (bytesPut s a b).unitPass = s.unitPass := rfl
@[simp] theorem bytesPut_codecPass (a : Nat) (b : Bytes) : (bytesPut s a b).codecPass = s.codecPass := rfl
@[simp] theorem bytesPut_fencedUnits (a : Nat) (b : Bytes) : (bytesPut s a b).fencedUnits = s.fencedUnits := rfl
@[simp] theorem bytesPut_calNext (a : Nat) (b : Bytes) : (bytesPut s a b).calNext = s.calNext := rfl
@[simp] theorem bytesPut_codecNext (a : Nat) (b : Bytes) : (bytesPut s a b).codecNext = s.codecNext := rfl
@[simp] theorem bytesPut_lateStacks (a : Nat) (b : Bytes) : (bytesPut s a b).lateStacks = s.lateStacks := rfl
@[simp] theorem bytesPut_lates (a : Nat) (b : Bytes) : (bytesPut s a b).lates = s.lates := rfl
@[simp] theorem bytesPut_fails (a : Nat) (b : Bytes) : (bytesPut s a b).fails = s.fails := rfl
@[simp] theorem bytesPut_pauseCtx (a : Nat) (b : Bytes) : (bytesPut s a b).pauseCtx = s.pauseCtx := rfl
@[simp] theorem bytesPut_regionErrs (a : Nat) (b : Bytes) : (bytesPut s a b).regionErrs = s.regionErrs := rfl
@[simp] theorem bytesPut_retired (a : Nat) (b : Bytes) : (bytesPut s a b).retired = s.retired := rfl
@[simp] theorem bytesPut_withheld (a : Nat) (b : Bytes) : (bytesPut s a b).withheld = s.withheld := rfl
@[simp] theorem bytesPut_retireNext (a : Nat) (b : Bytes) : (bytesPut s a b).retireNext = s.retireNext := rfl
@[simp] theorem bytesPut_streams (a : Nat) (b : Bytes) : (bytesPut s a b).streams = s.streams := rfl
@[simp] theorem bytesPut_frameSeq (a : Nat) (b : Bytes) : (bytesPut s a b).frameSeq = s.frameSeq := rfl
@[simp] theorem bytesPut_running (a : Nat) (b : Bytes) : (bytesPut s a b).running = s.running := rfl
@[simp] theorem bytesPut_disc (a : Nat) (b : Bytes) : (bytesPut s a b).disc = s.disc := rfl
@[simp] theorem bytesPut_power (a : Nat) (b : Bytes) : (bytesPut s a b).power = s.power := rfl
@[simp] theorem bytesPut_refresh (a : Nat) (b : Bytes) : (bytesPut s a b).refresh = s.refresh := rfl
@[simp] theorem bytesPut_flash (a : Nat) (b : Bytes) : (bytesPut s a b).flash = s.flash := rfl
@[simp] theorem bytesPut_atts (a : Nat) (b : Bytes) : (bytesPut s a b).atts = s.atts := rfl
@[simp] theorem bytesPut_reportSeq (a : Nat) (b : Bytes) : (bytesPut s a b).reportSeq = s.reportSeq := rfl
@[simp] theorem bytesPut_diag (a : Nat) (b : Bytes) : (bytesPut s a b).diag = s.diag := rfl
@[simp] theorem bytesPut_diagLog (a : Nat) (b : Bytes) : (bytesPut s a b).diagLog = s.diagLog := rfl
@[simp] theorem bytesPut_tap (a : Nat) (b : Bytes) : (bytesPut s a b).tap = s.tap := rfl
@[simp] theorem bytesPut_events (a : Nat) (b : Bytes) : (bytesPut s a b).events = s.events := rfl
@[simp] theorem bytesPut_nextSeq (a : Nat) (b : Bytes) : (bytesPut s a b).nextSeq = s.nextSeq := rfl
@[simp] theorem bytesPut_counters (a : Nat) (b : Bytes) : (bytesPut s a b).counters = s.counters := rfl
@[simp] theorem bytesPut_snap (a : Nat) (b : Bytes) : (bytesPut s a b).snap = s.snap := rfl
@[simp] theorem bytesPut_mirrorNext (a : Nat) (b : Bytes) : (bytesPut s a b).mirrorNext = s.mirrorNext := rfl
@[simp] theorem bytesPut_mirrorSums (a : Nat) (b : Bytes) : (bytesPut s a b).mirrorSums = s.mirrorSums := rfl
@[simp] theorem bytesPut_correcting (a : Nat) (b : Bytes) : (bytesPut s a b).correcting = s.correcting := rfl

/-! ## spanWrite -/

@[simp] theorem spanWrite_pending (a : Nat) (b : Bytes) : (spanWrite s a b).pending = s.pending := rfl
@[simp] theorem spanWrite_out (a : Nat) (b : Bytes) : (spanWrite s a b).out = s.out := rfl
@[simp] theorem spanWrite_freeCtr (a : Nat) (b : Bytes) : (spanWrite s a b).freeCtr = s.freeCtr := rfl
@[simp] theorem spanWrite_clock (a : Nat) (b : Bytes) : (spanWrite s a b).clock = s.clock := rfl
@[simp] theorem spanWrite_beats (a : Nat) (b : Bytes) : (spanWrite s a b).beats = s.beats := rfl
@[simp] theorem spanWrite_regs (a : Nat) (b : Bytes) : (spanWrite s a b).regs = s.regs := rfl
@[simp] theorem spanWrite_votes (a : Nat) (b : Bytes) : (spanWrite s a b).votes = s.votes := rfl
@[simp] theorem spanWrite_noticeNext (a : Nat) (b : Bytes) : (spanWrite s a b).noticeNext = s.noticeNext := rfl
@[simp] theorem spanWrite_regsNext (a : Nat) (b : Bytes) : (spanWrite s a b).regsNext = s.regsNext := rfl
@[simp] theorem spanWrite_poison (a : Nat) (b : Bytes) : (spanWrite s a b).poison = s.poison := rfl
@[simp] theorem spanWrite_taint (a : Nat) (b : Bytes) : (spanWrite s a b).taint = s.taint := rfl
@[simp] theorem spanWrite_soft (a : Nat) (b : Bytes) : (spanWrite s a b).soft = s.soft := rfl
@[simp] theorem spanWrite_flitReads (a : Nat) (b : Bytes) : (spanWrite s a b).flitReads = s.flitReads := rfl
@[simp] theorem spanWrite_agenda (a : Nat) (b : Bytes) : (spanWrite s a b).agenda = s.agenda := rfl
@[simp] theorem spanWrite_stores (a : Nat) (b : Bytes) : (spanWrite s a b).stores = s.stores := rfl
@[simp] theorem spanWrite_lateEnd (a : Nat) (b : Bytes) : (spanWrite s a b).lateEnd = s.lateEnd := rfl
@[simp] theorem spanWrite_trees (a : Nat) (b : Bytes) : (spanWrite s a b).trees = s.trees := rfl
@[simp] theorem spanWrite_moves (a : Nat) (b : Bytes) : (spanWrite s a b).moves = s.moves := rfl
@[simp] theorem spanWrite_qc (a : Nat) (b : Bytes) : (spanWrite s a b).qc = s.qc := rfl
@[simp] theorem spanWrite_ports (a : Nat) (b : Bytes) : (spanWrite s a b).ports = s.ports := rfl
@[simp] theorem spanWrite_saks (a : Nat) (b : Bytes) : (spanWrite s a b).saks = s.saks := rfl
@[simp] theorem spanWrite_pauses (a : Nat) (b : Bytes) : (spanWrite s a b).pauses = s.pauses := rfl
@[simp] theorem spanWrite_sessions (a : Nat) (b : Bytes) : (spanWrite s a b).sessions = s.sessions := rfl
@[simp] theorem spanWrite_xoff (a : Nat) (b : Bytes) : (spanWrite s a b).xoff = s.xoff := rfl
@[simp] theorem spanWrite_heldOut (a : Nat) (b : Bytes) : (spanWrite s a b).heldOut = s.heldOut := rfl
@[simp] theorem spanWrite_bootCount (a : Nat) (b : Bytes) : (spanWrite s a b).bootCount = s.bootCount := rfl
@[simp] theorem spanWrite_posts (a : Nat) (b : Bytes) : (spanWrite s a b).posts = s.posts := rfl
@[simp] theorem spanWrite_lateReplies (a : Nat) (b : Bytes) : (spanWrite s a b).lateReplies = s.lateReplies := rfl
@[simp] theorem spanWrite_challenges (a : Nat) (b : Bytes) : (spanWrite s a b).challenges = s.challenges := rfl
@[simp] theorem spanWrite_reservations (a : Nat) (b : Bytes) : (spanWrite s a b).reservations = s.reservations := rfl
@[simp] theorem spanWrite_bootMemo (a : Nat) (b : Bytes) : (spanWrite s a b).bootMemo = s.bootMemo := rfl
@[simp] theorem spanWrite_deferred (a : Nat) (b : Bytes) : (spanWrite s a b).deferred = s.deferred := rfl
@[simp] theorem spanWrite_lateCmds (a : Nat) (b : Bytes) : (spanWrite s a b).lateCmds = s.lateCmds := rfl
@[simp] theorem spanWrite_turns (a : Nat) (b : Bytes) : (spanWrite s a b).turns = s.turns := rfl
@[simp] theorem spanWrite_parting (a : Nat) (b : Bytes) : (spanWrite s a b).parting = s.parting := rfl
@[simp] theorem spanWrite_node (a : Nat) (b : Bytes) : (spanWrite s a b).node = s.node := rfl
@[simp] theorem spanWrite_nodes (a : Nat) (b : Bytes) : (spanWrite s a b).nodes = s.nodes := rfl
@[simp] theorem spanWrite_group (a : Nat) (b : Bytes) : (spanWrite s a b).group = s.group := rfl
@[simp] theorem spanWrite_images (a : Nat) (b : Bytes) : (spanWrite s a b).images = s.images := rfl
@[simp] theorem spanWrite_imageOps (a : Nat) (b : Bytes) : (spanWrite s a b).imageOps = s.imageOps := rfl
@[simp] theorem spanWrite_ctxs (a : Nat) (b : Bytes) : (spanWrite s a b).ctxs = s.ctxs := rfl
@[simp] theorem spanWrite_waiting (a : Nat) (b : Bytes) : (spanWrite s a b).waiting = s.waiting := rfl
@[simp] theorem spanWrite_starting (a : Nat) (b : Bytes) : (spanWrite s a b).starting = s.starting := rfl
@[simp] theorem spanWrite_passes (a : Nat) (b : Bytes) : (spanWrite s a b).passes = s.passes := rfl
@[simp] theorem spanWrite_saves (a : Nat) (b : Bytes) : (spanWrite s a b).saves = s.saves := rfl
@[simp] theorem spanWrite_restores (a : Nat) (b : Bytes) : (spanWrite s a b).restores = s.restores := rfl
@[simp] theorem spanWrite_pages (a : Nat) (b : Bytes) : (spanWrite s a b).pages = s.pages := rfl
@[simp] theorem spanWrite_engines (a : Nat) (b : Bytes) : (spanWrite s a b).engines = s.engines := rfl
@[simp] theorem spanWrite_unitErrs (a : Nat) (b : Bytes) : (spanWrite s a b).unitErrs = s.unitErrs := rfl
@[simp] theorem spanWrite_unitCause (a : Nat) (b : Bytes) : (spanWrite s a b).unitCause = s.unitCause := rfl
@[simp] theorem spanWrite_codecCause (a : Nat) (b : Bytes) : (spanWrite s a b).codecCause = s.codecCause := rfl
@[simp] theorem spanWrite_unitPass (a : Nat) (b : Bytes) : (spanWrite s a b).unitPass = s.unitPass := rfl
@[simp] theorem spanWrite_codecPass (a : Nat) (b : Bytes) : (spanWrite s a b).codecPass = s.codecPass := rfl
@[simp] theorem spanWrite_fencedUnits (a : Nat) (b : Bytes) : (spanWrite s a b).fencedUnits = s.fencedUnits := rfl
@[simp] theorem spanWrite_calNext (a : Nat) (b : Bytes) : (spanWrite s a b).calNext = s.calNext := rfl
@[simp] theorem spanWrite_codecNext (a : Nat) (b : Bytes) : (spanWrite s a b).codecNext = s.codecNext := rfl
@[simp] theorem spanWrite_lateStacks (a : Nat) (b : Bytes) : (spanWrite s a b).lateStacks = s.lateStacks := rfl
@[simp] theorem spanWrite_lates (a : Nat) (b : Bytes) : (spanWrite s a b).lates = s.lates := rfl
@[simp] theorem spanWrite_fails (a : Nat) (b : Bytes) : (spanWrite s a b).fails = s.fails := rfl
@[simp] theorem spanWrite_pauseCtx (a : Nat) (b : Bytes) : (spanWrite s a b).pauseCtx = s.pauseCtx := rfl
@[simp] theorem spanWrite_regionErrs (a : Nat) (b : Bytes) : (spanWrite s a b).regionErrs = s.regionErrs := rfl
@[simp] theorem spanWrite_retired (a : Nat) (b : Bytes) : (spanWrite s a b).retired = s.retired := rfl
@[simp] theorem spanWrite_withheld (a : Nat) (b : Bytes) : (spanWrite s a b).withheld = s.withheld := rfl
@[simp] theorem spanWrite_retireNext (a : Nat) (b : Bytes) : (spanWrite s a b).retireNext = s.retireNext := rfl
@[simp] theorem spanWrite_streams (a : Nat) (b : Bytes) : (spanWrite s a b).streams = s.streams := rfl
@[simp] theorem spanWrite_frameSeq (a : Nat) (b : Bytes) : (spanWrite s a b).frameSeq = s.frameSeq := rfl
@[simp] theorem spanWrite_running (a : Nat) (b : Bytes) : (spanWrite s a b).running = s.running := rfl
@[simp] theorem spanWrite_disc (a : Nat) (b : Bytes) : (spanWrite s a b).disc = s.disc := rfl
@[simp] theorem spanWrite_power (a : Nat) (b : Bytes) : (spanWrite s a b).power = s.power := rfl
@[simp] theorem spanWrite_refresh (a : Nat) (b : Bytes) : (spanWrite s a b).refresh = s.refresh := rfl
@[simp] theorem spanWrite_flash (a : Nat) (b : Bytes) : (spanWrite s a b).flash = s.flash := rfl
@[simp] theorem spanWrite_atts (a : Nat) (b : Bytes) : (spanWrite s a b).atts = s.atts := rfl
@[simp] theorem spanWrite_reportSeq (a : Nat) (b : Bytes) : (spanWrite s a b).reportSeq = s.reportSeq := rfl
@[simp] theorem spanWrite_diag (a : Nat) (b : Bytes) : (spanWrite s a b).diag = s.diag := rfl
@[simp] theorem spanWrite_diagLog (a : Nat) (b : Bytes) : (spanWrite s a b).diagLog = s.diagLog := rfl
@[simp] theorem spanWrite_tap (a : Nat) (b : Bytes) : (spanWrite s a b).tap = s.tap := rfl
@[simp] theorem spanWrite_events (a : Nat) (b : Bytes) : (spanWrite s a b).events = s.events := rfl
@[simp] theorem spanWrite_nextSeq (a : Nat) (b : Bytes) : (spanWrite s a b).nextSeq = s.nextSeq := rfl
@[simp] theorem spanWrite_counters (a : Nat) (b : Bytes) : (spanWrite s a b).counters = s.counters := rfl
@[simp] theorem spanWrite_snap (a : Nat) (b : Bytes) : (spanWrite s a b).snap = s.snap := rfl
@[simp] theorem spanWrite_mirrorNext (a : Nat) (b : Bytes) : (spanWrite s a b).mirrorNext = s.mirrorNext := rfl
@[simp] theorem spanWrite_mirrorSums (a : Nat) (b : Bytes) : (spanWrite s a b).mirrorSums = s.mirrorSums := rfl
@[simp] theorem spanWrite_correcting (a : Nat) (b : Bytes) : (spanWrite s a b).correcting = s.correcting := rfl

/-! ## engSet -/

@[simp] theorem engSet_pending (e : Nat) (x : Engine) : (engSet s e x).pending = s.pending := rfl
@[simp] theorem engSet_out (e : Nat) (x : Engine) : (engSet s e x).out = s.out := rfl
@[simp] theorem engSet_freeCtr (e : Nat) (x : Engine) : (engSet s e x).freeCtr = s.freeCtr := rfl
@[simp] theorem engSet_clock (e : Nat) (x : Engine) : (engSet s e x).clock = s.clock := rfl
@[simp] theorem engSet_beats (e : Nat) (x : Engine) : (engSet s e x).beats = s.beats := rfl
@[simp] theorem engSet_regs (e : Nat) (x : Engine) : (engSet s e x).regs = s.regs := rfl
@[simp] theorem engSet_votes (e : Nat) (x : Engine) : (engSet s e x).votes = s.votes := rfl
@[simp] theorem engSet_noticeNext (e : Nat) (x : Engine) : (engSet s e x).noticeNext = s.noticeNext := rfl
@[simp] theorem engSet_regsNext (e : Nat) (x : Engine) : (engSet s e x).regsNext = s.regsNext := rfl
@[simp] theorem engSet_mem (e : Nat) (x : Engine) : (engSet s e x).mem = s.mem := rfl
@[simp] theorem engSet_poison (e : Nat) (x : Engine) : (engSet s e x).poison = s.poison := rfl
@[simp] theorem engSet_taint (e : Nat) (x : Engine) : (engSet s e x).taint = s.taint := rfl
@[simp] theorem engSet_soft (e : Nat) (x : Engine) : (engSet s e x).soft = s.soft := rfl
@[simp] theorem engSet_flitReads (e : Nat) (x : Engine) : (engSet s e x).flitReads = s.flitReads := rfl
@[simp] theorem engSet_agenda (e : Nat) (x : Engine) : (engSet s e x).agenda = s.agenda := rfl
@[simp] theorem engSet_stores (e : Nat) (x : Engine) : (engSet s e x).stores = s.stores := rfl
@[simp] theorem engSet_lateEnd (e : Nat) (x : Engine) : (engSet s e x).lateEnd = s.lateEnd := rfl
@[simp] theorem engSet_trees (e : Nat) (x : Engine) : (engSet s e x).trees = s.trees := rfl
@[simp] theorem engSet_moves (e : Nat) (x : Engine) : (engSet s e x).moves = s.moves := rfl
@[simp] theorem engSet_qc (e : Nat) (x : Engine) : (engSet s e x).qc = s.qc := rfl
@[simp] theorem engSet_ports (e : Nat) (x : Engine) : (engSet s e x).ports = s.ports := rfl
@[simp] theorem engSet_saks (e : Nat) (x : Engine) : (engSet s e x).saks = s.saks := rfl
@[simp] theorem engSet_pauses (e : Nat) (x : Engine) : (engSet s e x).pauses = s.pauses := rfl
@[simp] theorem engSet_sessions (e : Nat) (x : Engine) : (engSet s e x).sessions = s.sessions := rfl
@[simp] theorem engSet_xoff (e : Nat) (x : Engine) : (engSet s e x).xoff = s.xoff := rfl
@[simp] theorem engSet_heldOut (e : Nat) (x : Engine) : (engSet s e x).heldOut = s.heldOut := rfl
@[simp] theorem engSet_bootCount (e : Nat) (x : Engine) : (engSet s e x).bootCount = s.bootCount := rfl
@[simp] theorem engSet_posts (e : Nat) (x : Engine) : (engSet s e x).posts = s.posts := rfl
@[simp] theorem engSet_lateReplies (e : Nat) (x : Engine) : (engSet s e x).lateReplies = s.lateReplies := rfl
@[simp] theorem engSet_challenges (e : Nat) (x : Engine) : (engSet s e x).challenges = s.challenges := rfl
@[simp] theorem engSet_reservations (e : Nat) (x : Engine) : (engSet s e x).reservations = s.reservations := rfl
@[simp] theorem engSet_bootMemo (e : Nat) (x : Engine) : (engSet s e x).bootMemo = s.bootMemo := rfl
@[simp] theorem engSet_deferred (e : Nat) (x : Engine) : (engSet s e x).deferred = s.deferred := rfl
@[simp] theorem engSet_lateCmds (e : Nat) (x : Engine) : (engSet s e x).lateCmds = s.lateCmds := rfl
@[simp] theorem engSet_turns (e : Nat) (x : Engine) : (engSet s e x).turns = s.turns := rfl
@[simp] theorem engSet_parting (e : Nat) (x : Engine) : (engSet s e x).parting = s.parting := rfl
@[simp] theorem engSet_node (e : Nat) (x : Engine) : (engSet s e x).node = s.node := rfl
@[simp] theorem engSet_nodes (e : Nat) (x : Engine) : (engSet s e x).nodes = s.nodes := rfl
@[simp] theorem engSet_group (e : Nat) (x : Engine) : (engSet s e x).group = s.group := rfl
@[simp] theorem engSet_images (e : Nat) (x : Engine) : (engSet s e x).images = s.images := rfl
@[simp] theorem engSet_imageOps (e : Nat) (x : Engine) : (engSet s e x).imageOps = s.imageOps := rfl
@[simp] theorem engSet_ctxs (e : Nat) (x : Engine) : (engSet s e x).ctxs = s.ctxs := rfl
@[simp] theorem engSet_waiting (e : Nat) (x : Engine) : (engSet s e x).waiting = s.waiting := rfl
@[simp] theorem engSet_starting (e : Nat) (x : Engine) : (engSet s e x).starting = s.starting := rfl
@[simp] theorem engSet_passes (e : Nat) (x : Engine) : (engSet s e x).passes = s.passes := rfl
@[simp] theorem engSet_saves (e : Nat) (x : Engine) : (engSet s e x).saves = s.saves := rfl
@[simp] theorem engSet_restores (e : Nat) (x : Engine) : (engSet s e x).restores = s.restores := rfl
@[simp] theorem engSet_pages (e : Nat) (x : Engine) : (engSet s e x).pages = s.pages := rfl
@[simp] theorem engSet_unitErrs (e : Nat) (x : Engine) : (engSet s e x).unitErrs = s.unitErrs := rfl
@[simp] theorem engSet_unitCause (e : Nat) (x : Engine) : (engSet s e x).unitCause = s.unitCause := rfl
@[simp] theorem engSet_codecCause (e : Nat) (x : Engine) : (engSet s e x).codecCause = s.codecCause := rfl
@[simp] theorem engSet_unitPass (e : Nat) (x : Engine) : (engSet s e x).unitPass = s.unitPass := rfl
@[simp] theorem engSet_codecPass (e : Nat) (x : Engine) : (engSet s e x).codecPass = s.codecPass := rfl
@[simp] theorem engSet_fencedUnits (e : Nat) (x : Engine) : (engSet s e x).fencedUnits = s.fencedUnits := rfl
@[simp] theorem engSet_calNext (e : Nat) (x : Engine) : (engSet s e x).calNext = s.calNext := rfl
@[simp] theorem engSet_codecNext (e : Nat) (x : Engine) : (engSet s e x).codecNext = s.codecNext := rfl
@[simp] theorem engSet_lateStacks (e : Nat) (x : Engine) : (engSet s e x).lateStacks = s.lateStacks := rfl
@[simp] theorem engSet_lates (e : Nat) (x : Engine) : (engSet s e x).lates = s.lates := rfl
@[simp] theorem engSet_fails (e : Nat) (x : Engine) : (engSet s e x).fails = s.fails := rfl
@[simp] theorem engSet_pauseCtx (e : Nat) (x : Engine) : (engSet s e x).pauseCtx = s.pauseCtx := rfl
@[simp] theorem engSet_regionErrs (e : Nat) (x : Engine) : (engSet s e x).regionErrs = s.regionErrs := rfl
@[simp] theorem engSet_retired (e : Nat) (x : Engine) : (engSet s e x).retired = s.retired := rfl
@[simp] theorem engSet_withheld (e : Nat) (x : Engine) : (engSet s e x).withheld = s.withheld := rfl
@[simp] theorem engSet_retireNext (e : Nat) (x : Engine) : (engSet s e x).retireNext = s.retireNext := rfl
@[simp] theorem engSet_streams (e : Nat) (x : Engine) : (engSet s e x).streams = s.streams := rfl
@[simp] theorem engSet_frameSeq (e : Nat) (x : Engine) : (engSet s e x).frameSeq = s.frameSeq := rfl
@[simp] theorem engSet_running (e : Nat) (x : Engine) : (engSet s e x).running = s.running := rfl
@[simp] theorem engSet_disc (e : Nat) (x : Engine) : (engSet s e x).disc = s.disc := rfl
@[simp] theorem engSet_power (e : Nat) (x : Engine) : (engSet s e x).power = s.power := rfl
@[simp] theorem engSet_refresh (e : Nat) (x : Engine) : (engSet s e x).refresh = s.refresh := rfl
@[simp] theorem engSet_flash (e : Nat) (x : Engine) : (engSet s e x).flash = s.flash := rfl
@[simp] theorem engSet_atts (e : Nat) (x : Engine) : (engSet s e x).atts = s.atts := rfl
@[simp] theorem engSet_reportSeq (e : Nat) (x : Engine) : (engSet s e x).reportSeq = s.reportSeq := rfl
@[simp] theorem engSet_diag (e : Nat) (x : Engine) : (engSet s e x).diag = s.diag := rfl
@[simp] theorem engSet_diagLog (e : Nat) (x : Engine) : (engSet s e x).diagLog = s.diagLog := rfl
@[simp] theorem engSet_tap (e : Nat) (x : Engine) : (engSet s e x).tap = s.tap := rfl
@[simp] theorem engSet_events (e : Nat) (x : Engine) : (engSet s e x).events = s.events := rfl
@[simp] theorem engSet_nextSeq (e : Nat) (x : Engine) : (engSet s e x).nextSeq = s.nextSeq := rfl
@[simp] theorem engSet_counters (e : Nat) (x : Engine) : (engSet s e x).counters = s.counters := rfl
@[simp] theorem engSet_snap (e : Nat) (x : Engine) : (engSet s e x).snap = s.snap := rfl
@[simp] theorem engSet_mirrorNext (e : Nat) (x : Engine) : (engSet s e x).mirrorNext = s.mirrorNext := rfl
@[simp] theorem engSet_mirrorSums (e : Nat) (x : Engine) : (engSet s e x).mirrorSums = s.mirrorSums := rfl
@[simp] theorem engSet_correcting (e : Nat) (x : Engine) : (engSet s e x).correcting = s.correcting := rfl

/-! ## sessSet -/

@[simp] theorem sessSet_pending (n : Nat) (x : Session) : (sessSet s n x).pending = s.pending := rfl
@[simp] theorem sessSet_out (n : Nat) (x : Session) : (sessSet s n x).out = s.out := rfl
@[simp] theorem sessSet_freeCtr (n : Nat) (x : Session) : (sessSet s n x).freeCtr = s.freeCtr := rfl
@[simp] theorem sessSet_clock (n : Nat) (x : Session) : (sessSet s n x).clock = s.clock := rfl
@[simp] theorem sessSet_beats (n : Nat) (x : Session) : (sessSet s n x).beats = s.beats := rfl
@[simp] theorem sessSet_regs (n : Nat) (x : Session) : (sessSet s n x).regs = s.regs := rfl
@[simp] theorem sessSet_votes (n : Nat) (x : Session) : (sessSet s n x).votes = s.votes := rfl
@[simp] theorem sessSet_noticeNext (n : Nat) (x : Session) : (sessSet s n x).noticeNext = s.noticeNext := rfl
@[simp] theorem sessSet_regsNext (n : Nat) (x : Session) : (sessSet s n x).regsNext = s.regsNext := rfl
@[simp] theorem sessSet_mem (n : Nat) (x : Session) : (sessSet s n x).mem = s.mem := rfl
@[simp] theorem sessSet_poison (n : Nat) (x : Session) : (sessSet s n x).poison = s.poison := rfl
@[simp] theorem sessSet_taint (n : Nat) (x : Session) : (sessSet s n x).taint = s.taint := rfl
@[simp] theorem sessSet_soft (n : Nat) (x : Session) : (sessSet s n x).soft = s.soft := rfl
@[simp] theorem sessSet_flitReads (n : Nat) (x : Session) : (sessSet s n x).flitReads = s.flitReads := rfl
@[simp] theorem sessSet_agenda (n : Nat) (x : Session) : (sessSet s n x).agenda = s.agenda := rfl
@[simp] theorem sessSet_stores (n : Nat) (x : Session) : (sessSet s n x).stores = s.stores := rfl
@[simp] theorem sessSet_lateEnd (n : Nat) (x : Session) : (sessSet s n x).lateEnd = s.lateEnd := rfl
@[simp] theorem sessSet_trees (n : Nat) (x : Session) : (sessSet s n x).trees = s.trees := rfl
@[simp] theorem sessSet_moves (n : Nat) (x : Session) : (sessSet s n x).moves = s.moves := rfl
@[simp] theorem sessSet_qc (n : Nat) (x : Session) : (sessSet s n x).qc = s.qc := rfl
@[simp] theorem sessSet_ports (n : Nat) (x : Session) : (sessSet s n x).ports = s.ports := rfl
@[simp] theorem sessSet_saks (n : Nat) (x : Session) : (sessSet s n x).saks = s.saks := rfl
@[simp] theorem sessSet_pauses (n : Nat) (x : Session) : (sessSet s n x).pauses = s.pauses := rfl
@[simp] theorem sessSet_xoff (n : Nat) (x : Session) : (sessSet s n x).xoff = s.xoff := rfl
@[simp] theorem sessSet_heldOut (n : Nat) (x : Session) : (sessSet s n x).heldOut = s.heldOut := rfl
@[simp] theorem sessSet_bootCount (n : Nat) (x : Session) : (sessSet s n x).bootCount = s.bootCount := rfl
@[simp] theorem sessSet_posts (n : Nat) (x : Session) : (sessSet s n x).posts = s.posts := rfl
@[simp] theorem sessSet_lateReplies (n : Nat) (x : Session) : (sessSet s n x).lateReplies = s.lateReplies := rfl
@[simp] theorem sessSet_challenges (n : Nat) (x : Session) : (sessSet s n x).challenges = s.challenges := rfl
@[simp] theorem sessSet_reservations (n : Nat) (x : Session) : (sessSet s n x).reservations = s.reservations := rfl
@[simp] theorem sessSet_bootMemo (n : Nat) (x : Session) : (sessSet s n x).bootMemo = s.bootMemo := rfl
@[simp] theorem sessSet_deferred (n : Nat) (x : Session) : (sessSet s n x).deferred = s.deferred := rfl
@[simp] theorem sessSet_lateCmds (n : Nat) (x : Session) : (sessSet s n x).lateCmds = s.lateCmds := rfl
@[simp] theorem sessSet_turns (n : Nat) (x : Session) : (sessSet s n x).turns = s.turns := rfl
@[simp] theorem sessSet_parting (n : Nat) (x : Session) : (sessSet s n x).parting = s.parting := rfl
@[simp] theorem sessSet_node (n : Nat) (x : Session) : (sessSet s n x).node = s.node := rfl
@[simp] theorem sessSet_nodes (n : Nat) (x : Session) : (sessSet s n x).nodes = s.nodes := rfl
@[simp] theorem sessSet_group (n : Nat) (x : Session) : (sessSet s n x).group = s.group := rfl
@[simp] theorem sessSet_images (n : Nat) (x : Session) : (sessSet s n x).images = s.images := rfl
@[simp] theorem sessSet_imageOps (n : Nat) (x : Session) : (sessSet s n x).imageOps = s.imageOps := rfl
@[simp] theorem sessSet_ctxs (n : Nat) (x : Session) : (sessSet s n x).ctxs = s.ctxs := rfl
@[simp] theorem sessSet_waiting (n : Nat) (x : Session) : (sessSet s n x).waiting = s.waiting := rfl
@[simp] theorem sessSet_starting (n : Nat) (x : Session) : (sessSet s n x).starting = s.starting := rfl
@[simp] theorem sessSet_passes (n : Nat) (x : Session) : (sessSet s n x).passes = s.passes := rfl
@[simp] theorem sessSet_saves (n : Nat) (x : Session) : (sessSet s n x).saves = s.saves := rfl
@[simp] theorem sessSet_restores (n : Nat) (x : Session) : (sessSet s n x).restores = s.restores := rfl
@[simp] theorem sessSet_pages (n : Nat) (x : Session) : (sessSet s n x).pages = s.pages := rfl
@[simp] theorem sessSet_engines (n : Nat) (x : Session) : (sessSet s n x).engines = s.engines := rfl
@[simp] theorem sessSet_unitErrs (n : Nat) (x : Session) : (sessSet s n x).unitErrs = s.unitErrs := rfl
@[simp] theorem sessSet_unitCause (n : Nat) (x : Session) : (sessSet s n x).unitCause = s.unitCause := rfl
@[simp] theorem sessSet_codecCause (n : Nat) (x : Session) : (sessSet s n x).codecCause = s.codecCause := rfl
@[simp] theorem sessSet_unitPass (n : Nat) (x : Session) : (sessSet s n x).unitPass = s.unitPass := rfl
@[simp] theorem sessSet_codecPass (n : Nat) (x : Session) : (sessSet s n x).codecPass = s.codecPass := rfl
@[simp] theorem sessSet_fencedUnits (n : Nat) (x : Session) : (sessSet s n x).fencedUnits = s.fencedUnits := rfl
@[simp] theorem sessSet_calNext (n : Nat) (x : Session) : (sessSet s n x).calNext = s.calNext := rfl
@[simp] theorem sessSet_codecNext (n : Nat) (x : Session) : (sessSet s n x).codecNext = s.codecNext := rfl
@[simp] theorem sessSet_lateStacks (n : Nat) (x : Session) : (sessSet s n x).lateStacks = s.lateStacks := rfl
@[simp] theorem sessSet_lates (n : Nat) (x : Session) : (sessSet s n x).lates = s.lates := rfl
@[simp] theorem sessSet_fails (n : Nat) (x : Session) : (sessSet s n x).fails = s.fails := rfl
@[simp] theorem sessSet_pauseCtx (n : Nat) (x : Session) : (sessSet s n x).pauseCtx = s.pauseCtx := rfl
@[simp] theorem sessSet_regionErrs (n : Nat) (x : Session) : (sessSet s n x).regionErrs = s.regionErrs := rfl
@[simp] theorem sessSet_retired (n : Nat) (x : Session) : (sessSet s n x).retired = s.retired := rfl
@[simp] theorem sessSet_withheld (n : Nat) (x : Session) : (sessSet s n x).withheld = s.withheld := rfl
@[simp] theorem sessSet_retireNext (n : Nat) (x : Session) : (sessSet s n x).retireNext = s.retireNext := rfl
@[simp] theorem sessSet_streams (n : Nat) (x : Session) : (sessSet s n x).streams = s.streams := rfl
@[simp] theorem sessSet_frameSeq (n : Nat) (x : Session) : (sessSet s n x).frameSeq = s.frameSeq := rfl
@[simp] theorem sessSet_running (n : Nat) (x : Session) : (sessSet s n x).running = s.running := rfl
@[simp] theorem sessSet_disc (n : Nat) (x : Session) : (sessSet s n x).disc = s.disc := rfl
@[simp] theorem sessSet_power (n : Nat) (x : Session) : (sessSet s n x).power = s.power := rfl
@[simp] theorem sessSet_refresh (n : Nat) (x : Session) : (sessSet s n x).refresh = s.refresh := rfl
@[simp] theorem sessSet_flash (n : Nat) (x : Session) : (sessSet s n x).flash = s.flash := rfl
@[simp] theorem sessSet_atts (n : Nat) (x : Session) : (sessSet s n x).atts = s.atts := rfl
@[simp] theorem sessSet_reportSeq (n : Nat) (x : Session) : (sessSet s n x).reportSeq = s.reportSeq := rfl
@[simp] theorem sessSet_diag (n : Nat) (x : Session) : (sessSet s n x).diag = s.diag := rfl
@[simp] theorem sessSet_diagLog (n : Nat) (x : Session) : (sessSet s n x).diagLog = s.diagLog := rfl
@[simp] theorem sessSet_tap (n : Nat) (x : Session) : (sessSet s n x).tap = s.tap := rfl
@[simp] theorem sessSet_events (n : Nat) (x : Session) : (sessSet s n x).events = s.events := rfl
@[simp] theorem sessSet_nextSeq (n : Nat) (x : Session) : (sessSet s n x).nextSeq = s.nextSeq := rfl
@[simp] theorem sessSet_counters (n : Nat) (x : Session) : (sessSet s n x).counters = s.counters := rfl
@[simp] theorem sessSet_snap (n : Nat) (x : Session) : (sessSet s n x).snap = s.snap := rfl
@[simp] theorem sessSet_mirrorNext (n : Nat) (x : Session) : (sessSet s n x).mirrorNext = s.mirrorNext := rfl
@[simp] theorem sessSet_mirrorSums (n : Nat) (x : Session) : (sessSet s n x).mirrorSums = s.mirrorSums := rfl
@[simp] theorem sessSet_correcting (n : Nat) (x : Session) : (sessSet s n x).correcting = s.correcting := rfl

/-! ## ctxMap -/

@[simp] theorem ctxMap_pending (n : Nat) (f : Ctx → Ctx) : (ctxMap s n f).pending = s.pending := rfl
@[simp] theorem ctxMap_out (n : Nat) (f : Ctx → Ctx) : (ctxMap s n f).out = s.out := rfl
@[simp] theorem ctxMap_freeCtr (n : Nat) (f : Ctx → Ctx) : (ctxMap s n f).freeCtr = s.freeCtr := rfl
@[simp] theorem ctxMap_clock (n : Nat) (f : Ctx → Ctx) : (ctxMap s n f).clock = s.clock := rfl
@[simp] theorem ctxMap_beats (n : Nat) (f : Ctx → Ctx) : (ctxMap s n f).beats = s.beats := rfl
@[simp] theorem ctxMap_regs (n : Nat) (f : Ctx → Ctx) : (ctxMap s n f).regs = s.regs := rfl
@[simp] theorem ctxMap_votes (n : Nat) (f : Ctx → Ctx) : (ctxMap s n f).votes = s.votes := rfl
@[simp] theorem ctxMap_noticeNext (n : Nat) (f : Ctx → Ctx) : (ctxMap s n f).noticeNext = s.noticeNext := rfl
@[simp] theorem ctxMap_regsNext (n : Nat) (f : Ctx → Ctx) : (ctxMap s n f).regsNext = s.regsNext := rfl
@[simp] theorem ctxMap_mem (n : Nat) (f : Ctx → Ctx) : (ctxMap s n f).mem = s.mem := rfl
@[simp] theorem ctxMap_poison (n : Nat) (f : Ctx → Ctx) : (ctxMap s n f).poison = s.poison := rfl
@[simp] theorem ctxMap_taint (n : Nat) (f : Ctx → Ctx) : (ctxMap s n f).taint = s.taint := rfl
@[simp] theorem ctxMap_soft (n : Nat) (f : Ctx → Ctx) : (ctxMap s n f).soft = s.soft := rfl
@[simp] theorem ctxMap_flitReads (n : Nat) (f : Ctx → Ctx) : (ctxMap s n f).flitReads = s.flitReads := rfl
@[simp] theorem ctxMap_agenda (n : Nat) (f : Ctx → Ctx) : (ctxMap s n f).agenda = s.agenda := rfl
@[simp] theorem ctxMap_stores (n : Nat) (f : Ctx → Ctx) : (ctxMap s n f).stores = s.stores := rfl
@[simp] theorem ctxMap_lateEnd (n : Nat) (f : Ctx → Ctx) : (ctxMap s n f).lateEnd = s.lateEnd := rfl
@[simp] theorem ctxMap_trees (n : Nat) (f : Ctx → Ctx) : (ctxMap s n f).trees = s.trees := rfl
@[simp] theorem ctxMap_moves (n : Nat) (f : Ctx → Ctx) : (ctxMap s n f).moves = s.moves := rfl
@[simp] theorem ctxMap_qc (n : Nat) (f : Ctx → Ctx) : (ctxMap s n f).qc = s.qc := rfl
@[simp] theorem ctxMap_ports (n : Nat) (f : Ctx → Ctx) : (ctxMap s n f).ports = s.ports := rfl
@[simp] theorem ctxMap_saks (n : Nat) (f : Ctx → Ctx) : (ctxMap s n f).saks = s.saks := rfl
@[simp] theorem ctxMap_pauses (n : Nat) (f : Ctx → Ctx) : (ctxMap s n f).pauses = s.pauses := rfl
@[simp] theorem ctxMap_sessions (n : Nat) (f : Ctx → Ctx) : (ctxMap s n f).sessions = s.sessions := rfl
@[simp] theorem ctxMap_xoff (n : Nat) (f : Ctx → Ctx) : (ctxMap s n f).xoff = s.xoff := rfl
@[simp] theorem ctxMap_heldOut (n : Nat) (f : Ctx → Ctx) : (ctxMap s n f).heldOut = s.heldOut := rfl
@[simp] theorem ctxMap_bootCount (n : Nat) (f : Ctx → Ctx) : (ctxMap s n f).bootCount = s.bootCount := rfl
@[simp] theorem ctxMap_posts (n : Nat) (f : Ctx → Ctx) : (ctxMap s n f).posts = s.posts := rfl
@[simp] theorem ctxMap_lateReplies (n : Nat) (f : Ctx → Ctx) : (ctxMap s n f).lateReplies = s.lateReplies := rfl
@[simp] theorem ctxMap_challenges (n : Nat) (f : Ctx → Ctx) : (ctxMap s n f).challenges = s.challenges := rfl
@[simp] theorem ctxMap_reservations (n : Nat) (f : Ctx → Ctx) : (ctxMap s n f).reservations = s.reservations := rfl
@[simp] theorem ctxMap_bootMemo (n : Nat) (f : Ctx → Ctx) : (ctxMap s n f).bootMemo = s.bootMemo := rfl
@[simp] theorem ctxMap_deferred (n : Nat) (f : Ctx → Ctx) : (ctxMap s n f).deferred = s.deferred := rfl
@[simp] theorem ctxMap_lateCmds (n : Nat) (f : Ctx → Ctx) : (ctxMap s n f).lateCmds = s.lateCmds := rfl
@[simp] theorem ctxMap_turns (n : Nat) (f : Ctx → Ctx) : (ctxMap s n f).turns = s.turns := rfl
@[simp] theorem ctxMap_parting (n : Nat) (f : Ctx → Ctx) : (ctxMap s n f).parting = s.parting := rfl
@[simp] theorem ctxMap_node (n : Nat) (f : Ctx → Ctx) : (ctxMap s n f).node = s.node := rfl
@[simp] theorem ctxMap_nodes (n : Nat) (f : Ctx → Ctx) : (ctxMap s n f).nodes = s.nodes := rfl
@[simp] theorem ctxMap_group (n : Nat) (f : Ctx → Ctx) : (ctxMap s n f).group = s.group := rfl
@[simp] theorem ctxMap_images (n : Nat) (f : Ctx → Ctx) : (ctxMap s n f).images = s.images := rfl
@[simp] theorem ctxMap_imageOps (n : Nat) (f : Ctx → Ctx) : (ctxMap s n f).imageOps = s.imageOps := rfl
@[simp] theorem ctxMap_waiting (n : Nat) (f : Ctx → Ctx) : (ctxMap s n f).waiting = s.waiting := rfl
@[simp] theorem ctxMap_starting (n : Nat) (f : Ctx → Ctx) : (ctxMap s n f).starting = s.starting := rfl
@[simp] theorem ctxMap_passes (n : Nat) (f : Ctx → Ctx) : (ctxMap s n f).passes = s.passes := rfl
@[simp] theorem ctxMap_saves (n : Nat) (f : Ctx → Ctx) : (ctxMap s n f).saves = s.saves := rfl
@[simp] theorem ctxMap_restores (n : Nat) (f : Ctx → Ctx) : (ctxMap s n f).restores = s.restores := rfl
@[simp] theorem ctxMap_pages (n : Nat) (f : Ctx → Ctx) : (ctxMap s n f).pages = s.pages := rfl
@[simp] theorem ctxMap_engines (n : Nat) (f : Ctx → Ctx) : (ctxMap s n f).engines = s.engines := rfl
@[simp] theorem ctxMap_unitErrs (n : Nat) (f : Ctx → Ctx) : (ctxMap s n f).unitErrs = s.unitErrs := rfl
@[simp] theorem ctxMap_unitCause (n : Nat) (f : Ctx → Ctx) : (ctxMap s n f).unitCause = s.unitCause := rfl
@[simp] theorem ctxMap_codecCause (n : Nat) (f : Ctx → Ctx) : (ctxMap s n f).codecCause = s.codecCause := rfl
@[simp] theorem ctxMap_unitPass (n : Nat) (f : Ctx → Ctx) : (ctxMap s n f).unitPass = s.unitPass := rfl
@[simp] theorem ctxMap_codecPass (n : Nat) (f : Ctx → Ctx) : (ctxMap s n f).codecPass = s.codecPass := rfl
@[simp] theorem ctxMap_fencedUnits (n : Nat) (f : Ctx → Ctx) : (ctxMap s n f).fencedUnits = s.fencedUnits := rfl
@[simp] theorem ctxMap_calNext (n : Nat) (f : Ctx → Ctx) : (ctxMap s n f).calNext = s.calNext := rfl
@[simp] theorem ctxMap_codecNext (n : Nat) (f : Ctx → Ctx) : (ctxMap s n f).codecNext = s.codecNext := rfl
@[simp] theorem ctxMap_lateStacks (n : Nat) (f : Ctx → Ctx) : (ctxMap s n f).lateStacks = s.lateStacks := rfl
@[simp] theorem ctxMap_lates (n : Nat) (f : Ctx → Ctx) : (ctxMap s n f).lates = s.lates := rfl
@[simp] theorem ctxMap_fails (n : Nat) (f : Ctx → Ctx) : (ctxMap s n f).fails = s.fails := rfl
@[simp] theorem ctxMap_pauseCtx (n : Nat) (f : Ctx → Ctx) : (ctxMap s n f).pauseCtx = s.pauseCtx := rfl
@[simp] theorem ctxMap_regionErrs (n : Nat) (f : Ctx → Ctx) : (ctxMap s n f).regionErrs = s.regionErrs := rfl
@[simp] theorem ctxMap_retired (n : Nat) (f : Ctx → Ctx) : (ctxMap s n f).retired = s.retired := rfl
@[simp] theorem ctxMap_withheld (n : Nat) (f : Ctx → Ctx) : (ctxMap s n f).withheld = s.withheld := rfl
@[simp] theorem ctxMap_retireNext (n : Nat) (f : Ctx → Ctx) : (ctxMap s n f).retireNext = s.retireNext := rfl
@[simp] theorem ctxMap_streams (n : Nat) (f : Ctx → Ctx) : (ctxMap s n f).streams = s.streams := rfl
@[simp] theorem ctxMap_frameSeq (n : Nat) (f : Ctx → Ctx) : (ctxMap s n f).frameSeq = s.frameSeq := rfl
@[simp] theorem ctxMap_running (n : Nat) (f : Ctx → Ctx) : (ctxMap s n f).running = s.running := rfl
@[simp] theorem ctxMap_disc (n : Nat) (f : Ctx → Ctx) : (ctxMap s n f).disc = s.disc := rfl
@[simp] theorem ctxMap_power (n : Nat) (f : Ctx → Ctx) : (ctxMap s n f).power = s.power := rfl
@[simp] theorem ctxMap_refresh (n : Nat) (f : Ctx → Ctx) : (ctxMap s n f).refresh = s.refresh := rfl
@[simp] theorem ctxMap_flash (n : Nat) (f : Ctx → Ctx) : (ctxMap s n f).flash = s.flash := rfl
@[simp] theorem ctxMap_atts (n : Nat) (f : Ctx → Ctx) : (ctxMap s n f).atts = s.atts := rfl
@[simp] theorem ctxMap_reportSeq (n : Nat) (f : Ctx → Ctx) : (ctxMap s n f).reportSeq = s.reportSeq := rfl
@[simp] theorem ctxMap_diag (n : Nat) (f : Ctx → Ctx) : (ctxMap s n f).diag = s.diag := rfl
@[simp] theorem ctxMap_diagLog (n : Nat) (f : Ctx → Ctx) : (ctxMap s n f).diagLog = s.diagLog := rfl
@[simp] theorem ctxMap_tap (n : Nat) (f : Ctx → Ctx) : (ctxMap s n f).tap = s.tap := rfl
@[simp] theorem ctxMap_events (n : Nat) (f : Ctx → Ctx) : (ctxMap s n f).events = s.events := rfl
@[simp] theorem ctxMap_nextSeq (n : Nat) (f : Ctx → Ctx) : (ctxMap s n f).nextSeq = s.nextSeq := rfl
@[simp] theorem ctxMap_counters (n : Nat) (f : Ctx → Ctx) : (ctxMap s n f).counters = s.counters := rfl
@[simp] theorem ctxMap_snap (n : Nat) (f : Ctx → Ctx) : (ctxMap s n f).snap = s.snap := rfl
@[simp] theorem ctxMap_mirrorNext (n : Nat) (f : Ctx → Ctx) : (ctxMap s n f).mirrorNext = s.mirrorNext := rfl
@[simp] theorem ctxMap_mirrorSums (n : Nat) (f : Ctx → Ctx) : (ctxMap s n f).mirrorSums = s.mirrorSums := rfl
@[simp] theorem ctxMap_correcting (n : Nat) (f : Ctx → Ctx) : (ctxMap s n f).correcting = s.correcting := rfl

/-! ## streamMap -/

@[simp] theorem streamMap_pending (n : Nat) (f : Stream → Stream) : (streamMap s n f).pending = s.pending := rfl
@[simp] theorem streamMap_out (n : Nat) (f : Stream → Stream) : (streamMap s n f).out = s.out := rfl
@[simp] theorem streamMap_freeCtr (n : Nat) (f : Stream → Stream) : (streamMap s n f).freeCtr = s.freeCtr := rfl
@[simp] theorem streamMap_clock (n : Nat) (f : Stream → Stream) : (streamMap s n f).clock = s.clock := rfl
@[simp] theorem streamMap_beats (n : Nat) (f : Stream → Stream) : (streamMap s n f).beats = s.beats := rfl
@[simp] theorem streamMap_regs (n : Nat) (f : Stream → Stream) : (streamMap s n f).regs = s.regs := rfl
@[simp] theorem streamMap_votes (n : Nat) (f : Stream → Stream) : (streamMap s n f).votes = s.votes := rfl
@[simp] theorem streamMap_noticeNext (n : Nat) (f : Stream → Stream) : (streamMap s n f).noticeNext = s.noticeNext := rfl
@[simp] theorem streamMap_regsNext (n : Nat) (f : Stream → Stream) : (streamMap s n f).regsNext = s.regsNext := rfl
@[simp] theorem streamMap_mem (n : Nat) (f : Stream → Stream) : (streamMap s n f).mem = s.mem := rfl
@[simp] theorem streamMap_poison (n : Nat) (f : Stream → Stream) : (streamMap s n f).poison = s.poison := rfl
@[simp] theorem streamMap_taint (n : Nat) (f : Stream → Stream) : (streamMap s n f).taint = s.taint := rfl
@[simp] theorem streamMap_soft (n : Nat) (f : Stream → Stream) : (streamMap s n f).soft = s.soft := rfl
@[simp] theorem streamMap_flitReads (n : Nat) (f : Stream → Stream) : (streamMap s n f).flitReads = s.flitReads := rfl
@[simp] theorem streamMap_agenda (n : Nat) (f : Stream → Stream) : (streamMap s n f).agenda = s.agenda := rfl
@[simp] theorem streamMap_stores (n : Nat) (f : Stream → Stream) : (streamMap s n f).stores = s.stores := rfl
@[simp] theorem streamMap_lateEnd (n : Nat) (f : Stream → Stream) : (streamMap s n f).lateEnd = s.lateEnd := rfl
@[simp] theorem streamMap_trees (n : Nat) (f : Stream → Stream) : (streamMap s n f).trees = s.trees := rfl
@[simp] theorem streamMap_moves (n : Nat) (f : Stream → Stream) : (streamMap s n f).moves = s.moves := rfl
@[simp] theorem streamMap_qc (n : Nat) (f : Stream → Stream) : (streamMap s n f).qc = s.qc := rfl
@[simp] theorem streamMap_ports (n : Nat) (f : Stream → Stream) : (streamMap s n f).ports = s.ports := rfl
@[simp] theorem streamMap_saks (n : Nat) (f : Stream → Stream) : (streamMap s n f).saks = s.saks := rfl
@[simp] theorem streamMap_pauses (n : Nat) (f : Stream → Stream) : (streamMap s n f).pauses = s.pauses := rfl
@[simp] theorem streamMap_sessions (n : Nat) (f : Stream → Stream) : (streamMap s n f).sessions = s.sessions := rfl
@[simp] theorem streamMap_xoff (n : Nat) (f : Stream → Stream) : (streamMap s n f).xoff = s.xoff := rfl
@[simp] theorem streamMap_heldOut (n : Nat) (f : Stream → Stream) : (streamMap s n f).heldOut = s.heldOut := rfl
@[simp] theorem streamMap_bootCount (n : Nat) (f : Stream → Stream) : (streamMap s n f).bootCount = s.bootCount := rfl
@[simp] theorem streamMap_posts (n : Nat) (f : Stream → Stream) : (streamMap s n f).posts = s.posts := rfl
@[simp] theorem streamMap_lateReplies (n : Nat) (f : Stream → Stream) : (streamMap s n f).lateReplies = s.lateReplies := rfl
@[simp] theorem streamMap_challenges (n : Nat) (f : Stream → Stream) : (streamMap s n f).challenges = s.challenges := rfl
@[simp] theorem streamMap_reservations (n : Nat) (f : Stream → Stream) : (streamMap s n f).reservations = s.reservations := rfl
@[simp] theorem streamMap_bootMemo (n : Nat) (f : Stream → Stream) : (streamMap s n f).bootMemo = s.bootMemo := rfl
@[simp] theorem streamMap_deferred (n : Nat) (f : Stream → Stream) : (streamMap s n f).deferred = s.deferred := rfl
@[simp] theorem streamMap_lateCmds (n : Nat) (f : Stream → Stream) : (streamMap s n f).lateCmds = s.lateCmds := rfl
@[simp] theorem streamMap_turns (n : Nat) (f : Stream → Stream) : (streamMap s n f).turns = s.turns := rfl
@[simp] theorem streamMap_parting (n : Nat) (f : Stream → Stream) : (streamMap s n f).parting = s.parting := rfl
@[simp] theorem streamMap_node (n : Nat) (f : Stream → Stream) : (streamMap s n f).node = s.node := rfl
@[simp] theorem streamMap_nodes (n : Nat) (f : Stream → Stream) : (streamMap s n f).nodes = s.nodes := rfl
@[simp] theorem streamMap_group (n : Nat) (f : Stream → Stream) : (streamMap s n f).group = s.group := rfl
@[simp] theorem streamMap_images (n : Nat) (f : Stream → Stream) : (streamMap s n f).images = s.images := rfl
@[simp] theorem streamMap_imageOps (n : Nat) (f : Stream → Stream) : (streamMap s n f).imageOps = s.imageOps := rfl
@[simp] theorem streamMap_ctxs (n : Nat) (f : Stream → Stream) : (streamMap s n f).ctxs = s.ctxs := rfl
@[simp] theorem streamMap_waiting (n : Nat) (f : Stream → Stream) : (streamMap s n f).waiting = s.waiting := rfl
@[simp] theorem streamMap_starting (n : Nat) (f : Stream → Stream) : (streamMap s n f).starting = s.starting := rfl
@[simp] theorem streamMap_passes (n : Nat) (f : Stream → Stream) : (streamMap s n f).passes = s.passes := rfl
@[simp] theorem streamMap_saves (n : Nat) (f : Stream → Stream) : (streamMap s n f).saves = s.saves := rfl
@[simp] theorem streamMap_restores (n : Nat) (f : Stream → Stream) : (streamMap s n f).restores = s.restores := rfl
@[simp] theorem streamMap_pages (n : Nat) (f : Stream → Stream) : (streamMap s n f).pages = s.pages := rfl
@[simp] theorem streamMap_engines (n : Nat) (f : Stream → Stream) : (streamMap s n f).engines = s.engines := rfl
@[simp] theorem streamMap_unitErrs (n : Nat) (f : Stream → Stream) : (streamMap s n f).unitErrs = s.unitErrs := rfl
@[simp] theorem streamMap_unitCause (n : Nat) (f : Stream → Stream) : (streamMap s n f).unitCause = s.unitCause := rfl
@[simp] theorem streamMap_codecCause (n : Nat) (f : Stream → Stream) : (streamMap s n f).codecCause = s.codecCause := rfl
@[simp] theorem streamMap_unitPass (n : Nat) (f : Stream → Stream) : (streamMap s n f).unitPass = s.unitPass := rfl
@[simp] theorem streamMap_codecPass (n : Nat) (f : Stream → Stream) : (streamMap s n f).codecPass = s.codecPass := rfl
@[simp] theorem streamMap_fencedUnits (n : Nat) (f : Stream → Stream) : (streamMap s n f).fencedUnits = s.fencedUnits := rfl
@[simp] theorem streamMap_calNext (n : Nat) (f : Stream → Stream) : (streamMap s n f).calNext = s.calNext := rfl
@[simp] theorem streamMap_codecNext (n : Nat) (f : Stream → Stream) : (streamMap s n f).codecNext = s.codecNext := rfl
@[simp] theorem streamMap_lateStacks (n : Nat) (f : Stream → Stream) : (streamMap s n f).lateStacks = s.lateStacks := rfl
@[simp] theorem streamMap_lates (n : Nat) (f : Stream → Stream) : (streamMap s n f).lates = s.lates := rfl
@[simp] theorem streamMap_fails (n : Nat) (f : Stream → Stream) : (streamMap s n f).fails = s.fails := rfl
@[simp] theorem streamMap_pauseCtx (n : Nat) (f : Stream → Stream) : (streamMap s n f).pauseCtx = s.pauseCtx := rfl
@[simp] theorem streamMap_regionErrs (n : Nat) (f : Stream → Stream) : (streamMap s n f).regionErrs = s.regionErrs := rfl
@[simp] theorem streamMap_retired (n : Nat) (f : Stream → Stream) : (streamMap s n f).retired = s.retired := rfl
@[simp] theorem streamMap_withheld (n : Nat) (f : Stream → Stream) : (streamMap s n f).withheld = s.withheld := rfl
@[simp] theorem streamMap_retireNext (n : Nat) (f : Stream → Stream) : (streamMap s n f).retireNext = s.retireNext := rfl
@[simp] theorem streamMap_frameSeq (n : Nat) (f : Stream → Stream) : (streamMap s n f).frameSeq = s.frameSeq := rfl
@[simp] theorem streamMap_running (n : Nat) (f : Stream → Stream) : (streamMap s n f).running = s.running := rfl
@[simp] theorem streamMap_disc (n : Nat) (f : Stream → Stream) : (streamMap s n f).disc = s.disc := rfl
@[simp] theorem streamMap_power (n : Nat) (f : Stream → Stream) : (streamMap s n f).power = s.power := rfl
@[simp] theorem streamMap_refresh (n : Nat) (f : Stream → Stream) : (streamMap s n f).refresh = s.refresh := rfl
@[simp] theorem streamMap_flash (n : Nat) (f : Stream → Stream) : (streamMap s n f).flash = s.flash := rfl
@[simp] theorem streamMap_atts (n : Nat) (f : Stream → Stream) : (streamMap s n f).atts = s.atts := rfl
@[simp] theorem streamMap_reportSeq (n : Nat) (f : Stream → Stream) : (streamMap s n f).reportSeq = s.reportSeq := rfl
@[simp] theorem streamMap_diag (n : Nat) (f : Stream → Stream) : (streamMap s n f).diag = s.diag := rfl
@[simp] theorem streamMap_diagLog (n : Nat) (f : Stream → Stream) : (streamMap s n f).diagLog = s.diagLog := rfl
@[simp] theorem streamMap_tap (n : Nat) (f : Stream → Stream) : (streamMap s n f).tap = s.tap := rfl
@[simp] theorem streamMap_events (n : Nat) (f : Stream → Stream) : (streamMap s n f).events = s.events := rfl
@[simp] theorem streamMap_nextSeq (n : Nat) (f : Stream → Stream) : (streamMap s n f).nextSeq = s.nextSeq := rfl
@[simp] theorem streamMap_counters (n : Nat) (f : Stream → Stream) : (streamMap s n f).counters = s.counters := rfl
@[simp] theorem streamMap_snap (n : Nat) (f : Stream → Stream) : (streamMap s n f).snap = s.snap := rfl
@[simp] theorem streamMap_mirrorNext (n : Nat) (f : Stream → Stream) : (streamMap s n f).mirrorNext = s.mirrorNext := rfl
@[simp] theorem streamMap_mirrorSums (n : Nat) (f : Stream → Stream) : (streamMap s n f).mirrorSums = s.mirrorSums := rfl
@[simp] theorem streamMap_correcting (n : Nat) (f : Stream → Stream) : (streamMap s n f).correcting = s.correcting := rfl

end Sys2Proof.Machine
end

