-- ==== Sys2Proof/Laws/Canonical.lean ====
section
/-! SUPPORT. Every named update of the state keeps its tables in canonical form. -/

namespace Sys2Proof.Machine

open Sys2Proof

variable {s : State}

theorem canonical_reset : Canonical State.reset := ⟨by decide, by decide, by decide, by decide, by decide⟩

/-- A state whose tables are those of a canonical one is canonical. -/
theorem canonical_of_tables {t : State} (h : Canonical s) (hm : t.mem = s.mem := by rfl) (hr : t.regs = s.regs := by rfl)
    (he : t.engines = s.engines := by rfl) (hs : t.sessions = s.sessions := by rfl) (hv : t.events = s.events := by rfl) :
    Canonical t :=
  ⟨by rw [hm]; exact h.mem, by rw [hr]; exact h.regs, by rw [he]; exact h.engines, by rw [hs]; exact h.sessions,
    by rw [hv]; exact h.events⟩

theorem canonical_ite {c : Prop} [Decidable c] {t u : State} (h1 : c → Canonical t) (h2 : ¬c → Canonical u) :
    Canonical (if c then t else u) := by
  split
  · exact h1 ‹_›
  · exact h2 ‹_›

/-- A fold of updates that keep the form keeps it. -/
theorem canonical_foldl {β : Type} {f : State → β → State} (hf : ∀ s x, Canonical s → Canonical (f s x)) (h : Canonical s)
    (l : List β) : Canonical (l.foldl f s) := by
  induction l generalizing s with
  | nil => exact h
  | cons x t ih => exact ih (hf s x h)

theorem canonical_regSet (h : Canonical s) (a : Nat) (w : Word) : Canonical (regSet s a w) :=
  ⟨h.mem, swf_regSet h.regs a w, h.engines, h.sessions, h.events⟩

theorem canonical_regSetF (h : Canonical s) (a hi lo v : Nat) : Canonical (regSetF s a hi lo v) := canonical_regSet h _ _

theorem canonical_regCount (h : Canonical s) (a hi lo n : Nat) : Canonical (regCount s a hi lo n) := canonical_regSet h _ _

theorem canonical_regWrap (h : Canonical s) (a hi lo n : Nat) : Canonical (regWrap s a hi lo n) := canonical_regSet h _ _

theorem canonical_emit (h : Canonical s) (o : Output) : Canonical (emit s o) := canonical_of_tables h

theorem canonical_notice (h : Canonical s) (i : Nat) : Canonical (notice s i) := canonical_of_tables h

theorem canonical_logEvent (h : Canonical s) (c : Nat) (u : BitVec 16) (n : Option Nat) (d : Bytes) :
    Canonical (logEvent s c u n d) :=
  ⟨h.mem, h.regs, h.engines, h.sessions, by simp [logEvent]⟩

theorem canonical_logOther (h : Canonical s) (u : BitVec 16) (n : Option Nat) (r : Nat) : Canonical (logOther s u n r) :=
  canonical_logEvent h _ _ _ _

theorem canonical_beginHealth (h : Canonical s) : Canonical (beginHealth s) := by
  unfold beginHealth
  split <;> exact canonical_of_tables h

theorem canonical_freeVal (h : Canonical s) : Canonical (freeVal s).2 := canonical_of_tables h

theorem canonical_freeBytes (h : Canonical s) (n : Nat) : Canonical (freeBytes s n).2 := canonical_of_tables h

theorem canonical_bytesPut (h : Canonical s) (a : Nat) (b : Bytes) : Canonical (bytesPut s a b) :=
  ⟨wf_bytesPut h.mem a b, h.regs, h.engines, h.sessions, h.events⟩

theorem canonical_spanWrite (h : Canonical s) (a : Nat) (b : Bytes) : Canonical (spanWrite s a b) :=
  ⟨wf_spanWrite h.mem a b, h.regs, h.engines, h.sessions, h.events⟩

theorem canonical_poisonAdd (h : Canonical s) (w : Nat) : Canonical (poisonAdd s w) := by
  unfold poisonAdd
  split
  · exact h
  · exact canonical_of_tables h

theorem canonical_poisonClear (h : Canonical s) (l : List Nat) : Canonical (poisonClear s l) := by
  rw [(poisonClear_spec s l).1]
  exact canonical_of_tables h

theorem canonical_storeBytes (h : Canonical s) (a : Nat) (b : Bytes) : Canonical (storeBytes s a b) := by
  have e := (storeBytes_spec s a b).2.2.2.2
  rw [e]
  exact ⟨wf_storeBytes h.mem a b, h.regs, h.engines, h.sessions, h.events⟩

theorem canonical_engSet (h : Canonical s) (e : Nat) (x : Engine) : Canonical (engSet s e x) :=
  ⟨h.mem, h.regs, swf_engSet h.engines e x, h.sessions, h.events⟩

theorem canonical_fenceEngine (h : Canonical s) (e c : Nat) : Canonical (fenceEngine s e c) :=
  canonical_beginHealth (canonical_engSet h _ _)

theorem canonical_sessSet (h : Canonical s) (n : Nat) (x : Session) : Canonical (sessSet s n x) :=
  ⟨h.mem, h.regs, h.engines, keysRise_sessSet h.sessions n x, h.events⟩

theorem canonical_sessMap (h : Canonical s) (n : Nat) (f : Session → Session) : Canonical (sessMap s n f) := by
  unfold sessMap
  split
  · exact canonical_sessSet h n _
  · exact h

theorem canonical_ctxMap (h : Canonical s) (n : Nat) (f : Ctx → Ctx) : Canonical (ctxMap s n f) := canonical_of_tables h

theorem canonical_ctxFree (h : Canonical s) (n : Nat) : Canonical (ctxFree s n) := canonical_of_tables h

theorem canonical_streamMap (h : Canonical s) (n : Nat) (f : Stream → Stream) : Canonical (streamMap s n f) := canonical_of_tables h

theorem canonical_sramUncorrectable (h : Canonical s) (lin : Nat) : Canonical (sramUncorrectable s lin) := by
  unfold sramUncorrectable
  dsimp only
  refine canonical_ite (fun _ => canonical_fenceEngine ?_ _ _) (fun _ => canonical_beginHealth ?_) <;>
    exact canonical_engSet (canonical_notice (canonical_regSetF (canonical_regCount (canonical_logEvent
      (canonical_poisonAdd h _) _ _ _ _) _ _ _ _) _ _ _ _) _) _ _

theorem canonical_stackUncorrectable (h : Canonical s) (lin : Nat) : Canonical (stackUncorrectable s lin) := by
  unfold stackUncorrectable
  dsimp only
  have h1 := canonical_notice (canonical_regSetF (canonical_regCount (canonical_logEvent
    (canonical_poisonAdd h (wordAt lin)) 0x0101 (unitOf 3 (16 * stackOf lin + channelOf lin)) none
      (toLE (channelAddr (wordAt lin)) 8)) (oMem (stackOf lin) + 0x20) 15 8 1) (oMem (stackOf lin) + 0x20) 7 4 (channelOf lin)) 3
  apply canonical_beginHealth
  refine canonical_ite (fun _ => ?_) (fun _ => ?_) <;> exact (canonical_of_tables h1)

theorem canonical_sramCorrected (h : Canonical s) (lin : Nat) : Canonical (sramCorrected s lin) := canonical_regCount h _ _ _ _

theorem canonical_stackCorrected (h : Canonical s) (lin : Nat) : Canonical (stackCorrected s lin) := by
  unfold stackCorrected
  have h1 := canonical_regCount h (oMem (stackOf lin) + 0x20) 31 16 1
  exact canonical_ite (fun _ => h1) (fun _ => (canonical_of_tables h1))

theorem canonical_outsideCode (h : Canonical s) (lin : Nat) (b : Bool) : Canonical (outsideCode s lin b) := by
  unfold outsideCode freeVal freeBytes
  dsimp only
  have h1 : Canonical ({ s with freeCtr := s.freeCtr + 1 } : State) := canonical_of_tables h
  have h2 (n : Nat) (a : Nat) (d : Bytes) : Canonical (bytesPut ({ s with freeCtr := s.freeCtr + 1 + n } : State) a d) :=
    canonical_bytesPut (canonical_of_tables h) a d
  refine canonical_ite (fun _ => canonical_ite (fun _ => canonical_stackUncorrectable h1 _)
    (fun _ => canonical_sramUncorrectable h1 _)) (fun _ => canonical_ite (fun _ => canonical_ite
    (fun _ => canonical_stackCorrected (h2 _ _ _) _) (fun _ => canonical_sramCorrected (h2 _ _ _) _)) (fun _ => h2 _ _ _))

theorem canonical_eccFind (h : Canonical s) (f : EccFind) : Canonical (eccFind s f) := by
  unfold eccFind codewordFind sramFind
  refine canonical_ite (fun _ => h) (fun _ => canonical_ite (fun _ => ?_) (fun _ => canonical_ite (fun _ => ?_) (fun _ => h)))
  · refine canonical_ite (fun _ => canonical_outsideCode h _ _) (fun _ => ?_)
    split
    · exact h
    · exact canonical_stackCorrected h _
    · exact canonical_stackUncorrectable h _
  · exact canonical_ite (fun _ => h) (fun _ => canonical_ite
      (fun _ => canonical_ite (fun _ => h) (fun _ => canonical_of_tables (canonical_sramCorrected h _))) (fun _ => canonical_ite
      (fun _ => canonical_sramUncorrectable h _) (fun _ => canonical_outsideCode h _ _)))

theorem canonical_softRead (h : Canonical s) (l : List Nat) : Canonical (softRead s l) :=
  canonical_ite (fun _ => h) (fun _ => canonical_foldl (fun _ w h => canonical_sramCorrected h w) h _)

/-- A scan for errors keeps the form. -/
theorem canonical_eccScan (h : Canonical s) (l : List Nat) (finds : List EccFind) : Canonical (eccScan s l finds) :=
  canonical_foldl (fun _ f h => canonical_eccFind h f) (canonical_softRead h l) _

/-- Where no word has a single-bit error, a read corrects nothing. -/
theorem softRead_clean (h : s.soft = []) (l : List Nat) : softRead s l = s := by simp [softRead, h]

/-- Where no word has a single-bit error and no error is reported, a scan does nothing. -/
theorem eccScan_nil (h : s.soft = []) (l : List Nat) : eccScan s l [] = s := by
  unfold eccScan
  rw [softRead_clean h]
  rfl

end Sys2Proof.Machine
end

