-- ==== Sys2Proof/Laws/Commands.lean ====
section
/-! SUPPORT. What a step and a command packet can do, said once. -/

namespace Sys2Proof.Machine

open Sys2Proof

/-- A step runs the command at the front of the queue with the queue's rest. -/
theorem step_cons {s : State} {c : Instr} {rest : List Instr} (h : s.pending = c :: rest) :
    step s = exec c { s with pending := rest } := by simp [step, h]

/-- A step on an empty queue is a tick of the clock. -/
theorem step_nil {s : State} (h : s.pending = []) : step s = .next (idle s) := by simp [step, h]

/-- No word of the table spells a command. -/
@[simp] theorem withFetchWord_eq (s : State) (nbits w : Nat) : s.withFetchWord nbits w = s := rfl

/-- A packet of a session that is not open changes nothing (R356, R357). -/
theorem command_closed {s : State} {p : Packet} {n : Nat} (op : Byte) (h : p.origin = .session n) (hs : sessGet s n = none) :
    command op p s = { s with out := [] } := by
  have h1 : sessGet ({ s with out := [] } : State) n = none := hs
  unfold command
  simp only [h]
  split
  · simp only [sessionCommand, h1]
  · rfl

/-- A packet of a session before the device is ready changes nothing. -/
theorem command_unready {s : State} {p : Packet} {n : Nat} (op : Byte) (h : p.origin = .session n) (hr : isReady s = false) :
    command op p s = { s with out := [] } := by
  have h1 : isReady ({ s with out := [] } : State) = false := hr
  unfold command
  simp only [h, h1]
  rfl

/-- A packet that a check of steps 1 to 6 stops is answered with that code and has no other effect (R375). -/
theorem command_stopped {s : State} {p : Packet} {n : Nat} {x : Session} {op : Byte} {c : Code} (h : p.origin = .session n)
    (hr : isReady s = true) (hs : sessGet s n = some x) (hf : 32 + p.params.length ≤ x.segment)
    (hc : sessionCheck x n op p = some c) : command op p s = stopCommand { s with out := [] } p op c := by
  have h1 : isReady ({ s with out := [] } : State) = true := hr
  have h2 : sessGet ({ s with out := [] } : State) n = some x := hs
  unfold command
  simp only [h, h1, if_true, sessionCommand, h2, hc, if_neg (Nat.not_lt.mpr hf)]

/-- What stops a command without a firmware fault only answers it. -/
theorem stopCommand_reply {s : State} {p : Packet} {op : Byte} {c : Code} (h : c ≠ .internal) :
    stopCommand s p op c = sendReply s p op c [] 0xFFFFFFFF := if_neg h

/-- Without a firmware fault the checks answer the code of the first failure. -/
theorem codeOfChecks_sound {p : Packet} (h : p.fault = none) (l : List (Nat × Bool × Code)) :
    codeOfChecks p l = (l.find? (·.2.1)).map (·.2.2) := by
  unfold codeOfChecks firstStop
  rw [h]
  cases l.find? (·.2.1) <;> rfl

/-- A code that the checks answer without a firmware fault is the code of one of them. -/
theorem codeOfChecks_mem {p : Packet} {l : List (Nat × Bool × Code)} {c : Code} (h : p.fault = none)
    (hc : codeOfChecks p l = some c) : ∃ y ∈ l, y.2.1 = true ∧ y.2.2 = c := by
  rw [codeOfChecks_sound h, Option.map_eq_some_iff] at hc
  obtain ⟨y, hy, rfl⟩ := hc
  exact ⟨y, List.mem_of_find?_eq_some hy, List.find?_some (p := fun y : Nat × Bool × Code => y.2.1) hy, rfl⟩

/-- Without a firmware fault the checks of steps 1 to 6 do not answer INTERNAL. -/
theorem sessionCheck_ne_internal {x : Session} {n : Nat} {op : Byte} {p : Packet} {c : Code} (h : p.fault = none)
    (hc : sessionCheck x n op p = some c) : c ≠ .internal := by
  obtain ⟨y, hy, -, rfl⟩ := codeOfChecks_mem h hc
  simp only [headerChecks, List.cons_append, List.nil_append, List.mem_cons, List.not_mem_nil, or_false] at hy
  rcases hy with rfl | rfl | rfl | rfl | rfl | rfl <;> simp

/-- A packet that a check of steps 1 to 6 refuses is answered with the first refusal and has no other effect (R375). -/
theorem command_refused {s : State} {p : Packet} {n : Nat} {x : Session} {op : Byte} {c : Code} (h : p.origin = .session n)
    (hr : isReady s = true) (hs : sessGet s n = some x) (hf : 32 + p.params.length ≤ x.segment) (hp : p.fault = none)
    (hc : sessionCheck x n op p = some c) : command op p s = sendReply { s with out := [] } p op c [] 0xFFFFFFFF := by
  rw [command_stopped h hr hs hf hc, stopCommand_reply (sessionCheck_ne_internal hp hc)]

/-- A packet that passes steps 1 to 6 is answered by its own opcode (R375). -/
theorem command_admitted {s : State} {p : Packet} {n : Nat} {x : Session} {op : Byte} (h : p.origin = .session n)
    (hr : isReady s = true) (hs : sessGet s n = some x) (hf : 32 + p.params.length ≤ x.segment)
    (hc : sessionCheck x n op p = none) : command op p s = answer { s with out := [] } p op := by
  have h1 : isReady ({ s with out := [] } : State) = true := hr
  have h2 : sessGet ({ s with out := [] } : State) n = some x := hs
  unfold command
  simp only [h, h1, if_true, sessionCommand, h2, hc, if_neg (Nat.not_lt.mpr hf)]

/-- A packet longer than the session's segment size changes nothing (R342). -/
theorem command_long {s : State} {p : Packet} {n : Nat} {x : Session} (op : Byte) (h : p.origin = .session n)
    (hs : sessGet s n = some x) (hf : x.segment < 32 + p.params.length) : command op p s = { s with out := [] } := by
  have h2 : sessGet ({ s with out := [] } : State) n = some x := hs
  unfold command
  simp only [h]
  split
  · simp only [sessionCommand, h2, if_pos hf]
  · rfl

end Sys2Proof.Machine
end

