-- ==== Sys2Proof/Tests/Witnesses.lean ====
section
/-! SUPPORT. For every statement that has hypotheses, a concrete state and operands that meet them together, one
witness for each clause. The states are built by a few helpers: a ready device with two sessions, and what a clause
needs beside it. -/

namespace Sys2Proof.Tests

set_option Elab.async false

open Sys2Proof Sys2Proof.Machine Sys2Proof.Terms

/-- A session of a class as SESSION_OPEN leaves it. -/
def tSession (cls : Cls) : Session :=
  { cls := cls, port := 0, iface := 0, addr := 7, udp := 9, window := 16, segment := 8192, expect := 0, nakFor := none
    grant := 16, held := 0, nextPsn := 0, kept := [], ackSent := 0, grantSent := 16, ackSince := none, accepted := 0
    ackNow := false, timeouts := 0, rtoNs := 64000, timerAt := 0, ringAck := 0, doneSeq := 0, ring := [], reserved := 0
    slipSeen := false, holdSeen := false, peerGrant := 0, peerUsed := 0 }

/-- A ready device in IDLE with an OWNER session 1, a JOB session 2 and interface 0 of port 0 up. -/
def tReady : State :=
  { power := { phase := .idle }, sessions := [(1, tSession .owner), (2, tSession .job)]
    ports := [{ port := 0, idx := 0, up := true }], regs := [(0x040008, 1), (0x04010C, 0x0A000001)] }

/-- A packet of session n with given parameter bytes. -/
def tPacket (n : Nat) (b : Bytes) : Packet :=
  { origin := .session n, session := BitVec.ofNat 16 n, tag := 5, length := BitVec.ofNat 32 b.length, params := b }

/-- Zero bytes. -/
def z (n : Nat) : Bytes := List.replicate n 0

/-- A command of session 1, with its parameters, that passes steps 1 to 6. -/
theorem tAdmitted {c : Instr} {s : State} {op : Byte} {b : Bytes} {n : Nat} {x : Session} (h : commandOf c = some (op, tPacket n b))
    (hr : isReady s = true) (ho : sessGet s n = some x) (hc : sessionCheck x n op (tPacket n b) = none)
    (hf : heldOff s op = false) (hl : 32 + b.length ≤ x.segment := by decide +kernel) : Admitted c s n x op (tPacket n b) :=
  ⟨h, hr, rfl, ho, hl, hc, hf⟩

theorem tReady_canonical : Canonical tReady :=
  ⟨by decide, by decide, by decide, by decide, by decide⟩

/-- A queue with a command in front, and the step over it. -/
theorem witness_step : ({ tReady with pending := [.ping (tPacket 1 [])] } : State).pending = [.ping (tPacket 1 [])] ∧
    tReady.pending = [] ∧ Canonical { tReady with pending := [.ping (tPacket 1 [])] } ∧
    ∃ t, step { tReady with pending := [.ping (tPacket 1 [])] } = .next t :=
  ⟨rfl, rfl, ⟨by decide, by decide, by decide, by decide, by decide⟩, _, rfl⟩

/-- A command with another PROTOCOL fails step 2, and one that a firmware fault stops at step 1 never comes to it. -/
theorem witness_first_failed :
    commandOf (.ping { tPacket 1 [] with protocol := 2 }) = some (0x03, { tPacket 1 [] with protocol := 2 }) ∧
    isReady tReady = true ∧ sessGet tReady 1 = some (tSession .owner) ∧
    32 + (tPacket 1 []).params.length ≤ (tSession .owner).segment ∧
    sessionCheck (tSession .owner) 1 0x03 { tPacket 1 [] with protocol := 2 } = some .badParam ∧
    ({ tPacket 1 [] with protocol := 2 } : Packet).fault = none ∧
    commandOf (.ping { tPacket 1 [] with fault := some 1 }) = some (0x03, { tPacket 1 [] with fault := some 1 }) ∧
    sessionCheck (tSession .owner) 1 0x03 { tPacket 1 [] with fault := some 1 } = some .internal := by decide +kernel

theorem witness_ping : Admitted (.ping (tPacket 1 [])) tReady 1 (tSession .owner) 0x03 (tPacket 1 []) :=
  tAdmitted rfl rfl rfl (by decide +kernel) rfl

theorem witness_time_query : Admitted (.timeQuery (tPacket 1 [])) tReady 1 (tSession .owner) 0x70 (tPacket 1 []) :=
  tAdmitted rfl rfl rfl (by decide +kernel) rfl

/-- A job descriptor of image 1, as its fields. -/
def tDesc : Desc :=
  { image := 1, base := 0x1000, seed := 3, stream := 0, stepFirst := 0, steps := 4, priority := 0, sampler := false
    startPaused := false, tokens := 0, length := 0, ptLayers := 1, ptRoot := 0x200000, recompute := 0, logBase := 0x100000
    logEntries := 8, sampLogits := 0, sampTokens := 0, vocab := 0, topK := 0, greedy := false, invTemp := 0, topP := 0
    opalTensor := 0, raw := [] }

/-- A context of session 1 in a state. -/
def tCtx (st : CtxState) : Ctx :=
  { num := 3, state := st, desc := tDesc, step := 0, stepsLeft := 4, length := 0, readyBeat := 0, stateAt := 0, owner := 1
    tag := 9, quiet := false }

theorem witness_job_query :
    let s := { tReady with ctxs := [tCtx .ready] }
    Admitted (.jobQuery (tPacket 1 [3, 0])) s 1 (tSession .owner) 0x31 (tPacket 1 [3, 0]) ∧
    ctxGet s (field (tPacket 1 [3, 0]).params 0 2) = some (tCtx .ready) ∧ mayName ⟨.owner, some 1⟩ 1 = true :=
  ⟨tAdmitted rfl rfl rfl (by decide +kernel) rfl, by decide +kernel, rfl⟩

/-- TELEMETRY_READ of selector 2. -/
def tTelemetry : Bytes := [2, 0] ++ z 6 ++ z 8 ++ [1, 0, 0, 0]

theorem witness_telemetry :
    Admitted (.telemetryRead (tPacket 1 tTelemetry)) tReady 1 (tSession .owner) 0xA1 (tPacket 1 tTelemetry) ∧
    field tTelemetry 0 2 = 2 ∧ zeroAt tTelemetry 2 6 = true ∧ field tTelemetry 8 8 = 0 ∧ 0 < field tTelemetry 16 4 ∧
    48 ≤ (tSession .owner).segment - 32 :=
  ⟨tAdmitted rfl rfl rfl (by decide +kernel) rfl, by decide +kernel⟩

/-- DIGEST_READ of entry 0 of context 3. -/
def tDigest : Bytes := [3, 0] ++ z 6 ++ z 8 ++ [1, 0, 0, 0]

theorem witness_digest_read :
    let k := { tCtx .ready with logged := 1 }
    let s := { tReady with ctxs := [k] }
    Admitted (.digestRead (tPacket 1 tDigest)) s 1 (tSession .owner) 0x50 (tPacket 1 tDigest) ∧
    ctxGet s (field tDigest 0 2) = some k ∧ mayName ⟨.owner, some 1⟩ k.owner = true ∧ k.desc.logEntries ≠ 0 ∧
    zeroAt tDigest 2 6 = true ∧ k.logged = field tDigest 8 8 + 1 ∧ 0 < field tDigest 16 4 ∧
    40 ≤ (tSession .owner).segment - 32 ∧ anyPoison s (spanLinear 0x100000 32) = false ∧
    field (spanRead s 0x100000 32) 8 8 = field tDigest 8 8 :=
  ⟨tAdmitted rfl rfl rfl (by decide +kernel) rfl, by decide +kernel⟩

/-- REG_READ of DEV_ID. -/
def tRegRead : Bytes := z 4 ++ [1, 0, 0, 0]

theorem witness_reg_read :
    Admitted (.regRead (tPacket 1 tRegRead)) tReady 1 (tSession .owner) 0x10 (tPacket 1 tRegRead) ∧ tReady.votes = [] ∧
    regRead (taken tReady 1 (tPacket 1 tRegRead)) .owner (field tRegRead 0 4) (field tRegRead 4 4) = .ok [0x01000009] ∧
    0 < field tRegRead 4 4 ∧ field tRegRead 4 4 ≤ 64 :=
  ⟨tAdmitted rfl rfl rfl (by decide +kernel) rfl, by decide +kernel⟩

/-! ## Sessions -/

/-- A BOOT packet with given parameter bytes. -/
def tBoot (b : Bytes) : Packet :=
  { origin := .boot 0 0 7 9, session := 0xFFFF, tag := 5, length := BitVec.ofNat 32 b.length, params := b }

/-- SESSION_OPEN parameters: the mode and class, the session, the window of 16, the nonce of ones where asked. -/
def tOpen (mode cls session : Byte) (nonce : Bytes) : Bytes :=
  [mode, cls, session, 0] ++ [16, 0, 0, 0] ++ z 8 ++ nonce ++ z 144

/-- tReady with one challenge and one reservation, both of nonce 1. -/
def tOpening : State :=
  { tReady with challenges := [{ nonce := 1, drawn := 0 }]
                reservations := [{ session := 5, cls := .job, window := 16, nonce := 1, made := 0 }] }

/-- The conditions of BootAdmitted for a command with SESSION_OPEN parameters. -/
theorem tBootAdmitted {c : Instr} {b : Bytes} (h : commandOf c = some (0x01, tBoot b)) (hc : bootCheck 0x01 (tBoot b) = none)
    (hn : b.length = 176) : BootAdmitted c tOpening 0 0 7 9 (tBoot b) := by
  have hl : (tBoot b).params.length = 176 := hn
  refine ⟨h, rfl, rfl, by decide, by decide +kernel, by decide +kernel, ?_, ⟨?_, ?_, rfl⟩, by decide +kernel, hc, rfl⟩ <;>
    rw [hl] <;> decide +kernel

theorem witness_challenge :
    BootAdmitted (.challenge (tBoot (tOpen 0 0 0 (z 16)))) tOpening 0 0 7 9 (tBoot (tOpen 0 0 0 (z 16))) ∧
    openFieldsOk (tOpen 0 0 0 (z 16)) 0 = true :=
  ⟨tBootAdmitted (by decide +kernel) (by decide +kernel) (by decide +kernel), by decide +kernel⟩

theorem witness_owner_claim :
    let b := tOpen 1 0 0 (1 :: z 15)
    BootAdmitted (.ownerClaim (tBoot b)) tOpening 0 0 7 9 (tBoot b) ∧ openFieldsOk b 1 = true ∧
    (liveChallenges tOpening).any (fun y => y.nonce == BitVec.ofNat 128 (field b 16 16)) = true ∧
    freeSession tOpening = some 0 ∧ grantWindow tOpening (segmentOf tOpening 0) (field b 4 4) = some 16 :=
  ⟨tBootAdmitted (by decide +kernel) (by decide +kernel) (by decide +kernel), by decide +kernel⟩

theorem witness_admit :
    let b := tOpen 3 0 5 (1 :: z 15)
    let r : Reservation := { session := 5, cls := .job, window := 16, nonce := 1, made := 0 }
    BootAdmitted (.admitSession (tBoot b)) tOpening 0 0 7 9 (tBoot b) ∧ openFieldsOk b 3 = true ∧ r ∈ liveReservations tOpening ∧
    (liveReservations tOpening).find? (fun y => y.session == field b 2 2 && y.nonce == BitVec.ofNat 128 (field b 16 16)) = some r :=
  ⟨tBootAdmitted (by decide +kernel) (by decide +kernel) (by decide +kernel), by decide +kernel⟩

theorem witness_reserve :
    let b := tOpen 2 2 0 (z 16)
    Admitted (.reserve (tPacket 1 b)) tReady 1 (tSession .owner) 0x01 (tPacket 1 b) ∧ openFieldsOk b 2 = true ∧
    freeSession (taken tReady 1 (tPacket 1 b)) = some 0 ∧
    grantWindow (taken tReady 1 (tPacket 1 b)) 8192 (field b 4 4) = some 16 :=
  ⟨tAdmitted (by decide +kernel) rfl rfl (by decide +kernel) rfl, by decide +kernel⟩

theorem witness_session_close :
    Admitted (.sessionClose (tPacket 1 [0xFF, 0xFF])) tReady 1 (tSession .owner) 0x02 (tPacket 1 [0xFF, 0xFF]) ∧
    keysRise tReady.sessions = true ∧ field (tPacket 1 [0xFF, 0xFF]).params 0 2 = 0xFFFF ∧ (tSession .owner).held = 0 :=
  ⟨tAdmitted rfl rfl rfl (by decide +kernel) rfl, by decide +kernel⟩

/-- The same when a WRITE carried the command. -/
theorem witness_session_close_by_write :
    let p : Packet := { tPacket 1 [0xFF, 0xFF] with reqPsn := some 3 }
    Admitted (.sessionClose p) tReady 1 (tSession .owner) 0x02 p ∧ field p.params 0 2 = 0xFFFF :=
  ⟨⟨rfl, rfl, rfl, rfl, by decide +kernel, by decide +kernel, rfl⟩, by decide +kernel⟩

/-! ## Register writes -/

/-- The common conditions of the statements about register writes. -/
theorem witness_owner_writes : Canonical tReady ∧ isReady tReady = true ∧ sessGet tReady 1 = some (tSession .owner) ∧
    (tSession .owner).cls = .owner := ⟨⟨by decide, by decide, by decide, by decide, by decide⟩, rfl, rfl, rfl⟩

theorem witness_refused_write : regAt (0x000FF0 + 4 * 0) = none ∧
    (∃ r, regAt (oPwrCtrl + 4 * 0) = some r ∧ mayWrite r.level (tSession .job).cls = false) ∧ (tSession .job).cls ≠ .peer := by
  refine ⟨by decide +kernel, ?_, by decide⟩
  exact ⟨_, rfl, by decide +kernel⟩

/-- A write of KV_CTRL, which has no rule of its own. -/
theorem witness_plain_write : WriteAdmitted tReady 1 (tSession .owner) oKvCtrl [0x12345678] ∧ plain oKvCtrl = true ∧
    (∃ r, regAt oKvCtrl = some r ∧ ∀ f ∈ r.fields, f.acc ≠ .ro → 25 < f.lo ∨ f.hi < 25) := by
  refine ⟨⟨rfl, rfl, by decide, by decide, ?_, by decide +kernel⟩, by decide +kernel, ?_⟩
  · intro i hi
    obtain rfl : i = 0 := by simpa using hi
    exact ⟨_, rfl, by decide +kernel⟩
  · exact ⟨_, rfl, by decide +kernel⟩

/-- DEV_ID has read-only fields alone. -/
theorem witness_read_only : ∃ r, regAt 0 = some r ∧ mayWrite r.level .owner = true ∧ ∀ f ∈ r.fields, f.acc = .ro :=
  ⟨_, rfl, by decide +kernel, by decide +kernel⟩

/-- REG_WRITE of KV_CTRL. -/
def tRegWrite : Bytes := [0, 0, 8, 0] ++ [1, 0, 0, 0] ++ [0x78, 0x56, 0x34, 0x12]

theorem witness_reg_write :
    Admitted (.regWrite (tPacket 1 tRegWrite)) tReady 1 (tSession .owner) 0x11 (tPacket 1 tRegWrite) ∧
    field tRegWrite 0 4 = oKvCtrl ∧ field tRegWrite 4 4 = 1 ∧ BitVec.ofNat 32 (field tRegWrite 8 4) = 0x12345678 :=
  ⟨tAdmitted rfl rfl rfl (by decide +kernel) rfl, by decide +kernel⟩

/-- tReady in STANDBY. -/
def tStandby : State := { tReady with power := { tReady.power with phase := .standby }, regs := [(0x020000, 0x40000020), (0x040008, 1)] }

theorem witness_power_control : standbyBusy tReady = false ∧ standbyBusy { tReady with ctxs := [tCtx .running] } = true ∧
    tReady.power.phase ≠ .standby ∧ tStandby.power.phase = .standby ∧ isReady tStandby = true ∧
    regF tReady oPwrCtrl 30 30 = 0 := by decide +kernel

/-- tReady with engine 4 fenced for a cause: 0x20_4010 is its ENG_FENCE. -/
def tFenced (w : Word) : State := { tReady with regs := [(0x040008, 1), (0x204010, w)] }

theorem witness_engine_fences : engineFenced tReady 4 = false ∧ (engGet tReady 4).fenceReq = none ∧
    engineFenced (tFenced 0x83000000) 4 = true ∧
    liftable (regF (tFenced 0x83000000) (oEng 4 + 0x10) 27 24) ((engGet tReady 4).passArray && (engGet tReady 4).passSram) = true ∧
    engineFenced (tFenced 0x81000000) 4 = true ∧
    liftable (regF (tFenced 0x81000000) (oEng 4 + 0x10) 27 24) ((engGet tReady 4).passArray && (engGet tReady 4).passSram) = false := by
  decide +kernel

theorem witness_unit_fences :
    (∀ c ∈ bitsOf 16 (regF tReady (oCal 7 + 0x10) 15 0), (0x8001 : BitVec 16).getLsbD c = false →
      liftable ((sfind tReady.unitCause (16 * 7 + c)).getD 3).toNat (tReady.unitPass.contains (16 * 7 + c)) = true) ∧
    (∀ v ∈ bitsOf 8 (regF tReady oVidFence 7 0), (0x81 : BitVec 8).getLsbD v = false →
      liftable ((sfind tReady.codecCause v).getD 3).toNat (tReady.codecPass.contains v) = true) ∧
    (∀ q, q = 0 ∨ q = 2 → quadBusy tReady q = false ∧ quadBusy tReady (q + 1) = false) := by
  refine ⟨by decide +kernel, by decide +kernel, ?_⟩
  rintro q (rfl | rfl) <;> decide +kernel

theorem witness_time_and_ports : (joined tReady).isSome = false ∧ (1 : BitVec 2).toNat ≠ regF tReady oTbCtrl 1 0 ∧
    (2 : BitVec 2) ≠ 3 ∧ (2 : BitVec 2).toNat ≠ regF tReady (oEth 1) 1 0 ∧ largestSegment tReady 1 = 0 ∧
    largestSegment tReady 0 + 130 ≤ maxFrame tReady 0 ∧ regF tReady (oEth 0) 1 0 ≠ 3 ∧ regF tReady (oEth 0 + 8) 5 4 ≠ 3 ∧
    largestSegment tReady 0 + 130 ≤ 9000 ∧ (List.replicate 12 (0 : Word)).length = 12 := by decide +kernel

theorem witness_pool_map_notice :
    tReady.pages.any (fun p => pageStack p.id == 7) = false ∧ poolFits (getF (0x100 : Word) 16 0) (getF (0x40 : Word) 16 0) = true ∧
    getF (0x80000003 : Word) 31 31 = 1 ∧ protAddr 0 0 0 ≤ protAddr 0x1000 0 0xFFF ∧ protArea (protAddr 0 0 0) ≠ 0 ∧
    protArea (protAddr 0 0 0) = protArea (protAddr 0x1000 0 0xFFF) ∧
    regF { tReady with regs := [(0x011010, 0x80000003)] } (oProt 0 + 16) 31 31 = 1 := by decide +kernel

/-! ## Images, jobs and contexts -/

/-- A loaded image of one beat on engine 0: a NOP. -/
def tImage : Image :=
  { id := 1, aid := 0x00010001, part := 9, beats := 1, mask := 1, slots := 1, async := 2, sr3 := false, members := 0, ops := []
    tensors := [], foots := [], calderas := [], refolds := [], source := 0x40000, size := 64, digest := 0, plan := 0
    loads := [], raw := []
    progs := [{ engine := 0, strides := [], beats := [{ first := 0, count := 1, reps := 1, strideSet := 0 }], bytes := 32
                bundles := [{ cls := .nop, b := { issue := 0 } }] }] }

/-- tReady with the image loaded. -/
def tLoaded : State := { tReady with images := [tImage] }

/-- IMAGE_LOAD or IMAGE_VERIFY of 64 bytes at 0x80000. -/
def tLoad : Bytes := [0, 0, 8, 0, 0, 0, 0, 0] ++ [64, 0, 0, 0, 0, 0, 0, 0]

theorem witness_image_load :
    Admitted (.imageLoad (tPacket 1 tLoad)) tLoaded 1 (tSession .owner) 0x20 (tPacket 1 tLoad) ∧
    Admitted (.imageVerify (tPacket 1 tLoad)) tLoaded 1 (tSession .owner) 0x21 (tPacket 1 tLoad) ∧
    ringFree (taken tLoaded 1 (tPacket 1 tLoad)) (tPacket 1 tLoad) = true ∧ 0 < field tLoad 8 8 ∧
    ownRange (field tLoad 0 8) (field tLoad 8 8) ∧
    ∀ i < field tLoad 8 8, implemented tLoaded (field tLoad 0 8 + i) = true :=
  ⟨tAdmitted rfl rfl rfl (by decide +kernel) rfl, tAdmitted rfl rfl rfl (by decide +kernel) rfl, by decide +kernel, by decide +kernel,
    ⟨by decide +kernel, by decide +kernel, by decide +kernel⟩, by decide +kernel⟩

/-- IMAGE_UNLOAD of image 1: it goes; it is held by a context; a load of it is in progress. -/
def tUnload : Bytes := [1, 0, 0, 0, 0, 0, 0, 0]

theorem witness_image_unload :
    Admitted (.imageUnload (tPacket 1 tUnload)) tLoaded 1 (tSession .owner) 0x22 (tPacket 1 tUnload) ∧
    imageGet tLoaded (BitVec.ofNat 64 (field tUnload 0 8)) = some tImage ∧ tLoaded.imageOps = [] ∧
    tLoaded.ctxs ++ submits tLoaded = [] :=
  ⟨tAdmitted rfl rfl rfl (by decide +kernel) rfl, by decide +kernel, rfl, rfl⟩

theorem witness_image_unload_held :
    let s := { tLoaded with ctxs := [tCtx .ready] }
    Admitted (.imageUnload (tPacket 1 tUnload)) s 1 (tSession .owner) 0x22 (tPacket 1 tUnload) ∧
    (imageGet s (BitVec.ofNat 64 (field tUnload 0 8))).isSome = true ∧
    tCtx .ready ∈ s.ctxs ++ submits s ∧ (tCtx .ready).desc.image = BitVec.ofNat 64 (field tUnload 0 8) :=
  ⟨tAdmitted rfl rfl rfl (by decide +kernel) rfl, by decide +kernel, by decide +kernel, by decide +kernel⟩

/-- A load in progress of the 64 bytes at 0x80000, whose IMAGE_ID reads 1. -/
def tLoading : State :=
  { tReady with mem := [(0x80008, 1)], imageOps := [{ verify := false, source := 0x80000, size := 64, p := tPacket 1 tLoad }] }

theorem witness_image_unload_loading :
    Admitted (.imageUnload (tPacket 1 tUnload)) tLoading 1 (tSession .owner) 0x22 (tPacket 1 tUnload) ∧
    (∃ o ∈ tLoading.imageOps, o.verify = false ∧
      field (spanRead tLoading (o.source + 8) 8) 0 8 = (BitVec.ofNat 64 (field tUnload 0 8)).toNat) := by
  refine ⟨tAdmitted rfl rfl rfl (by decide +kernel) rfl, ?_⟩
  exact ⟨_, List.mem_singleton.mpr rfl, by decide +kernel⟩

theorem witness_image_completion :
    tLoading.imageOps[0]? = some { verify := false, source := 0x80000, size := 64, p := tPacket 1 tLoad } ∧
    (tPacket 1 tLoad).origin = .session 1 ∧ sessGet tLoading 1 = some (tSession .owner) ∧
    anyPoison tLoading (spanLinear 0x80000 64) = false := by decide +kernel

/-- A job descriptor: image 1, TENSOR_BASE 0x1000, four steps. -/
def tSubmit : Bytes := [1, 0, 0, 0, 0, 0, 0, 0] ++ [0, 16, 0, 0, 0, 0, 0, 0] ++ z 16 ++ z 4 ++ [4, 0, 0, 0] ++ z 88

theorem witness_job_submit :
    Admitted (.jobSubmit (tPacket 1 tSubmit)) tLoaded 1 (tSession .owner) 0x30 (tPacket 1 tSubmit) ∧
    descOk tSubmit = true ∧ logFieldsOk (descOf tSubmit) = true ∧ imageGet tLoaded (descOf tSubmit).image = some tImage ∧
    (descOf tSubmit).recompute = 0 ∧ samplerTensorsOk tImage (descOf tSubmit) = true ∧ groupOk tLoaded tImage = true ∧
    mirrorClear tLoaded tImage tImage.mask tImage.progs (descOf tSubmit).base = true ∧
    reachOk tLoaded tImage (ctxOf tLoaded 0 (descOf tSubmit) 1 (tPacket 1 tSubmit) tImage) = true ∧
    kernelsAtOk tImage (descOf tSubmit).base = true ∧ (choosePlacement tLoaded tImage (descOf tSubmit).base).isSome = true ∧
    ringFree (taken tLoaded 1 (tPacket 1 tSubmit)) (tPacket 1 tSubmit) = true ∧ freeContext tLoaded = some 0 := by
  refine ⟨tAdmitted rfl rfl rfl (by decide +kernel) rfl, ?_⟩
  decide +kernel

theorem witness_job_commands :
    let s := { tLoaded with ctxs := [tCtx .ready] }
    let p := tPacket 1 [3, 0]
    Admitted (.jobCancel p) s 1 (tSession .owner) 0x32 p ∧ Admitted (.jobPause p) s 1 (tSession .owner) 0x33 p ∧
    Admitted (.jobResume p) s 1 (tSession .owner) 0x34 p ∧ ctxGet s (field p.params 0 2) = some (tCtx .ready) ∧
    mayName ⟨.owner, some 1⟩ (tCtx .ready).owner = true ∧ (tCtx .ready).group = false ∧ (tCtx .ready).state = .ready ∧
    saving s 3 = false ∧ ringFree (taken s 1 p) p = true ∧
    Admitted (.jobPause p) tLoaded 1 (tSession .owner) 0x33 p ∧ ctxGet tLoaded (field p.params 0 2) = none := by
  refine ⟨tAdmitted rfl rfl rfl (by decide +kernel) rfl, tAdmitted rfl rfl rfl (by decide +kernel) rfl,
    tAdmitted rfl rfl rfl (by decide +kernel) rfl, by decide +kernel, by decide +kernel, rfl, rfl, rfl, by decide +kernel,
    tAdmitted rfl rfl rfl (by decide +kernel) rfl, by decide +kernel⟩

/-- A PAUSED context without a page table. -/
def tPaused : Ctx := { tCtx .paused with desc := { tDesc with ptLayers := 0, ptRoot := 0 } }

/-- CTX_SAVE of context 3 to an area of 8,192 bytes at 0x800000. -/
def tSave (size : Byte) : Bytes := [3, 0] ++ z 6 ++ [0, 0, 0x80, 0, 0, 0, 0, 0] ++ [0, size, 0, 0, 0, 0, 0, 0]

theorem witness_ctx_save (k : Byte) (hk : k = 0 ∨ k = 0x20) :
    let s := { tLoaded with ctxs := [tPaused] }
    let p := tPacket 1 (tSave k)
    Admitted (.ctxSave p) s 1 (tSession .owner) 0x38 p ∧ ctxGet s tPaused.num = some tPaused ∧
    imageGet s tPaused.desc.image = some tImage ∧ field p.params 0 2 = tPaused.num ∧ mayName ⟨.owner, some 1⟩ tPaused.owner = true ∧
    zeroAt p.params 2 6 = true ∧ tPaused.state = .paused ∧ saving s 3 = false ∧ tPaused.group = false ∧
    tPaused.interrupted = false ∧ ringFree (taken s 1 p) p = true ∧ field p.params 8 8 % 4096 = 0 ∧
    field p.params 8 8 < 0x10000000000 ∧
    (k = 0 → field p.params 16 8 = 0) ∧
    (k = 0x20 → saveSize s tPaused tImage ≤ field p.params 16 8 ∧ field p.params 16 8 ≠ 0 ∧
      field p.params 8 8 + field p.params 16 8 ≤ 0x10000000000 ∧
      areaMeets s tImage tPaused (field p.params 8 8) (field p.params 16 8) = false ∧
      memoryThere s (field p.params 8 8) (field p.params 16 8) = true) := by
  rcases hk with rfl | rfl <;>
    exact ⟨tAdmitted rfl rfl rfl (by decide +kernel) rfl, by decide +kernel⟩

theorem witness_ctx_save_complete :
    let v : Save := { ctx := 3, area := 0x800000, size := 8192, p := tPacket 1 (tSave 0x20) }
    let s := { tLoaded with ctxs := [tPaused], saves := [v] }
    s.saves.find? (fun y => y.ctx == tPaused.num && !y.copied) = some v ∧ s.poison = [] ∧ s.soft = [] ∧ Memory.wf s.mem = true ∧
    ctxGet s tPaused.num = some tPaused ∧ imageGet s tPaused.desc.image = some tImage ∧ memoryThere s v.area v.size = true ∧
    v.area + (saveArea s tPaused tImage).length ≤ 0x10000000000 ∧ memoryThere s tPaused.desc.base (tensorBytes tImage) = true := by
  decide +kernel

/-- A save area of image 1 at 0x800000: the bytes of its header and its body that are not zero. -/
def tArea : State :=
  { tLoaded with
    mem := [(0x800000, 0x53), (0x800001, 0x4B), (0x800002, 0x47), (0x800003, 0x43), (0x800004, 1), (0x800008, 1), (0x80000A, 1)
           , (0x80000C, 0xFF), (0x800011, 0x10), (0x800100, 1), (0x800124, 4), (0x800184, 4)] }

/-- CTX_RESTORE of that area. -/
def tRestore : Bytes := [0, 0, 0x80, 0, 0, 0, 0, 0] ++ [0, 16, 0, 0, 0, 0, 0, 0] ++ [1, 0, 0, 0, 0, 0, 0, 0]

theorem witness_ctx_restore :
    let s := tArea
    let p := tPacket 1 tRestore
    let area := field p.params 0 8
    let size := field p.params 8 8
    let b := spanRead s area (field (spanRead s area 4096) 16 8)
    let c := restoredCtx s 0 1 p b tImage
    Admitted (.ctxRestore p) s 1 (tSession .owner) 0x39 p ∧
    area % 4096 = 0 ∧ isStack area = true ∧ 4096 ≤ size ∧ spanStatic s area 4096 = true ∧
    spanStatic s area (field (spanRead s area 4096) 16 8) = true ∧ s.poison = [] ∧ field b 12 1 = 0xFF ∧
    (jobTensors tImage c.desc.base).all (fun y => spanStatic s y.1 y.2) = true ∧
    areaHeadOk (spanRead s area 4096) size = true ∧ field b 8 4 = (regGet s oDigAid).toNat ∧
    imageGet s (BitVec.ofNat 64 (field p.params 16 8)) = some tImage ∧ tImage.plan.toNat = field b 64 64 ∧ c.desc.recompute = 0 ∧
    restoreBasesOk s tImage c area b.length = true ∧ kernelsAtOk tImage c.desc.base = true ∧ c.interrupted = false ∧
    c.group = false ∧ (choosePlacement s tImage c.desc.base).isSome = true ∧ freeContext s = some 0 ∧ field b 32 4 = 0 ∧
    ringFree (taken s 1 p) p = true := by
  refine ⟨tAdmitted rfl rfl rfl (by decide +kernel) rfl, ?_⟩
  decide +kernel

theorem witness_ctx_restore_complete :
    let r : Restore := { ctx := { tPaused with num := 0 }, area := 0x800000, p := tPacket 1 tRestore, maps := some [] }
    let s := { tArea with restores := [r] }
    let m := field (spanRead s r.area 256) 24 8
    s.restores.find? (fun y => y.ctx.num == 0 && y.maps.isSome && !y.copied) = some r ∧ s.poison = [] ∧ s.soft = [] ∧
    Memory.wf s.mem = true ∧ r.ctx.desc.base + m ≤ 0x10000000000 ∧ r.area + 4096 + m ≤ 0x10000000000 ∧
    memoryThere s r.area (4096 + m) = true ∧ memoryThere s r.ctx.desc.base m = true := by decide +kernel

/-! ## KV pages -/

/-- Contexts 3 and 4 in READY with a page table at 0x200000, whose leaf of layer 0, K has room for 4 pages: index 0 is not
mapped, the others map page 0. -/
def tPaged : State :=
  { tLoaded with
    ctxs := [tCtx .ready, { tCtx .ready with num := 4 }]
    mem := [(0x200001, 0x10), (0x200002, 0x20), (0x200006, 4), (0x201000, 0xFF), (0x201001, 0xFF), (0x201002, 0xFF), (0x201003, 0xFF)] }

theorem witness_page_alloc :
    let p := tPacket 1 ([3, 0] ++ [0, 0, 0, 1, 0, 0] ++ z 4)
    Admitted (.pageAlloc p) tPaged 1 (tSession .owner) 0x40 p ∧ ctxGet tPaged (field p.params 0 2) = some (tCtx .ready) ∧
    mayName ⟨.owner, some 1⟩ (tCtx .ready).owner = true ∧ (tCtx .ready).state ≠ .running ∧ field p.params 4 1 < 2 ∧
    zeroAt p.params 6 2 = true ∧ field p.params 2 2 < (tCtx .ready).desc.ptLayers ∧
    field p.params 8 4 < (leafOf tPaged (tCtx .ready) 0 0).2 ∧ mapGet tPaged (tCtx .ready) 0 0 (field p.params 8 4) = none ∧
    pageFmtOk (field p.params 5 1) = true :=
  ⟨tAdmitted rfl rfl rfl (by decide +kernel) rfl, by decide +kernel⟩

theorem witness_page_share :
    let p := tPacket 1 ([3, 0] ++ z 6 ++ [1, 0, 0, 0] ++ [4, 0, 0, 0] ++ z 4)
    Admitted (.pageShare p) tPaged 1 (tSession .owner) 0x41 p ∧ zeroAt p.params 5 3 = true ∧ zeroAt p.params 14 2 = true ∧
    ctxGet tPaged (field p.params 12 2) = some { tCtx .ready with num := 4 } :=
  ⟨tAdmitted rfl rfl rfl (by decide +kernel) rfl, by decide +kernel⟩

theorem witness_page_release :
    let p := tPacket 1 ([3, 0] ++ z 6 ++ [1, 0, 0, 0])
    Admitted (.pageRelease p) tPaged 1 (tSession .owner) 0x42 p ∧ zeroAt p.params 5 3 = true ∧
    (mapGet tPaged (tCtx .ready) 0 0 (field p.params 8 4)).isSome = true :=
  ⟨tAdmitted rfl rfl rfl (by decide +kernel) rfl, by decide +kernel⟩

/-- Page 0 of BF16 with one channel, 512 bytes at 0x10000. -/
def tPage : Page :=
  { id := 0, state := .live, fmt := 1, scaled := false, home := 1, homeScaled := false, pinned := false, refs := 1, owner := 3
    layer := 0, kind := 0, index := 0, valid := 9, granules := 1, slot := 0x10000, bytes := 512 }

/-- A copy of page 0 in progress, and a demotion of page 2. -/
def tCopying : State :=
  { tReady with pages := [tPage, { tPage with id := 1, state := .copying, source := some 0, slot := 0x20000, valid := 0 }
                         , { tPage with id := 2, state := .demoting, slot := 0x30000, slot2 := some (0x40000, 1) }]
                mem := [(0x10000, 7), (0x100FF, 8)] }

theorem witness_page_copies :
    pageGet tCopying 1 = some { tPage with id := 1, state := .copying, source := some 0, slot := 0x20000, valid := 0 } ∧
    pageGet tCopying 2 = some { tPage with id := 2, state := .demoting, slot := 0x30000, slot2 := some (0x40000, 1) } ∧
    pageGet tCopying 0 = some tPage ∧ tCopying.poison = [] ∧ tCopying.soft = [] ∧ Memory.wf tCopying.mem = true ∧
    descAddr tCopying 1 + 32 ≤ 0x10000000000 ∧ demotedFmt 1 = some 3 ∧ 0x40000 + pageBytes 3 true (chansOf tPage) ≤ 0x10000000000 := by
  decide +kernel

/-! ## Video streams -/

/-- An AV1 encode descriptor of 64 × 64 pictures, with its working memory at 0x10000000. -/
def tVideo : Bytes :=
  [0, 0, 0, 0, 0, 1, 8, 0] ++ [64, 0, 64, 0] ++ [30, 0, 0, 0] ++ [1, 0, 0, 0] ++ [0, 0, 255, 1] ++ z 22 ++ [1, 1]
    ++ [0, 0, 0, 0x10, 0, 0, 0, 0] ++ [0, 0, 0x41, 0, 0, 0, 0, 0] ++ z 64

theorem witness_vid_open :
    Admitted (.vidOpen (tPacket 1 tVideo)) tReady 1 (tSession .owner) 0x60 (tPacket 1 tVideo) ∧
    streamDescOk tVideo = true ∧ lowLatencyOk tVideo = true ∧ workOk tReady ⟨.owner, some 1⟩ tVideo = true ∧
    freeStream tReady = some 0 ∧ openEngine tReady tVideo = some 0 ∧ admits tReady tVideo 0 = true :=
  ⟨tAdmitted rfl rfl rfl (by decide +kernel) rfl, by decide +kernel, by decide +kernel, by decide +kernel, by decide +kernel,
    by decide +kernel, by decide +kernel⟩

/-- The stream of that descriptor, open. -/
def tStream : Stream := streamOf 0 0 1 tVideo

/-- tReady with the stream. -/
def tStreaming : State := { tReady with streams := [tStream] }

/-- A frame: picture at 0x20000000 with rows of 128 bytes, 64 KiB of bitstream at 0x30000000. -/
def tFrame : Bytes :=
  z 24 ++ [0, 0, 0, 0x20, 0, 0, 0, 0] ++ [128, 0, 0, 0] ++ z 4 ++ [0, 0, 0, 0x30, 0, 0, 0, 0] ++ [0, 0, 1, 0] ++ z 12

theorem witness_vid_frame :
    let p := tPacket 1 tFrame
    Admitted (.vidFrame p) tStreaming 1 (tSession .owner) 0x61 p ∧ streamGet tStreaming (field p.params 0 2) = some tStream ∧
    mayName ⟨.owner, some 1⟩ tStream.owner = true ∧ tStream.damaged = false ∧ tStream.closing = none ∧
    tStream.closingNoEntry = false ∧ ringFree (taken tStreaming 1 p) p = true ∧ tStream.frames.length < 16 ∧
    frameDescOk tStream p.params = true ∧ buffersOk tStreaming ⟨.owner, some 1⟩ tStream p.params = true :=
  ⟨tAdmitted rfl rfl rfl (by decide +kernel) rfl, by decide +kernel⟩

theorem witness_vid_close :
    Admitted (.vidClose (tPacket 1 [0, 0])) tStreaming 1 (tSession .owner) 0x62 (tPacket 1 [0, 0]) ∧
    streamGet tStreaming (field (tPacket 1 [0, 0]).params 0 2) = some tStream :=
  ⟨tAdmitted rfl rfl rfl (by decide +kernel) rfl, by decide +kernel⟩

/-- The stream while its frame runs. -/
def tRunning : State :=
  { tReady with streams := [{ tStream with frames := [frameOf tStreaming tStream (tPacket 1 tFrame)] }], running := [(0, 0)] }

theorem witness_codec_tile :
    let f := frameOf tStreaming tStream (tPacket 1 tFrame)
    let v := { tStream with frames := [f] }
    Memory.wf tRunning.mem = true ∧ sfind tRunning.running 0 = some v.num ∧ streamGet tRunning v.num = some v ∧
    v.frames.head? = some f ∧ f.p.origin = .session 1 ∧ sessGet tRunning 1 = some (tSession .owner) ∧
    regF tRunning oVidFence 7 0 = 0 ∧ v.encode = true ∧ v.stats = false ∧ inputBad tRunning v f = false ∧
    tRunning.poison = [] ∧ tRunning.soft = [] ∧ f.bsBase + f.bsSize ≤ 0x10000000000 := by decide +kernel

theorem witness_vid_close_complete :
    let v := { tStream with closing := some (tPacket 1 [0, 0]) }
    let s := { tReady with streams := [v] }
    streamGet s v.num = some v ∧ v.frames = [] ∧ (tPacket 1 [0, 0]).origin = .session 1 ∧ sessGet s 1 = some (tSession .owner) := by
  decide +kernel

/-! ## Flash, attestation and tests -/

/-- FW_STAGE of 64 bytes at 0x80000 for the firmware. -/
def tStage : Bytes := z 8 ++ [0, 0, 8, 0, 0, 0, 0, 0] ++ [64, 0, 0, 0, 0, 0, 0, 0]

theorem witness_fw_stage :
    let p := tPacket 1 tStage
    Admitted (.fwStage p) tReady 1 (tSession .owner) 0x80 p ∧ ringFree (taken tReady 1 p) p = true ∧ field tStage 0 1 ≤ 1 ∧
    zeroAt tStage 1 7 = true ∧ 0 < field tStage 16 8 ∧ field tStage 16 8 ≤ slotBytes ∧
    ownRange (field tStage 8 8) (field tStage 16 8) ∧ tReady.flash.stage = none ∧ tReady.flash.commit = none ∧
    tReady.diag = none :=
  ⟨tAdmitted rfl rfl rfl (by decide +kernel) rfl, by decide +kernel, by decide +kernel, by decide +kernel, by decide +kernel,
    by decide +kernel, ⟨by decide +kernel, by decide +kernel, by decide +kernel⟩, rfl, rfl, rfl⟩

/-- tReady with version 7 of the firmware staged. -/
def tStaged : State := { tReady with flash := { staged0 := some (7, [1, 2, 3]) } }

/-- FW_COMMIT of it, with RESTART. -/
def tCommit : Bytes := [0, 2] ++ z 6 ++ [7, 0, 0, 0] ++ z 4

theorem witness_fw_commit :
    let p := tPacket 1 tCommit
    Admitted (.fwCommit p) tStaged 1 (tSession .owner) 0x81 p ∧ ringFree (taken tStaged 1 p) p = true ∧ field p.params 0 1 ≤ 1 ∧
    field p.params 1 1 ≤ 3 ∧ (field p.params 0 1 = 1 → (field p.params 1 1).testBit 0 = false) ∧ workPresent tStaged = false ∧
    zeroAt p.params 2 6 = true ∧ zeroAt p.params 12 4 = true ∧
    (stagedFor tStaged.flash (field p.params 0 1 == 1)).any (fun y => y.1 == field p.params 8 4) = true ∧
    tStaged.flash.stage = none ∧ tStaged.flash.commit = none ∧ tStaged.flash.healthWrite = false :=
  ⟨tAdmitted rfl rfl rfl (by decide +kernel) rfl, by decide +kernel⟩

theorem witness_attest :
    Admitted (.attest (tPacket 1 (z 64))) tReady 1 (tSession .owner) 0x90 (tPacket 1 (z 64)) :=
  tAdmitted rfl rfl rfl (by decide +kernel) rfl

/-- DIAG_RUN of one target and one iteration. -/
def tDiag (test : Byte) : Bytes := [test, 0, 0, 0, 0, 0, 1, 0, 1, 0, 0, 0] ++ z 36

/-- MEMORY over the first MiB of stack 0; SERDES on lane 0 of port 1 for 1 ms. -/
def tDiagMemory : Bytes := [5, 0, 0, 0, 0, 0, 1, 0, 1, 0, 0, 0] ++ z 12 ++ [0, 0, 16, 0, 0, 0, 0, 0] ++ z 16
def tDiagSerdes : Bytes := [6, 0, 1, 0, 0, 0, 1, 0, 1, 0, 0, 0] ++ z 20 ++ [1, 0, 0, 0] ++ z 12

theorem witness_diag_run :
    (∀ c ∈ [(Instr.array (tPacket 1 (tDiag 1)), (1 : Byte)), (.engineSram (tPacket 1 (tDiag 2)), 2), (.caldera (tPacket 1 (tDiag 3)), 3)
           , (.codec (tPacket 1 (tDiag 4)), 4), (.d2d (tPacket 1 (tDiag 7)), 7), (.knownAnswer (tPacket 1 (tDiag 8)), 8)],
      Admitted c.1 tReady 1 (tSession .owner) 0xA0 (tPacket 1 (tDiag c.2)) ∧ diagFields (tPacket 1 (tDiag c.2)) = true) ∧
    Admitted (.memory (tPacket 1 tDiagMemory)) tReady 1 (tSession .owner) 0xA0 (tPacket 1 tDiagMemory) ∧
    Admitted (.serdes (tPacket 1 tDiagSerdes)) tReady 1 (tSession .owner) 0xA0 (tPacket 1 tDiagSerdes) ∧
    diagFields (tPacket 1 tDiagMemory) = true ∧ diagFields (tPacket 1 tDiagSerdes) = true ∧
    memoryFree tReady (diagOf (tPacket 1 tDiagMemory)).base (diagOf (tPacket 1 tDiagMemory)).size = true ∧
    tReady.sessions.any (fun y => y.2.port == (diagOf (tPacket 1 tDiagSerdes)).port && !y.2.closed) = false ∧
    workPresent tReady = false ∧ tReady.power.phase ≠ .standby ∧ tReady.power.phase ≠ .limited := by
  refine ⟨?_, tAdmitted (by decide +kernel) rfl rfl (by decide +kernel) rfl,
    tAdmitted (by decide +kernel) rfl rfl (by decide +kernel) rfl, by decide +kernel⟩
  intro c hc
  simp only [List.mem_cons, List.not_mem_nil, or_false] at hc
  rcases hc with rfl | rfl | rfl | rfl | rfl | rfl <;>
    exact ⟨tAdmitted (by decide +kernel) rfl rfl (by decide +kernel) rfl, by decide +kernel⟩

/-- tReady while a staging and while a commit are in progress. -/
theorem witness_stage_and_commit_end :
    let s := { tReady with flash := { stage := some (tPacket 1 tStage) } }
    let u := { tReady with flash := { commit := some (tPacket 1 tCommit), staged0 := some (7, [1, 2, 3]) } }
    s.flash.stage = some (tPacket 1 tStage) ∧ (tPacket 1 tStage).origin = .session 1 ∧
    sessGet s 1 = some (tSession .owner) ∧ recordInForce s.flash = none ∧
    (∀ i < field tStage 16 8, implemented s (field tStage 8 8 + i) = true) ∧
    anyPoison s (spanLinear (field tStage 8 8) (field tStage 16 8)) = false ∧
    u.flash.commit = some (tPacket 1 tCommit) ∧ recordInForce u.flash = none ∧
    stagedFor u.flash (field tCommit 0 1 == 1) = some (7, [1, 2, 3]) := by decide +kernel

/-- A test of engine array 0 that has begun, and an attestation in progress. -/
def tTesting : State :=
  { tReady with atts := [tPacket 1 (z 64)], diag := some { diagOf (tPacket 1 (tDiag 1)) with started := true, targets := [0] } }

theorem tTesting_canonical : Canonical tTesting := ⟨by decide, by decide, by decide, by decide, by decide⟩

theorem witness_attest_and_test_end :
    tTesting.atts[0]? = some (tPacket 1 (z 64)) ∧ (tPacket 1 (z 64)).origin = .session 1 ∧
    sessGet tTesting 1 = some (tSession .owner) ∧
    (∃ d, tTesting.diag = some d ∧ d.started = true ∧ d.test ≠ 6 ∧ 1 ≤ d.test ∧ d.test ≤ 8 ∧ d.p.origin = .session 1) := by
  refine ⟨rfl, rfl, rfl, _, rfl, ?_⟩
  decide +kernel

/-! ## Groups -/

/-- A group of two, member 0, epoch 1 s, period 2,200 ns. -/
def tJoin : Bytes :=
  [1, 0, 0, 0, 0, 0, 0, 0] ++ z 4 ++ [0x98, 8, 0, 0, 0, 0, 32, 8, 2, 0, 0, 0] ++ z 8 ++ [0, 0, 0x40, 0, 0, 0x30, 0, 0] ++ z 24
    ++ [0, 0x80, 0x40, 0, 0, 0x30, 0, 0] ++ [4, 0, 0, 0] ++ z 4 ++ ([1, 0, 0, 4] ++ z 28) ++ ([2, 0, 0, 4] ++ z 28)

/-- The master that the device is locked to. -/
def tMaster : PtpAnnounce :=
  { port := 0, domain := 0, source := 1, gm := 0, priority1 := 128, clockClass := 6, accuracy := 0, variance := 0, priority2 := 128
    steps := 0, intervalMs := 1000 }

/-- A device in LOCKED by PTP whose map is open to all. -/
def tLocked : State :=
  { tReady with regs := [(0x010000, 0xFF), (0x030000, 1), (0x040008, 1), (0x04010C, 0x0A000001)], disc := { state := .locked, master := some tMaster } }

theorem tLocked_canonical : Canonical tLocked := ⟨by decide, by decide, by decide, by decide, by decide⟩

theorem witness_group_join :
    let p := tPacket 1 tJoin
    Admitted (.groupJoin p) tLocked 1 (tSession .owner) 0xF0 p ∧ tLocked.group = none ∧ recordOk tJoin = true ∧
    groupTimeOk tLocked tJoin = true ∧ 65536 * 65536 ≤ recordPeriod tJoin * field tJoin 18 1 ∧
    tLocked.clock.dt + usDt 1000 ≤ recordEpoch tJoin ∧ slipRingOk tLocked tJoin = true ∧ memberTableOk tLocked tJoin = true ∧
    (∀ j ∈ otherMembers tJoin, sfind tLocked.sessions (4095 - j) = none ∧
      tLocked.reservations.all (fun r => r.session != 4095 - j) = true) ∧
    (otherMembers tJoin).length * field tJoin 72 4 ≤ ungranted tLocked ∧ ringFree (taken tLocked 1 p) p = true :=
  ⟨tAdmitted rfl rfl rfl (by decide +kernel) rfl, by decide +kernel⟩

/-- A member at the boundary before group beat 0, whose start has come. -/
def tMember : State :=
  { tLocked with group := some { groupOf tJoin (tPacket 1 tJoin) with started := true, atBoundary := true }
                 clock := { dt := 2 * 10 ^ 9 * 2 ^ 32 } }

theorem tMember_canonical : Canonical tMember := ⟨by decide, by decide, by decide, by decide, by decide⟩

theorem witness_group_leave :
    let p := tPacket 1 []
    Admitted (.groupLeave p) tMember 1 (tSession .owner) 0xF1 p ∧ (member tMember).isSome = true ∧
    hasGroupJob tMember = false ∧ ringFree (taken tMember 1 p) p = true ∧
    (member tMember).all (fun g => g.leaving == none) = true :=
  ⟨tAdmitted rfl rfl rfl (by decide +kernel) rfl, by decide +kernel⟩

theorem witness_group_leave_complete :
    let g := { groupOf tJoin (tPacket 1 tJoin) with leaving := some (tPacket 1 []), left := true }
    let s := { tLocked with group := some g }
    Canonical s ∧ s.group = some g ∧ sessGet s 1 = some (tSession .owner) ∧ (tSession .owner).cls ≠ .peer ∧
    ∀ k y, sessGet s k = some y → y.cls = .peer → y.ackSent = y.expect := by
  refine ⟨⟨by decide, by decide, by decide, by decide, by decide⟩, rfl, rfl, by decide, ?_⟩
  intro k y hy hc
  simp only [sessGet, tLocked, tReady, sfind] at hy
  split at hy <;> try split at hy
  all_goals simp at hy
  all_goals rw [← hy.1] at hc; exact absurd hc (by decide)

theorem witness_group_beat :
    (∃ g, member tMember = some g ∧ g.atBoundary = true ∧
      startTime g g.beat (g.sigma + ((dueSlips tMember g).map (·.2)).sum) ≤ tMember.clock.dt) ∧
    (∃ g, member { tMember with group := tMember.group.map fun g => { g with atBoundary := false } } = some g ∧ g.atBoundary = false ∧
      startTime g (g.beat + 1 + 0) g.sigma ≤ tMember.clock.dt ∧ ((openSlips tMember g).map (·.2)).sum ≤ 0 ∧
      generalBase ≤ slipAddr g (g.beat + 1 + g.delay) g.index ∧
      slipAddr g (g.beat + 1 + g.delay) g.index + 8 ≤ hubBase + 0x1000000) := by
  refine ⟨⟨_, rfl, by decide +kernel⟩, ⟨_, rfl, by decide +kernel⟩⟩

/-- Engine 0 of a member holds at an ARRIVE of member 1 for longer than its limit, in a pass of a group image. -/
def tHeldGroup : State :=
  { tMember with
    images := [{ tImage with members := 2 }]
    ctxs := [{ tCtx .running with group := true, slot := some 0, placement := some 0 }]
    passes := [{ image := 1, placement := 0, beat := 0, slots := [(0, 3)], engines := [0] }]
    engines := [(0, { holding := some 10, holdMask := 1
                      arrivals := [{ tag := some 0, source := 1, remote := true, offset := 0, count := 8, got := 0, due := 0, dueBeat := 0 }] })] }

theorem witness_group_hold :
    (∃ g r, member tHeldGroup = some g ∧ runOf tHeldGroup 0 = some r ∧ r.img.members ≠ 0 ∧ heldTooLong tHeldGroup 0 1 = true) :=
  ⟨_, _, rfl, rfl, by decide +kernel, by decide +kernel⟩

/-! ## Bundles -/

/-- A GEMM of BF16 by BF16 into FP32: 32 × 32 × 32. -/
def tOp : OpRec :=
  { aFmt := 1, aScaled := false, bFmt := 1, bScaled := false, dFmt := 0, dScaled := false, mixed := false, sr := false
    ieee := false, bf16Stage := false, fusion := 0, m := 32, n := 32, k := 32, tileM := 32, tileN := 32, tileK := 32, kSplits := 1
    tree := false, tensorA := 1, tensorB := 2, tensorD := 3, tensorAux := 0xFFFFFFFF, digestLayer := 0xFFFFFFFF }

/-- Three elements of a row from byte 8 of rows of 64 bytes, by hand from R133: an FP4 one, an FP6 one, and an FP4 one past the end. -/
theorem test_elem_columns :
    let at_ (f t : Nat) : Nat × Nat :=
      let p := elemPos tImage { tOp with dFmt := f, digestLayer := 1 } ⟨0, 0, 0, 0, true, 8, 64⟩ t
      (p.row, p.col)
    at_ 7 3 = (0, 19) ∧ at_ 5 4 = (0, 14) ∧ at_ 7 113 = (1, 1) := by decide +kernel

/-- The image with an operation, its result tensor at 0x100000, an area at the start of AB, and a program of one bundle. -/
def tGemm (o : OpRec) (cls : BundleClass) (b : Bundle) : Image :=
  { tImage with
    ops := [o]
    tensors := [{ id := 3, base := 0, fmt := 0, addr := 0x100000, size := 0x1000, stride := 128 }
               , { id := 4, base := 0, fmt := 0, addr := sramBase, size := 64, stride := 0 }]
    progs := [{ engine := 0, strides := [], beats := [{ first := 0, count := 1, reps := 1, strideSet := 0xFF }], bytes := 32
                bundles := [{ cls := cls, b := b }] }] }

/-- A pass of that image on engine 0, with context 3 in slot 0. -/
def tPassOf (o : OpRec) (cls : BundleClass) (b : Bundle) : State :=
  { tReady with
    images := [tGemm o cls b], ctxs := [{ tCtx .running with slot := some 0, placement := some 0 }]
    passes := [{ image := 1, placement := 0, beat := 0, slots := [(0, 3)], engines := [0] }] }

/-- A bundle of engine 0, to an address in stack 0, in the window of engine 1, or where there is no memory. -/
def tBundle : BundleEvent :=
  { engine := 0, bundle := { issue := 10, due := 1000, setTag := some 2, arrays := 1, rows := 1, op := 0, size := 8, addr := 0xFFFF000000100000 } }

def tToWindow : BundleEvent := { tBundle with bundle := { tBundle.bundle with addr := 0xFFFF200000400000 } }

def tClosed : BundleEvent := { tBundle with bundle := { tBundle.bundle with addr := 0xFFFF280000000000 } }

/-- A pass whose one bundle is that of an event. -/
abbrev tPass (cls : BundleClass) (v : BundleEvent) : State := tPassOf tOp cls v.bundle

/-- The run that engine 0 is in. -/
def tRunOf (o : OpRec) (cls : BundleClass) (b : Bundle) : Run :=
  { img := tGemm o cls b, pass := { image := 1, placement := 0, beat := 0, slots := [(0, 3)], engines := [0] }, partner := false }

theorem tPass_canonical (o : OpRec) (cls : BundleClass) (b : Bundle) : Canonical (tPassOf o cls b) :=
  ⟨tReady_canonical.1, tReady_canonical.2, tReady_canonical.3, tReady_canonical.4, tReady_canonical.5⟩

/-- A bundle of every class issues. -/
theorem witness_bundle_issues (cls : BundleClass) (v : BundleEvent) (h : v ∈ [tBundle, tToWindow, tClosed]) :
    Issues cls (tPass cls v) v (tRunOf tOp cls v.bundle) := by
  simp only [List.mem_cons, List.not_mem_nil, or_false] at h
  refine ⟨tPass_canonical _ _ _, ?_, ?_, ?_, ?_, ?_, ?_, ⟨rfl, rfl⟩, ⟨rfl, rfl, rfl, ?_⟩, ?_⟩ <;>
    rcases h with rfl | rfl | rfl <;> cases cls <;> decide +kernel

/-- A bundle with no run, in an abandoned beat, with its group beat not begun, not the program's next, out of turn, and one that awaits a tag: before its hold
and in it. -/
theorem witness_bundle_holds :
    let v := { tBundle with bundle := { tBundle.bundle with waitMask := 4 } }
    let s := { tPass .nop v with engines := [(0, { tags := [(2, false)] })] }
    let r := tRunOf tOp .nop v.bundle
    bundleOf (.nop v) = some (.nop, v) ∧ runOf tReady v.engine = none ∧ runOf s v.engine = some r ∧
    (engGet { s with engines := [(0, { abandoned := true })] } 0).abandoned = true ∧ nextBundle s r 0 ≠ some ⟨.rows, v.bundle⟩ ∧
    (let u := tPass .nop tBundle
     let w := { v with bundle := { v.bundle with issue := 11 } }
     inTurn (settled u (issueCycle u w)) (issueCycle u w) = false) ∧
    (engGet s v.engine).abandoned = false ∧ nextBundle s r v.engine = some ⟨.nop, v.bundle⟩ ∧
    inTurn (settled s (issueCycle s v)) (issueCycle s v) = true ∧ tagsLanded (engGet s v.engine) v.bundle.waitMask = false ∧
    (engGet s v.engine).holding ≠ some 10 ∧ issueMask (engGet s 0) ⟨.nop, v.bundle⟩ = 4 ∧ waitsForGroup s = false ∧
    issueAt s (engGet s 0) ⟨.nop, v.bundle⟩ = issueCycle s v ∧ waitsForGroup { s with group := tMember.group } = true ∧
    runOf { s with group := tMember.group } 0 = some r ∧
    (let u := { s with engines := [(0, { tags := [(2, false)], holding := some 10, holdMask := 4 })] }
     (engGet u v.engine).holding = some v.bundle.issue ∧ inTurn (settled u (issueCycle u v)) (issueCycle u v) = true ∧ nextBundle u r 0 = some ⟨.nop, v.bundle⟩) := by
  decide +kernel

/-- An ARRIVE whose bytes have landed before it. -/
theorem witness_arrive :
    let b : Bundle := { tBundle.bundle with abOff := 64 }
    let v := { tBundle with bundle := b }
    let s := { tPass .arrive v with engines := [(0, { early := [(0, 64, 8)] })] }
    Issues .arrive s v (tRunOf tOp .arrive b) ∧ (engGet s 0).arrivals = [] ∧ (engGet s 0).early = [(b.source + 0, b.abOff, b.size)] ∧
    0 < b.size ∧ b.source < 65536 ∧ issueCycle s v ≤ b.due + (engGet s 0).hold ∧ (engGet (tPass .arrive v) 0).early = [] :=
  ⟨⟨⟨by decide, by decide, by decide, by decide, by decide⟩, by decide +kernel, by decide +kernel, by decide +kernel,
    by decide +kernel, by decide +kernel, by decide +kernel, ⟨rfl, rfl⟩, ⟨rfl, rfl, rfl, by decide +kernel⟩, by decide +kernel⟩,
    by decide +kernel⟩

theorem witness_wload : opOf (tRunOf tOp .wload tBundle.bundle).img tBundle.bundle.op = some tOp ∧
    tBundle.bundle.arrays = BitVec.ofNat 4 (2 ^ 0) := by decide +kernel

/-- ROWS of one row through array 0; then an operation with a P4 header whose mode byte is reserved. -/
theorem witness_rows :
    let r := tRunOf tOp .rows tBundle.bundle
    opOf r.img tBundle.bundle.op = some tOp ∧ tBundle.bundle.arrays = BitVec.ofNat 4 (2 ^ 0) ∧ tBundle.bundle.rows = 1 ∧
    tBundle.bundle.accAdd = false ∧ tBundle.bundle.swap = false ∧ prologueOf tOp = 0 := by decide +kernel

theorem witness_rows_refused :
    let o := { tOp with fusion := 0x3C, tensorAux := 4 }
    let s := { tPassOf o .rows tBundle.bundle with mem := [(sramBase, 7)] }
    let r := tRunOf o .rows tBundle.bundle
    Issues .rows s tBundle r ∧ opOf r.img 0 = some o ∧ headRefused s 0 r o tBundle.bundle ∧ s.fails = [] :=
  ⟨⟨⟨by decide, by decide, by decide, by decide, by decide⟩, by decide +kernel, by decide +kernel, by decide +kernel,
    by decide +kernel, by decide +kernel, by decide +kernel, ⟨rfl, rfl⟩, ⟨rfl, rfl, rfl, by decide +kernel⟩, by decide +kernel⟩,
    by decide +kernel, ⟨by decide +kernel, by decide +kernel, .inl (by decide +kernel)⟩, rfl⟩

theorem witness_epi :
    let b := tBundle.bundle
    let s := tPass .epi tBundle
    let r := tRunOf tOp .epi b
    let p := rowPos s r tOp b false 0
    let a := runAddr r (localOf (bundleAddr s r.img 0x1000 b.addr))
    b.rows = 1 ∧ prologueOf tOp < 2 ∧ chainOf tOp = 0 ∧ tOp.dScaled = false ∧ tOp.digestLayer = 0xFFFFFFFF ∧
    jobOf s r p.slot = some { tCtx .running with slot := some 0, placement := some 0 } ∧ isHere s b.addr = true ∧
    (∀ k < tileWidth tOp p.col, (elemPos r.img tOp p k).slot = p.slot) ∧
    outsideWindows a ∧ tileWidth tOp p.col = 32 ∧ spanOpen s a 128 true = true ∧ (spanLinear a 128).Nodup :=
  ⟨by decide +kernel, by decide +kernel, by decide +kernel, rfl, rfl, by decide +kernel, by decide +kernel,
    by decide +kernel, by show ¬(sramBase ≤ _ ∧ _ < hubBase); decide +kernel, by decide +kernel, by decide +kernel, spanLinear_nodup (by decide +kernel)⟩

theorem witness_epi_empty_slot :
    let s := { tPass .epi tBundle with passes := [{ image := 1, placement := 0, beat := 0, slots := [], engines := [0] }] }
    ∃ r, Issues .epi s tBundle r ∧ opOf r.img 0 = some tOp ∧ jobOf s r (rowPos s r tOp tBundle.bundle false 0).slot = none :=
  ⟨_, ⟨⟨by decide, by decide, by decide, by decide, by decide⟩, rfl, by decide +kernel, by decide +kernel,
    by decide +kernel, by decide +kernel, by decide +kernel, ⟨rfl, rfl⟩, ⟨rfl, rfl, rfl, by decide +kernel⟩, by decide +kernel⟩,
    by decide +kernel, by decide +kernel⟩

/-- The addresses of MREAD, MWRITE and ATOMIC: a stack, a window, no memory; an ATOMIC comes back before its return value is due. -/
theorem witness_memory_bundles (cls : BundleClass) :
    let at_ := fun v : BundleEvent => runAddr (tRunOf tOp cls v.bundle)
      (localOf (ownBundle (tPass cls v) (tRunOf tOp cls v.bundle) v.bundle).addr)
    0 < tBundle.bundle.size ∧ isHere (tPass cls tBundle) tBundle.bundle.addr = true ∧
    isHere (tPass cls tToWindow) tToWindow.bundle.addr = true ∧ isHere (tPass cls tClosed) tClosed.bundle.addr = true ∧
    spanOpen (tPass cls tBundle) (at_ tBundle) 8 true = true ∧ spanOpen (tPass cls tBundle) (at_ tBundle) 8 = true ∧
    outsideWindows (at_ tBundle) ∧ isStack (at_ tBundle) = true ∧ (spanLinear (at_ tBundle) 8).Nodup ∧
    spanOpen (tPass cls tToWindow) (at_ tToWindow) 8 true = true ∧ spanOpen (tPass cls tToWindow) (at_ tToWindow) 8 = true ∧
    ¬outsideWindows (at_ tToWindow) ∧ spanOpen (tPass cls tClosed) (at_ tClosed) 8 = false ∧ tBundle.bundle.kind = .fetchAdd ∧
    issueCycle (tPass cls tBundle) tBundle + homeLatency (routeOf 0 (linearOf (at_ tBundle))) < fillStart tBundle.bundle.due 8 ∧
    isHere (tPass cls tToWindow) (ownBundle (tPass cls tToWindow) (tRunOf tOp cls tToWindow.bundle) tToWindow.bundle).addr = true := by
  cases cls <;>
    exact ⟨by decide +kernel, by decide +kernel, by decide +kernel, by decide +kernel, by decide +kernel, by decide +kernel,
      by show ¬(sramBase ≤ _ ∧ _ < hubBase); decide +kernel, by decide +kernel, by decide +kernel, by decide +kernel,
      by decide +kernel, by show ¬¬(sramBase ≤ _ ∧ _ < hubBase); decide +kernel, by decide +kernel, by decide +kernel, by decide +kernel, by decide +kernel⟩

/-- The parts of those bundles: open ones of a stack, of a window, a closed one. -/
theorem witness_bundle_parts (cls : BundleClass) (write : Bool) :
    let parts := fun v : BundleEvent => bundleParts (tPass cls v) (tRunOf tOp cls v.bundle) v.bundle 8 write
    let road := fun v : BundleEvent => bundleRoute (tPass cls v) (tRunOf tOp cls v.bundle) 0 v.bundle 8
    let isUsed := fun y : Part => !y.empty && y.open_
    let isClosed := fun y : Part => !y.empty && !y.open_
    (parts tBundle).filter isUsed ≠ [] ∧ (parts tBundle).filter isClosed = [] ∧
    (∀ y ∈ parts tBundle, y.empty = false ∧ (y.addr < sramBase ∨ hubBase ≤ y.addr)
      ∧ isHere (tPass cls tBundle) (pieceAddr (tPass cls tBundle) (tRunOf tOp cls tBundle.bundle) tBundle.bundle.addr y.p) = true
      ∧ spanOpen (tPass cls tBundle) y.addr (slice (z 8) y.p.off y.p.len).length true = true) ∧
    (((parts tBundle).filter fun y => !y.empty).flatMap fun y => spanLinear y.addr (slice (z 8) y.p.off y.p.len).length).Nodup ∧
    isWindowRoute (road tBundle) = false ∧
    (parts tToWindow).filter isUsed ≠ [] ∧ sramBase ≤ (((parts tToWindow).head?.map (·.addr)).getD 0) ∧
    (((parts tToWindow).head?.map (·.addr)).getD 0) < hubBase ∧ isWindowRoute (road tToWindow) = true ∧
    (parts tClosed).filter isUsed = [] ∧ (parts tClosed).filter isClosed ≠ [] := by
  cases cls <;> cases write <;> decide +kernel

/-- A read of engine 0 on its way, and a remote write; engine 0 has issued its one bundle. -/
def tFlight : State :=
  { tPass .mread tBundle with
    engines := [(0, { tags := [(2, false)], next := 1
                      inflight := [{ tag := some 2, due := 100, dest := 64, old := [0, 0], src := [(0, 0x100000, 2)], number := 1 }]
                      incoming := [{ source := 1, offset := 128, data := [1, 2], land := 100 }] })] }

/-- Both land; while engine 0 has still to issue in cycle 10, what lands after that does not. -/
theorem witness_landings :
    let x := engGet tFlight 0
    let f : Inflight := { tag := some 2, due := 100, dest := 64, old := [0, 0], src := [(0, 0x100000, 2)], number := 1 }
    Canonical tFlight ∧ tFlight.agenda = [] ∧ tFlight.stores = [] ∧ (tFlight.poison = [] ∧ tFlight.soft = []) ∧ tFlight.taint = [] ∧
    x.inflight.find? (fun g => g.tag == some 2) = some f ∧ x.inflight.find? (fun g => g.number == f.number) = some f ∧
    fenceWaits x f = false ∧ inTurn tFlight (landCycle tFlight x f 0) = true ∧ f.poisoned = [] ∧
    (∀ x ∈ f.src, spanRead tFlight x.2.1 x.2.2 = slice f.old x.1 x.2.2) ∧ f.old.length ≤ 0x400000 ∧ (∃ y ∈ x.tags, y.1 = 2) ∧
    x.incoming[0]? = some { source := 1, offset := 128, data := [1, 2], land := 100 } ∧ inTurn tFlight 100 = true ∧
    (let u := { tFlight with engines := [(0, { x with next := 0 })] }
     inTurn u (landCycle u (engGet u 0) f 0) = false ∧ inTurn u 100 = false) ∧
    (let g : Inflight := { tag := some 3, due := 100, dest := 0, old := [], src := [], number := 2, fence := true }
     fenceWaits { x with inflight := [f, g] } g = true) := by
  refine ⟨⟨by decide, by decide, by decide, by decide, by decide⟩, rfl, rfl, ⟨rfl, rfl⟩, rfl, by decide +kernel, by decide +kernel,
    by decide +kernel, by decide +kernel, rfl, by decide +kernel, by decide +kernel, ⟨_, List.mem_singleton.mpr rfl, rfl⟩,
    by decide +kernel⟩

theorem witness_ramp_down :
    let s := { tPass .nop tBundle with
               engines := [(0, { next := 1, holding := some 10, holdFrom := 10, holdMask := 4, tags := [(2, false)] })]
               power := { tReady.power with ramp := false }, clock := { dt := 10 ^ 6 * 2 ^ 32 } }
    Canonical s ∧ isHeld (engGet s 0) = true ∧ s.power.ramp = false ∧ 256 ≤ heldCycles s 0 ∧ (engGet s 0).arrays.length = 4 ∧
    heldCycles { s with clock := {} } 0 < 256 :=
  ⟨⟨by decide, by decide, by decide, by decide, by decide⟩, by decide +kernel⟩

/-- What a bad flit may have hit: a completion, a remote write, a store, and bytes of stack 0. -/
theorem witness_bad_flit : (engGet tFlight 0).inflight[0]?.isSome = true ∧ (engGet tFlight 0).incoming[0]?.isSome = true ∧
    spanOpen tFlight 0x100000 32 true = true := by decide +kernel

/-! ## Kernels -/

/-- A kernel of one row of two columns on stack 0. -/
def tKernel (params : Bytes) : KernelEvent := { kernel := { image := 1, stack := 0, rows := 1, cols := 2, params := params } }

/-- An image whose tensors 1 to 8 hold FP32 rows of 8 bytes, 4 KiB apart from 0x101000 on, with one kernel on stack 0. -/
def tKImage (code : KernelCode) (params : Bytes) : Image :=
  { tImage with
    ops := [{ tOp with n := 32, dFmt := 1, tensorD := 1 }]
    tensors := (List.range 8).map fun i => { id := i + 1, base := 0, fmt := 0, addr := 0x101000 + 0x1000 * i, size := 0x1000, stride := 8 }
    calderas := [(0, [{ code := code, k := (tKernel params).kernel }])] }

/-- The job of context 3, in slot 0. -/
def tJob : Ctx := { tCtx .running with slot := some 0, placement := some 0 }

/-- Its pass on engine 0. -/
def tThePass : Pass := { image := 1, placement := 0, beat := 0, slots := [(0, 3)], engines := [0] }

/-- A pass of that image with context 3 in slot 0. -/
def tKState (code : KernelCode) (params : Bytes) : State :=
  { tReady with images := [tKImage code params], ctxs := [tJob], passes := [tThePass] }

/-- A tensor ID, and the ID of an absent tensor. -/
def tId (n : Byte) : Bytes := [n, 0, 0, 0]
def tAbsent : Bytes := [0xFF, 0xFF, 0xFF, 0xFF]

/-- The run of a kernel with given parameters. -/
def tRun (code : KernelCode) (params : Bytes) : KRun :=
  { k := (tKernel params).kernel, run := { img := tKImage code params, pass := tThePass, partner := false } }

theorem tKState_canonical (code : KernelCode) (params : Bytes) : Canonical (tKState code params) :=
  ⟨tReady_canonical.1, tReady_canonical.2, tReady_canonical.3, tReady_canonical.4, tReady_canonical.5⟩

/-- Whether some access that a kernel's image declares is closed, for whatever reason. -/
def tClosedTo (s : State) (code : KernelCode) (x : KRun) : Bool :=
  x.run.pass.slots.any fun (k, n) => (ctxGet s n).any (activeIn x.run.pass) && (kernelSpans x.run.img code x.k).any fun y =>
    (kspanRows (slotBase s x.run k) y).any fun (a, m) => decide (0 < m) && !spanOpen s (runAddr x.run a) m y.write

theorem tReach {s : State} {code : KernelCode} {x : KRun} (h : tClosedTo s code x = false) (why : Code) :
    closedJobs s code x why = [] := by
  simp only [closedJobs, List.map_eq_nil_iff, List.filter_eq_nil_iff]
  intro a ha hc
  have : tClosedTo s code x = true := by
    simp only [tClosedTo, List.any_eq_true]
    simp only [Bool.and_eq_true, List.any_eq_true] at hc
    obtain ⟨h1, y, hy, z, hz, h2, -⟩ := hc
    exact ⟨a, ha, by simp only [Bool.and_eq_true, List.any_eq_true]; exact ⟨h1, y, hy, z, hz, h2⟩⟩
  simp [h] at this

/-- The conditions of KernelRuns for the kernel of that image. -/
theorem tKernelRuns {code : KernelCode} {params : Bytes}
    (h : kernelRun (tKState code params) code (tKernel params).kernel = some (tRun code params, 0))
    (hc : tClosedTo (tKState code params) code (tRun code params) = false) :
    KernelRuns code (tKState code params) (tKernel params) (tRun code params) 0 :=
  ⟨h, tReach hc, ⟨rfl, rfl, rfl⟩, ⟨rfl, rfl, rfl⟩, tKState_canonical _ _⟩

/-- A kernel of an image that has no pass, and one that the program does not have. -/
theorem witness_kernel_not_due :
    kernelOf (.reduce (tKernel [])) = some (.reduce, tKernel []) ∧ kernelRun tReady .reduce (tKernel []).kernel = none ∧
    kernelRun (tKState .reduce []) .guidance (tKernel []).kernel = none := by decide +kernel

/-- SAMPLER_STEP of two inputs, one noise term and no dropout. -/
def tStep : Bytes := tId 1 ++ tId 2 ++ tAbsent ++ tAbsent ++ tId 5 ++ z 28

theorem witness_sampler_step :
    let x := tRun .samplerStep tStep
    let s := tKState .samplerStep tStep
    KernelRuns .samplerStep s (tKernel tStep) x 0 ∧ kJob s x 0 = some tJob ∧
    ∃ out, kTens x 16 = some out ∧ x.k.digestLayer = 0xFFFFFFFF ∧ outScaled x.k = false ∧ outFmt x.k = 0 ∧
      (spanLinear (kRow s x out 0) 8).Nodup ∧ Writable s [(kRow s x out 0, 8)] :=
  ⟨tKernelRuns (by decide +kernel) (by decide +kernel), by decide +kernel, _, rfl, by decide +kernel, by decide +kernel, by decide +kernel,
    by decide +kernel, by simp only [Writable, List.mem_singleton, forall_eq]; decide +kernel⟩

/-- GUIDANCE from tensors 1 and 2 into tensor 5. -/
def tGuidance : Bytes := tId 1 ++ tId 2 ++ tId 5 ++ z 4

theorem witness_guidance :
    let x := tRun .guidance tGuidance
    let s := tKState .guidance tGuidance
    KernelRuns .guidance s (tKernel tGuidance) x 0 ∧ kJob s x 0 = some tJob ∧
    ∃ tu tc out, kTens x 0 = some tu ∧ kTens x 4 = some tc ∧ kTens x 8 = some out ∧ outScaled x.k = false ∧
      (spanLinear (kRow s x out 0) 8).Nodup ∧ Writable s [(kRow s x out 0, 8)] :=
  ⟨tKernelRuns (by decide +kernel) (by decide +kernel), by decide +kernel, _, _, _, rfl, rfl, rfl, by decide +kernel, by decide +kernel,
    by simp only [Writable, List.mem_singleton, forall_eq]; decide +kernel⟩

/-- ORDERED_ACCUMULATE of two slots of 8 bytes. -/
def tAccumulate : Bytes := tId 1 ++ tAbsent ++ tId 5 ++ [2, 0, 0, 0] ++ [8, 0, 0, 0, 0, 0, 0, 0]

theorem witness_ordered_accumulate :
    let x := tRun .accumulate tAccumulate
    let s := tKState .accumulate tAccumulate
    KernelRuns .accumulate s (tKernel tAccumulate) x 0 ∧ kJob s x 0 = some tJob ∧
    ∃ slots out, kTens x 0 = some slots ∧ kTens x 8 = some out ∧ outScaled x.k = false ∧
      (spanLinear (kRow s x out 0) 8).Nodup ∧ Writable s [(kRow s x out 0, 8)] :=
  ⟨tKernelRuns (by decide +kernel) (by decide +kernel), by decide +kernel, _, _, rfl, rfl, by decide +kernel, by decide +kernel,
    by simp only [Writable, List.mem_singleton, forall_eq]; decide +kernel⟩

/-- OPTIM with every tensor present; then a scalar block whose SKIP is 1. -/
def tOptim : Bytes := tId 1 ++ tId 2 ++ tId 3 ++ tId 4 ++ tAbsent ++ tId 5 ++ tId 7 ++ z 4

theorem witness_optim :
    let x := tRun .optim tOptim
    let s := tKState .optim tOptim
    KernelRuns .optim s (tKernel tOptim) x 0 ∧ kJob s x 0 = some tJob ∧
    ∃ tw tm tv tg out ts, kTens x 0 = some tw ∧ kTens x 4 = some tm ∧ kTens x 8 = some tv ∧ kTens x 12 = some tg ∧
      kTens x 20 = some out ∧ kTens x 24 = some ts ∧ field (spanRead s (kBase s x 0 ts) 64) 32 4 = 0 ∧
      outScaled x.k = false ∧
      (spanLinear (kRow s x tw 0) 8 ++ spanLinear (kRow s x tm 0) 8 ++ spanLinear (kRow s x tv 0) 8
        ++ spanLinear (kRow s x out 0) 8).Nodup ∧
      Writable s [(kRow s x tw 0, 8), (kRow s x tm 0, 8), (kRow s x tv 0, 8), (kRow s x out 0, 8)] :=
  ⟨tKernelRuns (by decide +kernel) (by decide +kernel), by decide +kernel, _, _, _, _, _, _, rfl, rfl, rfl, rfl, rfl, rfl, by decide +kernel,
    by decide +kernel, by decide +kernel, by
      simp only [Writable, List.mem_cons, List.not_mem_nil, or_false, forall_eq_or_imp, forall_eq]; decide +kernel⟩

theorem witness_optim_skip :
    let s := { tKState .optim tOptim with mem := [(0x107020, 1)] }
    KernelRuns .optim s (tKernel tOptim) (tRun .optim tOptim) 0 ∧ kJob s (tRun .optim tOptim) 0 = some tJob ∧
      ∃ ts, kTens (tRun .optim tOptim) 24 = some ts ∧ field (spanRead s (kBase s (tRun .optim tOptim) 0 ts) 64) 32 4 ≠ 0 :=
  ⟨⟨by decide +kernel, tReach (by decide +kernel), ⟨rfl, rfl, rfl⟩, ⟨rfl, rfl, rfl⟩, ⟨by decide, by decide, by decide, by decide, by decide⟩⟩,
    by decide +kernel, _, rfl, by decide +kernel⟩

/-- REDUCE along an axis. -/
def tReduce (axis : Byte) : Bytes := tId 1 ++ tAbsent ++ tId 5 ++ [0, axis, 0, 0]

theorem witness_reduce (axis : Byte) (h : axis = 0 ∨ axis = 1) :
    let x := tRun .reduce (tReduce axis)
    let s := tKState .reduce (tReduce axis)
    KernelRuns .reduce s (tKernel (tReduce axis)) x 0 ∧ kJob s x 0 = some tJob ∧
    ∃ tin out, kTens x 0 = some tin ∧ kTens x 8 = some out ∧ kNat x.k 13 1 = axis.toNat ∧
      (spanLinear (kRow s x out 0) 4).Nodup ∧ (spanLinear (kBase s x 0 out) (4 * x.k.cols)).Nodup ∧ x.k.slotRows = 0 ∧
      Writable s [(kRow s x out 0, 4)] ∧ Writable s [(kBase s x 0 out, 4 * x.k.cols)] := by
  rcases h with rfl | rfl <;>
    exact ⟨tKernelRuns (by decide +kernel) (by decide +kernel), by decide +kernel, _, _, rfl, rfl, by decide +kernel, by decide +kernel,
      by decide +kernel, by decide +kernel, by simp only [Writable, List.mem_singleton, forall_eq]; decide +kernel,
      by simp only [Writable, List.mem_singleton, forall_eq]; decide +kernel⟩

/-- QUANTISE_DEFERRED of operation 0 with partial maxima in tensor 2. -/
def tQuantise : Bytes := [0, 0, 0, 0] ++ tId 2 ++ tId 5 ++ tAbsent

theorem witness_quantise :
    let x := tRun .quantise tQuantise
    let s := tKState .quantise tQuantise
    KernelRuns .quantise s (tKernel tQuantise) x 0 ∧ kJob s x 0 = some tJob ∧
    ∃ o tp out td, opOf x.run.img (kNat x.k 0 2) = some o ∧ kTens x 4 = some tp ∧ kTens x 8 = some out ∧
      tensorGet x.run.img o.tensorD = some td ∧ o.dScaled = false ∧
      (spanLinear (kRow s x out 0) (packedBytes (fmtWidth o.dFmt) (npadOf o))).Nodup ∧
      Writable s [(kRow s x out 0, packedBytes (fmtWidth o.dFmt) (npadOf o))] :=
  ⟨tKernelRuns (by decide +kernel) (by decide +kernel), by decide +kernel, _, _, _, _, rfl, rfl, rfl, rfl, by decide +kernel,
    by decide +kernel, by simp only [Writable, List.mem_singleton, forall_eq]; decide +kernel⟩

/-- TRANSPOSE of tensor 1 into tensor 5. -/
def tTranspose : Bytes := tId 1 ++ tAbsent ++ tId 5 ++ tAbsent ++ z 4

theorem witness_transpose :
    let x := tRun .transpose tTranspose
    let s := tKState .transpose tTranspose
    KernelRuns .transpose s (tKernel tTranspose) x 0 ∧ kJob s x 0 = some tJob ∧
    ∃ tin out, kTens x 0 = some tin ∧ kTens x 8 = some out ∧ outScaled x.k = false ∧ (∀ m < x.k.rows, kSlot x.k m = 0) ∧
      ((List.range x.k.cols).flatMap fun n => spanLinear (kRowIn s x 0 out n) (packedBytes (fmtWidth (outFmt x.k)) x.k.rows)).Nodup ∧
      Writable s ((List.range x.k.cols).map fun n => (kRowIn s x 0 out n, packedBytes (fmtWidth (outFmt x.k)) x.k.rows)) :=
  ⟨tKernelRuns (by decide +kernel) (by decide +kernel), by decide +kernel, _, _, rfl, rfl, by decide +kernel, by decide +kernel,
    by decide +kernel, by show ∀ y ∈ ([_, _] : List (Nat × Nat)), _; simp only [List.mem_cons, List.not_mem_nil, or_false, forall_eq_or_imp, forall_eq]; decide +kernel⟩

/-- GATHER or SCATTER by index: table 1, index 2, the other tensor 3. -/
def tIndexed : Bytes := z 4 ++ tId 1 ++ tId 2 ++ tId 3 ++ z 4

/-- The index in row 0 of tensor 2: within the table, absent, or beyond it. -/
theorem witness_index_kernels (code : KernelCode) (hc : code = .gather ∨ code = .scatter) (i : Nat × Bool × Bool)
    (h : i = (0, false, false) ∨ i = (0xFF, true, false) ∨ i = (0x7F, false, true)) :
    let s := { tKState code tIndexed with mem := if i.1 = 0 then [] else [(0x102000, BitVec.ofNat 8 i.1), (0x102001, 0xFF), (0x102002, 0xFF), (0x102003, 0xFF)] }
    let x := tRun code tIndexed
    KernelRuns code s (tKernel tIndexed) x 0 ∧ kJob s x 0 = some tJob ∧
    ∃ table index other, kTens x 4 = some table ∧ kTens x 8 = some index ∧ kTens x 12 = some other ∧
      ((leNat (spanRead s (kRow s x index 0) 4) == 0xFFFFFFFF) = i.2.1) ∧
      ((leNat (spanRead s (kRow s x index 0) 4) != 0xFFFFFFFF && !holdsRow table x.k.cols (leNat (spanRead s (kRow s x index 0) 4))) = i.2.2) ∧
      (spanLinear (kRow s x other 0) (rowBytes other.fmt x.k.cols)).Nodup ∧
      (i.1 = 0 → Writable s [(kRow s x other 0, 8)] ∧ Writable s [(kRowIn s x 0 table 0, 8)]) := by
  rcases hc with rfl | rfl <;> rcases h with rfl | rfl | rfl <;>
    exact ⟨⟨by decide +kernel, tReach (by decide +kernel), ⟨rfl, rfl, rfl⟩, ⟨rfl, rfl, rfl⟩, ⟨by decide, by decide, by decide, by decide, by decide⟩⟩,
      by decide +kernel, _, _, _, rfl, rfl, rfl, by decide +kernel, by decide +kernel, by decide +kernel,
      by simp only [Writable, List.mem_singleton, forall_eq]; decide +kernel⟩

/-! ## Pages in kernels, the token sampler -/

/-- A page-form kernel of layer 0 with one head of d channels. -/
def tPParams (kind d tokensLo tokensHi : Byte) : Bytes :=
  [1, 0, 0, 0] ++ tId 8 ++ [0, kind] ++ z 2 ++ [1, 0, d, 0] ++ [tokensLo, tokensHi, 0, 0]

/-- The image with that kernel and a BF16 staging tensor 8. -/
def tPImage (code : KernelCode) (params : Bytes) : Image :=
  { tKImage code params with
    tensors := (tKImage code params).tensors.take 7
      ++ [{ id := 8, base := 0, fmt := 1, addr := 0x108000, size := 0x1000, stride := 512 }] }

/-- The job that maps page 0 as index 0 of layer 0, V and K, with 5 tokens, one a pass. -/
def tPJob : Ctx := { tJob with length := 5, desc := { tDesc with tokens := 1 } }

/-- Its pass: the directory words of K and V both name a leaf of one index at 0x201000, which maps page 0. -/
def tPState (code : KernelCode) (params : Bytes) : State :=
  { tKState code params with
    images := [tPImage code params], ctxs := [tPJob], pages := [tPage]
    mem := [(0x200001, 0x10), (0x200002, 0x20), (0x200006, 1), (0x200009, 0x10), (0x20000A, 0x20), (0x20000E, 1)] }

/-- The run of a page-form kernel. -/
def tPRun (code : KernelCode) (params : Bytes) : KRun :=
  { k := (tKernel params).kernel, run := { img := tPImage code params, pass := tThePass, partner := false } }

theorem witness_gather_page :
    let b := tPParams 1 1 0 1
    let x := tPRun .gather b
    let s := tPState .gather b
    KernelRuns .gather s (tKernel b) x 0 ∧ kNat x.k 0 1 ≠ 0 ∧
    ∃ staging, kTens x 4 = some staging ∧ jobOf s x.run (kNat x.k 8 1) = some tPJob ∧
      tensorGet x.run.img (staging.id + 1) = none ∧ Writable s [(kRowIn s x 0 staging 0, 512)] ∧
      let lins := (List.range 1).flatMap fun r => spanLinear (kRowIn s x 0 staging r) (packedBytes (fmtWidth staging.fmt) 256)
      lins.Nodup ∧ ∀ q ∈ s.pages, q.state ≠ .dropped ∧
        ∀ y ∈ lins, y < (kPage x q).slot ∨ (kPage x q).slot + pageBytes q.fmt q.scaled 1 ≤ y := by
  refine ⟨⟨by decide +kernel, tReach (by decide +kernel), ⟨rfl, rfl, rfl⟩, ⟨rfl, rfl, rfl⟩, ⟨by decide, by decide, by decide, by decide, by decide⟩⟩,
    by decide +kernel, _, rfl, by decide +kernel, rfl, ?_, ?_, by decide +kernel⟩
  · simp only [Writable, List.mem_singleton, forall_eq]; decide +kernel
  · simp only [List.range_one, List.flatMap_cons, List.flatMap_nil, List.append_nil]
    exact spanLinear_nodup (by decide +kernel)

theorem witness_scatter_page :
    let b := tPParams 0 1 1 0
    let x := tPRun .scatter b
    let s := tPState .scatter b
    KernelRuns .scatter s (tKernel b) x 0 ∧ kNat x.k 0 1 ≠ 0 ∧
    ∃ staging, kTens x 4 = some staging ∧ kNat x.k 16 4 = 1 ∧ tPJob.recomputing = false ∧
      jobOf s x.run (kNat x.k 8 1) = some tPJob ∧ tensorGet x.run.img (staging.id + 1) = none ∧
      mappedPage s tPJob 0 0 (tPJob.length / 256) = some tPage ∧ (writeRange tPJob).contains (tPJob.length / 256) = true ∧
      pageGet s tPage.id = some tPage ∧ tPage.state = .live ∧ tPage.refs = 1 ∧ tPage.homeScaled = false ∧ (kPage x tPage).slot = tPage.slot ∧
      tPage.slot + pageBytes 1 false 1 ≤ 0x10000000000 ∧ descAddr s tPage.id + 32 ≤ tPage.slot ∧
      spanOpen s (kRowIn s x 0 staging 0) 2 = true ∧ spanOpen s (tPage.slot + 10) 2 true = true ∧
      ∀ y ∈ spanLinear (kRowIn s x 0 staging 0) 2, tPage.slot + pageBytes 1 false 1 ≤ y ∧ descAddr s tPage.id + 32 ≤ y :=
  ⟨⟨by decide +kernel, tReach (by decide +kernel), ⟨rfl, rfl, rfl⟩, ⟨rfl, rfl, rfl⟩, ⟨by decide, by decide, by decide, by decide, by decide⟩⟩,
    by decide +kernel, _, rfl, by decide +kernel⟩

/-- A job that samples from tensor 1 into tensor 2, at the end of its pass. -/
def tSampler : Ctx :=
  { tJob with desc := { tDesc with sampler := true, sampLogits := 1, sampTokens := 2, vocab := 2, invTemp := 0x3F800000, topP := 0x3F800000 } }

/-- The end of its pass: engine 0 has issued its one bundle. -/
def tSampling : State :=
  { tReady with
    images := [{ tKImage .reduce [] with calderas := [] }], ctxs := [tSampler], passes := [tThePass], engines := [(0, { next := 1 })] }

theorem witness_token_sampler :
    Canonical tSampling ∧ tSampling.agenda = [] ∧ tSampling.passes.all (passDone tSampling) = true ∧ tThePass ∈ tSampling.passes ∧
    nextToSample tSampling tThePass = some 3 ∧ ctxGet tSampling 3 = some tSampler ∧
    (∃ i l t, imageGet tSampling tSampler.desc.image = some i ∧ tensorGet i tSampler.desc.sampLogits = some l ∧
      tensorGet i tSampler.desc.sampTokens = some t ∧ spanOpen tSampling (tensorAddr l tSampler.desc.base) 8 = true ∧
      spanOpen tSampling (tensorAddr t tSampler.desc.base) 4 true = true ∧ (spanLinear (tensorAddr t tSampler.desc.base) 4).Nodup) ∧
    (tSampling.poison = [] ∧ tSampling.soft = []) ∧ (∀ p ∈ tSampling.passes, nextToSample tSampling p ≠ some 4) ∧
    (let s := { tSampling with engines := [] }
     s.passes.all (passDone s) = false) := by
  refine ⟨⟨by decide, by decide, by decide, by decide, by decide⟩, rfl, by decide +kernel, List.mem_singleton.mpr rfl, by decide +kernel,
    by decide +kernel, ⟨_, _, _, rfl, rfl, rfl, by decide +kernel⟩, ⟨rfl, rfl⟩, ?_, by decide +kernel⟩
  simp only [tSampling, List.mem_singleton, forall_eq]
  decide +kernel

/-! ## UTX -/

/-- A REQ of session 1, from its own other end. -/
def tReq (psn : BitVec 32) (address : BitVec 64) (length : Nat) (payload : Bytes) : UtxReq :=
  { addr := 7, udp := 9, session := 1, psn := psn, address := address, length := length, payload := payload }

theorem tArrives (psn : BitVec 32) (a : BitVec 64) (b : Bytes) (op : RmoOp) :
    Arrives tReady (tReq psn a 8 b) (tSession .owner) op :=
  ⟨tReady_canonical, by show takesFrames tReady 0 0 = true; decide +kernel, by show acceptsUtx tReady 0 0 7 51440 = true; decide +kernel, rfl,
    by cases op <;> simp [payloadOf, tReq, tSession], by show 0 + costOf 8 ≤ 16; decide +kernel⟩

theorem witness_requests (op : RmoOp) :
    Arrives tReady (tReq 0 0xFFFF000000001000 8 [1, 2, 3, 4, 5, 6, 7, 8]) (tSession .owner) op ∧
    commandWaits tReady 1 = false ∧
    (0 : BitVec 32) = (tSession .owner).expect ∧ tReady.poison = [] ∧ isStack (localOf 0xFFFF000000001000) = true ∧
    (∀ d ∈ tReady.deferred, d.q.session ≠ 1) ∧
    (op ≠ .fence → rmoRefusal tReady .owner 1 8192 op 0xFFFF000000001000 8 = none) ∧
    rmoRefusal tReady .owner 1 8192 .fence 0 0 = none ∧ (tReady.soft = [] ∧ 1 ∉ tReady.flitReads) ∧
    (spanLinear (localOf 0xFFFF000000001000) (touched op 8)).Nodup ∧
    rmoRefusal tReady .owner 1 8192 .cas 0xFFFF000000001001 8 = some .busError := by
  refine ⟨tArrives _ _ _ _, by decide +kernel, rfl, rfl, by decide +kernel, by simp [tReady], ?_, by decide +kernel, by decide +kernel, ?_,
    by decide +kernel⟩
  · intro h; cases op <;> first | exact absurd rfl h | decide +kernel
  · cases op <;> decide +kernel

/-- A WRITE to AM of engine 0; a REQ behind and one ahead of the PSN expected; a REQ beyond the segment size; a REQ beyond the
window. -/
theorem witness_requests_out_of_turn :
    isWindow (localOf 0xFFFF200000180000) = true ∧ isHere tReady 0xFFFF200000180000 = true ∧ tReady.power.phase ≠ .standby ∧
    (tSession .owner).cls ≠ .peer ∧ rmoRefusal tReady .owner 1 8192 .write 0xFFFF200000180000 8 = none ∧
    serialGt 3 (tSession .owner).expect = true ∧ serialGt 0xFFFFFFFF (tSession .owner).expect = false ∧
    (tSession .owner).nakFor ≠ some (tSession .owner).expect ∧
    takesFrames tReady 0 0 = true ∧ acceptsUtx tReady 0 0 7 99 = false ∧ acceptsUtx tReady 0 0 7 51440 = true ∧
    reqSession tReady (tReq 0 0 8193 []) = some (tSession .owner) ∧
    (tSession .owner).segment < payloadOf .write (tReq 0 0 8193 []) ∧ payloadOf .read (tReq 0 0 8 []) ≤ (tSession .owner).segment ∧
    (let s := { tReady with sessions := [(1, { tSession .owner with held := 16 })] }
     reqSession s (tReq 0 0 8 []) = some { tSession .owner with held := 16 } ∧ takesFrames s 0 0 = true ∧ acceptsUtx s 0 0 7 51440 = true ∧
      ({ tSession .owner with held := 16 } : Session).window < 16 + costOf 8) := by decide +kernel

/-- A session with two packets kept, both sent. -/
def tKeeping : Session :=
  { tSession .owner with
    nextPsn := 2, kept := [{ psn := 0, isReq := false, op := 1, sent := true }, { psn := 1, isReq := false, op := 1, sent := true }] }

/-- An ACK or NAK of session 1. -/
def tBack : UtxBack := { addr := 7, udp := 9, session := 1, ackPsn := 1, creditLimit := 20 }

/-- The half that carries REQs to member 1 of a group, and an RSP to it. -/
def tHalf : Session := { tSession .peer with nextPsn := 1, waiting := [(0, [3])] }

theorem witness_acknowledgements :
    let s := { tReady with sessions := [(1, tKeeping)] }
    Canonical s ∧ takesFrames s 0 0 = true ∧ acceptsUtx s 0 0 7 51440 = true ∧ sessGet s 1 = some tKeeping ∧
    tBack.length ≤ tKeeping.segment ∧ backHalf s tBack = some 1 ∧ covers s 1 (costOf 0) = true ∧
    covers { s with sessions := [(1, { tKeeping with held := 16 })] } 1 (costOf 0) = false :=
  ⟨⟨by decide, by decide, by decide, by decide, by decide⟩, by decide +kernel, by decide +kernel, by decide +kernel, by decide,
    by decide +kernel, by decide +kernel, by decide +kernel⟩

theorem witness_response :
    let s := { tMember with sessions := [(4097, tHalf)], nodes := [{ id := 2, port := 0, iface := 0, addr := 7, udp := 9, session := some 4097, member := 1 }] }
    let q : UtxBack := { addr := 7, udp := 9, session := 4095, ackPsn := 1, psn := 0 }
    Canonical s ∧ takesFrames s 0 0 = true ∧ acceptsUtx s 0 0 7 51440 = true ∧ sessGet s 4097 = some tHalf ∧
    q.length ≤ tHalf.segment ∧ requestHalf s q = some 4097 ∧ q.psn = tHalf.expect ∧ (servedBy tHalf q.reqPsn = [3]) ∧
    covers s 4097 (costOf 0) = true ∧
    covers { s with sessions := [(4094, { tSession .peer with held := 16 }), (4097, tHalf)] } 4097 (costOf 0) = false :=
  ⟨⟨by decide, by decide, by decide, by decide, by decide⟩, by decide +kernel, by decide +kernel, by decide +kernel, by decide, by decide +kernel,
    rfl, by decide +kernel, by decide +kernel, by decide +kernel⟩

theorem witness_sending :
    let s := { tReady with sessions := [(1, { tKeeping with kept := [{ psn := 0, isReq := false, op := 1 }] })] }
    let y : Parting :=
      { port := 0, iface := 0, dest := ⟨7, 9, 51440⟩
        packet := { session := 2, type := 2, psn := 0, ackPsn := 0, creditLimit := 0, address := 0, op := 1, status := 0
                    reqPsn := 0, payload := [] } }
    let f : HeldFrame := ⟨0, 0, .frame (.arpReply 1)⟩
    let b : HeldFrame := ⟨0, 0, .boot ⟨7, 9, 51440⟩ { origin := .boot 0 0 7 9, opcode := 1, code := .ok, tag := 5, result := [], dsw := 0, boundary := 0, doneSeq := 0, eventRef := 0 }⟩
    Canonical s ∧ linkRuns s = true ∧ waitingOn s 0 ≠ [] ∧ nextParting s 0 = none ∧ nextHeld s 0 false = none ∧
    waitingOn tReady 0 = [] ∧ nextParting tReady 0 = none ∧ nextHeld tReady 0 true = none ∧
    nextParting { s with sessions := [], parting := [y] } 0 = some y ∧
    waitingOn { s with sessions := [], parting := [y] } 0 = [] ∧
    nextHeld { s with heldOut := [b, f] } 0 false = some f ∧
    (let u := { tReady with heldOut := [b] }
     nextHeld u 0 false = none ∧ waitingOn u 0 = [] ∧ nextParting u 0 = none ∧ nextHeld u 0 true = some b) ∧
    (waitingOn { tReady with sessions := [(1, { tSession .owner with naks := [0] })] } 0).map (·.2.2) = [.nak 0] ∧
    (waitingOn { tReady with sessions := [(1, { tSession .owner with ackNow := true })] } 0).map (·.2.2) = [.ack] :=
  ⟨⟨by decide, by decide, by decide, by decide, by decide⟩, by decide +kernel⟩

theorem witness_ack_delay :
    let x := { tSession .owner with ackSince := some 0 }
    let s := { tReady with sessions := [(1, x)], clock := { dt := 10 ^ 6 * 2 ^ 32 } }
    Canonical s ∧ sessGet s 1 = some x ∧ linkRuns s = true ∧ 0 + usDt (ackDelay s) ≤ s.clock.dt ∧
    tReady.clock.dt < 0 + usDt (ackDelay tReady) ∧ linkRuns tReady = true :=
  ⟨⟨by decide, by decide, by decide, by decide, by decide⟩, by decide +kernel⟩

theorem witness_timers :
    let s := { tReady with sessions := [(1, tKeeping), (2, { tKeeping with timeouts := 16 })], clock := { dt := 10 ^ 12 * 2 ^ 32 } }
    Canonical s ∧ sessGet s 1 = some tKeeping ∧ linkRuns s = true ∧ tKeeping.kept.any (·.sent) = true ∧
    tKeeping.timeouts < retryLimit s ∧ tKeeping.timerAt + tKeeping.rtoNs * 2 ^ 32 ≤ s.clock.dt ∧ retryLimit s ≤ 16 ∧
    (let u := { tOpening with clock := s.clock }
     u.challenges[0]? = some { nonce := 1, drawn := 0 } ∧ 0 + 10 * secondDt ≤ u.clock.dt ∧
      (∀ r ∈ u.reservations, r.made + 60 * secondDt ≤ u.clock.dt)) :=
  ⟨⟨by decide, by decide, by decide, by decide, by decide⟩, by decide +kernel⟩

/-! ## Frames and links -/

/-- A frame on interface 0 of port 0. -/
def tEth (size : Nat) (kind : FrameKind) : EthFrame := { port := 0, iface := 0, size := size, kind := kind }

/-- Port 0 applies PFC to priority 0, and a frame has stopped that. -/
def tHushed (s : State) : State := { regSet s 0x040000 0x01002400 with pauses := [{ port := 0, priority := 0, until_ := 5 }] }

theorem witness_frames :
    takesFrames tReady 0 0 = true ∧ lostEarly .otherProtocol = false ∧ maxFrame tReady 0 < 9217 ∧
    vlanAdmits tReady 0 0 (some 5) = false ∧ vlanAdmits tReady 0 0 none = true ∧ 64 ≤ maxFrame tReady 0 ∧
    macsecOn tReady 0 0 = false ∧ tReady.xoff = false ∧ 1 + 512 ≤ rxFree tReady ∧ bootsIn tReady 0 < 1024 ∧
    isReady tReady = true ∧ ipOn tReady 0 0 7 = true ∧ segmentOf tReady 0 < 9000 ∧ 0 ≤ segmentOf tReady 0 := by decide +kernel

/-- tReady with MACsec on and a key of association 0, below whose packet number 5 a frame is a replay. -/
theorem witness_macsec :
    let k : Sak := { port := 0, iface := 0, an := 0, ssci := 0, key := [], salt := [], lowest := 5 }
    let s := { tReady with regs := [(0x040008, 1), (0x04010C, 0x0A000001), (0x040120, 0x80000000)], saks := [k] }
    Canonical s ∧ takesFrames s 0 0 = true ∧ macsecOn s 0 0 = true ∧ (∀ y, sakOf s 0 0 0 = some y → 4 < y.lowest) ∧
    (∃ y, sakOf s 0 0 0 = some y ∧ y.lowest ≤ 5 ∧ sealOk s 0 0 y {} = true ∧ sealOk s 0 0 y { key := [1] } = false) := by
  refine ⟨⟨by decide, by decide, by decide, by decide, by decide⟩, by decide +kernel, by decide +kernel, ?_, _, rfl, by decide,
    by decide +kernel⟩
  intro y h
  obtain rfl : _ = y := Option.some.inj h
  decide

/-- PFC enabled for priority 3 of port 0, and a pause. -/
theorem witness_pfc :
    let s := { tReady with regs := [(0x040000, 0x08002400), (0x040008, 1)] }
    linkRuns s = true ∧ (pfcEnabled tReady 0).testBit 3 = false ∧
    (∃ w : Word, (pfcEnabled { tReady with regs := [(0x040000, w), (0x040008, 1)] } 0).testBit 3 = true) := by
  refine ⟨by decide +kernel, by decide +kernel, 0x08000000, ?_⟩
  decide +kernel

theorem witness_addresses :
    let s := { tReady with regs := [(0x040008, 1), (0x04010C, 0x0A000001), (0x04011C, 1)] }
    Canonical s ∧ takesFrames s 0 0 = true ∧ ipv4Of s 0 0 = (0x0A000001 : BitVec 32).toNat ∧
    ipv6Of s 0 0 = (1 : BitVec 128).toNat ∧ ipv4Of s 0 0 ≠ (7 : BitVec 32).toNat ∧ ipv6Of s 0 0 ≠ (7 : BitVec 128).toNat ∧
    (64 : Nat) ≤ maxFrame s 0 ∧ s.xoff = false ∧ 513 ≤ rxFree s ∧ maySendOn s 0 0 = true ∧
    (let u := tHushed s
     Canonical u ∧ takesFrames u 0 0 = true ∧ ipv4Of u 0 0 = (0x0A000001 : BitVec 32).toNat ∧ u.xoff = false ∧ 513 ≤ rxFree u ∧
      maySendOn u 0 0 = false) :=
  ⟨⟨by decide, by decide, by decide, by decide, by decide⟩, by decide +kernel, by decide +kernel, by decide +kernel, by decide +kernel,
    by decide +kernel, by decide +kernel, by decide +kernel, by decide +kernel, by decide +kernel,
    ⟨by decide, by decide, by decide, by decide, by decide⟩, by decide +kernel⟩

/-- Interface 0 of port 0 down, after two failed attempts, 5 s into its third. -/
def tTraining (healthy : Word) : State :=
  { tReady with ports := [{ port := 0, idx := 0, failures := 2 }], regs := [(0x040008, healthy)], clock := { wall := 5 * 10 ^ 9 } }

theorem witness_training :
    let s := tTraining 0x0F00
    Canonical s ∧ linkRuns s = true ∧ serdesHolds s 0 = false ∧ ifaceGet s 0 0 = some { port := 0, idx := 0, failures := 2 } ∧
    allLanes 0xFF (portLanes (activeMode s 0) (healthyLanes s 0) 0) = true ∧
    allLanes 0x0F (portLanes (activeMode s 0) (healthyLanes s 0) 0) = false ∧
    0 + 5000000000 ≤ s.clock.wall ∧ activeMode s 0 = 0 ∧ (fallbackLanes (healthyLanes s 0)).isSome = true ∧
    fallbackLanes (healthyLanes (tTraining 0x0700) 0) = none ∧
    (({ s with ports := [{ port := 0, idx := 0, failures := 1 }] } : State).ports.all fun f => decide (f.failures < 2)) = true :=
  ⟨⟨by decide, by decide, by decide, by decide, by decide⟩, by decide +kernel⟩

/-! ## Time -/

/-- A Sync of the master, one-step and two-step. -/
def tSync (two : Bool) : PtpMsg := { port := 0, domain := 0, source := 1, seqId := 4, twoStep := two, tsSec := 1 }

/-- A device in ACQUIRING under PTP. -/
def tAcquiring : State :=
  { tReady with regs := [(0x030000, 1), (0x040008, 1), (0x04010C, 0x0A000001)], disc := { state := .acquiring, master := some tMaster, delay := some 5 }
                clock := { dt := 10 ^ 9 * 2 ^ 32 } }

theorem witness_ptp :
    Canonical tAcquiring ∧ ptpListens tReady 0 0 = false ∧ ptpListens tAcquiring 0 0 = true ∧ fromMaster tAcquiring 0 1 = true ∧
    syncsIn tAcquiring 0 < 128 ∧
    (let s := { tAcquiring with disc := { tAcquiring.disc with syncs := [(0, 1, 128)] } }
     ptpListens s 0 0 = true ∧ fromMaster s 0 1 = true ∧ 128 ≤ syncsIn s 0) ∧
    (let s := { tAcquiring with disc := { tAcquiring.disc with sync := some (tSync true, 7), delay := none } }
     ptpListens s 0 0 = true ∧ fromMaster s 0 1 = true ∧ s.disc.delay = none ∧ (tSync true).seqId = 4 ∧ (tSync true).source = 1) ∧
    (let s := { tAcquiring with disc := { tAcquiring.disc with delayReq := some (4, 9), lastSync := some (3, 7) } }
     ptpListens s 0 0 = true ∧ fromMaster s 0 1 = true) ∧
    (let s := { tAcquiring with disc := { state := .free } }
     ptpListens s tMaster.port tMaster.domain = true ∧ s.disc.master = none ∧ s.disc.masters = []) ∧
    linkRuns tAcquiring = true ∧ regF tAcquiring oTbCtrl 1 0 = 1 ∧ ifaceUp tAcquiring tMaster.port 0 = true ∧
    tAcquiring.disc.delayAt + delayInterval tMaster.delayReqLog ≤ tAcquiring.clock.dt ∧ tAcquiring.xoff = false ∧
    513 ≤ rxFree tAcquiring ∧ maySendOn tAcquiring 0 0 = true ∧
    (let s := tHushed tAcquiring
     s.disc.master = some tMaster ∧ linkRuns s = true ∧ regF s oTbCtrl 1 0 = 1 ∧ ifaceUp s 0 0 = true ∧
      s.disc.delayAt + delayInterval tMaster.delayReqLog ≤ s.clock.dt ∧ maySendOn s 0 0 = false) ∧
    ptpIpOn tAcquiring 0 (tSync false).ip = true ∧ ptpIpOn tAcquiring 0 (transportIp .ipv4) = true ∧
    ptpIpOn tAcquiring 0 (some true) = false ∧ ptpIpOn tAcquiring 0 (transportIp .ipv6) = false := by
  refine ⟨⟨by decide, by decide, by decide, by decide, by decide⟩, by decide +kernel⟩

/-- A device in LOCKED, in HOLDOVER, in ACQUIRING: late in every respect. -/
def tSilent (st : TimeState) : State :=
  { tReady with regs := [(0x030000, 0x11), (0x040008, 1)]
                disc := { state := st, master := some tMaster, edgeAt := some 0, lockedAt := some 0 }, clock := { dt := 20000 * 10 ^ 9 * 2 ^ 32 } }

theorem witness_time_states (st : TimeState) :
    Canonical (tSilent st) ∧ linkRuns (tSilent st) = true ∧ regF (tSilent st) oTbCtrl 1 0 = 1 ∧
    (tSilent st).disc.announceAt + usDt (3000 * tMaster.intervalMs) ≤ (tSilent st).clock.dt ∧
    (tSilent st).disc.syncAt + 3 * secondDt ≤ (tSilent st).clock.dt ∧
    (tSilent st).disc.holdoverAt + regF (tSilent st) oTbHoldover 31 0 * secondDt ≤ (tSilent st).clock.dt ∧
    (tSilent st).disc.stuck = false ∧ 0 + secondDt * 3 / 2 ≤ (tSilent st).clock.dt ∧
    regF (tSilent st) oTbCtrl 4 4 = 1 ∧ (tSilent st).clock.dt % secondDt < (tSilent st).clock.inc := by
  cases st <;> exact ⟨⟨by decide, by decide, by decide, by decide, by decide⟩, by decide +kernel⟩

theorem witness_holdover_and_pps :
    (tAcquiring.clock.dt < 0 + regF tAcquiring oTbHoldover 31 0 * secondDt) ∧
    (let s := { tReady with regs := [(0x030000, 2), (0x040008, 1)], disc := { edgeAt := some 0, secUsed := true }, clock := { dt := 10 ^ 9 * 2 ^ 32 } }
     Canonical s ∧ linkRuns s = true ∧ regF s oTbCtrl 1 0 = 2 ∧ s.disc.secUsed = true ∧
      (s.disc.edgeAt.any fun t => decide (s.clock.dt < t + secondDt / 2)) = false) ∧
    (let s := { tReady with disc := { edgeAt := some 0 } }
     (s.disc.edgeAt.any fun t => decide (s.clock.dt < t + secondDt / 2)) = true) ∧
    (tReady.disc.ppsAt + secondDt / 10 ≤ tAcquiring.clock.dt) ∧ tReady.disc.secUsed = false := by
  refine ⟨by decide +kernel, ⟨⟨by decide, by decide, by decide, by decide, by decide⟩, by decide +kernel⟩, by decide +kernel⟩

/-! ## Start-up, power -/

theorem witness_reset_and_startup :
    Canonical State.reset ∧ State.reset.power.phase = .off ∧ State.reset.power.tripped = false ∧ bootSlot State.reset.flash = none ∧
    (let s := { tReady with flash := { restartAt := some 5 }, clock := { wall := 5 } }
     s.flash.restartAt = some 5 ∧ 5 ≤ s.clock.wall) ∧ tReady.power.phase ≠ .off ∧
    (let s := { tReady with power := { phase := .starting }, clock := { wall := 10 ^ 10 } }
     Canonical s ∧ s.power.phase = .starting ∧ s.power.stageAt + 10000000000 ≤ s.clock.wall) ∧
    (let s := { State.reset with power := { tripped := true } }
     s.power.phase = .off ∧ s.power.tripped = true) := by
  refine ⟨⟨by decide, by decide, by decide, by decide, by decide⟩, rfl, rfl, by decide +kernel, by decide +kernel, by decide,
    ⟨⟨by decide, by decide, by decide, by decide, by decide⟩, rfl, by decide⟩, rfl, rfl⟩

theorem witness_regulators :
    firmwareRuns tReady = true ∧ ([{ rail := 0, answer := none, railOff := true }] : List RailReading).any (·.railOff) = true ∧
    ([{ rail := 0, answer := some 0x0010 }] : List RailReading).any (·.railOff) = false ∧ faultBits 0x0010 = true ∧
    (0x0080 : BitVec 16) ≠ 0 ∧ faultBits 0x0080 = false ∧ tReady.power.causes.getLsbD 1 = false ∧
    (let s := { tReady with flash := { blob := z 29 ++ [1] ++ z 34 ++ [0, 0x20, 3, 0] } }
     firmwareRuns s = true ∧ (blobRails s.flash.blob).find? (·.1 == 0) = some (0, 0x20, 3)) ∧
    linear16 0x14 4096 1000000 = some 1000000 ∧
    (let s := { tReady with clock := { wall := 10 ^ 7 } }
     Canonical s ∧ firmwareRuns s = true ∧ s.power.pollAt + 10000000 ≤ s.clock.wall ∧ isReady s = true ∧
      s.power.calAt + 10000000 ≤ s.clock.wall) := by
  refine ⟨by decide +kernel, by decide, by decide, by decide +kernel, by decide, by decide +kernel, rfl, by decide +kernel, by decide +kernel,
    ⟨by decide, by decide, by decide, by decide, by decide⟩, by decide +kernel⟩

/-- After 16 beats, with an estimate of w watts. -/
def tEvaluated : State := { tReady with beats := 16, engines := [(3, { lastNumber := 1 })] }

theorem witness_power_evaluation :
    Canonical tEvaluated ∧ standsAtBoundary tEvaluated = true ∧ 0 < tEvaluated.beats ∧ tEvaluated.beats % 16 = 0 ∧
    tEvaluated.power.evals ≠ tEvaluated.beats / 16 ∧ tEvaluated.power.phase ≠ .limited ∧
    mustLower tEvaluated { windowW := 3000 } = true ∧ lowestF tEvaluated < fNow tEvaluated ∧
    mustLower tEvaluated { windowW := 10 } = false ∧ mayRaise tEvaluated { windowW := 10 } = false ∧
    (let s := { tEvaluated with regs := [(0x020020, 0x27000010), (0x040008, 1)] }
     mustLower s { windowW := 3000 } = true ∧ fNow s ≤ lowestF s ∧ mustLower s { windowW := 10 } = false ∧
      mayRaise s { windowW := 10 } = true ∧ s.power.vddF < fNow s + 1 ∧
      (let u := { s with power := { s.power with vddF := 17 } }
       mustLower u { windowW := 10 } = false ∧ mayRaise u { windowW := 10 } = true ∧ fNow u + 1 ≤ u.power.vddF)) :=
  ⟨⟨by decide, by decide, by decide, by decide, by decide⟩, by decide +kernel⟩

theorem witness_limited_exit_and_ramp :
    (let s := { tReady with power := { phase := .limited, clearSince := some 0 }, clock := { wall := 10 ^ 9 } }
     Canonical s ∧ standsAtBoundary s = true ∧ s.power.phase = .limited ∧ s.power.clearSince = some 0 ∧ causesNow s = 0 ∧ 0 + 1000000000 ≤ s.clock.wall) ∧
    (let s := { tReady with power := { phase := .idle, rampUntil := some 0 } }
     s.power.rampUntil = some 0 ∧ s.power.ramp = true ∧ standsAtBoundary s = true ∧ 0 ≤ s.beats ∧ s.diag = none) := by
  refine ⟨⟨⟨by decide, by decide, by decide, by decide, by decide⟩, by decide +kernel⟩, by decide +kernel⟩

theorem witness_periodic_work :
    (let s := { tReady with clock := { wall := 10 ^ 6, dt := 86400 * 10 ^ 9 * 2 ^ 32, health := 3600 }, beats := 256 }
     Canonical s ∧ firmwareRuns s = true ∧ s.power.scrubAt + 1000000 ≤ s.clock.wall ∧ s.votes = [] ∧ beatsRun s = true ∧
      (sfind s.power.patrols 7).getD 0 + 86400 * secondDt ≤ s.clock.dt ∧ stackOf 0xFFFFFFFFE0 = 7 ∧ isRetired s 0xFFFFFFFFE0 = false ∧
      s.poison.contains (wordAt 0xFFFFFFFFE0) = false ∧ badBytes (errorWord [(0, 1), (1, 2)]) < 4 ∧
      rsDecode (errorWord [(0, 1), (1, 2)]) = .uncorrectable ∧ s.power.refreshAt + 256 ≤ s.beats ∧ s.clock.health ≠ 0 ∧
      s.clock.health % 3600 = 0 ∧ s.flash.health.time ≠ s.clock.health ∧ s.flash.healthWrite = false ∧ s.flash.healthThen = none ∧
      (regAt 0x020020).isSome = true ∧ 0x020020 ≠ oVote ∧ 0x020020 ≠ oVoteLast ∧
      Canonical { s with votes := [⟨0x020020, 2, 5⟩] } ∧ firmwareRuns { s with votes := [⟨0x020020, 2, 5⟩] } = true) ∧
    ({ tReady with flash := { healthWrite := true } } : State).flash.healthWrite = true := by
  refine ⟨⟨⟨by decide, by decide, by decide, by decide, by decide⟩, ?_⟩, rfl⟩
  refine ⟨by decide +kernel, by decide +kernel, by decide +kernel, by decide +kernel, by decide +kernel, by decide +kernel,
    by decide +kernel, by decide +kernel, by decide +kernel, by decide +kernel, by decide +kernel, by decide +kernel, by decide +kernel,
    by decide +kernel, by decide +kernel, by decide +kernel, by decide +kernel, by decide +kernel, by decide +kernel,
    ⟨by decide, by decide, by decide, by decide, by decide⟩, by decide +kernel⟩

/-! ## Beat boundaries -/

theorem tReady_quiet : Quiet tReady :=
  ⟨⟨rfl, rfl, rfl, rfl, rfl, rfl⟩, ⟨rfl, rfl, rfl, rfl⟩, ⟨rfl, rfl⟩, rfl, ⟨rfl, rfl, rfl, rfl, rfl⟩, ⟨rfl, rfl, rfl, rfl⟩, ⟨rfl, rfl, rfl, rfl⟩⟩

theorem witness_boundary : Canonical tReady ∧ beatsRun tReady = true ∧ beatsRun State.reset = false ∧ Quiet tReady ∧
    tReady.power.phase = .idle ∧ tReady.power.causes = 0 ∧ regF tReady oPwrCtrl 31 30 = 0 ∧ tjMax { powerW := 1850 } < 105 :=
  ⟨tReady_canonical, by decide +kernel, by decide +kernel, tReady_quiet, rfl, rfl, by decide +kernel, by decide +kernel⟩

/-- A job of image 1 that has waited 512 beats in READY. -/
def tWaiting : State := { tLoaded with ctxs := [tCtx .ready], beats := 512 }

theorem witness_batch_wait :
    standsAtBoundary tWaiting = true ∧ tWaiting.passes = [] ∧ tWaiting.images = [tImage] ∧ tWaiting.ctxs = [tCtx .ready] ∧ tWaiting.pages = [] ∧
    tWaiting.posts = [] ∧ tWaiting.lateReplies = [] ∧ tWaiting.power.phase = .idle ∧ (tCtx .ready).state = .ready ∧
    (tCtx .ready).desc.image = tImage.id ∧ (tCtx .ready).group = false ∧ (tCtx .ready).recomputing = false ∧
    (tCtx .ready).allocFails = 0 ∧ 0 < tImage.slots ∧ (tCtx .ready).readyBeat + regF tWaiting oBatchWait 15 0 ≤ tWaiting.beats ∧
    choosePlacement tWaiting tImage (tCtx .ready).desc.base = some 0 ∧ jointOk [(tImage, 0)] = true := by
  refine ⟨by decide +kernel, rfl, rfl, rfl, rfl, rfl, rfl, rfl, rfl, rfl, rfl, rfl, rfl, by decide, by decide +kernel, by decide +kernel, by decide +kernel⟩

/-! ## Sideband, addresses, the protection map -/

theorem witness_sideband : tReady.power.phase ≠ .off ∧ State.reset.power.phase = .off ∧ smbusByte tReady 4 = some 0 ∧
    (0xFE : Byte) ∉ definedCodes := by decide +kernel

theorem witness_views : (0x10000000000 : Nat) ≤ 0x10000001000 ∧ (0x10000001000 : Nat) < 0x20000000000 ∧
    linearOf 0x10000001000 = 0x2000000000 := by decide +kernel

theorem witness_map : Canonical tReady ∧ (∀ i < 8, governed (0x1000 + i) = true) ∧ privCheck tReady .owner 1 .read 0x1000 8 = true ∧
    privCheck tReady .job 2 .read 0x1000 8 = false ∧
    (∀ i < 8, inImage tReady (linearOf (0x1000 + i)) = false ∧ inWorkMemory tReady (linearOf (0x1000 + i)) = false) :=
  ⟨tReady_canonical, by decide +kernel⟩

end Sys2Proof.Tests
end

