-- ==== Sys2Proof/WellFormed.lean ====
section
/-! DEFINITION. Which commands the world can send: every number lies in the range that the spec gives the
thing it names. `exec` does not ask for it; statements do, where a range matters. -/

namespace Sys2Proof

/-- Two ports of four interfaces (R331). -/
def portOk (port iface : Nat) : Bool := decide (port < 2) && decide (iface < 4)

/-- An origin names one of 4,096 sessions (R357), or a port and an interface. -/
def Origin.wf (o : Origin) : Bool :=
  match o with
  | .session n => decide (n < 4096)
  | .boot port iface _ udp => portOk port iface && decide (udp < 65536)

/-- A command packet fits the largest segment, 8,192 B with its 32-byte header (R342, R368). -/
def Packet.wf (p : Packet) : Bool := p.origin.wf && decide (p.params.length ≤ 8160)

/-- A request fits the largest segment and names one of 4,096 sessions (R341, R342). -/
def UtxReq.wf (q : UtxReq) : Bool :=
  portOk q.port q.iface && decide (q.udp < 65536) && decide (q.session < 4096) && decide (q.payload.length ≤ 8192)
    && decide (q.length < 2 ^ 32)

/-- A response, an acknowledgement or a refusal names one of 4,096 sessions (R341). -/
def UtxBack.wf (q : UtxBack) : Bool := portOk q.port q.iface && decide (q.udp < 65536) && decide (q.session < 4096)

/-- A bundle is issued in a beat of 4,096 cycles and its offsets lie in an engine's window (R27, R106). -/
def Bundle.wf (b : Bundle) : Bool :=
  decide (b.issue < 4096) && decide (b.abOff < 0x400000) && decide (b.amOff < 0x400000) && decide (b.wsOff < 0x400000)
    && decide (b.retOff < 0x400000)

/-- One of 256 engines issues a bundle (R1). -/
def BundleEvent.wf (v : BundleEvent) : Bool := decide (v.engine < 256) && v.bundle.wf

/-- One of 8 stacks runs a kernel, with a row and a column at least (R222). -/
def KernelEvent.wf (v : KernelEvent) : Bool :=
  decide (v.kernel.stack < 8) && decide (0 < v.kernel.rows) && decide (0 < v.kernel.cols) && decide (v.kernel.startCycle < 4096)

/-- Every number of a command lies in its range. -/
def Instr.wf (i : Instr) : Bool :=
  match i with
  | .challenge p | .ownerClaim p | .reserve p | .admitSession p | .sessionClose p | .ping p | .regRead p | .regWrite p
  | .imageLoad p | .imageVerify p | .imageUnload p | .jobSubmit p | .jobQuery p | .jobCancel p | .jobPause p
  | .jobResume p | .ctxSave p | .ctxRestore p | .pageAlloc p | .pageShare p | .pageRelease p | .digestRead p
  | .vidOpen p | .vidFrame p | .vidClose p | .timeQuery p | .fwStage p | .fwCommit p | .attest p | .array p
  | .engineSram p | .caldera p | .codec p | .memory p | .serdes p | .d2d p | .knownAnswer p | .telemetryRead p
  | .groupJoin p | .groupLeave p => p.wf
  | .read q _ | .write q _ | .fetchAdd q _ | .atomicAdd q _ | .cas q _ | .fence q => q.wf
  | .rsp q | .ack q | .nak q => q.wf
  | .nop v | .rows v | .wload v | .epi v | .mread v | .mwrite v | .atomic v | .fenceBundle v | .arrive v => v.wf
  | .samplerStep v | .guidance v | .optim v | .reduce v | .quantiseDeferred v | .transpose v | .gather v | .scatter v
  | .gatherPageRead v | .scatterPageWrite v | .orderedAccumulate v => v.wf
  | .engineFenceSet _ e | .engineFenceLift _ e => decide (e < 256)
  | .calFenceWrite _ st _ => decide (st < 8)
  | .quadMirrorEnable _ q _ => decide (q < 4)
  | .kvPoolWrite _ st _ _ => decide (st < 8)
  | .protEntryWrite _ n _ => decide (n < 256)
  | .modeWrite _ port _ | .maxFrameWrite _ port _ => decide (port < 2)
  | .sakInstall _ port iface ws => portOk port iface && decide (ws.length = 12)
  | .completionLanded e _ _ | .remoteWriteLanding e _ => decide (e < 256)
  | .holdSimmerExpiry e k => decide (e < 256) && decide (k < 4)
  | .ethFrameRx f => portOk f.port f.iface && (match f.kind with
    | .utxReservedOp op q => decide (6 ≤ op.toNat) && q.wf
    | _ => true)
  | .pfcFrame port _ _ | .pfcPauseExpiry port _ | .txSend port | .portFallback port => decide (port < 2)
  | .arpRequest port i _ | .neighborSolicitation port i _ | .icmpEchoRequest port i _ _ _ | .linkTrainingRetry port i
  | .linkTrainingComplete port i _ => portOk port i
  | .patrol st _ => decide (st < 8)
  | .codecTileBoundary r => decide (r.engine < 8)
  | .groupHoldLimit e _ | .d2dFlitUncorrectable _ e _ => decide (e < 256)
  | .thermalTrip n _ => decide (n < 72)
  | .beatBoundary x => x.upsets.all fun u => decide (u.copy < 4)
  | .imageLoadComplete _ | .imageVerifyComplete _ | .ctxSaveComplete _ | .ctxRestoreComplete _
  | .vidCloseComplete _ | .fwStageComplete | .fwCommitComplete | .commitRestartReset | .attestComplete _
  | .diagTestComplete _ _ | .groupLeaveComplete | .standbyEntry _ | .standbyExit _ | .forceLimited _ _
  | .vidFenceWrite _ _ | .sourceWrite _ _ | .secSetWrite _ _ _ | .opalWrite _ _ _ | .noticeClear _ _
  | .registerWrite _ _ _ | .ackDelayExpiry _ | .rtoExpiry _ | .sessionFail _ | .challengeExpiry _
  | .reservationExpiry _ | .ptpSync _ | .ptpFollowUp _ | .ptpDelayResp _ | .ptpAnnounce _ | .delayReqSend
  | .announceTimeout | .syncTimeout | .holdoverLimitExpiry | .ppsInEdge _ | .ppsStuck | .ppsOutRise
  | .ppsOutFall | .reset _ _ | .startup _ | .startupTimeTimeout | .regulatorAlert _ _ | .vrAlertSustained
  | .pmbusPoll _ | .powerCalibration _ | .powerEvaluation _ | .limitedExit | .rampModeEnd
  | .refreshRateRead _ | .healthTimeCheckpoint | .healthRecordWriteDone | .correctionWriteBack _
  | .voteScrub | .batchWaitExpiry _ | .groupBeatStart | .slipNotice _ | .cowCopyComplete _
  | .demotionCopyComplete _ | .tokenSamplerRun _ | .smbusReadByte _ | .smbusReadWord _ | .smbusWrite _ _
  | .tapReset _ | .extest _ | .samplePreload _ | .idcode | .extestPulse _ | .extestTrain _ | .clamp | .highz
  | .bypass _ => true

end Sys2Proof
end

