-- ==== Sys2Proof/Tests/Slice0.lean ====
section
/-! SUPPORT. Tests: each check of WellFormed refuses a command that breaks it, and the worked examples and test
vectors of the manual come out as it states them. -/

namespace Sys2Proof.Tests

set_option Elab.async false

open Sys2Proof Sys2Proof.Machine

/-! ## Well-formed commands -/

def tWfReq : UtxReq := { session := 1, psn := 0, address := 0, length := 8 }

def tWfRsp : UtxBack := { session := 1, ackPsn := 0 }

def tWfBundle (e issue : Nat) : BundleEvent := { engine := e, bundle := { issue := issue } }

def tWfKernel (stack rows cols start : Nat) : KernelEvent :=
  { kernel := { image := 1, stack := stack, rows := rows, cols := cols, startCycle := start } }

theorem test_wf_accepts : ([.ping (tPacket 1 []), .write tWfReq [], .rsp tWfRsp, .nop (tWfBundle 255 4095), .optim (tWfKernel 7 1 1 0),
    .engineFenceSet 1 255, .sakInstall 1 1 3 (List.replicate 12 0), .thermalTrip 71 115, .beatBoundary ({} : Sensors)]
      : List Instr).all Instr.wf = true := by decide

theorem test_wf_session : (Instr.ping { tPacket 1 [] with origin := .session 4096 }).wf = false := by decide
theorem test_wf_boot_port : (Instr.ping { tPacket 1 [] with origin := .boot 2 0 0 0 }).wf = false := by decide
theorem test_wf_boot_iface : (Instr.ping { tPacket 1 [] with origin := .boot 0 4 0 0 }).wf = false := by decide
theorem test_wf_boot_udp : (Instr.ping { tPacket 1 [] with origin := .boot 0 0 0 65536 }).wf = false := by decide
theorem test_wf_params : (Instr.ping (tPacket 1 (List.replicate 8161 0))).wf = false := by decide +kernel
theorem test_wf_req : ([.write { tWfReq with port := 2 } [], .write { tWfReq with iface := 4 } [], .read { tWfReq with udp := 65536 } [],
    .fence { tWfReq with session := 4096 }, .write { tWfReq with payload := List.replicate 8193 0 } [],
    .cas { tWfReq with length := 2 ^ 32 } []] : List Instr).any Instr.wf = false := by decide +kernel
theorem test_wf_back : ([.rsp { tWfRsp with port := 2 }, .ack { tWfRsp with udp := 65536 }, .nak { tWfRsp with session := 4096 }]
    : List Instr).any Instr.wf = false := by decide
theorem test_wf_bundle : ([.nop (tWfBundle 256 0), .rows (tWfBundle 0 4096),
    .wload { engine := 0, bundle := { issue := 0, wsOff := 0x400000 } }, .epi { engine := 0, bundle := { issue := 0, amOff := 0x400000 } },
    .mread { engine := 0, bundle := { issue := 0, abOff := 0x400000 } }, .atomic { engine := 0, bundle := { issue := 0, retOff := 0x400000 } }]
    : List Instr).any Instr.wf = false := by decide
theorem test_wf_kernel : ([.optim (tWfKernel 8 1 1 0), .reduce (tWfKernel 0 0 1 0), .gather (tWfKernel 0 1 0 0), .scatter (tWfKernel 0 1 1 4096)]
    : List Instr).any Instr.wf = false := by decide
theorem test_wf_registers : ([.engineFenceSet 1 256, .engineFenceLift 1 256, .calFenceWrite 1 8 0, .quadMirrorEnable 1 4 true,
    .kvPoolWrite 1 8 none none, .protEntryWrite 1 256 [], .modeWrite 1 2 0, .maxFrameWrite 1 2 0, .sakInstall 1 0 0 []]
    : List Instr).any Instr.wf = false := by decide
theorem test_wf_events : ([.completionLanded 256 0 0, .remoteWriteLanding 256 0, .holdSimmerExpiry 0 4, .pfcFrame 2 0 0, .txSend 2,
    .arpRequest 0 4 0, .linkTrainingComplete 2 0 0, .patrol 8 [], .codecTileBoundary { engine := 8 }, .groupHoldLimit 256 0,
    .thermalTrip 72 115, .beatBoundary { upsets := [⟨0x070008, 4, 0⟩] }, .ethFrameRx { port := 2, iface := 0, size := 64, kind := .fcsBad }] : List Instr).any Instr.wf = false := by
  decide

/-! ## Addresses (chapters 1, 2 and 11) -/

/-- The manual's example of the accumulator memory of engine E70. -/
theorem test_am_of_engine_70 : regionOf 0x200011980000 = .am 70 ∧ regionOf 0x20001197FFFF = .ab 70 := by decide

/-- The manual's example of interleaved address 0x0100_0001_5000. -/
theorem test_interleaved : linearOf 0x10000015000 = 0xA000002000 ∧ stackOf 0xA000002000 = 5 := by decide

/-- The manual's example of a channel. -/
theorem test_channel : stackOf 0x2000123480 = 1 ∧ channelOf 0x2000123480 = 4 ∧ channelAddr 0x2000123480 = 0x12380 := by
  decide +kernel

/-! ## Numbers (chapter 3) -/

/-- Four FP6-E3M2 elements pack to 0x95, 0xFA, 0x07 and decode to 5, −0.75, −28 and 0.0625. -/
theorem test_fp6 : pack 6 [0x15, 0x2A, 0x3F, 0x01] = [0x95, 0xFA, 0x07] ∧ unpack 6 4 [0x95, 0xFA, 0x07] = [0x15, 0x2A, 0x3F, 0x01] ∧
    ([0x15, 0x2A, 0x3F, 0x01].map fun x => toF32 (decodeElem 5 false x)) = [0x40A00000, 0xBF400000, 0xC1E00000, 0x3D800000] := by
  decide +kernel

/-- 1 + 2^−4 + 2^−20 rounds to 0x39 in FP8-E4M3, directly and through BF16 staging. -/
theorem test_e4m3_rne : storeElem 3 false {} (f32Val 0x3F880008) = (0x39, false) ∧
    storeElem 3 false {} (rtoVal 8 (f32Val 0x3F880008)) = (0x39, false) ∧ storeElem 3 false {} (f32Val 0x3F880000) = (0x38, false) := by
  decide +kernel

/-- 2 + 21/128 under stochastic rounding: up from u = 6 on with 4 bits. -/
theorem test_e4m3_sr : ((List.range 16).map fun u => (storeElem 3 false { rnd := .sr 4 u } (f32Val 0x400A8000)).1)
    = List.replicate 6 0x40 ++ List.replicate 10 0x41 ∧
    ((List.range 8).map fun u => (storeElem 3 false { rnd := .sr 3 u } (f32Val 0x400A8000)).1)
    = List.replicate 3 0x40 ++ List.replicate 5 0x41 := by decide +kernel

/-- An FP4-E2M1 element and an INT8 element under the scale 0x7C: 0.375 and 0.125. -/
theorem test_mx : toF32 (decodeScaled 7 (some 0x7C) 5) = 0x3EC00000 ∧ toF32 (decodeScaled 8 (some 0x7C) 0x40) = 0x3E000000 := by
  decide +kernel

/-- The elements 3.7 and 1.1 of the example of epilogue E6, divided by 2^−7, in FP8-E4M3 with saturation. -/
theorem test_e6 : storeElem 3 true {} (vmul (f32Val 0x406CCCCD) (.fin false 1 7)) = (0x7E, false) ∧
    storeElem 3 true {} (vmul (f32Val 0x3F8CCCCD) (.fin false 1 7)) = (0x71, false) := by decide +kernel

/-- The fused and the separate residual add of the example of epilogue E2. -/
theorem test_e2 : storeElem 1 false {} (vadd (f32Val 0x3F804000) (f32Val 0x3B800000)) = (0x3F81, false) ∧
    storeElem 1 false {} (vadd (f32Val 0x3F800000) (f32Val 0x3B800000)) = (0x3F80, false) := by decide +kernel

/-- The two sums of squares of the example of epilogue E7. -/
theorem test_e7 : fadd 0x3F800000 0x36000000 = 0x3F800010 ∧ fma 0x39800000 0x39800000 0x3F800000 = 0x3F800000 := by decide +kernel

/-! ## Opal and digests (R204, R329, chapter 9) -/

theorem test_opal_vector_1 :
    opalDraw (opalJobKey 0 0 0) (opalCounter 0 0 0) = ⟨0x65C2C436, 0xB73414B5, 0xFF35A08D, 0x8DDC9BD5⟩ := by decide +kernel

theorem test_opal_vector_2 :
    opalDraw (opalJobKey 1 0 0) (opalCounter 0 0 0) = ⟨0x5E9021B4, 0xC3C76BB0, 0x36E661AC, 0x4FC4A591⟩ := by decide +kernel

/-- Elements (0, 5) and (1, 5) of the example of a test job: u is 12 and 13 with 4 bits, 6 with 3. -/
theorem test_opal_elements : ([5, 25].map fun i => (opalRound { seed := 0, stream := 0, step := 0 } 0 false i,
    opalRound { seed := 0, stream := 0, step := 0 } 0 true i)) = [(12, 6), (13, 6)] := by decide +kernel

theorem test_digests : elementHash 0 0 none 0 0 = 0x8DDC9BD5FF35A08DB73414B565C2C436#128 ∧
    elementHash 1 0 none 0 0 = 0x4FC4A59136E661ACC3C76BB05E9021B4#128 := by decide +kernel

/-! ## The device status word (chapter 15) -/

/-- P 1,850 W against 2,400 W, and T 91 °C. -/
theorem test_headroom : headroomPower 2400 1850 = 58 ∧ headroomThermal (16 * 91) = 89 ∧ headroomThermal 1464 = 86 := by decide

/-- HEALTH 2, TIME 2, EVENT_SEQ 0x44, HEADROOM 58 and FLAGS 0 make 0x2244_3A00. -/
theorem test_dsw : dswOf { tReady with
    snap := { health := 2, time := .locked, headroom := 58 }
    events := [{ seq := 0x1244, code := 0x303, ctx := some 310, unit := 0, boundary := 0, detail := [] }] } false false = 0x22443A00 := by
  decide +kernel

/-! ## The protection map (chapter 18) -/

/-- The owner's write of entry 0 in the example. -/
def tMapped : Nat × Nat × Bool × Bool × Bool × Bool :=
  match exec (.protEntryWrite 1 0 [0, 0x40, 0x03FFF000, 0x40, 0xC0110030]) tReady with
  | .next t => (regF t oProtCtrl 31 16, regF t oProtCtrl 7 0, privCheck t .job 17 .read 0x10000022010 64,
      privCheck t .job 18 .read 0x10000022010 64, privCheck t .job 17 .write 0x4003FFFFC0 64, privCheck t .job 17 .read 0x4003FFFFE0 64)
  | _ => (0, 0, false, false, false, false)

theorem test_map : tMapped = (1, 3, true, false, true, false) := by decide +kernel

end Sys2Proof.Tests
end

/-! The interleaved and the linear view of stack memory (R29): `interleavedOf` is the inverse of `linearOf`, and both views
reach one byte. -/

namespace Sys2Proof.Machine

open Sys2Proof

/-- R29's mapping as the manual writes it: the low three bits of the granule choose the stack, the others the granule
within it. -/
theorem linearOf_interleaved {x : Nat} (h : 0x10000000000 ≤ x) (h' : x < 0x20000000000) :
    linearOf x = (((x - 0x10000000000) >>> 12) &&& 7) * 0x2000000000 + ((((x - 0x10000000000) >>> 12) >>> 3) <<< 12)
      + ((x - 0x10000000000) &&& 0xFFF) := by
  have low3 (n : Nat) : n &&& 7 = n % 8 := Nat.and_two_pow_sub_one_eq_mod n 3
  have low12 (n : Nat) : n &&& 0xFFF = n % 4096 := Nat.and_two_pow_sub_one_eq_mod n 12
  simp only [linearOf, if_pos (And.intro h h'), low3, low12, Nat.shiftRight_eq_div_pow, Nat.shiftLeft_eq, stackBytes,
    Nat.reducePow]

theorem stackOf_lt {y : Nat} (h : y < 0x10000000000) : stackOf y < 8 := by
  unfold stackOf stackBytes
  omega

/-- The inverse of R29's mapping by its granule: the stack rotates with the granule's low three bits. -/
theorem interleavedOf_eq (y : Nat) :
    interleavedOf y = 0x10000000000 + (y % stackBytes / 4096 * 8 + stackOf y) * 4096 + y % stackBytes % 4096 := rfl

/-- The counterpart of a linear stack address lies in the interleaved view. -/
theorem interleavedOf_mem_view {y : Nat} (h : y < 0x10000000000) :
    0x10000000000 ≤ interleavedOf y ∧ interleavedOf y < 0x20000000000 := by
  have hs := stackOf_lt h
  have ho : y % stackBytes < 0x2000000000 := Nat.mod_lt y (by decide)
  rw [interleavedOf_eq]
  omega

/-- Every linear stack address is the image of its counterpart in the interleaved view. -/
theorem linearOf_interleavedOf {y : Nat} (h : y < 0x10000000000) : linearOf (interleavedOf y) = y := by
  have hs := stackOf_lt h
  have hy := interleavedOf_eq y
  have hstack : (interleavedOf y - 0x10000000000) / 4096 % 8 = stackOf y := by omega
  have hrow : (interleavedOf y - 0x10000000000) / 4096 / 8 = y % stackBytes / 4096 := by omega
  have hbyte : (interleavedOf y - 0x10000000000) % 4096 = y % stackBytes % 4096 := by omega
  simp only [linearOf, if_pos (interleavedOf_mem_view h), hstack, hrow, hbyte]
  calc stackOf y * stackBytes + y % stackBytes / 4096 * 4096 + y % stackBytes % 4096
      = stackOf y * stackBytes + y % stackBytes := by rw [Nat.add_assoc, Nat.div_add_mod']
    _ = y := Nat.div_add_mod' y stackBytes

/-- A byte read through either view is the byte at its linear address. -/
theorem spanRead_one (s : State) (a : Nat) : spanRead s a 1 = [byteAt s (linearOf a)] := by
  simp [spanRead, spanLinear]

/-- A byte written through either view is the byte at its linear address. -/
theorem byteAt_spanWrite_one {s : State} (hm : Memory.wf s.mem = true) (a : Nat) (b : Byte) :
    byteAt (spanWrite s a [b]) (linearOf a) = b := by
  have hn : (spanLinear a [b].length).Nodup := by simp [spanLinear]
  exact byteAt_spanWrite_same hm a hn (i := 0) (by simp)

/-- Settles O59: the mapping is the model's `linearOf`, a byte is reached at its linear address, and `interleavedOf` gives
the one interleaved address of a linear one. -/
theorem twoViewsNameTheSameBytes : Obligations.TwoViewsNameTheSameBytes := by
  refine ⟨fun x hx hx' => ?_, fun y hy => ?_⟩
  · exact ⟨linearOf_interleaved hx hx', linearOf_lt hx', fun s => spanRead_one s x,
      fun s b hm => byteAt_spanWrite_one hm x b⟩
  · obtain ⟨hi, hi'⟩ := interleavedOf_mem_view hy
    have hlin := linearOf_interleavedOf hy
    exact ⟨interleavedOf y, hi, hi', hlin, fun z hz hz' e => linearOf_injective hz hz' hi hi' (e.trans hlin.symm)⟩

end Sys2Proof.Machine

/-! The time states and PPS (R289 to R292, R310): a change of time state, what a sample does to the clock, a loss of
reference, and the pulses. -/

namespace Sys2Proof.Machine

open Sys2Proof Sys2Proof.Terms

/-! ## A change of time state -/

/-- A change of time state is logged, and ends a stretch of LOCKED (R289, R290). -/
def logChange (s : State) (new : TimeState) : State :=
  let t := logEvent s 0x0401 (unitOf 0 0) none [BitVec.ofNat 8 (timeByte s.disc.state), BitVec.ofNat 8 (timeByte new)]
  if s.disc.state = .locked then closeSeg t else t

/-- The increment with which a time state is entered (R289, R291). -/
def enterInc (s : State) : TimeState → Nat
  | .holdover => estimateNow s
  | .free => if s.disc.everLocked then s.clock.inc else 2 ^ 32
  | new => boundInc s new s.clock.inc

/-- The discipline of a state that `logChange` gave, in the time state entered. -/
def enterDisc (old : TimeState) (s : State) (new : TimeState) : Discipline :=
  { s.disc with
    state := new, good := 0, bad := 0
    everLocked := s.disc.everLocked || (new == .locked)
    lockedAt := if old = .locked then some s.clock.dt else s.disc.lockedAt
    segAt := if new = .locked then s.clock.wall else s.disc.segAt
    ppsHigh := s.disc.ppsHigh && (new == .locked || new == .holdover)
    holdoverAt := if new = .holdover then s.clock.dt else s.disc.holdoverAt }

@[simp] theorem setTime_self {s : State} {new : TimeState} (h : s.disc.state = new) : setTime s new = s := if_pos h

/-- A change of time state in its parts: log it, then enter the new state. -/
theorem setTime_of_ne {s : State} {new : TimeState} (h : s.disc.state ≠ new) :
    setTime s new = { logChange s new with
      clock := { (logChange s new).clock with inc := enterInc (logChange s new) new }
      disc := enterDisc s.disc.state (logChange s new) new } := by
  unfold setTime
  rw [if_neg h]
  cases new <;> rfl

theorem logChange_of_locked {s : State} (new : TimeState) (h : s.disc.state = .locked) :
    logChange s new = closeSeg (logEvent s 0x0401 (unitOf 0 0) none
      [BitVec.ofNat 8 (timeByte s.disc.state), BitVec.ofNat 8 (timeByte new)]) :=
  if_pos h

/-- Logging a change touches the history of LOCKED and the event log. -/
theorem logChange_frame (s : State) (new : TimeState) :
    logChange s new = { s with disc := { s.disc with segs := (logChange s new).disc.segs, segAt := (logChange s new).disc.segAt }
                               events := (logChange s new).events, nextSeq := (logChange s new).nextSeq } := by
  unfold logChange
  dsimp only
  split <;> rfl

@[simp] theorem logChange_clock (s : State) (new : TimeState) : (logChange s new).clock = s.clock := by rw [logChange_frame]

/-- A change of time state touches the clock, the discipline and the event log. -/
theorem setTime_frame (s : State) (new : TimeState) :
    setTime s new = { s with clock := (setTime s new).clock, disc := (setTime s new).disc
                             events := (setTime s new).events, nextSeq := (setTime s new).nextSeq } := by
  by_cases h : s.disc.state = new
  · rw [setTime_self h]
  · rw [setTime_of_ne h, logChange_frame]

@[simp] theorem setTime_regs (s : State) (new : TimeState) : (setTime s new).regs = s.regs := by rw [setTime_frame]
@[simp] theorem regGet_setTime (s : State) (new : TimeState) (a : Nat) : regGet (setTime s new) a = regGet s a := by
  rw [regGet, setTime_regs, regGet]
@[simp] theorem setTime_group (s : State) (new : TimeState) : (setTime s new).group = s.group := by rw [setTime_frame]

@[simp] theorem setTime_state (s : State) (new : TimeState) : (setTime s new).disc.state = new := by
  by_cases h : s.disc.state = new
  · rw [setTime_self h, h]
  · rw [setTime_of_ne h]
    rfl

@[simp] theorem setTime_dt (s : State) (new : TimeState) : (setTime s new).clock.dt = s.clock.dt := by
  by_cases h : s.disc.state = new
  · rw [setTime_self h]
  · rw [setTime_of_ne h, logChange_clock]

/-- What the discipline knows of masters, edges and seconds: a change of time state leaves it alone. -/
theorem setTime_disc (s : State) (new : TimeState) :
    (setTime s new).disc.master = s.disc.master ∧ (setTime s new).disc.stuck = s.disc.stuck
      ∧ (setTime s new).disc.secUsed = s.disc.secUsed := by
  by_cases h : s.disc.state = new
  · rw [setTime_self h]
    exact ⟨rfl, rfl, rfl⟩
  · rw [setTime_of_ne h, logChange_frame]
    exact ⟨rfl, rfl, rfl⟩

@[simp] theorem setTime_master (s : State) (new : TimeState) : (setTime s new).disc.master = s.disc.master := by
  obtain ⟨hmaster, -, -⟩ := setTime_disc s new
  exact hmaster

@[simp] theorem setTime_stuck (s : State) (new : TimeState) : (setTime s new).disc.stuck = s.disc.stuck := by
  obtain ⟨-, hstuck, -⟩ := setTime_disc s new
  exact hstuck

@[simp] theorem setTime_secUsed (s : State) (new : TimeState) : (setTime s new).disc.secUsed = s.disc.secUsed := by
  obtain ⟨-, -, hsec⟩ := setTime_disc s new
  exact hsec

/-- A change of time state is the latest event. -/
theorem setTime_logged {s : State} {new : TimeState} (h : s.disc.state ≠ new) :
    (setTime s new).events.head?.map (·.code) = some 0x401 := by
  rw [setTime_of_ne h]
  unfold logChange
  dsimp only
  split <;> rfl

/-- LOCKED gives HOLDOVER the estimate over the stretch of LOCKED that ends (R289, R291). -/
theorem setTime_holdover_of_locked {s : State} (h : s.disc.state = .locked) :
    (setTime s .holdover).clock.inc = estimateNow (closeSeg s) ∧ (setTime s .holdover).disc.holdoverAt = s.clock.dt := by
  rw [setTime_of_ne (by simp [h]), logChange_of_locked _ h]
  exact ⟨rfl, rfl⟩

/-- FREE keeps the increment of HOLDOVER, or takes the nominal one when the device has never been in LOCKED (R291). -/
theorem setTime_free_of_holdover {s : State} (h : s.disc.state = .holdover) :
    (setTime s .free).clock.inc = if s.disc.everLocked = true then s.clock.inc else 2 ^ 32 := by
  rw [setTime_of_ne (by simp [h]), logChange_frame]
  rfl

/-! ## The bounds of the increment (R289) -/

/-- Within 100 ppm of nominal, the bounds of ACQUIRING. -/
def NearNominal (inc : Nat) : Prop := 2 ^ 32 - 2 ^ 32 * 100 / 1000000 ≤ inc ∧ inc ≤ 2 ^ 32 + 2 ^ 32 * 100 / 1000000

/-- Within 10 ppm of an estimate, the bounds of LOCKED. -/
def NearEstimate (e inc : Nat) : Prop := e - e * 10 / 1000000 ≤ inc ∧ inc ≤ e + e * 10 / 1000000

theorem clampN_mem {lo hi : Nat} (h : lo ≤ hi) (v : Nat) : lo ≤ clampN lo hi v ∧ clampN lo hi v ≤ hi := by
  unfold clampN
  omega

theorem nearNominal_boundInc (s : State) (inc : Nat) : NearNominal (boundInc s .acquiring inc) := clampN_mem (by decide) inc

theorem nearEstimate_boundInc (s : State) (inc : Nat) : NearEstimate (estimateNow s) (boundInc s .locked inc) :=
  clampN_mem (by omega) inc

/-- ACQUIRING takes the increment into its bounds. -/
theorem setTime_acquiring_inc {s : State} (h : s.disc.state ≠ .acquiring) : NearNominal (setTime s .acquiring).clock.inc := by
  rw [setTime_of_ne h]
  exact nearNominal_boundInc (logChange s .acquiring) _

/-! ## A sample (R289, R290) -/

/-- Ready for a sample: FREE and HOLDOVER are left, and TB_OFFSET shows the offset. -/
def showSample (s : State) (off : Int) : State :=
  regSet (if s.disc.state = .free ∨ s.disc.state = .holdover then setTime s .acquiring else s) oTbOffset (offsetWord off)

/-- The discipline acts on a sample in three parts: it shows it, steps or slews by it, and counts it. -/
theorem takeSample_eq (s : State) (off : Int) :
    takeSample s off = countSample
      (if (showSample s off).disc.state = .acquiring ∧ beyond off 1000000 = true ∧ (member (showSample s off)).isNone = true then
        stepBy (showSample s off) off else slewBy (showSample s off) off) off := rfl

theorem showSample_of_locked {s : State} (off : Int) (h : s.disc.state = .locked) :
    showSample s off = regSet s oTbOffset (offsetWord off) := by simp [showSample, h]

theorem showSample_state {s : State} (off : Int) (h : s.disc.state ≠ .locked) :
    (showSample s off).disc.state = .acquiring := by
  unfold showSample
  split
  next => simp
  next hother =>
    cases hs : s.disc.state with
    | free => exact absurd (.inl hs) hother
    | acquiring => exact hs
    | locked => exact absurd hs h
    | holdover => exact absurd (.inr hs) hother

@[simp] theorem showSample_dt (s : State) (off : Int) : (showSample s off).clock.dt = s.clock.dt := by
  unfold showSample
  split <;> simp

@[simp] theorem showSample_secUsed (s : State) (off : Int) : (showSample s off).disc.secUsed = s.disc.secUsed := by
  unfold showSample
  split <;> simp

@[simp] theorem member_showSample (s : State) (off : Int) : member (showSample s off) = member s := by
  unfold showSample member
  split <;> simp

/-- The registers of a shown sample are those of before but for TB_OFFSET. -/
theorem showSample_regs (s : State) (off : Int) : (showSample s off).regs = sset resetWord s.regs oTbOffset (offsetWord off) := by
  unfold showSample regSet
  split <;> simp

@[simp] theorem stepBy_state (s : State) (off : Int) : (stepBy s off).disc.state = s.disc.state := rfl
@[simp] theorem stepBy_secUsed (s : State) (off : Int) : (stepBy s off).disc.secUsed = s.disc.secUsed := rfl

/-- A step moves DT by the offset, is counted, and is the latest event. -/
theorem stepBy_spec {s : State} (off : Int) (hr : swf resetWord s.regs = true) :
    (stepBy s off).clock.dt = ((s.clock.dt : Int) - off).toNat
      ∧ regGet (stepBy s off) oTbOffset = regGet s oTbOffset
      ∧ regF (stepBy s off) oTbPtp 31 16 = min 65535 (regF s oTbPtp 31 16 + 1)
      ∧ ∃ x ∈ (stepBy s off).events, x.code = 0x402 := by
  refine ⟨rfl, ?_, ?_, _, List.mem_cons_self, rfl⟩
  · exact regGet_regCount_other s 31 16 1 (by decide)
  · exact regF_regCount_same hr oTbPtp 1 (by decide) (by decide)

/-- A slew changes the increment, and in LOCKED the history of its stretches. -/
theorem slewBy_frame (s : State) (off : Int) :
    slewBy s off = { s with
      clock := { s.clock with inc := (slewBy s off).clock.inc }
      disc := { s.disc with segs := (slewBy s off).disc.segs, segAt := (slewBy s off).disc.segAt } } := by
  unfold slewBy setInc
  dsimp only
  split <;> rfl

@[simp] theorem slewBy_inc (s : State) (off : Int) :
    (slewBy s off).clock.inc = boundInc s s.disc.state (Config.slew s.clock.inc off) := rfl
@[simp] theorem slewBy_dt (s : State) (off : Int) : (slewBy s off).clock.dt = s.clock.dt := by rw [slewBy_frame]
@[simp] theorem slewBy_state (s : State) (off : Int) : (slewBy s off).disc.state = s.disc.state := by rw [slewBy_frame]
@[simp] theorem slewBy_secUsed (s : State) (off : Int) : (slewBy s off).disc.secUsed = s.disc.secUsed := by rw [slewBy_frame]
@[simp] theorem regGet_slewBy (s : State) (off : Int) (a : Nat) : regGet (slewBy s off) a = regGet s a := by
  rw [regGet, slewBy_frame, regGet]

/-! ## A device that reports ready (R492) -/

@[simp] theorem takeSnapshot_clock (s : State) : (takeSnapshot s).clock = s.clock := rfl
@[simp] theorem takeSnapshot_disc (s : State) : (takeSnapshot s).disc = s.disc := rfl
@[simp] theorem secRegs_clock (s : State) : (secRegs s).clock = s.clock := rfl
@[simp] theorem secRegs_disc (s : State) : (secRegs s).disc = s.disc := rfl

/-- The snapshot shows NOTICE, the demotion of replacements and the health in registers, and leaves the others. -/
theorem regGet_takeSnapshot (s : State) {a : Nat} (hn : a ≠ oNotice) (hr : a ≠ oReplace) (hh : a ≠ 0x020) :
    regGet (takeSnapshot s) a = regGet s a := by
  unfold takeSnapshot
  dsimp only
  change regGet (regSetF _ 0x020 _ _ _) a = _
  rw [regGet_regSetF_other _ _ _ _ hh, regGet_regSetF_other _ _ _ _ hr]
  exact regGet_regSet_other s _ hn

theorem regGet_secRegs (s : State) {a : Nat} (hb : a ≠ oSecBoot) (hr : a ≠ oSecRecord) (hf : a ≠ oSecFlash) :
    regGet (secRegs s) a = regGet s a := by
  unfold secRegs
  dsimp only
  rw [regGet_regSetF_other _ _ _ _ hf, regGet_regSet_other _ _ hr, regGet_regSetF_other _ _ _ _ hb]

/-- A device that reports ready leaves its time base as it is. -/
@[simp] theorem deviceReady_clock (s : State) : (deviceReady s).clock = s.clock := by
  unfold deviceReady
  dsimp only
  rw [takeSnapshot_clock, secRegs_clock]
  rfl

@[simp] theorem deviceReady_disc (s : State) : (deviceReady s).disc = s.disc := by
  unfold deviceReady
  dsimp only
  rw [takeSnapshot_disc, secRegs_disc]
  rfl

@[simp] theorem regGet_deviceReady_tbOffset (s : State) : regGet (deviceReady s) oTbOffset = regGet s oTbOffset := by
  unfold deviceReady
  dsimp only
  rw [regGet_takeSnapshot _ (by decide) (by decide) (by decide), regGet_secRegs _ (by decide) (by decide) (by decide),
    regGet_regSetF_other _ _ _ _ (by decide), regGet_regSetF_other _ _ _ _ (by decide)]
  rfl

/-! ## The count of samples (R290) -/

/-- The state with `good` and `bad` samples in a row. -/
def withCounts (s : State) (good bad : Nat) : State := { s with disc := { s.disc with good := good, bad := bad } }

/-- The samples within LOCK_NS in a row, this one counted. -/
def goodCount (s : State) (off : Int) : Nat := if beyond off (regF s oTbLock 15 0) then 0 else s.disc.good + 1

/-- The samples beyond UNLOCK_NS in a row, this one counted. -/
def badCount (s : State) (off : Int) : Nat := if beyond off (regF s oTbLock 31 16) then s.disc.bad + 1 else 0

section
variable (s : State) (good bad : Nat)

theorem withCounts_state : (withCounts s good bad).disc.state = s.disc.state := rfl
theorem withCounts_secUsed : (withCounts s good bad).disc.secUsed = s.disc.secUsed := rfl
theorem withCounts_clock : (withCounts s good bad).clock = s.clock := rfl
theorem withCounts_events : (withCounts s good bad).events = s.events := rfl
theorem regGet_withCounts (a : Nat) : regGet (withCounts s good bad) a = regGet s a := rfl

end

/-- The state with a sample counted, before the transition that the count may bring. -/
def counted (s : State) (off : Int) : State := withCounts s (goodCount s off) (badCount s off)

section
variable (s : State) (off : Int)

/- These go through the general counts by `rw`: by `rfl` the kernel would evaluate the two counts. -/

@[simp] theorem counted_state : (counted s off).disc.state = s.disc.state := by rw [counted, withCounts_state]
@[simp] theorem counted_secUsed : (counted s off).disc.secUsed = s.disc.secUsed := by rw [counted, withCounts_secUsed]
@[simp] theorem counted_clock : (counted s off).clock = s.clock := by rw [counted, withCounts_clock]
@[simp] theorem counted_events : (counted s off).events = s.events := by rw [counted, withCounts_events]
@[simp] theorem regGet_counted (a : Nat) : regGet (counted s off) a = regGet s a := by rw [counted, regGet_withCounts]

end

theorem countSample_eq (s : State) (off : Int) :
    countSample s off =
      if (counted s off).disc.state = .acquiring ∧ 16 ≤ goodCount s off then reachLocked (counted s off)
      else if (counted s off).disc.state = .locked ∧ 4 ≤ badCount s off then setTime (counted s off) .acquiring
      else counted s off := rfl

/-- What the count of a sample may bring: LOCKED after 16 good samples, ACQUIRING after 4 bad ones, or nothing. -/
theorem countSample_cases (s : State) (off : Int) :
    (s.disc.state = .acquiring ∧ 16 ≤ goodCount s off ∧ countSample s off = reachLocked (counted s off))
      ∨ (s.disc.state = .locked ∧ countSample s off = setTime (counted s off) .acquiring)
      ∨ countSample s off = counted s off := by
  rw [countSample_eq, counted_state]
  split
  next h => exact .inl ⟨h.1, h.2, rfl⟩
  next =>
    split
    next h => exact .inr (.inl ⟨h.1, rfl⟩)
    next => exact .inr (.inr rfl)

/-- LOCKED is reached: ready or not, DT and TB_OFFSET stay. -/
theorem reachLocked_spec (s : State) :
    (reachLocked s).clock.dt = s.clock.dt ∧ (reachLocked s).disc.state = .locked
      ∧ (reachLocked s).disc.secUsed = s.disc.secUsed ∧ regGet (reachLocked s) oTbOffset = regGet s oTbOffset := by
  unfold reachLocked
  dsimp only
  split <;> simp

/-- The count of a sample leaves DT and TB_OFFSET as they are. -/
theorem countSample_frame (s : State) (off : Int) :
    (countSample s off).clock.dt = s.clock.dt ∧ (countSample s off).disc.secUsed = s.disc.secUsed
      ∧ regGet (countSample s off) oTbOffset = regGet s oTbOffset := by
  rcases countSample_cases s off with ⟨-, -, h⟩ | ⟨-, h⟩ | h <;> rw [h]
  · simp [reachLocked_spec]
  · simp
  · simp

theorem beyond_of_le {off : Int} {n m : Nat} (hn : n ≤ m) (h : beyond off m = true) : beyond off n = true := by
  simp only [beyond, decide_eq_true_eq] at h ⊢
  exact Nat.lt_of_le_of_lt (Nat.mul_le_mul_right _ hn) h

/-- LOCK_NS is below 65,536, so an offset beyond 1 ms is no good sample. -/
theorem goodCount_far (s : State) {off : Int} (h : beyond off 1000000 = true) : goodCount s off = 0 := by
  have hl : regF s oTbLock 15 0 < 65536 := regF_lt s oTbLock 15 0
  exact if_pos (beyond_of_le (by omega) h)

/-- In ACQUIRING an offset beyond 1 ms is counted and brings no transition. -/
theorem countSample_far {s : State} {off : Int} (hs : s.disc.state = .acquiring) (h : beyond off 1000000 = true) :
    countSample s off = counted s off := by
  rcases countSample_cases s off with ⟨-, hn, -⟩ | ⟨hl, -⟩ | hc
  · simp [goodCount_far s h] at hn
  · simp [hs] at hl
  · exact hc

/-- A device that a sample leaves in ACQUIRING has an increment within that state's bounds, when it had one before or was in
LOCKED. -/
theorem countSample_acquiring {s : State} {off : Int} (hs : s.disc.state = .acquiring → NearNominal s.clock.inc)
    (ht : (countSample s off).disc.state = .acquiring) : NearNominal (countSample s off).clock.inc := by
  rcases countSample_cases s off with ⟨-, -, h⟩ | ⟨hl, h⟩ | h <;> rw [h] at ht ⊢
  · simp [reachLocked_spec] at ht
  · exact setTime_acquiring_inc (by simp [hl])
  · rw [counted_state] at ht
    rw [counted_clock]
    exact hs ht

/-- A sample that leaves LOCKED in force leaves the increment as the slew set it. -/
theorem countSample_locked {s : State} {off : Int} (hs : s.disc.state = .locked)
    (ht : (countSample s off).disc.state = .locked) : (countSample s off).clock.inc = s.clock.inc := by
  rcases countSample_cases s off with ⟨ha, -, -⟩ | ⟨-, h⟩ | h
  · simp [hs] at ha
  · simp [h] at ht
  · rw [h, counted_clock]

/-! ## A sample as a whole -/

/-- A sample that steps DT: in ACQUIRING or on the way to it, beyond 1 ms, outside a group. -/
theorem takeSample_step {s : State} {off : Int} (hs : s.disc.state ≠ .locked) (hb : beyond off 1000000 = true)
    (hm : (member s).isNone = true) : takeSample s off = counted (stepBy (showSample s off) off) off := by
  have hstate := showSample_state off hs
  rw [takeSample_eq, if_pos ⟨hstate, hb, by rwa [member_showSample]⟩]
  exact countSample_far ((stepBy_state ..).trans hstate) hb

/-- Any other sample slews. -/
theorem takeSample_slew {s : State} {off : Int}
    (h : ¬(s.disc.state ≠ .locked ∧ beyond off 1000000 = true ∧ (member s).isNone = true)) :
    takeSample s off = countSample (slewBy (showSample s off) off) off := by
  rw [takeSample_eq, if_neg]
  rintro ⟨ha, hb, hm⟩
  refine h ⟨fun hl => ?_, hb, by rwa [member_showSample] at hm⟩
  simp [showSample_of_locked off hl, hl] at ha

theorem regGet_showSample {s : State} (hr : swf resetWord s.regs = true) (off : Int) :
    regGet (showSample s off) oTbOffset = offsetWord off := by
  rw [regGet, showSample_regs]
  exact sget_sset_same hr oTbOffset _

/-- A sample does what the statements say of one (R289, R290). -/
theorem sampled_takeSample {s : State} (hr : swf resetWord s.regs = true) (off : Int) : Sampled s (takeSample s off) off := by
  have hshow := regGet_showSample hr off
  unfold Sampled
  dsimp only
  split
  next h =>
    obtain ⟨hl, hb, hm⟩ := h
    have hr' : swf resetWord (showSample s off).regs = true := by
      rw [showSample_regs]
      exact swf_sset hr _ _
    have hptp : regF (showSample s off) oTbPtp 31 16 = regF s oTbPtp 31 16 := by
      rw [regF, regGet, showSample_regs, sget_sset_other _ _ (by decide)]
      rfl
    obtain ⟨hdt, hoff, hcount, hevent⟩ := stepBy_spec off hr'
    rw [takeSample_step hl hb hm, regF, regGet_counted, regGet_counted, counted_clock, counted_events]
    exact ⟨hoff.trans hshow, by rw [← showSample_dt s off]; exact hdt, by rw [← hptp]; exact hcount, hevent⟩
  next h =>
    obtain ⟨hdt, -, hoff⟩ := countSample_frame (slewBy (showSample s off) off) off
    rw [takeSample_slew h]
    refine ⟨?_, ?_, countSample_acquiring fun ha => ?_, fun hl ht => ?_⟩
    · rw [hoff, regGet_slewBy, hshow]
    · rw [hdt, slewBy_dt, showSample_dt]
    · rw [slewBy_inc, ← slewBy_state _ off, ha]
      exact nearNominal_boundInc _ _
    · have hshown : (showSample s off).disc.state = .locked := by simp [showSample_of_locked off hl, hl]
      rw [countSample_locked ((slewBy_state ..).trans hshown) ht, slewBy_inc, hshown, showSample_of_locked off hl]
      exact nearEstimate_boundInc s _

/-- A sample leaves it as it is whether TB_SEC_SET has been taken. -/
theorem takeSample_secUsed (s : State) (off : Int) : (takeSample s off).disc.secUsed = s.disc.secUsed := by
  have hcount (u : State) : (countSample u off).disc.secUsed = u.disc.secUsed := by
    obtain ⟨-, hsec, -⟩ := countSample_frame u off
    exact hsec
  rw [takeSample_eq, hcount]
  split <;> simp

/-! ## A loss of reference (R290, R291) -/

/-- The clock and the time state after a loss of reference. -/
def ReferenceLost (s t : State) : Prop :=
  t.clock.dt = s.clock.dt
    ∧ (s.disc.state = .locked → t.disc.state = .holdover ∧ t.disc.holdoverAt = s.clock.dt
      ∧ t.clock.inc = estimateNow (closeSeg s) ∧ (t.events.head?.map (·.code)) = some 0x401)
    ∧ (s.disc.state = .acquiring →
        t.disc.state = (if s.disc.lockedAt.any (fun d => decide (s.clock.dt ≤ d + regF s oTbHoldover 31 0 * secondDt)) = true
          then .holdover else .free))
    ∧ ((s.disc.state = .free ∨ s.disc.state = .holdover) → t.disc.state = s.disc.state)

/-- A loss of reference is at most one change of time state. -/
theorem loseReference_cases (s : State) : loseReference s = s ∨ ∃ new, loseReference s = setTime s new := by
  unfold loseReference
  dsimp only
  split
  · exact .inr ⟨_, rfl⟩
  · split
    · exact .inr ⟨_, rfl⟩
    · exact .inr ⟨_, rfl⟩
  · exact .inl rfl

theorem loseReference_frame (s : State) :
    loseReference s = { s with clock := (loseReference s).clock, disc := (loseReference s).disc
                               events := (loseReference s).events, nextSeq := (loseReference s).nextSeq } := by
  rcases loseReference_cases s with h | ⟨new, h⟩ <;> rw [h]
  exact setTime_frame s new

theorem loseReference_master (s : State) : (loseReference s).disc.master = s.disc.master := by
  rcases loseReference_cases s with h | ⟨new, h⟩ <;> rw [h]
  exact setTime_master s new

theorem loseReference_stuck (s : State) : (loseReference s).disc.stuck = s.disc.stuck := by
  rcases loseReference_cases s with h | ⟨new, h⟩ <;> rw [h]
  exact setTime_stuck s new

theorem loseReference_dt (s : State) : (loseReference s).clock.dt = s.clock.dt := by
  rcases loseReference_cases s with h | ⟨new, h⟩ <;> rw [h]
  exact setTime_dt s new

theorem loseReference_of_locked {s : State} (h : s.disc.state = .locked) : loseReference s = setTime s .holdover := by
  simp [loseReference, h]

theorem loseReference_of_acquiring {s : State} (h : s.disc.state = .acquiring) :
    loseReference s = setTime s
      (if s.disc.lockedAt.any (fun d => decide (s.clock.dt ≤ d + regF s oTbHoldover 31 0 * secondDt)) = true
        then .holdover else .free) := by
  unfold loseReference
  simp only [h]
  split <;> rfl

theorem loseReference_of_unlocked {s : State} (h : s.disc.state = .free ∨ s.disc.state = .holdover) : loseReference s = s := by
  rcases h with h | h <;> simp [loseReference, h]

theorem referenceLost_loseReference (s : State) : ReferenceLost s (loseReference s) := by
  refine ⟨loseReference_dt s, fun h => ?_, fun h => ?_, fun h => ?_⟩
  · rw [loseReference_of_locked h]
    obtain ⟨hinc, hat⟩ := setTime_holdover_of_locked h
    exact ⟨setTime_state .., hat, hinc, setTime_logged (by simp [h])⟩
  · rw [loseReference_of_acquiring h, setTime_state]
  · rw [loseReference_of_unlocked h]

/-! ## The timers of the time states (R290) -/

/-- A command begins with the outputs of the latest step gone. -/
def clearOut (s : State) : State := { s with out := [] }

theorem canonical_clearOut {s : State} (h : Canonical s) : Canonical (clearOut s) := canonical_of_tables h

/-- The chosen master is forgotten, with what was measured against it. -/
def dropMaster (s : State) (a : PtpAnnounce) : State :=
  { s with disc := { s.disc with
    master := none, sync := none, lastSync := none, delayReq := none, delay := none, formed := false
    masters := s.disc.masters.filter fun (b, _) => !(b.port == a.port && b.source == a.source) } }

/-- Three announce intervals without an Announce: the reference is lost, and its master with it. -/
theorem exec_announceTimeout_due {s : State} {a : PtpAnnounce} (hm : s.disc.master = some a) (hl : linkRuns s = true)
    (hs : regF s oTbCtrl 1 0 = 1) (hd : s.disc.announceAt + usDt (3000 * a.intervalMs) ≤ s.clock.dt) :
    exec .announceTimeout s = .next (dropMaster (loseReference (clearOut s)) a) := by
  have hdue : ¬((!linkRuns s) = true ∨ regF s oTbCtrl 1 0 ≠ 1
      ∨ s.clock.dt < s.disc.announceAt + usDt (3000 * a.intervalMs)) := by
    simpa [hl, hs] using hd
  change execAnnounceTimeout s = _
  unfold execAnnounceTimeout
  simp only [hm]
  exact if_neg hdue

/-- Three seconds without a Sync: the reference is lost. -/
theorem exec_syncTimeout_due {s : State} {a : PtpAnnounce} (hm : s.disc.master = some a) (hl : linkRuns s = true)
    (hs : regF s oTbCtrl 1 0 = 1) (hd : s.disc.syncAt + 3 * secondDt ≤ s.clock.dt) :
    exec .syncTimeout s = .next (loseReference (clearOut s)) := by
  have hdue : ¬((!linkRuns s) = true ∨ regF s oTbCtrl 1 0 ≠ 1 ∨ s.disc.master.isNone = true
      ∨ s.clock.dt < s.disc.syncAt + 3 * secondDt) := by
    simpa [hl, hs, hm] using hd
  exact if_neg hdue

theorem exec_holdoverLimitExpiry_due {s : State} (hs : s.disc.state = .holdover)
    (hd : s.disc.holdoverAt + regF s oTbHoldover 31 0 * secondDt ≤ s.clock.dt) :
    exec .holdoverLimitExpiry s = .next (setTime (clearOut s) .free) := if_pos ⟨hs, hd⟩

theorem exec_holdoverLimitExpiry_early {s : State}
    (hd : s.clock.dt < s.disc.holdoverAt + regF s oTbHoldover 31 0 * secondDt) :
    exec .holdoverLimitExpiry s = .next (clearOut s) := if_neg fun h => Nat.not_le.mpr hd h.2

/-! ## The pulses (R292, R310) -/

/-- An edge of PPS_IN that comes less than half a second after the latest. -/
def edgeEarly (s : State) : Bool := s.disc.edgeAt.any fun t => decide (s.clock.dt < t + secondDt / 2)

/-- An edge of PPS_IN has been accepted. -/
def acceptEdge (s : State) : State := { s with disc := { s.disc with edgeAt := some s.clock.dt, stuck := false } }

/-- The distance of DT from the whole second nearest to it. -/
def secondOffset (s : State) : Int := (s.clock.dt : Int) - ((nearestSecond s * secondDt : Nat) : Int)

@[simp] theorem acceptEdge_secUsed (s : State) : (acceptEdge s).disc.secUsed = s.disc.secUsed := rfl

theorem secondOffset_clearOut (s : State) : secondOffset (clearOut s) = secondOffset s := rfl

/-- Neither the outputs nor the note of the edge bears on what a sample has done. -/
theorem sampled_acceptEdge {s t : State} {off : Int} (h : Sampled (clearOut s) t off) : Sampled s (acceptEdge t) off := h

theorem exec_ppsInEdge_ignored {s : State} {ns : Nat} (hl : linkRuns s = true) (h : ns < 100 ∨ edgeEarly s = true) :
    exec (.ppsInEdge ns) s = .next (regCount (clearOut s) oTbPps 15 0 1) := by
  have hl' : ¬(!linkRuns s) = true := by simp [hl]
  exact (if_neg hl').trans (if_pos h)

/-- Under SOURCE 2 an accepted edge forms a sample. -/
theorem exec_ppsInEdge_sample {s : State} {ns : Nat} (hl : linkRuns s = true) (hn : 100 ≤ ns) (he : edgeEarly s = false)
    (hs : regF s oTbCtrl 1 0 = 2) :
    exec (.ppsInEdge ns) s = .next (acceptEdge
      (takeSample (takeSeconds (clearOut s)) (secondOffset (takeSeconds (clearOut s))))) := by
  have hl' : ¬(!linkRuns s) = true := by simp [hl]
  have ht : ¬(ns < 100 ∨ edgeEarly s = true) := by simp [he, hn]
  exact (if_neg hl').trans ((if_neg ht).trans (if_neg (not_not_intro hs)))

theorem takeSeconds_taken {s : State} (h : s.disc.secUsed = true ∨ (member s).isSome = true) : takeSeconds s = s :=
  if_pos (by simpa using h)

theorem takeSeconds_secUsed {s : State} (h : s.disc.secUsed = false) (hm : member s = none) :
    (takeSeconds s).disc.secUsed = true := by
  simp [takeSeconds, h, hm]

/-- A missing edge is counted, once in its episode. -/
def countStuck (s : State) : State :=
  regCount { clearOut s with disc := { s.disc with stuck := true } } oTbPps 31 16 1

/-- PPS_IN without an edge for 1.5 s is counted; under SOURCE 2 the reference is lost. -/
theorem exec_ppsStuck_due {s : State} {e : Nat} (he : s.disc.edgeAt = some e) (hl : linkRuns s = true)
    (hs : s.disc.stuck = false) (hd : e + secondDt * 3 / 2 ≤ s.clock.dt) :
    exec .ppsStuck s = .next (if regF (countStuck s) oTbCtrl 1 0 = 2 then loseReference (countStuck s) else countStuck s) := by
  have hany : s.disc.edgeAt.any (fun t => decide (t + secondDt * 3 / 2 ≤ s.clock.dt)) = true := by
    rw [he, Option.any_some]
    exact decide_eq_true hd
  have hdue : ¬((!linkRuns s) = true ∨ s.disc.stuck = true
      ∨ (!s.disc.edgeAt.any (fun t => decide (t + secondDt * 3 / 2 ≤ s.clock.dt))) = true) := by
    rw [hl, hs, hany]
    decide
  exact if_neg hdue

/-- A missing edge touches no register but TB_PPS. -/
theorem regF_countStuck_other (s : State) {a : Nat} (hi lo : Nat) (h : a ≠ oTbPps) :
    regF (countStuck s) a hi lo = regF s a hi lo := by
  rw [regF, countStuck, regGet_regCount_other _ _ _ _ h]
  rfl

theorem regF_countStuck {s : State} (h : Canonical s) :
    regF (countStuck s) oTbPps 31 16 = min 65535 (regF s oTbPps 31 16 + 1) :=
  regF_regCount_same (s := { clearOut s with disc := { s.disc with stuck := true } }) h.regs oTbPps 1 (by decide) (by decide)

theorem referenceLost_countStuck (s : State) : ReferenceLost s (loseReference (countStuck s)) := by
  have h := referenceLost_loseReference (countStuck s)
  rw [ReferenceLost, regF_countStuck_other s 31 0 (by decide)] at h
  exact h

theorem exec_ppsOutRise_due {s : State} (h : ppsDriven s = true) (hd : s.clock.dt % secondDt < s.clock.inc) :
    exec .ppsOutRise s = .next { clearOut s with disc := { s.disc with ppsHigh := true, ppsAt := s.clock.dt } } :=
  if_pos ⟨h, hd⟩

theorem exec_ppsOutFall_due {s : State} (hd : s.disc.ppsAt + secondDt / 10 ≤ s.clock.dt) :
    exec .ppsOutFall s = .next { clearOut s with disc := { s.disc with ppsHigh := false } } := if_pos (.inr hd)

/-- PPS_OUT is driven when it is enabled in LOCKED or HOLDOVER, on a device whose links run (R292). -/
theorem ppsDriven_iff (s : State) :
    ppsDriven s = true ↔ linkRuns s = true ∧ regF s oTbCtrl 4 4 = 1 ∧ (s.disc.state = .locked ∨ s.disc.state = .holdover) := by
  simp [ppsDriven, and_assoc]

/-! ## The statement -/

section
variable {s : State}

/-- ANNOUNCE_TIMEOUT: the reference is lost, with its frame. -/
theorem announceTimeout_loses {a : PtpAnnounce} (hm : s.disc.master = some a) (hl : linkRuns s = true)
    (hs : regF s oTbCtrl 1 0 = 1) (hd : s.disc.announceAt + usDt (3000 * a.intervalMs) ≤ s.clock.dt) :
    ∃ t, exec .announceTimeout s = .next t ∧ ReferenceLost s t ∧ t.disc.master = none
      ∧ t = { s with out := [], clock := t.clock, disc := t.disc, events := t.events, nextSeq := t.nextSeq } := by
  refine ⟨_, exec_announceTimeout_due hm hl hs hd, referenceLost_loseReference (clearOut s), rfl, ?_⟩
  exact congrArg (dropMaster · a) (loseReference_frame (clearOut s))

/-- SYNC_TIMEOUT: the reference is lost and the master stays chosen. -/
theorem syncTimeout_loses {a : PtpAnnounce} (hm : s.disc.master = some a) (hl : linkRuns s = true)
    (hs : regF s oTbCtrl 1 0 = 1) (hd : s.disc.syncAt + 3 * secondDt ≤ s.clock.dt) :
    ∃ t, exec .syncTimeout s = .next t ∧ ReferenceLost s t ∧ t.disc.master = some a
      ∧ t = { s with out := [], clock := t.clock, disc := t.disc, events := t.events, nextSeq := t.nextSeq } :=
  ⟨_, exec_syncTimeout_due hm hl hs hd, referenceLost_loseReference (clearOut s),
    (loseReference_master (clearOut s)).trans hm, loseReference_frame (clearOut s)⟩

/-- HOLDOVER_LIMIT_EXPIRY: HOLDOVER becomes FREE. -/
theorem holdoverLimitExpiry_frees (hs : s.disc.state = .holdover)
    (hd : s.disc.holdoverAt + regF s oTbHoldover 31 0 * secondDt ≤ s.clock.dt) :
    ∃ t, exec .holdoverLimitExpiry s = .next t ∧ t.disc.state = .free
      ∧ t.clock.inc = (if s.disc.everLocked = true then s.clock.inc else 2 ^ 32)
      ∧ t = { s with out := [], clock := t.clock, disc := t.disc, events := t.events, nextSeq := t.nextSeq } :=
  ⟨_, exec_holdoverLimitExpiry_due hs hd, setTime_state .., setTime_free_of_holdover (s := clearOut s) hs, setTime_frame ..⟩

/-- An edge of PPS_IN that R310 ignores is counted and changes nothing else. -/
theorem ppsInEdge_counts {ns : Nat} (hc : Canonical s) (hl : linkRuns s = true) (h : ns < 100 ∨ edgeEarly s = true) :
    ∃ t, exec (.ppsInEdge ns) s = .next t ∧ regF t oTbPps 15 0 = min 65535 (regF s oTbPps 15 0 + 1)
      ∧ t = { s with out := [], regs := t.regs } :=
  ⟨_, exec_ppsInEdge_ignored hl h,
    regF_regCount_same (canonical_clearOut hc).regs oTbPps 1 (by decide) (by decide), rfl⟩

/-- Under SOURCE 2, with DT's seconds known, an accepted edge forms the sample of DT's distance from its nearest second. -/
theorem ppsInEdge_samples {ns : Nat} (hc : Canonical s) (hl : linkRuns s = true) (hn : 100 ≤ ns) (he : edgeEarly s = false)
    (hs : regF s oTbCtrl 1 0 = 2) (hk : s.disc.secUsed = true ∨ (member s).isSome = true) :
    ∃ t, exec (.ppsInEdge ns) s = .next t ∧ Sampled s t (secondOffset s) ∧ t.disc.edgeAt = some t.clock.dt
      ∧ t.disc.stuck = false := by
  have h := exec_ppsInEdge_sample hl hn he hs
  rw [takeSeconds_taken (s := clearOut s) hk, secondOffset_clearOut] at h
  exact ⟨_, h, sampled_acceptEdge (sampled_takeSample (canonical_clearOut hc).regs _), rfl, rfl⟩

/-- The first accepted edge under SOURCE 2 takes DT's seconds. -/
theorem ppsInEdge_takesSeconds {ns : Nat} (hl : linkRuns s = true) (hn : 100 ≤ ns) (he : edgeEarly s = false)
    (hs : regF s oTbCtrl 1 0 = 2) (hu : s.disc.secUsed = false) (hm : member s = none) :
    ∃ t, exec (.ppsInEdge ns) s = .next t ∧ t.disc.secUsed = true ∧ t.disc.edgeAt = some t.clock.dt :=
  ⟨_, exec_ppsInEdge_sample hl hn he hs,
    by rw [acceptEdge_secUsed, takeSample_secUsed, takeSeconds_secUsed (s := clearOut s) hu hm], rfl⟩

/-- PPS_STUCK: a missing edge is counted; only under SOURCE 2 is it a loss of reference. -/
theorem ppsStuck_counts {e : Nat} (hc : Canonical s) (he : s.disc.edgeAt = some e) (hl : linkRuns s = true)
    (hs : s.disc.stuck = false) (hd : e + secondDt * 3 / 2 ≤ s.clock.dt) :
    ∃ t, exec .ppsStuck s = .next t ∧ t.disc.stuck = true ∧ regF t oTbPps 31 16 = min 65535 (regF s oTbPps 31 16 + 1)
      ∧ (regF s oTbCtrl 1 0 = 2 → ReferenceLost s t) ∧ (regF s oTbCtrl 1 0 ≠ 2 → t.disc.state = s.disc.state) := by
  refine ⟨_, exec_ppsStuck_due he hl hs hd, ?_⟩
  rw [regF_countStuck_other s 1 0 (by decide)]
  split
  next h2 =>
    refine ⟨loseReference_stuck _, ?_, fun _ => referenceLost_countStuck s, fun h => absurd h2 h⟩
    rw [loseReference_frame]
    exact regF_countStuck hc
  next h2 => exact ⟨rfl, regF_countStuck hc, fun h => absurd h h2, fun _ => rfl⟩

/-- PPS_OUT_RISE: PPS_OUT is high from the tick at which DT passes a whole second (R292). -/
theorem ppsOutRise_rises (h : ppsDriven s = true) (hd : s.clock.dt % secondDt < s.clock.inc) :
    ∃ t, exec .ppsOutRise s = .next t ∧ ppsOut t = true ∧ t.disc.ppsAt = s.clock.dt
      ∧ t = { s with out := [], disc := t.disc } :=
  ⟨_, exec_ppsOutRise_due h hd, h, rfl, rfl⟩

/-- PPS_OUT_FALL: PPS_OUT is low from 100 ms of DT after its rise (R292). -/
theorem ppsOutFall_falls (hd : s.disc.ppsAt + secondDt / 10 ≤ s.clock.dt) :
    ∃ t, exec .ppsOutFall s = .next t ∧ ppsOut t = false ∧ t = { s with out := [], disc := t.disc } :=
  ⟨_, exec_ppsOutFall_due hd, rfl, rfl⟩

theorem ppsOut_undriven (h : ¬(regF s oTbCtrl 4 4 = 1 ∧ (s.disc.state = .locked ∨ s.disc.state = .holdover))) :
    ppsOut s = false := by
  have hd : ppsDriven s = false := Bool.eq_false_iff.mpr fun hd => h ((ppsDriven_iff s).mp hd).2
  rw [ppsOut, hd, Bool.and_false]

end

/-- Settles O53: each clause is one command's effect; the losses of reference share `loseReference` and the samples
`takeSample`. -/
theorem timeStatesAndPulses : Obligations.TimeStatesAndPulses := by
  intro s hc
  refine ⟨fun a hm hl hs => ⟨announceTimeout_loses hm hl hs, syncTimeout_loses hm hl hs⟩,
    fun hs => ⟨holdoverLimitExpiry_frees hs, exec_holdoverLimitExpiry_early⟩,
    fun hl ns => ⟨ppsInEdge_counts hc hl, ppsInEdge_samples hc hl, ppsInEdge_takesSeconds hl⟩,
    fun e he hl hs hd => ppsStuck_counts hc he hl hs hd, ?_⟩
  exact ⟨fun hl hd => ppsOutRise_rises ((ppsDriven_iff s).mpr ⟨hl, hd⟩), ppsOutFall_falls, ppsOut_undriven⟩

end Sys2Proof.Machine

/-! The answer to an admitted command (R372, R375, R379): which row runs which opcode, what a command does to its session's books,
and the one reply that leaves. -/

namespace Sys2Proof.Machine

open Sys2Proof Sys2Proof.Terms

variable {s t u : State} {n k : Nat} {x : Session} {p : Packet} {op : Byte} {c : Instr}

/-! ## The books of a session -/

/-- Of the state only the sessions changed, and session n stands with k more reserved ring entries. -/
structure OnlyBooks (s t : State) (n k : Nat) : Prop where
  booked : Booked s t n k
  frame  : t = { s with sessions := t.sessions }

theorem onlyBooks_refl (h : sessGet s n = some x) : OnlyBooks s s n 0 :=
  ⟨⟨x, x, h, h, rfl, rfl, rfl, rfl⟩, rfl⟩

/-- The books of one step and of the next add up. -/
theorem booked_trans {j : Nat} (h : Booked s t n j) (h' : Booked t u n k) : Booked s u n (j + k) := by
  obtain ⟨x, y, hx, hy, hreserved, hdone, hcls, hwindow⟩ := h
  obtain ⟨y', z, hy', hz, hreserved', hdone', hcls', hwindow'⟩ := h'
  obtain rfl : y = y' := Option.some.inj (hy.symm.trans hy')
  exact ⟨x, z, hx, hz, by rw [hreserved', hreserved, Nat.add_assoc], hdone'.trans hdone, hcls'.trans hcls,
    hwindow'.trans hwindow⟩

theorem onlyBooks_trans {j : Nat} (h : OnlyBooks s t n j) (h' : OnlyBooks t u n k) : OnlyBooks s u n (j + k) :=
  ⟨booked_trans h.booked h'.booked, by rw [h'.frame, h.frame]⟩

/-- A change of an open session that keeps it open, with its class, window and posted entries. -/
theorem onlyBooks_sessMap {f : Session → Session} (h : sessGet s n = some x) (hclosed : (f x).closed = x.closed)
    (hreserved : (f x).reserved = x.reserved + k) (hdone : (f x).doneSeq = x.doneSeq) (hcls : (f x).cls = x.cls)
    (hwindow : (f x).window = x.window) : OnlyBooks s (sessMap s n f) n k := by
  have hopen : x.closed = false := by simpa using (Option.filter_eq_some_iff.mp h).2
  rw [sessMap_some h]
  refine ⟨⟨x, f x, h, ?_, hreserved, hdone, hcls, hwindow⟩, rfl⟩
  rw [sessGet_sessSet_same, hclosed, hopen]
  rfl

theorem onlyBooks_taken (h : sessGet s n = some x) : OnlyBooks { s with out := [] } (taken s n p) n 0 :=
  onlyBooks_sessMap (s := { s with out := [] }) h rfl rfl rfl rfl rfl

theorem onlyBooks_ringReserve (hp : p.origin = .session n) (h : sessGet s n = some x) :
    OnlyBooks s (ringReserve s p) n 1 := by
  unfold ringReserve originSession
  rw [hp]
  exact onlyBooks_sessMap h rfl rfl rfl rfl rfl

/-- The RSP of an open session is kept until it is acknowledged. -/
theorem onlyBooks_sendRsp (h : sessGet s n = some x) (rspOp : Byte) (psn : BitVec 32) (code : Code) (b : Bytes) :
    OnlyBooks s (sendRsp s n rspOp psn code b) n 0 := by
  obtain ⟨hfind, hopen⟩ := Option.filter_eq_some_iff.mp h
  have hclosed : x.closed = false := by simpa using hopen
  unfold sendRsp
  simp only [hfind, hclosed, Bool.false_eq_true, if_false]
  exact onlyBooks_sessMap h rfl rfl rfl rfl rfl

/-! ## The reply -/

/-- A reply to an open session leaves at once, and touches beside it the session's books alone (R368, R372, R401). -/
theorem onlyBooks_sendReply (hp : p.origin = .session n) (h : sessGet s n = some x) (code : Code) (result : Bytes)
    (ev : BitVec 32) :
    OnlyBooks (emit s (.reply (makeReply s p op code result ev))) (sendReply s p op code result ev) n 0 := by
  have hflags : OnlyBooks (emit s (.reply (makeReply s p op code result ev)))
      (sessMap (emit s (.reply (makeReply s p op code result ev))) n fun x => { x with slipSeen := false, holdSeen := false })
      n 0 := onlyBooks_sessMap (x := x) h rfl rfl rfl rfl rfl
  obtain ⟨_, y, _, hy, _⟩ := hflags.booked
  unfold sendReply
  simp only [hp, h, Option.isSome_some, if_true]
  cases p.reqPsn with
  | none => exact hflags
  | some psn => exact onlyBooks_trans hflags (onlyBooks_sendRsp hy 0x01 psn .ok _)

/-- A reply after a silent effect is the step's one output. -/
theorem replied_sendReply (hp : p.origin = .session n) (h : sessGet s n = some x) (ho : s.out = []) (code : Code)
    (result : Bytes) : Replied (sendReply s p op code result 0xFFFFFFFF) p op code result := by
  refine ⟨makeReply s p op code result 0xFFFFFFFF, ?_, rfl, rfl, rfl, rfl, rfl, rfl⟩
  rw [(onlyBooks_sendReply hp h code result _).frame]
  exact congrArg (· ++ [_]) ho

/-! ## The answer -/

/-- Every row that is a host command runs its opcode on its packet. -/
theorem exec_eq_command (h : commandOf c = some (op, p)) (s : State) : exec c s = .next (command op p s) := by
  unfold commandOf at h
  split at h <;> cases h <;> rfl

theorem taken_frame (h : sessGet s n = some x) :
    taken s n p = { s with out := [], sessions := (taken s n p).sessions } := (onlyBooks_taken h).frame

/-- An admitted command's own part runs on the state with its RING_ACK taken. -/
theorem answer_of_admitted {a : Ans} (h : Admitted c s n x op p)
    (ha : ownCommand op ⟨x.cls, some n⟩ p (taken s n p) = a) (hlater : a.later = false) (hclose : a.close = none) :
    answer { s with out := [] } p op = sendReply a.st p op a.code a.result a.ev := by
  have hs : sessGet ({ s with out := [] } : State) n = some x := h.opened
  have hfree : heldOff (taken s n p) op = false := by
    rw [taken_frame h.opened]
    exact h.free
  unfold taken at ha hfree
  simp only [answer, originSession, h.origin, hs, hfree, Bool.false_eq_true, if_false, ha, hlater, hclose]

/-- An admitted command whose own part ends silently in a state u is answered at once, with u's effect and the session's
books (R372, R375). -/
theorem exec_replies {code : Code} {result : Bytes} (h : Admitted c s n x op p)
    (ha : ownCommand op ⟨x.cls, some n⟩ p (taken s n p) = { code := code, result := result, st := u })
    (hb : Booked s u n k) (ho : u.out = []) :
    ∃ t, exec c s = .next t ∧ Replied t p op code result ∧ Booked s t n k
      ∧ t = { u with out := t.out, sessions := t.sessions } := by
  have ⟨_, y, _, hy, _⟩ := hb
  refine ⟨sendReply u p op code result 0xFFFFFFFF, ?_, replied_sendReply h.origin hy ho code result, ?_, ?_⟩
  · rw [exec_eq_command h.command, command_admitted h.origin h.ready h.opened h.fits h.checks,
      answer_of_admitted h ha rfl rfl]
  · exact booked_trans hb (onlyBooks_sendReply h.origin hy code result _).booked
  · rw [(onlyBooks_sendReply h.origin hy code result _).frame]
    rfl

/-- An admitted command that its own checks refuse has no effect beyond the session's books and the reply. -/
theorem exec_refuses {code : Code} (h : Admitted c s n x op p)
    (ha : ownCommand op ⟨x.cls, some n⟩ p (taken s n p) = refuse (taken s n p) code) :
    ∃ t, exec c s = .next t ∧ Replied t p op code [] ∧ Booked s t n 0
      ∧ t = { s with out := t.out, sessions := t.sessions } := by
  have hbooks := onlyBooks_taken (p := p) h.opened
  obtain ⟨t, he, hr, hb, hf⟩ := exec_replies h ha hbooks.booked (by rw [hbooks.frame])
  exact ⟨t, he, hr, hb, by rw [hf, hbooks.frame]⟩

end Sys2Proof.Machine

/-! The image commands (R385, R387, R388): the range of a load or a verification, and what holds an image. -/

namespace Sys2Proof.Machine

open Sys2Proof Sys2Proof.Terms

variable {s : State} {a k n : Nat} {x : Session} {p : Packet} {op : Byte} {c : Instr}

/-! ## The range of a load or a verification -/

theorem linearOf_idem (a : Nat) : linearOf (linearOf a) = linearOf a := by
  by_cases h : a < 0x20000000000
  · exact linearOf_linear (linearOf_lt h)
  · have houtside := linearOf_outside (Nat.le_of_not_lt h)
    rw [houtside, houtside]

/-- A byte is implemented in the linear view when it is in the view that names it. -/
theorem implemented_linearOf (h : implemented s a = true) : implemented s (linearOf a) = true := by
  by_cases hview : 0x10000000000 ≤ a ∧ a < 0x20000000000
  · obtain ⟨hlow, hhigh⟩ := hview
    have hregion : regionOf a = .interleaved := by rw [regionOf, if_neg (by omega), if_pos hhigh]
    have hlinear : regionOf (linearOf a) = .linear := if_pos (linearOf_lt hhigh)
    simpa only [implemented, hregion, hlinear, linearOf_idem] using h
  · rwa [linearOf, if_neg hview]

/-- Each probe of a span is the linear address of one of its bytes. -/
theorem mem_spanProbes {y : Nat} (hk : 0 < k) (h : y ∈ spanProbes a k) : ∃ i < k, y = linearOf (a + i) := by
  obtain ⟨j, -, hj⟩ := List.mem_filterMap.mp h
  obtain ⟨hlt, hsome⟩ := Option.ite_none_right_eq_some.mp hj
  obtain rfl := Option.some.inj hsome
  by_cases h0 : j = 0
  · exact ⟨0, hk, by rw [if_pos h0, Nat.add_zero]⟩
  · rw [if_neg h0] at hlt ⊢
    exact ⟨(a / 4096 + j) * 4096 - a, by omega, by congr 1; omega⟩

/-- A span is implemented at its probes when it is at every byte. -/
theorem all_spanProbes_implemented (hk : 0 < k) (h : ∀ i < k, implemented s (a + i) = true) :
    (spanProbes a k).all (implemented s) = true := by
  rw [List.all_eq_true]
  intro y hy
  obtain ⟨i, hi, rfl⟩ := mem_spanProbes hk hy
  exact implemented_linearOf (h i hi)

/-- A load or verification of an implemented range is accepted and begins (R385, R387). -/
theorem cmdImageOp_accepted {verify : Bool} {w : Who} (hk : 0 < field p.params 8 8)
    (hown : ownRange (field p.params 0 8) (field p.params 8 8))
    (himp : ∀ i < field p.params 8 8, implemented s (field p.params 0 8 + i) = true) (hring : ringFree s p = true) :
    cmdImageOp verify w p s = accepted { s with imageOps := s.imageOps ++
      [{ verify := verify, source := field p.params 0 8, size := field p.params 8 8, p := p }] } p := by
  obtain ⟨hfirst, hlast, hsame⟩ := hown
  have hprobes := all_spanProbes_implemented hk himp
  have hend : implemented s (field p.params 0 8 + field p.params 8 8 - 1) = true := by
    rw [Nat.add_sub_assoc hk]
    exact himp _ (by omega)
  have hplace : ∀ b, isStack b = true ∨ regionOf b = .hubGeneral → (isStack b || regionOf b == .hubGeneral) = true :=
    fun b hb => by simpa using hb
  simp only [cmdImageOp, Nat.ne_of_gt hk, hplace _ hfirst, hplace _ hlast, hsame, hprobes, hend, hring, Bool.not_true,
    Bool.false_eq_true, or_false, if_false]

/-! ## What holds an image -/

/-- The IMAGE_ID that IMAGE_UNLOAD names (R385). -/
abbrev imageId (p : Packet) : BitVec 64 := BitVec.ofNat 64 (field p.params 0 8)

/-- A load in progress of an image (R388). -/
def LoadOf (s : State) (id : BitVec 64) : Prop :=
  ∃ o ∈ s.imageOps, o.verify = false ∧ field (spanRead s (o.source + 8) 8) 0 8 = id.toNat

/-- A context that holds its image refers to an image (R388). -/
def HeldBy (s : State) (id : BitVec 64) : Prop :=
  ∃ c ∈ s.ctxs ++ submits s, (c.state = .ready ∨ c.state = .running ∨ c.state = .paused)
    ∧ (c.desc.image = id ∨ c.desc.recompute = id)

theorem loading_iff (s : State) (id : BitVec 64) :
    (s.imageOps.any fun o => !o.verify && field (spanRead s (o.source + 8) 8) 0 8 == id.toNat) = true ↔ LoadOf s id := by
  simp [LoadOf]

theorem imageInUse_iff (s : State) (id : BitVec 64) : imageInUse s id = true ↔ HeldBy s id := by
  simp only [imageInUse, HeldBy, List.any_eq_true, Bool.and_eq_true, Bool.or_eq_true, beq_iff_eq, or_assoc]

/-- IMAGE_UNLOAD answers BUSY while the image is being loaded or is held (R388). -/
theorem cmdImageUnload_busy (w : Who)
    (h : LoadOf s (imageId p) ∨ (imageGet s (imageId p)).isSome = true
      ∧ HeldBy s (imageId p)) : cmdImageUnload w p s = refuse s .busy := by
  unfold cmdImageUnload
  dsimp only
  split
  next => rfl
  next hload =>
    rw [loading_iff] at hload
    obtain ⟨hsome, hheld⟩ := h.resolve_left hload
    rw [if_neg (by simpa [Option.isSome_iff_ne_none] using hsome), if_pos ((imageInUse_iff _ _).mpr hheld)]

/-- IMAGE_UNLOAD removes a loaded image that nothing holds (R388). -/
theorem cmdImageUnload_done (w : Who) (hsome : (imageGet s (imageId p)).isSome = true)
    (hload : ¬LoadOf s (imageId p)) (hheld : ¬HeldBy s (imageId p)) :
    cmdImageUnload w p s =
      done { s with images := s.images.filter fun i => i.id != imageId p } := by
  rw [← loading_iff] at hload
  rw [← imageInUse_iff] at hheld
  unfold cmdImageUnload
  dsimp only
  rw [if_neg hload, if_neg (by simpa [Option.isSome_iff_ne_none] using hsome), if_neg hheld]

/-! ## The loaded images without one -/

section
variable {t : State} {id : BitVec 64} (h : t.images = s.images.filter fun i => i.id != id)
include h

theorem imageGet_filter_same : imageGet t id = none := by
  simp [imageGet, h, List.find?_eq_none]

theorem imageGet_filter_other {j : BitVec 64} (hj : j ≠ id) : imageGet t j = imageGet s j := by
  rw [imageGet, h, List.find?_filter, imageGet]
  congr 1
  funext i
  by_cases hi : i.id = j
  · simp [hi, hj]
  · simp [hi]

end

/-! ## The three commands -/

/-- IMAGE_LOAD and IMAGE_VERIFY (R385, R387). -/
theorem exec_imageOp_accepted {verify : Bool} (h : Admitted c s n x op p)
    (hop : ownCommand op ⟨x.cls, some n⟩ p (taken s n p) = cmdImageOp verify ⟨x.cls, some n⟩ p (taken s n p))
    (hring : ringFree (taken s n p) p = true) (hk : 0 < field p.params 8 8)
    (hown : ownRange (field p.params 0 8) (field p.params 8 8))
    (himp : ∀ i < field p.params 8 8, implemented s (field p.params 0 8 + i) = true) :
    ∃ t, exec c s = .next t ∧ Replied t p op .accepted [] ∧ Booked s t n 1
      ∧ t.imageOps = s.imageOps ++ [{ verify := verify, source := field p.params 0 8, size := field p.params 8 8, p := p }]
      ∧ t = { s with out := t.out, sessions := t.sessions, imageOps := t.imageOps } := by
  have htaken := onlyBooks_taken (p := p) h.opened
  obtain ⟨_, y, _, hy, _⟩ := htaken.booked
  have himp' : ∀ i < field p.params 8 8, implemented (taken s n p) (field p.params 0 8 + i) = true := by
    rw [htaken.frame]
    exact himp
  have ha := hop.trans (cmdImageOp_accepted hk hown himp' hring)
  have hreserve := onlyBooks_ringReserve (s := { taken s n p with imageOps := (taken s n p).imageOps ++
    [{ verify := verify, source := field p.params 0 8, size := field p.params 8 8, p := p }] }) h.origin hy
  obtain ⟨t, he, hr, hb, hf⟩ := exec_replies h ha (booked_trans (j := 0) htaken.booked hreserve.booked)
    (by rw [hreserve.frame, htaken.frame])
  rw [hreserve.frame, htaken.frame] at hf
  exact ⟨t, he, hr, hb, by rw [hf], by rw [hf]⟩

/-- IMAGE_UNLOAD of an image that nothing holds (R388). -/
theorem exec_imageUnload_done (h : Admitted (.imageUnload p) s n x 0x22 p)
    (hsome : (imageGet s (imageId p)).isSome = true)
    (hload : ¬LoadOf s (imageId p)) (hheld : ¬HeldBy s (imageId p)) :
    ∃ t, exec (.imageUnload p) s = .next t ∧ Replied t p 0x22 .ok []
      ∧ t.images = (s.images.filter fun i => i.id != imageId p)
      ∧ t = { s with out := t.out, sessions := t.sessions, images := t.images } := by
  have htaken := onlyBooks_taken (p := p) h.opened
  have ha : ownCommand 0x22 ⟨x.cls, some n⟩ p (taken s n p) = done { taken s n p with
      images := (taken s n p).images.filter fun i => i.id != imageId p } := by
    refine cmdImageUnload_done ⟨x.cls, some n⟩ ?_ ?_ ?_ <;> rw [htaken.frame]
    exacts [hsome, hload, hheld]
  obtain ⟨t, he, hr, -, hf⟩ := exec_replies h ha htaken.booked (by rw [htaken.frame])
  rw [htaken.frame] at hf
  exact ⟨t, he, hr, by rw [hf], by rw [hf]⟩

/-- IMAGE_UNLOAD while the image is being loaded or is held (R388). -/
theorem exec_imageUnload_busy (h : Admitted (.imageUnload p) s n x 0x22 p)
    (hbusy : LoadOf s (imageId p) ∨
      (imageGet s (imageId p)).isSome = true ∧ HeldBy s (imageId p)) :
    ∃ t, exec (.imageUnload p) s = .next t ∧ Replied t p 0x22 .busy [] ∧ t = { s with out := t.out, sessions := t.sessions } := by
  have ha : ownCommand 0x22 ⟨x.cls, some n⟩ p (taken s n p) = refuse (taken s n p) .busy := by
    refine cmdImageUnload_busy ⟨x.cls, some n⟩ ?_
    rw [taken_frame h.opened]
    exact hbusy
  obtain ⟨t, he, hr, -, hf⟩ := exec_refuses h ha
  exact ⟨t, he, hr, hf⟩

/-- Settles O15: a load and a verification share `cmdImageOp`; an unload is decided by `LoadOf` and `HeldBy`. -/
theorem imageCommandsAreTaken : Obligations.ImageCommandsAreTaken := by
  intro s n x p _
  refine ⟨?_, fun h => ⟨fun i hi hload hheld => ?_, exec_imageUnload_busy h⟩⟩
  · rintro c verify (⟨rfl, rfl⟩ | ⟨rfl, rfl⟩) h hring a k hk hown himp
    · exact exec_imageOp_accepted h rfl hring hk hown himp
    · exact exec_imageOp_accepted h rfl hring hk hown himp
  · obtain ⟨t, he, hr, himages, hf⟩ := exec_imageUnload_done h (Option.isSome_of_eq_some hi) hload hheld
    exact ⟨t, he, hr, imageGet_filter_same himages, fun _ => imageGet_filter_other himages, hf⟩

end Sys2Proof.Machine

/-! The protection map (R460, R461): which entry decides a byte, what it permits, and what the checks of privilege ask of
an access to bytes that the map governs. -/

namespace Sys2Proof.Machine

open Sys2Proof Sys2Proof.Terms

variable {s : State} {cls : Cls} {n a len i lin : Nat} {op : RmoOp}

/-! ## The lowest key of a rising list -/

theorem pairwise_of_keysRise {α : Type} {l : List (Nat × α)} (h : keysRise l = true) :
    l.Pairwise fun x y => x.1 < y.1 := by
  induction l with
  | nil => exact .nil
  | cons b t ih =>
    obtain ⟨habove, hrise⟩ := keysRise_cons.1 h
    exact .cons habove (ih hrise)

/-- A search through a rising list finds the least member that meets the condition. -/
theorem find?_some_iff_least {l : List Nat} (hl : l.Pairwise (· < ·)) {p : Nat → Bool} :
    l.find? p = some i ↔ (i ∈ l ∧ p i = true) ∧ ∀ j < i, ¬(j ∈ l ∧ p j = true) := by
  induction l with
  | nil => simp
  | cons b t ih =>
    obtain ⟨hb, ht⟩ := List.pairwise_cons.1 hl
    by_cases hp : p b = true
    · rw [List.find?_cons_of_pos hp]
      refine ⟨fun h => ?_, fun ⟨⟨hi, _⟩, hleast⟩ => ?_⟩
      · obtain rfl := Option.some.inj h
        refine ⟨⟨List.mem_cons_self, hp⟩, fun j hj ⟨hm, _⟩ => ?_⟩
        rcases List.mem_cons.1 hm with rfl | hm
        · omega
        · exact Nat.lt_asymm hj (hb j hm)
      · rcases List.mem_cons.1 hi with rfl | hi
        · rfl
        · exact absurd ⟨List.mem_cons_self, hp⟩ (hleast b (hb i hi))
    · have hmem (j : Nat) : (j ∈ b :: t ∧ p j = true) ↔ (j ∈ t ∧ p j = true) := by
        refine ⟨fun ⟨hj, hpj⟩ => ⟨(List.mem_cons.1 hj).resolve_left ?_, hpj⟩,
          fun ⟨hj, hpj⟩ => ⟨List.mem_cons_of_mem b hj, hpj⟩⟩
        rintro rfl
        exact hp hpj
      rw [List.find?_cons_of_neg hp, ih ht]
      simp only [hmem]

/-! ## The enabled entries -/

/-- The PERM word of an entry resets to zero: no entry is enabled (R462). -/
theorem resetWord_protPerm (hi : i < 256) : resetWord (oProt i + 0x10) = 0 := by
  have ho : oProt i = 0x011000 + i * 0x20 := rfl
  have hrow : (oProt i + 0x10 - 0x010000) % 0x20 = 0x10 := by omega
  have hsec : secReg (oProt i + 0x10 - 0x010000) = regIn protTable 0x10 := by
    rw [secReg, if_neg (by omega), if_pos (by omega), hrow]
  have hreg : regAt (oProt i + 0x10) = regIn protTable 0x10 := by
    rw [regAt, if_neg (by omega), if_neg (by omega), if_pos (by omega), hsec]
  rw [resetWord, hreg]
  decide

/-- The list of enabled entries holds those whose ENABLE reads 1. -/
theorem mem_protEnabled (hr : swf resetWord s.regs = true) :
    i ∈ protEnabled s ↔ i < 256 ∧ regF s (oProt i + 0x10) 31 31 = 1 := by
  have hrise := (swf_iff.1 hr).1
  rw [protEnabled, List.mem_filterMap]
  constructor
  · rintro ⟨⟨o, w⟩, hmem, hsome⟩
    obtain ⟨⟨hlow, hhigh, hword, henable⟩, hentry⟩ := Option.ite_none_right_eq_some.1 hsome
    obtain rfl := Option.some.inj hentry
    have ho : oProt ((o - 0x011000) / 0x20) + 0x10 = o := by unfold oProt; omega
    refine ⟨by omega, ?_⟩
    rw [ho, regF, regGet, sget_of_mem hrise hmem, henable]
  · rintro ⟨hi, henable⟩
    cases hfind : sfind s.regs (oProt i + 0x10) with
    | none =>
      have hreset : regGet s (oProt i + 0x10) = 0 := by
        rw [regGet, sget_eq_sfind, hfind, Option.getD_none, resetWord_protPerm hi]
      rw [regF, hreset] at henable
      exact absurd henable (by decide)
    | some w =>
      have hmem := mem_of_sfind hfind
      rw [regF, regGet, sget_of_mem hrise hmem] at henable
      refine ⟨_, hmem, Option.ite_none_right_eq_some.2 ⟨⟨?_, ?_, ?_, henable⟩, congrArg some ?_⟩⟩ <;> unfold oProt <;> omega

/-- The enabled entries stand in ascending number. -/
theorem pairwise_protEnabled (hr : swf resetWord s.regs = true) : (protEnabled s).Pairwise (· < ·) := by
  rw [protEnabled, List.pairwise_filterMap]
  refine (pairwise_of_keysRise (swf_iff.1 hr).1).imp ?_
  rintro ⟨o, v⟩ ⟨o', v'⟩ hlt i hi j hj
  obtain ⟨⟨_, _, hword, _⟩, hi⟩ := Option.ite_none_right_eq_some.1 hi
  obtain ⟨⟨_, _, hword', _⟩, hj⟩ := Option.ite_none_right_eq_some.1 hj
  obtain rfl := Option.some.inj hi
  obtain rfl := Option.some.inj hj
  dsimp only at hlt
  omega

/-- The model's test of an entry is the condition of R461. -/
theorem qualifies_iff (hr : swf resetWord s.regs = true) :
    i ∈ protEnabled s ∧ protHolds s i n lin = true ↔ i < 256 ∧ Qualifies s i n lin := by
  rw [mem_protEnabled hr]
  simp only [protHolds, Qualifies, regF, Bool.and_eq_true, Bool.or_eq_true, decide_eq_true_eq, beq_iff_eq, and_assoc]

/-! ## What the map permits -/

/-- The lowest entry that qualifies decides, or else DEFAULT (R461). -/
theorem protPerms_iff (hr : swf resetWord s.regs = true) (perms : Nat) :
    ((∃ i < 256, Qualifies s i n lin ∧ (∀ j < i, ¬Qualifies s j n lin) ∧ perms = regF s (oProt i + 16) 7 0)
      ∨ ((∀ i < 256, ¬Qualifies s i n lin) ∧ perms = regF s oProtCtrl 7 0)) ↔ perms = protPerms s n lin := by
  have hsome (i : Nat) : (protEnabled s).find? (fun i => protHolds s i n lin) = some i
      ↔ (i < 256 ∧ Qualifies s i n lin) ∧ ∀ j < i, ¬(j < 256 ∧ Qualifies s j n lin) := by
    simp only [find?_some_iff_least (pairwise_protEnabled hr), qualifies_iff hr]
  have hleast : (∃ i < 256, Qualifies s i n lin ∧ (∀ j < i, ¬Qualifies s j n lin) ∧ perms = regF s (oProt i + 16) 7 0)
      ↔ ∃ i, (protEnabled s).find? (fun i => protHolds s i n lin) = some i ∧ perms = regF s (oProt i + 16) 7 0 := by
    refine exists_congr fun i => ?_
    rw [hsome]
    exact ⟨fun ⟨hi, hq, hno, hp⟩ => ⟨⟨⟨hi, hq⟩, fun j hj hjq => hno j hj hjq.2⟩, hp⟩,
      fun ⟨⟨⟨hi, hq⟩, hno⟩, hp⟩ => ⟨hi, hq, fun j hj hjq => hno j hj ⟨hj.trans hi, hjq⟩, hp⟩⟩
  have hnone : (∀ i < 256, ¬Qualifies s i n lin) ↔ (protEnabled s).find? (fun i => protHolds s i n lin) = none := by
    simp only [List.find?_eq_none, ← not_and, qualifies_iff hr]
  rw [hleast, hnone, protPerms]
  cases (protEnabled s).find? fun i => protHolds s i n lin <;> simp

/-- A byte is permitted by the bits of the session's class that the operation needs (R461). -/
theorem permits_iff (hr : swf resetWord s.regs = true) :
    Permits s cls n op lin ↔ (op ≠ .write → protBit s cls n lin false = true)
      ∧ (op ≠ .read → protBit s cls n lin true = true) := by
  simp only [Permits, protPerms_iff hr, exists_eq_left]
  rfl

/-- An access is permitted when every byte is (R461). -/
theorem protAllows_iff (hr : swf resetWord s.regs = true) (lins : List Nat) :
    protAllows s cls n lins (op != .write) (op != .read) = true ↔ ∀ l ∈ lins, Permits s cls n op l := by
  simp only [protAllows, List.all_eq_true, permits_iff hr, Bool.and_eq_true, Bool.or_eq_true, Bool.not_eq_true',
    bne_eq_false_iff_eq, ne_eq, imp_iff_not_or, not_not]

/-! ## The checks of privilege -/

/-- What the map governs it governs at the linear address too. -/
theorem governed_linearOf (h : governed a = true) : governed (linearOf a) = true := by
  by_cases hstack : a < 0x20000000000
  · have hlinear : regionOf (linearOf a) = .linear := if_pos (linearOf_lt hstack)
    rw [governed, hlinear]
  · rwa [linearOf_outside (Nat.le_of_not_lt hstack)]

/-- The map does not govern the parts of hub SRAM that R31 closes. -/
theorem not_closed_of_governed (h : governed a = true) : regionOf a ≠ .hubFirmware ∧ regionOf a ≠ .hubGeyser := by
  constructor <;> intro hregion <;> simp [governed, hregion] at h

/-- The checks of an access to governed bytes: the map, the loaded images, the working memory of the open streams (R460). -/
theorem privCheck_governed (hlen : 0 < len) (hgov : ∀ i < len, governed (a + i) = true) :
    privCheck s cls n op a len = (protAllows s cls n (spanLinear a len) (op != .write) (op != .read)
      && !(op != .read && (spanLinear a len).any (inImage s)) && !((spanLinear a len).any (inWorkMemory s))) := by
  have hopen : ∀ l ∈ spanLinear a len, regionOf l ≠ .hubFirmware ∧ regionOf l ≠ .hubGeyser := by
    intro l hl
    obtain ⟨i, hi, rfl⟩ := List.mem_map.1 hl
    exact not_closed_of_governed (governed_linearOf (hgov i (List.mem_range.1 hi)))
  have hfirst : governed a = true := hgov 0 hlen
  cases hregion : regionOf a with
  | linear | interleaved | hubGeneral | ab | am | ws =>
    rw [privCheck, hregion]
    dsimp only
    rw [List.all_eq_true.2, Bool.true_and]
    intro l hl
    obtain ⟨hfirmware, hgeyser⟩ := hopen l hl
    split
    · exact absurd ‹_› hfirmware
    · exact absurd ‹_› hgeyser
    · rfl
  | _ =>
    rw [governed, hregion] at hfirst
    exact absurd hfirst Bool.false_ne_true

/-- An access to governed bytes passes when the map permits each, a write keeps off the loaded images, and none is working
memory of an open stream (R460). -/
theorem privCheck_iff (hr : swf resetWord s.regs = true) (hlen : 0 < len) (hgov : ∀ i < len, governed (a + i) = true) :
    privCheck s cls n op a len = true ↔
      (∀ i < len, Permits s cls n op (linearOf (a + i)))
      ∧ (op ≠ .read → ∀ i < len, inImage s (linearOf (a + i)) = false)
      ∧ ∀ i < len, inWorkMemory s (linearOf (a + i)) = false := by
  have himage : (!(op != .read && (spanLinear a len).any (inImage s))) = true
      ↔ (op ≠ .read → ∀ l ∈ spanLinear a len, inImage s l = false) := by
    simp [imp_iff_not_or]
  have hwork : (!((spanLinear a len).any (inWorkMemory s))) = true ↔ ∀ l ∈ spanLinear a len, inWorkMemory s l = false := by
    simp
  rw [privCheck_governed hlen hgov, Bool.and_eq_true, Bool.and_eq_true, protAllows_iff hr, himage, hwork, and_assoc]
  simp only [spanLinear, List.forall_mem_map, List.mem_range]

theorem rmoRefusal_fence (segment : Nat) : rmoRefusal s cls n segment .fence 0 0 = none := rfl

/-- Settles O60: the enabled entries are listed in ascending number, so the model's search finds the entry that R461 names;
`privCheck` then asks the map about each byte. -/
theorem protectionMapDecidesEveryByte : Obligations.ProtectionMapDecidesEveryByte := by
  intro s cls n a len op hs hlen hgov
  have hcheck := privCheck_iff (cls := cls) (n := n) (op := op) hs.regs hlen hgov
  refine ⟨fun _ => ⟨fun h => (hcheck.1 h).1, fun h => hcheck.2 ?_⟩, rmoRefusal_fence⟩
  exact ⟨fun i hi => (h i hi).1, fun _ i hi => (h i hi).2.1, fun i hi => (h i hi).2.2⟩

end Sys2Proof.Machine

/-! What every command keeps: the queue, and the canonical form of the tables. -/

namespace Sys2Proof.Machine

open Sys2Proof

/-- What a command's effect on a state r may give: the queue is r's, and the tables are canonical where r's are. -/
structure Keeps (s₀ s : State) : Prop where
  pending : s.pending = s₀.pending
  canonical : Canonical s₀ → Canonical s

/-- A command goes on, to a state that keeps what `Keeps` says. -/
def Goes (s₀ : State) (o : Host.Outcome State Fault Refusal) : Prop := ∃ t, o = .next t ∧ Keeps s₀ t

variable {s₀ s : State}

theorem keeps_refl : Keeps s s := ⟨rfl, id⟩

theorem goes_next {t : State} (ht : Keeps s₀ t) : Goes s₀ (.next t) := ⟨t, rfl, ht⟩

/-- An update that keeps the form of every canonical state, and its queue. -/
theorem keeps_of_canonical {t : State} (hs : Keeps s₀ s) (hp : t.pending = s.pending) (hc : Canonical s → Canonical t) :
    Keeps s₀ t :=
  ⟨hp.trans hs.pending, fun hr => hc (hs.canonical hr)⟩

/-- An update that leaves the queue and the tables alone. -/
theorem keeps_of_tables {t : State} (hs : Keeps s₀ s)
    (h : (t.pending, t.mem, t.regs, t.engines, t.sessions, t.events)
      = (s.pending, s.mem, s.regs, s.engines, s.sessions, s.events)) : Keeps s₀ t := by
  simp only [Prod.mk.injEq] at h
  obtain ⟨hp, hm, hr, he, hk, hv⟩ := h
  exact keeps_of_canonical hs hp fun hc => canonical_of_tables hc hm hr he hk hv

theorem keeps_ite {c : Prop} [Decidable c] {t u : State} (ht : c → Keeps s₀ t) (hu : ¬c → Keeps s₀ u) :
    Keeps s₀ (if c then t else u) := by
  split
  · exact ht ‹_›
  · exact hu ‹_›

theorem keeps_foldl {β : Type} {f : State → β → State} {l : List β} (hf : ∀ s x, Keeps s₀ s → Keeps s₀ (f s x))
    (hs : Keeps s₀ s) : Keeps s₀ (l.foldl f s) := by
  induction l generalizing s with
  | nil => exact hs
  | cons x t ih => exact ih (hf s x hs)

theorem keeps_ite_st {c : Prop} [Decidable c] {x y : Ans} (hx : c → Keeps s₀ x.st) (hy : ¬c → Keeps s₀ y.st) :
    Keeps s₀ (if c then x else y).st := by
  split
  · exact hx ‹_›
  · exact hy ‹_›


/-- Changing every session in place keeps the order of their numbers. -/
theorem keysRise_map_fst {α β : Type} {g : Nat × α → Nat × β} (hg : ∀ y, (g y).1 = y.1) {l : List (Nat × α)}
    (h : keysRise l = true) : keysRise (l.map g) = true := by
  induction l with
  | nil => rfl
  | cons a t ih =>
    obtain ⟨h1, h2⟩ := keysRise_cons.1 h
    refine keysRise_cons.2 ⟨fun y hy => ?_, ih h2⟩
    obtain ⟨z, hz, rfl⟩ := List.mem_map.1 hy
    rw [hg, hg]
    exact h1 z hz

theorem keeps_of_eq {t : State} (h : s = t) (hs : Keeps s₀ s) : Keeps s₀ t := h ▸ hs

theorem goes_ite {c : Prop} [Decidable c] {o o' : Host.Outcome State Fault Refusal} (ho : c → Goes s₀ o)
    (ho' : ¬c → Goes s₀ o') :
    Goes s₀ (if c then o else o') := by
  split
  · exact ho ‹_›
  · exact ho' ‹_›

/-! ## The named updates of Ops -/

theorem keeps_regSet {a : Nat} {w : Word} (hs : Keeps s₀ s) : Keeps s₀ (regSet s a w) :=
  keeps_of_canonical hs rfl fun hc => canonical_regSet hc a w

theorem keeps_regSetF {a hi lo v : Nat} (hs : Keeps s₀ s) : Keeps s₀ (regSetF s a hi lo v) := keeps_regSet hs

theorem keeps_regCount {a hi lo n : Nat} (hs : Keeps s₀ s) : Keeps s₀ (regCount s a hi lo n) := keeps_regSet hs

theorem keeps_regWrap {a hi lo n : Nat} (hs : Keeps s₀ s) : Keeps s₀ (regWrap s a hi lo n) := keeps_regSet hs

theorem keeps_freeVal (hs : Keeps s₀ s) : Keeps s₀ (freeVal s).2 := keeps_of_tables hs rfl

theorem keeps_freeBytes {n : Nat} (hs : Keeps s₀ s) : Keeps s₀ (freeBytes s n).2 := keeps_of_tables hs rfl

theorem keeps_emit {o : Output} (hs : Keeps s₀ s) : Keeps s₀ (emit s o) := keeps_of_tables hs rfl

theorem keeps_logEvent {code : Nat} {unit : BitVec 16} {ctx : Option Nat} {detail : Bytes} (hs : Keeps s₀ s) :
    Keeps s₀ (logEvent s code unit ctx detail) :=
  keeps_of_canonical hs rfl fun hc => canonical_logEvent hc code unit ctx detail

theorem keeps_logOther {unit : BitVec 16} {ctx : Option Nat} {rule : Nat} (hs : Keeps s₀ s) :
    Keeps s₀ (logOther s unit ctx rule) :=
  keeps_logEvent hs

theorem keeps_notice {i : Nat} (hs : Keeps s₀ s) : Keeps s₀ (notice s i) := keeps_of_tables hs rfl

theorem keeps_beginHealth (hs : Keeps s₀ s) : Keeps s₀ (beginHealth s) := by
  unfold beginHealth
  exact keeps_ite (fun _ => keeps_of_tables hs rfl) fun _ => keeps_of_tables hs rfl

theorem keeps_bytesPut {a : Nat} {b : Bytes} (hs : Keeps s₀ s) : Keeps s₀ (bytesPut s a b) :=
  keeps_of_canonical hs rfl fun hc => canonical_bytesPut hc a b

theorem keeps_spanWrite {a : Nat} {b : Bytes} (hs : Keeps s₀ s) : Keeps s₀ (spanWrite s a b) :=
  keeps_of_canonical hs rfl fun hc => canonical_spanWrite hc a b

theorem keeps_poisonAdd {w : Nat} (hs : Keeps s₀ s) : Keeps s₀ (poisonAdd s w) := by
  unfold poisonAdd
  exact keeps_ite (fun _ => hs) fun _ => keeps_of_tables hs rfl

theorem keeps_softClear {lins : List Nat} (hs : Keeps s₀ s) : Keeps s₀ (softClear s lins) := by
  rw [softClear_eq]
  exact keeps_of_tables hs rfl

theorem keeps_poisonClear {lins : List Nat} (hs : Keeps s₀ s) : Keeps s₀ (poisonClear s lins) := by
  rw [(poisonClear_spec s lins).1]
  exact keeps_of_tables hs rfl

theorem keeps_storeBytes {a : Nat} {b : Bytes} (hs : Keeps s₀ s) : Keeps s₀ (storeBytes s a b) :=
  keeps_of_canonical hs (by rw [(storeBytes_spec s a b).2.2.2.2]) fun hc => canonical_storeBytes hc a b

theorem keeps_engSet {e : Nat} {x : Engine} (hs : Keeps s₀ s) : Keeps s₀ (engSet s e x) :=
  keeps_of_canonical hs rfl fun hc => canonical_engSet hc e x

theorem keeps_fenceEngine {e cause : Nat} (hs : Keeps s₀ s) : Keeps s₀ (fenceEngine s e cause) :=
  keeps_beginHealth (keeps_engSet hs)

theorem keeps_sessSet {n : Nat} {x : Session} (hs : Keeps s₀ s) : Keeps s₀ (sessSet s n x) :=
  keeps_of_canonical hs rfl fun hc => canonical_sessSet hc n x

theorem keeps_sessMap {n : Nat} {f : Session → Session} (hs : Keeps s₀ s) : Keeps s₀ (sessMap s n f) := by
  unfold sessMap
  split
  · exact keeps_sessSet hs
  · exact hs

theorem keeps_ctxMap {n : Nat} {f : Ctx → Ctx} (hs : Keeps s₀ s) : Keeps s₀ (ctxMap s n f) := keeps_of_tables hs rfl

theorem keeps_ctxFree {n : Nat} (hs : Keeps s₀ s) : Keeps s₀ (ctxFree s n) := keeps_of_tables hs rfl

theorem keeps_streamMap {n : Nat} {f : Stream → Stream} (hs : Keeps s₀ s) : Keeps s₀ (streamMap s n f) := keeps_of_tables hs rfl

/-! ## The operations of the model, in its order -/

theorem keeps_sramUncorrectable {lin : Nat} (hs : Keeps s₀ s) : Keeps s₀ (sramUncorrectable s lin) :=
  keeps_ite (fun _ => keeps_fenceEngine (keeps_engSet (keeps_notice
    (keeps_regSetF (keeps_regCount (keeps_logEvent (keeps_poisonAdd hs)))))))
    (fun _ => keeps_beginHealth (keeps_engSet (keeps_notice (keeps_regSetF
    (keeps_regCount (keeps_logEvent (keeps_poisonAdd hs)))))))

theorem keeps_stackUncorrectable {lin : Nat} (hs : Keeps s₀ s) : Keeps s₀ (stackUncorrectable s lin) := by
  unfold stackUncorrectable
  extract_lets st ch s1 s2 s3 s4 r times second s5 s6
  have hs1 : Keeps s₀ s1 := keeps_poisonAdd hs
  have hs2 : Keeps s₀ s2 := keeps_logEvent hs1
  have hs3 : Keeps s₀ s3 := keeps_regSetF (keeps_regCount hs2)
  have hs4 : Keeps s₀ s4 := keeps_notice hs3
  have hs5 : Keeps s₀ s5 := keeps_of_tables hs4 rfl
  have hs6 : Keeps s₀ s6 := keeps_ite (fun _ => keeps_of_tables hs5 rfl) (fun _ => hs5)
  exact keeps_beginHealth hs6

theorem keeps_sramCorrected {lin : Nat} (hs : Keeps s₀ s) : Keeps s₀ (sramCorrected s lin) :=
  keeps_regCount hs

theorem keeps_stackCorrected {lin : Nat} (hs : Keeps s₀ s) : Keeps s₀ (stackCorrected s lin) :=
  keeps_ite (fun _ => keeps_regCount hs) (fun _ => keeps_of_tables (keeps_regCount hs) rfl)

theorem keeps_outsideCode {lin : Nat} {stack : Bool} (hs : Keeps s₀ s) : Keeps s₀ (outsideCode s lin stack) :=
  keeps_ite (fun _ => keeps_ite (fun _ => keeps_stackUncorrectable (keeps_freeVal hs))
    (fun _ => keeps_sramUncorrectable (keeps_freeVal hs))) (fun _ => keeps_ite
    (fun _ => keeps_ite (fun _ => keeps_stackCorrected (keeps_bytesPut (keeps_freeBytes (keeps_freeVal hs))))
    (fun _ => keeps_sramCorrected (keeps_bytesPut (keeps_freeBytes (keeps_freeVal hs)))))
    (fun _ => keeps_bytesPut (keeps_freeBytes (keeps_freeVal hs))))

theorem keeps_codewordFind {lin : Nat} {err : Bytes} (hs : Keeps s₀ s) : Keeps s₀ (codewordFind s lin err) := by
  unfold codewordFind
  refine keeps_ite (fun _ => keeps_outsideCode hs) (fun _ => ?_)
  split
  · exact hs
  · exact keeps_stackCorrected hs
  · exact keeps_stackUncorrectable hs

theorem keeps_sramFind {lin bits : Nat} (hs : Keeps s₀ s) : Keeps s₀ (sramFind s lin bits) :=
  keeps_ite (fun _ => hs) (fun _ => keeps_ite (fun _ => keeps_ite (fun _ => hs)
    (fun _ => keeps_of_tables (keeps_sramCorrected hs) rfl)) (fun _ => keeps_ite (fun _ => keeps_sramUncorrectable hs)
    (fun _ => keeps_outsideCode hs)))

theorem keeps_eccFind {f : EccFind} (hs : Keeps s₀ s) : Keeps s₀ (eccFind s f) :=
  keeps_ite (fun _ => hs) (fun _ => keeps_ite (fun _ => keeps_codewordFind hs)
    (fun _ => keeps_ite (fun _ => keeps_sramFind hs) (fun _ => hs)))

theorem keeps_softRead {lins : List Nat} (hs : Keeps s₀ s) : Keeps s₀ (softRead s lins) :=
  keeps_ite (fun _ => hs) (fun _ => keeps_foldl (fun _ _ hs => keeps_sramCorrected hs) hs)

theorem keeps_eccScan {lins : List Nat} {finds : List EccFind} (hs : Keeps s₀ s) : Keeps s₀ (eccScan s lins finds) :=
  keeps_foldl (fun _ _ hs => keeps_eccFind hs) (keeps_softRead hs)

theorem keeps_waitFor {w : BoundaryCmd} (hs : Keeps s₀ s) : Keeps s₀ (waitFor s w) :=
  keeps_of_tables hs rfl

theorem keeps_takeSnapshot (hs : Keeps s₀ s) : Keeps s₀ (takeSnapshot s) := by
  unfold takeSnapshot
  extract_lets s1 s2 s3 h s4
  have hs1 : Keeps s₀ s1 := keeps_regSet hs
  have hs2 : Keeps s₀ s2 := keeps_of_tables hs1 rfl
  have hs3 : Keeps s₀ s3 := keeps_regSetF hs2
  have hs4 : Keeps s₀ s4 := keeps_regSetF hs3
  exact keeps_of_tables hs4 rfl

theorem keeps_retakeSnap (hs : Keeps s₀ s) : Keeps s₀ (retakeSnap s) :=
  keeps_of_tables (keeps_regSetF hs) rfl

theorem keeps_countRx {port : Nat} (hs : Keeps s₀ s) : Keeps s₀ (countRx s port) :=
  keeps_regWrap hs

theorem keeps_countTx {port : Nat} (hs : Keeps s₀ s) : Keeps s₀ (countTx s port) :=
  keeps_regWrap hs

theorem keeps_useSak {port iface : Nat} (hs : Keeps s₀ s) : Keeps s₀ (useSak s port iface) :=
  keeps_ite (fun _ => hs) (fun _ => keeps_of_tables hs rfl)

theorem keeps_sendFrame {port iface : Nat} {o : Output} (hs : Keeps s₀ s) : Keeps s₀ (sendFrame s port iface o) :=
  keeps_emit (keeps_countTx (keeps_useSak hs))

theorem keeps_filterFrame {port : Nat} (hs : Keeps s₀ s) : Keeps s₀ (filterFrame s port) :=
  keeps_regCount hs

theorem keeps_takeProtected {port iface : Nat} {an : BitVec 2} {pn : Nat} {z : Seal} {t : State} (hs : Keeps s₀ s)
    (ht : takeProtected s port iface an pn z = some t) : Keeps s₀ t := by
  unfold takeProtected at ht
  obtain ⟨k, -, hk⟩ := Option.bind_eq_some_iff.1 ht
  split at hk
  · cases hk
  · cases hk
    exact keeps_of_tables hs rfl

theorem keeps_pfcWatch {free : Nat} (hs : Keeps s₀ s) : Keeps s₀ (pfcWatch s free) :=
  keeps_ite (fun _ => keeps_foldl (fun _ _ hs => keeps_emit (keeps_countTx hs)) (keeps_of_tables hs rfl))
    (fun _ => keeps_ite (fun _ => keeps_foldl (fun _ _ hs => keeps_emit (keeps_countTx hs)) (keeps_of_tables hs rfl))
    (fun _ => hs))

theorem keeps_chargeReserve {port slots : Nat} {use : State → State} (hs : Keeps s₀ s)
    (hu : ∀ t, Keeps s₀ t → Keeps s₀ (use t)) : Keeps s₀ (chargeReserve s port slots use) :=
  keeps_ite (fun _ => keeps_regCount hs) (fun _ => keeps_pfcWatch (hu _ (keeps_countRx (keeps_pfcWatch hs))))

theorem keeps_keepPacket {n : Nat} {k : Kept} (hs : Keeps s₀ s) : Keeps s₀ (keepPacket s n k) :=
  keeps_sessMap hs

theorem keeps_sendRsp {n : Nat} {op : Byte} {reqPsn : BitVec 32} {code : Code} {payload : Bytes} (hs : Keeps s₀ s) :
    Keeps s₀ (sendRsp s n op reqPsn code payload) := by
  unfold sendRsp
  dsimp only
  split
  · exact keeps_ite (fun _ => keeps_sessSet (keeps_of_tables hs rfl)) (fun _ => keeps_keepPacket hs)
  · exact hs

theorem keeps_sendHeld {y : HeldFrame} (hs : Keeps s₀ s) : Keeps s₀ (sendHeld s y) := by
  unfold sendHeld
  split
  · exact keeps_sendFrame hs
  · exact keeps_sendFrame hs

theorem keeps_sendOrHold {port iface : Nat} {what : Outgoing} (hs : Keeps s₀ s) : Keeps s₀ (sendOrHold s port iface what) :=
  keeps_ite (fun _ => keeps_sendHeld hs) (fun _ => keeps_of_tables hs rfl)

theorem keeps_sendBoot {port iface addr udp : Nat} {r : Reply} (hs : Keeps s₀ s) :
    Keeps s₀ (sendBoot s port iface addr udp r) :=
  keeps_of_tables hs rfl

theorem keeps_sendReply {p : Packet} {opcode : Byte} {code : Code} {result : Bytes} {ev : BitVec 32} (hs : Keeps s₀ s) :
    Keeps s₀ (sendReply s p opcode code result ev) := by
  unfold sendReply
  dsimp only
  split
  · exact keeps_sendBoot hs
  · split
    · exact keeps_sendRsp (keeps_sessMap (keeps_ite (fun _ => keeps_emit hs) (fun _ => hs)))
    · exact keeps_sessMap (keeps_ite (fun _ => keeps_emit hs) (fun _ => hs))

theorem keeps_ringReserve {p : Packet} (hs : Keeps s₀ s) : Keeps s₀ (ringReserve s p) := by
  unfold ringReserve
  split
  · exact keeps_sessMap hs
  · exact hs

theorem keeps_postNow {q : Post} (hs : Keeps s₀ s) : Keeps s₀ (postNow s q) :=
  keeps_sessMap hs

theorem keeps_postEntry {p : Packet} {opcode : Byte} {code : Code} {result : Bytes} {ctx : Option Nat} {ev : BitVec 32}
    (hs : Keeps s₀ s) : Keeps s₀ (postEntry s p opcode code result ctx ev) := by
  unfold postEntry
  split
  · exact keeps_postNow hs
  · exact hs

theorem keeps_postLater {p : Packet} {opcode : Byte} {code : Code} {result : Bytes} {ctx : Option Nat} {ev : BitVec 32}
    (hs : Keeps s₀ s) : Keeps s₀ (postLater s p opcode code result ctx ev) := by
  unfold postLater
  split
  · exact keeps_of_tables hs rfl
  · exact hs

theorem keeps_replyLater {p : Packet} {opcode : Byte} {code : Code} {result : Bytes} {ev : BitVec 32} (hs : Keeps s₀ s) :
    Keeps s₀ (replyLater s p opcode code result ev) :=
  keeps_of_tables hs rfl

/-- An update of the sessions alone among the tables. -/
theorem keeps_of_sessions {t : State} (hs : Keeps s₀ s)
    (h : (t.pending, t.mem, t.regs, t.engines, t.events) = (s.pending, s.mem, s.regs, s.engines, s.events))
    (hk : keysRise s.sessions = true → keysRise t.sessions = true) : Keeps s₀ t := by
  simp only [Prod.mk.injEq] at h
  obtain ⟨hp, hm, hr, he, hv⟩ := h
  exact keeps_of_canonical hs hp fun hc => ⟨by rw [hm]; exact hc.mem, by rw [hr]; exact hc.regs, by rw [he]; exact hc.engines,
    hk hc.sessions, by rw [hv]; exact hc.events⟩

theorem keeps_flushPosts (hs : Keeps s₀ s) : Keeps s₀ (flushPosts s) := by
  unfold flushPosts
  extract_lets posts late s1 s2
  have hs1 : Keeps s₀ s1 := keeps_foldl (fun _ _ hs => keeps_postNow hs) (keeps_of_tables hs rfl)
  have hs2 : Keeps s₀ s2 := keeps_of_sessions hs1 rfl fun h => keysRise_map_fst (hg := by intro _; rfl) h
  exact keeps_foldl (fun _ _ hs => keeps_sendReply hs) hs2

theorem keeps_disown {n : Nat} (hs : Keeps s₀ s) : Keeps s₀ (disown s n) :=
  keeps_of_tables hs rfl

theorem keeps_openSession {n : Nat} {cls : Cls} {port iface addr udp window segment : Nat} {psnReq : BitVec 32}
    (hs : Keeps s₀ s) : Keeps s₀ (openSession s n cls port iface addr udp window segment psnReq) :=
  keeps_sessSet (keeps_disown (keeps_freeVal hs))

theorem keeps_closeStreams {n : Nat} (hs : Keeps s₀ s) : Keeps s₀ (closeStreams s n) :=
  keeps_of_tables hs rfl

theorem keeps_closeSession {n : Nat} (hs : Keeps s₀ s) : Keeps s₀ (closeSession s n) := by
  unfold closeSession
  split
  · exact hs
  · extract_lets s1 s2
    have hs1 : Keeps s₀ s1 := keeps_closeStreams (keeps_of_tables hs rfl)
    have hs2 : Keeps s₀ s2 := keeps_of_tables hs1 rfl
    exact keeps_ite (fun _ => keeps_of_sessions hs2 rfl fun hk => keysRise_sdel hk n) (fun _ => keeps_sessSet hs2)

theorem keeps_releaseSlots {n cost : Nat} (hs : Keeps s₀ s) : Keeps s₀ (releaseSlots s n cost) := by
  unfold releaseSlots
  split
  · exact hs
  · exact keeps_ite (fun _ => keeps_of_sessions hs rfl fun hk => keysRise_sdel hk n) (fun _ => keeps_sessSet hs)

theorem keeps_failSession {n : Nat} (hs : Keeps s₀ s) : Keeps s₀ (failSession s n) := by
  unfold failSession
  split
  · exact hs
  · exact keeps_closeSession (keeps_regCount (keeps_logEvent hs))

theorem keeps_retrainPort {port active : Nat} (hs : Keeps s₀ s) : Keeps s₀ (retrainPort s port active) := by
  unfold retrainPort
  extract_lets n s1 others fresh s2 gone s3
  have hs1 : Keeps s₀ s1 := keeps_regSetF (keeps_regSetF hs)
  have hs2 : Keeps s₀ s2 := keeps_of_tables hs1 rfl
  have hs3 : Keeps s₀ s3 := keeps_foldl (fun _ _ hs => keeps_failSession hs) hs2
  exact keeps_of_tables hs3 rfl

theorem keeps_idle (hs : Keeps s₀ s) : Keeps s₀ (idle s) :=
  keeps_of_tables hs rfl

theorem keeps_closeSeg (hs : Keeps s₀ s) : Keeps s₀ (closeSeg s) :=
  keeps_of_tables hs rfl

theorem keeps_setInc {inc : Nat} (hs : Keeps s₀ s) : Keeps s₀ (setInc s inc) :=
  keeps_of_tables (keeps_ite (fun _ => keeps_closeSeg hs) (fun _ => hs)) rfl

theorem keeps_setTime {new : TimeState} (hs : Keeps s₀ s) : Keeps s₀ (setTime s new) :=
  keeps_ite (fun _ => hs) (fun _ => keeps_of_tables (keeps_ite (fun _ => keeps_closeSeg (keeps_logEvent hs))
    (fun _ => keeps_logEvent hs)) rfl)

theorem keeps_ctxDigest {ctx layer : Nat} {h : BitVec 128} {partner : Bool} (hs : Keeps s₀ s) :
    Keeps s₀ (ctxDigest s ctx layer h partner) :=
  keeps_ite (fun _ => keeps_of_tables hs rfl) (fun _ => keeps_ctxMap hs)

theorem keeps_failAt {ctxs : List Nat} {c : Code} (hs : Keeps s₀ s) : Keeps s₀ (failAt s ctxs c) :=
  keeps_of_tables hs rfl

theorem keeps_failAll {r : Run} {c : Code} (hs : Keeps s₀ s) : Keeps s₀ (failAll s r c) :=
  keeps_failAt hs

theorem keeps_winRead {e off n : Nat} {finds : List EccFind} (hs : Keeps s₀ s) : Keeps s₀ (winRead s e off n finds).2.2 :=
  keeps_eccScan hs

theorem keeps_taintSet {a n : Nat} {bad : Bool} (hs : Keeps s₀ s) : Keeps s₀ (taintSet s a n bad) :=
  keeps_ite (fun _ => keeps_of_tables hs rfl) (fun _ => keeps_ite (fun _ => hs) (fun _ => keeps_of_tables hs rfl))

theorem keeps_winWrite {a : Nat} {b : Bytes} {bad : Bool} (hs : Keeps s₀ s) : Keeps s₀ (winWrite s a b bad).2 :=
  keeps_taintSet (keeps_ite (fun _ => keeps_bytesPut hs) (fun _ => keeps_storeBytes hs))

theorem keeps_winWriteAt {a : Nat} {b : Bytes} {bad : List Nat} (hs : Keeps s₀ s) : Keeps s₀ (winWriteAt s a b bad).2 := by
  unfold winWriteAt
  exact keeps_foldl (fun _ _ hs => keeps_taintSet hs) (keeps_winWrite hs)

theorem keeps_taskAt {e cycle rank : Nat} {t : Machine.Task} (hs : Keeps s₀ s) : Keeps s₀ (taskAt s e cycle rank t) :=
  keeps_of_tables hs rfl

theorem keeps_areaScan {e : Nat} {a : Area} {off n : Nat} {finds : List EccFind} (hs : Keeps s₀ s) :
    Keeps s₀ (areaScan s e a off n finds) :=
  keeps_winRead hs

theorem keeps_engNumev {e : Nat} {nanLost : Bool} {n : Nat} (hs : Keeps s₀ s) : Keeps s₀ (engNumev s e nanLost n) :=
  keeps_ite (fun _ => hs) (fun _ => keeps_ite (fun _ => keeps_regCount hs) (fun _ => keeps_regCount hs))

theorem keeps_doWload {e cycle : Nat} {b : Bundle} {finds : List EccFind} (hs : Keeps s₀ s) :
    Keeps s₀ (doWload s e cycle b finds) :=
  keeps_foldl (fun _ _ hs => keeps_taskAt hs) hs

theorem keeps_weightsStep {e : Nat} {r : Run} {o : OpRec} {cycle : Nat} {b : Bundle} {finds : List EccFind} {k : Nat}
    {got : Bytes} {bad : Bool} (hs : Keeps s₀ s) : Keeps s₀ (weightsStep s e r o cycle b finds k got bad) :=
  keeps_ite (fun _ => keeps_taskAt (keeps_ite (fun _ => keeps_failAll (keeps_winRead hs)) (fun _ => keeps_winRead hs)))
    (fun _ => keeps_taskAt (keeps_ite (fun _ => keeps_failAll (keeps_winRead hs)) (fun _ => keeps_winRead hs)))

theorem keeps_tileStep {e k : Nat} {t : Tile} (hs : Keeps s₀ s) : Keeps s₀ (tileStep s e k t) :=
  keeps_engSet hs

theorem keeps_accumulateTree {o : OpRec} {add : Bool} {lin : Nat} {old : List Word} {new : List Word} (hs : Keeps s₀ s) :
    Keeps s₀ (accumulateTree s o add lin old new).2.2 :=
  keeps_of_tables hs rfl

theorem keeps_failRow {r : Run} {slot : Option Nat} (hs : Keeps s₀ s) : Keeps s₀ (failRow s r slot) := by
  unfold failRow
  split
  · exact keeps_failAt hs
  · exact keeps_ite (fun _ => keeps_failAll hs) (fun _ => hs)

theorem keeps_doRows {e : Nat} {r : Run} {o : OpRec} {b : Bundle} {cycle : Nat} {finds : List EccFind} (hs : Keeps s₀ s) :
    Keeps s₀ (doRows s e r o b cycle finds) :=
  keeps_ite (fun _ => keeps_failAll (keeps_logOther (keeps_ite
    (fun _ => keeps_taskAt (keeps_ite (fun _ => keeps_failAll
    (keeps_foldl (fun _ _ hs => keeps_foldl (fun _ _ hs => keeps_areaScan hs) hs) hs))
    (fun _ => keeps_foldl (fun _ _ hs => keeps_foldl (fun _ _ hs => keeps_areaScan hs) hs) hs)))
    (fun _ => keeps_ite (fun _ => keeps_failAll (keeps_foldl (fun _ _ hs => keeps_foldl
    (fun _ _ hs => keeps_areaScan hs) hs) hs)) (fun _ => keeps_foldl
    (fun _ _ hs => keeps_foldl (fun _ _ hs => keeps_areaScan hs) hs) hs)))))
    (fun _ => keeps_taskAt (keeps_ite (fun _ => keeps_taskAt (keeps_ite
    (fun _ => keeps_failAll (keeps_foldl (fun _ _ hs => keeps_foldl (fun _ _ hs => keeps_areaScan hs) hs) hs))
    (fun _ => keeps_foldl (fun _ _ hs => keeps_foldl (fun _ _ hs => keeps_areaScan hs) hs) hs)))
    (fun _ => keeps_ite (fun _ => keeps_failAll (keeps_foldl (fun _ _ hs => keeps_foldl
    (fun _ _ hs => keeps_areaScan hs) hs) hs)) (fun _ => keeps_foldl
    (fun _ _ hs => keeps_foldl (fun _ _ hs => keeps_areaScan hs) hs) hs))))

theorem keeps_swapStep {e : Nat} {arrays : BitVec 4} (hs : Keeps s₀ s) : Keeps s₀ (swapStep s e arrays) :=
  keeps_foldl (fun _ _ hs => keeps_engSet hs) hs

theorem keeps_rowStep {e : Nat} {r : Run} {o : OpRec} {cycle : Nat} {b : Bundle} {finds : List EccFind} {j : Nat}
    {common : Bytes} {slot : Option Nat} (hs : Keeps s₀ s) : Keeps s₀ (rowStep s e r o cycle b finds j common slot) := by
  unfold rowStep
  refine keeps_ite (fun _ => keeps_taskAt (keeps_taskAt (keeps_ite
    (fun _ => keeps_failRow (keeps_ite (fun _ => keeps_failAll (keeps_winRead ?_)) (fun _ => keeps_winRead ?_)))
    (fun _ => keeps_ite (fun _ => keeps_failAll (keeps_winRead ?_)) (fun _ => keeps_winRead ?_)))))
    (fun _ => keeps_taskAt (keeps_ite (fun _ => keeps_failRow
    (keeps_ite (fun _ => keeps_failAll (keeps_winRead ?_)) (fun _ => keeps_winRead ?_)))
    (fun _ => keeps_ite (fun _ => keeps_failAll (keeps_winRead ?_)) (fun _ => keeps_winRead ?_))))
  · split
    · exact keeps_foldl (fun _ _ hs => keeps_areaScan hs) (keeps_ite (fun _ => hs) (fun _ => keeps_areaScan hs))
    · exact hs
  · split
    · exact keeps_foldl (fun _ _ hs => keeps_areaScan hs) (keeps_ite (fun _ => hs) (fun _ => keeps_areaScan hs))
    · exact hs
  · split
    · exact keeps_foldl (fun _ _ hs => keeps_areaScan hs) (keeps_ite (fun _ => hs) (fun _ => keeps_areaScan hs))
    · exact hs
  · split
    · exact keeps_foldl (fun _ _ hs => keeps_areaScan hs) (keeps_ite (fun _ => hs) (fun _ => keeps_areaScan hs))
    · exact hs
  · split
    · exact keeps_foldl (fun _ _ hs => keeps_areaScan hs) (keeps_ite (fun _ => hs) (fun _ => keeps_areaScan hs))
    · exact hs
  · split
    · exact keeps_foldl (fun _ _ hs => keeps_areaScan hs) (keeps_ite (fun _ => hs) (fun _ => keeps_areaScan hs))
    · exact hs
  · split
    · exact keeps_foldl (fun _ _ hs => keeps_areaScan hs) (keeps_ite (fun _ => hs) (fun _ => keeps_areaScan hs))
    · exact hs
  · split
    · exact keeps_foldl (fun _ _ hs => keeps_areaScan hs) (keeps_ite (fun _ => hs) (fun _ => keeps_areaScan hs))
    · exact hs

theorem keeps_castStep {e : Nat} {o : OpRec} {cycle : Nat} {b : Bundle} {finds : List EccFind} {j : Nat} {row : List Val}
    {ints : List ℤ} {bad : Bool} (hs : Keeps s₀ s) : Keeps s₀ (castStep s e o cycle b finds j row ints bad) :=
  keeps_taskAt (keeps_engNumev hs)

theorem keeps_sumsStep {e : Nat} {r : Run} {o : OpRec} {cycle : Nat} {b : Bundle} {finds : List EccFind} {j : Nat}
    {cols : List (Nat × List Word × Bool)} {slot : Option Nat} (hs : Keeps s₀ s) :
    Keeps s₀ (sumsStep s e r o cycle b finds j cols slot) := by
  unfold sumsStep
  dsimp only
  refine keeps_foldl (fun _ _ hs => keeps_taskAt (keeps_engNumev ?_)) hs
  split
  · refine keeps_accumulateTree (keeps_ite (fun _ => keeps_failRow ?_) (fun _ => ?_))
    · split
      · exact keeps_winRead hs
      · exact hs
    · split
      · exact keeps_winRead hs
      · exact hs
  · refine keeps_ite (fun _ => keeps_failRow ?_) (fun _ => ?_)
    · split
      · exact keeps_winRead hs
      · exact hs
    · split
      · exact keeps_winRead hs
      · exact hs

theorem keeps_putStep {e off : Nat} {data : Bytes} {bad jobs : List Nat} (hs : Keeps s₀ s) :
    Keeps s₀ (putStep s e off data bad jobs) :=
  keeps_ite (fun _ => keeps_failAt (keeps_winWriteAt hs)) (fun _ => keeps_winWriteAt hs)

theorem keeps_countFlags {late dropped : Bool} (hs : Keeps s₀ s) : Keeps s₀ (countFlags s late dropped) :=
  keeps_ite (fun _ => keeps_regCount (keeps_ite (fun _ => keeps_regCount hs) (fun _ => hs)))
    (fun _ => keeps_ite (fun _ => keeps_regCount hs) (fun _ => hs))

theorem keeps_postFrame {f : Frame} {code : Code} {o : FrameOut} (hs : Keeps s₀ s) : Keeps s₀ (postFrame s f code o) :=
  keeps_countFlags (keeps_postEntry hs)

theorem keeps_damageStream {n : Nat} {first : Code} {rest : Code} {o : FrameOut} (hs : Keeps s₀ s) :
    Keeps s₀ (damageStream s n first rest o) := by
  unfold damageStream
  split
  · exact hs
  · extract_lets s1 s2 s3
    have hs1 : Keeps s₀ s1 := keeps_regCount (keeps_logEvent hs)
    have hs2 : Keeps s₀ s2 := by
      unfold s2
      split
      · exact hs1
      · exact keeps_foldl (fun _ _ hs => keeps_postFrame hs) (keeps_postFrame hs1)
    have hs3 : Keeps s₀ s3 := keeps_streamMap hs2
    exact keeps_of_tables hs3 rfl

theorem keeps_headMap {n : Nat} {f : Frame → Frame} (hs : Keeps s₀ s) : Keeps s₀ (headMap s n f) :=
  keeps_streamMap hs

theorem keeps_runFrame {e : Nat} {y : Stream × Frame} (hs : Keeps s₀ s) : Keeps s₀ (runFrame s e y) :=
  keeps_ite (fun _ => keeps_of_tables hs rfl) (fun _ => keeps_headMap (keeps_of_tables hs rfl))

theorem keeps_codecPick {e : Nat} (hs : Keeps s₀ s) : Keeps s₀ (codecPick s e) := by
  unfold codecPick
  refine keeps_ite (fun _ => hs) (fun _ => ?_)
  split
  · exact keeps_runFrame hs
  · exact hs

theorem keeps_codecYield {e : Nat} (hs : Keeps s₀ s) : Keeps s₀ (codecYield s e) := by
  unfold codecYield
  split
  · exact keeps_ite (fun _ => hs) (fun _ => keeps_codecPick (keeps_of_tables (keeps_regCount (keeps_headMap hs)) rfl))
  · exact hs

theorem keeps_moveStream {n : Nat} (hs : Keeps s₀ s) : Keeps s₀ (moveStream s n) := by
  unfold moveStream
  split
  · exact hs
  · refine keeps_ite (fun _ => hs) (fun _ => ?_)
    split
    · exact keeps_damageStream hs
    · exact keeps_logEvent (keeps_streamMap hs)

theorem keeps_codecMoves (hs : Keeps s₀ s) : Keeps s₀ (codecMoves s) :=
  keeps_foldl (fun _ _ hs => keeps_codecPick hs) (keeps_foldl (fun _ _ hs => keeps_moveStream hs) hs)

theorem keeps_pmbus {op : PmbusOp} {rail : Nat} (hs : Keeps s₀ s) : Keeps s₀ (pmbus s op rail) := by
  unfold pmbus
  split
  · exact keeps_emit hs
  · exact hs

theorem keeps_railSwitch {on : Bool} {rail : Nat} (hs : Keeps s₀ s) : Keeps s₀ (railSwitch on s rail) := by
  have hp {t : State} {p : Power} (ht : Keeps s₀ t) : Keeps s₀ { t with power := p } := keeps_of_tables ht rfl
  exact hp (keeps_pmbus hs)

theorem keeps_setVdd {f : Nat} (hs : Keeps s₀ s) : Keeps s₀ (setVdd s f) :=
  keeps_foldl (fun _ _ hs => keeps_pmbus hs) (keeps_of_tables hs rfl)

theorem keeps_enableQuadrants (hs : Keeps s₀ s) : Keeps s₀ (enableQuadrants s) :=
  keeps_foldl (fun _ _ hs => keeps_railSwitch hs) (keeps_setVdd hs)

theorem keeps_enableRails {vppOk : Bool} (hs : Keeps s₀ s) : Keeps s₀ (enableRails s vppOk) :=
  keeps_ite (fun _ => keeps_enableQuadrants (keeps_foldl (fun _ _ hs => keeps_railSwitch hs) (keeps_railSwitch hs)))
    (fun _ => keeps_railSwitch hs)

theorem keeps_disableRails {rails : List Nat} (hs : Keeps s₀ s) : Keeps s₀ (disableRails s rails) :=
  keeps_foldl (fun _ _ hs => keeps_railSwitch hs) hs

theorem keeps_lowerF {f : Nat} (hs : Keeps s₀ s) : Keeps s₀ (lowerF s f) :=
  keeps_setVdd (keeps_regSetF hs)

theorem keeps_raiseF {f : Nat} {settled : Bool} (hs : Keeps s₀ s) : Keeps s₀ (raiseF s f settled) :=
  keeps_ite (fun _ => keeps_setVdd hs) (fun _ => keeps_ite (fun _ => keeps_regSetF hs) (fun _ => hs))

theorem keeps_voteField {off : Nat} {f : Fld} {t : State} (ht : Keeps s₀ t) : Keeps s₀ (voteField s off t f) := by
  unfold voteField
  extract_lets v log
  have hlog {t : State} {b : Bool} (ht : Keeps s₀ t) : Keeps s₀ (log t b) := keeps_regSetF (keeps_logEvent ht)
  exact keeps_ite (fun _ => keeps_regSetF ht) fun _ => keeps_ite (fun _ => keeps_regCount (hlog (keeps_regSetF ht))) fun _ =>
    keeps_ite (fun _ => keeps_regCount (hlog (keeps_regSetF ht))) fun _ => keeps_notice
      (keeps_regCount (hlog (keeps_regSetF ht)))

theorem keeps_voteFix {off : Nat} (hs : Keeps s₀ s) : Keeps s₀ (voteFix s off) := by
  unfold voteFix
  split
  · exact hs
  · exact keeps_ite (fun _ => hs) (fun _ => keeps_foldl (fun _ _ hs => keeps_voteField hs) (keeps_of_tables hs rfl))

theorem keeps_regTouch {off n : Nat} (hs : Keeps s₀ s) : Keeps s₀ (regTouch s off n) :=
  keeps_ite (fun _ => hs) (fun _ => keeps_foldl (fun _ _ hs => keeps_voteFix hs) hs)

theorem keeps_logRefusedLift {o : Nat} {w : Word} (hs : Keeps s₀ s) : Keeps s₀ (logRefusedLift s o w) :=
  keeps_ite (fun _ => keeps_foldl (fun _ _ hs => keeps_logEvent hs) hs)
    (fun _ => keeps_ite (fun _ => keeps_logEvent hs) (fun _ => keeps_ite
    (fun _ => keeps_foldl (fun _ _ hs => keeps_logEvent hs) hs) (fun _ => hs)))

theorem keeps_recomputeOpal (hs : Keeps s₀ s) : Keeps s₀ (recomputeOpal s) :=
  keeps_regSet (keeps_regSet (keeps_regSet (keeps_regSet hs)))

theorem keeps_rampFrom {n : Nat} (hs : Keeps s₀ s) : Keeps s₀ (rampFrom s n) :=
  keeps_of_tables hs rfl

theorem keeps_enterRamp (hs : Keeps s₀ s) : Keeps s₀ (enterRamp s) :=
  keeps_rampFrom hs

theorem keeps_checkImages (hs : Keeps s₀ s) : Keeps s₀ (checkImages s) :=
  keeps_foldl (fun _ _ hs => keeps_logEvent hs) (keeps_of_tables hs rfl)

theorem keeps_leaveStandby (hs : Keeps s₀ s) : Keeps s₀ (leaveStandby s) := by
  unfold leaveStandby
  have hs1 : Keeps s₀ (enterRamp (checkImages (enableQuadrants s))) := keeps_enterRamp
    (keeps_checkImages (keeps_enableQuadrants hs))
  generalize enterRamp (checkImages (enableQuadrants s)) = s1 at hs1 ⊢
  exact keeps_regSetF (keeps_of_tables hs1 rfl)

theorem keeps_installSak {port iface : Nat} {ws : List Word} (hs : Keeps s₀ s) : Keeps s₀ (installSak s port iface ws) :=
  keeps_of_tables hs rfl

theorem keeps_fenceWrite {e : Nat} {fence : Bool} (hs : Keeps s₀ s) : Keeps s₀ (fenceWrite s e fence) :=
  keeps_ite (fun _ => keeps_ite (fun _ => keeps_beginHealth hs) (fun _ => keeps_fenceEngine hs))
    (fun _ => keeps_ite (fun _ => keeps_beginHealth (keeps_engSet hs))
    (fun _ => keeps_ite (fun _ => keeps_beginHealth (keeps_engSet hs)) (fun _ => keeps_beginHealth hs)))

theorem keeps_calFenceSet {st : Nat} {mask : BitVec 16} (hs : Keeps s₀ s) : Keeps s₀ (calFenceSet s st mask) :=
  keeps_beginHealth (keeps_of_tables hs rfl)

theorem keeps_vidFenceSet {old new : Nat} (hs : Keeps s₀ s) : Keeps s₀ (vidFenceSet s old new) :=
  keeps_ite (fun _ => hs) (fun _ => keeps_beginHealth (keeps_codecMoves
    (keeps_foldl (fun _ _ hs => keeps_logEvent hs) (keeps_foldl (fun _ _ hs => keeps_notice (keeps_logEvent hs))
    (keeps_of_tables hs rfl)))))

theorem keeps_writeEffect {off : Nat} {ws : List Word} {o : Nat} {old w : Word} (hs : Keeps s₀ s) :
    Keeps s₀ (writeEffect s off ws o old w) := by
  have htb {t : State} {d : Discipline} (ht : Keeps s₀ t) : Keeps s₀ { t with disc := d } := keeps_of_tables ht rfl
  unfold writeEffect
  refine keeps_ite (fun _ => keeps_ite (fun _ => keeps_leaveStandby hs) (fun _ => hs)) fun _ =>
    keeps_ite (fun _ => keeps_ite (fun _ => htb hs) (fun _ => htb (keeps_setTime (htb hs)))) fun _ =>
    keeps_ite (fun _ => keeps_ite (fun _ => keeps_retrainPort hs) (fun _ => hs)) fun _ =>
    keeps_ite (fun _ => keeps_ite (fun _ => keeps_installSak hs) (fun _ => hs)) fun _ =>
    keeps_ite (fun _ => keeps_vidFenceSet hs) fun _ => ?_
  exact keeps_ite (fun _ => keeps_of_tables hs rfl) fun _ => keeps_ite (fun _ => keeps_of_tables hs rfl) fun _ =>
    keeps_ite (fun _ => keeps_fenceWrite hs) fun _ => keeps_ite (fun _ => keeps_calFenceSet hs) fun _ => hs

theorem keeps_storeWord {off : Nat} {ws : List Word} {o : Nat} {w : Word} (hs : Keeps s₀ s) :
    Keeps s₀ (storeWord s off ws o w) := by
  unfold storeWord
  split
  · exact hs
  · exact keeps_ite (fun _ => hs) (fun _ => keeps_ite (fun _ => keeps_of_tables hs rfl)
      (fun _ => keeps_of_tables (keeps_regSet hs) rfl))

theorem keeps_protGen {offs : List Nat} {t : State} (ht : Keeps s₀ t) : Keeps s₀ (protGen s t offs) :=
  keeps_ite (fun _ => keeps_logEvent (keeps_regWrap ht)) (fun _ => ht)

theorem keeps_regWrite {cls : Cls} {off : Nat} {ws : List Word} (hs : Keeps s₀ s) : Keeps s₀ (regWrite s cls off ws).2 := by
  unfold regWrite
  extract_lets +onlyGivenNames idx at_ w
  split
  · exact hs
  · split
    · exact hs
    · split
      · exact hs
      · split
        · exact keeps_logRefusedLift hs
        · extract_lets +onlyGivenNames s1 s2 s3 opal
          have hs1 : Keeps s₀ s1 := keeps_foldl (fun _ _ hs => keeps_storeWord hs) hs
          have hs2 : Keeps s₀ s2 := keeps_foldl (fun _ _ hs => keeps_writeEffect hs) hs1
          have hs3 : Keeps s₀ s3 := keeps_protGen hs2
          exact keeps_ite (fun _ => keeps_recomputeOpal hs3) (fun _ => hs3)

theorem keeps_memRead {a n : Nat} {ecc : List EccFind} (hs : Keeps s₀ s) : Keeps s₀ (memRead s a n ecc).2.2 := by
  unfold memRead
  dsimp only
  split
  · exact keeps_eccScan hs
  · exact keeps_eccScan hs

theorem keeps_memWrite {a : Nat} {b : Bytes} {ecc : List EccFind} (hs : Keeps s₀ s) : Keeps s₀ (memWrite s a b ecc).2 := by
  unfold memWrite
  dsimp only
  split
  · exact keeps_eccScan hs
  · exact keeps_of_tables (keeps_poisonClear (keeps_spanWrite (keeps_eccScan hs))) rfl

theorem keeps_memAdd {a : Nat} {addend : Bytes} {ecc : List EccFind} (hs : Keeps s₀ s) :
    Keeps s₀ (memAdd s a addend ecc).2.2 := by
  unfold memAdd
  dsimp only
  split
  · exact keeps_eccScan hs
  · exact keeps_spanWrite (keeps_eccScan hs)

theorem keeps_memCas {a : Nat} {operands : Bytes} {ecc : List EccFind} (hs : Keeps s₀ s) :
    Keeps s₀ (memCas s a operands ecc).2.2 := by
  unfold memCas
  dsimp only
  split
  · exact keeps_eccScan hs
  · exact keeps_ite (fun _ => keeps_spanWrite (keeps_eccScan hs)) (fun _ => keeps_eccScan hs)

theorem keeps_rmoEffect {cls : Cls} {n : Nat} {op : RmoOp} {a : Nat} {len : Nat} {payload : Bytes} {ecc : List EccFind}
    (hs : Keeps s₀ s) : Keeps s₀ (rmoEffect s cls n op a len payload ecc).2.2 := by
  unfold rmoEffect
  dsimp only
  split
  · split
    · split
      · exact keeps_regTouch hs
      · exact keeps_regTouch hs
    · exact keeps_regWrite hs
  · split
    · exact hs
    · exact hs
  · split
    · exact keeps_of_tables (keeps_eccScan hs) rfl
    · split
      · exact keeps_eccScan hs
      · exact keeps_eccScan hs
  · split
    · split
      · exact keeps_of_tables hs rfl
      · exact keeps_memRead hs
    · exact keeps_memWrite hs
    · exact keeps_memAdd hs
    · exact keeps_memAdd hs
    · exact keeps_memCas hs
    · exact hs

theorem keeps_qcKeep {line : Nat} (hs : Keeps s₀ s) : Keeps s₀ (qcKeep s line) :=
  keeps_ite (fun _ => keeps_of_tables hs rfl) (fun _ => keeps_ite (fun _ => hs)
    (fun _ => keeps_ite (fun _ => keeps_of_tables hs rfl) (fun _ => keeps_ite (fun _ => keeps_of_tables hs rfl)
    (fun _ => keeps_ite (fun _ => keeps_of_tables hs rfl) (fun _ => keeps_ite (fun _ => keeps_of_tables hs rfl) (fun _ => hs))))))

theorem keeps_qcTrim {st : Nat} (hs : Keeps s₀ s) : Keeps s₀ (qcTrim s st) :=
  keeps_of_tables hs rfl

theorem keeps_qcLine {hint line : Nat} (hs : Keeps s₀ s) : Keeps s₀ (qcLine s hint line) :=
  keeps_ite (fun _ => keeps_qcKeep hs) (fun _ => keeps_ite (fun _ => keeps_of_tables hs rfl) (fun _ => hs))

theorem keeps_qcAccess {hint : BitVec 8} {a : Nat} {n : Nat} (hs : Keeps s₀ s) : Keeps s₀ (qcAccess s hint a n) :=
  keeps_ite (fun _ => hs) (fun _ => keeps_foldl (fun _ _ hs => keeps_qcLine hs) hs)

theorem keeps_qcInvalidate {lin n : Nat} (hs : Keeps s₀ s) : Keeps s₀ (qcInvalidate s lin n) :=
  keeps_ite (fun _ => hs) (fun _ => keeps_of_tables hs rfl)

theorem keeps_refusedAccess {unit : BitVec 16} {ctxs : List Nat} {code : Code} (hs : Keeps s₀ s) :
    Keeps s₀ (refusedAccess s unit ctxs code) :=
  keeps_failAt (keeps_logOther hs)

theorem keeps_remoteDeviceWrite {unit : BitVec 16} {image : BitVec 64} {ctxs : List Nat} {op : Byte} {addr : BitVec 64}
    {b : Bytes} (hs : Keeps s₀ s) : Keeps s₀ (remoteDeviceWrite s unit image ctxs op addr b) := by
  unfold remoteDeviceWrite
  split
  · exact keeps_refusedAccess hs
  · exact keeps_foldl (fun _ _ hs => keeps_keepPacket hs) hs

theorem keeps_recordStore {e number visible : Nat} {lins : List Nat} (hs : Keeps s₀ s) :
    Keeps s₀ (recordStore s e number visible lins) :=
  keeps_of_tables hs rfl

theorem keeps_atomicStep {e : Nat} {r : Run} {cycle : Nat} {b : Bundle} {number a : Nat} {operands : Bytes}
    {mem : List EccFind} (hs : Keeps s₀ s) : Keeps s₀ (atomicStep s e r cycle b number a operands mem) :=
  keeps_engSet (keeps_ite (fun _ => keeps_failAt (keeps_eccScan hs))
    (fun _ => keeps_spanWrite (keeps_recordStore (keeps_eccScan hs))))

theorem keeps_forceAtomics {e : Nat} {lins : List Nat} (hs : Keeps s₀ s) : Keeps s₀ (forceAtomics s e lins) := by
  unfold forceAtomics
  dsimp only
  split
  · exact hs
  · refine keeps_foldl (fun _ _ hs => ?_) (keeps_of_tables hs rfl)
    split
    · exact keeps_atomicStep hs
    · exact hs

theorem keeps_noteStore {e number : Nat} {ctxs : List Nat} (hs : Keeps s₀ s) : Keeps s₀ (noteStore s e number ctxs) :=
  keeps_engSet hs

theorem keeps_poisonPlaces {lins bad : List Nat} (hs : Keeps s₀ s) : Keeps s₀ (poisonPlaces s lins bad) :=
  keeps_foldl (fun _ _ hs => keeps_poisonAdd hs) hs

/-- A fold over a state and a value beside it keeps what each of its steps keeps. -/
theorem keeps_foldl_fst {α β : Type} {f : State × α → β → State × α} {y : State × α} {l : List β}
    (hf : ∀ y x, Keeps s₀ y.1 → Keeps s₀ (f y x).1) (hs : Keeps s₀ y.1) : Keeps s₀ (l.foldl f y).1 := by
  induction l generalizing y with
  | nil => exact hs
  | cons x t ih => exact ih (hf y x hs)

theorem keeps_foldl_snd {α β : Type} {f : α × State → β → α × State} {y : α × State} {l : List β}
    (hf : ∀ y x, Keeps s₀ y.2 → Keeps s₀ (f y x).2) (hs : Keeps s₀ y.2) : Keeps s₀ (l.foldl f y).2 := by
  induction l generalizing y with
  | nil => exact hs
  | cons x t ih => exact ih (hf y x hs)

theorem keeps_schedWrite {e : Nat} {r : Run} {number : Nat} {outs : List (Nat × Nat)} {ctxs : List Nat} {hint : BitVec 8}
    {addr : BitVec 64} {b : Bytes} {land visible : Nat} {bad : List Nat} {finds : List EccFind} (hs : Keeps s₀ s) :
    Keeps s₀ (schedWrite s e r number outs ctxs hint addr b land visible bad finds) := by
  have hn {e : Nat} {x : Engine} {n : Nat} : Keeps s₀ { engSet s e x with moves := n } := keeps_of_tables (keeps_engSet hs) rfl
  unfold schedWrite
  refine keeps_ite (fun _ => hs) fun _ => keeps_ite (fun _ => keeps_remoteDeviceWrite hs) fun _ => ?_
  refine keeps_ite (fun _ => keeps_refusedAccess hs) fun _ => keeps_ite
    (fun _ => keeps_ite (fun _ => ?_) (fun _ => ?_)) fun _ => ?_
  · exact keeps_foldl_fst (fun _ _ hs => keeps_taskAt hs) hs
  · exact keeps_taskAt hn
  · extract_lets lins s1 s2 s3 s4 x s5
    have hs1 : Keeps s₀ s1 := keeps_forceAtomics hs
    have hs2 : Keeps s₀ s2 := keeps_qcAccess hs1
    have hs3 : Keeps s₀ s3 := keeps_ite (fun _ => hs2) (fun _ => keeps_eccScan hs2)
    have hs4 : Keeps s₀ s4 := keeps_ite (fun _ => hs3) (fun _ => keeps_failAt hs3)
    have hs5 : Keeps s₀ s5 := keeps_engSet hs4
    exact keeps_ite (fun _ => keeps_failAt hs4) (fun _ => keeps_poisonPlaces (keeps_storeBytes (keeps_recordStore hs5)))

theorem keeps_pickGranules {n : Nat} {l : List (Nat × Byte × Byte)} (hs : Keeps s₀ s) : Keeps s₀ (pickGranules s n l).2 := by
  induction n generalizing s l with
  | zero => exact hs
  | succ n ih =>
    cases l with
    | nil => exact hs
    | cons y t =>
      simp only [pickGranules]
      refine ih ?_
      split
      · exact hs
      · exact keeps_freeVal hs

theorem keeps_schedRead {e cycle : Nat} {lins : List Nat} (hs : Keeps s₀ s) : Keeps s₀ (schedRead s e cycle lins).2 := by
  unfold schedRead
  split
  · exact hs
  · exact keeps_pickGranules hs

theorem keeps_hashRow {ctx layer fmt : Nat} {scaled : Bool} {partner : Bool} {index : Nat → Nat} {valid : Nat → Bool}
    {bits : List Nat} {scales : List Byte} (hs : Keeps s₀ s) :
    Keeps s₀ (hashRow s ctx layer fmt scaled partner index valid bits scales) :=
  keeps_ite (fun _ => hs) (fun _ => keeps_ctxDigest hs)

theorem keeps_epiWrite {c : EpiCtx} {ctx : Nat} {bad : Bool} {outs : List (Nat × Nat)} {lag : Nat} {a : BitVec 64} {b : Bytes}
    (hs : Keeps s₀ s) : Keeps s₀ (epiWrite c ctx bad outs lag s a b) :=
  keeps_schedWrite hs

theorem keeps_epiAux {c : EpiCtx} {ctx : Nat} {p : RowPos} {j : Nat} {bad : Bool} {k : Nat} {off : Nat} {b : Bytes}
    (hs : Keeps s₀ s) : Keeps s₀ (epiAux c ctx p j bad s k off b) := by
  unfold epiAux
  split
  · exact hs
  · exact keeps_epiWrite hs

theorem keeps_epiStore {c : EpiCtx} {job : Ctx} {row : RowPos} {slot : Nat} {j : Nat} {addr : BitVec 64} {acc : List Word}
    {bad : Bool} (hs : Keeps s₀ s) : Keeps s₀ (epiStore c job row slot j addr acc bad s) :=
  keeps_ite (fun _ => keeps_epiAux (keeps_ite (fun _ => keeps_epiWrite hs) (fun _ => keeps_epiWrite hs)))
    (fun _ => keeps_ite (fun _ => keeps_epiAux (keeps_ite (fun _ => keeps_epiAux
    (keeps_hashRow (keeps_ite (fun _ => keeps_epiWrite (keeps_engNumev hs)) (fun _ => keeps_epiWrite (keeps_engNumev hs)))))
    (fun _ => keeps_hashRow (keeps_ite (fun _ => keeps_epiWrite (keeps_engNumev hs))
    (fun _ => keeps_epiWrite (keeps_engNumev hs)))))) (fun _ => keeps_ite
    (fun _ => keeps_epiAux (keeps_hashRow (keeps_ite (fun _ => keeps_epiWrite (keeps_engNumev hs))
    (fun _ => keeps_epiWrite (keeps_engNumev hs))))) (fun _ => keeps_hashRow
    (keeps_ite (fun _ => keeps_epiWrite (keeps_engNumev hs)) (fun _ => keeps_epiWrite (keeps_engNumev hs))))))

theorem keeps_epiStat {c : EpiCtx} {job : Ctx} {p : RowPos} {j : Nat} {addr : BitVec 64} {acc : List Word} {bad : Bool}
    (hs : Keeps s₀ s) : Keeps s₀ (epiStat c job p j addr acc bad s) :=
  keeps_epiWrite hs

theorem keeps_partsScan {e : Nat} {finds : List EccFind} {ps : List (Nat × Nat)} (hs : Keeps s₀ s) :
    Keeps s₀ (partsScan s e finds ps) :=
  keeps_foldl (fun _ _ hs => keeps_winRead hs) hs

theorem keeps_epiRow {c : EpiCtx} {j : Nat} {bytes : Bytes} {badAm : Bool} (hs : Keeps s₀ s) :
    Keeps s₀ (epiRow c s j bytes badAm) := by
  unfold epiRow
  refine keeps_foldl (fun _ _ hs => ?_) (keeps_ite (fun _ => keeps_failAll (keeps_partsScan hs))
    (fun _ => keeps_partsScan hs))
  split
  · exact hs
  · exact keeps_ite (fun _ => keeps_epiStat (keeps_ite (fun _ => keeps_failAt hs) (fun _ => hs)))
      (fun _ => keeps_epiStore (keeps_ite (fun _ => keeps_failAt hs) (fun _ => hs)))

theorem keeps_epiRows {c : EpiCtx} {n j : Nat} {got : Bytes} {bad : List Nat} (hs : Keeps s₀ s) :
    Keeps s₀ (epiRows c n s j got bad).1 := by
  induction n generalizing s j got bad with
  | zero => exact hs
  | succ n ih =>
    unfold epiRows
    split
    · exact hs
    · exact ih (keeps_epiRow hs)

theorem keeps_epiRead {c : EpiCtx} {at_ number j : Nat} {got : Bytes} {bad : List Nat} (hs : Keeps s₀ s) :
    Keeps s₀ (epiRead c s at_ number j got bad) := by
  unfold epiRead
  extract_lets done n s1
  have hs1 : Keeps s₀ s1 := keeps_ite (fun _ => keeps_winRead hs) fun _ => hs
  clear_value s1
  have hr : Keeps s₀ (winRead s1 c.e (amBase + c.b.amOff + done) n c.finds).2.2 := keeps_winRead hs1
  generalize winRead s1 c.e (amBase + c.b.amOff + done) n c.finds = y at hr ⊢
  obtain ⟨bytes, _, s2⟩ := y
  dsimp only at hr ⊢
  exact keeps_ite (fun _ => keeps_epiRows hr) fun _ => keeps_taskAt (keeps_epiRows hr)

theorem keeps_epiStep {e : Nat} {r : Run} {o : OpRec} {at_ : Nat} {b : Bundle} {cycle : Nat} {number : Nat}
    {finds : List EccFind} {mem : List EccFind} {j : Nat} {got : Bytes} {bad : List Nat} (hs : Keeps s₀ s) :
    Keeps s₀ (epiStep s e r o at_ b cycle number finds mem j got bad) :=
  keeps_ite (fun _ => keeps_epiRead hs) (fun _ => keeps_ite (fun _ => keeps_failAt
    (keeps_logOther (keeps_ite (fun _ => keeps_failAll (keeps_partsScan hs)) (fun _ => keeps_partsScan hs))))
    (fun _ => keeps_ite (fun _ => keeps_failAt (keeps_logOther
    (keeps_ite (fun _ => keeps_failAll (keeps_partsScan hs)) (fun _ => keeps_partsScan hs))))
    (fun _ => keeps_epiRead (keeps_ite (fun _ => keeps_logOther
    (keeps_ite (fun _ => keeps_failAll (keeps_partsScan hs)) (fun _ => keeps_partsScan hs)))
    (fun _ => keeps_ite (fun _ => keeps_failAll (keeps_partsScan hs)) (fun _ => keeps_partsScan hs))))))

theorem keeps_refuse {c : Code} (hs : Keeps s₀ s) : Keeps s₀ (refuse s c).st :=
  hs

theorem keeps_done {result : Bytes} (hs : Keeps s₀ s) : Keeps s₀ (done s result).st :=
  hs

theorem keeps_accepted {p : Packet} {result : Bytes} (hs : Keeps s₀ s) : Keeps s₀ (accepted s p result).st :=
  keeps_ringReserve hs

theorem keeps_atNext (hs : Keeps s₀ s) : Keeps s₀ (atNext s).st :=
  hs

theorem keeps_openChallenge (hs : Keeps s₀ s) : Keeps s₀ (openChallenge s).st := by
  have hset {t : State} {x : List Challenge} (ht : Keeps s₀ t) : Keeps s₀ { t with challenges := x } := keeps_of_tables ht rfl
  exact keeps_done (hset (keeps_freeBytes hs))

theorem keeps_openClaim {p : Packet} {port : Nat} {iface addr udp : Nat} (hs : Keeps s₀ s) :
    Keeps s₀ (openClaim s p port iface addr udp).st := by
  unfold openClaim
  dsimp only
  split
  · exact keeps_refuse hs
  · split
    · exact keeps_refuse hs
    · split
      · exact keeps_refuse hs
      · split
        · exact keeps_refuse hs
        · exact keeps_done (keeps_openSession (keeps_of_tables hs rfl))

theorem keeps_openReserve {p : Packet} {n : Nat} (hs : Keeps s₀ s) : Keeps s₀ (openReserve s p n).st := by
  have hset {t : State} {x : List Reservation} (ht : Keeps s₀ t) : Keeps s₀ { t with reservations := x } := keeps_of_tables ht rfl
  unfold openReserve
  split
  · exact keeps_refuse hs
  · exact keeps_refuse hs
  · split
    · exact keeps_refuse hs
    · exact keeps_done (hset (keeps_freeBytes hs))

theorem keeps_openAdmit {p : Packet} {port : Nat} {iface addr udp : Nat} (hs : Keeps s₀ s) :
    Keeps s₀ (openAdmit s p port iface addr udp).st := by
  unfold openAdmit
  dsimp only
  split
  · exact keeps_refuse hs
  · split
    · exact keeps_refuse hs
    · exact keeps_done (keeps_openSession (keeps_of_tables hs rfl))

theorem keeps_cmdSessionOpen {w : Who} {p : Packet} (hs : Keeps s₀ s) : Keeps s₀ (cmdSessionOpen w p s).st := by
  unfold cmdSessionOpen
  dsimp only
  split
  · split
    · exact keeps_refuse hs
    · split
      · exact keeps_refuse hs
      · split
        · exact keeps_refuse hs
        · exact keeps_openReserve hs
  · split
    · exact keeps_refuse hs
    · split
      · exact keeps_refuse hs
      · split
        · exact keeps_openChallenge hs
        · split
          · exact keeps_openClaim hs
          · exact keeps_openAdmit hs

theorem keeps_cmdSessionClose {w : Who} {p : Packet} (hs : Keeps s₀ s) : Keeps s₀ (cmdSessionClose w p s).st := by
  unfold cmdSessionClose
  dsimp only
  split
  · exact keeps_refuse hs
  · split
    · exact hs
    · split
      · exact keeps_refuse hs
      · split
        · exact keeps_refuse hs
        · exact keeps_done (keeps_closeSession hs)

theorem keeps_cmdPing {w : Who} {p : Packet} (hs : Keeps s₀ s) : Keeps s₀ (cmdPing w p s).st :=
  keeps_done hs

theorem keeps_cmdRegRead {w : Who} {p : Packet} (hs : Keeps s₀ s) : Keeps s₀ (cmdRegRead w p s).st := by
  unfold cmdRegRead
  dsimp only
  split
  · exact keeps_refuse hs
  · split
    · exact keeps_done (keeps_regTouch hs)
    · exact keeps_refuse hs

theorem keeps_cmdRegWrite {w : Who} {p : Packet} (hs : Keeps s₀ s) : Keeps s₀ (cmdRegWrite w p s).st := by
  unfold cmdRegWrite
  dsimp only
  split
  · exact keeps_refuse hs
  · exact keeps_regWrite hs

theorem keeps_cmdTimeQuery {w : Who} {p : Packet} (hs : Keeps s₀ s) : Keeps s₀ (cmdTimeQuery w p s).st :=
  keeps_done hs

theorem keeps_cmdJobQuery {w : Who} {p : Packet} (hs : Keeps s₀ s) : Keeps s₀ (cmdJobQuery w p s).st := by
  unfold cmdJobQuery
  split
  · exact keeps_refuse hs
  · split
    · exact keeps_done hs
    · exact keeps_refuse hs

theorem keeps_cmdDigestRead {w : Who} {p : Packet} (hs : Keeps s₀ s) : Keeps s₀ (cmdDigestRead w p s).st := by
  unfold cmdDigestRead
  split
  · exact keeps_refuse hs
  · split
    · exact keeps_refuse hs
    · split
      · exact keeps_refuse hs
      · exact keeps_done hs

theorem keeps_cmdTelemetry {w : Who} {p : Packet} (hs : Keeps s₀ s) : Keeps s₀ (cmdTelemetry w p s).st := by
  unfold cmdTelemetry
  dsimp only
  split
  · exact keeps_refuse hs
  · split
    · exact keeps_done hs
    · split
      · exact keeps_refuse hs
      · split
        · exact keeps_refuse hs
        · exact keeps_done hs

theorem keeps_pagePut {p : Page} (hs : Keeps s₀ s) : Keeps s₀ (pagePut s p) :=
  keeps_storeBytes (keeps_of_tables hs rfl)

theorem keeps_pageFree {p : Page} (hs : Keeps s₀ s) : Keeps s₀ (pageFree s p) :=
  keeps_storeBytes (keeps_of_tables hs rfl)

theorem keeps_pageRelease {id : BitVec 24} (hs : Keeps s₀ s) : Keeps s₀ (pageRelease s id) := by
  unfold pageRelease
  split
  · exact hs
  · exact keeps_ite (fun _ => keeps_pageFree hs) (fun _ => keeps_pagePut hs)

theorem keeps_mapSet {c : Ctx} {layer : Nat} {kind x : Nat} {v : Option (BitVec 24)} (hs : Keeps s₀ s) :
    Keeps s₀ (mapSet s c layer kind x v) :=
  keeps_ite (fun _ => hs) (fun _ => keeps_storeBytes hs)

theorem keeps_beginHold {r : Run} {e : Nat} {b : Bundle} {mask : BitVec 16} (hs : Keeps s₀ s) :
    Keeps s₀ (beginHold s r e b mask) :=
  keeps_ite (fun _ => hs) (fun _ => keeps_engSet hs)

theorem keeps_endHold {e cycle : Nat} (hs : Keeps s₀ s) : Keeps s₀ (endHold s e cycle) := by
  unfold endHold
  dsimp only
  split
  · exact hs
  · exact keeps_ite (fun _ => hs) (fun _ => keeps_engSet hs)

theorem keeps_settleBytes {e : Nat} {f : Inflight} (hs : Keeps s₀ s) : Keeps s₀ (settleBytes s e f).2 := by
  unfold settleBytes
  dsimp only
  refine keeps_foldl_snd (fun y x hs => ?_) hs
  obtain ⟨old, t⟩ := y
  obtain ⟨at_, a, n⟩ := x
  exact keeps_pickGranules hs

theorem keeps_inflightSet {e : Nat} {f : Inflight} (hs : Keeps s₀ s) : Keeps s₀ (inflightSet s e f) :=
  keeps_engSet hs

theorem keeps_landBytes {e : Nat} {f : Inflight} {n : Nat} (hs : Keeps s₀ s) : Keeps s₀ (landBytes s e f n).2 :=
  keeps_ite (fun _ => keeps_settleBytes hs) (fun _ => keeps_putStep (keeps_settleBytes hs))

theorem keeps_fillStep {e cycle number : Nat} (hs : Keeps s₀ s) : Keeps s₀ (fillStep s e cycle number) := by
  unfold fillStep
  split
  · exact hs
  · exact keeps_ite (fun _ => hs) (fun _ => keeps_ite (fun _ => keeps_taskAt (keeps_inflightSet (keeps_landBytes hs)))
      (fun _ => keeps_inflightSet (keeps_landBytes hs)))

theorem keeps_landRest256 {e cycle rank : Nat} {tag : Option (BitVec 4)} {off : Nat} {data : Bytes} {bad jobs : List Nat}
    (hs : Keeps s₀ s) : Keeps s₀ (landRest256 s e cycle rank tag off data bad jobs) :=
  keeps_foldl (fun _ _ hs => keeps_taskAt hs) hs

theorem keeps_arrivalStep {e cycle number : Nat} (hs : Keeps s₀ s) : Keeps s₀ (arrivalStep s e cycle number) := by
  unfold arrivalStep
  split
  · exact hs
  · exact keeps_ite (fun _ => keeps_taskAt (keeps_engSet (keeps_putStep hs))) (fun _ => keeps_engSet (keeps_putStep hs))

theorem keeps_pullStep {e cycle number a : Nat} {finds : List EccFind} {left : Nat} (hs : Keeps s₀ s) :
    Keeps s₀ (pullStep s e cycle number a finds left) := by
  unfold pullStep
  split
  · exact hs
  · exact keeps_ite (fun _ => keeps_taskAt (keeps_inflightSet
      (keeps_ite (fun _ => keeps_failAt (keeps_eccScan hs)) (fun _ => keeps_eccScan hs))))
      (fun _ => keeps_inflightSet (keeps_ite (fun _ => keeps_failAt (keeps_eccScan hs)) (fun _ => keeps_eccScan hs)))

theorem keeps_elim {α : Type} {o : Option α} {f : α → State} (hs : Keeps s₀ s) (hf : ∀ x, Keeps s₀ (f x)) :
    Keeps s₀ (o.elim s f) := by
  cases o with
  | none => exact hs
  | some x => exact hf x

theorem keeps_runTask {x : Timed} (hs : Keeps s₀ s) : Keeps s₀ (runTask s x) := by
  obtain ⟨c, rank, e, t⟩ := x
  cases t with
  | put | land => exact keeps_putStep hs
  | tile => exact keeps_tileStep hs
  | swap => exact keeps_swapStep hs
  | fill => exact keeps_fillStep hs
  | arrival => exact keeps_arrivalStep hs
  | pull => exact keeps_pullStep hs
  | row =>
    simp only [runTask]
    split
    · exact hs
    · exact keeps_elim hs fun _ => keeps_rowStep hs
  | cast =>
    simp only [runTask]
    split
    · exact hs
    · exact keeps_elim hs fun _ => keeps_castStep hs
  | sums =>
    simp only [runTask]
    split
    · exact hs
    · exact keeps_elim hs fun _ => keeps_sumsStep hs
  | weights =>
    simp only [runTask]
    split
    · exact hs
    · exact keeps_elim hs fun _ => keeps_weightsStep hs
  | epi =>
    simp only [runTask]
    split
    · exact hs
    · exact keeps_elim hs fun _ => keeps_epiStep hs
  | atomic =>
    simp only [runTask]
    split
    · exact hs
    · exact keeps_atomicStep hs

theorem keeps_settle {cycle n : Nat} (hs : Keeps s₀ s) : Keeps s₀ (settle s cycle n) := by
  induction n generalizing s with
  | zero => exact hs
  | succ n ih =>
    unfold settle
    split
    · exact hs
    · exact keeps_ite (fun _ => ih (keeps_runTask (keeps_of_tables hs rfl))) (fun _ => hs)

theorem keeps_settled {cycle : Nat} (hs : Keeps s₀ s) : Keeps s₀ (settled s cycle) :=
  keeps_settle hs

theorem keeps_countLate {f : Inflight} {late : Bool} (hs : Keeps s₀ s) : Keeps s₀ (countLate s f late) :=
  keeps_ite (fun _ => hs) (fun _ => keeps_foldl (fun _ _ hs => keeps_ite (fun _ => keeps_regCount hs)
    (fun _ => keeps_of_tables (keeps_regCount hs) rfl)) hs)

theorem keeps_noteLate {late : Bool} {cycle : Nat} (hs : Keeps s₀ s) : Keeps s₀ (noteLate s late cycle) :=
  keeps_ite (fun _ => keeps_of_tables hs rfl) (fun _ => hs)

theorem keeps_landCompletion {e : Nat} {f : Inflight} {cycle : Nat} (hs : Keeps s₀ s) :
    Keeps s₀ (landCompletion s e f cycle) :=
  keeps_endHold (keeps_engSet (keeps_noteLate (keeps_countLate (keeps_landRest256 (keeps_settleBytes hs)))))

theorem keeps_landUntagged {e cycle : Nat} (hs : Keeps s₀ s) : Keeps s₀ (landUntagged s e cycle) :=
  keeps_ite (fun _ => hs) (fun _ => keeps_foldl (fun _ _ hs => keeps_landCompletion hs) (keeps_engSet hs))

theorem keeps_advance {n : Nat} (hs : Keeps s₀ s) : Keeps s₀ (advance s n) := by
  induction n generalizing s with
  | zero => exact hs
  | succ n ih =>
    unfold advance
    split
    · exact hs
    · exact keeps_ite (fun _ => ih (keeps_runTask (keeps_of_tables hs rfl))) (fun _ => hs)

theorem keeps_fetchErrors {e : Nat} {r : Run} {cls : BundleClass} {b : Bundle} {finds : List EccFind} (hs : Keeps s₀ s) :
    Keeps s₀ (fetchErrors s e r cls b finds) :=
  keeps_ite (fun _ => hs) (fun _ => keeps_ite (fun _ => keeps_failAt (keeps_eccScan hs)) (fun _ => keeps_eccScan hs))

theorem keeps_landAwaited {e cycle : Nat} {mask : BitVec 16} (hs : Keeps s₀ s) : Keeps s₀ (landAwaited s e cycle mask) :=
  keeps_ite (fun _ => hs) (fun _ => keeps_foldl (fun _ _ hs => keeps_runTask hs) (keeps_of_tables hs rfl))

theorem keeps_issueBundle {cls : BundleClass} {v : BundleEvent} {f : Run → Nat → State → State}
    (hf : ∀ r c t, Keeps s₀ t → Keeps s₀ (f r c t)) (hs : Keeps s₀ s) : Keeps s₀ (issueBundle cls v f s) := by
  obtain h | ⟨r, -, -, ⟨-, h⟩ | ⟨-, h⟩⟩ := issueBundle_cases cls v f s <;> rw [h]
  · exact hs
  · exact keeps_beginHold hs
  · exact hf _ _ _ (keeps_engSet (keeps_fetchErrors (keeps_landAwaited (keeps_landUntagged (keeps_settled hs)))))

theorem keeps_rmoNote {e number cycle : Nat} (hs : Keeps s₀ s) : Keeps s₀ (rmoNote s e number cycle) :=
  keeps_engSet hs

theorem keeps_launch {e : Nat} {f : Inflight} (hs : Keeps s₀ s) : Keeps s₀ (launch s e f) :=
  keeps_ite (fun _ => keeps_engSet hs) (fun _ => keeps_taskAt (keeps_engSet hs))

theorem keeps_noteCasts {e : Nat} {o : OpRec} {b : Bundle} {cycle : Nat} (hs : Keeps s₀ s) :
    Keeps s₀ (noteCasts s e o b cycle) :=
  keeps_foldl (fun _ _ hs => keeps_engSet hs) hs

theorem keeps_execNop {v : BundleEvent} (hs : Keeps s₀ s) : Goes s₀ (execNop v s) :=
  goes_next (keeps_issueBundle (fun _ _ _ hs => hs) (keeps_of_tables hs rfl))

theorem keeps_execRows {v : BundleEvent} (hs : Keeps s₀ s) : Goes s₀ (execRows v s) := by
  unfold execRows
  refine goes_next (keeps_issueBundle (fun _ _ _ hs => ?_) (keeps_of_tables hs rfl))
  split
  · exact hs
  · exact keeps_noteCasts (keeps_doRows hs)

theorem keeps_execWload {v : BundleEvent} (hs : Keeps s₀ s) : Goes s₀ (execWload v s) :=
  goes_next (keeps_issueBundle (fun _ _ _ hs => keeps_doWload hs) (keeps_of_tables hs rfl))

theorem keeps_execEpi {v : BundleEvent} (hs : Keeps s₀ s) : Goes s₀ (execEpi v s) := by
  unfold execEpi
  refine goes_next (keeps_issueBundle (fun _ _ _ hs => ?_) (keeps_of_tables hs rfl))
  split
  · exact hs
  · exact keeps_ite (fun _ => keeps_rmoNote (keeps_taskAt (keeps_noteStore hs))) (fun _ => keeps_taskAt (keeps_noteStore hs))

theorem keeps_failPart {x : Machine.Part} {bad : Bool} (hs : Keeps s₀ s) : Keeps s₀ (failPart s x bad) :=
  keeps_ite (fun _ => keeps_failAt hs) (fun _ => hs)

theorem keeps_foldl_snd_snd {α β γ : Type} {f : α × β × State → γ → α × β × State}
    (hf : ∀ y x, Keeps s₀ y.2.2 → Keeps s₀ (f y x).2.2) {y : α × β × State} (hs : Keeps s₀ y.2.2) {l : List γ} :
    Keeps s₀ (l.foldl f y).2.2 := by
  induction l generalizing y with
  | nil => exact hs
  | cons x t ih => exact ih (hf y x hs)

theorem keeps_readParts {e cycle : Nat} {hint : BitVec 8} {parts : List Part} (hs : Keeps s₀ s) :
    Keeps s₀ (readParts s e cycle hint parts).2.2 := by
  refine keeps_foldl_snd_snd (fun y x hs => ?_) hs
  dsimp only
  split
  · exact hs
  · exact keeps_schedRead (keeps_qcAccess (keeps_failPart hs))

theorem keeps_execMread {v : BundleEvent} (hs : Keeps s₀ s) : Goes s₀ (execMread v s) :=
  goes_next (keeps_issueBundle (fun _ _ _ hs => keeps_ite (fun _ => keeps_launch
    (keeps_rmoNote (keeps_ite (fun _ => hs) (fun _ => keeps_refusedAccess hs))))
    (fun _ => keeps_ite (fun _ => keeps_taskAt (keeps_launch (keeps_rmoNote
    (keeps_ite (fun _ => hs) (fun _ => keeps_refusedAccess hs)))))
    (fun _ => keeps_launch (keeps_rmoNote (keeps_readParts (keeps_eccScan
    (keeps_forceAtomics (keeps_ite (fun _ => hs) (fun _ => keeps_refusedAccess hs))))))))) (keeps_of_tables hs rfl))

theorem keeps_execMwrite {v : BundleEvent} (hs : Keeps s₀ s) : Goes s₀ (execMwrite v s) :=
  goes_next (keeps_issueBundle (fun _ _ _ hs => keeps_ite (fun _ => keeps_schedWrite
    (keeps_foldl (fun _ _ hs => keeps_failPart hs) (keeps_noteStore
    (keeps_ite (fun _ => keeps_rmoNote (keeps_winRead hs)) (fun _ => keeps_winRead hs)))))
    (fun _ => keeps_foldl (fun _ _ hs => keeps_ite (fun _ => hs) (fun _ => keeps_schedWrite (keeps_failPart hs)))
    (keeps_noteStore (keeps_ite (fun _ => keeps_rmoNote (keeps_winRead hs)) (fun _ => keeps_winRead hs)))))
    (keeps_of_tables hs rfl))

theorem keeps_execAtomic {v : BundleEvent} (hs : Keeps s₀ s) : Goes s₀ (execAtomic v s) :=
  goes_next (keeps_issueBundle (fun _ _ _ hs => keeps_ite (fun _ => keeps_ite
    (fun _ => keeps_remoteDeviceWrite (keeps_ite (fun _ => keeps_failAt (keeps_engSet (keeps_noteStore (keeps_winRead hs))))
    (fun _ => keeps_noteStore (keeps_winRead hs)))) (fun _ => keeps_refusedAccess
    (keeps_ite (fun _ => keeps_failAt (keeps_engSet (keeps_noteStore (keeps_winRead hs))))
    (fun _ => keeps_noteStore (keeps_winRead hs))))) (fun _ => keeps_ite
    (fun _ => keeps_refusedAccess (keeps_ite (fun _ => keeps_rmoNote
    (keeps_ite (fun _ => keeps_failAt (keeps_engSet (keeps_noteStore (keeps_winRead hs))))
    (fun _ => keeps_noteStore (keeps_winRead hs)))) (fun _ => keeps_launch
    (keeps_rmoNote (keeps_ite (fun _ => keeps_failAt (keeps_engSet (keeps_noteStore (keeps_winRead hs))))
    (fun _ => keeps_noteStore (keeps_winRead hs))))))) (fun _ => keeps_taskAt
    (keeps_qcAccess (keeps_ite (fun _ => keeps_rmoNote (keeps_ite
    (fun _ => keeps_failAt (keeps_engSet (keeps_noteStore (keeps_winRead hs))))
    (fun _ => keeps_noteStore (keeps_winRead hs)))) (fun _ => keeps_launch
    (keeps_rmoNote (keeps_ite (fun _ => keeps_failAt (keeps_engSet (keeps_noteStore (keeps_winRead hs))))
    (fun _ => keeps_noteStore (keeps_winRead hs)))))))))) (keeps_of_tables hs rfl))

theorem keeps_execFenceBundle {v : BundleEvent} (hs : Keeps s₀ s) : Goes s₀ (execFenceBundle v s) :=
  goes_next (keeps_issueBundle (fun _ _ _ hs => keeps_launch hs) (keeps_of_tables hs rfl))

theorem keeps_arrivalCount {e source : Nat} {remote : Bool} {off n cycle : Nat} (hs : Keeps s₀ s) :
    Keeps s₀ (arrivalCount s e source remote off n cycle) := by
  unfold arrivalCount
  dsimp only
  split
  · exact keeps_engSet hs
  · exact keeps_ite (fun _ => keeps_engSet hs) (fun _ => keeps_endHold (keeps_noteLate (keeps_engSet hs)))

theorem keeps_execArrive {v : BundleEvent} (hs : Keeps s₀ s) : Goes s₀ (execArrive v s) :=
  goes_next (keeps_issueBundle (fun _ _ _ hs => keeps_foldl (fun _ _ hs => keeps_arrivalCount hs) (keeps_engSet hs))
    (keeps_of_tables hs rfl))

theorem keeps_landRemote {e : Nat} {w : RemoteWrite} (hs : Keeps s₀ s) : Keeps s₀ (landRemote s e w) :=
  keeps_arrivalCount (keeps_landRest256 hs)

theorem keeps_execRemoteWriteLanding {engine k : Nat} (hs : Keeps s₀ s) : Goes s₀ (execRemoteWriteLanding engine k s) := by
  unfold execRemoteWriteLanding
  extract_lets +onlyGivenNames s1 s2
  have hs1 : Keeps s₀ s1 := keeps_of_tables hs rfl
  have hs2 : Keeps s₀ s2 := keeps_ite (fun _ => hs1) (fun _ => keeps_advance hs1)
  split
  · exact goes_next hs1
  · extract_lets +onlyGivenNames s3
    have hs3 : Keeps s₀ s3 := keeps_settled hs2
    split
    · exact goes_next hs1
    · extract_lets +onlyGivenNames x
      split
      · exact goes_next hs1
      · exact goes_next (keeps_landRemote (keeps_engSet hs3))

theorem keeps_execCompletionLanded {engine : Nat} {tag : BitVec 4} {ready : Nat} (hs : Keeps s₀ s) :
    Goes s₀ (execCompletionLanded engine tag ready s) := by
  unfold execCompletionLanded
  dsimp only
  split
  · exact goes_next (keeps_of_tables hs rfl)
  · split
    · exact goes_next (keeps_of_tables hs rfl)
    · split
      · exact goes_next (keeps_settled (keeps_of_tables hs rfl))
      · exact goes_next (keeps_landCompletion (keeps_ite (fun _ => keeps_rmoNote
          (keeps_engSet (keeps_settled (keeps_of_tables hs rfl)))) (fun _ => keeps_engSet (keeps_settled (keeps_of_tables hs rfl)))))

theorem keeps_execHoldSimmerExpiry {engine arr : Nat} (hs : Keeps s₀ s) : Goes s₀ (execHoldSimmerExpiry engine arr s) := by
  unfold execHoldSimmerExpiry
  dsimp only
  split
  · exact goes_next (keeps_engSet (keeps_of_tables hs rfl))
  · exact goes_next (keeps_of_tables hs rfl)

theorem keeps_poisonFlight {e : Nat} {f : Inflight} (hs : Keeps s₀ s) : Keeps s₀ (poisonFlight s e f) :=
  keeps_ite (fun _ => keeps_inflightSet hs) (fun _ => keeps_taintSet (keeps_inflightSet hs))

theorem keeps_execD2dFlitUncorrectable {edge engine : Nat} {target : FlitTarget} (hs : Keeps s₀ s) :
    Goes s₀ (execD2dFlitUncorrectable edge engine target s) := by
  unfold execD2dFlitUncorrectable
  extract_lets +onlyGivenNames s1 x jobs
  have hs1 : Keeps s₀ s1 := keeps_notice (keeps_logEvent (keeps_of_tables hs rfl))
  split
  · split
    · exact goes_next hs1
    · exact goes_next (keeps_failAt (keeps_poisonFlight hs1))
  · split
    · exact goes_next hs1
    · extract_lets +onlyGivenNames w' s2 s3
      have hs2 : Keeps s₀ s2 := keeps_engSet hs1
      have hs3 : Keeps s₀ s3 := keeps_ite (fun _ => hs2) (fun _ => keeps_taintSet hs2)
      exact goes_next (keeps_failAt hs3)
  · extract_lets +onlyGivenNames s2 s3
    have hs2 : Keeps s₀ s2 := keeps_engSet hs1
    have hs3 : Keeps s₀ s3 := keeps_foldl (fun _ _ hs => keeps_foldl (fun _ _ hs => keeps_poisonAdd hs) hs) hs2
    exact goes_next (keeps_failAt hs3)
  · exact goes_next (keeps_ite (fun _ => keeps_foldl (fun _ _ hs => keeps_poisonAdd hs) hs1) (fun _ => hs1))
  · exact goes_next (keeps_of_tables hs1 rfl)

theorem keeps_kBurst {jobs : List Nat} {a : Nat} {b : Bytes} {i : Nat} {n : Nat} (hs : Keeps s₀ s) :
    Keeps s₀ (kBurst jobs a b s i n) :=
  keeps_ite (fun _ => keeps_failAt hs) (fun _ => keeps_qcInvalidate (keeps_storeBytes hs))

theorem keeps_kWrite {jobs : List Nat} {a : Nat} {b : Bytes} (hs : Keeps s₀ s) : Keeps s₀ (kWrite s jobs a b) :=
  keeps_ite (fun _ => hs) (fun _ => keeps_ite (fun _ => hs) (fun _ => keeps_ite
    (fun _ => keeps_qcInvalidate (keeps_storeBytes hs)) (fun _ => keeps_foldl (fun _ _ hs => keeps_kBurst hs) hs)))

theorem keeps_kPut {jobs : List Nat} {a : Nat} {w : Nat} {bits : List Nat} {ok : List Bool} (hs : Keeps s₀ s) :
    Keeps s₀ (kPut s jobs a w bits ok) :=
  keeps_ite (fun _ => keeps_kWrite hs) (fun _ => keeps_foldl (fun _ _ hs => keeps_kWrite hs) hs)

theorem keeps_kPutWords {jobs : List Nat} {a : Nat} {ws : List Word} {ok : List Bool} (hs : Keeps s₀ s) :
    Keeps s₀ (kPutWords s jobs a ws ok) :=
  keeps_kPut hs

theorem keeps_calNumev {st n : Nat} (hs : Keeps s₀ s) : Keeps s₀ (calNumev s st n) :=
  keeps_ite (fun _ => hs) (fun _ => keeps_regCount hs)

theorem keeps_kStoreRow {x : KRun} {st : Store} {scales : List Byte} {job : Ctx} {a : Nat} {z : Option Nat}
    {index : Nat → Nat} {valid : Nat → Bool} {vals : List Word} {bad : List Bool} (hs : Keeps s₀ s) :
    Keeps s₀ (kStoreRow x st scales s job a z index valid vals bad) := by
  unfold kStoreRow
  refine keeps_hashRow ?_
  split
  · exact keeps_ite (fun _ => keeps_kPut (keeps_kPut (keeps_ite (fun _ => keeps_failAt (keeps_calNumev hs))
      (fun _ => keeps_calNumev hs)))) (fun _ => keeps_kPut (keeps_ite (fun _ => keeps_failAt (keeps_calNumev hs))
      (fun _ => keeps_calNumev hs)))
  · exact keeps_kPut (keeps_ite (fun _ => keeps_failAt (keeps_calNumev hs)) (fun _ => keeps_calNumev hs))

theorem keeps_kStore {x : KRun} {job : Ctx} {out : Tensor} {m : Nat} {vals : List Word} {bad : List Bool} (hs : Keeps s₀ s) :
    Keeps s₀ (kStore x s job out m vals bad) := by
  unfold kStore
  exact keeps_kStoreRow hs

theorem keeps_kRows {x : KRun} {f : State → Nat → Ctx → State} (hs : Keeps s₀ s)
    (hf : ∀ t m job, Keeps s₀ t → Keeps s₀ (f t m job)) :
    Keeps s₀ (kRows x s f) := by
  refine keeps_foldl (fun t m ht => ?_) hs
  split
  · exact hf _ _ _ ht
  · exact ht

theorem keeps_kSamplerStep {x : KRun} (hs : Keeps s₀ s) : Keeps s₀ (kSamplerStep x s) := by
  unfold kSamplerStep
  split
  · exact hs
  · exact keeps_kRows hs (fun _ _ _ hs => keeps_kStore hs)

theorem keeps_kGuidance {x : KRun} (hs : Keeps s₀ s) : Keeps s₀ (kGuidance x s) := by
  unfold kGuidance
  split
  · exact keeps_kRows hs (fun _ _ _ hs => keeps_kStore hs)
  · exact hs

theorem keeps_kOptim {x : KRun} (hs : Keeps s₀ s) : Keeps s₀ (kOptim x s) := by
  unfold kOptim
  dsimp only
  split
  · refine keeps_ite (fun _ => keeps_failAt hs) (fun _ => keeps_ite (fun _ => hs)
      (fun _ => keeps_kRows hs (fun _ _ _ hs => ?_)))
    split
    · refine keeps_kStore ?_
      split
      · exact keeps_ite (fun _ => keeps_kPutWords (keeps_kPutWords
          (keeps_kPutWords (keeps_ite (fun _ => keeps_failAt hs) (fun _ => hs)))))
          (fun _ => keeps_kPutWords (keeps_kPutWords (keeps_ite (fun _ => keeps_failAt hs) (fun _ => hs))))
      · exact keeps_kPutWords (keeps_kPutWords (keeps_ite (fun _ => keeps_failAt hs) (fun _ => hs)))
    · split
      · exact keeps_ite (fun _ => keeps_kPutWords (keeps_kPutWords
          (keeps_kPutWords (keeps_ite (fun _ => keeps_failAt hs) (fun _ => hs)))))
          (fun _ => keeps_kPutWords (keeps_kPutWords (keeps_ite (fun _ => keeps_failAt hs) (fun _ => hs))))
      · exact keeps_kPutWords (keeps_kPutWords (keeps_ite (fun _ => keeps_failAt hs) (fun _ => hs)))
  · exact hs

theorem keeps_kReduceRows {x : KRun} {tin : Tensor} {out : Tensor} (hs : Keeps s₀ s) : Keeps s₀ (kReduceRows x tin out s) :=
  keeps_kRows hs (fun _ _ _ hs => keeps_ite (fun _ => keeps_failAt hs) (fun _ => keeps_kPutWords hs))

theorem keeps_kReduceCols {x : KRun} {tin : Tensor} {out : Tensor} {slot : Nat} (hs : Keeps s₀ s) :
    Keeps s₀ (kReduceCols x tin out s slot) := by
  unfold kReduceCols
  split
  · exact hs
  · exact keeps_kPutWords (keeps_ite (fun _ => keeps_failAt hs) (fun _ => hs))

theorem keeps_kReduce {x : KRun} (hs : Keeps s₀ s) : Keeps s₀ (kReduce x s) := by
  unfold kReduce
  split
  · exact keeps_ite (fun _ => keeps_kReduceRows hs) (fun _ => keeps_foldl (fun _ _ hs => keeps_kReduceCols hs) hs)
  · exact hs

theorem keeps_kQuantise {x : KRun} (hs : Keeps s₀ s) : Keeps s₀ (kQuantise x s) := by
  unfold kQuantise
  split
  · split
    · exact hs
    · exact keeps_kRows hs (fun _ _ _ hs => keeps_kStoreRow hs)
  · exact hs

theorem keeps_transposeRow {x : KRun} {tin : Tensor} {out : Tensor} {rows : List (List KElem)} {n : Nat} (hs : Keeps s₀ s) :
    Keeps s₀ (transposeRow x tin out rows s n) := by
  unfold transposeRow
  dsimp only
  refine keeps_ite (fun _ => keeps_foldl (fun _ _ hs => ?_) (keeps_calNumev (keeps_failAt hs)))
    (fun _ => keeps_foldl (fun _ _ hs => ?_) (keeps_foldl (fun _ _ hs => ?_) (keeps_calNumev (keeps_failAt hs))))
  · split
    · exact keeps_ite (fun _ => keeps_kPut (keeps_kPut hs)) (fun _ => keeps_kPut hs)
    · exact keeps_kPut hs
  · split
    · exact keeps_ctxDigest hs
    · exact hs
  · split
    · exact keeps_ite (fun _ => keeps_kPut (keeps_kPut hs)) (fun _ => keeps_kPut hs)
    · exact keeps_kPut hs

theorem keeps_kTranspose {x : KRun} (hs : Keeps s₀ s) : Keeps s₀ (kTranspose x s) := by
  unfold kTranspose
  split
  · exact keeps_foldl (fun _ _ hs => keeps_transposeRow hs) hs
  · exact hs

theorem keeps_indexRange {st : Nat} (hs : Keeps s₀ s) : Keeps s₀ (indexRange s st) :=
  keeps_regCount hs

theorem keeps_kGather {x : KRun} (hs : Keeps s₀ s) : Keeps s₀ (kGather x s) := by
  unfold kGather
  split
  · exact keeps_kRows hs (fun _ _ _ hs => keeps_ite (fun _ => keeps_failAt hs)
      (fun _ => keeps_ite (fun _ => keeps_kWrite hs) (fun _ => keeps_ite (fun _ => keeps_kWrite (keeps_indexRange hs))
      (fun _ => keeps_ite (fun _ => keeps_failAt hs) (fun _ => keeps_kWrite hs)))))
  · exact hs

theorem keeps_kScatter {x : KRun} (hs : Keeps s₀ s) : Keeps s₀ (kScatter x s) := by
  unfold kScatter
  split
  · exact keeps_kRows hs (fun _ _ _ hs => keeps_ite (fun _ => keeps_failAt hs)
      (fun _ => keeps_ite (fun _ => hs) (fun _ => keeps_ite (fun _ => keeps_indexRange hs)
      (fun _ => keeps_ite (fun _ => keeps_failAt hs) (fun _ => keeps_kWrite hs)))))
  · exact hs

theorem keeps_stagingRow {x : KRun} {job : Ctx} {staging : Tensor} {scaled : Bool} {row : Nat}
    {els : List (Nat × Byte × Bool)} (hs : Keeps s₀ s) : Keeps s₀ (stagingRow s x job staging scaled row els) := by
  unfold stagingRow
  refine keeps_ite (fun _ => keeps_failAt hs) (fun _ => ?_)
  split
  · exact keeps_ite (fun _ => keeps_kWrite (keeps_kWrite hs)) (fun _ => keeps_kWrite hs)
  · exact keeps_kWrite hs

theorem keeps_kGatherPages {x : KRun} (hs : Keeps s₀ s) : Keeps s₀ (kGatherPages x s) := by
  unfold kGatherPages
  split
  · exact keeps_foldl (fun _ _ hs => keeps_ite (fun _ => keeps_foldl (fun _ _ hs => keeps_stagingRow hs) hs)
      (fun _ => keeps_foldl (fun _ _ hs => keeps_stagingRow hs) hs))
      (keeps_ite (fun _ => keeps_ctxMap (keeps_of_tables (keeps_ite (fun _ => keeps_failAt (keeps_logOther hs))
      (fun _ => hs)) rfl)) (fun _ => keeps_of_tables (keeps_ite (fun _ => keeps_failAt (keeps_logOther hs)) (fun _ => hs)) rfl))
  · exact hs

theorem keeps_putElems {jobs : List Nat} {slot : Nat} {fmt i : Nat} {bits : List Nat} (hs : Keeps s₀ s) :
    Keeps s₀ (putElems s jobs slot fmt i bits) :=
  keeps_kWrite hs

theorem keeps_scatterToken {x : KRun} {job : Ctx} {staging : Tensor} {tok : Nat} (hs : Keeps s₀ s) :
    Keeps s₀ (scatterToken x job staging s tok) := by
  unfold scatterToken
  dsimp only
  split
  · refine keeps_ite (fun _ => keeps_pagePut (keeps_foldl (fun _ _ hs => keeps_ite
      (fun _ => keeps_ite (fun _ => keeps_failAt hs) (fun _ => keeps_ite (fun _ => keeps_putElems hs)
      (fun _ => keeps_kWrite (keeps_putElems hs)))) (fun _ => keeps_foldl
      (fun _ _ hs => keeps_ite (fun _ => keeps_failAt hs) (fun _ => ?_)) hs)) hs))
      (fun _ => keeps_foldl (fun _ _ hs => keeps_ite (fun _ => keeps_ite (fun _ => keeps_failAt hs)
      (fun _ => keeps_ite (fun _ => keeps_putElems hs) (fun _ => keeps_kWrite (keeps_putElems hs))))
      (fun _ => keeps_foldl (fun _ _ hs => keeps_ite (fun _ => keeps_failAt hs) (fun _ => ?_)) hs)) hs)
    · split
      · exact keeps_ite (fun _ => keeps_kWrite (keeps_putElems hs)) (fun _ => keeps_putElems hs)
      · exact keeps_putElems hs
    · split
      · exact keeps_ite (fun _ => keeps_kWrite (keeps_putElems hs)) (fun _ => keeps_putElems hs)
      · exact keeps_putElems hs
  · exact keeps_failAt (keeps_logOther hs)

theorem keeps_kScatterPages {x : KRun} (hs : Keeps s₀ s) : Keeps s₀ (kScatterPages x s) := by
  unfold kScatterPages
  split
  · exact keeps_foldl (fun _ _ hs => keeps_scatterToken hs) hs
  · exact hs

theorem keeps_kAccumulate {x : KRun} (hs : Keeps s₀ s) : Keeps s₀ (kAccumulate x s) := by
  unfold kAccumulate
  split
  · exact keeps_kRows hs (fun _ _ _ hs => keeps_kStore hs)
  · exact hs

theorem keeps_unitError {st unit : Nat} {bad : Bool} (hs : Keeps s₀ s) : Keeps s₀ (unitError s st unit bad) := by
  unfold unitError
  extract_lets +onlyGivenNames u
  refine keeps_ite (fun _ => keeps_regCount hs) (fun _ => ?_)
  extract_lets +onlyGivenNames s1 times second s2 now s3
  have hs1 : Keeps s₀ s1 := keeps_notice (keeps_logEvent (keeps_regCount hs))
  have hs2 : Keeps s₀ s2 := keeps_of_tables hs1 rfl
  have hs3 : Keeps s₀ s3 := keeps_ite (fun _ => keeps_of_tables hs2 rfl) (fun _ => hs2)
  exact keeps_beginHealth hs3

theorem keeps_kernelEnd {code : KernelCode} {v : KernelEvent} {x : KRun} (hs : Keeps s₀ s) :
    Keeps s₀ (kernelEnd code v x s) :=
  keeps_ite (fun _ => keeps_foldl (fun _ _ hs => keeps_unitError hs) hs)
    (fun _ => keeps_of_tables (keeps_foldl (fun _ _ hs => keeps_unitError hs) hs) rfl)

theorem keeps_refuseKernel {code : KernelCode} {x : KRun} (hs : Keeps s₀ s) : Keeps s₀ (refuseKernel s code x) :=
  keeps_foldl (fun _ _ hs => keeps_ite (fun _ => hs) (fun _ => keeps_refusedAccess hs)) hs

theorem keeps_runKernel {code : KernelCode} {v : KernelEvent} {f : KRun → State → State}
    (hf : ∀ x t, Keeps s₀ t → Keeps s₀ (f x t)) (hs : Keeps s₀ s) : Keeps s₀ (runKernel code v f s) := by
  unfold runKernel
  extract_lets s1
  have hs1 : Keeps s₀ s1 := keeps_of_tables hs rfl
  split
  · exact hs1
  · extract_lets s2
    have hs2 : Keeps s₀ s2 :=
      keeps_kernelEnd (hf _ _ (keeps_foldl (fun _ _ hs => keeps_eccFind hs) (keeps_refuseKernel hs1)))
    exact keeps_of_tables hs2 rfl

theorem keeps_execSamplerStep {v : KernelEvent} (hs : Keeps s₀ s) : Goes s₀ (execSamplerStep v s) :=
  goes_next (keeps_runKernel (fun _ _ hs => keeps_kSamplerStep hs) hs)

theorem keeps_execGuidance {v : KernelEvent} (hs : Keeps s₀ s) : Goes s₀ (execGuidance v s) :=
  goes_next (keeps_runKernel (fun _ _ hs => keeps_kGuidance hs) hs)

theorem keeps_execOptim {v : KernelEvent} (hs : Keeps s₀ s) : Goes s₀ (execOptim v s) :=
  goes_next (keeps_runKernel (fun _ _ hs => keeps_kOptim hs) hs)

theorem keeps_execReduce {v : KernelEvent} (hs : Keeps s₀ s) : Goes s₀ (execReduce v s) :=
  goes_next (keeps_runKernel (fun _ _ hs => keeps_kReduce hs) hs)

theorem keeps_execQuantiseDeferred {v : KernelEvent} (hs : Keeps s₀ s) : Goes s₀ (execQuantiseDeferred v s) :=
  goes_next (keeps_runKernel (fun _ _ hs => keeps_kQuantise hs) hs)

theorem keeps_execTranspose {v : KernelEvent} (hs : Keeps s₀ s) : Goes s₀ (execTranspose v s) :=
  goes_next (keeps_runKernel (fun _ _ hs => keeps_kTranspose hs) hs)

theorem keeps_execGather {v : KernelEvent} (hs : Keeps s₀ s) : Goes s₀ (execGather v s) :=
  goes_next (keeps_ite (fun _ => keeps_of_tables hs rfl) (fun _ => keeps_runKernel (fun _ _ hs => keeps_kGather hs) hs))

theorem keeps_execScatter {v : KernelEvent} (hs : Keeps s₀ s) : Goes s₀ (execScatter v s) :=
  goes_next (keeps_ite (fun _ => keeps_of_tables hs rfl) (fun _ => keeps_runKernel (fun _ _ hs => keeps_kScatter hs) hs))

theorem keeps_execGatherPageRead {v : KernelEvent} (hs : Keeps s₀ s) : Goes s₀ (execGatherPageRead v s) :=
  goes_next (keeps_ite (fun _ => keeps_of_tables hs rfl) (fun _ => keeps_runKernel (fun _ _ hs => keeps_kGatherPages hs) hs))

theorem keeps_execScatterPageWrite {v : KernelEvent} (hs : Keeps s₀ s) : Goes s₀ (execScatterPageWrite v s) :=
  goes_next (keeps_ite (fun _ => keeps_of_tables hs rfl) (fun _ => keeps_runKernel (fun _ _ hs => keeps_kScatterPages hs) hs))

theorem keeps_execOrderedAccumulate {v : KernelEvent} (hs : Keeps s₀ s) : Goes s₀ (execOrderedAccumulate v s) :=
  goes_next (keeps_runKernel (fun _ _ hs => keeps_kAccumulate hs) hs)

theorem keeps_logBroken {b : Broken} (hs : Keeps s₀ s) : Keeps s₀ (logBroken s b) :=
  keeps_logEvent hs

theorem keeps_cmdImageOp {verify : Bool} {x16 : Who} {p : Packet} (hs : Keeps s₀ s) :
    Keeps s₀ (cmdImageOp verify x16 p s).st := by
  unfold cmdImageOp
  dsimp only
  split
  · exact keeps_refuse hs
  · split
    · exact keeps_refuse hs
    · split
      · exact keeps_refuse hs
      · exact keeps_accepted (keeps_of_tables hs rfl)

theorem keeps_isLoaded {i : Image} (hs : Keeps s₀ s) : Keeps s₀ (isLoaded s i) :=
  keeps_of_tables hs rfl

theorem keeps_imageEnd {k : Nat} {verify : Bool} (hs : Keeps s₀ s) : Keeps s₀ (imageEnd s k verify) := by
  unfold imageEnd
  split
  · exact hs
  · refine keeps_ite (fun _ => hs) (fun _ => keeps_ite (fun _ => keeps_postEntry (keeps_of_tables hs rfl))
      (fun _ => keeps_postEntry (keeps_ite (fun _ => keeps_isLoaded ?_) (fun _ => ?_))))
    · split
      · exact keeps_of_tables (keeps_logBroken (keeps_of_tables hs rfl)) rfl
      · exact keeps_of_tables hs rfl
    · split
      · exact keeps_logBroken (keeps_of_tables hs rfl)
      · exact keeps_of_tables hs rfl

theorem keeps_cmdImageUnload {w : Who} {p : Packet} (hs : Keeps s₀ s) : Keeps s₀ (cmdImageUnload w p s).st := by
  unfold cmdImageUnload
  dsimp only
  split
  · exact keeps_refuse hs
  · split
    · exact keeps_refuse hs
    · split
      · exact keeps_refuse hs
      · exact keeps_done (keeps_of_tables hs rfl)

theorem keeps_execImageLoadComplete {k : Nat} (hs : Keeps s₀ s) : Goes s₀ (execImageLoadComplete k s) :=
  goes_next (keeps_imageEnd (keeps_of_tables hs rfl))

theorem keeps_execImageVerifyComplete {k : Nat} (hs : Keeps s₀ s) : Goes s₀ (execImageVerifyComplete k s) :=
  goes_next (keeps_imageEnd (keeps_of_tables hs rfl))

theorem keeps_ctxEnter {n : Nat} {st : CtxState} (hs : Keeps s₀ s) : Keeps s₀ (ctxEnter s n st) :=
  keeps_ctxMap hs

theorem keeps_leaveSlots {n : Nat} (hs : Keeps s₀ s) : Keeps s₀ (leaveSlots s n) :=
  keeps_of_tables hs rfl

theorem keeps_dropPartnerSums {n : Nat} (hs : Keeps s₀ s) : Keeps s₀ (dropPartnerSums s n) :=
  keeps_of_tables hs rfl

theorem keeps_jobEnd {n : Nat} (hs : Keeps s₀ s) : Keeps s₀ (jobEnd s n) := by
  unfold jobEnd
  split
  · exact hs
  · exact keeps_ite (fun _ => hs) (fun _ => keeps_of_tables hs rfl)

theorem keeps_failCtx {n : Nat} {code : Code} {cancelled : Bool} (hs : Keeps s₀ s) : Keeps s₀ (failCtx s n code cancelled) :=
    by
  unfold failCtx
  split
  · exact hs
  · exact keeps_jobEnd (keeps_ctxMap (keeps_dropPartnerSums (keeps_leaveSlots
      (keeps_ctxEnter (keeps_ite (fun _ => hs) (fun _ => keeps_logEvent hs))))))

theorem keeps_doneCtx {n : Nat} (hs : Keeps s₀ s) : Keeps s₀ (doneCtx s n) :=
  keeps_jobEnd (keeps_leaveSlots (keeps_ctxEnter hs))

theorem keeps_trimPages {c : Ctx} (hs : Keeps s₀ s) : Keeps s₀ (trimPages s c) := by
  unfold trimPages
  dsimp only
  refine keeps_foldl (fun _ _ hs => ?_) hs
  split
  · exact hs
  · exact keeps_ite (fun _ => hs) (fun _ => keeps_pagePut hs)

theorem keeps_interruptCtx {n rule : Nat} (hs : Keeps s₀ s) : Keeps s₀ (interruptCtx s n rule) := by
  unfold interruptCtx
  split
  · exact hs
  · exact keeps_ite (fun _ => keeps_failCtx hs) (fun _ => keeps_ite (fun _ => keeps_doneCtx hs)
      (fun _ => keeps_ite (fun _ => keeps_trimPages (keeps_ctxMap
      (keeps_dropPartnerSums (keeps_leaveSlots (keeps_ctxEnter (keeps_logEvent hs))))))
      (fun _ => keeps_ctxMap (keeps_dropPartnerSums (keeps_leaveSlots (keeps_ctxEnter (keeps_logEvent hs)))))))

theorem keeps_unmapPage {c : Ctx} {layer : Nat} {kind x : Nat} {id : BitVec 24} (hs : Keeps s₀ s) :
    Keeps s₀ (unmapPage s c layer kind x id) := by
  unfold unmapPage
  refine keeps_pageRelease (keeps_mapSet ?_)
  split
  · exact keeps_pageFree hs
  · exact hs

theorem keeps_unmapAll {c : Ctx} (hs : Keeps s₀ s) : Keeps s₀ (unmapAll s c) :=
  keeps_foldl (fun _ _ hs => keeps_unmapPage hs) hs

theorem keeps_freeCtx {n : Nat} (hs : Keeps s₀ s) : Keeps s₀ (freeCtx s n) := by
  unfold freeCtx
  split
  · exact hs
  · exact keeps_ctxFree (keeps_unmapAll hs)

theorem keeps_memberWrite {g : Group} {addr : Nat} {b : Bytes} (hs : Keeps s₀ s) : Keeps s₀ (memberWrite s g addr b) := by
  unfold memberWrite
  dsimp only
  refine keeps_foldl (fun _ _ hs => ?_) (keeps_storeBytes hs)
  split
  · exact keeps_keepPacket hs
  · exact hs

theorem keeps_writeStart (hs : Keeps s₀ s) : Keeps s₀ (writeStart s) := by
  unfold writeStart
  split
  · exact hs
  · exact keeps_memberWrite (keeps_of_tables hs rfl)

theorem keeps_writePause (hs : Keeps s₀ s) : Keeps s₀ (writePause s) := by
  unfold writePause
  split
  · exact hs
  · exact keeps_memberWrite (keeps_of_tables hs rfl)

theorem keeps_startDemotion {p : Page} {n : Nat} (hs : Keeps s₀ s) : Keeps s₀ (startDemotion s p n) := by
  have h : ∀ f, f = @startDemotion → Keeps s₀ (f s p n) := by
    delta startDemotion
    rintro _ rfl
    beta_reduce
    generalize findSlot s (pageStack p.id) n = o
    cases o with
    | none => exact hs
    | some a => exact keeps_pagePut hs
  exact h _ rfl

theorem keeps_dropPage {p : Page} (hs : Keeps s₀ s) : Keeps s₀ (dropPage s p) :=
  keeps_pagePut (keeps_foldl (fun _ _ hs => keeps_pageFree hs) hs)

theorem keeps_pressureFor {st : Nat} {met metLater : State → Bool} (hs : Keeps s₀ s) :
    Keeps s₀ (pressureFor s st met metLater) := by
  unfold pressureFor
  extract_lets s1
  have hs1 : Keeps s₀ s1 :=
    keeps_ite (fun _ => keeps_foldl (fun _ _ hs => keeps_ite (fun _ => hs) (fun _ => keeps_startDemotion hs)) hs)
      (fun _ => hs)
  exact keeps_ite (fun _ => keeps_foldl (fun _ _ hs => keeps_ite (fun _ => hs) (fun _ => keeps_dropPage hs)) hs1)
    (fun _ => hs1)

theorem keeps_lowPressure {st : Nat} (hs : Keeps s₀ s) : Keeps s₀ (lowPressure s st) :=
  keeps_ite (fun _ => hs) (fun _ => keeps_pressureFor hs)

theorem keeps_slotFor {st n : Nat} (hs : Keeps s₀ s) : Keeps s₀ (slotFor s st n).2 := by
  have h : ∀ f, f = @slotFor → ∀ y, f s st n = y → Keeps s₀ y.2 := by
    delta slotFor
    rintro _ rfl y hy
    beta_reduce at hy
    generalize findSlot s st n = o at hy
    subst hy
    cases o with
    | none => exact keeps_pressureFor hs
    | some a => exact hs
  exact h _ rfl _ rfl

theorem keeps_newPage {ctx layer kind x fmt : Nat} {scaled : Bool} {c : Nat} {state : PageState} {source : Option (BitVec 24)}
    (hs : Keeps s₀ s) : Keeps s₀ (newPage s ctx layer kind x fmt scaled c state source).2 := by
  have h : ∀ g, g = @slotFor → ∀ f, f = @newPage → Keeps s₀ (f s ctx layer kind x fmt scaled c state source).2 := by
    intro g hg
    have hf {s : State} {st n : Nat} (hs : Keeps s₀ s) : Keeps s₀ (g s st n).2 := hg ▸ keeps_slotFor hs
    delta newPage
    rw [← hg]
    rintro _ rfl
    dsimp only
    split
    · exact hf hs
    · split
      · exact hf hs
      · exact keeps_pagePut (hf hs)
  exact h _ rfl _ rfl

theorem keeps_allocPage {c : Ctx} {layer kind x fmt : Nat} {scaled : Bool} {chans : Nat} (hs : Keeps s₀ s) :
    Keeps s₀ (allocPage s c layer kind x fmt scaled chans).2 := by
  have hn := keeps_newPage (ctx := c.num) (layer := layer) (kind := kind) (x := x) (fmt := fmt) (scaled := scaled)
    (c := chans)
    (state := .live) (source := none) hs
  have h : ∀ f, f = @allocPage → ∀ y, f s c layer kind x fmt scaled chans = y → Keeps s₀ y.2 := by
    delta allocPage
    rintro _ rfl y hy
    beta_reduce at hy
    generalize newPage s c.num layer kind x fmt scaled chans .live none = z at hn hy
    obtain ⟨o, t⟩ := z
    subst hy
    cases o with
    | none => exact hn
    | some id =>
      dsimp only at hn ⊢
      exact keeps_mapSet hn
  exact h _ rfl _ rfl

theorem keeps_copyPoison {src dst n : Nat} (hs : Keeps s₀ s) : Keeps s₀ (copyPoison s src dst n) :=
  keeps_foldl (fun _ _ hs => keeps_poisonAdd hs) hs

theorem keeps_copyDone {p : Page} (hs : Keeps s₀ s) : Keeps s₀ (copyDone s p) := by
  unfold copyDone
  split
  · exact hs
  · exact keeps_pagePut (keeps_copyPoison (keeps_storeBytes hs))

theorem keeps_demoteDone {p : Page} (hs : Keeps s₀ s) : Keeps s₀ (demoteDone s p) := by
  unfold demoteDone
  split
  · exact keeps_pagePut (keeps_foldl (fun _ _ hs => keeps_ite (fun _ => keeps_poisonAdd (keeps_poisonAdd hs)) (fun _ => hs))
      (keeps_storeBytes hs))
  · exact hs

theorem keeps_execCowCopyComplete {page : BitVec 24} (hs : Keeps s₀ s) : Goes s₀ (execCowCopyComplete page s) := by
  unfold execCowCopyComplete
  dsimp only
  split
  · exact goes_next (keeps_ite (fun _ => keeps_copyDone (keeps_of_tables hs rfl)) (fun _ => keeps_of_tables hs rfl))
  · exact goes_next (keeps_of_tables hs rfl)

theorem keeps_execDemotionCopyComplete {page : BitVec 24} (hs : Keeps s₀ s) : Goes s₀ (execDemotionCopyComplete page s) := by
  unfold execDemotionCopyComplete
  dsimp only
  split
  · exact goes_next (keeps_ite (fun _ => keeps_demoteDone (keeps_of_tables hs rfl)) (fun _ => keeps_of_tables hs rfl))
  · exact goes_next (keeps_of_tables hs rfl)

theorem keeps_applyCopied {p : Page} (hs : Keeps s₀ s) : Keeps s₀ (applyCopied s p) := by
  unfold applyCopied
  dsimp only
  refine keeps_ite (fun _ => hs) (fun _ => keeps_ite (fun _ => ?_) (fun _ => keeps_ite (fun _ => ?_) (fun _ => hs)))
  · split
    · exact keeps_pagePut hs
    · exact hs
  · split
    · exact keeps_pageRelease (keeps_mapSet (keeps_pagePut hs))
    · exact keeps_pagePut hs

theorem keeps_cmdPage {op : PageOp} {w : Who} {p : Packet} (hs : Keeps s₀ s) : Keeps s₀ (cmdPage op w p s).st :=
  keeps_atNext (keeps_waitFor hs)

theorem keeps_cmdPageAlloc {w : Who} {p : Packet} (hs : Keeps s₀ s) : Keeps s₀ (cmdPageAlloc w p s).st :=
  keeps_cmdPage hs

theorem keeps_cmdPageShare {w : Who} {p : Packet} (hs : Keeps s₀ s) : Keeps s₀ (cmdPageShare w p s).st :=
  keeps_cmdPage hs

theorem keeps_cmdPageRelease {w : Who} {p : Packet} (hs : Keeps s₀ s) : Keeps s₀ (cmdPageRelease w p s).st :=
  keeps_cmdPage hs

theorem keeps_applyAlloc {r : PageReq} (hs : Keeps s₀ s) : Keeps s₀ (applyAlloc s r) := by
  unfold applyAlloc
  extract_lets p fmt
  split
  · exact keeps_replyLater hs
  · rename_i c _
    refine keeps_ite (fun _ => keeps_replyLater hs) fun _ => ?_
    have ha : Keeps s₀ (allocPage s c (layerOf p) (kindOf p) (indexOf p) (fmt % 16) (decide (16 ≤ fmt))
      (jobChans s c (layerOf p) (kindOf p))).2 := keeps_allocPage hs
    split
    · rename_i heq
      rw [heq] at ha
      exact keeps_replyLater ha
    · rename_i heq
      rw [heq] at ha
      exact keeps_replyLater ha

theorem keeps_applyShare {r : PageReq} (hs : Keeps s₀ s) : Keeps s₀ (applyShare s r) := by
  unfold applyShare
  dsimp only
  split
  · refine keeps_ite (fun _ => keeps_replyLater hs) (fun _ => ?_)
    split
    · exact keeps_replyLater hs
    · exact keeps_replyLater (keeps_mapSet (keeps_pagePut hs))
  · exact keeps_replyLater hs

theorem keeps_applyRelease {r : PageReq} (hs : Keeps s₀ s) : Keeps s₀ (applyRelease s r) := by
  unfold applyRelease
  dsimp only
  split
  · exact keeps_replyLater hs
  · refine keeps_ite (fun _ => keeps_replyLater hs) (fun _ => ?_)
    split
    · exact keeps_replyLater hs
    · exact keeps_replyLater (keeps_unmapPage hs)

theorem keeps_applyPage {r : PageReq} (hs : Keeps s₀ s) : Keeps s₀ (applyPage s r) := by
  unfold applyPage
  split
  · exact keeps_applyAlloc hs
  · exact keeps_applyShare hs
  · exact keeps_applyRelease hs

theorem keeps_applyReleases {rs : List PageReq} (hs : Keeps s₀ s) : Keeps s₀ (applyReleases s rs) :=
  keeps_foldl (fun _ _ hs => keeps_applyRelease hs) hs

theorem keeps_applyCopies (hs : Keeps s₀ s) : Keeps s₀ (applyCopies s) := by
  unfold applyCopies
  refine keeps_foldl (fun _ _ hs => ?_) hs
  split
  · exact keeps_applyCopied hs
  · exact hs

theorem keeps_giveSlotBack {a : State × List Nat} {y : Nat × BitVec 24} (hs : Keeps s₀ a.1) :
    Keeps s₀ (giveSlotBack a y).1 := by
  have h : ∀ g, g = @slotFor → ∀ f, f = @giveSlotBack → Keeps s₀ (f a y).1 := by
    intro g hg
    have hf {s : State} {st n : Nat} (hs : Keeps s₀ s) : Keeps s₀ (g s st n).2 := hg ▸ keeps_slotFor hs
    delta giveSlotBack
    rw [← hg]
    rintro _ rfl
    dsimp only
    split
    · exact hs
    · split
      · next heq => exact keeps_pagePut (keeps_of_eq (congrArg Prod.snd heq) (hf hs))
      · next heq => exact keeps_of_eq (congrArg Prod.snd heq) (hf hs)
  exact h _ rfl _ rfl

theorem keeps_allocTarget {a : State × List Nat} {t : Target} (hs : Keeps s₀ a.1) : Keeps s₀ (allocTarget a t).1 := by
  obtain ⟨s, fails⟩ := a
  have h : ∀ f, f = @allocTarget → Keeps s₀ (f (s, fails) t).1 := by
    delta allocTarget
    rintro _ rfl
    dsimp only
    cases ctxGet s t.num with
    | none => exact hs
    | some c =>
      have ha : Keeps s₀ (allocPage s c t.layer t.kind t.x t.fmt t.scaled t.chans).2 := keeps_allocPage hs
      dsimp only
      generalize allocPage s c t.layer t.kind t.x t.fmt t.scaled t.chans = z at ha ⊢
      obtain ⟨o, u⟩ := z
      split
      · exact hs
      · split
        · exact hs
        · cases o <;> exact ha
  exact h _ rfl

theorem keeps_startCopy {a : State × List Nat} {t : Target} (hs : Keeps s₀ a.1) : Keeps s₀ (startCopy a t).1 := by
  have h : ∀ g, g = @newPage → ∀ f, f = @startCopy → Keeps s₀ (f a t).1 := by
    intro g hg
    have hf {s : State} {ctx layer kind x fmt : Nat} {scaled : Bool} {c : Nat} {state : PageState}
      {source : Option (BitVec 24)}
        (hs : Keeps s₀ s) : Keeps s₀ (g s ctx layer kind x fmt scaled c state source).2 := hg ▸ keeps_newPage hs
    delta startCopy
    rw [← hg]
    rintro _ rfl
    dsimp only
    split
    · exact hs
    · split
      · next heq => exact keeps_of_eq (congrArg Prod.snd heq) (hf hs)
      · next heq => exact keeps_of_eq (congrArg Prod.snd heq) (hf hs)
  exact h _ rfl _ rfl

theorem keeps_countFails {n : Nat} {failed : Bool} (hs : Keeps s₀ s) : Keeps s₀ (countFails s n failed) := by
  unfold countFails
  split
  · exact hs
  · exact keeps_ite (fun _ => keeps_failCtx hs) (fun _ => keeps_ctxMap hs)

theorem keeps_starveRecompute {n : Nat} (hs : Keeps s₀ s) : Keeps s₀ (starveRecompute s n) := by
  unfold starveRecompute
  dsimp only
  split
  · exact hs
  · refine keeps_ctxMap (keeps_foldl (fun _ _ hs => ?_) hs)
    split
    · exact keeps_ite (fun _ => keeps_dropPage hs) (fun _ => hs)
    · exact hs

theorem keeps_beginJob {ts : List Target} {fails : List Nat} {b : Begin} (hs : Keeps s₀ s) :
    Keeps s₀ (beginJob ts fails s b) :=
  keeps_ite (fun _ => keeps_countFails (keeps_ite (fun _ => keeps_starveRecompute (keeps_ctxMap hs))
    (fun _ => keeps_ctxMap hs))) (fun _ => keeps_countFails (keeps_ctxMap hs))

theorem keeps_tablesHold {b : Begin} (hs : Keeps s₀ s) : Keeps s₀ (tablesHold s b) := by
  unfold tablesHold
  split
  · exact keeps_failAt hs
  · exact hs

theorem keeps_pageStarts {bs : List Begin} (hs : Keeps s₀ s) : Keeps s₀ (pageStarts s bs) := by
  unfold pageStarts
  extract_lets s1 a ts b copies
  have hs1 : Keeps s₀ s1 := keeps_foldl (fun _ _ hs => keeps_tablesHold hs) hs
  have ha : Keeps s₀ a.1 := keeps_foldl_fst (fun _ _ hs => keeps_giveSlotBack hs) hs1
  have hb : Keeps s₀ b.1 := keeps_foldl_fst (fun _ _ hs => keeps_allocTarget hs) ha
  exact keeps_foldl (fun _ _ hs => keeps_beginJob hs) (keeps_foldl_fst (fun _ _ hs => keeps_startCopy hs) hb)

theorem keeps_endRecompute {n : Nat} (hs : Keeps s₀ s) : Keeps s₀ (endRecompute s n) := by
  unfold endRecompute
  dsimp only
  split
  · exact hs
  · refine keeps_ctxMap (keeps_foldl (fun _ _ hs => ?_) hs)
    split
    · exact keeps_ite (fun _ => keeps_pagePut hs) (fun _ => hs)
    · exact hs

theorem keeps_retirePages {r : Nat} (hs : Keeps s₀ s) : Keeps s₀ (retirePages s r) := by
  unfold retirePages
  refine keeps_foldl (fun _ _ hs => keeps_ite (fun _ => hs) (fun _ => keeps_ite (fun _ => keeps_pageFree hs)
    (fun _ => keeps_ite (fun _ => keeps_foldl (fun _ _ hs => keeps_failCtx hs) (keeps_dropPage hs)) (fun _ => ?_)))) hs
  split
  · exact keeps_ite (fun _ => keeps_pagePut hs) (fun _ => hs)
  · exact hs

theorem keeps_submitAccept {p : Packet} {d : Desc} {owner : Nat} {i : Image} (hs : Keeps s₀ s) :
    Keeps s₀ (submitAccept s p d owner i).st := by
  unfold submitAccept
  dsimp only
  split
  · exact keeps_refuse hs
  · split
    · exact keeps_refuse hs
    · exact keeps_ite (fun _ => keeps_waitFor hs) (fun _ => keeps_ringReserve (keeps_waitFor hs))

theorem keeps_cmdJobSubmit {w : Who} {p : Packet} (hs : Keeps s₀ s) : Keeps s₀ (cmdJobSubmit w p s).st := by
  unfold cmdJobSubmit
  dsimp only
  split
  · exact keeps_refuse hs
  · split
    · exact keeps_refuse hs
    · split
      · exact keeps_refuse hs
      · split
        · exact keeps_refuse hs
        · split
          · exact keeps_refuse hs
          · split
            · exact keeps_refuse hs
            · split
              · exact keeps_refuse hs
              · split
                · exact keeps_refuse hs
                · exact keeps_submitAccept hs

theorem keeps_enterSubmit {c : Ctx} (hs : Keeps s₀ s) : Keeps s₀ (enterSubmit s c) :=
  keeps_ite (fun _ => keeps_of_tables hs rfl) (fun _ => keeps_ite (fun _ => keeps_interruptCtx (keeps_of_tables hs rfl))
    (fun _ => keeps_ite (fun _ => keeps_writeStart (keeps_of_tables hs rfl)) (fun _ => keeps_of_tables hs rfl)))

theorem keeps_jobCmd {op : CtxOp} {w : Who} {p : Packet} {ok : Ctx → Bool} (hs : Keeps s₀ s) :
    Keeps s₀ (jobCmd op w p s ok).st := by
  unfold jobCmd
  split
  · exact keeps_refuse hs
  · split
    · exact keeps_refuse hs
    · split
      · exact keeps_refuse hs
      · split
        · exact keeps_refuse hs
        · exact keeps_accepted (keeps_ite (fun _ => keeps_writePause (keeps_waitFor hs)) (fun _ => keeps_waitFor hs))

theorem keeps_cmdJobCancel {w : Who} {p : Packet} (hs : Keeps s₀ s) : Keeps s₀ (cmdJobCancel w p s).st :=
  keeps_jobCmd hs

theorem keeps_cmdJobPause {w : Who} {p : Packet} (hs : Keeps s₀ s) : Keeps s₀ (cmdJobPause w p s).st :=
  keeps_jobCmd hs

theorem keeps_cmdJobResume {w : Who} {p : Packet} (hs : Keeps s₀ s) : Keeps s₀ (cmdJobResume w p s).st :=
  keeps_atNext (keeps_waitFor hs)

theorem keeps_endJobCmd {r : CtxReq} {code : Code} (hs : Keeps s₀ s) : Keeps s₀ (endJobCmd s r code) := by
  unfold endJobCmd
  split
  · exact keeps_postLater hs
  · exact keeps_postLater hs
  · exact keeps_replyLater hs

theorem keeps_abandonSave {n : Nat} (hs : Keeps s₀ s) : Keeps s₀ (abandonSave s n) :=
  keeps_of_tables (keeps_foldl (fun _ _ hs => keeps_postLater hs) hs) rfl

theorem keeps_applyCancel {c : Ctx} (hs : Keeps s₀ s) : Keeps s₀ (applyCancel s c) := by
  unfold applyCancel
  split
  · exact keeps_freeCtx hs
  · exact keeps_freeCtx hs
  · exact keeps_freeCtx hs
  · exact keeps_failCtx (keeps_abandonSave hs)

theorem keeps_pauseCtx {n : Nat} (hs : Keeps s₀ s) : Keeps s₀ (pauseCtx s n) :=
  keeps_ctxMap (keeps_leaveSlots (keeps_ctxEnter hs))

theorem keeps_applyResume {c : Ctx} (hs : Keeps s₀ s) : Keeps s₀ (applyResume s c).2.2 := by
  unfold applyResume
  split
  · exact hs
  · split
    · exact keeps_logOther hs
    · split
      · exact hs
      · split
        · exact hs
        · exact keeps_ite (fun _ => keeps_writeStart (keeps_ctxEnter hs)) (fun _ => keeps_ctxEnter hs)

theorem keeps_applyReq {atEnd : Ctx → Bool} {r : CtxReq} (hs : Keeps s₀ s) : Keeps s₀ (applyReq atEnd s r) := by
  unfold applyReq
  split
  · exact keeps_endJobCmd hs
  · refine keeps_ite (fun _ => keeps_waitFor hs) (fun _ => ?_)
    split
    · exact keeps_ite (fun _ => keeps_endJobCmd hs) (fun _ => keeps_replyLater (keeps_applyResume hs))
    · exact keeps_endJobCmd (keeps_applyCancel hs)
    · split
      · exact keeps_endJobCmd hs
      · exact keeps_ite (fun _ => keeps_waitFor hs) (fun _ => keeps_endJobCmd (keeps_pauseCtx hs))
      · exact keeps_ite (fun _ => keeps_waitFor hs) (fun _ => keeps_endJobCmd (keeps_pauseCtx hs))
      · exact keeps_endJobCmd hs

theorem keeps_groupPauses {atEnd : Ctx → Bool} (hs : Keeps s₀ s) : Keeps s₀ (groupPauses atEnd s) :=
  keeps_foldl (fun _ _ hs => keeps_pauseCtx hs) hs

theorem keeps_dropSaves (hs : Keeps s₀ s) : Keeps s₀ (dropSaves s) :=
  keeps_foldl (fun _ _ hs => keeps_ite (fun _ => hs) (fun _ => keeps_abandonSave hs)) hs

theorem keeps_cmdCtxSave {w : Who} {p : Packet} (hs : Keeps s₀ s) : Keeps s₀ (cmdCtxSave w p s).st := by
  unfold cmdCtxSave
  dsimp only
  split
  · exact keeps_refuse hs
  · split
    · exact keeps_refuse hs
    · split
      · exact keeps_refuse hs
      · split
        · exact keeps_refuse hs
        · split
          · exact keeps_refuse hs
          · split
            · exact keeps_refuse hs
            · split
              · exact keeps_refuse hs
              · split
                · exact keeps_refuse hs
                · split
                  · exact keeps_postEntry (keeps_ringReserve hs)
                  · exact keeps_accepted (keeps_of_tables hs rfl)

theorem keeps_endSave {v : Save} {code : Code} (hs : Keeps s₀ s) : Keeps s₀ (endSave s v code) :=
  keeps_postEntry (keeps_of_tables hs rfl)

theorem keeps_execCtxSaveComplete {ctx : Nat} (hs : Keeps s₀ s) : Goes s₀ (execCtxSaveComplete ctx s) := by
  unfold execCtxSaveComplete
  extract_lets s1
  have hs1 : Keeps s₀ s1 := keeps_of_tables hs rfl
  split
  · split
    · exact goes_next hs1
    · split
      · exact goes_next (keeps_endSave hs1)
      · split
        · exact goes_next (keeps_endSave hs1)
        · extract_lets s2
          have hs2 : Keeps s₀ s2 := keeps_storeBytes hs1
          exact goes_next (keeps_of_tables hs2 rfl)
  · exact goes_next hs1

theorem keeps_applySave {v : Save} (hs : Keeps s₀ s) : Keeps s₀ (applySave s v) := by
  unfold applySave
  refine keeps_ite (fun _ => hs) (fun _ => ?_)
  split
  · exact hs
  · exact keeps_of_tables (keeps_postLater (keeps_ctxEnter (keeps_unmapAll hs))) rfl

theorem keeps_restoreChecks {p : Packet} {owner area n : Nat} {b : Bytes} {ok : Image → Ctx → Ans} (hs : Keeps s₀ s)
    (hok : ∀ i c, Keeps s₀ (ok i c).st) : Keeps s₀ (restoreChecks s p owner area n b ok).st := by
  have href (c : Code) : Keeps s₀ (refuse s c).st := hs
  have hite {c : Prop} [Decidable c] {x y : Ans} (hx : Keeps s₀ x.st) (hy : Keeps s₀ y.st) :
    Keeps s₀ (if c then x else y).st := by
    split <;> assumption
  unfold restoreChecks
  refine hite (href _) (hite (href _) ?_)
  split
  · exact href _
  · exact hite (href _) (hite (href _) (hite (href _) (hite (href _) (hite (href _) (hite (href _) (hok _ _))))))

theorem keeps_restorePage {c : Ctx} {h bytes : Bytes} (hs : Keeps s₀ s) : Keeps s₀ (restorePage s c h bytes).2 := by
  unfold restorePage
  extract_lets layer kind x n st fmt home chans base
  have hf : Keeps s₀ (slotFor s st (granulesOf n)).2 := keeps_slotFor hs
  generalize slotFor s st (granulesOf n) = y at hf ⊢
  obtain ⟨o, t⟩ := y
  split
  · split
    · exact hs
    · exact keeps_pagePut hs
  · cases o with
    | none => exact hf
    | some a =>
      cases freePageId s st with
      | none => exact hf
      | some id => exact keeps_storeBytes (keeps_pagePut hf)

theorem keeps_restorePages {c : Ctx} {area : Bytes} {l : List (Bytes × Nat)} {ms : List (Nat × Nat × Nat × BitVec 24)}
    (hs : Keeps s₀ s) :
    Keeps s₀ (restorePages s c area l ms).2.2 := by
  induction l generalizing s ms with
  | nil => exact hs
  | cons y t ih =>
    obtain ⟨h, off⟩ := y
    have hp : Keeps s₀ (restorePage s c h (slice area off (field h 16 8))).2 := keeps_restorePage hs
    unfold restorePages
    split
    · rename_i heq
      rw [heq] at hp
      exact hp
    · rename_i heq
      rw [heq] at hp
      exact ih hp

theorem keeps_cmdCtxRestore {w : Who} {p : Packet} (hs : Keeps s₀ s) : Keeps s₀ (cmdCtxRestore w p s).st := by
  unfold cmdCtxRestore
  extract_lets +onlyGivenNames area size
  split
  · exact keeps_refuse hs
  · split
    · exact keeps_refuse hs
    · extract_lets +onlyGivenNames head
      split
      · exact keeps_refuse hs
      · refine keeps_restoreChecks hs fun i c => ?_
        split
        · exact keeps_refuse hs
        · split
          · exact keeps_refuse hs
          · split
            · exact keeps_refuse hs
            · exact keeps_accepted (keeps_of_tables hs rfl)

theorem keeps_allocRestore {r : Restore} (hs : Keeps s₀ s) : Keeps s₀ (allocRestore s r) := by
  have hset {t : State} {x : List Restore} (ht : Keeps s₀ t) : Keeps s₀ { t with restores := x } := keeps_of_tables ht rfl
  unfold allocRestore
  refine keeps_ite (fun _ => hs) fun _ => ?_
  extract_lets n b
  split
  next ok ms t heq =>
  have ht : Keeps s₀ t := keeps_of_eq (congrArg (fun y => y.2.2) heq) (keeps_restorePages hs)
  refine keeps_ite (fun _ => hset ht) fun _ => keeps_postLater (hset (keeps_foldl (fun _ y hs => ?_) ht))
  split
  · exact keeps_pageFree hs
  · exact hs

theorem keeps_buildTable {c : Ctx} {maps : List (Nat × Nat × Nat × BitVec 24)} (hs : Keeps s₀ s) :
    Keeps s₀ (buildTable s c maps) :=
  keeps_foldl (fun _ _ hs => keeps_mapSet hs) (keeps_foldl (fun _ _ hs => keeps_storeBytes (keeps_storeBytes hs)) hs)

theorem keeps_endRestore {r : Restore} {code : Code} (hs : Keeps s₀ s) : Keeps s₀ (endRestore s r code) := by
  unfold endRestore
  refine keeps_postEntry (keeps_of_tables (keeps_foldl (fun _ _ hs => ?_) hs) rfl)
  split
  · exact keeps_pageFree hs
  · exact hs

theorem keeps_execCtxRestoreComplete {ctx : Nat} (hs : Keeps s₀ s) : Goes s₀ (execCtxRestoreComplete ctx s) := by
  unfold execCtxRestoreComplete
  extract_lets +onlyGivenNames s1
  have hs1 : Keeps s₀ s1 := keeps_of_tables hs rfl
  split
  · exact goes_next hs1
  · extract_lets +onlyGivenNames n
    split
    · exact goes_next (keeps_endRestore hs1)
    · split
      · exact goes_next (keeps_endRestore hs1)
      · extract_lets +onlyGivenNames s2
        have hs2 : Keeps s₀ s2 := keeps_storeBytes hs1
        exact goes_next (keeps_of_tables hs2 rfl)

theorem keeps_applyRestore {r : Restore} (hs : Keeps s₀ s) : Keeps s₀ (applyRestore s r) :=
  keeps_ite (fun _ => hs) (fun _ => keeps_postLater (keeps_of_tables (keeps_buildTable hs) rfl))

theorem keeps_landRest {e : Nat} (hs : Keeps s₀ s) : Keeps s₀ (landRest s e) :=
  keeps_foldl (fun _ _ hs => keeps_landRemote hs) (keeps_foldl (fun _ _ hs => keeps_landCompletion hs) (keeps_engSet hs))

theorem keeps_landAll (hs : Keeps s₀ s) : Keeps s₀ (landAll s) :=
  keeps_settled (keeps_foldl (fun _ _ hs => keeps_landRest hs) (keeps_settled hs))

theorem keeps_holdSeen {c : Counters} (hs : Keeps s₀ s) :
    Keeps s₀ { s with counters := c, sessions := s.sessions.map fun (n, x) => (n, { x with holdSeen := true }) } :=
  keeps_of_sessions hs rfl fun h => keysRise_map_fst (hg := by intro _; rfl) h

theorem keeps_beatCleared {l : List LateKernel} (hs : Keeps s₀ s) :
    Keeps s₀ { s with lateStacks := [], agenda := [], stores := [], moves := 0, lateEnd := 0, lates := l } :=
  keeps_of_tables hs rfl

theorem keeps_endHolds (hs : Keeps s₀ s) : Keeps s₀ (endHolds s) :=
  keeps_beatCleared (keeps_foldl (fun _ _ hs => keeps_engSet hs) (keeps_ite
    (fun _ => keeps_foldl (fun _ _ hs => keeps_regCount hs) (keeps_foldl (fun _ _ hs => keeps_regCount hs)
      (keeps_foldl (fun _ _ hs => keeps_regCount hs) hs)))
    (fun _ => keeps_holdSeen (keeps_foldl (fun _ _ hs => keeps_regCount hs) (keeps_foldl (fun _ _ hs => keeps_regCount hs)
      (keeps_foldl (fun _ _ hs => keeps_regCount hs) hs))))))

theorem keeps_endMirror {quad : Nat} (hs : Keeps s₀ s) : Keeps s₀ (endMirror s quad) :=
  keeps_ite (fun _ => hs) (fun _ => keeps_foldl (fun _ _ hs => keeps_interruptCtx hs) (keeps_regSetF hs))

theorem keeps_applyFence {e : Nat} {cause : BitVec 4} (hs : Keeps s₀ s) : Keeps s₀ (applyFence s e cause) :=
  keeps_rampFrom (keeps_endMirror (keeps_foldl (fun _ _ hs => keeps_interruptCtx hs)
    (keeps_ite (fun _ => keeps_notice (keeps_logEvent (keeps_regSetF (keeps_regSetF (keeps_engSet hs)))))
    (fun _ => keeps_logEvent (keeps_regSetF (keeps_regSetF (keeps_engSet hs)))))))

theorem keeps_applyLift {e : Nat} (hs : Keeps s₀ s) : Keeps s₀ (applyLift s e) :=
  keeps_logEvent (keeps_regSetF (keeps_regSetF (keeps_engSet hs)))

theorem keeps_engineFence {e : Nat} (hs : Keeps s₀ s) : Keeps s₀ (engineFence s e) := by
  unfold engineFence
  split
  · exact keeps_applyFence hs
  · exact keeps_applyLift hs
  · exact hs

theorem keeps_fenceUnit {u : Nat} (hs : Keeps s₀ s) : Keeps s₀ (fenceUnit s u) :=
  keeps_ite (fun _ => keeps_foldl (fun _ _ hs => keeps_interruptCtx hs)
    (keeps_endMirror (keeps_logEvent (keeps_of_tables hs rfl)))) (fun _ => keeps_endMirror (keeps_logEvent (keeps_of_tables hs rfl)))

theorem keeps_liftUnit {u : Nat} (hs : Keeps s₀ s) : Keeps s₀ (liftUnit s u) :=
  keeps_logEvent (keeps_of_tables hs rfl)

theorem keeps_applyCalMask {st : Nat} {mask : BitVec 16} (hs : Keeps s₀ s) : Keeps s₀ (applyCalMask s st mask) :=
  keeps_foldl (fun _ _ hs => keeps_liftUnit hs) (keeps_foldl (fun _ _ hs => keeps_fenceUnit hs) (keeps_regSetF hs))

theorem keeps_fenceCodec {v : Nat} (hs : Keeps s₀ s) : Keeps s₀ (fenceCodec s v) := by
  unfold fenceCodec
  exact keeps_codecMoves (keeps_notice (keeps_logEvent (keeps_of_tables (keeps_regSetF hs) rfl)))

theorem keeps_applyRetire {r : Nat} (hs : Keeps s₀ s) : Keeps s₀ (applyRetire s r) :=
  keeps_ite (fun _ => hs) (fun _ => keeps_foldl (fun _ _ hs => keeps_interruptCtx hs)
    (keeps_retirePages (keeps_notice (keeps_logEvent (keeps_regSetF (keeps_of_tables hs rfl))))))

theorem keeps_applyFaults (hs : Keeps s₀ s) : Keeps s₀ (applyFaults s) := by
  unfold applyFaults
  extract_lets s1 cal s2 codecs s3 ret s4 pauses
  have hs1 : Keeps s₀ s1 := keeps_foldl (fun _ _ hs => keeps_engineFence hs) hs
  have hs2 : Keeps s₀ s2 := keeps_foldl (fun _ _ hs => keeps_applyCalMask hs) (keeps_of_tables hs1 rfl)
  have hs3 : Keeps s₀ s3 := keeps_foldl (fun _ _ hs => keeps_fenceCodec hs) (keeps_of_tables hs2 rfl)
  have hs4 : Keeps s₀ s4 := keeps_foldl (fun _ _ hs => keeps_applyRetire hs) (keeps_of_tables hs3 rfl)
  exact keeps_foldl (fun _ _ hs => keeps_interruptCtx hs) (keeps_of_tables hs4 rfl)

theorem keeps_applyFails (hs : Keeps s₀ s) : Keeps s₀ (applyFails s) := by
  unfold applyFails
  refine keeps_foldl (fun _ _ hs => ?_) (keeps_of_tables hs rfl)
  split
  · exact keeps_ite (fun _ => keeps_failCtx hs) (fun _ => hs)
  · exact hs

theorem keeps_putToken {c : Ctx} {a : Nat} {k : Nat} (hs : Keeps s₀ s) : Keeps s₀ (putToken s c a k) :=
  keeps_ite (fun _ => keeps_refusedAccess hs) (fun _ => keeps_ite (fun _ => keeps_failAt hs) (fun _ => keeps_storeBytes hs))

theorem keeps_runSampler {c : Ctx} (hs : Keeps s₀ s) : Keeps s₀ (runSampler s c) := by
  unfold runSampler
  dsimp only
  split
  · exact keeps_ctxMap hs
  · refine keeps_ite (fun _ => keeps_ctxMap (keeps_refusedAccess hs))
      (fun _ => keeps_ite (fun _ => keeps_ctxMap (keeps_failAt hs)) (fun _ => ?_))
    split
    · exact keeps_ctxMap (keeps_putToken (keeps_regWrap hs))
    · exact keeps_ctxMap (keeps_putToken (keeps_logOther (keeps_regCount (keeps_regWrap hs))))

theorem keeps_logDigest {n layer : Nat} (hs : Keeps s₀ s) : Keeps s₀ (logDigest s n layer) := by
  unfold logDigest
  split
  · exact hs
  · exact keeps_ite (fun _ => hs) (fun _ => keeps_ite (fun _ => keeps_regCount (keeps_logOther (keeps_ctxMap hs)))
      (fun _ => keeps_regWrap (keeps_spanWrite (keeps_ctxMap hs))))

theorem keeps_mirrorMismatch {q : Nat} {y : Nat × Nat} (hs : Keeps s₀ s) : Keeps s₀ (mirrorMismatch q s y) := by
  unfold mirrorMismatch
  extract_lets more s1
  have hs1 : Keeps s₀ s1 := keeps_logOther hs
  exact keeps_of_canonical hs1 rfl fun hc => ⟨hc.mem, hc.regs, hc.engines, hc.sessions, by simpa using hc.events⟩

theorem keeps_passDigests (hs : Keeps s₀ s) : Keeps s₀ (passDigests s) :=
  keeps_foldl (fun _ _ hs => keeps_ite (fun _ => keeps_regCount hs) (fun _ => hs))
    (keeps_foldl (fun _ _ hs => keeps_foldl (fun _ _ hs => keeps_mirrorMismatch hs) hs)
    (keeps_foldl (fun _ _ hs => keeps_foldl (fun _ _ hs => keeps_logDigest hs) hs) hs))

theorem keeps_passTokens {p : Pass} (hs : Keeps s₀ s) : Keeps s₀ (passTokens s p) := by
  unfold passTokens
  refine keeps_ite (fun _ => hs) (fun _ => keeps_foldl (fun _ _ hs => ?_) hs)
  split
  · exact keeps_ite (fun _ => keeps_runSampler hs) (fun _ => hs)
  · exact hs

theorem keeps_execTokenSamplerRun {ctx : Nat} (hs : Keeps s₀ s) : Goes s₀ (execTokenSamplerRun ctx s) := by
  unfold execTokenSamplerRun
  dsimp only
  split
  · exact goes_next (keeps_of_tables hs rfl)
  · split
    · exact goes_next (keeps_settled (keeps_of_tables hs rfl))
    · exact goes_next (keeps_runSampler (keeps_settled (keeps_of_tables hs rfl)))

theorem keeps_jobStep {p : Pass} {n : Nat} (hs : Keeps s₀ s) : Keeps s₀ (jobStep s p n) :=
  keeps_ite (fun _ => hs) (fun _ => keeps_ctxMap (keeps_dropPartnerSums hs))

theorem keeps_passSteps {p : Pass} (hs : Keeps s₀ s) : Keeps s₀ (passSteps s p) :=
  keeps_ite (fun _ => keeps_foldl (fun _ _ hs => keeps_jobStep hs) hs) (fun _ => hs)

theorem keeps_jobPassEnd {p : Pass} {n : Nat} (hs : Keeps s₀ s) : Keeps s₀ (jobPassEnd s p n) := by
  unfold jobPassEnd
  split
  · exact hs
  · exact keeps_ite (fun _ => keeps_ctxMap (keeps_endRecompute (keeps_dropPartnerSums hs)))
      (fun _ => keeps_ite (fun _ => keeps_doneCtx hs) (fun _ => hs))

theorem keeps_advancePass {k : Nat} (hs : Keeps s₀ s) : Keeps s₀ (advancePass s k) := by
  unfold advancePass
  split
  · exact hs
  · exact keeps_ite (fun _ => keeps_of_tables (keeps_foldl (fun _ _ hs => keeps_jobPassEnd hs) hs) rfl)
      (fun _ => keeps_ite (fun _ => keeps_of_tables hs rfl) (fun _ => keeps_of_tables hs rfl))

theorem keeps_advancePasses (hs : Keeps s₀ s) : Keeps s₀ (advancePasses s) :=
  keeps_of_tables (keeps_foldl (fun _ _ hs => keeps_advancePass hs) hs) rfl

theorem keeps_noPlacement {n : Nat} (hs : Keeps s₀ s) : Keeps s₀ (noPlacement s n) :=
  keeps_ctxMap (keeps_leaveSlots (keeps_ctxEnter (keeps_logEvent hs)))

theorem keeps_freshEngine {goesOn : Bool} {e : Nat} (hs : Keeps s₀ s) : Keeps s₀ (freshEngine goesOn s e) :=
  keeps_engSet hs

theorem keeps_takeSlot {n slot placement : Nat} (hs : Keeps s₀ s) : Keeps s₀ (takeSlot s n slot placement) := by
  unfold takeSlot
  split
  · exact hs
  · exact keeps_ctxMap (keeps_ite (fun _ => keeps_ite (fun _ => hs) (fun _ => keeps_ctxEnter hs))
      (fun _ => keeps_dropPartnerSums (keeps_ite (fun _ => hs) (fun _ => keeps_ctxEnter hs))))

theorem keeps_startPass {x : Candidate} {placement : Nat} (hs : Keeps s₀ s) : Keeps s₀ (startPass s x placement) := by
  unfold startPass
  refine keeps_foldl (fun _ _ hs => keeps_ite (fun _ => ?_) (fun _ => keeps_takeSlot hs))
    (keeps_foldl (fun _ _ hs => keeps_freshEngine hs) (keeps_of_tables hs rfl))
  split
  · exact keeps_ctxMap (keeps_dropPartnerSums (keeps_ite (fun _ => hs) (fun _ => keeps_ctxEnter hs)))
  · exact hs

theorem keeps_grant {x : Candidate} (hs : Keeps s₀ s) : Keeps s₀ (grant s x) := by
  unfold grant
  split
  · exact keeps_foldl (fun _ _ hs => keeps_noPlacement hs) hs
  · exact keeps_ite (fun _ => hs) (fun _ => keeps_startPass hs)

theorem keeps_backToReady (hs : Keeps s₀ s) : Keeps s₀ (backToReady s) :=
  keeps_foldl (fun _ _ hs => keeps_ite (fun _ => keeps_writeStart (keeps_ctxMap (keeps_ctxEnter hs)))
    (fun _ => keeps_ctxMap (keeps_ctxEnter hs))) hs

theorem keeps_grants {now : Nat} {only : Option (BitVec 64)} (hs : Keeps s₀ s) : Keeps s₀ (grants s now only) :=
  keeps_ite (fun _ => hs) (fun _ => keeps_foldl (fun _ _ hs => keeps_grant hs) hs)

theorem keeps_startPasses {now : Nat} {only : Option (BitVec 64)} (hs : Keeps s₀ s) : Keeps s₀ (startPasses s now only) :=
  keeps_pageStarts (keeps_backToReady (keeps_grants hs))

theorem keeps_cmdFwStage {w : Who} {p : Packet} (hs : Keeps s₀ s) : Keeps s₀ (cmdFwStage w p s).st := by
  unfold cmdFwStage
  extract_lets target source size inside
  refine keeps_ite_st (fun _ => keeps_refuse hs) fun _ => keeps_ite_st (fun _ => keeps_refuse hs) fun _ => ?_
  exact keeps_ite_st (fun _ => keeps_refuse hs) fun _ => keeps_accepted (keeps_of_tables hs rfl)

theorem keeps_execFwStageComplete (hs : Keeps s₀ s) : Goes s₀ (execFwStageComplete s) := by
  have hf {t : State} {f : Flash} (ht : Keeps s₀ t) : Keeps s₀ { t with flash := f } := keeps_of_tables ht rfl
  have hs1 : Keeps s₀ { s with out := [] } := keeps_of_tables hs rfl
  unfold execFwStageComplete
  dsimp only
  split
  · exact goes_next hs1
  · exact goes_ite (fun _ => goes_next (keeps_postEntry (hf hs1))) fun _ => goes_next (keeps_postEntry (hf hs1))

theorem keeps_cmdFwCommit {w : Who} {p : Packet} (hs : Keeps s₀ s) : Keeps s₀ (cmdFwCommit w p s).st := by
  unfold cmdFwCommit
  dsimp only
  split
  · exact keeps_refuse hs
  · split
    · exact keeps_refuse hs
    · split
      · exact keeps_refuse hs
      · split
        · exact keeps_refuse hs
        · split
          · exact keeps_refuse hs
          · exact keeps_accepted (keeps_of_tables hs rfl)

theorem keeps_execFwCommitComplete (hs : Keeps s₀ s) : Goes s₀ (execFwCommitComplete s) := by
  unfold execFwCommitComplete
  dsimp only
  split
  · exact goes_next (keeps_of_tables hs rfl)
  · exact goes_next (keeps_postEntry (keeps_of_tables hs rfl))

theorem keeps_tornStage (hs : Keeps s₀ s) : Keeps s₀ (tornStage s) := by
  have hf {t : State} {f : Flash} (ht : Keeps s₀ t) : Keeps s₀ { t with flash := f } := keeps_of_tables ht rfl
  unfold tornStage
  split
  · exact hs
  · exact keeps_ite (fun _ => hs) fun _ => keeps_ite (fun _ => keeps_freeVal hs) fun _ =>
      keeps_ite (fun _ => hf (keeps_freeVal hs)) fun _ => hf (keeps_freeBytes (hf (keeps_freeVal hs)))

theorem keeps_tornCommit (hs : Keeps s₀ s) : Keeps s₀ (tornCommit s) := by
  unfold tornCommit
  split
  · exact hs
  · exact keeps_ite (fun _ => keeps_of_tables (keeps_freeVal hs) rfl) (fun _ => keeps_freeVal hs)

theorem keeps_secRegs (hs : Keeps s₀ s) : Keeps s₀ (secRegs s) :=
  keeps_regSetF (keeps_regSet (keeps_regSetF hs))

theorem keeps_cmdAttest {w : Who} {p : Packet} (hs : Keeps s₀ s) : Keeps s₀ (cmdAttest w p s).st := by
  unfold cmdAttest
  split
  · exact keeps_refuse hs
  · exact keeps_accepted (keeps_of_tables hs rfl)

theorem keeps_putReport {b : Nat} {bytes : Bytes} (hs : Keeps s₀ s) : Keeps s₀ (putReport s b bytes) :=
  keeps_foldl (fun _ _ hs => keeps_regSet hs) hs

theorem keeps_execAttestComplete {k : Nat} (hs : Keeps s₀ s) : Goes s₀ (execAttestComplete k s) := by
  unfold execAttestComplete
  dsimp only
  split
  · exact goes_next (keeps_of_tables hs rfl)
  · exact goes_next (keeps_postEntry (keeps_putReport (keeps_freeVal (keeps_of_tables hs rfl))))

theorem keeps_floorF (hs : Keeps s₀ s) : Keeps s₀ (floorF s) := by
  unfold floorF
  split
  · exact keeps_ite (fun _ => keeps_raiseF hs) (fun _ => hs)
  · exact hs

theorem keeps_groupBoundary (hs : Keeps s₀ s) : Keeps s₀ (groupBoundary s) := by
  unfold groupBoundary
  split
  · exact hs
  · split
    · exact keeps_of_tables hs rfl
    · exact keeps_ite (fun _ => hs) (fun _ => keeps_ite (fun _ => keeps_postLater
        (keeps_ite (fun _ => keeps_writeStart (keeps_of_tables hs rfl)) (fun _ => keeps_of_tables hs rfl))) (fun _ => hs))

theorem keeps_groupBeatEnd (hs : Keeps s₀ s) : Keeps s₀ (groupBeatEnd s) := by
  unfold groupBeatEnd
  split
  · exact keeps_of_tables hs rfl
  · exact hs

theorem keeps_peerArrival {session : Nat} {op : Byte} {address : BitVec 64} {n : Nat} (hs : Keeps s₀ s) :
    Keeps s₀ (peerArrival s session op address n) := by
  unfold peerArrival
  dsimp only
  split
  · exact keeps_ite (fun _ => keeps_arrivalCount hs) (fun _ => hs)
  · exact keeps_ite (fun _ => keeps_arrivalCount hs) (fun _ => hs)
  · exact keeps_ite (fun _ => keeps_arrivalCount hs) (fun _ => hs)
  · exact hs

theorem keeps_performReq {q : UtxReq} {op : RmoOp} {cls : Cls} {cost : Nat} {ecc : List EccFind} (hs : Keeps s₀ s) :
    Keeps s₀ (performReq s q op cls cost ecc) := by
  unfold performReq
  split
  · exact hs
  · refine keeps_sendRsp (keeps_releaseSlots (keeps_ite (fun _ => keeps_peerArrival ?_) (fun _ => ?_)))
    · split
      · exact hs
      · exact keeps_rmoEffect hs
    · split
      · exact hs
      · exact keeps_rmoEffect hs

theorem keeps_performDeferred {d : Deferred} (hs : Keeps s₀ s) : Keeps s₀ (performDeferred s d) := by
  unfold performDeferred
  refine keeps_ite (fun _ => keeps_of_tables hs rfl) (fun _ => ?_)
  split
  · exact keeps_performReq hs
  · exact hs

theorem keeps_performAll (hs : Keeps s₀ s) : Keeps s₀ (performAll s) :=
  keeps_foldl (fun _ _ hs => keeps_performDeferred hs) (keeps_of_tables hs rfl)

theorem keeps_applyWaiting {w : BoundaryCmd} (hs : Keeps s₀ s) : Keeps s₀ (applyWaiting s w) := by
  unfold applyWaiting
  split
  · exact keeps_enterSubmit hs
  · exact keeps_ite (fun _ => keeps_endJobCmd hs) (fun _ => keeps_applyReq hs)
  · exact keeps_applyPage hs

theorem keeps_applyCommands (hs : Keeps s₀ s) : Keeps s₀ (applyCommands s) := by
  unfold applyCommands
  extract_lets ws s1 s2 rs s3
  have hs1 : Keeps s₀ s1 := keeps_groupPauses (keeps_of_tables hs rfl)
  have hs2 : Keeps s₀ s2 := keeps_of_tables hs1 rfl
  have hs3 : Keeps s₀ s3 := keeps_applyCopies (keeps_applyReleases hs2)
  exact keeps_foldl (fun _ _ hs => keeps_applyWaiting hs) hs3

theorem keeps_applySaves (hs : Keeps s₀ s) : Keeps s₀ (applySaves s) :=
  keeps_foldl (fun _ _ hs => keeps_applyRestore hs) (keeps_foldl (fun _ _ hs => keeps_applySave hs) (keeps_dropSaves hs))

theorem keeps_applyWrites (hs : Keeps s₀ s) : Keeps s₀ (applyWrites s) := by
  unfold applyWrites
  extract_lets ws s1 s2 rates s3 s4 ms
  have hs1 : Keeps s₀ s1 := by
    unfold s1
    refine keeps_foldl (fun _ _ hs => ?_) (keeps_of_tables hs rfl)
    extract_lets s2
    have hs2 : Keeps s₀ s2 := keeps_regSet hs
    exact keeps_of_tables hs2 rfl
  have hs2 : Keeps s₀ s2 := keeps_foldl (fun _ _ hs => keeps_qcTrim hs) hs1
  have hs3 : Keeps s₀ s3 := keeps_of_tables hs2 rfl
  have hs4 : Keeps s₀ s4 := keeps_foldl (fun _ _ hs => keeps_regSetF hs) hs3
  refine keeps_foldl (fun _ _ hs => keeps_ite (fun _ => hs) (fun _ => ?_)) hs4
  extract_lets s5
  have hs5 : Keeps s₀ s5 := keeps_regSetF hs
  exact keeps_of_tables hs5 rfl

theorem keeps_enterLimited {c : BitVec 5} (hs : Keeps s₀ s) : Keeps s₀ (enterLimited s c) :=
  keeps_logEvent (keeps_regCount (keeps_lowerF (keeps_of_tables hs rfl)))

theorem keeps_limitedBoundary (hs : Keeps s₀ s) : Keeps s₀ (limitedBoundary s) :=
  keeps_ite (fun _ => keeps_of_tables hs rfl) (fun _ => keeps_ite (fun _ => keeps_enterLimited (keeps_of_tables hs rfl))
    (fun _ => keeps_of_tables hs rfl))

/-- Bytes that memory loses leave it canonical. -/
theorem keeps_of_filtered {t : State} {p : Host.Cell → Bool} (hs : Keeps s₀ s)
    (h : (t.pending, t.mem, t.regs, t.engines, t.sessions, t.events)
      = (s.pending, s.mem.filter p, s.regs, s.engines, s.sessions, s.events)) : Keeps s₀ t := by
  simp only [Prod.mk.injEq] at h
  obtain ⟨hp, hm, hr, he, hk, hv⟩ := h
  exact keeps_of_canonical hs hp fun hc => ⟨by rw [hm]; exact swf_filter hc.mem p, by rw [hr]; exact hc.regs,
    by rw [he]; exact hc.engines, by rw [hk]; exact hc.sessions, by rw [hv]; exact hc.events⟩

theorem keeps_enterStandby (hs : Keeps s₀ s) : Keeps s₀ (enterStandby s) := by
  unfold enterStandby
  extract_lets s1 keep
  have hs1 : Keeps s₀ s1 := keeps_disableRails hs
  exact keeps_of_filtered hs1 rfl

theorem keeps_phaseOfPasses (hs : Keeps s₀ s) : Keeps s₀ (phaseOfPasses s) :=
  keeps_regSetF (keeps_regSetF (keeps_ite (fun _ => keeps_of_tables hs rfl) (fun _ => hs)))

theorem keeps_startDiag (hs : Keeps s₀ s) : Keeps s₀ (startDiag s) := by
  have hp {t : State} {p : List Iface} (ht : Keeps s₀ t) : Keeps s₀ { t with ports := p } := keeps_of_tables ht rfl
  have hd {d : Option DiagRun} {p : Power} : Keeps s₀ { s with diag := d, power := p } := keeps_of_tables hs rfl
  unfold startDiag
  split
  · exact hs
  · exact keeps_ite (fun _ => hs) fun _ =>
      keeps_ite (fun _ => keeps_regSetF (hp (keeps_regSet hd))) fun _ => keeps_regSet hd

theorem keeps_capF (hs : Keeps s₀ s) : Keeps s₀ (capF s) :=
  keeps_ite (fun _ => keeps_lowerF hs) (fun _ => hs)

theorem keeps_phaseBoundary (hs : Keeps s₀ s) : Keeps s₀ (phaseBoundary s) :=
  keeps_phaseOfPasses (keeps_ite (fun _ => keeps_enterStandby (keeps_floorF (keeps_capF (keeps_limitedBoundary hs))))
    (fun _ => keeps_floorF (keeps_capF (keeps_limitedBoundary hs))))

theorem keeps_powerRegs (hs : Keeps s₀ s) : Keeps s₀ (powerRegs s) :=
  keeps_regSet (keeps_regSet hs)

theorem keeps_boundaryRegs (hs : Keeps s₀ s) : Keeps s₀ (boundaryRegs s) :=
  keeps_regSetF (keeps_foldl (fun _ _ hs => keeps_regSetF hs)
    (keeps_foldl (fun _ _ hs => keeps_regSetF hs) (keeps_regSet hs)))

theorem keeps_boundaryEnds (hs : Keeps s₀ s) : Keeps s₀ (boundaryEnds s) :=
  keeps_applyFaults (keeps_applyFails (keeps_foldl (fun _ _ hs => keeps_passSteps hs)
    (keeps_foldl (fun _ _ hs => keeps_passTokens hs) (keeps_passDigests
    (keeps_groupBeatEnd (keeps_endHolds (keeps_landAll hs)))))))

theorem keeps_boundaryWork (hs : Keeps s₀ s) : Keeps s₀ (boundaryWork s) := by
  have hb {t : State} (ht : Keeps s₀ t) : Keeps s₀ { t with starting := [] } := keeps_of_tables ht rfl
  exact keeps_phaseBoundary (keeps_startDiag (keeps_applyWrites (keeps_foldl (fun _ _ hs => keeps_lowPressure hs) (hb
    (keeps_startPasses (keeps_groupBoundary (keeps_foldl (fun _ _ hs => keeps_allocRestore hs)
      (keeps_applyCommands (keeps_applySaves (keeps_advancePasses (keeps_performAll hs)))))))))))

theorem keeps_boundaryDone (hs : Keeps s₀ s) : Keeps s₀ (boundaryDone s) := by
  have hb {t : State} (ht : Keeps s₀ t) : Keeps s₀ { t with beats := t.beats + 1 } := keeps_of_tables ht rfl
  exact keeps_flushPosts (keeps_takeSnapshot (hb (keeps_secRegs (keeps_boundaryRegs (keeps_powerRegs hs)))))

theorem keeps_upsetCopies {us : List Upset} (hs : Keeps s₀ s) : Keeps s₀ (upsetCopies s us) :=
  keeps_of_tables hs rfl

theorem keeps_boundary {x : Sensors} (hs : Keeps s₀ s) : Keeps s₀ (boundary x s) :=
  keeps_boundaryDone (keeps_boundaryWork (keeps_boundaryEnds (keeps_upsetCopies (keeps_of_tables hs rfl))))

theorem keeps_onBoundary {f : State → State} (hs : Keeps s₀ s) (hf : ∀ t, Keeps s₀ t → Keeps s₀ (f t)) :
    Keeps s₀ (onBoundary s f) := by
  have hb {t : State} {n : Nat} (ht : Keeps s₀ t) : Keeps s₀ { t with beats := n } := keeps_of_tables ht rfl
  exact keeps_retakeSnap (hb (hf _ (hb hs)))

theorem keeps_execBatchWaitExpiry {image : BitVec 64} (hs : Keeps s₀ s) : Goes s₀ (execBatchWaitExpiry image s) := by
  unfold execBatchWaitExpiry
  dsimp only
  split
  · exact goes_next (keeps_of_tables hs rfl)
  · exact goes_next (keeps_flushPosts (keeps_onBoundary (keeps_of_tables hs rfl)
      (fun _ hs => keeps_phaseOfPasses (keeps_startPasses hs))))

theorem keeps_cmdVidOpen {w : Who} {p : Packet} (hs : Keeps s₀ s) : Keeps s₀ (cmdVidOpen w p s).st := by
  unfold cmdVidOpen
  dsimp only
  split
  · exact keeps_refuse hs
  · split
    · exact keeps_refuse hs
    · split
      · split
        · exact keeps_refuse hs
        · exact keeps_done (keeps_of_tables hs rfl)
      · exact keeps_refuse hs

theorem keeps_cmdVidFrame {w : Who} {p : Packet} (hs : Keeps s₀ s) : Keeps s₀ (cmdVidFrame w p s).st := by
  unfold cmdVidFrame
  extract_lets b
  split
  · exact keeps_refuse hs
  · split
    · exact keeps_refuse hs
    · split
      · exact keeps_refuse hs
      · split
        · exact keeps_refuse hs
        · split
          · exact keeps_refuse hs
          · split
            · exact keeps_refuse hs
            · split
              · exact keeps_refuse hs
              · split
                · exact keeps_refuse hs
                · extract_lets f s1
                  have hs1 : Keeps s₀ s1 := keeps_streamMap hs
                  exact keeps_accepted (keeps_codecPick (keeps_of_tables hs1 rfl))

theorem keeps_readInput {x : Stream} {f : Frame} {finds : List EccFind} (hs : Keeps s₀ s) :
    Keeps s₀ (readInput s x f finds) :=
  keeps_ite (fun _ => hs) (fun _ => keeps_foldl (fun _ _ hs => keeps_eccScan hs) hs)

theorem keeps_codecWrite {e a n : Nat} {write : State → State} (hs : Keeps s₀ s) (hw : ∀ t, Keeps s₀ t → Keeps s₀ (write t)) :
    Keeps s₀ (codecWrite s e a n write) :=
  keeps_ite (fun _ => hs) fun _ => keeps_ite (fun _ => hw s hs) fun _ => keeps_logOther hs

theorem keeps_putPicture {x : Stream} {f : Frame} {pic : Nat} (hs : Keeps s₀ s) : Keeps s₀ (putPicture s x f pic) :=
  keeps_codecWrite hs fun _ hs => keeps_foldl (fun _ _ hs => keeps_foldl (fun _ _ hs => keeps_storeBytes hs) hs) hs

theorem keeps_putMap {x : Stream} {f : Frame} (hs : Keeps s₀ s) : Keeps s₀ (putMap s x f) := by
  unfold putMap
  exact keeps_codecWrite hs (fun _ hs => keeps_foldl (fun _ _ hs => keeps_storeBytes hs) hs)

theorem keeps_encodeDone {x : Stream} {f : Frame} (hs : Keeps s₀ s) : Keeps s₀ (encodeDone s x f) :=
  keeps_postFrame (keeps_streamMap (keeps_ite (fun _ => keeps_putMap (keeps_codecWrite hs (fun _ hs => keeps_storeBytes hs)))
    (fun _ => keeps_codecWrite hs (fun _ hs => keeps_storeBytes hs))))

theorem keeps_decodeDone {x : Stream} {f : Frame} (hs : Keeps s₀ s) : Keeps s₀ (decodeDone s x f) := by
  unfold decodeDone
  refine keeps_postFrame (keeps_streamMap ?_)
  split
  · exact keeps_putPicture hs
  · exact hs

theorem keeps_frameDone {x : Stream} {f : Frame} {r : CodecReport} (hs : Keeps s₀ s) : Keeps s₀ (frameDone s x f r) :=
  keeps_ite (fun _ => keeps_ite (fun _ => keeps_encodeDone (keeps_readInput (keeps_of_tables hs rfl)))
    (fun _ => keeps_decodeDone (keeps_readInput (keeps_of_tables hs rfl))))
    (fun _ => keeps_damageStream (keeps_readInput (keeps_of_tables hs rfl)))

theorem keeps_execCodecTileBoundary {r : CodecReport} (hs : Keeps s₀ s) : Goes s₀ (execCodecTileBoundary r s) := by
  unfold execCodecTileBoundary
  dsimp only
  split
  · exact goes_next (keeps_codecPick (keeps_of_tables hs rfl))
  · split
    · exact goes_next (keeps_codecPick (keeps_of_tables hs rfl))
    · exact goes_next (keeps_ite (fun _ => keeps_codecMoves (keeps_frameDone (keeps_of_tables hs rfl)))
        (fun _ => keeps_codecYield (keeps_of_tables hs rfl)))

theorem keeps_closeStream {x : Stream} (hs : Keeps s₀ s) : Keeps s₀ (closeStream s x) := by
  unfold closeStream
  split
  · exact keeps_postEntry (keeps_of_tables hs rfl)
  · exact keeps_of_tables hs rfl

theorem keeps_set_st {a : Ans} (hs : Keeps s₀ s) : Keeps s₀ ({ a with st := s } : Ans).st := hs

theorem keeps_cmdVidClose {w : Who} {p : Packet} (hs : Keeps s₀ s) : Keeps s₀ (cmdVidClose w p s).st := by
  unfold cmdVidClose
  split
  · exact keeps_refuse hs
  · refine keeps_ite_st (fun _ => keeps_refuse hs) fun _ => keeps_ite_st (fun _ => keeps_refuse hs) fun _ =>
      keeps_ite_st (fun _ => keeps_refuse hs) fun _ => ?_
    exact keeps_ite_st (fun _ => keeps_set_st (keeps_closeStream (keeps_accepted (keeps_streamMap hs))))
      fun _ => keeps_accepted (keeps_streamMap hs)

theorem keeps_execVidCloseComplete {stream : Nat} (hs : Keeps s₀ s) : Goes s₀ (execVidCloseComplete stream s) := by
  unfold execVidCloseComplete
  dsimp only
  split
  · exact goes_next (keeps_of_tables hs rfl)
  · exact goes_next (keeps_ite (fun _ => keeps_closeStream (keeps_of_tables hs rfl)) (fun _ => keeps_of_tables hs rfl))

theorem keeps_ifaceMap {port i : Nat} {f : Iface → Iface} (hs : Keeps s₀ s) : Keeps s₀ (ifaceMap s port i f) :=
  keeps_of_tables hs rfl

theorem keeps_setHealthy {port : Nat} {lanes : List Nat} {mask : Nat} (hs : Keeps s₀ s) :
    Keeps s₀ (setHealthy s port lanes mask) :=
  keeps_regSetF hs

theorem keeps_trainIface {port i mask : Nat} (hs : Keeps s₀ s) : Keeps s₀ (trainIface s port i mask) :=
  keeps_ite (fun _ => keeps_regSetF (keeps_ifaceMap (keeps_setHealthy hs))) (fun _ => keeps_setHealthy hs)

theorem keeps_fallBack {port : Nat} (hs : Keeps s₀ s) : Keeps s₀ (fallBack s port) := by
  unfold fallBack
  split
  · exact keeps_ifaceMap hs
  · exact keeps_logEvent (keeps_retrainPort hs)

theorem keeps_trainPort {port mask : Nat} (hs : Keeps s₀ s) : Keeps s₀ (trainPort s port mask) :=
  keeps_ite (fun _ => keeps_ite (fun _ => keeps_trainIface (keeps_fallBack
    (keeps_foldl (fun _ _ hs => keeps_trainIface hs) (keeps_retrainPort hs))))
    (fun _ => keeps_fallBack (keeps_foldl (fun _ _ hs => keeps_trainIface hs) (keeps_retrainPort hs))))
    (fun _ => keeps_foldl (fun _ _ hs => keeps_trainIface hs) (keeps_retrainPort hs))

theorem keeps_execLinkTrainingComplete {port iface : Nat} {lanes : BitVec 8} (hs : Keeps s₀ s) :
    Goes s₀ (execLinkTrainingComplete port iface lanes s) := by
  unfold execLinkTrainingComplete
  dsimp only
  split
  · exact goes_next (keeps_trainIface (keeps_of_tables hs rfl))
  · exact goes_next (keeps_of_tables hs rfl)

theorem keeps_execLinkTrainingRetry {port iface : Nat} (hs : Keeps s₀ s) : Goes s₀ (execLinkTrainingRetry port iface s) := by
  unfold execLinkTrainingRetry
  dsimp only
  split
  · exact goes_next (keeps_of_tables hs rfl)
  · split
    · exact goes_next (keeps_of_tables hs rfl)
    · exact goes_next (keeps_ifaceMap (keeps_of_tables hs rfl))

theorem keeps_execPortFallback {port : Nat} (hs : Keeps s₀ s) : Goes s₀ (execPortFallback port s) := by
  unfold execPortFallback
  dsimp only
  split
  · exact goes_next (keeps_of_tables hs rfl)
  · split
    · exact goes_next (keeps_fallBack (keeps_of_tables hs rfl))
    · exact goes_next (keeps_of_tables hs rfl)

theorem keeps_loseState (hs : Keeps s₀ s) : Keeps s₀ (loseState s) := by
  have ht : Keeps s₀ (tornCommit (tornStage s)) := keeps_tornCommit (keeps_tornStage hs)
  exact keeps_regSet (keeps_of_canonical ht rfl fun _ => ⟨rfl, rfl, rfl, rfl, Nat.zero_le _⟩)

theorem keeps_powerDown (hs : Keeps s₀ s) : Keeps s₀ (powerDown s) :=
  keeps_of_tables (keeps_loseState hs) rfl

theorem keeps_resetBy {pin : ResetPin} (hs : Keeps s₀ s) : Keeps s₀ (resetBy s pin) := by
  unfold resetBy
  split
  · exact keeps_of_tables (keeps_powerDown hs) rfl
  · exact keeps_ite (fun _ => keeps_of_tables (keeps_freeVal (keeps_powerDown hs)) rfl)
      (fun _ => keeps_regSetF (keeps_of_tables (keeps_freeVal (keeps_powerDown hs)) rfl))

theorem keeps_execReset {pin : ResetPin} {lowNs : Nat} (hs : Keeps s₀ s) : Goes s₀ (execReset pin lowNs s) := by
  unfold execReset
  split
  · exact goes_next (keeps_of_tables hs rfl)
  · exact goes_next (keeps_resetBy (keeps_of_tables hs rfl))

theorem keeps_execCommitRestartReset (hs : Keeps s₀ s) : Goes s₀ (execCommitRestartReset s) := by
  unfold execCommitRestartReset
  dsimp only
  split
  · split
    · exact goes_next (keeps_powerDown (keeps_of_tables hs rfl))
    · exact goes_next (keeps_of_tables hs rfl)
  · exact goes_next (keeps_of_tables hs rfl)

theorem keeps_execThermalTrip {sensor tempC : Nat} (hs : Keeps s₀ s) : Goes s₀ (execThermalTrip sensor tempC s) := by
  have hp {t : State} {p : Power} (ht : Keeps s₀ t) : Keeps s₀ { t with power := p } := keeps_of_tables ht rfl
  have hs1 : Keeps s₀ { s with out := [] } := keeps_of_tables hs rfl
  exact goes_ite (fun _ => goes_next hs1) fun _ => goes_next (keeps_regCount (keeps_regSetF (hp (keeps_loseState hs1))))

theorem keeps_configWrite {y : Nat × List Word} (hs : Keeps s₀ s) : Keeps s₀ (configWrite s y) :=
  keeps_ite (fun _ => keeps_regWrite hs) (fun _ => keeps_foldl (fun _ _ hs => keeps_logEvent hs) (keeps_regWrite hs))

theorem keeps_reapplyFence {f : FenceRec} (hs : Keeps s₀ s) : Keeps s₀ (reapplyFence s f) := by
  unfold reapplyFence
  split
  · exact keeps_regSetF (keeps_regSetF hs)
  · exact keeps_of_tables (keeps_regSetF hs) rfl
  · exact keeps_of_tables (keeps_regSetF hs) rfl

theorem keeps_reapplyRetired {r : Nat} (hs : Keeps s₀ s) : Keeps s₀ (reapplyRetired s r) :=
  keeps_ite (fun _ => hs) (fun _ => keeps_regSetF (keeps_of_tables hs rfl))

theorem keeps_reapplyHealth (hs : Keeps s₀ s) : Keeps s₀ (reapplyHealth s) :=
  keeps_foldl (fun _ _ hs => keeps_reapplyFence hs) (keeps_foldl (fun _ _ hs => keeps_reapplyRetired hs)
    (keeps_foldl (fun _ _ hs => keeps_engSet hs) (keeps_of_tables hs rfl)))

theorem keeps_identify (hs : Keeps s₀ s) : Keeps s₀ (identify s) :=
  keeps_secRegs (keeps_regSet (keeps_regSetF (keeps_regSetF (keeps_regSet
    (keeps_regSet (keeps_regSet (keeps_regSet (keeps_regSet hs))))))))

theorem keeps_selfTestEngine {y : Nat × BitVec 4} (hs : Keeps s₀ s) : Keeps s₀ (selfTestEngine s y) :=
  keeps_ite (fun _ => keeps_regSetF hs) (fun _ => keeps_logEvent (keeps_reapplyFence (keeps_regSetF hs)))

theorem keeps_selfTestUnit {u : Nat} (hs : Keeps s₀ s) : Keeps s₀ (selfTestUnit s u) :=
  keeps_ite (fun _ => keeps_regSetF hs) (fun _ => keeps_logEvent (keeps_reapplyFence (keeps_regSetF hs)))

theorem keeps_selfTestCodec {v : Nat} (hs : Keeps s₀ s) : Keeps s₀ (selfTestCodec s v) :=
  keeps_ite (fun _ => keeps_regSetF hs) (fun _ => keeps_notice (keeps_logEvent (keeps_reapplyFence (keeps_regSetF hs))))

theorem keeps_withhold {st : Nat} (hs : Keeps s₀ s) : Keeps s₀ (withhold s st) :=
  keeps_notice (keeps_logEvent (keeps_regSetF (keeps_of_tables hs rfl)))

theorem keeps_deviceReady (hs : Keeps s₀ s) : Keeps s₀ (deviceReady s) :=
  keeps_takeSnapshot (keeps_secRegs (keeps_regSetF (keeps_regSetF (keeps_of_tables (keeps_logEvent hs) rfl))))

theorem keeps_startFailed (hs : Keeps s₀ s) : Keeps s₀ (startFailed s) :=
  keeps_regSetF (keeps_of_tables hs rfl)

theorem keeps_startFirmware {r : StartupReport} (hs : Keeps s₀ s) : Keeps s₀ (startFirmware s r).1 := by
  unfold startFirmware
  split
  · split
    · exact keeps_reapplyHealth (keeps_enableRails (keeps_foldl (fun _ _ hs => keeps_configWrite hs)
        (keeps_identify (keeps_ite (fun _ => keeps_notice (keeps_logEvent
        (keeps_regSetF (keeps_ite (fun _ => keeps_notice (keeps_logEvent (keeps_of_tables hs rfl)))
        (fun _ => keeps_of_tables hs rfl))))) (fun _ => keeps_ite (fun _ => keeps_notice (keeps_logEvent (keeps_of_tables hs rfl)))
        (fun _ => keeps_of_tables hs rfl))))))
    · exact keeps_enableRails (keeps_foldl (fun _ _ hs => keeps_configWrite hs)
        (keeps_identify (keeps_ite (fun _ => keeps_notice (keeps_logEvent
        (keeps_regSetF (keeps_ite (fun _ => keeps_notice (keeps_logEvent (keeps_of_tables hs rfl)))
        (fun _ => keeps_of_tables hs rfl))))) (fun _ => keeps_ite (fun _ => keeps_notice (keeps_logEvent (keeps_of_tables hs rfl)))
        (fun _ => keeps_of_tables hs rfl)))))
  · exact hs

theorem keeps_startUnits {r : StartupReport} (hs : Keeps s₀ s) : Keeps s₀ (startUnits s r) :=
  keeps_trainPort (keeps_trainPort (keeps_foldl (fun _ _ hs => keeps_withhold hs)
    (keeps_ite (fun _ => keeps_foldl (fun _ _ hs => keeps_selfTestCodec hs)
    (keeps_foldl (fun _ _ hs => keeps_selfTestUnit hs) (keeps_foldl (fun _ _ hs => keeps_selfTestEngine hs) hs)))
    (fun _ => keeps_beginHealth (keeps_foldl (fun _ _ hs => keeps_selfTestCodec hs)
    (keeps_foldl (fun _ _ hs => keeps_selfTestUnit hs) (keeps_foldl (fun _ _ hs => keeps_selfTestEngine hs) hs)))))))

theorem keeps_execStartup {r : StartupReport} (hs : Keeps s₀ s) : Goes s₀ (execStartup r s) := by
  have hp {t : State} {p : Power} (ht : Keeps s₀ t) : Keeps s₀ { t with power := p } := keeps_of_tables ht rfl
  have ht {x : Tap} : Keeps s₀ { s with out := [], tap := x } := keeps_of_tables hs rfl
  unfold execStartup
  refine goes_ite (fun _ => goes_next (keeps_of_tables hs rfl)) fun _ => goes_ite (fun _ => goes_next ht) fun _ => ?_
  split
  · next u heq => exact goes_next (keeps_startFailed (keeps_of_eq (congrArg Prod.fst heq) (keeps_startFirmware (hp ht))))
  · next u heq =>
    have hu : Keeps s₀ u := keeps_of_eq (congrArg Prod.fst heq) (keeps_startFirmware (hp ht))
    exact goes_ite (fun _ => goes_next (keeps_deviceReady (keeps_startUnits hu)))
      fun _ => goes_next (keeps_regSetF (hp (keeps_startUnits hu)))

theorem keeps_execStartupTimeTimeout (hs : Keeps s₀ s) : Goes s₀ (execStartupTimeTimeout s) := by
  unfold execStartupTimeTimeout
  dsimp only
  split
  · exact goes_next (keeps_deviceReady (keeps_of_tables hs rfl))
  · exact goes_next (keeps_of_tables hs rfl)

theorem keeps_railSet {r : Rail} (hs : Keeps s₀ s) : Keeps s₀ (railSet s r) :=
  keeps_of_tables hs rfl

theorem keeps_setCause {i : Nat} {on : Bool} (hs : Keeps s₀ s) : Keeps s₀ (setCause s i on) :=
  keeps_of_tables hs rfl

theorem keeps_logRail {i : Nat} {w : BitVec 16} (hs : Keeps s₀ s) : Keeps s₀ (logRail s i w) :=
  keeps_logEvent hs

theorem keeps_railAnswer {r : RailReading} {log : BitVec 16 → Rail → Bool} (hs : Keeps s₀ s) :
    Keeps s₀ (railAnswer s r log) := by
  unfold railAnswer
  split
  · exact keeps_ite (fun _ => keeps_setCause (keeps_logRail (keeps_railSet hs))) (fun _ => keeps_railSet hs)
  · exact keeps_ite (fun _ => keeps_setCause (keeps_railSet (keeps_ite
      (fun _ => keeps_pmbus (keeps_ite (fun _ => keeps_logRail hs) (fun _ => hs)))
      (fun _ => keeps_ite (fun _ => keeps_logRail hs) (fun _ => hs)))))
      (fun _ => keeps_railSet (keeps_ite (fun _ => keeps_pmbus (keeps_ite (fun _ => keeps_logRail hs) (fun _ => hs)))
      (fun _ => keeps_ite (fun _ => keeps_logRail hs) (fun _ => hs))))

theorem keeps_clearRailCauses (hs : Keeps s₀ s) : Keeps s₀ (clearRailCauses s) :=
  keeps_ite (fun _ => keeps_setCause (keeps_ite (fun _ => keeps_setCause hs) (fun _ => hs)))
    (fun _ => keeps_ite (fun _ => keeps_setCause hs) (fun _ => hs))

theorem keeps_execRegulatorAlert {lowNs : Nat} {rails : List RailReading} (hs : Keeps s₀ s) :
    Goes s₀ (execRegulatorAlert lowNs rails s) := by
  unfold execRegulatorAlert
  dsimp only
  split
  · exact goes_next (keeps_of_tables hs rfl)
  · exact goes_next (keeps_foldl (fun _ _ hs => keeps_railAnswer (keeps_pmbus hs))
      (keeps_of_tables (keeps_regCount (keeps_of_tables hs rfl)) rfl))

theorem keeps_execVrAlertSustained (hs : Keeps s₀ s) : Goes s₀ (execVrAlertSustained s) := by
  unfold execVrAlertSustained
  extract_lets +onlyGivenNames s1
  have hs1 : Keeps s₀ s1 := keeps_of_tables hs rfl
  split
  · exact goes_next hs1
  · extract_lets +onlyGivenNames s2
    have hs2 : Keeps s₀ s2 := keeps_ite (fun _ => hs1) (fun _ => keeps_logEvent hs1)
    exact goes_next (keeps_setCause (keeps_of_tables hs2 rfl))

theorem keeps_railTelemetry {r : RailReading} (hs : Keeps s₀ s) : Keeps s₀ (railTelemetry s r) := by
  unfold railTelemetry
  split
  · exact hs
  · exact keeps_railSet hs

theorem keeps_execPmbusPoll {rails : List RailReading} (hs : Keeps s₀ s) : Goes s₀ (execPmbusPoll rails s) := by
  have hp {t : State} {p : Power} (ht : Keeps s₀ t) : Keeps s₀ { t with power := p } := keeps_of_tables ht rfl
  have hs1 : Keeps s₀ { s with out := [] } := keeps_of_tables hs rfl
  exact goes_ite (fun _ => goes_next hs1) fun _ => goes_next (keeps_clearRailCauses (hp
    (keeps_foldl (fun _ _ hs => keeps_railAnswer (keeps_railTelemetry (keeps_pmbus hs))) (hp hs1))))

theorem keeps_execPowerCalibration {readPoutW : Nat} (hs : Keeps s₀ s) : Goes s₀ (execPowerCalibration readPoutW s) := by
  unfold execPowerCalibration
  dsimp only
  split
  · exact goes_next (keeps_of_tables hs rfl)
  · exact goes_next (keeps_of_tables hs rfl)

theorem keeps_countF {f : Nat} {t : State} (ht : Keeps s₀ t) : Keeps s₀ (countF s f t) :=
  keeps_ite (fun _ => keeps_regCount ht) (fun _ => ht)

theorem keeps_policy {x : Sensors} (hs : Keeps s₀ s) : Keeps s₀ (policy s x) :=
  keeps_ite (fun _ => keeps_ite (fun _ => keeps_phaseOfPasses (keeps_enterLimited (keeps_setCause hs))) fun _ =>
      keeps_countF (keeps_lowerF hs)) fun _ =>
    keeps_ite (fun _ => keeps_countF (keeps_raiseF hs)) fun _ => hs

theorem keeps_execPowerEvaluation {x : Sensors} (hs : Keeps s₀ s) : Goes s₀ (execPowerEvaluation x s) := by
  unfold execPowerEvaluation
  dsimp only
  split
  · exact goes_next (keeps_of_tables hs rfl)
  · exact goes_next (keeps_onBoundary (keeps_regSetF (keeps_of_tables hs rfl))
      (fun _ hs => keeps_ite (fun _ => hs) (fun _ => keeps_policy hs)))

theorem keeps_execLimitedExit (hs : Keeps s₀ s) : Goes s₀ (execLimitedExit s) := by
  unfold execLimitedExit
  dsimp only
  split
  · split
    · exact goes_next (keeps_retakeSnap (keeps_phaseOfPasses (keeps_floorF (keeps_enterRamp (keeps_of_tables hs rfl)))))
    · exact goes_next (keeps_of_tables hs rfl)
  · exact goes_next (keeps_of_tables hs rfl)

theorem keeps_execRampModeEnd (hs : Keeps s₀ s) : Goes s₀ (execRampModeEnd s) := by
  unfold execRampModeEnd
  dsimp only
  split
  · split
    · exact goes_next (keeps_of_tables hs rfl)
    · exact goes_next (keeps_of_tables hs rfl)
  · exact goes_next (keeps_of_tables hs rfl)

theorem keeps_execVoteScrub (hs : Keeps s₀ s) : Goes s₀ (execVoteScrub s) := by
  unfold execVoteScrub
  dsimp only
  split
  · exact goes_next (keeps_of_tables hs rfl)
  · exact goes_next (keeps_foldl (fun _ _ hs => keeps_voteFix hs) (keeps_of_tables hs rfl))

theorem keeps_execPatrol {stack : Nat} {finds : List EccFind} (hs : Keeps s₀ s) : Goes s₀ (execPatrol stack finds s) := by
  unfold execPatrol
  dsimp only
  split
  · exact goes_next (keeps_of_tables hs rfl)
  · exact goes_next (keeps_foldl (fun _ _ hs => keeps_eccFind hs) (keeps_of_tables hs rfl))

theorem keeps_readDie {d : DieStatus} (hs : Keeps s₀ s) : Keeps s₀ (readDie s d) := by
  have hp {t : State} {p : Power} (ht : Keeps s₀ t) : Keeps s₀ { t with power := p } := keeps_of_tables ht rfl
  unfold readDie
  extract_lets +onlyGivenNames c s1
  have hs1 : Keeps s₀ s1 := keeps_ite (fun _ => hs) (fun _ => keeps_of_tables hs rfl)
  exact keeps_ite (fun _ => keeps_notice (keeps_logEvent (hp hs1))) fun _ => hp hs1

theorem keeps_execRefreshRateRead {dies : List DieStatus} (hs : Keeps s₀ s) : Goes s₀ (execRefreshRateRead dies s) := by
  unfold execRefreshRateRead
  dsimp only
  split
  · exact goes_next (keeps_of_tables hs rfl)
  · exact goes_next (keeps_foldl (fun _ _ hs => keeps_readDie hs) (keeps_of_tables hs rfl))

theorem keeps_execCorrectionWriteBack {addr : Nat} (hs : Keeps s₀ s) : Goes s₀ (execCorrectionWriteBack addr s) :=
  goes_next (keeps_of_tables hs rfl)

theorem keeps_execHealthTimeCheckpoint (hs : Keeps s₀ s) : Goes s₀ (execHealthTimeCheckpoint s) := by
  unfold execHealthTimeCheckpoint
  dsimp only
  split
  · exact goes_next (keeps_of_tables hs rfl)
  · exact goes_next (keeps_beginHealth (keeps_of_tables hs rfl))

theorem keeps_execHealthRecordWriteDone (hs : Keeps s₀ s) : Goes s₀ (execHealthRecordWriteDone s) := by
  unfold execHealthRecordWriteDone
  dsimp only
  split
  · exact goes_next (keeps_of_tables hs rfl)
  · exact goes_next (keeps_of_tables hs rfl)

theorem keeps_cmdDiag {w : Who} {p : Packet} (hs : Keeps s₀ s) : Keeps s₀ (cmdDiag w p s).st := by
  unfold cmdDiag
  dsimp only
  split
  · exact keeps_refuse hs
  · split
    · exact keeps_refuse hs
    · split
      · exact keeps_refuse hs
      · split
        · exact keeps_refuse hs
        · split
          · exact keeps_refuse hs
          · exact keeps_accepted (keeps_of_tables hs rfl)

theorem keeps_diagFail {d : DiagRun} {r : DiagTarget} (hs : Keeps s₀ s) : Keeps s₀ (diagFail d s r) := by
  unfold diagFail
  split
  · exact keeps_fenceEngine (keeps_regSetF (keeps_logEvent hs))
  · exact keeps_fenceEngine (keeps_regSetF (keeps_logEvent hs))
  · exact keeps_calFenceSet (keeps_of_tables (keeps_regSetF (keeps_logEvent hs)) rfl)
  · exact keeps_beginHealth (keeps_regSetF (keeps_of_tables (keeps_logEvent hs) rfl))
  · exact keeps_notice (keeps_logEvent hs)
  · exact keeps_notice (keeps_logEvent hs)
  · exact keeps_logEvent hs

theorem keeps_diagPass {d : DiagRun} {i : Nat} (hs : Keeps s₀ s) : Keeps s₀ (diagPass d s i) := by
  unfold diagPass
  split
  · exact keeps_engSet (keeps_regSetF hs)
  · exact keeps_engSet (keeps_regSetF hs)
  · exact keeps_of_tables (keeps_regSetF hs) rfl
  · exact keeps_of_tables (keeps_regSetF hs) rfl
  · exact hs

theorem keeps_diagTarget {d : DiagRun} {results : List DiagTarget} {i : Nat} (hs : Keeps s₀ s) :
    Keeps s₀ (diagTarget d results s i) :=
  keeps_ite (fun _ => keeps_diagFail (keeps_foldl (fun _ _ hs => keeps_eccFind hs) hs))
    (fun _ => keeps_diagPass (keeps_foldl (fun _ _ hs => keeps_eccFind hs) hs))

theorem keeps_zeroWhere {gone : Nat → Bool} (hs : Keeps s₀ s) : Keeps s₀ (zeroWhere s gone) := keeps_of_filtered hs rfl

theorem keeps_isRestored {es : List Nat} (hs : Keeps s₀ s) : Keeps s₀ (isRestored s es) :=
  keeps_of_tables hs rfl

theorem keeps_diagLeaves {d : DiagRun} (hs : Keeps s₀ s) : Keeps s₀ (diagLeaves d s) := by
  unfold diagLeaves
  split
  · exact keeps_checkImages (keeps_isRestored (keeps_zeroWhere hs))
  · exact keeps_checkImages (keeps_isRestored (keeps_zeroWhere hs))
  · exact keeps_checkImages (keeps_isRestored (keeps_zeroWhere hs))
  · exact keeps_zeroWhere hs
  · exact keeps_retrainPort hs
  · exact hs

theorem keeps_diagRecords {d : DiagRun} {results : List DiagTarget} (hs : Keeps s₀ s) : Keeps s₀ (diagRecords d results s) :=
    by
  unfold diagRecords
  split
  · exact keeps_of_tables hs rfl
  · exact keeps_of_tables hs rfl
  · exact hs

theorem keeps_execDiagTestComplete {results : List DiagTarget} {elapsedUs : Nat} (hs : Keeps s₀ s) :
    Goes s₀ (execDiagTestComplete results elapsedUs s) := by
  have hp {t : State} {p : Power} (ht : Keeps s₀ t) : Keeps s₀ { t with diag := none, power := p } := keeps_of_tables ht rfl
  have hs1 : Keeps s₀ { s with out := [] } := keeps_of_tables hs rfl
  unfold execDiagTestComplete
  dsimp only
  split
  · exact goes_next hs1
  · exact goes_ite (fun _ => goes_next hs1) fun _ => goes_next
      (keeps_postEntry (hp (keeps_regSet (keeps_regSet (keeps_diagRecords
      (keeps_diagLeaves (keeps_foldl (fun _ _ hs => keeps_diagTarget hs) hs1)))))))

theorem keeps_openPeer {b : Bytes} {j : Nat} (hs : Keeps s₀ s) : Keeps s₀ (openPeer b s j) :=
  keeps_of_tables (keeps_sessSet (keeps_sessSet hs)) rfl

theorem keeps_zeroRange {a n : Nat} (hs : Keeps s₀ s) : Keeps s₀ (zeroRange s a n) := keeps_of_filtered hs rfl

theorem keeps_cmdGroupJoin {w : Who} {p : Packet} (hs : Keeps s₀ s) : Keeps s₀ (cmdGroupJoin w p s).st := by
  have hg {g : Option Group} {n : Option (BitVec 16)} : Keeps s₀ { s with group := g, node := n } := keeps_of_tables hs rfl
  unfold cmdGroupJoin
  extract_lets +onlyGivenNames b others
  iterate 9 refine keeps_ite_st (fun _ => keeps_refuse hs) fun _ => ?_
  exact keeps_accepted (keeps_zeroRange (keeps_zeroRange (keeps_foldl (fun _ _ hs => keeps_openPeer hs) hg)))

theorem keeps_cmdGroupLeave {w : Who} {p : Packet} (hs : Keeps s₀ s) : Keeps s₀ (cmdGroupLeave w p s).st := by
  unfold cmdGroupLeave
  split
  · exact keeps_refuse hs
  · split
    · exact keeps_refuse hs
    · exact keeps_accepted (keeps_of_tables hs rfl)

theorem keeps_execGroupLeaveComplete (hs : Keeps s₀ s) : Goes s₀ (execGroupLeaveComplete s) := by
  unfold execGroupLeaveComplete
  dsimp only
  split
  · exact goes_next (keeps_of_tables hs rfl)
  · split
    · exact goes_next (keeps_of_tables hs rfl)
    · refine goes_next ?_
      split
      · exact keeps_postEntry (keeps_foldl (fun _ _ hs => keeps_closeSession hs) (keeps_of_tables hs rfl))
      · exact keeps_foldl (fun _ _ hs => keeps_closeSession hs) (keeps_of_tables hs rfl)

theorem keeps_applySlips {g : Group} (hs : Keeps s₀ s) : Keeps s₀ (applySlips s g) := by
  unfold applySlips
  extract_lets due sum s1 s2
  have hs1 : Keeps s₀ s1 := keeps_foldl (fun _ _ hs => keeps_logEvent hs) hs
  have hs2 : Keeps s₀ s2 := keeps_regCount hs1
  exact keeps_ite (fun _ => hs) (fun _ => keeps_of_sessions hs2 rfl fun h => keysRise_map_fst (hg := by intro _; rfl) h)

theorem keeps_waitFilled (hs : Keeps s₀ s) : Keeps s₀ (waitFilled s) :=
  keeps_foldl (fun _ _ hs => keeps_engSet hs) hs

theorem keeps_execGroupBeatStart (hs : Keeps s₀ s) : Goes s₀ (execGroupBeatStart s) := by
  have hg {t : State} {g : Option Group} (ht : Keeps s₀ t) : Keeps s₀ { t with group := g } := keeps_of_tables ht rfl
  have hs1 : Keeps s₀ { s with out := [] } := keeps_of_tables hs rfl
  unfold execGroupBeatStart
  dsimp only
  split
  · exact goes_next hs1
  · exact goes_ite (fun _ => goes_next hs1) fun _ => goes_next (hg (keeps_ite (fun _ => keeps_applySlips hs1)
      fun _ => keeps_waitFilled (keeps_applySlips hs1)))

theorem keeps_execSlipNotice {j : Nat} (hs : Keeps s₀ s) : Goes s₀ (execSlipNotice j s) := by
  unfold execSlipNotice
  dsimp only
  split
  · exact goes_next (keeps_of_tables hs rfl)
  · split
    · exact goes_next (keeps_of_tables hs rfl)
    · exact goes_next (keeps_memberWrite (keeps_of_tables hs rfl))

theorem keeps_abandon {e : Nat} (hs : Keeps s₀ s) : Keeps s₀ (abandon s e) :=
  keeps_engSet hs

theorem keeps_execGroupHoldLimit {engine member_ : Nat} (hs : Keeps s₀ s) : Goes s₀ (execGroupHoldLimit engine member_ s) :=
    by
  unfold execGroupHoldLimit
  dsimp only
  split
  · split
    · exact goes_next (keeps_of_tables hs rfl)
    · exact goes_next (keeps_failAll (keeps_foldl (fun _ _ hs => keeps_abandon hs) (keeps_logEvent (keeps_of_tables hs rfl))))
  · exact goes_next (keeps_of_tables hs rfl)

theorem keeps_slewBy {off : ℤ} (hs : Keeps s₀ s) : Keeps s₀ (slewBy s off) :=
  keeps_setInc hs

theorem keeps_stepBy {off : ℤ} (hs : Keeps s₀ s) : Keeps s₀ (stepBy s off) :=
  keeps_logEvent (keeps_regCount (keeps_of_tables hs rfl))

theorem keeps_reachLocked (hs : Keeps s₀ s) : Keeps s₀ (reachLocked s) :=
  keeps_ite (fun _ => keeps_deviceReady (keeps_setTime hs)) (fun _ => keeps_setTime hs)

theorem keeps_countSample {off : ℤ} (hs : Keeps s₀ s) : Keeps s₀ (countSample s off) :=
  keeps_ite (fun _ => keeps_reachLocked (keeps_of_tables hs rfl))
    (fun _ => keeps_ite (fun _ => keeps_setTime (keeps_of_tables hs rfl)) (fun _ => keeps_of_tables hs rfl))

theorem keeps_takeSample {off : ℤ} (hs : Keeps s₀ s) : Keeps s₀ (takeSample s off) :=
  keeps_countSample (keeps_ite (fun _ => keeps_stepBy (keeps_regSet (keeps_ite (fun _ => keeps_setTime hs) (fun _ => hs))))
    (fun _ => keeps_slewBy (keeps_regSet (keeps_ite (fun _ => keeps_setTime hs) (fun _ => hs)))))

theorem keeps_loseReference (hs : Keeps s₀ s) : Keeps s₀ (loseReference s) := by
  unfold loseReference
  split
  · exact keeps_setTime hs
  · exact keeps_ite (fun _ => keeps_setTime hs) (fun _ => keeps_setTime hs)
  · exact hs

theorem keeps_ptpUnheard {port : Nat} (hs : Keeps s₀ s) : Keeps s₀ (ptpUnheard s port) :=
  keeps_ite (fun _ => keeps_chargeReserve hs fun _ ht => ht) (fun _ => hs)

theorem keeps_countSync {port : Nat} (hs : Keeps s₀ s) : Keeps s₀ (countSync s port) :=
  keeps_of_tables hs rfl

theorem keeps_completeSync {t1 t2 : ℤ} (hs : Keeps s₀ s) : Keeps s₀ (completeSync s t1 t2) := by
  unfold completeSync
  dsimp only
  split
  · exact keeps_takeSample (keeps_of_tables hs rfl)
  · exact keeps_of_tables hs rfl

theorem keeps_ptpTake {port : Nat} {domain : Byte} {ip : Option Bool} {use : State → State} (hs : Keeps s₀ s)
    (hu : ∀ t, Keeps s₀ t → Keeps s₀ (use t)) : Keeps s₀ (ptpTake s port domain ip use) := by
  unfold ptpTake
  extract_lets s1
  have hs1 : Keeps s₀ s1 := keeps_of_tables hs rfl
  exact keeps_ite (fun _ => keeps_ite (fun _ => keeps_filterFrame hs1) (fun _ => hs1))
    fun _ => keeps_ite (fun _ => keeps_ptpUnheard hs1) (fun _ => keeps_chargeReserve hs1 hu)

theorem keeps_takeSync {m : PtpMsg} (hs : Keeps s₀ s) : Keeps s₀ (takeSync m s) := by
  have hd {t : State} {d : Discipline} (ht : Keeps s₀ t) : Keeps s₀ { t with disc := d } := keeps_of_tables ht rfl
  exact keeps_ite (fun _ => keeps_regCount hs) fun _ => keeps_ite (fun _ => keeps_countSync hs) fun _ =>
    keeps_ite (fun _ => hd (hd (keeps_countSync hs))) fun _ => keeps_completeSync (hd (keeps_countSync hs))

theorem keeps_execPtpSync {m : PtpMsg} (hs : Keeps s₀ s) : Goes s₀ (execPtpSync m s) :=
  goes_next (keeps_ptpTake hs (fun _ hs => keeps_takeSync hs))

theorem keeps_takeFollowUp {m : PtpMsg} (hs : Keeps s₀ s) : Keeps s₀ (takeFollowUp m s) := by
  unfold takeFollowUp
  split
  · exact keeps_ite (fun _ => keeps_completeSync hs) (fun _ => hs)
  · exact hs

theorem keeps_execPtpFollowUp {m : PtpMsg} (hs : Keeps s₀ s) : Goes s₀ (execPtpFollowUp m s) :=
  goes_next (keeps_ptpTake hs (fun _ hs => keeps_takeFollowUp hs))

theorem keeps_takeDelayResp {m : PtpMsg} (hs : Keeps s₀ s) : Keeps s₀ (takeDelayResp m s) := by
  unfold takeDelayResp
  split
  · exact keeps_ite (fun _ => hs) (fun _ => keeps_ite (fun _ => keeps_of_tables hs rfl)
      (fun _ => keeps_takeSample (keeps_of_tables hs rfl)))
  · exact hs

theorem keeps_execPtpDelayResp {m : PtpMsg} (hs : Keeps s₀ s) : Goes s₀ (execPtpDelayResp m s) :=
  goes_next (keeps_ptpTake hs (fun _ hs => keeps_takeDelayResp hs))

theorem keeps_changeMaster {a : PtpAnnounce} (hs : Keeps s₀ s) : Keeps s₀ (changeMaster s a) :=
  keeps_ite (fun _ => keeps_setTime (keeps_of_tables hs rfl)) (fun _ => keeps_of_tables hs rfl)

theorem keeps_takeAnnounce {m : PtpAnnounce} (hs : Keeps s₀ s) : Keeps s₀ (takeAnnounce m s) := by
  unfold takeAnnounce
  dsimp only
  split
  · exact keeps_of_tables hs rfl
  · exact keeps_ite (fun _ => keeps_of_tables hs rfl) (fun _ => keeps_changeMaster (keeps_of_tables hs rfl))

theorem keeps_execPtpAnnounce {m : PtpAnnounce} (hs : Keeps s₀ s) : Goes s₀ (execPtpAnnounce m s) :=
  goes_next (keeps_ptpTake hs (fun _ hs => keeps_takeAnnounce hs))

theorem keeps_execDelayReqSend (hs : Keeps s₀ s) : Goes s₀ (execDelayReqSend s) := by
  unfold execDelayReqSend
  dsimp only
  split
  · exact goes_next (keeps_of_tables hs rfl)
  · split
    · exact goes_next (keeps_of_tables hs rfl)
    · exact goes_next (keeps_sendOrHold (keeps_of_tables hs rfl))

theorem keeps_execAnnounceTimeout (hs : Keeps s₀ s) : Goes s₀ (execAnnounceTimeout s) := by
  have hd {t : State} {d : Discipline} (ht : Keeps s₀ t) : Keeps s₀ { t with disc := d } := keeps_of_tables ht rfl
  unfold execAnnounceTimeout
  dsimp only
  split
  · exact goes_next (keeps_of_tables hs rfl)
  · exact goes_ite (fun _ => goes_next (keeps_of_tables hs rfl)) fun _ => goes_next
      (hd (keeps_loseReference (keeps_of_tables hs rfl)))

theorem keeps_execSyncTimeout (hs : Keeps s₀ s) : Goes s₀ (execSyncTimeout s) := by
  unfold execSyncTimeout
  dsimp only
  split
  · exact goes_next (keeps_of_tables hs rfl)
  · exact goes_next (keeps_loseReference (keeps_of_tables hs rfl))

theorem keeps_execHoldoverLimitExpiry (hs : Keeps s₀ s) : Goes s₀ (execHoldoverLimitExpiry s) := by
  unfold execHoldoverLimitExpiry
  dsimp only
  split
  · exact goes_next (keeps_setTime (keeps_of_tables hs rfl))
  · exact goes_next (keeps_of_tables hs rfl)

theorem keeps_takeSeconds (hs : Keeps s₀ s) : Keeps s₀ (takeSeconds s) :=
  keeps_ite (fun _ => hs) (fun _ => keeps_of_tables hs rfl)

theorem keeps_execPpsInEdge {highNs : Nat} (hs : Keeps s₀ s) : Goes s₀ (execPpsInEdge highNs s) := by
  have hd {t : State} {d : Discipline} (ht : Keeps s₀ t) : Keeps s₀ { t with disc := d } := keeps_of_tables ht rfl
  have hs1 : Keeps s₀ { s with out := [] } := keeps_of_tables hs rfl
  exact goes_ite (fun _ => goes_next hs1) fun _ => goes_ite (fun _ => goes_next (keeps_regCount hs1)) fun _ =>
    goes_ite (fun _ => goes_next (hd hs1)) fun _ => goes_next (hd (keeps_takeSample (keeps_takeSeconds hs1)))

theorem keeps_execPpsStuck (hs : Keeps s₀ s) : Goes s₀ (execPpsStuck s) := by
  unfold execPpsStuck
  dsimp only
  split
  · exact goes_next (keeps_of_tables hs rfl)
  · exact goes_next (keeps_ite (fun _ => keeps_loseReference (keeps_regCount (keeps_of_tables hs rfl)))
      (fun _ => keeps_regCount (keeps_of_tables hs rfl)))

theorem keeps_execPpsOutRise (hs : Keeps s₀ s) : Goes s₀ (execPpsOutRise s) := by
  unfold execPpsOutRise
  dsimp only
  split
  · exact goes_next (keeps_of_tables hs rfl)
  · exact goes_next (keeps_of_tables hs rfl)

theorem keeps_execPpsOutFall (hs : Keeps s₀ s) : Goes s₀ (execPpsOutFall s) := by
  unfold execPpsOutFall
  dsimp only
  split
  · exact goes_next (keeps_of_tables hs rfl)
  · exact goes_next (keeps_of_tables hs rfl)

theorem keeps_ownCommand {op : Byte} {w : Who} {p : Packet} (hs : Keeps s₀ s) : Keeps s₀ (ownCommand op w p s).st := by
  unfold ownCommand
  split
  · exact keeps_cmdSessionOpen hs
  · exact keeps_cmdSessionClose hs
  · exact keeps_cmdPing hs
  · exact keeps_cmdRegRead hs
  · exact keeps_cmdRegWrite hs
  · exact keeps_cmdImageOp hs
  · exact keeps_cmdImageOp hs
  · exact keeps_cmdImageUnload hs
  · exact keeps_cmdJobSubmit hs
  · exact keeps_cmdJobQuery hs
  · exact keeps_cmdJobCancel hs
  · exact keeps_cmdJobPause hs
  · exact keeps_cmdJobResume hs
  · exact keeps_cmdCtxSave hs
  · exact keeps_cmdCtxRestore hs
  · exact keeps_cmdPageAlloc hs
  · exact keeps_cmdPageShare hs
  · exact keeps_cmdPageRelease hs
  · exact keeps_cmdDigestRead hs
  · exact keeps_cmdVidOpen hs
  · exact keeps_cmdVidFrame hs
  · exact keeps_cmdVidClose hs
  · exact keeps_cmdTimeQuery hs
  · exact keeps_cmdFwStage hs
  · exact keeps_cmdFwCommit hs
  · exact keeps_cmdAttest hs
  · exact keeps_cmdDiag hs
  · exact keeps_cmdTelemetry hs
  · exact keeps_cmdGroupJoin hs
  · exact keeps_cmdGroupLeave hs
  · exact keeps_refuse hs

theorem keeps_takeRingAck {n : Nat} {ack : BitVec 32} (hs : Keeps s₀ s) : Keeps s₀ (takeRingAck s n ack) :=
  keeps_sessMap hs

theorem keeps_answer {p : Packet} {op : Byte} (hs : Keeps s₀ s) : Keeps s₀ (answer s p op) := by
  unfold answer
  split
  · exact hs
  · split
    · exact hs
    · refine keeps_ite (fun _ => ?_) (fun _ => ?_)
      · split
        · exact keeps_refuse (keeps_takeRingAck hs)
        · exact keeps_ownCommand (keeps_takeRingAck hs)
      · split
        · refine keeps_closeSession (keeps_sendReply ?_)
          split
          · exact keeps_refuse (keeps_takeRingAck hs)
          · exact keeps_ownCommand (keeps_takeRingAck hs)
        · refine keeps_sendReply ?_
          split
          · exact keeps_refuse (keeps_takeRingAck hs)
          · exact keeps_ownCommand (keeps_takeRingAck hs)

theorem keeps_stopCommand {p : Packet} {op : Byte} {c : Code} (hs : Keeps s₀ s) : Keeps s₀ (stopCommand s p op c) := by
  unfold stopCommand
  refine keeps_ite (fun _ => keeps_sendReply (keeps_logOther ?_)) (fun _ => keeps_sendReply hs)
  split
  · exact keeps_ite (fun _ => keeps_takeRingAck hs) (fun _ => hs)
  · exact hs

theorem keeps_sessionCommand {op : Byte} {p : Packet} {n : Nat} (hs : Keeps s₀ s) : Keeps s₀ (sessionCommand op p n s) := by
  unfold sessionCommand
  split
  · exact hs
  · refine keeps_ite (fun _ => hs) (fun _ => ?_)
    split
    · exact keeps_stopCommand hs
    · exact keeps_answer hs

theorem keeps_countBoot {port : Nat} (hs : Keeps s₀ s) : Keeps s₀ (countBoot s port) :=
  keeps_of_tables hs rfl

theorem keeps_bootReady {op : Byte} {p : Packet} (hs : Keeps s₀ s) : Keeps s₀ (bootReady op p s) := by
  unfold bootReady
  split
  · exact keeps_stopCommand hs
  · split
    · split
      · exact keeps_sendBoot hs
      · exact hs
    · exact keeps_ite (fun _ => keeps_of_tables (keeps_sendReply (keeps_ownCommand hs)) rfl)
        (fun _ => keeps_sendReply (keeps_ownCommand hs))

theorem keeps_bootCommand {op : Byte} {p : Packet} {port iface : Nat} (hs : Keeps s₀ s) :
    Keeps s₀ (bootCommand op p port iface s) :=
  keeps_ite (fun _ => hs) (fun _ => keeps_ite (fun _ => keeps_filterFrame hs)
    (fun _ => keeps_chargeReserve hs (fun _ hs => keeps_ite (fun _ => hs)
    (fun _ => keeps_ite (fun _ => keeps_regCount hs) (fun _ => keeps_ite (fun _ => keeps_bootReady (keeps_countBoot hs))
    (fun _ => keeps_ite (fun _ => keeps_sendReply (keeps_countBoot hs)) (fun _ => keeps_sendReply (keeps_countBoot hs))))))))

theorem keeps_command {op : Byte} {p : Packet} (hs : Keeps s₀ s) : Keeps s₀ (command op p s) := by
  unfold command
  split
  · exact keeps_ite (fun _ => keeps_sessionCommand (keeps_of_tables hs rfl)) (fun _ => keeps_of_tables hs rfl)
  · exact keeps_bootCommand (keeps_of_tables hs rfl)

theorem keeps_execChallenge {p : Packet} (hs : Keeps s₀ s) : Goes s₀ (execChallenge p s) :=
  goes_next (keeps_command hs)

theorem keeps_execOwnerClaim {p : Packet} (hs : Keeps s₀ s) : Goes s₀ (execOwnerClaim p s) :=
  goes_next (keeps_command hs)

theorem keeps_execReserve {p : Packet} (hs : Keeps s₀ s) : Goes s₀ (execReserve p s) :=
  goes_next (keeps_command hs)

theorem keeps_execAdmitSession {p : Packet} (hs : Keeps s₀ s) : Goes s₀ (execAdmitSession p s) :=
  goes_next (keeps_command hs)

theorem keeps_execSessionClose {p : Packet} (hs : Keeps s₀ s) : Goes s₀ (execSessionClose p s) :=
  goes_next (keeps_command hs)

theorem keeps_execPing {p : Packet} (hs : Keeps s₀ s) : Goes s₀ (execPing p s) :=
  goes_next (keeps_command hs)

theorem keeps_execRegRead {p : Packet} (hs : Keeps s₀ s) : Goes s₀ (execRegRead p s) :=
  goes_next (keeps_command hs)

theorem keeps_execRegWrite {p : Packet} (hs : Keeps s₀ s) : Goes s₀ (execRegWrite p s) :=
  goes_next (keeps_command hs)

theorem keeps_execImageLoad {p : Packet} (hs : Keeps s₀ s) : Goes s₀ (execImageLoad p s) :=
  goes_next (keeps_command hs)

theorem keeps_execImageVerify {p : Packet} (hs : Keeps s₀ s) : Goes s₀ (execImageVerify p s) :=
  goes_next (keeps_command hs)

theorem keeps_execImageUnload {p : Packet} (hs : Keeps s₀ s) : Goes s₀ (execImageUnload p s) :=
  goes_next (keeps_command hs)

theorem keeps_execJobSubmit {p : Packet} (hs : Keeps s₀ s) : Goes s₀ (execJobSubmit p s) :=
  goes_next (keeps_command hs)

theorem keeps_execJobQuery {p : Packet} (hs : Keeps s₀ s) : Goes s₀ (execJobQuery p s) :=
  goes_next (keeps_command hs)

theorem keeps_execJobCancel {p : Packet} (hs : Keeps s₀ s) : Goes s₀ (execJobCancel p s) :=
  goes_next (keeps_command hs)

theorem keeps_execJobPause {p : Packet} (hs : Keeps s₀ s) : Goes s₀ (execJobPause p s) :=
  goes_next (keeps_command hs)

theorem keeps_execJobResume {p : Packet} (hs : Keeps s₀ s) : Goes s₀ (execJobResume p s) :=
  goes_next (keeps_command hs)

theorem keeps_execCtxSave {p : Packet} (hs : Keeps s₀ s) : Goes s₀ (execCtxSave p s) :=
  goes_next (keeps_command hs)

theorem keeps_execCtxRestore {p : Packet} (hs : Keeps s₀ s) : Goes s₀ (execCtxRestore p s) :=
  goes_next (keeps_command hs)

theorem keeps_execPageAlloc {p : Packet} (hs : Keeps s₀ s) : Goes s₀ (execPageAlloc p s) :=
  goes_next (keeps_command hs)

theorem keeps_execPageShare {p : Packet} (hs : Keeps s₀ s) : Goes s₀ (execPageShare p s) :=
  goes_next (keeps_command hs)

theorem keeps_execPageRelease {p : Packet} (hs : Keeps s₀ s) : Goes s₀ (execPageRelease p s) :=
  goes_next (keeps_command hs)

theorem keeps_execDigestRead {p : Packet} (hs : Keeps s₀ s) : Goes s₀ (execDigestRead p s) :=
  goes_next (keeps_command hs)

theorem keeps_execVidOpen {p : Packet} (hs : Keeps s₀ s) : Goes s₀ (execVidOpen p s) :=
  goes_next (keeps_command hs)

theorem keeps_execVidFrame {p : Packet} (hs : Keeps s₀ s) : Goes s₀ (execVidFrame p s) :=
  goes_next (keeps_command hs)

theorem keeps_execVidClose {p : Packet} (hs : Keeps s₀ s) : Goes s₀ (execVidClose p s) :=
  goes_next (keeps_command hs)

theorem keeps_execTimeQuery {p : Packet} (hs : Keeps s₀ s) : Goes s₀ (execTimeQuery p s) :=
  goes_next (keeps_command hs)

theorem keeps_execFwStage {p : Packet} (hs : Keeps s₀ s) : Goes s₀ (execFwStage p s) :=
  goes_next (keeps_command hs)

theorem keeps_execFwCommit {p : Packet} (hs : Keeps s₀ s) : Goes s₀ (execFwCommit p s) :=
  goes_next (keeps_command hs)

theorem keeps_execAttest {p : Packet} (hs : Keeps s₀ s) : Goes s₀ (execAttest p s) :=
  goes_next (keeps_command hs)

theorem keeps_execArray {p : Packet} (hs : Keeps s₀ s) : Goes s₀ (execArray p s) :=
  goes_next (keeps_command hs)

theorem keeps_execEngineSram {p : Packet} (hs : Keeps s₀ s) : Goes s₀ (execEngineSram p s) :=
  goes_next (keeps_command hs)

theorem keeps_execCaldera {p : Packet} (hs : Keeps s₀ s) : Goes s₀ (execCaldera p s) :=
  goes_next (keeps_command hs)

theorem keeps_execCodec {p : Packet} (hs : Keeps s₀ s) : Goes s₀ (execCodec p s) :=
  goes_next (keeps_command hs)

theorem keeps_execMemory {p : Packet} (hs : Keeps s₀ s) : Goes s₀ (execMemory p s) :=
  goes_next (keeps_command hs)

theorem keeps_execSerdes {p : Packet} (hs : Keeps s₀ s) : Goes s₀ (execSerdes p s) :=
  goes_next (keeps_command hs)

theorem keeps_execD2d {p : Packet} (hs : Keeps s₀ s) : Goes s₀ (execD2d p s) :=
  goes_next (keeps_command hs)

theorem keeps_execKnownAnswer {p : Packet} (hs : Keeps s₀ s) : Goes s₀ (execKnownAnswer p s) :=
  goes_next (keeps_command hs)

theorem keeps_execTelemetryRead {p : Packet} (hs : Keeps s₀ s) : Goes s₀ (execTelemetryRead p s) :=
  goes_next (keeps_command hs)

theorem keeps_execGroupJoin {p : Packet} (hs : Keeps s₀ s) : Goes s₀ (execGroupJoin p s) :=
  goes_next (keeps_command hs)

theorem keeps_execGroupLeave {p : Packet} (hs : Keeps s₀ s) : Goes s₀ (execGroupLeave p s) :=
  goes_next (keeps_command hs)

theorem keeps_takeAck {k : Nat} {ack : BitVec 32} (hs : Keeps s₀ s) : Keeps s₀ (takeAck s k ack) :=
  keeps_sessMap hs

theorem keeps_takeCredit {k : Nat} {limit : BitVec 32} (hs : Keeps s₀ s) : Keeps s₀ (takeCredit s k limit) :=
  keeps_sessMap hs

theorem keeps_acceptPsn {k : Nat} (hs : Keeps s₀ s) : Keeps s₀ (acceptPsn s k) :=
  keeps_sessMap hs

theorem keeps_discardPsn {k : Nat} {v : Verdict348} (hs : Keeps s₀ s) : Keeps s₀ (discardPsn s k v) :=
  keeps_regCount (keeps_sessMap hs)

theorem keeps_takeUtx {α : Type} {port iface addr dport cost : Nat} {o : Option α} {use : State → α → State} (hs : Keeps s₀ s)
    (hu : ∀ t k, Keeps s₀ t → Keeps s₀ (use t k)) : Keeps s₀ (takeUtx s port iface addr dport cost o use) := by
  unfold takeUtx
  refine keeps_ite (fun _ => hs) fun _ => keeps_ite (fun _ => keeps_filterFrame hs) fun _ => ?_
  split
  · exact hu _ _ (keeps_countRx hs)
  · exact keeps_ite (fun _ => keeps_chargeReserve hs fun _ ht => ht) (fun _ => keeps_filterFrame hs)

theorem keeps_commandReq {q : UtxReq} {cls : Cls} {cost : Nat} (hs : Keeps s₀ s) : Keeps s₀ (commandReq s q cls cost) := by
  unfold commandReq
  split
  · exact hs
  · split
    · exact keeps_sendRsp (keeps_releaseSlots hs)
    · exact keeps_sessionCommand (keeps_releaseSlots hs)

theorem keeps_startReq {q : UtxReq} {op : RmoOp} {x : Session} {mem : List EccFind} (hs : Keeps s₀ s) :
    Keeps s₀ (startReq s q op x mem) :=
  keeps_ite (fun _ => keeps_of_tables hs rfl) (fun _ => keeps_ite (fun _ => keeps_commandReq hs) (fun _ => keeps_performReq hs))

theorem keeps_receiveReq {q : UtxReq} {payload : Nat} {start : State → Session → State} (hs : Keeps s₀ s)
    (hst : ∀ t x, Keeps s₀ t → Keeps s₀ (start t x)) : Keeps s₀ (receiveReq s q payload start) := by
  refine keeps_takeUtx hs fun t x ht => keeps_ite (fun _ => ht) fun _ => keeps_ite (fun _ => keeps_regCount ht) fun _ => ?_
  have ha : Keeps s₀ (takeAck t q.session q.ackPsn) := keeps_takeAck ht
  dsimp only
  split
  · exact hst _ _ (keeps_sessMap (keeps_acceptPsn ha))
  · exact keeps_discardPsn ha

theorem keeps_takeReq {op : RmoOp} {q : UtxReq} {mem : List EccFind} (hs : Keeps s₀ s) : Keeps s₀ (takeReq op q mem s) :=
  keeps_receiveReq hs (fun _ _ hs => keeps_startReq hs)

theorem keeps_reqRow {op : RmoOp} {q : UtxReq} {mem : List EccFind} (hs : Keeps s₀ s) : Goes s₀ (reqRow op q mem s) :=
  goes_next (keeps_takeReq (keeps_of_tables hs rfl))

theorem keeps_execRead {q : UtxReq} {mem : List EccFind} (hs : Keeps s₀ s) : Goes s₀ (execRead q mem s) :=
  keeps_reqRow hs

theorem keeps_execWrite {q : UtxReq} {mem : List EccFind} (hs : Keeps s₀ s) : Goes s₀ (execWrite q mem s) :=
  keeps_reqRow hs

theorem keeps_execFetchAdd {q : UtxReq} {mem : List EccFind} (hs : Keeps s₀ s) : Goes s₀ (execFetchAdd q mem s) :=
  keeps_reqRow hs

theorem keeps_execAtomicAdd {q : UtxReq} {mem : List EccFind} (hs : Keeps s₀ s) : Goes s₀ (execAtomicAdd q mem s) :=
  keeps_reqRow hs

theorem keeps_execCas {q : UtxReq} {mem : List EccFind} (hs : Keeps s₀ s) : Goes s₀ (execCas q mem s) :=
  keeps_reqRow hs

theorem keeps_execFence {q : UtxReq} (hs : Keeps s₀ s) : Goes s₀ (execFence q s) :=
  keeps_reqRow hs

theorem keeps_takeBack {q : UtxBack} {half : Option Nat} {use : State → Nat → State} (hs : Keeps s₀ s)
    (hu : ∀ t k, Keeps s₀ t → Keeps s₀ (use t k)) : Keeps s₀ (takeBack s q half use) :=
  keeps_takeUtx hs fun _ _ ht => keeps_ite (fun _ => ht) fun _ => keeps_ite (fun _ => keeps_regCount ht)
    fun _ => hu _ _ (keeps_takeCredit (keeps_takeAck ht))

theorem keeps_takeRsp {q : UtxBack} (hs : Keeps s₀ s) : Keeps s₀ (takeRsp q s) := by
  unfold takeRsp
  refine keeps_takeBack hs (fun _ _ hs => ?_)
  split
  · exact hs
  · split
    · exact keeps_ite (fun _ => keeps_sessMap (keeps_acceptPsn hs))
        (fun _ => keeps_failAt (keeps_logEvent (keeps_sessMap (keeps_acceptPsn hs))))
    · exact keeps_discardPsn hs

theorem keeps_takeAckPacket {q : UtxBack} (hs : Keeps s₀ s) : Keeps s₀ (takeAckPacket q s) :=
  keeps_takeBack hs (fun _ _ hs => hs)

theorem keeps_takeNak {q : UtxBack} (hs : Keeps s₀ s) : Keeps s₀ (takeNak q s) :=
  keeps_takeBack hs (fun _ _ hs => keeps_sessMap (keeps_regCount hs))

theorem keeps_execRsp {q : UtxBack} (hs : Keeps s₀ s) : Goes s₀ (execRsp q s) :=
  goes_next (keeps_takeRsp (keeps_of_tables hs rfl))

theorem keeps_execAck {q : UtxBack} (hs : Keeps s₀ s) : Goes s₀ (execAck q s) :=
  goes_next (keeps_takeAckPacket (keeps_of_tables hs rfl))

theorem keeps_execNak {q : UtxBack} (hs : Keeps s₀ s) : Goes s₀ (execNak q s) :=
  goes_next (keeps_takeNak (keeps_of_tables hs rfl))

theorem keeps_noteSent {k : Nat} (hs : Keeps s₀ s) : Keeps s₀ (noteSent s k) :=
  keeps_sessMap hs

theorem keeps_sendUtx {port iface : Nat} {d : Dest} {o : UtxOut} (hs : Keeps s₀ s) : Keeps s₀ (sendUtx s port iface d o) :=
  keeps_sendFrame hs

theorem keeps_putOut {k : Nat} {x : Session} {type : Byte} {y : Kept} (hs : Keeps s₀ s) : Keeps s₀ (putOut s k x type y) :=
  keeps_noteSent (keeps_sendUtx hs)

theorem keeps_putNak {k : Nat} {x : Session} {e : BitVec 32} (hs : Keeps s₀ s) : Keeps s₀ (putNak s k x e) :=
  keeps_ite (fun _ => keeps_noteSent (keeps_sendUtx hs)) (fun _ => keeps_sessMap (keeps_sendUtx hs))

theorem keeps_sendItem {k : Nat} {i : Item} (hs : Keeps s₀ s) : Keeps s₀ (sendItem s k i) := by
  unfold sendItem
  split
  · exact hs
  · split
    · exact keeps_sessMap (keeps_putOut hs)
    · exact keeps_sessMap (keeps_putNak hs)
    · exact keeps_sessMap (keeps_ite (fun _ => keeps_regWrap (keeps_putOut hs)) (fun _ => keeps_putOut hs))

theorem keeps_sendTurn {port : Nat} {all : List (Nat × Nat × Item)} {c : Nat} (hs : Keeps s₀ s) :
    Keeps s₀ (sendTurn s port all c) := by
  unfold sendTurn
  split
  · exact hs
  · exact keeps_sendItem (keeps_of_tables hs rfl)

theorem keeps_sendWaiting {y : HeldFrame} (hs : Keeps s₀ s) : Keeps s₀ (sendWaiting s y) :=
  keeps_sendHeld (keeps_of_tables hs rfl)

theorem keeps_execTxSend {port : Nat} (hs : Keeps s₀ s) : Goes s₀ (execTxSend port s) := by
  have hp {t : State} {l : List Parting} (ht : Keeps s₀ t) : Keeps s₀ { t with parting := l } := keeps_of_tables ht rfl
  have hs1 : Keeps s₀ { s with out := [] } := keeps_of_tables hs rfl
  unfold execTxSend
  dsimp only
  split
  · exact goes_next hs1
  · split
    · exact goes_next (keeps_sendWaiting hs1)
    · split
      · split
        · exact goes_next (keeps_sendTurn hs1)
        · exact goes_next (hp (keeps_sendUtx hs1))
      · split
        · refine goes_next ?_
          cases nextHeld { s with out := [] } port true with
          | none => exact hs1
          | some y => exact keeps_sendWaiting hs1
        · exact goes_next (keeps_sendTurn hs1)

theorem keeps_execAckDelayExpiry {session : Nat} (hs : Keeps s₀ s) : Goes s₀ (execAckDelayExpiry session s) := by
  unfold execAckDelayExpiry
  dsimp only
  split
  · exact goes_next (keeps_of_tables hs rfl)
  · split
    · exact goes_next (keeps_of_tables hs rfl)
    · exact goes_next (keeps_sessMap (keeps_of_tables hs rfl))

theorem keeps_execRtoExpiry {session : Nat} (hs : Keeps s₀ s) : Goes s₀ (execRtoExpiry session s) := by
  unfold execRtoExpiry
  dsimp only
  split
  · exact goes_next (keeps_of_tables hs rfl)
  · split
    · exact goes_next (keeps_of_tables hs rfl)
    · exact goes_next (keeps_sessMap (keeps_regCount (keeps_of_tables hs rfl)))

theorem keeps_execSessionFail {session : Nat} (hs : Keeps s₀ s) : Goes s₀ (execSessionFail session s) := by
  unfold execSessionFail
  dsimp only
  split
  · exact goes_next (keeps_of_tables hs rfl)
  · split
    · exact goes_next (keeps_failSession (keeps_of_tables hs rfl))
    · exact goes_next (keeps_of_tables hs rfl)

theorem keeps_execChallengeExpiry {k : Nat} (hs : Keeps s₀ s) : Goes s₀ (execChallengeExpiry k s) := by
  unfold execChallengeExpiry
  dsimp only
  split
  · split
    · exact goes_next (keeps_of_tables hs rfl)
    · exact goes_next (keeps_of_tables hs rfl)
  · exact goes_next (keeps_of_tables hs rfl)

theorem keeps_execReservationExpiry {session : Nat} (hs : Keeps s₀ s) : Goes s₀ (execReservationExpiry session s) :=
  goes_next (keeps_of_tables hs rfl)

theorem keeps_lateReq {d : Deferred} (hs : Keeps s₀ s) : Keeps s₀ (lateReq s d) := by
  unfold lateReq
  refine keeps_ite (fun _ => keeps_of_tables hs rfl) (fun _ => keeps_ite (fun _ => keeps_commandReq hs) (fun _ => ?_))
  split
  · exact keeps_performReq hs
  · exact hs

theorem keeps_runLate (hs : Keeps s₀ s) : Keeps s₀ (runLate s) :=
  keeps_foldl (fun _ _ hs => keeps_lateReq hs) (keeps_of_tables hs rfl)

theorem keeps_execBeatBoundary {x : Sensors} (hs : Keeps s₀ s) : Goes s₀ (execBeatBoundary x s) := by
  unfold execBeatBoundary
  dsimp only
  split
  · exact goes_next (keeps_of_tables hs rfl)
  · exact goes_next (keeps_runLate (keeps_boundary (keeps_of_tables hs rfl)))

theorem keeps_reservedReq {f : EthFrame} {op : Byte} {q : UtxReq} (hs : Keeps s₀ s) : Keeps s₀ (reservedReq s f op q) :=
  keeps_receiveReq hs (fun _ _ hs => keeps_sendRsp (keeps_releaseSlots hs))

theorem keeps_bootRefused {port iface slots length : Nat} {op : Byte} {addr udp : Nat} {tag : BitVec 32} (hs : Keeps s₀ s) :
    Keeps s₀ (bootRefused s port iface slots length op addr udp tag) :=
  keeps_ite (fun _ => keeps_filterFrame hs) (fun _ => keeps_chargeReserve hs
    (fun _ hs => keeps_ite (fun _ => hs) (fun _ => keeps_ite (fun _ => keeps_regCount hs)
    (fun _ => keeps_sendReply (keeps_countBoot hs)))))

theorem keeps_bootDatagram {f : EthFrame} {addr : Nat} {udp : Nat} {b : Bytes} (hs : Keeps s₀ s) :
    Keeps s₀ (bootDatagram s f addr udp b) :=
  keeps_ite (fun _ => keeps_bootCommand hs) (fun _ => keeps_bootRefused hs)

theorem keeps_datagram {f : EthFrame} {addr udp dport : Nat} {b : Bytes} (hs : Keeps s₀ s) :
    Keeps s₀ (datagram s f addr udp dport b) := by
  unfold datagram
  refine keeps_ite (fun _ => keeps_chargeReserve hs fun _ ht => ht) fun _ => keeps_ite
    (fun _ => keeps_filterFrame hs) fun _ => ?_
  split
  · exact keeps_filterFrame hs
  · extract_lets q k
    refine keeps_ite (fun _ => ?_) fun _ => keeps_ite (fun _ => keeps_takeRsp hs) fun _ => keeps_ite
      (fun _ => keeps_takeAckPacket hs)
      fun _ => keeps_ite (fun _ => keeps_takeNak hs) fun _ => keeps_ite (fun _ => keeps_bootDatagram hs) fun _ =>
        keeps_filterFrame hs
    split
    · exact keeps_takeReq hs
    · exact keeps_reservedReq hs

theorem keeps_frameKind {f : EthFrame} (hs : Keeps s₀ s) : Keeps s₀ (frameKind s f) := by
  unfold frameKind
  split
  · exact keeps_regWrap hs
  iterate 3 exact hs
  · exact keeps_regWrap hs
  iterate 5 exact keeps_filterFrame hs
  · exact keeps_reservedReq hs
  iterate 2 exact keeps_chargeReserve hs fun _ ht => ht
  · exact keeps_bootRefused hs
  · exact keeps_datagram hs

theorem keeps_execEthFrameRx {f : EthFrame} (hs : Keeps s₀ s) : Goes s₀ (execEthFrameRx f s) := by
  unfold execEthFrameRx
  extract_lets s1 s2
  have hs1 : Keeps s₀ s1 := keeps_of_tables hs rfl
  have hs2 : Keeps s₀ s2 := keeps_regWrap hs1
  split
  · exact goes_next hs1
  · split
    · exact goes_next (keeps_frameKind hs2)
    · split
      · exact goes_next (keeps_filterFrame hs2)
      · split
        · exact goes_next (keeps_ite (fun _ => keeps_filterFrame hs2) (fun _ => keeps_frameKind hs2))
        · split
          · rename_i heq
            split at heq
            · exact goes_next (keeps_frameKind (keeps_takeProtected hs2 heq))
            · cases heq
          · exact goes_next (keeps_regWrap hs2)

theorem keeps_execPfcFrame {port : Nat} {priority : BitVec 3} {pauseNs : Nat} (hs : Keeps s₀ s) :
    Goes s₀ (execPfcFrame port priority pauseNs s) := by
  unfold execPfcFrame
  dsimp only
  split
  · exact goes_next (keeps_of_tables hs rfl)
  · split
    · exact goes_next (keeps_of_tables (keeps_countRx (keeps_of_tables hs rfl)) rfl)
    · exact goes_next (keeps_of_tables (keeps_countRx (keeps_of_tables hs rfl)) rfl)

theorem keeps_execPfcPauseExpiry {port : Nat} {priority : BitVec 3} (hs : Keeps s₀ s) :
    Goes s₀ (execPfcPauseExpiry port priority s) :=
  goes_next (keeps_of_tables hs rfl)

theorem keeps_answerRequest {port iface own target : Nat} {f : OutFrame} (hs : Keeps s₀ s) :
    Goes s₀ (answerRequest s port iface own target f) := by
  unfold answerRequest
  dsimp only
  split
  · exact goes_next (keeps_of_tables hs rfl)
  · split
    · exact goes_next (keeps_filterFrame (keeps_of_tables hs rfl))
    · exact goes_next (keeps_chargeReserve (keeps_of_tables hs rfl) (fun _ hs => keeps_sendOrHold hs))

theorem keeps_execArpRequest {port iface : Nat} {target : BitVec 32} (hs : Keeps s₀ s) :
    Goes s₀ (execArpRequest port iface target s) :=
  keeps_answerRequest hs

theorem keeps_execNeighborSolicitation {port iface : Nat} {target : BitVec 128} (hs : Keeps s₀ s) :
    Goes s₀ (execNeighborSolicitation port iface target s) :=
  keeps_answerRequest hs

theorem keeps_execIcmpEchoRequest {port iface : Nat} {v6 : Bool} {target : BitVec 128} {size : Nat} (hs : Keeps s₀ s) :
    Goes s₀ (execIcmpEchoRequest port iface v6 target size s) :=
  keeps_answerRequest hs

theorem keeps_registerAccess {by_ off : Nat} {ws : List Word} (hs : Keeps s₀ s) : Goes s₀ (registerAccess by_ off ws s) := by
  unfold registerAccess
  dsimp only
  split
  · exact goes_next (keeps_of_tables hs rfl)
  · split
    · exact goes_next (keeps_emit (keeps_of_tables hs rfl))
    · exact goes_next (keeps_emit (keeps_regWrite (keeps_of_tables hs rfl)))

theorem keeps_noSuchBlock (hs : Keeps s₀ s) : Goes s₀ (noSuchBlock s) :=
  goes_next (keeps_emit (keeps_of_tables hs rfl))

theorem keeps_blockAccess {by_ i n off : Nat} {ws : List Word} (hs : Keeps s₀ s) : Goes s₀ (blockAccess by_ i n off ws s) :=
    by
  unfold blockAccess
  split
  · exact keeps_registerAccess hs
  · exact keeps_noSuchBlock hs

theorem keeps_execStandbyEntry {by_ : Nat} (hs : Keeps s₀ s) : Goes s₀ (execStandbyEntry by_ s) :=
  keeps_registerAccess hs

theorem keeps_execStandbyExit {by_ : Nat} (hs : Keeps s₀ s) : Goes s₀ (execStandbyExit by_ s) :=
  keeps_registerAccess hs

theorem keeps_execForceLimited {by_ : Nat} {on : Bool} (hs : Keeps s₀ s) : Goes s₀ (execForceLimited by_ on s) :=
  keeps_registerAccess hs

theorem keeps_execEngineFenceSet {by_ engine : Nat} (hs : Keeps s₀ s) : Goes s₀ (execEngineFenceSet by_ engine s) :=
  keeps_blockAccess hs

theorem keeps_execEngineFenceLift {by_ engine : Nat} (hs : Keeps s₀ s) : Goes s₀ (execEngineFenceLift by_ engine s) :=
  keeps_blockAccess hs

theorem keeps_execCalFenceWrite {by_ stack : Nat} {fenced : BitVec 16} (hs : Keeps s₀ s) :
    Goes s₀ (execCalFenceWrite by_ stack fenced s) :=
  keeps_blockAccess hs

theorem keeps_execVidFenceWrite {by_ : Nat} {fenced : BitVec 8} (hs : Keeps s₀ s) :
    Goes s₀ (execVidFenceWrite by_ fenced s) :=
  keeps_registerAccess hs

theorem keeps_execQuadMirrorEnable {by_ quad : Nat} {on : Bool} (hs : Keeps s₀ s) :
    Goes s₀ (execQuadMirrorEnable by_ quad on s) :=
  keeps_blockAccess hs

theorem keeps_execSourceWrite {by_ : Nat} {source : BitVec 2} (hs : Keeps s₀ s) : Goes s₀ (execSourceWrite by_ source s) :=
  keeps_registerAccess hs

theorem keeps_execSecSetWrite {by_ : Nat} {lo : Word} {hi : Word} (hs : Keeps s₀ s) : Goes s₀ (execSecSetWrite by_ lo hi s) :=
  keeps_registerAccess hs

theorem keeps_execOpalWrite {by_ first : Nat} {words : List Word} (hs : Keeps s₀ s) :
    Goes s₀ (execOpalWrite by_ first words s) :=
  keeps_blockAccess hs

theorem keeps_execModeWrite {by_ port : Nat} {mode : BitVec 2} (hs : Keeps s₀ s) : Goes s₀ (execModeWrite by_ port mode s) :=
  keeps_blockAccess hs

theorem keeps_execMaxFrameWrite {by_ port : Nat} {maxFrame : BitVec 14} (hs : Keeps s₀ s) :
    Goes s₀ (execMaxFrameWrite by_ port maxFrame s) :=
  keeps_blockAccess hs

theorem keeps_execSakInstall {by_ port iface : Nat} {words : List Word} (hs : Keeps s₀ s) :
    Goes s₀ (execSakInstall by_ port iface words s) := by
  unfold execSakInstall
  split
  · exact keeps_blockAccess hs
  · exact keeps_noSuchBlock hs

theorem keeps_execKvPoolWrite {by_ stack : Nat} {base : Option Word} {size : Option Word} (hs : Keeps s₀ s) :
    Goes s₀ (execKvPoolWrite by_ stack base size s) := by
  unfold execKvPoolWrite
  split
  · exact keeps_blockAccess hs
  · exact keeps_blockAccess hs
  · exact keeps_blockAccess hs
  · exact keeps_blockAccess hs

theorem keeps_execProtEntryWrite {by_ entry : Nat} {words : List Word} (hs : Keeps s₀ s) :
    Goes s₀ (execProtEntryWrite by_ entry words s) :=
  keeps_blockAccess hs

theorem keeps_execNoticeClear {by_ : Nat} {bits : Word} (hs : Keeps s₀ s) : Goes s₀ (execNoticeClear by_ bits s) :=
  keeps_registerAccess hs

theorem keeps_execRegisterWrite {by_ offset : Nat} {words : List Word} (hs : Keeps s₀ s) :
    Goes s₀ (execRegisterWrite by_ offset words s) :=
  keeps_registerAccess hs

theorem keeps_smbusAnswer {code : Byte} {bytes : Nat} {v : Option Nat} (hs : Keeps s₀ s) :
    Keeps s₀ (smbusAnswer s code bytes v) := by
  unfold smbusAnswer
  split
  · exact keeps_emit (keeps_of_tables hs rfl)
  · exact keeps_emit (keeps_of_tables hs rfl)

theorem keeps_execSmbusReadByte {code : Byte} (hs : Keeps s₀ s) : Goes s₀ (execSmbusReadByte code s) :=
  goes_next (keeps_smbusAnswer hs)

theorem keeps_execSmbusReadWord {code : Byte} (hs : Keeps s₀ s) : Goes s₀ (execSmbusReadWord code s) :=
  goes_next (keeps_smbusAnswer hs)

theorem keeps_execSmbusWrite {_code : Byte} {_data : Bytes} (hs : Keeps s₀ s) : Goes s₀ (execSmbusWrite _code _data s) :=
  goes_next (keeps_emit (keeps_of_tables hs rfl))

theorem keeps_tapRun {i : TapInstr} {driven : Option (List Bool)} {released : Bool} {tdo : List Bool} (hs : Keeps s₀ s) :
    Keeps s₀ (tapRun s i driven released tdo) :=
  keeps_emit (keeps_of_tables hs rfl)

theorem keeps_capture {n : Nat} (hs : Keeps s₀ s) : Keeps s₀ (capture s n).2 :=
  keeps_of_tables hs rfl

theorem keeps_tapScan {i : TapInstr} {shift : Chain} {drive : Bool} (hs : Keeps s₀ s) : Keeps s₀ (tapScan s i shift drive) :=
    by
  have ht {t : State} {x : Tap} (ht : Keeps s₀ t) : Keeps s₀ { t with tap := x } := keeps_of_tables ht rfl
  exact keeps_tapRun (ht (keeps_capture hs))

theorem keeps_execTapReset {rising : Bool} (hs : Keeps s₀ s) : Goes s₀ (execTapReset rising s) :=
  goes_next (keeps_of_tables hs rfl)

theorem keeps_execExtest {shift : Chain} (hs : Keeps s₀ s) : Goes s₀ (execExtest shift s) :=
  goes_next (keeps_tapScan hs)

theorem keeps_execSamplePreload {shift : Chain} (hs : Keeps s₀ s) : Goes s₀ (execSamplePreload shift s) :=
  goes_next (keeps_tapScan hs)

theorem keeps_execIdcode (hs : Keeps s₀ s) : Goes s₀ (execIdcode s) :=
  goes_next (keeps_tapRun hs)

theorem keeps_execExtestPulse {shift : Chain} (hs : Keeps s₀ s) : Goes s₀ (execExtestPulse shift s) :=
  goes_next (keeps_tapScan hs)

theorem keeps_execExtestTrain {shift : Chain} (hs : Keeps s₀ s) : Goes s₀ (execExtestTrain shift s) :=
  goes_next (keeps_tapScan hs)

theorem keeps_execClamp (hs : Keeps s₀ s) : Goes s₀ (execClamp s) :=
  goes_next (keeps_tapRun hs)

theorem keeps_execHighz (hs : Keeps s₀ s) : Goes s₀ (execHighz s) :=
  goes_next (keeps_tapRun hs)

theorem keeps_execBypass {code : Byte} (hs : Keeps s₀ s) : Goes s₀ (execBypass code s) := by
  unfold execBypass
  split
  · exact goes_next (keeps_of_tables hs rfl)
  · exact goes_next (keeps_tapRun hs)

theorem keeps_exec {i : Instr} (hs : Keeps s₀ s) : Goes s₀ (exec i s) := by
  unfold exec
  split
  · exact keeps_execChallenge hs
  · exact keeps_execOwnerClaim hs
  · exact keeps_execReserve hs
  · exact keeps_execAdmitSession hs
  · exact keeps_execSessionClose hs
  · exact keeps_execPing hs
  · exact keeps_execRegRead hs
  · exact keeps_execRegWrite hs
  · exact keeps_execImageLoad hs
  · exact keeps_execImageLoadComplete hs
  · exact keeps_execImageVerify hs
  · exact keeps_execImageVerifyComplete hs
  · exact keeps_execImageUnload hs
  · exact keeps_execJobSubmit hs
  · exact keeps_execJobQuery hs
  · exact keeps_execJobCancel hs
  · exact keeps_execJobPause hs
  · exact keeps_execJobResume hs
  · exact keeps_execCtxSave hs
  · exact keeps_execCtxSaveComplete hs
  · exact keeps_execCtxRestore hs
  · exact keeps_execCtxRestoreComplete hs
  · exact keeps_execPageAlloc hs
  · exact keeps_execPageShare hs
  · exact keeps_execPageRelease hs
  · exact keeps_execDigestRead hs
  · exact keeps_execVidOpen hs
  · exact keeps_execVidFrame hs
  · exact keeps_execVidClose hs
  · exact keeps_execVidCloseComplete hs
  · exact keeps_execTimeQuery hs
  · exact keeps_execFwStage hs
  · exact keeps_execFwStageComplete hs
  · exact keeps_execFwCommit hs
  · exact keeps_execFwCommitComplete hs
  · exact keeps_execCommitRestartReset hs
  · exact keeps_execAttest hs
  · exact keeps_execAttestComplete hs
  · exact keeps_execArray hs
  · exact keeps_execEngineSram hs
  · exact keeps_execCaldera hs
  · exact keeps_execCodec hs
  · exact keeps_execMemory hs
  · exact keeps_execSerdes hs
  · exact keeps_execD2d hs
  · exact keeps_execKnownAnswer hs
  · exact keeps_execDiagTestComplete hs
  · exact keeps_execTelemetryRead hs
  · exact keeps_execGroupJoin hs
  · exact keeps_execGroupLeave hs
  · exact keeps_execGroupLeaveComplete hs
  · exact keeps_execStandbyEntry hs
  · exact keeps_execStandbyExit hs
  · exact keeps_execForceLimited hs
  · exact keeps_execEngineFenceSet hs
  · exact keeps_execEngineFenceLift hs
  · exact keeps_execCalFenceWrite hs
  · exact keeps_execVidFenceWrite hs
  · exact keeps_execQuadMirrorEnable hs
  · exact keeps_execSourceWrite hs
  · exact keeps_execSecSetWrite hs
  · exact keeps_execOpalWrite hs
  · exact keeps_execModeWrite hs
  · exact keeps_execMaxFrameWrite hs
  · exact keeps_execSakInstall hs
  · exact keeps_execKvPoolWrite hs
  · exact keeps_execProtEntryWrite hs
  · exact keeps_execNoticeClear hs
  · exact keeps_execRegisterWrite hs
  · exact keeps_execRead hs
  · exact keeps_execWrite hs
  · exact keeps_execFetchAdd hs
  · exact keeps_execAtomicAdd hs
  · exact keeps_execCas hs
  · exact keeps_execFence hs
  · exact keeps_execRsp hs
  · exact keeps_execAck hs
  · exact keeps_execNak hs
  · exact keeps_execEthFrameRx hs
  · exact keeps_execPfcFrame hs
  · exact keeps_execPfcPauseExpiry hs
  · exact keeps_execArpRequest hs
  · exact keeps_execNeighborSolicitation hs
  · exact keeps_execIcmpEchoRequest hs
  · exact keeps_execTxSend hs
  · exact keeps_execAckDelayExpiry hs
  · exact keeps_execRtoExpiry hs
  · exact keeps_execSessionFail hs
  · exact keeps_execChallengeExpiry hs
  · exact keeps_execReservationExpiry hs
  · exact keeps_execLinkTrainingRetry hs
  · exact keeps_execPortFallback hs
  · exact keeps_execPtpSync hs
  · exact keeps_execPtpFollowUp hs
  · exact keeps_execPtpDelayResp hs
  · exact keeps_execPtpAnnounce hs
  · exact keeps_execDelayReqSend hs
  · exact keeps_execAnnounceTimeout hs
  · exact keeps_execSyncTimeout hs
  · exact keeps_execHoldoverLimitExpiry hs
  · exact keeps_execPpsInEdge hs
  · exact keeps_execPpsStuck hs
  · exact keeps_execPpsOutRise hs
  · exact keeps_execPpsOutFall hs
  · exact keeps_execReset hs
  · exact keeps_execStartup hs
  · exact keeps_execStartupTimeTimeout hs
  · exact keeps_execRegulatorAlert hs
  · exact keeps_execVrAlertSustained hs
  · exact keeps_execThermalTrip hs
  · exact keeps_execPmbusPoll hs
  · exact keeps_execPowerCalibration hs
  · exact keeps_execPowerEvaluation hs
  · exact keeps_execLimitedExit hs
  · exact keeps_execRampModeEnd hs
  · exact keeps_execVoteScrub hs
  · exact keeps_execPatrol hs
  · exact keeps_execRefreshRateRead hs
  · exact keeps_execHealthTimeCheckpoint hs
  · exact keeps_execHealthRecordWriteDone hs
  · exact keeps_execCorrectionWriteBack hs
  · exact keeps_execBeatBoundary hs
  · exact keeps_execBatchWaitExpiry hs
  · exact keeps_execGroupBeatStart hs
  · exact keeps_execSlipNotice hs
  · exact keeps_execGroupHoldLimit hs
  · exact keeps_execNop hs
  · exact keeps_execRows hs
  · exact keeps_execWload hs
  · exact keeps_execEpi hs
  · exact keeps_execMread hs
  · exact keeps_execMwrite hs
  · exact keeps_execAtomic hs
  · exact keeps_execFenceBundle hs
  · exact keeps_execArrive hs
  · exact keeps_execCompletionLanded hs
  · exact keeps_execRemoteWriteLanding hs
  · exact keeps_execHoldSimmerExpiry hs
  · exact keeps_execD2dFlitUncorrectable hs
  · exact keeps_execSamplerStep hs
  · exact keeps_execGuidance hs
  · exact keeps_execOptim hs
  · exact keeps_execReduce hs
  · exact keeps_execQuantiseDeferred hs
  · exact keeps_execTranspose hs
  · exact keeps_execGather hs
  · exact keeps_execScatter hs
  · exact keeps_execGatherPageRead hs
  · exact keeps_execScatterPageWrite hs
  · exact keeps_execOrderedAccumulate hs
  · exact keeps_execCowCopyComplete hs
  · exact keeps_execDemotionCopyComplete hs
  · exact keeps_execTokenSamplerRun hs
  · exact keeps_execCodecTileBoundary hs
  · exact keeps_execSmbusReadByte hs
  · exact keeps_execSmbusReadWord hs
  · exact keeps_execSmbusWrite hs
  · exact keeps_execTapReset hs
  · exact keeps_execExtest hs
  · exact keeps_execSamplePreload hs
  · exact keeps_execIdcode hs
  · exact keeps_execExtestPulse hs
  · exact keeps_execExtestTrain hs
  · exact keeps_execClamp hs
  · exact keeps_execHighz hs
  · exact keeps_execBypass hs
  · exact keeps_execLinkTrainingComplete hs

/-! ## The block -/

/-- A step keeps the tables in canonical form, whichever command it runs. -/
theorem canonical_step {t : State} (hs : Canonical s) (h : step s = .next t) : Canonical t := by
  cases hp : s.pending with
  | nil =>
    rw [step_nil hp] at h
    cases h
    exact (keeps_idle keeps_refl).canonical hs
  | cons c rest =>
    obtain ⟨u, hu, hk⟩ := keeps_exec (s := { s with pending := rest }) (i := c) keeps_refl
    rw [step_cons hp, hu] at h
    cases h
    exact hk.canonical (canonical_of_tables hs)

/-- Settles O3: every command keeps the canonical form, and so does the clock's tick. -/
theorem stepKeepsCanonical : Obligations.StepKeepsCanonical := fun _ _ hs h => canonical_step hs h

/-- A step always ends in a next state. -/
theorem step_next (s : State) : ∃ t, step s = .next t := by
  cases hp : s.pending with
  | nil => exact ⟨_, step_nil hp⟩
  | cons c rest =>
    obtain ⟨u, hu, -⟩ := keeps_exec (s := { s with pending := rest }) (i := c) keeps_refl
    exact ⟨u, (step_cons hp).trans hu⟩

/-- A run of any length goes through. -/
theorem runN_isSome (n : Nat) (s : State) : (runN n s).isSome = true := by
  induction n generalizing s with
  | zero => rfl
  | succ n ih =>
    obtain ⟨t, ht⟩ := step_next s
    rw [runN, ht]
    exact ih t

/-- A tick is 1 ns of wall time, with the clocks off too. -/
theorem tickClock_wall (off : Bool) (c : Clock) : (tickClock off c).wall = c.wall + 1 := by
  cases off <;> rfl

/-- Settles O1: by cases on the queue; that a command keeps the queue is `Keeps`, and no step stops a run. -/
theorem stepRunsTheFrontCommand : Obligations.StepRunsTheFrontCommand := by
  refine ⟨fun c rest s h => step_cons h, fun s h => ⟨idle s, step_nil h, rfl, tickClock_wall _ _⟩, fun c s => ?_,
    fun s n => runN_isSome n s⟩
  obtain ⟨t, ht, hk⟩ := keeps_exec (s := s) (i := c) keeps_refl
  exact ⟨t, ht, hk.pending⟩

/-- Settles O2: the tables of the reset state are empty, and so is the table of written registers. -/
theorem resetIsCanonical : Obligations.ResetIsCanonical :=
  ⟨canonical_reset, rfl, rfl, rfl, fun _ => rfl, fun _ => rfl⟩

end Sys2Proof.Machine

/-! What stops a command in steps 1 to 6 (R375). -/

namespace Sys2Proof.Machine

open Sys2Proof Sys2Proof.Terms

variable {s : State} {n : Nat} {x : Session} {p : Packet} {op : Byte}

/-- A command that a firmware fault stops: its RING_ACK may have been taken, the fault is logged, and the reply names its record. -/
theorem stopCommand_internal (hp : p.origin = .session n) (h : sessGet s n = some x) :
    ∃ u, OnlyBooks s u n 0
      ∧ stopCommand s p op .internal = sendReply (logOther u (unitOf 0 0) none 375) p op .internal [] s.nextSeq := by
  have htaken : OnlyBooks s (takeRingAck s n p.ringAck) n 0 := onlyBooks_sessMap h rfl rfl rfl rfl rfl
  simp only [stopCommand, if_true, originSession, hp]
  split
  · exact ⟨_, htaken, by rw [htaken.frame]; rfl⟩
  · exact ⟨s, onlyBooks_refl h, rfl⟩

/-- The output of a silent effect's reply. -/
theorem out_sendReply (hp : p.origin = .session n) (h : sessGet s n = some x) (ho : s.out = []) (code : Code) (result : Bytes)
    (ev : BitVec 32) : (sendReply s p op code result ev).out = [.reply (makeReply s p op code result ev)] := by
  rw [(onlyBooks_sendReply hp h code result ev).frame]
  exact congrArg (· ++ [_]) ho

/-- Settles O4: `command_stopped` says which code answers, and the reply touches the session's books alone. -/
theorem firstFailedCheckDecides : Obligations.FirstFailedCheckDecides := by
  intro c op p s n x code hcmd hready hp hs hfits hcheck
  have hs1 : sessGet ({ s with out := [] } : State) n = some x := hs
  refine ⟨fun hfault => ?_, fun hcode => ?_⟩
  · have hsend := onlyBooks_sendReply (op := op) hp hs1 code [] 0xFFFFFFFF
    refine ⟨_, by rw [exec_eq_command hcmd, command_refused hp hready hs hfits hfault hcheck],
      replied_sendReply hp hs1 rfl code [], ?_, hsend.booked⟩
    rw [hsend.frame]
    rfl
  · subst hcode
    obtain ⟨u, hu, hstop⟩ := stopCommand_internal (op := op) hp hs1
    obtain ⟨_, y, _, hy, _⟩ := hu.booked
    have hy1 : sessGet (logOther u (unitOf 0 0) none 375) n = some y := hy
    have hsend := onlyBooks_sendReply (op := op) hp hy1 .internal [] s.nextSeq
    have hout : u.out = [] := by rw [hu.frame]
    refine ⟨_, _,
      { seq := s.nextSeq, code := 0xFFF, ctx := none, unit := unitOf 0 0, boundary := s.beats + 1, detail := fit 14 (toLE 375 2) },
      by rw [exec_eq_command hcmd, command_stopped hp hready hs hfits hcheck, hstop],
      out_sendReply hp hy1 hout .internal [] s.nextSeq, rfl, rfl, rfl, ?_, rfl, rfl, rfl, ?_,
      booked_trans hu.booked hsend.booked⟩
    · rw [hsend.frame, hu.frame]
      rfl
    · rw [hsend.frame, hu.frame]
      rfl

end Sys2Proof.Machine

/-! Byte strings: the fields of an encoding (R5). -/

namespace Sys2Proof.Machine

open Sys2Proof

variable {a b : Bytes} {off size n k : Nat}

@[simp] theorem length_toLE (n k : Nat) : (toLE n k).length = k := by
  induction k generalizing n with
  | zero => rfl
  | succ k ih => rw [toLE, List.length_cons, ih]

/-- The bytes of an encoding give the number back, as far as they hold it. -/
theorem leNat_toLE (n k : Nat) : leNat (toLE n k) = n % 256 ^ k := by
  induction k generalizing n with
  | zero => simp [toLE, leNat, Nat.mod_one]
  | succ k ih =>
    rw [toLE, leNat, ih, Nat.pow_succ']
    exact Nat.mod_mul.symm

theorem field_append_left (h : off + size ≤ a.length) : field (a ++ b) off size = field a off size := by
  unfold field
  rw [List.drop_append_of_le_length (by omega), List.take_append_of_le_length (by simp; omega)]

theorem field_append_right (h : a.length ≤ off) : field (a ++ b) off size = field b (off - a.length) size := by
  unfold field
  rw [List.drop_append, List.drop_eq_nil_of_le h, List.nil_append]

/-- The field that is a whole encoding. -/
theorem field_toLE (n k : Nat) : field (toLE n k) 0 k = n % 256 ^ k := by
  unfold field
  rw [List.drop_zero, List.take_of_length_le (by simp), leNat_toLE]

theorem field_toLE_of_lt (h : n < 256 ^ k) : field (toLE n k) 0 k = n := by
  rw [field_toLE, Nat.mod_eq_of_lt h]

theorem field_singleton (x : Byte) : field [x] 0 1 = x.toNat := by
  simp [field, leNat]

theorem field_cons {x : Byte} (h : 0 < off) : field (x :: b) off size = field b (off - 1) size := by
  obtain ⟨k, rfl⟩ : ∃ k, off = k + 1 := ⟨off - 1, by omega⟩
  rfl

theorem field_cons_one (x : Byte) (b : Bytes) : field (x :: b) 0 1 = x.toNat := by
  simp [field, leNat]

end Sys2Proof.Machine

/-! The query commands (R385, R386, R393, R395, R397). -/

namespace Sys2Proof.Machine

open Sys2Proof Sys2Proof.Terms

variable {s : State} {n : Nat} {x : Session} {p : Packet} {op : Byte} {c : Instr}

/-- A command that answers OK with a result has no other effect than the session's books. -/
theorem exec_done {result : Bytes} (h : Admitted c s n x op p)
    (ha : ownCommand op ⟨x.cls, some n⟩ p (taken s n p) = done (taken s n p) result) :
    ∃ t, exec c s = .next t ∧ Replied t p op .ok result ∧ t = { s with out := t.out, sessions := t.sessions } := by
  have hbooks := onlyBooks_taken (p := p) h.opened
  obtain ⟨t, he, hr, -, hf⟩ := exec_replies h ha hbooks.booked (by rw [hbooks.frame])
  exact ⟨t, he, hr, by rw [hf, hbooks.frame]⟩

/-- The session with its RING_ACK taken. -/
theorem sessGet_taken (h : sessGet s n = some x) :
    sessGet (taken s n p) n
      = some { x with ringAck := if serialGt p.ringAck x.ringAck then p.ringAck else x.ringAck } := by
  have hs : sessGet ({ s with out := [] } : State) n = some x := h
  have hopen : x.closed = false := by simpa using (Option.filter_eq_some_iff.mp h).2
  rw [taken, takeRingAck, sessMap_some hs, sessGet_sessSet_same]
  simp [hopen]

theorem resultRoom_taken (h : sessGet s n = some x) : resultRoom (taken s n p) ⟨x.cls, some n⟩ = x.segment - 32 := by
  simp only [resultRoom, Option.bind_some, sessGet_taken h]

theorem dtNs_lt (s : State) : dtNs s < 2 ^ 32 := by
  unfold dtNs secondDt
  omega

theorem dtFrac_lt (s : State) : dtFrac s < 2 ^ 16 := by
  unfold dtFrac
  omega

/-- The fields of the record of TIME_QUERY (R395). -/
theorem timeRecord_fields {sec ns frac off beats : Nat} {a b : Byte} (hns : ns < 2 ^ 32) (hfrac : frac < 2 ^ 16)
    (hoff : off < 2 ^ 32) :
    let r := toLE sec 8 ++ toLE ns 4 ++ toLE frac 2 ++ [a, b] ++ toLE off 4 ++ toLE 0 4 ++ toLE beats 8
    r.length = 32 ∧ field r 0 8 = sec % 2 ^ 64 ∧ field r 8 4 = ns ∧ field r 12 2 = frac ∧ field r 14 1 = a.toNat
      ∧ field r 15 1 = b.toNat ∧ field r 16 4 = off ∧ field r 24 8 = beats % 2 ^ 64 := by
  simp [field_append_left, field_append_right, field_toLE, field_cons, field_cons_one]
  exact ⟨hns, hfrac, hoff⟩

theorem toNat_timeByte (x : TimeState) : (BitVec.ofNat 8 (timeByte x)).toNat = timeByte x := by cases x <;> rfl

theorem toNat_ctxStateByte (x : CtxState) : (BitVec.ofNat 8 (ctxStateByte x)).toNat = ctxStateByte x := by cases x <;> rfl

/-- The fields of a job's status (R393). -/
theorem jobStatus_fields (k : Ctx) :
    (jobStatus k).length = 48 ∧ field (jobStatus k) 0 1 = ctxStateByte k.state ∧ field (jobStatus k) 4 4 = k.step.toNat
      ∧ field (jobStatus k) 8 4 = k.stepsLeft.toNat ∧ field (jobStatus k) 16 8 = (runsImage k).toNat := by
  unfold jobStatus
  simp [field_append_left, field_append_right, field_toLE, field_cons, field_cons_one]
  exact ⟨by cases k.state <;> decide, k.step.isLt, k.stepsLeft.isLt, (runsImage k).isLt⟩

/-- The record of the device counters (R397, R519). -/
theorem counterRecord_fields {first a b c d : Nat} :
    let r := toLE first 8 ++ toLE 1 4 ++ toLE 0 4 ++ (toLE a 8 ++ toLE b 8 ++ toLE c 8 ++ toLE d 8)
    field r 8 4 = 1 ∧ field r 16 8 = a % 2 ^ 64 ∧ field r 24 8 = b % 2 ^ 64 ∧ field r 32 8 = c % 2 ^ 64
      ∧ field r 40 8 = d % 2 ^ 64 := by
  simp [field_append_left, field_append_right, field_toLE]

/-- A read of the device counters that asks for a record and has room for one gets it (R397). -/
theorem cmdTelemetry_counters {w : Who} (hsel : field p.params 0 2 = 2) (hzero : zeroAt p.params 2 6 = true)
    (hfirst : field p.params 8 8 = 0) (hcount : 0 < field p.params 16 4) (hroom : 48 ≤ resultRoom s w) :
    cmdTelemetry w p s = done s (toLE 0 8 ++ toLE 1 4 ++ toLE 0 4 ++ (toLE s.snap.counters.delayed 8
      ++ toLE s.snap.counters.delayCycles 8 ++ toLE s.beats 8 ++ toLE s.snap.counters.slips 8)) := by
  have hone : 1 ≤ min (field p.params 16 4) ((resultRoom s w - 16) / 32) := by omega
  unfold cmdTelemetry
  simp only [hsel, hzero, hfirst, telemetryRecords, Bool.not_true, Bool.false_eq_true, if_false, OfNat.ofNat_ne_zero, ne_eq,
    not_true_eq_false, and_false, List.drop_zero]
  rw [List.take_of_length_le hone]
  simp

/-- Of numbers that rise from one that passes a test, the next of which does not, the first alone is taken. -/
theorem takeWhile_range_first {q : Nat → Bool} {first most : Nat} (hfirst : q first = true) (hnext : q (first + 1) = false)
    (hmost : 0 < most) : ((List.range most).map (first + ·)).takeWhile q = [first] := by
  obtain ⟨m, rfl⟩ : ∃ m, most = m + 1 := ⟨most - 1, by omega⟩
  cases m with
  | zero => simp [hfirst]
  | succ m =>
    rw [List.range_succ_eq_map, List.range_succ_eq_map]
    simp [hfirst, hnext]

/-- A digest read of the newest entry of a log gives it (R328, R386). -/
theorem cmdDigestRead_newest {w : Who} {k : Ctx} (hk : namedCtx s p 0 = some k) (hmay : mayName w k.owner = true)
    (hentries : k.desc.logEntries ≠ 0) (hzero : zeroAt p.params 2 6 = true) (hlast : k.logged = field p.params 8 8 + 1)
    (hcount : 0 < field p.params 16 4) (hroom : 40 ≤ resultRoom s w)
    (hclean : anyPoison s (spanLinear (k.desc.logBase + field p.params 8 8 % k.desc.logEntries * 32) 32) = false)
    (hseq : field (spanRead s (k.desc.logBase + field p.params 8 8 % k.desc.logEntries * 32) 32) 8 8 = field p.params 8 8) :
    cmdDigestRead w p s
      = done s (toLE 1 4 ++ toLE 0 4 ++ spanRead s (k.desc.logBase + field p.params 8 8 % k.desc.logEntries * 32) 32) := by
  have hmost : 0 < min (field p.params 16 4) ((resultRoom s w - 8) / 32) := by omega
  unfold cmdDigestRead
  simp only [hk, hmay, hentries, hzero, Bool.not_true, Bool.false_eq_true, if_false, or_self]
  rw [takeWhile_range_first (by simp [hlast, hclean, hseq]) (by simp [hlast]) hmost]
  simp

/-- A read of implemented words (R385, R447). -/
theorem cmdRegRead_ok {w : Who} {ws : List Word} (hvotes : s.votes = [])
    (hread : regRead s w.cls (field p.params 0 4) (field p.params 4 4) = .ok ws) (hlow : 0 < field p.params 4 4)
    (hhigh : field p.params 4 4 ≤ 64) : cmdRegRead w p s = done s (ws.flatMap fun w => toLE w.toNat 4) := by
  have htouch : regTouch s (field p.params 0 4) (field p.params 4 4) = s := by simp [regTouch, hvotes]
  have hn : ¬(field p.params 4 4 < 1 ∨ 64 < field p.params 4 4) := by omega
  simp only [cmdRegRead, hn, if_false, htouch, hread]

/-- Settles O5: each query is `exec_done` on its record. -/
theorem queriesAnswerAndChangeNothing : Obligations.QueriesAnswerAndChangeNothing := by
  intro c s n x op p h
  refine ⟨?_, ?_, ?_, ?_, ?_, ?_⟩
  · rintro rfl
    obtain ⟨rfl, -⟩ := Prod.mk.inj (Option.some.inj h.command)
    exact exec_done h rfl
  · rintro rfl
    obtain ⟨rfl, -⟩ := Prod.mk.inj (Option.some.inj h.command)
    obtain ⟨t, he, hr, hf⟩ := exec_done h rfl
    refine ⟨t, _, he, hr, hf, ?_⟩
    rw [taken_frame h.opened]
    have hfields := timeRecord_fields (sec := dtSec s) (beats := s.beats) (a := BitVec.ofNat 8 (timeByte s.snap.time))
      (b := BitVec.ofNat 8 s.snap.source) (dtNs_lt s) (dtFrac_lt s) s.snap.offset.isLt
    rw [toNat_timeByte, BitVec.toNat_ofNat] at hfields
    exact hfields
  · rintro rfl k hk hmay
    obtain ⟨rfl, -⟩ := Prod.mk.inj (Option.some.inj h.command)
    have hk' : namedCtx (taken s n p) p 0 = some k := by
      rw [taken_frame h.opened]
      exact hk
    have hown : ownCommand 0x31 ⟨x.cls, some n⟩ p (taken s n p) = done (taken s n p) (jobStatus k) := by
      show cmdJobQuery _ _ _ = _
      simp [cmdJobQuery, hk', hmay]
    obtain ⟨t, he, hr, hf⟩ := exec_done h hown
    exact ⟨t, _, he, hr, hf, jobStatus_fields k⟩
  · rintro rfl hsel hzero hfirst hcount hroom
    obtain ⟨rfl, -⟩ := Prod.mk.inj (Option.some.inj h.command)
    have hown := cmdTelemetry_counters hsel hzero hfirst hcount (s := taken s n p) (w := ⟨x.cls, some n⟩)
      (by rwa [resultRoom_taken h.opened])
    obtain ⟨t, he, hr, hf⟩ := exec_done h hown
    refine ⟨t, _, he, hr, hf, ?_⟩
    rw [taken_frame h.opened]
    exact counterRecord_fields
  · rintro rfl k hk hmay hentries hzero hlast hcount hroom a hclean hseq
    obtain ⟨rfl, -⟩ := Prod.mk.inj (Option.some.inj h.command)
    have hread : ∀ b m, spanRead (taken s n p) b m = spanRead s b m := by
      rw [taken_frame h.opened]
      exact fun _ _ => rfl
    have hown : cmdDigestRead ⟨x.cls, some n⟩ p (taken s n p) = done (taken s n p) (toLE 1 4 ++ toLE 0 4 ++ spanRead s a 32) := by
      rw [← hread]
      refine cmdDigestRead_newest ?_ hmay hentries hzero hlast hcount (by rwa [resultRoom_taken h.opened]) ?_ (by rwa [hread])
      · rw [taken_frame h.opened]
        exact hk
      · rw [taken_frame h.opened]
        exact hclean
    exact exec_done h hown
  · rintro rfl hvotes ws hread hlow hhigh
    obtain ⟨rfl, -⟩ := Prod.mk.inj (Option.some.inj h.command)
    refine exec_done h (cmdRegRead_ok ?_ hread hlow hhigh)
    rw [taken_frame h.opened]
    exact hvotes

end Sys2Proof.Machine

/-! Register writes by a session (R447 to R454): the checks in their order, and what an admitted write of one word does. -/

namespace Sys2Proof.Machine

open Sys2Proof Sys2Proof.Terms

variable {s : State} {b off : Nat} {w : Word} {ws : List Word} {x : Session} {cls : Cls} {r : Reg}

/-! ## The access of an open session -/

/-- An open session's access of a ready device is answered with the code of its write. -/
theorem registerAccess_answers {c : Code} {u : State} (hready : isReady s = true) (hopen : sessGet s b = some x)
    (hlength : 1 ≤ ws.length ∧ ws.length ≤ 64) (hw : regWrite { s with out := [] } x.cls off ws = (c, u)) :
    registerAccess b off ws s = .next (emit u (.status c)) := by
  have hready' : isReady { s with out := [] } = true := hready
  have hopen' : sessGet { s with out := [] } b = some x := hopen
  have hne : ¬(ws.isEmpty = true ∨ 64 < ws.length) := by
    rw [List.isEmpty_iff_length_eq_zero]
    omega
  simp only [registerAccess, hready', if_true, hopen', hne, if_false, hw]

/-- A write with an unimplemented word is a bus error (R450). -/
theorem regWrite_busError (h : ∃ i < ws.length, regAt (off + 4 * i) = none) : regWrite s cls off ws = (.busError, s) := by
  obtain ⟨i, hi, hnone⟩ := h
  have hall : (List.range ws.length).all (fun i => (regAt (off + 4 * i)).isSome) = false :=
    List.all_eq_false.mpr ⟨i, List.mem_range.mpr hi, by simp [hnone]⟩
  simp [regWrite, hall]

/-- A write with a word that the class may not write has no effect (R453). -/
theorem regWrite_priv (hall : ∀ i < ws.length, (regAt (off + 4 * i)).isSome)
    (h : ∃ i < ws.length, ∃ r, regAt (off + 4 * i) = some r ∧ mayWrite r.level cls = false) :
    regWrite s cls off ws = (.priv, s) := by
  obtain ⟨i, hi, r, hr, hno⟩ := h
  have himpl : (List.range ws.length).all (fun i => (regAt (off + 4 * i)).isSome) = true :=
    List.all_eq_true.mpr fun j hj => hall j (List.mem_range.mp hj)
  have hmay : (List.range ws.length).all (fun i => (regAt (off + 4 * i)).any fun r => mayWrite r.level cls) = false :=
    List.all_eq_false.mpr ⟨i, List.mem_range.mpr hi, by simp [hr, hno]⟩
  simp only [regWrite, himpl, hmay, Bool.not_true, Bool.not_false, Bool.false_eq_true, if_false, if_true, ite_self]

/-- The state after an admitted write of one word. -/
def oneWrite (s : State) (off : Nat) (w : Word) : State :=
  let u := protGen s (writeEffect (storeWord s off [w] off w) off [w] off (regGet s off) w) [off]
  if oOpalKey ≤ off ∧ off < oOpalOut then recomputeOpal u else u

/-- A write of one word that nothing refuses. -/
theorem regWrite_one (hreg : regAt off = some r) (hpeer : cls ≠ .peer) (hmay : mayWrite r.level cls = true)
    (hrule : ownRule s off [w] off w = none) : regWrite s cls off [w] = (.ok, oneWrite s off w) := by
  have hrule' : ¬(ownRule s off [w] off w).isSome = true := by simp [hrule]
  simp [regWrite, oneWrite, hreg, hpeer, hmay, hrule', List.range_one]

/-- Settles O8: `regWrite` checks every word before it stores one. -/
theorem refusedRegisterWriteHasNoEffect : Obligations.RefusedRegisterWriteHasNoEffect := by
  intro s b off ws x hready hopen hpeer hlow hhigh
  refine ⟨fun h => ?_, fun hall h => ?_⟩
  · exact ⟨_, registerAccess_answers hready hopen ⟨hlow, hhigh⟩ (regWrite_busError h), rfl, rfl⟩
  · exact ⟨_, registerAccess_answers hready hopen ⟨hlow, hhigh⟩ (regWrite_priv hall h), rfl, rfl⟩

/-! ## Bits of a word -/

/-- Setting a field leaves the bits outside it alone. -/
theorem getLsbD_setF_outside {hi lo i : Nat} (w : Word) (v : Nat) (hi32 : i < 32) (h : i < lo ∨ hi < i) :
    (setF w hi lo v).getLsbD i = w.getLsbD i := by
  unfold setF
  rw [BitVec.getLsbD_or, BitVec.getLsbD_and, BitVec.getLsbD_not]
  simp only [BitVec.getLsbD_ofNat, Nat.testBit_mod_two_pow, Nat.testBit_shiftLeft, Nat.testBit_two_pow_sub_one, hi32,
    decide_true, Bool.true_and]
  rcases h with h | h
  · have hlow : ¬lo ≤ i := by omega
    simp [hlow]
  · by_cases hlow : lo ≤ i
    · have hhigh : ¬i - lo < hi + 1 - lo := by omega
      simp [hhigh]
    · simp [hlow]

/-- A field's write leaves the bits that it may not write alone (R454). -/
theorem getLsbD_writeField {i : Nat} (w old : Word) (f : Fld) (hi : i < 32) (h : f.acc ≠ .ro → i < f.lo ∨ f.hi < i) :
    (writeField w old f).getLsbD i = old.getLsbD i := by
  unfold writeField
  split
  · rfl
  · next ha => exact getLsbD_setF_outside _ _ hi (h (by simp [ha]))
  · next ha => exact getLsbD_setF_outside _ _ hi (h (by simp [ha]))
  · next ha => exact getLsbD_setF_outside _ _ hi (h (by simp [ha]))
  · next ha =>
    split
    · rfl
    · exact getLsbD_setF_outside _ _ hi (h (by simp [ha]))
  · next ha => exact getLsbD_setF_outside _ _ hi (h (by simp [ha]))

theorem getLsbD_foldl_writeField {i : Nat} (w : Word) (hi : i < 32) (l : List Fld) (old : Word)
    (h : ∀ f ∈ l, f.acc ≠ .ro → i < f.lo ∨ f.hi < i) : (l.foldl (writeField w) old).getLsbD i = old.getLsbD i := by
  induction l generalizing old with
  | nil => rfl
  | cons f t ih =>
    rw [List.foldl_cons, ih _ fun g hg => h g (List.mem_cons_of_mem _ hg)]
    exact getLsbD_writeField w old f hi (h f List.mem_cons_self)

/-- A write changes writable fields only (R454). -/
theorem getLsbD_writeWord {i : Nat} (old : Word) (hi : i < 32) (h : ∀ f ∈ r.fields, f.acc ≠ .ro → i < f.lo ∨ f.hi < i) :
    (writeWord r old w).getLsbD i = old.getLsbD i := getLsbD_foldl_writeField w hi r.fields old h

/-- A write of a register whose fields are all RO leaves its word. -/
theorem writeWord_ro (old : Word) (h : ∀ f ∈ r.fields, f.acc = .ro) : writeWord r old w = old :=
  BitVec.eq_of_getLsbD_eq fun _ hi => getLsbD_writeWord old hi fun f hf hne => absurd (h f hf) hne

/-! ## The register map of the blocks with rules of their own (R458) -/

theorem regAt_ethSak {p : Nat} (hp : p < 2) (h : 0x040400 + p * 0x10000 ≤ off ∧ off < 0x040500 + p * 0x10000)
    (h4 : off % 4 = 0) : regAt off = regIn ethSakTable (off % 0x40) := by
  simp (disch := omega) only [regAt, if_neg, if_pos]
  have hmod : off % 0x10000 % 0x40 = off % 0x40 := Nat.mod_mod_of_dvd off (by decide)
  simp (disch := omega) only [ethReg, if_neg, if_pos, hmod]

theorem regAt_engFence (h : 0x200000 ≤ off ∧ off < 0x300000) (ho : off % 0x1000 = 0x10) :
    regAt off = some (grd [rwv 31 31, ro 27 24, ro 23 20]) := by
  simp (disch := omega) only [regAt, if_neg, if_pos, ho]
  rfl

theorem regAt_calFence (h : 0x480000 ≤ off ∧ off < 0x500000) (ho : off % 0x10000 = 0x10) :
    regAt off = some (grd [ro 31 16, rwv 15 0]) := by
  simp (disch := omega) only [regAt, if_neg, if_pos, ho]
  rfl

theorem regAt_memHint (h : 0x400000 ≤ off ∧ off < 0x480000) (ho : off % 0x10000 = 8) :
    regAt off = some (opw [rw' 4 0 0x08]) := by
  simp (disch := omega) only [regAt, if_neg, if_pos, ho]
  rfl

theorem regAt_memPrio (h : 0x400000 ≤ off ∧ off < 0x480000) (ho : off % 0x10000 = 0xC) :
    regAt off = some (opw [rw' 15 8 0x03, rw' 7 0 0x01]) := by
  simp (disch := omega) only [regAt, if_neg, if_pos, ho]
  rfl

theorem regAt_protEntry (h : 0x011000 ≤ off ∧ off < 0x013000) (h4 : off % 4 = 0) :
    regAt off = regIn protTable (off % 0x20) := by
  simp (disch := omega) only [regAt, if_neg, if_pos]
  have hmod : (off - 0x010000) % 0x20 = off % 0x20 := by omega
  simp (disch := omega) only [secReg, if_neg, if_pos, hmod]

theorem regAt_kvPool (h : 0x080100 ≤ off ∧ off < 0x080180) (hreg : regAt off = some r) : r = ownw [rwv 16 0] := by
  simp (disch := omega) only [regAt, if_neg, if_pos, Option.ite_none_left_eq_some] at hreg
  obtain ⟨-, hreg⟩ := hreg
  simp (disch := omega) only [kvReg, if_neg, if_pos, Option.ite_none_right_eq_some] at hreg
  exact (Option.some.inj hreg.2).symm

theorem regAt_opal (h : 0x090100 ≤ off ∧ off < 0x090120) (h4 : off % 4 = 0) : regAt off = some (opw [rw' 31 0]) := by
  obtain ⟨i, hi, rfl⟩ : ∃ i < 8, off = 0x090100 + 4 * i := ⟨(off - 0x090100) / 4, by omega, by omega⟩
  interval_cases i <;> rfl

theorem regAt_aligned (h : regAt off = some r) : off % 4 = 0 := by
  by_contra h4
  rw [regAt, if_pos h4] at h
  cases h

/-- The registers of a table all have a field that is not RO. -/
theorem writable_of_table {t : List (Nat × Reg)} {k : Nat}
    (ht : t.all (fun y => y.2.fields.any fun f => f.acc != .ro) = true) (h : regIn t k = some r) :
    ∃ f ∈ r.fields, f.acc ≠ .ro := by
  have hr := List.all_eq_true.mp ht _ (mem_of_sfind h)
  obtain ⟨f, hf, hne⟩ := List.any_eq_true.mp hr
  exact ⟨f, hf, by simpa using hne⟩

/-- The registers whose writes have a rule or an effect of their own. -/
def OwnRuled (off : Nat) : Prop :=
  off ∈ [oProtCtrl, oPwrCtrl, oTbCtrl, oTbSecLo, oTbSecHi, oEth 0, oEth 1, oVidFence, oMirror 0, oMirror 1, oMirror 2, oMirror 3,
    oDigCtrl]
  ∨ (0x011000 ≤ off ∧ off < 0x013000)
  ∨ (∃ p < 2, 0x040400 + p * 0x10000 ≤ off ∧ off < 0x040500 + p * 0x10000)
  ∨ (0x080100 ≤ off ∧ off < 0x080180)
  ∨ (oOpalKey ≤ off ∧ off < oOpalOut)
  ∨ (0x200000 ≤ off ∧ off < 0x300000 ∧ off % 0x1000 = 0x10)
  ∨ (0x480000 ≤ off ∧ off < 0x500000 ∧ off % 0x10000 = 0x10)
  ∨ (0x400000 ≤ off ∧ off < 0x480000 ∧ (off % 0x10000 = 8 ∨ off % 0x10000 = 0xC))

/-- Each of them has a field that a write may change. -/
theorem writable_of_ownRuled (h : OwnRuled off) (hreg : regAt off = some r) : ∃ f ∈ r.fields, f.acc ≠ .ro := by
  have h4 := regAt_aligned hreg
  obtain hmem | hprot | ⟨p, hp, hsak⟩ | hpool | hopal | ⟨hlow, hhigh, ho⟩ | ⟨hlow, hhigh, ho⟩ | ⟨hlow, hhigh, ho | ho⟩ := h
  · have hall : ∀ o ∈ [oProtCtrl, oPwrCtrl, oTbCtrl, oTbSecLo, oTbSecHi, oEth 0, oEth 1, oVidFence, oMirror 0, oMirror 1, oMirror 2,
        oMirror 3, oDigCtrl], (regAt o).all (fun r => r.fields.any fun f => f.acc != .ro) = true := by decide
    have hany := hall off hmem
    rw [hreg, Option.all_some] at hany
    obtain ⟨f, hf, hne⟩ := List.any_eq_true.mp hany
    exact ⟨f, hf, by simpa using hne⟩
  · exact writable_of_table (by decide) ((regAt_protEntry hprot h4).symm.trans hreg)
  · exact writable_of_table (by decide) ((regAt_ethSak hp hsak h4).symm.trans hreg)
  · rw [regAt_kvPool hpool hreg]
    exact ⟨rwv 16 0, by decide, by decide⟩
  · obtain rfl := Option.some.inj ((regAt_opal hopal h4).symm.trans hreg)
    exact ⟨rw' 31 0, by decide, by decide⟩
  · obtain rfl := Option.some.inj ((regAt_engFence ⟨hlow, hhigh⟩ ho).symm.trans hreg)
    exact ⟨rwv 31 31, by decide, by decide⟩
  · obtain rfl := Option.some.inj ((regAt_calFence ⟨hlow, hhigh⟩ ho).symm.trans hreg)
    exact ⟨rwv 15 0, by decide, by decide⟩
  · obtain rfl := Option.some.inj ((regAt_memHint ⟨hlow, hhigh⟩ ho).symm.trans hreg)
    exact ⟨rw' 4 0 0x08, by decide, by decide⟩
  · obtain rfl := Option.some.inj ((regAt_memPrio ⟨hlow, hhigh⟩ ho).symm.trans hreg)
    exact ⟨rw' 15 8 0x03, by decide, by decide⟩

theorem ownRule_of_not_ownRuled (h : ¬OwnRuled off) : ownRule s off ws off w = none := by
  simp only [OwnRuled, List.mem_cons, List.not_mem_nil, or_false, not_or] at h
  obtain ⟨⟨-, hpwr, htb, -, -, he0, he1, hvid, hm0, hm1, hm2, hm3, -⟩, hprot, -, hpool, -, heng, hcal, -⟩ := h
  simp only [ownRule, hpwr, htb, he0, he1, hvid, hm0, hm1, hm2, hm3, hprot, hpool, heng, hcal, if_false, or_self]

theorem plain_of_not_ownRuled (h : ¬OwnRuled off) : plain off = true := by
  simp only [OwnRuled, List.mem_cons, List.not_mem_nil, or_false, not_or] at h
  obtain ⟨⟨hctrl, hpwr, htb, hlo, hhi, he0, he1, hvid, hm0, -, hm2, -, hdig⟩, hprot, hsak, -, hopal, heng, hcal, hmem⟩ := h
  have hsak0 : ¬(0x040400 ≤ off ∧ off < 0x040500) := fun h => hsak ⟨0, by omega, h⟩
  have hsak1 : ¬(0x050400 ≤ off ∧ off < 0x050500) := fun h => hsak ⟨1, by omega, h⟩
  simp [plain, inProtMap, hctrl, hpwr, htb, hlo, hhi, he0, he1, hvid, hm0, hm2, hdig]
  omega

/-! ## Storing one word -/

/-- A register's word, with its voted copies agreeing (R455). -/
def putWord (s : State) (off : Nat) (v : Word) : State :=
  { regSet s off v with votes := s.votes.filter fun y => y.offset != off }

theorem regGet_putWord_same (h : swf resetWord s.regs = true) (off : Nat) (v : Word) : regGet (putWord s off v) off = v :=
  regGet_regSet_same h off v

theorem regsBut_putWord (s : State) (off : Nat) (v : Word) : RegsBut s (putWord s off v) [off] := fun _ ha =>
  regGet_regSet_other s v (by simpa using ha)

/-- Storing the word that a register holds changes no register. -/
theorem regGet_putWord_self (h : swf resetWord s.regs = true) (off a : Nat) :
    regGet (putWord s off (regGet s off)) a = regGet s a := by
  by_cases ha : a = off
  · rw [ha, regGet_putWord_same h]
  · exact regsBut_putWord s off _ a (by simpa using ha)

/-- A word of a register that changes at once. -/
theorem storeWord_now {o : Nat} (hreg : regAt o = some r) (hpair : pairWhole off ws o = true) (hnow : atBoundary o = false) :
    storeWord s off ws o w = putWord s o (heldBack o (regGet s o) (writeWord r (regGet s o) w)) := by
  simp only [storeWord, hreg, hpair, hnow, Bool.not_true, Bool.false_eq_true, if_false]
  rfl

/-- A plain offset is none of those with a rule or an effect of their own. -/
theorem plain_elim (hp : plain off = true) :
    off ∉ [oPwrCtrl, oTbCtrl, oTbSecLo, oTbSecHi, oEth 0, oEth 1, oVidFence, oMirror 0, oMirror 2, oDigCtrl]
      ∧ ¬(0x200000 ≤ off ∧ off < 0x300000 ∧ off % 0x1000 = 0x10) ∧ ¬(0x480000 ≤ off ∧ off < 0x500000 ∧ off % 0x10000 = 0x10)
      ∧ ¬((0x400000 ≤ off ∧ off < 0x480000) ∧ (off % 0x10000 = 8 ∨ off % 0x10000 = 0xC))
      ∧ ¬(0x040400 ≤ off ∧ off < 0x040500 ∨ 0x050400 ≤ off ∧ off < 0x050500)
      ∧ inProtMap off = false ∧ ¬(oOpalKey ≤ off ∧ off < oOpalOut) := by
  simp only [plain, Bool.and_eq_true, Bool.not_eq_true'] at hp
  obtain ⟨⟨⟨⟨⟨⟨⟨hlist, heng⟩, hcal⟩, hmem⟩, hsak0⟩, hsak1⟩, hprot⟩, hopal⟩ := hp
  refine ⟨fun h => ?_, fun h => ?_, fun h => ?_, fun h => ?_, fun h => ?_, hprot, of_decide_eq_false hopal⟩
  · exact absurd (List.contains_iff_mem.mpr h) (by rw [hlist]; exact Bool.false_ne_true)
  · simp [h] at heng
  · simp [h] at hcal
  · simp only [Bool.and_eq_false_iff, decide_eq_false_iff_not, Bool.or_eq_false_iff, beq_eq_false_iff_ne] at hmem
    exact hmem.elim (fun g => g h.1) fun g => h.2.elim g.1 g.2
  · exact h.elim (of_decide_eq_false hsak0) (of_decide_eq_false hsak1)

/-- A plain register's fields are stored, and nothing else happens. -/
theorem oneWrite_plain (hp : plain off = true) (hreg : regAt off = some r) :
    oneWrite s off w = putWord s off (writeWord r (regGet s off) w) := by
  obtain ⟨hlist, heng, hcal, hmem, hsak, hprot, hopal⟩ := plain_elim hp
  simp only [List.mem_cons, List.not_mem_nil, or_false, not_or] at hlist
  obtain ⟨hpwr, htb, hlo, hhi, he0, he1, hvid, hm0, hm2, hdig⟩ := hlist
  have hpair : pairWhole off [w] off = true := by simp [pairWhole, hlo, hhi]
  have hnow : atBoundary off = false := by
    simpa only [atBoundary, Bool.or_eq_false_iff, beq_eq_false_iff_ne, ne_eq, Bool.and_eq_false_iff, decide_eq_false_iff_not,
      not_and_or, not_or] using And.intro hdig hmem
  have hheld (old new : Word) : heldBack off old new = new := by
    simp only [heldBack, heng, hcal, hm0, hm2, hsak, or_self, if_false]
  have heffect (u : State) (old : Word) : writeEffect u off [w] off old w = u := by
    simp only [writeEffect, hpwr, htb, he0, he1, hsak, hvid, hm0, hm2, heng, hcal, false_and, or_self, if_false]
  have hgen (u : State) : protGen s u [off] = u := by simp [protGen, hprot]
  rw [oneWrite, if_neg hopal, hgen, heffect, storeWord_now hreg hpair hnow, hheld]

/-- An admitted write of one word (R453). -/
theorem exec_writes_one (h : WriteAdmitted s b x off [w]) (hreg : regAt off = some r) :
    exec (.registerWrite b off [w]) s = .next (emit (oneWrite { s with out := [] } off w) (.status .ok)) := by
  obtain ⟨r', hr', hmay⟩ := h.words 0 Nat.one_pos
  obtain rfl := Option.some.inj (hreg.symm.trans hr')
  exact registerAccess_answers h.ready h.opened ⟨le_rfl, (by decide : 1 ≤ 64)⟩ (regWrite_one hreg h.host hmay (h.rules 0 Nat.one_pos))

/-- A plain register's write stores its fields (R453). -/
theorem exec_writes_plain (h : WriteAdmitted s b x off [w]) (hreg : regAt off = some r) (hp : plain off = true) :
    exec (.registerWrite b off [w]) s
      = .next (emit (putWord { s with out := [] } off (writeWord r (regGet s off) w)) (.status .ok)) := by
  rw [exec_writes_one h hreg, oneWrite_plain hp hreg]
  rfl

/-- A register all of whose fields are RO has no rule of its own. -/
theorem not_ownRuled_of_ro (hreg : regAt off = some r) (h : ∀ f ∈ r.fields, f.acc = .ro) : ¬OwnRuled off := fun hown => by
  obtain ⟨f, hf, hne⟩ := writable_of_ownRuled hown hreg
  exact hne (h f hf)

/-- A write of one word of a register whose fields are all RO is admitted where the level admits the class. -/
theorem writeAdmitted_ro (hready : isReady s = true) (hopen : sessGet s b = some x) (hpeer : x.cls ≠ .peer)
    (hreg : regAt off = some r) (hmay : mayWrite r.level x.cls = true) (h : ∀ f ∈ r.fields, f.acc = .ro) :
    WriteAdmitted s b x off [w] := by
  refine ⟨hready, hopen, ⟨le_rfl, (by decide : 1 ≤ 64)⟩, hpeer, fun i hi => ?_, fun i hi => ?_⟩
  · obtain rfl : i = 0 := Nat.lt_one_iff.mp hi
    exact ⟨r, hreg, hmay⟩
  · obtain rfl : i = 0 := Nat.lt_one_iff.mp hi
    exact ownRule_of_not_ownRuled (not_ownRuled_of_ro hreg h)

/-- Settles O9, bit by bit over the fields that a write folds in. -/
theorem writesLeaveReadOnlyBitsAlone : Obligations.WritesLeaveReadOnlyBitsAlone := by
  refine ⟨fun r old w i hi h => getLsbD_writeWord old hi h, fun s b off w x r hs hadm hreg hp i hi h => ?_,
    fun s b off w x r hs hready hopen hpeer hreg hmay hro => ?_⟩
  · refine ⟨_, exec_writes_plain hadm hreg hp, rfl, ?_⟩
    have hget := regGet_putWord_same (s := { s with out := [] }) hs.regs off (writeWord r (regGet s off) w)
    exact (congrArg (BitVec.getLsbD · i) hget).trans (getLsbD_writeWord _ hi h)
  · have hp := plain_of_not_ownRuled (not_ownRuled_of_ro hreg hro)
    refine ⟨_, exec_writes_plain (writeAdmitted_ro hready hopen hpeer hreg hmay hro) hreg hp, rfl, fun a => ?_, rfl⟩
    rw [writeWord_ro _ hro]
    exact regGet_putWord_self (s := { s with out := [] }) hs.regs off a

/-- Checks that a firmware fault stops do not pass. -/
theorem fault_of_codeOfChecks {p : Packet} {l : List (Nat × Bool × Code)} (h : codeOfChecks p l = none) : p.fault = none := by
  unfold codeOfChecks at h
  split at h
  · cases h
  · cases h
  · assumption

/-- The parameters of a command that passes steps 1 to 6 have its opcode's length (R375). -/
theorem length_params {n : Nat} {op : Byte} {p : Packet} (h : sessionCheck x n op p = none) :
    p.params.length = paramLength op p.params := by
  have hfault := fault_of_codeOfChecks h
  rw [sessionCheck, codeOfChecks_sound hfault, Option.map_eq_none_iff, List.find?_eq_none] at h
  simpa using h _ (List.mem_append_right _ (List.mem_cons_of_mem _ (List.mem_cons_of_mem _ List.mem_cons_self)))

/-- The word of a REG_WRITE of one word (R450). -/
theorem wordsLE_one {b : Bytes} (h : b.length = 12) : wordsLE (slice b 8 4) = [BitVec.ofNat 32 (field b 8 4)] := by
  have hlen : (slice b 8 4).length / 4 = 1 := by simp [slice, h]
  rw [wordsLE, hlen]
  simp [List.range_one, field, slice, List.take_take]

/-- The rules of registers other than those of the ports do not look at the sessions. -/
theorem ownRule_sessions {o : Nat} {l : List Output} {m : List (Nat × Session)} (h0 : o ≠ oEth 0) (h1 : o ≠ oEth 1) :
    ownRule { s with out := l, sessions := m } off ws o w = ownRule s off ws o w := by
  simp only [ownRule, h0, h1, or_self, if_false]
  rfl

/-- An admitted REG_WRITE of one word of a plain register. -/
theorem cmdRegWrite_plain {who : Who} {p : Packet} (hreg : regAt off = some r) (hpeer : who.cls ≠ .peer)
    (hmay : mayWrite r.level who.cls = true) (hrule : ownRule s off [w] off w = none) (hp : plain off = true)
    (hoff : field p.params 0 4 = off) (hone : field p.params 4 4 = 1) (hw : wordsLE (slice p.params 8 4) = [w]) :
    cmdRegWrite who p s = { code := .ok, st := putWord s off (writeWord r (regGet s off) w) } := by
  simp only [cmdRegWrite, hoff, hone, hw, Nat.mul_one, regWrite_one hreg hpeer hmay hrule, oneWrite_plain hp hreg]
  rfl

/-- Settles O10: a host's write and REG_WRITE are the same write, of which a plain register stores the fields. -/
theorem plainRegisterWriteStoresItsFields : Obligations.PlainRegisterWriteStoresItsFields := by
  intro s b off w x r hs hadm hreg hp
  refine ⟨⟨_, exec_writes_plain hadm hreg hp, rfl, ?_, ?_, rfl⟩, fun p hcmd hoff hone hw => ?_⟩
  · exact regGet_putWord_same (s := { s with out := [] }) hs.regs off _
  · exact regsBut_putWord { s with out := [] } off _
  obtain ⟨r', hr', hmay⟩ := hadm.words 0 Nat.one_pos
  obtain rfl := Option.some.inj (hreg.symm.trans hr')
  have hlen : p.params.length = 12 := by
    rw [length_params hcmd.checks]
    change 8 + 4 * field p.params 4 4 = 12
    rw [hone]
  have htaken := taken_frame (p := p) hcmd.opened
  have hrule : ownRule (taken s b p) off [w] off w = none := by
    have hlist := (plain_elim hp).1
    simp only [List.mem_cons, List.not_mem_nil, or_false, not_or] at hlist
    obtain ⟨-, -, -, -, he0, he1, -⟩ := hlist
    rw [htaken, ownRule_sessions he0 he1]
    exact hadm.rules 0 Nat.one_pos
  have hbooks := onlyBooks_taken (p := p) hcmd.opened
  have hown := cmdRegWrite_plain (s := taken s b p) (who := ⟨x.cls, some b⟩) hreg hadm.host hmay hrule hp hoff hone
    ((wordsLE_one hlen).trans (by rw [hw]))
  obtain ⟨t, he, hr, -, ht⟩ := exec_replies hcmd hown (k := 0) hbooks.booked (by rw [htaken]; rfl)
  refine ⟨t, he, hr, ?_, ?_, ?_⟩
  · rw [ht, htaken]
    exact regGet_putWord_same hs.regs off _
  · rw [ht, htaken]
    exact regsBut_putWord s off _
  · rw [ht, htaken]
    rfl

end Sys2Proof.Machine

/-! What the device tells its regulators: commands go out, and only the record of the supplies changes (R475, R482). -/

namespace Sys2Proof.Machine

open Sys2Proof

variable {s t u : State}

/-- From s to t commands go to regulators, and the record of the supplies may change. -/
def RailWork (s t : State) : Prop :=
  ∃ ops, (∀ o ∈ ops, ∃ r a g y, o = Output.pmbus r a g y) ∧ t = { s with out := s.out ++ ops, power := t.power }

theorem railWork_refl (s : State) : RailWork s s := ⟨[], by simp, by simp⟩

theorem railWork_trans (h : RailWork s t) (h' : RailWork t u) : RailWork s u := by
  obtain ⟨a, ha, ht⟩ := h
  obtain ⟨b, hb, hu⟩ := h'
  refine ⟨a ++ b, fun o ho => (List.mem_append.mp ho).elim (ha o) (hb o), ?_⟩
  rw [hu, ht, List.append_assoc]

theorem railWork_power {p : Power} (h : RailWork s t) : RailWork s { t with power := p } := by
  obtain ⟨a, ha, ht⟩ := h
  refine ⟨a, ha, ?_⟩
  rw [ht]

theorem railWork_pmbus (op : PmbusOp) (r : Nat) : RailWork s (pmbus s op r) := by
  unfold pmbus
  split
  · exact ⟨_, by simp, rfl⟩
  · exact railWork_refl s

@[simp] theorem pmbus_power (op : PmbusOp) (r : Nat) : (pmbus s op r).power = s.power := by
  unfold pmbus
  split <;> rfl

theorem railWork_railSwitch (on : Bool) (r : Nat) : RailWork s (railSwitch on s r) := railWork_power (railWork_pmbus _ r)

theorem railWork_foldl {α : Type} {f : State → α → State} (h : ∀ s a, RailWork s (f s a)) (l : List α) (s : State) :
    RailWork s (l.foldl f s) := by
  induction l generalizing s with
  | nil => exact railWork_refl s
  | cons a l ih => exact railWork_trans (h s a) (ih _)

theorem railWork_setVdd (f : Nat) : RailWork s (setVdd s f) :=
  railWork_trans (railWork_power (railWork_refl s)) (railWork_foldl (fun _ q => railWork_pmbus _ q) _ _)

theorem foldl_pmbus_power (op : Nat → PmbusOp) (l : List Nat) (s : State) :
    (l.foldl (fun s q => pmbus s (op q) q) s).power = s.power := by
  induction l generalizing s with
  | nil => rfl
  | cons q l ih => exact (ih _).trans (pmbus_power _ _)

/-- The supplies after a new voltage for F (R475). -/
@[simp] theorem setVdd_power (s : State) (f : Nat) : (setVdd s f).power = { s.power with vddF := f } := foldl_pmbus_power _ _ _

theorem railWork_enableQuadrants : RailWork s (enableQuadrants s) :=
  railWork_trans (railWork_setVdd _) (railWork_foldl (fun _ => railWork_railSwitch true) _ _)

@[simp] theorem railSwitch_on_power (s : State) (r : Nat) :
    (railSwitch true s r).power = { s.power with enabled := s.power.enabled.filter (· != r) ++ [r] } := by
  simp [railSwitch]

@[simp] theorem enableQuadrants_vddF (s : State) : (enableQuadrants s).power.vddF = fNow s := by
  simp [enableQuadrants]

/-- The quadrant rails are on once they have come on. -/
theorem mem_enabled_enableQuadrants {q : Nat} (hq : q < 4) : q ∈ (enableQuadrants s).power.enabled := by
  interval_cases q <;> simp [enableQuadrants]

end Sys2Proof.Machine

/-! Writes of PWR_CTRL (R482, R483). -/

namespace Sys2Proof.Machine

open Sys2Proof Sys2Proof.Terms

variable {s : State} {b off : Nat} {w : Word} {x : Session} {r : Reg}

/-- An OWNER session's write of one word that the register's own rule admits. -/
theorem access_one (hready : isReady s = true) (hopen : sessGet s b = some x) (howner : x.cls = .owner)
    (hreg : regAt off = some r) (hrule : ownRule s off [w] off w = none) :
    registerAccess b off [w] s = .next (emit (oneWrite { s with out := [] } off w) (.status .ok)) :=
  registerAccess_answers hready hopen ⟨le_rfl, (by decide : 1 ≤ 64)⟩
    (regWrite_one hreg (by simp [howner]) (by rw [howner]; rfl) hrule)

/-- An OWNER session's write of one word that the register's own rule refuses. -/
theorem access_refused {c : Code} (hready : isReady s = true) (hopen : sessGet s b = some x) (howner : x.cls = .owner)
    (hreg : regAt off = some r) (hrule : ownRule s off [w] off w = some c) :
    registerAccess b off [w] s = .next (emit (logRefusedLift { s with out := [] } off w) (.status c)) := by
  have hrule' : ownRule { s with out := [] } off [w] off w = some c := hrule
  refine registerAccess_answers hready hopen ⟨le_rfl, (by decide : 1 ≤ 64)⟩ ?_
  simp [regWrite, hreg, howner, mayWrite, hrule', List.range_one]

/-! ## The fields of a written word -/

/-- Whether a write stores a field as it is written. -/
def stores (f : Fld) : Bool := f.acc == .rw || f.acc == .rwv || f.acc == .wo

theorem getF_writeField_same {f : Fld} (h : stores f = true) (hle : f.lo ≤ f.hi) (hlt : f.hi < 32) (old : Word) :
    getF (writeField w old f) f.hi f.lo = getF w f.hi f.lo := by
  have hset : getF (setF old f.hi f.lo (getF w f.hi f.lo)) f.hi f.lo = getF w f.hi f.lo := by
    rw [getF_setF_same _ _ hle hlt, Nat.mod_eq_of_lt (getF_lt w _ _)]
  simp only [stores, Bool.or_eq_true, beq_iff_eq] at h
  obtain (h | h) | h := h <;> simpa only [writeField, h] using hset

theorem getF_writeField_other {f g : Fld} (hlt : f.hi < 32) (h : f.hi < g.lo ∨ g.hi < f.lo) (old : Word) :
    getF (writeField w old g) f.hi f.lo = getF old f.hi f.lo := by
  have hset (v : Nat) : getF (setF old g.hi g.lo v) f.hi f.lo = getF old f.hi f.lo := getF_setF_other _ _ h hlt
  unfold writeField
  split
  · rfl
  · exact hset _
  · exact hset _
  · exact hset _
  · split
    · rfl
    · exact hset _
  · exact hset _

/-- A field that stands apart from the others of its register reads after a write as it was written (R453). -/
theorem getF_writeWord {f : Fld} (hf : f ∈ r.fields) (hst : stores f = true) (hle : f.lo ≤ f.hi) (hlt : f.hi < 32)
    (hapart : ∀ g ∈ r.fields, g = f ∨ f.hi < g.lo ∨ g.hi < f.lo) (old : Word) :
    getF (writeWord r old w) f.hi f.lo = getF w f.hi f.lo := by
  suffices h : ∀ l : List Fld, (∀ g ∈ l, g = f ∨ f.hi < g.lo ∨ g.hi < f.lo) → ∀ v,
      f ∈ l ∨ getF v f.hi f.lo = getF w f.hi f.lo → getF (l.foldl (writeField w) v) f.hi f.lo = getF w f.hi f.lo from
    h r.fields hapart old (.inl hf)
  intro l
  induction l with
  | nil => exact fun _ v hv => hv.resolve_left (by simp)
  | cons g l ih =>
    intro hl v hv
    refine ih (fun k hk => hl k (List.mem_cons_of_mem _ hk)) _ ?_
    obtain rfl | hg := hl g List.mem_cons_self
    · exact .inr (getF_writeField_same hst hle hlt v)
    · rw [getF_writeField_other hlt hg]
      refine hv.imp_left fun hmem => (List.mem_cons.mp hmem).resolve_left ?_
      rintro rfl
      omega

/-- Fields of the register that one word was written to. -/
theorem regF_putWord (hs : swf resetWord s.regs = true) (off : Nat) (v : Word) (hi lo : Nat) :
    regF (putWord s off v) off hi lo = getF v hi lo := congrArg (getF · hi lo) (regGet_putWord_same hs off v)

/-! ## PWR_CTRL -/

/-- The fields of PWR_CTRL. -/
def pwrCtrl : Reg := grd [rwv 31 31, rwv 30 30, rwv 5 0 0x20]

theorem regAt_pwrCtrl : regAt oPwrCtrl = some pwrCtrl := rfl

/-- PWR_CTRL after a write of w. -/
def pwrWord (s : State) (w : Word) : Word := writeWord pwrCtrl (regGet s oPwrCtrl) w

theorem force_pwrWord : getF (pwrWord s w) 31 31 = getF w 31 31 :=
  getF_writeWord (f := rwv 31 31) (by decide) rfl (by decide) (by decide) (by decide) _

theorem standby_pwrWord : getF (pwrWord s w) 30 30 = getF w 30 30 :=
  getF_writeWord (f := rwv 30 30) (by decide) rfl (by decide) (by decide) (by decide) _

theorem ceiling_pwrWord : getF (pwrWord s w) 5 0 = getF w 5 0 :=
  getF_writeWord (f := rwv 5 0 0x20) (by decide) rfl (by decide) (by decide) (by decide) _

theorem oneWrite_pwrCtrl_eq : oneWrite s oPwrCtrl w
    = writeEffect (putWord s oPwrCtrl (pwrWord s w)) oPwrCtrl [w] oPwrCtrl (regGet s oPwrCtrl) w := by
  rw [oneWrite, if_neg (by decide), protGen, if_neg (by simp [inProtMap, oPwrCtrl, oProtCtrl]),
    storeWord_now regAt_pwrCtrl rfl rfl]
  rfl

/-- A write of PWR_CTRL that does not end STANDBY stores its fields. -/
theorem oneWrite_pwrCtrl (h : ¬(s.power.phase = .standby ∧ getF w 30 30 = 0)) :
    oneWrite s oPwrCtrl w = putWord s oPwrCtrl (pwrWord s w) := by
  rw [oneWrite_pwrCtrl_eq, writeEffect, if_pos rfl]
  exact if_neg h

/-- One that does ends it. -/
theorem oneWrite_pwrCtrl_leaves (h : s.power.phase = .standby ∧ getF w 30 30 = 0) :
    oneWrite s oPwrCtrl w = leaveStandby (putWord s oPwrCtrl (pwrWord s w)) := by
  rw [oneWrite_pwrCtrl_eq, writeEffect, if_pos rfl]
  exact if_pos h

theorem ownRule_pwrCtrl (h : ¬(getF w 30 30 = 1 ∧ standbyBusy s = true)) : ownRule s oPwrCtrl [w] oPwrCtrl w = none := by
  rw [ownRule, if_neg (by decide), if_pos rfl, if_neg h]

/-! ## The end of STANDBY -/

/-- Logging changes the event log alone. -/
theorem foldl_logEvent_frame {α : Type} (c : Nat) (u : α → BitVec 16) (k : Option Nat) (d : α → Bytes) (l : List α) (s : State) :
    let t := l.foldl (fun s a => logEvent s c (u a) k (d a)) s
    t = { s with events := t.events, nextSeq := t.nextSeq } := by
  induction l generalizing s with
  | nil => rfl
  | cons a l ih => exact (ih _).trans rfl

/-- The check of the retained images removes images and logs (R482). -/
theorem checkImages_frame (s : State) :
    ∃ images events next, checkImages s = { s with images := images, events := events, nextSeq := next }
      ∧ ∀ i ∈ images, i ∈ s.images := by
  unfold checkImages
  dsimp only
  rw [foldl_logEvent_frame 0x0802 (fun _ => unitOf 0 0) none (fun i : Image => toLE i.id.toNat 8)]
  exact ⟨_, _, _, rfl, fun i hi => List.mem_of_mem_filter hi⟩

/-- What the end of STANDBY changes (R482): commands to the regulators, the supplies, the images, the log and PWR_STATUS. -/
theorem leaveStandby_frame (s : State) :
    ∃ ops power images events next,
      leaveStandby s
        = { regSetF s oPwrStatus 31 28 2 with
            out := s.out ++ ops, power := power, images := images, events := events, nextSeq := next }
        ∧ (∀ o ∈ ops, ∃ r a g y, o = Output.pmbus r a g y) ∧ (∀ q < 4, q ∈ power.enabled) ∧ power.vddF = fNow s
        ∧ power.phase = .idle ∧ power.ramp = true ∧ ∀ i ∈ images, i ∈ s.images := by
  obtain ⟨ops, hops, hrails⟩ := railWork_enableQuadrants (s := s)
  have hon := fun q => mem_enabled_enableQuadrants (s := s) (q := q)
  have hvdd := enableQuadrants_vddF (s := s)
  unfold leaveStandby enterRamp rampFrom
  generalize enableQuadrants s = u at *
  obtain ⟨images, events, next, hcheck, himages⟩ := checkImages_frame u
  rw [hcheck]
  generalize u.power = power at *
  subst hrails
  exact ⟨ops, _, images, events, next, rfl, hops, fun q => hon q, hvdd, rfl, rfl, himages⟩

/-- A write of PWR_CTRL that does not end STANDBY stores its fields, and nothing else happens. -/
theorem access_pwrCtrl (hready : isReady s = true) (hopen : sessGet s b = some x) (howner : x.cls = .owner)
    (hfree : ¬(getF w 30 30 = 1 ∧ standbyBusy s = true)) (hstay : ¬(s.power.phase = .standby ∧ getF w 30 30 = 0)) :
    registerAccess b oPwrCtrl [w] s = .next (emit (putWord { s with out := [] } oPwrCtrl (pwrWord s w)) (.status .ok)) := by
  have hone : oneWrite { s with out := [] } oPwrCtrl w = _ := oneWrite_pwrCtrl hstay
  rw [access_one hready hopen howner regAt_pwrCtrl (ownRule_pwrCtrl hfree), hone]
  rfl

/-- Settles O11: each row is one write of PWR_CTRL with one field changed. -/
theorem powerControlWrites : Obligations.PowerControlWrites := by
  intro s b x hs hready hopen howner
  have hregs : swf resetWord ({ s with out := [] } : State).regs = true := hs.regs
  have hbut (w : Word) : RegsBut s (putWord { s with out := [] } oPwrCtrl (pwrWord s w)) [oPwrCtrl] :=
    regsBut_putWord { s with out := [] } oPwrCtrl _
  have hset (v : Nat) : getF (setF (regGet s oPwrCtrl) 30 30 v) 30 30 = v % 2 := getF_setF_same _ _ (by decide) (by decide)
  refine ⟨fun hfree => ?_, fun hbusy => ?_, fun hphase => ?_, fun hphase => ?_, fun on hoff hphase => ?_⟩
  · refine ⟨_, access_pwrCtrl hready hopen howner ?_ ?_, rfl, ?_, hbut _, rfl⟩
    · simp [hfree]
    · simp [hset]
    · exact (regF_putWord hregs oPwrCtrl _ 30 30).trans (standby_pwrWord.trans (hset 1))
  · refine ⟨_, access_refused hready hopen howner regAt_pwrCtrl ?_, rfl, rfl⟩
    rw [ownRule, if_neg (by decide), if_pos rfl, if_pos ⟨hset 1, hbusy⟩]
  · refine ⟨_, access_pwrCtrl hready hopen howner ?_ ?_, rfl, ?_, hbut _, rfl⟩
    · simp [hset]
    · simp [hphase]
    · exact (regF_putWord hregs oPwrCtrl _ 30 30).trans (standby_pwrWord.trans (hset 0))
  · have hexec := access_one hready hopen howner regAt_pwrCtrl (ownRule_pwrCtrl (s := s) (w := setF (regGet s oPwrCtrl) 30 30 0)
      (by simp [hset]))
    have hone : oneWrite { s with out := [] } oPwrCtrl (setF (regGet s oPwrCtrl) 30 30 0) = _ :=
      oneWrite_pwrCtrl_leaves ⟨hphase, hset 0⟩
    obtain ⟨ops, power, images, events, next, hleave, hops, hon, hvdd, hidle, hramp, himages⟩ := leaveStandby_frame
      (putWord { s with out := [] } oPwrCtrl (pwrWord { s with out := [] } (setF (regGet s oPwrCtrl) 30 30 0)))
    rw [hone, hleave] at hexec
    have hstatus : regGet (putWord { s with out := [] } oPwrCtrl (pwrWord s (setF (regGet s oPwrCtrl) 30 30 0))) oPwrStatus
        = regGet s oPwrStatus := hbut _ _ (by decide)
    refine ⟨_, ops, hexec, rfl, hops, hon, hvdd.trans (congrArg (getF · 5 0) hstatus), ?_, hidle, hramp, ?_, rfl, rfl, himages⟩
    · refine (regF_regSet_other _ _ 30 30 (by decide)).trans ?_
      exact (regF_putWord hregs oPwrCtrl _ 30 30).trans (standby_pwrWord.trans (hset 0))
    · exact regF_regSetF_same (swf_regSet hregs _ _) oPwrStatus 2 (by decide) (by decide)
  · have hkeep : getF (setF (regGet s oPwrCtrl) 31 31 on.toNat) 30 30 = 0 :=
      (getF_setF_other _ _ (by decide) (by decide)).trans hoff
    refine ⟨_, access_pwrCtrl hready hopen howner ?_ ?_, rfl, ?_, ?_, hbut _, rfl⟩
    · simp [hkeep]
    · simp [hphase]
    · refine (regF_putWord hregs oPwrCtrl _ 31 31).trans (force_pwrWord.trans ?_)
      rw [getF_setF_same _ _ (by decide) (by decide)]
      cases on <;> rfl
    · refine (regF_putWord hregs oPwrCtrl _ 5 0).trans (ceiling_pwrWord.trans ?_)
      exact getF_setF_other _ _ (by decide) (by decide)

end Sys2Proof.Machine

/-! Writes of CAL_FENCE (R246): a mask joins the fences that faults have asked for in the same beat. -/

namespace Sys2Proof.Machine

open Sys2Proof Sys2Proof.Terms

/-- An open OWNER session on interface 0 of port 0. -/
def ownerSession : Session :=
  { cls := .owner, port := 0, iface := 0, addr := 7, udp := 9, window := 16, segment := 8192, expect := 0, nakFor := none
    grant := 16, held := 0, nextPsn := 0, kept := [], ackSent := 0, grantSent := 16, ackSince := none, accepted := 0
    ackNow := false, timeouts := 0, rtoNs := 64000, timerAt := 0, ringAck := 0, doneSeq := 0, ring := [], reserved := 0
    slipSeen := false, holdSeen := false, peerGrant := 0, peerUsed := 0 }

/-- A ready device in IDLE with an OWNER session on which unit 0 has faulted in this beat: its fence waits for the boundary. -/
def unitFaulted : State :=
  { power := { phase := .idle }, sessions := [(1, ownerSession)], ports := [{ port := 0, idx := 0, up := true }]
    calNext := [(0, 1)], unitCause := [(0, 1)] }

theorem unitFaulted_canonical : Canonical unitFaulted := ⟨by decide, by decide, by decide, by decide, by decide⟩

/-- A write of 0 to CAL_FENCE of its stack keeps the fence that waits. -/
theorem calFenceWrite_keeps_fault {t : State} (h : exec (.calFenceWrite 1 0 0) unitFaulted = .next t) :
    sfind t.calNext 0 = some 1 := by
  cases h
  decide +kernel

/-- Refutes O12: a write of 0 to CAL_FENCE in the beat in which unit 0 has faulted does not put the mask 0 down for the next
boundary, for the fault's fence waits with it (`pendingFaults`). -/
theorem not_fenceWritesWaitForTheBoundary : ¬Obligations.FenceWritesWaitForTheBoundary := by
  intro h
  obtain ⟨-, -, -, hcal, -⟩ := h unitFaulted 1 (ownerSession) unitFaulted_canonical rfl rfl rfl
  have hnone : bitsOf 16 (regF unitFaulted (oCal 0 + 0x10) 15 0) = [] := by decide +kernel
  obtain ⟨t, he, -, hmask, -⟩ := hcal 0 (by decide) 0 (by simp [hnone])
  rw [calFenceWrite_keeps_fault he] at hmask
  exact absurd hmask (by decide)

end Sys2Proof.Machine

/-! The end of a session (R381, R442), and the reply that its last command gets. -/

namespace Sys2Proof.Machine

open Sys2Proof Sys2Proof.Terms

variable {s : State} {n k : Nat} {x : Session} {p : Packet} {op : Byte}

/-! ## closeSession -/

theorem sessGet_eq (s : State) (n : Nat) : sessGet s n = (sfind s.sessions n).filter (fun x => !x.closed) := rfl

/-- A closed session is gone. -/
theorem sessGet_closeSession_same (h : keysRise s.sessions = true) (n : Nat) : sessGet (closeSession s n) n = none := by
  unfold closeSession
  split
  · assumption
  · next x hx =>
    dsimp only
    split
    · rw [sessGet_eq]
      simp only [closeStreams, sfind_sdel_same h, Option.filter_none]
    · rw [sessGet_sessSet_same, if_pos rfl]

/-- The other sessions stay. -/
theorem sessGet_closeSession_other (h : k ≠ n) : sessGet (closeSession s n) k = sessGet s k := by
  unfold closeSession
  split
  · rfl
  · dsimp only
    split
    · rw [sessGet_eq, sfind_sdel_other _ h]
      rfl
    · rw [sessGet_sessSet_other _ _ h]
      rfl

theorem keysRise_closeSession (h : keysRise s.sessions = true) (n : Nat) : keysRise (closeSession s n).sessions = true := by
  unfold closeSession
  split
  · exact h
  · dsimp only
    split
    · exact keysRise_sdel h n
    · exact keysRise_sessSet h n _

theorem closeSession_frame (s : State) (n : Nat) :
    closeSession s n = { s with sessions := (closeSession s n).sessions, streams := (closeSession s n).streams
                                nodes := (closeSession s n).nodes, parting := (closeSession s n).parting } := by
  unfold closeSession
  split
  · rfl
  · dsimp only
    split <;> rfl

/-- What the end of an open session sends, and what becomes of its streams (R442). -/
theorem closeSession_open (h : sessGet s n = some x) :
    (closeSession s n).parting = s.parting ++ owedRsps s n x ∧ (closeSession s n).streams = (closeStreams s n).streams := by
  unfold closeSession
  simp only [h]
  split <;> exact ⟨rfl, rfl⟩

/-- The streams of a session that ends: those that are DAMAGED go, the others close once their frames have ended. -/
theorem closeStreams_streams (s : State) (n : Nat) :
    (closeStreams s n).streams.map (·.num) = (s.streams.filter fun y => !(y.owner == n && y.damaged)).map (·.num)
      ∧ ∀ y ∈ (closeStreams s n).streams, y.owner = n → y.closingNoEntry = true := by
  refine ⟨?_, fun y hy hown => ?_⟩
  · rw [closeStreams, List.map_map]
    refine List.map_congr_left fun y _ => ?_
    by_cases hown : y.owner = n <;> simp [hown]
  · obtain ⟨z, -, rfl⟩ := List.mem_map.mp hy
    by_cases hz : z.owner = n
    · rw [if_pos hz]
    · rw [if_neg hz] at hown
      exact absurd hown hz

/-! ## The reply to a session -/

/-- What an open session keeps of a reply: the RSP of a command that came as a REQ is its newest packet (R368, R372). -/
def KeepsReply (x y : Session) (p : Packet) (r : Reply) : Prop :=
  y.port = x.port ∧ y.iface = x.iface ∧ y.held = x.held
    ∧ ∀ psn, p.reqPsn = some psn → ∃ k, y.kept.getLast? = some k ∧ k.isReq = false ∧ k.sent = false ∧ k.reqPsn = psn
      ∧ k.status = .ok ∧ k.payload = replyBytes r

theorem not_closed (h : sessGet s n = some x) : x.closed = false := by
  simpa using (Option.filter_eq_some_iff.mp h).2

/-- A session changed without being closed. -/
theorem sessGet_sessMap_same {f : Session → Session} (h : sessGet s n = some x) (hf : (f x).closed = x.closed) :
    sessGet (sessMap s n f) n = some (f x) := by
  rw [sessMap_some h, sessGet_sessSet_same, hf, if_neg (by simp [not_closed h])]

theorem keysRise_sessMap (h : keysRise s.sessions = true) (f : Session → Session) :
    keysRise (sessMap s n f).sessions = true := by
  unfold sessMap
  split
  · exact keysRise_sessSet h n _
  · exact h

/-- An open session keeps the RSP that it is to send (R368). -/
theorem sendRsp_open (h : sessGet s n = some x) (op : Byte) (psn : BitVec 32) (code : Code) (b : Bytes) :
    sendRsp s n op psn code b
      = keepPacket s n { psn := 0, isReq := false, op := op, status := code, reqPsn := psn
                         payload := if code = .ok then b else [] } := by
  have hfind := (Option.filter_eq_some_iff.mp h).1
  simp only [sendRsp, hfind, not_closed h, Bool.false_eq_true, if_false]

/-- The session once a reply has left: the flags that its DSW showed are cleared (R401). -/
def replySent (s : State) (n : Nat) (r : Reply) : State :=
  sessMap (emit s (.reply r)) n fun x => { x with slipSeen := false, holdSeen := false }

theorem sessGet_replySent (h : sessGet s n = some x) (r : Reply) :
    sessGet (replySent s n r) n = some { x with slipSeen := false, holdSeen := false } :=
  sessGet_sessMap_same (s := emit s (.reply r)) h rfl

/-- A reply to a session leaves, and the RSP of a command that came as a REQ is kept. -/
theorem sendReply_eq (hp : p.origin = .session n) (h : sessGet s n = some x) (code : Code) (result : Bytes) (ev : BitVec 32) :
    let r := makeReply s p op code result ev
    sendReply s p op code result ev
      = p.reqPsn.elim (replySent s n r) fun psn =>
          keepPacket (replySent s n r) n { psn := 0, isReq := false, op := 0x01, reqPsn := psn, payload := replyBytes r } := by
  intro r
  have hsent := sessGet_replySent h r
  have hrsp := fun psn => sendRsp_open hsent 0x01 psn .ok (replyBytes r)
  unfold sendReply
  simp only [hp, h, Option.isSome_some, if_true]
  cases p.reqPsn with
  | none => rfl
  | some psn => exact hrsp psn

/-- A reply to an open session is sent, and the session keeps it. -/
theorem sendReply_session (hp : p.origin = .session n) (h : sessGet s n = some x) (code : Code) (result : Bytes) (ev : BitVec 32) :
    ∃ y, sessGet (sendReply s p op code result ev) n = some y
      ∧ KeepsReply x y p (makeReply s p op code result ev) := by
  have hsent := sessGet_replySent h (makeReply s p op code result ev)
  rw [sendReply_eq hp h]
  cases hq : p.reqPsn with
  | none => exact ⟨_, hsent, rfl, rfl, rfl, fun psn hpsn => by rw [hq] at hpsn; cases hpsn⟩
  | some psn =>
    refine ⟨_, sessGet_sessMap_same hsent rfl, rfl, rfl, rfl, fun psn' hpsn => ?_⟩
    obtain rfl : psn = psn' := Option.some.inj (hq.symm.trans hpsn)
    exact ⟨_, List.getLast?_concat, rfl, rfl, rfl, rfl, rfl⟩

/-- A reply to a session leaves the others. -/
theorem sessGet_sendReply_other (hp : p.origin = .session n) (h : sessGet s n = some x) (hk : k ≠ n) (code : Code)
    (result : Bytes) (ev : BitVec 32) : sessGet (sendReply s p op code result ev) k = sessGet s k := by
  have hsent (r : Reply) : sessGet (replySent s n r) k = sessGet s k := sessGet_sessMap_other _ _ hk
  rw [sendReply_eq hp h]
  cases p.reqPsn with
  | none => exact hsent _
  | some psn => exact (sessGet_sessMap_other _ _ hk).trans (hsent _)

theorem keysRise_sendReply (hp : p.origin = .session n) (hs : keysRise s.sessions = true) (h : sessGet s n = some x)
    (code : Code) (result : Bytes) (ev : BitVec 32) : keysRise (sendReply s p op code result ev).sessions = true := by
  have hsent (r : Reply) : keysRise (replySent s n r).sessions = true := keysRise_sessMap (s := emit s (.reply r)) hs _
  rw [sendReply_eq hp h]
  cases p.reqPsn with
  | none => exact hsent _
  | some psn => exact keysRise_sessMap (hsent _) _

theorem sessGet_taken_other (hk : k ≠ n) : sessGet (taken s n p) k = sessGet s k := sessGet_sessMap_other _ _ hk

/-! ## SESSION_CLOSE -/

/-- An admitted SESSION_CLOSE of the own session replies, and then closes it (R381). -/
theorem exec_sessionClose (h : Admitted (.sessionClose p) s n x 0x02 p) (hself : field p.params 0 2 = 0xFFFF) :
    exec (.sessionClose p) s = .next (closeSession (sendReply (taken s n p) p 0x02 .ok [] 0xFFFFFFFF) n) := by
  have hopen : sessGet ({ s with out := [] } : State) n = some x := h.opened
  have hfree : heldOff (taken s n p) 0x02 = false := by
    rw [taken_frame h.opened]
    exact h.free
  have hown (u : State) : ownCommand 0x02 ⟨x.cls, some n⟩ p u = { code := .ok, st := u, close := some n } := by
    have hrow (w : Who) : ownCommand 0x02 w p u = cmdSessionClose w p u := rfl
    simp only [hrow, cmdSessionClose, hself, true_or, if_true]
  unfold taken at hfree
  rw [exec_eq_command h.command, command_admitted h.origin h.ready h.opened h.fits h.checks]
  simp only [answer, originSession, h.origin, hopen, hfree, Bool.false_eq_true, if_false, hown]
  rfl

/-- The newest packet that a session keeps is the last to leave when the session ends, if it is an RSP that has not left. -/
theorem getLast_owedRsps {k : Kept} (h : x.kept.getLast? = some k) (hreq : k.isReq = false) (hsent : k.sent = false) :
    (owedRsps s n x).getLast? = some (partingOf s n x k) := by
  obtain ⟨l, hl⟩ := List.getLast?_eq_some_iff.mp h
  rw [owedRsps, hl, List.filter_append, List.map_append]
  simp [hreq, hsent]

/-- Settles O7: the reply is among what the session keeps when it ends, so that it leaves after it. -/
theorem sessionCloseLeavesJobs : Obligations.SessionCloseLeavesJobs := by
  intro s n x p h hkeys hself hheld
  have hx' := sessGet_taken (p := p) h.opened
  have htaken := taken_frame (p := p) h.opened
  have hbooks := onlyBooks_sendReply (op := 0x02) h.origin hx' .ok [] 0xFFFFFFFF
  have hreplied := replied_sendReply (op := 0x02) h.origin hx' (by rw [htaken]) .ok []
  obtain ⟨y, hy, hyport, hyiface, -, hkept⟩ := sendReply_session (op := 0x02) h.origin hx' .ok [] 0xFFFFFFFF
  have hkeys' : keysRise (taken s n p).sessions = true := keysRise_sessMap (s := { s with out := [] }) hkeys _
  have hrise := keysRise_sendReply (op := 0x02) h.origin hkeys' hx' .ok [] 0xFFFFFFFF
  have hothers (k : Nat) (hk : k ≠ n) := sessGet_sendReply_other (op := 0x02) h.origin hx' hk .ok [] 0xFFFFFFFF
  have hsession : (makeReply (taken s n p) p 0x02 .ok [] 0xFFFFFFFF).session = p.session := by
    simp only [makeReply, originSession, h.origin, Option.isSome_some, if_true]
  generalize makeReply (taken s n p) p 0x02 .ok [] 0xFFFFFFFF = r at *
  rw [exec_sessionClose h hself]
  generalize sendReply (taken s n p) p 0x02 .ok [] 0xFFFFFFFF = u at *
  have hu : u = { s with out := [.reply r], sessions := u.sessions } := by
    rw [hbooks.frame, htaken]
    rfl
  obtain ⟨hparting, hstreams⟩ := closeSession_open hy
  have hclosed := closeStreams_streams u n
  rw [← hstreams] at hclosed
  have hframe := closeSession_frame u n
  refine ⟨_, rfl, ?_, sessGet_closeSession_same hrise n, ?_, fun psn hpsn => ?_, fun k hk => ?_, ?_, hclosed.2, ?_⟩
  · obtain ⟨r', hout, hrest⟩ := hreplied
    exact ⟨r', by rw [hframe]; exact hout, hrest⟩
  · rw [hframe, hu]
  · obtain ⟨k, hk, hreq, hsent, hkpsn, hcode, hpayload⟩ := hkept psn hpsn
    refine ⟨partingOf u n y k, r, ?_, hyport, hyiface, rfl, rfl, hkpsn, ?_, ?_, hpayload, hsession⟩
    · rw [hparting, List.getLast?_append, getLast_owedRsps hk hreq hsent]
      rfl
    · exact congrArg (fun c => (codeByte c)) hcode
    · rw [hframe, hu]
  · rw [sessGet_closeSession_other hk, hothers k hk, sessGet_taken_other hk]
  · rw [hclosed.1, hu]
  · rw [hframe, hu]

end Sys2Proof.Machine

/-! Register writes of several words (R453): all of them are stored before any has a further effect. -/

namespace Sys2Proof.Machine

open Sys2Proof Sys2Proof.Terms

variable {s t : State} {b off : Nat} {w : Word} {ws : List Word} {x : Session} {cls : Cls} {r : Nat → Reg}

/-! ## Storing the words -/

/-- The words of a write, stored one after another at the offsets of the indices of l. -/
def storeAll (off : Nat) (ws : List Word) (l : List Nat) (s : State) : State :=
  l.foldl (fun s i => storeWord s off ws (off + 4 * i) (ws.getD i 0)) s

/-- Their further effects; s is the state before the write. -/
def effectAll (s : State) (off : Nat) (ws : List Word) (l : List Nat) (t : State) : State :=
  l.foldl (fun t i => writeEffect t off ws (off + 4 * i) (regGet s (off + 4 * i)) (ws.getD i 0)) t

/-- The state after an admitted write. -/
def allWritten (s : State) (off : Nat) (ws : List Word) : State :=
  let idx := List.range ws.length
  let u := protGen s (effectAll s off ws idx (storeAll off ws idx s)) (idx.map (off + 4 * ·))
  if idx.any (fun i => decide (oOpalKey ≤ off + 4 * i ∧ off + 4 * i < oOpalOut)) then recomputeOpal u else u

/-- A write that nothing refuses. -/
theorem regWrite_all (hcls : cls = .owner) (hreg : ∀ i < ws.length, regAt (off + 4 * i) = some (r i))
    (hrule : ∀ i < ws.length, ownRule s off ws (off + 4 * i) (ws.getD i 0) = none) :
    regWrite s cls off ws = (.ok, allWritten s off ws) := by
  have himpl : (List.range ws.length).all (fun i => (regAt (off + 4 * i)).isSome) = true :=
    List.all_eq_true.mpr fun i hi => by rw [hreg i (List.mem_range.mp hi)]; rfl
  have hmay : (List.range ws.length).all (fun i => (regAt (off + 4 * i)).any fun r => mayWrite r.level .owner) = true :=
    List.all_eq_true.mpr fun i hi => by rw [hreg i (List.mem_range.mp hi)]; rfl
  have hnone : (List.range ws.length).find? (fun i => (ownRule s off ws (off + 4 * i) (ws.getD i 0)).isSome) = none :=
    List.find?_eq_none.mpr fun i hi => by rw [hrule i (List.mem_range.mp hi)]; exact Bool.false_ne_true
  subst hcls
  simp only [regWrite, himpl, hmay, hnone, Bool.not_true, Bool.false_eq_true, if_false, reduceCtorEq]
  rfl

/-- An OWNER session's write that nothing refuses. -/
theorem access_all (hready : isReady s = true) (hopen : sessGet s b = some x) (howner : x.cls = .owner)
    (hlen : 1 ≤ ws.length ∧ ws.length ≤ 64) (hreg : ∀ i < ws.length, regAt (off + 4 * i) = some (r i))
    (hrule : ∀ i < ws.length, ownRule s off ws (off + 4 * i) (ws.getD i 0) = none) :
    registerAccess b off ws s = .next (emit (allWritten { s with out := [] } off ws) (.status .ok)) :=
  registerAccess_answers hready hopen hlen (regWrite_all howner hreg hrule)

/-- What word i of a write leaves in a register that held v. -/
def stored (off : Nat) (ws : List Word) (r : Nat → Reg) (i : Nat) (v : Word) : Word :=
  heldBack (off + 4 * i) v (writeWord (r i) v (ws.getD i 0))

/-- Words that change at once, one after another. -/
def putAll (off : Nat) (f : Nat → Word → Word) (l : List Nat) (s : State) : State :=
  l.foldl (fun s i => putWord s (off + 4 * i) (f i (regGet s (off + 4 * i)))) s

theorem storeAll_now {l : List Nat} (hreg : ∀ i ∈ l, regAt (off + 4 * i) = some (r i))
    (hpair : ∀ i ∈ l, pairWhole off ws (off + 4 * i) = true) (hnow : ∀ i ∈ l, atBoundary (off + 4 * i) = false) :
    storeAll off ws l s = putAll off (stored off ws r) l s := by
  unfold storeAll putAll
  induction l generalizing s with
  | nil => rfl
  | cons i l ih =>
    rw [List.forall_mem_cons] at hreg hpair hnow
    rw [List.foldl_cons, List.foldl_cons, storeWord_now hreg.1 hpair.1 hnow.1, ih hreg.2 hpair.2 hnow.2]
    rfl

theorem putAll_frame (off : Nat) (f : Nat → Word → Word) (l : List Nat) (s : State) :
    putAll off f l s = { s with regs := (putAll off f l s).regs, votes := (putAll off f l s).votes } := by
  unfold putAll
  induction l generalizing s with
  | nil => rfl
  | cons i l ih => exact (ih _).trans rfl

theorem regGet_putAll_other {f : Nat → Word → Word} {l : List Nat} {a : Nat} (h : ∀ i ∈ l, a ≠ off + 4 * i) :
    regGet (putAll off f l s) a = regGet s a := by
  unfold putAll
  induction l generalizing s with
  | nil => rfl
  | cons i l ih =>
    rw [List.forall_mem_cons] at h
    rw [List.foldl_cons, ih h.2]
    exact regsBut_putWord s _ _ a (by simpa using h.1)

theorem swf_putWord (hs : swf resetWord s.regs = true) (off : Nat) (v : Word) :
    swf resetWord (putWord s off v).regs = true := swf_regSet hs off v

theorem swf_putAll (hs : swf resetWord s.regs = true) (off : Nat) (f : Nat → Word → Word) (l : List Nat) :
    swf resetWord (putAll off f l s).regs = true := by
  unfold putAll
  induction l generalizing s with
  | nil => exact hs
  | cons i l ih => exact ih (swf_putWord hs _ _)

theorem regGet_putAll_same {f : Nat → Word → Word} {l : List Nat} {i : Nat} (hs : swf resetWord s.regs = true) (hl : l.Nodup)
    (hi : i ∈ l) : regGet (putAll off f l s) (off + 4 * i) = f i (regGet s (off + 4 * i)) := by
  unfold putAll
  induction l generalizing s with
  | nil => cases hi
  | cons j l ih =>
    obtain ⟨hj, hl⟩ := List.nodup_cons.mp hl
    rw [List.foldl_cons]
    obtain rfl | hi := List.mem_cons.mp hi
    · have hrest := regGet_putAll_other (s := putWord s (off + 4 * i) (f i (regGet s (off + 4 * i)))) (f := f) (l := l)
        (off := off) (a := off + 4 * i) fun k hk he => hj (by rwa [show i = k by omega])
      exact hrest.trans (regGet_putWord_same hs _ _)
    · have hij : i ≠ j := fun he => hj (he ▸ hi)
      rw [ih (swf_putWord hs _ _) hl hi]
      exact congrArg (f i) (regsBut_putWord s _ _ _ (by simpa using hij))

/-! ## Blocks whose writes do nothing beyond storing -/

/-- The offsets of the security, KV and Opal blocks and of the time base but TB_CTRL. -/
def Storing (o : Nat) : Prop :=
  (0x010000 ≤ o ∧ o < 0x020000) ∨ (0x030004 ≤ o ∧ o < 0x040000) ∨ (0x060000 ≤ o ∧ o < 0x0A0000)

theorem atBoundary_storing {o : Nat} (h : Storing o) : atBoundary o = false := by
  simp only [atBoundary, oDigCtrl, Bool.or_eq_false_iff, beq_eq_false_iff_ne, Bool.and_eq_false_iff, decide_eq_false_iff_not]
  unfold Storing at h
  exact ⟨by omega, .inl (by omega)⟩

theorem heldBack_storing {o : Nat} (h : Storing o) (old new : Word) : heldBack o old new = new := by
  unfold Storing at h
  unfold heldBack oMirror
  rw [if_neg (by omega), if_neg (by omega), if_neg (by omega), if_neg (by omega)]

theorem writeEffect_storing {o : Nat} (h : Storing o) (old : Word) : writeEffect s off ws o old w = s := by
  unfold Storing at h
  unfold writeEffect oPwrCtrl oTbCtrl oEth oVidFence oMirror
  rw [if_neg (by omega), if_neg (by omega), if_neg (by omega), if_neg (by omega), if_neg (by omega), if_neg (by omega),
    if_neg (by omega), if_neg (by omega), if_neg (by omega)]

theorem effectAll_storing {l : List Nat} (h : ∀ i ∈ l, Storing (off + 4 * i)) : effectAll s off ws l t = t := by
  unfold effectAll
  induction l generalizing t with
  | nil => rfl
  | cons i l ih =>
    rw [List.forall_mem_cons] at h
    rw [List.foldl_cons, writeEffect_storing h.1, ih h.2]

/-- A write in those blocks stores its words. -/
theorem effectAll_storeAll (h : ∀ i < ws.length, Storing (off + 4 * i))
    (hreg : ∀ i < ws.length, regAt (off + 4 * i) = some (r i)) (hpair : ∀ i < ws.length, pairWhole off ws (off + 4 * i) = true) :
    effectAll s off ws (List.range ws.length) (storeAll off ws (List.range ws.length) s)
      = putAll off (fun i v => writeWord (r i) v (ws.getD i 0)) (List.range ws.length) s := by
  rw [effectAll_storing fun i hi => h i (List.mem_range.mp hi),
    storeAll_now (r := r) (fun i hi => hreg i (List.mem_range.mp hi)) (fun i hi => hpair i (List.mem_range.mp hi))
      fun i hi => atBoundary_storing (h i (List.mem_range.mp hi))]
  unfold putAll
  refine List.foldl_ext _ _ _ fun u i hi => ?_
  rw [stored, heldBack_storing (h i (List.mem_range.mp hi))]

/-- In those blocks only the protection map and the pools have rules of their own. -/
theorem ownRule_storing {o : Nat} (h : Storing o) (h' : ¬(0x011000 ≤ o ∧ o < 0x013000 ∨ 0x080100 ≤ o ∧ o < 0x080180)) :
    ownRule s off ws o w = none := by
  unfold Storing at h
  unfold ownRule oPwrCtrl oTbCtrl oEth oVidFence oMirror
  rw [if_neg (by omega), if_neg (by omega), if_neg (by omega), if_neg (by omega), if_neg (by omega), if_neg (by omega),
    if_neg (by omega), if_neg (by omega), if_neg (by omega), if_neg (by omega), if_neg (by omega)]

/-- No word of the protection map was written. -/
theorem protGen_outside {l : List Nat} (h : ∀ o ∈ l, inProtMap o = false) : protGen s t l = t := by
  rw [protGen, if_neg]
  rw [Bool.not_eq_true, List.any_eq_false]
  intro o ho
  simp [h o ho]

section

variable (h : ∀ i < ws.length, Storing (off + 4 * i)) (hreg : ∀ i < ws.length, regAt (off + 4 * i) = some (r i))
  (hpair : ∀ i < ws.length, pairWhole off ws (off + 4 * i) = true) (hprot : ∀ i < ws.length, inProtMap (off + 4 * i) = false)

include h hreg hpair hprot

theorem protGen_storing : protGen s (effectAll s off ws (List.range ws.length) (storeAll off ws (List.range ws.length) s))
    ((List.range ws.length).map (off + 4 * ·)) = putAll off (fun i v => writeWord (r i) v (ws.getD i 0)) (List.range ws.length) s := by
  rw [effectAll_storeAll h hreg hpair, protGen_outside]
  intro o ho
  obtain ⟨i, hi, rfl⟩ := List.mem_map.mp ho
  exact hprot i (List.mem_range.mp hi)

/-- A write in those blocks, outside the protection map and the Opal block, stores its words. -/
theorem allWritten_stores (hopal : ∀ i < ws.length, ¬(oOpalKey ≤ off + 4 * i ∧ off + 4 * i < oOpalOut)) :
    allWritten s off ws = putAll off (fun i v => writeWord (r i) v (ws.getD i 0)) (List.range ws.length) s := by
  refine (if_neg ?_).trans (protGen_storing h hreg hpair hprot)
  rw [Bool.not_eq_true, List.any_eq_false]
  exact fun i hi => by simpa using hopal i (List.mem_range.mp hi)

/-- One of words of the Opal block draws anew. -/
theorem allWritten_draws (hopal : ∃ i < ws.length, oOpalKey ≤ off + 4 * i ∧ off + 4 * i < oOpalOut) :
    allWritten s off ws
      = recomputeOpal (putAll off (fun i v => writeWord (r i) v (ws.getD i 0)) (List.range ws.length) s) := by
  obtain ⟨i, hi, hi'⟩ := hopal
  refine (if_pos ?_).trans (congrArg recomputeOpal (protGen_storing h hreg hpair hprot))
  exact List.any_eq_true.mpr ⟨i, List.mem_range.mpr hi, decide_eq_true hi'⟩

end

/-- A word that is one field. -/
theorem writeWord_whole (level : Level) (old w : Word) : writeWord ⟨level, [rw' 31 0]⟩ old w = w := by
  have h := getF_writeWord (r := ⟨level, [rw' 31 0]⟩) (w := w) (f := rw' 31 0) (List.mem_singleton_self _) rfl (by decide) (by decide)
    (fun g hg => .inl (List.mem_singleton.mp hg)) old
  have hall (v : Word) : getF v 31 0 = v.toNat := by
    rw [getF, Nat.shiftRight_zero]
    exact Nat.mod_eq_of_lt v.isLt
  change getF _ 31 0 = getF _ 31 0 at h
  rw [hall, hall] at h
  exact BitVec.eq_of_toNat_eq h

end Sys2Proof.Machine

/-! Writes of the time base, the Opal block and the Ethernet ports (R217, R287, R312, R331, R338, R343). -/

namespace Sys2Proof.Machine

open Sys2Proof Sys2Proof.Terms

variable {s t : State} {b off n k : Nat} {w : Word} {ws : List Word} {x y : Session}

/-! ## TB_CTRL -/

/-- The fields of TB_CTRL. -/
def tbCtrl : Reg := grd [rwv 15 8, rwv 4 4, rwv 3 3, rwv 1 0]

theorem regAt_tbCtrl : regAt oTbCtrl = some tbCtrl := rfl

theorem source_tbWord (old : Word) : getF (writeWord tbCtrl old w) 1 0 = getF w 1 0 :=
  getF_writeWord (f := rwv 1 0) (by decide) rfl (by decide) (by decide) (by decide) old

/-- The time base once a new SOURCE is written (R287). -/
def sourceChanged (s : State) (w : Word) : State :=
  let s := setTime { s with disc := { s.disc with ppsHigh := s.disc.ppsHigh && getF w 4 4 == 1 } } .free
  { s with disc := { s.disc with good := 0, bad := 0, master := none, masters := [], sync := none, delay := none
                                 delayReq := none, edgeAt := none, secUsed := false, stuck := false } }

theorem oneWrite_tbCtrl (h : getF w 1 0 ≠ getF (regGet s oTbCtrl) 1 0) :
    oneWrite s oTbCtrl w = sourceChanged (putWord s oTbCtrl (writeWord tbCtrl (regGet s oTbCtrl) w)) w := by
  rw [oneWrite, if_neg (by decide), protGen_outside (by decide), storeWord_now regAt_tbCtrl rfl rfl, writeEffect,
    if_neg (by decide), if_pos rfl]
  exact if_neg h

/-- A new source enters FREE, without a master. -/
theorem sourceChanged_spec (s : State) (w : Word) :
    (sourceChanged s w).disc.state = .free ∧ (sourceChanged s w).disc.master = none
      ∧ (sourceChanged s w).clock.dt = s.clock.dt ∧ (sourceChanged s w).out = s.out
      ∧ ∀ a, regGet (sourceChanged s w) a = regGet s a := by
  unfold sourceChanged
  refine ⟨setTime_state _ _, rfl, setTime_dt _ _, ?_, fun a => regGet_setTime _ _ a⟩
  rw [setTime_frame]

/-! ## TB_SEC_SET -/

theorem regAt_tbSec : ∀ i < 2, regAt (oTbSecLo + 4 * i) = some (if i = 0 then grd [rw' 31 0] else grd [rw' 15 0]) := by
  intro i hi
  interval_cases i <;> rfl

/-! ## The Opal block -/

theorem regAt_opalInput : ∀ i < 8, regAt (oOpalKey + 4 * i) = some (opw [rw' 31 0]) := by
  intro i hi
  interval_cases i <;> rfl

/-! ## ETH_SAK -/

/-- Words of a write at their own offsets. -/
theorem newWord_self {i : Nat} : newWord off ws (off + 4 * i) = ws[i]? := by
  have h : (off + 4 * i - off) / 4 = i := by omega
  rw [newWord, if_pos (by omega), h]

theorem coversAll_self (h : n ≤ ws.length) : coversAll off ws off n = true := by
  refine List.all_eq_true.mpr fun i hi => ?_
  rw [newWord_self, List.getElem?_eq_getElem (Nat.lt_of_lt_of_le (List.mem_range.mp hi) h)]
  rfl

theorem newWords_self (h : ws.length = n) : ((List.range n).map fun i => (newWord off ws (off + 4 * i)).getD 0) = ws := by
  refine List.ext_getElem (by simp [h]) fun i hi hi' => ?_
  rw [List.getElem_map, List.getElem_range, newWord_self, List.getElem?_eq_getElem hi', Option.getD_some]

/-- The key that a SAK_INSTALL of twelve words installs. -/
def installedSak (port iface : Nat) (ws : List Word) : Sak :=
  { port := port, iface := iface, an := BitVec.ofNat 2 (getF (ws.getD 11 0) 1 0)
    ssci := BitVec.ofNat 16 (getF (ws.getD 11 0) 31 16), key := ws.take 8, salt := (ws.drop 8).take 3 }

theorem installSak_saks (s : State) (port iface : Nat) (ws : List Word) :
    installedSak port iface ws ∈ (installSak s port iface ws).saks
      ∧ ∀ y ∈ (installSak s port iface ws).saks, y.port = port → y.iface = iface → y.an = (installedSak port iface ws).an →
        y = installedSak port iface ws := by
  refine ⟨List.mem_append_right _ (List.mem_singleton_self _), fun y hy hport hiface han => ?_⟩
  obtain hold | hnew := List.mem_append.mp hy
  · exact absurd (List.mem_filter.mp hold).2 (by simp [hport, hiface, han, installedSak])
  · exact List.mem_singleton.mp hnew

/-! ## The sessions of a port that trains anew -/

/-- Sessions that fail are gone, and the others stay (R350). -/
structure Failed (s t : State) (gone : List Nat) : Prop where
  keys  : keysRise t.sessions = true
  ended : ∀ k ∈ gone, sessGet t k = none
  stay  : ∀ k ∉ gone, sessGet t k = sessGet s k
  regs  : RegsBut s t [oUtxFails]
  ports : t.ports = s.ports
  out   : t.out = s.out

theorem failed_failSession (h : keysRise s.sessions = true) (n : Nat) : Failed s (failSession s n) [n] := by
  unfold failSession
  split
  · next hnone =>
    exact ⟨h, fun k hk => by rwa [List.mem_singleton.mp hk], fun _ _ => rfl, fun _ _ => rfl, rfl, rfl⟩
  · have hframe := closeSession_frame (regCount (logEvent s 0x0501 (unitOf 8 n) none []) oUtxFails 15 0 1) n
    have h : keysRise (regCount (logEvent s 0x0501 (unitOf 8 n) none []) oUtxFails 15 0 1).sessions = true := h
    refine ⟨keysRise_closeSession h n, fun k hk => ?_, fun k hk => ?_, fun a ha => ?_, ?_, ?_⟩
    · rw [List.mem_singleton.mp hk]
      exact sessGet_closeSession_same h n
    · exact sessGet_closeSession_other (by simpa using hk)
    · rw [hframe]
      exact regGet_regSet_other _ _ (by simpa using ha)
    · rw [hframe]
      rfl
    · rw [hframe]
      rfl

theorem failed_foldl (h : keysRise s.sessions = true) (l : List Nat) : Failed s (l.foldl failSession s) l := by
  induction l generalizing s with
  | nil => exact ⟨h, by simp, fun _ _ => rfl, fun _ _ => rfl, rfl, rfl⟩
  | cons n l ih =>
    have hone := failed_failSession h n
    have hrest := ih hone.keys
    refine ⟨hrest.keys, fun k hk => ?_, fun k hk => ?_, fun a ha => ?_, hrest.ports.trans hone.ports, hrest.out.trans hone.out⟩
    · by_cases hkl : k ∈ l
      · exact hrest.ended k hkl
      · exact (hrest.stay k hkl).trans (hone.ended k (by simpa [hkl] using hk))
    · rw [List.mem_cons, not_or] at hk
      exact (hrest.stay k hk.2).trans (hone.stay k (by simpa using hk.1))
    · exact (hrest.regs a ha).trans (hone.regs a ha)

/-- A port that trains anew (R331): its interfaces are down, and the sessions of those that it has lost are gone. -/
theorem retrainPort_spec {port active : Nat} (hs : swf resetWord s.regs = true) (h : keysRise s.sessions = true)
    (hport : oEth port + 8 ≠ oUtxFails) :
    ((retrainPort s port active).ports.filter fun f => f.port == port).length = interfacesOf active
      ∧ (∀ i, ifaceUp (retrainPort s port active) port i = false)
      ∧ (∀ k y, sessGet (retrainPort s port active) k = some y → y.port = port → y.iface < interfacesOf active)
      ∧ RegsBut s (retrainPort s port active) [oEth port + 8, oUtxFails] ∧ (retrainPort s port active).out = s.out := by
  unfold retrainPort
  dsimp only
  generalize hu : ({ regSetF (regSetF s (oEth port + 8) 5 4 active) (oEth port + 8) 3 0 0 with
    ports := _ } : State) = u
  generalize hgone : List.filterMap _ _ = gone
  have hfail : Failed u (gone.foldl failSession u) gone := failed_foldl (by rw [← hu]; exact h) gone
  have hmode : regF u (oEth port + 8) 3 0 = 0 := by
    rw [← hu]
    exact regF_regSetF_same (swf_regSet hs _ _) _ 0 (by decide) (by decide)
  refine ⟨?_, fun i => ?_, fun k y hy hyport => ?_, fun a ha => ?_, hfail.out.trans (by rw [← hu]; rfl)⟩
  · rw [hfail.ports, ← hu]
    dsimp only
    rw [List.filter_append, List.filter_filter, List.filter_map]
    simp [Function.comp_def]
  · have hreg := hfail.regs (oEth port + 8) (by simpa using hport)
    change (getF (regGet (gone.foldl failSession u) (oEth port + 8)) 3 0).testBit i = false
    rw [hreg]
    exact (congrArg (Nat.testBit · i) hmode).trans (Nat.zero_testBit i)
  · have hstay : k ∉ gone := fun hk => by
      have := hfail.ended k hk
      rw [show sessGet (gone.foldl failSession u) k = some y from hy] at this
      cases this
    have hopen : sessGet u k = some y := (hfail.stay k hstay).symm.trans hy
    by_contra hhigh
    have hopen' := not_closed hopen
    apply hstay
    rw [← hgone, List.mem_filterMap]
    refine ⟨(k, y), ?_, by simp [hyport, hopen', Nat.not_lt.mp hhigh]⟩
    have hmem := mem_of_sfind (Option.filter_eq_some_iff.mp hopen).1
    rwa [← hu] at hmem
  · simp only [List.mem_cons, List.not_mem_nil, or_false, not_or] at ha
    refine (hfail.regs a (by simpa using ha.2)).trans ?_
    rw [← hu]
    exact (regGet_regSet_other _ _ ha.1).trans (regGet_regSet_other _ _ ha.1)

/-! ## ETH_CTRL -/

/-- The fields of ETH_CTRL. -/
def ethCtrl : Reg := grd [rwv 31 24, rwv 15 2 9216, rwv 1 0]

theorem regAt_ethCtrl {port : Nat} (hp : port < 2) : regAt (oEth port) = some ethCtrl := by
  interval_cases port <;> rfl

theorem mode_ethWord (old : Word) : getF (writeWord ethCtrl old w) 1 0 = getF w 1 0 :=
  getF_writeWord (f := rwv 1 0) (by decide) rfl (by decide) (by decide) (by decide) old

theorem maxFrame_ethWord (old : Word) : getF (writeWord ethCtrl old w) 15 2 = getF w 15 2 :=
  getF_writeWord (f := rwv 15 2 9216) (by decide) rfl (by decide) (by decide) (by decide) old

/-- The frame size that a written field gives (R343). -/
def frameLimit (m : Nat) : Nat := if 1518 ≤ m ∧ m ≤ 9216 then m else 9216

theorem ownRule_ethCtrl {port : Nat} (hp : port < 2) (hmode : getF w 1 0 ≠ 3)
    (hseg : largestSegment s port = 0 ∨ largestSegment s port + 130 ≤ frameLimit (getF w 15 2)) :
    ownRule s (oEth port) [w] (oEth port) w = none := by
  have hfits : ¬(frameLimit (getF w 15 2) < largestSegment s port + 130 ∧ largestSegment s port ≠ 0) := by omega
  unfold frameLimit at hfits
  interval_cases port
  · rw [ownRule, if_neg (by decide), if_neg (by decide), if_neg (by decide), if_pos (by decide)]
    exact (if_neg hmode).trans (if_neg hfits)
  · rw [ownRule, if_neg (by decide), if_neg (by decide), if_neg (by decide), if_pos (by decide)]
    exact (if_neg hmode).trans (if_neg hfits)

/-- A write of ETH_CTRL stores its fields; a new mode makes the port train anew, and so does any write in fallback (R331). -/
theorem oneWrite_ethCtrl {port : Nat} (hp : port < 2) :
    oneWrite s (oEth port) w
      = if getF w 1 0 ≠ regF s (oEth port) 1 0 ∨ regF s (oEth port + 8) 5 4 = 3 then
          retrainPort (putWord s (oEth port) (writeWord ethCtrl (regGet s (oEth port)) w)) port (getF w 1 0)
        else putWord s (oEth port) (writeWord ethCtrl (regGet s (oEth port)) w) := by
  have hstatus : regF (putWord s (oEth port) (writeWord ethCtrl (regGet s (oEth port)) w)) (oEth port + 8) 5 4
      = regF s (oEth port + 8) 5 4 := regF_regSet_other s _ 5 4 (by omega)
  have hreg := regAt_ethCtrl hp
  rw [← hstatus]
  interval_cases port
  · rw [oneWrite, if_neg (by decide), protGen_outside (by decide), storeWord_now hreg rfl rfl, writeEffect, if_neg (by decide),
      if_neg (by decide), if_pos (by decide)]
    rfl
  · rw [oneWrite, if_neg (by decide), protGen_outside (by decide), storeWord_now hreg rfl rfl, writeEffect, if_neg (by decide),
      if_neg (by decide), if_pos (by decide)]
    rfl

/-- An OWNER session's write of ETH_CTRL. -/
theorem access_ethCtrl {port : Nat} (hp : port < 2) (hready : isReady s = true) (hopen : sessGet s b = some x)
    (howner : x.cls = .owner) (hmode : getF w 1 0 ≠ 3)
    (hseg : largestSegment s port = 0 ∨ largestSegment s port + 130 ≤ frameLimit (getF w 15 2)) :
    blockAccess b port 2 (oEth port) [w] s = .next (emit (oneWrite { s with out := [] } (oEth port) w) (.status .ok)) := by
  rw [blockAccess, if_pos hp]
  exact access_one hready hopen howner (regAt_ethCtrl hp) (ownRule_ethCtrl hp hmode hseg)

/-- A new MODE (R331). -/
theorem exec_modeWrite {port : Nat} {m : BitVec 2} (hs : Canonical s) (hready : isReady s = true) (hopen : sessGet s b = some x)
    (howner : x.cls = .owner) (hp : port < 2) (hm : m ≠ 3) (hnew : m.toNat ≠ regF s (oEth port) 1 0)
    (hseg : largestSegment s port = 0 ∨ largestSegment s port + 130 ≤ maxFrame s port) :
    ∃ t, exec (.modeWrite b port m) s = .next t ∧ Status t .ok ∧ regF t (oEth port) 1 0 = m.toNat
      ∧ (t.ports.filter fun f => f.port == port).length = interfacesOf m.toNat ∧ (∀ i, ifaceUp t port i = false)
      ∧ ∀ k y, sessGet t k = some y → y.port = port → y.iface < interfacesOf m.toNat := by
  have hmode : getF (setF (regGet s (oEth port)) 1 0 m.toNat) 1 0 = m.toNat :=
    (getF_setF_same _ _ (by decide) (by decide)).trans (Nat.mod_eq_of_lt m.isLt)
  have hm3 : m.toNat ≠ 3 := fun h => hm (BitVec.eq_of_toNat_eq h)
  have hframe : frameLimit (getF (setF (regGet s (oEth port)) 1 0 m.toNat) 15 2) = maxFrame s port := by
    rw [getF_setF_other _ _ (by decide) (by decide)]
    rfl
  have hexec := access_ethCtrl (w := setF (regGet s (oEth port)) 1 0 m.toNat) hp hready hopen howner (by rwa [hmode])
    (by rwa [hframe])
  have hwrite := oneWrite_ethCtrl (s := { s with out := [] }) (w := setF (regGet s (oEth port)) 1 0 m.toNat) hp
  rw [hmode, if_pos (.inl hnew)] at hwrite
  rw [hwrite] at hexec
  have hregs : swf resetWord ({ s with out := [] } : State).regs = true := hs.regs
  obtain ⟨hifaces, hdown, hsess, hbut, hout⟩ := retrainPort_spec (port := port) (active := m.toNat)
    (s := putWord { s with out := [] } (oEth port) (writeWord ethCtrl (regGet s (oEth port))
      (setF (regGet s (oEth port)) 1 0 m.toNat))) (swf_putWord hregs _ _) hs.sessions (by unfold oEth oUtxFails; omega)
  have hnot : oEth port ∉ [oEth port + 8, oUtxFails] := by
    unfold oEth oUtxFails
    simp
    omega
  refine ⟨_, hexec, congrArg (· ++ [_]) hout, ?_, hifaces, hdown, hsess⟩
  refine (congrArg (getF · 1 0) (hbut _ hnot)).trans ?_
  exact (regF_putWord hregs _ _ 1 0).trans ((mode_ethWord _).trans hmode)

/-- A new MAX_FRAME of a port that is not in fallback (R343). -/
theorem exec_maxFrameWrite {port : Nat} {m : BitVec 14} (hs : Canonical s) (hready : isReady s = true)
    (hopen : sessGet s b = some x) (howner : x.cls = .owner) (hp : port < 2) (hmode : regF s (oEth port) 1 0 ≠ 3)
    (hstatus : regF s (oEth port + 8) 5 4 ≠ 3)
    (hseg : largestSegment s port = 0 ∨ largestSegment s port + 130 ≤ frameLimit m.toNat) :
    ∃ t, exec (.maxFrameWrite b port m) s = .next t ∧ Status t .ok ∧ regF t (oEth port) 15 2 = m.toNat
      ∧ regF t (oEth port) 1 0 = regF s (oEth port) 1 0 ∧ RegsBut s t [oEth port]
      ∧ t = { s with out := t.out, regs := t.regs, votes := t.votes } := by
  have hmax : getF (setF (regGet s (oEth port)) 15 2 m.toNat) 15 2 = m.toNat :=
    (getF_setF_same _ _ (by decide) (by decide)).trans (Nat.mod_eq_of_lt m.isLt)
  have hsame : getF (setF (regGet s (oEth port)) 15 2 m.toNat) 1 0 = regF s (oEth port) 1 0 :=
    getF_setF_other _ _ (by decide) (by decide)
  have hexec := access_ethCtrl (w := setF (regGet s (oEth port)) 15 2 m.toNat) hp hready hopen howner (by rwa [hsame])
    (by rwa [hmax])
  have hwrite := (oneWrite_ethCtrl (s := { s with out := [] }) (w := setF (regGet s (oEth port)) 15 2 m.toNat) hp).trans
    (if_neg (not_or.mpr ⟨fun h => h hsame, hstatus⟩))
  rw [hwrite] at hexec
  have hregs : swf resetWord ({ s with out := [] } : State).regs = true := hs.regs
  refine ⟨_, hexec, rfl, ?_, ?_, regsBut_putWord { s with out := [] } _ _, rfl⟩
  · exact (regF_putWord hregs _ _ 15 2).trans ((maxFrame_ethWord _).trans hmax)
  · exact (regF_putWord hregs _ _ 1 0).trans ((mode_ethWord _).trans hsame)

/-! ## The rows -/

/-- A new SOURCE (R287). -/
theorem exec_sourceWrite {src : BitVec 2} (hs : Canonical s) (hready : isReady s = true) (hopen : sessGet s b = some x)
    (howner : x.cls = .owner) (h3 : src ≠ 3) (hgroup : (joined s).isSome = false) (hnew : src.toNat ≠ regF s oTbCtrl 1 0) :
    ∃ t, exec (.sourceWrite b src) s = .next t ∧ Status t .ok ∧ regF t oTbCtrl 1 0 = src.toNat
      ∧ t.disc.state = .free ∧ t.disc.master = none ∧ t.clock.dt = s.clock.dt ∧ RegsBut s t [oTbCtrl] := by
  have hsrc : getF (setF (regGet s oTbCtrl) 1 0 src.toNat) 1 0 = src.toNat :=
    (getF_setF_same _ _ (by decide) (by decide)).trans (Nat.mod_eq_of_lt src.isLt)
  have hmember : (member s).isSome = false := by
    cases hg : s.group with
    | none => simp [member, hg]
    | some g =>
      have hleft : g.left = true := by simpa [joined, hg, Option.filter] using hgroup
      simp [member, hg, Option.filter, hleft]
  have hsrc3 : src.toNat ≠ 3 := fun h => h3 (BitVec.eq_of_toNat_eq h)
  have hrule : ownRule s oTbCtrl [setF (regGet s oTbCtrl) 1 0 src.toNat] oTbCtrl (setF (regGet s oTbCtrl) 1 0 src.toNat) = none := by
    rw [ownRule, if_neg (by decide), if_neg (by decide), if_pos rfl, hsrc, if_neg hsrc3, hmember, if_neg (by simp)]
  have hwrite := oneWrite_tbCtrl (s := { s with out := [] }) (w := setF (regGet s oTbCtrl) 1 0 src.toNat) (by rwa [hsrc])
  have hexec := access_one hready hopen howner regAt_tbCtrl hrule
  rw [hwrite] at hexec
  generalize hu : putWord _ oTbCtrl _ = u at hexec
  obtain ⟨hfree, hmaster, hdt, hout, hget⟩ := sourceChanged_spec u (setF (regGet s oTbCtrl) 1 0 src.toNat)
  have hregs : swf resetWord ({ s with out := [] } : State).regs = true := hs.regs
  have hsource : regF u oTbCtrl 1 0 = src.toNat := by
    rw [← hu, regF_putWord hregs, source_tbWord, hsrc]
  have hbut : RegsBut s u [oTbCtrl] := by
    rw [← hu]
    exact regsBut_putWord { s with out := [] } _ _
  refine ⟨_, hexec, ?_, (congrArg (getF · 1 0) (hget oTbCtrl)).trans hsource, hfree, hmaster, ?_,
    fun a ha => (hget a).trans (hbut a ha)⟩
  · have hu' : u.out = [] := by rw [← hu]; rfl
    exact congrArg (· ++ [_]) (hout.trans hu')
  · exact hdt.trans (by rw [← hu]; rfl)

/-- TB_SEC_SET as a pair (R312). -/
theorem exec_secSetWrite {lo hi : Word} (hs : Canonical s) (hready : isReady s = true) (hopen : sessGet s b = some x)
    (howner : x.cls = .owner) :
    ∃ t, exec (.secSetWrite b lo hi) s = .next t ∧ Status t .ok ∧ regGet t oTbSecLo = lo
      ∧ regF t oTbSecHi 15 0 = getF hi 15 0 ∧ RegsBut s t [oTbSecLo, oTbSecHi]
      ∧ t = { s with out := t.out, regs := t.regs, votes := t.votes } := by
  have hblock : ∀ i < 2, Storing (oTbSecLo + 4 * i) := fun i hi => .inr (.inl (by unfold oTbSecLo; omega))
  have hexec := access_all hready hopen howner (ws := [lo, hi]) ⟨by simp, by simp⟩ regAt_tbSec fun i hi =>
    ownRule_storing (hblock i hi) (by have : i < 2 := hi; unfold oTbSecLo; omega)
  have hpair : ∀ i < 2, pairWhole oTbSecLo [lo, hi] (oTbSecLo + 4 * i) = true := by
    intro i hi
    interval_cases i <;> rfl
  have hwrite := allWritten_stores (s := { s with out := [] }) (ws := [lo, hi]) hblock regAt_tbSec hpair
    (fun i hi => by have : i < 2 := hi; interval_cases i <;> rfl)
    (fun i hi => by have : i < 2 := hi; unfold oTbSecLo oOpalKey; omega)
  rw [hwrite] at hexec
  have hregs : swf resetWord ({ s with out := [] } : State).regs = true := hs.regs
  have hget := fun i => regGet_putAll_same (s := { s with out := [] }) (off := oTbSecLo)
    (f := fun i v => writeWord (if i = 0 then grd [rw' 31 0] else grd [rw' 15 0]) v ([lo, hi].getD i 0))
    (l := List.range 2) (i := i) hregs List.nodup_range
  refine ⟨_, hexec, ?_, ?_, ?_, ?_, ?_⟩
  · rw [putAll_frame]
    rfl
  · exact (hget 0 (by simp)).trans (writeWord_whole _ _ _)
  · refine (congrArg (getF · 15 0) (hget 1 (by simp))).trans ?_
    exact getF_writeWord (f := rw' 15 0) (by decide) rfl (by decide) (by decide) (by decide) _
  · intro a ha
    refine regGet_putAll_other (s := { s with out := [] }) fun i hi he => ha ?_
    have : i < 2 := List.mem_range.mp hi
    interval_cases i <;> simp [he, oTbSecLo, oTbSecHi]
  · rw [putAll_frame]
    rfl

/-- Four words in a row. -/
def setQuad (s : State) (o : Nat) (y : Quad) : State :=
  regSet (regSet (regSet (regSet s o y.w0) (o + 4) y.w1) (o + 8) y.w2) (o + 12) y.w3

theorem regGet_setQuad (hs : swf resetWord s.regs = true) (o : Nat) (y : Quad) :
    regGet (setQuad s o y) o = y.w0 ∧ regGet (setQuad s o y) (o + 4) = y.w1 ∧ regGet (setQuad s o y) (o + 8) = y.w2
      ∧ regGet (setQuad s o y) (o + 12) = y.w3 := by
  have h0 := swf_regSet hs o y.w0
  have h1 := swf_regSet h0 (o + 4) y.w1
  have h2 := swf_regSet h1 (o + 8) y.w2
  unfold setQuad
  refine ⟨?_, ?_, ?_, regGet_regSet_same h2 _ _⟩
  · simp (disch := omega) only [regGet_regSet_other, regGet_regSet_same hs]
  · simp (disch := omega) only [regGet_regSet_other, regGet_regSet_same h0]
  · simp (disch := omega) only [regGet_regSet_other, regGet_regSet_same h1]

theorem regGet_setQuad_other {a o : Nat} (y : Quad) (h : ∀ i < 4, a ≠ o + 4 * i) : regGet (setQuad s o y) a = regGet s a := by
  have h0 := h 0 (by decide)
  have h1 := h 1 (by decide)
  have h2 := h 2 (by decide)
  have h3 := h 3 (by decide)
  unfold setQuad
  simp (disch := omega) only [regGet_regSet_other]

/-- What the key and counter that the Opal block holds draw (R217). -/
def heldDraw (s : State) : Quad :=
  opalDraw
    ⟨regGet s (oOpalKey + 4 * 0), regGet s (oOpalKey + 4 * 1), regGet s (oOpalKey + 4 * 2), regGet s (oOpalKey + 4 * 3)⟩
    ⟨regGet s (oOpalKey + 4 * 4), regGet s (oOpalKey + 4 * 5), regGet s (oOpalKey + 4 * 6), regGet s (oOpalKey + 4 * 7)⟩

theorem recomputeOpal_eq (s : State) : recomputeOpal s = setQuad s oOpalOut (heldDraw s) := rfl

/-- A new key and counter (R217). -/
theorem exec_opalWrite {k0 k1 k2 k3 c0 c1 c2 c3 : Word} (hs : Canonical s) (hready : isReady s = true)
    (hopen : sessGet s b = some x) (howner : x.cls = .owner) :
    ∃ t, exec (.opalWrite b 0 [k0, k1, k2, k3, c0, c1, c2, c3]) s = .next t ∧ Status t .ok
      ∧ (let y := opalDraw ⟨k0, k1, k2, k3⟩ ⟨c0, c1, c2, c3⟩
         regGet t oOpalOut = y.w0 ∧ regGet t (oOpalOut + 4) = y.w1 ∧ regGet t (oOpalOut + 8) = y.w2
           ∧ regGet t (oOpalOut + 12) = y.w3)
      ∧ regGet t oOpalKey = k0 ∧ regGet t (oOpalKey + 16) = c0
      ∧ RegsBut s t ((List.range 12).map fun i => oOpalKey + 4 * i) := by
  generalize hws : [k0, k1, k2, k3, c0, c1, c2, c3] = ws
  have hlen : ws.length = 8 := by rw [← hws]; rfl
  have hblock : ∀ i < ws.length, Storing (oOpalKey + 4 * i) := fun i hi => .inr (.inr (by unfold oOpalKey; omega))
  have hreg : ∀ i < ws.length, regAt (oOpalKey + 4 * i) = some (opw [rw' 31 0]) := hlen ▸ regAt_opalInput
  have hexec := access_all hready hopen howner (ws := ws) (by omega) hreg fun i hi =>
    ownRule_storing (hblock i hi) (by unfold oOpalKey; omega)
  have hpair : ∀ i < ws.length, pairWhole oOpalKey ws (oOpalKey + 4 * i) = true := by
    intro i hi
    rw [pairWhole, if_neg]
    unfold oOpalKey oTbSecLo oTbSecHi
    omega
  have hprot : ∀ i < ws.length, inProtMap (oOpalKey + 4 * i) = false := by
    intro i hi
    simp only [inProtMap, Bool.or_eq_false_iff, beq_eq_false_iff_ne, decide_eq_false_iff_not]
    unfold oOpalKey oProtCtrl
    omega
  have hwrite := allWritten_draws (s := { s with out := [] }) hblock hreg hpair hprot
    ⟨0, by omega, by unfold oOpalKey; omega, by unfold oOpalKey oOpalOut; omega⟩
  rw [hwrite] at hexec
  have hregs : swf resetWord ({ s with out := [] } : State).regs = true := hs.regs
  have hget (i : Nat) (hi : i < 8) : regGet (putAll oOpalKey (fun i v => writeWord (opw [rw' 31 0]) v (ws.getD i 0))
      (List.range ws.length) { s with out := [] }) (oOpalKey + 4 * i) = ws.getD i 0 :=
    (regGet_putAll_same hregs List.nodup_range (List.mem_range.mpr (hlen ▸ hi))).trans (writeWord_whole _ _ _)
  have hother (a : Nat) (ha : ∀ i < 8, a ≠ oOpalKey + 4 * i) := regGet_putAll_other (s := { s with out := [] }) (off := oOpalKey)
    (f := fun i v => writeWord (opw [rw' 31 0]) v (ws.getD i 0)) (l := List.range ws.length) (a := a)
    fun i hi => ha i (hlen ▸ List.mem_range.mp hi)
  have hout := putAll_frame oOpalKey (fun i v => writeWord (opw [rw' 31 0]) v (ws.getD i 0)) (List.range ws.length)
    { s with out := [] }
  have hswf := swf_putAll hregs oOpalKey (fun i v => writeWord (opw [rw' 31 0]) v (ws.getD i 0)) (List.range ws.length)
  generalize putAll oOpalKey _ _ _ = u at hexec hget hother hout hswf
  rw [recomputeOpal_eq] at hexec
  have hdraw : heldDraw u = opalDraw ⟨ws.getD 0 0, ws.getD 1 0, ws.getD 2 0, ws.getD 3 0⟩
      ⟨ws.getD 4 0, ws.getD 5 0, ws.getD 6 0, ws.getD 7 0⟩ := by
    rw [heldDraw, hget 0 (by decide), hget 1 (by decide), hget 2 (by decide), hget 3 (by decide), hget 4 (by decide),
      hget 5 (by decide), hget 6 (by decide), hget 7 (by decide)]
  rw [hdraw] at hexec
  generalize hy : opalDraw _ _ = y at hexec
  have hkey (i : Nat) (hi : i < 8) : regGet (setQuad u oOpalOut y) (oOpalKey + 4 * i) = ws.getD i 0 :=
    (regGet_setQuad_other y (by unfold oOpalKey oOpalOut; omega)).trans (hget i hi)
  subst hws
  refine ⟨_, hexec, ?_, hy ▸ regGet_setQuad hswf oOpalOut y, hkey 0 (by decide), hkey 4 (by decide), fun a ha => ?_⟩
  · exact congrArg (·.out ++ [_]) hout
  · have ha' : ∀ i < 12, a ≠ oOpalKey + 4 * i := fun i hi he => ha (List.mem_map.mpr ⟨i, List.mem_range.mpr hi, he.symm⟩)
    refine (regGet_setQuad_other y fun i hi => ?_).trans (hother a fun i hi => ha' i (by omega))
    have := ha' (8 + i) (by omega)
    unfold oOpalKey at this
    unfold oOpalOut
    omega

theorem heldBack_sak {p i : Nat} (hp : p < 2) (hi : i < 4) {j : Nat} (hj : j < 12) (old new : Word) :
    heldBack (oEthSak p i + 4 * j) old new = old := by
  unfold heldBack oEthSak oEth oMirror
  rw [if_neg (by omega), if_neg (by omega), if_neg (by omega), if_pos (by omega)]

theorem writeEffect_sak {p i : Nat} (hp : p < 2) (hi : i < 4) (o : Nat) (ho : o = oEthSak p i) (old : Word) :
    writeEffect s off ws o old w
      = if coversAll off ws o 12 = true then
          installSak s p i ((List.range 12).map fun i => (newWord off ws (o + 4 * i)).getD 0)
        else s := by
  have hport : (o - 0x040000) / 0x10000 = p := by unfold oEthSak oEth at ho; omega
  have hiface : o % 0x100 / 0x40 = i := by unfold oEthSak oEth at ho; omega
  unfold oEthSak oEth at ho
  unfold writeEffect oPwrCtrl oTbCtrl oEth
  rw [if_neg (by omega), if_neg (by omega), if_neg (by omega), if_pos (by omega), hport, hiface]

theorem writeEffect_sak_rest {p i j : Nat} (hi : i < 4) (hj : 0 < j ∧ j < 12) (old : Word) :
    writeEffect s off ws (oEthSak p i + 4 * j) old w = s := by
  unfold writeEffect oPwrCtrl oTbCtrl oEthSak oEth oVidFence oMirror
  rw [if_neg (by omega), if_neg (by omega), if_neg (by omega), if_neg (by omega), if_neg (by omega), if_neg (by omega),
    if_neg (by omega), if_neg (by omega), if_neg (by omega)]

theorem ownRule_sak {p i j : Nat} (hi : i < 4) (hj : j < 12) :
    ownRule s off ws (oEthSak p i + 4 * j) w = none := by
  unfold ownRule oPwrCtrl oTbCtrl oEthSak oEth oVidFence oMirror
  rw [if_neg (by omega), if_neg (by omega), if_neg (by omega), if_neg (by omega), if_neg (by omega), if_neg (by omega),
    if_neg (by omega), if_neg (by omega), if_neg (by omega), if_neg (by omega), if_neg (by omega)]

/-- The twelve words of an ETH_SAK are write-only, and none of them is stored (R338). -/
theorem regAt_sak {p i j : Nat} (hp : p < 2) (hi : i < 4) (hj : j < 12) :
    regAt (oEthSak p i + 4 * j) = some ((regIn ethSakTable (4 * j)).getD ⟨.opn, []⟩) := by
  have hmod : (oEthSak p i + 4 * j) % 0x40 = 4 * j := by unfold oEthSak oEth; omega
  rw [regAt_ethSak hp (by unfold oEthSak oEth; omega) (by unfold oEthSak oEth; omega), hmod]
  interval_cases j <;> rfl

/-- The write of a whole ETH_SAK installs its key (R338). -/
theorem allWritten_sak {p i : Nat} (hp : p < 2) (hi : i < 4) (hlen : ws.length = 12) :
    ∃ u, allWritten s (oEthSak p i) ws = installSak u p i ws ∧ u.out = s.out
      ∧ (swf resetWord s.regs = true → ∀ a, regGet u a = regGet s a) := by
  have hstore : storeAll (oEthSak p i) ws (List.range 12) s = putAll (oEthSak p i) (fun _ v => v) (List.range 12) s := by
    rw [storeAll_now (r := fun j => (regIn ethSakTable (4 * j)).getD ⟨.opn, []⟩)
      (fun j hj => regAt_sak hp hi (List.mem_range.mp hj)) (fun j hj => ?_) (fun j hj => ?_)]
    · unfold putAll
      refine List.foldl_ext _ _ _ fun u j hj => ?_
      rw [stored, heldBack_sak hp hi (List.mem_range.mp hj)]
    · rw [pairWhole, if_neg]
      unfold oEthSak oEth oTbSecLo oTbSecHi
      omega
    · have := List.mem_range.mp hj
      simp only [atBoundary, oDigCtrl, Bool.or_eq_false_iff, beq_eq_false_iff_ne, Bool.and_eq_false_iff, decide_eq_false_iff_not]
      unfold oEthSak oEth
      exact ⟨by omega, .inl (by omega)⟩
  have heffect (t : State) : effectAll s (oEthSak p i) ws (List.range 12) t = installSak t p i ws := by
    have hrest (l : List Nat) (hl : ∀ j ∈ l, 0 < j ∧ j < 12) (t : State) : effectAll s (oEthSak p i) ws l t = t := by
      unfold effectAll
      induction l generalizing t with
      | nil => rfl
      | cons j l ih =>
        rw [List.forall_mem_cons] at hl
        rw [List.foldl_cons, writeEffect_sak_rest hi hl.1]
        exact ih hl.2 t
    refine (hrest (List.range' 1 11) (by simp [List.mem_range'_1]; omega) _).trans ?_
    change writeEffect t (oEthSak p i) ws (oEthSak p i) _ _ = _
    rw [writeEffect_sak hp hi _ rfl, if_pos (coversAll_self (by omega))]
    exact congrArg (installSak t p i) (newWords_self hlen)
  refine ⟨putAll (oEthSak p i) (fun _ v => v) (List.range 12) s, ?_, by rw [putAll_frame], fun hs a => ?_⟩
  · unfold allWritten
    rw [hlen]
    refine (if_neg ?_).trans ?_
    · rw [Bool.not_eq_true, List.any_eq_false]
      intro j hj
      have := List.mem_range.mp hj
      unfold oOpalKey oOpalOut oEthSak oEth
      simp
      omega
    · rw [protGen_outside, hstore, heffect]
      intro o ho
      obtain ⟨j, hj, rfl⟩ := List.mem_map.mp ho
      have := List.mem_range.mp hj
      simp only [inProtMap, Bool.or_eq_false_iff, beq_eq_false_iff_ne, decide_eq_false_iff_not]
      unfold oProtCtrl oEthSak oEth
      omega
  · by_cases ha : ∃ j ∈ List.range 12, a = oEthSak p i + 4 * j
    · obtain ⟨j, hj, rfl⟩ := ha
      exact regGet_putAll_same hs List.nodup_range hj
    · exact regGet_putAll_other fun j hj he => ha ⟨j, hj, he⟩

/-- SAK_INSTALL of twelve words (R338). -/
theorem exec_sakInstall {port i : Nat} (hs : Canonical s) (hready : isReady s = true) (hopen : sessGet s b = some x)
    (howner : x.cls = .owner) (hp : port < 2) (hi : i < 4) (hlen : ws.length = 12) :
    ∃ t k, exec (.sakInstall b port i ws) s = .next t ∧ Status t .ok ∧ k ∈ t.saks ∧ k.port = port ∧ k.iface = i
      ∧ k.an = BitVec.ofNat 2 (getF (ws.getD 11 0) 1 0) ∧ k.key = ws.take 8 ∧ k.salt = (ws.drop 8).take 3
      ∧ (∀ y ∈ t.saks, y.port = port → y.iface = i → y.an = k.an → y = k) ∧ RegsBut s t [] := by
  have hexec := access_all (s := s) (off := oEthSak port i) hready hopen howner (ws := ws) (by omega)
    (fun j hj => regAt_sak hp hi (hlen ▸ hj)) fun j hj => ownRule_sak hi (hlen ▸ hj)
  obtain ⟨u, hu, hout, hget⟩ := allWritten_sak (s := { s with out := [] }) hp hi hlen
  rw [hu] at hexec
  have hrow : exec (.sakInstall b port i ws) s = registerAccess b (oEthSak port i) ws s := (if_pos hp).trans (if_pos hi)
  obtain ⟨hmem, honly⟩ := installSak_saks u port i ws
  exact ⟨_, installedSak port i ws, hrow.trans hexec, congrArg (· ++ [_]) hout, hmem, rfl, rfl, rfl, rfl, rfl, honly,
    fun a _ => hget hs.regs a⟩

/-- Settles O13, a row at a time. -/
theorem timeOpalAndPortWrites : Obligations.TimeOpalAndPortWrites := fun _ _ _ hs hready hopen howner =>
  ⟨fun _ h3 hgroup hnew => exec_sourceWrite hs hready hopen howner h3 hgroup hnew,
    fun _ _ => exec_secSetWrite hs hready hopen howner,
    fun _ _ _ _ _ _ _ _ => exec_opalWrite hs hready hopen howner,
    fun _ hp _ hm hnew hseg => exec_modeWrite hs hready hopen howner hp hm hnew hseg,
    fun _ hp _ hmode hstatus hseg => exec_maxFrameWrite hs hready hopen howner hp hmode hstatus hseg,
    fun _ hp _ hi _ hlen => exec_sakInstall hs hready hopen howner hp hi hlen⟩

end Sys2Proof.Machine

/-! Writes of a KV pool, a protection map entry and DEV_NOTICE (R198, R463, R464, R468). -/

namespace Sys2Proof.Machine

open Sys2Proof Sys2Proof.Terms

variable {s t : State} {b off i st : Nat} {w : Word} {ws : List Word} {x : Session} {r : Nat → Reg}

/-- An OWNER session's write whose first word is refused by its register's own rule. -/
theorem access_all_refused {c : Code} (hready : isReady s = true) (hopen : sessGet s b = some x) (howner : x.cls = .owner)
    (hlen : 1 ≤ ws.length ∧ ws.length ≤ 64) (hreg : ∀ i < ws.length, regAt (off + 4 * i) = some (r i))
    (hrule : ownRule s off ws off (ws.getD 0 0) = some c) :
    registerAccess b off ws s = .next (emit (logRefusedLift { s with out := [] } off (ws.getD 0 0)) (.status c)) := by
  have hrule' : ownRule { s with out := [] } off ws (off + 4 * 0) (ws.getD 0 0) = some c := hrule
  have himpl : (List.range ws.length).all (fun i => (regAt (off + 4 * i)).isSome) = true :=
    List.all_eq_true.mpr fun i hi => by rw [hreg i (List.mem_range.mp hi)]; rfl
  have hmay : (List.range ws.length).all (fun i => (regAt (off + 4 * i)).any fun r => mayWrite r.level .owner) = true :=
    List.all_eq_true.mpr fun i hi => by rw [hreg i (List.mem_range.mp hi)]; rfl
  have hfirst : (List.range ws.length).find? (fun i => (ownRule { s with out := [] } off ws (off + 4 * i) (ws.getD i 0)).isSome)
      = some 0 := by
    obtain ⟨n, hn⟩ : ∃ n, ws.length = n + 1 := ⟨ws.length - 1, by omega⟩
    rw [hn, List.range_succ_eq_map, List.find?_cons, hrule']
    rfl
  refine registerAccess_answers hready hopen hlen ?_
  rw [howner]
  simp only [regWrite, himpl, hmay, hfirst, Bool.not_true, Bool.false_eq_true, if_false, reduceCtorEq, hrule', Option.getD_some]
  rfl

/-- Only refused lifts of fences are logged. -/
theorem logRefusedLift_low (h : off < 0x0B0000) : logRefusedLift s off w = s := by
  unfold logRefusedLift oVidFence
  rw [if_neg (by omega), if_neg (by omega), if_neg (by omega)]

/-- The outcome of a write that only stores its n words. -/
structure StoresWords (s t : State) (off n : Nat) (ws : List Word) (r : Nat → Reg) : Prop where
  same  : ∀ i < n, regGet t (off + 4 * i) = writeWord (r i) (regGet s (off + 4 * i)) (ws.getD i 0)
  other : ∀ a, (∀ i < n, a ≠ off + 4 * i) → regGet t a = regGet s a
  frame : t = { s with regs := t.regs, votes := t.votes }

theorem storesWords_putAll (hs : swf resetWord s.regs = true) (off n : Nat) (ws : List Word) (r : Nat → Reg) :
    ∃ t, putAll off (fun i v => writeWord (r i) v (ws.getD i 0)) (List.range n) s = t ∧ StoresWords s t off n ws r :=
  ⟨_, rfl, fun _ hi => regGet_putAll_same hs List.nodup_range (List.mem_range.mpr hi),
    fun _ ha => regGet_putAll_other fun i hi => ha i (List.mem_range.mp hi), putAll_frame _ _ _ _⟩

theorem blockAccess_of_lt {n : Nat} (h : i < n) : blockAccess b i n off ws s = registerAccess b off ws s := if_pos h

/-! ## KV pools -/

theorem regAt_pool (hst : st < 8) (hi : i < 2) : regAt (oKvBase st + 4 * i) = some (ownw [rwv 16 0]) := by
  interval_cases st <;> interval_cases i <;> rfl

theorem ownRule_pool (hst : st < 8) (hi : i < 2) : ownRule s off ws (oKvBase st + 4 * i) w = poolRule s off ws st := by
  have hstack : (oKvBase st + 4 * i - 0x080100) / 0x10 = st := by unfold oKvBase; omega
  generalize ho : oKvBase st + 4 * i = o at hstack
  unfold oKvBase at ho
  unfold ownRule oPwrCtrl oTbCtrl oEth
  rw [if_neg (by omega), if_neg (by omega), if_neg (by omega), if_neg (by omega), if_pos (by omega), hstack]

theorem pool_field (old : Word) : getF (writeWord (ownw [rwv 16 0]) old w) 16 0 = getF w 16 0 :=
  getF_writeWord (f := rwv 16 0) (by decide) rfl (by decide) (by decide) (by decide) old

/-- Setting a pool's base and size (R198). -/
theorem exec_kvPoolWrite {base size : Word} (hs : Canonical s) (hready : isReady s = true) (hopen : sessGet s b = some x)
    (howner : x.cls = .owner) (hst : st < 8) (hpages : s.pages.any (fun p => pageStack p.id == st) = false)
    (hfits : poolFits (getF base 16 0) (getF size 16 0) = true) :
    ∃ t, exec (.kvPoolWrite b st (some base) (some size)) s = .next t ∧ Status t .ok
      ∧ regF t (oKvBase st) 16 0 = getF base 16 0 ∧ regF t (oKvSize st) 16 0 = getF size 16 0
      ∧ RegsBut s t [oKvBase st, oKvSize st] ∧ t = { s with out := t.out, regs := t.regs, votes := t.votes } := by
  have hsize : oKvSize st = oKvBase st + 4 * 1 := by unfold oKvSize oKvBase; omega
  have hblock : ∀ i < 2, Storing (oKvBase st + 4 * i) := fun i hi => .inr (.inr (by unfold oKvBase; omega))
  have hreg : ∀ i < 2, regAt (oKvBase st + 4 * i) = some (ownw [rwv 16 0]) := fun i hi => regAt_pool hst hi
  have hnew0 : newWord (oKvBase st) [base, size] (oKvBase st) = some base := by
    have h := newWord_self (off := oKvBase st) (ws := [base, size]) (i := 0)
    rwa [Nat.mul_zero, Nat.add_zero] at h
  have hnew1 : newWord (oKvBase st) [base, size] (oKvSize st) = some size := by
    rw [hsize]
    exact newWord_self (i := 1)
  have hrule : poolRule s (oKvBase st) [base, size] st = none := by
    simp only [poolRule, hpages, Bool.false_eq_true, if_false, hnew0, hnew1, Option.getD_some, hfits, if_true]
  have hexec := access_all hready hopen howner (ws := [base, size]) ⟨by simp, by simp⟩ hreg fun i hi =>
    (ownRule_pool hst hi).trans hrule
  have hwrite := allWritten_stores (s := { s with out := [] }) (ws := [base, size]) hblock hreg
    (fun i hi => by rw [pairWhole, if_neg]; unfold oKvBase oTbSecLo oTbSecHi; omega)
    (fun i hi => by
      simp only [inProtMap, Bool.or_eq_false_iff, beq_eq_false_iff_ne, decide_eq_false_iff_not]
      unfold oKvBase oProtCtrl
      omega)
    (fun i hi => by have : i < 2 := hi; unfold oKvBase oOpalKey; omega)
  obtain ⟨u, hu, hstores⟩ := storesWords_putAll (s := { s with out := [] }) hs.regs (oKvBase st) [base, size].length
    [base, size] fun _ => ownw [rwv 16 0]
  rw [hwrite, hu] at hexec
  have h0 := hstores.same 0 (by simp)
  rw [Nat.mul_zero, Nat.add_zero] at h0
  have h1 := hstores.same 1 (by simp)
  rw [← hsize] at h1
  refine ⟨_, (blockAccess_of_lt hst).trans hexec, ?_, (congrArg (getF · 16 0) h0).trans (pool_field _),
    (congrArg (getF · 16 0) h1).trans (pool_field _), fun a ha => hstores.other a fun i hi he => ha ?_, ?_⟩
  · rw [hstores.frame]
    rfl
  · have hi : i < 2 := hi
    interval_cases i <;> simp [he, hsize]
  · rw [hstores.frame]
    rfl

/-- A pool with pages is not moved (R198). -/
theorem exec_kvPoolWrite_busy {base size : Option Word} (hready : isReady s = true) (hopen : sessGet s b = some x)
    (howner : x.cls = .owner) (hst : st < 8) (hsome : (base.isSome || size.isSome) = true)
    (hpages : s.pages.any (fun p => pageStack p.id == st) = true) :
    ∃ t, exec (.kvPoolWrite b st base size) s = .next t ∧ Status t .busy ∧ t = { s with out := t.out } := by
  have hrule (off : Nat) (ws : List Word) : poolRule s off ws st = some .busy := by
    rw [poolRule, if_pos hpages]
  have hrefused (i : Nat) (hi : i < 2) (ws : List Word) (hlen : 1 ≤ ws.length ∧ i + ws.length ≤ 2) :
      ∃ t, blockAccess b st 8 (oKvBase st + 4 * i) ws s = .next t ∧ Status t .busy ∧ t = { s with out := t.out } := by
    have hreg : ∀ j < ws.length, regAt (oKvBase st + 4 * i + 4 * j) = some (ownw [rwv 16 0]) := fun j hj => by
      rw [Nat.add_assoc, ← Nat.mul_add]
      exact regAt_pool hst (by omega)
    have hexec := access_all_refused hready hopen howner ⟨hlen.1, by omega⟩ hreg ((ownRule_pool hst hi).trans (hrule _ _))
    rw [logRefusedLift_low (by unfold oKvBase; omega)] at hexec
    exact ⟨_, (blockAccess_of_lt hst).trans hexec, rfl, rfl⟩
  have hsize : oKvSize st = oKvBase st + 4 * 1 := by unfold oKvSize oKvBase; omega
  cases base with
  | some base =>
    cases size with
    | some size => exact hrefused 0 (by decide) [base, size] (by simp)
    | none => exact hrefused 0 (by decide) [base] (by simp)
  | none =>
    cases size with
    | some size =>
      have := hrefused 1 (by decide) [size] (by simp)
      rw [← hsize] at this
      exact this
    | none => cases hsome

/-! ## The protection map -/

/-- The registers of an entry. -/
def protReg (j : Nat) : Reg :=
  if j = 4 then grd [rwv 31 31, rwv 30 30, rwv 27 16, rwv 7 0] else if j % 2 = 0 then grd [rwv 31 12] else grd [rwv 15 0]

theorem regAt_prot {j : Nat} (hi : i < 256) (hj : j < 5) : regAt (oProt i + 4 * j) = some (protReg j) := by
  have hmod : (oProt i + 4 * j) % 0x20 = 4 * j := by unfold oProt; omega
  rw [regAt_protEntry (by unfold oProt; omega) (by unfold oProt; omega), hmod]
  interval_cases j <;> rfl

theorem ownRule_prot {j : Nat} (hi : i < 256) (hj : j < 5) : ownRule s off ws (oProt i + 4 * j) w = protRule s off ws i := by
  have hentry : (oProt i + 4 * j - 0x011000) / 0x20 = i := by unfold oProt; omega
  rw [ownRule, if_pos (by unfold oProt; omega), hentry]

/-- A write of fewer than all five registers of a valid entry (R463). -/
theorem protRule_partial (hv : regF s (oProt i + 16) 31 31 = 1) : protRule s (oProt i) [w] i = some .badParam := by
  have hnew : newWord (oProt i) [w] (oProt i + 4 * 4) = none := newWord_self
  have hcovers : coversAll (oProt i) [w] (oProt i) 5 = false := by
    refine List.all_eq_false.mpr ⟨4, by simp, ?_⟩
    rw [hnew]
    exact Bool.false_ne_true
  change newWord (oProt i) [w] (oProt i + 0x10) = none at hnew
  simp only [protRule, hnew, hv, hcovers, beq_self_eq_true, Bool.not_true, Bool.and_self, Bool.false_eq_true, if_false,
    Bool.not_false, if_true]

/-- A write of a whole valid entry whose range lies in one area (R463). -/
theorem protRule_whole {w0 w1 w2 w3 w4 : Word} (hv : getF w4 31 31 = 1) (hle : protAddr w0 w1 0 ≤ protAddr w2 w3 0xFFF)
    (harea : protArea (protAddr w0 w1 0) ≠ 0) (hsame : protArea (protAddr w0 w1 0) = protArea (protAddr w2 w3 0xFFF)) :
    protRule s (oProt i) [w0, w1, w2, w3, w4] i = none := by
  have hnew (j : Nat) : newWord (oProt i) [w0, w1, w2, w3, w4] (oProt i + 4 * j) = [w0, w1, w2, w3, w4][j]? := newWord_self
  have h0 : newWord (oProt i) [w0, w1, w2, w3, w4] (oProt i + 0) = some w0 := hnew 0
  have h1 : newWord (oProt i) [w0, w1, w2, w3, w4] (oProt i + 4) = some w1 := hnew 1
  have h2 : newWord (oProt i) [w0, w1, w2, w3, w4] (oProt i + 8) = some w2 := hnew 2
  have h3 : newWord (oProt i) [w0, w1, w2, w3, w4] (oProt i + 0xC) = some w3 := hnew 3
  have h4 : newWord (oProt i) [w0, w1, w2, w3, w4] (oProt i + 0x10) = some w4 := hnew 4
  have hcovers : coversAll (oProt i) [w0, w1, w2, w3, w4] (oProt i) 5 = true := coversAll_self (by simp)
  have hall : protAddr w0 w1 0 ≤ protAddr w2 w3 0xFFF ∧ protArea (protAddr w0 w1 0) ≠ 0
      ∧ protArea (protAddr w0 w1 0) = protArea (protAddr w2 w3 0xFFF) := ⟨hle, harea, hsame⟩
  simp only [protRule, h4, hv, hcovers, beq_self_eq_true, Bool.not_true, Bool.and_false, Bool.false_eq_true, if_false,
    h0, h1, h2, h3, Option.getD_some, if_pos hall]

/-- GEN may rise, and nothing else of the registers changes (R464). -/
theorem protGen_spec (hs : swf resetWord t.regs = true) (l : List Nat) :
    RegsBut t (protGen s t l) [oProtCtrl] ∧ (protGen s t l).out = t.out
      ∧ (regF (protGen s t l) oProtCtrl 31 16 = regF t oProtCtrl 31 16
        ∨ regF (protGen s t l) oProtCtrl 31 16 = (regF t oProtCtrl 31 16 + 1) % 65536) := by
  unfold protGen
  split
  · refine ⟨fun a ha => regGet_regSet_other t _ (by simpa using ha), rfl, .inr ?_⟩
    exact regF_regWrap_same hs oProtCtrl 1 (by decide) (by decide)
  · exact ⟨fun _ _ => rfl, rfl, .inl rfl⟩

/-- The address that two words of an entry give depends on their fields alone. -/
theorem protAddr_stored (old old' lo hi : Word) (low : Nat) :
    protAddr (writeWord (grd [rwv 31 12]) old lo) (writeWord (grd [rwv 15 0]) old' hi) low = protAddr lo hi low := by
  have hlo : getF (writeWord (grd [rwv 31 12]) old lo) 31 12 = getF lo 31 12 :=
    getF_writeWord (f := rwv 31 12) (by decide) rfl (by decide) (by decide) (by decide) old
  have hhi : getF (writeWord (grd [rwv 15 0]) old' hi) 15 0 = getF hi 15 0 :=
    getF_writeWord (f := rwv 15 0) (by decide) rfl (by decide) (by decide) (by decide) old'
  rw [protAddr, hlo, hhi, protAddr]

theorem valid_protWord (old : Word) : getF (writeWord (protReg 4) old w) 31 31 = getF w 31 31 :=
  getF_writeWord (f := rwv 31 31) (by decide) rfl (by decide) (by decide) (by decide) old

theorem rights_protWord (old : Word) : getF (writeWord (protReg 4) old w) 7 0 = getF w 7 0 :=
  getF_writeWord (f := rwv 7 0) (by decide) rfl (by decide) (by decide) (by decide) old

/-- The write of a whole entry. -/
theorem allWritten_prot (hs : swf resetWord s.regs = true) (hi : i < 256) (hlen : ws.length = 5) :
    ∃ t, allWritten s (oProt i) ws = t ∧ t.out = s.out
      ∧ (∀ j < 5, regGet t (oProt i + 4 * j) = writeWord (protReg j) (regGet s (oProt i + 4 * j)) (ws.getD j 0))
      ∧ (∀ a, (∀ j < 5, a ≠ oProt i + 4 * j) → a ≠ oProtCtrl → regGet t a = regGet s a)
      ∧ (regF t oProtCtrl 31 16 = regF s oProtCtrl 31 16 ∨ regF t oProtCtrl 31 16 = (regF s oProtCtrl 31 16 + 1) % 65536) := by
  have hblock : ∀ j < ws.length, Storing (oProt i + 4 * j) := fun j hj => .inl (by unfold oProt; omega)
  have hstore := effectAll_storeAll (s := s) hblock (fun j hj => regAt_prot hi (hlen ▸ hj)) fun j hj => by
    rw [pairWhole, if_neg]
    unfold oProt oTbSecLo oTbSecHi
    omega
  have hopal : ¬(List.range ws.length).any (fun j => decide (oOpalKey ≤ oProt i + 4 * j ∧ oProt i + 4 * j < oOpalOut)) = true := by
    rw [Bool.not_eq_true, List.any_eq_false]
    intro j hj
    have := List.mem_range.mp hj
    unfold oProt oOpalKey
    simp
    omega
  obtain ⟨u, hu, hstores⟩ := storesWords_putAll hs (oProt i) ws.length ws protReg
  have hregs : swf resetWord u.regs = true := by
    rw [← hu]
    exact swf_putAll hs _ _ _
  obtain ⟨hbut, hout, hgen⟩ := protGen_spec (s := s) hregs ((List.range ws.length).map (oProt i + 4 * ·))
  have hctrl : regF u oProtCtrl 31 16 = regF s oProtCtrl 31 16 :=
    congrArg (getF · 31 16) (hstores.other oProtCtrl fun j _ => by unfold oProt oProtCtrl; omega)
  refine ⟨_, rfl, ?_⟩
  have hwrite : allWritten s (oProt i) ws = protGen s u ((List.range ws.length).map (oProt i + 4 * ·)) := by
    unfold allWritten
    rw [if_neg hopal, hstore, hu]
  rw [hwrite]
  refine ⟨hout.trans ?_, fun j hj => ?_, fun a ha hctrl => ?_, hctrl ▸ hgen⟩
  · rw [hstores.frame]
  · refine (hbut _ ?_).trans (hstores.same j (hlen ▸ hj))
    unfold oProt oProtCtrl
    simp
    omega
  · exact (hbut a (by simpa using hctrl)).trans (hstores.other a (hlen ▸ ha))

/-- A whole valid entry of one area is stored (R463, R464). -/
theorem exec_protEntryWrite {w0 w1 w2 w3 w4 : Word} (hs : Canonical s) (hready : isReady s = true) (hopen : sessGet s b = some x)
    (howner : x.cls = .owner) (hi : i < 256) (hv : getF w4 31 31 = 1) (hle : protAddr w0 w1 0 ≤ protAddr w2 w3 0xFFF)
    (harea : protArea (protAddr w0 w1 0) ≠ 0) (hsame : protArea (protAddr w0 w1 0) = protArea (protAddr w2 w3 0xFFF)) :
    ∃ t, exec (.protEntryWrite b i [w0, w1, w2, w3, w4]) s = .next t ∧ Status t .ok
      ∧ protAddr (regGet t (oProt i)) (regGet t (oProt i + 4)) 0 = protAddr w0 w1 0
      ∧ protAddr (regGet t (oProt i + 8)) (regGet t (oProt i + 12)) 0xFFF = protAddr w2 w3 0xFFF
      ∧ regF t (oProt i + 16) 31 31 = 1 ∧ regF t (oProt i + 16) 7 0 = getF w4 7 0
      ∧ RegsBut s t [oProt i, oProt i + 4, oProt i + 8, oProt i + 12, oProt i + 16, oProtCtrl]
      ∧ (regF t oProtCtrl 31 16 = regF s oProtCtrl 31 16 ∨ regF t oProtCtrl 31 16 = (regF s oProtCtrl 31 16 + 1) % 65536) := by
  have hexec := access_all hready hopen howner (off := oProt i) (ws := [w0, w1, w2, w3, w4]) ⟨by simp, by simp⟩
    (fun j hj => regAt_prot hi hj) fun j hj => (ownRule_prot hi hj).trans (protRule_whole hv hle harea hsame)
  obtain ⟨u, hu, hout, hget, hother, hgen⟩ := allWritten_prot (s := { s with out := [] }) (ws := [w0, w1, w2, w3, w4]) hs.regs hi rfl
  rw [hu] at hexec
  have h0 : regGet u (oProt i) = writeWord (protReg 0) (regGet s (oProt i)) w0 := hget 0 (by decide)
  have h1 : regGet u (oProt i + 4) = writeWord (protReg 1) (regGet s (oProt i + 4)) w1 := hget 1 (by decide)
  have h2 : regGet u (oProt i + 8) = writeWord (protReg 2) (regGet s (oProt i + 8)) w2 := hget 2 (by decide)
  have h3 : regGet u (oProt i + 12) = writeWord (protReg 3) (regGet s (oProt i + 12)) w3 := hget 3 (by decide)
  have h4 : regGet u (oProt i + 16) = writeWord (protReg 4) (regGet s (oProt i + 16)) w4 := hget 4 (by decide)
  have hlow : protAddr (regGet u (oProt i)) (regGet u (oProt i + 4)) 0 = protAddr w0 w1 0 := by
    rw [h0, h1]
    exact protAddr_stored _ _ _ _ _
  have hhigh : protAddr (regGet u (oProt i + 8)) (regGet u (oProt i + 12)) 0xFFF = protAddr w2 w3 0xFFF := by
    rw [h2, h3]
    exact protAddr_stored _ _ _ _ _
  refine ⟨_, (blockAccess_of_lt hi).trans hexec, congrArg (· ++ [_]) hout, hlow, hhigh,
    (congrArg (getF · 31 31) h4).trans ((valid_protWord _).trans hv), (congrArg (getF · 7 0) h4).trans (rights_protWord _),
    fun a ha => ?_, hgen⟩
  simp only [List.mem_cons, List.not_mem_nil, or_false, not_or] at ha
  obtain ⟨a0, a1, a2, a3, a4, ac⟩ := ha
  refine hother a (fun j hj he => ?_) ac
  interval_cases j <;> omega

/-- A valid entry is written as a whole or not at all (R463). -/
theorem exec_protEntryWrite_partial (hready : isReady s = true) (hopen : sessGet s b = some x) (howner : x.cls = .owner)
    (hi : i < 256) (hv : regF s (oProt i + 16) 31 31 = 1) :
    ∃ t, exec (.protEntryWrite b i [w]) s = .next t ∧ Status t .badParam ∧ t = { s with out := t.out } := by
  have hexec := access_refused hready hopen howner (regAt_prot (j := 0) hi (by decide))
    ((ownRule_prot (j := 0) hi (by decide)).trans (protRule_partial (w := w) hv))
  rw [logRefusedLift_low (by unfold oProt; omega)] at hexec
  exact ⟨_, (blockAccess_of_lt hi).trans hexec, rfl, rfl⟩

/-! ## DEV_NOTICE -/

theorem regAt_notice : regAt oNotice = some (ownw [w1b 8 0]) := rfl

/-- The bits of DEV_NOTICE that are written as 1 clear (R468). -/
theorem exec_noticeClear {bits : Word} (hs : Canonical s) (hready : isReady s = true) (hopen : sessGet s b = some x)
    (howner : x.cls = .owner) :
    ∃ t, exec (.noticeClear b bits) s = .next t ∧ Status t .ok ∧ regF t oNotice 8 0 = getF (regGet s oNotice &&& ~~~bits) 8 0
      ∧ RegsBut s t [oNotice] ∧ t = { s with out := t.out, regs := t.regs, votes := t.votes } := by
  have hplain : plain oNotice = true := by decide
  have hexec := access_one (w := bits) hready hopen howner regAt_notice (ownRule_of_not_ownRuled (by
    unfold OwnRuled
    decide))
  rw [oneWrite_plain hplain regAt_notice] at hexec
  have hregs : swf resetWord ({ s with out := [] } : State).regs = true := hs.regs
  refine ⟨_, hexec, rfl, (regF_putWord hregs oNotice _ 8 0).trans ?_, regsBut_putWord { s with out := [] } _ _, rfl⟩
  change getF (setF _ 8 0 _) 8 0 = _
  rw [getF_setF_same _ _ (by decide) (by decide)]
  exact Nat.mod_eq_of_lt (getF_lt _ _ _)

/-- Settles O14, a row at a time. -/
theorem poolMapAndNoticeWrites : Obligations.PoolMapAndNoticeWrites := fun _ _ _ hs hready hopen howner =>
  ⟨fun _ hst _ _ hpages hfits => exec_kvPoolWrite hs hready hopen howner hst hpages hfits,
    fun _ hst _ _ hsome hpages => exec_kvPoolWrite_busy hready hopen howner hst hsome hpages,
    fun _ hi _ _ _ _ _ hv hle harea hsame => exec_protEntryWrite hs hready hopen howner hi hv hle harea hsame,
    fun _ hi _ hv => exec_protEntryWrite_partial hready hopen howner hi hv,
    fun _ => exec_noticeClear hs hready hopen howner⟩

end Sys2Proof.Machine

/-! Commands that are accepted, and commands that wait for the boundary (R376). -/

namespace Sys2Proof.Machine

open Sys2Proof Sys2Proof.Terms

variable {s u : State} {n k : Nat} {x : Session} {p : Packet} {op : Byte} {c : Instr} {result : Bytes}

/-- A session's books depend on the sessions alone. -/
theorem booked_congr {j : Nat} {t : State} (h : Booked s u n j) (hs : t.sessions = u.sessions) : Booked s t n j := by
  obtain ⟨y, z, hy, hz, hrest⟩ := h
  refine ⟨y, z, hy, ?_, hrest⟩
  rw [sessGet_eq, hs]
  exact hz

/-- An admitted command that is accepted has its effect, and an entry is reserved for its end (R376, R379). -/
theorem exec_accepts (h : Admitted c s n x op p)
    (ha : ownCommand op ⟨x.cls, some n⟩ p (taken s n p) = accepted u p result)
    (hsess : u.sessions = (taken s n p).sessions) (hout : u.out = []) :
    ∃ t, exec c s = .next t ∧ Replied t p op .accepted result ∧ Booked s t n 1
      ∧ t = { u with out := t.out, sessions := t.sessions } := by
  have hbooks : Booked s u n 0 := booked_congr (onlyBooks_taken (p := p) h.opened).booked hsess
  have ⟨_, y, _, hy, _⟩ := hbooks
  have hreserve := onlyBooks_ringReserve h.origin hy
  obtain ⟨t, he, hr, hb, hf⟩ := exec_replies h ha (booked_trans hbooks hreserve.booked) (by rw [hreserve.frame]; exact hout)
  refine ⟨t, he, hr, hb, ?_⟩
  rw [hreserve.frame] at hf
  exact hf

/-- An admitted command that answers at the boundary is queued (R376). -/
theorem exec_waits (h : Admitted c s n x op p) (ha : ownCommand op ⟨x.cls, some n⟩ p (taken s n p) = atNext u) :
    exec c s = .next u := by
  have hs : sessGet ({ s with out := [] } : State) n = some x := h.opened
  have hfree : heldOff (taken s n p) op = false := by
    rw [taken_frame h.opened]
    exact h.free
  unfold taken at ha hfree
  rw [exec_eq_command h.command, command_admitted h.origin h.ready h.opened h.fits h.checks]
  simp only [answer, originSession, h.origin, hs, hfree, Bool.false_eq_true, if_false, ha, atNext, if_true]

/-- A command that joins the queue of the boundary (R376). -/
theorem exec_queues {w : BoundaryCmd} (h : Admitted c s n x op p)
    (ha : ownCommand op ⟨x.cls, some n⟩ p (taken s n p) = atNext (waitFor (taken s n p) w)) :
    ∃ t, exec c s = .next t ∧ t.out = [] ∧ Booked s t n 0 ∧ t.waiting = s.waiting ++ [w]
      ∧ t = { s with out := [], sessions := t.sessions, waiting := t.waiting } := by
  have htaken := taken_frame (p := p) h.opened
  refine ⟨_, exec_waits h ha, ?_, booked_congr (onlyBooks_taken (p := p) h.opened).booked rfl, ?_, ?_⟩
  · rw [waitFor, htaken]
  · rw [waitFor, htaken]
  · rw [waitFor, htaken]

/-- Settles O21. -/
theorem pageCommandsWaitForTheBoundary : Obligations.PageCommandsWaitForTheBoundary := by
  rintro s n x p op c o (⟨rfl, rfl, rfl⟩ | ⟨rfl, rfl, rfl⟩ | ⟨rfl, rfl, rfl⟩) h
  · exact exec_queues h rfl
  · exact exec_queues h rfl
  · exact exec_queues h rfl

/-! ## JOB_SUBMIT -/

/-- A descriptor that passes its checks waits for the boundary (R389, R390). -/
theorem cmdJobSubmit_accepted {w : Who} {i : Image} (hfree : heldOff s 0x30 = false) (hdesc : descOk p.params = true)
    (hlog : logFieldsOk (descOf p.params) = true) (hi : imageGet s (descOf p.params).image = some i)
    (hrec : (descOf p.params).recompute ≠ 0 → (imageGet s (descOf p.params).recompute).isSome = true)
    (htens : samplerTensorsOk i (descOf p.params) = true) (hgroup : groupOk s i = true)
    (hmirror : mirrorClear s i i.mask i.progs (descOf p.params).base = true)
    (hreach : reachOk s i (ctxOf s 0 (descOf p.params) (w.session.getD 0) p i) = true)
    (hkern : kernelsAtOk i (descOf p.params).base = true) (hplace : (choosePlacement s i (descOf p.params).base).isSome = true)
    (hring : p.flags.getLsbD 0 = false → ringFree s p = true) (hk : freeContext s = some k) :
    cmdJobSubmit w p s
      = { code := .accepted, result := toLE k 2
          st := if p.flags.getLsbD 0 then waitFor s (.submit (ctxOf s k (descOf p.params) (w.session.getD 0) p i))
            else ringReserve (waitFor s (.submit (ctxOf s k (descOf p.params) (w.session.getD 0) p i))) p } := by
  simp only [heldOff, List.contains_cons, beq_self_eq_true, Bool.true_or, Bool.and_true, Bool.or_eq_false_iff,
    beq_eq_false_iff_ne] at hfree
  obtain ⟨⟨hphase, hjobs⟩, -⟩ := hfree
  have hrec' : ¬((descOf p.params).recompute ≠ 0 ∧ (imageGet s (descOf p.params).recompute).isNone = true) := fun h => by
    have := hrec h.1
    simp [Option.isNone_iff_eq_none.mp h.2] at this
  have hring' : ¬((!p.flags.getLsbD 0) = true ∧ (!ringFree s p) = true) := fun h => by
    simp [hring (by simpa using h.1)] at h
  have hplace' : ¬(choosePlacement s i (descOf p.params).base).isNone = true := by
    simpa [Option.isNone_iff_eq_none, Option.isSome_iff_ne_none] using hplace
  have hheld : ¬(s.power.phase = .standby ∨ s.flash.noJobs = true) := by simp [hphase, hjobs]
  simp only [cmdJobSubmit, if_neg hheld, hdesc, hlog, hi, if_neg hrec', htens, hgroup, hmirror, hreach, hkern, if_neg hplace',
    submitAccept, if_neg hring', hk, Bool.not_true, Bool.false_eq_true, or_self, if_false]

/-- Settles O17. -/
theorem jobSubmitIsAccepted : Obligations.JobSubmitIsAccepted := by
  intro s n k x p i h d hdesc hlog hi hrec htens hgroup hmirror hreach hkern hplace hring hk
  have htaken := taken_frame (p := p) h.opened
  have hown : cmdJobSubmit ⟨x.cls, some n⟩ p (taken s n p) = _ := cmdJobSubmit_accepted (k := k) (i := i)
    (by rw [htaken]; exact h.free) hdesc hlog (by rw [htaken]; exact hi) (by rw [htaken]; exact hrec) htens
    (by rw [htaken]; exact hgroup) (by rw [htaken]; exact hmirror) (by rw [htaken]; exact hreach) hkern
    (by rw [htaken]; exact hplace) hring (by rw [htaken]; exact hk)
  have hctx : ctxOf (taken s n p) k d n p i = ctxOf s k d n p i := by rw [htaken]; rfl
  cases hquiet : p.flags.getLsbD 0 with
  | true =>
    have hwait : Booked s (waitFor (taken s n p) (.submit (ctxOf (taken s n p) k d n p i))) n 0 :=
      booked_congr (onlyBooks_taken (p := p) h.opened).booked rfl
    obtain ⟨t, he, hr, hb, ht⟩ := exec_replies h (hown.trans (by rw [if_pos hquiet]; rfl)) hwait (by rw [htaken]; rfl)
    rw [hctx, htaken] at ht
    exact ⟨t, he, hr, hb, by rw [ht]; rfl, by rw [ht]; rfl⟩
  | false =>
    obtain ⟨t, he, hr, hb, ht⟩ := exec_accepts (u := waitFor (taken s n p) (.submit (ctxOf (taken s n p) k d n p i))) h
      (hown.trans (by rw [if_neg (by rw [hquiet]; exact Bool.false_ne_true)]; rfl)) rfl (by rw [htaken]; rfl)
    rw [hctx, htaken] at ht
    exact ⟨t, he, hr, hb, by rw [ht]; rfl, by rw [ht]; rfl⟩

/-! ## Job control -/

/-- JOB_CANCEL or JOB_PAUSE of a job that it may name waits for the boundary (R391). -/
theorem jobCmd_waits {w : Who} {o : CtxOp} {j : Ctx} {ok : Ctx → Bool} (hj : ctxGet s (field p.params 0 2) = some j)
    (hmay : mayName w j.owner = true) (hok : ok j = true) (hring : ringFree s p = true)
    (hpause : ¬(o = .pause ∧ j.group = true ∧ (j.state = .running ∨ j.state = .ready))) :
    jobCmd o w p s ok = accepted (waitFor s (.job { op := o, ctx := j.num, p := p, cls := w.cls })) p := by
  simp only [jobCmd, namedCtx, hj, hmay, hok, hring, if_neg hpause, Bool.not_true, Bool.false_eq_true, if_false]

/-- A job command of a FREE context (R391). -/
theorem jobCmd_free {w : Who} {o : CtxOp} {ok : Ctx → Bool} (hj : ctxGet s (field p.params 0 2) = none) :
    jobCmd o w p s ok = refuse s .noContext := by
  simp only [jobCmd, namedCtx, hj]

/-- An accepted job command. -/
theorem exec_jobCmd {o : CtxOp} {j : Ctx} {ok : Ctx → Bool} (h : Admitted c s n x op p)
    (hown : ∀ u, ownCommand op ⟨x.cls, some n⟩ p u = jobCmd o ⟨x.cls, some n⟩ p u ok)
    (hj : ctxGet s (field p.params 0 2) = some j) (hmay : mayName ⟨x.cls, some n⟩ j.owner = true) (hok : ok j = true)
    (hring : ringFree (taken s n p) p = true)
    (hpause : ¬(o = .pause ∧ j.group = true ∧ (j.state = .running ∨ j.state = .ready))) :
    ∃ t, exec c s = .next t ∧ t.waiting = s.waiting ++ [.job { op := o, ctx := j.num, p := p, cls := x.cls }]
      ∧ Replied t p op .accepted [] ∧ Booked s t n 1
      ∧ t = { s with out := t.out, sessions := t.sessions, waiting := t.waiting } := by
  have htaken := taken_frame (p := p) h.opened
  have hj' : ctxGet (taken s n p) (field p.params 0 2) = some j := by rw [htaken]; exact hj
  obtain ⟨t, he, hr, hb, ht⟩ := exec_accepts h ((hown _).trans (jobCmd_waits hj' hmay hok hring hpause)) rfl (by rw [htaken]; rfl)
  rw [htaken] at ht
  exact ⟨t, he, by rw [ht]; rfl, hr, hb, by rw [ht]; rfl⟩

/-- A refused job command. -/
theorem exec_jobCmd_free {o : CtxOp} {ok : Ctx → Bool} (h : Admitted c s n x op p)
    (hown : ∀ u, ownCommand op ⟨x.cls, some n⟩ p u = jobCmd o ⟨x.cls, some n⟩ p u ok)
    (hj : ctxGet s (field p.params 0 2) = none) :
    ∃ t, exec c s = .next t ∧ Replied t p op .noContext [] ∧ t = { s with out := t.out, sessions := t.sessions } := by
  have hj' : ctxGet (taken s n p) (field p.params 0 2) = none := by rw [taken_frame h.opened]; exact hj
  obtain ⟨t, he, hr, -, ht⟩ := exec_refuses h ((hown _).trans (jobCmd_free hj'))
  exact ⟨t, he, hr, ht⟩

/-- Settles O18: JOB_CANCEL and JOB_PAUSE are `jobCmd`, JOB_RESUME is queued as it comes. -/
theorem jobCommandsWaitForTheirBoundary : Obligations.JobCommandsWaitForTheirBoundary := by
  rintro s n x p op c o (⟨rfl, rfl, rfl⟩ | ⟨rfl, rfl, rfl⟩ | ⟨rfl, rfl, rfl⟩) h
  · refine ⟨fun _ j hj hmay _ _ hring => ?_, fun _ hj => ?_, fun hne => by cases hne⟩
    · exact exec_jobCmd (o := .cancel) h (fun _ => rfl) hj hmay rfl hring (by simp)
    · exact exec_jobCmd_free (o := .cancel) h (fun _ => rfl) hj
  · refine ⟨fun _ j hj hmay hpause hstate hring => ?_, fun _ hj => ?_, fun hne => by cases hne⟩
    · have hok : (j.state == .ready || j.state == .running || j.state == .paused) = true := by
        simpa [or_assoc] using hstate
      refine exec_jobCmd (o := .pause) h (fun _ => rfl) hj hmay hok hring ?_
      rintro ⟨-, hgroup, hstate⟩
      obtain hfalse | hpaused := hpause rfl
      · simp [hgroup] at hfalse
      · simp [hpaused] at hstate
    · exact exec_jobCmd_free (o := .pause) h (fun _ => rfl) hj
  · refine ⟨fun hne => absurd rfl hne, fun hne => absurd rfl hne, fun _ => ?_⟩
    obtain ⟨t, he, hout, hb, hwait, ht⟩ := exec_queues
      (w := .job { op := .resume, ctx := field p.params 0 2, p := p, cls := x.cls }) h rfl
    exact ⟨t, he, hwait, hout, hb, by rw [ht]⟩

end Sys2Proof.Machine

/-! FW_STAGE, FW_COMMIT, ATTEST and DIAG_RUN are accepted and begin (R509, R510, R512, R515). -/

namespace Sys2Proof.Machine

open Sys2Proof Sys2Proof.Terms

variable {s : State} {n : Nat} {x : Session} {p q : Packet} {c : Instr} {w : Who}

/-- A range in stack memory or general hub SRAM passes the range check of a staging (R509). -/
theorem rangeOk_of_ownRange {a k : Nat} (h : ownRange a k) :
    ¬((!(isStack a || regionOf a == .hubGeneral)) = true
      ∨ (!(isStack (a + k - 1) || regionOf (a + k - 1) == .hubGeneral)) = true
      ∨ (!sameRegion a (a + k - 1)) = true) := by
  obtain ⟨hfirst, hlast, hsame⟩ := h
  have hplace : ∀ b, isStack b = true ∨ regionOf b = .hubGeneral → (isStack b || regionOf b == .hubGeneral) = true :=
    fun b hb => by simpa using hb
  simp [hplace _ hfirst, hplace _ hlast, hsame]

theorem cmdFwStage_accepted (htarget : field p.params 0 1 ≤ 1) (hzero : zeroAt p.params 1 7 = true) (hpos : 0 < field p.params 16 8)
    (hsize : field p.params 16 8 ≤ (if field p.params 0 1 = 0 then slotBytes else configBytes))
    (hrange : ownRange (field p.params 8 8) (field p.params 16 8)) (hstage : s.flash.stage = none) (hcommit : s.flash.commit = none)
    (hdiag : s.diag = none) (hring : ringFree s p = true) :
    cmdFwStage w p s = accepted { s with flash := { s.flash with stage := some p } } p := by
  have hfields : ¬(1 < field p.params 0 1 ∨ (!zeroAt p.params 1 7) = true ∨ field p.params 16 8 = 0
      ∨ (if field p.params 0 1 = 0 then slotBytes else configBytes) < field p.params 16 8) := by
    simp only [hzero, Bool.not_true, Bool.false_eq_true, false_or, not_or, not_lt]
    exact ⟨htarget, Nat.ne_of_gt hpos, hsize⟩
  have hidle : ¬(s.flash.stage.isSome = true ∨ s.flash.commit.isSome = true ∨ s.diag.isSome = true
      ∨ (!ringFree s p) = true) := by simp [hstage, hcommit, hdiag, hring]
  rw [cmdFwStage, if_neg hfields, if_neg (rangeOk_of_ownRange hrange), if_neg hidle]

theorem cmdFwCommit_accepted (htarget : field p.params 0 1 ≤ 1) (hflags : field p.params 1 1 ≤ 3)
    (hboth : field p.params 0 1 = 1 → (field p.params 1 1).testBit 0 = false)
    (hrestart : (field p.params 1 1).testBit 1 = true → workPresent s = false)
    (hzero : zeroAt p.params 2 6 = true) (hzero' : zeroAt p.params 12 4 = true)
    (hstaged : (stagedFor s.flash (field p.params 0 1 == 1)).any (fun y => y.1 == field p.params 8 4) = true)
    (hstage : s.flash.stage = none) (hcommit : s.flash.commit = none) (hhealth : s.flash.healthWrite = false) (hdiag : s.diag = none)
    (hring : ringFree s p = true) :
    cmdFwCommit w p s = accepted { s with flash := { s.flash with
      commit := some p, noJobs := s.flash.noJobs || (field p.params 1 1).testBit 1 } } p := by
  have hfields : ¬(1 < field p.params 0 1 ∨ 3 < field p.params 1 1
      ∨ ((field p.params 1 1).testBit 0 = true ∧ field p.params 0 1 = 1) ∨ (!zeroAt p.params 2 6) = true
      ∨ (!zeroAt p.params 12 4) = true) := by
    simp only [hzero, hzero', Bool.not_true, Bool.false_eq_true, or_false, not_or, not_lt]
    exact ⟨htarget, hflags, fun h => by simp [hboth h.2] at h⟩
  have hidle : ¬(s.flash.stage.isSome = true ∨ s.flash.commit.isSome = true ∨ s.flash.healthWrite = true
      ∨ s.diag.isSome = true) := by simp [hstage, hcommit, hhealth, hdiag]
  have hwork : ¬((field p.params 1 1).testBit 1 = true ∧ workPresent s = true) := fun h => by simp [hrestart h.1] at h
  simp only [cmdFwCommit, if_neg hfields, hstaged, if_neg hidle, if_neg hwork, hring, Bool.not_true, Bool.false_eq_true, if_false]

theorem cmdAttest_accepted (hring : ringFree s p = true) : cmdAttest w p s = accepted { s with atts := s.atts ++ [p] } p := by
  simp only [cmdAttest, hring, Bool.not_true, Bool.false_eq_true, if_false]

theorem cmdDiag_accepted (hfields : diagFields p = true)
    (hmem : (diagOf p).test = 5 → memoryFree s (diagOf p).base (diagOf p).size = true)
    (hport : (diagOf p).test = 6 → s.sessions.any (fun y => y.2.port == (diagOf p).port && !y.2.closed) = false)
    (hdiag : s.diag = none) (hstage : s.flash.stage = none) (hcommit : s.flash.commit = none) (hwork : workPresent s = false)
    (hstandby : s.power.phase ≠ .standby) (hlimited : s.power.phase ≠ .limited) (hring : ringFree s p = true) :
    cmdDiag w p s = accepted { s with diag := some (diagOf p) } p := by
  have hmem' : ¬((diagOf p).test = 5 ∧ (!memoryFree s (diagOf p).base (diagOf p).size) = true) := fun h => by simp [hmem h.1] at h
  have hport' : ¬((diagOf p).test = 6 ∧ s.sessions.any (fun y => y.2.port == (diagOf p).port && !y.2.closed) = true) := fun h => by
    rw [hport h.1] at h
    exact Bool.false_ne_true h.2
  have hidle : ¬(s.diag.isSome = true ∨ s.flash.stage.isSome = true ∨ s.flash.commit.isSome = true ∨ workPresent s = true
      ∨ s.power.phase = .standby ∨ s.power.phase = .limited) := by simp [hdiag, hstage, hcommit, hwork, hstandby, hlimited]
  simp only [cmdDiag, hfields, if_neg hmem', if_neg hidle, if_neg hport', hring, Bool.not_true, Bool.false_eq_true, if_false]

/-- A port without open sessions has none once a RING_ACK is taken. -/
theorem portFree_taken {port : Nat} (h : sessGet s n = some x)
    (hfree : s.sessions.any (fun y => y.2.port == port && !y.2.closed) = false) :
    (taken s n p).sessions.any (fun y => y.2.port == port && !y.2.closed) = false := by
  have hopen : sessGet ({ s with out := [] } : State) n = some x := h
  rw [List.any_eq_false] at hfree ⊢
  rw [taken, takeRingAck, sessMap_some hopen]
  intro y hy
  obtain rfl | hmem := mem_sput hy
  · exact hfree (n, x) (mem_of_sfind (Option.filter_eq_some_iff.mp h).1)
  · exact hfree y hmem

/-- DIAG_RUN (R515). -/
theorem exec_diag (h : Admitted c s n x 0xA0 p) (hfields : diagFields p = true)
    (hmem : field p.params 0 1 = 5 → memoryFree s (diagOf p).base (diagOf p).size = true)
    (hport : field p.params 0 1 = 6 → s.sessions.any (fun y => y.2.port == (diagOf p).port && !y.2.closed) = false)
    (hdiag : s.diag = none) (hstage : s.flash.stage = none) (hcommit : s.flash.commit = none) (hwork : workPresent s = false)
    (hstandby : s.power.phase ≠ .standby) (hlimited : s.power.phase ≠ .limited) (hring : ringFree (taken s n p) p = true) :
    ∃ t, exec c s = .next t ∧ Replied t p 0xA0 .accepted [] ∧ Booked s t n 1
      ∧ t = { s with out := t.out, sessions := t.sessions, diag := some (diagOf p) } := by
  have htaken := taken_frame (p := p) h.opened
  have hown : cmdDiag ⟨x.cls, some n⟩ p (taken s n p) = _ := cmdDiag_accepted hfields (by rw [htaken]; exact hmem)
    (fun htest => portFree_taken h.opened (hport htest)) (by rw [htaken]; exact hdiag) (by rw [htaken]; exact hstage)
    (by rw [htaken]; exact hcommit) (by rw [htaken]; exact hwork) (by rw [htaken]; exact hstandby)
    (by rw [htaken]; exact hlimited) hring
  obtain ⟨t, he, hr, hb, ht⟩ := exec_accepts h hown rfl (by rw [htaken])
  rw [htaken] at ht
  exact ⟨t, he, hr, hb, ht⟩

/-- Settles O25, a command at a time. -/
theorem longCommandsBegin : Obligations.LongCommandsBegin := by
  intro s n x p hring
  refine ⟨fun h htarget hzero hpos hsize hrange hstage hcommit hdiag => ?_,
    ?_, fun h => ?_,
    fun c q _ h hfields hmem hport hdiag hstage hcommit hwork hstandby hlimited =>
      exec_diag h hfields hmem hport hdiag hstage hcommit hwork hstandby hlimited hring⟩
  · have htaken := taken_frame (p := p) h.opened
    have hown : cmdFwStage ⟨x.cls, some n⟩ p (taken s n p) = _ := cmdFwStage_accepted htarget hzero hpos hsize hrange
      (by rw [htaken]; exact hstage) (by rw [htaken]; exact hcommit) (by rw [htaken]; exact hdiag) hring
    obtain ⟨t, he, hr, hb, ht⟩ := exec_accepts h hown rfl (by rw [htaken])
    rw [htaken] at ht
    exact ⟨t, he, hr, hb, ht⟩
  · intro h htarget hflags restart hboth hrestart hzero hzero' hstaged hstage hcommit hhealth hdiag
    have htaken := taken_frame (p := p) h.opened
    have hown : cmdFwCommit ⟨x.cls, some n⟩ p (taken s n p) = _ := cmdFwCommit_accepted htarget hflags hboth
      (by rw [htaken]; exact hrestart) hzero hzero' (by rw [htaken]; exact hstaged) (by rw [htaken]; exact hstage)
      (by rw [htaken]; exact hcommit) (by rw [htaken]; exact hhealth) (by rw [htaken]; exact hdiag) hring
    obtain ⟨t, he, hr, hb, ht⟩ := exec_accepts h hown rfl (by rw [htaken])
    rw [htaken] at ht
    exact ⟨t, he, hr, hb, ht⟩
  · have htaken := taken_frame (p := p) h.opened
    have hown : cmdAttest ⟨x.cls, some n⟩ p (taken s n p) = _ := cmdAttest_accepted hring
    obtain ⟨t, he, hr, hb, ht⟩ := exec_accepts h hown rfl (by rw [htaken])
    rw [htaken] at ht
    exact ⟨t, he, hr, hb, ht⟩

end Sys2Proof.Machine

/-! Video streams: what a change of one stream, and the start of a frame, leave of the others (R427 to R433). -/

namespace Sys2Proof.Machine

open Sys2Proof Sys2Proof.Terms

variable {s u : State} {n k e : Nat} {x : Session} {p : Packet} {v y : Stream} {w : Who}

/-! ## One stream -/

theorem num_of_streamGet (h : streamGet s n = some v) : v.num = n := by
  simpa using List.find?_some h

/-- A stream changed under its number. -/
theorem streamGet_streamMap_same {f : Stream → Stream} (hf : ∀ v, (f v).num = v.num) (h : streamGet s n = some v) :
    streamGet (streamMap s n f) n = some (f v) := by
  have hnum := num_of_streamGet h
  have hpred : ((fun y : Stream => y.num == n) ∘ fun y => if y.num = n then f y else y) = fun y => y.num == n := by
    funext y
    by_cases hy : y.num = n <;> simp [hy, hf]
  rw [streamGet, streamMap, List.find?_map, hpred]
  simp only [streamGet] at h
  rw [h, Option.map_some, if_pos hnum]

theorem streamGet_streamMap_other {f : Stream → Stream} (hf : ∀ v, (f v).num = v.num) (hk : k ≠ n) :
    streamGet (streamMap s n f) k = streamGet s k := by
  have hpred : ((fun y : Stream => y.num == k) ∘ fun y => if y.num = n then f y else y) = fun y => y.num == k := by
    funext y
    by_cases hy : y.num = n <;> simp [hy, hf]
  rw [streamGet, streamMap, List.find?_map, hpred, streamGet]
  cases hfind : s.streams.find? fun y => y.num == k with
  | none => rfl
  | some v =>
    have hv : v.num = k := by simpa using List.find?_some hfind
    rw [Option.map_some, if_neg (by omega)]

/-- What the choice of a codec's next frame leaves of a stream. -/
def SameFrames (v y : Stream) : Prop := y.count = v.count ∧ y.frames.length = v.frames.length

/-- The streams stand as before, but for marks on their first frames. -/
structure OnlyMarks (s u : State) : Prop where
  streams : ∀ n v, streamGet s n = some v → ∃ y, streamGet u n = some y ∧ SameFrames v y
  frame   : u = { s with streams := u.streams, running := u.running }

theorem onlyMarks_refl (s : State) : OnlyMarks s s := ⟨fun _ v h => ⟨v, h, rfl, rfl⟩, rfl⟩

theorem onlyMarks_headMap (f : Frame → Frame) : OnlyMarks s (headMap s n f) := by
  refine ⟨fun k v hv => ?_, rfl⟩
  have hnum (v : Stream) : (match v.frames with | [] => v | h :: t => { v with frames := f h :: t } : Stream).num = v.num := by
    split <;> rfl
  by_cases hk : k = n
  · subst hk
    refine ⟨_, streamGet_streamMap_same hnum hv, ?_⟩
    cases hf : v.frames with
    | nil => exact ⟨rfl, rfl⟩
    | cons h t => exact ⟨rfl, by simp [hf]⟩
  · exact ⟨v, (streamGet_streamMap_other hnum hk).trans hv, rfl, rfl⟩

/-- A codec takes its next frame. -/
theorem onlyMarks_runFrame (y : Stream × Frame) : OnlyMarks s (runFrame s e y) := by
  unfold runFrame
  dsimp only
  split
  · exact ⟨fun _ v h => ⟨v, h, rfl, rfl⟩, rfl⟩
  · obtain ⟨hstreams, hframe⟩ := onlyMarks_headMap (s := { s with running := sput s.running e y.1.num }) (n := y.1.num) fun f =>
      { f with started := true, dropped := y.1.live && y.1.dropLate && y.2.deadline.any fun d => decide (d < s.clock.dt) }
    exact ⟨hstreams, by rw [hframe]⟩

theorem onlyMarks_codecPick : OnlyMarks s (codecPick s e) := by
  unfold codecPick
  split
  · exact onlyMarks_refl s
  · split
    · exact onlyMarks_runFrame _
    · exact onlyMarks_refl s

/-! ## The commands -/

/-- A descriptor that passes its checks opens the lowest free stream (R427). -/
theorem cmdVidOpen_done (hfree : heldOff s 0x60 = false) (hdesc : streamDescOk p.params = true)
    (hlow : lowLatencyOk p.params = true) (hwork : workOk s w p.params = true) (hk : freeStream s = some k)
    (he : openEngine s p.params = some e) (hadmits : admits s p.params e = true) :
    cmdVidOpen w p s = done { s with streams := s.streams ++ [streamOf k e (w.session.getD 0) p.params] } (toLE k 2) := by
  have hphase : s.power.phase ≠ .standby := fun h => by simp [heldOff, h] at hfree
  simp only [cmdVidOpen, hphase, hdesc, hlow, hwork, hk, he, hadmits, Bool.not_true, Bool.false_eq_true, or_self, if_false]

/-- A frame that passes its checks joins the stream's queue (R431, R433). -/
theorem cmdVidFrame_accepted (hv : streamGet s (field p.params 0 2) = some v) (hmay : mayName w v.owner = true)
    (hsound : v.damaged = false) (hclosing : v.closing = none) (hnoentry : v.closingNoEntry = false) (hroom : v.frames.length < 16)
    (hdesc : frameDescOk v p.params = true) (hbuf : buffersOk s w v p.params = true) (hring : ringFree s p = true) :
    cmdVidFrame w p s = accepted (codecPick { streamMap s v.num (fun x =>
      { x with frames := x.frames ++ [frameOf s v p], count := x.count + 1, ended := x.ended || (frameOf s v p).endFlag })
      with frameSeq := s.frameSeq + 1 } v.engine) p := by
  simp only [cmdVidFrame, hv, hmay, hsound, hclosing, hnoentry, Nat.not_le.mpr hroom, hdesc, hbuf, hring, Option.isSome_none,
    Bool.not_true, Bool.false_eq_true, or_self, if_false]
  rfl

/-- A close of a stream that is not DAMAGED waits for its frames (R442). -/
theorem cmdVidClose_accepted (hv : streamGet s (field p.params 0 2) = some v) (hmay : mayName w v.owner = true)
    (hsound : v.damaged = false) (hclosing : v.closing = none) (hnoentry : v.closingNoEntry = false) (hring : ringFree s p = true) :
    cmdVidClose w p s = accepted (streamMap s v.num fun x => { x with closing := some p }) p := by
  simp only [cmdVidClose, hv, hmay, hsound, hclosing, hnoentry, hring, Option.isSome_none, Bool.not_true, Bool.false_eq_true,
    or_self, if_false]

/-- Settles O23, a command at a time. -/
theorem videoCommandsAreTaken : Obligations.VideoCommandsAreTaken := by
  intro s n x p
  refine ⟨fun h k e hdesc hlow hwork hk he hadmits => ?_, fun v hv hmay hsound hclosing hnoentry hring =>
    ⟨fun h hroom hdesc hbuf => ?_, fun h => ?_⟩⟩
  · have htaken := taken_frame (p := p) h.opened
    have hown : cmdVidOpen ⟨x.cls, some n⟩ p (taken s n p) = _ := cmdVidOpen_done (by rw [htaken]; exact h.free) hdesc hlow
      (by rw [htaken]; exact hwork) (by rw [htaken]; exact hk) (by rw [htaken]; exact he) (by rw [htaken]; exact hadmits)
    obtain ⟨t, hexec, hr, hb, ht⟩ := exec_replies h hown (booked_congr (onlyBooks_taken (p := p) h.opened).booked rfl)
      (by rw [htaken])
    rw [htaken] at ht
    exact ⟨t, hexec, hr, hb, by rw [ht]; rfl, by rw [ht]⟩
  · have htaken := taken_frame (p := p) h.opened
    have hv' : streamGet (taken s n p) (field p.params 0 2) = some v := by rw [htaken]; exact hv
    have hown : cmdVidFrame ⟨x.cls, some n⟩ p (taken s n p) = _ := cmdVidFrame_accepted hv' hmay hsound hclosing hnoentry hroom
      hdesc (by rw [htaken]; exact hbuf) hring
    obtain ⟨u, hu, hmarks⟩ : ∃ u, codecPick { streamMap (taken s n p) v.num (fun x =>
        { x with frames := x.frames ++ [frameOf (taken s n p) v p], count := x.count + 1
                 ended := x.ended || (frameOf (taken s n p) v p).endFlag }) with frameSeq := (taken s n p).frameSeq + 1 } v.engine = u
        ∧ OnlyMarks _ u := ⟨_, rfl, onlyMarks_codecPick⟩
    rw [hu] at hown
    have hframe := hmarks.frame
    rw [htaken] at hframe
    obtain ⟨t, hexec, hr, hb, ht⟩ := exec_accepts h hown (by rw [hframe]; rfl) (by rw [hframe]; rfl)
    rw [← num_of_streamGet hv] at hv'
    obtain ⟨y, hy, hcount, hlen⟩ := hmarks.streams v.num _ (streamGet_streamMap_same (fun _ => rfl) hv')
    refine ⟨t, y, hexec, hr, hb, by rw [ht]; exact hy, hcount, hlen.trans (by simp), ?_, ?_⟩
    · rw [ht, hframe]
    · rw [ht, hframe]
      rfl
  · have htaken := taken_frame (p := p) h.opened
    have hv' : streamGet (taken s n p) (field p.params 0 2) = some v := by rw [htaken]; exact hv
    have hown : cmdVidClose ⟨x.cls, some n⟩ p (taken s n p) = _ := cmdVidClose_accepted hv' hmay hsound hclosing hnoentry hring
    obtain ⟨t, hexec, hr, hb, ht⟩ := exec_accepts h hown rfl (by rw [htaken]; rfl)
    rw [← num_of_streamGet hv] at hv'
    have hy := streamGet_streamMap_same (f := fun x => { x with closing := some p }) (fun _ => rfl) hv'
    rw [htaken] at ht hy
    exact ⟨t, { v with closing := some p }, hexec, hr, hb, by rw [ht]; exact hy, rfl, rfl, by rw [ht]; rfl⟩

end Sys2Proof.Machine

/-! Ring entries: what the end of a command posts (R377 to R379). -/

namespace Sys2Proof.Machine

open Sys2Proof Sys2Proof.Terms

variable {s u : State} {n k : Nat} {x : Session} {p : Packet} {op : Byte} {code : Code} {result : Bytes} {ctx : Option Nat}
  {ev : BitVec 32}

/-- An entry is posted to the open session that the command came from, and nothing else changes. -/
theorem posted_postEntry (hp : p.origin = .session n) (hopen : sessGet s n = some x) (hs : u.sessions = s.sessions) :
    ∃ t, postEntry u p op code result ctx ev = t ∧ Posted s t n p.tag op code ∧ PostedResult t n result
      ∧ t = { u with sessions := t.sessions } := by
  have hopen' : sessGet u n = some x := by
    rw [sessGet_eq, hs]
    exact hopen
  have hpost : postEntry u p op code result ctx ev = postNow u
      { session := n, tag := p.tag, opcode := op, code := code, ctx := ctx, eventRef := ev, result := result } := by
    simp only [postEntry, originSession, hp]
  rw [hpost]
  unfold postNow
  dsimp only
  refine ⟨_, rfl, ?_, ?_, ?_⟩
  · exact ⟨x, _, _, hopen, sessGet_sessMap_same hopen' rfl, rfl, rfl, rfl, rfl, rfl, rfl⟩
  · exact ⟨_, _, sessGet_sessMap_same hopen' rfl, rfl, rfl⟩
  · rw [sessMap_some hopen']
    rfl

/-! ## The end of a load or verification -/

/-- The broken rule of a verdict, logged (R124). -/
def logVerdict (s : State) (b : Option Broken) : State :=
  match b with
  | some x => logBroken s x
  | none => s

/-- What the end of a load or verification does with its verdict v on the bytes b. -/
def verdictPosted (s : State) (iop : ImageOp) (b : Bytes) (v : Verdict) : State :=
  let s := logVerdict s v.broken
  let ev := if v.broken.isSome then lastSeq s else 0xFFFFFFFF
  let s : State := if v.code = .ok ∧ !iop.verify then
    let i := recordLoads s (imageOf b iop.source)
    isLoaded { s with images := s.images ++ [i] } i else s
  postEntry s iop.p (if iop.verify then 0x21 else 0x20) v.code (slice b 8 8) none ev

theorem imageEnd_eq {iop : ImageOp} (hop : s.imageOps[k]? = some iop)
    (hclean : anyPoison s (spanLinear iop.source iop.size) = false) :
    imageEnd s k iop.verify
      = verdictPosted { s with imageOps := s.imageOps.eraseIdx k } iop (spanRead s iop.source iop.size)
          (verdict { s with imageOps := s.imageOps.eraseIdx k } (!iop.verify) (spanRead s iop.source iop.size) iop.source) := by
  have hclean' : anyPoison { s with imageOps := s.imageOps.eraseIdx k } (spanLinear iop.source iop.size) = false := hclean
  unfold imageEnd
  simp only [hop, ne_eq, not_true_eq_false, if_false, hclean', Bool.false_eq_true]
  rfl

theorem logVerdict_frame (s : State) (b : Option Broken) :
    ∃ events next, logVerdict s b = { s with events := events, nextSeq := next } := by
  cases b with
  | some x => exact ⟨_, _, rfl⟩
  | none => exact ⟨_, _, rfl⟩

/-- The entry carries the verdict, and a load that passes adds the image (R125, R387). -/
theorem verdictPosted_spec {iop : ImageOp} {b : Bytes} {v : Verdict} (horigin : iop.p.origin = .session n)
    (hopen : sessGet s n = some x) :
    ∃ t, verdictPosted s iop b v = t ∧ Posted s t n iop.p.tag (if iop.verify then 0x21 else 0x20) v.code
      ∧ PostedResult t n (slice b 8 8) ∧ t.imageOps = s.imageOps ∧ t.mem = s.mem ∧ t.regs = s.regs
      ∧ t.images = (if v.code = .ok ∧ iop.verify = false then s.images ++ [recordLoads s (imageOf b iop.source)] else s.images) := by
  obtain ⟨events, next, hlog⟩ := logVerdict_frame s v.broken
  unfold verdictPosted
  rw [hlog]
  by_cases hload : v.code = .ok ∧ iop.verify = false
  · dsimp only
    rw [if_pos (by simpa using hload), if_pos hload]
    obtain ⟨t, ht, hposted, hresult, hframe⟩ := posted_postEntry (s := s) (u := isLoaded
      { s with events := events, nextSeq := next, images := s.images ++ [recordLoads s (imageOf b iop.source)] }
      (recordLoads s (imageOf b iop.source))) horigin hopen rfl
    exact ⟨t, ht, hposted, hresult, by rw [hframe]; rfl, by rw [hframe]; rfl, by rw [hframe]; rfl, by rw [hframe]; rfl⟩
  · dsimp only
    rw [if_neg (by simpa using hload), if_neg hload]
    obtain ⟨t, ht, hposted, hresult, hframe⟩ := posted_postEntry (s := s)
      (u := { s with events := events, nextSeq := next }) horigin hopen rfl
    exact ⟨t, ht, hposted, hresult, by rw [hframe], by rw [hframe], by rw [hframe], by rw [hframe]⟩

/-- Settles O16: a load and a verification end in `imageEnd`. -/
theorem imageCompletionPostsTheVerdict : Obligations.ImageCompletionPostsTheVerdict := by
  intro s k n x iop hop horigin hopen hclean c b v
  have hend := imageEnd_eq (s := { s with out := [] }) hop hclean
  have hexec : exec c s = .next (imageEnd { s with out := [] } k iop.verify) := by
    cases hverify : iop.verify with
    | true =>
      have hc : c = .imageVerifyComplete k := if_pos hverify
      rw [hc]
      rfl
    | false =>
      have hc : c = .imageLoadComplete k := if_neg (by simp [hverify])
      rw [hc]
      rfl
  obtain ⟨t, ht, hposted, hresult, hops, hmem, hregs, himages⟩ := verdictPosted_spec
    (s := { s with imageOps := s.imageOps.eraseIdx k, out := [] }) (b := b) (v := v) horigin hopen
  exact ⟨t, (hexec.trans (congrArg _ hend)).trans (congrArg _ ht), hposted, hresult, hops, hmem, hregs, himages⟩

end Sys2Proof.Machine

/-! Frames that end, and streams that close (R435, R437, R442). -/

namespace Sys2Proof.Machine

open Sys2Proof Sys2Proof.Terms

variable {s t u : State} {n k e : Nat} {x : Session} {p : Packet} {v y : Stream} {f : Frame}

/-! ## What the engines do between frames -/

theorem onlyMarks_trans (h : OnlyMarks s t) (h' : OnlyMarks t u) : OnlyMarks s u := by
  refine ⟨fun n v hv => ?_, by rw [h'.frame, h.frame]⟩
  obtain ⟨y, hy, hcount, hlen⟩ := h.streams n v hv
  obtain ⟨z, hz, hcount', hlen'⟩ := h'.streams n y hy
  exact ⟨z, hz, hcount'.trans hcount, hlen'.trans hlen⟩

theorem onlyMarks_foldl_codecPick (l : List Nat) : OnlyMarks s (l.foldl codecPick s) := by
  induction l generalizing s with
  | nil => exact onlyMarks_refl s
  | cons e l ih => exact onlyMarks_trans onlyMarks_codecPick ih

/-- Where no codec engine is fenced no stream moves (R445). -/
theorem moveStream_unfenced (h : regF s oVidFence 7 0 = 0) (n : Nat) : moveStream s n = s := by
  unfold moveStream
  split
  · rfl
  · next x _ =>
    have hopen : codecFenced s x.engine = false := by rw [codecFenced, h, Nat.zero_testBit]
    simp [hopen]

theorem onlyMarks_codecMoves (h : regF s oVidFence 7 0 = 0) : OnlyMarks s (codecMoves s) := by
  have hmoves (l : List Nat) : l.foldl moveStream s = s := by
    induction l with
    | nil => rfl
    | cons n l ih => rw [List.foldl_cons, moveStream_unfenced h, ih]
  unfold codecMoves
  rw [hmoves]
  exact onlyMarks_foldl_codecPick _

/-! ## A close -/

theorem streamGet_filter_other (h : t.streams = s.streams.filter fun y => y.num != n) (hk : k ≠ n) :
    streamGet t k = streamGet s k := by
  rw [streamGet, h, List.find?_filter, streamGet]
  congr 1
  funext y
  by_cases hy : y.num = k
  · simp [hy, hk]
  · simp [hy]

theorem streamGet_filter_same (h : t.streams = s.streams.filter fun y => y.num != n) : streamGet t n = none := by
  simp [streamGet, h, List.find?_eq_none]

/-- A close whose frames have all ended releases the stream and posts its entry (R442). -/
theorem exec_vidCloseComplete (hv : streamGet s v.num = some v) (hclosing : v.closing = some p) (hframes : v.frames = [])
    (horigin : p.origin = .session n) (hopen : sessGet s n = some x) :
    ∃ t, exec (.vidCloseComplete v.num) s = .next t ∧ Posted s t n p.tag 0x62 .ok ∧ streamGet t v.num = none
      ∧ (∀ k, k ≠ v.num → streamGet t k = streamGet s k)
      ∧ t = { s with out := [], sessions := t.sessions, streams := t.streams } := by
  have hv' : streamGet { s with out := [] } v.num = some v := hv
  have hexec : exec (.vidCloseComplete v.num) s = .next (postEntry { s with
      out := [], streams := s.streams.filter fun y => y.num != v.num } p 0x62 .ok []) := by
    change execVidCloseComplete v.num s = _
    simp only [execVidCloseComplete, hv', hclosing, hframes, Option.isSome_some, Bool.true_or, List.isEmpty_nil, Bool.and_self,
      if_true, closeStream]
  obtain ⟨t, ht, hposted, -, hframe⟩ := posted_postEntry (s := s) (op := 0x62) (code := .ok) (result := []) (ctx := none)
    (ev := 0xFFFFFFFF) (u := { s with out := [], streams := s.streams.filter fun y => y.num != v.num }) horigin hopen rfl
  have hstreams : t.streams = s.streams.filter fun y => y.num != v.num := by rw [hframe]
  exact ⟨t, hexec.trans (congrArg _ ht), hposted, streamGet_filter_same hstreams,
    fun _ hk => streamGet_filter_other hstreams hk, by rw [hframe]⟩

/-! ## The end of an encode frame -/

theorem length_bitstreamOf (history : List Bytes) (c : Coding) : (bitstreamOf v f history c).length ≤ f.bsSize := by
  have hfit (k : Nat) (b : Bytes) : (fit k b).length ≤ k := List.length_take_le _ _
  unfold bitstreamOf
  have := hfit (min (padding v ((unitAt v f history c.q c.skip).take f.bsSize).length)
    (f.bsSize - ((unitAt v f history c.q c.skip).take f.bsSize).length))
    (Config.codecFiller v.codec (padding v ((unitAt v f history c.q c.skip).take f.bsSize).length))
  have htake : ((unitAt v f history c.q c.skip).take f.bsSize).length ≤ f.bsSize := List.length_take_le _ _
  rw [List.length_append]
  omega

/-- A codec engine's write of bytes: those of the buffer change, or a refusal is logged. -/
theorem codecWrite_storeBytes {a : Nat} {b : Bytes} :
    ∃ mem poison soft events next, codecWrite s e a b.length (fun s => storeBytes s a b)
        = { s with mem := mem, poison := poison, soft := soft, events := events, nextSeq := next }
      ∧ ∀ c, (∀ i < b.length, linearOf (a + i) ≠ c) → sget memDefault mem c = byteAt s c := by
  unfold codecWrite
  split
  · exact ⟨s.mem, s.poison, s.soft, s.events, s.nextSeq, rfl, fun _ _ => rfl⟩
  · split
    · obtain ⟨-, hother, -, -, hframe⟩ := storeBytes_spec s a b
      exact ⟨_, _, _, s.events, s.nextSeq, hframe, fun c hc => hother c hc⟩
    · exact ⟨s.mem, s.poison, s.soft, _, _, rfl, fun _ _ => rfl⟩

/-- The counts of late and dropped frames (R446). -/
theorem countFlags_frame (s : State) (late dropped : Bool) :
    ∃ regs, countFlags s late dropped = { s with regs := regs }
      ∧ regF (countFlags s late dropped) oVidFence 7 0 = regF s oVidFence 7 0 := by
  have hcount (u : State) (hi lo : Nat) : regGet (regCount u oVidEvents hi lo 1) oVidFence = regGet u oVidFence :=
    regGet_regCount_other u hi lo 1 (by decide)
  cases late <;> cases dropped
  · exact ⟨s.regs, rfl, rfl⟩
  · exact ⟨_, rfl, congrArg (getF · 7 0) (hcount s 15 0)⟩
  · exact ⟨_, rfl, congrArg (getF · 7 0) (hcount s 31 16)⟩
  · exact ⟨_, rfl, congrArg (getF · 7 0) ((hcount _ 15 0).trans (hcount s 31 16))⟩

/-- A frame's entry is posted (R437). -/
theorem postFrame_ok {o : FrameOut} (horigin : f.p.origin = .session n) (hopen : sessGet s n = some x)
    (hs : u.sessions = s.sessions) :
    ∃ t, postFrame u f .ok o = t ∧ Posted s t n f.p.tag 0x61 .ok ∧ t = { u with sessions := t.sessions, regs := t.regs }
      ∧ regF t oVidFence 7 0 = regF u oVidFence 7 0 := by
  unfold postFrame
  obtain ⟨r, hr, hposted, -, hframe⟩ := posted_postEntry (op := 0x61) (code := .ok) (ctx := none) (ev := 0xFFFFFFFF)
    (result := frameResult u f { o with late := isLate u f }) horigin hopen hs
  rw [hr]
  obtain ⟨regs, hcount, hfence⟩ := countFlags_frame r (isLate u f) f.dropped
  rw [hcount] at hfence ⊢
  refine ⟨_, rfl, ?_, ?_, ?_⟩
  · obtain ⟨x0, y0, e0, hx0, hy0, hrest⟩ := hposted
    exact ⟨x0, y0, e0, hx0, hy0, hrest⟩
  · rw [hframe]
  · rw [hfence, hframe]
    rfl

/-- A frame's bitstream is written, its stream comes to the next frame, and its entry is posted (R435, R437). -/
theorem postFrame_spec {b : Bytes} {g : Stream → Stream} {o : FrameOut} (hb : b.length ≤ f.bsSize)
    (hnum : ∀ z, (g z).num = z.num) (hframes : ∀ z, (g z).frames = z.frames.drop 1) (hv : streamGet s v.num = some v)
    (horigin : f.p.origin = .session n) (hopen : sessGet s n = some x) (hlinear : f.bsBase + f.bsSize ≤ 0x10000000000) :
    ∃ t y, postFrame (streamMap (codecWrite s v.engine f.bsBase b.length fun s => storeBytes s f.bsBase b) v.num g) f .ok o = t
      ∧ Posted s t n f.p.tag 0x61 .ok ∧ streamGet t v.num = some y ∧ y.frames = v.frames.drop 1
      ∧ (∀ a, a < f.bsBase ∨ f.bsBase + f.bsSize ≤ a → byteAt t a = byteAt s a)
      ∧ regF t oVidFence 7 0 = regF s oVidFence 7 0 := by
  obtain ⟨mem, poison, soft, events, next, hwrite, hbytes⟩ := codecWrite_storeBytes (s := s) (e := v.engine) (a := f.bsBase) (b := b)
  rw [hwrite]
  have hy := streamGet_streamMap_same (s := { s with mem := mem, poison := poison, soft := soft, events := events, nextSeq := next })
    hnum hv
  obtain ⟨t, ht, hposted, hframe, hfence⟩ := postFrame_ok (o := o) (u := streamMap { s with
    mem := mem, poison := poison, soft := soft, events := events, nextSeq := next } v.num g) horigin hopen rfl
  refine ⟨t, g v, ht, hposted, ?_, hframes v, fun a ha => ?_, hfence⟩
  · rw [hframe]
    exact hy
  · rw [hframe]
    refine hbytes a fun i hi he => ?_
    rw [linearOf_linear (by omega)] at he
    omega

theorem encodeDone_spec (hstats : v.stats = false) (hv : streamGet s v.num = some v) (horigin : f.p.origin = .session n)
    (hopen : sessGet s n = some x) (hlinear : f.bsBase + f.bsSize ≤ 0x10000000000) :
    ∃ t y, encodeDone s v f = t ∧ Posted s t n f.p.tag 0x61 .ok ∧ streamGet t v.num = some y ∧ y.frames = v.frames.drop 1
      ∧ (∀ a, a < f.bsBase ∨ f.bsBase + f.bsSize ≤ a → byteAt t a = byteAt s a)
      ∧ regF t oVidFence 7 0 = regF s oVidFence 7 0 := by
  have hmap : ¬(v.stats = true ∧ (!f.noStats) = true) := by simp [hstats]
  unfold encodeDone
  dsimp only
  rw [if_neg hmap]
  exact postFrame_spec (length_bitstreamOf _ _) (fun _ => rfl) (fun _ => rfl) hv horigin hopen hlinear

/-- A clean encode frame ends without an error (R441). -/
theorem frameDone_encode {r : CodecReport} (hencode : v.encode = true) (hmem : r.mem = []) (hpoison : s.poison = [])
    (hsoft : s.soft = []) : frameDone s v f r = encodeDone { s with running := sdel s.running r.engine } v f := by
  have hinput : readInput { s with running := sdel s.running r.engine } v f r.mem = { s with running := sdel s.running r.engine } := by
    rw [readInput, if_pos]
    simp [hmem, hsoft]
  have hkind (running : List (Nat × Nat)) : errorKind { s with running := running } v f r = 0 := by
    simp [errorKind, inputBad, hpoison, hencode]
  simp only [frameDone, hinput, hkind, hencode, if_true]

/-- A tile boundary inside a frame (R430). -/
theorem codecYield_spec (hv : streamGet s k = some v) :
    ∃ t y, codecYield s e = t ∧ t.mem = s.mem ∧ t.sessions = s.sessions ∧ streamGet t k = some y
      ∧ y.frames.length = v.frames.length := by
  unfold codecYield
  split
  · next x _ _ _ =>
    split
    · exact ⟨_, v, rfl, rfl, rfl, hv, rfl⟩
    · obtain ⟨y, hy, -, hlen⟩ := (onlyMarks_headMap (s := s) (n := x.num) fun f => { f with preempted := true }).streams k v hv
      have hpick := onlyMarks_codecPick (e := e) (s := { regCount (headMap s x.num fun f => { f with preempted := true }) oVidEvents2 15 0 1
        with running := sdel (regCount (headMap s x.num fun f => { f with preempted := true }) oVidEvents2 15 0 1).running e })
      obtain ⟨z, hz, -, hlen'⟩ := hpick.streams k y hy
      refine ⟨_, z, rfl, ?_, ?_, hz, hlen'.trans hlen⟩
      · rw [hpick.frame]
        rfl
      · rw [hpick.frame]
        rfl
  · exact ⟨_, v, rfl, rfl, rfl, hv, rfl⟩

/-- Settles O24: what the codecs do between frames only marks first frames, where no engine is fenced. -/
theorem framesEndAndStreamsClose : Obligations.FramesEndAndStreamsClose := by
  refine ⟨fun s n x v f r _ hrun hv hf horigin hopen hfence => ?_, fun s n x v p hv hclosing hframes horigin hopen =>
    exec_vidCloseComplete hv hclosing hframes horigin hopen⟩
  have hbound : (sfind ({ s with out := [] } : State).running r.engine).bind (streamGet { s with out := [] }) = some v := by
    change (sfind s.running r.engine).bind (streamGet s) = some v
    rw [hrun]
    exact hv
  have hexec : exec (.codecTileBoundary r) s
      = .next (if r.frameDone then codecMoves (frameDone { s with out := [] } v f r) else codecYield { s with out := [] } r.engine) := by
    change execCodecTileBoundary r s = _
    simp only [execCodecTileBoundary, hbound, hf]
  refine ⟨fun hdone hencode hstats hmem hpoison hsoft hlinear => ?_, fun hdone => ?_⟩
  · obtain ⟨t, y, ht, hposted, hy, hframes, hbytes, hfence'⟩ := encodeDone_spec (f := f)
      (s := { s with running := sdel s.running r.engine, out := [] }) hstats hv horigin hopen hlinear
    have hframe : frameDone { s with out := [] } v f r = t := (frameDone_encode (s := { s with out := [] }) hencode hmem hpoison hsoft).trans ht
    obtain ⟨u, hu, hmarks⟩ : ∃ u, codecMoves t = u ∧ OnlyMarks t u := ⟨_, rfl, onlyMarks_codecMoves (hfence'.trans hfence)⟩
    obtain ⟨z, hz, -, hlen⟩ := hmarks.streams v.num y hy
    rw [hdone, if_pos rfl, hframe, hu] at hexec
    refine ⟨u, z, hexec, ?_, hz, hlen.trans (congrArg List.length hframes), fun a ha => ?_⟩
    · obtain ⟨x0, y0, e0, hx0, hy0, hrest⟩ := hposted
      refine ⟨x0, y0, e0, hx0, ?_, hrest⟩
      rw [hmarks.frame]
      exact hy0
    · rw [hmarks.frame]
      exact hbytes a ha
  · obtain ⟨t, y, ht, hmem, hsess, hy, hlen⟩ := codecYield_spec (s := { s with out := [] }) (e := r.engine) hv
    rw [hdone, if_neg Bool.false_ne_true, ht] at hexec
    exact ⟨t, y, hexec, hmem, hsess, hy, hlen⟩

end Sys2Proof.Machine

/-! Staging and commit (R501, R502, R509, R510). -/

namespace Sys2Proof.Machine

open Sys2Proof Sys2Proof.Terms

variable {s : State} {f : Flash} {n v : Nat} {x : Session} {p : Packet} {b : Bytes} {config : Bool}

/-! ## The boot record -/

/-- No record in force is at the last GENERATION. -/
def GenRoom (f : Flash) : Prop := ∀ r, recordInForce f = some r → r.gen ≠ 0xFFFFFFFF

/-- A GENERATION below the last one rises. -/
theorem gen_lt_succ {g : BitVec 32} (h : g ≠ 0xFFFFFFFF) : g.toNat < (g + 1).toNat := by
  have hne : g.toNat ≠ 0xFFFFFFFF := fun he => h (BitVec.eq_of_toNat_eq he)
  have hlt := g.isLt
  have hone : (1 : BitVec 32).toNat = 1 := rfl
  rw [BitVec.toNat_add, hone]
  omega

/-- The record that an update writes. -/
def nextRecord (f : Flash) (change : BootRec → BootRec) : BootRec :=
  { change ((recordInForce f).getD {}) with valid := true, gen := ((recordInForce f).getD {}).gen + 1 }

theorem updateRecord_of_first {change : BootRec → BootRec} (h : copyInForce f = some false) :
    updateRecord f change = { f with rec1 := nextRecord f change } := if_pos h

theorem updateRecord_of_other {change : BootRec → BootRec} (h : copyInForce f ≠ some false) :
    updateRecord f change = { f with rec0 := nextRecord f change } := if_neg h

/-- Copy 0 is in force only when it is valid. -/
theorem valid_of_first (h : copyInForce f = some false) : f.rec0.valid = true := by
  unfold copyInForce at h
  split at h <;> simp_all

/-- Copy 1 is in force where it is valid and copy 0 is not in force. -/
theorem second_of_valid (h : copyInForce f ≠ some false) (hv : f.rec1.valid = true) : copyInForce f = some true := by
  unfold copyInForce at h ⊢
  split at h <;> simp_all

/-- A valid copy of the higher GENERATION is the record in force. -/
theorem recordInForce_second {r : BootRec} (h0 : f.rec0.valid = true) (hv : r.valid = true) (hlt : f.rec0.gen.toNat < r.gen.toNat) :
    recordInForce { f with rec1 := r } = some r := by
  simp [recordInForce, copyInForce, h0, hv, hlt]

theorem recordInForce_first {r : BootRec} (hv : r.valid = true) (hlt : f.rec1.valid = true → f.rec1.gen.toNat < r.gen.toNat) :
    recordInForce { f with rec0 := r } = some r := by
  cases h1 : f.rec1.valid
  · simp [recordInForce, copyInForce, h1, hv]
  · simp [recordInForce, copyInForce, h1, hv, (hlt h1).le]

/-- An updated record is the one in force (R502). -/
theorem recordInForce_updateRecord (h : GenRoom f) (change : BootRec → BootRec) :
    recordInForce (updateRecord f change) = some (nextRecord f change) := by
  by_cases hcopy : copyInForce f = some false
  · have hrec : recordInForce f = some f.rec0 := by simp [recordInForce, hcopy]
    rw [updateRecord_of_first hcopy]
    refine recordInForce_second (valid_of_first hcopy) rfl ?_
    simpa only [nextRecord, hrec, Option.getD_some] using gen_lt_succ (h f.rec0 hrec)
  · rw [updateRecord_of_other hcopy]
    refine recordInForce_first rfl fun hv => ?_
    have hrec : recordInForce f = some f.rec1 := by simp [recordInForce, second_of_valid hcopy hv]
    simpa only [nextRecord, hrec, Option.getD_some] using gen_lt_succ (h f.rec1 hrec)

/-- An update leaves everything but the records. -/
theorem updateRecord_frame (f : Flash) (change : BootRec → BootRec) :
    updateRecord f change = { f with rec0 := (updateRecord f change).rec0, rec1 := (updateRecord f change).rec1 } := by
  unfold updateRecord
  split <;> rfl

/-! ## Staging -/

theorem nameRunning_frame (f : Flash) (config : Bool) :
    nameRunning f config = { f with rec0 := (nameRunning f config).rec0, rec1 := (nameRunning f config).rec1 } := by
  unfold nameRunning
  split
  · exact updateRecord_frame f _
  · rfl

theorem recordNames_updateRecord (h : GenRoom f) (change : BootRec → BootRec) :
    recordNames (updateRecord f change) config
      = if config then (nextRecord f change).config1 == !f.inEffect1 else (nextRecord f change).slotB == !f.runB := by
  unfold recordNames
  rw [recordInForce_updateRecord h, updateRecord_frame]
  rfl

/-- The record no longer names what is about to be written (R509). -/
theorem recordNames_nameRunning (h : GenRoom f) : recordNames (nameRunning f config) config = false := by
  unfold nameRunning
  split
  · rw [recordNames_updateRecord h]
    cases config <;> simp [nextRecord]
  · next hno => exact Bool.eq_false_iff.mpr hno

/-- The flash once an image has been staged (R509). -/
def staged (f : Flash) (config : Bool) (b : Bytes) : Flash := putStaged (putTarget (nameRunning f config) config b) config b

/-- What a staging leaves of a flash, and what it writes. -/
structure StagedAs (f g : Flash) (config : Bool) (b : Bytes) : Prop where
  kept     : stagedFor g config = some (stagedVersion config b, b)
  target   : (if config then (if f.inEffect1 then g.config0 else g.config1) else (if f.runB then g.fwA else g.fwB)) = b
  firmware : if f.runB then g.fwB = f.fwB else g.fwA = f.fwA
  settings : if f.inEffect1 then g.config1 = f.config1 else g.config0 = f.config0
  ended    : g.stage = f.stage

/-- The target of firmware is the slot that does not run. -/
theorem putTarget_firmware : putTarget f false b = if f.runB then { f with fwA := b } else { f with fwB := b } := by
  rcases f with ⟨_, _, _, _, _, _, _, _ | _⟩ <;> rfl

/-- The target of a configuration is the copy that is not in effect. -/
theorem putTarget_settings : putTarget f true b = if f.inEffect1 then { f with config0 := b } else { f with config1 := b } := by
  rcases f with ⟨_, _, _, _, _, _, _, _, _ | _⟩ <;> rfl

/-- The target is written, and nothing that runs is. -/
theorem stagedAs_put (config : Bool) (b : Bytes) : StagedAs f (putStaged (putTarget f config b) config b) config b := by
  cases config
  · cases hb : f.runB <;> constructor <;> simp [putStaged, putTarget_firmware, stagedFor, hb]
  · cases hb : f.inEffect1 <;> constructor <;> simp [putStaged, putTarget_settings, stagedFor, hb]

theorem recordNames_put : recordNames (putStaged (putTarget f config b) config b) config = recordNames f config := by
  cases config
  · cases hb : f.runB <;> simp [putStaged, putTarget_firmware, recordNames, recordInForce, copyInForce, hb]
  · cases hb : f.inEffect1 <;> simp [putStaged, putTarget_settings, recordNames, recordInForce, copyInForce, hb]

theorem recordNames_staged (h : GenRoom f) : recordNames (staged f config b) config = false :=
  recordNames_put.trans (recordNames_nameRunning h)

theorem stagedAs_staged (config : Bool) (b : Bytes) : StagedAs f (staged f config b) config b := by
  have hput := stagedAs_put (f := nameRunning f config) config b
  have kept_field {α : Type} (get : Flash → α) (h : get { f with
      rec0 := (nameRunning f config).rec0, rec1 := (nameRunning f config).rec1 } = get f) : get (nameRunning f config) = get f :=
    (congrArg get (nameRunning_frame f config)).trans h
  have hrun := kept_field Flash.runB rfl
  have heffect := kept_field Flash.inEffect1 rfl
  obtain ⟨kept, target, firmware, settings, ended⟩ := hput
  rw [hrun, heffect] at target
  rw [hrun, kept_field Flash.fwA rfl, kept_field Flash.fwB rfl] at firmware
  rw [heffect, kept_field Flash.config0 rfl, kept_field Flash.config1 rfl] at settings
  exact ⟨kept, target, firmware, settings, ended.trans (kept_field Flash.stage rfl)⟩

/-- A range that is implemented and not poisoned is read (R509). -/
theorem stageSource_ok (himpl : ∀ i < field p.params 16 8, implemented s (field p.params 8 8 + i) = true)
    (hclean : anyPoison s (spanLinear (field p.params 8 8) (field p.params 16 8)) = false) :
    stageSource s p = (.ok, spanRead s (field p.params 8 8) (field p.params 16 8)) := by
  have hall : (List.range (field p.params 16 8)).all (fun i => implemented s (field p.params 8 8 + i)) = true := by
    rw [List.all_eq_true]
    exact fun i hi => himpl i (List.mem_range.mp hi)
  unfold stageSource
  simp only [hall, hclean, Bool.not_true, Bool.false_eq_true, if_false]

/-- A commit's record names what was staged (R510). -/
theorem recordNames_commitRecord (h : GenRoom f) : recordNames (commitRecord f p b) (field p.params 0 1 == 1) = true := by
  unfold commitRecord
  split <;> rename_i hconfig <;> rw [recordNames_updateRecord h]
  · simp [nextRecord, hconfig]
  · simp [nextRecord, hconfig]

/-- The flash at the end of a commit (R510). -/
def committed (s : State) (p : Packet) : Flash :=
  let code := (commitCheck s p).1
  let f := if code = .ok then commitRecord s.flash p (commitCheck s p).2 else s.flash
  { f with
    commit := none
    fwPending := f.fwPending || (decide (code = .ok) && !(field p.params 0 1 == 1))
    configPending := f.configPending || (decide (code = .ok) && field p.params 0 1 == 1)
    restartAt := if (field p.params 1 1).testBit 1 then some (s.clock.wall + 100000000) else f.restartAt }

theorem exec_fwCommitComplete (h : s.flash.commit = some p) :
    exec .fwCommitComplete s = .next (postEntry { s with out := [], flash := committed s p } p 0x81 (commitCheck s p).1 []) := by
  have hexec : exec .fwCommitComplete s = execFwCommitComplete s := rfl
  rw [hexec]
  unfold execFwCommitComplete
  simp only [h]
  rfl

/-- The verdict on a staged image, once the staging is over. -/
def stageVerdict (s : State) (config : Bool) (b : Bytes) : Code :=
  stageCheck { s with flash := { s.flash with stage := none } } config b

/-- The state at the end of a staging. -/
def atStageEnd (s : State) (config : Bool) (b : Bytes) : State :=
  let ended := { s.flash with stage := none }
  { s with out := [], flash := if stageVerdict s config b = .ok then staged ended config b else ended }

theorem atStageEnd_frame {t : State} (h : t = { atStageEnd s config b with sessions := t.sessions }) :
    t = { s with out := [], sessions := t.sessions, flash := t.flash } := by
  have hflash := congrArg State.flash h
  rw [hflash]
  exact h

/-- The result of a staging: the version and the target. -/
def stageResult (s : State) (config : Bool) (b : Bytes) : Bytes :=
  if stageVerdict s config b = .ok then
    toLE (stagedVersion config b) 4 ++ [BitVec.ofNat 8 (if config then !s.flash.inEffect1 else !s.flash.runB).toNat]
  else []

theorem exec_fwStageComplete (h : s.flash.stage = some p)
    (himpl : ∀ i < field p.params 16 8, implemented s (field p.params 8 8 + i) = true)
    (hclean : anyPoison s (spanLinear (field p.params 8 8) (field p.params 16 8)) = false)
    (hb : spanRead s (field p.params 8 8) (field p.params 16 8) = b) (hconfig : (field p.params 0 1 == 1) = config) :
    exec .fwStageComplete s
      = .next (postEntry (atStageEnd s config b) p 0x80 (stageVerdict s config b) (stageResult s config b)) := by
  have hsource : stageSource { s with out := [], flash := { s.flash with stage := none } } p = (.ok, b) := by
    rw [← hb]
    exact stageSource_ok himpl hclean
  have hexec : exec .fwStageComplete s = execFwStageComplete s := rfl
  rw [hexec]
  unfold execFwStageComplete
  simp only [h, hconfig]
  rw [hsource]
  by_cases hok : stageVerdict s config b = .ok
  · exact (if_neg (not_not.mpr hok)).trans (by simp only [atStageEnd, stageResult, hok, if_true, staged])
  · exact (if_pos hok).trans (by simp only [atStageEnd, stageResult, hok, if_false]; rfl)

/-- Settles O26: the verdict decides what the end of a staging writes, and an updated record has the highest GENERATION. -/
theorem stagingAndCommitEnd : Obligations.StagingAndCommitEnd := by
  unfold Obligations.StagingAndCommitEnd
  constructor
  · intro s n x p hstage horigin hopen hroom himpl hclean config b code
    have hexec := exec_fwStageComplete hstage himpl hclean rfl rfl
    obtain ⟨t, hpost, hposted, -, hframe⟩ := posted_postEntry (s := s) (u := atStageEnd s config b) (op := 0x80) (code := code)
      (result := stageResult s config b) (ctx := none) (ev := 0xFFFFFFFF) horigin hopen rfl
    refine ⟨t, hexec.trans (congrArg _ hpost), hposted, ?_⟩
    have hroom' : GenRoom { s.flash with stage := none } := hroom
    have hflash : t.flash = if code = .ok then staged { s.flash with stage := none } config b else { s.flash with stage := none } :=
      congrArg State.flash hframe
    have hwritten := stagedAs_staged (f := { s.flash with stage := none }) config b
    refine ⟨?_, atStageEnd_frame hframe, fun hok => ?_, fun hno => by rw [hflash, if_neg hno]⟩
    · rw [hflash]
      split
      · exact hwritten.ended
      · rfl
    · rw [hflash, if_pos hok]
      exact ⟨hwritten.kept, recordNames_staged hroom', hwritten.target, hwritten.firmware, hwritten.settings⟩
  · intro s n x p v b hcommit horigin hopen hroom hstaged code
    have hcheck : commitCheck s p = (code, b) := by
      unfold commitCheck
      simp only [hstaged]
      rfl
    have hexec := exec_fwCommitComplete hcommit
    obtain ⟨t, hpost, hposted, -, hframe⟩ := posted_postEntry (s := s) (u := { s with out := [], flash := committed s p })
      (op := 0x81) (code := code) (result := []) (ctx := none) (ev := 0xFFFFFFFF) horigin hopen rfl
    rw [hcheck] at hexec
    refine ⟨t, hexec.trans (congrArg _ hpost), hposted, ?_⟩
    have hflash : t.flash = committed s p := by rw [hframe]
    refine ⟨by rw [hflash]; rfl, fun hok => ?_, fun hrestart => ?_, by rw [hframe]⟩
    · rw [hflash]
      unfold committed
      rw [hcheck]
      simp only [hok, if_true]
      exact recordNames_commitRecord hroom
    · rw [hflash]
      exact if_pos hrestart

end Sys2Proof.Machine

/-! The end of a test (R517): DIAG_LAST packs two counts of 16 bits. -/

namespace Sys2Proof.Machine

open Sys2Proof Sys2Proof.Terms

variable {s : State}

/-- The targets that a test reports as failed. -/
def failures (d : DiagRun) (results : List DiagTarget) : Nat := (d.targets.filter fun i => diagFailed d (diagResult results i)).length

theorem postEntry_regs (u : State) (p : Packet) (op : Byte) (code : Code) (result : Bytes) :
    (postEntry u p op code result).regs = u.regs := by
  unfold postEntry
  split
  · unfold postNow sessMap
    dsimp only
    split <;> rfl
  · rfl

theorem regGet_congr {t u : State} (h : t.regs = u.regs) (a : Nat) : regGet t a = regGet u a := by rw [regGet, regGet, h]

/-- DIAG_LAST is written last of all (R517, R525). -/
theorem diagLast_diagTestComplete {d : DiagRun} {t : State} {results : List DiagTarget} {us : Nat} (hc : Canonical s)
    (hd : s.diag = some d) (hstarted : d.started = true) (hexec : exec (.diagTestComplete results us) s = .next t) :
    regGet t oDiagLast = BitVec.ofNat 32 (d.targets.length * 2 ^ 16 + failures d results) := by
  have h0 : Keeps s { s with out := [], diag := some d } := keeps_of_tables keeps_refl rfl
  have h1 := keeps_diagRecords (d := d) (results := results) (keeps_diagLeaves (d := d)
    (keeps_foldl (l := d.targets) (f := diagTarget d results) (fun _ _ hs => keeps_diagTarget hs) h0))
  have h2 := (keeps_regSet (a := oDiagStatus) (w := BitVec.ofNat 32 (d.test * 2 ^ 16 + 100)) h1).canonical hc
  have hdef : exec (.diagTestComplete results us) s = execDiagTestComplete results us s := rfl
  rw [hdef] at hexec
  unfold execDiagTestComplete at hexec
  simp only [hd, hstarted, Bool.not_true, Bool.false_eq_true, if_false] at hexec
  injection hexec with hexec
  have h3 := regGet_regSet_same h2.regs oDiagLast (BitVec.ofNat 32 (d.targets.length * 2 ^ 16 + failures d results))
  rw [← hexec, regGet_congr (postEntry_regs _ _ _ _ _)]
  exact (regGet_congr rfl _).trans h3

/-- A test of quadrants whose targets are 65,536 in number. -/
def manyTargets : DiagRun :=
  { test := 7, port := 1, first := 0, count := 0, iters := 0, base := 0, size := 0, mode := 0, pattern := 0, started := true
    p := { origin := .session 1 }, targets := List.replicate 65536 0 }

/-- A device that runs it. -/
def testsMany : State := { sessions := [(1, ownerSession)], diag := some manyTargets }

theorem testsMany_canonical : Canonical testsMany := ⟨by decide, by decide, by decide, by decide, by decide⟩

/-- The outcome that fails target 0, and so each of them. -/
def allBad : List DiagTarget := [{ target := 0, bad := true }]

theorem failures_manyTargets : failures manyTargets allBad = 65536 := by
  have hbad : diagFailed manyTargets (diagResult allBad 0) = true := rfl
  have htargets : manyTargets.targets = List.replicate 65536 0 := rfl
  rw [failures, htargets, List.filter_replicate, if_pos hbad, List.length_replicate]

/-- Refutes O27: where 65,536 targets fail, their number carries into the upper half of DIAG_LAST, so that it reads 1 where
the number of targets, modulo 65,536, is 0. -/
theorem not_attestationAndTestsEnd : ¬Obligations.AttestationAndTestsEnd := by
  intro h
  obtain ⟨-, htests⟩ := h
  obtain ⟨t, first, hexec, -, -, -, -, -, -, -, hlast, -⟩ := htests testsMany 1 ownerSession manyTargets allBad 0
    testsMany_canonical rfl rfl (by decide) (by decide) rfl rfl (fun h6 => absurd h6 (by decide))
  have hlen : manyTargets.targets.length = 65536 := List.length_replicate
  have hword := diagLast_diagTestComplete testsMany_canonical rfl rfl hexec
  rw [failures_manyTargets, hlen] at hword
  rw [regF, hword, hlen] at hlast
  exact absurd hlast (by decide)

end Sys2Proof.Machine

/-! Joining and leaving a group (R295, R296, R418, R419, R423). -/

namespace Sys2Proof.Machine

open Sys2Proof Sys2Proof.Terms

variable {s u : State} {n k j : Nat} {x : Session} {p : Packet} {b : Bytes} {g : Group}

/-! ## Tables -/

/-- A new value whose measure is that of the old one leaves the table's sum. -/
theorem sum_sput {α : Type} {f : α → Nat} {l : List (Nat × α)} {v w : α} (h : keysRise l = true) (hfind : sfind l k = some v)
    (hf : f w = f v) : ((sput l k w).map fun y => f y.2).sum = (l.map fun y => f y.2).sum := by
  induction l with
  | nil => cases hfind
  | cons y l ih =>
    obtain ⟨a, v'⟩ := y
    obtain ⟨habove, hrise⟩ := keysRise_cons.mp h
    rw [sfind] at hfind
    by_cases hak : a = k
    · rw [if_pos hak] at hfind
      injection hfind with hfind
      subst hfind
      simp only [sput, if_pos hak, List.map_cons, List.sum_cons, hf]
    · rw [if_neg hak] at hfind
      have hlt : a < k := habove (k, v) (mem_of_sfind hfind)
      simp only [sput, if_neg hak, if_neg hlt.le.not_gt, List.map_cons, List.sum_cons, ih hrise hfind]

/-- Entries left out read as the default. -/
theorem sfind_filter_key {α : Type} (l : List (Nat × α)) (keep : Nat → Bool) (a : Nat) :
    sfind (l.filter fun y => keep y.1) a = if keep a then sfind l a else none := by
  induction l with
  | nil => simp [sfind]
  | cons y l ih =>
    obtain ⟨k, v⟩ := y
    rw [List.filter_cons, sfind]
    by_cases hk : k = a
    · subst hk
      cases hkeep : keep k
      · simp only [hkeep, Bool.false_eq_true, if_false, ih]
      · simp only [if_true, sfind]
    · cases hkeep : keep k
      · simp only [Bool.false_eq_true, if_false, ih, if_neg hk]
      · simp only [if_true, sfind, ih, if_neg hk]

theorem byteAt_zeroRange (s : State) (a m c : Nat) :
    byteAt (zeroRange s a m) c = if a ≤ c ∧ c < a + m then 0 else byteAt s c := by
  simp only [byteAt, zeroRange, sget_eq_sfind, sfind_filter_key (keep := fun c => !decide (a ≤ c ∧ c < a + m))]
  by_cases h : a ≤ c ∧ c < a + m
  · simp only [h, and_self, decide_true, Bool.not_true, Bool.false_eq_true, if_false, if_true]
    rfl
  · simp only [h, decide_false, Bool.not_false, if_true, if_false]

theorem granted_taken (hc : Canonical s) (h : sessGet s n = some x) : granted (taken s n p) = granted s := by
  have hopen : sessGet ({ s with out := [] } : State) n = some x := h
  have hfind : sfind s.sessions n = some x := (Option.filter_eq_some_iff.mp h).1
  rw [taken, takeRingAck, sessMap_some hopen]
  exact congrArg (· + _) (sum_sput (f := Session.window) hc.sessions hfind rfl)

/-! ## GROUP_JOIN -/

/-- The own and the other half of the traffic with a member. -/
def joinHalf (b : Bytes) (u : State) (j window credits : Nat) : Session :=
  peerHalf u (field b (memberOff (field b 21 1) + 2) 1) (memberAddr b j) (field b (memberOff j + 4) 2) window credits

theorem openPeer_frame (b : Bytes) (s : State) (j : Nat) :
    openPeer b s j = { s with sessions := (openPeer b s j).sessions, nodes := (openPeer b s j).nodes } := rfl

theorem foldl_openPeer_frame (b : Bytes) (js : List Nat) (s : State) :
    js.foldl (openPeer b) s = { s with sessions := (js.foldl (openPeer b) s).sessions, nodes := (js.foldl (openPeer b) s).nodes } := by
  induction js generalizing s with
  | nil => rfl
  | cons j js ih =>
    rw [List.foldl_cons, ih, openPeer_frame]

theorem sessGet_openPeer_other (hown : k ≠ 4095 - j) (hother : k ≠ 4096 + j) : sessGet (openPeer b s j) k = sessGet s k := by
  exact (sessGet_sessSet_other _ _ hother).trans (sessGet_sessSet_other _ _ hown)

theorem sessGet_openPeer_same : ∃ y, sessGet (openPeer b s j) (4095 - j) = some y ∧ y.cls = .peer ∧ y.window = field b 72 4
    ∧ y.expect = 0 ∧ y.nextPsn = 0 :=
  ⟨joinHalf b s j (field b 72 4) 0,
    (sessGet_sessSet_other _ _ (by omega)).trans ((sessGet_sessSet_same _ _ _).trans (if_neg Bool.false_ne_true)), rfl, rfl, rfl, rfl⟩

theorem sessGet_foldl_openPeer_other {js : List Nat} (hown : ∀ j ∈ js, k ≠ 4095 - j) (hother : ∀ j ∈ js, k ≠ 4096 + j) :
    sessGet (js.foldl (openPeer b) s) k = sessGet s k := by
  induction js generalizing s with
  | nil => rfl
  | cons j js ih =>
    rw [List.foldl_cons, ih (fun j hj => hown j (.tail _ hj)) fun j hj => hother j (.tail _ hj)]
    exact sessGet_openPeer_other (hown j (.head _)) (hother j (.head _))

/-- Each other member has its PEER session. -/
theorem sessGet_foldl_openPeer {js : List Nat} (hsmall : ∀ j ∈ js, j < 4095) (hj : j ∈ js) :
    ∃ y, sessGet (js.foldl (openPeer b) s) (4095 - j) = some y ∧ y.cls = .peer ∧ y.window = field b 72 4
      ∧ y.expect = 0 ∧ y.nextPsn = 0 := by
  induction js generalizing s with
  | nil => cases hj
  | cons i js ih =>
    rw [List.foldl_cons]
    by_cases hmem : j ∈ js
    · exact ih (fun j hj => hsmall j (.tail _ hj)) hmem
    · obtain rfl : j = i := by simpa [hmem] using hj
      have hjs := hsmall j (.head _)
      rw [sessGet_foldl_openPeer_other]
      · exact sessGet_openPeer_same
      · intro i hi heq
        have his := hsmall i (.tail _ hi)
        exact hmem (by rwa [show j = i by omega])
      · intro i _
        omega

/-- The state of a device that has joined, before its reply. -/
def joinedState (s : State) (p : Packet) : State :=
  let b := p.params
  zeroRange (zeroRange ((otherMembers b).foldl (openPeer b)
    { s with group := some (groupOf b p), node := some (BitVec.ofNat 16 (field b (memberOff (field b 21 1)) 2)) })
    (field b 64 8) 4096) (field b 32 8) 32768

theorem cmdGroupJoin_accepted {w : Who} (hgroup : s.group = none) (hrecord : recordOk p.params = true)
    (htime : groupTimeOk s p.params = true) (hperiod : 65536 * 65536 ≤ recordPeriod p.params * field p.params 18 1)
    (hepoch : s.clock.dt + usDt 1000 ≤ recordEpoch p.params) (hslips : slipRingOk s p.params = true)
    (htable : memberTableOk s p.params = true)
    (hfree : ∀ j ∈ otherMembers p.params, sfind s.sessions (4095 - j) = none
      ∧ s.reservations.all (fun r => r.session != 4095 - j) = true)
    (hcredit : (otherMembers p.params).length * field p.params 72 4 ≤ ungranted s) (hring : ringFree s p = true) :
    cmdGroupJoin w p s = accepted (joinedState s p) p := by
  have hfree' : (otherMembers p.params).any (fun j =>
      (sfind s.sessions (4095 - j)).isSome || s.reservations.any fun r => r.session == 4095 - j) = false := by
    rw [List.any_eq_false]
    intro j hj
    obtain ⟨hnone, hkept⟩ := hfree j hj
    simpa [hnone] using hkept
  unfold cmdGroupJoin
  simp only [hgroup, hrecord, htime, hslips, htable, hfree', hring, Option.isSome_none, Bool.not_true, Bool.false_eq_true,
    if_false, or_self, Nat.not_lt.mpr hperiod, Nat.not_lt.mpr hepoch, Nat.not_lt.mpr hcredit, joinedState]

/-- The members of a group are few. -/
theorem lt_of_otherMembers (h : recordOk b = true) (hj : j ∈ otherMembers b) : j < 64 := by
  have hmem : j < field b 20 1 := List.mem_range.mp (List.mem_of_mem_filter hj)
  unfold recordOk at h
  simp only [Bool.and_eq_true, decide_eq_true_eq] at h
  omega

/-- The state that has joined differs in its group, its sessions and nodes, and its memory. -/
theorem joinedState_frame (s : State) (p : Packet) :
    joinedState s p = { s with group := some (groupOf p.params p), sessions := (joinedState s p).sessions
                               nodes := (joinedState s p).nodes, mem := (joinedState s p).mem
                               node := some (BitVec.ofNat 16 (field p.params (memberOff (field p.params 21 1)) 2)) } := by
  unfold joinedState zeroRange
  dsimp only
  rw [foldl_openPeer_frame]

theorem sessGet_joinedState (s : State) (p : Packet) (k : Nat) :
    sessGet (joinedState s p) k = sessGet ((otherMembers p.params).foldl (openPeer p.params)
      { s with group := some (groupOf p.params p)
               node := some (BitVec.ofNat 16 (field p.params (memberOff (field p.params 21 1)) 2)) }) k := rfl

theorem sessGet_joinedState_other (hown : ∀ j ∈ otherMembers p.params, k ≠ 4095 - j)
    (hother : ∀ j ∈ otherMembers p.params, k ≠ 4096 + j) : sessGet (joinedState s p) k = sessGet s k :=
  (sessGet_joinedState s p k).trans (sessGet_foldl_openPeer_other hown hother)

theorem byteAt_joinedState (s : State) (p : Packet) (a : Nat) :
    byteAt (joinedState s p) a
      = if field p.params 32 8 ≤ a ∧ a < field p.params 32 8 + 32768 then 0
        else if field p.params 64 8 ≤ a ∧ a < field p.params 64 8 + 4096 then 0 else byteAt s a := by
  have hmem (js : List Nat) (u : State) : byteAt (js.foldl (openPeer p.params) u) a = byteAt u a := by
    rw [foldl_openPeer_frame]
    rfl
  unfold joinedState
  dsimp only
  rw [byteAt_zeroRange, byteAt_zeroRange, hmem]
  rfl

/-- An admitted command whose own part ends silently replies. -/
theorem exec_eq_sendReply {c : Instr} {op : Byte} {code : Code} {result : Bytes} (h : Admitted c s n x op p)
    (ha : ownCommand op ⟨x.cls, some n⟩ p (taken s n p) = { code := code, result := result, st := u }) :
    exec c s = .next (sendReply u p op code result 0xFFFFFFFF) := by
  rw [exec_eq_command h.command, command_admitted h.origin h.ready h.opened h.fits h.checks, answer_of_admitted h ha rfl rfl]

/-- GROUP_JOIN, once its checks have passed (R296, R418, R419). -/
theorem groupJoin_joins (hc : Canonical s) (hn : n < 4095) (h : Admitted (.groupJoin p) s n x 0xF0 p) (hgroup : s.group = none)
    (hrecord : recordOk p.params = true) (htime : groupTimeOk s p.params = true)
    (hperiod : 65536 * 65536 ≤ recordPeriod p.params * field p.params 18 1)
    (hepoch : s.clock.dt + usDt 1000 ≤ recordEpoch p.params) (hslips : slipRingOk s p.params = true)
    (htable : memberTableOk s p.params = true)
    (hfree : ∀ j ∈ otherMembers p.params, sfind s.sessions (4095 - j) = none
      ∧ s.reservations.all (fun r => r.session != 4095 - j) = true)
    (hcredit : (otherMembers p.params).length * field p.params 72 4 ≤ ungranted s) (hring : ringFree (taken s n p) p = true) :
    ∃ t, exec (.groupJoin p) s = .next t ∧ Replied t p 0xF0 .accepted [] ∧ Booked s t n 1
      ∧ (∀ k, k ≠ n → sessGet t k = sessGet (joinedState (taken s n p) p) k)
      ∧ t = { joinedState (taken s n p) p with out := t.out, sessions := t.sessions } := by
  have htaken := taken_frame (p := p) h.opened
  have hfind : sfind s.sessions n = some x := (Option.filter_eq_some_iff.mp h.opened).1
  have hne : ∀ j ∈ otherMembers p.params, n ≠ 4095 - j := fun j hj heq => by
    rw [heq, (hfree j hj).1] at hfind
    cases hfind
  have hungranted : ungranted (taken s n p) = ungranted s := by rw [ungranted, granted_taken hc h.opened, ungranted]
  have hnone : ∀ j ∈ otherMembers p.params, sfind (taken s n p).sessions (4095 - j) = none := fun j hj => by
    have hopen : sessGet ({ s with out := [] } : State) n = some x := h.opened
    rw [taken, takeRingAck, sessMap_some hopen]
    exact (sfind_sput_other _ _ (hne j hj).symm).trans (hfree j hj).1
  have hown : ownCommand 0xF0 ⟨x.cls, some n⟩ p (taken s n p) = accepted (joinedState (taken s n p) p) p :=
    cmdGroupJoin_accepted (w := ⟨x.cls, some n⟩) (by rw [htaken]; exact hgroup) hrecord (by rw [htaken]; exact htime) hperiod
      (by rw [htaken]; exact hepoch) (by rw [htaken]; exact hslips) (by rw [htaken]; exact htable)
      (fun j hj => ⟨hnone j hj, by rw [htaken]; exact (hfree j hj).2⟩) (by rw [hungranted]; exact hcredit) hring
  obtain ⟨y, hy⟩ : ∃ y, sessGet (taken s n p) n = some y := ⟨_, sessGet_taken h.opened⟩
  have hjoined : sessGet (joinedState (taken s n p) p) n = sessGet (taken s n p) n :=
    sessGet_joinedState_other hne fun j _ => by omega
  have hbooks : Booked s (joinedState (taken s n p) p) n 0 := by
    obtain ⟨y, z, hy, hz, hrest⟩ := (onlyBooks_taken (p := p) h.opened).booked
    exact ⟨y, z, hy, hjoined.trans hz, hrest⟩
  have hreserve := onlyBooks_ringReserve h.origin (hjoined.trans hy)
  have hreserved : Booked s (ringReserve (joinedState (taken s n p) p) p) n 1 := booked_trans hbooks hreserve.booked
  have ⟨_, z, _, hz, _⟩ := hreserved
  have hout : (ringReserve (joinedState (taken s n p) p) p).out = [] := by
    rw [hreserve.frame, joinedState_frame, htaken]
  have hsent := onlyBooks_sendReply (op := 0xF0) h.origin hz .accepted [] 0xFFFFFFFF
  refine ⟨_, exec_eq_sendReply h hown, replied_sendReply h.origin hz hout .accepted [],
    booked_trans hreserved hsent.booked, fun k hk => ?_, ?_⟩
  · rw [sessGet_sendReply_other h.origin hz hk]
    simp only [ringReserve, originSession, h.origin, sessGet_sessMap_other _ _ hk]
  · have hframe : sendReply (ringReserve (joinedState (taken s n p) p) p) p 0xF0 .accepted [] 0xFFFFFFFF
        = { ringReserve (joinedState (taken s n p) p) p with
            out := (sendReply (ringReserve (joinedState (taken s n p) p) p) p 0xF0 .accepted [] 0xFFFFFFFF).out
            sessions := (sendReply (ringReserve (joinedState (taken s n p) p) p) p 0xF0 .accepted [] 0xFFFFFFFF).sessions } := by
      rw [hsent.frame]
      rfl
    obtain ⟨t, ht⟩ : ∃ t, sendReply (ringReserve (joinedState (taken s n p) p) p) p 0xF0 .accepted [] 0xFFFFFFFF = t := ⟨_, rfl⟩
    rw [ht] at hframe ⊢
    rw [hreserve.frame] at hframe
    exact hframe

/-! ## GROUP_LEAVE -/

/-- GROUP_LEAVE of a member without a group job (R423). -/
theorem groupLeave_accepted (h : Admitted (.groupLeave p) s n x 0xF1 p) (hmember : member s = some g)
    (hjob : hasGroupJob s = false) (hleaving : g.leaving = none) (hring : ringFree (taken s n p) p = true) :
    ∃ t, exec (.groupLeave p) s = .next t ∧ Replied t p 0xF1 .accepted [] ∧ Booked s t n 1
      ∧ t = { s with out := t.out, sessions := t.sessions, group := some { g with leaving := some p } } := by
  have htaken := taken_frame (p := p) h.opened
  have hmember' : member (taken s n p) = some g := by rw [htaken]; exact hmember
  have hjob' : hasGroupJob (taken s n p) = false := by rw [htaken]; exact hjob
  have hown : cmdGroupLeave ⟨x.cls, some n⟩ p (taken s n p)
      = accepted { taken s n p with group := some { g with leaving := some p } } p := by
    simp only [cmdGroupLeave, hmember', hjob', hleaving, hring, Option.isSome_none, Bool.not_true, Bool.false_eq_true, or_self,
      if_false]
  obtain ⟨t, he, hr, hb, ht⟩ := exec_accepts h hown rfl (by rw [htaken])
  rw [htaken] at ht
  exact ⟨t, he, hr, hb, ht⟩

/-- An open session of a canonical table is listed once. -/
theorem sfind_of_mem_rise {α : Type} {l : List (Nat × α)} {v : α} (h : keysRise l = true) (hmem : (k, v) ∈ l) :
    sfind l k = some v := by
  induction l with
  | nil => cases hmem
  | cons y l ih =>
    obtain ⟨a, w⟩ := y
    obtain ⟨habove, hrise⟩ := keysRise_cons.mp h
    rw [sfind]
    rcases List.mem_cons.mp hmem with heq | htail
    · injection heq with hk hv
      rw [if_pos hk.symm, hv]
    · rw [if_neg (habove (k, v) htail).ne, ih hrise htail]

/-- The sessions that a GROUP_LEAVE ends are the open PEER sessions. -/
theorem mem_peerSessions (h : keysRise s.sessions = true) {y : Session} :
    (k, y) ∈ peerSessions s ↔ sessGet s k = some y ∧ y.cls = .peer := by
  unfold peerSessions
  rw [List.mem_filter, sessGet_eq, Option.filter_eq_some_iff]
  simp only [Bool.and_eq_true, beq_iff_eq, Bool.not_eq_true']
  constructor
  · rintro ⟨hmem, hcls, hopen⟩
    exact ⟨⟨sfind_of_mem_rise h hmem, hopen⟩, hcls⟩
  · rintro ⟨⟨hfind, hopen⟩, hcls⟩
    exact ⟨mem_of_sfind hfind, hcls, hopen⟩

/-- The sessions of a list close, one after the other. -/
def closeAll (s : State) (l : List (Nat × Session)) : State := l.foldl (fun s y => closeSession s y.1) s

theorem closeAll_frame (s : State) (l : List (Nat × Session)) :
    closeAll s l = { s with sessions := (closeAll s l).sessions, streams := (closeAll s l).streams
                            nodes := (closeAll s l).nodes, parting := (closeAll s l).parting } := by
  induction l generalizing s with
  | nil => rfl
  | cons y l ih =>
    have hstep : closeAll s (y :: l) = closeAll (closeSession s y.1) l := rfl
    rw [hstep, ih, closeSession_frame]

theorem sessGet_closeAll {l : List (Nat × Session)} (h : keysRise s.sessions = true) :
    sessGet (closeAll s l) k = if k ∈ l.map Prod.fst then none else sessGet s k := by
  induction l generalizing s with
  | nil => simp [closeAll]
  | cons y l ih =>
    have hstep : closeAll s (y :: l) = closeAll (closeSession s y.1) l := rfl
    rw [hstep, ih (keysRise_closeSession h y.1)]
    by_cases hk : k = y.1
    · subst hk
      simp [sessGet_closeSession_same h]
    · simp only [sessGet_closeSession_other hk, List.map_cons, List.mem_cons, hk, false_or]

/-- The end of a GROUP_LEAVE (R423). -/
theorem groupLeave_ends (hc : Canonical s) (hgroup : s.group = some g) (hleft : g.left = true) (hleaving : g.leaving = some p)
    (horigin : p.origin = .session n) (hopen : sessGet s n = some x) (hcls : x.cls ≠ .peer)
    (hacked : ∀ k y, sessGet s k = some y → y.cls = .peer → y.ackSent = y.expect) :
    ∃ t, exec .groupLeaveComplete s = .next t ∧ Posted s t n p.tag 0xF1 .ok ∧ t.group = none
      ∧ (∀ k y, sessGet t k = some y → y.cls ≠ .peer) ∧ t.ctxs = s.ctxs ∧ t.mem = s.mem := by
  have hall : (peerSessions { s with out := [] }).all (fun y => y.2.ackSent == y.2.expect) = true := by
    rw [List.all_eq_true]
    rintro ⟨k, y⟩ hmem
    obtain ⟨hy, hpeer⟩ := (mem_peerSessions (s := { s with out := [] }) hc.sessions).mp hmem
    exact beq_iff_eq.mpr (hacked k y hy hpeer)
  obtain ⟨u, hu, hsess, hnone, hctxs, hmem⟩ : ∃ u, closeAll { s with out := [], group := none } (peerSessions s) = u
      ∧ (∀ k, sessGet u k = if k ∈ (peerSessions s).map Prod.fst then none else sessGet s k)
      ∧ u.group = none ∧ u.ctxs = s.ctxs ∧ u.mem = s.mem := by
    refine ⟨_, rfl, fun k => sessGet_closeAll (s := { s with out := [], group := none }) hc.sessions, ?_, ?_, ?_⟩ <;>
      rw [closeAll_frame]
  have hkept : sessGet u n = some x := by
    rw [hsess, if_neg, hopen]
    intro hin
    obtain ⟨⟨k, y⟩, hy, rfl⟩ := List.mem_map.mp hin
    obtain ⟨hget, hpeer⟩ := (mem_peerSessions hc.sessions).mp hy
    obtain rfl : x = y := Option.some.inj (hopen.symm.trans hget)
    exact hcls hpeer
  have hexec : exec .groupLeaveComplete s = .next (postEntry u p 0xF1 .ok []) := by
    have hdef : exec .groupLeaveComplete s = execGroupLeaveComplete s := rfl
    rw [hdef, ← hu]
    unfold execGroupLeaveComplete
    simp only [hgroup] at hall ⊢
    simp only [hleft, hall, hleaving, Bool.not_true, Bool.false_eq_true, or_self, if_false]
    rfl
  have hpost : postEntry u p 0xF1 .ok [] = postNow u
      { session := n, tag := p.tag, opcode := 0xF1, code := .ok, ctx := none, eventRef := 0xFFFFFFFF, result := [] } := by
    simp only [postEntry, originSession, horigin]
  obtain ⟨t, ht, ⟨x', y, e, hx', hy, hhead, hseq, hrest⟩, -, hframe⟩ := posted_postEntry (s := u) (u := u) (op := 0xF1) (code := .ok) (result := [])
    (ctx := none) (ev := 0xFFFFFFFF) horigin hkept rfl
  obtain rfl : x = x' := Option.some.inj (hkept.symm.trans hx')
  refine ⟨t, hexec.trans (congrArg _ ht), ⟨x, y, e, hopen, hy, hhead, hseq, hrest⟩, by rw [hframe, hnone], fun k z hz => ?_,
    by rw [hframe, hctxs], by rw [hframe, hmem]⟩
  rw [← ht, hpost] at hz
  unfold postNow at hz
  by_cases hk : k = n
  · subst hk
    rw [sessGet_sessMap_same hkept rfl] at hz
    injection hz with hz
    rw [← hz]
    exact hcls
  · rw [sessGet_sessMap_other _ _ hk, hsess] at hz
    split at hz
    · cases hz
    · next hnot =>
      intro hpeer
      exact hnot (List.mem_map.mpr ⟨(k, z), (mem_peerSessions hc.sessions).mpr ⟨hz, hpeer⟩, rfl⟩)

/-- Settles O28, a command at a time. -/
theorem groupsAreJoinedAndLeft : Obligations.GroupsAreJoinedAndLeft := by
  unfold Obligations.GroupsAreJoinedAndLeft
  refine ⟨?_, fun s n x p g h hmember hjob hleaving hring => groupLeave_accepted h hmember hjob hleaving hring,
    fun s n x p g hc hgroup hleft hleaving horigin hopen hcls hacked =>
      groupLeave_ends hc hgroup hleft hleaving horigin hopen hcls hacked⟩
  intro s n x p hc hn h b hgroup hrecord htime hperiod hepoch hslips htable hfree hcredit hring
  obtain ⟨t, he, hr, hb, hsess, ht⟩ := groupJoin_joins hc hn h hgroup hrecord htime hperiod hepoch hslips htable hfree hcredit hring
  have hfind : sfind s.sessions n = some x := (Option.filter_eq_some_iff.mp h.opened).1
  have hsmall : ∀ j ∈ otherMembers b, j < 4095 := fun j hj => (lt_of_otherMembers hrecord hj).trans (by decide)
  have hbyte (a : Nat) : byteAt t a = byteAt (joinedState (taken s n p) p) a := by
    rw [ht]
    rfl
  have htaken (a : Nat) : byteAt (taken s n p) a = byteAt s a := by
    rw [taken_frame h.opened]
    rfl
  refine ⟨t, he, hr, hb, by rw [ht, joinedState_frame], by rw [ht, joinedState_frame], fun j hj => ?_, fun i hi => ?_,
    fun i hi => ?_, fun a hblock hring' => ?_⟩
  · rw [hsess (4095 - j) fun heq => ?_]
    · exact sessGet_foldl_openPeer hsmall hj
    · rw [← heq, (hfree j hj).1] at hfind
      cases hfind
  · rw [hbyte, byteAt_joinedState]
    split
    · rfl
    · exact if_pos ⟨Nat.le_add_right _ _, Nat.add_lt_add_left hi _⟩
  · rw [hbyte, byteAt_joinedState, if_pos ⟨Nat.le_add_right _ _, Nat.add_lt_add_left hi _⟩]
  · have hnot {l m : Nat} (h : a < l ∨ l + m ≤ a) : ¬(l ≤ a ∧ a < l + m) := by omega
    rw [hbyte, byteAt_joinedState, if_neg (hnot hring'), if_neg (hnot hblock), htaken]

end Sys2Proof.Machine

/-! Group beats, slips and holds (R297, R300 to R305). -/

namespace Sys2Proof.Machine

open Sys2Proof Sys2Proof.Terms

variable {s u : State} {n k : Nat} {g : Group} {x : Session}

theorem group_of_member (h : member s = some g) : s.group = some g := (Option.filter_eq_some_iff.mp h).1

/-! ## Group beats -/

/-- Records that are logged one after the other change the log alone. -/
theorem foldl_logs_frame {α : Type} {f : State → α → State}
    (hf : ∀ s a, f s a = { s with events := (f s a).events, nextSeq := (f s a).nextSeq }) (l : List α) (s : State) :
    l.foldl f s = { s with events := (l.foldl f s).events, nextSeq := (l.foldl f s).nextSeq } := by
  induction l generalizing s with
  | nil => rfl
  | cons a l ih =>
    rw [List.foldl_cons, ih, hf]

/-- The records of late slips. -/
def slipsLogged (s : State) (g : Group) : State :=
  ((dueSlips s g).filter fun y => decide (y.1 < g.beat)).foldl (fun s (t, k) =>
    logEvent s 0x0304 (unitOf 0 0) none ([BitVec.ofNat 8 (slipMember s g t k), 0] ++ toLE t 8)) s

theorem slipsLogged_frame (s : State) (g : Group) :
    slipsLogged s g = { s with events := (slipsLogged s g).events, nextSeq := (slipsLogged s g).nextSeq } :=
  foldl_logs_frame (fun _ _ => rfl) _ s

theorem applySlips_of_due (h : dueSlips s g ≠ []) :
    let sum := ((dueSlips s g).map (·.2)).sum
    let u := regCount (slipsLogged s g) oTbGroup 15 0 sum
    applySlips s g = { u with
      counters := { u.counters with slips := u.counters.slips + sum }
      sessions := u.sessions.map fun (n, x) => (n, { x with slipSeen := true })
      group := some { g with sigma := g.sigma + sum, applied := g.applied ++ (dueSlips s g).map (·.1) } } := by
  have hne : (dueSlips s g).isEmpty = false := by simpa using h
  unfold applySlips
  simp only [hne, Bool.false_eq_true, if_false]
  rfl

/-- Every open session is shown the slips. -/
theorem slipSeen_map {l : List (Nat × Session)} {y : Session}
    (h : (sfind (l.map fun (n, x) => (n, { x with slipSeen := true })) n).filter (fun x => !x.closed) = some y) :
    y.slipSeen = true := by
  have hmem := mem_of_sfind (Option.filter_eq_some_iff.mp h).1
  obtain ⟨⟨k, x⟩, -, heq⟩ := List.mem_map.mp hmem
  injection heq with _ heq
  rw [← heq]

/-- The state with its slips applied: group, counters, register and sessions (R302, R303). -/
theorem applySlips_spec (hc : Canonical s) (hgroup : s.group = some g) :
    let due := dueSlips s g
    let sum := (due.map (·.2)).sum
    let t := applySlips s g
    t.group = some { g with sigma := g.sigma + sum, applied := g.applied ++ due.map (·.1) }
      ∧ t.counters = { s.counters with slips := s.counters.slips + sum }
      ∧ regF t oTbGroup 15 0 = min 65535 (regF s oTbGroup 15 0 + sum) ∧ RegsBut s t [oTbGroup]
      ∧ (due ≠ [] → ∀ n y, sessGet t n = some y → y.slipSeen = true)
      ∧ t = { s with regs := t.regs, sessions := t.sessions, group := t.group, counters := t.counters, events := t.events
                     nextSeq := t.nextSeq } := by
  intro due sum t
  by_cases hdue : due = []
  · have hsum : sum = 0 := by simp [sum, hdue]
    have ht : t = s := by
      have hdue' : dueSlips s g = [] := hdue
      simp only [t, applySlips, hdue', List.isEmpty_nil, if_true]
    have hlt := regF_lt s oTbGroup 15 0
    rw [ht, hsum, hdue]
    refine ⟨by simpa using hgroup, rfl, ?_, fun _ _ => rfl, fun hne => absurd rfl hne, rfl⟩
    simp only [Nat.add_zero]
    omega
  · have ht : t = _ := applySlips_of_due hdue
    have hlog := slipsLogged_frame s g
    obtain ⟨u, hu⟩ : ∃ u, slipsLogged s g = u := ⟨_, rfl⟩
    rw [hu] at ht hlog
    have hregs : u.regs = s.regs := by rw [hlog]
    have hwf : swf resetWord u.regs = true := by rw [hregs]; exact hc.regs
    rw [ht]
    refine ⟨rfl, ?_, ?_, fun a ha => ?_, fun _ n y hy => slipSeen_map hy, ?_⟩
    · dsimp only
      rw [hlog]
      rfl
    · refine (regF_regCount_same hwf oTbGroup sum (by decide) (by decide)).trans ?_
      rw [regF, regGet_congr hregs, regF]
      rfl
    · refine (regGet_regCount_other u 15 0 sum (by simpa using ha)).trans ?_
      exact regGet_congr hregs a
    · rw [hlog]
      rfl

/-- Engines whose arrays alone are changed, one after the other. -/
theorem foldl_arrays_spec (arrays : State → Engine → List ArrayState) (es : List Nat)
    (hwf : swf (fun _ => ({} : Engine)) s.engines = true) :
    let t := es.foldl (fun s e => engSet s e { engGet s e with arrays := arrays s (engGet s e) }) s
    (∀ e, engGet t e = { engGet s e with arrays := (engGet t e).arrays }) ∧ t = { s with engines := t.engines } := by
  induction es generalizing s with
  | nil => exact ⟨fun _ => rfl, rfl⟩
  | cons e es ih =>
    intro t
    obtain ⟨heng, hframe⟩ := ih (swf_engSet hwf e { engGet s e with arrays := arrays s (engGet s e) })
    refine ⟨fun f => (heng f).trans ?_, hframe⟩
    by_cases hf : f = e
    · subst hf
      rw [engGet_engSet_same hwf]
      rfl
    · rw [engGet_engSet_other _ _ hf]
      rfl

theorem waitFilled_spec (hwf : swf (fun _ => ({} : Engine)) s.engines = true) :
    (∀ e, engGet (waitFilled s) e = { engGet s e with arrays := (engGet (waitFilled s) e).arrays })
      ∧ waitFilled s = { s with engines := (waitFilled s).engines } := by
  have hspec := foldl_arrays_spec (s := s) (fun s x => x.arrays.map fun a : ArrayState => { a with cast := some (s.beats * 4096 - 1) })
    (s.passes.flatMap fun q => q.engines) hwf
  exact hspec

/-- A group beat starts (R297, R302). -/
theorem groupBeat_starts (hmember : member s = some g) (hboundary : g.atBoundary = true)
    (hstart : startTime g g.beat (g.sigma + ((dueSlips s g).map (·.2)).sum) ≤ s.clock.dt) :
    let u := applySlips { s with out := [] } g
    exec .groupBeatStart s = .next { (if stampOf u.clock.dt = u.snap.stampDt then u else waitFilled u) with
      group := (if stampOf u.clock.dt = u.snap.stampDt then u else waitFilled u).group.map fun g => { g with atBoundary := false } } := by
  intro u
  have hdef : exec .groupBeatStart s = execGroupBeatStart s := rfl
  have hmember' : member { s with out := [] } = some g := hmember
  have hgo : ¬((!g.atBoundary) = true
      ∨ s.clock.dt < startTime g g.beat (g.sigma + ((dueSlips { s with out := [] } g).map (·.2)).sum)) := by
    rintro (h | h)
    · simp [hboundary] at h
    · exact absurd hstart (Nat.not_le.mpr h)
  rw [hdef]
  unfold execGroupBeatStart
  simp only [hmember', if_neg hgo]
  rfl

/-! ## Slip notices -/

/-- A kept packet joins its session's. -/
theorem sessGet_keepPacket (h : sessGet s n = some x) (q : Kept) :
    ∃ y, sessGet (keepPacket s n q) n = some y ∧ y.kept = x.kept ++ [{ q with psn := x.nextPsn }] :=
  ⟨_, sessGet_sessMap_same h rfl, rfl⟩

theorem keepPacket_frame (s : State) (n : Nat) (q : Kept) : keepPacket s n q = { s with sessions := (keepPacket s n q).sessions } := by
  unfold keepPacket sessMap
  split <;> rfl

/-- The write of a word to one other member. -/
def sendWord (addr : Nat) (b : Bytes) (s : State) (node : Nat) : State :=
  match peerSession s node with
  | some n => keepPacket s n { psn := 0, isReq := true, op := 0x01, address := BitVec.ofNat 64 (node * 2 ^ 48 + addr), payload := b }
  | none => s

theorem sendWord_frame (addr : Nat) (b : Bytes) (s : State) (node : Nat) :
    sendWord addr b s node = { s with sessions := (sendWord addr b s node).sessions } := by
  unfold sendWord
  split
  · exact keepPacket_frame s _ _
  · rfl

theorem foldl_sendWord_frame (addr : Nat) (b : Bytes) (nodes : List Nat) (s : State) :
    nodes.foldl (sendWord addr b) s = { s with sessions := (nodes.foldl (sendWord addr b) s).sessions } := by
  induction nodes generalizing s with
  | nil => rfl
  | cons m nodes ih =>
    rw [List.foldl_cons, ih, sendWord_frame]

/-- What a session keeps stays kept. -/
theorem sessGet_sendWord (addr : Nat) (b : Bytes) (node : Nat) (h : sessGet s n = some x) :
    ∃ y, sessGet (sendWord addr b s node) n = some y ∧ ∀ q ∈ x.kept, q ∈ y.kept := by
  unfold sendWord
  split
  · next m _ =>
    by_cases hm : n = m
    · subst hm
      obtain ⟨y, hy, hkept⟩ := sessGet_keepPacket h _
      exact ⟨y, hy, fun q hq => by rw [hkept]; exact List.mem_append_left _ hq⟩
    · exact ⟨x, (sessGet_sessMap_other _ _ hm).trans h, fun _ hq => hq⟩
  · exact ⟨x, h, fun _ hq => hq⟩

theorem sessGet_foldl_sendWord (addr : Nat) (b : Bytes) (nodes : List Nat) (h : sessGet s n = some x) :
    ∃ y, sessGet (nodes.foldl (sendWord addr b) s) n = some y ∧ ∀ q ∈ x.kept, q ∈ y.kept := by
  induction nodes generalizing s x with
  | nil => exact ⟨x, h, fun _ hq => hq⟩
  | cons m nodes ih =>
    obtain ⟨y, hy, hkept⟩ := sessGet_sendWord addr b m h
    obtain ⟨z, hz, hkept'⟩ := ih hy
    exact ⟨z, hz, fun q hq => hkept' q (hkept q hq)⟩

/-- A REQ for a member. -/
def ReqFor (node addr : Nat) (b : Bytes) (q : Kept) : Prop :=
  q.isReq = true ∧ q.op = 1 ∧ q.address = BitVec.ofNat 64 (node * 2 ^ 48 + addr) ∧ q.payload = b

/-- Each other member with a PEER session gets its REQ (R300). -/
theorem sendWord_reaches (addr : Nat) (b : Bytes) {nodes : List Nat} {node : Nat} (hmem : node ∈ nodes)
    (hpeer : peerSession s node = some n) (h : sessGet s n = some x) :
    ∃ y q, sessGet (nodes.foldl (sendWord addr b) s) n = some y ∧ q ∈ y.kept ∧ ReqFor node addr b q := by
  induction nodes generalizing s x with
  | nil => cases hmem
  | cons m nodes ih =>
    rw [List.foldl_cons]
    rcases List.mem_cons.mp hmem with rfl | htail
    · obtain ⟨y, hy, hkept⟩ := sessGet_keepPacket h
        { psn := 0, isReq := true, op := 0x01, address := BitVec.ofNat 64 (node * 2 ^ 48 + addr), payload := b }
      have hsent : sessGet (sendWord addr b s node) n = some y := by
        simp only [sendWord, hpeer]
        exact hy
      obtain ⟨z, hz, hkept'⟩ := sessGet_foldl_sendWord addr b nodes hsent
      exact ⟨z, _, hz, hkept' _ (by rw [hkept]; exact List.mem_append_right _ (.head _)), rfl, rfl, rfl, rfl⟩
    · obtain ⟨y, hy, -⟩ := sessGet_sendWord addr b m h
      refine ih htail ?_ hy
      rw [sendWord_frame]
      exact hpeer

theorem memberWrite_eq (s : State) (g : Group) (addr : Nat) (b : Bytes) :
    memberWrite s g addr b = ((g.nodes.zipIdx.filter fun y => y.2 != g.index).map fun y => y.1.toNat).foldl (sendWord addr b)
      (storeBytes s addr b) := by
  rw [List.foldl_map]
  rfl

/-- A SLIP_NOTICE that is due writes the member's word (R301). -/
theorem exec_slipNotice {j : Nat} (hmember : member s = some g) (hboundary : g.atBoundary = false)
    (hstart : startTime g (g.beat + 1 + j) g.sigma ≤ s.clock.dt) (hopen : ((openSlips s g).map (·.2)).sum ≤ j) (hj : j < 255) :
    exec (.slipNotice j) s = .next (memberWrite { s with out := [] } g (slipAddr g (g.beat + 1 + g.delay) g.index)
      (groupWord (g.beat + 1 + g.delay) (j + 1))) := by
  have hdef : exec (.slipNotice j) s = execSlipNotice j s := rfl
  have hmember' : member { s with out := [] } = some g := hmember
  have hgo : ¬(g.atBoundary = true ∨ s.clock.dt < startTime g (g.beat + 1 + j) g.sigma
      ∨ j < ((openSlips { s with out := [] } g).map (·.2)).sum ∨ 255 ≤ j) := by
    rintro (h | h | h | h)
    · simp [hboundary] at h
    · exact absurd hstart (Nat.not_le.mpr h)
    · exact absurd hopen (Nat.not_le.mpr h)
    · exact absurd hj (Nat.not_lt.mpr h)
  rw [hdef]
  unfold execSlipNotice
  simp only [hmember', if_neg hgo]

/-- A word of the slip ring is stored where it lies, and nothing else changes. -/
theorem bytesAt_memberWrite {addr : Nat} {b : Bytes} (hc : Canonical s) (hpoison : s.poison = []) (hsoft : s.soft = [])
    (haddr : generalBase ≤ addr) :
    let t := memberWrite s g addr b
    bytesAt t addr b.length = b ∧ (∀ a, a < addr ∨ addr + b.length ≤ a → byteAt t a = byteAt s a)
      ∧ t = { s with mem := t.mem, sessions := t.sessions } := by
  intro t
  have hout : 0x20000000000 ≤ addr := Nat.le_trans (by decide) haddr
  have hlin (i : Nat) : linearOf (addr + i) = addr + i := linearOf_outside (hout.trans (Nat.le_add_right _ _))
  have hframe : t = { spanWrite s addr b with sessions := t.sessions } := by
    have hstore := memberWrite_eq s g addr b
    rw [storeBytes_clean hpoison hsoft] at hstore
    have hfold := foldl_sendWord_frame addr b ((g.nodes.zipIdx.filter fun y => y.2 != g.index).map fun y => y.1.toNat)
      (spanWrite s addr b)
    rw [← hstore] at hfold
    exact hfold
  have hbyte (a : Nat) : byteAt t a = byteAt (spanWrite s addr b) a := by rw [hframe]; rfl
  refine ⟨List.ext_getElem (bytesAt_length t addr _) fun i hi hi' => ?_, fun a ha => ?_, ?_⟩
  · have hget : (bytesAt t addr b.length)[i] = byteAt t (addr + i) := by simp [bytesAt]
    rw [hget, hbyte, ← hlin i]
    exact byteAt_spanWrite_same hc.mem addr (spanLinear_nodup_outside hout) hi'
  · rw [hbyte]
    refine byteAt_spanWrite_other s fun i hi => ?_
    rw [hlin]
    omega
  · have hmem : t.mem = (spanWrite s addr b).mem := by rw [hframe]
    rw [hmem]
    exact hframe

/-! ## Holds -/

/-- An engine that is not as after reset reads as it is written. -/
theorem engGet_engSet_of_ne {e : Nat} {y : Engine} (h : y ≠ {}) : engGet (engSet s e y) e = y := by
  rw [engGet, engSet, sget_eq_sfind]
  simp only [sset, if_neg h, sfind_sput_same, Option.getD_some]

/-- The engines of a list abandon their beat, and no other does (R305). -/
theorem foldl_abandon_spec (es : List Nat) (s : State) :
    let t := es.foldl abandon s
    (∀ k ∈ es, (engGet t k).abandoned = true ∧ (engGet t k).holding = none ∧ (engGet t k).arrivals = [])
      ∧ (∀ k, k ∉ es → engGet t k = engGet s k) ∧ t = { s with engines := t.engines } := by
  induction es generalizing s with
  | nil => exact ⟨fun _ h => absurd h List.not_mem_nil, fun _ _ => rfl, rfl⟩
  | cons e es ih =>
    intro t
    obtain ⟨hdone, hother, hframe⟩ := ih (abandon s e)
    refine ⟨fun k hk => ?_, fun k hk => ?_, hframe⟩
    · by_cases hmem : k ∈ es
      · exact hdone k hmem
      · obtain rfl : k = e := by simpa [hmem] using hk
        have hk' : engGet t k = engGet (abandon s k) k := hother k hmem
        have hput : engGet (abandon s k) k = { engGet s k with
            abandoned := true, hold := if isHeld (engGet s k) then (engGet s k).hold + max 1 (heldCycles s k) else (engGet s k).hold
            holding := none, arrivals := [] } := by
          unfold abandon
          exact engGet_engSet_of_ne fun h => by simpa using congrArg Engine.abandoned h
        rw [hk', hput]
        exact ⟨rfl, rfl, rfl⟩
    · have hne : k ≠ e := fun h => hk (h ▸ .head _)
      exact (hother k fun h => hk (.tail _ h)).trans (engGet_engSet_other s _ hne)

/-- A context that a list names fails, if it has not failed before. -/
theorem fails_failAt {ctxs : List Nat} {c : Code} (hk : k ∈ ctxs) : ∃ f ∈ (failAt s ctxs c).fails, f.1 = k := by
  unfold failAt
  dsimp only
  by_cases hfailed : s.fails.any (fun f => f.1 == k) = true
  · obtain ⟨f, hf, heq⟩ := List.any_eq_true.mp hfailed
    exact ⟨f, List.mem_append_left _ hf, by simpa using heq⟩
  · refine ⟨(k, c, lastSeq s), List.mem_append_right _ (List.mem_map.mpr ⟨k, List.mem_filter.mpr ⟨hk, ?_⟩, rfl⟩), rfl⟩
    rw [Bool.not_eq_true', ← Bool.not_eq_true]
    exact hfailed

theorem exec_groupHoldLimit {e m : Nat} {r : Run} (hmember : member s = some g) (hrun : runOf s e = some r)
    (hmembers : r.img.members ≠ 0) (hheld : heldTooLong s e m = true) :
    exec (.groupHoldLimit e m) s = .next (failAll (r.pass.engines.foldl abandon (logEvent { s with out := [] } 0x0304 (unitOf 1 e)
      ((jobsOf s r).head?.map (·.num)) ([BitVec.ofNat 8 m, 0] ++ toLE g.beat 8))) r .internal) := by
  have hdef : exec (.groupHoldLimit e m) s = execGroupHoldLimit e m s := rfl
  have hmember' : member { s with out := [] } = some g := hmember
  have hrun' : runOf { s with out := [] } e = some r := hrun
  have hgo : ¬(r.img.members = 0 ∨ (!heldTooLong { s with out := [] } e m) = true) := by
    rintro (h | h)
    · exact hmembers h
    · have hheld' : heldTooLong { s with out := [] } e m = true := hheld
      simp [hheld'] at h
  rw [hdef]
  unfold execGroupHoldLimit
  simp only [hmember', hrun', if_neg hgo]
  rfl

/-- A hold beyond the limit ends the beat of its job's engines (R305). -/
theorem groupHoldLimit_abandons {e m : Nat} {r : Run} (hmember : member s = some g) (hrun : runOf s e = some r)
    (hmembers : r.img.members ≠ 0) (hheld : heldTooLong s e m = true) :
    ∃ t, exec (.groupHoldLimit e m) s = .next t
      ∧ (∀ k ∈ r.pass.engines, (engGet t k).abandoned = true ∧ (engGet t k).holding = none ∧ (engGet t k).arrivals = [])
      ∧ (∀ k, k ∉ r.pass.engines → engGet t k = engGet s k) ∧ t.mem = s.mem ∧ t.regs = s.regs
      ∧ (t.events.head?.map (·.code)) = some 0x304 ∧ t.nextSeq = s.nextSeq + 1
      ∧ (∀ c ∈ jobsOf s r, ∃ f ∈ t.fails, f.1 = c.num)
      ∧ t = { s with out := [], engines := t.engines, events := t.events, nextSeq := t.nextSeq, fails := t.fails } := by
  refine ⟨_, exec_groupHoldLimit hmember hrun hmembers hheld, ?_⟩
  obtain ⟨l, hl, heng, hmem, hregs, hhead, hseq, hctxs, hlog⟩ : ∃ l, logEvent { s with out := [] } 0x0304 (unitOf 1 e)
      ((jobsOf s r).head?.map (·.num)) ([BitVec.ofNat 8 m, 0] ++ toLE g.beat 8) = l ∧ l.engines = s.engines ∧ l.mem = s.mem
      ∧ l.regs = s.regs ∧ (l.events.head?.map (·.code)) = some 0x304 ∧ l.nextSeq = s.nextSeq + 1 ∧ l.ctxs = s.ctxs
      ∧ l = { s with out := [], events := l.events, nextSeq := l.nextSeq } :=
    ⟨_, rfl, rfl, rfl, rfl, rfl, rfl, rfl, rfl⟩
  rw [hl]
  obtain ⟨hdone, hother, hframe⟩ := foldl_abandon_spec r.pass.engines l
  obtain ⟨u, hu⟩ : ∃ u, r.pass.engines.foldl abandon l = u := ⟨_, rfl⟩
  rw [hu] at hdone hother hframe ⊢
  have hjobs : jobsOf u r = jobsOf s r := by
    rw [hframe, hlog]
    rfl
  refine ⟨hdone, fun k hk => (hother k hk).trans ?_, ?_, ?_, ?_, ?_, fun c hc => ?_, ?_⟩
  · rw [engGet, engGet, heng]
  · exact (congrArg State.mem hframe).trans hmem
  · exact (congrArg State.regs hframe).trans hregs
  · exact (congrArg (fun u : State => u.events.head?.map (·.code)) hframe).trans hhead
  · exact (congrArg State.nextSeq hframe).trans hseq
  · exact fails_failAt (List.mem_map.mpr ⟨c, hjobs ▸ hc, rfl⟩)
  · unfold failAll failAt
    dsimp only
    rw [hframe, hlog]

/-- Settles O29, an event at a time. -/
theorem groupBeatsSlipsAndHolds : Obligations.GroupBeatsSlipsAndHolds := by
  unfold Obligations.GroupBeatsSlipsAndHolds
  refine ⟨?_, ?_, fun s g r e m hmember hrun hmembers hheld => groupHoldLimit_abandons hmember hrun hmembers hheld⟩
  · intro s g hc hmember hboundary due sum hstart
    have hc' : Canonical { s with out := [] } := canonical_of_tables hc rfl rfl rfl rfl rfl
    have hgroup' : ({ s with out := [] } : State).group = some g := group_of_member hmember
    refine ⟨_, groupBeat_starts hmember hboundary hstart, ?_⟩
    obtain ⟨hgroup, hcounters, hreg, hbut, hseen, hframe⟩ := applySlips_spec hc' hgroup'
    obtain ⟨u, hu⟩ : ∃ u, applySlips { s with out := [] } g = u := ⟨_, rfl⟩
    rw [hu] at hgroup hcounters hreg hbut hseen hframe ⊢
    have hengines : u.engines = s.engines := by rw [hframe]
    obtain ⟨v, hv, heng, hvframe⟩ : ∃ v, (if stampOf u.clock.dt = u.snap.stampDt then u else waitFilled u) = v
        ∧ (∀ e, engGet v e = { engGet s e with arrays := (engGet v e).arrays }) ∧ v = { u with engines := v.engines } := by
      have hsame (e : Nat) : engGet u e = engGet s e := by rw [engGet, engGet, hengines]
      split
      · exact ⟨u, rfl, fun e => by rw [hsame], rfl⟩
      · obtain ⟨heng, hwait⟩ := waitFilled_spec (s := u) (by rw [hengines]; exact hc.engines)
        exact ⟨waitFilled u, rfl, fun e => by rw [heng, hsame], hwait⟩
    rw [hv]
    have hvgroup : v.group = u.group := by rw [hvframe]
    have hvregs : v.regs = u.regs := by rw [hvframe]
    refine ⟨?_, ?_, ?_, fun a ha => ?_, fun hne n y hy => hseen hne n y ?_, heng, ?_⟩
    · dsimp only
      rw [hvgroup, hgroup]
      rfl
    · exact (congrArg State.counters hvframe).trans hcounters
    · exact (congrArg (fun w => getF w 15 0) (regGet_congr hvregs oTbGroup)).trans hreg
    · exact (regGet_congr hvregs a).trans (hbut a ha)
    · rw [← hy]
      exact congrArg (fun l => (sfind l n).filter fun x => !x.closed) (congrArg State.sessions hvframe).symm
    · rw [hvframe, hframe]
  · intro s g j hc hpoison hmember hboundary hsoft hstart hopen hj m hlow hhigh
    have hc' : Canonical { s with out := [] } := canonical_of_tables hc rfl rfl rfl rfl rfl
    have hlen : (groupWord m (j + 1)).length = 8 := length_toLE _ _
    obtain ⟨hword, hother, hframe⟩ := bytesAt_memberWrite (g := g) (b := groupWord m (j + 1)) hc' hpoison hsoft hlow
    rw [hlen] at hword hother
    refine ⟨_, exec_slipNotice hmember hboundary hstart hopen hj, hword, hother, fun node i n x hmem hi hpeer hx => ?_, hframe⟩
    have hnode : node.toNat ∈ (g.nodes.zipIdx.filter fun y => y.2 != g.index).map fun y => y.1.toNat :=
      List.mem_map.mpr ⟨(node, i), List.mem_filter.mpr ⟨hmem, by simpa using hi⟩, rfl⟩
    rw [memberWrite_eq, storeBytes_clean (s := { s with out := [] }) hpoison hsoft]
    obtain ⟨y, q, hy, hq, hreq, hop, haddr, hpay⟩ := sendWord_reaches (s := spanWrite { s with out := [] } _ _) _ _ hnode hpeer hx
    exact ⟨y, q, hy, hq, hreq, hop, haddr, hpay⟩

end Sys2Proof.Machine

/-! The issue of a bundle (R92, R109, R119), and of NOP, FENCE and ARRIVE (R107, R532, R534). -/

namespace Sys2Proof.Machine

open Sys2Proof Sys2Proof.Terms

variable {s : State} {v : BundleEvent} {r : Run} {cls : BundleClass} {e : Nat}

/-! ## Engines -/

/-- The later of two entries stands. -/
theorem sset_sset {α : Type} [DecidableEq α] {d : Nat → α} {l : List (Nat × α)} (h : swf d l = true) (k : Nat) (a b : α) :
    sset d (sset d l k a) k b = sset d l k b := by
  refine sget_ext (swf_sset (swf_sset h k a) k b) (swf_sset h k b) fun j => ?_
  rw [sget_sset (swf_sset h k a), sget_sset h, sget_sset h]
  split <;> rfl

theorem engSet_engSet (h : swf (fun _ => ({} : Engine)) s.engines = true) (e : Nat) (x y : Engine) :
    engSet (engSet s e x) e y = engSet s e y := by
  unfold engSet
  dsimp only
  rw [sset_sset h]

/-! ## Issue -/

/-- An engine with nothing on its way awaits the tags of the bundle alone. -/
theorem issueMask_quiet {x : Engine} (h : x.inflight = []) (p : Placed) : issueMask x p = p.b.waitMask := by
  unfold issueMask
  split
  · simp [h, maskOf]
  · rfl

theorem issueAt_quiet {x : Engine} (h : x.inflight = []) (p : Placed) : issueAt s x p = p.b.issue + x.hold := by
  unfold issueAt
  split
  · simp [h]
  · rfl

theorem landUntagged_quiet (h : (engGet s e).inflight = []) (c : Nat) : landUntagged s e c = s := by
  unfold landUntagged
  simp [h]

theorem landAwaited_idle (h : s.agenda = []) (c : Nat) (mask : BitVec 16) : landAwaited s e c mask = s := by
  unfold landAwaited
  simp [h]

theorem fetchErrors_sound (b : Bundle) : fetchErrors s e r cls b [] = s := by
  unfold fetchErrors
  rfl

/-- A bundle under the conditions of an issue has its effect on the state in which it has issued. -/
theorem issueBundle_quiet (h : Issues cls s v r) (f : Run → Nat → State → State) :
    issueBundle cls v f { s with out := [] } = f r (issueCycle s v) (engSet { s with out := [] } v.engine (issued s v)) := by
  obtain ⟨-, hrun, ⟨hgroup, habandoned⟩, hprogram, hturn, hlanded, hquiet, ⟨hagenda, -⟩, -, hsram, -, -⟩ := h
  have hquiet' : (engGet { s with out := [] } v.engine).inflight = [] := hquiet
  have hagenda' : ({ s with out := [] } : State).agenda = [] := hagenda
  have hcycle : issueAt { s with out := [] } (engGet { s with out := [] } v.engine) ⟨cls, v.bundle⟩ = issueCycle s v :=
    issueAt_quiet hquiet' _
  have hdue : Due cls v { s with out := [] } r := by
    refine ⟨hgroup, habandoned, hprogram, ?_⟩
    rw [settled_idle _ hagenda', hcycle]
    exact hturn
  have hawaited : Awaited cls v { s with out := [] } = true := by
    rw [Awaited, issueMask_quiet hquiet']
    exact hlanded
  have hhold : issueCycle s v - v.bundle.issue = (engGet s v.engine).hold := Nat.add_sub_cancel_left _ _
  refine (issueBundle_issues (s := { s with out := [] }) hrun hdue hawaited).trans ?_
  unfold issuedAs
  simp only [hcycle, settled_idle _ hagenda', landUntagged_quiet hquiet', landAwaited_idle hagenda', hsram, fetchErrors_sound, hhold]
  rfl

/-- The state in which a bundle has issued, before its own effect. -/
def afterIssue (s : State) (v : BundleEvent) : State := engSet { s with out := [] } v.engine (issued s v)

theorem engGet_afterIssue_same (hc : Canonical s) : engGet (afterIssue s v) v.engine = issued s v :=
  engGet_engSet_same (s := { s with out := [] }) hc.engines v.engine _

theorem engGet_afterIssue_other {k : Nat} (h : k ≠ v.engine) : engGet (afterIssue s v) k = engGet s k :=
  engGet_engSet_other { s with out := [] } _ h

theorem engSet_afterIssue (hc : Canonical s) (x : Engine) : engSet (afterIssue s v) v.engine x = engSet { s with out := [] } v.engine x :=
  engSet_engSet (s := { s with out := [] }) hc.engines v.engine _ _

/-! What an issue leaves of its engine: the setting of the tag aside, only its place in the program changes. -/

@[simp] theorem issued_hold (s : State) (v : BundleEvent) : (issued s v).hold = (engGet s v.engine).hold := by
  unfold issued tagSet
  dsimp only
  split <;> rfl

@[simp] theorem issued_next (s : State) (v : BundleEvent) : (issued s v).next = (engGet s v.engine).next + 1 := by
  unfold issued tagSet
  dsimp only
  split <;> rfl

@[simp] theorem issued_holding (s : State) (v : BundleEvent) : (issued s v).holding = none := by
  unfold issued tagSet
  dsimp only
  split <;> rfl

@[simp] theorem issued_inflight (s : State) (v : BundleEvent) : (issued s v).inflight = (engGet s v.engine).inflight := by
  unfold issued tagSet
  dsimp only
  split <;> rfl

@[simp] theorem issued_early (s : State) (v : BundleEvent) : (issued s v).early = (engGet s v.engine).early := by
  unfold issued tagSet
  dsimp only
  split <;> rfl

@[simp] theorem issued_arrivals (s : State) (v : BundleEvent) : (issued s v).arrivals = (engGet s v.engine).arrivals := by
  unfold issued tagSet
  dsimp only
  split <;> rfl

@[simp] theorem issued_arrays (s : State) (v : BundleEvent) : (issued s v).arrays = (engGet s v.engine).arrays := by
  unfold issued tagSet
  dsimp only
  split <;> rfl

@[simp] theorem issued_incoming (s : State) (v : BundleEvent) : (issued s v).incoming = (engGet s v.engine).incoming := by
  unfold issued tagSet
  dsimp only
  split <;> rfl

@[simp] theorem issued_rmos (s : State) (v : BundleEvent) : (issued s v).rmos = (engGet s v.engine).rmos := by
  unfold issued tagSet
  dsimp only
  split <;> rfl

/-! ## FENCE -/

theorem execFenceBundle_issues (h : Issues .fence s v r) :
    exec (.fenceBundle v) s = .next (engSet { s with out := [] } v.engine { issued s v with inflight :=
      [{ tag := v.bundle.setTag, due := v.bundle.due + (engGet s v.engine).hold, dest := 0, old := []
         number := (engGet s v.engine).next + 1, fence := true }] }) := by
  have hexec : exec (.fenceBundle v) s = .next (issueBundle .fence v (fun _ _ s => launch s v.engine
      { tag := v.bundle.setTag, due := v.bundle.due + (engGet s v.engine).hold, dest := 0, old := [], number := (engGet s v.engine).next
        fence := true }) { s with out := [] }) := rfl
  have hx := engGet_afterIssue_same (v := v) h.canon
  have hhold : (issued s v).hold = (engGet s v.engine).hold := issued_hold s v
  have hnext : (issued s v).next = (engGet s v.engine).next + 1 := issued_next s v
  have hinflight : (issued s v).inflight = [] := (issued_inflight s v).trans h.quiet
  rw [hexec, issueBundle_quiet h, launch]
  simp only [List.isEmpty_nil, if_true]
  refine congrArg Host.Outcome.next ((engSet_afterIssue h.canon _).trans ?_)
  rw [show engGet (engSet { s with out := [] } v.engine (issued s v)) v.engine = issued s v from hx, hhold, hnext, hinflight]
  rfl

/-! ## ARRIVE -/

/-- What counts the bytes of an ARRIVE leaves: the engine's place in its program, the other engines, and all but the lateness
of the beat (R532). -/
structure Arrives (s t : State) (e : Nat) : Prop where
  next  : (engGet t e).next = (engGet s e).next
  other : ∀ k, k ≠ e → engGet t k = engGet s k
  frame : t = { s with engines := t.engines, lateEnd := t.lateEnd }
  form  : swf (fun _ => ({} : Engine)) s.engines = true → swf (fun _ => ({} : Engine)) t.engines = true

theorem Arrives.refl (s : State) (e : Nat) : Arrives s s e := ⟨rfl, fun _ _ => rfl, rfl, id⟩

theorem Arrives.trans {t u : State} (h : Arrives s t e) (h' : Arrives t u e) : Arrives s u e :=
  ⟨h'.next.trans h.next, fun k hk => (h'.other k hk).trans (h.other k hk), by rw [h'.frame, h.frame], fun hs => h'.form (h.form hs)⟩

theorem arrives_engSet (hwf : swf (fun _ => ({} : Engine)) s.engines = true) {x : Engine} (hx : x.next = (engGet s e).next) :
    Arrives s (engSet s e x) e :=
  ⟨by rw [engGet_engSet_same hwf, hx], fun _ hk => engGet_engSet_other s x hk, rfl, fun h => swf_engSet h e x⟩

theorem arrives_noteLate (late : Bool) (c : Nat) : Arrives s (noteLate s late c) e := by
  unfold noteLate
  split
  · exact ⟨rfl, fun _ _ => rfl, rfl, id⟩
  · exact Arrives.refl s e

theorem arrives_endHold (hwf : swf (fun _ => ({} : Engine)) s.engines = true) (c : Nat) : Arrives s (endHold s e c) e := by
  unfold endHold
  dsimp only
  split
  · exact Arrives.refl s e
  · split
    · exact Arrives.refl s e
    · exact arrives_engSet hwf rfl

theorem tagLand_next (x : Engine) (t : Option (BitVec 4)) : (tagLand x t).next = x.next := by
  unfold tagLand
  split <;> rfl

theorem arrives_arrivalCount (hwf : swf (fun _ => ({} : Engine)) s.engines = true) (source : Nat) (remote : Bool) (off n c : Nat) :
    Arrives s (arrivalCount s e source remote off n c) e := by
  unfold arrivalCount
  dsimp only
  split
  · exact arrives_engSet hwf rfl
  · split
    · exact arrives_engSet hwf rfl
    · next y _ _ =>
      have hland := arrives_engSet (e := e) hwf (x := tagLand { engGet s e with arrivals := (engGet s e).arrivals.filter fun z => z != y } y.tag)
        (tagLand_next _ _)
      have hnote := hland.trans (arrives_noteLate (decide (y.due < c)) c)
      exact hnote.trans (arrives_endHold (hnote.form hwf) _)

theorem arrives_foldl {α : Type} {f : State → α → State}
    (hf : ∀ s a, swf (fun _ => ({} : Engine)) s.engines = true → Arrives s (f s a) e) (l : List α)
    (hwf : swf (fun _ => ({} : Engine)) s.engines = true) : Arrives s (l.foldl f s) e := by
  induction l generalizing s with
  | nil => exact Arrives.refl s e
  | cons a l ih =>
    have hstep := hf s a hwf
    exact hstep.trans (ih (hstep.form hwf))

/-- The bytes that have come before the ARRIVE that declares them. -/
def earlyFor (x : Engine) (y : Arrival) : List (Nat × Nat × Nat) :=
  x.early.filter fun (k, off, n) => arrivalTakes y (k % 65536) (decide (65536 ≤ k)) off n

/-- The state in which an ARRIVE counts the bytes that have come before it. -/
def arrived (s : State) (v : BundleEvent) (y : Arrival) : State :=
  engSet { s with out := [] } v.engine { issued s v with
    arrivals := (engGet s v.engine).arrivals ++ [y], early := (engGet s v.engine).early.filter fun z => !(earlyFor (engGet s v.engine) y).contains z }

/-- What an ARRIVE declares. -/
def arrivalOf (s : State) (v : BundleEvent) (r : Run) : Arrival :=
  ⟨v.bundle.setTag, if r.partner = true ∧ decide (0 < v.bundle.dueBeat) = false then v.bundle.source + 64 else v.bundle.source,
    decide (0 < v.bundle.dueBeat), v.bundle.abOff, v.bundle.size, 0, v.bundle.due + (engGet s v.engine).hold, v.bundle.dueBeat⟩

/-- Early bytes are counted. -/
def countEarly (e c : Nat) (s : State) (z : Nat × Nat × Nat) : State :=
  arrivalCount s e (z.1 % 65536) (decide (65536 ≤ z.1)) z.2.1 z.2.2 c

theorem exec_arrive (h : Issues .arrive s v r) :
    exec (.arrive v) s = .next ((earlyFor (engGet s v.engine) (arrivalOf s v r)).foldl (countEarly v.engine (issueCycle s v))
      (arrived s v (arrivalOf s v r))) := by
  have hexec : exec (.arrive v) s = .next (issueBundle .arrive v (fun r c s =>
      (earlyFor (engGet s v.engine) (arrivalOf s v r)).foldl (countEarly v.engine c)
      (engSet s v.engine { engGet s v.engine with
        arrivals := (engGet s v.engine).arrivals ++ [arrivalOf s v r]
        early := (engGet s v.engine).early.filter fun z => !(earlyFor (engGet s v.engine) (arrivalOf s v r)).contains z }))
      { s with out := [] }) := by
    have hdef : exec (.arrive v) s = execArrive v s := rfl
    rw [hdef, execArrive]
    simp only [arrivalOf, Bool.not_eq_true']
    rfl
  have hx : engGet (engSet { s with out := [] } v.engine (issued s v)) v.engine = issued s v := engGet_afterIssue_same h.canon
  have hdeclared : arrivalOf (engSet { s with out := [] } v.engine (issued s v)) v r = arrivalOf s v r := by
    rw [arrivalOf, hx, issued_hold, arrivalOf]
  have hfor (y : Arrival) : earlyFor (issued s v) y = earlyFor (engGet s v.engine) y := by rw [earlyFor, issued_early, earlyFor]
  rw [hexec, issueBundle_quiet h]
  simp only [hdeclared, hx, hfor, issued_early, issued_arrivals]
  rw [show engSet (engSet { s with out := [] } v.engine (issued s v)) v.engine _ = _ from engSet_afterIssue h.canon _]
  rfl

theorem arrived_of_fresh {y : Arrival} (h : (engGet s v.engine).early = []) :
    arrived s v y = engSet { s with out := [] } v.engine { issued s v with arrivals := (engGet s v.engine).arrivals ++ [y] } := by
  have hkept : (issued s v).early = [] := (issued_early s v).trans h
  unfold arrived
  rw [h, List.filter_nil, ← hkept]

/-- Bytes that complete an ARRIVE in time land its tag (R116, R532). -/
theorem arrivalCount_completes {y : Arrival} {off n c : Nat} (hwf : swf (fun _ => ({} : Engine)) s.engines = true)
    (harrivals : (engGet s e).arrivals = [y]) (hholding : (engGet s e).holding = none)
    (htakes : arrivalTakes y y.source y.remote off n = true) (hall : y.count ≤ y.got + n) (hdue : c ≤ y.due) :
    arrivalCount s e y.source y.remote off n c = engSet s e (tagLand { engGet s e with arrivals := [] } y.tag) := by
  have hfor : arrivalFor [y] y.source y.remote off n = some y := by simp [arrivalFor, htakes]
  have hnone : [y].filter (fun z => z != y) = [] := by simp
  have hsame : (engGet (engSet s e (tagLand { engGet s e with arrivals := [] } y.tag)) e).holding = none := by
    rw [engGet_engSet_same hwf]
    unfold tagLand
    split <;> exact hholding
  unfold arrivalCount
  simp only [harrivals, hfor, if_neg (Nat.not_lt.mpr hall), hnone, noteLate, decide_eq_false (Nat.not_lt.mpr hdue), Bool.false_eq_true,
    if_false, endHold, hsame]

/-- Settles O31, a class at a time. -/
theorem nopFenceArriveChangeTheirEngineOnly : Obligations.NopFenceArriveChangeTheirEngineOnly := by
  intro s v r e b x remote source y
  refine ⟨fun h => ?_, fun h => execFenceBundle_issues h, fun h => ?_⟩
  · exact congrArg Host.Outcome.next (issueBundle_quiet h _)
  have hexec := exec_arrive h
  rw [show arrivalOf s v r = y from rfl] at hexec
  have hwf : swf (fun _ => ({} : Engine)) ({ s with out := [] } : State).engines = true := h.canon.engines
  have hget : engGet (arrived s v y) v.engine = { issued s v with
      arrivals := (engGet s v.engine).arrivals ++ [y]
      early := (engGet s v.engine).early.filter fun z => !(earlyFor (engGet s v.engine) y).contains z } := engGet_engSet_same hwf _ _
  refine ⟨fun hearly => ?_, fun harrivals hsize hsource hearly hdue => ?_, ?_⟩
  · have hnone : earlyFor (engGet s v.engine) y = [] := by rw [earlyFor, hearly, List.filter_nil]
    rw [hexec, hnone, List.foldl_nil, arrived_of_fresh hearly]
  · have htakes : arrivalTakes y source remote b.abOff b.size = true := by
      simp [arrivalTakes, y, hsize]
    have hmod : (source + if remote = true then 65536 else 0) % 65536 = source := by
      split <;> omega
    have hremote : decide (65536 ≤ source + if remote = true then 65536 else 0) = remote := by
      cases remote <;> simp [hsource]
    have hall : earlyFor (engGet s v.engine) y = [(source + if remote = true then 65536 else 0, b.abOff, b.size)] := by
      rw [earlyFor, hearly]
      simp only [List.filter_cons, hmod, hremote, htakes, if_true, List.filter_nil]
    have hgot : engGet (arrived s v y) v.engine = { issued s v with arrivals := [y], early := [] } := by
      rw [hget, hall, hearly, harrivals]
      simp
    have hcount := arrivalCount_completes (s := arrived s v y) (e := v.engine) (c := issueCycle s v) (swf_engSet hwf _ _)
      (by rw [hgot]) (by rw [hgot]; exact issued_holding s v) htakes (Nat.le_add_left _ _) hdue
    rw [hexec, hall, List.foldl_cons, List.foldl_nil, countEarly, hmod, hremote]
    refine congrArg Host.Outcome.next (hcount.trans ?_)
    rw [hgot]
    refine (engSet_engSet hwf v.engine _ _).trans ?_
    have harr : (issued s v).arrivals = [] := (issued_arrivals s v).trans harrivals
    rw [← harr]
  · have hstart : Arrives (afterIssue s v) (arrived s v y) v.engine := by
      refine ⟨?_, fun k hk => ?_, rfl, fun _ => swf_engSet hwf _ _⟩
      · rw [hget, engGet_afterIssue_same h.canon]
      · rw [engGet_afterIssue_other hk]
        exact engGet_engSet_other { s with out := [] } _ hk
    have hdone := hstart.trans (arrives_foldl (fun s z hwf => arrives_arrivalCount hwf _ _ _ _ _)
      (earlyFor (engGet s v.engine) y) (hstart.form (swf_engSet hwf _ _)) (f := countEarly v.engine (issueCycle s v)))
    refine ⟨_, hexec, hdone.next.trans ?_, fun k hk => (hdone.other k hk).trans (engGet_afterIssue_other hk), ?_⟩
    · rw [engGet_afterIssue_same h.canon, issued_next]
    · exact hdone.frame

end Sys2Proof.Machine

/-! The timers of sessions (R350, R352, R357, R383). -/

namespace Sys2Proof.Machine

open Sys2Proof Sys2Proof.Terms

variable {s : State} {n : Nat} {x : Session}

/-- A session once its retransmission timer has expired at a time (R350). -/
def timedOut (dt : Nat) (y : Session) : Session :=
  { y with
    kept := y.kept.map fun z => if z.sent then { z with resend := true } else z
    timeouts := y.timeouts + 1, timerAt := dt, rtoNs := max y.rtoNs (min (2 * y.rtoNs) 8000000) }

theorem exec_rtoExpiry (hopen : sessGet s n = some x) (hrun : linkRuns s = true) (hsent : x.kept.any (·.sent) = true)
    (hlimit : x.timeouts < retryLimit s) (hdue : x.timerAt + x.rtoNs * 2 ^ 32 ≤ s.clock.dt) :
    exec (.rtoExpiry n) s
      = .next (sessSet (regCount { s with out := [] } oUtxRetx 31 16 1) n (timedOut s.clock.dt x)) := by
  have hdef : exec (.rtoExpiry n) s = execRtoExpiry n s := rfl
  have hopen' : sessGet { s with out := [] } n = some x := hopen
  have hopen'' : sessGet (regCount { s with out := [] } oUtxRetx 31 16 1) n = some x := hopen
  have hgo : ¬((!linkRuns { s with out := [] }) = true ∨ (!x.kept.any (·.sent)) = true ∨ retryLimit { s with out := [] } ≤ x.timeouts
      ∨ s.clock.dt < x.timerAt + x.rtoNs * 2 ^ 32) := by
    rintro (h | h | h | h)
    · have hrun' : linkRuns { s with out := [] } = true := hrun
      simp [hrun'] at h
    · simp [hsent] at h
    · exact absurd hlimit (Nat.not_lt.mpr h)
    · exact absurd hdue (Nat.not_le.mpr h)
  rw [hdef]
  unfold execRtoExpiry
  simp only [hopen', if_neg hgo, sessMap_some hopen'']
  rfl

/-- Every packet sent is marked, and none is lost. -/
theorem kept_timedOut (dt : Nat) (x : Session) :
    (∀ z ∈ (timedOut dt x).kept, z.sent = true → z.resend = true) ∧ (timedOut dt x).kept.map (·.psn) = x.kept.map (·.psn) := by
  constructor
  · intro z hz hsent
    obtain ⟨k, -, rfl⟩ := List.mem_map.mp hz
    cases hk : k.sent
    · simp [hk] at hsent
    · simp
  · unfold timedOut
    rw [List.map_map]
    refine List.map_congr_left fun k _ => ?_
    dsimp only [Function.comp]
    split <;> rfl

/-- A failing session closes (R352). -/
theorem exec_sessionFail (hopen : sessGet s n = some x) (hrun : linkRuns s = true) (hlimit : retryLimit s ≤ x.timeouts) :
    exec (.sessionFail n) s
      = .next (closeSession (regCount (logEvent { s with out := [] } 0x0501 (unitOf 8 n) none []) oUtxFails 15 0 1) n) := by
  have hdef : exec (.sessionFail n) s = execSessionFail n s := rfl
  have hopen' : sessGet { s with out := [] } n = some x := hopen
  have hgo : linkRuns { s with out := [] } = true ∧ retryLimit { s with out := [] } ≤ x.timeouts := ⟨hrun, hlimit⟩
  rw [hdef]
  unfold execSessionFail
  simp only [hopen', if_pos hgo, failSession]

/-- Its node table entry is left without a session, and its streams close (R352, R381). -/
theorem closeSession_leaves (hopen : sessGet s n = some x) :
    (∀ z ∈ (closeSession s n).nodes, z.session ≠ some n)
      ∧ ∀ z ∈ (closeSession s n).streams, z.owner = n → z.closingNoEntry = true := by
  have hnodes : (closeSession s n).nodes = s.nodes.map fun k => if k.session = some n then { k with session := none } else k := by
    unfold closeSession
    simp only [hopen]
    split <;> rfl
  constructor
  · intro z hz
    rw [hnodes] at hz
    obtain ⟨k, -, rfl⟩ := List.mem_map.mp hz
    by_cases hk : k.session = some n
    · simp [hk]
    · rw [if_neg hk]
      exact hk
  · rw [(closeSession_open hopen).2]
    exact (closeStreams_streams s n).2

/-- Settles O48, a timer at a time. -/
theorem timersOfSessionsExpire : Obligations.TimersOfSessionsExpire := by
  unfold Obligations.TimersOfSessionsExpire
  refine ⟨fun s n x hc hopen hrun => ⟨fun hsent hlimit hdue => ?_, fun hlimit => ?_⟩, fun s k c hk hdue => ?_, fun s r hr hdue => ?_⟩
  · have hclosed : (timedOut s.clock.dt x).closed = false := (not_closed hopen : x.closed = false)
    obtain ⟨hmarked, hpsns⟩ := kept_timedOut s.clock.dt x
    refine ⟨_, timedOut s.clock.dt x, exec_rtoExpiry hopen hrun hsent hlimit hdue, ?_, hmarked, hpsns, rfl, rfl, rfl, ?_,
      fun k hk => ?_, fun a ha => ?_, rfl⟩
    · rw [sessGet_sessSet_same, if_neg (by simp [hclosed])]
    · exact regF_regCount_same (s := { s with out := [] }) hc.regs oUtxRetx 1 (by decide) (by decide)
    · exact sessGet_sessSet_other (regCount { s with out := [] } oUtxRetx 31 16 1) _ hk
    · exact regGet_regCount_other { s with out := [] } 31 16 1 (by simpa using ha)
  · obtain ⟨u, hu, hsess, hhead, hregs, hlog⟩ : ∃ u, logEvent { s with out := [] } 0x0501 (unitOf 8 n) none [] = u
        ∧ u.sessions = s.sessions ∧ (u.events.head?.map (·.code)) = some 0x501 ∧ u.regs = s.regs
        ∧ u = { s with out := [], events := u.events, nextSeq := u.nextSeq } := ⟨_, rfl, rfl, rfl, rfl, rfl⟩
    have hexec := exec_sessionFail hopen hrun hlimit
    rw [hu] at hexec
    have hrise : keysRise (regCount u oUtxFails 15 0 1).sessions = true := by
      rw [show (regCount u oUtxFails 15 0 1).sessions = s.sessions from hsess]
      exact hc.sessions
    have hget (k : Nat) : sessGet (regCount u oUtxFails 15 0 1) k = sessGet s k := by
      rw [sessGet_eq, show (regCount u oUtxFails 15 0 1).sessions = s.sessions from hsess, sessGet_eq]
    have hframe := closeSession_frame (regCount u oUtxFails 15 0 1) n
    obtain ⟨hnodes, hstreams⟩ := closeSession_leaves ((hget n).trans hopen)
    have hwf : swf resetWord u.regs = true := by rw [hregs]; exact hc.regs
    refine ⟨_, hexec, sessGet_closeSession_same hrise n, fun k hk => (sessGet_closeSession_other hk).trans (hget k), ?_, ?_,
      fun a ha => ?_, hnodes, hstreams, ?_⟩
    · exact (congrArg (fun t : State => t.events.head?.map (·.code)) hframe).trans hhead
    · rw [regF, regGet_congr (congrArg State.regs hframe)]
      refine (regF_regCount_same hwf oUtxFails 1 (by decide) (by decide)).trans ?_
      rw [regF, regGet_congr hregs]
      rfl
    · rw [regGet_congr (congrArg State.regs hframe)]
      exact (regGet_regCount_other u 15 0 1 (by simpa using ha)).trans (regGet_congr hregs a)
    · obtain ⟨t, ht⟩ : ∃ t, closeSession (regCount u oUtxFails 15 0 1) n = t := ⟨_, rfl⟩
      rw [ht] at hframe ⊢
      rw [hframe, hlog]
      rfl
  · have hdef : exec (.challengeExpiry k) s = execChallengeExpiry k s := rfl
    rw [hdef]
    unfold execChallengeExpiry
    simp only [hk]
    exact if_pos hdue
  · refine ⟨_, rfl, fun hmem => ?_, fun z hz hne => ?_, rfl⟩
    · have hkeep := (List.mem_filter.mp hmem).2
      have hdue' : decide (r.made + seconds 60 ≤ s.clock.dt) = true := decide_eq_true hdue
      simp [hdue'] at hkeep
    · refine List.mem_filter.mpr ⟨hz, ?_⟩
      simp [hne]

end Sys2Proof.Machine

/-! Frames that are filtered, and the reserve that pays for those that are not (R334 to R338, R356). -/

namespace Sys2Proof.Machine

open Sys2Proof Sys2Proof.Terms

variable {s u : State} {port iface slots : Nat} {f : EthFrame}

/-! ## Registers -/

/-- The field of all 32 bits is the word. -/
theorem getF_word (w : Word) : getF w 31 0 = w.toNat := Nat.mod_eq_of_lt w.isLt

/-- A field set to what it reads leaves its word. -/
theorem setF_getF_self (w : Word) : setF w 31 0 (getF w 31 0) = w := by
  apply BitVec.eq_of_toNat_eq
  rw [← getF_word, getF_setF_same w _ (by decide) (by decide), getF_word]
  exact Nat.mod_eq_of_lt w.isLt

/-- A register that takes what it holds stays. -/
theorem regSet_self (h : swf resetWord s.regs = true) (a : Nat) : regSet s a (regGet s a) = s := by
  have hregs : (regSet s a (regGet s a)).regs = s.regs := by
    refine sget_ext (swf_regSet h a _) h fun b => ?_
    by_cases hb : b = a
    · subst hb
      exact regGet_regSet_same h b _
    · exact regGet_regSet_other s _ hb
  have hframe : regSet s a (regGet s a) = { s with regs := (regSet s a (regGet s a)).regs } := rfl
  rw [hframe, hregs]

/-- A counter to which nothing is added stays. -/
theorem regWrap_zero (h : swf resetWord s.regs = true) (a : Nat) : regWrap s a 31 0 0 = s := by
  rw [regWrap, Nat.add_zero, regSetF, regF, setF_getF_self, regSet_self h]

/-! ## The reserve -/

/-- With 512 free slots, and no XOFF that waits to be lifted, PFC stays as it is (R337). -/
theorem pfcWatch_quiet {free : Nat} (hxoff : s.xoff = false) (hfree : 512 ≤ free) : pfcWatch s free = s := by
  unfold pfcWatch
  simp only [hxoff, Nat.not_lt.mpr hfree, Bool.false_eq_true, false_and, and_false, if_false]

/-- A frame that the reserve pays for with room to spare is counted and used (R356, R366). -/
theorem chargeReserve_spare {use : State → State} (hxoff : s.xoff = false) (hslots : slots ≤ 1024) (hfree : slots + 512 ≤ rxFree s)
    (huse : ∀ u, u.xoff = false → (use u).xoff = false ∧ (use u).sessions = u.sessions) :
    chargeReserve s port slots use = use (countRx s port) := by
  obtain ⟨hxoff', hsess⟩ := huse (countRx s port) hxoff
  have hfree' : rxFree (use (countRx s port)) = rxFree s := by rw [rxFree, hsess]; rfl
  have hgo : ¬(1024 < slots ∨ rxFree s < slots) := by omega
  unfold chargeReserve
  rw [if_neg hgo, pfcWatch_quiet hxoff (by omega)]
  exact pfcWatch_quiet hxoff' (by rw [hfree']; omega)

theorem countRx_frame (s : State) (port : Nat) : countRx s port = { s with regs := (countRx s port).regs } := rfl

/-- A counter that wraps is one register. -/
theorem regsBut_regWrap (s : State) (a hi lo n : Nat) {l : List Nat} (h : a ∈ l) : RegsBut s (regWrap s a hi lo n) l :=
  fun _ hb => regGet_regWrap_other s hi lo n fun heq => hb (heq ▸ h)

theorem regsBut_regCount (s : State) (a hi lo n : Nat) {l : List Nat} (h : a ∈ l) : RegsBut s (regCount s a hi lo n) l :=
  fun _ hb => regGet_regCount_other s hi lo n fun heq => hb (heq ▸ h)

/-! ## ETH_FRAME_RX -/

/-- What becomes of a frame in whose reception FEC has corrected nothing (R334 to R338). -/
def frameTaken (s : State) (f : EthFrame) : State :=
  if lostEarly f.kind then frameKind s f
  else if maxFrame s f.port < f.size ∨ !vlanAdmits s f.port f.iface f.vid then filterFrame s f.port
  else if !macsecOn s f.port f.iface then if f.isProtected then filterFrame s f.port else frameKind s f
  else ((if f.isProtected then takeProtected s f.port f.iface f.an f.pn f.keyed else none).map fun s => frameKind s f).getD
    (regWrap s (oEth f.port + 0x3C) 31 0 1)

theorem exec_ethFrameRx (hc : Canonical s) (htakes : takesFrames s f.port f.iface = true) (hfec : f.fecCorrected = 0) :
    exec (.ethFrameRx f) s = .next (frameTaken { s with out := [] } f) := by
  obtain ⟨u, hu, hwrap⟩ : ∃ u, { s with out := [] } = u ∧ regWrap u (oEth f.port + 0x20) 31 0 0 = u :=
    ⟨_, rfl, regWrap_zero (s := { s with out := [] }) hc.regs _⟩
  have htakes' : takesFrames u f.port f.iface = true := by rw [← hu]; exact htakes
  have hdef : exec (.ethFrameRx f) s = execEthFrameRx f s := rfl
  rw [hdef]
  unfold execEthFrameRx frameTaken
  rw [hu]
  simp only [htakes', hfec, hwrap, Bool.not_true, Bool.false_eq_true, if_false]
  split
  · rfl
  · split
    · rfl
    · split
      · rfl
      · split
        · next h => rw [h]; rfl
        · next h => rw [h]; rfl

/-- A frame that the filters and MACsec let through, and the state in which it is looked at: that of its arrival, but that the
lowest packet number of its key may have moved (R338). -/
theorem exec_ethFrameRx_admitted (hc : Canonical s) (htakes : takesFrames s f.port f.iface = true) (hfec : f.fecCorrected = 0)
    (hearly : lostEarly f.kind = false) (hsize : f.size ≤ maxFrame s f.port) (hvlan : vlanAdmits s f.port f.iface f.vid = true)
    (hsec : macsecOn s f.port f.iface = false ∧ f.isProtected = false
      ∨ macsecOn s f.port f.iface = true ∧ f.isProtected = true
        ∧ ∃ k, sakOf s f.port f.iface f.an = some k ∧ k.lowest ≤ f.pn ∧ sealOk s f.port f.iface k f.keyed = true) :
    ∃ saks, exec (.ethFrameRx f) s = .next (frameKind { s with out := [], saks := saks } f) := by
  have hvlan' : vlanAdmits { s with out := [] } f.port f.iface f.vid = true := hvlan
  have hsize' : ¬maxFrame { s with out := [] } f.port < f.size := Nat.not_lt.mpr hsize
  rw [exec_ethFrameRx hc htakes hfec, frameTaken]
  rcases hsec with ⟨hoff, hplain⟩ | ⟨hon, hprot, k, hk, hpn, hseal⟩
  · refine ⟨s.saks, ?_⟩
    have hoff' : macsecOn { s with out := [] } f.port f.iface = false := hoff
    simp only [hearly, hvlan', hsize', Bool.not_true, or_self, hoff', hplain, Bool.not_false, if_true, Bool.false_eq_true, if_false]
  · have hk' : sakOf { s with out := [] } f.port f.iface f.an = some k := hk
    have hseal' : sealOk { s with out := [] } f.port f.iface k f.keyed = true := hseal
    refine ⟨s.saks.map fun x => if x.port = f.port ∧ x.iface = f.iface ∧ x.an = f.an then { x with lowest := f.pn + 1 } else x, ?_⟩
    have hon' : macsecOn { s with out := [] } f.port f.iface = true := hon
    simp only [hearly, hvlan', hsize', or_self, hon', hprot, Bool.not_true, Bool.false_eq_true, if_false, if_true, takeProtected, hk',
      Option.bind_some, hseal',
      Nat.not_lt.mpr hpn, Option.map_some, Option.getD_some]

/-- A frame that MACsec refuses is counted apart (R338). -/
theorem exec_ethFrameRx_refused (hc : Canonical s) (htakes : takesFrames s f.port f.iface = true) (hfec : f.fecCorrected = 0)
    (hearly : lostEarly f.kind = false) (hsize : f.size ≤ maxFrame s f.port) (hvlan : vlanAdmits s f.port f.iface f.vid = true)
    (hon : macsecOn s f.port f.iface = true)
    (hbad : f.isProtected = false ∨ ∀ k, sakOf s f.port f.iface f.an = some k →
      f.pn < k.lowest ∨ sealOk s f.port f.iface k f.keyed = false) :
    exec (.ethFrameRx f) s = .next (regWrap { s with out := [] } (oEth f.port + 0x3C) 31 0 1) := by
  have hvlan' : vlanAdmits { s with out := [] } f.port f.iface f.vid = true := hvlan
  have hsize' : ¬maxFrame { s with out := [] } f.port < f.size := Nat.not_lt.mpr hsize
  have hnone : (if f.isProtected then takeProtected { s with out := [] } f.port f.iface f.an f.pn f.keyed else none) = none := by
    split
    · next hprot =>
      have hkeys := hbad.resolve_left (by simp [hprot])
      unfold takeProtected
      cases hk : sakOf { s with out := [] } f.port f.iface f.an with
      | none => rfl
      | some k =>
        refine if_pos ?_
        rcases hkeys k hk with hlow | hseal
        · exact .inr hlow
        · have hseal' : sealOk { s with out := [] } f.port f.iface k f.keyed = false := hseal
          exact .inl (by simp [hseal'])
    · rfl
  have hon' : macsecOn { s with out := [] } f.port f.iface = true := hon
  rw [exec_ethFrameRx hc htakes hfec, frameTaken, hnone]
  simp only [hearly, hvlan', hsize', or_self, hon', Bool.not_true, Bool.false_eq_true, if_false, Option.map_none, Option.getD_none]

/-! ## BOOT packets -/

theorem bootsIn_countBoot (s : State) (port : Nat) : bootsIn (countBoot s port) port = bootsIn s port + 1 := by
  have hfind : (s.bootCount.filter fun y => y.1 != port).find? (fun y => y.1 == port && y.2.1 == dtSec s) = none := by
    rw [List.find?_eq_none]
    intro y hy
    have := (List.mem_filter.mp hy).2
    simp_all
  have hsec : dtSec (countBoot s port) = dtSec s := rfl
  unfold bootsIn at *
  rw [hsec]
  simp only [countBoot, List.find?_append, hfind, Option.none_or]
  simp [bootsIn]

/-- A BOOT packet that the reserve pays for (R354). -/
theorem bootRefused_spare {length : Nat} {op : Byte} {addr udp : Nat} {tag : BitVec 32} (hxoff : s.xoff = false) (hslots : slots ≤ 1024)
    (hfree : slots + 512 ≤ rxFree s) (hip : ipOn s port iface addr = true) :
    bootRefused s port iface slots length op addr udp tag
      = (fun s => if segmentOf s port < length then s
          else if 1024 ≤ bootsIn s port then regCount s oUtxFails 31 16 1
          else sendReply (countBoot s port) { origin := .boot port iface addr udp, session := 0xFFFF, tag := tag } op
            (if isReady s then .priv else .busy) [] 0xFFFFFFFF) (countRx s port) := by
  unfold bootRefused
  simp only [hip, Bool.not_true, Bool.false_eq_true, if_false]
  refine chargeReserve_spare hxoff hslots hfree fun u hu => ?_
  split
  · exact ⟨hu, rfl⟩
  · split
    · exact ⟨hu, rfl⟩
    · exact ⟨hu, rfl⟩

/-- The count of frames is none of the registers that size a segment. -/
theorem segmentOf_countRx (s : State) (port : Nat) : segmentOf (countRx s port) port = segmentOf s port := by
  have hreg : regF (countRx s port) (oEth port) 15 2 = regF s (oEth port) 15 2 :=
    congrArg (fun w => getF w 15 2) (regGet_regWrap_other s 31 0 1 (by omega))
  rw [segmentOf, maxFrame, hreg, segmentOf, maxFrame]

/-- A frame that a filter drops is counted (R334 to R336). -/
theorem filterFrame_counts (hc : Canonical s) (port : Nat) :
    let t := filterFrame { s with out := [] } port
    regF t (oEth port + 0x38) 15 0 = min 65535 (regF s (oEth port + 0x38) 15 0 + 1)
      ∧ RegsBut s t [oEth port + 0x38] ∧ t = { s with out := [], regs := t.regs } :=
  ⟨regF_regCount_same (s := { s with out := [] }) hc.regs _ 1 (by decide) (by decide),
    regsBut_regCount { s with out := [] } _ _ _ _ (List.mem_singleton.mpr rfl), rfl⟩

theorem regsBut_mono {l m : List Nat} (h : RegsBut s u l) (hsub : ∀ a ∈ l, a ∈ m) : RegsBut s u m :=
  fun a ha => h a fun hl => ha (hsub a hl)

/-- A frame that MACsec refuses is counted apart (R338). -/
theorem macsec_counts (hc : Canonical s) (port : Nat) :
    let t := regWrap { s with out := [] } (oEth port + 0x3C) 31 0 1
    regF t (oEth port + 0x3C) 31 0 = (regF s (oEth port + 0x3C) 31 0 + 1) % 2 ^ 32
      ∧ RegsBut s t [oEth port + 0x20, oEth port + 0x3C] ∧ t = { s with out := [], regs := t.regs } :=
  ⟨regF_regWrap_same (s := { s with out := [] }) hc.regs _ 1 (by decide) (by decide),
    regsBut_regWrap { s with out := [] } _ _ _ _ (.tail _ (.head _)), rfl⟩

/-! ## PFC (R337) -/

theorem exec_pfcFrame {priority : BitVec 3} {ns : Nat} (hrun : linkRuns s = true) (hport : port < 2)
    (hon : (pfcEnabled s port).testBit priority.toNat = true) :
    exec (.pfcFrame port priority ns) s = .next { countRx { s with out := [] } port with
      pauses := (s.pauses.filter fun y => !(y.port == port && y.priority == priority))
        ++ if ns = 0 then [] else [{ port := port, priority := priority, until_ := s.clock.wall + ns }] } := by
  have hdef : exec (.pfcFrame port priority ns) s = execPfcFrame port priority ns s := rfl
  have hrun' : linkRuns { s with out := [] } = true := hrun
  have hon' : (pfcEnabled { s with out := [] } port).testBit priority.toNat = true := hon
  rw [hdef]
  unfold execPfcFrame
  simp only [hrun', hon', Nat.not_le.mpr hport, Bool.not_true, Bool.false_eq_true, or_self, if_false]
  split
  · rw [List.append_nil]
  · rfl

/-- Settles O49, a kind of frame at a time. -/
theorem framesAreFilteredAndPausesKept : Obligations.FramesAreFilteredAndPausesKept := by
  unfold Obligations.FramesAreFilteredAndPausesKept
  refine ⟨fun s f hc htakes hfec => ⟨fun hearly hbad => ?_, fun hkind => ?_, fun hearly hsize hvlan => ⟨fun hoff hprot => ?_,
    fun hon hbad => ?_⟩, fun hsize hvlan hsec hxoff hslots hfree => ⟨fun hkind => ?_, fun op addr udp tag hkind hip hboots =>
      ⟨fun hlong => ?_, fun hshort => ?_⟩⟩⟩, fun s port priority ns hrun hport => ⟨fun hon => ?_, fun hoff => ?_, ?_⟩⟩
  · obtain ⟨hcount, hbut, hframe⟩ := filterFrame_counts hc f.port
    refine ⟨_, (exec_ethFrameRx hc htakes hfec).trans (congrArg _ ?_), hcount, regsBut_mono hbut fun a ha => .tail _ ha, hframe⟩
    have hbad' : maxFrame { s with out := [] } f.port < f.size ∨ (!vlanAdmits { s with out := [] } f.port f.iface f.vid) = true :=
      hbad.imp id fun h => by rw [Bool.not_eq_true']; exact h
    rw [frameTaken, hearly, if_neg Bool.false_ne_true, if_pos hbad']
  · obtain ⟨hcount, hbut, hframe⟩ := macsec_counts hc f.port
    refine ⟨_, (exec_ethFrameRx hc htakes hfec).trans (congrArg _ ?_), hcount, hbut, hframe⟩
    simp only [frameTaken, hkind, lostEarly, if_true, frameKind]
  · obtain ⟨hcount, hbut, hframe⟩ := filterFrame_counts hc f.port
    refine ⟨_, (exec_ethFrameRx hc htakes hfec).trans (congrArg _ ?_), hcount, regsBut_mono hbut fun a ha => .tail _ ha, hframe⟩
    have hvlan' : vlanAdmits { s with out := [] } f.port f.iface f.vid = true := hvlan
    have hsize' : ¬maxFrame { s with out := [] } f.port < f.size := Nat.not_lt.mpr hsize
    have hoff' : macsecOn { s with out := [] } f.port f.iface = false := hoff
    simp only [frameTaken, hearly, hvlan', hsize', hoff', hprot, Bool.not_true, Bool.not_false, Bool.false_eq_true, or_self, if_false, if_true]
  · obtain ⟨hcount, hbut, hframe⟩ := macsec_counts hc f.port
    exact ⟨_, exec_ethFrameRx_refused hc htakes hfec hearly hsize hvlan hon hbad, hcount, hbut, hframe⟩
  · obtain ⟨saks, hexec⟩ := exec_ethFrameRx_admitted hc htakes hfec (by rw [hkind]; rfl) hsize hvlan hsec
    have hcharge : chargeReserve { s with out := [], saks := saks } f.port f.slots id = countRx { s with out := [], saks := saks } f.port :=
      chargeReserve_spare (s := { s with out := [], saks := saks }) hxoff hslots hfree fun u hu => ⟨hu, rfl⟩
    simp only [frameKind, hkind, hcharge] at hexec
    exact ⟨_, hexec, regF_regWrap_same (s := { s with out := [], saks := saks }) hc.regs _ 1 (by decide) (by decide),
      regsBut_regWrap { s with out := [], saks := saks } _ _ _ _ (.tail _ (.head _)), rfl⟩
  · obtain ⟨saks, hexec⟩ := exec_ethFrameRx_admitted hc htakes hfec (by rw [hkind]; rfl) hsize hvlan hsec
    have hboot := bootRefused_spare (s := { s with out := [], saks := saks }) (port := f.port) (iface := f.iface) (length := f.length) (op := op)
      (addr := addr) (udp := udp) (tag := tag) hxoff hslots hfree hip
    have hseg : segmentOf (countRx { s with out := [], saks := saks } f.port) f.port = segmentOf s f.port := segmentOf_countRx _ _
    simp only [frameKind, hkind, hboot, hseg, hlong, if_true] at hexec
    exact ⟨_, hexec, regsBut_regWrap { s with out := [], saks := saks } _ _ _ _ (.tail _ (.head _)), rfl⟩
  · obtain ⟨saks, hexec⟩ := exec_ethFrameRx_admitted hc htakes hfec (by rw [hkind]; rfl) hsize hvlan hsec
    have hboot := bootRefused_spare (s := { s with out := [], saks := saks }) (port := f.port) (iface := f.iface) (length := f.length) (op := op)
      (addr := addr) (udp := udp) (tag := tag) hxoff hslots hfree hip
    have hseg : segmentOf (countRx { s with out := [], saks := saks } f.port) f.port = segmentOf s f.port := segmentOf_countRx _ _
    have hfew : ¬1024 ≤ bootsIn (countRx { s with out := [], saks := saks } f.port) f.port := Nat.not_le.mpr hboots
    simp only [frameKind, hkind, hboot, hseg, Nat.not_lt.mpr hshort, hfew, if_false] at hexec
    refine ⟨_, _, _, hexec, rfl, rfl, rfl, rfl, rfl, rfl, ?_, ?_⟩
    · exact bootsIn_countBoot s f.port
    · rfl
  · refine ⟨_, exec_pfcFrame hrun hport hon, fun z hz hne => ?_, fun z hz hp hq => ?_, ?_, rfl⟩
    · refine List.mem_append_left _ (List.mem_filter.mpr ⟨hz, ?_⟩)
      simpa [Bool.and_eq_true, imp_iff_not_or] using hne
    · rcases List.mem_append.mp hz with hold | hnew
      · simp [hp, hq] at hold
      · split at hnew
        · cases hnew
        · rw [List.mem_singleton.mp hnew]
    · constructor
      · rintro ⟨z, hz, hp, hq⟩ h0
        rw [h0, if_pos rfl, List.append_nil] at hz
        simp [hp, hq] at hz
      · intro hne
        exact ⟨_, List.mem_append_right _ (by rw [if_neg hne]; exact .head _), rfl, rfl⟩
  · have hdef : exec (.pfcFrame port priority ns) s = execPfcFrame port priority ns s := rfl
    have hoff' : (pfcEnabled { s with out := [] } port).testBit priority.toNat = false := hoff
    rw [hdef]
    unfold execPfcFrame
    simp only [hoff', Bool.not_false, or_true, if_true]
  · refine ⟨_, rfl, fun z => ?_, rfl⟩
    simp only [List.mem_filter, Bool.not_eq_true', Bool.and_eq_false_iff, beq_eq_false_iff_ne, decide_eq_false_iff_not]
    refine and_congr_right fun _ => ?_
    tauto

end Sys2Proof.Machine

/-! Requests to the interface's own address (R336, R337). -/

namespace Sys2Proof.Machine

open Sys2Proof Sys2Proof.Terms

variable {s : State} {port iface own target : Nat} {f : OutFrame}

theorem heldIpOn_frame : heldIpOn s { port := port, iface := iface, what := .frame f }
    = (frameIp s port iface f).all fun w => ownIp s port iface w.v6 != 0 := rfl

theorem ipWire_v6 (v6 : Bool) (dst : Option Nat) : (ipWire s port iface v6 dst).v6 = v6 := rfl

/-- A frame in an IP version that its interface speaks (R335). -/
theorem heldIpOn_of_ip {v6 : Bool} (hf : frameIp s port iface f = some (ipWire s port iface v6 none)) (h : ownIp s port iface v6 ≠ 0) :
    heldIpOn s { port := port, iface := iface, what := .frame f } = true := by
  rw [heldIpOn_frame, hf, Option.all_some, ipWire_v6]
  generalize ownIp s port iface v6 = a at *
  exact bne_iff_ne.mpr h

/-- A request for another address is dropped and counted. -/
theorem answerRequest_drops (hc : Canonical s) (htakes : takesFrames s port iface = true) (hother : own = 0 ∨ own ≠ target) :
    ∃ t, answerRequest s port iface own target f = .next t
      ∧ regF t (oEth port + 0x38) 15 0 = min 65535 (regF s (oEth port + 0x38) 15 0 + 1)
      ∧ RegsBut s t [oEth port + 0x38] ∧ t = { s with out := [], regs := t.regs } := by
  have htakes' : takesFrames { s with out := [] } port iface = true := htakes
  refine ⟨_, ?_, filterFrame_counts hc port⟩
  unfold answerRequest
  simp only [htakes', Bool.not_true, Bool.false_eq_true, if_false, if_pos hother]

/-- A frame that a control core sends leaves its sessions and PFC alone. -/
theorem sendOrHold_quiet (s : State) (port iface : Nat) (f : OutFrame) :
    (sendOrHold s port iface (.frame f)).xoff = s.xoff ∧ (sendOrHold s port iface (.frame f)).sessions = s.sessions := by
  unfold sendOrHold
  dsimp only
  split
  · unfold sendHeld sendFrame useSak
    dsimp only
    split <;> exact ⟨rfl, rfl⟩
  · exact ⟨rfl, rfl⟩

/-- The registers that say whether an interface may send are none of the counters. -/
theorem maySendOn_countRx (s : State) (port iface : Nat) : maySendOn (countRx s port) port iface = maySendOn s port iface := by
  have hreg (a hi lo : Nat) (h : a ≠ oEth port + 0x30) : regF (countRx s port) a hi lo = regF s a hi lo :=
    congrArg (fun w => getF w hi lo) (regGet_regWrap_other s 31 0 1 h)
  have hpfc : pfcEnabled (countRx s port) port = pfcEnabled s port := hreg _ _ _ (by omega)
  have hpcp : pcpOf (countRx s port) port iface = pcpOf s port iface := hreg _ _ _ (by unfold oEthIf; omega)
  have hmac : macsecOn (countRx s port) port iface = macsecOn s port iface :=
    congrArg (· == 1) (hreg _ _ _ (by unfold oEthIf; omega))
  have hxpn : xpnOn (countRx s port) port iface = xpnOn s port iface :=
    congrArg (· == 1) (hreg _ _ _ (by unfold oEthIf; omega))
  have han : txAn (countRx s port) port iface = txAn s port iface :=
    congrArg (BitVec.ofNat 2) (hreg _ _ _ (by unfold oEthIf; omega))
  have hsak (an : BitVec 2) : sakOf (countRx s port) port iface an = sakOf s port iface an := rfl
  have hpauses : (countRx s port).pauses = s.pauses := rfl
  unfold maySendOn ifacePaused
  rw [hpfc, hpcp, hmac, hxpn, han, hsak, hpauses]

theorem useSak_frame (s : State) (port iface : Nat) : useSak s port iface = { s with saks := (useSak s port iface).saks } := by
  unfold useSak
  split <;> rfl

/-- A frame of a control core leaves at once where its interface may send it. -/
theorem sendOrHold_sends (hmay : maySendOn s port iface = true)
    (hip : heldIpOn s { port := port, iface := iface, what := .frame f } = true) :
    ∃ w, sendOrHold s port iface (.frame f) = emit (countTx (useSak s port iface) port) (.frame port iface w f) :=
  ⟨wireOf s port iface (frameIp s port iface f), if_pos (by rw [hmay, hip]; rfl)⟩

theorem sendOrHold_holds (hmay : maySendOn s port iface = false) :
    sendOrHold s port iface (.frame f) = { s with heldOut := s.heldOut ++ [⟨port, iface, .frame f⟩] } :=
  if_neg (by rw [hmay]; exact Bool.false_ne_true)

/-- A request to the interface's own address is answered with a frame, at once or when the interface may send (R336, R356). -/
theorem answerRequest_answers (hc : Canonical s) (htakes : takesFrames s port iface = true) (hown : own ≠ 0) (heq : own = target)
    (hxoff : s.xoff = false) (hfree : 513 ≤ rxFree s)
    (hip : heldIpOn (countRx { s with out := [] } port) { port := port, iface := iface, what := .frame f } = true) :
    ∃ t, answerRequest s port iface own target f = .next t
      ∧ (maySendOn s port iface = true → (∃ w, t.out = [.frame port iface w f])
          ∧ regF t (oEth port + 0x34) 31 0 = (regF s (oEth port + 0x34) 31 0 + 1) % 2 ^ 32
          ∧ RegsBut s t [oEth port + 0x30, oEth port + 0x34] ∧ t = { s with out := t.out, regs := t.regs, saks := t.saks })
      ∧ (maySendOn s port iface = false → RegsBut s t [oEth port + 0x30]
          ∧ t = { s with out := [], regs := t.regs, heldOut := s.heldOut ++ [⟨port, iface, .frame f⟩] }) := by
  have htakes' : takesFrames { s with out := [] } port iface = true := htakes
  have hgo : ¬(own = 0 ∨ own ≠ target) := by
    rintro (h | h)
    · exact hown h
    · exact h heq
  have hcharge : chargeReserve { s with out := [] } port 1 (fun s => sendOrHold s port iface (.frame f))
      = sendOrHold (countRx { s with out := [] } port) port iface (.frame f) :=
    chargeReserve_spare (s := { s with out := [] }) hxoff (by decide) hfree fun u hu =>
      ⟨(sendOrHold_quiet u port iface f).1.trans hu, (sendOrHold_quiet u port iface f).2⟩
  have hexec : answerRequest s port iface own target f = .next (sendOrHold (countRx { s with out := [] } port) port iface (.frame f)) := by
    unfold answerRequest
    simp only [htakes', Bool.not_true, Bool.false_eq_true, if_false, if_neg hgo, hcharge]
  have hsame : maySendOn (countRx { s with out := [] } port) port iface = maySendOn s port iface := maySendOn_countRx { s with out := [] } port iface
  have hrx : RegsBut s (countRx { s with out := [] } port) [oEth port + 0x30] :=
    regsBut_regWrap { s with out := [] } _ _ _ _ (.head _)
  refine ⟨_, hexec, fun hmay => ?_, fun hmay => ?_⟩
  · obtain ⟨w, hsent⟩ := sendOrHold_sends (f := f) (hsame.trans hmay) hip
    rw [hsent]
    have hframe := useSak_frame (countRx { s with out := [] } port) port iface
    obtain ⟨u, hu⟩ : ∃ u, useSak (countRx { s with out := [] } port) port iface = u := ⟨_, rfl⟩
    rw [hu] at hframe ⊢
    have hregs : u.regs = (countRx { s with out := [] } port).regs := by rw [hframe]
    have hwf : swf resetWord u.regs = true := by
      rw [hregs]
      exact swf_regSet (s := { s with out := [] }) hc.regs _ _
    refine ⟨⟨w, by rw [hframe]; rfl⟩, ?_, fun a ha => ?_, by rw [hframe]; rfl⟩
    · refine (regF_regWrap_same hwf (oEth port + 0x34) 1 (by decide) (by decide)).trans ?_
      rw [regF, regGet_congr hregs, hrx _ (by simp), regF]
    · simp only [List.mem_cons, List.not_mem_nil, or_false, not_or] at ha
      refine (regGet_regWrap_other u 31 0 1 ha.2).trans ((regGet_congr hregs a).trans (hrx a ?_))
      simpa using ha.1
  · rw [sendOrHold_holds (hsame.trans hmay)]
    exact ⟨hrx, rfl⟩

/-- An address that is not 0 is not the one of an interface that speaks no such version. -/
theorem toNat_ne_zero {w : Nat} {a : BitVec w} (h : a ≠ 0) : a.toNat ≠ 0 := fun h0 => h (BitVec.eq_of_toNat_eq h0)

/-- Nothing answers to the address 0, or to another. -/
theorem other_of_target {w : Nat} {a : BitVec w} (h : a = 0 ∨ own ≠ a.toNat) : own = 0 ∨ own ≠ a.toNat := by
  rcases h with rfl | h
  · by_cases h0 : own = 0
    · exact .inl h0
    · exact .inr h0
  · exact .inr h

theorem ownIp_countRx (s : State) (port iface : Nat) (v6 : Bool) : ownIp (countRx s port) port iface v6 = ownIp s port iface v6 := by
  have hreg (a hi lo : Nat) (h : a ≠ oEth port + 0x30) : regF (countRx s port) a hi lo = regF s a hi lo :=
    congrArg (fun w => getF w hi lo) (regGet_regWrap_other s 31 0 1 h)
  have h4 : ipv4Of (countRx s port) port iface = ipv4Of s port iface := hreg _ _ _ (by unfold oEthIf; omega)
  have h6 : ipv6Of (countRx s port) port iface = ipv6Of s port iface := by
    unfold ipv6Of
    simp only [hreg _ 31 0 (show oEthIf port iface + 0x10 + 4 * 0 ≠ oEth port + 0x30 by unfold oEthIf; omega),
      hreg _ 31 0 (show oEthIf port iface + 0x10 + 4 * 1 ≠ oEth port + 0x30 by unfold oEthIf; omega),
      hreg _ 31 0 (show oEthIf port iface + 0x10 + 4 * 2 ≠ oEth port + 0x30 by unfold oEthIf; omega),
      hreg _ 31 0 (show oEthIf port iface + 0x10 + 4 * 3 ≠ oEth port + 0x30 by unfold oEthIf; omega)]
  rw [ownIp, h4, h6, ownIp]

/-- An interface that has the address asked for speaks its IP version. -/
theorem heldIpOn_own {v6 : Bool} (hf : ∀ u, frameIp u port iface f = some (ipWire u port iface v6 none))
    (h : ownIp s port iface v6 ≠ 0) :
    heldIpOn (countRx { s with out := [] } port) { port := port, iface := iface, what := .frame f } = true := by
  refine heldIpOn_of_ip (hf _) ?_
  rw [ownIp_countRx]
  exact h

theorem ownIp_v6 : ownIp s port iface true = ipv6Of s port iface := if_pos rfl

theorem exec_icmpEchoRequest (v6 : Bool) (target : BitVec 128) (size : Nat) :
    exec (.icmpEchoRequest port iface v6 target size) s = answerRequest s port iface
      (if maxFrame s port < size then 0 else if v6 then ipv6Of s port iface else ipv4Of s port iface) target.toNat (.echoReply v6 size) := rfl

/-- Settles O50: each request is answered or dropped by the one rule of R336. -/
theorem ownAddressesAreAnswered : Obligations.OwnAddressesAreAnswered := by
  intro s port iface hc htakes Sent Dropped
  refine ⟨fun target => ⟨fun hne heq hxoff hfree => ?_, fun hother => ?_⟩, fun target => ⟨fun hne heq hxoff hfree => ?_, fun hother => ?_, ?_⟩⟩
  · exact answerRequest_answers hc htakes (heq ▸ toNat_ne_zero hne) heq hxoff hfree rfl
  · exact answerRequest_drops hc htakes (other_of_target hother)
  · exact answerRequest_answers hc htakes (heq ▸ toNat_ne_zero hne) heq hxoff hfree
      (heldIpOn_own (fun _ => rfl) (by rw [ownIp_v6, heq]; exact toNat_ne_zero hne))
  · exact answerRequest_drops hc htakes (other_of_target hother)
  · intro v6 size own
    have hown : own = ownIp s port iface v6 := rfl
    refine ⟨fun hne heq hsize hxoff hfree => ?_, fun hother => ?_⟩
    · rw [exec_icmpEchoRequest, if_neg (Nat.not_lt.mpr hsize)]
      exact answerRequest_answers hc htakes (show own ≠ 0 from heq ▸ toNat_ne_zero hne) heq hxoff hfree
        (heldIpOn_own (fun _ => rfl) (by rw [← hown, heq]; exact toNat_ne_zero hne))
    · have hdrop : ∃ t, answerRequest s port iface (if maxFrame s port < size then 0 else own) target.toNat (.echoReply v6 size) = .next t
          ∧ regF t (oEth port + 0x38) 15 0 = min 65535 (regF s (oEth port + 0x38) 15 0 + 1)
          ∧ RegsBut s t [oEth port + 0x38] ∧ t = { s with out := [], regs := t.regs } := by
        refine answerRequest_drops hc htakes ?_
        by_cases hlong : maxFrame s port < size
        · exact .inl (if_pos hlong)
        · rw [if_neg hlong]
          exact other_of_target (hother.imp id fun h => h.resolve_right hlong)
      exact hdrop

end Sys2Proof.Machine

/-! Training of interfaces (R331, R333). -/

namespace Sys2Proof.Machine

open Sys2Proof Sys2Proof.Terms

variable {s : State} {port i : Nat} {f : Iface}

/-! ## Fields -/

theorem testBit_getF {w : Word} {hi lo j : Nat} (h : lo + j ≤ hi) : (getF w hi lo).testBit j = w.toNat.testBit (lo + j) := by
  unfold getF
  rw [Nat.testBit_mod_two_pow, Nat.testBit_shiftRight, decide_eq_true (by omega), Bool.true_and]

/-- A bit of a field is the field of one bit. -/
theorem testBit_field (w : Word) {j : Nat} (h : j < 4) : (getF w 3 0).testBit j = (getF w j j).testBit 0 := by
  rw [testBit_getF (by omega), testBit_getF (by omega), Nat.zero_add, Nat.add_zero]

theorem ifaceUp_eq (s : State) (port : Nat) {j : Nat} (h : j < 4) : ifaceUp s port j = (regF s (oEth port + 8) j j).testBit 0 :=
  testBit_field _ h

/-! ## Interfaces -/

/-- A change of an interface that keeps its place. -/
theorem ifaceGet_ifaceMap {g : Iface → Iface} (hp : ∀ x, (g x).port = x.port) (hi : ∀ x, (g x).idx = x.idx)
    (h : ifaceGet s port i = some f) : ifaceGet (ifaceMap s port i g) port i = some (g f) := by
  unfold ifaceGet ifaceMap at *
  dsimp only
  rw [List.find?_map]
  have hsame : ((fun x : Iface => x.port == port && x.idx == i) ∘ fun x => if x.port = port ∧ x.idx = i then g x else x)
      = fun x => x.port == port && x.idx == i := by
    funext x
    dsimp only [Function.comp]
    split <;> simp [hp, hi]
  have hkey := List.find?_some h
  rw [hsame, h]
  simp only [Bool.and_eq_true, beq_iff_eq] at hkey
  simp only [Option.map_some, if_pos hkey]

/-- What a training attempt finds of the lanes is one field of one register. -/
theorem setHealthy_spec (hwf : swf resetWord s.regs = true) (lanes : List Nat) (mask : Nat) :
    let t := setHealthy s port lanes mask
    (∀ hi lo, hi < 8 → regF t (oEth port + 8) hi lo = regF s (oEth port + 8) hi lo) ∧ RegsBut s t [oEth port + 8]
      ∧ swf resetWord t.regs = true ∧ t = { s with regs := t.regs } :=
  ⟨fun hi lo h => regF_regSetF_field hwf _ _ (.inl h) (by omega), fun a ha => regGet_regSetF_other s _ _ _ (by simpa using ha),
    swf_regSet hwf _ _, rfl⟩

/-- An attempt in which all lanes have completed brings its interface up (R333). -/
theorem trainIface_up {mask : Nat} (hwf : swf resetWord s.regs = true) (hi : i < 4) (h : ifaceGet s port i = some f)
    (hall : allLanes mask (portLanes (activeMode s port) (healthyLanes s port) i) = true) :
    let t := trainIface s port i mask
    ∃ g, ifaceUp t port i = true ∧ (∀ j < 4, j ≠ i → ifaceUp t port j = ifaceUp s port j)
      ∧ ifaceGet t port i = some g ∧ g.up = true ∧ g.failures = 0 ∧ activeMode t port = activeMode s port
      ∧ RegsBut s t [oEth port + 8] ∧ t = { s with regs := t.regs, ports := t.ports } := by
  obtain ⟨hfields, hbut, hwf', hframe⟩ := setHealthy_spec (port := port) hwf (portLanes (activeMode s port) (healthyLanes s port) i) mask
  obtain ⟨u, hu⟩ : ∃ u, setHealthy s port (portLanes (activeMode s port) (healthyLanes s port) i) mask = u := ⟨_, rfl⟩
  rw [hu] at hfields hbut hwf' hframe
  have htrain : trainIface s port i mask
      = regSetF (ifaceMap u port i fun f => { f with up := true, failures := 0 }) (oEth port + 8) i i 1 := by
    unfold trainIface
    simp only [hall, if_true, hu]
  have hget : ifaceGet u port i = some f := by rw [hframe]; exact h
  have hone (hi lo : Nat) (hne : hi < i ∨ i < lo) (h8 : hi < 8) :
      regF (trainIface s port i mask) (oEth port + 8) hi lo = regF s (oEth port + 8) hi lo := by
    rw [htrain]
    exact (regF_regSetF_field (s := ifaceMap u port i _) hwf' _ 1 hne (by omega)).trans (hfields hi lo h8)
  intro t
  refine ⟨{ f with up := true, failures := 0 }, ?_, fun j hj hne => ?_, ?_, rfl, rfl, hone 5 4 (.inr hi) (by decide), fun a ha => ?_, ?_⟩
  · have hset : regF t (oEth port + 8) i i = 1 % 2 ^ (i + 1 - i) := by
      rw [show t = _ from htrain]
      exact regF_regSetF_same (s := ifaceMap u port i _) hwf' _ 1 le_rfl (by omega)
    rw [ifaceUp_eq t port hi, hset, Nat.add_sub_cancel_left]
    rfl
  · rw [ifaceUp_eq t port hj, ifaceUp_eq s port hj]
    exact congrArg (Nat.testBit · 0) (hone j j (by omega) (by omega))
  · rw [show t = _ from htrain]
    exact ifaceGet_ifaceMap (g := fun f => { f with up := true, failures := 0 }) (fun _ => rfl) (fun _ => rfl) hget
  · rw [show t = _ from htrain]
    exact (regGet_regSetF_other (ifaceMap u port i _) i i 1 (by simpa using ha)).trans (hbut a ha)
  · rw [show t = _ from htrain, hframe]
    rfl

/-- An attempt in which a lane is missing leaves its interface down. -/
theorem trainIface_down {mask : Nat} (hwf : swf resetWord s.regs = true)
    (hall : allLanes mask (portLanes (activeMode s port) (healthyLanes s port) i) = false) :
    let t := trainIface s port i mask
    (∀ j < 4, ifaceUp t port j = ifaceUp s port j) ∧ RegsBut s t [oEth port + 8] ∧ t = { s with regs := t.regs } := by
  obtain ⟨hfields, hbut, -, hframe⟩ := setHealthy_spec (port := port) hwf (portLanes (activeMode s port) (healthyLanes s port) i) mask
  have htrain : trainIface s port i mask = setHealthy s port (portLanes (activeMode s port) (healthyLanes s port) i) mask := by
    unfold trainIface
    simp only [hall, Bool.false_eq_true, if_false]
  intro t
  rw [show t = _ from htrain]
  refine ⟨fun j hj => ?_, hbut, hframe⟩
  rw [ifaceUp_eq _ port hj, ifaceUp_eq s port hj]
  exact congrArg (Nat.testBit · 0) (hfields j j (by omega))

/-- The register of a port that trains anew, and what is logged meanwhile aside, the mode that it has taken (R331). -/
theorem retrainPort_word {active : Nat} (hwf : swf resetWord s.regs = true) (h : keysRise s.sessions = true)
    (hport : oEth port + 8 ≠ oUtxFails) :
    regGet (retrainPort s port active) (oEth port + 8) = setF (setF (regGet s (oEth port + 8)) 5 4 active) 3 0 0 := by
  unfold retrainPort
  dsimp only
  generalize hu : ({ regSetF (regSetF s (oEth port + 8) 5 4 active) (oEth port + 8) 3 0 0 with
    ports := _ } : State) = u
  generalize hgone : List.filterMap _ _ = gone
  have hfail : Failed u (gone.foldl failSession u) gone := failed_foldl (by rw [← hu]; exact h) gone
  refine (regGet_congr (u := gone.foldl failSession u) rfl _).trans ?_
  rw [hfail.regs (oEth port + 8) (by simpa using hport), ← hu]
  refine (regGet_congr (u := regSetF (regSetF s (oEth port + 8) 5 4 active) (oEth port + 8) 3 0 0) rfl _).trans ?_
  have hwf' : swf resetWord (regSetF s (oEth port + 8) 5 4 active).regs = true := swf_regSet hwf _ _
  rw [regSetF, regGet_regSet_same hwf', regSetF, regGet_regSet_same hwf]

/-- Four healthy lanes bring the fallback (R333). -/
theorem fallBack_falls (hc : Canonical s) (hport : port < 2) (h : (fallbackLanes (healthyLanes s port)).isSome = true) :
    let t := fallBack s port
    activeMode t port = 3 ∧ (∀ j, ifaceUp t port j = false) ∧ (t.ports.filter fun y => y.port == port).length = 1
      ∧ (t.events.head?.map (·.code)) = some 0x502 ∧ healthyLanes t port = healthyLanes s port := by
  obtain ⟨lanes, hlanes⟩ := Option.isSome_iff_exists.mp h
  have hne : oEth port + 8 ≠ oUtxFails := by
    unfold oEth oUtxFails
    omega
  have hfall : fallBack s port = logEvent (retrainPort s port 3) 0x0502 (unitOf 6 (8 * port)) none [] := by
    unfold fallBack
    rw [hlanes]
  obtain ⟨hports, hdown, -⟩ := retrainPort_spec (active := 3) hc.regs hc.sessions hne
  have hword := retrainPort_word (active := 3) hc.regs hc.sessions hne
  have hfield (hi lo : Nat) (h3 : 3 < lo) (h32 : hi < 32) : regF (retrainPort s port 3) (oEth port + 8) hi lo
      = getF (setF (regGet s (oEth port + 8)) 5 4 3) hi lo := by
    rw [regF, hword]
    exact getF_setF_other _ _ (.inr h3) h32
  intro t
  rw [show t = _ from hfall]
  refine ⟨?_, hdown, hports, rfl, ?_⟩
  · exact (hfield 5 4 (by decide) (by decide)).trans (getF_setF_same _ 3 (by decide) (by decide))
  · exact (hfield 15 8 (by decide) (by decide)).trans (getF_setF_other _ 3 (.inr (by decide)) (by decide))

/-- Settles O51, a step of the training at a time. -/
theorem linksTrainRetryAndFallBack : Obligations.LinksTrainRetryAndFallBack := by
  intro s port i f hc hport hrun hheld hget hi hdown
  have hany : (ifaceGet { s with out := [] } port i).any (fun f => !f.up) = true := by
    rw [show ifaceGet { s with out := [] } port i = some f from hget, Option.any_some, hdown]
    rfl
  have htrain (lanes : BitVec 8) :
      exec (.linkTrainingComplete port i lanes) s = .next (trainIface { s with out := [] } port i lanes.toNat) :=
    if_pos ⟨hrun, by rw [show serdesHolds { s with out := [] } port = false from hheld]; rfl, hany⟩
  refine ⟨fun lanes => ⟨fun hall => ?_, fun hall => ?_⟩, fun hover hmore => ?_, fun hover hmode hfirst hthird => ⟨fun hlanes => ?_, fun hlanes => ?_⟩⟩
  · obtain ⟨g, h⟩ := trainIface_up (s := { s with out := [] }) hc.regs hi hget hall
    exact ⟨_, g, htrain lanes, h⟩
  · exact ⟨_, htrain lanes, trainIface_down (s := { s with out := [] }) hc.regs hall⟩
  · have hdef : exec (.linkTrainingRetry port i) s = execLinkTrainingRetry port i s := rfl
    have hgo : ¬((!linkRuns { s with out := [] }) = true ∨ serdesHolds { s with out := [] } port = true
        ∨ (!attemptOver { s with out := [] } f) = true ∨ (activeMode { s with out := [] } port = 0 ∧ 2 ≤ f.failures)) := by
      rintro (h | h | h | ⟨h, h2⟩)
      · rw [show linkRuns { s with out := [] } = true from hrun] at h
        cases h
      · rw [show serdesHolds { s with out := [] } port = false from hheld] at h
        cases h
      · simp [attemptOver, hdown, hover] at h
      · rcases hmore with hm | hm
        · exact hm h
        · omega
    refine ⟨_, { f with failures := f.failures + 1, attemptAt := s.clock.wall }, ?_, ifaceGet_ifaceMap (s := { s with out := [] })
      (g := fun x => { x with failures := x.failures + 1, attemptAt := s.clock.wall }) (fun _ => rfl) (fun _ => rfl) hget, hdown, rfl, rfl, rfl⟩
    rw [hdef]
    unfold execLinkTrainingRetry
    dsimp only
    rw [show ifaceGet { s with out := [] } port i = some f from hget]
    exact if_neg hgo
  all_goals
    subst hfirst
    have hfall : exec (.portFallback port) s = .next (fallBack { s with out := [] } port) := by
      have hdef : exec (.portFallback port) s = execPortFallback port s := rfl
      rw [hdef]
      unfold execPortFallback
      dsimp only
      rw [show ifaceGet { s with out := [] } port 0 = some f from hget]
      refine if_pos ⟨hrun, ?_, hmode, ?_, hthird⟩
      · rw [show serdesHolds { s with out := [] } port = false from hheld]
        rfl
      · simp [attemptOver, hdown, hover]
  · exact ⟨_, hfall, fallBack_falls (s := { s with out := [] }) (canonical_of_tables hc rfl rfl rfl rfl rfl) hport hlanes⟩
  · refine ⟨_, hfall, ?_⟩
    unfold fallBack
    rw [show fallbackLanes (healthyLanes { s with out := [] } port) = none from hlanes]
    rfl

end Sys2Proof.Machine

/-! The stacks' code corrects a single byte (R253): multiplication by a power of α is doubling, over and over. -/

namespace Sys2Proof.Machine

open Sys2Proof Sys2Proof.Terms

variable {a b d x : Byte} {i : Nat}

/-! ## Arithmetic in the field -/

theorem xor_exchange (a b c d : Byte) : (a ^^^ b) ^^^ (c ^^^ d) = (a ^^^ c) ^^^ (b ^^^ d) := by
  rw [BitVec.xor_assoc, BitVec.xor_assoc, ← BitVec.xor_assoc b, BitVec.xor_comm b c, BitVec.xor_assoc c]

theorem byte_xor_zero (a : Byte) : a ^^^ 0 = a := BitVec.xor_zero

theorem byte_zero_xor (a : Byte) : 0 ^^^ a = a := BitVec.zero_xor

/-- Doubling is linear. -/
theorem gfDouble_xor (a b : Byte) : gfDouble (a ^^^ b) = gfDouble a ^^^ gfDouble b := by
  have hcarry : (if (a ^^^ b).msb then 0x1D else 0 : Byte) = (if a.msb then 0x1D else 0) ^^^ (if b.msb then 0x1D else 0) := by
    rw [BitVec.msb_xor]
    cases a.msb <;> cases b.msb <;> rfl
  rw [gfDouble, hcarry, BitVec.shiftLeft_xor_distrib, xor_exchange]
  rfl

/-- Multiplication is linear in its first factor. -/
theorem gfMul_xor (a b x : Byte) : gfMul (a ^^^ b) x = gfMul a x ^^^ gfMul b x := by
  have hfold (l : List Nat) (r s : Byte) :
      l.foldl (fun r k => gfDouble r ^^^ (if x.getLsbD (7 - k) then a ^^^ b else 0)) (r ^^^ s)
        = l.foldl (fun r k => gfDouble r ^^^ (if x.getLsbD (7 - k) then a else 0)) r
          ^^^ l.foldl (fun r k => gfDouble r ^^^ (if x.getLsbD (7 - k) then b else 0)) s := by
    induction l generalizing r s with
    | nil => rfl
    | cons k l ih =>
      have hterm : (if x.getLsbD (7 - k) then a ^^^ b else 0 : Byte)
          = (if x.getLsbD (7 - k) then a else 0) ^^^ (if x.getLsbD (7 - k) then b else 0) := by
        cases x.getLsbD (7 - k)
        · exact (byte_xor_zero 0).symm
        · rfl
      simp only [List.foldl_cons]
      rw [gfDouble_xor, hterm, xor_exchange, ih]
  exact hfold (List.range 8) 0 0

/-- Bit k of a byte, in its place. -/
def bitIn (d : Byte) (k : Nat) : Byte := if d.getLsbD k then 1#8 <<< k else 0

/-- A byte is the sum of its bits. -/
theorem byte_eq_bits (d : Byte) : d = (List.range 8).foldl (fun r k => r ^^^ bitIn d k) 0 := by
  revert d
  decide +kernel

/-- Two linear maps that agree on each bit agree. -/
theorem eq_of_bits {f g : Byte → Byte} (hf : ∀ a b, f (a ^^^ b) = f a ^^^ f b) (hg : ∀ a b, g (a ^^^ b) = g a ^^^ g b)
    (h : ∀ k < 8, f (1#8 <<< k) = g (1#8 <<< k)) (d : Byte) : f d = g d := by
  have hzero {f : Byte → Byte} (hf : ∀ a b, f (a ^^^ b) = f a ^^^ f b) : f 0 = 0 := by
    have := hf 0 0
    rwa [BitVec.xor_self, BitVec.xor_self] at this
  have hfold (l : List Nat) (hl : ∀ k ∈ l, k < 8) (r : Byte) (hr : f r = g r) :
      f (l.foldl (fun r k => r ^^^ bitIn d k) r) = g (l.foldl (fun r k => r ^^^ bitIn d k) r) := by
    induction l generalizing r with
    | nil => exact hr
    | cons k l ih =>
      refine ih (fun k hk => hl k (.tail _ hk)) _ ?_
      rw [hf, hg, hr, bitIn]
      split
      · rw [h k (hl k (.head _))]
      · rw [hzero hf, hzero hg]
  rw [byte_eq_bits d]
  exact hfold _ (fun k hk => List.mem_range.mp hk) 0 ((hzero hf).trans (hzero hg).symm)

/-- Doubling the second factor doubles the product. -/
theorem gfMul_gfDouble (d x : Byte) : gfMul d (gfDouble x) = gfDouble (gfMul d x) := by
  refine eq_of_bits (f := fun d => gfMul d (gfDouble x)) (g := fun d => gfDouble (gfMul d x)) (fun a b => gfMul_xor a b _) (fun a b => ?_) ?_ d
  · rw [gfMul_xor, gfDouble_xor]
  · revert x
    decide +kernel

theorem gfMul_one (d : Byte) : gfMul d 1 = d :=
  eq_of_bits (f := fun d => gfMul d 1) (g := fun d => d) (fun a b => gfMul_xor a b 1) (fun _ _ => rfl) (by decide +kernel) d

/-- A power of α doubles so often. -/
theorem gfMul_gfAlpha (d : Byte) (n : Nat) : gfMul d (gfAlpha n) = gfDouble^[n] d := by
  induction n with
  | zero => exact gfMul_one d
  | succ n ih => rw [gfAlpha, gfMul_gfDouble, ih, Function.iterate_succ_apply']

/-! ## A single byte -/

/-- A word of one erroneous byte. -/
theorem errorWord_single (hi : i < 36) (d : Byte) :
    errorWord [(i, d)] = List.replicate i 0 ++ d :: List.replicate (35 - i) 0 := by
  have hset : errorWord [(i, d)] = (List.replicate 36 0).set i d := by
    have hget : (List.replicate 36 (0 : Byte)).getD i 0 = 0 := by
      rw [List.getD_eq_getElem?_getD, List.getElem?_replicate]
      split <;> rfl
    have hflip : errorWord [(i, d)] = (List.replicate 36 0).set i ((List.replicate 36 (0 : Byte)).getD i 0 ^^^ d) := rfl
    rw [hflip, hget, byte_zero_xor]
  have hsplit : (List.replicate 36 0 : Bytes) = List.replicate i 0 ++ 0 :: List.replicate (35 - i) 0 := by
    rw [← List.replicate_succ, ← List.replicate_add]
    congr 1
    omega
  rw [hset, hsplit, List.set_append_right _ _ (by simp)]
  simp

/-- A polynomial of one coefficient, at a power of α. -/
theorem gfEval_single (hi : i < 36) (d : Byte) (j : Nat) :
    gfEval (errorWord [(i, d)]) (gfAlpha j) = gfDouble^[j * (35 - i)] d := by
  have hzero (n : Nat) (r : Byte) : (List.replicate n (0 : Byte)).foldl (fun r c => gfMul r (gfAlpha j) ^^^ c) r = gfDouble^[j * n] r := by
    induction n generalizing r with
    | zero => rfl
    | succ n ih =>
      rw [List.replicate_succ, List.foldl_cons, ih, byte_xor_zero, gfMul_gfAlpha, ← Function.iterate_add_apply]
      rfl
  have hnone (n : Nat) : gfDouble^[n] 0 = 0 := by
    induction n with
    | zero => rfl
    | succ n ih => rw [Function.iterate_succ_apply', ih]; rfl
  rw [gfEval, errorWord_single hi, List.foldl_append, List.foldl_cons, hzero, hzero, hnone, gfMul_gfAlpha, hnone, byte_zero_xor]

/-- A single erroneous byte is corrected (R253). -/
theorem rsDecode_single (hi : i < 36) (hd : d ≠ 0) : ∃ w, rsDecode (errorWord [(i, d)]) = .corrected w := by
  have hsyn : rsSyndromes (errorWord [(i, d)]) = rsSingle d i := by
    unfold rsSyndromes rsSingle
    refine List.map_congr_left fun j _ => ?_
    rw [gfEval_single hi, gfMul_gfAlpha]
  obtain ⟨tail, hfirst⟩ : ∃ tail, rsSingle d i = d :: tail := by
    have hterm : gfMul d (gfAlpha (0 * (35 - i))) = d := by
      rw [gfMul_gfAlpha, Nat.zero_mul]
      rfl
    refine ⟨(List.range 3).map fun j => gfMul d (gfAlpha ((j + 1) * (35 - i))), ?_⟩
    have hsplit : rsSingle d i = gfMul d (gfAlpha (0 * (35 - i)))
        :: (List.range 3).map fun j => gfMul d (gfAlpha ((j + 1) * (35 - i))) := rfl
    rw [hsplit, hterm]
  have hne : (d != 0) = true := bne_iff_ne.mpr hd
  have hdirty : (d :: tail).all (· == 0) = false := by
    rw [List.all_cons, beq_false_of_ne hd, Bool.false_and]
  have hfound : ((List.range 36).find? fun k => d != 0 && d :: tail == rsSingle d k).isSome = true := by
    rw [List.find?_isSome]
    refine ⟨i, List.mem_range.mpr hi, ?_⟩
    rw [hne, hfirst, Bool.true_and]
    exact beq_self_eq_true _
  obtain ⟨k, hk⟩ := Option.isSome_iff_exists.mp hfound
  refine ⟨(errorWord [(i, d)]).set k ((errorWord [(i, d)]).getD k 0 ^^^ d), ?_⟩
  unfold rsDecode
  simp only [hsyn, hfirst, hdirty, List.headD_cons, hk, Bool.false_eq_true, if_false]

/-- It is one erroneous byte. -/
theorem badBytes_single (hi : i < 36) (d : Byte) : badBytes (errorWord [(i, d)]) ≤ 1 := by
  rw [errorWord_single hi, badBytes, List.filter_append, List.filter_cons]
  have hnone (n : Nat) : (List.replicate n (0 : Byte)).filter (· != 0) = [] := by simp
  rw [hnone, hnone]
  split <;> simp

end Sys2Proof.Machine

/-! The device's own periodic work (R83, R254, R272, R455, R502). -/

namespace Sys2Proof.Machine

open Sys2Proof Sys2Proof.Terms

variable {s t : State} {off k st : Nat} {f : Fld} {r : Reg}

/-! ## Voted registers -/

/-- A field set to what it reads leaves its word. -/
theorem setF_getF_same (w : Word) (hi lo : Nat) : setF w hi lo (getF w hi lo) = w := by
  apply BitVec.eq_of_getLsbD_eq
  intro i hi'
  simp only [setF, getF, BitVec.getLsbD_or, BitVec.getLsbD_and, BitVec.getLsbD_not]
  simp only [BitVec.getLsbD, BitVec.toNat_ofNat, Nat.testBit_mod_two_pow, Nat.testBit_shiftLeft, Nat.testBit_two_pow_sub_one,
    Nat.testBit_shiftRight, hi', decide_true, Bool.true_and]
  by_cases hlo : lo ≤ i
  · rw [Nat.add_sub_cancel' hlo]
    by_cases hin : i - lo < hi + 1 - lo <;> simp [hlo, hin]
  · simp [hlo]

/-- A field that takes what it holds changes nothing. -/
theorem regSetF_self (h : swf resetWord s.regs = true) (off hi lo : Nat) : regSetF s off hi lo (regF s off hi lo) = s := by
  rw [regSetF, regF, setF_getF_same, regSet_self h]

/-- What one upset copy of a register leaves of the others. -/
theorem voteCopy_upset {u : Upset} (h : s.votes = [u]) : voteCopy s u.offset k = if k = u.copy then u.word else regGet s u.offset := by
  unfold voteCopy
  rw [h]
  by_cases hk : k = u.copy
  · simp [hk]
  · simp [hk, Ne.symm hk]

/-- What a vote may change: the counters of votes and the log. -/
structure Votes (s t : State) : Prop where
  form  : swf resetWord t.regs = true
  regs  : RegsBut s t [oVote, oVoteLast]
  frame : t = { s with regs := t.regs, events := t.events, nextSeq := t.nextSeq }

/-- A disagreement that a vote settles is logged and counted. -/
def voteCounted (t : State) (off : Nat) : State :=
  regCount (regSetF (logEvent t 0x0005 (unitOf 0 0) none (toLE off 4 ++ [BitVec.ofNat 8 false.toNat])) oVoteLast 23 0 off) oVote 31 16 1

theorem votes_voteCounted (h : Votes s t) (off : Nat) : Votes s (voteCounted t off) := by
  obtain ⟨hform, hregs, hframe⟩ := h
  obtain ⟨l, hl, hlregs, hlog⟩ : ∃ l, logEvent t 0x0005 (unitOf 0 0) none (toLE off 4 ++ [BitVec.ofNat 8 false.toNat]) = l
      ∧ l.regs = t.regs ∧ l = { t with events := l.events, nextSeq := l.nextSeq } := ⟨_, rfl, rfl, rfl⟩
  unfold voteCounted
  rw [hl]
  refine ⟨swf_regSet (swf_regSet (by rw [hlregs]; exact hform) _ _) _ _, fun a ha => ?_, ?_⟩
  · have hne : a ≠ oVote ∧ a ≠ oVoteLast := by simpa using ha
    exact (regGet_regCount_other _ 31 16 1 hne.1).trans ((regGet_regSetF_other l 23 0 off hne.2).trans
      ((regGet_congr hlregs a).trans (hregs a ha)))
  · rw [hlog, hframe]
    rfl

/-- A vote over the copies of a field, one of which an upset has met, leaves the field (R455). -/
theorem votes_voteField {u : Upset} (hvotes : s.votes = [u]) (hne : u.offset ≠ oVote ∧ u.offset ≠ oVoteLast)
    {b : State} (hb : b.regs = s.regs) (h : Votes b t) (f : Fld) : Votes b (voteField s u.offset t f) := by
  have hreg : regGet t u.offset = regGet s u.offset := (h.regs _ (by simp [hne])).trans (regGet_congr hb _)
  have hsame : regSetF t u.offset f.hi f.lo (getF (regGet s u.offset) f.hi f.lo) = t := by
    rw [← hreg]
    exact regSetF_self h.form _ _ _
  have hv (k : Nat) (hk : k ≠ u.copy) : getF (voteCopy s u.offset k) f.hi f.lo = getF (regGet s u.offset) f.hi f.lo := by
    rw [voteCopy_upset hvotes, if_neg hk]
  have hcounted := votes_voteCounted h u.offset
  unfold voteField
  dsimp only
  split
  · next hall =>
    have hreal : getF (voteCopy s u.offset 0) f.hi f.lo = getF (regGet s u.offset) f.hi f.lo := by
      by_cases h0 : u.copy = 0
      · exact hall.1.trans (hv 1 (by omega))
      · exact hv 0 (Ne.symm h0)
    rw [hreal, hsame]
    exact h
  · next hsome =>
    have h0 : u.copy ≠ 0 → getF (voteCopy s u.offset 0) f.hi f.lo = getF (regGet s u.offset) f.hi f.lo := fun h0 => hv 0 (Ne.symm h0)
    split
    · next htwo =>
      have hreal : getF (voteCopy s u.offset 0) f.hi f.lo = getF (regGet s u.offset) f.hi f.lo := by
        by_cases h0 : u.copy = 0
        · exact htwo.elim (fun h1 => h1.trans (hv 1 (by omega))) fun h2 => h2.trans (hv 2 (by omega))
        · exact hv 0 (Ne.symm h0)
      rw [hreal, hsame]
      exact hcounted
    · next hnot =>
      have hzero : u.copy = 0 := by
        by_contra hnz
        refine hnot ?_
        by_cases h1 : u.copy = 1
        · exact .inr ((h0 hnz).trans (hv 2 (by omega)).symm)
        · exact .inl ((h0 hnz).trans (hv 1 (by omega)).symm)
      have hreal := hv 1 (by omega)
      rw [if_pos (hreal.trans (hv 2 (by omega)).symm), hreal, hsame]
      exact hcounted

/-- A scrub of a register of which one copy disagrees (R455). -/
theorem votes_voteFix {u : Upset} (hwf : swf resetWord s.regs = true) (hvotes : s.votes = [u])
    (hreg : (regAt u.offset).isSome = true) (hne : u.offset ≠ oVote ∧ u.offset ≠ oVoteLast) :
    Votes { s with votes := [] } (voteFix s u.offset) := by
  obtain ⟨r, hr⟩ := Option.isSome_iff_exists.mp hreg
  have hall : s.votes.all (fun v => v.offset != u.offset) = false := by simp [hvotes]
  have hnone : s.votes.filter (fun v => v.offset != u.offset) = [] := by simp [hvotes]
  have hfold (l : List Fld) (t : State) (ht : Votes { s with votes := [] } t) :
      Votes { s with votes := [] } (l.foldl (voteField s u.offset) t) := by
    induction l generalizing t with
    | nil => exact ht
    | cons f l ih => exact ih _ (votes_voteField (b := { s with votes := [] }) hvotes hne rfl ht f)
  unfold voteFix
  simp only [hr, hall, hnone, Bool.false_eq_true, if_false]
  exact hfold _ _ ⟨hwf, fun _ _ => rfl, rfl⟩

theorem exec_voteScrub (hrun : firmwareRuns s = true) (hdue : s.power.scrubAt + 1000000 ≤ s.clock.wall) :
    exec .voteScrub s = .next ((s.votes.map (·.offset)).dedup.foldl voteFix
      { s with out := [], power := { s.power with scrubAt := s.clock.wall } }) := by
  have hdef : exec .voteScrub s = execVoteScrub s := rfl
  have hgo : ¬((!firmwareRuns { s with out := [] }) = true ∨ s.clock.wall < s.power.scrubAt + msWall 1) := by
    rintro (h | h)
    · rw [show firmwareRuns { s with out := [] } = true from hrun] at h
      cases h
    · exact absurd hdue (Nat.not_le.mpr h)
  rw [hdef]
  exact if_neg hgo

/-! ## Patrol -/

theorem exec_patrol {f : EccFind} (hrun : beatsRun s = true) (hst : st < 8)
    (hdue : (sfind s.power.patrols st).getD 0 + 86400 * secondDt ≤ s.clock.dt) (haddr : f.addr < 0x10000000000)
    (hstack : stackOf f.addr = st) (hretired : isRetired s f.addr = false) (hpoison : s.poison.contains (wordAt f.addr) = false) :
    exec (.patrol st [f]) s = .next (codewordFind
      { s with out := [], power := { s.power with patrols := sput s.power.patrols st s.clock.dt } } f.addr (errorWord f.flips)) := by
  have hdef : exec (.patrol st [f]) s = execPatrol st [f] s := rfl
  have hgo : ¬((!beatsRun { s with out := [] }) = true ∨ 8 ≤ st
      ∨ s.clock.dt < (sfind s.power.patrols st).getD 0 + 86400 * secondDt) := by
    rintro (h | h | h)
    · rw [show beatsRun { s with out := [] } = true from hrun] at h
      cases h
    · omega
    · exact absurd hdue (Nat.not_le.mpr h)
  have hmine : [f].filter (fun f => decide (f.addr < 0x10000000000) && stackOf f.addr == st
      && !isRetired { s with out := [], power := { s.power with patrols := sput s.power.patrols st s.clock.dt } } f.addr) = [f] := by
    have hretired' : isRetired { s with out := [], power := { s.power with patrols := sput s.power.patrols st s.clock.dt } } f.addr = false :=
      hretired
    simp [haddr, hstack, hretired']
  have hpoison' : ({ s with out := [], power := { s.power with patrols := sput s.power.patrols st s.clock.dt } } : State).poison.contains
      (wordAt f.addr) = false := hpoison
  rw [hdef]
  refine (if_neg hgo).trans (congrArg Host.Outcome.next ?_)
  rw [hmine, List.foldl_cons, List.foldl_nil, eccFind, hpoison', if_neg Bool.false_ne_true, if_pos haddr]

/-- A codeword that is corrected is counted, and its write-back waits (R254). -/
theorem stackCorrected_spec (hwf : swf resetWord s.regs = true) (lin : Nat) :
    let t := stackCorrected s lin
    wordAt lin ∈ t.correcting
      ∧ regF t (oMem (stackOf lin) + 0x20) 31 16 = min 65535 (regF s (oMem (stackOf lin) + 0x20) 31 16 + 1)
      ∧ t = { s with regs := t.regs, correcting := t.correcting } := by
  have hcount := regF_regCount_same hwf (oMem (stackOf lin) + 0x20) 1 (show 16 ≤ 31 by decide) (by decide)
  unfold stackCorrected
  dsimp only
  split
  · next hin => exact ⟨List.contains_iff_mem.mp hin, hcount, rfl⟩
  · exact ⟨List.mem_append_right _ (List.mem_singleton_self _), hcount, rfl⟩

theorem beginHealth_spec (s : State) : (beginHealth s).flash.healthWrite = true ∧ beginHealth s = { s with flash := (beginHealth s).flash } := by
  unfold beginHealth
  split
  · exact ⟨by assumption, rfl⟩
  · exact ⟨rfl, rfl⟩

/-- A codeword that cannot be corrected is poisoned and logged (R255). -/
theorem stackUncorrectable_spec (s : State) (lin : Nat) :
    let t := stackUncorrectable s lin
    wordAt lin ∈ t.poison ∧ (t.events.head?.map (·.code)) = some 0x101 ∧ t.noticeNext.testBit 3 = true
      ∧ t.flash.healthWrite = true ∧ t.mem = s.mem ∧ t.ctxs = s.ctxs := by
  obtain ⟨p, hp, hpoison, hmem, hctxs⟩ : ∃ p, poisonAdd s (wordAt lin) = p ∧ wordAt lin ∈ p.poison ∧ p.mem = s.mem ∧ p.ctxs = s.ctxs := by
    refine ⟨_, rfl, ?_⟩
    unfold poisonAdd
    split
    · next hin => exact ⟨List.contains_iff_mem.mp hin, rfl, rfl⟩
    · exact ⟨List.mem_append_right _ (.head _), rfl, rfl⟩
  have hnotice (n : Nat) : (n ||| 1 <<< 3).testBit 3 = true := by
    rw [Nat.testBit_or]
    exact Bool.or_true _
  obtain ⟨u, hu, hpoison', hhead, hbit, hmem', hctxs'⟩ : ∃ u, stackUncorrectable s lin = beginHealth u ∧ wordAt lin ∈ u.poison
      ∧ (u.events.head?.map (·.code)) = some 0x101 ∧ u.noticeNext.testBit 3 = true ∧ u.mem = s.mem ∧ u.ctxs = s.ctxs := by
    unfold stackUncorrectable
    dsimp only
    rw [hp]
    refine ⟨_, rfl, ?_⟩
    split <;> exact ⟨hpoison, rfl, hnotice _, hmem, hctxs⟩
  obtain ⟨hwrite, hframe⟩ := beginHealth_spec u
  intro t
  rw [show t = _ from hu]
  refine ⟨?_, ?_, ?_, hwrite, ?_, ?_⟩ <;> rw [hframe] <;> assumption

/-! ## Refresh -/

/-- What a die reports is kept (R272, R273). -/
theorem readDie_spec (s : State) (d : DieStatus) :
    let c := 16 * d.stack + d.channel
    let t := readDie s d
    (d.rate ≠ 3 → sfind t.refresh c = some d.rate) ∧ t.power.refreshAt = s.power.refreshAt
      ∧ (d.overLimit = true ↔ c ∈ t.power.dramHot) ∧ t.regs = s.regs ∧ t.mem = s.mem := by
  intro c t
  obtain ⟨u, hu, hrate, hframe⟩ : ∃ u, (if d.rate = 3 then s else { s with refresh := sput s.refresh c d.rate }) = u
      ∧ (d.rate ≠ 3 → sfind u.refresh c = some d.rate) ∧ u = { s with refresh := u.refresh } := by
    split
    · next h3 => exact ⟨s, rfl, fun h => absurd h3 h, rfl⟩
    · exact ⟨_, rfl, fun _ => sfind_sput_same _ _ _, rfl⟩
  have ht : t = if d.overLimit then
      notice (logEvent { u with power := { u.power with dramHot := u.power.dramHot.filter (· != c) ++ [c] } } 0x0103 (unitOf 10 (72 + c)) none
        [BitVec.ofNat 8 (min 255 d.tempC)]) 4
      else { u with power := { u.power with dramHot := u.power.dramHot.filter (· != c) } } := by
    rw [← hu]
    rfl
  rw [ht]
  cases hover : d.overLimit
  · refine ⟨hrate, by rw [hframe]; rfl, ?_, by rw [hframe]; rfl, by rw [hframe]; rfl⟩
    simp
  · refine ⟨hrate, by rw [hframe]; rfl, ?_, by rw [hframe]; rfl, by rw [hframe]; rfl⟩
    simp only [true_iff]
    exact List.mem_append_right _ (List.mem_singleton_self _)

/-- Settles O56, a piece of work at a time. -/
theorem periodicWorkIsDone : Obligations.PeriodicWorkIsDone := by
  intro s hc
  refine ⟨fun hrun hdue => ⟨fun hvotes => ?_, fun u hvotes _ hreg hne hne' => ?_⟩, fun st f hrun hst hdue haddr hstack hretired hpoison => ⟨?_, ?_⟩,
    fun d hrun hdue hst hch => ?_, fun hrun hzero hhour hheld hwrite hthen => ?_, fun hwrite => ?_, fun a => ?_⟩
  · rw [exec_voteScrub hrun hdue, hvotes]
    rfl
  · have hexec := exec_voteScrub hrun hdue
    obtain ⟨hform, hregs, hframe⟩ := votes_voteFix (s := { s with out := [], power := { s.power with scrubAt := s.clock.wall } }) hc.regs hvotes
      hreg ⟨hne, hne'⟩
    have hone : (s.votes.map (·.offset)).dedup = [u.offset] := by rw [hvotes]; rfl
    rw [hone, List.foldl_cons, List.foldl_nil] at hexec
    obtain ⟨t, ht⟩ : ∃ t, voteFix { s with out := [], power := { s.power with scrubAt := s.clock.wall } } u.offset = t := ⟨_, rfl⟩
    rw [ht] at hexec hregs hframe
    refine ⟨t, hexec, ?_, hregs, ?_, ?_⟩ <;> rw [hframe]
  · rintro ⟨i, d, hflips, hi, hd⟩
    have hexec := exec_patrol hrun hst hdue haddr hstack hretired hpoison
    obtain ⟨w, hw⟩ := rsDecode_single hi hd
    have hfew : ¬4 ≤ badBytes (errorWord [(i, d)]) := by
      have := badBytes_single hi d
      omega
    rw [hflips, codewordFind, if_neg hfew, hw] at hexec
    obtain ⟨hmem, hcount, hframe⟩ := stackCorrected_spec
      (s := { s with out := [], power := { s.power with patrols := sput s.power.patrols st s.clock.dt } }) hc.regs f.addr
    rw [hstack] at hcount
    refine ⟨_, hexec, hmem, hcount, ?_, ?_⟩
    · rw [hframe]
      exact sfind_sput_same _ _ _
    · obtain ⟨t, ht⟩ : ∃ t, stackCorrected { s with out := [], power := { s.power with patrols := sput s.power.patrols st s.clock.dt } } f.addr = t :=
        ⟨_, rfl⟩
      rw [ht] at hframe ⊢
      rw [hframe]
  · intro hfew hbad
    have hexec := exec_patrol hrun hst hdue haddr hstack hretired hpoison
    rw [codewordFind, if_neg (Nat.not_le.mpr hfew), hbad] at hexec
    obtain ⟨hpois, hhead, hbit, hwrite, hmem, hctxs⟩ := stackUncorrectable_spec
      { s with out := [], power := { s.power with patrols := sput s.power.patrols st s.clock.dt } } f.addr
    exact ⟨_, hexec, hpois, hhead, hbit, hwrite, hmem, hctxs⟩
  · have hdef : exec (.refreshRateRead [d]) s = execRefreshRateRead [d] s := rfl
    have hgo : ¬((!beatsRun { s with out := [] }) = true ∨ s.beats < s.power.refreshAt + 256) := by
      rintro (h | h)
      · rw [show beatsRun { s with out := [] } = true from hrun] at h
        cases h
      · exact absurd hdue (Nat.not_le.mpr h)
    have hone : [d].filter (fun d => decide (d.stack < 8 ∧ d.channel < 16)) = [d] := by simp [hst, hch]
    have hexec : exec (.refreshRateRead [d]) s
        = .next (readDie { s with out := [], power := { s.power with refreshAt := s.beats } } d) := by
      rw [hdef]
      refine (if_neg hgo).trans (congrArg Host.Outcome.next ?_)
      rw [hone]
      rfl
    exact ⟨_, hexec, readDie_spec { s with out := [], power := { s.power with refreshAt := s.beats } } d⟩
  · have hdef : exec .healthTimeCheckpoint s = execHealthTimeCheckpoint s := rfl
    have hgo : ¬((!firmwareRuns { s with out := [] }) = true ∨ s.clock.health = 0 ∨ s.clock.health % 3600 ≠ 0
        ∨ (s.flash.health.time == s.clock.health || (s.flash.healthWrite && s.flash.healthNext.time == s.clock.health)
          || s.flash.healthThen.any (·.time == s.clock.health)) = true) := by
      rintro (h | h | h | h)
      · rw [show firmwareRuns { s with out := [] } = true from hrun] at h
        cases h
      · exact hzero h
      · exact h hhour
      · simp [hheld, hwrite, hthen] at h
    refine ⟨{ s with out := [], flash := { s.flash with healthWrite := true, healthNext := healthNow { s with out := [] } } }, ?_, rfl, rfl, rfl⟩
    rw [hdef]
    refine (if_neg hgo).trans (congrArg Host.Outcome.next (if_neg ?_))
    rw [show ({ s with out := [] } : State).flash.healthWrite = false from hwrite]
    exact Bool.false_ne_true
  · have hdef : exec .healthRecordWriteDone s = execHealthRecordWriteDone s := rfl
    have hgo : ¬(!s.flash.healthWrite) = true := by simp [hwrite]
    rw [hdef]
    cases hthen : s.flash.healthThen with
    | none =>
      refine ⟨{ s with out := [], flash := { s.flash with health := s.flash.healthNext, healthWrite := false } }, ?_, rfl, fun _ => rfl,
        fun h hh => ?_, rfl⟩
      · unfold execHealthRecordWriteDone
        simp only [hwrite, hthen, Bool.not_true, Bool.false_eq_true, if_false]
      · cases hh
    | some h =>
      refine ⟨{ s with out := [], flash := { s.flash with health := s.flash.healthNext, healthNext := h, healthThen := none } }, ?_, rfl,
        fun hn => ?_, fun h' hh => ?_, rfl⟩
      · unfold execHealthRecordWriteDone
        simp only [hwrite, hthen, Bool.not_true, Bool.false_eq_true, if_false]
      · cases hn
      · injection hh with hh
        exact ⟨hwrite, hh, rfl⟩
  · exact ⟨_, rfl, fun hmem => by simpa using (List.mem_filter.mp hmem).2, rfl⟩

end Sys2Proof.Machine

/-! O58: the SMBus target and the TAP (R489, R521). -/

namespace Sys2Proof.Machine

open Sys2Proof Sys2Proof.Terms

theorem smbusAnswer_powered (s : State) (code : Byte) (bytes n : Nat) (h : s.power.phase ≠ .off) :
    smbusAnswer s code bytes (some n)
      = { s with out := [.smbus (BitVec.ofNat 16 n) (smbusPec code (toLE n bytes))] } := by
  simp only [smbusAnswer, if_neg h, emit, List.nil_append]

theorem smbusAnswer_none (s : State) (code : Byte) (bytes : Nat) :
    smbusAnswer s code bytes none = { s with out := [.smbusNack] } := by
  simp only [smbusAnswer, ite_self, emit, List.nil_append]

theorem smbusAnswer_off (s : State) (code : Byte) (bytes : Nat) (v : Option Nat) (h : s.power.phase = .off) :
    smbusAnswer s code bytes v = { s with out := [.smbusNack] } := by
  simp only [smbusAnswer, if_pos h, emit, List.nil_append]

/-- Code 3 is a word, and nothing lies beyond code 6. -/
theorem smbusByte_none (s : State) (code : Byte) (h : code = 3 ∨ 6 < code.toNat) : smbusByte s code = none := by
  unfold smbusByte
  split
  case h_7 => rfl
  all_goals
    next hc =>
      rcases h with rfl | h
      · exact absurd hc (by decide)
      · omega

/-- What the TAP drives after an instruction is loaded: its values, while RESET_N is low. -/
theorem tapDrives_tapRun (s : State) (i : TapInstr) (driven : Option (List Bool)) (released : Bool) (tdo : List Bool) :
    tapDrives (tapRun s i driven released tdo).tap = if s.tap.resetLow = true then driven else none := rfl

/-- A scan loads its instruction, shifts the new values in, and shifts out as many captured bits. -/
theorem tapScan_spec (s : State) (i : TapInstr) (bits : Chain) (drive : Bool) :
    ∃ t, tapScan s i bits drive = t ∧ t.tap.ir = i ∧ t.tap.chain = bits
      ∧ tapDrives t.tap = (if s.tap.resetLow = true then if drive = true then some bits else none else none)
      ∧ (∃ o, t.out = [.tdo o] ∧ o.length = bits.length)
      ∧ t = { s with out := t.out, tap := t.tap, freeCtr := t.freeCtr } :=
  ⟨_, rfl, rfl, rfl, rfl, ⟨_, rfl, by rw [List.length_map, List.length_range]⟩, rfl⟩

theorem exec_bypass (s : State) (code : Byte) (h : code ∉ definedCodes) :
    exec (.bypass code) s = .next (tapRun s .bypass none false [false]) :=
  if_neg (by rwa [List.contains_iff_mem])

/-- Settles O58: each answer is the SMBus target's on the read value, each TAP instruction one load of the TAP. -/
theorem sidebandAnswersAndTapLoads : Obligations.SidebandAnswersAndTapLoads := by
  intro s
  refine ⟨fun hon => ⟨fun code v hv => ?_, rfl, rfl, ?_⟩, fun code hc => ?_, fun code hc => ?_, fun hoff code => ⟨?_, ?_⟩,
    fun _ _ => rfl, fun rising => ?_, fun bits c ir hc => ?_, fun bits => ?_, ⟨_, rfl, rfl, rfl, ?_, rfl⟩,
    ⟨_, rfl, rfl, rfl, rfl, rfl⟩, ⟨_, rfl, rfl, rfl, ?_, ?_, rfl⟩, fun code hc => ⟨_, exec_bypass s code hc, rfl, rfl, ?_, rfl⟩⟩
  · show Host.Outcome.next (smbusAnswer s code 1 (smbusByte s code)) = _
    rw [hv, smbusAnswer_powered s code 1 v hon]
  · exact congrArg Host.Outcome.next (smbusAnswer_powered s 3 2 _ hon)
  · show Host.Outcome.next (smbusAnswer s code 1 (smbusByte s code)) = _
    rw [smbusByte_none s code hc, smbusAnswer_none]
  · show Host.Outcome.next (smbusAnswer s code 2 (smbusWord s code)) = _
    rw [smbusWord, if_neg hc, smbusAnswer_none]
  · exact congrArg Host.Outcome.next (smbusAnswer_off s code 1 _ hoff)
  · exact congrArg Host.Outcome.next (smbusAnswer_off s code 2 _ hoff)
  · cases rising
    · exact ⟨_, rfl, rfl, ite_self _, Bool.and_false _, rfl⟩
    · exact ⟨_, rfl, rfl, rfl, rfl, rfl⟩
  · obtain ⟨t, ht, hspec⟩ := tapScan_spec s ir bits true
    refine ⟨t, ?_, hspec⟩
    rcases hc with ⟨rfl, rfl⟩ | ⟨rfl, rfl⟩ | ⟨rfl, rfl⟩ <;> exact congrArg Host.Outcome.next ht
  · obtain ⟨t, ht, hir, hchain, hdrives, hout, hframe⟩ := tapScan_spec s .samplePreload bits false
    exact ⟨t, congrArg Host.Outcome.next ht, hir, hchain, hdrives.trans (ite_self _), hout, hframe⟩
  · exact (tapDrives_tapRun s .idcode none false idcodeBits).trans (ite_self _)
  · exact Bool.and_true _
  · exact (tapDrives_tapRun s .highz none true [false]).trans (ite_self _)
  · exact (tapDrives_tapRun s .bypass none false [false]).trans (ite_self _)

end Sys2Proof.Machine

/-! What a start-up runs on the way to ready leaves the copies of firmware and configuration that it runs, and the
phase (R491). -/

namespace Sys2Proof.Machine

open Sys2Proof Sys2Proof.Terms

variable {s₀ s t : State}

/-- The copies that run are the same, and a device that starts up goes on doing so. -/
def KeepsStart (s t : State) : Prop :=
  t.flash.runB = s.flash.runB ∧ t.flash.inEffect1 = s.flash.inEffect1 ∧ (s.power.phase = .starting → t.power.phase = .starting)

theorem keepsStart_refl (s : State) : KeepsStart s s := ⟨rfl, rfl, id⟩

theorem keepsStart_step (hs : KeepsStart s₀ s) (h : KeepsStart s t) : KeepsStart s₀ t := by
  obtain ⟨hrun, heffect, hphase⟩ := hs
  obtain ⟨hrun', heffect', hphase'⟩ := h
  exact ⟨hrun'.trans hrun, heffect'.trans heffect, fun hs => hphase' (hphase hs)⟩

theorem keepsStart_of_eq (hs : KeepsStart s₀ s) (hflash : t.flash = s.flash)
    (hpower : t.power = s.power) : KeepsStart s₀ t :=
  keepsStart_step hs ⟨by rw [hflash], by rw [hflash], fun h => by rwa [hpower]⟩

theorem keepsStart_foldl {α : Type} {f : State → α → State} (hf : ∀ s a, KeepsStart s₀ s → KeepsStart s₀ (f s a)) {l : List α}
    (hs : KeepsStart s₀ s) : KeepsStart s₀ (l.foldl f s) := by
  induction l generalizing s with
  | nil => exact hs
  | cons a l ih => exact ih (hf s a hs)

theorem keepsStart_ite {c : Prop} [Decidable c] {u : State} (ht : KeepsStart s₀ t) (hu : KeepsStart s₀ u) :
    KeepsStart s₀ (if c then t else u) := by
  split
  · exact ht
  · exact hu

theorem keepsStart_beginHealth (hs : KeepsStart s₀ s) : KeepsStart s₀ (beginHealth s) :=
  keepsStart_ite (keepsStart_step hs ⟨rfl, rfl, id⟩) (keepsStart_step hs ⟨rfl, rfl, id⟩)

/-! ## Video streams -/

theorem keepsStart_postNow {q : Post} (hs : KeepsStart s₀ s) : KeepsStart s₀ (postNow s q) := by
  unfold postNow sessMap
  split
  · exact keepsStart_of_eq hs rfl rfl
  · exact hs

theorem keepsStart_postFrame {f : Frame} {code : Code} {o : FrameOut} (hs : KeepsStart s₀ s) :
    KeepsStart s₀ (postFrame s f code o) := by
  have hpost : KeepsStart s₀ (postEntry s f.p 0x61 code (frameResult s f { o with late := isLate s f })) := by
    unfold postEntry
    split
    · exact keepsStart_postNow hs
    · exact hs
  have hlate := keepsStart_ite (c := isLate s f = true) (keepsStart_of_eq (t := regCount _ oVidEvents 31 16 1) hpost rfl rfl) hpost
  exact keepsStart_ite (keepsStart_of_eq hlate rfl rfl) hlate

theorem keepsStart_damageStream {n : Nat} {first rest : Code} {o : FrameOut} (hs : KeepsStart s₀ s) :
    KeepsStart s₀ (damageStream s n first rest o) := by
  unfold damageStream
  split
  · exact hs
  · have hlogged : KeepsStart s₀ (regCount (logEvent s 0x0701 (unitOf 12 n) none [BitVec.ofNat 8 o.errKind]) oVidEvents2 31 16 1) :=
      keepsStart_of_eq hs rfl rfl
    dsimp only
    split
    · exact keepsStart_of_eq hlogged rfl rfl
    · exact keepsStart_of_eq (keepsStart_foldl (fun _ _ => keepsStart_postFrame) (keepsStart_postFrame hlogged)) rfl rfl

theorem keepsStart_moveStream {n : Nat} (hs : KeepsStart s₀ s) : KeepsStart s₀ (moveStream s n) := by
  unfold moveStream
  split
  · exact hs
  · refine keepsStart_ite hs ?_
    split
    · exact keepsStart_damageStream hs
    · exact keepsStart_of_eq hs rfl rfl

theorem keepsStart_codecPick {e : Nat} (hs : KeepsStart s₀ s) : KeepsStart s₀ (codecPick s e) := by
  unfold codecPick
  refine keepsStart_ite hs ?_
  split
  · exact keepsStart_ite (keepsStart_of_eq hs rfl rfl) (keepsStart_of_eq hs rfl rfl)
  · exact hs

theorem keepsStart_vidFenceSet {old new : Nat} (hs : KeepsStart s₀ s) : KeepsStart s₀ (vidFenceSet s old new) := by
  refine keepsStart_ite hs (keepsStart_beginHealth (keepsStart_foldl (fun _ _ => keepsStart_codecPick)
    (keepsStart_foldl (fun _ _ => keepsStart_moveStream) (keepsStart_foldl (fun _ _ h => keepsStart_of_eq h (by rfl) (by rfl))
    (keepsStart_foldl (fun _ _ h => keepsStart_of_eq h (by rfl) (by rfl)) (keepsStart_of_eq hs rfl rfl))))))

/-! ## Ports and their sessions -/

theorem keepsStart_failSession {n : Nat} (hs : KeepsStart s₀ s) : KeepsStart s₀ (failSession s n) := by
  unfold failSession
  split
  · exact hs
  · rw [closeSession_frame]
    exact keepsStart_of_eq hs rfl rfl

theorem keepsStart_retrainPort {port active : Nat} (hs : KeepsStart s₀ s) : KeepsStart s₀ (retrainPort s port active) := by
  unfold retrainPort
  extract_lets n words others fresh placed gone failed
  have hfailed : KeepsStart s₀ failed := keepsStart_foldl (fun _ _ => keepsStart_failSession) (keepsStart_of_eq hs rfl rfl)
  exact keepsStart_of_eq hfailed rfl rfl

theorem keepsStart_trainIface {port i mask : Nat} (hs : KeepsStart s₀ s) : KeepsStart s₀ (trainIface s port i mask) :=
  keepsStart_ite (keepsStart_of_eq hs rfl rfl) (keepsStart_of_eq hs rfl rfl)

theorem keepsStart_fallBack {port : Nat} (hs : KeepsStart s₀ s) : KeepsStart s₀ (fallBack s port) := by
  unfold fallBack
  split
  · exact keepsStart_of_eq hs rfl rfl
  · exact keepsStart_of_eq (keepsStart_retrainPort hs) rfl rfl

theorem keepsStart_trainPort {port mask : Nat} (hs : KeepsStart s₀ s) : KeepsStart s₀ (trainPort s port mask) := by
  unfold trainPort
  extract_lets fresh trained fallen
  have htrained : KeepsStart s₀ trained := keepsStart_foldl (fun _ _ => keepsStart_trainIface) (keepsStart_retrainPort hs)
  have hfallen : KeepsStart s₀ fallen := keepsStart_fallBack htrained
  exact keepsStart_ite (keepsStart_ite (keepsStart_trainIface hfallen) hfallen) htrained

/-! ## The writes of the configuration -/

theorem keepsStart_fenceWrite {e : Nat} {fence : Bool} (hs : KeepsStart s₀ s) : KeepsStart s₀ (fenceWrite s e fence) := by
  have hset (x : Engine) : KeepsStart s₀ (beginHealth (engSet s e x)) := keepsStart_beginHealth (keepsStart_of_eq hs rfl rfl)
  exact keepsStart_ite (keepsStart_ite (keepsStart_beginHealth hs) (hset _))
    (keepsStart_ite (hset _) (keepsStart_ite (hset _) (keepsStart_beginHealth hs)))

theorem keepsStart_setTime {new : TimeState} (hs : KeepsStart s₀ s) : KeepsStart s₀ (setTime s new) := by
  rw [setTime_frame]
  exact keepsStart_of_eq hs rfl rfl

theorem keepsStart_disc {d : Discipline} (hs : KeepsStart s₀ s) : KeepsStart s₀ { s with disc := d } := keepsStart_of_eq hs rfl rfl

theorem keepsStart_leaveStandby (hs : KeepsStart s₀ s) (h : s.power.phase = .standby) : KeepsStart s₀ (leaveStandby s) := by
  obtain ⟨ops, power, images, events, next, hframe, -⟩ := leaveStandby_frame s
  rw [hframe]
  exact keepsStart_step hs ⟨rfl, rfl, fun hs => absurd (h.symm.trans hs) (by decide)⟩

theorem keepsStart_writeEffect {off : Nat} {ws : List Word} {o : Nat} {old w : Word} (hs : KeepsStart s₀ s) :
    KeepsStart s₀ (writeEffect s off ws o old w) := by
  unfold writeEffect
  refine keepsStart_ite ?_ (keepsStart_ite ?_ (keepsStart_ite ?_ (keepsStart_ite ?_ ?_)))
  · split
    · next h => exact keepsStart_leaveStandby hs h.1
    · exact hs
  · exact keepsStart_ite (keepsStart_of_eq hs rfl rfl)
      (keepsStart_disc (keepsStart_setTime (keepsStart_of_eq hs rfl rfl)))
  · exact keepsStart_ite (keepsStart_retrainPort hs) hs
  · exact keepsStart_ite (keepsStart_of_eq hs rfl rfl) hs
  · refine keepsStart_ite (keepsStart_vidFenceSet hs) (keepsStart_ite (keepsStart_of_eq hs rfl rfl)
      (keepsStart_ite (keepsStart_of_eq hs rfl rfl) (keepsStart_ite (keepsStart_fenceWrite hs) (keepsStart_ite ?_ hs))))
    exact keepsStart_beginHealth (keepsStart_of_eq hs rfl rfl)

theorem keepsStart_storeWord {off : Nat} {ws : List Word} {o : Nat} {w : Word} (hs : KeepsStart s₀ s) :
    KeepsStart s₀ (storeWord s off ws o w) := by
  unfold storeWord
  split
  · exact hs
  · exact keepsStart_ite hs (keepsStart_ite (keepsStart_of_eq hs rfl rfl) (keepsStart_of_eq hs rfl rfl))

theorem keepsStart_logRefusedLift {o : Nat} {w : Word} (hs : KeepsStart s₀ s) : KeepsStart s₀ (logRefusedLift s o w) :=
  keepsStart_ite (keepsStart_foldl (fun _ _ h => keepsStart_of_eq h (by rfl) (by rfl)) hs) (keepsStart_ite (keepsStart_of_eq hs rfl rfl)
    (keepsStart_ite (keepsStart_foldl (fun _ _ h => keepsStart_of_eq h (by rfl) (by rfl)) hs) hs))

theorem keepsStart_protGen {before : State} {offs : List Nat} (hs : KeepsStart s₀ s) : KeepsStart s₀ (protGen before s offs) :=
  keepsStart_ite (keepsStart_of_eq hs rfl rfl) hs

theorem keepsStart_stored {opal : Bool} (hs : KeepsStart s₀ s) :
    KeepsStart s₀ (if opal = true then recomputeOpal s else s) := keepsStart_ite (keepsStart_of_eq hs rfl rfl) hs

theorem keepsStart_regWrite {cls : Cls} {off : Nat} {ws : List Word} (hs : KeepsStart s₀ s) :
    KeepsStart s₀ (regWrite s cls off ws).2 := by
  unfold regWrite
  dsimp only
  split
  · exact hs
  · split
    · exact hs
    · split
      · exact hs
      · split
        · exact keepsStart_logRefusedLift hs
        · exact keepsStart_stored (keepsStart_protGen (keepsStart_foldl (fun _ _ => keepsStart_writeEffect)
            (keepsStart_foldl (fun _ _ => keepsStart_storeWord) hs)))

theorem keepsStart_configWrite {y : Nat × List Word} (hs : KeepsStart s₀ s) : KeepsStart s₀ (configWrite s y) :=
  keepsStart_ite (keepsStart_regWrite hs) (keepsStart_foldl (fun _ _ h => keepsStart_of_eq h (by rfl) (by rfl)) (keepsStart_regWrite hs))

/-! ## Rails, the health record, the self-tests -/

theorem keepsStart_pmbus {op : PmbusOp} {rail : Nat} (hs : KeepsStart s₀ s) : KeepsStart s₀ (pmbus s op rail) := by
  unfold pmbus
  split
  · exact keepsStart_of_eq hs rfl rfl
  · exact hs

theorem keepsStart_railSwitch {on : Bool} {rail : Nat} (hs : KeepsStart s₀ s) : KeepsStart s₀ (railSwitch on s rail) :=
  keepsStart_step (keepsStart_pmbus hs) ⟨rfl, rfl, id⟩

theorem keepsStart_setVdd {f : Nat} (hs : KeepsStart s₀ s) : KeepsStart s₀ (setVdd s f) :=
  keepsStart_foldl (fun _ _ => keepsStart_pmbus) (keepsStart_step hs ⟨rfl, rfl, id⟩)

theorem keepsStart_enableRails {vppOk : Bool} (hs : KeepsStart s₀ s) : KeepsStart s₀ (enableRails s vppOk) :=
  keepsStart_ite (keepsStart_foldl (fun _ _ => keepsStart_railSwitch) (keepsStart_setVdd
    (keepsStart_foldl (fun _ _ => keepsStart_railSwitch) (keepsStart_railSwitch hs)))) (keepsStart_railSwitch hs)

theorem keepsStart_reapplyFence {f : FenceRec} (hs : KeepsStart s₀ s) : KeepsStart s₀ (reapplyFence s f) := by
  cases f <;> exact keepsStart_of_eq hs rfl rfl

theorem keepsStart_reapplyRetired {r : Nat} (hs : KeepsStart s₀ s) : KeepsStart s₀ (reapplyRetired s r) :=
  keepsStart_ite hs (keepsStart_of_eq hs rfl rfl)

theorem keepsStart_reapplyHealth (hs : KeepsStart s₀ s) : KeepsStart s₀ (reapplyHealth s) := by
  unfold reapplyHealth
  exact keepsStart_foldl (fun _ _ => keepsStart_reapplyFence) (keepsStart_foldl (fun _ _ => keepsStart_reapplyRetired)
    (keepsStart_foldl (fun _ _ h => keepsStart_of_eq h (by rfl) (by rfl)) (keepsStart_of_eq hs rfl rfl)))

theorem keepsStart_notice {bit : Nat} (hs : KeepsStart s₀ s) : KeepsStart s₀ (notice s bit) := keepsStart_of_eq hs rfl rfl

/-- A unit that has failed its self-test is fenced and logged. -/
theorem keepsStart_selfTest {f : FenceRec} {code : Nat} {unit : BitVec 16} {detail : Bytes} (hs : KeepsStart s₀ s) :
    KeepsStart s₀ (logEvent (reapplyFence s f) code unit none detail) := keepsStart_of_eq (keepsStart_reapplyFence hs) rfl rfl

theorem keepsStart_startUnits {r : StartupReport} (hs : KeepsStart s₀ s) : KeepsStart s₀ (startUnits s r) := by
  unfold startUnits
  extract_lets engines units codecs recorded trained
  have hcodecs : KeepsStart s₀ codecs := by
    refine keepsStart_foldl (fun _ _ h => ?_) (keepsStart_foldl (fun _ _ h => ?_) (keepsStart_foldl (fun _ _ h => ?_) hs))
    · exact keepsStart_ite (keepsStart_of_eq h rfl rfl) (keepsStart_notice (keepsStart_selfTest (keepsStart_of_eq h rfl rfl)))
    · exact keepsStart_ite (keepsStart_of_eq h rfl rfl) (keepsStart_selfTest (keepsStart_of_eq h rfl rfl))
    · exact keepsStart_ite (keepsStart_of_eq h rfl rfl) (keepsStart_selfTest (keepsStart_of_eq h rfl rfl))
  exact keepsStart_trainPort (keepsStart_trainPort (keepsStart_foldl (fun _ _ h => keepsStart_of_eq h (by rfl) (by rfl))
    (keepsStart_ite hcodecs (keepsStart_beginHealth hcodecs))))

end Sys2Proof.Machine

/-! O54: resets, trips and start-ups (R310, R473, R486, R490, R491, R510). -/

namespace Sys2Proof.Machine

open Sys2Proof Sys2Proof.Terms

variable {s t : State}

/-! ## What a reset loses -/

/-- Only the flash and the count of free values differ. -/
def FlashOnly (s t : State) : Prop := ∃ f n, t = { s with flash := f, freeCtr := n }

theorem flashOnly_refl (s : State) : FlashOnly s s := ⟨s.flash, s.freeCtr, rfl⟩

theorem flashOnly_ite {c : Prop} [Decidable c] {u : State} (ht : FlashOnly s t) (hu : FlashOnly s u) :
    FlashOnly s (if c then t else u) := by
  split
  · exact ht
  · exact hu

theorem flashOnly_trans {u : State} (ht : FlashOnly s t) (hu : FlashOnly t u) : FlashOnly s u := by
  obtain ⟨f, n, rfl⟩ := ht
  obtain ⟨g, k, rfl⟩ := hu
  exact ⟨g, k, rfl⟩

theorem flashOnly_tornStage (s : State) : FlashOnly s (tornStage s) := by
  unfold tornStage
  split
  · exact flashOnly_refl s
  · exact flashOnly_ite (flashOnly_refl s) (flashOnly_ite ⟨s.flash, _, rfl⟩ (flashOnly_ite ⟨_, _, rfl⟩ ⟨_, _, rfl⟩))

theorem flashOnly_tornCommit (s : State) : FlashOnly s (tornCommit s) := by
  unfold tornCommit
  split
  · exact flashOnly_refl s
  · exact flashOnly_ite ⟨_, _, rfl⟩ ⟨s.flash, _, rfl⟩

theorem tornStage_idle (h : s.flash.stage = none) : tornStage s = s := by
  unfold tornStage
  rw [h]

theorem tornCommit_idle (h : s.flash.commit = none) : tornCommit s = s := by
  unfold tornCommit
  rw [h]

/-- The state is lost, and the trip's records of the last start-up stay. -/
theorem lost_loseState (s : State) : Terms.Lost s (loseState s) ∧ regGet (loseState s) oPwrTrip = regGet s oPwrTrip
    ∧ (loseState s).power.tripped = s.power.tripped := by
  have hidle (h : s.flash.stage = none) (h' : s.flash.commit = none) : tornCommit (tornStage s) = s := by
    rw [tornStage_idle h, tornCommit_idle h']
  unfold loseState
  obtain ⟨f, n, hframe⟩ := flashOnly_trans (flashOnly_tornStage s) (flashOnly_tornCommit (tornStage s))
  have hflash (h : s.flash.stage = none) (h' : s.flash.commit = none) : f = s.flash :=
    congrArg State.flash (hframe.symm.trans (hidle h h'))
  rw [hframe]
  refine ⟨⟨rfl, rfl, rfl, rfl, rfl, rfl, rfl, rfl, rfl, rfl, rfl, rfl, rfl, rfl, rfl, fun a ha => ?_, fun h h' => ?_⟩,
    regGet_regSet_same rfl _ _, rfl⟩
  · exact regGet_regSet_other _ _ ha
  · rw [hflash h h']
    exact ⟨rfl, rfl, rfl, rfl, rfl, rfl, rfl⟩

/-- What does not bear on what a reset loses. -/
theorem lost_congr {u : State} (h : Terms.Lost s t) (hframe : u = { t with
      out := u.out, freeCtr := u.freeCtr, power := u.power, tap := u.tap, regs := u.regs })
    (hphase : u.power.phase = .off) (hregs : ∀ a, a ≠ oPwrTrip → regGet u a = regGet t a) : Terms.Lost s u := by
  obtain ⟨-, h2, h3, h4, h5, h6, h7, h8, h9, h10, h11, h12, h13, h14, h15, hreset, hflash⟩ := h
  have hreset' : ∀ a, a ≠ oPwrTrip → regGet u a = resetWord a := fun a ha => (hregs a ha).trans (hreset a ha)
  clear hreset hregs
  generalize u.out = o, u.freeCtr = f, u.regs = r, u.tap = tap at hframe
  generalize hp : u.power = p at hframe hphase
  subst hframe
  exact ⟨hphase, h2, h3, h4, h5, h6, h7, h8, h9, h10, h11, h12, h13, h14, h15, hreset', hflash⟩

theorem lost_powerDown (s : State) : Terms.Lost s (powerDown s) ∧ regGet (powerDown s) oPwrTrip = regGet s oPwrTrip
    ∧ (powerDown s).power.tripped = s.power.tripped := by
  obtain ⟨hlost, htrip, htripped⟩ := lost_loseState s
  exact ⟨lost_congr hlost rfl rfl fun _ _ => rfl, htrip, htripped⟩

theorem reset_resetN (s : State) : Terms.Lost s (resetBy s .resetN) ∧ regGet (resetBy s .resetN) oPwrTrip = regGet s oPwrTrip
    ∧ (resetBy s .resetN).power.tripped = s.power.tripped ∧ (resetBy s .resetN).tap.resetLow = true := by
  obtain ⟨hlost, htrip, htripped⟩ := lost_powerDown s
  exact ⟨lost_congr hlost rfl rfl fun _ _ => rfl, htrip, htripped, rfl⟩

theorem reset_pwrGood (s : State) : Terms.Lost s (resetBy s .pwrGood) ∧ (resetBy s .pwrGood).power.tripped = false := by
  obtain ⟨hlost, -, -⟩ := lost_powerDown s
  unfold resetBy
  dsimp only [freeVal]
  split
  · exact ⟨lost_congr hlost rfl rfl fun _ _ => rfl, rfl⟩
  · exact ⟨lost_congr hlost rfl rfl fun a ha => regGet_regSetF_other _ _ _ _ ha, rfl⟩

/-- A trip sets its latch and counts itself. -/
theorem thermalTrip_spec (hc : Canonical s) {sensor tempC : Nat} (hsensor : sensor < 72) (htemp : 115 ≤ tempC)
    (hon : s.power.phase ≠ .off) :
    ∃ t, exec (.thermalTrip sensor tempC) s = .next t ∧ Terms.Lost s t ∧ t.power.tripped = true
      ∧ regF t oPwrTrip 31 31 = 1 ∧ regF t oPwrTrip 15 0 = min 65535 (regF s oPwrTrip 15 0 + 1) := by
  obtain ⟨hlost, htrip, -⟩ := lost_loseState { s with out := [] }
  have hwf : swf resetWord (loseState { s with out := [] }).regs = true :=
    ((keeps_loseState keeps_refl).canonical (canonical_of_tables hc)).regs
  have hno : ¬(s.power.phase = .off ∨ tempC < 115 ∨ 72 ≤ sensor) := by
    rintro (h | h | h)
    · exact hon h
    · omega
    · omega
  refine ⟨_, if_neg hno, ?_⟩
  generalize loseState { s with out := [] } = u at hlost htrip hwf ⊢
  have hwf' := swf_regSet (s := { u with power := { u.power with tripped := true, tripLog := true } }) hwf oPwrTrip
    (setF (regGet u oPwrTrip) 31 31 1)
  refine ⟨lost_congr hlost rfl hlost.1 fun a ha => ?_, rfl, ?_, ?_⟩
  · exact (regGet_regCount_other _ _ _ _ ha).trans (regGet_regSetF_other _ _ _ _ ha)
  · exact (regF_regSetF_field hwf' _ _ (by decide) (by decide)).trans (regF_regSetF_same hwf _ _ (by decide) (by decide))
  · refine (regF_regCount_same hwf' _ _ (by decide) (by decide)).trans ?_
    have hold := regF_regSetF_field (s := { u with power := { u.power with tripped := true, tripLog := true } }) hwf oPwrTrip
      (hi := 31) (lo := 31) (hi' := 15) (lo' := 0) 1 (by decide) (by decide)
    have htrip' : regF u oPwrTrip 15 0 = regF s oPwrTrip 15 0 := congrArg (getF · 15 0) htrip
    exact congrArg (fun n => min 65535 (n + 1)) (hold.trans htrip')

/-! ## Start-up -/

/-- A device that starts up: PWR_GOOD and RESET_N are high. -/
def poweredUp (s : State) (r : StartupReport) : State := { s with
  out := []
  tap := { s.tap with ir := .idcode, driven := none, released := false, resetLow := false, pwrGood := true }
  power := { s.power with phase := .starting, stageMs := r.stageMs } }

theorem canonical_firmware (hc : Canonical s) (r : StartupReport) : Canonical (startFirmware (poweredUp s r) r).1 :=
  (keeps_startFirmware (keeps_refl (s := poweredUp s r))).canonical (canonical_of_tables hc)

theorem exec_startup_failed {r : StartupReport} (hoff : s.power.phase = .off) (htrip : s.power.tripped = false)
    (h : (startFirmware (poweredUp s r) r).2 = false) :
    exec (.startup r) s = .next (startFailed (startFirmware (poweredUp s r) r).1) := by
  have hdef : exec (.startup r) s = execStartup r s := rfl
  rw [hdef]
  unfold execStartup
  refine (if_neg (not_not.mpr hoff)).trans ((if_neg (by rw [htrip]; decide)).trans ?_)
  show (match startFirmware (poweredUp s r) r with | (s, false) => _ | (s, true) => _) = _
  generalize startFirmware (poweredUp s r) r = u at h ⊢
  obtain ⟨u, b⟩ := u
  cases h
  rfl

theorem exec_startup_boots {r : StartupReport} (hoff : s.power.phase = .off) (htrip : s.power.tripped = false)
    (h : (startFirmware (poweredUp s r) r).2 = true) :
    ∃ u, startUnits (startFirmware (poweredUp s r) r).1 r = u
      ∧ exec (.startup r) s = if regF u oTbCtrl 1 0 = 0 ∨ u.disc.state = .locked then .next (deviceReady u)
        else .next (regSetF { u with power := { u.power with stageAt := u.clock.wall } } oPwrStatus 27 24 6) := by
  have hdef : exec (.startup r) s = execStartup r s := rfl
  refine ⟨_, rfl, ?_⟩
  rw [hdef]
  unfold execStartup
  refine (if_neg (not_not.mpr hoff)).trans ((if_neg (by rw [htrip]; decide)).trans ?_)
  show (match startFirmware (poweredUp s r) r with | (s, false) => _ | (s, true) => _) = _
  generalize startFirmware (poweredUp s r) r = u at h ⊢
  obtain ⟨u, b⟩ := u
  cases h
  rfl

/-- Without a PUF, a firmware or a configuration, stages 1 and 2 fail. -/
theorem startFirmware_fails {r : StartupReport} (h : r.pufOk = false ∨ bootSlot s.flash = none ∨ bootConfig s.flash = none) :
    startFirmware s r = (s, false) := by
  unfold startFirmware
  split
  · next slot one hslot hone =>
    rcases h with h | h | h
    · simp [h] at hslot
    · simp [h] at hslot
    · cases hone.symm.trans h
  · rfl

theorem keepsStart_regSet {s₀ : State} {a : Nat} {w : Word} (hs : KeepsStart s₀ s) : KeepsStart s₀ (regSet s a w) :=
  keepsStart_of_eq hs rfl rfl

theorem keepsStart_secRegs {s₀ : State} (hs : KeepsStart s₀ s) : KeepsStart s₀ (secRegs s) :=
  keepsStart_regSet (keepsStart_regSet (keepsStart_regSet hs))

theorem keepsStart_identify {s₀ : State} (hs : KeepsStart s₀ s) : KeepsStart s₀ (identify s) :=
  keepsStart_secRegs (keepsStart_regSet (keepsStart_regSet (keepsStart_regSet (keepsStart_regSet (keepsStart_regSet
    (keepsStart_regSet (keepsStart_regSet (keepsStart_regSet hs))))))))

theorem keepsStart_tripLog {s₀ : State} (hs : KeepsStart s₀ s) : KeepsStart s₀
    (notice (logEvent { s with power := { s.power with tripLog := false } } 0x0002 (unitOf 0 0) none []) 8) :=
  keepsStart_step hs ⟨rfl, rfl, id⟩

/-- With them, the slot and the copy run, and VPP decides. -/
theorem startFirmware_boots {r : StartupReport} {slot one : Bool} (hpuf : r.pufOk = true) (hslot : bootSlot s.flash = some slot)
    (hone : bootConfig s.flash = some one) :
    ∃ u, startFirmware s r = (if r.vppOk = true then (reapplyHealth u, true) else (u, false))
      ∧ KeepsStart { s with flash := { s.flash with runB := slot, inEffect1 := one } } u := by
  unfold startFirmware
  rw [hpuf, if_pos rfl, hslot, hone]
  dsimp only
  refine ⟨_, rfl, keepsStart_enableRails (keepsStart_foldl (fun _ _ => keepsStart_configWrite) (keepsStart_identify ?_))⟩
  have hbegun (b : Bytes) : KeepsStart { s with flash := { s.flash with runB := slot, inEffect1 := one } }
      { s with flash := { s.flash with runB := slot, inEffect1 := one, blob := b } } := ⟨rfl, rfl, id⟩
  have hlogged (b : Bytes) := keepsStart_ite (c := s.power.tripLog = true) (keepsStart_tripLog (hbegun b)) (hbegun b)
  exact keepsStart_ite (keepsStart_of_eq (hlogged _) rfl rfl) (hlogged _)

/-- Ready: IDLE in RAMP mode, at stage 7, with the boot logged. -/
theorem deviceReady_spec (hc : Canonical s) : (deviceReady s).power.phase = .idle ∧ regF (deviceReady s) oPwrStatus 27 24 = 7
    ∧ regF (deviceReady s) oPwrStatus 31 28 = 2 ∧ (deviceReady s).events.head?.map (·.code) = some 0x001
    ∧ (deviceReady s).power.ramp = true ∧ (deviceReady s).flash.runB = s.flash.runB
    ∧ (deviceReady s).flash.inEffect1 = s.flash.inEffect1 := by
  have hwf7 : swf resetWord (regSetF s oPwrStatus 27 24 7).regs = true := swf_regSet hc.regs _ _
  have hword : regGet (deviceReady s) oPwrStatus = regGet (regSetF (regSetF s oPwrStatus 27 24 7) oPwrStatus 31 28 2) oPwrStatus := by
    unfold deviceReady
    rw [regGet_takeSnapshot _ (by decide) (by decide) (by decide), regGet_secRegs _ (by decide) (by decide) (by decide)]
    rfl
  have hflash (f : Flash) (g : BootRec → BootRec) : (updateRecord f g).runB = f.runB ∧ (updateRecord f g).inEffect1 = f.inEffect1 := by
    unfold updateRecord
    dsimp only
    split <;> exact ⟨rfl, rfl⟩
  have hcopies : (deviceReady s).flash.runB = s.flash.runB ∧ (deviceReady s).flash.inEffect1 = s.flash.inEffect1 := by
    unfold deviceReady
    extract_lets logged f f'
    show f'.runB = _ ∧ f'.inEffect1 = _
    unfold f'
    split
    · exact ⟨rfl, rfl⟩
    · exact hflash f _
  refine ⟨rfl, ?_, ?_, rfl, rfl, hcopies⟩
  · rw [regF, hword]
    exact (regF_regSetF_field hwf7 _ _ (by decide) (by decide)).trans (regF_regSetF_same hc.regs _ _ (by decide) (by decide))
  · rw [regF, hword]
    exact regF_regSetF_same hwf7 _ _ (by decide) (by decide)

theorem startFailed_spec (hc : Canonical s) : (startFailed s).power.phase = .failed ∧ regF (startFailed s) oPwrStatus 27 24 = 0xF :=
  ⟨rfl, regF_regSetF_same hc.regs _ _ (by decide) (by decide)⟩

/-- A start-up that cannot go on stops with stage code 0xF. -/
theorem startup_stops (hc : Canonical s) {r : StartupReport} (hoff : s.power.phase = .off) (htrip : s.power.tripped = false)
    (h : r.pufOk = false ∨ r.vppOk = false ∨ bootSlot s.flash = none ∨ bootConfig s.flash = none) :
    ∃ t, exec (.startup r) s = .next t ∧ t.power.phase = .failed ∧ regF t oPwrStatus 27 24 = 0xF
      ∧ (r.pufOk = false ∨ bootSlot s.flash = none ∨ bootConfig s.flash = none → t.flash = s.flash) := by
  have hstops : (startFirmware (poweredUp s r) r).2 = false := by
    by_cases hboots : r.pufOk = false ∨ bootSlot s.flash = none ∨ bootConfig s.flash = none
    · rw [startFirmware_fails (s := poweredUp s r) hboots]
    · obtain ⟨hpuf, hslot, hone⟩ : r.pufOk = true ∧ (∃ slot, bootSlot s.flash = some slot) ∧ ∃ one, bootConfig s.flash = some one := by
        simpa only [not_or, Bool.not_eq_false, ← ne_eq, Option.ne_none_iff_exists'] using hboots
      obtain ⟨slot, hslot⟩ := hslot
      obtain ⟨one, hone⟩ := hone
      have hvpp : r.vppOk = false := by simpa [hpuf, hslot, hone] using h
      obtain ⟨u, hu, -⟩ := startFirmware_boots (s := poweredUp s r) hpuf hslot hone
      rw [hu, hvpp]
      rfl
  obtain ⟨hphase, hstage⟩ := startFailed_spec (canonical_firmware hc r)
  refine ⟨_, exec_startup_failed hoff htrip hstops, hphase, hstage, fun hboots => ?_⟩
  rw [startFirmware_fails (s := poweredUp s r) hboots]
  rfl

/-- A start-up that goes on reaches ready, or stage 6 when a time source is set. -/
theorem startup_boots (hc : Canonical s) {r : StartupReport} {slot one : Bool} (hoff : s.power.phase = .off)
    (htrip : s.power.tripped = false) (hpuf : r.pufOk = true) (hvpp : r.vppOk = true) (hslot : bootSlot s.flash = some slot)
    (hone : bootConfig s.flash = some one) :
    ∃ t, exec (.startup r) s = .next t ∧ t.flash.runB = slot ∧ t.flash.inEffect1 = one
      ∧ (t.power.phase = .idle ∧ regF t oPwrStatus 27 24 = 7 ∧ regF t oPwrStatus 31 28 = 2
            ∧ (t.events.head?.map (·.code)) = some 0x001 ∧ t.power.ramp = true
          ∨ t.power.phase = .starting ∧ regF t oPwrStatus 27 24 = 6 ∧ regF t oTbCtrl 1 0 ≠ 0) := by
  obtain ⟨v, hv, hstart⟩ := startFirmware_boots (s := poweredUp s r) hpuf hslot hone
  rw [hvpp, if_pos rfl] at hv
  obtain ⟨u, hu, hexec⟩ := exec_startup_boots hoff htrip (congrArg Prod.snd hv)
  have hcu : Canonical u := by
    rw [← hu]
    exact (keeps_startUnits keeps_refl).canonical (canonical_firmware hc r)
  obtain ⟨hrun, heffect, hphase⟩ : KeepsStart _ u := by
    rw [← hu, hv]
    exact keepsStart_startUnits (keepsStart_reapplyHealth hstart)
  rw [hexec]
  split
  · obtain ⟨hidle, hstage, hstatus, hlog, hramp, hrun', heffect'⟩ := deviceReady_spec hcu
    exact ⟨_, rfl, hrun'.trans hrun, heffect'.trans heffect, .inl ⟨hidle, hstage, hstatus, hlog, hramp⟩⟩
  · next hwaits =>
    refine ⟨_, rfl, hrun, heffect, .inr ⟨hphase rfl, regF_regSetF_same hcu.regs _ _ (by decide) (by decide), ?_⟩⟩
    have hsource := regGet_regSetF_other { u with power := { u.power with stageAt := u.clock.wall } } (a := oPwrStatus)
      (b := oTbCtrl) 27 24 6 (by decide)
    rw [regF, hsource]
    exact fun h => hwaits (.inl h)

/-- Settles O54: a reset and a trip lose the state, and a start-up's stages decide how far it comes. -/
theorem resetsTripsAndStartUps : Obligations.ResetsTripsAndStartUps := by
  intro s hc
  refine ⟨fun pin ns hns => if_pos hns, fun ns hns => ⟨?_, ?_⟩, fun due hdue hover => ?_,
    fun sensor tempC hsensor htemp hon => thermalTrip_spec hc hsensor htemp hon,
    fun r hoff => ⟨fun htrip => ?_, startup_stops hc hoff, fun slot one htrip hpuf hvpp => startup_boots hc hoff htrip hpuf hvpp⟩,
    fun hstarting hover => ?_⟩
  · exact ⟨_, if_neg (Nat.not_lt.mpr hns), reset_resetN { s with out := [] }⟩
  · exact ⟨_, if_neg (Nat.not_lt.mpr hns), reset_pwrGood { s with out := [] }⟩
  · obtain ⟨hlost, htrip, -⟩ := lost_powerDown { s with out := [] }
    refine ⟨_, ?_, hlost, htrip⟩
    have hdef : exec .commitRestartReset s = execCommitRestartReset s := rfl
    rw [hdef]
    unfold execCommitRestartReset
    simp only [hdue]
    exact if_pos hover
  · have hdef : exec (.startup r) s = execStartup r s := rfl
    rw [hdef]
    unfold execStartup
    exact ⟨_, (if_neg (not_not.mpr hoff)).trans (if_pos htrip), hoff⟩
  · obtain ⟨hidle, hstage, -, hlog, -, -, -⟩ := deviceReady_spec (s := { s with out := [] }) (canonical_of_tables hc)
    exact ⟨_, if_pos ⟨hstarting, hover⟩, hidle, hstage, hlog⟩

end Sys2Proof.Machine

/-! Regulators: their alerts and polls (R476, R477). -/

namespace Sys2Proof.Machine

open Sys2Proof Sys2Proof.Terms

variable {s t u : State}

/-- Only the power unit's own state and the log differ, and what the device sends. -/
def PowerOnly (s t : State) : Prop := ∃ o p e n, t = { s with out := o, power := p, events := e, nextSeq := n }

theorem powerOnly_refl (s : State) : PowerOnly s s := ⟨_, _, _, _, rfl⟩

theorem powerOnly_trans (h : PowerOnly s t) (h' : PowerOnly t u) : PowerOnly s u := by
  obtain ⟨_, _, _, _, rfl⟩ := h
  obtain ⟨o, p, e, n, rfl⟩ := h'
  exact ⟨o, p, e, n, rfl⟩

theorem PowerOnly.eq (h : PowerOnly s t) : t = { s with out := t.out, power := t.power, events := t.events, nextSeq := t.nextSeq } := by
  obtain ⟨_, _, _, _, rfl⟩ := h
  rfl

/-- A transaction with a regulator: what it leaves of the power unit's state; a fault that stands goes on. -/
structure RailStep (s t : State) : Prop where
  frame   : PowerOnly s t
  alert   : t.power.alert = s.power.alert
  outside : t.power.outside = s.power.outside
  pollAt  : t.power.pollAt = s.power.pollAt
  fault   : s.power.causes.getLsbD 0 = true → t.power.causes.getLsbD 0 = true

theorem railStep_refl (s : State) : RailStep s s := ⟨powerOnly_refl s, rfl, rfl, rfl, id⟩

theorem railStep_trans (h : RailStep s t) (h' : RailStep t u) : RailStep s u :=
  ⟨powerOnly_trans h.frame h'.frame, h'.alert.trans h.alert, h'.outside.trans h.outside, h'.pollAt.trans h.pollAt,
    fun hs => h'.fault (h.fault hs)⟩

theorem railStep_of_power (hframe : PowerOnly s t) (hpower : t.power = s.power) : RailStep s t :=
  ⟨hframe, by rw [hpower], by rw [hpower], by rw [hpower], fun h => by rwa [hpower]⟩

theorem railStep_foldl {α : Type} {f : State → α → State} (hf : ∀ s a, RailStep s (f s a)) (l : List α) (s : State) :
    RailStep s (l.foldl f s) := by
  induction l generalizing s with
  | nil => exact railStep_refl s
  | cons a l ih => exact railStep_trans (hf s a) (ih _)

theorem causes_set : ∀ (c : BitVec 5) (i : Fin 5),
    (BitVec.ofNat 5 (c.toNat - c.toNat / 2 ^ i.val % 2 * 2 ^ i.val + 1 * 2 ^ i.val)).getLsbD i = true := by decide

/-- A cause that is set holds. -/
theorem getLsbD_setCause (s : State) {i : Nat} (h : i < 5) : (setCause s i true).power.causes.getLsbD i = true :=
  causes_set s.power.causes ⟨i, h⟩

theorem railStep_pmbus (s : State) (op : PmbusOp) (rail : Nat) : RailStep s (pmbus s op rail) := by
  refine railStep_of_power ?_ (pmbus_power op rail)
  unfold pmbus
  split
  · exact ⟨_, _, _, _, rfl⟩
  · exact powerOnly_refl s

theorem railStep_logRail (s : State) (i : Nat) (w : BitVec 16) : RailStep s (logRail s i w) :=
  railStep_of_power ⟨_, _, _, _, rfl⟩ rfl

theorem railStep_railSet (s : State) (r : Rail) : RailStep s (railSet s r) := ⟨⟨_, _, _, _, rfl⟩, rfl, rfl, rfl, id⟩

theorem railStep_setFault (s : State) : RailStep s (setCause s 0 true) :=
  ⟨⟨_, _, _, _, rfl⟩, rfl, rfl, rfl, fun _ => getLsbD_setCause s (by decide)⟩

theorem railStep_ite {c : Prop} [Decidable c] (ht : RailStep s t) (hu : RailStep s u) : RailStep s (if c then t else u) := by
  split
  · exact ht
  · exact hu

/-- An answer in its parts: logged, cleared where it is a warning, and kept. -/
theorem railAnswer_some {r : RailReading} {w : BitVec 16} (log : BitVec 16 → Rail → Bool) (h : r.answer = some w) :
    ∃ u, RailStep s u ∧ railAnswer s r log = (if faultBits w = true then setCause (railSet u
        { railGet s r.rail with silent := 0, fault := faultBits w }) 0 true
      else railSet u { railGet s r.rail with silent := 0, fault := faultBits w })
      ∧ u.out = (if log w (railGet s r.rail) ∧ (!faultBits w) = true then (pmbus s .clearFaults r.rail).out else s.out) := by
  have hlogged := railStep_ite (c := log w (railGet s r.rail) = true) (railStep_logRail s r.rail w) (railStep_refl s)
  unfold railAnswer
  rw [h]
  refine ⟨_, railStep_ite (railStep_trans hlogged (railStep_pmbus _ _ _)) hlogged, rfl, ?_⟩
  have hout (u : State) (hu : u.out = s.out) (hf : u.flash = s.flash) :
      (pmbus u .clearFaults r.rail).out = (pmbus s .clearFaults r.rail).out := by
    unfold pmbus
    rw [hf]
    split
    · exact congrArg (· ++ _) hu
    · exact hu
  by_cases hlog : log w (railGet s r.rail) = true
  · simp only [hlog, if_true, true_and]
    split
    · exact hout _ rfl rfl
    · rfl
  · simp only [hlog, false_and, if_false, Bool.false_eq_true]

theorem railStep_railAnswer (s : State) (r : RailReading) (log : BitVec 16 → Rail → Bool) : RailStep s (railAnswer s r log) := by
  cases h : r.answer with
  | none =>
    unfold railAnswer
    rw [h]
    exact railStep_ite (railStep_trans (railStep_railSet s _) (railStep_trans (railStep_logRail _ _ _) (railStep_setFault _)))
      (railStep_railSet s _)
  | some w =>
    obtain ⟨u, hu, heq, -⟩ := railAnswer_some (s := s) log h
    rw [heq]
    exact railStep_ite (railStep_trans hu (railStep_trans (railStep_railSet _ _) (railStep_setFault _)))
      (railStep_trans hu (railStep_railSet _ _))

/-- An answer with a fault bit is cause 0 of LIMITED. -/
theorem railAnswer_fault {r : RailReading} {w : BitVec 16} (log : BitVec 16 → Rail → Bool) (h : r.answer = some w)
    (hw : faultBits w = true) : (railAnswer s r log).power.causes.getLsbD 0 = true := by
  obtain ⟨u, -, heq, -⟩ := railAnswer_some (s := s) log h
  rw [heq, if_pos hw]
  exact getLsbD_setCause _ (by decide)

/-- The answers of all the regulators: a fault bit of any of them stands at the end. -/
theorem foldl_fault {f : State → RailReading → State} (hf : ∀ s r, RailStep s (f s r))
    (hfault : ∀ s r w, r.answer = some w → faultBits w = true → (f s r).power.causes.getLsbD 0 = true)
    {rails : List RailReading} {r : RailReading} {w : BitVec 16} (hr : r ∈ rails) (h : r.answer = some w)
    (hw : faultBits w = true) (s : State) : (rails.foldl f s).power.causes.getLsbD 0 = true := by
  induction rails generalizing s with
  | nil => exact absurd hr List.not_mem_nil
  | cons a l ih =>
    rcases List.mem_cons.mp hr with rfl | hr
    · exact (railStep_foldl hf l _).fault (hfault s r w h hw)
    · exact ih hr _

/-! ## What a poll reads -/

theorem railGet_index (s : State) (i : Nat) : (railGet s i).index = i := by
  unfold railGet
  cases h : s.power.rails.find? (·.index == i) with
  | none => rfl
  | some x => simpa using List.find?_some h

theorem railGet_railSet (s : State) (r : Rail) : railGet (railSet s r) r.index = r := by
  have hnone : (s.power.rails.filter (fun x => x.index != r.index)).find? (·.index == r.index) = none := by
    rw [List.find?_eq_none]
    intro x hx
    have := (List.mem_filter.mp hx).2
    simpa using this
  show ((s.power.rails.filter (fun x => x.index != r.index) ++ [r]).find? (·.index == r.index)).getD _ = r
  rw [List.find?_append, hnone]
  simp

/-- A kept record is read back under its own index. -/
theorem railGet_railSet_of {i : Nat} {r : Rail} (s : State) (h : r.index = i) : railGet (railSet s r) i = r := by
  subst h
  exact railGet_railSet s r

theorem railGet_setCause (s : State) (i j : Nat) (on : Bool) : railGet (setCause s i on) j = railGet s j := rfl

theorem railGet_railAnswer {r : RailReading} {w : BitVec 16} (log : BitVec 16 → Rail → Bool) (h : r.answer = some w) :
    railGet (railAnswer s r log) r.rail = { railGet s r.rail with silent := 0, fault := faultBits w } := by
  obtain ⟨u, -, heq, -⟩ := railAnswer_some (s := s) log h
  rw [heq]
  have hread := railGet_railSet_of (r := { railGet s r.rail with silent := 0, fault := faultBits w }) u (railGet_index s r.rail)
  split
  · exact hread
  · exact hread

theorem railStep_railTelemetry (s : State) (r : RailReading) : RailStep s (railTelemetry s r) := by
  unfold railTelemetry
  split
  · exact railStep_refl s
  · exact railStep_railSet s _

/-- The causes that a quiet alert clears are all that changes. -/
theorem clearRailCauses_spec (s : State) : ∃ c, clearRailCauses s = { s with power := { s.power with causes := c } } := by
  unfold clearRailCauses
  dsimp only
  split_ifs <;> exact ⟨_, rfl⟩

end Sys2Proof.Machine

/-! The alerts and polls of the regulators, and what an evaluation of the power policy does (R477, R480 to R485). -/

namespace Sys2Proof.Machine

open Sys2Proof Sys2Proof.Terms

variable {s t u : State}

/-- The alert asserted and counted, before the regulators answer. -/
def alerted (s : State) (rails : List RailReading) : State :=
  let u := regCount { s with out := [] } oPwrEvents 7 0 1
  { u with power := { u.power with alert := true, outside := u.power.outside || rails.any (·.railOff) } }

theorem exec_regulatorAlert {ns : Nat} {rails : List RailReading} (hrun : firmwareRuns s = true) (hns : 1000 ≤ ns) :
    exec (.regulatorAlert ns rails) s
      = .next (rails.foldl (fun s r => railAnswer (pmbus s .readStatus r.rail) r fun w _ => w != 0) (alerted s rails)) := by
  have hdef : exec (.regulatorAlert ns rails) s = execRegulatorAlert ns rails s := rfl
  rw [hdef]
  refine if_neg ?_
  show ¬((!firmwareRuns s) = true ∨ ns < 1000)
  rw [hrun]
  rintro (h | h)
  · exact absurd h (by decide)
  · omega

theorem railStep_alertAnswer (s : State) (r : RailReading) :
    RailStep s (railAnswer (pmbus s .readStatus r.rail) r fun w _ => w != 0) :=
  railStep_trans (railStep_pmbus s _ _) (railStep_railAnswer _ r _)

/-- One regulator that warns is read, and told to clear. -/
theorem alertAnswer_warning {r : RailReading} {w : BitVec 16} {z : Nat × Nat × Nat} (hanswer : r.answer = some w) (hw : w ≠ 0)
    (hfault : faultBits w = false) (hz : (blobRails s.flash.blob).find? (·.1 == r.rail) = some z) :
    (railAnswer (pmbus s .readStatus r.rail) r fun w _ => w != 0).out
      = s.out ++ [.pmbus r.rail z.2.1 z.2.2 .readStatus, .pmbus r.rail z.2.1 z.2.2 .clearFaults] := by
  have hpmbus (u : State) (op : PmbusOp) (hu : u.flash = s.flash) :
      (pmbus u op r.rail).out = u.out ++ [.pmbus r.rail z.2.1 z.2.2 op] := by
    unfold pmbus
    rw [hu, hz]
    rfl
  have hflash : (pmbus s .readStatus r.rail).flash = s.flash := by
    rw [(railStep_pmbus s .readStatus r.rail).frame.eq]
  obtain ⟨u, -, heq, hout⟩ := railAnswer_some (s := pmbus s .readStatus r.rail) (fun w _ => w != 0) hanswer
  rw [heq, hfault]
  refine hout.trans ?_
  rw [if_pos ⟨by simpa using hw, by rw [hfault]; rfl⟩, hpmbus _ _ hflash, hpmbus _ _ rfl, List.append_assoc]
  rfl

/-- The alert of R477. -/
theorem regulatorAlert_spec (hc : Canonical s) {ns : Nat} {rails : List RailReading} (hrun : firmwareRuns s = true)
    (hns : 1000 ≤ ns) :
    ∃ t, exec (.regulatorAlert ns rails) s = .next t ∧ t.power.alert = true
      ∧ t.power.outside = (s.power.outside || rails.any (·.railOff))
      ∧ regF t oPwrEvents 7 0 = min 255 (regF s oPwrEvents 7 0 + 1) ∧ RegsBut s t [oPwrEvents]
      ∧ (∀ r ∈ rails, ∀ w, r.answer = some w → faultBits w = true → t.power.causes.getLsbD 0 = true)
      ∧ (∀ (r : RailReading) (w : BitVec 16) (z : Nat × Nat × Nat), rails = [r] → r.answer = some w → w ≠ 0 → faultBits w = false →
          (blobRails s.flash.blob).find? (·.1 == r.rail) = some z →
          t.out = [.pmbus r.rail z.2.1 z.2.2 .readStatus, .pmbus r.rail z.2.1 z.2.2 .clearFaults])
      ∧ t = { s with out := t.out, regs := t.regs, power := t.power, events := t.events, nextSeq := t.nextSeq } := by
  have hstep := railStep_foldl railStep_alertAnswer rails (alerted s rails)
  have hfaults := fun (r : RailReading) (hr : r ∈ rails) (w : BitVec 16) (h : r.answer = some w) (hw : faultBits w = true) => foldl_fault railStep_alertAnswer
    (fun s r _ h hw => railAnswer_fault (s := pmbus s .readStatus r.rail) (fun w _ => w != 0) h hw) hr h hw (alerted s rails)
  have hwarning : ∀ (r : RailReading) (w : BitVec 16) (z : Nat × Nat × Nat), rails = [r] → r.answer = some w → w ≠ 0 →
      faultBits w = false → (blobRails s.flash.blob).find? (·.1 == r.rail) = some z →
      (rails.foldl (fun s r => railAnswer (pmbus s .readStatus r.rail) r fun w _ => w != 0) (alerted s rails)).out
        = [.pmbus r.rail z.2.1 z.2.2 .readStatus, .pmbus r.rail z.2.1 z.2.2 .clearFaults] := by
    rintro r w z rfl hanswer hw hfault hz
    exact alertAnswer_warning (s := alerted s [r]) hanswer hw hfault hz
  refine ⟨_, exec_regulatorAlert hrun hns, ?_⟩
  generalize rails.foldl _ (alerted s rails) = t at hstep hfaults hwarning ⊢
  obtain ⟨o, p, e, n, rfl⟩ := hstep.frame
  exact ⟨hstep.alert, hstep.outside, regF_regCount_same hc.regs _ _ (by decide) (by decide),
    regsBut_regCount s oPwrEvents 7 0 1 (by simp), hfaults, hwarning, rfl⟩

/-- An alert of 10 ms (R477). -/
theorem vrAlertSustained_spec (hrun : firmwareRuns s = true) :
    ∃ t, exec .vrAlertSustained s = .next t ∧ t.power.causes.getLsbD 1 = true ∧ t.power.alert = true
      ∧ (s.power.causes.getLsbD 1 = false → (t.events.head?.map (·.code)) = some 0x601)
      ∧ t = { s with out := [], power := t.power, events := t.events, nextSeq := t.nextSeq } := by
  have hno : ¬(!firmwareRuns s) = true := by rw [hrun]; decide
  refine ⟨_, if_neg hno, getLsbD_setCause _ (by decide), rfl, fun h => ?_, ?_⟩
  · show ((if s.power.causes.getLsbD 1 = true then ({ s with out := [] } : State) else
      logEvent { s with out := [] } 0x0601 (unitOf 0 0) none (toLE 0 2)).events.head?.map (·.code)) = _
    rw [h]
    rfl
  · have hlogged : ∃ e n, (if s.power.causes.getLsbD 1 = true then ({ s with out := [] } : State) else
        logEvent { s with out := [] } 0x0601 (unitOf 0 0) none (toLE 0 2)) = { s with out := [], events := e, nextSeq := n } := by
      split
      · exact ⟨_, _, rfl⟩
      · exact ⟨_, _, rfl⟩
    obtain ⟨e, n, hlogged⟩ := hlogged
    dsimp only
    rw [hlogged]
    rfl

/-! ## A poll (R476) -/

/-- The poll of one rail. -/
def polledRail (s : State) (r : RailReading) : State :=
  railAnswer (railTelemetry (pmbus s .readTelemetry r.rail) r) r fun w old => faultBits w && !old.fault

theorem railStep_polledRail (s : State) (r : RailReading) : RailStep s (polledRail s r) :=
  railStep_trans (railStep_trans (railStep_pmbus s _ _) (railStep_railTelemetry _ r)) (railStep_railAnswer _ r _)

/-- A poll due takes the telemetry of its rails, and then only causes, and the alert, change. -/
theorem exec_pmbusPoll {rails : List RailReading} (hrun : firmwareRuns s = true) (hdue : s.power.pollAt + 10000000 ≤ s.clock.wall) :
    ∃ t u, exec (.pmbusPoll rails) s = .next t
      ∧ u = rails.foldl polledRail { s with
          out := [], power := { s.power with pollAt := s.clock.wall, outside := s.power.outside || rails.any (·.railOff) } }
      ∧ ∃ a c, t = { u with power := { u.power with alert := a, causes := c } } := by
  have hdef : exec (.pmbusPoll rails) s = execPmbusPoll rails s := rfl
  have hno : ¬((!firmwareRuns s) = true ∨ s.clock.wall < s.power.pollAt + msWall 10) := by
    rw [hrun]
    rintro (h | h)
    · exact absurd h (by decide)
    · simp only [msWall] at h
      omega
  refine ⟨_, _, hdef.trans (if_neg hno), rfl, ?_⟩
  obtain ⟨c, hcauses⟩ := clearRailCauses_spec { rails.foldl polledRail _ with power := _ }
  exact ⟨_, c, hcauses⟩

/-- A rail that answers a poll: its telemetry. -/
theorem railGet_polledRail {r : RailReading} {w : BitVec 16} (h : r.answer = some w) :
    ∃ x : Rail, railGet (polledRail s r) r.rail = { x with silent := 0, fault := faultBits w } ∧ x.status = w
      ∧ (∀ n, linear16 r.voutMode r.vout 1000000 = some n → x.voutUv = n.toNat) ∧ x.ioutMa = (linear11 r.iout 1000).toNat
      ∧ x.poutMw = (linear11 r.pout 1000).toNat ∧ x.tempC = linear11 r.temp 1 := by
  obtain ⟨x, hread, hindex, hspec⟩ : ∃ x : Rail, railTelemetry (pmbus s .readTelemetry r.rail) r
      = railSet (pmbus s .readTelemetry r.rail) x ∧ x.index = r.rail ∧ x.status = w
        ∧ (∀ n, linear16 r.voutMode r.vout 1000000 = some n → x.voutUv = n.toNat) ∧ x.ioutMa = (linear11 r.iout 1000).toNat
        ∧ x.poutMw = (linear11 r.pout 1000).toNat ∧ x.tempC = linear11 r.temp 1 := by
    unfold railTelemetry
    rw [h]
    refine ⟨_, rfl, railGet_index _ _, rfl, fun n hn => ?_, rfl, rfl, rfl⟩
    show ((linear16 r.voutMode r.vout 1000000).map Int.toNat).getD _ = _
    rw [hn]
    rfl
  refine ⟨x, ?_, hspec⟩
  rw [polledRail, railGet_railAnswer _ h, hread, railGet_railSet_of _ hindex]

/-- The poll of R476. -/
theorem pmbusPoll_spec {rails : List RailReading} (hrun : firmwareRuns s = true) (hdue : s.power.pollAt + 10000000 ≤ s.clock.wall) :
    ∃ t, exec (.pmbusPoll rails) s = .next t ∧ t.power.pollAt = s.clock.wall
      ∧ t.power.outside = (s.power.outside || rails.any (·.railOff))
      ∧ t = { s with out := t.out, power := t.power, events := t.events, nextSeq := t.nextSeq } := by
  obtain ⟨_, u, hexec, hu, a, c, rfl⟩ := exec_pmbusPoll (rails := rails) hrun hdue
  have hstep : RailStep _ u := hu ▸ railStep_foldl railStep_polledRail rails _
  refine ⟨_, hexec, hstep.pollAt, hstep.outside, ?_⟩
  obtain ⟨o, p, e, n, hframe⟩ := hstep.frame
  rw [hframe]

/-- The poll of one rail that answers. -/
theorem pmbusPoll_one {r : RailReading} {w : BitVec 16} (hrun : firmwareRuns s = true)
    (hdue : s.power.pollAt + 10000000 ≤ s.clock.wall) (hanswer : r.answer = some w) :
    ∃ t, exec (.pmbusPoll [r]) s = .next t ∧ t.power.pollAt = s.clock.wall ∧ (railGet t r.rail).status = w
      ∧ (∀ n, linear16 r.voutMode r.vout 1000000 = some n → (railGet t r.rail).voutUv = n.toNat)
      ∧ (railGet t r.rail).ioutMa = (linear11 r.iout 1000).toNat ∧ (railGet t r.rail).poutMw = (linear11 r.pout 1000).toNat
      ∧ (railGet t r.rail).tempC = linear11 r.temp 1 ∧ (railGet t r.rail).silent = 0
      ∧ (railGet t r.rail).fault = faultBits w
      ∧ t = { s with out := t.out, power := t.power, events := t.events, nextSeq := t.nextSeq } := by
  obtain ⟨t, hexec, hpoll, -, hframe⟩ := pmbusPoll_spec (rails := [r]) hrun hdue
  obtain ⟨t', u, hexec', hu, a, c, ht⟩ := exec_pmbusPoll (rails := [r]) hrun hdue
  obtain rfl : t = t' := by injection hexec.symm.trans hexec'
  obtain ⟨x, hx, hstatus, hvout, hiout, hpout, htemp⟩ := railGet_polledRail (s := { s with
    out := [], power := { s.power with pollAt := s.clock.wall, outside := s.power.outside || [r].any (·.railOff) } }) hanswer
  have hrail : railGet t r.rail = { x with silent := 0, fault := faultBits w } := by
    rw [← hx, ht, hu]
    rfl
  refine ⟨t, hexec, hpoll, ?_⟩
  rw [hrail]
  exact ⟨hstatus, hvout, hiout, hpout, htemp, rfl, rfl, hframe⟩

end Sys2Proof.Machine

/-! O55: the power policy, LIMITED and RAMP mode (R478, R480 to R485). -/

namespace Sys2Proof.Machine

open Sys2Proof Sys2Proof.Terms

variable {s t u : State}

/-! ## Steps of F and VDD -/

theorem setVdd_frame (s : State) (f : Nat) : ∃ o, setVdd s f = { s with out := o, power := { s.power with vddF := f } } := by
  obtain ⟨ops, -, hframe⟩ := railWork_setVdd (s := s) f
  exact ⟨_, hframe.trans (by rw [setVdd_power])⟩

theorem fNow_congr (h : t.regs = s.regs) : fNow t = fNow s := congrArg (getF · 5 0) (regGet_congr h oPwrStatus)

theorem lowerF_frame (s : State) (f : Nat) : ∃ o, lowerF s f
    = { regSetF s oPwrStatus 5 0 f with out := o, power := { s.power with vddF := f } } := setVdd_frame _ f

theorem fNow_regSetF (h : swf resetWord s.regs = true) {f : Nat} (hf : f < 64) : fNow (regSetF s oPwrStatus 5 0 f) = f :=
  (regF_regSetF_same h _ _ (by decide) (by decide)).trans (Nat.mod_eq_of_lt hf)

theorem fNow_lowerF (h : swf resetWord s.regs = true) {f : Nat} (hf : f < 64) : fNow (lowerF s f) = f := by
  obtain ⟨o, hframe⟩ := lowerF_frame s f
  rw [hframe]
  exact (fNow_congr rfl).trans (fNow_regSetF h hf)

theorem fNow_lt (s : State) : fNow s < 64 := regF_lt s oPwrStatus 5 0

/-- A change of F that is counted leaves F, the power unit's state, the log and the PWR registers but PWR_EVENTS. -/
theorem countF_spec (s : State) (f : Nat) (t : State) : fNow (countF s f t) = fNow t ∧ (countF s f t).power = t.power
    ∧ (countF s f t).events = t.events ∧ regGet (countF s f t) oPwrPower = regGet t oPwrPower := by
  unfold countF
  split
  · exact ⟨congrArg (getF · 5 0) (regGet_regCount_other t _ _ _ (by decide)), rfl, rfl, regGet_regCount_other t _ _ _ (by decide)⟩
  · exact ⟨rfl, rfl, rfl, rfl⟩

/-- What an evaluation leaves: its estimate, its count and the estimate that PWR_POWER shows. -/
structure Evaluated (s t : State) : Prop where
  estimate : t.power.estimate = s.power.estimate
  evals    : t.power.evals = s.power.evals
  shown    : regGet t oPwrPower = regGet s oPwrPower

theorem evaluated_refl (s : State) : Evaluated s s := ⟨rfl, rfl, rfl⟩

theorem evaluated_countF (h : Evaluated s t) (f : Nat) : Evaluated s (countF s f t) := by
  obtain ⟨-, hpower, -, hshown⟩ := countF_spec s f t
  exact ⟨by rw [hpower, h.estimate], by rw [hpower, h.evals], hshown.trans h.shown⟩

theorem evaluated_setVdd (s : State) (f : Nat) : Evaluated s (setVdd s f) := by
  obtain ⟨o, hframe⟩ := setVdd_frame s f
  rw [hframe]
  exact ⟨rfl, rfl, rfl⟩

theorem evaluated_lowerF (s : State) (f : Nat) : Evaluated s (lowerF s f) := by
  obtain ⟨o, hframe⟩ := lowerF_frame s f
  rw [hframe]
  exact ⟨rfl, rfl, regGet_regSetF_other s _ _ _ (by decide)⟩

theorem evaluated_raiseF (s : State) (f : Nat) (settled : Bool) : Evaluated s (raiseF s f settled) := by
  unfold raiseF
  split
  · exact evaluated_setVdd s f
  · split
    · exact ⟨rfl, rfl, regGet_regSetF_other s _ _ _ (by decide)⟩
    · exact evaluated_refl s

/-! ## LIMITED entered -/

/-- PWR_STATUS as the phase and the recorded causes give it. -/
def statusShown (s : State) : State :=
  regSetF (regSetF s oPwrStatus 31 28 (phaseField s.power.phase)) oPwrStatus 23 16 s.power.recorded.toNat

theorem phaseOfPasses_limited (h : s.power.phase = .limited) : phaseOfPasses s = statusShown s := by
  have hno : ¬(s.power.phase = .idle ∨ s.power.phase = .active) := by
    rw [h]
    decide
  have hdef : phaseOfPasses s = statusShown (if s.power.phase = .idle ∨ s.power.phase = .active then
      { s with power := { s.power with phase := if s.passes.isEmpty then .idle else .active } } else s) := rfl
  rw [hdef, if_neg hno]

theorem regGet_statusShown_other (s : State) {a : Nat} (h : a ≠ oPwrStatus) : regGet (statusShown s) a = regGet s a :=
  (regGet_regSetF_other _ _ _ _ h).trans (regGet_regSetF_other _ _ _ _ h)

theorem fNow_statusShown (h : swf resetWord s.regs = true) : fNow (statusShown s) = fNow s :=
  (regF_regSetF_field (swf_regSet h _ _) _ _ (by decide) (by decide)).trans (regF_regSetF_field h _ _ (by decide) (by decide))

/-- LIMITED is entered at F 16, with the cause recorded, counted and logged. -/
theorem enterLimited_spec (s : State) (c : BitVec 5) : ∃ t, enterLimited s c = t
    ∧ t.regs = (regCount (regSetF s oPwrStatus 5 0 16) oPwrEvents 15 8 1).regs
    ∧ t.power = { s.power with phase := .limited, recorded := c, clearSince := none, vddF := 16 }
    ∧ t.events.head?.map (·.code) = some 0x602 := by
  obtain ⟨o, hframe⟩ := lowerF_frame { s with power := { s.power with phase := .limited, recorded := c, clearSince := none } } 16
  have hdef : enterLimited s c = logEvent (regCount
      (lowerF { s with power := { s.power with phase := .limited, recorded := c, clearSince := none } } 16) oPwrEvents 15 8 1)
      0x0602 (unitOf 0 0) none [BitVec.ofNat 8 c.toNat] := rfl
  rw [hdef, hframe]
  exact ⟨_, rfl, rfl, rfl, rfl⟩

/-- F can go no lower: LIMITED by cause 3, at F 16, and logged. -/
theorem limitedByEstimate_spec (hc : Canonical s) :
    ∃ t, phaseOfPasses (enterLimited (setCause s 3 true) (setCause s 3 true).power.causes) = t ∧ Evaluated s t
      ∧ t.power.phase = .limited ∧ fNow t = 16 ∧ t.power.recorded.getLsbD 3 = true
      ∧ t.events.head?.map (·.code) = some 0x602 := by
  obtain ⟨t, ht, hregs, hpower, hlog⟩ := enterLimited_spec (setCause s 3 true) (setCause s 3 true).power.causes
  have hwf : swf resetWord t.regs = true := by
    rw [hregs]
    exact swf_regSet (s := regSetF s oPwrStatus 5 0 16) (swf_regSet hc.regs _ _) _ _
  have hget (a : Nat) (ha : a ≠ oPwrEvents) : regGet t a = regGet (regSetF s oPwrStatus 5 0 16) a :=
    (regGet_congr hregs a).trans (regGet_regCount_other _ _ _ _ ha)
  have hphase : t.power.phase = .limited := by rw [hpower]
  rw [ht, phaseOfPasses_limited hphase]
  refine ⟨_, rfl, ⟨?_, ?_, ?_⟩, hphase, ?_, ?_, hlog⟩
  · show t.power.estimate = _
    rw [hpower]
    rfl
  · show t.power.evals = _
    rw [hpower]
    rfl
  · rw [regGet_statusShown_other t (by decide), hget _ (by decide), regGet_regSetF_other s _ _ _ (by decide)]
  · rw [fNow_statusShown hwf, fNow, regF, hget _ (by decide)]
    exact fNow_regSetF hc.regs (by decide)
  · have hrecorded : t.power.recorded = (setCause s 3 true).power.causes := congrArg Power.recorded hpower
    exact (congrArg (fun c : BitVec 5 => c.getLsbD 3) hrecorded).trans (getLsbD_setCause s (by decide))

/-! ## An evaluation -/

/-- The branches of the policy (R484). -/
theorem policy_spec (hc : Canonical s) (x : Sensors) :
    Evaluated s (policy s x)
      ∧ (mustLower s x = true → lowestF s < fNow s → fNow (policy s x) = fNow s - 1 ∧ (policy s x).power.vddF = fNow s - 1)
      ∧ (mustLower s x = true → fNow s ≤ lowestF s → (policy s x).power.phase = .limited ∧ fNow (policy s x) = 16
          ∧ (policy s x).power.recorded.getLsbD 3 = true ∧ (policy s x).events.head?.map (·.code) = some 0x602)
      ∧ (mustLower s x = false → mayRaise s x = true →
          (s.power.vddF < fNow s + 1 → fNow (policy s x) = fNow s ∧ (policy s x).power.vddF = fNow s + 1)
          ∧ (fNow s + 1 ≤ s.power.vddF → fNow (policy s x) = (if x.settled = true then fNow s + 1 else fNow s)))
      ∧ (mustLower s x = false → mayRaise s x = false → policy s x = s) := by
  unfold policy
  cases hlower : mustLower s x with
  | true =>
    rw [if_pos rfl]
    by_cases hlow : fNow s ≤ lowestF s
    · rw [if_pos hlow]
      obtain ⟨t, ht, heval, hphase, hf, hrecorded, hlog⟩ := limitedByEstimate_spec hc
      rw [ht]
      exact ⟨heval, fun _ h => absurd hlow (Nat.not_le.mpr h), fun _ _ => ⟨hphase, hf, hrecorded, hlog⟩,
        fun h => absurd h (by decide), fun h => absurd h (by decide)⟩
    · rw [if_neg hlow]
      obtain ⟨hf, hpower, -, -⟩ := countF_spec s (fNow s - 1) (lowerF s (fNow s - 1))
      have hlt := fNow_lt s
      refine ⟨evaluated_countF (evaluated_lowerF s _) _, fun _ _ => ⟨?_, ?_⟩, fun _ h => absurd h hlow,
        fun h => absurd h (by decide), fun h => absurd h (by decide)⟩
      · rw [hf, fNow_lowerF hc.regs (by omega)]
      · rw [hpower, lowerF, setVdd_power]
  | false =>
    rw [if_neg (by decide)]
    cases hraise : mayRaise s x with
    | false => exact ⟨evaluated_refl s, by simp, by simp, by simp, by simp⟩
    | true =>
      rw [if_pos rfl]
      obtain ⟨hf, hpower, -, -⟩ := countF_spec s (fNow s + 1) (raiseF s (fNow s + 1) x.settled)
      refine ⟨evaluated_countF (evaluated_raiseF s _ _) _, fun h => absurd h (by decide), fun h => absurd h (by decide),
        fun _ _ => ⟨fun hvdd => ?_, fun hvdd => ?_⟩, fun _ h => absurd h (by decide)⟩
      · obtain ⟨o, hframe⟩ := setVdd_frame s (fNow s + 1)
        rw [hf, hpower, raiseF, if_pos hvdd, hframe]
        exact ⟨fNow_congr rfl, rfl⟩
      · have hlt : fNow s < 32 := by
          have hmax : fNow s < fMax s := by simp only [mayRaise, Bool.and_eq_true, decide_eq_true_eq] at hraise; exact hraise.1.1.1
          exact Nat.lt_of_lt_of_le hmax (Nat.min_le_left _ _)
        rw [hf, raiseF, if_neg (Nat.not_lt.mpr hvdd)]
        split
        · exact fNow_regSetF hc.regs (by omega)
        · rfl

/-! ## The evaluation and the ends of LIMITED and RAMP -/

/-- The evaluation's own readings, before the policy acts on them. -/
def evaluating (s : State) (x : Sensors) : State :=
  let u : State := { s with out := [], power := { s.power with
    evals := s.beats / 16, estimate := x.windowW
    response := if decide (powerLimit s < x.windowW) then some (s.power.response.getD s.beats) else none } }
  regSetF u oPwrPower 15 0 (min 65535 x.windowW)

theorem exec_powerEvaluation {x : Sensors} (hat : standsAtBoundary s = true) (hbeats : 0 < s.beats) (h16 : s.beats % 16 = 0)
    (hnew : s.power.evals ≠ s.beats / 16) :
    exec (.powerEvaluation x) s
      = .next (onBoundary (evaluating s x) fun s => if s.power.phase = .limited then s else policy s x) := by
  have hdef : exec (.powerEvaluation x) s = execPowerEvaluation x s := rfl
  have hno : ¬((!standsAtBoundary s) = true ∨ s.beats = 0 ∨ s.beats % 16 ≠ 0 ∨ s.power.evals = s.beats / 16) := by
    rw [hat]
    rintro (h | h | h | h)
    · exact absurd h (by decide)
    · omega
    · exact h h16
    · exact hnew h
  exact hdef.trans (if_neg hno)

/-- What replies report again leaves every register but DEV_HEALTH, the power unit's state and the log. -/
theorem retakeSnap_spec (s : State) : (retakeSnap s).power = s.power ∧ (retakeSnap s).events = s.events
    ∧ ∀ a, a ≠ 0x20 → regGet (retakeSnap s) a = regGet s a :=
  ⟨rfl, rfl, fun _ ha => regGet_regSetF_other s _ _ _ ha⟩

/-- An evaluation is the policy's step on what the evaluation has read. -/
theorem powerEvaluation_spec (hc : Canonical s) {x : Sensors} (hat : standsAtBoundary s = true) (hbeats : 0 < s.beats)
    (h16 : s.beats % 16 = 0) (hnew : s.power.evals ≠ s.beats / 16) :
    ∃ t u, exec (.powerEvaluation x) s = .next t ∧ Canonical u ∧ t.power = (if u.power.phase = .limited then u else policy u x).power
      ∧ t.events = (if u.power.phase = .limited then u else policy u x).events
      ∧ (∀ a, a ≠ 0x20 → regGet t a = regGet (if u.power.phase = .limited then u else policy u x) a)
      ∧ u.power.estimate = x.windowW ∧ u.power.evals = s.beats / 16 ∧ regF u oPwrPower 15 0 = min 65535 x.windowW
      ∧ u.power.phase = s.power.phase ∧ u.power.vddF = s.power.vddF ∧ fNow u = fNow s ∧ lowestF u = lowestF s
      ∧ mustLower u x = mustLower s x ∧ mayRaise u x = mayRaise s x := by
  have hreg (a : Nat) (ha : a ≠ oPwrPower) : regGet (evaluating s x) a = regGet s a :=
    regGet_regSetF_other (a := oPwrPower) _ _ _ _ ha
  have hcanonical : Canonical (evaluating s x) := (keeps_regSetF (s := { s with out := [], power := _ })
    keeps_refl).canonical (canonical_of_tables hc)
  have hshown : regF (evaluating s x) oPwrPower 15 0 = min 65535 x.windowW := by
    refine (regF_regSetF_same hc.regs _ _ (by decide) (by decide)).trans (Nat.mod_eq_of_lt ?_)
    have := Nat.min_le_left 65535 x.windowW
    omega
  have hf : fNow (evaluating s x) = fNow s := congrArg (getF · 5 0) (hreg oPwrStatus (by decide))
  have hlimit : powerLimit (evaluating s x) = powerLimit s := by
    have hword := hreg oPwrLimit (by decide)
    simp only [powerLimit, regF, hword]
    rfl
  have htarget : targetC (evaluating s x) = targetC s := by
    have hword := hreg oPwrTherm (by decide)
    simp only [targetC, regF, hword]
  have hmax : fMax (evaluating s x) = fMax s := by
    have hword := hreg oPwrCtrl (by decide)
    simp only [fMax, regF, hword]
  have hheadroom : regF (evaluating s x) oPwrLimit 7 0 = regF s oPwrLimit 7 0 := congrArg (getF · 7 0) (hreg oPwrLimit (by decide))
  have hlower : mustLower (evaluating s x) x = mustLower s x := by
    unfold mustLower
    rw [hlimit, htarget]
    rfl
  have hraise : mayRaise (evaluating s x) x = mayRaise s x := by
    unfold mayRaise
    rw [hlimit, htarget, hmax, hf, hheadroom]
    rfl
  exact ⟨_, { evaluating s x with beats := s.beats - 1 }, exec_powerEvaluation hat hbeats h16 hnew,
    canonical_of_tables hcanonical, rfl, rfl, (retakeSnap_spec _).2.2, rfl, rfl, hshown, rfl, rfl, hf, rfl, hlower, hraise⟩

theorem powerEvaluation_acts (hc : Canonical s) (x : Sensors) (hat : standsAtBoundary s = true) (hbeats : 0 < s.beats)
    (h16 : s.beats % 16 = 0) (hnew : s.power.evals ≠ s.beats / 16) :
    ∃ t, exec (.powerEvaluation x) s = .next t ∧ t.power.estimate = x.windowW ∧ t.power.evals = s.beats / 16
      ∧ regF t oPwrPower 15 0 = min 65535 x.windowW
      ∧ (s.power.phase = .limited → fNow t = fNow s)
      ∧ (s.power.phase ≠ .limited → mustLower s x = true → lowestF s < fNow s →
          fNow t = fNow s - 1 ∧ t.power.vddF = fNow s - 1)
      ∧ (s.power.phase ≠ .limited → mustLower s x = true → fNow s ≤ lowestF s →
          t.power.phase = .limited ∧ fNow t = 16 ∧ t.power.recorded.getLsbD 3 = true
            ∧ (t.events.head?.map (·.code)) = some 0x602)
      ∧ (s.power.phase ≠ .limited → mustLower s x = false → mayRaise s x = true →
          (s.power.vddF < fNow s + 1 → fNow t = fNow s ∧ t.power.vddF = fNow s + 1)
          ∧ (fNow s + 1 ≤ s.power.vddF → fNow t = (if x.settled = true then fNow s + 1 else fNow s)))
      ∧ (s.power.phase ≠ .limited → mustLower s x = false → mayRaise s x = false → fNow t = fNow s) := by
  obtain ⟨t, u, hexec, hcu, hpower, hevents, hregs, hestimate, hevals, hshown, hphase, hvdd, hf, hlowest, hlower, hraise⟩ :=
    powerEvaluation_spec hc (x := x) hat hbeats h16 hnew
  obtain ⟨heval, hlowers, henters, hraises, hstays⟩ := policy_spec hcu x
  rw [hf, hlowest, hlower] at hlowers henters
  rw [hf, hlower, hraise, hvdd] at hraises
  rw [hlower, hraise] at hstays
  have hft : fNow t = fNow (if u.power.phase = .limited then u else policy u x) := congrArg (getF · 5 0) (hregs _ (by decide))
  have hst : regF t oPwrPower 15 0 = regF (if u.power.phase = .limited then u else policy u x) oPwrPower 15 0 :=
    congrArg (getF · 15 0) (hregs _ (by decide))
  refine ⟨t, hexec, ?_⟩
  rw [hft, hst, hpower, hevents, hphase]
  by_cases hlimited : s.power.phase = .limited
  · rw [if_pos hlimited]
    exact ⟨hestimate, hevals, hshown, fun _ => hf, fun h => absurd hlimited h, fun h => absurd hlimited h,
      fun h => absurd hlimited h, fun h => absurd hlimited h⟩
  · rw [if_neg hlimited]
    have hshown' : regF (policy u x) oPwrPower 15 0 = min 65535 x.windowW := (congrArg (getF · 15 0) heval.shown).trans hshown
    exact ⟨heval.estimate.trans hestimate, heval.evals.trans hevals, hshown', fun h => absurd h hlimited, fun _ => hlowers,
      fun _ => henters, fun _ => hraises, fun _ hl hr => (congrArg fNow (hstays hl hr)).trans hf⟩

/-- The floor of a group's member raises VDD or F, and nothing else. -/
theorem floorF_spec (s : State) : (∃ f, (floorF s).power = { s.power with vddF := f }) ∧ (floorF s).passes = s.passes := by
  have hraise (f : Nat) (settled : Bool) :
      (∃ v, (raiseF s f settled).power = { s.power with vddF := v }) ∧ (raiseF s f settled).passes = s.passes := by
    unfold raiseF
    split
    · obtain ⟨o, hframe⟩ := setVdd_frame s f
      rw [hframe]
      exact ⟨⟨f, rfl⟩, rfl⟩
    · split <;> exact ⟨⟨s.power.vddF, rfl⟩, rfl⟩
  unfold floorF
  split
  · split
    · exact hraise _ _
    · exact ⟨⟨s.power.vddF, rfl⟩, rfl⟩
  · exact ⟨⟨s.power.vddF, rfl⟩, rfl⟩

theorem statusShown_phase (h : swf resetWord s.regs = true) (hlt : phaseField s.power.phase < 16) :
    regF (statusShown s) oPwrStatus 31 28 = phaseField s.power.phase :=
  ((regF_regSetF_field (swf_regSet h _ _) _ _ (by decide) (by decide)).trans
    (regF_regSetF_same h _ _ (by decide) (by decide))).trans (Nat.mod_eq_of_lt hlt)

/-- Outside LIMITED a device is IDLE or ACTIVE as its passes are. -/
theorem phaseOfPasses_idle (hc : Canonical s) (h : s.power.phase = .idle) :
    (phaseOfPasses s).power = { s.power with phase := if s.passes.isEmpty = true then .idle else .active }
      ∧ regF (phaseOfPasses s) oPwrStatus 31 28 = if s.passes.isEmpty = true then 2 else 3 := by
  have hdef : phaseOfPasses s = statusShown (if s.power.phase = .idle ∨ s.power.phase = .active then
      { s with power := { s.power with phase := if s.passes.isEmpty then .idle else .active } } else s) := rfl
  rw [hdef, if_pos (Or.inl h)]
  refine ⟨rfl, ?_⟩
  cases hempty : s.passes.isEmpty
  · exact statusShown_phase (s := { s with power := { s.power with phase := .active } }) hc.regs (show 3 < 16 by decide)
  · exact statusShown_phase (s := { s with power := { s.power with phase := .idle } }) hc.regs (show 2 < 16 by decide)

/-- LIMITED ends (R483). -/
theorem limitedExit_spec (hc : Canonical s) {since : Nat} (hat : standsAtBoundary s = true) (hphase : s.power.phase = .limited)
    (hclear : s.power.clearSince = some since) (hcauses : causesNow s = 0) (hover : since + 1000000000 ≤ s.clock.wall) :
    ∃ t, exec .limitedExit s = .next t ∧ t.power.phase = (if s.passes.isEmpty = true then .idle else .active)
      ∧ t.power.recorded = 0 ∧ t.power.ramp = true ∧ regF t oPwrStatus 31 28 = (if s.passes.isEmpty = true then 2 else 3) := by
  have hdef : exec .limitedExit s = execLimitedExit s := rfl
  obtain ⟨u, hu⟩ : ∃ u, u = enterRamp { s with out := [], power := { s.power with phase := .idle, recorded := 0, clearSince := none } } :=
    ⟨_, rfl⟩
  have hexec : exec .limitedExit s = .next (retakeSnap (phaseOfPasses (floorF u))) := by
    rw [hdef, hu]
    unfold execLimitedExit
    dsimp only
    rw [hphase, hclear]
    exact if_pos ⟨hat, hcauses, hover⟩
  obtain ⟨⟨f, hpower⟩, hpasses⟩ := floorF_spec u
  have hcu : Canonical u := by
    rw [hu]
    exact (keeps_enterRamp keeps_refl).canonical (canonical_of_tables hc)
  have hidle : (floorF u).power.phase = .idle := by
    rw [hpower, hu]
    rfl
  obtain ⟨hended, hstatus⟩ := phaseOfPasses_idle ((keeps_floorF keeps_refl).canonical hcu) hidle
  obtain ⟨hsame, -, hregs⟩ := retakeSnap_spec (phaseOfPasses (floorF u))
  have hup : u.passes = s.passes := by rw [hu]; rfl
  rw [hpasses, hup] at hended hstatus
  have hrecorded : u.power.recorded = 0 := by rw [hu]; rfl
  have hramp : u.power.ramp = true := by rw [hu]; rfl
  rw [hpower] at hended
  refine ⟨_, hexec, ?_, ?_, ?_, (congrArg (getF · 31 28) (hregs _ (by decide))).trans hstatus⟩
  · rw [hsame, hended]
  · rw [hsame, hended, ← hrecorded]
  · rw [hsame, hended, ← hramp]

/-- Settles O55: each transaction with a regulator changes the power unit's state alone, and the policy takes one branch. -/
theorem regulatorsAndPowerPolicy : Obligations.RegulatorsAndPowerPolicy := by
  intro s hc
  refine ⟨fun hrun ns rails hns => regulatorAlert_spec hc hrun hns, vrAlertSustained_spec, fun hrun hdue rails => ⟨?_, ?_⟩,
    fun hready hdue n => ?_, powerEvaluation_acts hc, fun since => limitedExit_spec hc, fun b hb hramp hat hover hdiag => ?_⟩
  · exact pmbusPoll_spec hrun hdue
  · rintro r w rfl hanswer
    exact pmbusPoll_one hrun hdue hanswer
  · have hdef : exec (.powerCalibration n) s = execPowerCalibration n s := rfl
    refine hdef.trans (if_neg ?_)
    show ¬((!isReady s) = true ∨ s.clock.wall < s.power.calAt + msWall 10)
    rw [hready]
    rintro (h | h)
    · exact absurd h (by decide)
    · simp only [msWall] at h
      omega
  · have hdef : exec .rampModeEnd s = execRampModeEnd s := rfl
    rw [hdef]
    unfold execRampModeEnd
    dsimp only
    rw [hb]
    exact if_pos ⟨hramp, hat, hover, Option.isNone_iff_eq_none.mpr hdiag⟩

end Sys2Proof.Machine

/-! A beat boundary at which nothing waits (R75, R120, R293, R373, R399, R400, R467). -/

namespace Sys2Proof.Machine

open Sys2Proof Sys2Proof.Terms

variable {s t : State}

/-! ## What the beat leaves -/

theorem landAll_quiet (hq : Quiet s) : landAll s = s := by
  obtain ⟨hengines, hagenda, -⟩ := hq.engines
  unfold landAll
  dsimp only
  rw [settled_idle _ hagenda, hengines]
  exact settled_idle _ hagenda

theorem beatDelay_quiet (hq : Quiet s) : beatDelay s = 0 := by
  obtain ⟨hengines, -, hlates, -, -, hend⟩ := hq.engines
  unfold beatDelay latesNow
  rw [hengines, hlates, hend]
  rfl

theorem endHolds_quiet (hq : Quiet s) : endHolds s = { s with stores := [], moves := 0 } := by
  have hdelay := beatDelay_quiet hq
  obtain ⟨hengines, hagenda, hlates, hstacks, -, hend⟩ := hq.engines
  have hnow : latesNow s = [] := by
    unfold latesNow
    rw [hlates]
    rfl
  unfold endHolds
  simp only [hdelay, hengines, hstacks, hnow, List.filter_nil, List.foldl_nil, List.map_nil, if_true, hlates, hagenda, hend]

theorem passDigests_quiet (h : s.passes = []) : passDigests s = s := by
  unfold passDigests
  rw [h]
  rfl

theorem member_quiet (h : s.group = none) : member s = none := by
  unfold member
  rw [h]
  rfl

theorem groupBeatEnd_quiet (h : s.group = none) : groupBeatEnd s = s := by
  unfold groupBeatEnd
  rw [member_quiet h]

theorem applyFails_quiet (h : s.fails = []) : applyFails s = s := by
  unfold applyFails
  dsimp only
  rw [h, List.foldl_nil, ← h]

theorem applyFaults_quiet (hq : Quiet s) : applyFaults s = s := by
  obtain ⟨hengines, -⟩ := hq.engines
  obtain ⟨-, hcal, hcodec, hretire, hpause⟩ := hq.faults
  unfold applyFaults
  simp only [hengines, hcal, hcodec, hretire, hpause, List.map_nil, List.foldl_nil]
  have hself : ∀ e a b c d, e = s.engines → a = s.calNext → b = s.codecNext → c = s.retireNext → d = s.pauseCtx →
      ({ s with engines := e, calNext := a, codecNext := b, retireNext := c, pauseCtx := d } : State) = s := by
    rintro e a b c d rfl rfl rfl rfl rfl
    rfl
  exact hself _ _ _ _ _ hengines.symm hcal.symm hcodec.symm hretire.symm hpause.symm

theorem quiet_stored (hq : Quiet s) : Quiet { s with stores := [], moves := 0 } := by
  obtain ⟨h1, h2, h3, h4, h5, h6, h7⟩ := hq
  exact ⟨h1, h2, h3, h4, h5, h6, h7⟩

theorem boundaryEnds_quiet (hq : Quiet s) : boundaryEnds s = { s with stores := [], moves := 0 } := by
  have hstored := quiet_stored hq
  have htokens : (passDigests (groupBeatEnd (endHolds (landAll s)))).passes.foldl passTokens
      (passDigests (groupBeatEnd (endHolds (landAll s)))) = { s with stores := [], moves := 0 } := by
    rw [landAll_quiet hq, endHolds_quiet hq]
    generalize ({ s with stores := [], moves := 0 } : State) = u at hstored
    obtain ⟨-, -, -, -, hpasses', -⟩ := hstored.engines
    rw [groupBeatEnd_quiet hstored.group, passDigests_quiet hpasses', hpasses', List.foldl_nil]
  unfold boundaryEnds
  dsimp only
  rw [htokens]
  generalize hu : ({ s with stores := [], moves := 0 } : State) = u at hstored
  obtain ⟨-, -, -, -, hpasses', -⟩ := hstored.engines
  obtain ⟨hfails, -⟩ := hstored.faults
  rw [hpasses', List.foldl_nil, applyFails_quiet hfails, applyFaults_quiet hstored]

/-! ## What waits for the boundary -/

theorem performAll_quiet (h : s.deferred = []) : performAll s = s := by
  unfold performAll
  dsimp only
  rw [h, List.foldl_nil, ← h]

theorem advancePasses_quiet (h : s.passes = []) : advancePasses s = s := by
  unfold advancePasses
  simp only [h, List.length_nil, List.range_zero, List.foldl_nil, List.filter_nil]
  rw [← h]

theorem applySaves_quiet (hsaves : s.saves = []) (hrestores : s.restores = []) : applySaves s = s := by
  have hdrop : dropSaves s = s := by
    unfold dropSaves
    rw [hsaves]
    rfl
  unfold applySaves
  dsimp only
  rw [hdrop, hsaves, List.foldl_nil, hrestores, List.foldl_nil]

theorem applyCommands_quiet (hq : Quiet s) : applyCommands s = s := by
  obtain ⟨hctxs, hwaiting, -⟩ := hq.jobs
  obtain ⟨hpages, hstarting⟩ := hq.pages
  have hnone : ({ s with waiting := [] } : State) = s := by rw [← hwaiting]
  have hpauses : groupPauses (outOfSlots s) s = s := by
    unfold groupPauses
    rw [hctxs]
    rfl
  have hstart : startingJobs s [] = [] := by
    unfold startingJobs
    rw [hpages]
    rfl
  have hnostart : ({ s with starting := [] } : State) = s := by rw [← hstarting]
  have hreleases : firstReleases s [] [] = [] := by rw [firstReleases]
  have hcopies : applyCopies (applyReleases s []) = s := by
    have : applyReleases s [] = s := rfl
    rw [this]
    unfold applyCopies
    rw [hpages]
    rfl
  unfold applyCommands
  dsimp only
  rw [hwaiting, hnone, hpauses, hstart, hnostart, hreleases, hcopies]
  rfl

theorem groupBoundary_quiet (h : s.group = none) : groupBoundary s = s := by
  unfold groupBoundary joined
  rw [h]
  rfl

theorem candidatesAt_quiet (hctxs : s.ctxs = []) (now : Nat) : candidatesAt s now none = [] := by
  have hw (i : Image) : waitingJobs s i = [] := by
    unfold waitingJobs
    rw [hctxs]
    rfl
  have hcont (i : Image) : continuingJobs s i = [] := by
    unfold continuingJobs
    rw [hctxs]
    rfl
  have hnone (i : Image) : imageCandidate s i now = none := by
    unfold imageCandidate mayBegin
    simp [hw, hcont]
  have hrecompute : recomputeCandidates s = [] := by
    unfold recomputeCandidates
    rw [hctxs]
    rfl
  unfold candidatesAt
  simp only [hrecompute, hnone, List.filter_nil, List.nil_append, List.filterMap_none, List.foldr_nil]

theorem startPasses_quiet (hctxs : s.ctxs = []) (hpasses : s.passes = []) (now : Nat) : startPasses s now none = s := by
  have hgrants : grants s now none = s := by
    unfold grants
    rw [candidatesAt_quiet hctxs, List.foldl_nil, ite_self]
  have hback : backToReady s = s := by
    unfold backToReady
    rw [hctxs]
    rfl
  unfold startPasses
  dsimp only
  rw [hgrants, hback, hpasses]
  rfl

theorem lowPressure_quiet (hpages : s.pages = []) (st : Nat) : lowPressure s st = s := by
  have hnone (ok : Page → Bool) : candidates s st ok = [] := by
    unfold candidates
    rw [hpages]
    rfl
  unfold lowPressure pressureFor
  simp only [hnone, List.foldl_nil, ite_self]

theorem applyWrites_quiet (hq : Quiet s) : applyWrites s = s := by
  obtain ⟨hregs, hrates, hmirror, -⟩ := hq.writes
  unfold applyWrites
  simp only [hregs, hrates, hmirror, List.foldl_nil, List.filter_nil]
  have hself : ∀ a b c, a = s.regsNext → b = s.refresh → c = s.mirrorNext →
      ({ s with regsNext := a, refresh := b, mirrorNext := c } : State) = s := by
    rintro a b c rfl rfl rfl
    rfl
  exact hself _ _ _ hregs.symm hrates.symm hmirror.symm

theorem startDiag_quiet (h : s.diag = none) : startDiag s = s := by
  unfold startDiag
  rw [h]

theorem boundaryWork_quiet (hq : Quiet s) : boundaryWork s = phaseBoundary s := by
  obtain ⟨-, -, -, -, hpasses, -⟩ := hq.engines
  obtain ⟨hctxs, -, hsaves, hrestores⟩ := hq.jobs
  obtain ⟨hpages, hstarting⟩ := hq.pages
  obtain ⟨hdeferred, -⟩ := hq.waiting
  obtain ⟨-, -, -, hdiag⟩ := hq.writes
  have hnostart : ({ s with starting := [] } : State) = s := by rw [← hstarting]
  have hlow : (List.range 8).foldl lowPressure s = s := by
    have hfold (l : List Nat) : l.foldl lowPressure s = s := by
      induction l with
      | nil => rfl
      | cons a l ih => rw [List.foldl_cons, lowPressure_quiet hpages, ih]
    exact hfold _
  unfold boundaryWork
  dsimp only
  rw [performAll_quiet hdeferred, advancePasses_quiet hpasses, applySaves_quiet hsaves hrestores, applyCommands_quiet hq, hrestores,
    List.foldl_nil, groupBoundary_quiet hq.group, startPasses_quiet hctxs hpasses, hnostart, hlow, applyWrites_quiet hq,
    startDiag_quiet hdiag]

end Sys2Proof.Machine

/-! The power state and the report of a quiet boundary (R400, R467, R480 to R483, R495). -/

namespace Sys2Proof.Machine

open Sys2Proof Sys2Proof.Terms

variable {s t u : State}

/-- Only registers, the power unit's state and what the device sends differ; an idle device stays idle, with its readings. -/
structure Reporting (s t : State) : Prop where
  frame   : ∃ o r p, t = { s with out := o, regs := r, power := p }
  phase   : t.power.phase = s.power.phase
  sensors : t.power.sensors = s.power.sensors
  notices : regGet t oNotice = regGet s oNotice
  limit   : regGet t oPwrLimit = regGet s oPwrLimit
  ctrl    : regGet t oPwrCtrl = regGet s oPwrCtrl
  regs    : swf resetWord s.regs = true → swf resetWord t.regs = true

theorem reporting_refl (s : State) : Reporting s s := ⟨⟨_, _, _, rfl⟩, rfl, rfl, rfl, rfl, rfl, id⟩

theorem reporting_trans (h : Reporting s t) (h' : Reporting t u) : Reporting s u := by
  obtain ⟨⟨_, _, _, rfl⟩, hphase, hsensors, hnotices, hlimit, hctrl, hregs⟩ := h
  obtain ⟨⟨_, _, _, rfl⟩, hphase', hsensors', hnotices', hlimit', hctrl', hregs'⟩ := h'
  exact ⟨⟨_, _, _, rfl⟩, hphase'.trans hphase, hsensors'.trans hsensors, hnotices'.trans hnotices, hlimit'.trans hlimit,
    hctrl'.trans hctrl, fun h => hregs' (hregs h)⟩

theorem reporting_regSet (s : State) {a : Nat} (w : Word) (hn : oNotice ≠ a) (hl : oPwrLimit ≠ a) (hctrl : oPwrCtrl ≠ a) :
    Reporting s (regSet s a w) :=
  ⟨⟨_, _, _, rfl⟩, rfl, rfl, regGet_regSet_other s w hn, regGet_regSet_other s w hl, regGet_regSet_other s w hctrl, fun h => swf_regSet h a w⟩

theorem reporting_foldl {α : Type} {f : State → α → State} {l : List α} (hf : ∀ s, ∀ a ∈ l, Reporting s (f s a)) (s : State) :
    Reporting s (l.foldl f s) := by
  induction l generalizing s with
  | nil => exact reporting_refl s
  | cons a l ih =>
    exact reporting_trans (hf s a List.mem_cons_self) (ih (fun s b hb => hf s b (List.mem_cons_of_mem a hb)) _)

/-! ## The power state -/

theorem causesNow_quiet {x : Sensors} (hcauses : s.power.causes = 0) (hctrl : regF s oPwrCtrl 31 30 = 0) (hx : s.power.sensors = x)
    (hhot : tjMax x < 105) : causesNow s = 0 := by
  have hforce : regF s oPwrCtrl 31 31 = 0 := by
    have hhalf : regF s oPwrCtrl 31 31 = regF s oPwrCtrl 31 30 / 2 := by
      simp only [regF, getF, Nat.shiftRight_eq_div_pow]
      omega
    rw [hhalf, hctrl]
  unfold causesNow
  simp only [hcauses, hx, if_neg (Nat.not_le.mpr hhot), hforce]
  simp

theorem limitedBoundary_quiet (hphase : s.power.phase = .idle) (hcauses : s.power.causes = 0) (h : causesNow s = 0) :
    limitedBoundary s = s := by
  have hself : ({ s with power := { s.power with causes := 0 } } : State) = s := by rw [← hcauses]
  unfold limitedBoundary
  dsimp only
  rw [h, if_neg (by rw [hphase]; decide), if_neg (by simp)]
  exact hself

theorem reporting_capF (s : State) : Reporting s (capF s) := by
  unfold capF
  split
  · obtain ⟨o, hframe⟩ := lowerF_frame s (fNow s - 1)
    rw [hframe]
    exact ⟨⟨_, _, _, rfl⟩, rfl, rfl, regGet_regSetF_other s _ _ _ (by decide), regGet_regSetF_other s _ _ _ (by decide),
      regGet_regSetF_other s _ _ _ (by decide), fun h => swf_regSet h _ _⟩
  · exact reporting_refl s

theorem floorF_quiet (h : s.group = none) : floorF s = s := by
  unfold floorF
  rw [member_quiet h]

theorem reporting_statusShown (s : State) : Reporting s (statusShown s) :=
  reporting_trans (reporting_regSet s _ (by decide) (by decide) (by decide)) (reporting_regSet _ _ (by decide) (by decide) (by decide))

theorem reporting_phaseOfPasses (hphase : s.power.phase = .idle) (hpasses : s.passes = []) : Reporting s (phaseOfPasses s) := by
  have hdef : phaseOfPasses s = statusShown (if s.power.phase = .idle ∨ s.power.phase = .active then
      { s with power := { s.power with phase := if s.passes.isEmpty then .idle else .active } } else s) := rfl
  have hidle : (if s.passes.isEmpty = true then Phase.idle else .active) = s.power.phase := by
    rw [hpasses, hphase]
    rfl
  rw [hdef, if_pos (Or.inl hphase), hidle]
  exact reporting_statusShown s

theorem reporting_phaseBoundary {x : Sensors} (hphase : s.power.phase = .idle) (hcauses : s.power.causes = 0)
    (hctrl : regF s oPwrCtrl 31 30 = 0) (hx : s.power.sensors = x) (hhot : tjMax x < 105) (hgroup : s.group = none)
    (hpasses : s.passes = []) : Reporting s (phaseBoundary s) := by
  have hcap := reporting_capF s
  have hcapped : (capF s).group = none ∧ (capF s).passes = [] := by
    obtain ⟨_, _, _, hframe⟩ := hcap.frame
    rw [hframe]
    exact ⟨hgroup, hpasses⟩
  have hno : ¬(regF (capF s) oPwrCtrl 30 30 = 1 ∧ (capF s).power.phase = .idle ∧ (capF s).passes.isEmpty = true
      ∧ (!standbyBusy (capF s)) = true) := by
    rintro ⟨h, -⟩
    have hword : regF (capF s) oPwrCtrl 30 30 = regF s oPwrCtrl 30 30 := congrArg (getF · 30 30) hcap.ctrl
    have hlow : regF s oPwrCtrl 30 30 = regF s oPwrCtrl 31 30 % 2 := by
      simp only [regF, getF]
      omega
    rw [hword, hlow, hctrl] at h
    exact absurd h (by decide)
  unfold phaseBoundary
  dsimp only
  rw [limitedBoundary_quiet hphase hcauses (causesNow_quiet hcauses hctrl hx hhot), floorF_quiet hcapped.1, if_neg hno]
  exact reporting_trans hcap (reporting_phaseOfPasses (hcap.phase.trans hphase) hcapped.2)

/-! ## What the registers report -/

theorem reporting_boundaryRegs (s : State) : Reporting s (boundaryRegs s) := by
  unfold boundaryRegs
  dsimp only
  refine reporting_trans (reporting_trans (reporting_trans (reporting_regSet s _ (by decide) (by decide) (by decide))
    (reporting_foldl (fun s a ha => ?_) _)) (reporting_foldl (fun s a ha => ?_) _)) (reporting_regSet _ _ (by decide) (by decide) (by decide))
  · have := List.mem_range.mp ha
    interval_cases a <;> exact reporting_regSet s _ (by decide) (by decide) (by decide)
  · have := List.mem_range.mp ha
    interval_cases a <;> exact reporting_regSet s _ (by decide) (by decide) (by decide)

theorem reporting_powerRegs (s : State) : Reporting s (powerRegs s) :=
  reporting_trans (reporting_regSet s _ (by decide) (by decide) (by decide)) (reporting_regSet _ _ (by decide) (by decide) (by decide))

theorem reporting_secRegs (s : State) : Reporting s (secRegs s) :=
  reporting_trans (reporting_trans (reporting_regSet s _ (by decide) (by decide) (by decide))
    (reporting_regSet _ _ (by decide) (by decide) (by decide))) (reporting_regSet _ _ (by decide) (by decide) (by decide))

end Sys2Proof.Machine

/-! A quiet boundary counts, stamps and reports (R293, R373, R399, R400, R467). -/

namespace Sys2Proof.Machine

open Sys2Proof Sys2Proof.Terms

variable {s t u : State}

theorem getF_or_notices (w : Word) (n : Nat) : getF (w ||| BitVec.ofNat 32 (n % 512)) 8 0 = getF w 8 0 ||| n % 512 := by
  apply Nat.eq_of_testBit_eq
  intro i
  have hn : n % 512 < 2 ^ 32 := by omega
  rw [show (512 : Nat) = 2 ^ 9 from rfl] at hn ⊢
  simp only [getF, Nat.shiftRight_zero, BitVec.toNat_or, BitVec.toNat_ofNat, Nat.mod_eq_of_lt hn, Nat.testBit_mod_two_pow,
    Nat.testBit_or]
  by_cases hi : i < 9 <;> simp [hi]

/-- The snapshot of a boundary: what it shows, and the notices that it takes up. -/
theorem takeSnapshot_spec (h : swf resetWord s.regs = true) :
    (∃ r n, takeSnapshot s = { s with regs := r, noticeNext := 0, snap := n })
      ∧ (takeSnapshot s).snap.stampDt = stampOf s.clock.dt ∧ (takeSnapshot s).snap.time = s.disc.state
      ∧ (takeSnapshot s).snap.demotion = demotionActive s ∧ (takeSnapshot s).snap.headroom = headroomOf s
      ∧ (takeSnapshot s).snap.health = healthOf (takeSnapshot s)
      ∧ regF (takeSnapshot s) oNotice 8 0 = regF s oNotice 8 0 ||| s.noticeNext % 512 := by
  obtain ⟨u, hu⟩ : ∃ u, u = regSetF { regSet s oNotice (regGet s oNotice ||| BitVec.ofNat 32 (s.noticeNext % 512)) with noticeNext := 0 }
      oReplace 4 0 (replaceBits { regSet s oNotice (regGet s oNotice ||| BitVec.ofNat 32 (s.noticeNext % 512)) with noticeNext := 0 }) :=
    ⟨_, rfl⟩
  obtain ⟨r, hr⟩ : ∃ r, regSetF u 0x020 31 28 (healthOf u) = { s with regs := r, noticeNext := 0 } := ⟨_, by rw [hu]; rfl⟩
  have hregs : (takeSnapshot s).regs = (regSetF u 0x020 31 28 (healthOf u)).regs := by
    rw [hu]
    rfl
  have hget (a : Nat) (ha : a ≠ 0x020) : regGet (takeSnapshot s) a = regGet u a :=
    (regGet_congr hregs a).trans (regGet_regSetF_other u _ _ _ ha)
  have hhead : (takeSnapshot s).snap.headroom = headroomOf (regSetF u 0x020 31 28 (healthOf u)) := by
    rw [hu]
    rfl
  have hhealth : (takeSnapshot s).snap.health = healthOf u := by
    rw [hu]
    rfl
  have hlimit : regGet u oPwrLimit = regGet s oPwrLimit := by
    rw [hu, regGet_regSetF_other _ _ _ _ (by decide)]
    exact regGet_regSet_other s _ (by decide)
  refine ⟨⟨_, _, rfl⟩, rfl, rfl, rfl, ?_, ?_, ?_⟩
  · have hlimit' : regGet (regSetF u 0x020 31 28 (healthOf u)) oPwrLimit = regGet s oPwrLimit :=
      (regGet_regSetF_other u _ _ _ (by decide)).trans hlimit
    rw [hhead]
    unfold headroomOf powerLimit regF
    rw [hlimit', hr]
  · have hpower : (takeSnapshot s).power = u.power := by
      rw [hu]
      rfl
    rw [hhealth]
    unfold healthOf regF
    rw [hget _ (by decide), hget _ (by decide), hpower]
  · have hnotice : regGet u oNotice = regGet s oNotice ||| BitVec.ofNat 32 (s.noticeNext % 512) := by
      rw [hu, regGet_regSetF_other _ _ _ _ (by decide)]
      exact regGet_regSet_same h _ _
    rw [regF, hget _ (by decide), hnotice, regF, getF_or_notices]

/-- Nothing is posted: the sessions take their sequence numbers. -/
theorem flushPosts_quiet (hposts : s.posts = []) (hlate : s.lateReplies = []) : flushPosts s
    = { s with sessions := s.sessions.map fun y => (y.1, { y.2 with doneSnap := y.2.doneSeq }) } := by
  unfold flushPosts
  dsimp only
  rw [hposts, hlate, List.foldl_nil, List.foldl_nil, ← hposts, ← hlate]

theorem runLate_quiet (h : s.lateCmds = []) : runLate s = s := by
  unfold runLate
  dsimp only
  rw [h, List.foldl_nil, ← h]

theorem sfind_mapValues {α β : Type} (f : α → β) (l : List (Nat × α)) (k : Nat) :
    sfind (l.map fun y => (y.1, f y.2)) k = (sfind l k).map f := by
  induction l with
  | nil => rfl
  | cons y l ih =>
    obtain ⟨a, v⟩ := y
    simp only [List.map_cons, sfind, ih]
    split <;> rfl

theorem sessGet_doneSnap {n : Nat} {y : Session} (h : sessGet t n = some y)
    (ht : t.sessions = s.sessions.map fun y => (y.1, { y.2 with doneSnap := y.2.doneSeq })) :
    ∃ z, sessGet s n = some z ∧ y = { z with doneSnap := z.doneSeq } := by
  have hfind := sfind_mapValues (fun z : Session => { z with doneSnap := z.doneSeq }) s.sessions n
  rw [sessGet_eq, ht, hfind] at h
  rw [sessGet_eq]
  cases hz : sfind s.sessions n with
  | none => rw [hz] at h; cases h
  | some z =>
    rw [hz] at h
    obtain ⟨hopen, rfl⟩ : z.closed = false ∧ { z with doneSnap := z.doneSeq } = y := by
      simpa [Option.filter] using h
    exact ⟨z, by simp [Option.filter, hopen], rfl⟩

/-! ## The whole boundary -/

/-- The readings of a boundary, and the upsets that come with it. -/
def sensed (s : State) (x : Sensors) : State :=
  upsetCopies { s with out := [], power := { s.power with sensors := x } } x.upsets

theorem quiet_sensed (hq : Quiet s) (x : Sensors) : Quiet (sensed s x) := by
  obtain ⟨h1, h2, h3, h4, h5, h6, h7⟩ := hq
  exact ⟨h1, h2, h3, h4, h5, h6, h7⟩

/-- A quiet boundary in its parts. -/
theorem exec_beatBoundary_quiet {x : Sensors} (hbeats : beatsRun s = true) (hq : Quiet s) :
    ∃ u, exec (.beatBoundary x) s = .next (runLate (flushPosts (takeSnapshot
        { secRegs (boundaryRegs (powerRegs u)) with beats := (secRegs (boundaryRegs (powerRegs u))).beats + 1 })))
      ∧ u = phaseBoundary { sensed s x with stores := [], moves := 0 } := by
  have hdef : exec (.beatBoundary x) s = execBeatBoundary x s := rfl
  have hsensed := quiet_sensed hq x
  have hover : ¬(!beatOver s) = true := by
    obtain ⟨-, -, -, -, hpasses, -⟩ := hq.engines
    unfold beatOver waitsForGroup
    rw [hbeats, hpasses, member_quiet hq.group]
    simp
  refine ⟨_, hdef.trans (if_neg hover), ?_⟩
  show boundaryWork (boundaryEnds (sensed s x)) = _
  rw [boundaryEnds_quiet hsensed, boundaryWork_quiet (quiet_stored hsensed)]

theorem beatBoundary_spec (hc : Canonical s) {x : Sensors} (hbeats : beatsRun s = true) (hq : Quiet s) (hphase : s.power.phase = .idle)
    (hcauses : s.power.causes = 0) (hctrl : regF s oPwrCtrl 31 30 = 0) (hhot : tjMax x < 105) :
    ∃ t v, exec (.beatBoundary x) s = .next t ∧ Reporting { sensed s x with stores := [], moves := 0 } v
      ∧ t = { takeSnapshot { v with beats := v.beats + 1 } with
          sessions := s.sessions.map fun y => (y.1, { y.2 with doneSnap := y.2.doneSeq }) } := by
  obtain ⟨u, hexec, hu⟩ := exec_beatBoundary_quiet (x := x) hbeats hq
  obtain ⟨-, -, -, -, hpasses, -⟩ := hq.engines
  obtain ⟨-, hlateCmds, hposts, hlate⟩ := hq.waiting
  have hreport : Reporting { sensed s x with stores := [], moves := 0 } u := by
    rw [hu]
    exact reporting_phaseBoundary (x := x) hphase hcauses hctrl rfl hhot hq.group hpasses
  obtain ⟨v, hv⟩ : ∃ v, v = secRegs (boundaryRegs (powerRegs u)) := ⟨_, rfl⟩
  have hreport' : Reporting { sensed s x with stores := [], moves := 0 } v := by
    rw [hv]
    exact reporting_trans hreport (reporting_trans (reporting_powerRegs u)
      (reporting_trans (reporting_boundaryRegs _) (reporting_secRegs _)))
  rw [← hv] at hexec
  refine ⟨_, v, hexec, hreport', ?_⟩
  obtain ⟨o, r, p, hframe⟩ := hreport'.frame
  obtain ⟨⟨r', n', hsnap⟩, -⟩ := takeSnapshot_spec (s := { v with beats := v.beats + 1 }) (hreport'.regs hc.regs)
  have hp : (takeSnapshot { v with beats := v.beats + 1 }).posts = [] ∧ (takeSnapshot { v with beats := v.beats + 1 }).lateReplies = []
      ∧ (takeSnapshot { v with beats := v.beats + 1 }).lateCmds = []
      ∧ (takeSnapshot { v with beats := v.beats + 1 }).sessions = s.sessions := by
    rw [hsnap, hframe]
    exact ⟨hposts, hlate, hlateCmds, rfl⟩
  obtain ⟨hposts', hlate', hcmds', hsessions⟩ := hp
  rw [flushPosts_quiet hposts' hlate', hsessions]
  exact runLate_quiet hcmds'

theorem headroomOf_idle {x : Sensors} (hphase : s.power.phase = .idle) (hx : s.power.sensors = x) : headroomOf s
    = min (255 * (min 2400 (max 600 (regF s oPwrLimit 31 20)) - x.powerW) / min 2400 (max 600 (regF s oPwrLimit 31 20)))
      (min 255 (255 * (16 * 105 - hottest16 x 0 72) / (16 * 40))) := by
  unfold headroomOf powerLimit headroomPower headroomThermal
  rw [hx, if_neg (by rw [hphase]; decide)]

/-- A boundary at which nothing waits. -/
theorem beatBoundary_reports (hc : Canonical s) (x : Sensors) (hbeats : beatsRun s = true) (hq : Quiet s)
    (hphase : s.power.phase = .idle) (hcauses : s.power.causes = 0) (hctrl : regF s oPwrCtrl 31 30 = 0) (hhot : tjMax x < 105) :
    let limit := min 2400 (max 600 (regF s oPwrLimit 31 20))
    ∃ t, exec (.beatBoundary x) s = .next t ∧ t.beats = s.beats + 1 ∧ t.power.phase = .idle
      ∧ t.snap.stampDt = stampOf s.clock.dt ∧ t.snap.time = s.disc.state ∧ t.snap.demotion = false
      ∧ t.votes = (x.upsets.filter fun u => (regAt u.offset).isSome) ++ s.votes
      ∧ t.snap.headroom = min (255 * (limit - x.powerW) / limit) (min 255 (255 * (16 * 105 - hottest16 x 0 72) / (16 * 40)))
      ∧ t.snap.health = healthOf t
      ∧ regF t oNotice 8 0 = regF s oNotice 8 0 ||| s.noticeNext % 512 ∧ t.noticeNext = 0
      ∧ (∀ n y, sessGet t n = some y → ∃ z, sessGet s n = some z ∧ y = { z with doneSnap := z.doneSeq })
      ∧ t.mem = s.mem ∧ t.clock = s.clock ∧ t.images = s.images ∧ t.streams = s.streams ∧ t.events = s.events
      ∧ t.retired = s.retired ∧ t.flash = s.flash ∧ t.disc = s.disc := by
  intro limit
  obtain ⟨t, v, hexec, hreport, ht⟩ := beatBoundary_spec hc hbeats hq hphase hcauses hctrl hhot
  obtain ⟨o, r, p, hframe⟩ := hreport.frame
  obtain ⟨⟨r', n, hsnap⟩, hstamp, htime, hdemotion, hhead, hhealth, hnotice⟩ :=
    takeSnapshot_spec (s := { v with beats := v.beats + 1 }) (hreport.regs hc.regs)
  have hpages : v.pages = [] := by
    obtain ⟨hpages, -⟩ := hq.pages
    rw [hframe]
    exact hpages
  have hnoticeNext : v.noticeNext = s.noticeNext := by
    rw [hframe]
    rfl
  have hlimit : regF v oPwrLimit 31 20 = regF s oPwrLimit 31 20 := congrArg (getF · 31 20) hreport.limit
  have hidle : v.power.phase = .idle := hreport.phase.trans hphase
  have hhealth' : (takeSnapshot { v with beats := v.beats + 1 }).snap.health = healthOf t := by
    rw [hhealth, ht]
    rfl
  have hword : regF t oNotice 8 0 = regF (takeSnapshot { v with beats := v.beats + 1 }) oNotice 8 0 := by
    rw [ht]
    rfl
  have hsnap' : t.snap = (takeSnapshot { v with beats := v.beats + 1 }).snap := by rw [ht]
  refine ⟨t, hexec, ?_, ?_, ?_, ?_, ?_, ?_, ?_, ?_, ?_, ?_, fun k y hy => sessGet_doneSnap hy (by rw [ht]), ?_⟩
  · rw [ht, hsnap, hframe]
    rfl
  · rw [ht, hsnap]
    exact hidle
  · rw [hsnap', hstamp, hframe]
    rfl
  · rw [hsnap', htime, hframe]
    rfl
  · rw [hsnap', hdemotion, demotionActive, hpages]
    rfl
  · rw [ht, hsnap, hframe]
    rfl
  · rw [hsnap', hhead]
    exact (headroomOf_idle (s := { v with beats := v.beats + 1 }) hidle hreport.sensors).trans (by
      rw [show regF { v with beats := v.beats + 1 } oPwrLimit 31 20 = regF s oPwrLimit 31 20 from hlimit]
      rfl)
  · rw [hsnap', hhealth']
  · rw [hword, hnotice, ← hnoticeNext]
    exact congrArg (fun w => getF w 8 0 ||| v.noticeNext % 512) hreport.notices
  · rw [ht, hsnap]
  · rw [ht, hsnap, hframe]
    exact ⟨rfl, rfl, rfl, rfl, rfl, rfl, rfl, rfl⟩

end Sys2Proof.Machine

/-! What a pass start does to the pages leaves the passes and the contexts (R184, R187, R190). -/

namespace Sys2Proof.Machine

open Sys2Proof Sys2Proof.Terms

variable {s₀ s t : State}

/-- Only pages, memory and what fails at the next boundary differ. -/
structure PageWork (s t : State) : Prop where
  frame : ∃ m p o g f, t = { s with mem := m, poison := p, soft := o, pages := g, fails := f }

theorem pageWork_refl (s : State) : PageWork s s := ⟨_, _, _, _, _, rfl⟩

theorem pageWork_step (hs : PageWork s₀ s) (h : PageWork s t) : PageWork s₀ t := by
  obtain ⟨_, _, _, _, _, rfl⟩ := hs.frame
  obtain ⟨m, p, o, g, f, rfl⟩ := h.frame
  exact ⟨m, p, o, g, f, rfl⟩

theorem pageWork_foldl {α : Type} {f : State → α → State} (hf : ∀ s a, PageWork s₀ s → PageWork s₀ (f s a)) {l : List α}
    (hs : PageWork s₀ s) : PageWork s₀ (l.foldl f s) := by
  induction l generalizing s with
  | nil => exact hs
  | cons a l ih => exact ih (hf s a hs)

theorem pageWork_ite {c : Prop} [Decidable c] {u : State} (ht : PageWork s₀ t) (hu : PageWork s₀ u) :
    PageWork s₀ (if c then t else u) := by
  split
  · exact ht
  · exact hu

theorem pageWork_storeBytes {a : Nat} {b : Bytes} (hs : PageWork s₀ s) : PageWork s₀ (storeBytes s a b) := by
  obtain ⟨-, -, -, -, hframe⟩ := storeBytes_spec s a b
  rw [hframe]
  exact pageWork_step hs ⟨_, _, _, _, _, rfl⟩

theorem pageWork_pagePut {p : Page} (hs : PageWork s₀ s) : PageWork s₀ (pagePut s p) :=
  pageWork_storeBytes (pageWork_step hs ⟨_, _, _, _, _, rfl⟩)

theorem pageWork_pageFree {p : Page} (hs : PageWork s₀ s) : PageWork s₀ (pageFree s p) :=
  pageWork_storeBytes (pageWork_step hs ⟨_, _, _, _, _, rfl⟩)

theorem pageWork_dropPage {p : Page} (hs : PageWork s₀ s) : PageWork s₀ (dropPage s p) :=
  pageWork_pagePut (pageWork_foldl (fun _ _ => pageWork_pageFree) hs)

/-- The kernel opens a function best by itself: of an applied one it first works out what its `match` looks at. -/
theorem by_def {α : Sort*} {f : α} {P : α → Prop} (h : ∀ g, g = f → P g) : P f := h f rfl

theorem pageWork_startDemotion {p : Page} {n : Nat} (hs : PageWork s₀ s) : PageWork s₀ (startDemotion s p n) := by
  refine by_def (f := @startDemotion) (P := fun f => PageWork s₀ (f s p n)) ?_
  delta startDemotion
  rintro _ rfl
  beta_reduce
  split
  · exact hs
  · exact pageWork_pagePut hs

theorem pageWork_pressureFor {st : Nat} {met metLater : State → Bool} (hs : PageWork s₀ s) :
    PageWork s₀ (pressureFor s st met metLater) := by
  unfold pressureFor
  extract_lets demoted
  have hdemoted : PageWork s₀ demoted :=
    pageWork_ite (pageWork_foldl (fun _ _ h => pageWork_ite h (pageWork_startDemotion h)) hs) hs
  exact pageWork_ite (pageWork_foldl (fun _ _ h => pageWork_ite h (pageWork_dropPage h)) hdemoted) hdemoted

theorem pageWork_slotFor {st n : Nat} (hs : PageWork s₀ s) : PageWork s₀ (slotFor s st n).2 := by
  refine by_def (f := @slotFor) (P := fun f => ∀ z, f s st n = z → PageWork s₀ z.2) ?_ _ rfl
  delta slotFor
  rintro _ rfl z hz
  beta_reduce at hz
  split at hz
  · subst hz
    exact hs
  · subst hz
    exact pageWork_pressureFor hs

theorem pageWork_newPage {ctx layer kind x fmt : Nat} {scaled : Bool} {c : Nat} {state : PageState} {source : Option (BitVec 24)}
    (hs : PageWork s₀ s) : PageWork s₀ (newPage s ctx layer kind x fmt scaled c state source).2 := by
  refine by_def (f := @newPage) (P := fun f => ∀ z, f s ctx layer kind x fmt scaled c state source = z → PageWork s₀ z.2) ?_ _ rfl
  delta newPage
  rintro _ rfl z hz
  beta_reduce at hz
  extract_lets st bytes at hz
  have hslot : PageWork s₀ (slotFor s st (granulesOf bytes)).2 := pageWork_slotFor hs
  split at hz
  next slot u heq =>
    rw [heq] at hslot
    split at hz
    · subst hz
      exact hslot
    · split at hz
      · subst hz
        exact hslot
      · subst hz
        exact pageWork_pagePut hslot

theorem pageWork_mapSet {c : Ctx} {layer kind x : Nat} {v : Option (BitVec 24)} (hs : PageWork s₀ s) :
    PageWork s₀ (mapSet s c layer kind x v) := pageWork_ite hs (pageWork_storeBytes hs)

theorem pageWork_allocPage {c : Ctx} {layer kind x fmt : Nat} {scaled : Bool} {chans : Nat} (hs : PageWork s₀ s) :
    PageWork s₀ (allocPage s c layer kind x fmt scaled chans).2 := by
  have hnew : PageWork s₀ (newPage s c.num layer kind x fmt scaled chans .live none).2 := pageWork_newPage hs
  refine by_def (f := @allocPage) (P := fun f => ∀ z, f s c layer kind x fmt scaled chans = z → PageWork s₀ z.2) ?_ _ rfl
  delta allocPage
  rintro _ rfl z hz
  beta_reduce at hz
  split at hz
  next id u heq =>
    have hu : PageWork s₀ u := by rw [heq] at hnew; exact hnew
    subst hz
    dsimp only
    exact pageWork_mapSet hu
  next u heq =>
    rw [heq] at hnew
    subst hz
    exact hnew

theorem pageWork_tablesHold {b : Begin} (hs : PageWork s₀ s) : PageWork s₀ (tablesHold s b) := by
  unfold tablesHold
  split
  · exact pageWork_step hs ⟨_, _, _, _, _, rfl⟩
  · exact hs

theorem pageWork_giveSlotBack {a : State × List Nat} {y : Nat × BitVec 24} (hs : PageWork s₀ a.1) :
    PageWork s₀ (giveSlotBack a y).1 := by
  refine by_def (f := @giveSlotBack) (P := fun f => ∀ z, f a y = z → PageWork s₀ z.1) ?_ _ rfl
  obtain ⟨s, fails⟩ := a
  delta giveSlotBack
  rintro _ rfl z hz
  dsimp only at hz
  generalize pageGet s y.2 = o at hz
  cases o with
  | none =>
    subst hz
    exact hs
  | some p =>
    have hslot : PageWork s₀ (slotFor s (pageStack p.id) (granulesOf p.bytes)).2 := pageWork_slotFor hs
    dsimp only at hz
    generalize slotFor s (pageStack p.id) (granulesOf p.bytes) = g at hslot hz
    obtain ⟨_ | x, u⟩ := g
    · subst hz
      exact hslot
    · subst hz
      exact pageWork_pagePut (s := u) hslot

theorem pageWork_allocTarget {a : State × List Nat} {t : Target} (hs : PageWork s₀ a.1) : PageWork s₀ (allocTarget a t).1 := by
  refine by_def (f := @allocTarget) (P := fun f => ∀ z, f a t = z → PageWork s₀ z.1) ?_ _ rfl
  delta allocTarget
  rintro _ rfl z hz
  beta_reduce at hz
  split at hz
  next s fails =>
    split at hz
    · subst hz
      exact hs
    · next c _ =>
      have halloc : PageWork s₀ (allocPage s c t.layer t.kind t.x t.fmt t.scaled t.chans).2 := pageWork_allocPage hs
      split at hz
      · subst hz
        exact hs
      · split at hz
        · subst hz
          exact hs
        · split at hz
          all_goals
            next heq =>
              rw [heq] at halloc
              subst hz
              exact halloc

theorem pageWork_startCopy {a : State × List Nat} {t : Target} (hs : PageWork s₀ a.1) : PageWork s₀ (startCopy a t).1 := by
  refine by_def (f := @startCopy) (P := fun f => ∀ z, f a t = z → PageWork s₀ z.1) ?_ _ rfl
  obtain ⟨s, fails⟩ := a
  delta startCopy
  rintro _ rfl z hz
  dsimp only at hz
  generalize targetPage s t = o at hz
  cases o with
  | none =>
    subst hz
    exact hs
  | some p =>
    have hnew : PageWork s₀ (newPage s t.num t.layer t.kind t.x p.home p.homeScaled (chansOf p) .copying (some p.id)).2 :=
      pageWork_newPage hs
    dsimp only at hz
    generalize newPage s t.num t.layer t.kind t.x p.home p.homeScaled (chansOf p) .copying (some p.id) = g at hnew hz
    obtain ⟨_ | id, u⟩ := g
    · subst hz
      exact hnew
    · subst hz
      exact hnew

theorem pageWork_foldl_fst {α β : Type} {f : State × β → α → State × β} (hf : ∀ a x, PageWork s₀ a.1 → PageWork s₀ (f a x).1)
    {l : List α} {a : State × β} (hs : PageWork s₀ a.1) : PageWork s₀ (l.foldl f a).1 := by
  induction l generalizing a with
  | nil => exact hs
  | cons x l ih => exact ih (hf a x hs)

/-- Step 4 of R184: the pages are prepared, and then the jobs begin. -/
theorem pageStarts_spec (s : State) (bs : List Begin) :
    ∃ u ts fails, PageWork s u ∧ pageStarts s bs = bs.foldl (beginJob ts fails) u := by
  unfold pageStarts
  extract_lets held a ts b copies
  have hheld : PageWork s held := pageWork_foldl (fun _ _ => pageWork_tablesHold) (pageWork_refl s)
  have ha : PageWork s a.1 := pageWork_foldl_fst (fun _ _ => pageWork_giveSlotBack) hheld
  have hb : PageWork s b.1 := pageWork_foldl_fst (fun _ _ => pageWork_allocTarget) ha
  exact ⟨_, _, _, pageWork_foldl_fst (fun _ _ => pageWork_startCopy) hb, rfl⟩

end Sys2Proof.Machine

/-! O57: the pass that BATCH_WAIT_EXPIRY starts (R75, R102, R407). -/

namespace Sys2Proof.Machine

open Sys2Proof Sys2Proof.Terms

variable {s t : State} {i : Image} {c d : Ctx} {pl : Nat}

/-! ## A device with one job -/

theorem ctxGet_one (h : s.ctxs = [c]) : ctxGet s c.num = some c := by
  unfold ctxGet
  rw [h, List.find?_cons_of_pos (by simp)]

theorem ctxMap_one (h : s.ctxs = [c]) (f : Ctx → Ctx) : ctxMap s c.num f = { s with ctxs := [f c] } := by
  unfold ctxMap
  rw [h]
  simp

/-- The job has waited long enough, and is its image's one candidate. -/
theorem candidatesAt_one {now : Nat} (himages : s.images = [i]) (hctxs : s.ctxs = [c]) (hpasses : s.passes = [])
    (hready : c.state = .ready) (himage : c.desc.image = i.id) (hgroup : c.group = false) (hrecompute : c.recomputing = false)
    (hslots : 0 < i.slots) (hwaited : c.readyBeat + regF s oBatchWait 15 0 ≤ now) :
    candidatesAt s now (some i.id) = [{ img := i, slots := [(0, c.num)], recompute := false, lead := c, best := c }] := by
  have hw : waitingJobs s i = [c] := by
    unfold waitingJobs
    rw [hctxs]
    simp [hready, himage, hgroup, byRank, insertJob]
  have hcontinuing : continuingJobs s i = [] := by
    unfold continuingJobs
    rw [hctxs]
    simp [hready, byRank]
  have hbegins : mayBegin s i now = true := by
    unfold mayBegin
    rw [hw, hcontinuing, hpasses]
    simp [hwaited]
  have hfirst : (List.range i.slots).find? (fun k => (sfind ([] : List (Nat × Nat)) k).isNone) = some 0 := by
    obtain ⟨n, hn⟩ : ∃ n, i.slots = n + 1 := ⟨i.slots - 1, by omega⟩
    rw [hn, List.range_succ_eq_map]
    rfl
  have hgiven : giveSlots i.slots [] [c] = [(0, c.num)] := by
    rw [giveSlots, hfirst]
    rfl
  have hone : imageCandidate s i now = some { img := i, slots := [(0, c.num)], recompute := false, lead := c, best := c } := by
    unfold imageCandidate
    rw [hbegins, hw, hcontinuing]
    simp [hgiven, byRank, insertJob]
  have hnone : recomputeCandidates s = [] := by
    unfold recomputeCandidates
    rw [hctxs]
    simp [hrecompute]
  unfold candidatesAt
  rw [hnone, himages]
  simp [hone, insertCand]

/-! ## The pass starts -/

theorem takeSlot_one {slot : Nat} (hctxs : s.ctxs = [c]) (hready : c.state = .ready) (hnone : inRecompute s c.num = false) :
    ∃ d m, takeSlot s c.num slot pl = { s with ctxs := [d], mirrorSums := m } ∧ d.num = c.num ∧ d.state = .running
      ∧ d.slot = some slot ∧ d.placement = some pl ∧ d.allocFails = c.allocFails := by
  have hno : ¬c.state = .running := by
    rw [hready]
    decide
  have henter : ∃ e : Ctx, ctxEnter s c.num .running = { s with ctxs := [e] } ∧ e.num = c.num ∧ e.state = .running
      ∧ e.allocFails = c.allocFails := ⟨_, ctxMap_one hctxs _, rfl, rfl, rfl⟩
  obtain ⟨e, he, hnum, hstate, hfails⟩ := henter
  have hnone' : inRecompute { s with ctxs := [e] } c.num = false := hnone
  unfold takeSlot
  rw [ctxGet_one hctxs]
  dsimp only
  rw [if_neg hno, he, hnone', if_neg (by decide), ← hnum]
  refine ⟨_, _, ctxMap_one (s := dropPartnerSums { s with ctxs := [e] } e.num) rfl _, rfl, hstate, rfl, rfl, hfails⟩

/-- Fresh engines are all that a pass start makes of the engines. -/
theorem freshEngines_frame (goesOn : Bool) (l : List Nat) (s : State) :
    ∃ e, l.foldl (freshEngine goesOn) s = { s with engines := e } := by
  induction l generalizing s with
  | nil => exact ⟨s.engines, rfl⟩
  | cons a l ih =>
    obtain ⟨e, he⟩ := ih (freshEngine goesOn s a)
    exact ⟨e, he⟩

/-- The pass of one job in slot 0. -/
def firstPass (s : State) (i : Image) (pl n : Nat) : Pass :=
  { image := i.id, placement := pl, beat := 0, slots := [(0, n)], engines := enginesOf s i pl, recompute := false, taken := [0] }

theorem startPass_one (hctxs : s.ctxs = [c]) (hpasses : s.passes = []) (hready : c.state = .ready) :
    ∃ d m e, startPass s { img := i, slots := [(0, c.num)], recompute := false, lead := c, best := c } pl
        = { s with passes := [firstPass s i pl c.num], engines := e, ctxs := [d], mirrorSums := m }
      ∧ d.num = c.num ∧ d.state = .running ∧ d.slot = some 0 ∧ d.placement = some pl ∧ d.allocFails = c.allocFails := by
  unfold startPass
  extract_lets es p goesOn begun fresh
  have hbegun : begun = { s with passes := [firstPass s i pl c.num] } := by
    show ({ s with passes := s.passes ++ [p] } : State) = _
    rw [hpasses]
    rfl
  obtain ⟨e, he⟩ := freshEngines_frame goesOn es begun
  have hfresh : fresh = { s with passes := [firstPass s i pl c.num], engines := e } := by
    show es.foldl (freshEngine goesOn) begun = _
    rw [he, hbegun]
  have hctxs' : fresh.ctxs = [c] := by
    rw [hfresh]
    exact hctxs
  have hnone : inRecompute fresh c.num = false := by
    rw [hfresh]
    rfl
  obtain ⟨d, m, htake, hd⟩ := takeSlot_one (slot := 0) (pl := pl) hctxs' hready hnone
  refine ⟨d, m, e, ?_, hd⟩
  show takeSlot fresh c.num 0 pl = _
  rw [htake, hfresh]

theorem grants_one {now : Nat} (himages : s.images = [i]) (hctxs : s.ctxs = [c]) (hpasses : s.passes = [])
    (hphase : s.power.phase = .idle) (hready : c.state = .ready) (himage : c.desc.image = i.id) (hgroup : c.group = false)
    (hrecompute : c.recomputing = false) (hslots : 0 < i.slots) (hwaited : c.readyBeat + regF s oBatchWait 15 0 ≤ now)
    (hplace : choosePlacement s i c.desc.base = some pl) (hjoint : jointOk [(i, pl)] = true) :
    grants s now (some i.id) = startPass s { img := i, slots := [(0, c.num)], recompute := false, lead := c, best := c } pl := by
  have hheld : passesHeld s = false := by
    unfold passesHeld
    rw [hphase]
    rfl
  unfold grants
  rw [hheld, candidatesAt_one himages hctxs hpasses hready himage hgroup hrecompute hslots hwaited, if_neg (by decide)]
  show grant s _ = _
  unfold grant
  dsimp only
  rw [hplace]
  simp [hpasses, hjoint]

/-- A job whose pass has begun goes on as it is, with at most one failed allocation more. -/
theorem beginJob_one {ts : List Target} {fails : List Nat} {b : Begin} (hctxs : s.ctxs = [d]) (hnum : b.num = d.num)
    (hb : b.recompute = false) (hfails : d.allocFails = 0) :
    ∃ e : Ctx, beginJob ts fails s b = { s with ctxs := [e] } ∧ e.num = d.num ∧ e.state = d.state ∧ e.slot = d.slot
      ∧ e.placement = d.placement := by
  unfold beginJob
  extract_lets failed demoted marked mine dropped ready begun
  have hbegun : ∃ e : Ctx, begun = { s with ctxs := [e] } ∧ e.num = d.num ∧ e.state = d.state ∧ e.slot = d.slot
      ∧ e.placement = d.placement ∧ e.allocFails = 0 := by
    have hmap := ctxMap_one hctxs fun c => { c with
      pageWork := !ready, recomputing := dropped, kvDemoted := c.kvDemoted || (ready && demoted), interrupted := c.interrupted && !ready }
    rw [← hnum] at hmap
    exact ⟨_, hmap, hnum, rfl, rfl, rfl, hfails⟩
  obtain ⟨e, hbegun, hen, hes, hel, hep, hef⟩ := hbegun
  rw [hb, if_neg (by decide), hnum, ← hen, hbegun]
  unfold countFails
  rw [ctxGet_one rfl]
  dsimp only
  have hfew : ¬64 ≤ if failed = true then e.allocFails + 1 else 0 := by
    rw [hef]
    split <;> omega
  rw [if_neg hfew]
  exact ⟨_, ctxMap_one rfl _, rfl, hes, hel, hep⟩

/-- The pass start with its pages: the job runs in slot 0. -/
theorem startPasses_one {now : Nat} (himages : s.images = [i]) (hctxs : s.ctxs = [c]) (hpasses : s.passes = [])
    (hphase : s.power.phase = .idle) (hready : c.state = .ready) (himage : c.desc.image = i.id) (hgroup : c.group = false)
    (hrecompute : c.recomputing = false) (hfails : c.allocFails = 0) (hslots : 0 < i.slots)
    (hwaited : c.readyBeat + regF s oBatchWait 15 0 ≤ now) (hplace : choosePlacement s i c.desc.base = some pl)
    (hjoint : jointOk [(i, pl)] = true) :
    ∃ (t : State) (d : Ctx), startPasses s now (some i.id) = t ∧ t.passes = [firstPass s i pl c.num] ∧ t.ctxs = [d] ∧ d.num = c.num
      ∧ d.state = .running ∧ d.slot = some 0 ∧ d.placement = some pl ∧ t.power = s.power ∧ t.posts = s.posts
      ∧ t.lateReplies = s.lateReplies := by
  obtain ⟨d, m, e, hstart, hnum, hstate, hslot, hplaced, hdfails⟩ := startPass_one (i := i) (pl := pl) hctxs hpasses hready
  obtain ⟨u, hu⟩ : ∃ u, u = ({ s with passes := [firstPass s i pl c.num], engines := e, ctxs := [d], mirrorSums := m } : State) := ⟨_, rfl⟩
  rw [← hu] at hstart
  have hgrants := (grants_one himages hctxs hpasses hphase hready himage hgroup hrecompute hslots hwaited hplace hjoint).trans hstart
  have hup : u.passes = [firstPass s i pl c.num] := by rw [hu]
  have huc : u.ctxs = [d] := by rw [hu]
  have hback : backToReady u = u := by
    unfold backToReady
    rw [huc, hup]
    simp [firstPass, hnum]
  have hbegins : beginsOf u [firstPass s i pl c.num] = [{ num := c.num, slot := 0, img := i, recompute := false }] := by
    have hget : imageGet u (firstPass s i pl c.num).image = some i := by
      rw [hu]
      unfold imageGet
      dsimp only
      rw [himages]
      exact List.find?_cons_of_pos (by simp [firstPass])
    have hnone : inRecompute u c.num = false := by
      rw [hu]
      rfl
    unfold beginsOf
    rw [List.flatMap_singleton, hget]
    simp [firstPass, hnone]
  obtain ⟨v, ts, fails, hwork, hpages⟩ := pageStarts_spec u [{ num := c.num, slot := 0, img := i, recompute := false }]
  obtain ⟨mm, pp, oo, gg, ff, hv⟩ := hwork.frame
  have hvc : v.ctxs = [d] := by
    rw [hv]
    exact huc
  obtain ⟨f, hbegun, hfn, hfs, hfl, hfp⟩ := beginJob_one (ts := ts) (fails := fails)
    (b := { num := c.num, slot := 0, img := i, recompute := false }) hvc hnum.symm rfl (hdfails.trans hfails)
  refine ⟨_, f, rfl, ?_⟩
  have heq : startPasses s now (some i.id) = { v with ctxs := [f] } := by
    unfold startPasses
    dsimp only
    rw [hgrants, hback, hpasses, hup, List.length_nil, List.drop_zero, hbegins, hpages]
    exact hbegun
  rw [heq, hv, hu]
  exact ⟨rfl, rfl, hfn.trans hnum, hfs.trans hstate, hfl.trans hslot, hfp.trans hplaced, rfl, rfl, rfl⟩

/-- What the phase leaves of an idle device's passes, contexts and postings. -/
theorem phaseOfPasses_active (hphase : s.power.phase = .idle) (hpasses : s.passes ≠ []) :
    (phaseOfPasses s).power.phase = .active ∧ (phaseOfPasses s).passes = s.passes ∧ (phaseOfPasses s).ctxs = s.ctxs
      ∧ (phaseOfPasses s).posts = s.posts ∧ (phaseOfPasses s).lateReplies = s.lateReplies := by
  have hdef : phaseOfPasses s = statusShown (if s.power.phase = .idle ∨ s.power.phase = .active then
      { s with power := { s.power with phase := if s.passes.isEmpty then .idle else .active } } else s) := rfl
  rw [hdef, if_pos (Or.inl hphase)]
  refine ⟨?_, rfl, rfl, rfl, rfl⟩
  show (if s.passes.isEmpty = true then Phase.idle else .active) = .active
  rw [if_neg (by simpa using hpasses)]

theorem batchWaitExpiry_starts (hat : standsAtBoundary s = true) (hpasses : s.passes = []) (himages : s.images = [i])
    (hctxs : s.ctxs = [c]) (hposts : s.posts = []) (hlate : s.lateReplies = []) (hphase : s.power.phase = .idle)
    (hready : c.state = .ready) (himage : c.desc.image = i.id) (hgroup : c.group = false) (hrecompute : c.recomputing = false)
    (hfails : c.allocFails = 0) (hslots : 0 < i.slots) (hwaited : c.readyBeat + regF s oBatchWait 15 0 ≤ s.beats)
    (hplace : choosePlacement s i c.desc.base = some pl) (hjoint : jointOk [(i, pl)] = true) :
    ∃ t p d, exec (.batchWaitExpiry i.id) s = .next t ∧ t.passes = [p] ∧ p.image = i.id ∧ p.placement = pl ∧ p.beat = 0
      ∧ p.slots = [(0, c.num)] ∧ p.engines = enginesOf s i pl ∧ ctxGet t c.num = some d ∧ d.state = .running
      ∧ d.slot = some 0 ∧ d.placement = some pl ∧ t.power.phase = .active ∧ t.beats = s.beats := by
  have hdef : exec (.batchWaitExpiry i.id) s = execBatchWaitExpiry i.id s := rfl
  have hno : ¬(!standsAtBoundary s) = true := by
    rw [hat]
    decide
  obtain ⟨u, d, hu, hup, huc, hnum, hstate, hslot, hplaced, hpower, hpo, hla⟩ :=
    startPasses_one (s := { s with out := [], beats := s.beats - 1 }) (now := s.beats) himages hctxs hpasses hphase hready himage hgroup
      hrecompute hfails hslots hwaited hplace hjoint
  have hidle : u.power.phase = .idle := by rw [hpower]; exact hphase
  obtain ⟨hactive, hpp, hpc, hppo, hpla⟩ := phaseOfPasses_active hidle (by rw [hup]; simp)
  have hexec : exec (.batchWaitExpiry i.id) s = .next (flushPosts (retakeSnap { phaseOfPasses u with beats := s.beats })) := by
    rw [← hu]
    exact hdef.trans (if_neg hno)
  have hflush := flushPosts_quiet (s := retakeSnap { phaseOfPasses u with beats := s.beats })
    (hppo.trans (hpo.trans hposts)) (hpla.trans (hla.trans hlate))
  rw [hflush] at hexec
  refine ⟨_, firstPass s i pl c.num, d, hexec, hpp.trans hup, rfl, rfl, rfl, rfl, rfl, ?_, hstate, hslot, hplaced, hactive, rfl⟩
  rw [← hnum]
  exact ctxGet_one (hpc.trans huc)

/-- Settles O57: a boundary at which nothing waits in its parts, and the one pass that BATCH_WAIT_EXPIRY starts. -/
theorem boundariesCountStampAndStart : Obligations.BoundariesCountStampAndStart := by
  refine ⟨fun s x hc => ⟨fun hno => ?_, beatBoundary_reports hc x⟩, ?_⟩
  · have hdef : exec (.beatBoundary x) s = execBeatBoundary x s := rfl
    refine hdef.trans (if_pos ?_)
    show (!beatOver s) = true
    unfold beatOver
    rw [hno]
    rfl
  · intro s i c pl hat hpasses himages hctxs _ hposts hlate hphase hready himage hgroup hrecompute hfails hslots hwaited hplace hjoint
    exact batchWaitExpiry_starts hat hpasses himages hctxs hposts hlate hphase hready himage hgroup hrecompute hfails hslots hwaited
      hplace hjoint

end Sys2Proof.Machine

/-! O6: SESSION_OPEN in BOOT packets and by an OWNER session (R354, R357, R383, R384). -/

namespace Sys2Proof.Machine

open Sys2Proof Sys2Proof.Terms

variable {c : Instr} {s t u : State} {port iface addr udp n : Nat} {p : Packet} {x : Session}

/-! ## A BOOT packet that is answered -/

theorem pfcWatch_frame (s : State) (free : Nat) : ∃ o r x, pfcWatch s free = { s with out := o, regs := r, xoff := x } := by
  have htell (l : List Iface) (off : Bool) (u : State) (hu : ∃ o r x, u = { s with out := o, regs := r, xoff := x }) :
      ∃ o r x, l.foldl (fun s f => emit (countTx s f.port) (.frame f.port f.idx {} (.pfc off))) u
        = { s with out := o, regs := r, xoff := x } := by
    induction l generalizing u with
    | nil => exact hu
    | cons f l ih =>
      obtain ⟨o, r, x, rfl⟩ := hu
      exact ih _ ⟨_, _, _, rfl⟩
  unfold pfcWatch
  dsimp only
  split
  · exact htell _ _ _ ⟨_, _, _, rfl⟩
  · split
    · exact htell _ _ _ ⟨_, _, _, rfl⟩
    · exact ⟨_, _, _, rfl⟩

/-- A BOOT packet of a ready device that passes the checks of its frame. -/
theorem exec_bootAdmitted (h : BootAdmitted c s port iface addr udp p) :
    exec c s = .next (pfcWatch (bootReady 0x01 p (booted s port)) (rxFree (bootReady 0x01 p (booted s port)))) := by
  obtain ⟨hcommand, hready, horigin, hport, hup, hip, hsize, ⟨hroom, hcost, hxoff⟩, hrate, -, -⟩ := h
  rw [exec_eq_command hcommand]
  unfold command
  rw [horigin]
  dsimp only
  have hlinks : linkRuns s = true := by
    have hphase : s.power.phase ≠ .off ∧ s.power.phase ≠ .failed := by
      constructor <;> intro hp <;> simp [isReady, hp] at hready
    simp [linkRuns, hphase]
  have hno : ¬((!linkRuns { s with out := [] }) = true ∨ 2 ≤ port ∨ (!ifaceUp { s with out := [] } port iface) = true) := by
    show ¬((!linkRuns s) = true ∨ 2 ≤ port ∨ (!ifaceUp s port iface) = true)
    rw [hlinks, hup]
    simp
    omega
  have hip' : ¬(!bootIpOn { s with out := [] } p) = true := by
    unfold bootIpOn
    rw [horigin]
    show ¬(!ipOn s port iface addr) = true
    rw [hip]
    decide
  have hgo : ¬(1024 < costOf (32 + p.params.length) ∨ rxFree { s with out := [] } < costOf (32 + p.params.length)) := by
    show ¬(1024 < costOf (32 + p.params.length) ∨ rxFree s < costOf (32 + p.params.length))
    omega
  have hquiet : pfcWatch { s with out := [] } (rxFree { s with out := [] } - costOf (32 + p.params.length)) = { s with out := [] } :=
    pfcWatch_quiet hxoff (show 512 ≤ rxFree s - _ by omega)
  have hfits : ¬segmentOf (countRx { s with out := [] } port) port < 32 + p.params.length := by
    rw [segmentOf_countRx]
    exact Nat.not_lt.mpr hsize
  have hrate' : ¬1024 ≤ bootsIn (countRx { s with out := [] } port) port := Nat.not_le.mpr hrate
  unfold bootCommand
  rw [if_neg hno, if_neg hip']
  unfold chargeReserve
  rw [if_neg hgo, hquiet]
  dsimp only
  rw [if_neg hfits, if_neg hrate']
  have hready' : isReady (countBoot (countRx { s with out := [] } port) port) = true := hready
  rw [if_pos hready']
  rfl

/-- The reply of a BOOT command waits for its turn; nothing else follows the command's own part that SESSION_OPEN speaks of. -/
theorem exec_boot {code : Code} {result : Bytes} (h : BootAdmitted c s port iface addr udp p)
    (ha : ownCommand 0x01 ⟨.job, none⟩ p (booted s port) = { code := code, result := result, st := u })
    (hheld : u.heldOut = s.heldOut) :
    ∃ t, exec c s = .next t ∧ BootReplied s t p 0x01 code result ∧ t.sessions = u.sessions ∧ t.challenges = u.challenges
      ∧ t.reservations = u.reservations := by
  obtain ⟨v, hv, hreplied, hsessions, hchallenges, hreservations⟩ : ∃ v, bootReady 0x01 p (booted s port) = v
      ∧ BootReplied s v p 0x01 code result ∧ v.sessions = u.sessions ∧ v.challenges = u.challenges
      ∧ v.reservations = u.reservations := by
    refine ⟨_, rfl, ?_⟩
    unfold bootReady
    rw [h.checks, h.fresh, ha]
    dsimp only
    unfold sendReply
    rw [h.origin]
    dsimp only
    have hreply : BootReplied s (sendBoot u port iface addr udp (makeReply u p 0x01 code result 0xFFFFFFFF)) p 0x01 code result :=
      ⟨port, iface, _, _, by rw [← hheld]; rfl, h.origin, rfl, rfl, rfl, by
        show (if (originSession p.origin).isSome = true then p.session else 0xFFFF) = 0xFFFF
        rw [h.origin]
        rfl, rfl, rfl⟩
    split
    · exact ⟨hreply, rfl, rfl, rfl⟩
    · exact ⟨hreply, rfl, rfl, rfl⟩
  obtain ⟨o, r, z, hpfc⟩ := pfcWatch_frame v (rxFree v)
  refine ⟨_, exec_bootAdmitted h, ?_⟩
  rw [hv, hpfc]
  exact ⟨hreplied, hsessions, hchallenges, hreservations⟩

/-! ## The modes of SESSION_OPEN -/

/-- The fields name their mode. -/
theorem mode_of_fieldsOk {b : Bytes} {mode : Nat} (h : openFieldsOk b mode = true) : field b 0 1 = mode := by
  simp only [openFieldsOk, Bool.and_eq_true, beq_iff_eq] at h
  exact h.1.1.1.1.1.1

/-- SESSION_OPEN in a BOOT packet, by its mode. -/
theorem own_sessionOpen {mode : Nat} (horigin : p.origin = .boot port iface addr udp) (hmode : mode = 0 ∨ mode = 1 ∨ mode = 3)
    (h : openFieldsOk p.params mode = true) : ownCommand 0x01 ⟨.job, none⟩ p s
      = if mode = 0 then openChallenge s else if mode = 1 then openClaim s p port iface addr udp
        else openAdmit s p port iface addr udp := by
  show cmdSessionOpen ⟨.job, none⟩ p s = _
  have hfield := mode_of_fieldsOk h
  have hok : ¬(4 ≤ mode ∨ (!openFieldsOk p.params mode) = true) := by
    rw [h]
    simp
    omega
  unfold cmdSessionOpen
  rw [horigin]
  dsimp only
  rw [hfield, if_neg (by omega), if_neg hok]

/-- A session that has just opened. -/
theorem opened_openSession (s : State) (n : Nat) (cls : Cls) (port iface addr udp w segment psn : Nat) :
    Opened (openSession s n cls port iface addr udp w segment (BitVec.ofNat 32 psn)) n cls port iface addr udp w psn :=
  ⟨_, (sessGet_sessSet_same _ n _).trans (if_neg Bool.false_ne_true), rfl, rfl, rfl, rfl, rfl, rfl, rfl, rfl, rfl, rfl⟩

theorem opened_congr {cls : Cls} {w psn : Nat} (h : Opened u n cls port iface addr udp w psn) (ht : t.sessions = u.sessions) :
    Opened t n cls port iface addr udp w psn := by
  obtain ⟨x, hx, hrest⟩ := h
  refine ⟨x, ?_, hrest⟩
  rw [sessGet_eq, ht]
  exact hx

theorem openResult_congr (ht : t.sessions = u.sessions) (n : Nat) : openResult t n = openResult u n := by
  unfold openResult
  rw [sessGet_eq, ht, sessGet_eq]

theorem length_drawn (s : State) (k : Nat) : (freeBytes s k).1.length = k := by
  rw [freeBytes, List.length_map, List.length_range]

/-- CHALLENGE (R383). -/
theorem challenge_draws (h : BootAdmitted c s port iface addr udp p) (hok : openFieldsOk p.params 0 = true) :
    ∃ t nonce, exec c s = .next t ∧ nonce.length = 16 ∧ BootReplied s t p 0x01 .ok nonce
      ∧ t.challenges.getLast? = some { nonce := BitVec.ofNat 128 (leNat nonce), drawn := s.clock.dt }
      ∧ t.challenges.length ≤ 16 ∧ t.sessions = s.sessions := by
  obtain ⟨t, hexec, hreplied, hsessions, hchallenges, -⟩ :=
    exec_boot h ((own_sessionOpen h.origin (Or.inl rfl) hok).trans (if_pos rfl)) rfl
  refine ⟨t, _, hexec, length_drawn _ 16, hreplied, ?_, ?_, hsessions⟩
  · rw [hchallenges]
    exact List.getLast?_concat
  · rw [hchallenges, List.length_append, List.length_drop, List.length_singleton]
    omega

/-- OWNER_CLAIM (R383). -/
theorem ownerClaim_opens (h : BootAdmitted c s port iface addr udp p) (hok : openFieldsOk p.params 1 = true) {w : Nat}
    (hlive : (liveChallenges s).any (fun y => y.nonce == BitVec.ofNat 128 (field p.params 16 16)) = true)
    (hfree : freeSession s = some n) (hw : grantWindow s (segmentOf s port) (field p.params 4 4) = some w) :
    ∃ t, exec c s = .next t ∧
      (if ownerKeyVerifies s 0 (slice p.params 32 8) (sha512 (p.params.take 40)) (slice p.params 40 66)
            (slice p.params 106 66) then
        Opened t n .owner port iface addr udp w (field p.params 8 4)
          ∧ BootReplied s t p 0x01 .ok (openResult t n)
          ∧ t.challenges.all (fun y => y.nonce != BitVec.ofNat 128 (field p.params 16 16)) = true
      else BootReplied s t p 0x01 .signatureFail [] ∧ t.sessions = s.sessions ∧ t.challenges = s.challenges) := by
  have hown : ownCommand 0x01 ⟨.job, none⟩ p (booted s port) = openClaim (booted s port) p port iface addr udp :=
    (own_sessionOpen h.origin (Or.inr (Or.inl rfl)) hok).trans ((if_neg (by decide)).trans (if_pos rfl))
  have hlive' : ¬(!(liveChallenges (booted s port)).any (fun y => y.nonce == BitVec.ofNat 128 (field p.params 16 16))) = true := by
    show ¬(!(liveChallenges s).any (fun y => y.nonce == BitVec.ofNat 128 (field p.params 16 16))) = true
    rw [hlive]
    decide
  have hkey : ownerKeyVerifies (booted s port) = ownerKeyVerifies s := rfl
  unfold openClaim at hown
  rw [if_neg hlive', hkey] at hown
  cases hverifies : ownerKeyVerifies s 0 (slice p.params 32 8) (sha512 (p.params.take 40)) (slice p.params 40 66)
      (slice p.params 106 66) with
  | false =>
    rw [hverifies, if_pos (by decide)] at hown
    obtain ⟨t, hexec, hreplied, hsessions, hchallenges, -⟩ := exec_boot h hown rfl
    refine ⟨t, hexec, ?_⟩
    rw [if_neg (by decide)]
    exact ⟨hreplied, hsessions, hchallenges⟩
  | true =>
    have hfree' : freeSession (booted s port) = some n := hfree
    have hw' : grantWindow (booted s port) (segmentOf (booted s port) port) (field p.params 4 4) = some w := by
      have hsegment : segmentOf (booted s port) port = segmentOf s port := segmentOf_countRx { s with out := [] } port
      rw [hsegment]
      exact hw
    rw [hverifies, if_neg (by decide), hfree'] at hown
    dsimp only at hown
    rw [hw'] at hown
    obtain ⟨t, hexec, hreplied, hsessions, hchallenges, -⟩ := exec_boot h hown rfl
    refine ⟨t, hexec, ?_⟩
    rw [if_pos rfl, openResult_congr hsessions, hchallenges]
    refine ⟨opened_congr (opened_openSession _ n .owner port iface addr udp w _ _) hsessions, hreplied, ?_⟩
    exact List.all_eq_true.mpr fun y hy => (List.mem_filter.mp hy).2

/-- ADMIT (R383). -/
theorem admit_opens (h : BootAdmitted c s port iface addr udp p) (hok : openFieldsOk p.params 3 = true) {r : Reservation} {w : Nat}
    (hfind : (liveReservations s).find? (fun y => y.session == field p.params 2 2
      && y.nonce == BitVec.ofNat 128 (field p.params 16 16)) = some r)
    (hw : grantWindow { s with reservations := s.reservations.filter fun y => y.session != r.session } (segmentOf s port)
      r.window = some w) :
    ∃ t, exec c s = .next t ∧ Opened t r.session r.cls port iface addr udp w (field p.params 8 4)
      ∧ BootReplied s t p 0x01 .ok (openResult t r.session)
      ∧ t.reservations.all (fun y => y.session != r.session) = true := by
  have hown : ownCommand 0x01 ⟨.job, none⟩ p (booted s port) = openAdmit (booted s port) p port iface addr udp :=
    (own_sessionOpen h.origin (Or.inr (Or.inr rfl)) hok).trans ((if_neg (by decide)).trans (if_neg (by decide)))
  have hnumber : field p.params 2 2 = r.session := by
    have hr := List.find?_some hfind
    rw [Bool.and_eq_true] at hr
    exact (beq_iff_eq.mp hr.1).symm
  have hlive : liveReservations (booted s port) = liveReservations s := rfl
  have hsegment : segmentOf (booted s port) port = segmentOf s port := segmentOf_countRx { s with out := [] } port
  have hw' : grantWindow { booted s port with reservations := (booted s port).reservations.filter fun y => y.session != r.session }
      (segmentOf s port) r.window = some w := hw
  unfold openAdmit at hown
  dsimp only at hown
  rw [hlive, hfind] at hown
  dsimp only at hown
  rw [hnumber, hsegment, hw'] at hown
  obtain ⟨t, hexec, hreplied, hsessions, -, hreservations⟩ := exec_boot h hown rfl
  refine ⟨t, hexec, opened_congr (opened_openSession _ r.session r.cls port iface addr udp w _ _) hsessions, ?_, ?_⟩
  · rw [openResult_congr hsessions]
    exact hreplied
  · rw [hreservations]
    exact List.all_eq_true.mpr fun y hy => (List.mem_filter.mp hy).2

/-- RESERVE (R383). -/
theorem reserve_keeps {q : Packet} {k w : Nat} (h : Admitted (.reserve q) s n x 0x01 p) (howner : x.cls = .owner)
    (hok : openFieldsOk p.params 2 = true) (hfree : freeSession (taken s n p) = some k)
    (hw : grantWindow (taken s n p) x.segment (field p.params 4 4) = some w) :
    ∃ t code, exec (.reserve q) s = .next t ∧ code.length = 16
      ∧ Replied t p 0x01 .ok (toLE k 2 ++ List.replicate 14 0 ++ code)
      ∧ t.reservations = s.reservations ++ [{ session := k, cls := if field p.params 1 1 = 1 then .operator else .job
                                              window := w, nonce := BitVec.ofNat 128 (leNat code), made := s.clock.dt }] := by
  have htaken := sessGet_taken (p := p) h.opened
  have hown : ownCommand 0x01 ⟨x.cls, some n⟩ p (taken s n p) = openReserve (taken s n p) p n := by
    show cmdSessionOpen ⟨x.cls, some n⟩ p (taken s n p) = _
    unfold cmdSessionOpen
    rw [h.origin]
    dsimp only
    rw [mode_of_fieldsOk hok, if_neg (by decide), if_neg (by rw [howner]; decide), hok, if_neg (by decide)]
  unfold openReserve at hown
  rw [hfree, htaken] at hown
  dsimp only at hown
  rw [hw] at hown
  have hbooks := onlyBooks_taken (p := p) h.opened
  obtain ⟨t, hexec, hreplied, -, hframe⟩ := exec_replies h hown (booked_congr hbooks.booked rfl) (by
    show (taken s n p).out = []
    rw [hbooks.frame])
  refine ⟨t, _, hexec, length_drawn _ 16, hreplied, ?_⟩
  · rw [hframe]
    show (taken s n p).reservations ++ _ = _
    rw [hbooks.frame]
    rfl

/-- Settles O6: each mode is the command's own part, and its reply waits or leaves. -/
theorem sessionsOpenByChallengeClaimReserveAdmit : Obligations.SessionsOpenByChallengeClaimReserveAdmit := by
  refine ⟨fun c s port iface addr udp p h => ⟨?_, ?_, ?_⟩, ?_⟩
  · rintro q rfl hok
    exact challenge_draws h hok
  · rintro q rfl hok n w hlive hfree hw
    exact ownerClaim_opens h hok hlive hfree hw
  · rintro q rfl hok r _ hfind w hw
    exact admit_opens h hok hfind hw
  · intro s n k w x p q h howner hok hfree hw
    exact reserve_keeps h howner hok hfree hw

end Sys2Proof.Machine

/-! O22: what copies of pages write (R189, R191); first, a write in the linear view. -/

namespace Sys2Proof.Machine

open Sys2Proof Sys2Proof.Terms

variable {s t : State} {a n : Nat} {b : Bytes}

/-- In the linear view, with no word in error, a write is its bytes and nothing else. -/
theorem storeBytes_linear (hpoison : s.poison = []) (hsoft : s.soft = []) (hm : Memory.wf s.mem = true)
    (h : a + b.length ≤ 0x10000000000) :
    ∃ m, storeBytes s a b = { s with mem := m } ∧ Memory.wf m = true
      ∧ (∀ i < b.length, byteAt (storeBytes s a b) (a + i) = b.getD i 0)
      ∧ ∀ c, (c < a ∨ a + b.length ≤ c) → byteAt (storeBytes s a b) c = byteAt s c := by
  have hclean := storeBytes_clean hpoison hsoft a b
  refine ⟨(storeBytes s a b).mem, ?_, wf_storeBytes hm a b, fun i hi => ?_, fun c hc => byteAt_storeBytes_other s fun i hi => ?_⟩
  · rw [hclean]
    rfl
  · have hsame := byteAt_spanWrite_same hm a (spanLinear_nodup h) hi
    rw [linearOf_linear (by omega)] at hsame
    rw [hclean, hsame, List.getD_eq_getElem _ _ hi]
  · rw [linearOf_linear (by omega)]
    omega

/-- Such a write is read back. -/
theorem bytesAt_storeBytes (hpoison : s.poison = []) (hsoft : s.soft = []) (hm : Memory.wf s.mem = true)
    (h : a + b.length ≤ 0x10000000000) : bytesAt (storeBytes s a b) a b.length = b := by
  obtain ⟨-, -, -, hsame, -⟩ := storeBytes_linear hpoison hsoft hm h
  refine List.ext_getElem (by simp) fun i h1 h2 => ?_
  simp only [bytesAt, List.getElem_map, List.getElem_range]
  rw [hsame i h2, List.getD_eq_getElem _ _ h2]

/-- In the linear view a span is the bytes from its address on. -/
theorem spanRead_linear (s : State) (h : a + n ≤ 0x10000000000) : spanRead s a n = bytesAt s a n := by
  rw [spanRead, spanLinear_linear h, bytesAt, List.map_map]
  rfl

/-! ## The page and its descriptor -/

theorem length_descBytes (p : Page) : (descBytes p).length = 32 := by
  simp [descBytes, length_toLE]

theorem page_id {id : BitVec 24} {p : Page} (h : pageGet s id = some p) : p.id = id := by
  simpa using List.find?_some h

theorem pageGet_placed {p : Page} {l : List Page} (h : t.pages = l.filter (fun q => q.id.toNat < p.id.toNat)
    ++ (p :: l.filter (fun q => p.id.toNat < q.id.toNat))) : pageGet t p.id = some p := by
  have hnone : (l.filter (fun q => q.id.toNat < p.id.toNat)).find? (fun q => q.id == p.id) = none := by
    rw [List.find?_eq_none]
    intro q hq heq
    have hlt := (List.mem_filter.mp hq).2
    rw [beq_iff_eq] at heq
    simp [heq] at hlt
  unfold pageGet
  rw [h, List.find?_append, hnone, Option.none_or, List.find?_cons_of_pos (by simp)]

/-- A page put in its place writes its descriptor, and nothing else. -/
theorem pagePut_spec {p : Page} (hpoison : s.poison = []) (hsoft : s.soft = []) (hm : Memory.wf s.mem = true)
    (h : descAddr s p.id + 32 ≤ 0x10000000000) :
    ∃ t, pagePut s p = t ∧ pageGet t p.id = some p ∧ t = { s with mem := t.mem, pages := t.pages }
      ∧ ∀ c, (c < descAddr s p.id ∨ descAddr s p.id + 32 ≤ c) → byteAt t c = byteAt s c := by
  obtain ⟨u, hu⟩ : ∃ u : State, u = { s with pages := s.pages.filter (fun q => q.id.toNat < p.id.toNat)
      ++ (p :: s.pages.filter (fun q => p.id.toNat < q.id.toNat)) } := ⟨_, rfl⟩
  have hdef : pagePut s p = storeBytes u (descAddr s p.id) (descBytes p) := by
    rw [hu]
    rfl
  obtain ⟨m, hframe, -, -, hother⟩ := storeBytes_linear (s := u) (a := descAddr s p.id) (b := descBytes p) (by rw [hu]; exact hpoison)
    (by rw [hu]; exact hsoft) (by rw [hu]; exact hm) (by rw [length_descBytes]; exact h)
  rw [length_descBytes] at hother
  have hbyte (c : Nat) : byteAt u c = byteAt s c := by
    rw [hu]
    rfl
  refine ⟨_, hdef, pageGet_placed (l := s.pages) ?_, ?_, fun c hc => (hother c hc).trans (hbyte c)⟩
  · rw [hframe, hu]
  · rw [hframe, hu]

/-- A copy that has completed: its bytes in the slot, and then the descriptor. -/
theorem filledSlot_spec {p' : Page} {id : BitVec 24} {a : Nat} {b : Bytes} (hid : p'.id = id) (hpoison : s.poison = [])
    (hsoft : s.soft = []) (hm : Memory.wf s.mem = true) (hdesc : descAddr s id + 32 ≤ 0x10000000000)
    (h : a + b.length ≤ 0x10000000000) :
    ∃ t, pagePut (storeBytes s a b) p' = t ∧ pageGet t id = some p'
      ∧ (∀ i < b.length, a + i < descAddr s id ∨ descAddr s id + 32 ≤ a + i → byteAt t (a + i) = b.getD i 0)
      ∧ (∀ c, (c < a ∨ a + b.length ≤ c) → (c < descAddr s id ∨ descAddr s id + 32 ≤ c) → byteAt t c = byteAt s c)
      ∧ t = { s with mem := t.mem, pages := t.pages } := by
  subst hid
  obtain ⟨m, hframe, hm', hsame, hother⟩ := storeBytes_linear hpoison hsoft hm h
  have haddr : descAddr (storeBytes s a b) p'.id = descAddr s p'.id := by
    rw [hframe]
    rfl
  obtain ⟨t, ht, hget, htframe, htother⟩ := pagePut_spec (s := storeBytes s a b) (p := p') (by rw [hframe]; exact hpoison)
    (by rw [hframe]; exact hsoft) (by rw [hframe]; exact hm') (by rw [haddr]; exact hdesc)
  rw [haddr] at htother
  refine ⟨t, ht, hget, fun i hi hc => (htother _ hc).trans (hsame i hi), fun c hc hc' => (htother c hc').trans (hother c hc), ?_⟩
  rw [htframe, hframe]

/-! ## The two copies -/

/-- No codeword is poisoned, so none is copied. -/
theorem copyPoison_clean (h : s.poison = []) (src dst n : Nat) : copyPoison s src dst n = s := by
  rw [copyPoison, h]
  rfl

theorem length_demoteBlock (s : State) (p : Page) (f c b : Nat) : (demoteBlock s p f c b).1.length = 32 := by
  simp [demoteBlock, storeVals]

/-- With no word poisoned a demotion marks no block. -/
theorem demoteBlock_unmarked (h : s.poison = []) (p : Page) (f c b : Nat) : (demoteBlock s p f c b).2.2 = false := by
  simp [demoteBlock, h]

theorem foldl_same {α : Type} {f : State → α → State} {l : List α} (h : ∀ y ∈ l, f s y = s) : l.foldl f s = s := by
  induction l with
  | nil => rfl
  | cons y l ih =>
    rw [List.foldl_cons, h y (by simp)]
    exact ih fun z hz => h z (List.mem_cons_of_mem _ hz)

/-- The bytes of a demoted page: its packed elements and a scale for each block. -/
theorem length_demoted (s : State) (p : Page) (f c : Nat) :
    (pack (fmtWidth f) (((List.range (pageElems c / 32)).map (demoteBlock s p f c)).flatMap (·.1))
      ++ ((List.range (pageElems c / 32)).map (demoteBlock s p f c)).map (·.2.1)).length = pageBytes f true c := by
  have hblocks : pageElems c / 32 = 8 * c := by
    rw [pageElems]
    omega
  have helems : (((List.range (pageElems c / 32)).map (demoteBlock s p f c)).flatMap (·.1)).length = pageElems c := by
    rw [List.length_flatMap, List.map_map,
      List.map_congr_left (f := (fun a : List Nat × Byte × Bool => a.1.length) ∘ demoteBlock s p f c) (g := fun _ => 32)
        (fun b _ => length_demoteBlock s p f c b), List.map_const', List.sum_replicate,
      List.length_range, hblocks, pageElems, smul_eq_mul]
    omega
  rw [List.length_append, pack, length_toLE, helems, List.length_map, List.length_map, List.length_range, hblocks, pageBytes,
    if_pos rfl]

theorem copyDone_eq {p q : Page} (hq : p.source.bind (pageGet s) = some q) (hpoison : s.poison = []) (hsoft : s.soft = []) :
    copyDone s p = pagePut (storeBytes s p.slot (bytesAt s q.slot p.bytes)) { p with copied := true, valid := q.valid } := by
  have hclean : (storeBytes s p.slot (bytesAt s q.slot p.bytes)).poison = [] := by
    rw [storeBytes_clean hpoison hsoft]
    exact hpoison
  unfold copyDone
  rw [hq]
  dsimp only
  rw [copyPoison_clean hclean]

theorem demoteDone_eq {p : Page} {a m f : Nat} (hslot : p.slot2 = some (a, m)) (hf : demotedFmt p.home = some f) (hpoison : s.poison = []) :
    demoteDone s p = pagePut (storeBytes s a
      (pack (fmtWidth f) (((List.range (pageElems (chansOf p) / 32)).map (demoteBlock s p f (chansOf p))).flatMap (·.1))
        ++ ((List.range (pageElems (chansOf p) / 32)).map (demoteBlock s p f (chansOf p))).map (·.2.1)))
      { p with copied := true } := by
  have hmarks (y b) (hy : (y, b) ∈ ((List.range (pageElems (chansOf p) / 32)).map (demoteBlock s p f (chansOf p))).zipIdx) :
      y.2.2 = false := by
    obtain ⟨k, -, hk⟩ := List.mem_map.mp (List.fst_mem_of_mem_zipIdx hy)
    have hk : demoteBlock s p f (chansOf p) k = y := hk
    rw [← hk]
    exact demoteBlock_unmarked hpoison p f _ k
  unfold demoteDone
  rw [hslot, hf]
  dsimp only
  rw [foldl_same]
  rintro ⟨y, b⟩ hy
  exact if_neg (by simp [hmarks y b hy])

/-- Settles O22: either copy fills its slot, and then the page's descriptor is written. -/
theorem pageCopiesFillTheirSlot : Obligations.PageCopiesFillTheirSlot := by
  unfold Obligations.PageCopiesFillTheirSlot
  intro s id p hget hcopied hpoison hsoft hm hdesc
  have hid := page_id hget
  obtain ⟨u, hu⟩ : ∃ u : State, u = { s with out := [] } := ⟨_, rfl⟩
  have hbyte (c : Nat) : byteAt u c = byteAt s c := by
    rw [hu]
    rfl
  have hpoison' : u.poison = [] := by rw [hu]; exact hpoison
  have hsoft' : u.soft = [] := by rw [hu]; exact hsoft
  have hm' : Memory.wf u.mem = true := by rw [hu]; exact hm
  have hdesc' : descAddr u id + 32 ≤ 0x10000000000 := by rw [hu]; exact hdesc
  have hget' : pageGet u id = some p := by rw [hu]; exact hget
  refine ⟨fun q r hstate hsource hr hslot => ?_, fun a m f hstate hslot hf hfits => ?_⟩
  · have hlen : (bytesAt u q.slot p.bytes).length = p.bytes := by simp [bytesAt]
    obtain ⟨t, ht, hpage, hfilled, hother, hframe⟩ := filledSlot_spec (s := u) (p' := { p with copied := true, valid := q.valid })
      (id := id) (a := p.slot) (b := bytesAt u q.slot p.bytes) hid hpoison' hsoft' hm' hdesc' (by rw [hlen]; exact hslot)
    rw [hlen] at hfilled hother
    refine ⟨t, ?_, hpage, fun i hi hc => ?_, fun c hc hc' => ?_, ?_⟩
    · have hdef : exec (.cowCopyComplete id) s = .next (copyDone u p) := by
        show execCowCopyComplete id s = _
        rw [execCowCopyComplete, ← hu, hget']
        exact congrArg Host.Outcome.next (if_pos ⟨hstate, by simp [hcopied]⟩)
      rw [hdef, copyDone_eq (q := q) (by rw [hsource, hu]; exact hr) hpoison' hsoft', ht]
    · rw [hu] at hfilled
      refine (hfilled i hi hc).trans ?_
      simp [bytesAt, hi]
      rfl
    · rw [hu] at hother
      exact hother c hc hc'
    · rw [hframe, hu]
  · obtain ⟨b, hb⟩ : ∃ b, b = pack (fmtWidth f) (((List.range (pageElems (chansOf p) / 32)).map (demoteBlock u p f (chansOf p))).flatMap (·.1))
        ++ ((List.range (pageElems (chansOf p) / 32)).map (demoteBlock u p f (chansOf p))).map (·.2.1) := ⟨_, rfl⟩
    have hlen : b.length = pageBytes f true (chansOf p) := by rw [hb, length_demoted]
    obtain ⟨t, ht, hpage, hfilled, hother, hframe⟩ := filledSlot_spec (s := u) (p' := { p with copied := true })
      (id := id) (a := a) (b := b) hid hpoison' hsoft' hm' hdesc' (by rw [hlen]; exact hfits)
    rw [hlen] at hfilled hother
    refine ⟨t, ?_, hpage, fun i hi hc => ?_, fun c hc hc' => ?_, ?_⟩
    · have hdef : exec (.demotionCopyComplete id) s = .next (demoteDone u p) := by
        show execDemotionCopyComplete id s = _
        rw [execDemotionCopyComplete, ← hu, hget']
        exact congrArg Host.Outcome.next (if_pos ⟨hstate, by simp [hcopied]⟩)
      rw [hdef, demoteDone_eq hslot hf hpoison', ← hb, ht]
    · rw [hu] at hfilled hb
      refine (hfilled i hi hc).trans ?_
      rw [hb]
      rfl
    · rw [hu] at hother
      exact hother c hc hc'
    · rw [hframe, hu]

end Sys2Proof.Machine

/-! O19: CTX_SAVE (R412 to R414). -/

namespace Sys2Proof.Machine

open Sys2Proof Sys2Proof.Terms

variable {s t u : State} {n k : Nat} {x : Session} {p : Packet} {op : Byte} {code : Code} {result : Bytes}

/-! ## An entry that is posted before the reply -/

/-- A reply leaves the ring of its session. -/
theorem sendReply_ring (hp : p.origin = .session n) (h : sessGet s n = some x) (code : Code) (result : Bytes) (ev : BitVec 32) :
    ∃ y, sessGet (sendReply s p op code result ev) n = some y ∧ y.ring = x.ring ∧ y.doneSeq = x.doneSeq := by
  have hsent := sessGet_replySent h (makeReply s p op code result ev)
  rw [sendReply_eq hp h]
  cases p.reqPsn with
  | none => exact ⟨_, hsent, rfl, rfl⟩
  | some psn => exact ⟨_, sessGet_sessMap_same hsent rfl, rfl, rfl⟩

/-- What has been booked before an entry is posted leaves its number. -/
theorem posted_of_booked {tag : BitVec 32} (hb : Booked s u n k) (h : Posted u t n tag op code) : Posted s t n tag op code := by
  obtain ⟨x, y, hx, hy, -, hdone, -⟩ := hb
  obtain ⟨y', z, e, hy', hz, he, hseq, htag, hop, hcode, hnext⟩ := h
  obtain rfl : y = y' := Option.some.inj (hy.symm.trans hy')
  exact ⟨x, z, e, hx, hz, he, hseq.trans hdone, htag, hop, hcode, by rw [hnext, hdone]⟩

/-- The entry stands when the reply has left. -/
theorem posted_sendReply {tag : BitVec 32} {op' : Byte} {code' : Code} {result' : Bytes} {ev : BitVec 32} (hp : p.origin = .session n)
    (h : Posted s u n tag op code) (hr : PostedResult u n result) :
    Posted s (sendReply u p op' code' result' ev) n tag op code ∧ PostedResult (sendReply u p op' code' result' ev) n result := by
  obtain ⟨x, y, e, hx, hy, he, hseq, htag, hop, hcode, hnext⟩ := h
  obtain ⟨y', e', hy', he', hresult⟩ := hr
  obtain rfl : y = y' := Option.some.inj (hy.symm.trans hy')
  obtain ⟨z, hz, hring, hdone⟩ := sendReply_ring (op := op') hp hy code' result' ev
  exact ⟨⟨x, z, e, hx, hz, by rw [hring, he], hseq, htag, hop, hcode, by rw [hdone, hnext]⟩,
    ⟨z, e', hz, by rw [hring, he'], hresult⟩⟩

/-- A command that is accepted and posts its entry at once. -/
theorem exec_posts {c : Instr} {opE : Byte} {codeE : Code} {resultE : Bytes} {ctx : Option Nat} (h : Admitted c s n x op p)
    (ha : ownCommand op ⟨x.cls, some n⟩ p (taken s n p)
      = { code := code, st := postEntry (ringReserve (taken s n p) p) p opE codeE resultE ctx }) :
    ∃ t, exec c s = .next t ∧ Replied t p op code [] ∧ Posted s t n p.tag opE codeE ∧ PostedResult t n resultE
      ∧ t = { s with out := t.out, sessions := t.sessions } := by
  have htaken := onlyBooks_taken (p := p) h.opened
  have ⟨_, y, _, hy, _⟩ := htaken.booked
  have hreserve := onlyBooks_ringReserve h.origin hy
  have ⟨_, z, _, hz, _⟩ := hreserve.booked
  obtain ⟨u, hu, hposted, hresult, hframe⟩ := posted_postEntry (op := opE) (code := codeE) (result := resultE) (ctx := ctx)
    (ev := 0xFFFFFFFF) (u := ringReserve (taken s n p) p) h.origin hz rfl
  have hposted' : Posted s u n p.tag opE codeE := posted_of_booked (booked_trans htaken.booked hreserve.booked) hposted
  have ⟨_, v, _, _, hv, _⟩ := hposted
  have hframe' : u = { s with out := [], sessions := u.sessions } := by
    rw [hframe, hreserve.frame, htaken.frame]
  rw [hu] at ha
  refine ⟨_, exec_eq_sendReply h ha, replied_sendReply h.origin hv (by rw [hframe']) code [], (posted_sendReply h.origin hposted' hresult).1,
    (posted_sendReply h.origin hposted' hresult).2, ?_⟩
  have hsent := (onlyBooks_sendReply (op := op) h.origin hv code [] 0xFFFFFFFF).frame
  generalize sendReply u p op code [] 0xFFFFFFFF = t at hsent ⊢
  rw [hsent, hframe']
  rfl

/-! ## The command -/

/-- CTX_SAVE once its checks have passed: the size is posted, or the copy begins. -/
theorem cmdCtxSave_checked {w : Who} {j : Ctx} {i : Image} (hj : ctxGet s j.num = some j) (hi : imageGet s j.desc.image = some i)
    (hname : field p.params 0 2 = j.num) (hmay : mayName w j.owner = true) (hzero : zeroAt p.params 2 6 = true)
    (hstate : j.state = .paused) (hsaving : saving s j.num = false) (hreplay : j.interrupted = true → j.replayable = true)
    (hgroup : j.group = true → (member s).isSome = true) (hring : ringFree s p = true) (halign : field p.params 8 8 % 4096 = 0)
    (hlow : field p.params 8 8 < 0x10000000000)
    (hfits : field p.params 16 8 ≠ 0 → saveSize s j i ≤ field p.params 16 8
      ∧ field p.params 8 8 + field p.params 16 8 ≤ 0x10000000000
      ∧ areaMeets s i j (field p.params 8 8) (field p.params 16 8) = false
      ∧ memoryThere s (field p.params 8 8) (field p.params 16 8) = true) :
    cmdCtxSave w p s = if field p.params 16 8 = 0 then
        { code := .accepted, st := postEntry (ringReserve s p) p 0x38 .ok (toLE (saveSize s j i) 8) (some j.num) }
      else accepted { s with saves := s.saves
        ++ [{ ctx := j.num, area := field p.params 8 8, size := field p.params 16 8, p := p }] } p := by
  have hnamed : namedCtx s p 0 = some j := by rw [namedCtx, hname, hj]
  have hfree : ¬(j.state ≠ .paused ∨ saving s j.num = true) := by simp [hstate, hsaving]
  have hgood : ¬(field p.params 8 8 % 4096 ≠ 0 ∨ 0x10000000000 ≤ field p.params 8 8
      ∨ (field p.params 16 8 ≠ 0 ∧ (field p.params 16 8 < saveSize s j i
        ∨ 0x10000000000 < field p.params 8 8 + field p.params 16 8
        ∨ areaMeets s i j (field p.params 8 8) (field p.params 16 8) = true))
      ∨ (j.interrupted = true ∧ (!j.replayable) = true) ∨ (j.group = true ∧ (member s).isNone = true)) := by
    rintro (h | h | ⟨h, h'⟩ | ⟨h, h'⟩ | ⟨h, h'⟩)
    · exact h halign
    · omega
    · obtain ⟨hsize, hend, hmeets, -⟩ := hfits h
      rcases h' with h' | h' | h'
      · omega
      · omega
      · rw [hmeets] at h'
        cases h'
    · simp [hreplay h] at h'
    · have := hgroup h
      simp only [Option.isNone_iff_eq_none] at h'
      simp [h'] at this
  have hthere : ¬(field p.params 16 8 ≠ 0 ∧ (!memoryThere s (field p.params 8 8) (field p.params 16 8)) = true) := by
    rintro ⟨h, h'⟩
    simp [(hfits h).2.2.2] at h'
  simp only [cmdCtxSave, hnamed, hmay, hzero, if_neg hfree, hi, if_neg hgood, if_neg hthere, hring, Bool.not_true,
    Bool.false_eq_true, if_false]

/-! ## The copy -/

/-- No codeword is poisoned. -/
theorem anyPoison_clean (h : s.poison = []) (l : List Nat) : anyPoison s l = false := by
  rw [anyPoison, h]
  rfl

/-- The copy of a save writes its area. -/
theorem ctxSaveComplete_writes {j : Ctx} {i : Image} {v : Save} (hj : ctxGet s j.num = some j) (hi : imageGet s j.desc.image = some i)
    (hv : s.saves.find? (fun y => y.ctx == j.num && !y.copied) = some v) (hpoison : s.poison = [])
    (harea : memoryThere s v.area v.size = true) (hbase : memoryThere s j.desc.base (tensorBytes i) = true) :
    exec (.ctxSaveComplete j.num) s = .next { storeBytes { s with out := [] } v.area (saveArea s j i) with
      saves := s.saves.map fun y => if y.ctx = j.num then { y with copied := true } else y } := by
  obtain ⟨u, hu⟩ : ∃ u : State, u = { s with out := [] } := ⟨_, rfl⟩
  have hv' : u.saves.find? (fun y => y.ctx == j.num && !y.copied) = some v := by rw [hu]; exact hv
  have hj' : ctxGet u j.num = some j := by rw [hu]; exact hj
  have hi' : imageGet u j.desc.image = some i := by rw [hu]; exact hi
  have hclean (l : List Nat) : anyPoison u l = false := anyPoison_clean (by rw [hu]; exact hpoison) l
  have hthere : ¬((!memoryThere u v.area v.size) = true ∨ (!memoryThere u j.desc.base (tensorBytes i)) = true) := by
    have harea' : memoryThere u v.area v.size = true := by rw [hu]; exact harea
    have hbase' : memoryThere u j.desc.base (tensorBytes i) = true := by rw [hu]; exact hbase
    simp [harea', hbase']
  have hsaves : (storeBytes u v.area (saveArea s j i)).saves = s.saves := by
    obtain ⟨-, -, -, -, hframe⟩ := storeBytes_spec u v.area (saveArea s j i)
    rw [hframe, hu]
  have harea' : saveArea u j i = saveArea s j i := by
    rw [hu]
    rfl
  show execCtxSaveComplete j.num s = _
  rw [execCtxSaveComplete, ← hu]
  have hpages : ((savedPages u j).any fun _ => false) = false := List.any_eq_false.mpr fun _ _ => Bool.false_ne_true
  simp only [hv', hj', hi', hclean, hpages, Bool.false_eq_true, false_or, if_false, if_neg hthere, hsaves, harea']

/-- Settles O19: the command's checks are `cmdCtxSave_checked`, and the copy is one write. -/
theorem contextSaveWritesItsArea : Obligations.ContextSaveWritesItsArea := by
  unfold Obligations.ContextSaveWritesItsArea
  intro s n j i hj hi
  refine ⟨fun x p h hname hmay hzero hstate hsaving hreplay hgroup hring halign hlow => ?_,
    fun v hv hpoison hsoft hm hfits harea hbase => ?_⟩
  · have htaken := taken_frame (p := p) h.opened
    have hchecked := cmdCtxSave_checked (s := taken s n p) (w := ⟨x.cls, some n⟩) (p := p) (j := j) (i := i) (by rw [htaken]; exact hj)
      (by rw [htaken]; exact hi) hname hmay hzero hstate (by rw [htaken]; exact hsaving) hreplay (by rw [htaken]; exact hgroup) hring
      halign hlow
    have hsize : saveSize (taken s n p) j i = saveSize s j i := by
      rw [htaken]
      rfl
    refine ⟨fun h0 => ?_, fun hle h0 hend hmeets hthere => ?_⟩
    · have hown := (hchecked fun h => absurd h0 h).trans (if_pos h0)
      rw [hsize] at hown
      exact exec_posts h hown
    · have hown := (hchecked fun _ => ⟨by rw [hsize]; exact hle, hend, by rw [htaken]; exact hmeets, by rw [htaken]; exact hthere⟩).trans
        (if_neg h0)
      obtain ⟨t, he, hr, hb, ht⟩ := exec_accepts (u := { taken s n p with saves := (taken s n p).saves
        ++ [{ ctx := j.num, area := field p.params 8 8, size := field p.params 16 8, p := p }] }) h hown rfl (by rw [htaken])
      rw [htaken] at ht
      exact ⟨t, he, hr, hb, by rw [ht], by rw [ht]⟩
  · have hwrites := ctxSaveComplete_writes hj hi hv hpoison harea hbase
    obtain ⟨m, hframe, -, -, hother⟩ := storeBytes_linear (s := { s with out := [] }) (a := v.area) (b := saveArea s j i) hpoison hsoft hm hfits
    have hread := bytesAt_storeBytes (s := { s with out := [] }) (a := v.area) (b := saveArea s j i) hpoison hsoft hm hfits
    refine ⟨_, hwrites, hread, hother, rfl, ?_⟩
    rw [hframe]

end Sys2Proof.Machine

/-! O20: CTX_RESTORE (R414, R416). -/

namespace Sys2Proof.Machine

open Sys2Proof Sys2Proof.Terms

variable {s t u : State} {n k : Nat} {x : Session} {p : Packet}

/-- The checks of R416 that a restored context passes, but for the digest's. -/
structure Restorable (s : State) (p : Packet) (area : Nat) (b : Bytes) (i : Image) (c : Ctx) : Prop where
  aid : field b 8 4 = (regGet s oDigAid).toNat
  image : imageGet s (BitVec.ofNat 64 (field p.params 16 8)) = some i
  plan : i.plan.toNat = field b 64 64
  recompute : c.desc.recompute ≠ 0 → (imageGet s c.desc.recompute).isSome = true
  bases : restoreBasesOk s i c area b.length = true
  tensors : (jobTensors i c.desc.base).all (fun y => spanStatic s y.1 y.2) = true
  kernels : kernelsAtOk i c.desc.base = true
  replay : c.interrupted = true → c.replayable = true
  member : field b 12 1 = 0xFF ∨ ((member s).any fun g => g.index == field b 12 1 && g.members == i.members) = true
  alone : c.group = true → hasGroupJob s = false
  place : (choosePlacement s i c.desc.base).isSome = true

/-- Of a restorable context the digest decides. -/
theorem restoreChecks_restorable {area : Nat} {b : Bytes} {i : Image} {ok : Image → Ctx → Ans}
    (h : Restorable s p area b i (restoredCtx s 0 n p b i)) :
    restoreChecks s p n area b.length b ok = if shaBytes (digestView b) = slice b 128 64 then ok i (restoredCtx s 0 n p b i)
      else refuse s .badParam := by
  obtain ⟨haid, himage, hplan, hrecompute, hbases, htensors, hkernels, hreplay, hmember, halone, hplace⟩ := h
  have hplan' : ¬(i.plan.toNat ≠ field b 64 64
      ∨ ((restoredCtx s 0 n p b i).desc.recompute ≠ 0 ∧ (imageGet s (restoredCtx s 0 n p b i).desc.recompute).isNone = true)) := by
    rintro (h | ⟨h, h'⟩)
    · exact h hplan
    · have := hrecompute h
      rw [Option.isNone_iff_eq_none] at h'
      simp [h'] at this
  have hreplay' : ¬((!kernelsAtOk i (restoredCtx s 0 n p b i).desc.base) = true
      ∨ ((restoredCtx s 0 n p b i).interrupted = true ∧ (!(restoredCtx s 0 n p b i).replayable) = true)) := by
    rintro (h | ⟨h, h'⟩)
    · simp [hkernels] at h
    · simp [hreplay h] at h'
  have hmember' : ¬((field b 12 1 ≠ 0xFF ∧ (!((member s).any fun g => g.index == field b 12 1 && g.members == i.members)) = true)
      ∨ ((restoredCtx s 0 n p b i).group = true ∧ hasGroupJob s = true)) := by
    rintro (⟨h, h'⟩ | ⟨h, h'⟩)
    · rcases hmember with hmember | hmember
      · exact h hmember
      · simp [hmember] at h'
    · simp [halone h] at h'
  have hplace' : ¬(choosePlacement s i (restoredCtx s 0 n p b i).desc.base).isNone = true := by
    simpa [Option.isNone_iff_eq_none, Option.isSome_iff_ne_none] using hplace
  unfold restoreChecks
  by_cases hdigest : shaBytes (digestView b) = slice b 128 64
  · rw [if_neg (not_not.mpr hdigest), if_pos hdigest, if_neg (not_not.mpr haid), himage]
    dsimp only
    rw [if_neg hplan', if_neg (by simp [hbases]), if_neg (by simp only [htensors]; decide), if_neg hreplay', if_neg hmember',
      if_neg hplace']
  · rw [if_pos hdigest, if_neg hdigest]

/-- Bytes in memory, none of them poisoned, can be read. -/
theorem areaReadable_clean {a m : Nat} (h : s.poison = []) (hm : spanStatic s a m = true) : areaReadable s a m = true := by
  rw [areaReadable, hm, anyPoison_clean h]
  rfl

/-- CTX_RESTORE of an area without pages. -/
theorem cmdCtxRestore_restorable {w : Who} {area : Nat} {b : Bytes} {i : Image} {c : Ctx} (hw : w.session.getD 0 = n) (harea : area = field p.params 0 8)
    (hb : b = spanRead s area (field (spanRead s area 4096) 16 8)) (hphase : s.power.phase ≠ .standby) (halign : area % 4096 = 0)
    (hstack : isStack area = true) (hsize : 4096 ≤ field p.params 8 8) (hhead : spanStatic s area 4096 = true)
    (hbody : spanStatic s area (field (spanRead s area 4096) 16 8) = true) (hpoison : s.poison = [])
    (hheadOk : areaHeadOk (spanRead s area 4096) (field p.params 8 8) = true) (hc : restoredCtx s 0 n p b i = c)
    (h : Restorable s p area b i c)
    (hfree : freeContext s = some k) (hpages : field b 32 4 = 0) (hring : ringFree s p = true) :
    cmdCtxRestore w p s = if shaBytes (digestView b) = slice b 128 64 then
        accepted { s with restores := s.restores ++ [{ ctx := { c with num := k }, area := area, p := p }] } p
      else refuse s .badParam := by
  have hlegal : ¬(area % 4096 ≠ 0 ∨ (!isStack area) = true ∨ field p.params 8 8 < 4096 ∨ (!areaReadable s area 4096) = true) := by
    rw [hstack, areaReadable_clean hpoison hhead]
    simp [halign, hsize]
  have hread : ¬((!areaHeadOk (spanRead s area 4096) (field p.params 8 8)) = true
      ∨ (!areaReadable s area (field (spanRead s area 4096) 16 8)) = true) := by
    rw [hheadOk, areaReadable_clean hpoison hbody]
    simp
  have hrecords : savedRecords b = [] := by
    rw [savedRecords, hpages]
    rfl
  subst hc
  unfold cmdCtxRestore
  rw [if_neg hphase, ← harea, if_neg hlegal, if_neg hread, ← hb, hw, restoreChecks_restorable h]
  rw [hfree, hrecords]
  simp [hring]

/-- The copy of a restore writes the tensor bytes. -/
theorem ctxRestoreComplete_writes {r : Restore} {m : Nat} (hr : s.restores.find? (fun y => y.ctx.num == k && y.maps.isSome && !y.copied) = some r)
    (hm : m = field (spanRead s r.area 256) 24 8) (hpoison : s.poison = []) (harea : memoryThere s r.area (4096 + m) = true)
    (hbase : memoryThere s r.ctx.desc.base m = true) :
    exec (.ctxRestoreComplete k) s
      = .next { storeBytes { s with out := [] } r.ctx.desc.base (spanRead s (r.area + 4096) m) with
          restores := s.restores.map fun y => if y.ctx.num = k then { y with copied := true } else y } := by
  obtain ⟨u, hu⟩ : ∃ u : State, u = { s with out := [] } := ⟨_, rfl⟩
  have hr' : u.restores.find? (fun y => y.ctx.num == k && y.maps.isSome && !y.copied) = some r := by rw [hu]; exact hr
  have hm' : field (spanRead u r.area 256) 24 8 = m := by
    rw [hm, hu]
    rfl
  have hread : spanRead u (r.area + 4096) m = spanRead s (r.area + 4096) m := by
    rw [hu]
    rfl
  have hthere : ¬((!memoryThere u r.area (4096 + m)) = true ∨ (!memoryThere u r.ctx.desc.base m) = true) := by
    have harea' : memoryThere u r.area (4096 + m) = true := by rw [hu]; exact harea
    have hbase' : memoryThere u r.ctx.desc.base m = true := by rw [hu]; exact hbase
    simp [harea', hbase']
  have hrestores : (storeBytes u r.ctx.desc.base (spanRead s (r.area + 4096) m)).restores = s.restores := by
    obtain ⟨-, -, -, -, hframe⟩ := storeBytes_spec u r.ctx.desc.base (spanRead s (r.area + 4096) m)
    rw [hframe, hu]
  show execCtxRestoreComplete k s = _
  rw [execCtxRestoreComplete, ← hu]
  simp only [hr', hm', hread, if_neg hthere, anyPoison_clean (s := u) (by rw [hu]; exact hpoison), Bool.false_eq_true, if_false,
    hrestores]

/-- Settles O20: the command's checks are `restoreChecks_restorable`, and the copy is one write. -/
theorem contextRestoreChecksItsDigest : Obligations.ContextRestoreChecksItsDigest := by
  unfold Obligations.ContextRestoreChecksItsDigest
  refine ⟨?_, ?_⟩
  · intro s n k x p i h area size b c halign hstack hsize hhead hbody hpoison hheadOk haid himage hplan hrecompute hbases htensors
      hkernels hreplay hmember halone hplace hfree hpages hring
    have htaken := taken_frame (p := p) h.opened
    have hc : restoredCtx (taken s n p) 0 n p b i = c := by
      rw [htaken]
      rfl
    have hphase : s.power.phase ≠ .standby := fun hs => by
      have := h.free
      simp [heldOff, hs] at this
    have hrestorable : Restorable (taken s n p) p area b i c := by
      rw [htaken]
      exact ⟨haid, himage, hplan, hrecompute, hbases, htensors, hkernels, hreplay, hmember, halone, hplace⟩
    have hown := cmdCtxRestore_restorable (w := ⟨x.cls, some n⟩) (k := k) (area := area) (b := b) rfl rfl (by rw [htaken]; rfl) (by rw [htaken]; exact hphase)
      halign hstack hsize (by rw [htaken]; exact hhead) (by rw [htaken]; exact hbody) (by rw [htaken]; exact hpoison)
      (by rw [htaken]; exact hheadOk) hc hrestorable (by rw [htaken]; exact hfree) hpages hring
    by_cases hdigest : shaBytes (digestView b) = slice b 128 64
    · obtain ⟨t, he, hr, hb, ht⟩ := exec_accepts (u := { taken s n p with restores := (taken s n p).restores
        ++ [{ ctx := { c with num := k }, area := area, p := p }] }) h (hown.trans (if_pos hdigest)) rfl (by rw [htaken])
      rw [htaken] at ht
      refine ⟨t, he, ?_, by rw [ht]⟩
      rw [if_pos hdigest]
      exact ⟨hr, hb, by rw [ht]⟩
    · obtain ⟨t, he, hr, hb, ht⟩ := exec_refuses h (hown.trans (if_neg hdigest))
      refine ⟨t, he, ?_, by rw [ht]⟩
      rw [if_neg hdigest]
      exact ⟨hr, hb, by rw [ht]⟩
  · intro s r k hr hpoison hsoft hm m hbase harea hthere hbases
    have hwrites := ctxRestoreComplete_writes hr rfl hpoison hthere hbases
    rw [spanRead_linear s harea] at hwrites
    have hlen : (bytesAt s (r.area + 4096) m).length = m := by simp [bytesAt]
    have hfits : r.ctx.desc.base + (bytesAt s (r.area + 4096) m).length ≤ 0x10000000000 := by rw [hlen]; exact hbase
    obtain ⟨m', hframe, -, -, hother⟩ := storeBytes_linear (s := { s with out := [] }) (a := r.ctx.desc.base)
      (b := bytesAt s (r.area + 4096) m) hpoison hsoft hm hfits
    have hread := bytesAt_storeBytes (s := { s with out := [] }) (a := r.ctx.desc.base) (b := bytesAt s (r.area + 4096) m) hpoison hsoft
      hm hfits
    rw [hlen] at hother hread
    refine ⟨_, hwrites, hread, hother, rfl, ?_⟩
    rw [hframe]

end Sys2Proof.Machine

/-! O46: RSP, ACK and NAK (R348, R350, R356, R358, R363); first, what changes one session, and what a packet of UTX does to its
session before anything else. -/

namespace Sys2Proof.Machine

open Sys2Proof Sys2Proof.Terms

variable {s t u : State} {k n port : Nat} {x y z : Session} {q : UtxBack}

/-! ## One session changes -/

/-- Session k turns from x into y, and nothing else changes. -/
structure OneSession (s t : State) (k : Nat) (x y : Session) : Prop where
  was : sessGet s k = some x
  now : sessGet t k = some y
  other : SessBut s t k
  frame : t = { s with sessions := t.sessions }

theorem oneSession_trans (h : OneSession s t k x y) (h' : OneSession t u k y z) : OneSession s u k x z :=
  ⟨h.was, h'.now, fun j hj => (h'.other j hj).trans (h.other j hj), by rw [h'.frame, h.frame]⟩

theorem oneSession_sessMap {f : Session → Session} (h : sessGet s k = some x) (hf : (f x).closed = x.closed) :
    OneSession s (sessMap s k f) k x (f x) :=
  ⟨h, sessGet_sessMap_same h hf, fun _ hj => sessGet_sessMap_other s f hj, by rw [sessMap_some h]; rfl⟩

/-- Session k turns into y, registers of a list may change, and nothing else but the outputs does. -/
structure SessionWork (s t : State) (k : Nat) (y : Session) (l : List Nat) : Prop where
  now : sessGet t k = some y
  other : SessBut s t k
  regs : RegsBut s t l
  frame : t = { s with out := [], regs := t.regs, sessions := t.sessions }

theorem sessionWork_then {l : List Nat} (h : SessionWork s t k y l) (h' : OneSession t u k y z) : SessionWork s u k z l := by
  refine ⟨h'.now, fun j hj => (h'.other j hj).trans (h.other j hj), fun a ha => ?_, ?_⟩
  · have hregs : u.regs = t.regs := by rw [h'.frame]
    rw [regGet_congr hregs]
    exact h.regs a ha
  · rw [h'.frame, h.frame]

theorem sessionWork_count {l : List Nat} (h : SessionWork s t k y l) (a hi lo n : Nat) :
    SessionWork s (regCount t a hi lo n) k y (l ++ [a]) := by
  refine ⟨h.now, h.other, fun b hb => ?_, ?_⟩
  · rw [List.mem_append, List.mem_singleton, not_or] at hb
    rw [regGet_regCount_other t hi lo n hb.2]
    exact h.regs b hb.1
  · rw [h.frame]
    rfl

/-! ## Counters of UTX -/

theorem utxDrops_ne (port : Nat) : oUtxDrops ≠ oEth port + 0x30 := by
  unfold oUtxDrops oEth
  omega

theorem utxRetx_ne (port : Nat) : oUtxRetx ≠ oEth port + 0x30 := by
  unfold oUtxRetx oEth
  omega

theorem regsBut_trans {l : List Nat} (h : RegsBut s t l) (h' : RegsBut t u l) : RegsBut s u l :=
  fun a ha => (h' a ha).trans (h a ha)

theorem regsBut_countRx (s : State) (port : Nat) {l : List Nat} (h : oEth port + 0x30 ∈ l) : RegsBut s (countRx s port) l :=
  regsBut_regWrap s _ _ _ _ h

theorem sessionWork_received (h : OneSession (countRx { s with out := [] } port) t k x y) : SessionWork s t k y [oEth port + 0x30] := by
  refine ⟨h.now, h.other, fun a ha => ?_, ?_⟩
  · have hregs : t.regs = (countRx { s with out := [] } port).regs := by rw [h.frame]
    rw [regGet_congr hregs]
    exact regsBut_countRx { s with out := [] } port (List.mem_singleton.mpr rfl) a ha
  · rw [h.frame]
    rfl

/-! ## Acknowledgements and credit -/

/-- A session that an ACK_PSN has reached (R350). -/
def released (s : State) (ack : BitVec 32) (x : Session) : Session :=
  if !serialGe x.nextPsn ack then x
  else
    let gone := x.kept.filter fun y => y.sent && serialGt ack y.psn
    if gone.isEmpty then x
    else
      { x with
        kept := x.kept.filter fun y => !(y.sent && serialGt ack y.psn)
        waiting := x.waiting ++ (gone.filter (·.isReq)).map fun y => (y.psn, y.slots)
        timerAt := s.clock.dt, timeouts := 0, rtoNs := rtoInitial s }

theorem takeAck_eq (s : State) (k : Nat) (ack : BitVec 32) : takeAck s k ack = sessMap s k (released s ack) := rfl

/-- An acknowledgement leaves a session as it is, or it releases packets and starts the timer over. -/
theorem released_cases (s : State) (ack : BitVec 32) (x : Session) :
    released s ack x = x
        ∧ x.kept = (if serialGe x.nextPsn ack = true then x.kept.filter (fun k => !(k.sent && serialGt ack k.psn)) else x.kept)
      ∨ ∃ w, released s ack x = { x with
          kept := x.kept.filter fun y => !(y.sent && serialGt ack y.psn)
          waiting := w, timerAt := s.clock.dt, timeouts := 0, rtoNs := rtoInitial s }
        ∧ serialGe x.nextPsn ack = true ∧ (x.kept.filter fun y => !(y.sent && serialGt ack y.psn)).length ≠ x.kept.length := by
  unfold released
  by_cases hge : serialGe x.nextPsn ack = true
  · rw [if_neg (by simp [hge])]
    dsimp only
    by_cases hgone : (x.kept.filter fun y => y.sent && serialGt ack y.psn).isEmpty = true
    · refine .inl ⟨if_pos hgone, ?_⟩
      rw [if_pos hge, List.filter_eq_self.mpr]
      intro y hy
      have hnone := List.filter_eq_nil_iff.mp (List.isEmpty_iff.mp hgone) y hy
      cases hs : y.sent <;> simp_all
    · refine .inr ⟨_, if_neg hgone, hge, fun hlen => hgone ?_⟩
      have hall := List.length_filter_eq_length_iff.mp hlen
      rw [List.isEmpty_iff, List.filter_eq_nil_iff]
      intro y hy
      have hy' := hall y hy
      cases hs : y.sent <;> simp_all
  · exact .inl ⟨if_pos (by simpa using hge), by rw [if_neg hge]⟩

/-- A session with the credit that a CREDIT_LIMIT gives it (R358). -/
def credited (limit : BitVec 32) (x : Session) : Session :=
  { x with peerGrant := if serialGt limit x.peerGrant then limit else x.peerGrant }

/-- What becomes of a session that the header of a packet has reached. -/
theorem acked_credited (s : State) (ack limit : BitVec 32) (x : Session) : Acked x (credited limit (released s ack x)) ack limit := by
  rcases released_cases s ack x with ⟨h, hkept⟩ | ⟨w, h, hge, -⟩
  · refine ⟨?_, ?_⟩
    · rw [h, ← hkept]
      rfl
    · rw [h]
      rfl
  · refine ⟨?_, ?_⟩
    · rw [h, if_pos hge]
      rfl
    · rw [h]
      rfl

/-- The header of a packet leaves the PSN expected, and the session open. -/
theorem credited_released (s : State) (ack limit : BitVec 32) (x : Session) :
    (credited limit (released s ack x)).expect = x.expect ∧ (credited limit (released s ack x)).closed = x.closed := by
  rcases released_cases s ack x with ⟨h, -⟩ | ⟨w, h, -⟩
  · rw [h]
    exact ⟨rfl, rfl⟩
  · rw [h]
    exact ⟨rfl, rfl⟩

theorem acked_of_eq {ack limit : BitVec 32} (h : Acked x y ack limit) (hkept : z.kept = y.kept) (hgrant : z.peerGrant = y.peerGrant) :
    Acked x z ack limit := by
  obtain ⟨h1, h2⟩ := h
  exact ⟨by rw [hkept, h1], by rw [hgrant, h2]⟩

/-! ## An answer in its turn -/

/-- A state once the header of an answer has reached its session. -/
def headerTaken (s : State) (q : UtxBack) (k : Nat) : State :=
  takeCredit (takeAck (countRx { s with out := [] } q.port) k q.ackPsn) k q.creditLimit

theorem headerTaken_spec (h : sessGet s k = some x) :
    OneSession (countRx { s with out := [] } q.port) (headerTaken s q k) k x
      (credited q.creditLimit (released (countRx { s with out := [] } q.port) q.ackPsn x)) := by
  have hclosed : (released (countRx { s with out := [] } q.port) q.ackPsn x).closed = x.closed :=
    (credited_released (countRx { s with out := [] } q.port) q.ackPsn 0 x).2
  have hack : OneSession _ (takeAck (countRx { s with out := [] } q.port) k q.ackPsn) k x _ := oneSession_sessMap h hclosed
  exact oneSession_trans hack (oneSession_sessMap hack.now rfl)

/-- An answer that its session's account covers is used; another is counted as dropped (R356). -/
theorem takeBack_judged {half : Option Nat} {use : State → Nat → State} (htakes : takesFrames s q.port q.iface = true)
    (hacc : acceptsUtx s q.port q.iface q.addr q.dport = true) (hhalf : half = some k) (h : sessGet s k = some x)
    (hlen : q.length ≤ x.segment) :
    takeBack { s with out := [] } q half use = if covers s k (costOf q.length) = true then use (headerTaken s q k) k
      else regCount (countRx { s with out := [] } q.port) oUtxDrops 31 16 1 := by
  have htakes' : takesFrames { s with out := [] } q.port q.iface = true := htakes
  have hacc' : acceptsUtx { s with out := [] } q.port q.iface q.addr q.dport = true := hacc
  have hover : overLength (countRx { s with out := [] } q.port) k q = false := by
    have h' : sessGet (countRx { s with out := [] } q.port) k = some x := h
    simp [overLength, h', hlen]
  have hcovers : covers (countRx { s with out := [] } q.port) k (costOf q.length) = covers s k (costOf q.length) := rfl
  subst hhalf
  unfold takeBack takeUtx
  simp only [htakes', hacc', hover, hcovers, Bool.not_true, Bool.false_eq_true, if_false]
  cases covers s k (costOf q.length) <;> rfl

/-! ## RSP -/

/-- A job of the list is among those that fail. -/
theorem mem_failAt {l : List Nat} {c : Code} {j : Nat} (h : j ∈ l) : ∃ f ∈ (failAt s l c).fails, f.1 = j := by
  by_cases hold : s.fails.any (fun f => f.1 == j) = true
  · obtain ⟨f, hf, hj⟩ := List.any_eq_true.mp hold
    exact ⟨f, List.mem_append_left _ hf, by simpa using hj⟩
  · exact ⟨(j, c, lastSeq s), List.mem_append_right _ (List.mem_map.mpr ⟨j, List.mem_filter.mpr ⟨h, by rw [Bool.eq_false_iff.mpr hold]; rfl⟩, rfl⟩), rfl⟩

/-- A session that has accepted an RSP (R348, R349, R363). -/
def answered (s : State) (psn : BitVec 32) (x : Session) : Session :=
  { x with
    expect := x.expect + 1, nakFor := none, accepted := x.accepted + 1
    ackSince := some (x.ackSince.getD s.clock.dt), ackNow := x.ackNow || decide (16 ≤ x.accepted + 1)
    waiting := x.waiting.filter fun w => w.1 != psn }

theorem accepted_answered (h : sessGet s k = some x) (psn : BitVec 32) :
    OneSession s (sessMap (acceptPsn s k) k fun y => { y with waiting := y.waiting.filter fun w => w.1 != psn }) k x (answered s psn x) := by
  have haccept : OneSession s (acceptPsn s k) k x _ := oneSession_sessMap h rfl
  exact oneSession_trans haccept (oneSession_sessMap haccept.now rfl)

/-- An RSP in its turn. -/
theorem takeRsp_accepted (htakes : takesFrames s q.port q.iface = true) (hacc : acceptsUtx s q.port q.iface q.addr q.dport = true)
    (hhalf : requestHalf s q = some k) (h : sessGet s k = some x) (hlen : q.length ≤ x.segment)
    (hcovers : covers s k (costOf q.length) = true) (hpsn : q.psn = x.expect) :
    let t := sessMap (acceptPsn (headerTaken s q k) k) k fun y => { y with waiting := y.waiting.filter fun w => w.1 != q.reqPsn }
    exec (.rsp q) s = .next (if q.status = 0 then t
      else failAt (logEvent t 0x0503 (unitOf 8 q.session) none [q.status]) (servedBy x q.reqPsn) (codeOf q.status)) := by
  intro t
  have h' : sessGet { s with out := [] } k = some x := h
  have hjudge : judgePsn x.expect q.psn = .accept := by rw [judgePsn, if_pos hpsn]
  have hback := takeBack_judged (half := requestHalf { s with out := [] } q) (use := fun t k =>
    match sessGet { s with out := [] } k with
    | none => t
    | some x =>
      let jobs := servedBy x q.reqPsn
      match judgePsn x.expect q.psn with
      | .accept =>
        let t := sessMap (acceptPsn t k) k fun y => { y with waiting := y.waiting.filter fun w => w.1 != q.reqPsn }
        if q.status = 0 then t
        else failAt (logEvent t 0x0503 (unitOf 8 q.session) none [q.status]) jobs (codeOf q.status)
      | v => discardPsn t k v) htakes hacc hhalf h hlen
  refine congrArg Host.Outcome.next (hback.trans ((if_pos hcovers).trans ?_))
  simp only [h', hjudge]
  rfl

/-! ## NAK -/

/-- A session whose kept packets from a PSN on are to be sent again (R350). -/
def sentAgain (s : State) (psn : BitVec 32) (x : Session) : Session :=
  { x with
    kept := x.kept.map fun y => if y.sent ∧ serialGe y.psn psn then { y with resend := true } else y
    timerAt := if x.timerAt + x.rtoNs * 2 ^ 32 ≤ s.clock.dt then s.clock.dt else x.timerAt }

theorem sentAgain_kept (s : State) (psn : BitVec 32) (x : Session) :
    (∀ z ∈ (sentAgain s psn x).kept, z.sent = true → serialGe z.psn psn = true → z.resend = true)
      ∧ (sentAgain s psn x).kept.map (·.psn) = x.kept.map (·.psn) := by
  constructor
  · intro z hz hsent hge
    obtain ⟨k, -, rfl⟩ := List.mem_map.mp hz
    by_cases hk : k.sent = true ∧ serialGe k.psn psn = true
    · simp [hk]
    · rw [if_neg hk] at hsent hge
      exact absurd ⟨hsent, hge⟩ hk
  · unfold sentAgain
    rw [List.map_map]
    refine List.map_congr_left fun k _ => ?_
    dsimp only [Function.comp]
    split <;> rfl

/-- The timer of a session runs on from the last advance, but for a timeout at the same instant. -/
theorem sentAgain_timer (ack limit : BitVec 32) (x : Session) (hs : u.clock = s.clock) :
    let y := sentAgain u ack (credited limit (released s ack x))
    y.timerAt = if y.kept.length ≠ x.kept.length ∨ x.timerAt + x.rtoNs * 2 ^ 32 ≤ s.clock.dt then s.clock.dt else x.timerAt := by
  intro y
  have hlen : y.kept.length = (released s ack x).kept.length := List.length_map _
  have htimer : y.timerAt = if (released s ack x).timerAt + (released s ack x).rtoNs * 2 ^ 32 ≤ s.clock.dt then s.clock.dt
      else (released s ack x).timerAt := by
    rw [← hs]
    rfl
  rw [htimer, hlen]
  rcases released_cases s ack x with ⟨h, -⟩ | ⟨w, h, -, hshort⟩
  · rw [h]
    simp
  · rw [h]
    dsimp only
    rw [ite_self, if_pos (Or.inl hshort)]

/-- Settles O46. -/
theorem answersAndAcknowledgementsAreTaken : Obligations.AnswersAndAcknowledgementsAreTaken := by
  unfold Obligations.AnswersAndAcknowledgementsAreTaken
  intro s q k x hc htakes hacc h hlen
  obtain ⟨v, hv⟩ : ∃ v, v = countRx { s with out := [] } q.port := ⟨_, rfl⟩
  have hclock : v.clock = s.clock := by
    rw [hv]
    rfl
  obtain ⟨y, hy⟩ : ∃ y, y = credited q.creditLimit (released v q.ackPsn x) := ⟨_, rfl⟩
  have hone : OneSession v (headerTaken s q k) k x y := by
    rw [hy, hv]
    exact headerTaken_spec h
  have hheader : SessionWork s (headerTaken s q k) k y [oEth q.port + 0x30] := by
    rw [hv] at hone
    exact sessionWork_received hone
  have hacked : Acked x y q.ackPsn q.creditLimit := by
    rw [hy]
    exact acked_credited v q.ackPsn q.creditLimit x
  have hexpect : y.expect = x.expect := by
    rw [hy]
    exact (credited_released v q.ackPsn q.creditLimit x).1
  have hregs : swf resetWord (countRx { s with out := [] } q.port).regs = true := swf_regSet hc.regs _ _
  refine ⟨fun hshort c hcase => ?_, fun hcovers => ⟨fun hhalf => ?_, fun hhalf hpsn => ?_⟩⟩
  · have hdropped {half : Option Nat} (hhalf : half = some k) (use : State → Nat → State) :
        takeBack { s with out := [] } q half use = regCount (countRx { s with out := [] } q.port) oUtxDrops 31 16 1 :=
      (takeBack_judged htakes hacc hhalf h hlen).trans (if_neg (by simp [hshort]))
    have hexec : exec c s = .next (regCount (countRx { s with out := [] } q.port) oUtxDrops 31 16 1) := by
      rcases hcase with ⟨hhalf, rfl | rfl⟩ | ⟨hhalf, rfl⟩
      · exact congrArg Host.Outcome.next (hdropped (half := backHalf { s with out := [] } q) hhalf _)
      · exact congrArg Host.Outcome.next (hdropped (half := backHalf { s with out := [] } q) hhalf _)
      · exact congrArg Host.Outcome.next (hdropped (half := requestHalf { s with out := [] } q) hhalf _)
    have hcounted := regsBut_countRx { s with out := [] } q.port (List.mem_cons_self (l := [oUtxDrops]))
    refine ⟨_, hexec, ?_, regsBut_trans hcounted (regsBut_regCount _ _ _ _ _ (by simp)), rfl⟩
    rw [regF_regCount_same hregs _ _ (by decide) (by decide), regF,
      regsBut_countRx { s with out := [] } q.port (List.mem_singleton.mpr rfl) _ (by simpa using utxDrops_ne q.port)]
    rfl
  · have hused (use : State → Nat → State) : takeBack { s with out := [] } q (backHalf { s with out := [] } q) use = use (headerTaken s q k) k :=
      (takeBack_judged htakes hacc hhalf h hlen).trans (if_pos hcovers)
    refine ⟨⟨_, y, congrArg Host.Outcome.next (hused _), hheader.now, hacked, hheader.other, hheader.regs, hheader.frame⟩, ?_⟩
    have hcount := sessionWork_count hheader oUtxRetx 15 0 1
    have hagain := sessionWork_then hcount (oneSession_sessMap (f := sentAgain (regCount (headerTaken s q k) oUtxRetx 15 0 1) q.ackPsn)
      hcount.now rfl)
    obtain ⟨hresend, hpsns⟩ := sentAgain_kept (regCount (headerTaken s q k) oUtxRetx 15 0 1) q.ackPsn y
    refine ⟨_, _, congrArg Host.Outcome.next (hused _), hagain.now, ?_, hresend, ?_, ?_, hagain.other, hagain.regs, hagain.frame⟩
    · exact ⟨hpsns.trans hacked.1, hacked.2⟩
    · have htimer := sentAgain_timer (u := regCount (headerTaken s q k) oUtxRetx 15 0 1) (s := v) q.ackPsn q.creditLimit x
        (by rw [hone.frame]; rfl)
      rw [← hy, hclock] at htimer
      exact htimer
    · have hregs' : (headerTaken s q k).regs = v.regs := by rw [hone.frame]
      have hwf : swf resetWord (headerTaken s q k).regs = true := by
        rw [hregs', hv]
        exact hregs
      rw [sessMap_some hcount.now]
      refine (regF_regCount_same hwf oUtxRetx 1 (by decide) (by decide)).trans ?_
      rw [regF, hheader.regs _ (by simpa using utxRetx_ne q.port)]
      rfl
  · have hexec := takeRsp_accepted htakes hacc hhalf h hlen hcovers hpsn
    have hdone := sessionWork_then hheader (accepted_answered hheader.now q.reqPsn)
    generalize (sessMap (acceptPsn (headerTaken s q k) k) k fun y => { y with waiting := y.waiting.filter fun w => w.1 != q.reqPsn }) = t
      at hexec hdone
    dsimp only at hexec
    have hstands : Acked x (answered (headerTaken s q k) q.reqPsn y) q.ackPsn q.creditLimit := hacked
    have hnext : (answered (headerTaken s q k) q.reqPsn y).expect = x.expect + 1 := congrArg (· + 1) hexpect
    have hwaiting : ∀ w ∈ (answered (headerTaken s q k) q.reqPsn y).waiting, w.1 ≠ q.reqPsn := fun w hw => by
      simpa using (List.mem_filter.mp hw).2
    by_cases hok : q.status = 0
    · rw [if_pos hok] at hexec
      refine ⟨t, _, hexec, hdone.now, hstands, hnext, hwaiting, hdone.other, hdone.regs, ?_⟩
      rw [if_pos hok]
      exact hdone.frame
    · rw [if_neg hok] at hexec
      refine ⟨_, _, hexec, hdone.now, hstands, hnext, hwaiting, hdone.other, hdone.regs, ?_⟩
      rw [if_neg hok]
      refine ⟨rfl, fun j hj => mem_failAt hj, ?_⟩
      rw [hdone.frame]
      rfl

end Sys2Proof.Machine

/-! O45: requests that change no memory (R33, R336, R342, R344, R348, R356). -/

namespace Sys2Proof.Machine

open Sys2Proof Sys2Proof.Terms

variable {s t u : State} {port : Nat} {x y : Session} {q : UtxReq} {op : RmoOp}

/-! ## A request that reaches its session -/

theorem exec_rmoRow (s : State) (op : RmoOp) (q : UtxReq) : exec (rmoRow op q) s = .next (takeReq op q [] { s with out := [] }) := by
  cases op <;> rfl

/-- The session of a request is open, at the other end. -/
theorem sessGet_of_reqSession (h : reqSession s q = some x) : sessGet s q.session = some x := by
  unfold reqSession at h
  split at h
  · exact (Option.filter_eq_some_iff.mp h).1
  · cases h

/-- A request on an interface that takes UTX (R342, R356). -/
theorem takeReq_received (htakes : takesFrames s q.port q.iface = true) (hacc : acceptsUtx s q.port q.iface q.addr q.dport = true)
    (hsess : reqSession s q = some x) :
    takeReq op q [] { s with out := [] }
      = if x.segment < payloadOf op q then countRx { s with out := [] } q.port
        else if x.window < x.held + costOf q.length then regCount (countRx { s with out := [] } q.port) oUtxDrops 31 16 1
        else
          let t := takeAck (countRx { s with out := [] } q.port) q.session q.ackPsn
          match judgePsn x.expect q.psn with
          | .accept =>
            startReq (sessMap (acceptPsn t q.session) q.session fun y => { y with held := y.held + costOf q.length }) q op x []
          | v => discardPsn t q.session v := by
  have htakes' : takesFrames { s with out := [] } q.port q.iface = true := htakes
  have hacc' : acceptsUtx { s with out := [] } q.port q.iface q.addr q.dport = true := hacc
  have hsess' : reqSession { s with out := [] } q = some x := hsess
  unfold takeReq receiveReq takeUtx
  simp only [htakes', hacc', hsess', Bool.not_true, Bool.false_eq_true, if_false] <;> rfl

theorem takeAck_header (h : sessGet s q.session = some x) :
    OneSession (countRx { s with out := [] } q.port) (takeAck (countRx { s with out := [] } q.port) q.session q.ackPsn) q.session x
      (released (countRx { s with out := [] } q.port) q.ackPsn x) := by
  have hclosed : (released (countRx { s with out := [] } q.port) q.ackPsn x).closed = x.closed :=
    (credited_released (countRx { s with out := [] } q.port) q.ackPsn 0 x).2
  exact oneSession_sessMap h hclosed

/-- An acknowledgement leaves what the discards of R348 and the window's charge look at. -/
theorem released_rest (s : State) (ack : BitVec 32) (x : Session) :
    (released s ack x).expect = x.expect ∧ (released s ack x).held = x.held ∧ (released s ack x).nakFor = x.nakFor
      ∧ (released s ack x).naks = x.naks ∧ (released s ack x).dups = x.dups ∧ (released s ack x).nextPsn = x.nextPsn
      ∧ (released s ack x).window = x.window ∧ (released s ack x).grant = x.grant ∧ (released s ack x).segment = x.segment := by
  rcases released_cases s ack x with ⟨h, -⟩ | ⟨w, h, -⟩
  · rw [h]
    exact ⟨rfl, rfl, rfl, rfl, rfl, rfl, rfl, rfl, rfl⟩
  · rw [h]
    exact ⟨rfl, rfl, rfl, rfl, rfl, rfl, rfl, rfl, rfl⟩

/-- A session that has accepted a request of so many slots (R348, R356). -/
def charged (s : State) (cost : Nat) (x : Session) : Session :=
  { x with
    expect := x.expect + 1, nakFor := none, accepted := x.accepted + 1
    ackSince := some (x.ackSince.getD s.clock.dt), ackNow := x.ackNow || decide (16 ≤ x.accepted + 1)
    held := x.held + cost }

/-- A state once its session has accepted a request. -/
def requestTaken (s : State) (q : UtxReq) : State :=
  sessMap (acceptPsn (takeAck (countRx { s with out := [] } q.port) q.session q.ackPsn) q.session) q.session
    fun y => { y with held := y.held + costOf q.length }

/-- The session of a request that has been accepted. -/
def requester (s : State) (q : UtxReq) (x : Session) : Session :=
  charged (takeAck (countRx { s with out := [] } q.port) q.session q.ackPsn) (costOf q.length)
    (released (countRx { s with out := [] } q.port) q.ackPsn x)

theorem requestTaken_one (h : sessGet s q.session = some x) :
    OneSession (countRx { s with out := [] } q.port) (requestTaken s q) q.session x (requester s q x) := by
  have hack := takeAck_header (q := q) h
  have haccept : OneSession _ (acceptPsn (takeAck (countRx { s with out := [] } q.port) q.session q.ackPsn) q.session) q.session _ _ :=
    oneSession_sessMap hack.now rfl
  exact oneSession_trans (oneSession_trans hack haccept) (oneSession_sessMap haccept.now rfl)

/-- A request in its turn is accepted. -/
theorem exec_request (h : Terms.Arrives s q x op) (hpsn : q.psn = x.expect) :
    exec (rmoRow op q) s = .next (startReq (requestTaken s q) q op x []) := by
  have hjudge : judgePsn x.expect q.psn = .accept := by rw [judgePsn, if_pos hpsn]
  rw [exec_rmoRow, takeReq_received h.taken h.port h.session, if_neg (Nat.not_lt.mpr h.size), if_neg (Nat.not_lt.mpr h.window), hjudge]
  rfl

/-! ## What an access is judged by -/

/-- Two states that differ in sessions, outputs and the registers of the ports only. -/
structure SameMap (s t : State) : Prop where
  was : swf resetWord s.regs = true
  now : swf resetWord t.regs = true
  regs : ∀ a, a < 0x40000 ∨ 0x60000 ≤ a → regGet t a = regGet s a
  frame : t = { s with out := t.out, regs := t.regs, sessions := t.sessions }

variable {cls : Cls} {n : Nat}

theorem protPerms_sameMap (h : SameMap s t) (lin : Nat) : protPerms t n lin = protPerms s n lin := by
  have hword (i : Nat) (hi : i < 256) (k : Nat) (hk : k < 0x20) : regGet t (oProt i + k) = regGet s (oProt i + k) := by
    refine h.regs _ (.inl ?_)
    unfold oProt
    omega
  have hqualifies (i : Nat) (hi : i < 256) : Qualifies t i n lin ↔ Qualifies s i n lin := by
    have h0 := hword i hi 0 (by decide)
    rw [Nat.add_zero] at h0
    simp only [Qualifies, regF, h0, hword i hi _ (show 4 < 0x20 by decide), hword i hi _ (show 8 < 0x20 by decide),
      hword i hi _ (show 0xC < 0x20 by decide), hword i hi _ (show 0x10 < 0x20 by decide)]
  have hdefault : regF t oProtCtrl 7 0 = regF s oProtCtrl 7 0 := congrArg (getF · 7 0) (h.regs _ (.inl (by decide)))
  refine (protPerms_iff h.was _).mp ?_
  rcases (protPerms_iff h.now (protPerms t n lin)).mpr rfl with ⟨i, hi, hq, hno, hp⟩ | ⟨hno, hp⟩
  · refine .inl ⟨i, hi, (hqualifies i hi).mp hq, fun j hj hjq => hno j hj ((hqualifies j (hj.trans hi)).mpr hjq), hp.trans ?_⟩
    exact congrArg (getF · 7 0) (hword i hi _ (by decide))
  · exact .inr ⟨fun i hi hq => hno i hi ((hqualifies i hi).mpr hq), hp.trans hdefault⟩

theorem engineFenced_sameMap (h : SameMap s t) (e : Nat) : engineFenced t e = engineFenced s e := by
  refine congrArg (getF · 31 31 == 1) (h.regs _ (.inr ?_))
  unfold oEng
  omega

theorem implemented_sameMap (h : SameMap s t) (a : Nat) : implemented t a = implemented s a := by
  have hretired (lin : Nat) : isRetired t lin = isRetired s lin := by
    rw [h.frame]
    rfl
  simp only [implemented, hretired, engineFenced_sameMap h]

theorem privCheck_sameMap (h : SameMap s t) (op : RmoOp) (a len : Nat) : privCheck t cls n op a len = privCheck s cls n op a len := by
  have himage : inImage t = inImage s := by
    rw [h.frame]
    rfl
  have hwork : inWorkMemory t = inWorkMemory s := by
    rw [h.frame]
    rfl
  have hallows (lins : List Nat) (r w : Bool) : protAllows t cls n lins r w = protAllows s cls n lins r w := by
    simp only [protAllows, protBit, protPerms_sameMap h]
  simp only [privCheck, himage, hwork, hallows]

theorem rmoRefusal_sameMap (h : SameMap s t) (segment : Nat) (op : RmoOp) (address : BitVec 64) (len : Nat) :
    rmoRefusal t cls n segment op address len = rmoRefusal s cls n segment op address len := by
  have hhere : isHere t address = isHere s address := by
    rw [h.frame]
    rfl
  have hpower : t.power = s.power := by rw [h.frame]
  simp only [rmoRefusal, hhere, hpower, implemented_sameMap h, privCheck_sameMap h]

/-- An accepted request leaves what an access is judged by. -/
theorem requestTaken_sameMap (hc : Canonical s) (hport : q.port < 2) (h : sessGet s q.session = some x) : SameMap s (requestTaken s q) := by
  have hone := requestTaken_one (q := q) h
  have hregs : (requestTaken s q).regs = (countRx { s with out := [] } q.port).regs := by rw [hone.frame]
  refine ⟨hc.regs, ?_, fun a ha => ?_, ?_⟩
  · rw [hregs]
    exact swf_regSet hc.regs _ _
  · rw [regGet_congr hregs]
    refine regGet_regWrap_other { s with out := [] } 31 0 1 ?_
    unfold oEth
    omega
  · rw [hone.frame]
    rfl

/-- An access to an engine window that nothing refuses, by a session that is not a peer's, waits (R33). -/
theorem waitsForBoundary_window (hop : op ≠ .fence) (hwindow : isWindow (localOf q.address) = true) (hhere : isHere s q.address = true)
    (hphase : s.power.phase ≠ .standby) (hcls : x.cls ≠ .peer)
    (hrefusal : rmoRefusal s x.cls q.session x.segment op q.address q.length = none) :
    waitsForBoundary s q op x.cls x.segment = true := by
  have hpeer : (x.cls == .peer) = false := by simpa using hcls
  unfold waitsForBoundary
  simp [hop, hwindow, hhere, hphase, hpeer, hrefusal]

/-- A request that is ahead of the PSN expected, or behind it (R348). -/
def discarded (ahead : Bool) (x : Session) : Session :=
  if ahead then (if x.nakFor = some x.expect then x else { x with nakFor := some x.expect, naks := x.naks ++ [x.expect] })
  else { x with dups := x.dups + 1 }

theorem discarded_rest (ahead : Bool) (x : Session) :
    (discarded ahead x).expect = x.expect ∧ (discarded ahead x).held = x.held ∧ (discarded ahead x).closed = x.closed := by
  unfold discarded
  split
  · split
    · exact ⟨rfl, rfl, rfl⟩
    · exact ⟨rfl, rfl, rfl⟩
  · exact ⟨rfl, rfl, rfl⟩

/-- What a discard leaves of the acknowledgements due. -/
theorem discarded_due (ahead : Bool) (x : Session) :
    if ahead = true then (discarded ahead x).nakFor = some x.expect ∧ (discarded ahead x).dups = x.dups
        ∧ (discarded ahead x).naks = (if x.nakFor = some x.expect then x.naks else x.naks ++ [x.expect])
      else (discarded ahead x).dups = x.dups + 1 ∧ (discarded ahead x).naks = x.naks ∧ (discarded ahead x).nakFor = x.nakFor := by
  cases ahead with
  | true =>
    by_cases h : x.nakFor = some x.expect
    · simp [discarded, h]
    · simp [discarded, h]
  | false => exact ⟨rfl, rfl, rfl⟩

/-- A request out of turn is discarded. -/
theorem exec_discarded (h : Terms.Arrives s q x op) (hpsn : q.psn ≠ x.expect) :
    exec (rmoRow op q) s = .next (regCount (sessMap (takeAck (countRx { s with out := [] } q.port) q.session q.ackPsn) q.session
      (discarded (serialGt q.psn x.expect))) oUtxDrops 15 0 1) := by
  rw [exec_rmoRow, takeReq_received h.taken h.port h.session, if_neg (Nat.not_lt.mpr h.size), if_neg (Nat.not_lt.mpr h.window), judgePsn,
    if_neg hpsn]
  cases serialGt q.psn x.expect <;> rfl

theorem port_of_takesFrames {iface : Nat} (h : takesFrames s port iface = true) : port < 2 := by
  unfold takesFrames at h
  simp only [Bool.and_eq_true, decide_eq_true_eq] at h
  exact h.1.2

/-- Settles O45, a row at a time. -/
theorem requestsOutOfTurnChangeNoMemory : Obligations.RequestsOutOfTurnChangeNoMemory := by
  unfold Obligations.RequestsOutOfTurnChangeNoMemory
  intro s q x op
  have hreceived := regsBut_countRx { s with out := [] } q.port (List.mem_singleton.mpr rfl)
  refine ⟨fun h hpsn hop hwindow hhere hphase hcls hrefusal => ?_, fun h hpsn => ?_, fun hc htakes hacc => ?_,
    fun hc htakes hacc hsess hsize => ?_, fun hc htakes hacc hsess hsize hover => ?_⟩
  · have hopen := sessGet_of_reqSession h.session
    have hone := requestTaken_one (q := q) hopen
    have hwork := sessionWork_received hone
    have hmap := requestTaken_sameMap h.canon (port_of_takesFrames h.taken) hopen
    have hwaits : waitsForBoundary (requestTaken s q) q op x.cls x.segment = true := by
      refine waitsForBoundary_window hop hwindow ?_ ?_ hcls ?_
      · rw [hwork.frame]
        exact hhere
      · rw [hwork.frame]
        exact hphase
      · rw [rmoRefusal_sameMap hmap]
        exact hrefusal
    have hstart : startReq (requestTaken s q) q op x [] = { requestTaken s q with deferred := (requestTaken s q).deferred
        ++ [{ q := q, op := rmoByte op, cls := x.cls, cost := costOf q.length, ecc := [] }] } := by
      rw [startReq, if_pos hwaits]
    have hdeferred : (requestTaken s q).deferred = s.deferred := by rw [hwork.frame]
    obtain ⟨hexpect, hheld, -⟩ := released_rest (countRx { s with out := [] } q.port) q.ackPsn x
    refine ⟨_, _, _, (exec_request h hpsn).trans (congrArg Host.Outcome.next hstart), by rw [hdeferred], rfl, rfl, rfl, hwork.now,
      congrArg (· + costOf q.length) hheld, congrArg (· + 1) hexpect, hwork.other, ?_⟩
    rw [hwork.frame]
  · have hack := takeAck_header (q := q) (sessGet_of_reqSession h.session)
    obtain ⟨hexpect, hheld, hnakFor, hnaks, hdups, -⟩ := released_rest (countRx { s with out := [] } q.port) q.ackPsn x
    obtain ⟨z, hz⟩ : ∃ z, z = released (countRx { s with out := [] } q.port) q.ackPsn x := ⟨_, rfl⟩
    rw [← hz] at hack hexpect hheld hnakFor hnaks hdups
    obtain ⟨hexpect', hheld', hclosed'⟩ := discarded_rest (serialGt q.psn x.expect) z
    have hgone := oneSession_trans hack (oneSession_sessMap hack.now hclosed')
    have hwork := sessionWork_count (sessionWork_received hgone) oUtxDrops 15 0 1
    have hdue := discarded_due (serialGt q.psn x.expect) z
    rw [hexpect, hnakFor, hnaks, hdups] at hdue
    refine ⟨_, _, exec_discarded h hpsn, hwork.now, hexpect'.trans hexpect, hheld'.trans hheld, hdue, ?_, hwork.other, hwork.regs, hwork.frame⟩
    have hregs := congrArg State.regs hgone.frame
    refine (regF_regCount_same (by rw [hregs]; exact swf_regSet h.canon.regs _ _) oUtxDrops 1 (by decide) (by decide)).trans ?_
    have hdrops : regGet (countRx { s with out := [] } q.port) oUtxDrops = regGet s oUtxDrops :=
      hreceived oUtxDrops (by simpa using utxDrops_ne q.port)
    rw [regF, (regGet_congr hregs oUtxDrops).trans hdrops]
    rfl
  · have hfiltered : takeReq op q [] { s with out := [] } = filterFrame { s with out := [] } q.port := by
      have htakes' : takesFrames { s with out := [] } q.port q.iface = true := htakes
      have hacc' : acceptsUtx { s with out := [] } q.port q.iface q.addr q.dport = false := hacc
      unfold takeReq receiveReq takeUtx
      simp only [htakes', hacc', Bool.not_true, Bool.not_false, Bool.false_eq_true, if_false, if_true]
    obtain ⟨hcount, hbut, hframe⟩ := filterFrame_counts hc q.port
    exact ⟨_, by rw [exec_rmoRow, hfiltered], hcount, hbut, hframe⟩
  · exact ⟨_, by rw [exec_rmoRow, takeReq_received htakes hacc hsess, if_pos hsize], hreceived, rfl⟩
  · refine ⟨_, by rw [exec_rmoRow, takeReq_received htakes hacc hsess, if_neg (Nat.not_lt.mpr hsize), if_pos hover], ?_,
      regsBut_trans (regsBut_mono hreceived (by simp)) (regsBut_regCount _ _ _ _ _ (by simp)), rfl⟩
    have hwf : swf resetWord (countRx { s with out := [] } q.port).regs = true := swf_regSet hc.regs _ _
    rw [regF_regCount_same hwf _ _ (by decide) (by decide), regF,
      hreceived oUtxDrops (by simpa using utxDrops_ne q.port)]
    rfl

end Sys2Proof.Machine

/-! O44: the requests on stack memory and their answers (R344 to R351, R359). -/

namespace Sys2Proof.Machine

open Sys2Proof Sys2Proof.Terms

variable {s t u : State} {x y z : Session} {q : UtxReq} {op : RmoOp} {a len : Nat} {payload : Bytes}

/-! ## What a request does to stack memory -/

/-- Memory with no word in error. -/
structure Clean (s : State) : Prop where
  form : Memory.wf s.mem = true
  poison : s.poison = []
  soft : s.soft = []

theorem memRead_clean (h : Clean s) (a n : Nat) : memRead s a n [] = (.ok, spanRead s a n, s) := by
  unfold memRead
  simp only [eccScan_nil h.soft, anyPoison_clean h.poison, Bool.false_eq_true, if_false]
  rfl

theorem memWrite_clean (h : Clean s) (a : Nat) (b : Bytes) :
    memWrite s a b []
      = (.ok, { spanWrite s a b with taint := s.taint.filter fun w => !(spanLinear a b.length).contains w }) := by
  have hpartial (l : List Nat) : partialPoison s l = false := by
    rw [partialPoison, h.poison]
    rfl
  have hclear (l : List Nat) : poisonClear (spanWrite s a b) l = spanWrite s a b := by
    have hsoft : (spanWrite s a b).soft = [] := h.soft
    have hpoison : (spanWrite s a b).poison = [] := h.poison
    unfold poisonClear
    rw [softClear_clean hsoft]
    exact if_pos (by rw [hpoison]; rfl)
  unfold memWrite
  simp only [eccScan_nil h.soft, hpartial, hclear, Bool.false_eq_true, if_false]
  rfl

theorem memAdd_clean (h : Clean s) (a : Nat) (b : Bytes) :
    memAdd s a b []
      = (.ok, spanRead s a b.length, spanWrite s a (toLE (leNat (spanRead s a b.length) + leNat b) b.length)) := by
  unfold memAdd
  simp only [eccScan_nil h.soft, anyPoison_clean h.poison, Bool.false_eq_true, if_false]
  rfl

theorem memCas_clean (h : Clean s) (a : Nat) (b : Bytes) :
    memCas s a b [] = (.ok, spanRead s a (b.length / 2),
      if spanRead s a (b.length / 2) = b.take (b.length / 2) then spanWrite s a (b.drop (b.length / 2)) else s) := by
  unfold memCas
  simp only [eccScan_nil h.soft, anyPoison_clean h.poison, Bool.false_eq_true, if_false]
  rfl

/-- A region of stack memory. -/
theorem regionOf_stack (h : isStack a = true) : regionOf a = .linear ∨ regionOf a = .interleaved := by
  have hlow : a < 0x20000000000 := by simpa [isStack] using h
  unfold regionOf
  by_cases h1 : a < 0x10000000000
  · exact .inl (if_pos h1)
  · exact .inr ((if_neg h1).trans (if_pos hlow))

/-- What a request on clean stack memory answers, and its effect. -/
def stackEffect (s : State) (op : RmoOp) (a : Nat) (data : Bytes) : Bytes × State :=
  match op with
  | .read => (spanRead s a data.length, s)
  | .write => ([], { spanWrite s a data with taint := s.taint.filter fun w => !(spanLinear a data.length).contains w })
  | .fetchAdd => (spanRead s a data.length, spanWrite s a (toLE (leNat (spanRead s a data.length) + leNat data) data.length))
  | .atomicAdd => ([], spanWrite s a (toLE (leNat (spanRead s a data.length) + leNat data) data.length))
  | .cas => (spanRead s a (data.length / 2),
      if spanRead s a (data.length / 2) = data.take (data.length / 2) then spanWrite s a (data.drop (data.length / 2)) else s)
  | .fence => ([], s)

@[simp] theorem length_fit (n : Nat) (b : Bytes) : (fit n b).length = n := by
  rw [fit, List.length_take, List.length_append, List.length_replicate]
  omega

theorem rmoEffect_stack {cls : Cls} {n : Nat} (h : Clean s) (hflit : n ∉ s.flitReads) (hstack : isStack a = true) :
    rmoEffect s cls n op a len payload [] = (.ok, stackEffect s op a (fit len payload)) := by
  have hflit' : s.flitReads.contains n = false := by simpa using hflit
  have hlen : (fit len payload).length = len := length_fit len payload
  unfold rmoEffect
  rcases regionOf_stack hstack with hregion | hregion
  all_goals
    rw [hregion]
    cases op with
    | read => simp only [hflit', memRead_clean h, Bool.false_eq_true, if_false, stackEffect, hlen]
    | write => simp only [memWrite_clean h, stackEffect]
    | fetchAdd => simp only [memAdd_clean h, stackEffect]
    | atomicAdd => simp only [memAdd_clean h, stackEffect]
    | cas => simp only [memCas_clean h, stackEffect]
    | fence => rfl

/-- A write of a span is read back, and leaves the bytes outside the span. -/
theorem holds_spanWrite {b : Bytes} (h : Clean s) (hn : (spanLinear a b.length).Nodup) :
    Holds (spanWrite s a b) a b ∧ MemBut s (spanWrite s a b) (spanLinear a b.length) := by
  refine ⟨spanRead_spanWrite h.form a b hn, fun c hc => byteAt_spanWrite_other s fun i hi heq => hc ?_⟩
  exact List.mem_map.mpr ⟨i, List.mem_range.mpr hi, heq⟩

theorem stackEffect_frame (s : State) (op : RmoOp) (a : Nat) (data : Bytes) :
    (stackEffect s op a data).2 = { s with mem := (stackEffect s op a data).2.mem, taint := (stackEffect s op a data).2.taint } := by
  cases op with
  | cas =>
    unfold stackEffect
    dsimp only
    split <;> rfl
  | _ => rfl

/-- The effect on memory, of the operand's width. -/
theorem stackEffect_mem {data : Bytes} {n : Nat} (h : Clean s) (hlen : n = touched op data.length) (hnodup : (spanLinear a n).Nodup)
    (hcas : op = .cas → data.length % 2 = 0) :
    (match op with
      | .read | .fence => (stackEffect s op a data).2.mem = s.mem
      | .write => Holds (stackEffect s op a data).2 a data
      | .fetchAdd | .atomicAdd => Holds (stackEffect s op a data).2 a (toLE (leNat (spanRead s a n) + leNat data) n)
      | .cas => Holds (stackEffect s op a data).2 a (if spanRead s a n = data.take n then data.drop n else spanRead s a n))
    ∧ MemBut s (stackEffect s op a data).2 (spanLinear a n) := by
  subst hlen
  cases op with
  | read => exact ⟨rfl, fun _ _ => rfl⟩
  | fence => exact ⟨rfl, fun _ _ => rfl⟩
  | write => exact holds_spanWrite h hnodup
  | fetchAdd =>
    have hspan : (toLE (leNat (spanRead s a data.length) + leNat data) data.length).length = data.length := length_toLE _ _
    have hput := holds_spanWrite (b := toLE (leNat (spanRead s a data.length) + leNat data) data.length) h (by rw [hspan]; exact hnodup)
    rw [hspan] at hput
    exact hput
  | atomicAdd =>
    have hspan : (toLE (leNat (spanRead s a data.length) + leNat data) data.length).length = data.length := length_toLE _ _
    have hput := holds_spanWrite (b := toLE (leNat (spanRead s a data.length) + leNat data) data.length) h (by rw [hspan]; exact hnodup)
    rw [hspan] at hput
    exact hput
  | cas =>
    have heven := hcas rfl
    have hhalf : (data.drop (data.length / 2)).length = data.length / 2 := by
      rw [List.length_drop]
      omega
    have hput := holds_spanWrite (b := data.drop (data.length / 2)) h (by rw [hhalf]; exact hnodup)
    rw [hhalf] at hput
    by_cases hequal : spanRead s a (data.length / 2) = data.take (data.length / 2)
    · have hset : (stackEffect s .cas a data).2 = spanWrite s a (data.drop (data.length / 2)) := if_pos hequal
      rw [hset]
      refine ⟨?_, hput.2⟩
      show Holds _ a (if spanRead s a (data.length / 2) = data.take (data.length / 2) then data.drop (data.length / 2)
        else spanRead s a (data.length / 2))
      rw [if_pos hequal]
      exact hput.1
    · have hset : (stackEffect s .cas a data).2 = s := if_neg hequal
      rw [hset]
      refine ⟨?_, fun _ _ => rfl⟩
      show Holds _ a (if spanRead s a (data.length / 2) = data.take (data.length / 2) then data.drop (data.length / 2)
        else spanRead s a (data.length / 2))
      rw [if_neg hequal, Holds, spanRead_length]

/-! ## The answer -/

theorem releaseSlots_open {n cost : Nat} (h : sessGet s n = some x) :
    releaseSlots s n cost = sessMap s n fun x => { x with
      held := x.held - cost, grant := x.grant + BitVec.ofNat 32 cost
      ackSince := if x.ackSince.isSome then x.ackSince else some s.clock.dt
      ackNow := x.ackNow || decide (x.window ≤ 4 * (x.grant + BitVec.ofNat 32 cost - x.grantSent).toNat) } := by
  have hfind := (Option.filter_eq_some_iff.mp h).1
  rw [sessMap_some h]
  simp only [releaseSlots, hfind, not_closed h, Bool.false_eq_true, false_and, if_false]

/-- The session of a request that has been answered. -/
theorem sendRsp_answers {n cost : Nat} {byte : Byte} {psn : BitVec 32} {code : Code} {data : Bytes} (h : sessGet s n = some x) :
    ∃ y k, OneSession s (sendRsp (releaseSlots s n cost) n byte psn code data) n x y
      ∧ y.kept.getLast? = some k ∧ k.isReq = false ∧ k.op = byte ∧ k.status = code ∧ k.reqPsn = psn
      ∧ k.payload = (if code = .ok then data else []) ∧ k.psn = x.nextPsn ∧ k.sent = false ∧ y.nextPsn = x.nextPsn + 1
      ∧ y.expect = x.expect ∧ y.held = x.held - cost ∧ y.window = x.window ∧ y.grant = x.grant + BitVec.ofNat 32 cost := by
  rw [releaseSlots_open h]
  have hfreed := oneSession_sessMap (f := fun x => { x with
      held := x.held - cost, grant := x.grant + BitVec.ofNat 32 cost
      ackSince := if x.ackSince.isSome then x.ackSince else some s.clock.dt
      ackNow := x.ackNow || decide (x.window ≤ 4 * (x.grant + BitVec.ofNat 32 cost - x.grantSent).toNat) }) h rfl
  rw [sendRsp_open hfreed.now]
  refine ⟨_, _, oneSession_trans hfreed (oneSession_sessMap hfreed.now rfl), List.getLast?_concat, rfl, rfl, rfl, rfl, rfl, rfl, rfl, rfl,
    rfl, rfl, rfl, rfl⟩

/-! ## A request in its turn -/

/-- A request on stack memory does not wait. -/
theorem waitsForBoundary_stack {cls : Cls} {segment : Nat} (hstack : isStack (localOf q.address) = true)
    (hmine : ∀ d ∈ s.deferred, d.q.session ≠ q.session) (hfence : op = .fence → commandWaits s q.session = false) :
    waitsForBoundary s q op cls segment = false := by
  have hnone : (s.deferred.filter fun d => d.q.session == q.session) = [] := by
    rw [List.filter_eq_nil_iff]
    intro d hd
    simpa using hmine d hd
  have hwindow : isWindow (localOf q.address) = false := by
    unfold isWindow
    rcases regionOf_stack hstack with h | h <;> rw [h]
  unfold waitsForBoundary
  rw [hnone]
  by_cases hop : op = .fence
  · simp [hop, hfence hop]
  · simp [hop, hwindow]

theorem isCommand_stack (hstack : isStack (localOf q.address) = true) (byte : Byte) : isCommand byte q.address = false := by
  unfold isCommand
  rcases regionOf_stack hstack with h | h <;> rw [h] <;> exact Bool.and_false _

theorem peerArrival_stack {n len : Nat} (hstack : isStack (localOf q.address) = true) (byte : Byte) :
    peerArrival s n byte q.address len = s := by
  unfold peerArrival
  rcases regionOf_stack hstack with h | h <;> simp only [h]

/-- No refusal answers OK. -/
theorem rmoRefusal_ne_ok {cls : Cls} {n segment : Nat} {address : BitVec 64} {c : Code}
    (h : rmoRefusal s cls n segment op address len = some c) : c ≠ .ok := by
  unfold rmoRefusal at h
  dsimp only at h
  repeat' split at h
  all_goals cases h
  all_goals decide

/-- A CAS that is not refused has two operands of one width (R345). -/
theorem even_of_cas {cls : Cls} {n segment : Nat} {address : BitVec 64} (h : rmoRefusal s cls n segment .cas address len = none) :
    len % 2 = 0 := by
  have hlen : lengthOk .cas (localOf address) len segment = true := by
    by_contra hno
    unfold rmoRefusal at h
    dsimp only at h
    rw [if_neg (by decide)] at h
    split at h
    · cases h
    · rw [if_pos (by simpa using hno)] at h
      cases h
  simp only [lengthOk, Bool.or_eq_true, beq_iff_eq] at hlen
  omega

/-- What a request on stack memory leaves before its answer, and the answer: its status and its payload. -/
def requestDone (s : State) (q : UtxReq) (op : RmoOp) : Option Code → Code × Bytes × State
  | some c => (c, [], s)
  | none => (.ok, stackEffect s op (localOf q.address) (fit q.length q.payload))

/-- A request on stack memory that does not wait takes effect, or is refused, and is answered. -/
theorem startReq_stack {ecc : List EccFind} (hopen : sessGet s q.session = some z) (hsegment : z.segment = x.segment) (h : Clean s)
    (hflit : q.session ∉ s.flitReads) (hstack : isStack (localOf q.address) = true) (hmine : ∀ d ∈ s.deferred, d.q.session ≠ q.session)
    (hfence : op = .fence → commandWaits s q.session = false) (hecc : ecc = []) :
    let done := requestDone s q op (rmoRefusal s x.cls q.session x.segment op q.address q.length)
    startReq s q op x ecc = sendRsp (releaseSlots done.2.2 q.session (costOf q.length)) q.session (rmoByte op) q.psn done.1 done.2.1 := by
  intro done
  subst hecc
  have hfind := (Option.filter_eq_some_iff.mp hopen).1
  unfold startReq
  simp only [waitsForBoundary_stack hstack hmine hfence, isCommand_stack hstack, Bool.false_eq_true, if_false]
  unfold performReq
  simp only [hfind, hsegment, peerArrival_stack hstack, ite_self]
  cases hrefusal : rmoRefusal s x.cls q.session x.segment op q.address q.length with
  | some c => simp only [done, hrefusal, requestDone]
  | none => simp only [done, hrefusal, requestDone, rmoEffect_stack h hflit hstack]

/-- What a request does before its answer leaves all but memory. -/
theorem requestDone_frame (s : State) (q : UtxReq) (op : RmoOp) (r : Option Code) :
    (requestDone s q op r).2.2 = { s with mem := (requestDone s q op r).2.2.mem, taint := (requestDone s q op r).2.2.taint } := by
  cases r with
  | some c => rfl
  | none => exact stackEffect_frame s op _ _

/-- A request on stack memory in its turn (R344): it has its effect, and its answer is kept. -/
theorem exec_stackRequest (h : Terms.Arrives s q x op) (hpsn : q.psn = x.expect) (hpoison : s.poison = []) (hsoft : s.soft = [])
    (hflit : q.session ∉ s.flitReads) (hstack : isStack (localOf q.address) = true) (hmine : ∀ d ∈ s.deferred, d.q.session ≠ q.session)
    (hfence : op = .fence → commandWaits s q.session = false) :
    let done := requestDone (requestTaken s q) q op (rmoRefusal s x.cls q.session x.segment op q.address q.length)
    ∃ t, exec (rmoRow op q) s = .next t ∧ Answered t q x op done.1 (if done.1 = .ok then done.2.1 else [])
      ∧ t.mem = done.2.2.mem ∧ SessBut s t q.session ∧ RegsBut s t [oEth q.port + 0x30]
      ∧ t = { s with out := [], mem := t.mem, regs := t.regs, sessions := t.sessions, taint := t.taint } := by
  intro done
  have hopen := sessGet_of_reqSession h.session
  have hone := requestTaken_one (q := q) hopen
  have hwork := sessionWork_received hone
  have hmap := requestTaken_sameMap h.canon (port_of_takesFrames h.taken) hopen
  obtain ⟨hexpect, hheld, -, -, -, hnext, hwindow, hgrant, hsegment⟩ := released_rest (countRx { s with out := [] } q.port) q.ackPsn x
  have hstart := startReq_stack (s := requestTaken s q) (op := op) (x := x) (ecc := []) hwork.now hsegment
    ⟨by rw [hwork.frame]; exact h.canon.mem, by rw [hwork.frame]; exact hpoison, by rw [hwork.frame]; exact hsoft⟩
    (by rw [hwork.frame]; exact hflit) hstack (by rw [hwork.frame]; exact hmine) (fun hop => by rw [hwork.frame]; exact hfence hop) rfl
  rw [rmoRefusal_sameMap hmap] at hstart
  have hframe : done.2.2 = { requestTaken s q with mem := done.2.2.mem, taint := done.2.2.taint } := requestDone_frame _ q op _
  have hdone : sessGet done.2.2 q.session = some (requester s q x) := by
    rw [hframe]
    exact hwork.now
  obtain ⟨y, k, hanswer, hlast, hreq, hbyte, hstatus, hpsn', hpayload, hk, hsent, hnext', hexpect', hheld', hwindow', hgrant'⟩ :=
    sendRsp_answers (cost := costOf q.length) (byte := rmoByte op) (psn := q.psn) (code := done.1) (data := done.2.1) hdone
  refine ⟨_, (exec_request h hpsn).trans (congrArg Host.Outcome.next hstart), ⟨y, k, hanswer.now, hlast, hreq, hbyte, hstatus, hpsn', hpayload,
    hk.trans hnext, hsent, hnext'.trans (congrArg (· + 1) hnext), hexpect'.trans (congrArg (· + 1) hexpect), ?_,
    hwindow'.trans hwindow, hgrant'.trans (congrArg (· + BitVec.ofNat 32 (costOf q.length)) hgrant)⟩, ?_, fun j hj => ?_, fun a ha => ?_, ?_⟩
  · have hcharged : (requester s q x).held = x.held + costOf q.length := congrArg (· + costOf q.length) hheld
    rw [hheld', hcharged, Nat.add_sub_cancel]
  · rw [hanswer.frame]
  · refine (hanswer.other j hj).trans (Eq.trans ?_ (hwork.other j hj))
    rw [hframe]
    rfl
  · have hregs : (sendRsp (releaseSlots done.2.2 q.session (costOf q.length)) q.session (rmoByte op) q.psn done.1 done.2.1).regs
        = (requestTaken s q).regs := by
      rw [hanswer.frame, hframe]
    rw [regGet_congr hregs]
    exact hwork.regs a ha
  · rw [hanswer.frame, hframe, hwork.frame]

/-- Settles O44. -/
theorem requestsAreServedAndAnswered : Obligations.RequestsAreServedAndAnswered := by
  unfold Obligations.RequestsAreServedAndAnswered
  intro s q x op h hpsn ⟨hpoison, hsoft, hflit⟩ hstack hmine hfence a n old data refused Frame
  obtain ⟨t, hexec, hanswer, hmem, hother, hregs, hframe⟩ := exec_stackRequest h hpsn hpoison hsoft hflit hstack hmine hfence
  have hwork := sessionWork_received (requestTaken_one (q := q) (sessGet_of_reqSession h.session))
  obtain ⟨u, hu⟩ : ∃ u, u = requestTaken s q := ⟨_, rfl⟩
  rw [← hu] at hanswer hmem hwork
  have hmemory : u.mem = s.mem := by rw [hwork.frame]
  have hbytes (c : Nat) : byteAt u c = byteAt s c := congrArg (sget memDefault · c) hmemory
  have hread (b k : Nat) : spanRead u b k = spanRead s b k := by
    exact List.map_congr_left fun c _ => hbytes c
  refine ⟨fun c hc => ?_, fun hnone hnodup => ?_⟩
  · have hrefused : rmoRefusal s x.cls q.session x.segment op q.address q.length = some c := hc
    rw [hrefused] at hanswer hmem
    have hcode : (requestDone u q op (some c)).1 ≠ .ok := rmoRefusal_ne_ok hrefused
    rw [if_neg hcode] at hanswer
    exact ⟨t, hexec, hanswer, hmem.trans hmemory, hother, hregs, hframe⟩
  · have hallowed : rmoRefusal s x.cls q.session x.segment op q.address q.length = none := hnone
    rw [hallowed] at hanswer hmem
    simp only [requestDone, if_true] at hanswer hmem
    have hclean : Clean u := ⟨by rw [hmemory]; exact h.canon.mem, by rw [hwork.frame]; exact hpoison, by rw [hwork.frame]; exact hsoft⟩
    have hlen : (fit q.length q.payload).length = q.length := length_fit _ _
    obtain ⟨hstored, hbut⟩ := stackEffect_mem (op := op) (a := a) (data := data) (n := n) hclean (by rw [hlen]) hnodup (fun hop => by
      rw [hlen]
      exact even_of_cas (hop ▸ hallowed))
    have hbytes' (c : Nat) : byteAt t c = byteAt (stackEffect u op a data).2 c := congrArg (sget memDefault · c) hmem
    have hread' (b k : Nat) : spanRead t b k = spanRead (stackEffect u op a data).2 b k := by
      exact List.map_congr_left fun c _ => hbytes' c
    refine ⟨t, hexec, ?_, ?_, fun c hc => (hbytes' c).trans ((hbut c hc).trans (hbytes c)), hother, hregs, hframe⟩
    · have hanswer' : Answered t q x op .ok (stackEffect u op a data).1 := hanswer
      have hdata : data.length = q.length := hlen
      cases op with
      | write => exact hanswer'
      | atomicAdd => exact hanswer'
      | fence => exact hanswer'
      | read =>
        rw [stackEffect, hdata, hread] at hanswer'
        exact hanswer'
      | fetchAdd =>
        rw [stackEffect, hdata, hread] at hanswer'
        exact hanswer'
      | cas =>
        rw [stackEffect, hdata, hread] at hanswer'
        exact hanswer'
    · have hmem' : t.mem = (stackEffect u op a data).2.mem := hmem
      have hold : spanRead u a n = old := hread a n
      rw [hold] at hstored
      cases op with
      | read => exact hmem'.trans (hstored.trans hmemory)
      | fence => exact hmem'.trans (hstored.trans hmemory)
      | write => exact (hread' a _).trans hstored
      | fetchAdd => exact (hread' a _).trans hstored
      | atomicAdd => exact (hread' a _).trans hstored
      | cas => exact (hread' a _).trans hstored

end Sys2Proof.Machine

/-! O47: what leaves a port, and when (R337, R348, R349, R358, R362). -/

namespace Sys2Proof.Machine

open Sys2Proof Sys2Proof.Terms

variable {s t u : State} {port n c : Nat} {x y z : Session} {o : UtxOut}

/-! ## Frames -/

/-- A frame that leaves is counted, and takes the next number of its key. -/
theorem sendFrame_frame (s : State) (port iface : Nat) (o : Output) :
    sendFrame s port iface o = { s with
      out := s.out ++ [o], regs := (sendFrame s port iface o).regs, saks := (sendFrame s port iface o).saks } := by
  unfold sendFrame useSak
  split <;> rfl

/-- A held frame leaves, as it is. -/
theorem sendHeld_leaves (hout : s.out = []) (y : HeldFrame) :
    Leaves (sendHeld s y) y ∧ sendHeld s y = { s with
      out := (sendHeld s y).out, regs := (sendHeld s y).regs, saks := (sendHeld s y).saks } := by
  have hone (o : Output) : (sendFrame s y.port y.iface o).out = [o] :=
    (congrArg State.out (sendFrame_frame s y.port y.iface o)).trans (congrArg (· ++ [o]) hout)
  have hframe (o : Output) : sendFrame s y.port y.iface o = { s with
      out := (sendFrame s y.port y.iface o).out, regs := (sendFrame s y.port y.iface o).regs
      saks := (sendFrame s y.port y.iface o).saks } := by
    have h := sendFrame_frame s y.port y.iface o
    generalize sendFrame s y.port y.iface o = t at h ⊢
    rw [h]
  unfold sendHeld Leaves
  cases y.what with
  | frame f => exact ⟨⟨_, hone _⟩, hframe _⟩
  | boot d r => exact ⟨⟨_, hone _⟩, hframe _⟩

/-! ## A packet of a session -/

/-- A packet of session n leaves its port, and the session turns from x into y. -/
structure SentUtx (s t : State) (n : Nat) (x y : Session) (o : UtxOut) : Prop where
  out : t.out = s.out ++ [.utx x.port o]
  was : sessGet s n = some x
  now : sessGet t n = some y
  other : SessBut s t n
  frame : t = { s with out := t.out, regs := t.regs, sessions := t.sessions, saks := t.saks }

theorem sentUtx_then (h : SentUtx s t n x y o) (h' : OneSession t u n y z) : SentUtx s u n x z o :=
  ⟨by rw [h'.frame]; exact h.out, h.was, h'.now, fun j hj => (h'.other j hj).trans (h.other j hj), by rw [h'.frame, h.frame]⟩

theorem sentUtx_count (h : SentUtx s t n x y o) (a hi lo k : Nat) : SentUtx s (regWrap t a hi lo k) n x y o :=
  ⟨h.out, h.was, h.now, h.other, by rw [h.frame]; rfl⟩

/-- A session once a packet has told its peer where it stands (R349). -/
def noted (x : Session) : Session :=
  { x with ackSent := x.expect, grantSent := x.grant, ackSince := none, accepted := 0, ackNow := false }

theorem sendUtx_sent (h : sessGet s n = some x) (d : Dest) (o : UtxOut) :
    ∃ w, SentUtx s (sendUtx s x.port x.iface d o) n x x { o with wire := w } := by
  have hframe := sendFrame_frame s x.port x.iface
    (.utx x.port { o with wire := wireOf s x.port x.iface (some (udpWire s x.port x.iface d (utxBytes o))) })
  refine ⟨wireOf s x.port x.iface (some (udpWire s x.port x.iface d (utxBytes o))), ?_⟩
  unfold sendUtx
  generalize sendFrame s x.port x.iface _ = t at hframe ⊢
  rw [hframe]
  exact ⟨rfl, h, h, fun _ _ => rfl, rfl⟩

/-- A packet leaves with the session's credit and its current ACK_PSN. -/
theorem putOut_sent (h : sessGet s n = some x) (type : Byte) (k : Kept) :
    ∃ o, SentUtx s (putOut s n x type k) n x (noted x) o ∧ o.session = wireNumber s n ∧ o.type = type ∧ o.ackPsn = x.expect
      ∧ (n < 4096 → o.creditLimit = x.grant) ∧ (type = 1 ∨ type = 2 → o.psn = k.psn ∧ o.payload = k.payload) := by
  obtain ⟨w, hsent⟩ := sendUtx_sent h (destOf s n x)
    { session := wireNumber s n, type := type
      psn := if type = 1 ∨ type = 2 then k.psn else 0
      ackPsn := x.expect, creditLimit := if n < 4096 then x.grant else 0
      address := if type = 1 then k.address else 0
      op := if type = 1 ∨ type = 2 then k.op else 0
      status := if type = 2 then codeByte k.status else 0
      reqPsn := if type = 2 then k.reqPsn else 0
      payload := if type = 1 ∨ type = 2 then k.payload else [] }
  exact ⟨_, sentUtx_then hsent (oneSession_sessMap (f := noted) hsent.now rfl), rfl, rfl, rfl, fun hn => if_pos hn,
    fun ht => ⟨if_pos ht, if_pos ht⟩⟩

/-- A session once a NAK that carries a PSN has left. -/
def nakNoted (e : BitVec 32) (x : Session) : Session :=
  if e = x.expect then noted x else { x with grantSent := x.grant }

/-- A NAK leaves with the PSN that it is due for (R348). -/
theorem putNak_sent (h : sessGet s n = some x) (e : BitVec 32) :
    ∃ o, SentUtx s (putNak s n x e) n x (nakNoted e x) o ∧ o.session = wireNumber s n ∧ o.type = 4 ∧ o.ackPsn = e
      ∧ (n < 4096 → o.creditLimit = x.grant) := by
  have hnote {o : UtxOut} (hsent : SentUtx s (sendUtx s x.port x.iface (destOf s n x)
      { session := wireNumber s n, type := 4, psn := 0, ackPsn := e, creditLimit := if n < 4096 then x.grant else 0
        address := 0, op := 0, status := 0, reqPsn := 0, payload := [] }) n x x o) :
      SentUtx s (putNak s n x e) n x (nakNoted e x) o := by
    unfold putNak nakNoted
    by_cases he : e = x.expect
    · simp only [if_pos he]
      exact sentUtx_then hsent (oneSession_sessMap (f := noted) hsent.now rfl)
    · simp only [if_neg he]
      exact sentUtx_then hsent (oneSession_sessMap hsent.now rfl)
  obtain ⟨w, hsent⟩ := sendUtx_sent h (destOf s n x)
    { session := wireNumber s n, type := 4, psn := 0, ackPsn := e, creditLimit := if n < 4096 then x.grant else 0
      address := 0, op := 0, status := 0, reqPsn := 0, payload := [] }
  exact ⟨_, hnote hsent, rfl, rfl, rfl, fun hn => if_pos hn⟩

/-! ## An item -/

/-- What an item is as it leaves a session that turns from x into y. -/
def ItemLeaves (x y : Session) (o : UtxOut) (i : Item) : Prop :=
  match i with
  | .ack => o.type = 3 ∧ o.ackPsn = x.expect ∧ y.dups = x.dups - 1
  | .nak p => o.type = 4 ∧ o.ackPsn = p ∧ y.naks = x.naks.drop 1
  | .packet p => o.type = (if p.isReq then 1 else 2) ∧ o.ackPsn = x.expect ∧ o.psn = p.psn ∧ o.payload = p.payload
      ∧ ∀ z ∈ y.kept, z.psn = p.psn → z.isReq = p.isReq → z.sent = true ∧ z.resend = false

theorem nakNoted_rest (e : BitVec 32) (x : Session) : (nakNoted e x).naks = x.naks ∧ (nakNoted e x).closed = x.closed
    ∧ (e = x.expect → (nakNoted e x).ackSent = x.expect ∧ (nakNoted e x).ackNow = false ∧ (nakNoted e x).ackSince = none) := by
  unfold nakNoted
  by_cases he : e = x.expect
  · rw [if_pos he]
    exact ⟨rfl, rfl, fun _ => ⟨rfl, rfl, rfl⟩⟩
  · rw [if_neg he]
    exact ⟨rfl, rfl, fun h => absurd h he⟩

/-- A session once a packet that it keeps has left (R350). -/
def packetSent (s : State) (p : Kept) (y : Session) : Session :=
  let idle := !y.kept.any (·.sent)
  { y with
    kept := y.kept.map fun z => if z.psn = p.psn ∧ z.isReq = p.isReq then { z with sent := true, resend := false } else z
    peerUsed := if p.isReq && !p.sent then y.peerUsed + BitVec.ofNat 32 (costOf p.payload.length) else y.peerUsed
    timerAt := if idle then s.clock.dt else y.timerAt
    rtoNs := if idle then rtoInitial s else y.rtoNs
    timeouts := if idle then 0 else y.timeouts }

theorem packetSent_kept (s : State) (p : Kept) (y : Session) :
    ∀ z ∈ (packetSent s p y).kept, z.psn = p.psn → z.isReq = p.isReq → z.sent = true ∧ z.resend = false := by
  intro z hz hpsn hreq
  obtain ⟨k, -, rfl⟩ := List.mem_map.mp hz
  by_cases hk : k.psn = p.psn ∧ k.isReq = p.isReq
  · rw [if_pos hk]
    exact ⟨rfl, rfl⟩
  · rw [if_neg hk] at hpsn hreq
    exact absurd ⟨hpsn, hreq⟩ hk

theorem sendItem_sent (h : sessGet s n = some x) (i : Item) :
    ∃ o y, SentUtx s (sendItem s n i) n x y o ∧ o.session = wireNumber s n ∧ (n < 4096 → o.creditLimit = x.grant) ∧ ItemLeaves x y o i
      ∧ (o.ackPsn = x.expect → y.ackSent = x.expect ∧ y.ackNow = false ∧ y.ackSince = none) := by
  unfold sendItem
  rw [h]
  cases i with
  | ack =>
    obtain ⟨o, hsent, hsession, htype, hack, hcredit, -⟩ := putOut_sent h 3 { psn := 0, isReq := false, op := 0 }
    exact ⟨o, _, sentUtx_then hsent (oneSession_sessMap hsent.now rfl), hsession, hcredit, ⟨htype, hack, rfl⟩, fun _ => ⟨rfl, rfl, rfl⟩⟩
  | nak e =>
    obtain ⟨o, hsent, hsession, htype, hack, hcredit⟩ := putNak_sent h e
    obtain ⟨hnaks, -, hnoted⟩ := nakNoted_rest e x
    exact ⟨o, _, sentUtx_then hsent (oneSession_sessMap (f := fun y => { y with naks := y.naks.drop 1 }) hsent.now rfl), hsession, hcredit,
      ⟨htype, hack, congrArg (List.drop 1) hnaks⟩, fun he => hnoted (hack ▸ he)⟩
  | packet p =>
    obtain ⟨o, hsent, hsession, htype, hack, hcredit, hbody⟩ := putOut_sent h (if p.isReq then 1 else 2) p
    obtain ⟨hpsn, hpayload⟩ := hbody (by cases p.isReq <;> simp)
    have hcount : SentUtx s (if p.sent then regWrap (putOut s n x (if p.isReq then 1 else 2) p) oUtxRetxPkts 31 0 1
        else putOut s n x (if p.isReq then 1 else 2) p) n x (noted x) o := by
      cases p.sent
      · exact hsent
      · exact sentUtx_count hsent _ _ _ _
    refine ⟨o, _, sentUtx_then hcount (oneSession_sessMap (f := packetSent _ p) hcount.now rfl), hsession, hcredit,
      ⟨htype, hack, hpsn, hpayload, packetSent_kept _ p _⟩, fun _ => ⟨rfl, rfl, rfl⟩⟩

/-! ## The turn -/

/-- Whose turn it is waits itself. -/
theorem nextTurn_mem {last : Option Nat} {l : List (Nat × Nat × Item)} (h : l ≠ []) : ∃ y, nextTurn last l = some y ∧ y ∈ l := by
  have hhead : ∃ y, l.head? = some y ∧ y ∈ l := by
    obtain ⟨y, l', rfl⟩ := List.exists_cons_of_ne_nil h
    exact ⟨y, rfl, by simp⟩
  unfold nextTurn
  cases last with
  | none => exact hhead
  | some k =>
    cases hfind : l.find? fun y => decide (k < y.1) with
    | none => simpa [hfind] using hhead
    | some y => exact ⟨y, by simp [hfind], List.mem_of_find?_eq_some hfind⟩

/-- What waits on a port waits in an open session of that port. -/
theorem sessGet_of_waiting (hc : Canonical s) {i : Item} (h : (n, c, i) ∈ waitingOn s port) :
    ∃ x, sessGet s n = some x ∧ x.port = port := by
  obtain ⟨⟨k, x⟩, hmem, hy⟩ := List.mem_flatMap.mp h
  dsimp only at hy
  split at hy
  · next hgo =>
    obtain ⟨y, -, hyeq⟩ := List.mem_map.mp hy
    obtain ⟨rfl, -⟩ := Prod.mk.inj hyeq
    refine ⟨x, ?_, hgo.1⟩
    rw [sessGet, sfind_of_mem_rise hc.sessions hmem]
    simpa using hgo.2.1
  · cases hy

/-- What is offered is of one of four classes (R362). -/
def Class (c : Nat) : Prop := c ∈ ([2, 3, 4, 5] : List Nat)

theorem class_fresh (s : State) (k : Kept) : Class (freshClass s k) := by
  unfold freshClass Class
  split
  · decide
  · split
    · split <;> decide
    · decide

theorem class_offers (s : State) (x : Session) {z : Nat × Item} (hz : z ∈ offers s x) : Class z.1 := by
  have htwo : Class 2 := by unfold Class; decide
  have hfour : Class 4 := by unfold Class; decide
  unfold offers at hz
  dsimp only at hz
  rw [List.mem_append, List.mem_append, List.mem_append] at hz
  rcases hz with ((hz | hz) | hz) | hz
  · split at hz
    · rw [List.mem_singleton.mp hz]
      exact htwo
    · cases hz
  · obtain ⟨e, -, rfl⟩ := List.mem_map.mp hz
    exact hfour
  · split at hz
    · split at hz
      · rw [List.mem_singleton.mp hz]
        exact class_fresh s _
      · cases hz
    · cases hz
  · split at hz
    · rw [List.mem_singleton.mp hz]
      exact hfour
    · cases hz

theorem class_of_waiting {y : Nat × Nat × Item} (h : y ∈ waitingOn s port) : Class y.2.1 := by
  obtain ⟨⟨k, x⟩, -, hy⟩ := List.mem_flatMap.mp h
  dsimp only at hy
  split at hy
  · obtain ⟨z, hz, rfl⟩ := List.mem_map.mp hy
    exact class_offers s x hz
  · cases hy

/-- The highest class that waits. -/
def highest (l : List (Nat × Nat × Item)) : Option Nat := ([2, 3, 4, 5] : List Nat).find? fun c => l.any fun y => y.2.1 == c

theorem highest_eq_some {l : List (Nat × Nat × Item)} :
    highest l = some c ↔ (Class c ∧ ∃ y ∈ l, y.2.1 = c) ∧ ∀ d < c, ¬(Class d ∧ ∃ y ∈ l, y.2.1 = d) := by
  have hany (d : Nat) : (l.any fun y => y.2.1 == d) = true ↔ ∃ y ∈ l, y.2.1 = d := by simp
  unfold highest
  rw [find?_some_iff_least (by decide : List.Pairwise (· < ·) ([2, 3, 4, 5] : List Nat))]
  simp only [hany]
  rfl

/-- Among what waits on a port there is a highest class. -/
theorem highest_waiting (h : waitingOn s port ≠ []) :
    ∃ c, highest (waitingOn s port) = some c ∧ (∃ y ∈ waitingOn s port, y.2.1 = c) ∧ ∀ y ∈ waitingOn s port, c ≤ y.2.1 := by
  obtain ⟨y, hy⟩ := List.exists_mem_of_ne_nil _ h
  cases hfind : highest (waitingOn s port) with
  | none =>
    have hno := List.find?_eq_none.mp hfind y.2.1 (class_of_waiting hy)
    exact absurd (List.any_eq_true.mpr ⟨y, hy, by simp⟩) hno
  | some c =>
    obtain ⟨⟨-, hwaits⟩, hleast⟩ := highest_eq_some.mp hfind
    refine ⟨c, rfl, hwaits, fun w hw => ?_⟩
    by_contra hlt
    exact hleast w.2.1 (Nat.not_le.mp hlt) ⟨class_of_waiting hw, w, hw, rfl⟩

/-- One of a class's packets leaves, and its session keeps the turn. -/
theorem sendTurn_sends {all : List (Nat × Nat × Item)} (h : ∃ y ∈ all, y.2.1 = c) :
    ∃ n i, (n, c, i) ∈ all ∧ sendTurn s port all c = sendItem { s with turns := sput s.turns (16 * port + c) n } n i := by
  obtain ⟨y, hy, hyc⟩ := h
  have hne : (all.filter fun y => y.2.1 == c) ≠ [] := List.ne_nil_of_mem (List.mem_filter.mpr ⟨hy, by simpa using hyc⟩)
  obtain ⟨⟨n, d, i⟩, hturn, hmem⟩ := nextTurn_mem (last := sfind s.turns (16 * port + c)) hne
  obtain ⟨hall, hd⟩ := List.mem_filter.mp hmem
  obtain rfl : d = c := by simpa using hd
  refine ⟨n, i, hall, ?_⟩
  unfold sendTurn
  rw [hturn]

/-! ## TX_SEND -/

section

variable (hrun : linkRuns s = true) (hport : port < 2)

include hrun hport

theorem exec_txSend_held {y : HeldFrame} (h : nextHeld s port false = some y) :
    exec (.txSend port) s = .next (sendWaiting { s with out := [] } y) := by
  have h' : nextHeld { s with out := [] } port false = some y := h
  have hno : ¬((!linkRuns { s with out := [] }) = true ∨ 2 ≤ port) := by
    rw [show linkRuns { s with out := [] } = true from hrun]
    simp [hport]
  show execTxSend port s = _
  unfold execTxSend
  dsimp only
  rw [if_neg hno, h']

/-- With no frame held, the sessions' packets, the closed sessions' RSPs and the BOOT replies have their turn. -/
theorem exec_txSend_free (h : nextHeld s port false = none) :
    exec (.txSend port) s =
      match nextParting s port with
      | some y =>
        if highest (waitingOn s port) = some 2 ∨ highest (waitingOn s port) = some 3 then
          .next (sendTurn { s with out := [] } port (waitingOn s port) ((highest (waitingOn s port)).getD 0))
        else .next { sendUtx { s with out := [] } port y.iface y.dest y.packet with parting := s.parting.erase y }
      | none =>
        match highest (waitingOn s port) with
        | none => .next (((nextHeld s port true).map (sendWaiting { s with out := [] })).getD { s with out := [] })
        | some c => .next (sendTurn { s with out := [] } port (waitingOn s port) c) := by
  have h' : nextHeld { s with out := [] } port false = none := h
  have hno : ¬((!linkRuns { s with out := [] }) = true ∨ 2 ≤ port) := by
    rw [show linkRuns { s with out := [] } = true from hrun]
    simp [hport]
  show execTxSend port s = _
  unfold execTxSend
  dsimp only
  rw [if_neg hno, h']
  rfl

end

/-- A frame that waited leaves, and waits no longer. -/
theorem sendWaiting_leaves (s : State) (y : HeldFrame) :
    Leaves (sendWaiting { s with out := [] } y) y ∧ sendWaiting { s with out := [] } y = { s with
      out := (sendWaiting { s with out := [] } y).out, regs := (sendWaiting { s with out := [] } y).regs
      saks := (sendWaiting { s with out := [] } y).saks, heldOut := s.heldOut.erase y } :=
  sendHeld_leaves (s := { s with out := [], heldOut := s.heldOut.erase y }) rfl y

/-- The RSP of a closed session leaves, and waits no longer. -/
theorem sendUtx_parting (s : State) (port : Nat) (y : Parting) :
    ∃ t w, { sendUtx { s with out := [] } port y.iface y.dest y.packet with parting := s.parting.erase y } = t
      ∧ t.out = [.utx port { y.packet with wire := w }]
      ∧ t = { s with out := t.out, regs := t.regs, saks := t.saks, parting := s.parting.erase y } := by
  have hframe := sendFrame_frame { s with out := [] } port y.iface (.utx port { y.packet with
    wire := wireOf { s with out := [] } port y.iface (some (udpWire { s with out := [] } port y.iface y.dest (utxBytes y.packet))) })
  refine ⟨_, wireOf { s with out := [] } port y.iface (some (udpWire { s with out := [] } port y.iface y.dest (utxBytes y.packet))), rfl, ?_⟩
  unfold sendUtx
  generalize sendFrame { s with out := [] } port y.iface _ = t at hframe ⊢
  rw [hframe]
  exact ⟨rfl, rfl⟩

/-- What the statement says of a packet of a session that leaves. -/
theorem sendTurn_sent (hc : Canonical s) (hwaits : ∃ y ∈ waitingOn s port, y.2.1 = c) :
    ∃ t n i o x y, sendTurn { s with out := [] } port (waitingOn s port) c = t ∧ (n, c, i) ∈ waitingOn s port
      ∧ t.out = [.utx port o] ∧ sessGet s n = some x ∧ sessGet t n = some y ∧ o.session = wireNumber s n
      ∧ (n < 4096 → o.creditLimit = x.grant) ∧ ItemLeaves x y o i
      ∧ (o.ackPsn = x.expect → y.ackSent = x.expect ∧ y.ackNow = false ∧ y.ackSince = none)
      ∧ SessBut s t n
      ∧ t = { s with out := t.out, regs := t.regs, sessions := t.sessions, turns := t.turns, saks := t.saks } := by
  obtain ⟨n, i, hmem, hturn⟩ := sendTurn_sends (s := { s with out := [] }) (port := port) hwaits
  obtain ⟨x, hx, rfl⟩ := sessGet_of_waiting hc hmem
  obtain ⟨o, y, hsent, hsession, hcredit, hitem, hack⟩ :=
    sendItem_sent (s := { s with out := [], turns := sput s.turns (16 * x.port + c) n }) (x := x) hx i
  exact ⟨_, n, i, o, x, y, hturn, hmem, hsent.out, hx, hsent.now, hsession, hcredit, hitem, hack, hsent.other,
    by rw [hsent.frame]⟩

/-! ## ACK_DELAY_EXPIRY -/

theorem any_late (since : Nat) (f : Nat → Bool) : ((!true) = true ∨ (!Option.any f (some since)) = true) ↔ f since = false := by
  simp

theorem ackDelayExpiry_run {since : Nat} (hx : sessGet s n = some x) (hrun : linkRuns s = true) (hsince : x.ackSince = some since)
    (hout : { s with out := [] } = s) : 
    execAckDelayExpiry n s = .next (if elapsedUs s since (ackDelay s) then sessMap s n fun y => { y with ackNow := true } else s) := by
  unfold execAckDelayExpiry
  dsimp only
  rw [hout, hx]
  dsimp only
  rw [hrun, hsince]
  by_cases he : elapsedUs s since (ackDelay s) = true
  · rw [if_pos he, if_neg]
    rw [any_late, he]
    decide
  · rw [if_neg he, if_pos]
    exact (any_late since _).mpr (Bool.eq_false_of_not_eq_true he)

theorem elapsedUs_iff (s : State) (since k : Nat) : elapsedUs s since k = true ↔ since + usDt k ≤ s.clock.dt := by
  unfold elapsedUs
  exact decide_eq_true_iff

/-- The delay has run out, or it has not. -/
theorem exec_ackDelayExpiry {since : Nat} (hx : sessGet s n = some x) (hrun : linkRuns s = true) (hsince : x.ackSince = some since) :
    exec (.ackDelayExpiry n) s = .next (if elapsedUs s since (ackDelay s) then
      sessMap { s with out := [] } n fun y => { y with ackNow := true } else { s with out := [] }) :=
  ackDelayExpiry_run (s := { s with out := [] }) hx hrun hsince rfl

/-- Settles O47: one packet of the highest class that waits leaves, as `sendItem_sent` says of a session's packet. -/
theorem sendingFollowsTheClasses : Obligations.SendingFollowsTheClasses := by
  unfold Obligations.SendingFollowsTheClasses
  refine ⟨fun s port hc hrun hport => ⟨?_, ?_, ?_, ?_⟩, fun s n x since hc hx hrun hsince => ⟨fun hlate => ?_, fun hearly => ?_⟩⟩
  · rintro y (hy | ⟨hno, hempty, hparting, hy⟩)
    · exact ⟨_, exec_txSend_held hrun hport hy, sendWaiting_leaves s y⟩
    · refine ⟨_, ?_, sendWaiting_leaves s y⟩
      rw [exec_txSend_free hrun hport hno, hparting, hempty, hy]
      rfl
  · intro hno hempty hparting hboot
    rw [exec_txSend_free hrun hport hno, hparting, hempty, hboot]
    rfl
  · intro y hno hparting hlow
    obtain ⟨t, w, rfl, hout, hframe⟩ := sendUtx_parting s port y
    refine ⟨_, w, ?_, hout, hframe⟩
    rw [exec_txSend_free hrun hport hno, hparting]
    refine if_neg ?_
    rintro (h | h) <;> obtain ⟨⟨-, z, hz, hzc⟩, -⟩ := highest_eq_some.mp h <;> have := hlow z hz <;> omega
  · intro hno hne hfirst
    obtain ⟨c, hhigh, hwaits, hleast⟩ := highest_waiting hne
    obtain ⟨t, n, i, o, x, y, hturn, hmem, hout, hx, hy, hsession, hcredit, hitem, hack, hother, hframe⟩ := sendTurn_sent hc hwaits
    refine ⟨t, n, c, i, o, x, y, ?_, hmem, hleast, hout, hx, hy, hsession, hcredit, ?_, hack, hother, hframe⟩
    · rw [exec_txSend_free hrun hport hno, hhigh]
      cases hparting : nextParting s port with
      | none => exact congrArg _ hturn
      | some p =>
        obtain ⟨z, hz, hzc⟩ := hfirst.resolve_left (by simp [hparting])
        have hc4 : c = 2 ∨ c = 3 := by
          obtain ⟨⟨hclass, -⟩, -⟩ := highest_eq_some.mp hhigh
          have := hleast z hz
          simp only [Class, List.mem_cons, List.not_mem_nil, or_false] at hclass
          omega
        refine (if_pos ?_).trans (congrArg _ hturn)
        simpa using hc4
    · cases i <;> exact hitem
  · refine ⟨sessMap { s with out := [] } n fun y => { y with ackNow := true }, ?_, ?_⟩
    · rw [exec_ackDelayExpiry hx hrun hsince, if_pos ((elapsedUs_iff s since _).mpr hlate)]
    · have hone := oneSession_sessMap (s := { s with out := [] }) (f := fun y => { y with ackNow := true }) hx rfl
      exact ⟨hone.now, hone.other, hone.frame⟩
  · rw [exec_ackDelayExpiry hx hrun hsince, if_neg (mt (elapsedUs_iff s since _).mp (Nat.not_le.mpr hearly))]

end Sys2Proof.Machine

/-! O43: the token sampler (R194, R195, R196). -/

namespace Sys2Proof.Machine

open Sys2Proof Sys2Proof.Terms

variable {s t u : State} {n k a : Nat} {c d : Ctx}

/-- The job that the sampler has served: its token is written. -/
def sampled (s : State) (n : Nat) : State := ctxMap s n fun c => { c with token := true }

theorem ctxGet_num (h : ctxGet s n = some c) : c.num = n := by
  simpa using List.find?_some h

theorem ctxGet_sampled (h : ctxGet s n = some c) : ctxGet (sampled s n) n = some { c with token := true } := by
  have hnum (l : List Ctx) (hl : l.find? (·.num == n) = some c) :
      (l.map fun c => if c.num = n then { c with token := true } else c).find? (·.num == n) = some { c with token := true } := by
    induction l with
    | nil => cases hl
    | cons d l ih =>
      rw [List.find?_cons] at hl
      rw [List.map_cons, List.find?_cons]
      by_cases hd : d.num = n
      · simp_all
      · simp only [beq_eq_false_iff_ne.mpr hd, if_neg hd] at hl ⊢
        exact ih hl
  exact hnum s.ctxs h

/-- Outside a job's turn the sampler does nothing. -/
theorem exec_tokenSampler_idle (h : s.passes.all (passDone s) = false ∨ ∀ p ∈ s.passes, nextToSample s p ≠ some n) :
    exec (.tokenSamplerRun n) s = .next { s with out := [] } := by
  have hno : (s.passes.all (passDone s) && s.passes.any fun p => nextToSample s p == some n) = false := by
    rcases h with h | h
    · rw [h, Bool.false_and]
    · rw [Bool.and_eq_false_iff]
      exact .inr (List.any_eq_false.mpr fun p hp => by simpa using h p hp)
  show execTokenSamplerRun n s = _
  unfold execTokenSamplerRun
  dsimp only
  exact if_pos (by rw [Bool.not_eq_true']; exact hno)

/-- In its turn the sampler runs for the job. -/
theorem exec_tokenSampler_turn (hagenda : s.agenda = []) (hdone : s.passes.all (passDone s) = true) {p : Pass} (hp : p ∈ s.passes)
    (hturn : nextToSample s p = some n) (hc : ctxGet s n = some c) :
    exec (.tokenSamplerRun n) s = .next (runSampler { s with out := [] } c) := by
  have hgo : (s.passes.all (passDone s) && s.passes.any fun p => nextToSample s p == some n) = true := by
    rw [hdone, Bool.true_and]
    exact List.any_eq_true.mpr ⟨p, hp, by simpa using hturn⟩
  have hsettled : settled { s with out := [] } (2 ^ 64) = { s with out := [] } := settled_idle _ hagenda
  have hc' : ctxGet { s with out := [] } n = some c := hc
  show execTokenSamplerRun n s = _
  unfold execTokenSamplerRun
  dsimp only
  rw [hsettled, hc']
  exact if_neg (by rw [Bool.not_eq_true', Bool.not_eq_false]; exact hgo)

/-! ## A turn of the sampler -/

/-- A row is counted; one that leaves no candidate is counted apart, and logged. -/
def rowCounted (s : State) (n : Nat) (token : Option Nat) : State :=
  match token with
  | some _ => regWrap s oSampRows 31 0 1
  | none => logOther (regCount (regWrap s oSampRows 31 0 1) oSampEmpty 15 0 1) (unitOf 0 0) (some n) 195

theorem rowCounted_frame (s : State) (n : Nat) (token : Option Nat) :
    rowCounted s n token = { s with
      regs := (rowCounted s n token).regs, events := (rowCounted s n token).events, nextSeq := (rowCounted s n token).nextSeq } := by
  cases token <;> rfl

theorem rowCounted_counts (hregs : swf resetWord s.regs = true) (n : Nat) (token : Option Nat) :
    regF (rowCounted s n token) oSampRows 31 0 = (regF s oSampRows 31 0 + 1) % 2 ^ 32 := by
  have hone : regF (regWrap s oSampRows 31 0 1) oSampRows 31 0 = (regF s oSampRows 31 0 + 1) % 2 ^ 32 :=
    regF_regWrap_same hregs oSampRows 1 (by decide) (by decide)
  cases token with
  | some k => exact hone
  | none =>
    have hother : regGet (rowCounted s n none) oSampRows = regGet (regWrap s oSampRows 31 0 1) oSampRows :=
      regGet_regCount_other (regWrap s oSampRows 31 0 1) (a := oSampEmpty) 15 0 1 (by decide)
    unfold regF at hone ⊢
    rw [hother]
    exact hone

/-- Counting a row touches the sampler's registers only. -/
theorem rowCounted_regs (s : State) (n : Nat) (token : Option Nat) : RegsBut s (rowCounted s n token) [oSampRows, oSampEmpty] := by
  have hone : RegsBut s (regWrap s oSampRows 31 0 1) [oSampRows, oSampEmpty] := regsBut_regWrap s _ _ _ _ (by simp)
  cases token with
  | some k => exact hone
  | none =>
    have htwo : RegsBut (regWrap s oSampRows 31 0 1) (regCount (regWrap s oSampRows 31 0 1) oSampEmpty 15 0 1) [oSampRows, oSampEmpty] :=
      regsBut_regCount _ _ _ _ _ (by simp)
    exact fun b hb => (htwo b hb).trans (hone b hb)

/-- An engine is fenced by its own register, which no row counted touches. -/
theorem engineFenced_rowCounted (s : State) (n : Nat) (token : Option Nat) (e : Nat) :
    engineFenced (rowCounted s n token) e = engineFenced s e := by
  have hother : oEng e + 0x10 ∉ [oSampRows, oSampEmpty] := by
    simp only [oEng, oSampRows, oSampEmpty, List.mem_cons, List.not_mem_nil, or_false]
    omega
  exact congrArg (getF · 31 31 == 1) (rowCounted_regs s n token _ hother)

/-- What may be accessed stays so as a row is counted. -/
theorem spanOpen_rowCounted (s : State) (n : Nat) (token : Option Nat) (a k : Nat) (write : Bool) :
    spanOpen (rowCounted s n token) a k write = spanOpen s a k write := by
  have hfenced := engineFenced_rowCounted s n token
  have hframe := rowCounted_frame s n token
  generalize rowCounted s n token = t at hfenced hframe ⊢
  have hretired (lin : Nat) : isRetired t lin = isRetired s lin := by
    rw [hframe]
    rfl
  have hreserved : reservedSpan t a k write = reservedSpan s a k write := by
    rw [hframe]
    rfl
  simp only [spanOpen, spanThere, implemented, hretired, hfenced, hreserved]

/-- The token of a job's row of logits (R195). -/
def drawnToken (s : State) (c : Ctx) (l : Tensor) : Option Nat :=
  sampleToken c.desc (logitRow s c l).2
    (opalBits { seed := c.desc.seed, stream := c.desc.stream, step := c.step } 4 c.desc.opalTensor 4 32 0)

/-- A row of logits that is open and sound ends in a token, written where TOKENS begins. -/
theorem runSampler_writes (hclean : Clean s) {i : Image} {l t : Tensor} (hi : imageGet s c.desc.image = some i)
    (hl : tensorGet i c.desc.sampLogits = some l) (ht : tensorGet i c.desc.sampTokens = some t)
    (hread : spanOpen s (tensorAddr l c.desc.base) (fmtWidth l.fmt / 8 * c.desc.vocab) = true)
    (hwrite : spanOpen s (tensorAddr t c.desc.base) 4 true = true) :
    runSampler s c = sampled (spanWrite (rowCounted s c.num (drawnToken s c l)) (tensorAddr t c.desc.base)
      (toLE ((drawnToken s c l).getD 0xFFFFFFFF) 4)) c.num := by
  have hput (token : Option Nat) (k : Nat) : putToken (rowCounted s c.num token) c (tensorAddr t c.desc.base) k
      = spanWrite (rowCounted s c.num token) (tensorAddr t c.desc.base) (toLE k 4) := by
    have hopen := (spanOpen_rowCounted s c.num token (tensorAddr t c.desc.base) 4 true).trans hwrite
    have hframe := rowCounted_frame s c.num token
    generalize rowCounted s c.num token = u at hopen hframe ⊢
    have hpoison : u.poison = [] := by
      rw [hframe]
      exact hclean.poison
    have hsoft : u.soft = [] := by
      rw [hframe]
      exact hclean.soft
    unfold putToken
    rw [hopen, anyPoison_clean hpoison, storeBytes_clean hpoison hsoft]
    rfl
  unfold runSampler
  dsimp only
  rw [hi, Option.bind_some, hl, Option.bind_some, ht, Option.map_some]
  dsimp only
  rw [hread, anyPoison_clean hclean.poison]
  simp only [Bool.not_true, Bool.false_eq_true, if_false]
  unfold drawnToken
  cases sampleToken c.desc (logitRow s c l).2
    (opalBits { seed := c.desc.seed, stream := c.desc.stream, step := c.step } 4 c.desc.opalTensor 4 32 0) with
  | some k => exact congrArg (sampled · c.num) (hput (some k) k)
  | none => exact congrArg (sampled · c.num) (hput none 0xFFFFFFFF)

/-- Settles O43: what `runSampler_writes` says of the job whose turn it is. -/
theorem tokenSamplerWritesItsToken : Obligations.TokenSamplerWritesItsToken := by
  unfold Obligations.TokenSamplerWritesItsToken
  intro s n hc hagenda
  refine ⟨exec_tokenSampler_idle, fun c p i l t hdone hp hturn hctx hi hl ht hps => ?_⟩
  dsimp only
  intro hread hwrite hdistinct
  obtain rfl : c.num = n := ctxGet_num hctx
  have hclean : Clean { s with out := [] } := ⟨hc.mem, hps.1, hps.2⟩
  have hrun := runSampler_writes hclean hi hl ht hread hwrite
  have hexec := exec_tokenSampler_turn hagenda hdone hp hturn hctx
  rw [hrun] at hexec
  obtain ⟨token, htoken⟩ : ∃ k, k = drawnToken { s with out := [] } c l := ⟨_, rfl⟩
  rw [← htoken] at hexec
  have hframe := rowCounted_frame { s with out := [] } c.num token
  have hcount := rowCounted_counts (s := { s with out := [] }) hc.regs c.num token
  have hsome : token.isSome = true → RegsBut s (rowCounted { s with out := [] } c.num token) [oSampRows]
      ∧ (rowCounted { s with out := [] } c.num token).events = s.events := by
    intro hsome
    obtain ⟨k, rfl⟩ := Option.isSome_iff_exists.mp hsome
    exact ⟨regsBut_regWrap { s with out := [] } _ _ _ _ (by simp), rfl⟩
  generalize rowCounted { s with out := [] } c.num token = v at hexec hframe hcount hsome
  have hvclean : Clean v := by
    rw [hframe]
    exact ⟨hc.mem, hps.1, hps.2⟩
  have hwritten := holds_spanWrite (b := toLE (token.getD 0xFFFFFFFF) 4) (a := tensorAddr t c.desc.base) hvclean
    (by rw [length_toLE]; exact hdistinct)
  rw [length_toLE] at hwritten
  obtain ⟨hholds, hbut⟩ := hwritten
  have hmem : v.mem = s.mem := by rw [hframe]
  have hbut' : MemBut s (spanWrite v (tensorAddr t c.desc.base) (toLE (token.getD 0xFFFFFFFF) 4)) (spanLinear (tensorAddr t c.desc.base) 4) :=
    fun b hb => (hbut b hb).trans (congrArg (fun m => sget memDefault m b) hmem)
  have hctx' : ctxGet v c.num = some c := by
    rw [hframe]
    exact hctx
  subst htoken
  refine ⟨_, hexec, hholds, hbut', ⟨_, ctxGet_sampled (s := spanWrite v _ _) hctx', rfl⟩, hcount, hsome, ?_⟩
  unfold sampled spanWrite ctxMap
  rw [hframe]

end Sys2Proof.Machine

/-! O52: the messages of PTP under SOURCE 1 (R288, R289, R310). -/

namespace Sys2Proof.Machine

open Sys2Proof Sys2Proof.Terms

variable {s t u v : State} {off : Int} {m : PtpMsg}

/-! ## What a sample leaves alone -/

/-- What no sample changes; one that steps DT forgets the Delay_Req under way. -/
structure SampleLeaves (s t : State) : Prop where
  mem : t.mem = s.mem
  ctxs : t.ctxs = s.ctxs
  xoff : t.xoff = s.xoff
  sessions : t.sessions = s.sessions
  delay : t.disc.delay = s.disc.delay
  delayReq : s.disc.delayReq = none → t.disc.delayReq = none

theorem sampleLeaves_refl (s : State) : SampleLeaves s s := ⟨rfl, rfl, rfl, rfl, rfl, id⟩

theorem sampleLeaves_trans (h : SampleLeaves s t) (h' : SampleLeaves t u) : SampleLeaves s u :=
  ⟨h'.mem.trans h.mem, h'.ctxs.trans h.ctxs, h'.xoff.trans h.xoff, h'.sessions.trans h.sessions, h'.delay.trans h.delay,
    fun hn => h'.delayReq (h.delayReq hn)⟩

theorem sampleLeaves_setTime (s : State) (new : TimeState) : SampleLeaves s (setTime s new) := by
  by_cases h : s.disc.state = new
  · rw [setTime_self h]
    exact sampleLeaves_refl s
  · have hlog : SampleLeaves s (logChange s new) := by
      unfold logChange
      dsimp only
      split <;> exact ⟨rfl, rfl, rfl, rfl, rfl, id⟩
    rw [setTime_of_ne h]
    exact sampleLeaves_trans hlog ⟨rfl, rfl, rfl, rfl, rfl, id⟩

theorem sampleLeaves_showSample (s : State) (off : Int) : SampleLeaves s (showSample s off) := by
  unfold showSample
  split
  · have hset := sampleLeaves_setTime s .acquiring
    exact ⟨hset.mem, hset.ctxs, hset.xoff, hset.sessions, hset.delay, hset.delayReq⟩
  · exact ⟨rfl, rfl, rfl, rfl, rfl, id⟩

theorem sampleLeaves_stepBy (s : State) (off : Int) : SampleLeaves s (stepBy s off) := ⟨rfl, rfl, rfl, rfl, rfl, fun _ => rfl⟩

theorem sampleLeaves_slewBy (s : State) (off : Int) : SampleLeaves s (slewBy s off) := by
  rw [slewBy_frame]
  exact ⟨rfl, rfl, rfl, rfl, rfl, id⟩

theorem sampleLeaves_withCounts (s : State) (good bad : Nat) : SampleLeaves s (withCounts s good bad) :=
  ⟨rfl, rfl, rfl, rfl, rfl, id⟩

theorem sampleLeaves_counted (s : State) (off : Int) : SampleLeaves s (counted s off) := by
  rw [counted]
  exact sampleLeaves_withCounts s _ _

theorem sampleLeaves_takeSnapshot (s : State) : SampleLeaves s (takeSnapshot s) := ⟨rfl, rfl, rfl, rfl, rfl, id⟩

theorem sampleLeaves_secRegs (s : State) : SampleLeaves s (secRegs s) := ⟨rfl, rfl, rfl, rfl, rfl, id⟩

theorem sampleLeaves_deviceReady (s : State) : SampleLeaves s (deviceReady s) := by
  unfold deviceReady
  dsimp only
  refine sampleLeaves_trans ?_ (sampleLeaves_trans (sampleLeaves_secRegs _) (sampleLeaves_takeSnapshot _))
  exact ⟨rfl, rfl, rfl, rfl, rfl, id⟩

theorem sampleLeaves_reachLocked (s : State) : SampleLeaves s (reachLocked s) := by
  unfold reachLocked
  dsimp only
  split
  · exact sampleLeaves_trans (sampleLeaves_setTime s .locked) (sampleLeaves_deviceReady _)
  · exact sampleLeaves_setTime s .locked

theorem sampleLeaves_countSample (s : State) (off : Int) : SampleLeaves s (countSample s off) := by
  have hcounted := sampleLeaves_counted s off
  rcases countSample_cases s off with ⟨-, -, h⟩ | ⟨-, h⟩ | h <;> rw [h]
  · exact sampleLeaves_trans hcounted (sampleLeaves_reachLocked _)
  · exact sampleLeaves_trans hcounted (sampleLeaves_setTime _ _)
  · exact hcounted

theorem sampleLeaves_takeSample (s : State) (off : Int) : SampleLeaves s (takeSample s off) := by
  have hshow := sampleLeaves_showSample s off
  rw [takeSample_eq]
  split
  · exact sampleLeaves_trans hshow (sampleLeaves_trans (sampleLeaves_stepBy _ _) (sampleLeaves_countSample _ _))
  · exact sampleLeaves_trans hshow (sampleLeaves_trans (sampleLeaves_slewBy _ _) (sampleLeaves_countSample _ _))

/-- What `Sampled` says depends on these parts of the state before alone. -/
theorem sampled_of_same (hstate : s.disc.state = u.disc.state) (hestimate : estimateNow s = estimateNow u) (hmember : member s = member u)
    (hdt : s.clock.dt = u.clock.dt) (hptp : regF s oTbPtp 31 16 = regF u oTbPtp 31 16) (h : Sampled u t off) : Sampled s t off := by
  unfold Sampled at h ⊢
  rw [hstate, hestimate, hmember, hdt, hptp]
  exact h

/-! ## What hearing a message leaves alone -/

theorem leaves_completeSync (s : State) (t1 t2 : Int) :
    (completeSync s t1 t2).xoff = s.xoff ∧ (completeSync s t1 t2).sessions = s.sessions := by
  unfold completeSync
  dsimp only
  split
  · have h := sampleLeaves_takeSample
    exact ⟨(h _ _).xoff, (h _ _).sessions⟩
  · exact ⟨rfl, rfl⟩

theorem leaves_takeSync (m : PtpMsg) (s : State) : (takeSync m s).xoff = s.xoff ∧ (takeSync m s).sessions = s.sessions := by
  unfold takeSync
  split
  · exact ⟨rfl, rfl⟩
  · dsimp only
    split
    · exact ⟨rfl, rfl⟩
    · split
      · exact ⟨rfl, rfl⟩
      · obtain ⟨hxoff, hsessions⟩ := leaves_completeSync
          { countSync s m.port with disc := { (countSync s m.port).disc with syncAt := (countSync s m.port).clock.dt } }
          (stampIn m + nsDt m.corrNs) (receiveStamp (countSync s m.port) m.port)
        exact ⟨hxoff, hsessions⟩

theorem leaves_takeFollowUp (m : PtpMsg) (s : State) : (takeFollowUp m s).xoff = s.xoff ∧ (takeFollowUp m s).sessions = s.sessions := by
  unfold takeFollowUp
  split
  · split
    · exact leaves_completeSync _ _ _
    · exact ⟨rfl, rfl⟩
  · exact ⟨rfl, rfl⟩

theorem leaves_takeDelayResp (m : PtpMsg) (s : State) : (takeDelayResp m s).xoff = s.xoff ∧ (takeDelayResp m s).sessions = s.sessions := by
  unfold takeDelayResp
  split
  · split
    · exact ⟨rfl, rfl⟩
    · dsimp only
      split
      · exact ⟨rfl, rfl⟩
      · have h := sampleLeaves_takeSample
        exact ⟨(h _ _).xoff, (h _ _).sessions⟩
  · exact ⟨rfl, rfl⟩

theorem leaves_changeMaster (s : State) (a : PtpAnnounce) : (changeMaster s a).xoff = s.xoff ∧ (changeMaster s a).sessions = s.sessions := by
  unfold changeMaster
  dsimp only
  split
  · have h := sampleLeaves_setTime
    exact ⟨(h _ _).xoff, (h _ _).sessions⟩
  · exact ⟨rfl, rfl⟩

theorem leaves_takeAnnounce (m : PtpAnnounce) (s : State) : (takeAnnounce m s).xoff = s.xoff ∧ (takeAnnounce m s).sessions = s.sessions := by
  unfold takeAnnounce
  dsimp only
  split
  · exact ⟨rfl, rfl⟩
  · split
    · exact ⟨rfl, rfl⟩
    · obtain ⟨hxoff, hsessions⟩ := leaves_changeMaster { s with disc := { s.disc with
        masters := (s.disc.masters.filter fun (a, _) => !(a.port == m.port && a.source == m.source)) ++ [(m, s.clock.dt)] } } _
      exact ⟨hxoff, hsessions⟩

/-! ## A message that the time port hears, or does not -/

section

variable {port : Nat} {domain : Byte} {ip : Option Bool} {use : State → State}

/-- A message in an IP version that is off is dropped and counted, where the interface is up (R335). -/
theorem ptpTake_deaf (h : ptpIpOn s port ip = false) : ∃ t, ptpTake s port domain ip use = t
    ∧ RegsBut s t [oEth port + 0x38] ∧ t = { s with out := [], regs := t.regs } := by
  have h' : ptpIpOn { s with out := [] } port ip = false := h
  have hcount : RegsBut { s with out := [] } (filterFrame { s with out := [] } port) [oEth port + 0x38] := regsBut_regCount _ _ _ _ _ (by simp)
  refine ⟨_, rfl, ?_⟩
  unfold ptpTake
  dsimp only
  rw [h', Bool.not_false, if_pos rfl]
  split
  · exact ⟨hcount, rfl⟩
  · exact ⟨fun _ _ => rfl, rfl⟩

/-- A message that the time port does not hear is counted as a frame, where the interface is up (R366). -/
theorem ptpTake_unheard (hxoff : s.xoff = false) (hfree : 513 ≤ rxFree s) (hip : ptpIpOn s port ip = true)
    (h : ptpListens s port domain = false) : ∃ t, ptpTake s port domain ip use = t
    ∧ RegsBut s t [oEth port + 0x30] ∧ t = { s with out := [], regs := t.regs } := by
  have hip' : ptpIpOn { s with out := [] } port ip = true := hip
  have h' : ptpListens { s with out := [] } port domain = false := h
  have hspare : chargeReserve { s with out := [] } port 1 id = countRx { s with out := [] } port :=
    chargeReserve_spare hxoff (by omega) (show 1 + 512 ≤ rxFree s by omega) fun u hu => ⟨hu, rfl⟩
  refine ⟨_, rfl, ?_⟩
  unfold ptpTake ptpUnheard
  dsimp only
  rw [hip', h', hspare, Bool.not_true, Bool.not_false, if_neg Bool.false_ne_true, if_pos rfl]
  split
  · exact ⟨regsBut_countRx _ _ (by simp), rfl⟩
  · exact ⟨fun _ _ => rfl, rfl⟩

/-- A message that the time port hears is counted as a frame, and used. -/
theorem ptpTake_heard (hxoff : s.xoff = false) (hfree : 513 ≤ rxFree s) (hip : ptpIpOn s port ip = true)
    (h : ptpListens s port domain = true) (huse : ∀ u, (use u).xoff = u.xoff ∧ (use u).sessions = u.sessions) :
    ptpTake s port domain ip use = use (countRx { s with out := [] } port) := by
  have hip' : ptpIpOn { s with out := [] } port ip = true := hip
  have h' : ptpListens { s with out := [] } port domain = true := h
  have hspare : chargeReserve { s with out := [] } port 1 use = use (countRx { s with out := [] } port) :=
    chargeReserve_spare hxoff (by omega) (show 1 + 512 ≤ rxFree s by omega) fun u hu => ⟨(huse u).1.trans hu, (huse u).2⟩
  unfold ptpTake
  dsimp only
  rw [hip', h', hspare, Bool.not_true, if_neg Bool.false_ne_true, if_neg Bool.false_ne_true]

theorem port_of_listens (h : ptpListens s port domain = true) : port < 2 := by
  unfold ptpListens at h
  simp only [Bool.and_eq_true, decide_eq_true_eq] at h
  obtain ⟨⟨⟨-, hport⟩, -⟩, -⟩ := h
  exact hport

/-- A state in which a frame has been counted, and nothing has been done with it yet. -/
structure FrameCounted (s v : State) (port : Nat) : Prop where
  inRange : port < 2
  form : swf resetWord v.regs = true
  regs : RegsBut s v [oEth port + 0x30]
  frame : v = { s with out := [], regs := v.regs }

theorem frameCounted_countRx (hregs : swf resetWord s.regs = true) (hport : port < 2) :
    FrameCounted s (countRx { s with out := [] } port) port :=
  ⟨hport, swf_regSet hregs _ _, regsBut_countRx { s with out := [] } port (by simp), rfl⟩

/-- The time base's registers are none of a port's. -/
theorem regF_frameCounted (h : FrameCounted s v port) {a : Nat} (ha : a < 0x40000 ∨ a = oEth port + 8 ∨ a = oEth port + 0x40 ∨ a = oTbPtp)
    (hi lo : Nat) : regF v a hi lo = regF s a hi lo := by
  refine congrArg (getF · hi lo) (h.regs a ?_)
  have hport := h.inRange
  simp only [oEth, oTbPtp, List.mem_singleton] at ha ⊢
  omega

theorem receiveStamp_frameCounted (h : FrameCounted s v port) : receiveStamp v port = receiveStamp s port := by
  have hmode : activeMode v port = activeMode s port := regF_frameCounted h (by simp) 5 4
  have htrim := regF_frameCounted h (a := oEth port + 0x40) (by simp) 15 0
  have hdt : v.clock = s.clock := by rw [h.frame]
  unfold receiveStamp
  rw [hmode, htrim, hdt]

end

/-! ## Sync and Follow_Up -/

/-- The device has taken a Sync of its master on a port. -/
def syncTaken (s : State) (port : Nat) : State :=
  { countSync s port with disc := { (countSync s port).disc with syncAt := s.clock.dt } }

theorem syncsIn_syncTaken (s : State) (port : Nat) : syncsIn (syncTaken s port) port = syncsIn s port + 1 := by
  have hfind : ((s.disc.syncs.filter (fun y => y.1 != port)) ++ [(port, dtSec s, syncsIn s port + 1)]).find?
      (fun y => y.1 == port && y.2.1 == dtSec s) = some (port, dtSec s, syncsIn s port + 1) := by
    rw [List.find?_append, List.find?_eq_none.mpr, Option.none_or]
    · simp
    · intro y hy
      have := (List.mem_filter.mp hy).2
      simp_all
  exact congrArg (fun o => (o.map (·.2.2)).getD 0) hfind

theorem takeSync_many (h : 128 ≤ syncsIn s m.port) : takeSync m s = regCount s oTbPtp 15 0 1 := if_pos h

theorem takeSync_master (h : syncsIn s m.port < 128) (hmaster : fromMaster s m.port m.source = true) :
    takeSync m s = if m.twoStep then
        { syncTaken s m.port with disc := { (syncTaken s m.port).disc with sync := some (m, receiveStamp s m.port) } }
      else completeSync (syncTaken s m.port) (stampIn m + nsDt m.corrNs) (receiveStamp s m.port) := by
  have hmaster' : fromMaster (countSync s m.port) m.port m.source = true := hmaster
  have hstamp : receiveStamp (countSync s m.port) m.port = receiveStamp s m.port := rfl
  unfold takeSync
  rw [if_neg (Nat.not_le.mpr h)]
  dsimp only
  rw [hmaster', hstamp, Bool.not_true, if_neg Bool.false_ne_true]
  rfl

/-- The times of a Sync are known, and wait for the path delay or have formed a sample. -/
def syncKnown (s : State) (t1 t2 : Int) (formed : Bool) : State :=
  { s with disc := { s.disc with lastSync := some (t1, t2), sync := none, formed := formed } }

theorem completeSync_waits {t1 t2 : Int} (h : s.disc.delay = none) : completeSync s t1 t2 = syncKnown s t1 t2 false := by
  unfold completeSync syncKnown
  dsimp only
  rw [h]

theorem completeSync_samples {t1 t2 d : Int} (h : s.disc.delay = some d) :
    completeSync s t1 t2 = takeSample (syncKnown s t1 t2 true) (t2 - t1 - d) := by
  unfold completeSync syncKnown
  dsimp only
  rw [h]

theorem takeFollowUp_master {y : PtpMsg} {t2 : Int} (h : s.disc.sync = some (y, t2)) (hseq : y.seqId = m.seqId)
    (hsource : y.source = m.source) (hport : y.port = m.port) (hmaster : fromMaster s m.port m.source = true) :
    takeFollowUp m s = completeSync s (stampIn m + nsDt m.corrNs + nsDt y.corrNs) t2 := by
  unfold takeFollowUp
  rw [h]
  exact if_pos ⟨hseq, hsource, hport, hmaster⟩

/-! ## Delay_Resp -/

/-- The path delay is known, and the Sync's sample has formed. -/
def delayKnown (s : State) (d : Int) : State :=
  { s with disc := { s.disc with delay := some d, delayReq := none, formed := true } }

theorem takeDelayResp_master {t3 : Nat} {a1 a2 : Int} (hreq : s.disc.delayReq = some (m.seqId, t3))
    (hsync : s.disc.lastSync = some (a1, a2)) (hmaster : fromMaster s m.port m.source = true) :
    takeDelayResp m s =
      let d := ((a2 - a1) + (stampIn m - nsDt m.corrNs - t3)) / 2
      if s.disc.formed then delayKnown s d else takeSample (delayKnown s d) (a2 - a1 - d) := by
  unfold takeDelayResp
  rw [hreq, hsync]
  dsimp only
  rw [hmaster, if_neg (by simp)]
  rfl

/-! ## A sample in a state that differs in what it does not depend on -/

/-- The state before a sample, with the message's own books kept. -/
structure SampleBooks (s u : State) : Prop where
  disc : u.disc = { s.disc with
    syncs := u.disc.syncs, syncAt := u.disc.syncAt, lastSync := u.disc.lastSync, sync := u.disc.sync, formed := u.disc.formed
    delay := u.disc.delay, delayReq := u.disc.delayReq }
  clock : u.clock = s.clock
  group : u.group = s.group
  ptp : regF s oTbPtp 31 16 = regF u oTbPtp 31 16
  form : swf resetWord u.regs = true

theorem sampled_of_books (h : SampleBooks s u) (off : Int) : Sampled s (takeSample u off) off := by
  have hstate : s.disc.state = u.disc.state := by rw [h.disc]
  have hsegs : segsNow s = segsNow u := by
    unfold segsNow
    rw [h.disc, h.clock]
  have hestimate : estimateNow s = estimateNow u := by
    unfold estimateNow
    rw [hsegs, h.clock]
  have hmember : member s = member u := by
    unfold member
    rw [h.group]
  exact sampled_of_same hstate hestimate hmember (by rw [h.clock]) h.ptp (sampled_takeSample h.form off)

/-! ## The messages in their turn -/

section

variable {port : Nat} {t1 t2 d : Int}

theorem sampleBooks_frameCounted (h : FrameCounted s v port) : SampleBooks s v :=
  ⟨by rw [h.frame], by rw [h.frame], by rw [h.frame], (regF_frameCounted h (by simp) 31 16).symm, h.form⟩

theorem sampleBooks_trans (h : SampleBooks s v) (h' : SampleBooks v u) : SampleBooks s u :=
  ⟨by rw [h'.disc, h.disc], h'.clock.trans h.clock, h'.group.trans h.group, h.ptp.trans h'.ptp, h'.form⟩

theorem syncTaken_delay (s : State) (port : Nat) : (syncTaken s port).disc.delay = s.disc.delay := rfl
theorem syncTaken_mem (s : State) (port : Nat) : (syncTaken s port).mem = s.mem := rfl
theorem syncTaken_ctxs (s : State) (port : Nat) : (syncTaken s port).ctxs = s.ctxs := rfl

theorem sampleLeaves_syncKnown (s : State) (t1 t2 : Int) (formed : Bool) : SampleLeaves s (syncKnown s t1 t2 formed) :=
  ⟨rfl, rfl, rfl, rfl, rfl, id⟩

theorem sampleBooks_syncTaken (hregs : swf resetWord v.regs = true) : SampleBooks v (syncTaken v port) := ⟨rfl, rfl, rfl, rfl, hregs⟩

theorem sampleBooks_syncKnown (hregs : swf resetWord v.regs = true) (formed : Bool) : SampleBooks v (syncKnown v t1 t2 formed) :=
  ⟨rfl, rfl, rfl, rfl, hregs⟩

theorem sampleBooks_delayKnown (hregs : swf resetWord v.regs = true) : SampleBooks v (delayKnown v d) := ⟨rfl, rfl, rfl, rfl, hregs⟩

/-- A Sync whose times are known, as its frame has been counted: a sample when the path delay is known. -/
theorem syncTaken_samples (h : FrameCounted s v port) (hd : s.disc.delay = some d) :
    ∃ t, completeSync (syncTaken v port) t1 t2 = t ∧ Sampled s t (t2 - t1 - d) ∧ t.disc.delay = some d ∧ t.mem = s.mem ∧ t.ctxs = s.ctxs := by
  have hv : v.disc = s.disc := by rw [h.frame]
  have hmem : v.mem = s.mem := by rw [h.frame]
  have hctxs : v.ctxs = s.ctxs := by rw [h.frame]
  have hdelay : (syncTaken v port).disc.delay = some d := by
    rw [syncTaken_delay, hv]
    exact hd
  have hbooks : SampleBooks s (syncKnown (syncTaken v port) t1 t2 true) :=
    sampleBooks_trans (sampleBooks_frameCounted h)
      (sampleBooks_trans (sampleBooks_syncTaken h.form) (sampleBooks_syncKnown (sampleBooks_syncTaken h.form).form true))
  have hsampled := sampled_of_books hbooks (t2 - t1 - d)
  have hleaves := sampleLeaves_trans (sampleLeaves_syncKnown (syncTaken v port) t1 t2 true)
    (sampleLeaves_takeSample (syncKnown (syncTaken v port) t1 t2 true) (t2 - t1 - d))
  rw [completeSync_samples hdelay]
  generalize takeSample (syncKnown (syncTaken v port) t1 t2 true) (t2 - t1 - d) = t at hsampled hleaves
  refine ⟨t, rfl, hsampled, hleaves.delay.trans hdelay, ?_, ?_⟩
  · rw [hleaves.mem, syncTaken_mem, hmem]
  · rw [hleaves.ctxs, syncTaken_ctxs, hctxs]

end

section

variable (hc : Canonical s) (hxoff : s.xoff = false) (hfree : 513 ≤ rxFree s) (hip : ptpIpOn s m.port m.ip = true)
  (hlistens : ptpListens s m.port m.domain = true)

include hc hxoff hfree hip hlistens

theorem exec_ptpSync : ∃ v, FrameCounted s v m.port ∧ exec (.ptpSync m) s = .next (takeSync m v) :=
  ⟨_, frameCounted_countRx hc.regs (port_of_listens hlistens),
    congrArg Host.Outcome.next (ptpTake_heard hxoff hfree hip hlistens (leaves_takeSync m))⟩

theorem exec_ptpFollowUp : ∃ v, FrameCounted s v m.port ∧ exec (.ptpFollowUp m) s = .next (takeFollowUp m v) :=
  ⟨_, frameCounted_countRx hc.regs (port_of_listens hlistens),
    congrArg Host.Outcome.next (ptpTake_heard hxoff hfree hip hlistens (leaves_takeFollowUp m))⟩

theorem exec_ptpDelayResp : ∃ v, FrameCounted s v m.port ∧ exec (.ptpDelayResp m) s = .next (takeDelayResp m v) :=
  ⟨_, frameCounted_countRx hc.regs (port_of_listens hlistens),
    congrArg Host.Outcome.next (ptpTake_heard hxoff hfree hip hlistens (leaves_takeDelayResp m))⟩

end

/-- What the statement says of a Sync of the master. -/
theorem ptpSync_spec (hc : Canonical s) (hxoff : s.xoff = false) (hfree : 513 ≤ rxFree s) (hip : ptpIpOn s m.port m.ip = true)
    (hlistens : ptpListens s m.port m.domain = true) (hmaster : fromMaster s m.port m.source = true) :
    (128 ≤ syncsIn s m.port → ∃ t, exec (.ptpSync m) s = .next t ∧ regF t oTbPtp 15 0 = min 65535 (regF s oTbPtp 15 0 + 1)
        ∧ t = { s with out := [], regs := t.regs })
      ∧ (syncsIn s m.port < 128 → m.twoStep = true →
        ∃ t, exec (.ptpSync m) s = .next t ∧ t.disc.sync = some (m, receiveStamp s m.port) ∧ t.disc.syncAt = s.clock.dt
          ∧ syncsIn t m.port = syncsIn s m.port + 1 ∧ t = { s with out := [], regs := t.regs, disc := t.disc })
      ∧ (syncsIn s m.port < 128 → m.twoStep = false →
        (s.disc.delay = none →
          ∃ t, exec (.ptpSync m) s = .next t ∧ t.disc.lastSync = some (stampIn m + nsDt m.corrNs, receiveStamp s m.port)
            ∧ t.disc.formed = false ∧ t = { s with out := [], regs := t.regs, disc := t.disc })
        ∧ ∀ d, s.disc.delay = some d →
          ∃ t, exec (.ptpSync m) s = .next t ∧ Sampled s t (receiveStamp s m.port - (stampIn m + nsDt m.corrNs) - d)
            ∧ t.disc.delay = some d ∧ t.mem = s.mem ∧ t.ctxs = s.ctxs) := by
  obtain ⟨v, hv, hexec⟩ := exec_ptpSync hc hxoff hfree hip hlistens
  have hsyncs : syncsIn v m.port = syncsIn s m.port := by
    rw [hv.frame]
    rfl
  have hmaster' : fromMaster v m.port m.source = true := by
    rw [hv.frame]
    exact hmaster
  have hstamp := receiveStamp_frameCounted hv
  refine ⟨fun hmany => ?_, fun hfew htwo => ?_, fun hfew hone => ⟨fun hdelay => ?_, fun d hdelay => ?_⟩⟩
  · rw [takeSync_many (by rwa [hsyncs])] at hexec
    refine ⟨_, hexec, ?_, ?_⟩
    · rw [regF_regCount_same hv.form oTbPtp 1 (by decide) (by decide), regF_frameCounted hv (by simp)]
      rfl
    · have hframe := hv.frame
      generalize v = w at hframe
      rw [hframe]
      rfl
  · rw [takeSync_master (by rwa [hsyncs]) hmaster', if_pos htwo, hstamp] at hexec
    refine ⟨_, hexec, rfl, ?_, ?_, ?_⟩
    · rw [hv.frame]
      rfl
    · rw [← hsyncs]
      exact syncsIn_syncTaken v m.port
    · have hframe := hv.frame
      generalize v = w at hframe
      rw [hframe]
      rfl
  · rw [takeSync_master (by rwa [hsyncs]) hmaster', if_neg (by simp [hone]), hstamp] at hexec
    have hnone : (syncTaken v m.port).disc.delay = none := by
      rw [hv.frame]
      exact hdelay
    rw [completeSync_waits hnone] at hexec
    refine ⟨_, hexec, rfl, rfl, ?_⟩
    have hframe := hv.frame
    generalize v = w at hframe
    rw [hframe]
    rfl
  · rw [takeSync_master (by rwa [hsyncs]) hmaster', if_neg (by simp [hone]), hstamp] at hexec
    obtain ⟨t, ht, hsampled⟩ := syncTaken_samples hv hdelay (t1 := stampIn m + nsDt m.corrNs) (t2 := receiveStamp s m.port)
    exact ⟨t, by rw [hexec, ht], hsampled⟩

theorem ptpFollowUp_spec (hc : Canonical s) (hxoff : s.xoff = false) (hfree : 513 ≤ rxFree s) (hip : ptpIpOn s m.port m.ip = true)
    (hlistens : ptpListens s m.port m.domain = true) (hmaster : fromMaster s m.port m.source = true) {y : PtpMsg} {a : Int}
    (hsync : s.disc.sync = some (y, a)) (hseq : y.seqId = m.seqId) (hsource : y.source = m.source) (hport : y.port = m.port)
    (hdelay : s.disc.delay = none) :
    ∃ t, exec (.ptpFollowUp m) s = .next t ∧ t.disc.sync = none
      ∧ t.disc.lastSync = some (stampIn m + nsDt m.corrNs + nsDt y.corrNs, a)
      ∧ t = { s with out := [], regs := t.regs, disc := t.disc } := by
  obtain ⟨v, hv, hexec⟩ := exec_ptpFollowUp hc hxoff hfree hip hlistens
  have hdisc : v.disc = s.disc := by rw [hv.frame]
  have hmaster' : fromMaster v m.port m.source = true := by
    rw [hv.frame]
    exact hmaster
  rw [takeFollowUp_master (by rw [hdisc]; exact hsync) hseq hsource hport hmaster',
    completeSync_waits (by rw [hdisc]; exact hdelay)] at hexec
  refine ⟨_, hexec, rfl, rfl, ?_⟩
  have hframe := hv.frame
  generalize v = w at hframe
  rw [hframe]
  rfl

theorem delayKnown_delay (s : State) (d : Int) : (delayKnown s d).disc.delay = some d := rfl
theorem delayKnown_delayReq (s : State) (d : Int) : (delayKnown s d).disc.delayReq = none := rfl

theorem delayKnown_frame (s : State) (d : Int) : delayKnown s d = { s with disc := (delayKnown s d).disc } := rfl

theorem ptpDelayResp_spec (hc : Canonical s) (hxoff : s.xoff = false) (hfree : 513 ≤ rxFree s) (hip : ptpIpOn s m.port m.ip = true)
    (hlistens : ptpListens s m.port m.domain = true) (hmaster : fromMaster s m.port m.source = true) {t3 : Nat} {a1 a2 d : Int}
    (hreq : s.disc.delayReq = some (m.seqId, t3)) (hsync : s.disc.lastSync = some (a1, a2))
    (hd : d = ((a2 - a1) + (stampIn m - nsDt m.corrNs - t3)) / 2) :
    ∃ t, exec (.ptpDelayResp m) s = .next t ∧ t.disc.delay = some d ∧ t.disc.delayReq = none
      ∧ (s.disc.formed = false → Sampled s t (a2 - a1 - d))
      ∧ (s.disc.formed = true → t = { s with out := [], regs := t.regs, disc := t.disc }) := by
  obtain ⟨v, hv, hexec⟩ := exec_ptpDelayResp hc hxoff hfree hip hlistens
  have hdisc : v.disc = s.disc := by rw [hv.frame]
  have hmaster' : fromMaster v m.port m.source = true := by
    rw [hv.frame]
    exact hmaster
  rw [takeDelayResp_master (by rw [hdisc]; exact hreq) (by rw [hdisc]; exact hsync) hmaster'] at hexec
  dsimp only at hexec
  rw [← hd, hdisc] at hexec
  cases hformed : s.disc.formed with
  | true =>
    rw [hformed, if_pos rfl] at hexec
    refine ⟨_, hexec, delayKnown_delay v d, delayKnown_delayReq v d, fun h => absurd h Bool.true_eq_false.mp, fun _ => ?_⟩
    have hframe := hv.frame
    generalize v = w at hframe
    rw [hframe]
    rfl
  | false =>
    rw [hformed, if_neg Bool.false_ne_true] at hexec
    have hsampled := sampled_of_books (sampleBooks_trans (sampleBooks_frameCounted hv) (sampleBooks_delayKnown (d := d) hv.form)) (a2 - a1 - d)
    have hleaves := sampleLeaves_takeSample (delayKnown v d) (a2 - a1 - d)
    generalize takeSample (delayKnown v d) (a2 - a1 - d) = t at hexec hsampled hleaves
    exact ⟨t, hexec, hleaves.delay.trans (delayKnown_delay v d), hleaves.delayReq (delayKnown_delayReq v d), fun _ => hsampled,
      fun h => absurd h Bool.false_ne_true⟩

/-! ## Announce and Delay_Req -/

/-- The first Announce heard makes its sender the master (R288). -/
theorem takeAnnounce_first {m : PtpAnnounce} (hmaster : s.disc.master = none) (hmasters : s.disc.masters = []) :
    ∃ t, takeAnnounce m s = t ∧ t.disc.master = some m ∧ t.disc.announceAt = s.clock.dt ∧ t.disc.delay = none
      ∧ t.disc.state = s.disc.state ∧ t = { s with disc := t.disc } := by
  obtain ⟨u, hu⟩ : ∃ u, { s with disc := { s.disc with masters := [(m, s.clock.dt)] } } = u := ⟨_, rfl⟩
  have hlive : bestMaster u = some m := by
    rw [← hu]
    unfold bestMaster
    simp
  have hno : fromMaster u m.port m.source = false := by
    rw [← hu, fromMaster]
    dsimp only
    rw [hmaster]
    rfl
  have htaken : takeAnnounce m s = changeMaster u m := by
    unfold takeAnnounce
    dsimp only
    rw [hmasters, List.filter_nil, List.nil_append, hu, hlive]
    dsimp only
    rw [hno, if_neg Bool.false_ne_true]
  have hfirst : changeMaster u m = { u with disc := { u.disc with
      master := some m, announceAt := u.clock.dt, syncAt := u.clock.dt, sync := none, lastSync := none
      delayReq := none, delay := none, formed := false } } := by
    have hsome : ¬(u.disc.master.isSome = true ∧ u.disc.state = .locked) := by
      rw [← hu]
      simp [hmaster]
    exact if_neg hsome
  rw [htaken, hfirst]
  subst hu
  exact ⟨_, rfl, rfl, rfl, rfl, rfl, rfl⟩

/-- A Delay_Req speaks the IP version of its transport. -/
theorem heldIpOn_delayReq (s : State) (port : Nat) (domain : Byte) (q : BitVec 16) (transport : PtpTransport) :
    heldIpOn s { port := port, iface := 0, what := .frame (.delayReq domain q transport) } = ptpIpOn s port (transportIp transport) := by
  cases transport <;> rfl

/-- The books of a Delay_Req that is under way. -/
def delayAsked (s : State) (a : PtpAnnounce) : State :=
  { s with disc := { s.disc with
      delaySeq := s.disc.delaySeq + 1, delayReq := some (s.disc.delaySeq + 1, sendStamp s a.port), delayAt := s.clock.dt } }

/-- The interval is over, and the device follows its master over an interface that is up. -/
structure AsksDelay (s : State) (a : PtpAnnounce) : Prop where
  master : s.disc.master = some a
  runs : linkRuns s = true
  source : regF s oTbCtrl 1 0 = 1
  up : ifaceUp s a.port 0 = true
  due : s.disc.delayAt + delayInterval a.delayReqLog ≤ s.clock.dt

variable {a : PtpAnnounce}

theorem exec_delayReqSend (h : AsksDelay s a) :
    exec .delayReqSend s = .next (if maySendOn s a.port 0 = true ∧ ptpIpOn s a.port (transportIp a.transport) = true then
      sendOrHold (delayAsked { s with out := [] } a) a.port 0
        (.frame (.delayReq (BitVec.ofNat 8 (regF s oTbCtrl 15 8)) (s.disc.delaySeq + 1) a.transport)) else { s with out := [] }) := by
  have hcond : (!linkRuns s ∨ regF s oTbCtrl 1 0 ≠ 1 ∨ !ifaceUp s a.port 0 ∨ !maySendOn s a.port 0
      ∨ !ptpIpOn s a.port (transportIp a.transport) ∨ s.clock.dt < s.disc.delayAt + delayInterval a.delayReqLog)
      ↔ ¬(maySendOn s a.port 0 = true ∧ ptpIpOn s a.port (transportIp a.transport) = true) := by
    rw [h.runs, h.source, h.up]
    have hdue := Nat.not_lt.mpr h.due
    cases maySendOn s a.port 0 <;> simp [hdue]
  show execDelayReqSend s = _
  unfold execDelayReqSend delayAsked
  dsimp only
  rw [h.master]
  dsimp only
  by_cases hgo : maySendOn s a.port 0 = true ∧ ptpIpOn s a.port (transportIp a.transport) = true
  · rw [if_pos hgo]
    refine (if_neg ?_).trans rfl
    exact hcond.not.mpr (not_not.mpr hgo)
  · rw [if_neg hgo]
    refine if_pos ?_
    exact hcond.mpr hgo

/-- A Delay_Req that its interface may send leaves at once. -/
theorem delayReq_leaves (hout : s.out = []) (hmay : maySendOn s a.port 0 = true) (hip : ptpIpOn s a.port (transportIp a.transport) = true)
    (domain : Byte) : ∃ t w, sendOrHold (delayAsked s a) a.port 0 (.frame (.delayReq domain (s.disc.delaySeq + 1) a.transport)) = t
      ∧ t.out = [.frame a.port 0 w (.delayReq domain (s.disc.delaySeq + 1) a.transport)]
      ∧ t.disc = (delayAsked s a).disc ∧ t = { s with out := t.out, regs := t.regs, disc := t.disc, saks := t.saks } := by
  have hmay' : maySendOn (delayAsked s a) a.port 0 = true := hmay
  have hheld := (heldIpOn_delayReq (delayAsked s a) a.port domain (s.disc.delaySeq + 1) a.transport).trans hip
  obtain ⟨⟨w, hw⟩, hframe⟩ := sendHeld_leaves (s := delayAsked s a) hout
    { port := a.port, iface := 0, what := .frame (.delayReq domain (s.disc.delaySeq + 1) a.transport) }
  unfold sendOrHold
  dsimp only
  rw [hmay', hheld, Bool.and_true, if_pos rfl]
  generalize sendHeld (delayAsked s a) _ = t at hw hframe
  refine ⟨t, w, rfl, hw, by rw [hframe], ?_⟩
  rw [hframe]
  rfl

/-- Settles O52: the messages in their turn, with `sampled_takeSample` for the samples that form. -/
theorem ptpMessagesDisciplineTheClock : Obligations.PtpMessagesDisciplineTheClock := by
  unfold Obligations.PtpMessagesDisciplineTheClock
  refine ⟨fun s m hc hxoff hfree => ⟨fun hip c hin => ?_, fun hip hno c hin => ?_, fun hip hlistens hmaster => ?_⟩,
    fun s m hxoff hfree hlistens hip hmaster hmasters => ?_, fun s a hmaster hrun hsource hup hdue => ?_⟩
  · have hdeaf {use : State → State} := ptpTake_deaf (domain := m.domain) (use := use) hip
    simp only [List.mem_cons, List.not_mem_nil, or_false] at hin
    obtain rfl | rfl | rfl := hin <;> obtain ⟨t, ht, hrest⟩ := hdeaf <;> exact ⟨t, congrArg Host.Outcome.next ht, hrest⟩
  · have hunheard {use : State → State} := ptpTake_unheard (use := use) hxoff hfree hip hno
    simp only [List.mem_cons, List.not_mem_nil, or_false] at hin
    obtain rfl | rfl | rfl := hin <;> obtain ⟨t, ht, hrest⟩ := hunheard <;> exact ⟨t, congrArg Host.Outcome.next ht, hrest⟩
  · obtain ⟨hmany, htwo, hone⟩ := ptpSync_spec hc hxoff hfree hip hlistens hmaster
    exact ⟨hmany, htwo, hone, fun y a => ptpFollowUp_spec hc hxoff hfree hip hlistens hmaster,
      fun t3 a1 a2 hreq hsync => ptpDelayResp_spec hc hxoff hfree hip hlistens hmaster hreq hsync rfl⟩
  · obtain ⟨t, ht, hm, hat, hdelay, hstate, hframe⟩ :=
      takeAnnounce_first (s := countRx { s with out := [] } m.port) (m := m) hmaster hmasters
    have hheard := ptpTake_heard hxoff hfree hip hlistens (leaves_takeAnnounce m)
    refine ⟨t, congrArg Host.Outcome.next (hheard.trans ht), hm, hat, hdelay, hstate, ?_⟩
    rw [hframe]
    rfl
  · have hexec := exec_delayReqSend ⟨hmaster, hrun, hsource, hup, hdue⟩
    refine ⟨fun hno => hexec.trans (congrArg _ (if_neg ?_)), fun hmay hip => ?_⟩
    · rintro ⟨hmay, hip⟩
      rcases hno with hno | hno
      · exact absurd (hno.symm.trans hmay) Bool.false_ne_true
      · exact absurd (hno.symm.trans hip) Bool.false_ne_true
    · obtain ⟨t, w, ht, hout, hdisc, hframe⟩ := delayReq_leaves (s := { s with out := [] }) (a := a) rfl hmay hip
        (BitVec.ofNat 8 (regF s oTbCtrl 15 8))
      refine ⟨t, w, hexec.trans (congrArg _ ((if_pos ⟨hmay, hip⟩).trans ht)), hout, ?_, ?_, ?_, hframe⟩ <;> rw [hdisc] <;> rfl

end Sys2Proof.Machine

/-! O37: held arrays that ramp down, and flits that a link cannot correct (R14, R81). -/

namespace Sys2Proof.Machine

open Sys2Proof Sys2Proof.Terms

variable {s t u : State} {e k n : Nat}

/-! ## HOLD_SIMMER_EXPIRY -/

theorem exec_holdSimmerExpiry_due (hheld : isHeld (engGet s e) = true) (hramp : s.power.ramp = false) (hlong : 256 ≤ heldCycles s e)
    (hk : k < 4) : exec (.holdSimmerExpiry e k) s
      = .next (engSet { s with out := [] } e (arraySet (engGet s e) k { arrayGet (engGet s e) k with down := true })) := by
  have hgo : isHeld (engGet s e) = true ∧ 256 ≤ heldCycles s e ∧ (!s.power.ramp) = true ∧ k < 4 := ⟨hheld, hlong, by rw [hramp]; rfl, hk⟩
  show execHoldSimmerExpiry e k s = _
  unfold execHoldSimmerExpiry
  dsimp only
  exact if_pos hgo

theorem exec_holdSimmerExpiry_early (h : heldCycles s e < 256) : exec (.holdSimmerExpiry e k) s = .next { s with out := [] } := by
  have hno : ¬(isHeld (engGet s e) = true ∧ 256 ≤ heldCycles s e ∧ (!s.power.ramp) = true ∧ k < 4) := by omega
  show execHoldSimmerExpiry e k s = _
  unfold execHoldSimmerExpiry
  dsimp only
  exact if_neg hno

/-! ## D2D_FLIT_UNCORRECTABLE -/

/-- The marks that a bad flit leaves, at one engine. -/
structure FlitMarks (s t : State) (e : Nat) : Prop where
  other : ∀ k, k ≠ e → engGet t k = engGet s k
  frame : t = { s with
    engines := t.engines, poison := t.poison, taint := t.taint, fails := t.fails, flitReads := t.flitReads }

theorem flitMarks_trans (h : FlitMarks s t e) (h' : FlitMarks t u e) : FlitMarks s u e :=
  ⟨fun k hk => (h'.other k hk).trans (h.other k hk), by rw [h'.frame, h.frame]⟩

theorem flitMarks_refl (s : State) (e : Nat) : FlitMarks s s e := ⟨fun _ _ => rfl, rfl⟩

theorem flitMarks_engSet (s : State) (e : Nat) (x : Engine) : FlitMarks s (engSet s e x) e :=
  ⟨fun _ hk => engGet_engSet_other s x hk, rfl⟩

theorem flitMarks_failAt (s : State) (e : Nat) (ctxs : List Nat) (c : Code) : FlitMarks s (failAt s ctxs c) e := ⟨fun _ _ => rfl, rfl⟩

theorem flitMarks_taintSet (s : State) (e a n : Nat) (bad : Bool) : FlitMarks s (taintSet s a n bad) e := by
  unfold taintSet
  split
  · exact ⟨fun _ _ => rfl, rfl⟩
  · split
    · exact flitMarks_refl s e
    · exact ⟨fun _ _ => rfl, rfl⟩

theorem flitMarks_poisonAdd (s : State) (e w : Nat) : FlitMarks s (poisonAdd s w) e := by
  unfold poisonAdd
  split
  · exact flitMarks_refl s e
  · exact ⟨fun _ _ => rfl, rfl⟩

theorem engines_taintSet (s : State) (a n : Nat) (bad : Bool) : (taintSet s a n bad).engines = s.engines := by
  unfold taintSet
  split
  · rfl
  · split <;> rfl

/-! ### Words that are marked -/

theorem poison_mono_poisonAdd (s : State) (w : Nat) {v : Nat} (h : v ∈ s.poison) : v ∈ (poisonAdd s w).poison := by
  unfold poisonAdd
  split
  · exact h
  · rcases Nat.lt_trichotomy v w with hlt | rfl | hgt
    · simp [h, hlt]
    · simp
    · simp [h, hgt]

theorem mem_poison_poisonAdd (s : State) (w : Nat) : w ∈ (poisonAdd s w).poison := by
  unfold poisonAdd
  split
  next h => exact List.contains_iff_mem.mp h
  · simp

/-- Words added one after another: each is poisoned, and nothing else changes. -/
theorem poisonAll_spec (e : Nat) (l : List Nat) (s : State) :
    FlitMarks s (l.foldl poisonAdd s) e ∧ (l.foldl poisonAdd s).engines = s.engines
      ∧ (∀ w ∈ l, w ∈ (l.foldl poisonAdd s).poison) ∧ ∀ w ∈ s.poison, w ∈ (l.foldl poisonAdd s).poison := by
  induction l generalizing s with
  | nil => exact ⟨flitMarks_refl s e, rfl, by simp, fun _ h => h⟩
  | cons v l ih =>
    obtain ⟨hmarks, hengines, hall, hkeeps⟩ := ih (poisonAdd s v)
    have hv : (poisonAdd s v).engines = s.engines := by
      unfold poisonAdd
      split <;> rfl
    refine ⟨flitMarks_trans (flitMarks_poisonAdd s e v) hmarks, hengines.trans hv, fun w hw => ?_, fun w hw => hkeeps w (poison_mono_poisonAdd s v hw)⟩
    rcases List.mem_cons.mp hw with rfl | hw
    · exact hkeeps w (mem_poison_poisonAdd s w)
    · exact hall w hw

/-- The words of a span are marked. -/
def spanPoisoned (s : State) (y : Nat × Nat) : State := (wordsOf (spanLinear y.1 y.2)).foldl poisonAdd s

theorem spanPoisoned_spec (e : Nat) (s : State) (y : Nat × Nat) :
    FlitMarks s (spanPoisoned s y) e ∧ (spanPoisoned s y).engines = s.engines
      ∧ (∀ l ∈ spanLinear y.1 y.2, wordAt l ∈ (spanPoisoned s y).poison) ∧ ∀ w ∈ s.poison, w ∈ (spanPoisoned s y).poison := by
  obtain ⟨hmarks, hengines, hall, hkeeps⟩ := poisonAll_spec e (wordsOf (spanLinear y.1 y.2)) s
  exact ⟨hmarks, hengines, fun l hl => hall _ (List.mem_dedup.mpr (List.mem_map_of_mem hl)), hkeeps⟩

theorem spansPoisoned_spec (e : Nat) (l : List (Nat × Nat)) (s : State) :
    FlitMarks s (l.foldl spanPoisoned s) e ∧ (l.foldl spanPoisoned s).engines = s.engines
      ∧ (∀ y ∈ l, ∀ a ∈ spanLinear y.1 y.2, wordAt a ∈ (l.foldl spanPoisoned s).poison)
      ∧ ∀ w ∈ s.poison, w ∈ (l.foldl spanPoisoned s).poison := by
  induction l generalizing s with
  | nil => exact ⟨flitMarks_refl s e, rfl, by simp, fun _ h => h⟩
  | cons y l ih =>
    obtain ⟨hmarks, hengines, hall, hkeeps⟩ := spanPoisoned_spec e s y
    obtain ⟨hmarks', hengines', hall', hkeeps'⟩ := ih (spanPoisoned s y)
    refine ⟨flitMarks_trans hmarks hmarks', hengines'.trans hengines, fun z hz a ha => ?_, fun w hw => hkeeps' w (hkeeps w hw)⟩
    rcases List.mem_cons.mp hz with rfl | hz
    · exact hkeeps' _ (hall a ha)
    · exact hall' z hz a ha

/-! ### The five transfers -/

/-- The flit is logged on its edge, and HEALTH is at least NOTICE. -/
def flitNoted (s : State) (edge : Nat) : State := notice (logEvent { s with out := [] } 0x0204 (unitOf 7 edge) none []) 0

/-- What the statement says of a transfer, from the state in which the flit is noted. -/
def FlitEffect (s t : State) (e : Nat) (target : FlitTarget) : Prop :=
  (∀ k f, target = .completion k → (engGet s e).inflight[k]? = some f →
      (engGet t e).inflight = (engGet s e).inflight.map fun g =>
        if g.number = f.number then { f with poisoned := List.range f.old.length } else g)
    ∧ (∀ k w, target = .arriving k → (engGet s e).incoming[k]? = some w →
      (engGet t e).incoming = (engGet s e).incoming.set k { w with poisoned := List.range w.data.length })
    ∧ (target = .store → (engGet t e).badStores = (engGet s e).lastNumber :: (engGet s e).badStores
      ∧ ∀ x ∈ (engGet s e).lastSpans, ∀ l ∈ spanLinear x.1 x.2, wordAt l ∈ t.poison)
    ∧ (∀ a n, target = .outside a n → spanOpen s a n true = true → ∀ l ∈ spanLinear a n, wordAt l ∈ t.poison)
    ∧ (∀ n, target = .hostRead n → n ∈ t.flitReads)

theorem engines_poisonFlight (h : swf (fun _ => ({} : Engine)) s.engines = true) (f : Inflight) :
    FlitMarks s (poisonFlight s e f) e ∧ (engGet (poisonFlight s e f) e).inflight = (engGet s e).inflight.map fun g =>
      if g.number = f.number then { f with poisoned := List.range f.old.length } else g := by
  have hset : FlitMarks s (inflightSet s e { f with poisoned := List.range f.old.length }) e := flitMarks_engSet s e _
  have hflight : (engGet (inflightSet s e { f with poisoned := List.range f.old.length }) e).inflight = (engGet s e).inflight.map fun g =>
      if g.number = f.number then { f with poisoned := List.range f.old.length } else g :=
    congrArg Engine.inflight (engGet_engSet_same h e _)
  unfold poisonFlight
  generalize inflightSet s e { f with poisoned := List.range f.old.length } = t at hset hflight
  dsimp only
  split
  · exact ⟨hset, hflight⟩
  · refine ⟨flitMarks_trans hset (flitMarks_taintSet t e _ _ _), ?_⟩
    rw [engGet, engines_taintSet]
    exact hflight

/-- A remote write on its way whose transfer a link has poisoned. -/
def poisonArrival (s : State) (e k : Nat) (w : RemoteWrite) : State :=
  let t := engSet s e { engGet s e with incoming := (engGet s e).incoming.set k { w with poisoned := List.range w.data.length } }
  if w.filled = 0 then t else taintSet t (winAddr e w.offset) w.filled true

theorem engines_poisonArrival (h : swf (fun _ => ({} : Engine)) s.engines = true) (k : Nat) (w : RemoteWrite) :
    FlitMarks s (poisonArrival s e k w) e
      ∧ (engGet (poisonArrival s e k w) e).incoming = (engGet s e).incoming.set k { w with poisoned := List.range w.data.length } := by
  have hset := flitMarks_engSet s e
    { engGet s e with incoming := (engGet s e).incoming.set k { w with poisoned := List.range w.data.length } }
  have hsame := congrArg Engine.incoming (engGet_engSet_same h e
    { engGet s e with incoming := (engGet s e).incoming.set k { w with poisoned := List.range w.data.length } })
  unfold poisonArrival
  dsimp only
  split
  · exact ⟨hset, hsame⟩
  · refine ⟨flitMarks_trans hset (flitMarks_taintSet _ e _ _ _), ?_⟩
    rw [engGet, engines_taintSet]
    exact hsame

/-- The transfer that a flit belongs to is poisoned. -/
theorem exec_flit (hc : Canonical s) (edge : Nat) (target : FlitTarget) :
    ∃ t, exec (.d2dFlitUncorrectable edge e target) s = .next t ∧ FlitMarks (flitNoted s edge) t e
      ∧ FlitEffect (flitNoted s edge) t e target := by
  have hswf : swf (fun _ => ({} : Engine)) (flitNoted s edge).engines = true := hc.engines
  show ∃ t, execD2dFlitUncorrectable edge e target s = .next t ∧ _
  unfold execD2dFlitUncorrectable
  dsimp only
  rw [← flitNoted]
  generalize flitNoted s edge = u at hswf
  cases target with
  | completion k =>
    dsimp only
    cases hk : (engGet u e).inflight[k]? with
    | none =>
      refine ⟨u, rfl, flitMarks_refl u e, fun k' f' heq hf' => ?_, by simp, by simp, by simp, by simp⟩
      cases heq
      cases hk.symm.trans hf'
    | some f =>
      obtain ⟨hmarks, hflight⟩ := engines_poisonFlight (e := e) hswf f
      refine ⟨_, rfl, flitMarks_trans hmarks (flitMarks_failAt _ e _ _), fun k' f' heq hf' => ?_, by simp, by simp, by simp, by simp⟩
      cases heq
      obtain rfl : f = f' := Option.some.inj (hk.symm.trans hf')
      exact hflight
  | arriving k =>
    dsimp only
    cases hk : (engGet u e).incoming[k]? with
    | none =>
      refine ⟨u, rfl, flitMarks_refl u e, by simp, fun k' w' heq hw' => ?_, by simp, by simp, by simp⟩
      cases heq
      cases hk.symm.trans hw'
    | some w =>
      obtain ⟨hmarks, harrives⟩ := engines_poisonArrival (e := e) hswf k w
      refine ⟨_, rfl, flitMarks_trans hmarks (flitMarks_failAt _ e _ _), by simp, fun k' w' heq hw' => ?_, by simp, by simp, by simp⟩
      cases heq
      obtain rfl : w = w' := Option.some.inj (hk.symm.trans hw')
      exact harrives
  | store =>
    obtain ⟨hmarks, hengines, hall, -⟩ := spansPoisoned_spec e (engGet u e).lastSpans
      (engSet u e { engGet u e with badStores := (engGet u e).lastNumber :: (engGet u e).badStores })
    refine ⟨_, rfl, flitMarks_trans (flitMarks_trans (flitMarks_engSet u e _) hmarks) (flitMarks_failAt _ e _ _), by simp, by simp,
      fun _ => ⟨?_, hall⟩, by simp, by simp⟩
    have hsame := (congrArg (fun l => sget (fun _ => ({} : Engine)) l e) hengines).trans (engGet_engSet_same hswf e _)
    exact congrArg Engine.badStores hsame
  | outside a n =>
    dsimp only
    obtain ⟨hmarks, -, hall, -⟩ := spanPoisoned_spec e u (a, n)
    by_cases hopen : spanOpen u a n true = true
    · refine ⟨spanPoisoned u (a, n), congrArg Host.Outcome.next (if_pos hopen), hmarks, by simp, by simp, by simp, fun a' n' heq _ => ?_, by simp⟩
      cases heq
      exact hall
    · refine ⟨u, congrArg Host.Outcome.next (if_neg hopen), flitMarks_refl u e, by simp, by simp, by simp, fun a' n' heq h => ?_, by simp⟩
      cases heq
      exact absurd h hopen
  | hostRead n => exact ⟨_, rfl, ⟨fun _ _ => rfl, rfl⟩, by simp, by simp, by simp, by simp, by simp⟩

/-- Settles O37: a hold's ramp, and the marks of a bad flit from the state in which it is noted. -/
theorem holdsRampDownAndBadFlitsAreLogged : Obligations.HoldsRampDownAndBadFlitsAreLogged := by
  unfold Obligations.HoldsRampDownAndBadFlitsAreLogged
  refine ⟨fun s e k hc hk harrays => ⟨fun hheld hramp hlong => ?_, exec_holdSimmerExpiry_early⟩, fun s edge e target hc => ?_⟩
  · have hsame := engGet_engSet_same (s := { s with out := [] }) hc.engines e
      (arraySet (engGet s e) k { arrayGet (engGet s e) k with down := true })
    refine ⟨_, exec_holdSimmerExpiry_due hheld hramp hlong hk, hsame, ?_, fun q hq => engGet_engSet_other _ _ hq, rfl⟩
    rw [hsame]
    have hlen : k < (engGet s e).arrays.length := harrays ▸ hk
    simp [arrayGet, arraySet, hlen]
  · obtain ⟨t, ht, hmarks, heffect⟩ := exec_flit (e := e) hc edge target
    refine ⟨t, { seq := s.nextSeq, code := 0x204, ctx := none, unit := unitOf 7 edge, boundary := s.beats + 1, detail := fit 14 [] }, ht, ?_⟩
    have hevents : t.events = (flitNoted s edge).events := by rw [hmarks.frame]
    have hseq : t.nextSeq = (flitNoted s edge).nextSeq := by rw [hmarks.frame]
    have hnotice : t.noticeNext = (flitNoted s edge).noticeNext := by rw [hmarks.frame]
    refine ⟨?_, rfl, rfl, rfl, hseq, ?_, ?_, ?_, ?_, hmarks.other, heffect⟩
    · rw [hevents]
      rfl
    · rw [hnotice]
      simp [flitNoted, notice]
    · rw [hmarks.frame]
      rfl
    · rw [hmarks.frame]
      rfl
    · rw [hmarks.frame]
      rfl

end Sys2Proof.Machine

/-! O36: completions and remote writes that land (R65, R110, R111, R114, R267). -/

namespace Sys2Proof.Machine

open Sys2Proof Sys2Proof.Terms

variable {s t u : State} {e c n k : Nat}

/-! ## Writing memory in pieces -/

theorem memPut_append (m : List Host.Cell) (a : Nat) (b d : Bytes) : memPut m a (b ++ d) = memPut (memPut m a b) (a + b.length) d := by
  induction b generalizing m a with
  | nil => rfl
  | cons x b ih =>
    rw [List.cons_append, memPut, memPut, ih, List.length_cons]
    congr 1
    omega

/-- Bytes put in pieces of 256 are put whole. -/
theorem foldl_memPut_pieces (m : List Host.Cell) (a : Nat) (b : Bytes) (n : Nat) :
    (List.range n).foldl (fun m k => memPut m (a + 256 * k) (slice b (256 * k) 256)) m = memPut m a (b.take (256 * n)) := by
  induction n with
  | zero => simp [memPut]
  | succ n ih =>
    rw [List.range_succ, List.foldl_append, ih, List.foldl_cons, List.foldl_nil]
    by_cases hlong : 256 * n ≤ b.length
    · have hsplit : b.take (256 * (n + 1)) = b.take (256 * n) ++ slice b (256 * n) 256 := by
        rw [slice, ← List.take_add]
        rfl
      rw [hsplit, memPut_append, List.length_take, Nat.min_eq_left hlong]
    · have hnone : slice b (256 * n) 256 = [] := by simp [slice]; omega
      rw [hnone, List.take_of_length_le (by omega), List.take_of_length_le (by omega)]
      rfl

theorem bytesAt_memPut (hm : Memory.wf s.mem = true) (a : Nat) (b : Bytes) : bytesAt { s with mem := memPut s.mem a b } a b.length = b := by
  refine List.ext_getElem (by simp) fun i h1 h2 => ?_
  simp only [bytesAt, List.getElem_map, List.getElem_range]
  exact sget_memPut_same hm a h2

/-! ## The agenda -/

/-- A task that comes before none of those that wait goes to the end. -/
theorem agendaInsert_last {x : Timed} {l : List Timed} (h : ∀ y ∈ l, timedBefore x y = false) : agendaInsert x l = l ++ [x] := by
  induction l with
  | nil => rfl
  | cons y l ih =>
    rw [agendaInsert, if_neg (by simp [h y (by simp)]), ih fun z hz => h z (List.mem_cons_of_mem _ hz)]
    rfl

theorem timedBefore_of_later {x y : Timed} (hcycle : y.cycle ≤ x.cycle) (hrank : y.rank = x.rank) : timedBefore x y = false := by
  simp only [timedBefore, hrank, Bool.or_eq_false_iff, decide_eq_false_iff_not, Nat.not_lt, Bool.and_eq_false_iff, Nat.lt_irrefl]
  exact ⟨hcycle, .inr not_false⟩

/-- No word is poisoned or in error, and no byte of SRAM holds poisoned data. -/
structure Sound (s : State) : Prop where
  form : Memory.wf s.mem = true
  poison : s.poison = []
  soft : s.soft = []
  taint : s.taint = []

/-- Sound bytes put into a sound window are bytes put. -/
theorem putStep_sound (h : Sound s) (off : Nat) (data : Bytes) (jobs : List Nat) :
    putStep s e off data [] jobs = { s with mem := memPut s.mem (winAddr e off) data } := by
  have hwrite : winWriteAt s (winAddr e off) data [] = (false, { s with mem := memPut s.mem (winAddr e off) data }) := by
    unfold winWriteAt winWrite partialPoison taintSet
    simp [h.poison, h.soft, h.taint, bytesPut]
  unfold putStep
  rw [hwrite]
  rfl

/-- A task that puts sound bytes into a window. -/
def PutsAt (x : Timed) (off : Nat) (data : Bytes) : Prop := ∃ jobs, x.task = .put off data [] jobs ∨ ∃ tag, x.task = .land tag off data [] jobs

theorem runTask_puts (h : Sound s) {x : Timed} {off : Nat} {data : Bytes} (hx : PutsAt x off data) :
    runTask s x = { s with mem := memPut s.mem (winAddr x.engine off) data } := by
  obtain ⟨jobs, htask | ⟨tag, htask⟩⟩ := hx <;> unfold runTask <;> rw [htask] <;> exact putStep_sound h off data jobs

/-- What is left of a transfer, as tasks of its last cycles. -/
def landTasks (e cycle rank : Nat) (tag : Option (BitVec 4)) (off : Nat) (data : Bytes) (jobs : List Nat) (n : Nat) : List Timed :=
  (List.range n).map fun k =>
    ⟨cycle + k + 1 - ceilDiv data.length 256, rank, e, .land tag (off + 256 * k) (slice data (256 * k) 256) [] jobs⟩

theorem landRest256_agenda (hs : s.agenda = []) (rank : Nat) (tag : Option (BitVec 4)) (off : Nat) (data : Bytes) (jobs : List Nat) :
    landRest256 s e c rank tag off data [] jobs
      = { s with agenda := landTasks e c rank tag off data jobs (ceilDiv data.length 256) } := by
  have hfold (m : Nat) : (List.range m).foldl (fun s k => taskAt s e (c + k + 1 - ceilDiv data.length 256) rank
      (.land tag (off + 256 * k) (slice data (256 * k) 256)
        ((([] : List Nat).filter fun i => decide (256 * k ≤ i ∧ i < 256 * (k + 1))).map (· - 256 * k)) jobs)) s
      = { s with agenda := landTasks e c rank tag off data jobs m } := by
    induction m with
    | zero => rw [landTasks, List.range_zero, List.map_nil, ← hs]; rfl
    | succ m ih =>
      rw [List.range_succ, List.foldl_append, ih, List.foldl_cons, List.foldl_nil]
      unfold taskAt
      dsimp only
      rw [agendaInsert_last]
      · simp [landTasks, List.range_succ]
      · intro y hy
        obtain ⟨k, hk, rfl⟩ := List.mem_map.mp hy
        have := List.mem_range.mp hk
        exact timedBefore_of_later (show c + k + 1 - _ ≤ c + m + 1 - _ by omega) rfl
  exact hfold _

/-- Tasks that put sound bytes take place one after another. -/
theorem settle_lands (h : Sound s) (rank : Nat) (tag : Option (BitVec 4)) (off : Nat) (data : Bytes) (jobs : List Nat) {bound fuel : Nat}
    (hbound : c < bound) (l : List Nat) (hl : ∀ k ∈ l, k < ceilDiv data.length 256) (hfuel : l.length ≤ fuel)
    (hs : s.agenda = l.map fun k =>
      ⟨c + k + 1 - ceilDiv data.length 256, rank, e, .land tag (off + 256 * k) (slice data (256 * k) 256) [] jobs⟩) :
    settle s bound fuel = { s with
      agenda := [], mem := l.foldl (fun m k => memPut m (winAddr e off + 256 * k) (slice data (256 * k) 256)) s.mem } := by
  induction l generalizing s fuel with
  | nil =>
    rw [settle_idle _ _ hs, List.foldl_nil, ← show s.agenda = [] from hs]
  | cons k l ih =>
    obtain ⟨fuel, rfl⟩ : ∃ f, fuel = f + 1 := ⟨fuel - 1, by simp at hfuel; omega⟩
    have hk := hl k (by simp)
    rw [settle, hs, List.map_cons]
    dsimp only
    rw [if_pos (show c + k + 1 - _ < bound by omega)]
    have hrun := runTask_puts (s := { s with agenda := l.map fun k =>
        ⟨c + k + 1 - ceilDiv data.length 256, rank, e, .land tag (off + 256 * k) (slice data (256 * k) 256) [] jobs⟩ })
      (x := ⟨c + k + 1 - ceilDiv data.length 256, rank, e, .land tag (off + 256 * k) (slice data (256 * k) 256) [] jobs⟩)
      ⟨h.form, h.poison, h.soft, h.taint⟩ ⟨jobs, .inr ⟨tag, rfl⟩⟩
    rw [hrun]
    have haddr : winAddr e (off + 256 * k) = winAddr e off + 256 * k := by
      unfold winAddr
      omega
    rw [List.foldl_cons, ← haddr]
    exact ih (s := { s with agenda := l.map _, mem := memPut s.mem (winAddr e (off + 256 * k)) (slice data (256 * k) 256) })
      ⟨memory_wf_memPut h.form _ _, h.poison, h.soft, h.taint⟩ (fun k hk => hl k (List.mem_cons_of_mem _ hk)) (by simpa using hfuel) rfl

/-- What is left of a transfer has landed when its last cycle is over (R65, R111). -/
theorem settled_lands (h : Sound s) {rank : Nat} {tag : Option (BitVec 4)} {off : Nat} {data : Bytes} {jobs : List Nat} {bound : Nat}
    (hs : s.agenda = landTasks e c rank tag off data jobs (ceilDiv data.length 256)) (hbound : c < bound) (hlen : data.length ≤ 0x400000) :
    settled s bound = { s with agenda := [], mem := memPut s.mem (winAddr e off) data } := by
  have hpieces : ceilDiv data.length 256 ≤ 16384 ∧ data.length ≤ 256 * ceilDiv data.length 256 := by
    unfold ceilDiv
    omega
  have hfuel : (List.range (ceilDiv data.length 256)).length ≤ agendaFuel := by
    rw [List.length_range, agendaFuel]
    exact hpieces.1.trans (by norm_num)
  have hsettle := settle_lands h rank tag off data jobs hbound (List.range (ceilDiv data.length 256)) (fun k hk => List.mem_range.mp hk) hfuel hs
  rw [foldl_memPut_pieces, List.take_of_length_le hpieces.2] at hsettle
  exact hsettle

/-- The window then holds the bytes, and every other byte reads as before. -/
theorem settled_lands_bytes (h : Sound s) {rank : Nat} {tag : Option (BitVec 4)} {off : Nat} {data : Bytes} {jobs : List Nat} {bound : Nat}
    (hs : s.agenda = landTasks e c rank tag off data jobs (ceilDiv data.length 256)) (hbound : c < bound) (hlen : data.length ≤ 0x400000) :
    bytesAt (settled s bound) (winAddr e off) data.length = data
      ∧ (∀ x, x < winAddr e off ∨ winAddr e off + data.length ≤ x → byteAt (settled s bound) x = byteAt s x)
      ∧ settled s bound = { s with mem := (settled s bound).mem, agenda := [] } := by
  rw [settled_lands h hs hbound hlen]
  exact ⟨bytesAt_memPut h.form _ _, fun x hx => sget_memPut_other _ hx, rfl⟩

/-! ## The bytes of a completion -/

/-- Where nothing has changed since the issue, no granule is picked. -/
theorem pickGranules_same {l : List (Nat × Byte × Byte)} (h : ∀ y ∈ l, y.2.1 = y.2.2) {fuel : Nat} (hfuel : l.length < fuel) :
    pickGranules s fuel l = (l.map (·.2.1), s) := by
  induction fuel generalizing l with
  | zero => omega
  | succ fuel ih =>
    cases l with
    | nil => rfl
    | cons x l =>
      obtain ⟨a, x⟩ := x
      rw [pickGranules]
      have hall : (((a, x) :: l.takeWhile fun y => y.1 / 128 == a / 128).all fun y => y.2.1 == y.2.2) = true := by
        refine List.all_eq_true.mpr fun y hy => ?_
        rcases List.mem_cons.mp hy with rfl | hy
        · simpa using h (a, x) (by simp)
        · simpa using h y (List.mem_cons_of_mem _ ((List.takeWhile_sublist _).subset hy))
      rw [if_pos hall]
      dsimp only
      have hdrop : (l.drop (((a, x) :: l.takeWhile fun y => y.1 / 128 == a / 128).length - 1)) = l.dropWhile fun y => y.1 / 128 == a / 128 := by
        rw [List.length_cons, Nat.add_sub_cancel]
        have hleft := List.drop_left (l₁ := l.takeWhile fun y => y.1 / 128 == a / 128) (l₂ := l.dropWhile fun y => y.1 / 128 == a / 128)
        rwa [List.takeWhile_append_dropWhile] at hleft
      rw [hdrop, ih (fun y hy => h y (List.mem_cons_of_mem _ ((List.dropWhile_sublist _).subset hy)))
        (lt_of_le_of_lt (List.dropWhile_sublist _).length_le (by simpa using hfuel))]
      rw [List.map_cons, List.cons_append, ← List.map_append, List.takeWhile_append_dropWhile, List.map_cons]

theorem slice_back (b : Bytes) (off n : Nat) : b.take off ++ slice b off n ++ b.drop (off + n) = b := by
  rw [slice, ← List.drop_drop, List.append_assoc, List.take_append_drop, List.take_append_drop]

/-- A granule of bytes as they stood and as they stand. -/
theorem granules_same (own : List SchedStore) (l : List Nat) :
    (l.zip (l.map (byteAt s))).map (fun (a, o) =>
        (a, o, if own.any fun w => decide (w.lin ≤ a ∧ a < w.lin + w.old.length) then o else byteAt s a))
      = l.map fun a => (a, byteAt s a, byteAt s a) := by
  induction l with
  | nil => rfl
  | cons a l ih =>
    rw [List.map_cons, List.zip_cons_cons, List.map_cons, ih, List.map_cons]
    dsimp only
    rw [ite_self]

/-- A completion whose bytes nothing has written since its issue keeps them (R115, R267). -/
theorem settleBytes_same {f : Inflight} (h : ∀ x ∈ f.src, spanRead s x.2.1 x.2.2 = slice f.old x.1 x.2.2) :
    settleBytes s e f = ({ f with src := [] }, s) := by
  have hpiece (own : List SchedStore) (y : Nat × Nat × Nat) (hy : spanRead s y.2.1 y.2.2 = slice f.old y.1 y.2.2) :
      pickGranules s (y.2.2 + 1) (((spanLinear y.2.1 y.2.2).zip (slice f.old y.1 y.2.2)).map fun (l, o) =>
        (l, o, if own.any fun w => decide (w.lin ≤ l ∧ l < w.lin + w.old.length) then o else byteAt s l))
        = (slice f.old y.1 y.2.2, s) := by
    rw [← hy]
    unfold spanRead
    rw [granules_same, pickGranules_same]
    · rw [List.map_map]
      rfl
    · intro z hz
      obtain ⟨a, -, rfl⟩ := List.mem_map.mp hz
      rfl
    · simp [spanLinear]
  unfold settleBytes
  dsimp only
  generalize (s.stores.take (s.stores.length - f.since)).filter (·.engine == e) = own
  have hfold (l : List (Nat × Nat × Nat)) (hl : ∀ x ∈ l, spanRead s x.2.1 x.2.2 = slice f.old x.1 x.2.2) :
      l.foldl (fun ((old, s) : Bytes × State) (at_, a, n) =>
        let (b, s) := pickGranules s (n + 1) (((spanLinear a n).zip (slice old at_ n)).map fun (l, o) =>
          (l, o, if own.any fun w => decide (w.lin ≤ l ∧ l < w.lin + w.old.length) then o else byteAt s l))
        (old.take at_ ++ b ++ old.drop (at_ + n), s)) (f.old, s) = (f.old, s) := by
    induction l with
    | nil => rfl
    | cons y l ih =>
      rw [List.foldl_cons]
      dsimp only
      rw [hpiece own y (hl y (by simp))]
      dsimp only
      rw [slice_back]
      exact ih fun z hz => hl z (List.mem_cons_of_mem _ hz)
  rw [hfold f.src h]

/-! ## Landing -/

theorem foldl_countLate_frame (l : List Nat) (s : State) : ∃ r k, l.foldl (fun s st =>
      let s := regCount s (oMem st + 0x30) 31 16 1
      if s.lateStacks.contains st then s else { s with lateStacks := s.lateStacks ++ [st] }) s = { s with regs := r, lateStacks := k } := by
  induction l generalizing s with
  | nil => exact ⟨s.regs, s.lateStacks, rfl⟩
  | cons st l ih =>
    rw [List.foldl_cons]
    dsimp only
    obtain ⟨g, hg⟩ : ∃ g, regCount s (oMem st + 0x30) 31 16 1 = { s with regs := g } := ⟨_, rfl⟩
    rw [hg]
    split
    · exact ih { s with regs := g }
    · exact ih { s with regs := g, lateStacks := s.lateStacks ++ [st] }

theorem countLate_frame (s : State) (f : Inflight) (late : Bool) : ∃ r k, countLate s f late = { s with regs := r, lateStacks := k } := by
  unfold countLate
  split
  · exact ⟨s.regs, s.lateStacks, rfl⟩
  · exact foldl_countLate_frame _ s

theorem noteLate_frame (s : State) (late : Bool) (c : Nat) : ∃ z, noteLate s late c = { s with lateEnd := z } := by
  unfold noteLate
  split
  · exact ⟨_, rfl⟩
  · exact ⟨s.lateEnd, rfl⟩

/-- What the end of a hold leaves of its engine. -/
theorem engGet_endHold (hwf : swf (fun _ => ({} : Engine)) s.engines = true) (c : Nat) :
    ∃ h a, engGet (endHold s e c) e = { engGet s e with hold := h, arrays := a } := by
  unfold endHold
  dsimp only
  split
  · exact ⟨_, _, rfl⟩
  · split
    · exact ⟨_, _, rfl⟩
    · exact ⟨_, _, engGet_engSet_same hwf e _⟩

/-- A completion whose tag has landed, and whose last bytes are on the agenda. -/
structure CompletionLands (s t : State) (e c : Nat) (f : Inflight) : Prop where
  agenda : t.agenda = landTasks e c rankFill f.tag (f.dest + f.filled) (f.old.drop f.filled) f.slots (ceilDiv (f.old.drop f.filled).length 256)
  tags : (engGet t e).tags = (tagLand (engGet s e) f.tag).tags
  inflight : (engGet t e).inflight = (engGet s e).inflight
  other : ∀ k, k ≠ e → engGet t k = engGet s k
  frame : t = { s with engines := t.engines, regs := t.regs, lateStacks := t.lateStacks, lateEnd := t.lateEnd, agenda := t.agenda }

theorem tagLand_inflight (x : Engine) (tag : Option (BitVec 4)) : (tagLand x tag).inflight = x.inflight := by
  unfold tagLand
  split <;> rfl

theorem landCompletion_lands (hwf : swf (fun _ => ({} : Engine)) s.engines = true) (hagenda : s.agenda = []) {f : Inflight}
    (hsrc : ∀ x ∈ f.src, spanRead s x.2.1 x.2.2 = slice f.old x.1 x.2.2) (hclean : f.poisoned = []) :
    CompletionLands s (landCompletion s e f c) e c f := by
  have hland := landRest256_agenda hagenda (e := e) (c := c) rankFill f.tag (f.dest + f.filled) (f.old.drop f.filled) f.slots
  obtain ⟨l, hl⟩ : ∃ l, l = landTasks e c rankFill f.tag (f.dest + f.filled) (f.old.drop f.filled) f.slots
    (ceilDiv (f.old.drop f.filled).length 256) := ⟨_, rfl⟩
  rw [← hl] at hland
  unfold landCompletion
  rw [settleBytes_same hsrc]
  dsimp only
  have hbad : (f.poisoned.filter fun i => decide (f.filled ≤ i)).map (· - f.filled) = [] := by
    rw [hclean]
    rfl
  rw [hbad, hland]
  obtain ⟨r, k, hcount⟩ := countLate_frame { s with agenda := l } { f with src := [] } (decide (f.due < c) || decide (0 < f.late))
  obtain ⟨z, hnote⟩ := noteLate_frame { s with agenda := l, regs := r, lateStacks := k } (decide (f.due < c) || decide (0 < f.late)) c
  have hwf' : swf (fun _ => ({} : Engine)) (engSet { s with agenda := l, regs := r, lateStacks := k, lateEnd := z } e
      (tagLand (engGet s e) f.tag)).engines = true := swf_engSet (s := { s with agenda := l, regs := r, lateStacks := k, lateEnd := z }) hwf e _
  have harrives := arrives_endHold hwf' (e := e) c
  obtain ⟨h, a, hends⟩ := engGet_endHold hwf' (e := e) c
  rw [engGet_engSet_same (s := { s with agenda := l, regs := r, lateStacks := k, lateEnd := z }) hwf] at hends
  rw [show countLate { s with agenda := l } { f with src := [] } (decide (f.due < c) || decide (0 < f.late)) = _ from hcount,
    show noteLate { s with agenda := l, regs := r, lateStacks := k } (decide (f.due < c) || decide (0 < f.late)) c = _ from hnote]
  have hengine : engGet { s with agenda := l, regs := r, lateStacks := k, lateEnd := z } e = engGet s e := rfl
  rw [hengine]
  have hother := harrives.other
  have hframe := harrives.frame
  generalize endHold (engSet { s with agenda := l, regs := r, lateStacks := k, lateEnd := z } e (tagLand (engGet s e) f.tag)) e c = t
    at hends hother hframe
  refine ⟨?_, ?_, ?_, fun q hq => (hother q hq).trans (engGet_engSet_other _ _ hq), ?_⟩
  · rw [hframe, ← hl]
    rfl
  · rw [hends]
  · rw [hends]
    exact tagLand_inflight _ _
  · rw [hframe]
    rfl

/-! ## COMPLETION_LANDED -/

section

variable {tag : BitVec 4} {ready : Nat} {f : Inflight}

theorem landCycle_out (s : State) (x : Engine) (f : Inflight) (ready : Nat) :
    landCycle { s with out := [] } x f ready = landCycle s x f ready := rfl

theorem inTurn_out (s : State) (c : Nat) : inTurn { s with out := [] } c = inTurn s c := rfl

theorem exec_completionLanded_waits (hagenda : s.agenda = []) (hfind : (engGet s e).inflight.find? (fun g => g.tag == some tag) = some f)
    (h : fenceWaits (engGet s e) f = true ∨ inTurn s (landCycle s (engGet s e) f ready) = false) :
    exec (.completionLanded e tag ready) s = .next { s with out := [] } := by
  have hfind' : (engGet { s with out := [] } e).inflight.find? (fun g => g.tag == some tag) = some f := hfind
  have hsettled := settled_idle (s := { s with out := [] }) (landCycle s (engGet s e) f ready) hagenda
  show execCompletionLanded e tag ready s = _
  unfold execCompletionLanded
  dsimp only
  rw [hfind']
  dsimp only
  rw [landCycle_out]
  refine if_pos ?_
  rcases h with h | h
  · exact .inl h
  · refine .inr ?_
    rw [show settled { s with out := [] } (landCycle s (engGet { s with out := [] } e) f ready) = { s with out := [] } from hsettled, inTurn_out]
    exact (congrArg not h).trans rfl

/-- The engine once a completion has left its list, with its own RMO noted where it was late. -/
def completionTaken (s : State) (e c : Nat) (f : Inflight) : State :=
  let t := engSet s e { engGet s e with inflight := (engGet s e).inflight.filter fun g => g.number != f.number }
  if f.due < c ∧ !f.fence then rmoNote t e f.number c else t

theorem exec_completionLanded_lands (hagenda : s.agenda = []) (hfind : (engGet s e).inflight.find? (fun g => g.tag == some tag) = some f)
    (hnumber : (engGet s e).inflight.find? (fun g => g.number == f.number) = some f) (hfence : fenceWaits (engGet s e) f = false)
    (hturn : inTurn s (landCycle s (engGet s e) f ready) = true) :
    exec (.completionLanded e tag ready) s
      = .next (landCompletion (completionTaken { s with out := [] } e (landCycle s (engGet s e) f ready) f) e f
          (landCycle s (engGet s e) f ready)) := by
  have hfind' : (engGet { s with out := [] } e).inflight.find? (fun g => g.tag == some tag) = some f := hfind
  have hnumber' : (engGet { s with out := [] } e).inflight.find? (fun g => g.number == f.number) = some f := hnumber
  have hcycle : landCycle { s with out := [] } (engGet { s with out := [] } e) f ready = landCycle s (engGet s e) f ready := rfl
  have hsettled := settled_idle (s := { s with out := [] }) (landCycle s (engGet s e) f ready) hagenda
  have hfence' : fenceWaits (engGet { s with out := [] } e) f = false := hfence
  show execCompletionLanded e tag ready s = _
  unfold execCompletionLanded
  dsimp only
  rw [hfind']
  dsimp only
  rw [hcycle, hsettled, inTurn_out, hturn, hfence', hnumber']
  rfl

theorem completionTaken_spec (hwf : swf (fun _ => ({} : Engine)) s.engines = true) (c : Nat) (f : Inflight) :
    swf (fun _ => ({} : Engine)) (completionTaken s e c f).engines = true
      ∧ (engGet (completionTaken s e c f) e).inflight = (engGet s e).inflight.filter (fun g => g.number != f.number)
      ∧ (engGet (completionTaken s e c f) e).tags = (engGet s e).tags
      ∧ (∀ k, k ≠ e → engGet (completionTaken s e c f) k = engGet s k)
      ∧ completionTaken s e c f = { s with engines := (completionTaken s e c f).engines } := by
  have hset := engGet_engSet_same hwf e { engGet s e with inflight := (engGet s e).inflight.filter fun g => g.number != f.number }
  have hwf' := swf_engSet hwf e { engGet s e with inflight := (engGet s e).inflight.filter fun g => g.number != f.number }
  unfold completionTaken
  dsimp only
  split
  · unfold rmoNote
    dsimp only
    rw [engGet_engSet_same hwf', hset]
    exact ⟨swf_engSet hwf' e _, rfl, rfl, fun k hk => (engGet_engSet_other _ _ hk).trans (engGet_engSet_other _ _ hk), rfl⟩
  · rw [hset]
    exact ⟨hwf', rfl, rfl, fun k hk => engGet_engSet_other _ _ hk, rfl⟩

/-- Landing a tag that has been set makes it landed. -/
theorem tagLanded_tagLand (x : Engine) (h : ∃ y ∈ x.tags, y.1 = tag) : tagLanded (tagLand x (some tag)) tag = true := by
  obtain ⟨y, hy, hytag⟩ := h
  unfold tagLanded tagLand
  dsimp only
  have hmem : (tag, true) ∈ x.tags.map fun y => if y.1 = tag then (tag, true) else y := List.mem_map.mpr ⟨y, hy, if_pos hytag⟩
  cases hfind : (x.tags.map fun y => if y.1 = tag then (tag, true) else y).find? fun y => y.1 == tag with
  | none => simpa using List.find?_eq_none.mp hfind _ hmem
  | some z =>
    obtain ⟨w, -, rfl⟩ := List.mem_map.mp (List.mem_of_find?_eq_some hfind)
    have hz := List.find?_some hfind
    by_cases hw : w.1 = tag
    · simp [hw]
    · simp [hw] at hz

end

/-! ## REMOTE_WRITE_LANDING -/

theorem tagLand_incoming (x : Engine) (tag : Option (BitVec 4)) : (tagLand x tag).incoming = x.incoming := by
  unfold tagLand
  split <;> rfl

theorem incoming_endHold (hwf : swf (fun _ => ({} : Engine)) s.engines = true) (c : Nat) :
    (engGet (endHold s e c) e).incoming = (engGet s e).incoming := by
  obtain ⟨h, a, heng⟩ := engGet_endHold hwf (e := e) c
  rw [heng]

theorem incoming_arrivalCount (hwf : swf (fun _ => ({} : Engine)) s.engines = true) (source : Nat) (remote : Bool) (off n c : Nat) :
    (engGet (arrivalCount s e source remote off n c) e).incoming = (engGet s e).incoming := by
  unfold arrivalCount
  dsimp only
  split
  · rw [engGet_engSet_same hwf]
  · split
    · rw [engGet_engSet_same hwf]
    · next y _ _ =>
      have hwf' := swf_engSet hwf e (tagLand { engGet s e with arrivals := (engGet s e).arrivals.filter fun z => z != y } y.tag)
      have hincoming : (engGet (engSet s e (tagLand { engGet s e with arrivals := (engGet s e).arrivals.filter fun z => z != y } y.tag)) e).incoming
          = (engGet s e).incoming := (congrArg Engine.incoming (engGet_engSet_same hwf e _)).trans (tagLand_incoming _ _)
      generalize engSet s e (tagLand { engGet s e with arrivals := (engGet s e).arrivals.filter fun z => z != y } y.tag) = v at hwf' hincoming
      obtain ⟨z, hnote⟩ := noteLate_frame v (decide (y.due < c)) c
      rw [hnote]
      exact (incoming_endHold (s := { v with lateEnd := z }) hwf' _).trans hincoming

section

variable {w : RemoteWrite}

theorem exec_remoteWriteLanding_waits (hagenda : s.agenda = []) (hw : (engGet s e).incoming[k]? = some w) (h : inTurn s w.land = false) :
    exec (.remoteWriteLanding e k) s = .next { s with out := [] } := by
  have hw' : (engGet { s with out := [] } e).incoming[k]? = some w := hw
  have hsettled := settled_idle (s := { s with out := [] }) w.land hagenda
  show execRemoteWriteLanding e k s = _
  unfold execRemoteWriteLanding
  dsimp only
  rw [hw', Option.isSome_some, if_pos rfl, hw']
  dsimp only
  rw [hsettled, inTurn_out, h]
  rfl

/-- The engine once a remote write has left its list. -/
def arrivalTaken (s : State) (e k : Nat) : State := engSet s e { engGet s e with incoming := (engGet s e).incoming.eraseIdx k }

theorem exec_remoteWriteLanding_lands (hagenda : s.agenda = []) (hw : (engGet s e).incoming[k]? = some w) (h : inTurn s w.land = true) :
    exec (.remoteWriteLanding e k) s = .next (landRemote (arrivalTaken { s with out := [] } e k) e w) := by
  have hw' : (engGet { s with out := [] } e).incoming[k]? = some w := hw
  have hsettled := settled_idle (s := { s with out := [] }) w.land hagenda
  show execRemoteWriteLanding e k s = _
  unfold execRemoteWriteLanding
  dsimp only
  rw [hw', Option.isSome_some, if_pos rfl, hw']
  dsimp only
  rw [hsettled, inTurn_out, h, hw']
  rfl

/-- A remote write whose bytes its ARRIVE has counted, and whose last ones are on the agenda. -/
theorem landRemote_lands (hwf : swf (fun _ => ({} : Engine)) s.engines = true) (hagenda : s.agenda = []) (hclean : w.poisoned = []) :
    ∃ tag, (landRemote s e w).agenda = landTasks e w.land (rankRemote w.source) tag (w.offset + w.filled) (w.data.drop w.filled) w.contexts
        (ceilDiv (w.data.drop w.filled).length 256)
      ∧ (engGet (landRemote s e w) e).incoming = (engGet s e).incoming
      ∧ (∀ q, q ≠ e → engGet (landRemote s e w) q = engGet s q)
      ∧ landRemote s e w = { s with
          engines := (landRemote s e w).engines, lateEnd := (landRemote s e w).lateEnd, agenda := (landRemote s e w).agenda } := by
  obtain ⟨tag, htag⟩ : ∃ tag, tag = (arrivalFor (engGet s e).arrivals w.source false w.offset w.data.length).bind (·.tag) := ⟨_, rfl⟩
  have hland := landRest256_agenda hagenda (e := e) (c := w.land) (rankRemote w.source) tag (w.offset + w.filled) (w.data.drop w.filled) w.contexts
  obtain ⟨l, hl⟩ : ∃ l, l = landTasks e w.land (rankRemote w.source) tag (w.offset + w.filled) (w.data.drop w.filled) w.contexts
    (ceilDiv (w.data.drop w.filled).length 256) := ⟨_, rfl⟩
  rw [← hl] at hland
  have hbad : (w.poisoned.filter fun i => decide (w.filled ≤ i)).map (· - w.filled) = [] := by
    rw [hclean]
    rfl
  have hremote : landRemote s e w = arrivalCount { s with agenda := l } e w.source false w.offset w.data.length w.land := by
    unfold landRemote
    dsimp only
    rw [hbad, ← htag, hland]
  have harrives := arrives_arrivalCount (s := { s with agenda := l }) (e := e) hwf w.source false w.offset w.data.length w.land
  have hincoming := incoming_arrivalCount (s := { s with agenda := l }) (e := e) hwf w.source false w.offset w.data.length w.land
  rw [← hremote] at harrives hincoming
  have hframe := harrives.frame
  have hother := harrives.other
  generalize landRemote s e w = t at hframe hother hincoming
  refine ⟨tag, ?_, hincoming, hother, ?_⟩
  · rw [hframe, ← hl]
  · rw [hframe]

end

/-- Settles O36: what lands is on the agenda of its last cycles (`settled_lands_bytes`), with its tag or its count taken. -/
theorem completionsAndRemoteWritesLand : Obligations.CompletionsAndRemoteWritesLand := by
  unfold Obligations.CompletionsAndRemoteWritesLand
  intro s e hc hagenda hstores hclean htaint
  have hsound : Sound s := ⟨hc.mem, hclean.1, hclean.2, htaint⟩
  refine ⟨fun tag ready f hfind hnumber => ?_, fun k w hw => ?_⟩
  · dsimp only
    refine ⟨exec_completionLanded_waits hagenda hfind, fun hfence hturn hpoisoned hlen hsrc htag => ?_⟩
    have htagf : f.tag = some tag := by simpa using List.find?_some hfind
    have hexec := exec_completionLanded_lands hagenda hfind hnumber hfence hturn
    obtain ⟨hwf, hflight, htags, hother, hframe⟩ := completionTaken_spec (s := { s with out := [] }) (e := e) hc.engines
      (landCycle s (engGet s e) f ready) f
    generalize landCycle s (engGet s e) f ready = c at hexec hwf hflight htags hother hframe
    generalize completionTaken { s with out := [] } e c f = v at hexec hwf hflight htags hother hframe
    have hlands := landCompletion_lands (e := e) (c := c) hwf (by rw [hframe]; exact hagenda) (f := f)
      (by rw [hframe]; exact hsrc) hpoisoned
    generalize landCompletion v e f c = t at hexec hlands
    have hframe' : t = { s with out := [], engines := t.engines, regs := t.regs, lateStacks := t.lateStacks, lateEnd := t.lateEnd
                                agenda := t.agenda } := by
      rw [hlands.frame, hframe]
    have hsound' : Sound t := by
      rw [hframe']
      exact ⟨hsound.form, hsound.poison, hsound.soft, hsound.taint⟩
    have hmem : t.mem = s.mem := by rw [hframe']
    obtain ⟨hbytes, hbut, hsettled⟩ := settled_lands_bytes hsound' hlands.agenda (Nat.lt_succ_self c) (by rw [List.length_drop]; omega)
    rw [List.length_drop] at hbytes hbut
    refine ⟨t, hexec, ?_, hlands.inflight.trans hflight, fun q hq => (hlands.other q hq).trans (hother q hq), hframe', hbytes,
      fun x hx => (hbut x hx).trans (congrArg (fun m => sget memDefault m x) hmem), hsettled⟩
    have hlanded := tagLanded_tagLand (engGet v e) (tag := tag) (by rw [htags]; exact htag)
    unfold tagLanded at hlanded ⊢
    rw [hlands.tags, htagf]
    exact hlanded
  · dsimp only
    refine ⟨exec_remoteWriteLanding_waits hagenda hw, fun hturn hpoisoned hlen => ?_⟩
    have hexec := exec_remoteWriteLanding_lands hagenda hw hturn
    have htaken : engGet (arrivalTaken { s with out := [] } e k) e = { engGet s e with incoming := (engGet s e).incoming.eraseIdx k } :=
      engGet_engSet_same (s := { s with out := [] }) hc.engines e _
    have hother : ∀ q, q ≠ e → engGet (arrivalTaken { s with out := [] } e k) q = engGet s q := fun q hq => engGet_engSet_other _ _ hq
    have hwf : swf (fun _ => ({} : Engine)) (arrivalTaken { s with out := [] } e k).engines = true :=
      swf_engSet (s := { s with out := [] }) hc.engines e _
    have hframe : arrivalTaken { s with out := [] } e k = { s with out := [], engines := (arrivalTaken { s with out := [] } e k).engines } := rfl
    generalize arrivalTaken { s with out := [] } e k = v at hexec htaken hother hwf hframe
    obtain ⟨tag, htasks, hincoming, hrest, hlands⟩ := landRemote_lands (e := e) (w := w) hwf (by rw [hframe]; exact hagenda) hpoisoned
    generalize landRemote v e w = t at hexec htasks hincoming hrest hlands
    have hframe' : t = { s with out := [], engines := t.engines, lateEnd := t.lateEnd, agenda := t.agenda } := by
      rw [hlands, hframe]
    have hsound' : Sound t := by
      rw [hframe']
      exact ⟨hsound.form, hsound.poison, hsound.soft, hsound.taint⟩
    have hmem : t.mem = s.mem := by rw [hframe']
    obtain ⟨hbytes, hbut, hsettled⟩ := settled_lands_bytes hsound' htasks (Nat.lt_succ_self w.land) (by rw [List.length_drop]; omega)
    rw [List.length_drop] at hbytes hbut
    exact ⟨t, hexec, by rw [hincoming, htaken], fun q hq => (hrest q hq).trans (hother q hq), hframe', hbytes,
      fun x hx => (hbut x hx).trans (congrArg (fun m => sget memDefault m x) hmem), hsettled⟩

end Sys2Proof.Machine

/-! O32: a weight load (R65, R68, R69, R72). -/

namespace Sys2Proof.Machine

open Sys2Proof Sys2Proof.Terms

variable {s t u : State} {e c n k : Nat} {v : BundleEvent} {r : Run} {o : OpRec}

/-! ## Tasks of one cycle and rank -/

/-- Tasks of one cycle and rank wait in the order in which they were put. -/
theorem foldl_taskAt_same {α : Type} (hs : s.agenda = []) (e cycle rank : Nat) (f : α → Machine.Task) (l : List α) :
    l.foldl (fun s y => taskAt s e cycle rank (f y)) s = { s with agenda := l.map fun y => ⟨cycle, rank, e, f y⟩ } := by
  induction l using List.reverseRecOn with
  | nil => rw [List.foldl_nil, List.map_nil, ← hs]
  | append_singleton l y ih =>
    rw [List.foldl_append, ih, List.foldl_cons, List.foldl_nil]
    unfold taskAt
    dsimp only
    rw [agendaInsert_last, List.map_append, List.map_singleton]
    intro z hz
    obtain ⟨x, -, rfl⟩ := List.mem_map.mp hz
    exact timedBefore_of_later (Nat.le_refl _) rfl

/-- A task that comes first, in a cycle that is over, takes place. -/
theorem settle_step {x : Timed} {l : List Timed} {bound fuel : Nat} (hs : s.agenda = x :: l) (hx : x.cycle < bound) :
    settle s bound (fuel + 1) = settle (runTask { s with agenda := l } x) bound fuel := by
  rw [settle, hs]
  exact if_pos hx

/-- A task for a cycle to come waits. -/
theorem settle_waits {x : Timed} {l : List Timed} {bound : Nat} (fuel : Nat) (hs : s.agenda = x :: l) (hx : bound ≤ x.cycle) :
    settle s bound fuel = s := by
  cases fuel with
  | zero => rfl
  | succ fuel =>
    rw [settle, hs]
    exact if_neg (Nat.not_lt.mpr hx)

/-! ## Reads of a window -/

theorem bytesAt_add (s : State) (a n m : Nat) : bytesAt s a (n + m) = bytesAt s a n ++ bytesAt s (a + n) m := by
  unfold bytesAt
  rw [List.range_add, List.map_append, List.map_map]
  congr 1
  exact List.map_congr_left fun i _ => congrArg (byteAt s) (Nat.add_assoc a n i).symm

theorem anyBad_sound (h : Sound s) (l : List Nat) : anyBad s l = false := by
  unfold anyBad
  rw [anyPoison_clean h.poison, h.taint]
  rfl

/-- A read of sound bytes meets no error. -/
theorem winRead_sound (h : Sound s) (e off n : Nat) : winRead s e off n [] = (bytesAt s (winAddr e off) n, false, s) := by
  unfold winRead
  dsimp only
  rw [List.map_nil, eccScan_nil h.soft, anyBad_sound h]
  unfold bytesAt
  rw [List.map_map]
  rfl

/-! ## The reads of a load -/

theorem depthOf_le (o : OpRec) : depthOf o ≤ 256 := by
  unfold depthOf
  dsimp only
  split_ifs <;> omega

theorem fmtWidth_le (f : Nat) : fmtWidth f ≤ 32 := by
  unfold fmtWidth
  split <;> omega

theorem tileBytes_le (o : OpRec) : tileBytes o ≤ 33024 := by
  have hd := depthOf_le o
  have hw := fmtWidth_le o.bFmt
  have hbits := Nat.mul_le_mul hw hd
  unfold tileBytes tileElemBytes packedBytes ceilDiv
  split <;> omega

/-- The linear address of the tile that a load brings to array k. -/
def tilePlace (e : Nat) (b : Bundle) (k : Nat) : Nat := winAddr e (wsBase + b.wsOff + k * b.abStride)

/-- One read of a load, and the next one's place. -/
theorem weightsStep_sound (h : Sound s) (b : Bundle) {got : Bytes} (hgot : got = bytesAt s (tilePlace e b k) got.length) :
    weightsStep s e r o c b [] k got false =
      let n := got.length + min 256 (tileBytes o - got.length)
      if n < tileBytes o then taskAt s e (c + 1) rankRead (.weights b [] k (bytesAt s (tilePlace e b k) n) false)
      else taskAt s e (c + 2) rankFill (.tile k (tileOf o (bytesAt s (tilePlace e b k) n) false)) := by
  have hplace : winAddr e (wsBase + b.wsOff + k * b.abStride + got.length) = tilePlace e b k + got.length := by
    unfold tilePlace winAddr
    omega
  unfold weightsStep
  rw [winRead_sound h, hplace]
  dsimp only
  rw [bytesAt_add, ← hgot]
  simp

theorem runTask_weights {b : Bundle} (hrun : runOf s e = some r) (hop : opOf r.img b.op = some o) (rank : Nat) (finds : List EccFind)
    (got : Bytes) (bad : Bool) : runTask s ⟨c, rank, e, .weights b finds k got bad⟩ = weightsStep s e r o c b finds k got bad := by
  unfold runTask
  dsimp only
  rw [hrun]
  dsimp only
  rw [hop]
  rfl

/-- A load reads its tile in as many cycles as it has pieces of 256 B, and fills the register when its cycles are over. -/
theorem settle_weights {b : Bundle} (h : Sound s) (hrun : runOf s e = some r) (hop : opOf r.img b.op = some o) {bound : Nat} (left : Nat) :
    ∀ {c n fuel : Nat}, n ≤ tileBytes o → tileBytes o - n ≤ 256 * left → left ≤ fuel → c + left + 2 < bound →
      settle { s with agenda := [⟨c, rankRead, e, .weights b [] k (bytesAt s (tilePlace e b k) n) false⟩] } bound (fuel + 2)
        = tileStep { s with agenda := [] } e k (tileOf o (bytesAt s (tilePlace e b k) (tileBytes o)) false) := by
  have hsound : Sound { s with agenda := [] } := ⟨h.form, h.poison, h.soft, h.taint⟩
  have hstep {c n fuel : Nat} (hc : c < bound) :
      settle { s with agenda := [⟨c, rankRead, e, .weights b [] k (bytesAt s (tilePlace e b k) n) false⟩] } bound (fuel + 1)
        = settle (if n + min 256 (tileBytes o - n) < tileBytes o then
            { s with agenda := [⟨c + 1, rankRead, e, .weights b [] k (bytesAt s (tilePlace e b k) (n + min 256 (tileBytes o - n))) false⟩] }
          else { s with agenda := [⟨c + 2, rankFill, e, .tile k (tileOf o (bytesAt s (tilePlace e b k) (n + min 256 (tileBytes o - n))) false)⟩] })
          bound fuel := by
    rw [settle_step (s := { s with agenda := [⟨c, rankRead, e, .weights b [] k (bytesAt s (tilePlace e b k) n) false⟩] }) rfl hc]
    rw [runTask_weights (s := { s with agenda := [] }) hrun hop, weightsStep_sound hsound b (by rw [bytesAt_length]; rfl), bytesAt_length]
    rfl
  induction left with
  | zero =>
    intro c n fuel hn hleft hfuel hbound
    obtain rfl : n = tileBytes o := by omega
    rw [hstep (by omega), if_neg (by omega), Nat.sub_self, Nat.min_zero, Nat.add_zero]
    rw [settle_step rfl (by show c + 2 < bound; omega)]
    rw [settle_idle _ _ rfl]
    rfl
  | succ left ih =>
    intro c n fuel hn hleft hfuel hbound
    obtain ⟨fuel, rfl⟩ : ∃ f, fuel = f + 1 := ⟨fuel - 1, by omega⟩
    rw [hstep (by omega)]
    by_cases hmore : n + min 256 (tileBytes o - n) < tileBytes o
    · rw [if_pos hmore]
      exact ih hmore.le (by omega) (by omega) (by omega)
    · have hall : n + min 256 (tileBytes o - n) = tileBytes o := by omega
      rw [if_neg hmore, hall, settle_step rfl (by show c + 2 < bound; omega), settle_idle _ _ rfl]
      rfl

/-! ## WLOAD -/

theorem runOf_afterIssue (s : State) (v : BundleEvent) (e : Nat) : runOf (afterIssue s v) e = runOf s e := rfl

theorem exec_wload (h : Issues .wload s v r) :
    exec (.wload v) s = .next { afterIssue s v with
      agenda := (arraysOf v.bundle).map fun k => ⟨issueCycle s v, rankRead, v.engine, .weights v.bundle [] k [] false⟩ } := by
  have hexec : exec (.wload v) s
      = .next (issueBundle .wload v (fun _ cycle s => doWload s v.engine cycle v.bundle v.sram) { s with out := [] }) := rfl
  have hagenda : (afterIssue s v).agenda = [] := h.idle.1
  rw [hexec, issueBundle_quiet h, h.sound.1]
  exact congrArg Host.Outcome.next (foldl_taskAt_same hagenda v.engine (issueCycle s v) rankRead (fun k => .weights v.bundle [] k [] false) _)

/-- A mask of one array names it. -/
theorem arraysOf_one {b : Bundle} (hk : k < 4) (h : b.arrays = BitVec.ofNat 4 (2 ^ k)) : arraysOf b = [k] := by
  have hbits : ∀ k < 4, bitsOf 4 (BitVec.ofNat 4 (2 ^ k)).toNat = [k] := by decide
  rw [arraysOf, h]
  exact hbits k hk

/-- Settles O32: the reads of `settle_weights`, from the issue on. -/
theorem wloadFillsTheShadowRegister : Obligations.WloadFillsTheShadowRegister := by
  unfold Obligations.WloadFillsTheShadowRegister
  intro s v r h
  dsimp only
  have hother : ∀ q, q ≠ v.engine → engGet (afterIssue s v) q = engGet s q := fun q hq => engGet_afterIssue_other hq
  refine ⟨_, exec_wload h, rfl, engGet_afterIssue_same h.canon, hother, rfl, fun o k hop hk harrays => ?_⟩
  obtain ⟨hpoison, hsoft, htaint, -⟩ := h.clean
  have hsound : Sound (afterIssue s v) := ⟨h.canon.mem, hpoison, hsoft, htaint⟩
  have hagenda : { afterIssue s v with agenda := [] } = afterIssue s v := by
    have hidle : (afterIssue s v).agenda = [] := h.idle.1
    generalize afterIssue s v = t at hidle
    rw [← hidle]
  have hlen := tileBytes_le o
  have hpieces : tileBytes o - 0 ≤ 256 * ceilDiv (tileBytes o) 256 ∧ ceilDiv (tileBytes o) 256 ≤ 129 := by
    unfold ceilDiv
    omega
  have hfuel : agendaFuel = 2 ^ 40 - 2 + 2 := by
    unfold agendaFuel
    norm_num
  have hsettle := settle_weights hsound (h.runs : runOf (afterIssue s v) v.engine = some r) hop
    (bound := issueCycle s v + ceilDiv (tileBytes o) 256 + 3) (k := k) (ceilDiv (tileBytes o) 256)
    (c := issueCycle s v) (n := 0) (fuel := 2 ^ 40 - 2) (Nat.zero_le _) hpieces.1 (hpieces.2.trans (by norm_num)) (by omega)
  rw [← hfuel, hagenda] at hsettle
  have hu : settled { afterIssue s v with agenda := [⟨issueCycle s v, rankRead, v.engine, .weights v.bundle [] k [] false⟩] }
      (issueCycle s v + ceilDiv (tileBytes o) 256 + 3)
      = tileStep (afterIssue s v) v.engine k (tileOf o (bytesAt s (tilePlace v.engine v.bundle k) (tileBytes o)) false) := hsettle
  rw [arraysOf_one hk harrays, List.map_singleton, hu]
  unfold tileStep
  dsimp only
  rw [engGet_afterIssue_same h.canon]
  have harray : arrayGet (issued s v) k = arrayGet (engGet s v.engine) k := congrArg (·.getD k {}) (issued_arrays s v)
  rw [harray, engSet_afterIssue h.canon]
  exact ⟨engGet_engSet_same (s := { s with out := [] }) h.canon.engines _ _, fun q hq => engGet_engSet_other _ _ hq, rfl⟩

end Sys2Proof.Machine

/-! O33: the rows of a ROWS bundle (R47 to R50, R65, R67, R71, R150 to R154, R170). -/

namespace Sys2Proof.Machine

open Sys2Proof Sys2Proof.Terms

variable {s t u : State} {e c n k : Nat} {v : BundleEvent} {r : Run} {o : OpRec} {b : Bundle}

/-! ## Reads of an area -/

theorem areaScan_sound (h : Sound s) (e : Nat) (a : Area) (off n : Nat) : areaScan s e a off n [] = s := by
  unfold areaScan
  rw [winRead_sound h]

theorem areaBad_sound (h : Sound s) (e : Nat) (a : Area) (off n : Nat) : areaBad s e a off n = false := anyBad_sound h _

/-! ## The issue -/

/-- The broadcasts of a bundle's arrays, noted in their engine. -/
def castsNoted (s : State) (x : Engine) (o : OpRec) (b : Bundle) (cycle : Nat) : Engine :=
  (arraysOf b).foldl (fun x k => arraySet x k { arrayGet x k with cast := some (s.beats * 4096 + cycle + 5 + b.rows * rowCycles o) }) x

theorem noteCasts_eq (hwf : swf (fun _ => ({} : Engine)) s.engines = true) (e : Nat) (o : OpRec) (b : Bundle) (cycle : Nat) :
    engGet (noteCasts s e o b cycle) e = castsNoted s (engGet s e) o b cycle
      ∧ (∀ q, q ≠ e → engGet (noteCasts s e o b cycle) q = engGet s q)
      ∧ noteCasts s e o b cycle = { s with engines := (noteCasts s e o b cycle).engines } := by
  have hall (l : List Nat) (u : State) (hu : swf (fun _ => ({} : Engine)) u.engines = true) (hbeats : u.beats = s.beats) :
      ∃ w, l.foldl (fun s k =>
        let x := engGet s e
        engSet s e (arraySet x k { arrayGet x k with cast := some (s.beats * 4096 + cycle + 5 + b.rows * rowCycles o) })) u = w
      ∧ engGet w e = l.foldl (fun x k => arraySet x k { arrayGet x k with cast := some (s.beats * 4096 + cycle + 5 + b.rows * rowCycles o) }) (engGet u e)
        ∧ (∀ q, q ≠ e → engGet w q = engGet u q) ∧ w = { u with engines := w.engines } := by
    induction l generalizing u with
    | nil => exact ⟨u, rfl, rfl, fun _ _ => rfl, rfl⟩
    | cons k l ih =>
      have hsame := engGet_engSet_same hu e
        (arraySet (engGet u e) k { arrayGet (engGet u e) k with cast := some (u.beats * 4096 + cycle + 5 + b.rows * rowCycles o) })
      obtain ⟨w, hw, hget, hother, hframe⟩ := ih (engSet u e (arraySet (engGet u e) k { arrayGet (engGet u e) k with
        cast := some (u.beats * 4096 + cycle + 5 + b.rows * rowCycles o) })) (swf_engSet hu e _) hbeats
      refine ⟨w, hw, ?_, fun q hq => (hother q hq).trans (engGet_engSet_other u _ hq), hframe.trans rfl⟩
      rw [hsame, hbeats] at hget
      exact hget
  obtain ⟨w, hw, hrest⟩ := hall (arraysOf b) s hwf rfl
  unfold noteCasts
  rw [hw]
  exact hrest

/-- The swap that a bundle asks for. -/
def swapTasks (e c : Nat) (b : Bundle) : List Timed := if b.swap then [⟨c + 6, rankRead, e, .swap b.arrays⟩] else []

/-- The state of a bundle whose header is refused: logged, and the jobs of its pass fail (R170). -/
def rowsRefused (s : State) (e : Nat) (r : Run) (c : Nat) (b : Bundle) : State :=
  failAll (logOther { s with agenda := swapTasks e c b } (unitOf 1 e) none 170) r .badParam

/-- The state of a bundle whose first row is on its way. -/
def rowsBegun (s : State) (e : Nat) (r : Run) (o : OpRec) (c : Nat) (b : Bundle) : State :=
  { s with agenda := ⟨c, rankRead, e, .row b [] 0 (shared s e r o b)⟩ :: swapTasks e c b }

/-- ROWS at its issue in a sound state: its header is refused, or its first row follows, and its swap in both cases. -/
theorem doRows_sound (h : Sound s) (hagenda : s.agenda = []) :
    (headRefused s e r o b → doRows s e r o b c [] = rowsRefused s e r c b)
      ∧ (¬headRefused s e r o b → doRows s e r o b c [] = rowsBegun s e r o c b) := by
  have hscan : (areaOf r.img o.tensorAux).toList.foldl (fun s a =>
      (commonParts o b.kStep).foldl (fun s (off, n) => areaScan s e a off n []) s) s = s :=
    foldl_same fun a _ => foldl_same fun y _ => areaScan_sound h e a y.1 y.2
  have hbad : ((areaOf r.img o.tensorAux).any fun a => (commonParts o b.kStep).any fun (off, n) => areaBad s e a off n) = false := by
    cases areaOf r.img o.tensorAux with
    | none => rfl
    | some a =>
      rw [Option.any_some]
      exact List.any_eq_false.mpr fun y _ => Bool.eq_false_iff.mp (areaBad_sound h e a y.1 y.2)
  have hswap : (if b.swap then taskAt s e (c + 6) rankRead (.swap b.arrays) else s) = { s with agenda := swapTasks e c b } := by
    unfold swapTasks taskAt
    split
    · rw [hagenda]
      rfl
    · rw [← hagenda]
  have hfirst (common : Bytes) : taskAt { s with agenda := swapTasks e c b } e c rankRead (.row b [] 0 common)
      = { s with agenda := ⟨c, rankRead, e, .row b [] 0 common⟩ :: swapTasks e c b } := by
    unfold taskAt swapTasks
    dsimp only
    split
    · rw [agendaInsert, if_pos]
      simp [timedBefore]
    · rfl
  unfold doRows
  dsimp only
  rw [hscan, hbad, if_neg Bool.false_ne_true, hswap, hfirst]
  exact ⟨fun hrefused => if_pos hrefused, fun hfine => if_neg hfine⟩

/-! ## The stages of a row -/

/-- The bytes of a row as it is computed: zeros for an empty slot (R76). -/
def rowInput (s : State) (e : Nat) (r : Run) (o : OpRec) (b : Bundle) (slot : Option Nat) : Bytes :=
  let read := bytesAt s (winAddr e b.abOff) (actBytes o)
  if rowEmpty s r slot then List.replicate read.length 0 else read

/-- The elements of a row after its prologue. -/
def rowVals (s : State) (e : Nat) (r : Run) (o : OpRec) (b : Bundle) (common input : Bytes) : List Val :=
  prologue s e r.img o b.kStep 0 common (actRow o input)

/-- The integers of a row. -/
def rowInts (o : OpRec) (input : Bytes) : List Int :=
  if isIntegerOp o then (unpack (fmtWidth o.aFmt) (depthOf o) input).map (signedOf (fmtWidth o.aFmt)) else []

/-- The read of a bundle's only row. -/
theorem rowStep_sound (h : Sound s) (hrows : b.rows = 1) (common : Bytes) (slot : Option Nat) :
    rowStep s e r o c b [] 0 common slot = taskAt s e (c + 6) rankRead
      (.cast b [] 0 (rowVals s e r o b common (rowInput s e r o b slot)) (rowInts o (rowInput s e r o b slot)) false) := by
  have hscan (a : Area) (l : List Nat) (w : Nat) : l.foldl (fun s x => areaScan s e a x w []) s = s :=
    foldl_same fun x _ => areaScan_sound h e a x w
  have hnone (l : List Nat) : (l.any fun _ => false) = false := by simp
  unfold rowStep
  cases areaOf r.img o.tensorAux with
  | none =>
    simp only [winRead_sound h, hrows, Option.any_none, Nat.zero_mul, Nat.add_zero, Bool.false_eq_true, if_false, or_self]
    rfl
  | some a =>
    simp only [areaScan_sound h, areaBad_sound h, hscan, hnone, winRead_sound h, hrows, Option.any_some, Nat.zero_mul, Nat.add_zero,
      Bool.false_eq_true, if_false, or_self, ite_self]
    rfl

/-- One column's sum of a row, without what AM holds. -/
def rowWord (o : OpRec) (tile : Option Tile) (vals : List Val) (ints : List Int) (n : Nat) : Word × Nat :=
  if isIntegerOp o then intColumn (depthOf o / 32) 32 ints (weightInts tile (depthOf o) n) (0, 0)
  else (floatColumn o vals (weightCol tile (depthOf o) n), 0)

theorem engNumev_frame (s : State) (e : Nat) (lost : Bool) (n : Nat) : ∃ g, engNumev s e lost n = { s with regs := g } := by
  unfold engNumev
  split
  · exact ⟨s.regs, rfl⟩
  · split
    · exact ⟨_, rfl⟩
    · exact ⟨_, rfl⟩

/-- The broadcast of a row to its bundle's only array. -/
theorem castStep_one (hk : arraysOf b = [k]) (vals : List Val) (ints : List Int) :
    ∃ g bad, castStep s e o c b [] 0 vals ints false
      = taskAt { s with regs := g } e (c + 33 + (if depthOf o = 32 then 1 else 0)) rankRead
          (.sums b [] 0 [(k, (List.range 32).map fun n => (rowWord o (arrayGet (engGet s e) k).active vals ints n).1, bad)]) := by
  choose g hg using engNumev_frame s e false
  unfold castStep
  rw [hk]
  dsimp only [List.map_cons, List.map_nil]
  rw [hg, List.map_map]
  exact ⟨_, _, rfl⟩

/-- Sums that begin a tree are the words that AM takes. -/
theorem accumulateTree_new (s : State) (o : OpRec) (lin : Nat) (old new : List Word) :
    ∃ n l, accumulateTree s o false lin old new = (new, n, { s with trees := l }) := by
  refine ⟨_, _, Prod.ext ?_ rfl⟩
  unfold accumulateTree treeWord
  dsimp only
  rw [List.map_map]
  exact List.zipIdx_map_fst 0 new

/-- The sums of one array without accumulation: the words that AM takes. -/
theorem sumsStep_one (hadd : b.accAdd = false) (words : List Word) (bad : Bool) (slot : Option Nat) :
    ∃ g l, sumsStep s e r o c b [] 0 [(k, words, bad)] slot
      = taskAt { s with regs := g, trees := l } e (c + 2) rankFill
          (.put (amBase + b.amOff + 128 * k) (wordBytes words) (if bad then List.range 128 else []) []) := by
  unfold sumsStep
  rw [List.foldl_cons, List.foldl_nil, hadd]
  dsimp only
  rw [if_neg Bool.false_ne_true]
  dsimp only
  rw [if_neg Bool.false_ne_true, Nat.zero_mul, Nat.add_zero, Bool.or_false]
  split
  · obtain ⟨n, l, htree⟩ := accumulateTree_new s o (winAddr e (amBase + b.amOff + 128 * k)) (f32Words []) words
    choose g hg using engNumev_frame { s with trees := l } e false
    rw [htree]
    dsimp only
    rw [hg]
    exact ⟨_, _, rfl⟩
  · choose g hg using engNumev_frame s e false
    unfold accumulate
    rw [Bool.not_false, if_pos rfl]
    dsimp only
    rw [hg]
    exact ⟨_, s.trees, rfl⟩

/-- Bytes put into a sound window, some of which may carry poisoned data. -/
theorem putStep_marks (h : Sound s) (off : Nat) (data : Bytes) (bad jobs : List Nat) :
    ∃ l, putStep s e off data bad jobs = { s with mem := memPut s.mem (winAddr e off) data, taint := l } := by
  have hmark (l : List Nat) (u : State) : ∃ m, l.foldl (fun s i => taintSet s (winAddr e off + i) 1 true) u = { u with taint := m } := by
    induction l generalizing u with
    | nil => exact ⟨u.taint, rfl⟩
    | cons i l ih => exact ih { u with taint := _ }
  have hwrite : winWrite s (winAddr e off) data false = (false, { s with mem := memPut s.mem (winAddr e off) data }) := by
    unfold winWrite partialPoison taintSet
    simp [h.poison, h.soft, h.taint, bytesPut]
  obtain ⟨l, hl⟩ := hmark bad { s with mem := memPut s.mem (winAddr e off) data }
  refine ⟨l, ?_⟩
  unfold putStep winWriteAt
  rw [hwrite]
  dsimp only
  rw [hl, if_neg Bool.false_ne_true]

/-! ## The words in AM -/

theorem length_wordBytes (ws : List Word) : (wordBytes ws).length = 4 * ws.length := by
  unfold wordBytes
  induction ws with
  | nil => rfl
  | cons w ws ih =>
    rw [List.flatMap_cons, List.length_append, ih, length_toLE, List.length_cons]
    omega

theorem slice_wordBytes (ws : List Word) (hn : n < ws.length) : slice (wordBytes ws) (4 * n) 4 = toLE (ws[n]).toNat 4 := by
  induction ws generalizing n with
  | nil => simp at hn
  | cons w ws ih =>
    have hcons : wordBytes (w :: ws) = toLE w.toNat 4 ++ wordBytes ws := rfl
    rw [hcons]
    cases n with
    | zero => exact List.take_left' (length_toLE _ _)
    | succ n =>
      have hdrop : slice (toLE w.toNat 4 ++ wordBytes ws) (4 * (n + 1)) 4 = slice (wordBytes ws) (4 * n) 4 := by
        unfold slice
        rw [show 4 * (n + 1) = 4 + 4 * n by omega, ← List.drop_drop, List.drop_left' (length_toLE _ _)]
      rw [hdrop, ih (by simpa using hn), List.getElem_cons_succ]

theorem slice_bytesAt (s : State) (a : Nat) {i m : Nat} (h : i + m ≤ n) : slice (bytesAt s a n) i m = bytesAt s (a + i) m := by
  obtain ⟨d, rfl⟩ := Nat.exists_eq_add_of_le h
  rw [Nat.add_assoc, bytesAt_add, bytesAt_add]
  unfold slice
  rw [List.drop_left' (bytesAt_length _ _ _), List.take_left' (bytesAt_length _ _ _)]

/-- A word of a list of words in memory. -/
theorem leNat_bytesAt_words {a : Nat} {ws : List Word} (h : bytesAt s a (wordBytes ws).length = wordBytes ws) (hn : n < ws.length) :
    leNat (bytesAt s (a + 4 * n) 4) = (ws[n]).toNat := by
  rw [← slice_bytesAt s a (show 4 * n + 4 ≤ (wordBytes ws).length by rw [length_wordBytes]; omega), h, slice_wordBytes ws hn, leNat_toLE]
  exact Nat.mod_eq_of_lt (ws[n]).isLt

/-! ## A row from its read to AM -/

theorem runTask_row (hrun : runOf s e = some r) (hop : opOf r.img b.op = some o) (finds : List EccFind) (common : Bytes) (rank : Nat) :
    runTask s ⟨c, rank, e, .row b finds 0 common⟩ = rowStep s e r o c b finds 0 common (rowSlot s e r (rowAm b 0)) := by
  unfold runTask
  dsimp only
  rw [hrun]
  dsimp only
  rw [hop]
  rfl

theorem runTask_cast (hrun : runOf s e = some r) (hop : opOf r.img b.op = some o) (finds : List EccFind) (vals : List Val)
    (ints : List Int) (bad : Bool) (rank : Nat) :
    runTask s ⟨c, rank, e, .cast b finds 0 vals ints bad⟩ = castStep s e o c b finds 0 vals ints bad := by
  unfold runTask
  dsimp only
  rw [hrun]
  dsimp only
  rw [hop]
  rfl

theorem runTask_sums (hrun : runOf s e = some r) (hop : opOf r.img b.op = some o) (finds : List EccFind)
    (cols : List (Nat × List Word × Bool)) (rank : Nat) :
    runTask s ⟨c, rank, e, .sums b finds 0 cols⟩ = sumsStep s e r o c b finds 0 cols (rowSlot s e r (rowAm b 0)) := by
  unfold runTask
  dsimp only
  rw [hrun]
  dsimp only
  rw [hop]
  rfl

/-- A task put on an empty agenda waits alone. -/
theorem taskAt_alone (hs : s.agenda = []) (e c rank : Nat) (x : Machine.Task) : taskAt s e c rank x = { s with agenda := [⟨c, rank, e, x⟩] } := by
  unfold taskAt
  rw [hs]
  rfl

theorem agenda_taken (hs : s.agenda = []) (l : List Timed) : { { s with agenda := l } with agenda := [] } = s := by
  rw [← hs]

/-- The words that AM takes of a row. -/
def rowWords (s : State) (e : Nat) (r : Run) (o : OpRec) (b : Bundle) (common : Bytes) (k : Nat) : List Word :=
  let input := rowInput s e r o b (rowSlot s e r (rowAm b 0))
  (List.range 32).map fun n => (rowWord o (arrayGet (engGet s e) k).active (rowVals s e r o b common input) (rowInts o input) n).1

/-- A row of one array without accumulation is in AM 44 cycles after its read. -/
theorem settled_row (h : Sound s) (hs : s.agenda = []) (hrun : runOf s e = some r) (hop : opOf r.img b.op = some o) (hrows : b.rows = 1)
    (hadd : b.accAdd = false) (hk : arraysOf b = [k]) (common : Bytes) :
    ∃ g l q, settled { s with agenda := [⟨c, rankRead, e, .row b [] 0 common⟩] } (c + 44)
      = { s with
          mem := memPut s.mem (winAddr e (amBase + b.amOff + 128 * k)) (wordBytes (rowWords s e r o b common k))
          regs := g, trees := l, taint := q } := by
  have hfuel : agendaFuel = 2 ^ 40 - 5 + 5 := by
    unfold agendaFuel
    norm_num
  have hdelay : (if depthOf o = 32 then 1 else 0) ≤ 1 := by split <;> omega
  unfold settled
  rw [hfuel]
  generalize 2 ^ 40 - 5 = fuel
  rw [settle_step rfl (show c < c + 44 by omega), agenda_taken hs, runTask_row hrun hop, rowStep_sound h hrows, taskAt_alone hs]
  rw [settle_step rfl (show c + 6 < c + 44 by omega), agenda_taken hs, runTask_cast hrun hop]
  obtain ⟨g, bad, hcast⟩ := castStep_one (s := s) (e := e) (o := o) (c := c + 6) hk
    (rowVals s e r o b common (rowInput s e r o b (rowSlot s e r (rowAm b 0)))) (rowInts o (rowInput s e r o b (rowSlot s e r (rowAm b 0))))
  rw [hcast, taskAt_alone (s := { s with regs := g }) hs]
  rw [settle_step rfl (show c + 6 + 33 + (if depthOf o = 32 then 1 else 0) < c + 44 by omega), agenda_taken (s := { s with regs := g }) hs,
    runTask_sums (s := { s with regs := g }) hrun hop]
  obtain ⟨g', l, hsums⟩ := sumsStep_one (s := { s with regs := g }) (e := e) (r := r) (o := o) (k := k)
    (c := c + 6 + 33 + (if depthOf o = 32 then 1 else 0)) hadd (rowWords s e r o b common k) bad
    (rowSlot { s with regs := g } e r (rowAm b 0))
  rw [show (List.range 32).map (fun n => (rowWord o (arrayGet (engGet s e) k).active
    (rowVals s e r o b common (rowInput s e r o b (rowSlot s e r (rowAm b 0)))) (rowInts o (rowInput s e r o b (rowSlot s e r (rowAm b 0)))) n).1)
    = rowWords s e r o b common k from rfl]
  rw [hsums, taskAt_alone (s := { s with regs := g', trees := l }) hs]
  rw [settle_step rfl (show c + 6 + 33 + (if depthOf o = 32 then 1 else 0) + 2 < c + 44 by omega),
    agenda_taken (s := { s with regs := g', trees := l }) hs]
  obtain ⟨q, hput⟩ := putStep_marks (s := { s with regs := g', trees := l }) (e := e) ⟨h.form, h.poison, h.soft, h.taint⟩
    (amBase + b.amOff + 128 * k) (wordBytes (rowWords s e r o b common k)) (if bad then List.range 128 else []) []
  refine ⟨g', l, q, ?_⟩
  rw [show runTask { s with regs := g', trees := l } ⟨c + 6 + 33 + (if depthOf o = 32 then 1 else 0) + 2, rankFill, e,
    .put (amBase + b.amOff + 128 * k) (wordBytes (rowWords s e r o b common k)) (if bad then List.range 128 else []) []⟩ = _ from hput]
  exact settle_idle _ _ hs

/-! ## ROWS -/

theorem exec_rows (h : Issues .rows s v r) (hop : opOf r.img v.bundle.op = some o) :
    exec (.rows v) s = .next (noteCasts (doRows (afterIssue s v) v.engine r o v.bundle (issueCycle s v) []) v.engine o v.bundle (issueCycle s v)) := by
  have hexec : exec (.rows v) s = .next (issueBundle .rows v (fun r cycle s =>
      match opOf r.img v.bundle.op with
      | none => s
      | some o => noteCasts (doRows s v.engine r o v.bundle cycle v.sram) v.engine o v.bundle cycle) { s with out := [] }) := rfl
  rw [hexec, issueBundle_quiet h, hop, h.sound.1]
  rfl

/-! What a row's words depend on: memory, the contexts and the place of its bundle, not what waits. -/

theorem slotAmong_agenda (l : List Timed) (off : Nat) (ps : List Placed) :
    slotAmong { s with agenda := l } e r off ps = slotAmong s e r off ps := rfl

theorem slotLater_agenda (l : List Timed) (p : Program) (off n beat : Nat) :
    slotLater { s with agenda := l } e r p off n beat = slotLater s e r p off n beat := by
  induction n generalizing beat with
  | zero => rfl
  | succ n ih =>
    unfold slotLater
    rw [slotAmong_agenda, ih]

theorem rowSlot_agenda (l : List Timed) (off : Nat) : rowSlot { s with agenda := l } e r off = rowSlot s e r off := by
  unfold rowSlot
  simp only [slotAmong_agenda, slotLater_agenda]
  rfl

theorem rowEmpty_agenda (l : List Timed) (slot : Option Nat) : rowEmpty { s with agenda := l } r slot = rowEmpty s r slot := rfl

theorem rowFactor_engines (x : List (Nat × Engine)) (a : Area) (common : Bytes) (i j : Nat) :
    rowFactor { s with out := [], engines := x } e a common i j = rowFactor s e a common i j := rfl

theorem rotation_engines (x : List (Nat × Engine)) (a : Area) (f : Nat) (h : Bytes) (i j : Nat) :
    rotation { s with out := [], engines := x } e a f h i j = rotation s e a f h i j := rfl

theorem prologue4_engines (x : List (Nat × Engine)) (a : Area) (f : Nat) (h : Bytes) (j k0 : Nat) (l : List Val) :
    prologue4 { s with out := [], engines := x } e a f h j k0 l = prologue4 s e a f h j k0 l := by
  induction l using List.twoStepInduction generalizing k0 with
  | nil => rfl
  | singleton y => rfl
  | cons_cons y z l ih _ =>
    unfold prologue4
    rw [rotation_engines, ih]

theorem prologue_engines (x : List (Nat × Engine)) (i : Image) (o : OpRec) (q j : Nat) (common : Bytes) (row : List Val) :
    prologue { s with out := [], engines := x } e i o q j common row = prologue s e i o q j common row := by
  unfold prologue
  simp only [rowFactor_engines, prologue4_engines]

theorem shared_engines (x : List (Nat × Engine)) : shared { s with out := [], engines := x } e r o b = shared s e r o b := rfl

theorem jobsOf_afterIssue (s : State) (v : BundleEvent) (r : Run) : jobsOf (afterIssue s v) r = jobsOf s r := rfl

/-- A broadcast noted leaves the registers of its array. -/
theorem active_castsNoted (x : Engine) (hk : arraysOf b = [k]) : (arrayGet (castsNoted s x o b c) k).active = (arrayGet x k).active := by
  unfold castsNoted
  rw [hk, List.foldl_cons, List.foldl_nil]
  unfold arraySet arrayGet
  by_cases hlen : k < x.arrays.length
  · simp [hlen]
  · simp [hlen]

section

variable (h : Issues .rows s v r) (hop : opOf r.img v.bundle.op = some o)

include h hop

/-- What the statement says of a refused header. -/
theorem exec_rows_refused (hbad : headRefused s v.engine r o v.bundle) :
    ∃ t, exec (.rows v) s = .next t ∧ engGet t v.engine = castsNoted s (issued s v) o v.bundle (issueCycle s v)
      ∧ (∀ q, q ≠ v.engine → engGet t q = engGet s q)
      ∧ t.agenda = swapTasks v.engine (issueCycle s v) v.bundle ∧ (t.events.head?.map (·.code)) = some 0xFFF ∧ t.nextSeq = s.nextSeq + 1
      ∧ (s.fails = [] → t.fails = (jobsOf s r).map fun j => (j.num, .badParam, s.nextSeq))
      ∧ t = { s with out := [], engines := t.engines, agenda := t.agenda, events := t.events, nextSeq := t.nextSeq, fails := t.fails } := by
  obtain ⟨hpoison, hsoft, htaint, -⟩ := h.clean
  have hsound : Sound (afterIssue s v) := ⟨h.canon.mem, hpoison, hsoft, htaint⟩
  obtain ⟨hrefused, -⟩ := doRows_sound hsound (h.idle.1 : (afterIssue s v).agenda = []) (e := v.engine) (r := r) (o := o) (b := v.bundle)
    (c := issueCycle s v)
  have hexec := exec_rows h hop
  rw [hrefused hbad] at hexec
  have hwf : swf (fun _ => ({} : Engine)) (afterIssue s v).engines = true := swf_engSet (s := { s with out := [] }) h.canon.engines _ _
  obtain ⟨hget, hother, hframe⟩ := noteCasts_eq (s := rowsRefused (afterIssue s v) v.engine r (issueCycle s v) v.bundle) hwf v.engine o v.bundle
    (issueCycle s v)
  generalize noteCasts (rowsRefused (afterIssue s v) v.engine r (issueCycle s v) v.bundle) v.engine o v.bundle (issueCycle s v) = t
    at hexec hget hother hframe
  have hissued : engGet (rowsRefused (afterIssue s v) v.engine r (issueCycle s v) v.bundle) v.engine = issued s v :=
    engGet_afterIssue_same h.canon
  rw [hissued] at hget
  refine ⟨t, hexec, hget, fun q hq => (hother q hq).trans (engGet_afterIssue_other hq), ?_, ?_, ?_, fun hfails => ?_, ?_⟩
  · rw [hframe]
    rfl
  · rw [hframe]
    rfl
  · rw [hframe]
    rfl
  · have hnone : (rowsRefused (afterIssue s v) v.engine r (issueCycle s v) v.bundle).fails
        = s.fails ++ (((jobsOf s r).map (·.num)).filter fun n => !s.fails.any (fun f => f.1 == n)).map fun n => (n, .badParam, s.nextSeq) := rfl
    have htfails : t.fails = (rowsRefused (afterIssue s v) v.engine r (issueCycle s v) v.bundle).fails := by rw [hframe]
    rw [htfails, hnone, hfails]
    simp
  · rw [hframe]
    rfl

/-- What the statement says of rows that begin. -/
theorem exec_rows_begins (hfine : ¬headRefused s v.engine r o v.bundle) :
    ∃ t, exec (.rows v) s = .next t ∧ engGet t v.engine = castsNoted s (issued s v) o v.bundle (issueCycle s v)
      ∧ (∀ q, q ≠ v.engine → engGet t q = engGet s q)
      ∧ t.agenda = ⟨issueCycle s v, rankRead, v.engine, .row v.bundle [] 0 (shared s v.engine r o v.bundle)⟩
          :: swapTasks v.engine (issueCycle s v) v.bundle
      ∧ t = { s with out := [], engines := t.engines, agenda := t.agenda } := by
  obtain ⟨hpoison, hsoft, htaint, -⟩ := h.clean
  have hsound : Sound (afterIssue s v) := ⟨h.canon.mem, hpoison, hsoft, htaint⟩
  obtain ⟨-, hbegun⟩ := doRows_sound hsound (h.idle.1 : (afterIssue s v).agenda = []) (e := v.engine) (r := r) (o := o) (b := v.bundle)
    (c := issueCycle s v)
  have hexec := exec_rows h hop
  rw [hbegun hfine] at hexec
  have hwf : swf (fun _ => ({} : Engine)) (afterIssue s v).engines = true := swf_engSet (s := { s with out := [] }) h.canon.engines _ _
  obtain ⟨hget, hother, hframe⟩ := noteCasts_eq (s := rowsBegun (afterIssue s v) v.engine r o (issueCycle s v) v.bundle) hwf v.engine o v.bundle
    (issueCycle s v)
  generalize noteCasts (rowsBegun (afterIssue s v) v.engine r o (issueCycle s v) v.bundle) v.engine o v.bundle (issueCycle s v) = t
    at hexec hget hother hframe
  have hissued : engGet (rowsBegun (afterIssue s v) v.engine r o (issueCycle s v) v.bundle) v.engine = issued s v :=
    engGet_afterIssue_same h.canon
  rw [hissued] at hget
  refine ⟨t, hexec, hget, fun q hq => (hother q hq).trans (engGet_afterIssue_other hq), ?_, ?_⟩
  · rw [hframe]
    rfl
  · rw [hframe]
    rfl

end

/-- A word of a row as the statement gives it. -/
theorem rowWord_fst (o : OpRec) (tile : Option Tile) (vals : List Val) (input : Bytes) (n : Nat) :
    (rowWord o tile vals (rowInts o input) n).1 = if isIntegerOp o then
      (intColumn (depthOf o / 32) 32 ((unpack (fmtWidth o.aFmt) (depthOf o) input).map (signedOf (fmtWidth o.aFmt)))
        (weightInts tile (depthOf o) n) (0, 0)).1 else floatColumn o vals (weightCol tile (depthOf o) n) := by
  unfold rowWord rowInts
  split <;> rfl

/-- The words of a row that has begun, from the state at its issue. -/
theorem rowWords_begun {x : List (Nat × Engine)} {x0 : Engine} (hk : arraysOf b = [k])
    (hget : engGet { s with out := [], engines := x } e = castsNoted s x0 o b c) (hx0 : x0.arrays = (engGet s e).arrays)
    (common : Bytes) (hlen : n < (rowWords { s with out := [], engines := x } e r o b common k).length) :
    (rowWords { s with out := [], engines := x } e r o b common k)[n]
      = (rowWord o (arrayGet (engGet s e) k).active (prologue s e r.img o b.kStep 0 common (actRow o
          (rowInput { s with out := [], engines := x } e r o b (rowSlot { s with out := [], engines := x } e r (rowAm b 0)))))
          (rowInts o (rowInput { s with out := [], engines := x } e r o b (rowSlot { s with out := [], engines := x } e r (rowAm b 0)))) n).1 := by
  have hactive : (arrayGet (engGet { s with out := [], engines := x } e) k).active = (arrayGet (engGet s e) k).active := by
    rw [hget, active_castsNoted x0 hk]
    unfold arrayGet
    rw [hx0]
  simp only [rowWords, rowVals, List.getElem_map, List.getElem_range, hactive, prologue_engines]

/-- Settles O33: what `settled_row` says of the row that a bundle has begun. -/
theorem rowsStoresColumnSums : Obligations.RowsStoresColumnSums := by
  unfold Obligations.RowsStoresColumnSums
  intro s v r o h hop
  dsimp only
  by_cases hbad : headRefused s v.engine r o v.bundle
  · obtain ⟨t, hexec, hget, hother, hrest⟩ := exec_rows_refused h hop hbad
    exact ⟨t, hexec, hget, hother, fun _ => hrest, fun hfine => absurd hbad hfine⟩
  · obtain ⟨t, hexec, hget, hother, hagenda, hframe⟩ := exec_rows_begins h hop hbad
    refine ⟨t, hexec, hget, hother, fun hrefused => absurd hrefused hbad, fun _ => ⟨hagenda, hframe, ?_⟩⟩
    intro k hk harrays hrows hadd hswap
    obtain ⟨hpoison, hsoft, htaint, -⟩ := h.clean
    have hone := arraysOf_one hk harrays
    have hsound : Sound { s with out := [], engines := t.engines } := ⟨h.canon.mem, hpoison, hsoft, htaint⟩
    have hget' : engGet { s with out := [], engines := t.engines } v.engine = castsNoted s (issued s v) o v.bundle (issueCycle s v) := hget
    obtain ⟨g, l, q, hsettled⟩ := settled_row (c := issueCycle s v) hsound h.idle.1
      (h.runs : runOf { s with out := [], engines := t.engines } v.engine = some r) hop hrows hadd hone (shared s v.engine r o v.bundle)
    have ht : t = { { s with out := [], engines := t.engines } with
        agenda := [⟨issueCycle s v, rankRead, v.engine, .row v.bundle [] 0 (shared s v.engine r o v.bundle)⟩] } := by
      have hno : swapTasks v.engine (issueCycle s v) v.bundle = [] := if_neg (by rw [hswap]; exact Bool.false_ne_true)
      rw [hno] at hagenda
      rw [← hagenda]
      exact hframe
    rw [← ht] at hsettled
    have hslot : rowSlot t v.engine r (rowAm v.bundle 0) = rowSlot { s with out := [], engines := t.engines } v.engine r (rowAm v.bundle 0) := by
      rw [ht]
      exact rowSlot_agenda _ _
    have hempty (slot : Option Nat) : rowEmpty t r slot = rowEmpty { s with out := [], engines := t.engines } r slot := by
      rw [ht]
      exact rowEmpty_agenda _ _
    have hlen : (rowWords { s with out := [], engines := t.engines } v.engine r o v.bundle (shared s v.engine r o v.bundle) k).length = 32 := by
      simp [rowWords]
    have hmem : bytesAt (settled t (issueCycle s v + 44)) (winAddr v.engine (amBase + v.bundle.amOff + 128 * k))
        (wordBytes (rowWords { s with out := [], engines := t.engines } v.engine r o v.bundle (shared s v.engine r o v.bundle) k)).length
        = wordBytes (rowWords { s with out := [], engines := t.engines } v.engine r o v.bundle (shared s v.engine r o v.bundle) k) := by
      rw [hsettled]
      exact bytesAt_memPut (s := { s with out := [], engines := t.engines }) h.canon.mem _ _
    refine ⟨fun n hn => ?_, fun y hy => ?_, fun q => ?_, ?_⟩
    · rw [leNat_bytesAt_words hmem (by rw [hlen]; exact hn), rowWords_begun hone hget' (issued_arrays s v), rowWord_fst]
      unfold rowInput
      rw [hslot]
      simp only [hempty]
      rfl
    · rw [hsettled]
      exact sget_memPut_other _ (by rw [length_wordBytes, hlen]; exact hy)
    · rw [hsettled]
      rfl
    · rw [hsettled]

end Sys2Proof.Machine

/-! O34: the reads of an EPI take one cycle and one step for 256 B, and a row has as many as TILE_N asks for (R112, R533). -/

namespace Sys2Proof.Machine

open Sys2Proof Sys2Proof.Terms

variable {s t : State} {e a c n i fuel : Nat} {r : Run} {o : OpRec} {b : Bundle}

/-! ## A row whose words are not all there -/

/-- The state in which an EPI of one row is to read its next 256 B: that of its issue, with the reads before done. -/
def EpiReads (s : State) (e : Nat) (b : Bundle) (a c n i : Nat) (t : State) : Prop :=
  ∃ got bad, got.length = 256 * i ∧ (got = [] → bad = []) ∧ t = { s with agenda := [⟨a + i, rankRead, e, .epi b c n [] [] 0 got bad⟩] }

theorem epiRows_waits {x : EpiCtx} {got : Bytes} {bad : List Nat} (h : got.length < 4 * x.w) (fuel : Nat) :
    epiRows x fuel s 0 got bad = (s, 0, got, bad) := by
  cases fuel with
  | zero => rfl
  | succ fuel =>
    rw [epiRows]
    exact if_pos (.inl h)

/-- A read of some bytes that leaves its row short asks for the next ones. -/
theorem epiRead_more {x : EpiCtx} (h : Sound s) (hs : s.agenda = []) (hchain : chainOf x.o = 0) (hrows : x.b.rows = 1)
    (hfinds : x.finds = []) {got : Bytes} {bad : List Nat} (hn : min 256 (x.b.rows * 4 * x.w - (0 * 4 * x.w + got.length)) = n)
    (hpos : 0 < n) (hshort : got.length + n < 4 * x.w) (a number : Nat) :
    ∃ got' bad', got'.length = got.length + n ∧ epiRead x s a number 0 got bad
      = { s with agenda := [⟨a + 1, rankRead, x.e, .epi x.b x.cycle number x.finds x.mem 0 got' bad'⟩] } := by
  have hcycles : readCycles x.o = 1 := if_neg (by rw [hchain]; decide)
  have hchain8 : ¬chainOf x.o = 8 := by rw [hchain]; decide
  have hlen (p : Nat) : (got ++ bytesAt s p n).length = got.length + n := by
    unfold bytesAt
    rw [List.length_append, List.length_map, List.length_range]
  have hgo : ¬(n = 0 ∨ x.b.rows ≤ 0) := by omega
  unfold epiRead
  extract_lets done m u
  have hm : m = n := hn
  have hu : u = s := if_neg hchain8
  clear_value done m u
  subst hm hu
  rw [hfinds, winRead_sound h]
  dsimp only
  rw [epiRows_waits (by rw [hlen]; exact hshort)]
  exact ⟨_, _, hlen _, (if_neg hgo).trans (by rw [taskAt_alone hs, hcycles])⟩

/-- A read that leaves its row short takes 256 B. -/
theorem epiRead_short {x : EpiCtx} (h : Sound s) (hs : s.agenda = []) (hchain : chainOf x.o = 0) (hrows : x.b.rows = 1)
    (hfinds : x.finds = []) {got : Bytes} {bad : List Nat} (hgot : got.length = 256 * i) (hshort : 256 * (i + 1) < 4 * x.w)
    (a number : Nat) :
    ∃ got' bad', got'.length = 256 * (i + 1) ∧ epiRead x s a number 0 got bad
      = { s with agenda := [⟨a + 1, rankRead, x.e, .epi x.b x.cycle number x.finds x.mem 0 got' bad'⟩] } := by
  have hn : min 256 (x.b.rows * 4 * x.w - (0 * 4 * x.w + got.length)) = 256 := by rw [hrows, hgot]; omega
  have hnext : 256 * (i + 1) = got.length + 256 := by omega
  rw [hnext] at hshort ⊢
  exact epiRead_more h hs hchain hrows hfinds hn (by decide) hshort a number

/-- The first read of an EPI without an area meets no header. -/
theorem epiStep_plain (hpro : prologueOf o < 2) (hchain : chainOf o = 0) (a cycle number : Nat) (got : Bytes) (bad : List Nat)
    (hbad : got = [] → bad = []) :
    epiStep s e r o a b cycle number [] [] 0 got bad = epiRead (epiCtx s e r o b cycle number [] []) s a number 0 got bad := by
  have hpro4 : ¬prologueOf o = 4 := by omega
  have huses : usesE4 o = false := by
    unfold usesE4
    rw [hchain]
    rfl
  have hhead : e4HeaderBad s e r.img o = false := by
    unfold e4HeaderBad
    rw [huses]
    rfl
  have hmode : (epiCtx s e r o b cycle number [] []).mode = 0 := if_neg hpro4
  unfold epiStep
  split
  · rfl
  next hfirst =>
    obtain rfl : got = [] := by
      by_contra hne
      exact hfirst (.inr hne)
    rw [hbad rfl]
    simp [hpro4, huses, hhead, hmode, partsScan, partsBad]

/-! ## The reads of a wide row -/

/-- One step of a row that stays short. -/
theorem epiReads_step (h : Sound s) (hs : s.agenda = []) (hrun : runOf s e = some r) (hop : opOf r.img b.op = some o)
    (hpro : prologueOf o < 2) (hchain : chainOf o = 0) (hrows : b.rows = 1) (hshort : 256 * (i + 1) < 4 * epiW s e r o b)
    (ht : EpiReads s e b a c n i t) {bound : Nat} (hbound : a + i < bound) (fuel : Nat) :
    ∃ u, EpiReads s e b a c n (i + 1) u ∧ settle t bound (fuel + 1) = settle u bound fuel := by
  obtain ⟨got, bad, hgot, hbad, rfl⟩ := ht
  obtain ⟨got', bad', hgot', hread⟩ := epiRead_short (x := epiCtx s e r o b c n [] []) (bad := bad) h hs hchain hrows rfl hgot
    hshort (a + i) n
  refine ⟨_, ⟨got', bad', hgot', fun hnil => ?_, rfl⟩, ?_⟩
  · rw [hnil] at hgot'
    simp at hgot'
  have hrun' : runTask s ⟨a + i, rankRead, e, .epi b c n [] [] 0 got bad⟩
      = (opOf r.img b.op).elim s fun o => epiStep s e r o (a + i) b c n [] [] 0 got bad := by
    unfold runTask
    dsimp only
    rw [hrun]
  have hstep : runTask s ⟨a + i, rankRead, e, .epi b c n [] [] 0 got bad⟩
      = { s with agenda := [⟨a + (i + 1), rankRead, e, .epi b c n [] [] 0 got' bad'⟩] } := by
    rw [hrun', hop]
    exact (epiStep_plain hpro hchain (a + i) c n got bad hbad).trans hread
  rw [settle_step rfl hbound, agenda_taken hs, hstep]

/-- However many steps there are, a row with more words than they can read is not stored. -/
theorem epiReads_lasts (h : Sound s) (hs : s.agenda = []) (hrun : runOf s e = some r) (hop : opOf r.img b.op = some o)
    (hpro : prologueOf o < 2) (hchain : chainOf o = 0) (hrows : b.rows = 1) (fuel : Nat)
    (hshort : 256 * (i + fuel) < 4 * epiW s e r o b) (ht : EpiReads s e b a c n i t) {bound : Nat} (hbound : a + i + fuel ≤ bound) :
    (settle t bound fuel).agenda ≠ [] := by
  induction fuel generalizing i t with
  | zero =>
    obtain ⟨got, bad, -, -, rfl⟩ := ht
    exact List.cons_ne_nil _ _
  | succ fuel ih =>
    obtain ⟨u, hu, hsettle⟩ := epiReads_step h hs hrun hop hpro hchain hrows (by omega) ht (by omega : a + i < bound) fuel
    rw [hsettle]
    exact ih (by omega) hu (by omega)

/-! ## The counterexample -/

/-- An operation without columns, whose TILE_N of 2^48 makes each row of its results 2^48 words. -/
def wideOp : OpRec :=
  { aFmt := 1, aScaled := false, bFmt := 1, bScaled := false, dFmt := 0, dScaled := false, mixed := false, sr := false
    ieee := false, bf16Stage := false, fusion := 0, m := 32, n := 0, k := 32, tileM := 32, tileN := 2 ^ 48, tileK := 32
    kSplits := 1, tree := false, tensorA := 1, tensorB := 2, tensorD := 3, tensorAux := 0xFFFFFFFF, digestLayer := 0xFFFFFFFF }

/-- An EPI of one row of it on engine 0. -/
def wideEpi : BundleEvent :=
  { engine := 0, bundle := { issue := 10, due := 1000, setTag := some 2, arrays := 1, rows := 1, op := 0, size := 8, addr := 0 } }

/-- An image of the operation with the EPI as its program. -/
def wideImage : Image :=
  { id := 1, aid := 0x00010001, part := 9, beats := 1, mask := 1, slots := 1, async := 2, sr3 := false, members := 0
    ops := [wideOp], tensors := [], foots := [], calderas := [], refolds := [], source := 0x40000, size := 64, digest := 0
    plan := 0, loads := [], raw := []
    progs := [{ engine := 0, strides := [], beats := [{ first := 0, count := 1, reps := 1, strideSet := 0xFF }], bytes := 32
                bundles := [{ cls := .epi, b := wideEpi.bundle }] }] }

/-- A pass of that image with no job in any slot. -/
def widePass : Pass := { image := 1, placement := 0, beat := 0, slots := [], engines := [0] }

def wideState : State := { images := [wideImage], passes := [widePass] }

/-- The run that engine 0 is in. -/
def wideRun : Run := { img := wideImage, pass := widePass, partner := false }

theorem tileWidth_wideOp (col : Nat) : tileWidth wideOp col = 2 ^ 48 := by
  have hchain : ¬chainOf wideOp = 8 := by decide
  have hpad : npadOf wideOp % wideOp.tileN = 0 := by decide
  unfold tileWidth
  rw [if_neg hchain, if_pos hpad]
  rfl

theorem issues_wide : Issues .epi wideState wideEpi wideRun where
  canon := ⟨by decide, by decide, by decide, by decide, by decide⟩
  runs := by decide +kernel
  beat := by decide +kernel
  program := by decide +kernel
  turn := by decide +kernel
  landed := by decide +kernel
  quiet := by decide +kernel
  idle := ⟨rfl, rfl⟩
  clean := ⟨rfl, rfl, rfl, by decide +kernel⟩
  sound := by decide +kernel

theorem jobOf_wide (slot : Nat) : jobOf wideState wideRun slot = none := rfl

/-- The row's destination does not resolve. -/
theorem rowPos_wide : rowPos wideState wideRun wideOp wideEpi.bundle false 0 = ⟨0, 0, 0, 0, false, 0, 0⟩ := by decide +kernel

/-- Refutes O34: the row of an operation whose TILE_N is 2^48 takes 2^42 reads of 256 B, more than the 2^40 steps that the model
allows one cycle, so that its EPI is still under way where the statement has an empty slot's row ended. -/
theorem not_epiStoresItsRow : ¬ Obligations.EpiStoresItsRow := by
  unfold Obligations.EpiStoresItsRow
  intro hall
  obtain ⟨t, -, hagenda, -, -, hframe, hrow⟩ := hall wideState wideEpi wideRun wideOp issues_wide rfl
  obtain ⟨-, hempty⟩ := hrow rfl (by decide) (by decide) rfl rfl fun k _ => by rw [rowPos_wide]; rfl
  have hended := congrArg State.agenda (hempty (jobOf_wide _))
  rw [rowPos_wide, tileWidth_wideOp] at hended
  have hsound : Sound { wideState with out := [], engines := t.engines } := ⟨rfl, rfl, rfl, rfl⟩
  have hwidth : epiW { wideState with out := [], engines := t.engines } 0 wideRun wideOp wideEpi.bundle = 2 ^ 48 := tileWidth_wideOp _
  have hreads : EpiReads { wideState with out := [], engines := t.engines } 0 wideEpi.bundle (issueCycle wideState wideEpi + 2)
      (issueCycle wideState wideEpi) ((engGet wideState 0).next + 1) 0 t :=
    ⟨[], [], rfl, fun _ => rfl, by rw [hframe, hagenda]; rfl⟩
  have hfuel : agendaFuel = 2 ^ 40 := rfl
  have hrun : runOf { wideState with out := [], engines := t.engines } 0 = some wideRun := issues_wide.runs
  have hop : opOf wideRun.img wideEpi.bundle.op = some wideOp := rfl
  refine epiReads_lasts hsound rfl hrun hop (by decide) (by decide) rfl agendaFuel ?_ hreads ?_ hended
  · rw [hwidth, hfuel]
    norm_num
  · rw [hfuel]
    omega

end Sys2Proof.Machine

/-! O35: the bytes of MREAD, MWRITE and ATOMIC (R107, R114, R115, R139, R140, R265). -/

namespace Sys2Proof.Machine

open Sys2Proof Sys2Proof.Terms

variable {s t u : State} {e c n a : Nat} {v : BundleEvent} {r : Run} {b : Bundle}

/-! ## The cache lines of a scheduled access -/

theorem qcKeep_frame (s : State) (line : Nat) : qcKeep s line = { s with qc := (qcKeep s line).qc } := by
  unfold qcKeep
  dsimp only
  split_ifs <;> rfl

theorem qcLine_frame (s : State) (hint line : Nat) : qcLine s hint line = { s with qc := (qcLine s hint line).qc } := by
  unfold qcLine
  split
  · exact qcKeep_frame s line
  · split <;> rfl

/-- A scheduled access changes the cache lines alone. -/
theorem qcAccess_frame (s : State) (hint : BitVec 8) (a n : Nat) : qcAccess s hint a n = { s with qc := (qcAccess s hint a n).qc } := by
  have hall (h : Nat) (l : List Nat) (u : State) : l.foldl (fun s k => qcLine s h k) u = { u with qc := (l.foldl (fun s k => qcLine s h k) u).qc } := by
    induction l generalizing u with
    | nil => rfl
    | cons k l ih =>
      rw [List.foldl_cons, ih, qcLine_frame u h k]
  unfold qcAccess
  dsimp only
  generalize (if isNarrowSpan a n = true ∧ hint.toNat % 4 = 1 then 0 else hint.toNat % 4) = h
  split
  · rfl
  · exact hall h _ s

/-! ## A completion on its way -/

theorem mem_agendaInsert (x y : Timed) (l : List Timed) : y ∈ agendaInsert x l ↔ y = x ∨ y ∈ l := by
  induction l with
  | nil => simp [agendaInsert]
  | cons z l ih =>
    unfold agendaInsert
    split
    · exact List.mem_cons
    · rw [List.mem_cons, ih, List.mem_cons, or_left_comm]

/-- A completion joins those of its engine, its cycle among the RMOs, and its bytes wait for the cycles in which they land. -/
theorem launch_noted (hwf : swf (fun _ => ({} : Engine)) s.engines = true) (e n c : Nat) (f : Inflight) :
    ∃ t, launch (rmoNote s e n c) e f = t
      ∧ engGet t e = { engGet s e with inflight := (engGet s e).inflight ++ [f], rmos := (n, c) :: (engGet s e).rmos.filter fun y => y.1 != n }
      ∧ (∀ k, k ≠ e → engGet t k = engGet s k)
      ∧ t.agenda = (if f.old.length = 0 then s.agenda
          else agendaInsert ⟨fillStart f.due f.old.length, rankFill, e, .fill f.number⟩ s.agenda)
      ∧ t = { s with engines := t.engines, agenda := t.agenda } := by
  have hnoted : engGet (rmoNote s e n c) e = { engGet s e with rmos := (n, c) :: (engGet s e).rmos.filter fun y => y.1 != n } :=
    engGet_engSet_same hwf e _
  have hset : engSet (rmoNote s e n c) e { engGet (rmoNote s e n c) e with inflight := (engGet (rmoNote s e n c) e).inflight ++ [f] }
      = engSet s e { engGet s e with
          inflight := (engGet s e).inflight ++ [f], rmos := (n, c) :: (engGet s e).rmos.filter fun y => y.1 != n } := by
    rw [hnoted]
    exact engSet_engSet hwf e _ _
  have hempty : f.old.isEmpty = true ↔ f.old.length = 0 := by
    rw [List.isEmpty_iff, List.length_eq_zero_iff]
  refine ⟨_, rfl, ?_⟩
  unfold launch
  dsimp only
  rw [hset]
  simp only [hempty]
  split
  · exact ⟨engGet_engSet_same hwf e _, fun k hk => engGet_engSet_other s _ hk, rfl, rfl⟩
  · exact ⟨engGet_engSet_same hwf e _, fun k hk => engGet_engSet_other s _ hk, rfl, rfl⟩

/-! ## MREAD -/

theorem badPlaces_sound (h : Sound s) (l : List Nat) : badPlaces s l = [] := by
  unfold badPlaces
  rw [h.poison, h.taint]
  rfl

theorem failPart_sound (s : State) (x : Part) : failPart s x false = s := if_neg fun h => Bool.false_ne_true h.1

theorem sound_qc (h : Sound s) (q : List QcLine) : Sound { s with qc := q } := ⟨h.form, h.poison, h.soft, h.taint⟩

/-- What one part of an MREAD gives. -/
def readPart (e c : Nat) (hint : BitVec 8) (x : Bytes × List Nat × State) (y : Part) : Bytes × List Nat × State :=
  let (old, bad, s) := x
  if y.empty || !y.open_ then (old ++ List.replicate y.p.len 0, bad, s)
  else
    let lins := spanLinear y.addr y.p.len
    let s := qcAccess (failPart s y (anyBad s lins)) hint y.addr y.p.len
    let (b, s) := schedRead s e c lins
    (old ++ b, bad ++ (badPlaces s lins).map (· + y.p.off), s)

theorem readPart_sound (h : Sound s) (hs : s.stores = []) (e c : Nat) (hint : BitVec 8) (old : Bytes) (y : Part) :
    ∃ q, readPart e c hint (old, [], s) y = (old ++ partBytes s [y], [], { s with qc := q }) := by
  unfold readPart partBytes
  rw [List.flatMap_singleton]
  dsimp only
  split
  · exact ⟨_, rfl⟩
  · have hread : schedRead (qcAccess s hint y.addr y.p.len) e c (spanLinear y.addr y.p.len)
        = (spanRead s y.addr y.p.len, qcAccess s hint y.addr y.p.len) := by
      unfold schedRead
      rw [qcAccess_frame]
      exact if_pos (by rw [hs]; rfl)
    rw [anyBad_sound h, failPart_sound, hread]
    refine ⟨(qcAccess s hint y.addr y.p.len).qc, ?_⟩
    rw [qcAccess_frame, badPlaces_sound (sound_qc h _)]
    rfl

/-- What an MREAD takes of memory without errors. -/
theorem readParts_sound (h : Sound s) (hs : s.stores = []) (e c : Nat) (hint : BitVec 8) (parts : List Part) :
    ∃ q, readParts s e c hint parts = (partBytes s parts, [], { s with qc := q }) := by
  have hall (l : List Part) (old : Bytes) (q : List QcLine) : ∃ q', l.foldl (readPart e c hint) (old, [], { s with qc := q })
      = (old ++ partBytes s l, [], { s with qc := q' }) := by
    induction l generalizing old q with
    | nil => exact ⟨q, by rw [partBytes, List.flatMap_nil, List.append_nil]; rfl⟩
    | cons y l ih =>
      obtain ⟨q₁, hfirst⟩ := readPart_sound (sound_qc h q) hs e c hint old y
      obtain ⟨q₂, hrest⟩ := ih (old ++ partBytes s [y]) q₁
      refine ⟨q₂, ?_⟩
      rw [List.foldl_cons, hfirst]
      refine hrest.trans ?_
      unfold partBytes
      simp only [List.flatMap_cons, List.flatMap_nil, List.append_nil, List.append_assoc]
  obtain ⟨q, hq⟩ := hall parts [] s.qc
  exact ⟨q, hq⟩

/-- The state of an access that is refused where it has closed parts. -/
def accessMet (s : State) (e : Nat) (closed : List Part) : State :=
  if closed.isEmpty then s
  else refusedAccess s (unitOf 1 e) (partsJobs closed)
    (refusalCode s ((closed.head?.map (·.addr)).getD 0) ((closed.head?.map (·.p.len)).getD 0))

theorem accessMet_open (s : State) (e : Nat) : accessMet s e [] = s := rfl

theorem accessMet_frame (s : State) (e : Nat) (closed : List Part) :
    accessMet s e closed = { s with
      events := (accessMet s e closed).events, nextSeq := (accessMet s e closed).nextSeq, fails := (accessMet s e closed).fails } := by
  unfold accessMet
  split <;> rfl

theorem accessMet_sound (h : Sound s) (e : Nat) (closed : List Part) : Sound (accessMet s e closed) := by
  rw [accessMet_frame]
  exact ⟨h.form, h.poison, h.soft, h.taint⟩

theorem accessMet_closed {closed : List Part} (h : closed ≠ []) :
    ((accessMet s e closed).events.head?.map (·.code)) = some 0xFFF
      ∧ ∀ j ∈ partsJobs closed, ∃ g ∈ (accessMet s e closed).fails, g.1 = j := by
  have hmet : accessMet s e closed = refusedAccess s (unitOf 1 e) (partsJobs closed)
      (refusalCode s ((closed.head?.map (·.addr)).getD 0) ((closed.head?.map (·.p.len)).getD 0)) :=
    if_neg (by rwa [List.isEmpty_iff])
  rw [hmet]
  exact ⟨rfl, fun j hj => mem_failAt hj⟩

theorem sound_afterIssue {cls : BundleClass} (h : Issues cls s v r) : Sound (afterIssue s v) :=
  ⟨h.canon.mem, h.clean.1, h.clean.2.1, h.clean.2.2.1⟩

/-- The completion of an MREAD that issues in a state. -/
def mreadFlight (s : State) (v : BundleEvent) (parts : List Part) (old : Bytes) (src : List (Nat × Nat × Nat)) (home : List (Nat × Nat)) : Inflight :=
  { tag := v.bundle.setTag, due := v.bundle.due + (engGet s v.engine).hold, dest := v.bundle.abOff, old := old, src := src
    slots := partsJobs parts, number := numberOf s v.engine, home := home }

/-- An MREAD's completion under way. -/
def mreadSent (s u : State) (v : BundleEvent) (f : Inflight) : State :=
  launch (rmoNote u v.engine (numberOf s v.engine) (v.bundle.due + (engGet s v.engine).hold)) v.engine f

/-- What an MREAD without errors does once it has issued. -/
def mreadEffect (v : BundleEvent) (r : Run) (cycle : Nat) (s : State) : State :=
  let e := v.engine
  let b := v.bundle
  let parts := bundleParts s r b b.size false
  let a := (parts.head?.map (·.addr)).getD 0
  let used := parts.filter fun x => !x.empty && x.open_
  let w := accessMet s e (parts.filter fun x => !x.empty && !x.open_)
  if used.isEmpty then mreadSent s w v (mreadFlight s v parts (List.replicate b.size 0) [] [])
  else if sramBase ≤ a ∧ a < hubBase then
    taskAt (mreadSent s w v (mreadFlight s v parts (List.replicate b.size 0) [] [])) e
      (cycle + pullDelay (bundleRoute w r e b b.size)) rankRead (.pull (numberOf s e) a [] b.size)
  else
    mreadSent s (readParts w e cycle b.hint parts).2.2 v (mreadFlight s v parts (partBytes w parts)
      (used.map fun x => (x.p.off, x.addr, x.p.len)) ((used.filter fun x => isStack x.addr).map fun x => (x.addr, x.p.len)))

theorem forceAtomics_idle (h : s.agenda = []) (e : Nat) (l : List Nat) : forceAtomics s e l = s := by
  unfold forceAtomics
  rw [h]
  rfl

theorem exec_mread (h : Issues .mread s v r) : exec (.mread v) s = .next (mreadEffect v r (issueCycle s v) (afterIssue s v)) := by
  obtain ⟨hsram, hmem, hlate⟩ := h.sound
  obtain ⟨f, hexec, hf⟩ : ∃ f, exec (.mread v) s = .next (issueBundle .mread v f { s with out := [] })
      ∧ ∀ w c, Sound w → w.agenda = [] → w.stores = [] → f r c w = mreadEffect v r c w := by
    refine ⟨_, rfl, fun w c hsound hagenda hstores => ?_⟩
    unfold mreadEffect
    extract_lets e b number parts jobs a due closed used u lins met a' u'
    have hmet : u = accessMet w e closed := rfl
    have hsound' : Sound u := by rw [hmet]; exact accessMet_sound hsound e closed
    have hagenda' : u.agenda = [] := by rw [hmet, accessMet_frame]; exact hagenda
    have hstores' : u.stores = [] := by rw [hmet, accessMet_frame]; exact hstores
    have hscan : met = u := by
      change eccScan (forceAtomics u e lins) lins v.mem = u
      rw [forceAtomics_idle hagenda', hmem, eccScan_nil hsound'.soft]
    obtain ⟨q, hread⟩ := readParts_sound hsound' hstores' e c b.hint parts
    refine if_congr Iff.rfl rfl (if_congr Iff.rfl ?_ ?_)
    · rw [hmem]
      rfl
    · rw [hscan, show u' = u from rfl, hread]
      simp only [hlate, Nat.lt_irrefl, false_and, if_false, hstores']
      rfl
  rw [hexec, issueBundle_quiet h]
  exact congrArg Host.Outcome.next (hf (afterIssue s v) _ (sound_afterIssue h) h.idle.1 h.idle.2)

theorem mreadSent_spec (h : Issues .mread s v r) (hu : u.engines = (afterIssue s v).engines) (hagenda : u.agenda = []) (f : Inflight) :
    ∃ t, mreadSent (afterIssue s v) u v f = t
      ∧ engGet t v.engine = { issued s v with
          inflight := [f]
          rmos := ((engGet s v.engine).next + 1, v.bundle.due + (engGet s v.engine).hold)
            :: (engGet s v.engine).rmos.filter fun y => y.1 != (engGet s v.engine).next + 1 }
      ∧ (∀ k, k ≠ v.engine → engGet t k = engGet s k)
      ∧ t.agenda = (if f.old.length = 0 then [] else [⟨fillStart f.due f.old.length, rankFill, v.engine, .fill f.number⟩])
      ∧ t = { u with engines := t.engines, agenda := t.agenda } := by
  have hget (k : Nat) : engGet u k = engGet (afterIssue s v) k := by
    unfold engGet
    rw [hu]
  have hx : engGet (afterIssue s v) v.engine = issued s v := engGet_afterIssue_same h.canon
  have hwf : swf (fun _ => ({} : Engine)) u.engines = true := by
    rw [hu]
    exact swf_engSet (s := { s with out := [] }) h.canon.engines _ _
  obtain ⟨t, ht, hown, hother, hfills, hframe⟩ := launch_noted hwf v.engine (numberOf (afterIssue s v) v.engine)
    (v.bundle.due + (engGet (afterIssue s v) v.engine).hold) f
  refine ⟨t, ht, ?_, fun k hk => (hother k hk).trans ((hget k).trans (engGet_afterIssue_other hk)), ?_, hframe⟩
  · rw [hown, hget, hx, numberOf, hx, issued_next, issued_hold, issued_inflight, h.quiet, issued_rmos]
    rfl
  · rw [hfills, hagenda]
    rfl

theorem mreadFlight_eq (h : Issues .mread s v r) (parts : List Part) (old : Bytes) (src : List (Nat × Nat × Nat)) (home : List (Nat × Nat)) :
    mreadFlight (afterIssue s v) v parts old src home
      = { tag := v.bundle.setTag, due := v.bundle.due + (engGet s v.engine).hold, dest := v.bundle.abOff, old := old, src := src
          slots := partsJobs parts, number := (engGet s v.engine).next + 1, home := home } := by
  unfold mreadFlight numberOf
  rw [engGet_afterIssue_same h.canon, issued_hold, issued_next]

/-- The cycle in which a completion's bytes begin to land. -/
def fillsFor (s : State) (v : BundleEvent) (n : Nat) : List Timed :=
  if n = 0 then [] else [⟨fillStart (v.bundle.due + (engGet s v.engine).hold) n, rankFill, v.engine, .fill ((engGet s v.engine).next + 1)⟩]

/-- The engine of an MREAD under way. -/
def mreadEngine (s : State) (v : BundleEvent) (f : Inflight) : Engine :=
  { issued s v with
    inflight := [f]
    rmos := ((engGet s v.engine).next + 1, v.bundle.due + (engGet s v.engine).hold)
      :: (engGet s v.engine).rmos.filter fun y => y.1 != (engGet s v.engine).next + 1 }

theorem mread_spec (h : Issues .mread s v r) {parts used closed : List Part} (hparts : bundleParts s r v.bundle v.bundle.size false = parts)
    (hused : (parts.filter fun y => !y.empty && y.open_) = used) (hclosed : (parts.filter fun y => !y.empty && !y.open_) = closed)
    (ha : (parts.head?.map (·.addr)).getD 0 = a) :
    ∃ t, exec (.mread v) s = .next t
      ∧ (∀ k, k ≠ v.engine → engGet t k = engGet s k)
      ∧ (used = [] → engGet t v.engine = mreadEngine s v (mreadFlight (afterIssue s v) v parts (List.replicate v.bundle.size 0) [] [])
          ∧ t.agenda = fillsFor s v v.bundle.size)
      ∧ (used ≠ [] → outsideWindows a →
          engGet t v.engine = mreadEngine s v (mreadFlight (afterIssue s v) v parts (partBytes s parts) (used.map fun y => (y.p.off, y.addr, y.p.len))
            ((used.filter fun y => isStack y.addr).map fun y => (y.addr, y.p.len)))
          ∧ t.agenda = fillsFor s v (partBytes s parts).length)
      ∧ (used ≠ [] → ¬outsideWindows a →
          engGet t v.engine = mreadEngine s v (mreadFlight (afterIssue s v) v parts (List.replicate v.bundle.size 0) [] [])
          ∧ ∀ y, y ∈ t.agenda ↔ y ∈ fillsFor s v v.bundle.size
            ∨ y = ⟨issueCycle s v + pullDelay (bundleRoute s r v.engine v.bundle v.bundle.size), rankRead, v.engine,
                .pull ((engGet s v.engine).next + 1) a [] v.bundle.size⟩)
      ∧ t = { accessMet (afterIssue s v) v.engine closed with engines := t.engines, qc := t.qc, agenda := t.agenda } := by
  have hexec := exec_mread h
  obtain ⟨w, hw⟩ : ∃ w, w = accessMet (afterIssue s v) v.engine closed := ⟨_, rfl⟩
  have hframe := accessMet_frame (afterIssue s v) v.engine closed
  rw [← hw] at hframe ⊢
  have hengines : w.engines = (afterIssue s v).engines := by rw [hframe]
  have hagenda : w.agenda = [] := by rw [hframe]; exact h.idle.1
  have hstores : w.stores = [] := by rw [hframe]; exact h.idle.2
  have hsound : Sound w := by
    rw [hw]
    exact accessMet_sound (sound_afterIssue h) _ _
  have hbytes : partBytes w parts = partBytes s parts := by
    unfold partBytes spanRead byteAt
    rw [hframe]
    rfl
  have hroute : bundleRoute w r v.engine v.bundle v.bundle.size = bundleRoute s r v.engine v.bundle v.bundle.size := by
    rw [hframe]
    rfl
  have hparts' : bundleParts (afterIssue s v) r v.bundle v.bundle.size false = parts := hparts
  unfold mreadEffect at hexec
  dsimp only at hexec
  rw [hparts', hused, hclosed, ha, ← hw, hbytes, hroute] at hexec
  have hnumber : numberOf (afterIssue s v) v.engine = (engGet s v.engine).next + 1 := by
    rw [numberOf, engGet_afterIssue_same h.canon, issued_next]
  by_cases hnone : used = []
  · rw [if_pos (List.isEmpty_iff.mpr hnone)] at hexec
    obtain ⟨t, ht, hown, hother, hfills, hrest⟩ := mreadSent_spec h hengines hagenda
      (mreadFlight (afterIssue s v) v parts (List.replicate v.bundle.size 0) [] [])
    rw [ht] at hexec
    refine ⟨t, hexec, hother, fun _ => ⟨hown, ?_⟩, fun hne => absurd hnone hne, fun hne => absurd hnone hne, ?_⟩
    · rw [hfills, mreadFlight_eq h, fillsFor, List.length_replicate]
    · rw [hrest]
  · have hsome : ¬used.isEmpty = true := by rwa [List.isEmpty_iff]
    rw [if_neg hsome] at hexec
    by_cases hwindow : sramBase ≤ a ∧ a < hubBase
    · rw [if_pos hwindow, hnumber] at hexec
      obtain ⟨t, ht, hown, hother, hfills, hrest⟩ := mreadSent_spec h hengines hagenda
        (mreadFlight (afterIssue s v) v parts (List.replicate v.bundle.size 0) [] [])
      rw [ht] at hexec
      refine ⟨_, hexec, hother, fun hnil => absurd hnil hnone, fun _ hout => absurd hwindow hout, fun _ _ => ⟨hown, fun y => ?_⟩, ?_⟩
      · refine (mem_agendaInsert _ _ _).trans ?_
        rw [hfills, mreadFlight_eq h, fillsFor, List.length_replicate, or_comm]
      · unfold taskAt
        rw [hrest]
    · rw [if_neg hwindow] at hexec
      obtain ⟨q, hread⟩ := readParts_sound hsound hstores v.engine (issueCycle s v) v.bundle.hint parts
      rw [hread] at hexec
      obtain ⟨t, ht, hown, hother, hfills, hrest⟩ := mreadSent_spec h (u := { w with qc := q }) hengines hagenda
        (mreadFlight (afterIssue s v) v parts (partBytes s parts) (used.map fun y => (y.p.off, y.addr, y.p.len))
            ((used.filter fun y => isStack y.addr).map fun y => (y.addr, y.p.len)))
      refine ⟨t, hexec.trans (congrArg _ ht), hother, fun hnil => absurd hnil hnone, fun _ _ => ⟨hown, ?_⟩, fun _ hout => absurd hwindow hout, ?_⟩
      · rw [hfills, mreadFlight_eq h, fillsFor]
      · rw [hrest]

/-! ## A scheduled write of memory -/

/-- No store of the engine is of a later bundle. -/
def NoneLater (s : State) (e n : Nat) : Prop := ∀ w ∈ s.stores, w.engine = e → w.number ≤ n

theorem underLater_none (h : NoneLater s e n) (lins : List Nat) (data : Bytes) : underLater s e n lins data = data := by
  have hnil : (s.stores.filter fun w => w.engine == e && decide (n < w.number)) = [] := by
    refine List.filter_eq_nil_iff.mpr fun w hw hlate => ?_
    obtain ⟨heng, hnum⟩ := Bool.and_eq_true_iff.mp hlate
    exact Nat.lt_irrefl n (Nat.lt_of_lt_of_le (of_decide_eq_true hnum) (h w hw (beq_iff_eq.mp heng)))
  unfold underLater
  rw [hnil]
  rfl

/-- What a scheduled write of memory leaves beside its bytes. -/
theorem schedWrite_memory (h : Sound s) (hagenda : s.agenda = []) (hnone : NoneLater s e n) {addr : BitVec 64} {data : Bytes}
    (hdata : data ≠ []) (hhere : isHere s addr = true) (ha : runAddr r (localOf addr) = a) (hopen : spanOpen s a data.length true = true)
    (hout : outsideWindows a) (ctxs : List Nat) (hint : BitVec 8) (land visible : Nat) :
    ∃ q, schedWrite s e r n [] ctxs hint addr data land visible [] [] = { spanWrite s a data with
      qc := q
      engines := (engSet s e { engGet s e with lastSpans := (a, data.length) :: (engGet s e).lastSpans }).engines
      stores := (recordStore s e n visible (spanLinear a data.length)).stores } := by
  have hempty : ¬data.isEmpty = true := by rwa [List.isEmpty_iff]
  have hpartial (q : List QcLine) (l : List Nat) : ¬partialPoison { s with qc := q } l = true := by
    unfold partialPoison
    rw [h.poison]
    exact Bool.false_ne_true
  have hnone' (x : Engine) (q : List QcLine) : NoneLater (engSet { s with qc := q } e x) e n := hnone
  have hhere' : ¬(!isHere s addr) = true := by rw [hhere]; exact Bool.false_ne_true
  have hopen' : ¬(!spanOpen s a data.length true) = true := by rw [hopen]; exact Bool.false_ne_true
  obtain ⟨q, hq⟩ : ∃ q, qcAccess s hint a data.length = { s with qc := q } := ⟨_, qcAccess_frame s hint a data.length⟩
  refine ⟨q, ?_⟩
  unfold schedWrite
  rw [if_neg hempty, if_neg hhere', ha]
  dsimp only
  rw [if_neg hopen', if_neg hout, forceAtomics_idle hagenda, hq]
  simp only [List.isEmpty_nil, if_true]
  rw [if_neg (hpartial q _), underLater_none (hnone' _ q)]
  exact storeBytes_clean (s := recordStore (engSet { s with qc := q } e _) e n visible _) h.poison h.soft a data

/-- A scheduled write to an engine window is a remote write on its way. -/
theorem schedWrite_window {addr : BitVec 64} {data : Bytes} (hdata : data ≠ []) (hhere : isHere s addr = true)
    (ha : runAddr r (localOf addr) = a) (hopen : spanOpen s a data.length true = true) (hin : ¬outsideWindows a) (ctxs : List Nat)
    (hint : BitVec 8) (land visible : Nat) :
    schedWrite s e r n [] ctxs hint addr data land visible [] []
      = taskAt { engSet s ((a - sramBase) / 0x400000) { engGet s ((a - sramBase) / 0x400000) with
          incoming := (engGet s ((a - sramBase) / 0x400000)).incoming ++ [⟨e, (a - sramBase) % 0x400000, data, land, s.moves, 0, ctxs, []⟩] } with
          moves := s.moves + 1 } ((a - sramBase) / 0x400000) (fillStart land data.length) (rankRemote e) (.arrival s.moves) := by
  have hempty : ¬data.isEmpty = true := by rwa [List.isEmpty_iff]
  have hhere' : ¬(!isHere s addr) = true := by rw [hhere]; exact Bool.false_ne_true
  have hopen' : ¬(!spanOpen s a data.length true) = true := by rw [hopen]; exact Bool.false_ne_true
  unfold schedWrite
  rw [if_neg hempty, if_neg hhere', ha]
  dsimp only
  rw [if_neg hopen', if_pos (Decidable.not_not.mp hin)]
  exact if_neg fun h => Bool.false_ne_true h.1

/-! ## MWRITE -/

/-- A part of an MWRITE without poisoned bytes, stored in memory. -/
def storePart (v : BundleEvent) (r : Run) (n : Nat) (bytes : Bytes) (land visible : Nat) (s : State) (x : Part) : State :=
  if x.empty then s
  else schedWrite s v.engine r n [] x.jobs v.bundle.hint (pieceAddr s r v.bundle.addr x.p) (slice bytes x.p.off x.p.len) land visible [] []

/-- The cycles after its issue in which an MWRITE without errors lands and is visible. -/
def mwriteLands (v : BundleEvent) (road : Route) (cycle : Nat) : Nat := cycle + landLatency road + v.bundle.size / 256

def mwriteSeen (v : BundleEvent) (road : Route) (cycle : Nat) : Nat := cycle + visibleLatency road + v.bundle.size / 256

/-- An MWRITE to this device noted in its engine: the cycle of its completion, and the jobs that it serves. -/
def mwriteNoted (s : State) (v : BundleEvent) (road : Route) (cycle : Nat) (parts : List Part) : State :=
  noteStore (rmoNote s v.engine (numberOf s v.engine) (if isWindowRoute road then mwriteLands v road cycle else mwriteSeen v road cycle))
    v.engine (numberOf s v.engine) (partsJobs parts)

/-- What an MWRITE to this device does without errors once it has issued. -/
def mwriteEffect (v : BundleEvent) (r : Run) (cycle : Nat) (s : State) : State :=
  let e := v.engine
  let b := v.bundle
  let parts := bundleParts s r b b.size true
  let bytes := bytesAt s (winAddr e b.abOff) b.size
  let road := bundleRoute s r e b b.size
  let w := mwriteNoted s v road cycle parts
  if isWindowRoute road then schedWrite w e r (numberOf s e) [] (partsJobs parts) b.hint (ownBundle w r b).addr bytes (mwriteLands v road cycle)
    (mwriteSeen v road cycle) [] []
  else parts.foldl (storePart v r (numberOf s e) bytes (mwriteLands v road cycle) (mwriteSeen v road cycle)) w

theorem exec_mwrite (h : Issues .mwrite s v r) (hhere : isHere s v.bundle.addr = true) :
    exec (.mwrite v) s = .next (mwriteEffect v r (issueCycle s v) (afterIssue s v)) := by
  obtain ⟨hsram, hmem, hlate⟩ := h.sound
  obtain ⟨f, hexec, hf⟩ : ∃ f, exec (.mwrite v) s = .next (issueBundle .mwrite v f { s with out := [] })
      ∧ ∀ w c, Sound w → isHere w v.bundle.addr = true → f r c w = mwriteEffect v r c w := by
    refine ⟨_, rfl, fun w c hsound hhere => ?_⟩
    have hkeep (l : List Part) (u : State) : l.foldl (fun s _ => s) u = u := by
      induction l with
      | nil => rfl
      | cons y l ih => rw [List.foldl_cons, ih]
    have hhere' (n m c : Nat) (l : List Nat) : isHere (noteStore (rmoNote w v.engine n c) v.engine m l) v.bundle.addr = true := hhere
    unfold mwriteEffect
    simp only [hsram, hmem, winRead_sound hsound, badPlaces_sound hsound, hhere, hhere', List.any_nil, hkeep, if_true, List.filter_nil,
      List.map_nil, List.isEmpty_nil, Bool.not_true, failPart_sound, Bool.or_false]
    rfl
  rw [hexec, issueBundle_quiet h]
  exact congrArg Host.Outcome.next (hf (afterIssue s v) _ (sound_afterIssue h) hhere)

/-- What the note of an MWRITE leaves as it was. -/
theorem mwriteNoted_spec (h : Canonical s) (road : Route) (c : Nat) (parts : List Part) :
    ∃ w, mwriteNoted (afterIssue s v) v road c parts = w
      ∧ (∀ k, k ≠ v.engine → engGet w k = engGet s k) ∧ (engGet w v.engine).incoming = (engGet s v.engine).incoming
      ∧ swf (fun _ => ({} : Engine)) w.engines = true ∧ w = { s with out := [], engines := w.engines } := by
  obtain ⟨n, d, hw⟩ : ∃ n d, mwriteNoted (afterIssue s v) v road c parts
      = noteStore (rmoNote (afterIssue s v) v.engine n d) v.engine n (partsJobs parts) := ⟨_, _, rfl⟩
  have hwf : swf (fun _ => ({} : Engine)) (afterIssue s v).engines = true := swf_engSet (s := { s with out := [] }) h.engines _ _
  have hwf' : swf (fun _ => ({} : Engine)) (rmoNote (afterIssue s v) v.engine n d).engines = true := swf_engSet hwf _ _
  refine ⟨_, hw, fun k hk => ?_, ?_, swf_engSet hwf' _ _, rfl⟩
  · exact (engGet_engSet_other _ _ hk).trans ((engGet_engSet_other _ _ hk).trans (engGet_afterIssue_other hk))
  · unfold noteStore
    dsimp only
    rw [engGet_engSet_same hwf']
    dsimp only
    unfold rmoNote
    dsimp only
    rw [engGet_engSet_same hwf, engGet_afterIssue_same h]
    exact issued_incoming s v

/-- An MWRITE to an engine window is a remote write on its way. -/
theorem mwrite_window (h : Issues .mwrite s v r) (hhere : isHere s v.bundle.addr = true) (hsize : 0 < v.bundle.size)
    (hroad : isWindowRoute (bundleRoute s r v.engine v.bundle v.bundle.size) = true) (hown : isHere s (ownBundle s r v.bundle).addr = true)
    (ha : runAddr r (localOf (ownBundle s r v.bundle).addr) = a) (hin : ¬outsideWindows a) (hopen : spanOpen s a v.bundle.size true = true) :
    let k := (a - sramBase) / 0x400000
    let land := issueCycle s v + landLatency (bundleRoute s r v.engine v.bundle v.bundle.size) + v.bundle.size / 256
    ∃ t, exec (.mwrite v) s = .next t
      ∧ (engGet t k).incoming = (engGet s k).incoming ++ [⟨v.engine, (a - sramBase) % 0x400000,
          bytesAt s (winAddr v.engine v.bundle.abOff) v.bundle.size, land, s.moves, 0, partsJobs (bundleParts s r v.bundle v.bundle.size true), []⟩]
      ∧ t.agenda = [⟨fillStart land v.bundle.size, rankRemote v.engine, k, .arrival s.moves⟩]
      ∧ (∀ q, q ≠ v.engine → q ≠ k → engGet t q = engGet s q)
      ∧ t = { s with out := [], engines := t.engines, agenda := t.agenda, moves := s.moves + 1 } := by
  intro k land
  have hexec := exec_mwrite h hhere
  obtain ⟨w, hw, hother, hincoming, hwf, hframe⟩ := mwriteNoted_spec (v := v) h.canon (bundleRoute s r v.engine v.bundle v.bundle.size)
    (issueCycle s v) (bundleParts s r v.bundle v.bundle.size true)
  have heffect : mwriteEffect v r (issueCycle s v) (afterIssue s v) = schedWrite w v.engine r (numberOf (afterIssue s v) v.engine) []
      (partsJobs (bundleParts s r v.bundle v.bundle.size true)) v.bundle.hint (ownBundle w r v.bundle).addr
      (bytesAt s (winAddr v.engine v.bundle.abOff) v.bundle.size) land
      (mwriteSeen v (bundleRoute s r v.engine v.bundle v.bundle.size) (issueCycle s v)) [] [] := by
    rw [← hw]
    exact if_pos hroad
  have hsame : ownBundle w r v.bundle = ownBundle s r v.bundle := by rw [hframe]; rfl
  have hlen : (bytesAt s (winAddr v.engine v.bundle.abOff) v.bundle.size).length = v.bundle.size := bytesAt_length _ _ _
  have hdata : bytesAt s (winAddr v.engine v.bundle.abOff) v.bundle.size ≠ [] := by
    intro hnil
    rw [hnil] at hlen
    exact Nat.ne_of_lt hsize hlen
  have hopen' : spanOpen w a (bytesAt s (winAddr v.engine v.bundle.abOff) v.bundle.size).length true = true := by
    rw [hlen, hframe]
    exact hopen
  have hown' : isHere w (ownBundle s r v.bundle).addr = true := by rw [hframe]; exact hown
  have hagenda : w.agenda = [] := by rw [hframe]; exact h.idle.1
  have hmoves : w.moves = s.moves := by rw [hframe]
  rw [heffect, hsame, schedWrite_window hdata hown' ha hopen' hin] at hexec
  have hk : (engGet w k).incoming = (engGet s k).incoming := by
    by_cases heq : k = v.engine
    · rw [heq, hincoming]
    · rw [hother k heq]
  refine ⟨_, hexec, ?_, ?_, fun q hq hqk => (engGet_engSet_other w _ hqk).trans (hother q hq), ?_⟩
  · have hset := engGet_engSet_same hwf k { engGet w k with incoming := (engGet w k).incoming
      ++ [⟨v.engine, (a - sramBase) % 0x400000, bytesAt s (winAddr v.engine v.bundle.abOff) v.bundle.size, land, w.moves, 0,
        partsJobs (bundleParts s r v.bundle v.bundle.size true), []⟩] }
    refine (congrArg Engine.incoming hset).trans ?_
    dsimp only
    rw [hk, hmoves]
  · unfold taskAt engSet
    dsimp only
    rw [hagenda, hlen, hmoves]
    rfl
  · unfold taskAt engSet
    dsimp only
    rw [hmoves]
    rw [hframe]

/-- A state in which an engine's bundle n has stored parts of its bytes in memory. -/
structure Stored (s : State) (e n : Nat) (u : State) : Prop where
  frame : u = { s with mem := u.mem, engines := u.engines, qc := u.qc, stores := u.stores }
  sound : Sound u
  others : ∀ k, k ≠ e → engGet u k = engGet s k
  numbers : NoneLater u e n

theorem noneLater_recordStore (h : NoneLater s e n) (visible : Nat) (lins : List Nat) : NoneLater (recordStore s e n visible lins) e n := by
  intro w hw heng
  obtain hnew | hold := List.mem_append.mp hw
  · obtain ⟨g, -, rfl⟩ := List.mem_map.mp hnew
    exact Nat.le_refl n
  · exact h w hold heng

/-- A part of an MWRITE that is to be stored in memory. -/
structure Storable (s : State) (v : BundleEvent) (r : Run) (bytes : Bytes) (x : Part) : Prop where
  place : runAddr r (localOf (pieceAddr s r v.bundle.addr x.p)) = x.addr
  here : isHere s (pieceAddr s r v.bundle.addr x.p) = true
  outside : outsideWindows x.addr
  open_ : spanOpen s x.addr (slice bytes x.p.off x.p.len).length true = true
  once : (spanLinear x.addr (slice bytes x.p.off x.p.len).length).Nodup

/-- The bytes of a part in memory. -/
def partLins (bytes : Bytes) (x : Part) : List Nat := spanLinear x.addr (slice bytes x.p.off x.p.len).length

theorem storePart_empty {x : Part} (h : x.empty = true) (bytes : Bytes) (land visible : Nat) : storePart v r n bytes land visible s x = s := if_pos h

theorem storePart_stores {bytes : Bytes} {x : Part} (hagenda : s.agenda = []) (hu : Stored s v.engine n u) (hx : Storable s v r bytes x)
    (hempty : ¬x.empty = true) (land visible : Nat) :
    Stored s v.engine n (storePart v r n bytes land visible u x)
      ∧ Holds (storePart v r n bytes land visible u x) x.addr (slice bytes x.p.off x.p.len)
      ∧ MemBut u (storePart v r n bytes land visible u x) (partLins bytes x) := by
  have hpart : storePart v r n bytes land visible u x
      = schedWrite u v.engine r n [] x.jobs v.bundle.hint (pieceAddr u r v.bundle.addr x.p) (slice bytes x.p.off x.p.len) land visible [] [] :=
    if_neg hempty
  obtain ⟨hframe, hsound, hothers, hnumbers⟩ := hu
  obtain ⟨hplace, hhere, hout, hopen, honce⟩ := hx
  rw [hpart]
  unfold partLins
  generalize slice bytes x.p.off x.p.len = data at hopen honce ⊢
  by_cases hdata : data = []
  · have hnone : schedWrite u v.engine r n [] x.jobs v.bundle.hint (pieceAddr u r v.bundle.addr x.p) data land visible [] [] = u :=
      if_pos (List.isEmpty_iff.mpr hdata)
    rw [hnone, hdata]
    exact ⟨⟨hframe, hsound, hothers, hnumbers⟩, rfl, fun _ _ => rfl⟩
  · have hplace' : runAddr r (localOf (pieceAddr u r v.bundle.addr x.p)) = x.addr := by rw [hframe]; exact hplace
    have hhere' : isHere u (pieceAddr u r v.bundle.addr x.p) = true := by rw [hframe]; exact hhere
    have hopen' : spanOpen u x.addr data.length true = true := by rw [hframe]; exact hopen
    have hagenda' : u.agenda = [] := by rw [hframe]; exact hagenda
    obtain ⟨q, hwrite⟩ := schedWrite_memory (land := land) (visible := visible) (ctxs := x.jobs) (hint := v.bundle.hint) hsound hagenda' hnumbers hdata hhere' hplace'
      hopen' hout
    rw [hwrite]
    obtain ⟨hholds, hbut⟩ := holds_spanWrite (a := x.addr) ⟨hsound.form, hsound.poison, hsound.soft⟩ honce
    refine ⟨⟨?_, ⟨wf_spanWrite hsound.form _ _, hsound.poison, hsound.soft, hsound.taint⟩,
      fun k hk => (engGet_engSet_other u _ hk).trans (hothers k hk), noneLater_recordStore hnumbers _ _⟩, hholds, hbut⟩
    rw [hframe]
    rfl

/-- The parts that an MWRITE stores hold their bytes, and no other byte changes. -/
theorem foldl_storePart {bytes : Bytes} (hagenda : s.agenda = []) (land visible : Nat) (parts : List Part)
    (hparts : ∀ x ∈ parts.filter fun y => !y.empty, Storable s v r bytes x)
    (honce : ((parts.filter fun y => !y.empty).flatMap (partLins bytes)).Nodup) (hu : Stored s v.engine n u) :
    ∃ t, parts.foldl (storePart v r n bytes land visible) u = t ∧ Stored s v.engine n t
      ∧ (∀ x ∈ parts.filter fun y => !y.empty, Holds t x.addr (slice bytes x.p.off x.p.len))
      ∧ MemBut u t ((parts.filter fun y => !y.empty).flatMap (partLins bytes)) := by
  induction parts generalizing u with
  | nil => exact ⟨u, rfl, hu, fun x hx => absurd hx List.not_mem_nil, fun _ _ => rfl⟩
  | cons x l ih =>
    rw [List.foldl_cons]
    by_cases hempty : x.empty = true
    · have hskip : ((x :: l).filter fun y => !y.empty) = l.filter fun y => !y.empty := List.filter_cons_of_neg (by simp [hempty])
      rw [storePart_empty hempty]
      rw [hskip] at hparts honce ⊢
      exact ih hparts honce hu
    · have htake : ((x :: l).filter fun y => !y.empty) = x :: l.filter fun y => !y.empty := List.filter_cons_of_pos (by simp [hempty])
      rw [htake] at hparts honce ⊢
      rw [List.flatMap_cons, List.nodup_append'] at honce
      obtain ⟨-, honce', hapart⟩ := honce
      obtain ⟨hmid, hholds, hbut⟩ := storePart_stores hagenda hu (hparts x List.mem_cons_self) hempty land visible
      obtain ⟨t, ht, hstored, hrest, hbut'⟩ := ih (fun y hy => hparts y (List.mem_cons_of_mem _ hy)) honce' hmid
      refine ⟨t, ht, hstored, fun y hy => ?_, fun k hk => ?_⟩
      · obtain rfl | hy := List.mem_cons.mp hy
        · refine Eq.trans ?_ hholds
          unfold spanRead
          exact List.map_congr_left fun k hk => hbut' k (List.disjoint_left.mp hapart hk)
        · exact hrest y hy
      · rw [List.flatMap_cons, List.mem_append, not_or] at hk
        exact (hbut' k hk.2).trans (hbut k hk.1)

/-- An MWRITE to memory stores the parts that are not empty, each at its own address. -/
theorem mwrite_memory (h : Issues .mwrite s v r) (hhere : isHere s v.bundle.addr = true) {parts : List Part} {bytes : Bytes}
    (hparts : bundleParts s r v.bundle v.bundle.size true = parts)
    (hbytes : bytesAt s (winAddr v.engine v.bundle.abOff) v.bundle.size = bytes)
    (hroad : isWindowRoute (bundleRoute s r v.engine v.bundle v.bundle.size) = false)
    (hout : ∀ y ∈ parts, y.empty = true ∨ outsideWindows y.addr)
    (honce : ((parts.filter fun y => !y.empty).flatMap (partLins bytes)).Nodup)
    (hpieces : ∀ y ∈ parts.filter fun y => !y.empty, isHere s (pieceAddr s r v.bundle.addr y.p) = true)
    (hopen : ∀ y ∈ parts.filter fun y => !y.empty, spanOpen s y.addr (slice bytes y.p.off y.p.len).length true = true) :
    ∃ t, exec (.mwrite v) s = .next t
      ∧ (∀ y ∈ parts.filter fun y => !y.empty, Holds t y.addr (slice bytes y.p.off y.p.len))
      ∧ MemBut s t ((parts.filter fun y => !y.empty).flatMap (partLins bytes)) ∧ (∀ k, k ≠ v.engine → engGet t k = engGet s k)
      ∧ t = { s with out := [], mem := t.mem, engines := t.engines, qc := t.qc, stores := t.stores } := by
  have hexec := exec_mwrite h hhere
  have hagenda : (afterIssue s v).agenda = [] := h.idle.1
  have hsound := sound_afterIssue h
  obtain ⟨w, hw, hother, -, -, hframe⟩ := mwriteNoted_spec (v := v) h.canon (bundleRoute s r v.engine v.bundle v.bundle.size)
    (issueCycle s v) parts
  have heffect : mwriteEffect v r (issueCycle s v) (afterIssue s v) = parts.foldl (storePart v r (numberOf (afterIssue s v) v.engine) bytes
      (mwriteLands v (bundleRoute s r v.engine v.bundle v.bundle.size) (issueCycle s v))
      (mwriteSeen v (bundleRoute s r v.engine v.bundle v.bundle.size) (issueCycle s v))) w := by
    rw [← hw, ← hparts, ← hbytes]
    exact if_neg (by rw [Bool.not_eq_true]; exact hroad)
  have hstored : Stored { s with out := [] } v.engine (numberOf (afterIssue s v) v.engine) w := by
    have hstores : w.stores = [] := by rw [hframe]; exact h.idle.2
    refine ⟨?_, ?_, hother, fun x hx => ?_⟩
    · rw [hframe]
    · rw [hframe]
      exact ⟨hsound.form, hsound.poison, hsound.soft, hsound.taint⟩
    · rw [hstores] at hx
      exact absurd hx List.not_mem_nil
  have hstorable : ∀ x ∈ parts.filter fun y => !y.empty, Storable { s with out := [] } v r bytes x := by
    intro x hx
    obtain ⟨hmem, hfull⟩ := List.mem_filter.mp hx
    refine ⟨?_, hpieces x hx, (hout x hmem).resolve_left (by simpa using hfull), hopen x hx, (List.nodup_flatMap.mp honce).1 x hx⟩
    rw [← hparts] at hmem
    obtain ⟨p, -, rfl⟩ := List.mem_map.mp hmem
    rfl
  obtain ⟨t, ht, hdone, hholds, hbut⟩ := foldl_storePart (s := { s with out := [] }) h.idle.1
    (mwriteLands v (bundleRoute s r v.engine v.bundle v.bundle.size) (issueCycle s v))
    (mwriteSeen v (bundleRoute s r v.engine v.bundle v.bundle.size) (issueCycle s v)) parts hstorable honce hstored
  rw [heffect, ht] at hexec
  refine ⟨t, hexec, hholds, fun k hk => (hbut k hk).trans ?_, hdone.others, hdone.frame⟩
  rw [hframe]
  rfl

/-! ## ATOMIC -/

/-- The completion that brings back the value which an ATOMIC finds, zeros until it has found it. -/
def atomicBack (s : State) (v : BundleEvent) (r : Run) (a due : Nat) : Inflight :=
  { tag := v.bundle.setTag, due := due, dest := v.bundle.retOff, old := List.replicate v.bundle.size 0, slots := atomicJobs s r v.bundle
    number := numberOf s v.engine, home := if isStack a then [(a, v.bundle.size)] else [] }

/-- The bytes of AB that an ATOMIC takes with it. -/
def atomicOperands (s : State) (v : BundleEvent) : Bytes :=
  bytesAt s (winAddr v.engine v.bundle.abOff) (if v.bundle.kind = .cas then 2 * v.bundle.size else v.bundle.size)

/-- An ATOMIC noted in its engine, and its completion on its way where it returns a value. -/
def atomicNoted (s : State) (v : BundleEvent) (r : Run) (c a : Nat) : State :=
  let e := v.engine
  let w := noteStore s e (numberOf s e) (atomicJobs s r v.bundle)
  if v.bundle.kind = .atomicAdd then rmoNote w e (numberOf s e) (c + atomicLatency (routeOf e (linearOf a)))
  else launch (rmoNote w e (numberOf s e) (v.bundle.due + (engGet w e).hold)) e (atomicBack s v r a (v.bundle.due + (engGet w e).hold))

/-- What an ATOMIC to this device does without errors once it has issued. -/
def atomicEffectOf (v : BundleEvent) (r : Run) (c : Nat) (s : State) : State :=
  let e := v.engine
  let a := runAddr r (localOf (ownBundle s r v.bundle).addr)
  taskAt (qcAccess (atomicNoted s v r c a) v.bundle.hint a v.bundle.size) e (c + homeLatency (routeOf e (linearOf a))) (rankRemote e)
    (.atomic v.bundle (numberOf s e) a (atomicOperands s v) [])

/-- A state whose engines and agenda alone differ. -/
def EnginesDiffer (s t : State) : Prop := ∃ g l, t = { s with engines := g, agenda := l }

theorem enginesDiffer_trans (hst : EnginesDiffer s t) (htu : EnginesDiffer t u) : EnginesDiffer s u := by
  obtain ⟨g, l, rfl⟩ := hst
  obtain ⟨g', l', rfl⟩ := htu
  exact ⟨g', l', rfl⟩

theorem enginesDiffer_engSet (s : State) (e : Nat) (x : Engine) : EnginesDiffer s (engSet s e x) := ⟨_, s.agenda, rfl⟩

theorem enginesDiffer_launch (s : State) (e : Nat) (f : Inflight) : EnginesDiffer s (launch s e f) := by
  unfold launch
  dsimp only
  split
  · exact enginesDiffer_engSet _ _ _
  · exact ⟨_, _, rfl⟩

theorem wf_launch (h : swf (fun _ => ({} : Engine)) s.engines = true) (e : Nat) (f : Inflight) :
    swf (fun _ => ({} : Engine)) (launch s e f).engines = true := by
  unfold launch
  dsimp only
  split
  · exact swf_engSet h _ _
  · exact swf_engSet h _ _

theorem enginesDiffer_atomicNoted (s : State) (v : BundleEvent) (r : Run) (c a : Nat) : EnginesDiffer s (atomicNoted s v r c a) := by
  have hnoted (n d : Nat) (l : List Nat) : EnginesDiffer s (rmoNote (noteStore s v.engine n l) v.engine n d) :=
    enginesDiffer_trans (enginesDiffer_engSet s _ _) (enginesDiffer_engSet _ _ _)
  unfold atomicNoted
  dsimp only
  split
  · exact hnoted _ _ _
  · exact enginesDiffer_trans (hnoted _ _ _) (enginesDiffer_launch _ _ _)

theorem exec_atomic (h : Issues .atomic s v r) (hhere : isHere s v.bundle.addr = true)
    (ha : runAddr r (localOf (ownBundle s r v.bundle).addr) = a)
    (hopen : spanOpen s a v.bundle.size true = true) (hhome : isStack a = true ∨ regionOf a = .hubGeneral) :
    exec (.atomic v) s = .next (atomicEffectOf v r (issueCycle s v) (afterIssue s v)) := by
  obtain ⟨hsram, hmem, hlate⟩ := h.sound
  obtain ⟨f, hexec, hf⟩ : ∃ f, exec (.atomic v) s = .next (issueBundle .atomic v f { s with out := [] })
      ∧ ∀ w c, Sound w → isHere w v.bundle.addr = true → runAddr r (localOf (ownBundle w r v.bundle).addr) = a
        → spanOpen w a v.bundle.size true = true → f r c w = atomicEffectOf v r c w := by
    refine ⟨_, rfl, fun w c hsound hhere ha hopen => ?_⟩
    have hfine : ¬((!spanOpen (atomicNoted w v r c a) a v.bundle.size true) = true ∨ (!(isStack a || regionOf a == .hubGeneral)) = true) := by
      obtain ⟨g, l, hframe⟩ := enginesDiffer_atomicNoted w v r c a
      have hopen' : spanOpen (atomicNoted w v r c a) a v.bundle.size true = true := by rw [hframe]; exact hopen
      rw [hopen']
      obtain hstack | hhub := hhome
      · simp [hstack]
      · simp [hhub]
    have hhere' (n : Nat) (l : List Nat) : isHere (noteStore w v.engine n l) v.bundle.addr = true := hhere
    unfold atomicEffectOf
    unfold atomicNoted atomicBack at hfine ⊢
    unfold atomicOperands
    by_cases hadd : v.bundle.kind = .atomicAdd
    · simp only [hadd, if_true] at hfine ⊢
      simp only [hsram, hmem, winRead_sound hsound, ha, if_false, Bool.false_eq_true, hhere', Bool.not_true]
      exact if_neg hfine
    · simp only [hadd, if_false] at hfine ⊢
      simp only [hsram, hmem, winRead_sound hsound, ha, hlate, Nat.lt_irrefl, false_and, if_false, Bool.false_eq_true, hhere', Bool.not_true]
      exact if_neg hfine
  rw [hexec, issueBundle_quiet h]
  exact congrArg Host.Outcome.next (hf (afterIssue s v) _ (sound_afterIssue h) hhere ha hopen)

theorem issued_badStores (s : State) (v : BundleEvent) : (issued s v).badStores = (engGet s v.engine).badStores := by
  unfold issued tagSet
  dsimp only
  split <;> rfl

/-- The engine and the agenda once an ATOMIC is noted. -/
theorem atomicNoted_spec (h : Issues .atomic s v r) (hsize : 0 < v.bundle.size) (c a : Nat) :
    ∃ w, atomicNoted (afterIssue s v) v r c a = w ∧ EnginesDiffer (afterIssue s v) w
      ∧ swf (fun _ => ({} : Engine)) w.engines = true
      ∧ (engGet w v.engine).badStores = [] ∧ (∀ k, k ≠ v.engine → engGet w k = engGet s k)
      ∧ (engGet w v.engine).inflight = (if v.bundle.kind = .atomicAdd then []
          else [atomicBack (afterIssue s v) v r a (v.bundle.due + (engGet s v.engine).hold)])
      ∧ w.agenda = (if v.bundle.kind = .atomicAdd then []
          else [⟨fillStart (v.bundle.due + (engGet s v.engine).hold) v.bundle.size, rankFill, v.engine, .fill ((engGet s v.engine).next + 1)⟩]) := by
  have hx : engGet (afterIssue s v) v.engine = issued s v := engGet_afterIssue_same h.canon
  have hwf : swf (fun _ => ({} : Engine)) (afterIssue s v).engines = true := swf_engSet (s := { s with out := [] }) h.canon.engines _ _
  obtain ⟨w, hw⟩ : ∃ w, w = noteStore (afterIssue s v) v.engine (numberOf (afterIssue s v) v.engine) (atomicJobs (afterIssue s v) r v.bundle) :=
    ⟨_, rfl⟩
  have hwf' : swf (fun _ => ({} : Engine)) w.engines = true := by rw [hw]; exact swf_engSet hwf _ _
  have hown : engGet w v.engine = { issued s v with
      lastStore := atomicJobs (afterIssue s v) r v.bundle, lastNumber := numberOf (afterIssue s v) v.engine, lastSpans := [] } := by
    rw [hw, ← hx]
    exact engGet_engSet_same hwf _ _
  have hother (k : Nat) (hk : k ≠ v.engine) : engGet w k = engGet s k := by
    rw [hw]
    exact (engGet_engSet_other _ _ hk).trans (engGet_afterIssue_other hk)
  have hagenda : w.agenda = [] := by rw [hw]; exact h.idle.1
  have hinflight : (engGet w v.engine).inflight = [] := by rw [hown]; exact (issued_inflight s v).trans h.quiet
  have hbad : (engGet w v.engine).badStores = [] := by rw [hown]; exact (issued_badStores s v).trans h.clean.2.2.2
  have hhold : (engGet w v.engine).hold = (engGet s v.engine).hold := by rw [hown]; exact issued_hold s v
  have hnumber : numberOf (afterIssue s v) v.engine = (engGet s v.engine).next + 1 := by rw [numberOf, hx, issued_next]
  refine ⟨_, rfl, enginesDiffer_atomicNoted _ v r c a, ?_⟩
  unfold atomicNoted
  dsimp only
  rw [← hw, hhold]
  by_cases hadd : v.bundle.kind = .atomicAdd
  · simp only [hadd, if_true]
    refine ⟨swf_engSet hwf' _ _, ?_, fun k hk => (engGet_engSet_other w _ hk).trans (hother k hk), ?_, hagenda⟩
    · exact (congrArg Engine.badStores (engGet_engSet_same hwf' _ _)).trans hbad
    · exact (congrArg Engine.inflight (engGet_engSet_same hwf' _ _)).trans hinflight
  · simp only [hadd, if_false]
    obtain ⟨t, ht, hown', hother', hagenda', hframe⟩ := launch_noted hwf' v.engine (numberOf (afterIssue s v) v.engine)
      (v.bundle.due + (engGet s v.engine).hold) (atomicBack (afterIssue s v) v r a (v.bundle.due + (engGet s v.engine).hold))
    have hwf'' : swf (fun _ => ({} : Engine)) t.engines = true := by
      rw [← ht]
      exact wf_launch (swf_engSet hwf' _ _) _ _
    have hlen : ¬(atomicBack (afterIssue s v) v r a (v.bundle.due + (engGet s v.engine).hold)).old.length = 0 := by
      simp only [atomicBack, List.length_replicate]
      omega
    rw [ht]
    refine ⟨hwf'', ?_, fun k hk => (hother' k hk).trans (hother k hk), ?_, ?_⟩
    · rw [hown']
      exact hbad
    · rw [hown', hinflight]
      rfl
    · rw [hagenda', if_neg hlen, hagenda]
      simp only [agendaInsert, atomicBack, List.length_replicate, hnumber]

/-- An ATOMIC that reaches its home, in memory without errors. -/
theorem atomicStep_sound (h : Sound s) (hbad : (engGet s e).badStores = []) (number : Nat) (operands : Bytes) :
    atomicStep s e r c b number a operands [] = engSet
      (spanWrite (recordStore s e number c (spanLinear a b.size)) a (atomicEffect b.kind b.size (spanRead s a b.size) operands)) e
      { engGet s e with inflight := (engGet s e).inflight.map fun f =>
          if f.number = number then { f with old := spanRead s a b.size } else f } := by
  unfold atomicStep
  simp only [eccScan_nil h.soft, anyPoison_clean h.poison, hbad, List.contains_nil, Bool.or_false, Bool.false_eq_true, if_false]
  have hsame (l : List Nat) (data : Bytes) : engGet (spanWrite (recordStore s e number c l) a data) e = engGet s e := rfl
  rw [hsame]
  unfold spanRead
  congr 3

theorem length_atomicEffect (k : AtomicType) (n : Nat) {old operands : Bytes} (hold : old.length = n)
    (hoperands : k = .cas → operands.length = 2 * n) : (atomicEffect k n old operands).length = n := by
  unfold atomicEffect
  split
  · exact length_toLE _ _
  · exact length_toLE _ _
  · split
    · rw [List.length_take, List.length_drop, hoperands rfl]
      omega
    · exact hold

/-- The completion that brings back the value found. -/
theorem found_atomicBack (due : Nat) (old : Bytes) :
    [atomicBack s v r a due].map (fun f => if f.number = numberOf s v.engine then { f with old := old } else f)
      = [{ atomicBack s v r a due with old := old }] := by
  rw [List.map_singleton]
  exact congrArg (fun f => [f]) (if_pos rfl)

/-- An ATOMIC has its effect in the cycle in which it reaches its home. -/
theorem atomic_settles (h : Issues .atomic s v r) (hsize : 0 < v.bundle.size) (hhere : isHere s v.bundle.addr = true)
    (ha : runAddr r (localOf (ownBundle s r v.bundle).addr) = a)
    (hopen : spanOpen s a v.bundle.size true = true) (hhome : isStack a = true ∨ regionOf a = .hubGeneral)
    (honce : (spanLinear a v.bundle.size).Nodup) {arrives due : Nat}
    (harrives : issueCycle s v + homeLatency (routeOf v.engine (linearOf a)) = arrives)
    (hdue : v.bundle.due + (engGet s v.engine).hold = due)
    (hlater : v.bundle.kind = .atomicAdd ∨ arrives < fillStart due v.bundle.size) :
    ∃ t, exec (.atomic v) s = .next t ∧ ∃ u, settled t (arrives + 1) = u
      ∧ Holds u a (atomicEffect v.bundle.kind v.bundle.size (spanRead s a v.bundle.size) (atomicOperands s v))
      ∧ MemBut s u (spanLinear a v.bundle.size)
      ∧ (engGet u v.engine).inflight = (if v.bundle.kind = .atomicAdd then []
          else [{ atomicBack (afterIssue s v) v r a due with old := spanRead s a v.bundle.size }])
      ∧ (∀ k, k ≠ v.engine → engGet u k = engGet s k)
      ∧ u = { s with out := [], mem := u.mem, engines := u.engines, qc := u.qc, stores := u.stores, agenda := u.agenda } := by
  obtain ⟨w, hw, ⟨g, l, hframe⟩, hwf, hbad, hother, hinflight, hagenda⟩ := atomicNoted_spec h hsize (issueCycle s v) a
  rw [hdue] at hinflight hagenda
  obtain ⟨q, hq⟩ : ∃ q, qcAccess w v.bundle.hint a v.bundle.size = { w with qc := q } := ⟨_, qcAccess_frame _ _ _ _⟩
  have ha' : runAddr r (localOf (ownBundle (afterIssue s v) r v.bundle).addr) = a := ha
  have hexec := exec_atomic h hhere ha hopen hhome
  obtain ⟨x, hx⟩ : ∃ x : Timed, x = ⟨arrives, rankRemote v.engine, v.engine,
      .atomic v.bundle (numberOf (afterIssue s v) v.engine) a (atomicOperands s v) []⟩ := ⟨_, rfl⟩
  have heffect : atomicEffectOf v r (issueCycle s v) (afterIssue s v) = { w with qc := q, agenda := agendaInsert x w.agenda } := by
    unfold atomicEffectOf
    dsimp only
    rw [ha', harrives, hw, hq, hx]
    rfl
  rw [heffect] at hexec
  refine ⟨_, hexec, ?_⟩
  have hput : agendaInsert x w.agenda = x :: w.agenda := by
    rw [hagenda]
    split
    · rfl
    next hkind =>
      have hbefore : timedBefore x ⟨fillStart due v.bundle.size, rankFill, v.engine, .fill ((engGet s v.engine).next + 1)⟩ = true := by
        unfold timedBefore
        rw [hx, decide_eq_true (hlater.resolve_left hkind)]
        rfl
      exact if_pos hbefore
  have hends (z : State) (fuel : Nat) (hz : z.agenda = w.agenda) : settle z (arrives + 1) fuel = z := by
    rw [hagenda] at hz
    split at hz
    · exact settle_idle _ _ hz
    next hkind => exact settle_waits fuel hz (hlater.resolve_left hkind)
  have hsound : Sound { w with qc := q } := by
    obtain ⟨hform, hpoison, hsoft, htaint⟩ := sound_afterIssue h
    rw [hframe]
    exact ⟨hform, hpoison, hsoft, htaint⟩
  have hrun : runOf { w with qc := q } v.engine = some r := by
    rw [hframe]
    exact h.runs
  have hread : spanRead { w with qc := q } a v.bundle.size = spanRead s a v.bundle.size := by
    rw [hframe]
    rfl
  have hstep := atomicStep_sound (e := v.engine) (r := r) (c := arrives) (b := v.bundle) (a := a) hsound hbad (numberOf (afterIssue s v) v.engine) (atomicOperands s v)
  rw [hread] at hstep
  have htask : runTask { w with qc := q } x
      = atomicStep { w with qc := q } v.engine r arrives v.bundle (numberOf (afterIssue s v) v.engine) a (atomicOperands s v) [] := by
    rw [hx]
    unfold runTask
    dsimp only
    rw [hrun]
  have hsettled : settled { w with qc := q, agenda := agendaInsert x w.agenda } (arrives + 1)
      = atomicStep { w with qc := q } v.engine r arrives v.bundle (numberOf (afterIssue s v) v.engine) a (atomicOperands s v) [] := by
    have hfuel : agendaFuel = 2 ^ 40 - 1 + 1 := by
      unfold agendaFuel
      norm_num
    unfold settled
    rw [hfuel]
    generalize 2 ^ 40 - 1 = fuel
    rw [settle_step (l := w.agenda) hput (by rw [hx]; exact Nat.lt_succ_self _)]
    refine (congrArg (settle · _ fuel) htask).trans (hends _ fuel ?_)
    rw [hstep]
    rfl
  have hlen : (atomicEffect v.bundle.kind v.bundle.size (spanRead s a v.bundle.size) (atomicOperands s v)).length = v.bundle.size :=
    length_atomicEffect _ _ (spanRead_length _ _ _) fun hcas => by rw [atomicOperands, if_pos hcas, bytesAt_length]
  obtain ⟨hholds, hbut⟩ := holds_spanWrite (s := { w with qc := q }) (a := a)
    (b := atomicEffect v.bundle.kind v.bundle.size (spanRead s a v.bundle.size) (atomicOperands s v))
    ⟨hsound.form, hsound.poison, hsound.soft⟩ (by rw [hlen]; exact honce)
  rw [hlen] at hbut
  rw [hsettled, hstep]
  refine ⟨_, rfl, hholds, fun k hk => (hbut k hk).trans ?_, ?_, fun k hk => (engGet_engSet_other _ _ hk).trans (hother k hk), ?_⟩
  · rw [hframe]
    rfl
  · refine (congrArg Engine.inflight (engGet_engSet_same (s := { w with qc := q }) hwf _ _)).trans ?_
    have hmap : (engGet w v.engine).inflight.map (fun f => if f.number = numberOf (afterIssue s v) v.engine
        then { f with old := spanRead s a v.bundle.size } else f)
        = (if v.bundle.kind = .atomicAdd then [] else [{ atomicBack (afterIssue s v) v r a due with old := spanRead s a v.bundle.size }]) := by
      rw [hinflight]
      split
      · rfl
      · exact found_atomicBack due _
    exact hmap
  · rw [hframe]
    rfl

theorem atomicBack_eq (h : Issues .atomic s v r) (a due : Nat) (old : Bytes) :
    { atomicBack (afterIssue s v) v r a due with old := old }
      = { tag := v.bundle.setTag, due := due, dest := v.bundle.retOff, old := old, slots := atomicJobs s r v.bundle
          number := (engGet s v.engine).next + 1, home := if isStack a then [(a, v.bundle.size)] else [] } := by
  unfold atomicBack
  rw [numberOf, engGet_afterIssue_same h.canon, issued_next]
  rfl

/-- Settles O35: one lemma for each of the three bundles, and for the two ways of an MWRITE. -/
theorem memoryBundlesMoveTheirBytes : Obligations.MemoryBundlesMoveTheirBytes := by
  unfold Obligations.MemoryBundlesMoveTheirBytes
  intro s v r
  dsimp only
  intro hsize
  refine ⟨fun h => ?_, fun h hhere => ?_, fun h hhere hopen hhome honce hlater => ?_⟩
  · obtain ⟨t, hexec, hother, hnone, hmem, hwindow, hframe⟩ := mread_spec h rfl rfl rfl rfl
    simp only [mreadFlight_eq h] at hnone hmem hwindow
    refine ⟨t, hexec, hother, hnone, hmem, hwindow, fun hclosed => ?_, fun hclosed => ?_⟩
    · rw [hclosed, accessMet_open] at hframe
      exact hframe
    · obtain ⟨hcode, hfails⟩ := accessMet_closed (s := afterIssue s v) (e := v.engine) hclosed
      have hmet := accessMet_frame (afterIssue s v) v.engine
        ((bundleParts s r v.bundle v.bundle.size false).filter fun y => !y.empty && !y.open_)
      refine ⟨?_, ?_, ?_⟩
      · rw [hframe]
        exact hcode
      · rw [hframe]
        exact hfails
      · rw [hframe, hmet]
        rfl
  · obtain ⟨t, hexec⟩ : ∃ t, exec (.mwrite v) s = .next t := ⟨_, exec_mwrite h hhere⟩
    refine ⟨t, hexec, fun hroad hout honce hpieces hopen => ?_, fun hroad hown hin hopen => ?_⟩
    · obtain ⟨u, hexec', hspec⟩ := mwrite_memory h hhere rfl rfl hroad hout honce hpieces hopen
      obtain rfl : t = u := by rw [hexec] at hexec'; exact Host.Outcome.next.inj hexec'
      exact hspec
    · obtain ⟨u, hexec', hspec⟩ := mwrite_window h hhere hsize hroad hown rfl hin hopen
      obtain rfl : t = u := by rw [hexec] at hexec'; exact Host.Outcome.next.inj hexec'
      exact hspec
  · obtain ⟨t, hexec, u, rfl, hholds, hbut, hinflight, hother, hframe⟩ := atomic_settles h hsize hhere rfl hopen hhome honce rfl rfl hlater
    rw [atomicBack_eq h] at hinflight
    exact ⟨t, hexec, hholds, hbut, hinflight, hother, hframe⟩

end Sys2Proof.Machine

/-! What a Caldera kernel leaves in memory, in its counters and in the digests of its jobs (R222, R226 to R229, R245, R262, R323). -/

namespace Sys2Proof.Machine

open Sys2Proof Sys2Proof.Terms

variable {s t u : State} {x : KRun} {k : Kernel} {r : Run} {a n m slot : Nat} {b : Bytes}

/-! ## Jobs whose digests alone differ -/

/-- Two states of a job that kernels cannot tell apart. -/
structure SameJob (c d : Ctx) : Prop where
  num : d.num = c.num
  desc : d.desc = c.desc
  step : d.step = c.step
  active : ∀ p, activeIn p d = activeIn p c

/-- The contexts of two states hold the same jobs. -/
def JobsKept (s t : State) (f : Ctx → Ctx) : Prop := (∀ c, SameJob c (f c)) ∧ t.ctxs = s.ctxs.map f

theorem jobsKept_refl (h : t.ctxs = s.ctxs) : JobsKept s t id := ⟨fun _ => ⟨rfl, rfl, rfl, fun _ => rfl⟩, by rw [h, List.map_id]⟩

theorem jobsKept_trans {f g : Ctx → Ctx} (hst : JobsKept s t f) (htu : JobsKept t u g) : JobsKept s u (g ∘ f) := by
  obtain ⟨hf, hs⟩ := hst
  obtain ⟨hg, ht⟩ := htu
  refine ⟨fun c => ?_, by rw [ht, hs, List.map_map]⟩
  obtain ⟨hnum, hdesc, hstep, hactive⟩ := hf c
  obtain ⟨hnum', hdesc', hstep', hactive'⟩ := hg (f c)
  exact ⟨hnum'.trans hnum, hdesc'.trans hdesc, hstep'.trans hstep, fun p => (hactive' p).trans (hactive p)⟩

theorem ctxGet_kept {f : Ctx → Ctx} (h : JobsKept s t f) (n : Nat) : ctxGet t n = (ctxGet s n).map f := by
  unfold ctxGet
  rw [h.2, List.find?_map]
  congr 2
  funext c
  exact congrArg (· == n) (h.1 c).num

theorem active_kept {f : Ctx → Ctx} (h : JobsKept s t f) (r : Run) (o : Option Ctx) :
    (o.map f).filter (activeIn r.pass) = (o.filter (activeIn r.pass)).map f := by
  cases o with
  | none => rfl
  | some c =>
    have hc := (h.1 c).active r.pass
    simp only [Option.map_some, Option.filter_some, hc]
    split <;> rfl

theorem jobOf_kept {f : Ctx → Ctx} (h : JobsKept s t f) (r : Run) (slot : Nat) : jobOf t r slot = (jobOf s r slot).map f := by
  unfold jobOf
  rw [← active_kept h]
  congr 1
  cases sfind r.pass.slots slot with
  | none => rfl
  | some n => exact ctxGet_kept h n

theorem jobsOf_kept {f : Ctx → Ctx} (h : JobsKept s t f) (r : Run) : jobsOf t r = (jobsOf s r).map f := by
  unfold jobsOf
  rw [List.map_filterMap]
  congr 1
  funext y
  rw [← active_kept h]
  exact congrArg (Option.filter (activeIn r.pass)) (ctxGet_kept h y.2)

theorem slotBase_kept {f : Ctx → Ctx} (h : JobsKept s t f) (r : Run) (slot : Nat) : slotBase t r slot = slotBase s r slot := by
  unfold slotBase
  rw [jobOf_kept h, jobsOf_kept h]
  have hbase (c : Ctx) : (f c).desc.base = c.desc.base := by rw [(h.1 c).desc]
  cases jobOf s r slot with
  | some c => exact congrArg (fun b => (some b).getD 0) (hbase c)
  | none =>
    cases jobsOf s r with
    | nil => rfl
    | cons c l => exact congrArg (fun b => (some b).getD 0) (hbase c)

theorem kRowIn_kept {f : Ctx → Ctx} (h : JobsKept s t f) (x : KRun) (slot : Nat) (y : Tensor) (row : Nat) :
    kRowIn t x slot y row = kRowIn s x slot y row := by
  unfold kRowIn kBase
  rw [slotBase_kept h]

/-- A job's digest changes no more of its contexts. -/
theorem ctxDigest_kept (s : State) (n layer : Nat) (d : BitVec 128) (partner : Bool) :
    ∃ f, JobsKept s (ctxDigest s n layer d partner) f := by
  unfold ctxDigest
  split
  · exact ⟨id, jobsKept_refl rfl⟩
  · refine ⟨fun c => if c.num = n then { c with digests := digestAdd c.digests layer d } else c, fun c => ?_, rfl⟩
    dsimp only
    split
    · exact ⟨rfl, rfl, rfl, fun _ => rfl⟩
    · exact ⟨rfl, rfl, rfl, fun _ => rfl⟩

theorem ctxDigest_frame (s : State) (n layer : Nat) (d : BitVec 128) (partner : Bool) :
    ctxDigest s n layer d partner = { s with
      ctxs := (ctxDigest s n layer d partner).ctxs, mirrorSums := (ctxDigest s n layer d partner).mirrorSums } := by
  unfold ctxDigest
  split <;> rfl

/-! ## What a kernel may change -/

/-- The effect of a kernel on memory, on its counter at an offset and on the digests of its jobs. -/
structure KernelWork (k : Kernel) (off : Nat) (s t : State) : Prop where
  frame : t = { s with mem := t.mem, regs := t.regs, qc := t.qc, ctxs := t.ctxs, mirrorSums := t.mirrorSums }
  clean : Clean t
  regs : RegsBut s t [off]
  jobs : ∃ f, JobsKept s t f
  sums : k.digestLayer = 0xFFFFFFFF → t.ctxs = s.ctxs ∧ t.mirrorSums = s.mirrorSums

theorem kernelWork_refl (h : Clean s) (k : Kernel) (n : Nat) : KernelWork k n s s :=
  ⟨rfl, h, fun _ _ => rfl, ⟨id, jobsKept_refl rfl⟩, fun _ => ⟨rfl, rfl⟩⟩

theorem kernelWork_trans (hst : KernelWork k n s t) (htu : KernelWork k n t u) : KernelWork k n s u := by
  obtain ⟨hframe, -, hregs, ⟨f, hjobs⟩, hsums⟩ := hst
  obtain ⟨hframe', hclean, hregs', ⟨g, hjobs'⟩, hsums'⟩ := htu
  refine ⟨?_, hclean, fun a ha => (hregs' a ha).trans (hregs a ha), ⟨_, jobsKept_trans hjobs hjobs'⟩, fun hk => ?_⟩
  · rw [hframe', hframe]
  · exact ⟨(hsums' hk).1.trans (hsums hk).1, (hsums' hk).2.trans (hsums hk).2⟩

/-- What may be accessed is not in the kernel's counters. -/
theorem spanOpen_work {st o : Nat} (h : KernelWork k (oCal st + o) s t) (ho : o = 0x20 ∨ o = 0x28) (a n : Nat) (write : Bool) :
    spanOpen t a n write = spanOpen s a n write := by
  have hfenced (e : Nat) : engineFenced t e = engineFenced s e := by
    have hother : oEng e + 0x10 ∉ [oCal st + o] := by
      simp only [oEng, oCal, List.mem_singleton]
      omega
    exact congrArg (getF · 31 31 == 1) (h.regs _ hother)
  have hframe := h.frame
  have hretired (lin : Nat) : isRetired t lin = isRetired s lin := by
    rw [hframe]
    rfl
  have hreserved : reservedSpan t a n write = reservedSpan s a n write := by
    rw [hframe]
    rfl
  simp only [spanOpen, spanThere, implemented, hretired, hfenced, hreserved]

theorem kernelWork_regCount (h : Clean s) (k : Kernel) (off hi lo n : Nat) : KernelWork k off s (regCount s off hi lo n) :=
  ⟨rfl, ⟨h.form, h.poison, h.soft⟩, fun _ ha => regGet_regCount_other s hi lo n (by simpa using ha), ⟨id, jobsKept_refl rfl⟩, fun _ => ⟨rfl, rfl⟩⟩

theorem kernelWork_calNumev (h : Clean s) (k : Kernel) (st n : Nat) : KernelWork k (oCal st + 0x28) s (calNumev s st n) := by
  unfold calNumev
  split
  · exact kernelWork_refl h _ _
  · exact kernelWork_regCount h _ _ _ _ _

theorem kernelWork_ctxDigest (h : Clean s) (hk : k.digestLayer ≠ 0xFFFFFFFF) (off n layer : Nat) (d : BitVec 128) (partner : Bool) :
    KernelWork k off s (ctxDigest s n layer d partner) := by
  have hframe := ctxDigest_frame s n layer d partner
  have hjobs := ctxDigest_kept s n layer d partner
  generalize ctxDigest s n layer d partner = t at hframe hjobs
  refine ⟨?_, ?_, fun a _ => ?_, hjobs, fun hno => absurd hno hk⟩
  · rw [hframe]
  · rw [hframe]
    exact ⟨h.form, h.poison, h.soft⟩
  · rw [hframe]
    rfl

theorem kernelWork_hashRow (h : Clean s) (off ctx fmt : Nat) (scaled partner : Bool) (index : Nat → Nat) (valid : Nat → Bool)
    (bits : List Nat) (scales : List Byte) :
    KernelWork k off s (hashRow s ctx k.digestLayer.toNat fmt scaled partner index valid bits scales) := by
  have hsome (hlayer : k.digestLayer.toNat ≠ 0xFFFFFFFF) : k.digestLayer ≠ 0xFFFFFFFF := by
    intro hno
    rw [hno] at hlayer
    exact hlayer rfl
  unfold hashRow
  split
  · exact kernelWork_refl h _ _
  next hlayer =>
    dsimp only
    generalize bits.zipIdx.foldl _ _ = d
    exact kernelWork_ctxDigest h (hsome hlayer) _ _ _ _ _

/-- A digest changes no byte. -/
theorem mem_hashRow (s : State) (ctx layer fmt : Nat) (scaled partner : Bool) (index : Nat → Nat) (valid : Nat → Bool)
    (bits : List Nat) (scales : List Byte) : (hashRow s ctx layer fmt scaled partner index valid bits scales).mem = s.mem := by
  unfold hashRow
  split
  · rfl
  · dsimp only
    rw [ctxDigest_frame]

theorem mem_regCount (s : State) (off hi lo n : Nat) : (regCount s off hi lo n).mem = s.mem := rfl

theorem mem_calNumev (s : State) (st n : Nat) : (calNumev s st n).mem = s.mem := by
  unfold calNumev
  split
  · rfl
  · exact mem_regCount _ _ _ _ _

/-! ## Writes of a kernel -/

theorem qcInvalidate_frame (s : State) (lin n : Nat) : ∃ q, qcInvalidate s lin n = { s with qc := q } := by
  unfold qcInvalidate
  split
  · exact ⟨_, rfl⟩
  · exact ⟨_, rfl⟩

/-- A write that is open stores its bytes. -/
theorem kWrite_open (h : Clean s) (hopen : 0 < b.length → spanOpen s a b.length true = true) (jobs : List Nat) :
    ∃ q, kWrite s jobs a b = { spanWrite s a b with qc := q } := by
  unfold kWrite
  split
  next hempty =>
    rw [List.isEmpty_iff] at hempty
    subst hempty
    exact ⟨s.qc, rfl⟩
  next hfull =>
    have hpos : 0 < b.length := List.length_pos_iff.mpr fun hnil => hfull (List.isEmpty_iff.mpr hnil)
    have hok : ¬(!spanOpen s a b.length true) = true := by rw [hopen hpos]; exact Bool.false_ne_true
    have hpoison : s.poison.isEmpty = true := List.isEmpty_iff.mpr h.poison
    rw [if_neg hok, if_pos hpoison, storeBytes_clean h.poison h.soft]
    exact qcInvalidate_frame _ _ _

/-- A write changes its bytes alone, or none. -/
theorem kWrite_any (h : Clean s) (jobs : List Nat) (a : Nat) (b : Bytes) :
    ∃ g q, kWrite s jobs a b = { s with mem := g, qc := q } ∧ Memory.wf g = true
      ∧ MemBut s (kWrite s jobs a b) (spanLinear a b.length) := by
  by_cases hopen : spanOpen s a b.length true = true
  · obtain ⟨q, hq⟩ := kWrite_open h (fun _ => hopen) jobs
    rw [hq]
    refine ⟨_, q, rfl, wf_spanWrite h.form a b, fun y hy => byteAt_spanWrite_other s fun i hi heq => hy ?_⟩
    exact List.mem_map.mpr ⟨i, List.mem_range.mpr hi, heq⟩
  · have hnone : kWrite s jobs a b = s := by
      unfold kWrite
      split
      · rfl
      · exact if_pos (by rw [Bool.not_eq_true] at hopen; rw [hopen]; rfl)
    rw [hnone]
    exact ⟨s.mem, s.qc, rfl, h.form, fun _ _ => rfl⟩

theorem kernelWork_kWrite (h : Clean s) (k : Kernel) (off : Nat) (jobs : List Nat) (a : Nat) (b : Bytes) :
    KernelWork k off s (kWrite s jobs a b) := by
  obtain ⟨g, q, hwrite, hform, -⟩ := kWrite_any h jobs a b
  rw [hwrite]
  exact ⟨rfl, ⟨hform, h.poison, h.soft⟩, fun _ _ => rfl, ⟨id, jobsKept_refl rfl⟩, fun _ => ⟨rfl, rfl⟩⟩

theorem memBut_kWrite (h : Clean s) (jobs : List Nat) (a : Nat) (b : Bytes) : MemBut s (kWrite s jobs a b) (spanLinear a b.length) := by
  obtain ⟨-, -, -, -, hbut⟩ := kWrite_any h jobs a b
  exact hbut

/-- A write that is open is read back. -/
theorem holds_kWrite (h : Clean s) (hopen : 0 < b.length → spanOpen s a b.length true = true) (honce : (spanLinear a b.length).Nodup)
    (jobs : List Nat) : Holds (kWrite s jobs a b) a b := by
  obtain ⟨q, hwrite⟩ := kWrite_open h hopen jobs
  rw [hwrite]
  exact (holds_spanWrite h honce).1

/-- Bytes outside a write's are still held. -/
theorem holds_kept {d : Nat} {data : Bytes} (h : Holds s d data) {l : List Nat} (hbut : MemBut s t l)
    (hapart : (spanLinear d data.length).Disjoint l) : Holds t d data := by
  refine Eq.trans ?_ h
  unfold spanRead
  exact List.map_congr_left fun y hy => hbut y (List.disjoint_left.mp hapart hy)

theorem memBut_trans {l p : List Nat} (hst : MemBut s t l) (htu : MemBut t u p) : MemBut s u (l ++ p) := by
  intro y hy
  rw [List.mem_append, not_or] at hy
  exact (htu y hy.2).trans (hst y hy.1)

theorem memBut_same {l : List Nat} (h : t.mem = s.mem) : MemBut s t l := by
  intro y _
  unfold byteAt
  rw [h]

theorem holds_same {d : Nat} {data : Bytes} (hs : Holds s d data) (h : t.mem = s.mem) : Holds t d data :=
  holds_kept (l := []) hs (memBut_same h) (List.disjoint_nil_right _)

/-! ## A stored row -/

/-- Bytes packed as elements of 8 bits are themselves. -/
theorem pack_bytes (l : List Byte) : pack 8 (l.map (·.toNat)) = l := by
  have hlen (n : Nat) : packedBytes 8 n = n := by
    unfold packedBytes ceilDiv
    omega
  unfold pack
  rw [hlen]
  induction l with
  | nil => rfl
  | cons x l ih =>
    rw [List.map_cons, List.length_cons, toLE, packNat]
    have hx : x.toNat < 256 := x.isLt
    have hlow : (x.toNat % 2 ^ 8 + 2 ^ 8 * packNat 8 (l.map (·.toNat))) / 256 = packNat 8 (l.map (·.toNat)) := by omega
    have hbyte : BitVec.ofNat 8 (x.toNat % 2 ^ 8 + 2 ^ 8 * packNat 8 (l.map (·.toNat))) = x := by
      apply BitVec.eq_of_toNat_eq
      rw [BitVec.toNat_ofNat]
      omega
    rw [hlow, hbyte]
    exact congrArg (x :: ·) ih

theorem length_pack (w : Nat) (l : List Nat) : (pack w l).length = packedBytes w l.length := length_toLE _ _

theorem kPut_all {ok : List Bool} (h : ok.all id = true) (s : State) (jobs : List Nat) (a w : Nat) (bits : List Nat) :
    kPut s jobs a w bits ok = kWrite s jobs a (pack w bits) := if_pos h

/-- Where nothing is poisoned every element is written. -/
theorem okOf_sound {bad : List Bool} (h : bad.all (!·) = true) (scaled : Bool) : (okOf scaled bad).all id = true := by
  have hok : okOf scaled bad = bad.map (!·) := if_pos h
  rw [hok, List.all_map]
  exact h

theorem getD_all {ok : List Bool} (h : ok.all id = true) (i : Nat) : ok.getD i true = true := by
  rw [List.getD_eq_getElem?_getD]
  cases hi : ok[i]? with
  | none => rfl
  | some v => exact List.all_eq_true.mp h v (List.mem_of_getElem? hi)

/-- The span of a row's scales. -/
def scaleLins (z : Option Nat) (scales : Bytes) : List Nat :=
  match z with
  | some y => spanLinear y scales.length
  | none => []

/-- The spans of a row and of its scales. -/
def rowLins (a : Nat) (data : Bytes) (z : Option Nat) (scales : Bytes) : List Nat := spanLinear a data.length ++ scaleLins z scales

/-- Scales written where they are asked for. -/
def scalesPut (s : State) (jobs : List Nat) (z : Option Nat) (scales : Bytes) : State :=
  match z with
  | some y => kWrite s jobs y scales
  | none => s

theorem kernelWork_scalesPut (h : Clean s) (k : Kernel) (off : Nat) (jobs : List Nat) (z : Option Nat) (scales : Bytes) :
    KernelWork k off s (scalesPut s jobs z scales) := by
  cases z with
  | none => exact kernelWork_refl h k off
  | some y => exact kernelWork_kWrite h k off jobs y scales

theorem memBut_scalesPut (h : Clean s) (jobs : List Nat) (z : Option Nat) (scales : Bytes) :
    MemBut s (scalesPut s jobs z scales) (scaleLins z scales) := by
  cases z with
  | none => exact fun _ _ => rfl
  | some y => exact memBut_kWrite h jobs y scales

/-- The parts of a row's store, where nothing is poisoned. -/
theorem kStoreRow_parts {st : Store} {scales : List Byte} {job : Ctx} {index : Nat → Nat} {vals : List Word}
    {bad : List Bool} (hbad : bad.all (!·) = true) {row : List Nat × List Byte × Nat}
    (hrow : storeRow st (fun t => opalRound (opalOf job) x.k.opalTensor st.sr3 (index t)) scales vals = row)
    (s : State) (a : Nat) (z : Option Nat) (valid : Nat → Bool) :
    ∃ count, kStoreRow x st scales s job a z index valid vals bad
      = hashRow (scalesPut (kWrite (calNumev s x.k.stack count) [job.num] a (pack (fmtWidth st.fmt) row.1)) [job.num]
          (if st.scaled then z else none) row.2.1) job.num x.k.digestLayer.toNat st.fmt st.scaled x.run.partner index
          (fun t => valid t && (okOf st.scaled bad).getD t false) row.1 row.2.1 := by
  have hany : ¬bad.any id = true := by
    rw [List.any_eq_true]
    rintro ⟨v, hv, hid⟩
    have hno := List.all_eq_true.mp hbad v hv
    simp only [id] at hid
    rw [hid] at hno
    exact Bool.false_ne_true hno
  have hok := okOf_sound hbad st.scaled
  obtain ⟨bits, sc, lost⟩ := row
  have hall : (sc.zipIdx.map fun y => (okOf st.scaled bad).getD (32 * y.2) true).all id = true := by
    rw [List.all_map]
    exact List.all_eq_true.mpr fun y _ => getD_all hok _
  unfold kStoreRow
  dsimp only
  rw [hrow]
  dsimp only
  rw [if_neg hany, kPut_all hok]
  generalize (if st.scaled = true then 0 else _) = count
  refine ⟨count, ?_⟩
  cases z with
  | none =>
    dsimp only
    rw [ite_self]
    rfl
  | some z =>
    dsimp only
    split
    · rw [kPut_all hall, pack_bytes]
      rfl
    · rfl

/-- A row of values without poison is stored at its place, and its scales where they are asked for. -/
theorem kStoreRow_sound (h : Clean s) {st : Store} {scales : List Byte} {job : Ctx} {z : Option Nat} {index : Nat → Nat} {vals : List Word}
    {bad : List Bool} {data : Bytes} {zs : Option Nat}
    (hbad : bad.all (!·) = true) {row : List Nat × List Byte × Nat}
    (hrow : storeRow st (fun t => opalRound (opalOf job) x.k.opalTensor st.sr3 (index t)) scales vals = row)
    (hdata : pack (fmtWidth st.fmt) row.1 = data) (hz : (if st.scaled then z else none) = zs)
    (honce : (rowLins a data zs row.2.1).Nodup)
    (hopen : 0 < data.length → spanOpen s a data.length true = true)
    (hopenz : ∀ y, zs = some y → 0 < row.2.1.length → spanOpen s y row.2.1.length true = true) (valid : Nat → Bool) :
    ∃ t, kStoreRow x st scales s job a z index valid vals bad = t ∧ KernelWork x.k (oCal x.k.stack + 0x28) s t
      ∧ Holds t a data ∧ (∀ y, zs = some y → Holds t y row.2.1) ∧ MemBut s t (rowLins a data zs row.2.1) := by
  obtain ⟨count, hparts⟩ := kStoreRow_parts hbad hrow s a z valid
  rw [hz, hdata] at hparts
  rw [hparts]
  obtain ⟨bits, sc, lost⟩ := row
  dsimp only at hopenz honce ⊢
  obtain ⟨u, hu⟩ : ∃ u, u = calNumev s x.k.stack count := ⟨_, rfl⟩
  have hwork : KernelWork x.k (oCal x.k.stack + 0x28) s u := by rw [hu]; exact kernelWork_calNumev h _ _ _
  have hmem : u.mem = s.mem := by rw [hu]; exact mem_calNumev _ _ _
  obtain ⟨w, hw⟩ : ∃ w, w = kWrite u [job.num] a data := ⟨_, rfl⟩
  have hput := kernelWork_kWrite hwork.clean x.k (oCal x.k.stack + 0x28) [job.num] a data
  have hbut := memBut_kWrite hwork.clean [job.num] a data
  obtain ⟨honce', honcez, hapart⟩ := List.nodup_append'.mp honce
  have hholds := holds_kWrite hwork.clean (fun hpos => (spanOpen_work hwork (.inr rfl) _ _ _).trans (hopen hpos)) honce' [job.num]
  rw [← hu, ← hw]
  rw [← hw] at hput hbut hholds
  have hputz := kernelWork_scalesPut hput.clean x.k (oCal x.k.stack + 0x28) [job.num] zs sc
  have hbutz := memBut_scalesPut hput.clean [job.num] zs sc
  have hdone := kernelWork_trans hwork (kernelWork_trans hput hputz)
  have hfinal := kernelWork_hashRow (k := x.k) (off := oCal x.k.stack + 0x28) hdone.clean job.num st.fmt st.scaled x.run.partner index
    (fun t => valid t && (okOf st.scaled bad).getD t false) bits sc
  have hsame := mem_hashRow (scalesPut w [job.num] zs sc) job.num x.k.digestLayer.toNat st.fmt st.scaled x.run.partner index
    (fun t => valid t && (okOf st.scaled bad).getD t false) bits sc
  refine ⟨_, rfl, kernelWork_trans hdone hfinal, holds_same (holds_kept hholds hbutz hapart) hsame, fun y hy => ?_, ?_⟩
  · subst hy
    have hopeny : 0 < sc.length → spanOpen w y sc.length true = true := fun hpos =>
      (spanOpen_work (kernelWork_trans hwork hput) (.inr rfl) _ _ _).trans (hopenz y rfl hpos)
    exact holds_same (holds_kWrite hput.clean hopeny honcez [job.num]) hsame
  · intro y hy
    rw [rowLins, List.mem_append, not_or] at hy
    have hlast : byteAt _ y = byteAt (scalesPut w [job.num] zs sc) y := memBut_same hsame (l := []) y List.not_mem_nil
    have hfirst : byteAt u y = byteAt s y := memBut_same hmem (l := []) y List.not_mem_nil
    exact hlast.trans ((hbutz y hy.2).trans ((hbut y hy.1).trans hfirst))

/-! ## A kernel that its program has now -/

/-- What a kernel leaves of its pass: its place among those that it has run. -/
theorem runKernel_sound {code : KernelCode} {v : KernelEvent} (h : KernelRuns code s v x n) (f : KRun → State → State) :
    runKernel code v f s = { f x { s with out := [] } with
      passes := (f x { s with out := [] }).passes.map fun p => if p = x.run.pass then { p with ran := (v.kernel.stack, n) :: p.ran } else p } := by
  obtain ⟨hruns, hreach, ⟨hmem, hdatapath, hlate⟩, -, -⟩ := h
  have hruns' : kernelRun { s with out := [] } code v.kernel = some (x, n) := hruns
  have hreach' (why : Code) : (closedJobs { s with out := [] } code x why).isEmpty = true := by
    rw [List.isEmpty_iff]
    exact hreach why
  have hrefuse : refuseKernel { s with out := [] } code x = { s with out := [] } := by
    unfold refuseKernel
    simp only [List.foldl_cons, List.foldl_nil, hreach', if_true]
  have hend (u : State) : kernelEnd code v x u = u := by
    unfold kernelEnd
    rw [hdatapath, if_pos hlate]
    rfl
  unfold runKernel
  dsimp only
  rw [hruns']
  dsimp only
  rw [hmem, hrefuse, hend]
  rfl

/-- The kernel of a run is the event's. -/
theorem kernelRun_kernel {code : KernelCode} (h : kernelRun s code k = some (x, n)) : x.k = k := by
  unfold kernelRun at h
  split at h
  · exact absurd h (by simp)
  · obtain ⟨p, -, hp⟩ := List.exists_of_findSome?_eq_some h
    obtain ⟨y, -, hy⟩ := Option.map_eq_some_iff.mp hp
    exact congrArg (fun z => z.1.k) hy.symm

end Sys2Proof.Machine

/-! O38: the kernels that store a sum of rows (R18, R226, R228, R233, R235, R243). -/

namespace Sys2Proof.Machine

open Sys2Proof Sys2Proof.Terms

variable {s t u : State} {x : KRun} {r : Run} {a n m off : Nat} {b : Bytes} {code : KernelCode} {v : KernelEvent} {job : Ctx}

/-! ## The end of a kernel -/

/-- What a kernel's work leaves of the state once its place is noted in its pass. -/
theorem kernel_ends (h : KernelRuns code s v x n) (f : KRun → State → State) (hu : f x { s with out := [] } = u)
    (hwork : KernelWork x.k off { s with out := [] } u) :
    ∃ t, runKernel code v f s = t ∧ t.mem = u.mem ∧ RegsBut s t [off] ∧ t.regs = u.regs
      ∧ (x.k.digestLayer = 0xFFFFFFFF → t.ctxs = s.ctxs ∧ t.mirrorSums = s.mirrorSums)
      ∧ t = { s with out := [], mem := t.mem, regs := t.regs, qc := t.qc, ctxs := t.ctxs, mirrorSums := t.mirrorSums, passes := ran s x n } := by
  have hkernel : v.kernel.stack = x.k.stack := by rw [kernelRun_kernel h.runs]
  have hpasses : u.passes = s.passes := by rw [hwork.frame]
  have hran : u.passes.map (fun p => if p = x.run.pass then { p with ran := (v.kernel.stack, n) :: p.ran } else p) = ran s x n := by
    rw [hpasses, hkernel]
    rfl
  refine ⟨{ u with passes := ran s x n }, ?_, rfl, hwork.regs, rfl, hwork.sums, ?_⟩
  · rw [runKernel_sound h, hu, hran]
  · rw [hwork.frame]

/-- A kernel that its program does not have now. -/
theorem runKernel_absent (h : kernelRun s code v.kernel = none) (f : KRun → State → State) : runKernel code v f s = { s with out := [] } := by
  have habsent : kernelRun { s with out := [] } code v.kernel = none := h
  unfold runKernel
  dsimp only
  rw [habsent]

theorem kRows_one (hrows : x.k.rows = 1) (hjob : kJob s x 0 = some job) (f : State → Nat → Ctx → State) : kRows x s f = f s 0 job := by
  unfold kRows
  rw [hrows]
  show (match kJob s x 0 with
    | some job => f s 0 job
    | none => s) = _
  rw [hjob]

theorem kPoison_clean (h : Clean s) (a n : Nat) : kPoison s a n = false := by
  unfold kPoison
  rw [h.poison]
  rfl

/-- What a kernel reads of memory without poison is not poisoned. -/
theorem kRead_clean (h : Clean s) (fmt a n : Nat) (z : Option Nat) : ∀ y ∈ kRead s fmt a n z, y.bad = false := by
  have hpoison := kPoison_clean h
  intro y hy
  obtain ⟨i, -, rfl⟩ := List.mem_map.mp hy
  dsimp only
  rw [hpoison, Bool.false_or]
  cases z with
  | none => rfl
  | some z => exact hpoison _ _

theorem kRead_getD_clean (h : Clean s) (fmt a n i : Nat) (z : Option Nat) :
    ((kRead s fmt a n z).getD i ⟨0, vzero, false⟩).bad = false := by
  rw [List.getD_eq_getElem?_getD]
  cases hi : (kRead s fmt a n z)[i]? with
  | none => rfl
  | some y => exact kRead_clean h fmt a n z y (List.mem_of_getElem? hi)

/-! ## A row under OUT_MODES -/

/-- The tensor that takes the scales of an output's rows. -/
def scaleTensor (x : KRun) (out : Tensor) : Option Tensor := if outScaled x.k then tensorGet x.run.img (out.id + 1) else none

theorem scaleTensor_place (s : State) (x : KRun) (out : Tensor) (m : Nat) :
    (if (kStoreOf x).scaled then (tensorGet x.run.img (out.id + 1)).map fun y => kRow s x y m else none)
      = (scaleTensor x out).map fun y => kRow s x y m := by
  unfold scaleTensor kStoreOf
  dsimp only
  split <;> rfl

/-- The open spans of a list hold for each of its spans. -/
theorem writable_cons {y : Nat × Nat} {l : List (Nat × Nat)} (h : Writable s (y :: l)) :
    (0 < y.2 → spanOpen s y.1 y.2 true = true) ∧ Writable s l :=
  ⟨h y List.mem_cons_self, fun z hz => h z (List.mem_cons_of_mem _ hz)⟩

/-- Row 0 of an output is stored under OUT_MODES. -/
theorem kStore_sound (h : Clean s) {out : Tensor} {vals : List Word} {bad : List Bool} (hbad : bad.all (!·) = true)
    {data : Bytes} (hdata : pack (fmtWidth (outFmt x.k)) (outBits x job vals).1 = data)
    (honce : (rowLins (kRow s x out 0) data ((scaleTensor x out).map fun y => kRow s x y 0) (outBits x job vals).2.1).Nodup)
    (hopen : Writable s ((kRow s x out 0, data.length) :: (scaleTensor x out).toList.map fun y => (kRow s x y 0, (outBits x job vals).2.1.length))) :
    ∃ t, kStore x s job out 0 vals bad = t ∧ KernelWork x.k (oCal x.k.stack + 0x28) s t
      ∧ Holds t (kRow s x out 0) data ∧ (∀ y, scaleTensor x out = some y → Holds t (kRow s x y 0) (outBits x job vals).2.1)
      ∧ MemBut s t (rowLins (kRow s x out 0) data ((scaleTensor x out).map fun y => kRow s x y 0) (outBits x job vals).2.1) := by
  obtain ⟨hrow, hscales⟩ := writable_cons hopen
  obtain ⟨t, ht, hwork, hholds, hholdsz, hbut⟩ := kStoreRow_sound (x := x) (st := kStoreOf x) (row := outBits x job vals) h hbad rfl hdata
    (scaleTensor_place s x out 0) honce hrow (fun y hy => by
      obtain ⟨z, hz, rfl⟩ := Option.map_eq_some_iff.mp hy
      exact hscales _ (List.mem_map.mpr ⟨z, Option.mem_toList.mpr hz, rfl⟩)) (fun _ => true)
  refine ⟨t, ht, hwork, hholds, fun y hy => hholdsz _ (by rw [hy]; rfl), hbut⟩

/-- A kernel whose work is to store row 0 of an output. -/
theorem kernel_stores (h : KernelRuns code s v x n) (f : KRun → State → State) {out : Tensor} {vals : List Word} {bad : List Bool}
    (hf : f x { s with out := [] } = kStore x { s with out := [] } job out 0 vals bad) (hbad : bad.all (!·) = true)
    {data : Bytes} (hdata : pack (fmtWidth (outFmt x.k)) (outBits x job vals).1 = data)
    (honce : (rowLins (kRow s x out 0) data ((scaleTensor x out).map fun y => kRow s x y 0) (outBits x job vals).2.1).Nodup)
    (hopen : Writable s ((kRow s x out 0, data.length) :: (scaleTensor x out).toList.map fun y => (kRow s x y 0, (outBits x job vals).2.1.length))) :
    ∃ t, runKernel code v f s = t ∧ Holds t (kRow s x out 0) data
      ∧ (∀ y, scaleTensor x out = some y → Holds t (kRow s x y 0) (outBits x job vals).2.1)
      ∧ MemBut s t (rowLins (kRow s x out 0) data ((scaleTensor x out).map fun y => kRow s x y 0) (outBits x job vals).2.1)
      ∧ (x.k.digestLayer = 0xFFFFFFFF → t.ctxs = s.ctxs ∧ t.mirrorSums = s.mirrorSums)
      ∧ RegsBut s t [oCal x.k.stack + 0x28]
      ∧ t = { s with out := [], mem := t.mem, regs := t.regs, qc := t.qc, ctxs := t.ctxs, mirrorSums := t.mirrorSums, passes := ran s x n } := by
  obtain ⟨hpoison, hsoft, -⟩ := h.clean
  have hclean : Clean { s with out := [] } := ⟨h.canon.mem, hpoison, hsoft⟩
  obtain ⟨u, hu, hwork, hholds, hholdsz, hbut⟩ := kStore_sound (s := { s with out := [] }) (out := out) (job := job) (vals := vals) hclean hbad hdata
    honce hopen
  obtain ⟨t, ht, hmem, hregs, -, hsums, hframe⟩ := kernel_ends h f (hf.trans hu) hwork
  exact ⟨t, ht, holds_same hholds hmem, fun y hy => holds_same (hholdsz y hy) hmem,
    fun y hy => (memBut_same hmem (l := []) y List.not_mem_nil).trans (hbut y hy), hsums, hregs, hframe⟩

/-! ## SAMPLER_STEP, GUIDANCE and ORDERED_ACCUMULATE -/

theorem all_not_map {α : Type} {l : List α} {f : α → Bool} (h : ∀ y ∈ l, f y = false) : (l.map f).all (!·) = true := by
  rw [List.all_map]
  exact List.all_eq_true.mpr fun y hy => by rw [Function.comp, h y hy]; rfl

theorem samplerStep_stores (h : Clean s) (hrows : x.k.rows = 1) (hjob : kJob s x 0 = some job) {out : Tensor} (hout : kTens x 16 = some out) :
    ∃ bad : List Bool, bad.all (!·) = true
      ∧ kSamplerStep x s = kStore x s job out 0 ((List.range x.k.cols).map (stepValue s x job)) bad := by
  refine ⟨(List.range x.k.cols).map fun n => ((stepInputs x).map fun y => (y.1, kReadRow s x y.2 0 x.k.cols)).any fun y =>
    (y.2.getD n ⟨0, vzero, false⟩).bad, ?_, ?_⟩
  · refine all_not_map fun n _ => ?_
    rw [List.any_map, List.any_eq_false]
    intro y _
    rw [Function.comp, kReadRow, kRead_getD_clean h]
    exact Bool.false_ne_true
  · unfold kSamplerStep
    rw [hout]
    dsimp only
    rw [kRows_one hrows hjob]
    unfold stepValue
    simp only [List.map_map]
    rfl

theorem guidance_stores (h : Clean s) (hrows : x.k.rows = 1) (hjob : kJob s x 0 = some job) {tu tc out : Tensor} (htu : kTens x 0 = some tu)
    (htc : kTens x 4 = some tc) (hout : kTens x 8 = some out) :
    ∃ bad : List Bool, bad.all (!·) = true
      ∧ kGuidance x s = kStore x s job out 0 (((kReadRow s x tu 0 x.k.cols).zip (kReadRow s x tc 0 x.k.cols)).map fun y =>
          fma (kF32 x.k 12) (fsub (kWord y.2) (kWord y.1)) (kWord y.1)) bad := by
  refine ⟨((kReadRow s x tu 0 x.k.cols).zip (kReadRow s x tc 0 x.k.cols)).map fun y => y.1.bad || y.2.bad, ?_, ?_⟩
  · refine all_not_map fun y hy => ?_
    obtain ⟨hu, hc⟩ := List.of_mem_zip hy
    rw [kRead_clean h _ _ _ _ _ hu, kRead_clean h _ _ _ _ _ hc]
    rfl
  · unfold kGuidance
    rw [htu, htc, hout]
    exact kRows_one hrows hjob _

theorem accumulate_stores (h : Clean s) (hrows : x.k.rows = 1) (hjob : kJob s x 0 = some job) {slots out : Tensor} (hslots : kTens x 0 = some slots)
    (hout : kTens x 8 = some out) :
    ∃ bad : List Bool, bad.all (!·) = true
      ∧ kAccumulate x s = kStore x s job out 0 ((List.range x.k.cols).map (sumValue s x slots)) bad := by
  refine ⟨(List.range x.k.cols).map fun n =>
    (((List.range (kNat x.k 12 2)).map fun c => kRead s slots.fmt (kRow s x slots 0 + c * kNat x.k 16 8) x.k.cols none).any fun r =>
      (r.getD n ⟨0, vzero, false⟩).bad) || ((kTens x 4).map fun t => kReadRow s x t 0 x.k.cols).any fun r => (r.getD n ⟨0, vzero, false⟩).bad, ?_, ?_⟩
  · refine all_not_map fun n _ => Bool.or_eq_false_iff.mpr ⟨?_, ?_⟩
    · rw [List.any_map, List.any_eq_false]
      intro y _
      rw [Function.comp, kRead_getD_clean h]
      exact Bool.false_ne_true
    · cases kTens x 4 with
      | none => rfl
      | some t => exact kRead_getD_clean h _ _ _ _ _
  · unfold kAccumulate
    rw [hslots, hout]
    dsimp only
    rw [kRows_one hrows hjob]
    refine congrArg (fun vals => kStore x s job out 0 vals _) (List.map_congr_left fun n _ => ?_)
    unfold sumValue
    have hvs : ((List.range (kNat x.k 12 2)).map fun c => kRead s slots.fmt (kRow s x slots 0 + c * kNat x.k 16 8) x.k.cols none).map
          (fun r => kWord (r.getD n ⟨0, vzero, false⟩))
        = (List.range (kNat x.k 12 2)).map fun c =>
          kWord ((kRead s slots.fmt (kRow s x slots 0 + c * kNat x.k 16 8) x.k.cols none).getD n ⟨0, vzero, false⟩) := List.map_map
    dsimp only
    rw [hvs]
    generalize ((List.range (kNat x.k 12 2)).map fun c =>
      kWord ((kRead s slots.fmt (kRow s x slots 0 + c * kNat x.k 16 8) x.k.cols none).getD n ⟨0, vzero, false⟩)) = vs
    cases kTens x 4 with
    | none => cases vs <;> rfl
    | some t => cases vs <;> rfl

/-- The matches of the statement's scales. -/
theorem scaleLins_tensor (s : State) (x : KRun) (z : Option Tensor) (scales : Bytes) :
    scaleLins (z.map fun y => kRow s x y 0) scales = (match z with
      | some y => spanLinear (kRow s x y 0) scales.length
      | none => []) := by
  cases z <;> rfl

/-- A kernel in one of two forms that its program does not have now. -/
theorem runForm_absent (h : kernelRun s code v.kernel = none) (p : Prop) [Decidable p] (f : KRun → State → State) :
    (if p then { s with out := [] } else runKernel code v f s) = { s with out := [] } := by
  rw [runKernel_absent h, ite_self]

/-- The commands of kernels that their programs do not have now. -/
theorem exec_absent {c : Instr} (hc : Terms.kernelOf c = some (code, v)) (h : kernelRun s code v.kernel = none) :
    exec c s = .next { s with out := [] } := by
  cases c with
  | samplerStep w => cases hc; exact congrArg Host.Outcome.next (runKernel_absent h _)
  | guidance w => cases hc; exact congrArg Host.Outcome.next (runKernel_absent h _)
  | optim w => cases hc; exact congrArg Host.Outcome.next (runKernel_absent h _)
  | reduce w => cases hc; exact congrArg Host.Outcome.next (runKernel_absent h _)
  | quantiseDeferred w => cases hc; exact congrArg Host.Outcome.next (runKernel_absent h _)
  | transpose w => cases hc; exact congrArg Host.Outcome.next (runKernel_absent h _)
  | orderedAccumulate w => cases hc; exact congrArg Host.Outcome.next (runKernel_absent h _)
  | gather w => cases hc; exact congrArg Host.Outcome.next (runForm_absent h _ _)
  | gatherPageRead w => cases hc; exact congrArg Host.Outcome.next (runForm_absent h _ _)
  | scatter w => cases hc; exact congrArg Host.Outcome.next (runForm_absent h _ _)
  | scatterPageWrite w => cases hc; exact congrArg Host.Outcome.next (runForm_absent h _ _)
  | _ => exact nomatch hc

/-- The statement's store of a row, by a kernel whose work it is. -/
theorem stored_of (h : KernelRuns code s v x n) {f : KRun → State → State} {c : Instr} (hexec : exec c s = .next (runKernel code v f s))
    {out : Tensor} {vals : List Word} {bad : List Bool}
    (hf : f x { s with out := [] } = kStore x { s with out := [] } job out 0 vals bad) (hbad : bad.all (!·) = true) :
    let bits := outBits x job vals
    let data := pack (fmtWidth (outFmt x.k)) bits.1
    let z := if outScaled x.k then tensorGet x.run.img (out.id + 1) else none
    let lins := spanLinear (kRow s x out 0) data.length
    let scaleLins := match z with
      | some y => spanLinear (kRow s x y 0) bits.2.1.length
      | none => []
    (lins ++ scaleLins).Nodup →
    Writable s ((kRow s x out 0, data.length) :: z.toList.map fun y => (kRow s x y 0, bits.2.1.length)) →
    ∃ t, exec c s = .next t ∧ Holds t (kRow s x out 0) data
      ∧ (∀ y, z = some y → Holds t (kRow s x y 0) bits.2.1)
      ∧ MemBut s t (lins ++ scaleLins)
      ∧ (x.k.digestLayer = 0xFFFFFFFF → t.ctxs = s.ctxs ∧ t.mirrorSums = s.mirrorSums)
      ∧ RegsBut s t [oCal x.k.stack + 0x28]
      ∧ t = { s with out := [], mem := t.mem, regs := t.regs, qc := t.qc, ctxs := t.ctxs, mirrorSums := t.mirrorSums
                     passes := ran s x n } := by
  intro bits data z lins scales honce hopen
  have hlins : rowLins (kRow s x out 0) data ((scaleTensor x out).map fun y => kRow s x y 0) bits.2.1 = lins ++ scales :=
    congrArg (lins ++ ·) (scaleLins_tensor s x z bits.2.1)
  obtain ⟨t, ht, hholds, hholdsz, hbut, hsums, hregs, hframe⟩ := kernel_stores h f hf hbad rfl (by rw [hlins]; exact honce) hopen
  rw [hlins] at hbut
  exact ⟨t, by rw [hexec, ht], hholds, hholdsz, hbut, hsums, hregs, hframe⟩

/-- Settles O38: what `kernel_stores` says of each kernel's values. -/
theorem sumKernelsStoreTheirRow : Obligations.SumKernelsStoreTheirRow := by
  unfold Obligations.SumKernelsStoreTheirRow
  refine ⟨fun s c code v hc habsent => ?_, fun s v x n job out hjob hrows => ?_⟩
  · exact exec_absent hc habsent
  · have hclean {code : KernelCode} (h : KernelRuns code s v x n) : Clean { s with out := [] } := ⟨h.canon.mem, h.clean.1, h.clean.2.1⟩
    have hrows' {code : KernelCode} (h : KernelRuns code s v x n) : x.k.rows = 1 := by rw [kernelRun_kernel h.runs, hrows]
    dsimp only
    refine ⟨fun h hout => ?_, fun tu tc h htu htc hout => ?_, fun slots h hslots hout => ?_⟩
    · obtain ⟨bad, hbad, hf⟩ := samplerStep_stores (hclean h) (hrows' h) hjob hout
      exact stored_of h rfl hf hbad
    · obtain ⟨bad, hbad, hf⟩ := guidance_stores (hclean h) (hrows' h) hjob htu htc hout
      exact stored_of h rfl hf hbad
    · obtain ⟨bad, hbad, hf⟩ := accumulate_stores (hclean h) (hrows' h) hjob hslots hout
      exact stored_of h rfl hf hbad

end Sys2Proof.Machine

/-! O39: OPTIM and REDUCE (R236 to R238, R245). -/

namespace Sys2Proof.Machine

open Sys2Proof Sys2Proof.Terms

variable {s t u : State} {x : KRun} {k : Kernel} {r : Run} {a n m st off : Nat} {b : Bytes} {code : KernelCode} {v : KernelEvent} {job : Ctx}

/-! ## Several writes of a kernel -/

/-- A kernel has written bytes at places, each once, and no other byte. -/
structure Wrote (k : Kernel) (off : Nat) (s t : State) (l : List Nat) (held : List (Nat × Bytes)) : Prop where
  work : KernelWork k off s t
  but : MemBut s t l
  holds : ∀ y ∈ held, Holds t y.1 y.2 ∧ spanLinear y.1 y.2.length ⊆ l

theorem wrote_none (h : Clean s) (k : Kernel) (off : Nat) : Wrote k off s s [] [] :=
  ⟨kernelWork_refl h k off, fun _ _ => rfl, fun _ hy => absurd hy List.not_mem_nil⟩

/-- Further work, on other bytes. -/
theorem wrote_more {l p : List Nat} {held more : List (Nat × Bytes)} (h : Wrote k off s t l held) (hwork : KernelWork k off t u)
    (hbut : MemBut t u p) (honce : (l ++ p).Nodup) (hmore : ∀ y ∈ more, Holds u y.1 y.2 ∧ spanLinear y.1 y.2.length ⊆ p) :
    Wrote k off s u (l ++ p) (held ++ more) := by
  obtain ⟨-, -, hapart⟩ := List.nodup_append'.mp honce
  refine ⟨kernelWork_trans h.work hwork, memBut_trans h.but hbut, fun y hy => ?_⟩
  obtain hy | hy := List.mem_append.mp hy
  · obtain ⟨hholds, hsub⟩ := h.holds y hy
    exact ⟨holds_kept hholds hbut fun z hz => hapart (hsub hz), fun z hz => List.mem_append_left p (hsub hz)⟩
  · obtain ⟨hholds, hsub⟩ := hmore y hy
    exact ⟨hholds, fun z hz => List.mem_append_right l (hsub hz)⟩

theorem wrote_kWrite {o : Nat} {l : List Nat} {held : List (Nat × Bytes)} (h : Wrote k (oCal st + o) s t l held) (ho : o = 0x20 ∨ o = 0x28)
    (hopen : 0 < b.length → spanOpen s a b.length true = true) (honce : (l ++ spanLinear a b.length).Nodup) (jobs : List Nat) :
    Wrote k (oCal st + o) s (kWrite t jobs a b) (l ++ spanLinear a b.length) (held ++ [(a, b)]) := by
  have hclean := h.work.clean
  refine wrote_more h (kernelWork_kWrite hclean _ _ _ _ _) (memBut_kWrite hclean _ _ _) honce fun y hy => ?_
  obtain rfl := List.mem_singleton.mp hy
  exact ⟨holds_kWrite hclean (fun hpos => (spanOpen_work h.work ho _ _ _).trans (hopen hpos)) (List.nodup_append'.mp honce).2.1 jobs,
    List.Subset.refl _⟩

theorem kRow_work (h : KernelWork k off s t) (x : KRun) (y : Tensor) (m : Nat) : kRow t x y m = kRow s x y m := by
  obtain ⟨f, hjobs⟩ := h.jobs
  exact kRowIn_kept hjobs x _ y m

theorem kPutWords_all {ok : List Bool} (h : ok.all id = true) (s : State) (jobs : List Nat) (a : Nat) (ws : List Word) :
    kPutWords s jobs a ws ok = kWrite s jobs a (pack 32 (ws.map (·.toNat))) := kPut_all h _ _ _ _ _

theorem length_words (ws : List Word) : (pack 32 (ws.map (·.toNat))).length = 4 * ws.length := by
  rw [length_pack, List.length_map]
  unfold packedBytes ceilDiv
  omega

/-- Row 0 of an output stored after other writes. -/
theorem wrote_kStore {l : List Nat} {held : List (Nat × Bytes)} (h : Wrote x.k (oCal x.k.stack + 0x28) s t l held) {out : Tensor}
    {vals : List Word} {bad : List Bool} (hbad : bad.all (!·) = true) {data : Bytes}
    (hdata : pack (fmtWidth (outFmt x.k)) (outBits x job vals).1 = data)
    (honce : (l ++ rowLins (kRow s x out 0) data ((scaleTensor x out).map fun y => kRow s x y 0) (outBits x job vals).2.1).Nodup)
    (hopen : Writable s ((kRow s x out 0, data.length) :: (scaleTensor x out).toList.map fun y => (kRow s x y 0, (outBits x job vals).2.1.length))) :
    Wrote x.k (oCal x.k.stack + 0x28) s (kStore x t job out 0 vals bad)
      (l ++ rowLins (kRow s x out 0) data ((scaleTensor x out).map fun y => kRow s x y 0) (outBits x job vals).2.1)
      (held ++ (kRow s x out 0, data) :: (scaleTensor x out).toList.map fun y => (kRow s x y 0, (outBits x job vals).2.1)) := by
  have hrow := kRow_work h.work x
  simp only [← hrow] at honce hopen ⊢
  have hopen' : Writable t ((kRow t x out 0, data.length) :: (scaleTensor x out).toList.map fun y => (kRow t x y 0, (outBits x job vals).2.1.length)) :=
    fun y hy hpos => (spanOpen_work h.work (.inr rfl) _ _ _).trans (hopen y hy hpos)
  obtain ⟨u, hu, hwork, hholds, hholdsz, hbut⟩ := kStore_sound (job := job) (vals := vals) h.work.clean hbad hdata
    (List.nodup_append'.mp honce).2.1 hopen'
  rw [hu]
  refine wrote_more h hwork hbut honce fun y hy => ?_
  obtain rfl | hy := List.mem_cons.mp hy
  · exact ⟨hholds, List.subset_append_left _ _⟩
  · obtain ⟨z, hz, rfl⟩ := List.mem_map.mp hy
    have hz' := Option.mem_toList.mp hz
    refine ⟨hholdsz z hz', ?_⟩
    rw [Option.mem_def.mp hz']
    exact List.subset_append_right _ _

/-- A kernel whose work is done in several writes. -/
theorem wrote_ends (h : KernelRuns code s v x n) (f : KRun → State → State) {l : List Nat} {held : List (Nat × Bytes)}
    (hf : f x { s with out := [] } = u) (hu : Wrote x.k off { s with out := [] } u l held) :
    ∃ t, runKernel code v f s = t ∧ (∀ y ∈ held, Holds t y.1 y.2) ∧ MemBut s t l ∧ RegsBut s t [off] ∧ t.regs = u.regs
      ∧ (x.k.digestLayer = 0xFFFFFFFF → t.ctxs = s.ctxs ∧ t.mirrorSums = s.mirrorSums)
      ∧ t = { s with out := [], mem := t.mem, regs := t.regs, qc := t.qc, ctxs := t.ctxs, mirrorSums := t.mirrorSums, passes := ran s x n } := by
  obtain ⟨t, ht, hmem, hregs, hsame, hsums, hframe⟩ := kernel_ends h f hf hu.work
  exact ⟨t, ht, fun y hy => holds_same (hu.holds y hy).1 hmem,
    fun y hy => (memBut_same hmem (l := []) y List.not_mem_nil).trans (hu.but y hy), hregs, hsame, hsums, hframe⟩

theorem any_of_all_not {l : List Bool} (h : l.all (!·) = true) : ¬l.any id = true := by
  rw [List.any_eq_true]
  rintro ⟨v, hv, hid⟩
  have hno := List.all_eq_true.mp h v hv
  simp only [id] at hid
  rw [hid] at hno
  exact Bool.false_ne_true hno

/-! ## OPTIM -/

/-- The elements of a row of OPTIM as they are read. -/
def optimRow (s : State) (x : KRun) (tw tm tg : Tensor) : List ((KElem × KElem) × (KElem × KElem)) :=
  ((kReadRow s x tw 0 x.k.cols).zip (kReadRow s x tm 0 x.k.cols)).zip
    ((match kTens x 8 with
      | some t => kReadRow s x t 0 x.k.cols
      | none => (kReadRow s x tw 0 x.k.cols).map fun _ => ⟨0, vzero, false⟩).zip (kReadScaled s x tg (kTens x 16) 0 x.k.cols))

/-- The results of a row of OPTIM under a scalar block. -/
def optimResults (s : State) (x : KRun) (tw tm tg : Tensor) (blk : Bytes) : List (Word × Word × Word) :=
  (optimRow s x tw tm tg).map fun ((w, m), (v, g)) =>
    optimStep (kNat x.k 28 1) (fun o => BitVec.ofNat 32 (field blk o 4)) g.v (kWord w) (kWord m) (kWord v)

/-- A row of OPTIM's results written where nothing is poisoned. -/
def optimPut (s : State) (x : KRun) (job : Ctx) (tw tm : Tensor) (res : List (Word × Word × Word)) (bad : List Bool) : State :=
  let s := kWrite s [job.num] (kRow s x tw 0) (pack 32 ((res.map (·.1)).map (·.toNat)))
  let s := kWrite s [job.num] (kRow s x tm 0) (pack 32 ((res.map (·.2.1)).map (·.toNat)))
  let s := match if kNat x.k 28 1 = 0 then kTens x 8 else none with
    | some t => kWrite s [job.num] (kRow s x t 0) (pack 32 ((res.map (·.2.2)).map (·.toNat)))
    | none => s
  match kTens x 20 with
  | some out => kStore x s job out 0 (res.map (·.1)) bad
  | none => s

theorem optim_skips (h : Clean s) {tw tm tg ts : Tensor} (htw : kTens x 0 = some tw) (htm : kTens x 4 = some tm) (htg : kTens x 12 = some tg)
    (hts : kTens x 24 = some ts) (hskip : field (kBytes s (kBase s x 0 ts) 64) 32 4 ≠ 0) : kOptim x s = s := by
  unfold kOptim
  rw [htw, htm, htg, hts]
  dsimp only
  rw [kPoison_clean h]
  exact (if_neg Bool.false_ne_true).trans (if_pos hskip)

theorem optim_puts (h : Clean s) (hrows : x.k.rows = 1) (hjob : kJob s x 0 = some job) {tw tm tg ts : Tensor} (htw : kTens x 0 = some tw)
    (htm : kTens x 4 = some tm) (htg : kTens x 12 = some tg) (hts : kTens x 24 = some ts)
    (hgo : field (kBytes s (kBase s x 0 ts) 64) 32 4 = 0) :
    ∃ bad : List Bool, bad.all (!·) = true
      ∧ kOptim x s = optimPut s x job tw tm (optimResults s x tw tm tg (kBytes s (kBase s x 0 ts) 64)) bad := by
  have hbad : ((optimRow s x tw tm tg).map fun ((w, m), (v, g)) => w.bad || m.bad || v.bad || g.bad).all (!·) = true := by
    refine all_not_map fun y hy => ?_
    obtain ⟨hwm, hvg⟩ := List.of_mem_zip hy
    obtain ⟨hw, hm⟩ := List.of_mem_zip hwm
    obtain ⟨hv, hg⟩ := List.of_mem_zip hvg
    have hv' : y.2.1.bad = false := by
      split at hv
      · exact kRead_clean h _ _ _ _ _ hv
      · obtain ⟨z, -, hz⟩ := List.mem_map.mp hv
        rw [← hz]
    dsimp only
    rw [kRead_clean h _ _ _ _ _ hw, kRead_clean h _ _ _ _ _ hm, hv', kRead_clean h _ _ _ _ _ hg]
    rfl
  have hany : ¬((optimRow s x tw tm tg).map fun ((w, m), (v, g)) => w.bad || m.bad || v.bad || g.bad).any id = true := any_of_all_not hbad
  have hok : (((optimRow s x tw tm tg).map fun ((w, m), (v, g)) => w.bad || m.bad || v.bad || g.bad).map (!·)).all id = true := by
    rw [List.all_map]
    exact hbad
  refine ⟨_, hbad, ?_⟩
  unfold kOptim
  rw [htw, htm, htg, hts]
  dsimp only
  rw [kPoison_clean h, if_neg Bool.false_ne_true, if_neg (not_not.mpr hgo), kRows_one hrows hjob]
  unfold optimPut optimResults
  unfold optimRow at hany hok ⊢
  cases hv : kTens x 8 with
  | none =>
    simp only [hv] at hany hok
    dsimp only
    rw [if_neg hany]
    simp only [kPutWords_all hok, ite_self] <;> rfl
  | some y =>
    simp only [hv] at hany hok
    dsimp only
    rw [if_neg hany]
    by_cases halgo : kNat x.k 28 1 = 0
    · simp only [kPutWords_all hok, if_pos halgo] <;> rfl
    · simp only [kPutWords_all hok, if_neg halgo] <;> rfl

/-- The master and the moments of a row of OPTIM written. -/
def momentsPut (s : State) (x : KRun) (job : Ctx) (tw tm : Tensor) (moment : Option Tensor) (res : List (Word × Word × Word)) : State :=
  let s := kWrite s [job.num] (kRow s x tw 0) (pack 32 ((res.map (·.1)).map (·.toNat)))
  let s := kWrite s [job.num] (kRow s x tm 0) (pack 32 ((res.map (·.2.1)).map (·.toNat)))
  match moment with
  | some t => kWrite s [job.num] (kRow s x t 0) (pack 32 ((res.map (·.2.2)).map (·.toNat)))
  | none => s

/-- The span of a row of words. -/
def wordLins (s : State) (x : KRun) (y : Tensor) (count : Nat) : List Nat := spanLinear (kRow s x y 0) (4 * count)

theorem momentsPut_wrote (h : Clean s) {tw tm : Tensor} {moment : Option Tensor} {res : List (Word × Word × Word)}
    (honce : (wordLins s x tw res.length ++ wordLins s x tm res.length ++ (moment.map fun y => wordLins s x y res.length).getD []).Nodup)
    (hopen : Writable s ((tw :: tm :: moment.toList).map fun y => (kRow s x y 0, 4 * res.length))) :
    Wrote x.k (oCal x.k.stack + 0x28) s (momentsPut s x job tw tm moment res)
      (wordLins s x tw res.length ++ wordLins s x tm res.length ++ (moment.map fun y => wordLins s x y res.length).getD [])
      ((kRow s x tw 0, pack 32 ((res.map (·.1)).map (·.toNat))) :: (kRow s x tm 0, pack 32 ((res.map (·.2.1)).map (·.toNat)))
        :: moment.toList.map fun y => (kRow s x y 0, pack 32 ((res.map (·.2.2)).map (·.toNat)))) := by
  have hlen (f : Word × Word × Word → Word) : (pack 32 ((res.map f).map (·.toNat))).length = 4 * res.length := by
    rw [length_words, List.length_map]
  have hspan (f : Word × Word × Word → Word) (y : Tensor) :
      spanLinear (kRow s x y 0) (pack 32 ((res.map f).map (·.toNat))).length = wordLins s x y res.length := by rw [hlen]; rfl
  have hword (f : Word × Word × Word → Word) {y : Tensor} (hy : y ∈ tw :: tm :: moment.toList) :
      0 < (pack 32 ((res.map f).map (·.toNat))).length → spanOpen s (kRow s x y 0) (pack 32 ((res.map f).map (·.toNat))).length true = true := by
    rw [hlen]
    exact hopen (kRow s x y 0, 4 * res.length) (List.mem_map.mpr ⟨y, hy, rfl⟩)
  have honce' := (List.nodup_append'.mp honce).1
  have hfirst := wrote_kWrite (st := x.k.stack) (o := 0x28) (wrote_none h x.k _) (.inr rfl) (hword (·.1) List.mem_cons_self)
    (by rw [List.nil_append, hspan]; exact (List.nodup_append'.mp honce').1) [job.num]
  rw [hspan, List.nil_append, List.nil_append] at hfirst
  have hsecond := wrote_kWrite hfirst (.inr rfl) (hword (·.2.1) (List.mem_cons_of_mem _ List.mem_cons_self))
    (by rw [hspan]; exact honce') [job.num]
  rw [hspan] at hsecond
  unfold momentsPut
  dsimp only
  rw [kRow_work hfirst.work x tm]
  cases moment with
  | none =>
    rw [Option.map_none, Option.getD_none, List.append_nil]
    exact hsecond
  | some y =>
    dsimp only
    rw [kRow_work hsecond.work x y]
    have hthird := wrote_kWrite hsecond (.inr rfl) (hword (·.2.2) (y := y) (by simp)) (by rw [hspan]; exact honce) [job.num]
    rw [hspan] at hthird
    exact hthird

/-- The places of a row's scales. -/
def outScales (x : KRun) (out : Option Tensor) : Option Tensor := out.bind (scaleTensor x)

theorem outScales_eq (x : KRun) (out : Option Tensor) :
    outScales x out = if outScaled x.k then out.bind fun y => tensorGet x.run.img (y.id + 1) else none := by
  unfold outScales scaleTensor
  cases out with
  | none => rw [Option.bind_none, Option.bind_none, ite_self]
  | some y => rfl

/-- All that a row of OPTIM writes. -/
theorem optimPut_wrote (h : Clean s) {tw tm : Tensor} {moment out : Option Tensor} {res : List (Word × Word × Word)} {bad : List Bool}
    (hbad : bad.all (!·) = true) (hmoment : (if kNat x.k 28 1 = 0 then kTens x 8 else none) = moment) (hout : kTens x 20 = out)
    {data : Bytes} (hdata : pack (fmtWidth (outFmt x.k)) (outBits x job (res.map (·.1))).1 = data)
    (honce : (wordLins s x tw res.length ++ wordLins s x tm res.length ++ (moment.map fun y => wordLins s x y res.length).getD []
      ++ (out.map fun y => spanLinear (kRow s x y 0) data.length).getD []
      ++ ((outScales x out).map fun y => spanLinear (kRow s x y 0) (outBits x job (res.map (·.1))).2.1.length).getD []).Nodup)
    (hopen : Writable s ((tw :: tm :: moment.toList).map (fun y => (kRow s x y 0, 4 * res.length))
      ++ out.toList.map (fun y => (kRow s x y 0, data.length))
      ++ (outScales x out).toList.map fun y => (kRow s x y 0, (outBits x job (res.map (·.1))).2.1.length))) :
    Wrote x.k (oCal x.k.stack + 0x28) s (optimPut s x job tw tm res bad)
      (wordLins s x tw res.length ++ wordLins s x tm res.length ++ (moment.map fun y => wordLins s x y res.length).getD []
        ++ (out.map fun y => spanLinear (kRow s x y 0) data.length).getD []
        ++ ((outScales x out).map fun y => spanLinear (kRow s x y 0) (outBits x job (res.map (·.1))).2.1.length).getD [])
      (((kRow s x tw 0, pack 32 ((res.map (·.1)).map (·.toNat))) :: (kRow s x tm 0, pack 32 ((res.map (·.2.1)).map (·.toNat)))
          :: moment.toList.map fun y => (kRow s x y 0, pack 32 ((res.map (·.2.2)).map (·.toNat))))
        ++ (out.toList.map (fun y => (kRow s x y 0, data))
          ++ (outScales x out).toList.map fun y => (kRow s x y 0, (outBits x job (res.map (·.1))).2.1))) := by
  have hmoments : Writable s ((tw :: tm :: moment.toList).map fun y => (kRow s x y 0, 4 * res.length)) :=
    fun y hy => hopen y (List.mem_append_left _ (List.mem_append_left _ hy))
  cases out with
  | none =>
    have hput : optimPut s x job tw tm res bad = momentsPut s x job tw tm moment res := by
      unfold optimPut momentsPut
      rw [hmoment, hout]
    have hnone : outScales x none = none := rfl
    rw [hput]
    simp only [hnone, Option.map_none, Option.getD_none, Option.toList_none, List.map_nil, List.append_nil] at honce ⊢
    exact momentsPut_wrote h honce hmoments
  | some y =>
    have hput : optimPut s x job tw tm res bad = kStore x (momentsPut s x job tw tm moment res) job y 0 (res.map (·.1)) bad := by
      unfold optimPut momentsPut
      rw [hmoment, hout]
    have hlins (l : List Nat) : l ++ ((some y).map fun y => spanLinear (kRow s x y 0) data.length).getD []
          ++ ((outScales x (some y)).map fun y => spanLinear (kRow s x y 0) (outBits x job (res.map (·.1))).2.1.length).getD []
        = l ++ rowLins (kRow s x y 0) data ((scaleTensor x y).map fun y => kRow s x y 0) (outBits x job (res.map (·.1))).2.1 := by
      rw [List.append_assoc]
      unfold rowLins
      cases hz : scaleTensor x y with
      | none => simp only [outScales, Option.bind_some, hz]; rfl
      | some z => simp only [outScales, Option.bind_some, hz]; rfl
    rw [hlins] at honce
    rw [hput, hlins]
    exact wrote_kStore (momentsPut_wrote h (List.nodup_append'.mp honce).1 hmoments) hbad hdata honce fun z hz =>
      hopen z (by
        rw [List.append_assoc]
        exact List.mem_append_right _ hz)

/-- The results of a row, from the values that are read. -/
theorem optimResults_eq (s : State) (x : KRun) (tw tm tg : Tensor) (blk : Bytes) :
    optimResults s x tw tm tg blk
      = ((((kReadRow s x tw 0 x.k.cols).map kWord).zip ((kReadRow s x tm 0 x.k.cols).map kWord)).zip
          ((match kTens x 8 with
            | some t => (kReadRow s x t 0 x.k.cols).map kWord
            | none => List.replicate x.k.cols 0).zip ((kReadScaled s x tg (kTens x 16) 0 x.k.cols).map KElem.v))).map
        fun ((w, m), (u, g)) => optimStep (kNat x.k 28 1) (fun o => BitVec.ofNat 32 (field blk o 4)) g w m u := by
  have hzero : kWord ⟨0, vzero, false⟩ = 0 := by decide
  have hlen : (kReadRow s x tw 0 x.k.cols).length = x.k.cols := by
    unfold kReadRow kRead
    rw [List.length_map, List.length_range]
  have hzip (ws ms vs gs : List KElem) : ((ws.zip ms).zip (vs.zip gs)).map (fun ((w, m), (v, g)) =>
        optimStep (kNat x.k 28 1) (fun o => BitVec.ofNat 32 (field blk o 4)) g.v (kWord w) (kWord m) (kWord v))
      = (((ws.map kWord).zip (ms.map kWord)).zip ((vs.map kWord).zip (gs.map KElem.v))).map
        fun ((w, m), (u, g)) => optimStep (kNat x.k 28 1) (fun o => BitVec.ofNat 32 (field blk o 4)) g w m u := by
    simp only [List.zip_map, List.map_map]
    rfl
  unfold optimResults optimRow
  cases kTens x 8 with
  | none =>
    have hnone : List.replicate x.k.cols (0 : Word) = ((kReadRow s x tw 0 x.k.cols).map fun _ => (⟨0, vzero, false⟩ : KElem)).map kWord := by
      rw [List.map_const', List.map_replicate, hlen, hzero]
    dsimp only
    rw [hnone]
    exact hzip _ _ _ _
  | some y => exact hzip _ _ _ _

theorem length_kRead (s : State) (fmt a n : Nat) (z : Option Nat) : (kRead s fmt a n z).length = n := by
  unfold kRead
  rw [List.length_map, List.length_range]

theorem length_optimResults (s : State) (x : KRun) (tw tm tg : Tensor) (blk : Bytes) : (optimResults s x tw tm tg blk).length = x.k.cols := by
  have hread (y : Tensor) : (kReadRow s x y 0 x.k.cols).length = x.k.cols := length_kRead _ _ _ _ _
  have hgrad : (kReadScaled s x tg (kTens x 16) 0 x.k.cols).length = x.k.cols := length_kRead _ _ _ _ _
  unfold optimResults optimRow
  cases kTens x 8 with
  | none => simp only [List.length_map, List.length_zip, hread, hgrad, min_self]
  | some y => simp only [List.length_map, List.length_zip, hread, hgrad, min_self]

/-- A kernel that changes nothing but its place in its pass. -/
theorem kernel_idle (h : KernelRuns code s v x n) (f : KRun → State → State) (hf : f x { s with out := [] } = { s with out := [] }) :
    runKernel code v f s = { s with out := [], passes := ran s x n } := by
  have hkernel : v.kernel.stack = x.k.stack := by rw [kernelRun_kernel h.runs]
  rw [runKernel_sound h, hf, hkernel]
  rfl

/-! ## REDUCE -/

/-- The fold of a row of REDUCE is written where nothing is poisoned. -/
theorem reduceRow_puts (h : Clean s) (hrows : x.k.rows = 1) (hjob : kJob s x 0 = some job) {tin out : Tensor} (htin : kTens x 0 = some tin)
    (hout : kTens x 8 = some out) (halong : kNat x.k 13 1 = 0) :
    kReduce x s = kWrite s [job.num] (kRow s x out 0)
      (pack 32 [(reduceRow (kNat x.k 12 1) ((kReadScaled s x tin (kTens x 4) 0 x.k.cols).map KElem.v)).toNat]) := by
  have hbad : ¬(kReadScaled s x tin (kTens x 4) 0 x.k.cols).any (·.bad) = true := by
    rw [List.any_eq_true]
    rintro ⟨y, hy, hyes⟩
    rw [kRead_clean h _ _ _ _ y hy] at hyes
    exact Bool.false_ne_true hyes
  unfold kReduce
  rw [htin, hout]
  dsimp only
  rw [if_pos halong]
  unfold kReduceRows
  rw [kRows_one hrows hjob]
  dsimp only
  rw [if_neg hbad]
  exact kPutWords_all rfl _ _ _ _

/-- The fold of a column over the rows of slot 0. -/
def columnFold (s : State) (x : KRun) (tin : Tensor) (n : Nat) : Word :=
  (List.range x.k.rows).foldl (fun a m =>
    redStep (kNat x.k 12 1) a ((kReadScaled s x tin (kTens x 4) m x.k.cols).getD n ⟨0, vzero, false⟩).v) (redInit (kNat x.k 12 1))

/-- Folds over rows without poison, column by column. -/
theorem foldl_columns (h : Clean s) (x : KRun) (tin : Tensor) (l : List Nat) (acc : Nat → Word) :
    l.foldl (fun acc m => (acc.zip (kReadScaled s x tin (kTens x 4) m x.k.cols)).map fun ((a, b), e) =>
        (redStep (kNat x.k 12 1) a e.v, b || e.bad)) ((List.range x.k.cols).map fun n => (acc n, false))
      = (List.range x.k.cols).map fun n => (l.foldl (fun a m =>
        redStep (kNat x.k 12 1) a ((kReadScaled s x tin (kTens x 4) m x.k.cols).getD n ⟨0, vzero, false⟩).v) (acc n), false) := by
  induction l generalizing acc with
  | nil => rfl
  | cons m l ih =>
    have hstep : (((List.range x.k.cols).map fun n => (acc n, false)).zip (kReadScaled s x tin (kTens x 4) m x.k.cols)).map
          (fun ((a, b), e) => (redStep (kNat x.k 12 1) a e.v, b || e.bad))
        = (List.range x.k.cols).map fun n =>
          (redStep (kNat x.k 12 1) (acc n) ((kReadScaled s x tin (kTens x 4) m x.k.cols).getD n ⟨0, vzero, false⟩).v, false) := by
      have hlen : (kReadScaled s x tin (kTens x 4) m x.k.cols).length = x.k.cols := length_kRead _ _ _ _ _
      apply List.ext_getElem
      · rw [List.length_map, List.length_zip, hlen, List.length_map, List.length_map, List.length_range, min_self]
      · intro i hi _
        have hi' : i < (kReadScaled s x tin (kTens x 4) m x.k.cols).length := by
          rw [List.length_map, List.length_zip] at hi
          omega
        have hbad := kRead_clean h _ _ _ _ _ (List.getElem_mem hi')
        simp only [List.getElem_map, List.getElem_zip, List.getElem_range, List.getD_eq_getElem _ _ hi', Bool.false_or]
        exact congrArg (Prod.mk _) hbad
    rw [List.foldl_cons, hstep, ih]
    rfl

theorem kSlot_first {k : Kernel} {m : Nat} (h : k.slotRows = 0 ∨ m < k.slotRows) : kSlot k m = 0 := by
  unfold kSlot
  split
  · rfl
  · exact Nat.div_eq_of_lt (by omega)

/-- The folds of the columns of slot 0 are written where nothing is poisoned. -/
theorem reduceCols_puts (h : Clean s) (hjob : kJob s x 0 = some job) {tin out : Tensor} (htin : kTens x 0 = some tin)
    (hout : kTens x 8 = some out) (hacross : kNat x.k 13 1 = 1) (hslots : x.k.slotRows = 0 ∨ (0 < x.k.rows ∧ x.k.rows ≤ x.k.slotRows)) :
    kReduce x s = kWrite s [job.num] (kBase s x 0 out) (pack 32 ((List.range x.k.cols).map fun n => (columnFold s x tin n).toNat)) := by
  have hone : (if x.k.slotRows = 0 then 1 else ceilDiv x.k.rows x.k.slotRows) = 1 := by
    split
    · rfl
    next hsome =>
      obtain ⟨hpos, hle⟩ := hslots.resolve_left hsome
      unfold ceilDiv
      exact Nat.div_eq_of_lt_le (by omega) (by omega)
  have hslot (m : Nat) (hm : m < x.k.rows ∨ m = 0) : kSlot x.k m = 0 := kSlot_first (by omega)
  have hjob' : jobOf s x.run 0 = some job := by
    rw [← hslot 0 (.inr rfl)]
    exact hjob
  have hall : ((List.range x.k.rows).filter fun m => kSlot x.k m == 0) = List.range x.k.rows :=
    List.filter_eq_self.mpr fun m hm => by rw [hslot m (.inl (List.mem_range.mp hm))]; rfl
  have hinit : List.replicate x.k.cols (redInit (kNat x.k 12 1), false) = (List.range x.k.cols).map fun _ => (redInit (kNat x.k 12 1), false) := by
    rw [List.map_const', List.length_range]
  have hplace (m : Nat) (hm : m = 0) : kRowIn s x 0 out m = kBase s x 0 out := by
    rw [hm, kRowIn, Nat.zero_mul, Nat.add_zero]
  have hfold := foldl_columns h x tin (List.range x.k.rows) fun _ => redInit (kNat x.k 12 1)
  change _ = (List.range x.k.cols).map (fun n => (columnFold s x tin n, false)) at hfold
  have hany : ¬(((List.range x.k.cols).map fun n => (columnFold s x tin n, false)).any (·.2)) = true := by simp
  unfold kReduce
  rw [htin, hout]
  dsimp only
  rw [if_neg (by rw [hacross]; decide), hone, List.range_one, List.foldl_cons, List.foldl_nil]
  unfold kReduceCols
  rw [hjob']
  dsimp only
  rw [hall, hinit, hfold, if_neg hany, ite_self, hplace _ rfl, kPutWords_all (by simp), List.map_map, List.map_map]
  rfl

/-- A kernel whose work is one write. -/
theorem kernel_writes (h : KernelRuns code s v x n) (f : KRun → State → State) {jobs : List Nat}
    (hf : f x { s with out := [] } = kWrite { s with out := [] } jobs a b) {count : Nat} (hlen : b.length = count)
    (honce : (spanLinear a count).Nodup) (hopen : Writable s [(a, count)]) :
    ∃ t, runKernel code v f s = t ∧ Holds t a b ∧ MemBut s t (spanLinear a count)
      ∧ t = { s with out := [], mem := t.mem, qc := t.qc, passes := ran s x n } := by
  subst hlen
  have hkernel : v.kernel.stack = x.k.stack := by rw [kernelRun_kernel h.runs]
  have hclean : Clean { s with out := [] } := ⟨h.canon.mem, h.clean.1, h.clean.2.1⟩
  have hholds := holds_kWrite hclean (hopen (a, b.length) List.mem_cons_self) honce jobs
  obtain ⟨g, q, hwrite, -, hbut⟩ := kWrite_any hclean jobs a b
  rw [hwrite] at hf hholds hbut
  refine ⟨{ s with out := [], mem := g, qc := q, passes := ran s x n }, ?_, hholds, hbut, rfl⟩
  rw [runKernel_sound h, hf, hkernel]
  rfl

/-- Settles O39: the writes of a row of OPTIM, and of the folds of REDUCE. -/
theorem optimAndReduceStoreTheirResults : Obligations.OptimAndReduceStoreTheirResults := by
  unfold Obligations.OptimAndReduceStoreTheirResults
  intro s v x n job hjob
  have hclean {code : KernelCode} (h : KernelRuns code s v x n) : Clean { s with out := [] } := ⟨h.canon.mem, h.clean.1, h.clean.2.1⟩
  have hrows {code : KernelCode} (h : KernelRuns code s v x n) : x.k.rows = v.kernel.rows := by rw [kernelRun_kernel h.runs]
  refine ⟨fun tw tm tg ts h htw htm htg hts => ?_, fun tin out h htin hout => ?_⟩
  · intro blk
    refine ⟨fun hskip => ?_, fun hgo hone => ?_⟩
    · exact congrArg Host.Outcome.next (kernel_idle h kOptim (optim_skips (hclean h) htw htm htg hts hskip))
    · intro algo moment rv els res lins bits data out scales all honce hopen
      obtain ⟨bad, hbad, hf⟩ := optim_puts (hclean h) ((hrows h).trans hone) hjob htw htm htg hts hgo
      have hres : res = optimResults { s with out := [] } x tw tm tg blk := (optimResults_eq s x tw tm tg blk).symm
      have hlen : res.length = x.k.cols := by rw [hres]; exact length_optimResults _ _ _ _ _ _
      have hf' : kOptim x { s with out := [] } = optimPut { s with out := [] } x job tw tm res bad := by rw [hres]; exact hf
      have hwrote := optimPut_wrote (s := { s with out := [] }) (x := x) (job := job) (tw := tw) (tm := tm) (moment := moment) (out := out)
        (res := res) (bad := bad) (data := data) (hclean h) hbad rfl rfl rfl
      have hscales : outScales x out = scales := outScales_eq x out
      rw [hlen, hscales] at hwrote
      obtain ⟨t, ht, hholds, hbut, hregs, -, hsums, hframe⟩ := wrote_ends h kOptim hf' (hwrote honce hopen)
      refine ⟨t, congrArg Host.Outcome.next ht, ?_, ?_, fun y hy => ?_, fun y hy => ?_, fun y hy => ?_, hbut, hregs, hsums, hframe⟩
      · have hmaster := hholds _ (List.mem_append_left _ List.mem_cons_self)
        rw [List.map_map] at hmaster
        exact hmaster
      · have hfirst := hholds _ (List.mem_append_left _ (List.mem_cons_of_mem _ List.mem_cons_self))
        rw [List.map_map] at hfirst
        exact hfirst
      · have hsecond := hholds _ (List.mem_append_left _ (List.mem_cons_of_mem _ (List.mem_cons_of_mem _
          (List.mem_map.mpr ⟨y, Option.mem_toList.mpr hy, rfl⟩))))
        rw [List.map_map] at hsecond
        exact hsecond
      · exact hholds _ (List.mem_append_right _ (List.mem_append_left _ (List.mem_map.mpr ⟨y, Option.mem_toList.mpr hy, rfl⟩)))
      · exact hholds _ (List.mem_append_right _ (List.mem_append_right _ (List.mem_map.mpr ⟨y, Option.mem_toList.mpr hy, rfl⟩)))
  · refine ⟨fun halong hone honce hopen => ?_, fun hacross hslots honce hopen => ?_⟩
    · obtain ⟨t, ht, hspec⟩ := kernel_writes (a := kRow s x out 0) h kReduce
        (reduceRow_puts (hclean h) ((hrows h).trans hone) hjob htin hout halong) (length_words [_] : _ = 4) honce hopen
      exact ⟨t, congrArg Host.Outcome.next ht, hspec⟩
    · obtain ⟨t, ht, hspec⟩ := kernel_writes (a := kBase s x 0 out) h kReduce (reduceCols_puts (hclean h) hjob htin hout hacross hslots)
        ((length_pack _ _).trans (by rw [List.length_map, List.length_range]; unfold packedBytes ceilDiv; omega)) honce hopen
      exact ⟨t, congrArg Host.Outcome.next ht, hspec⟩

end Sys2Proof.Machine

/-! O41: GATHER and SCATTER in their index form (R241, R250). -/

namespace Sys2Proof.Machine

open Sys2Proof Sys2Proof.Terms

variable {s t u : State} {x : KRun} {a n m : Nat} {b : Bytes} {code : KernelCode} {v : KernelEvent} {job : Ctx}

/-- Whether an index names no row of a table. -/
def indexLost (x : KRun) (table : Tensor) (k : Nat) : Bool := k != 0xFFFFFFFF && !holdsRow table x.k.cols k

/-- A kernel's index that is out of range, counted. -/
def indexCounted (s : State) (x : KRun) (lost : Bool) : State := if lost then indexRange s x.k.stack else s

/-- The work of GATHER's index form on one row without poison. -/
theorem gather_puts (h : Clean s) (hrows : x.k.rows = 1) (hjob : kJob s x 0 = some job) {table index out : Tensor} (htable : kTens x 4 = some table)
    (hindex : kTens x 8 = some index) (hout : kTens x 12 = some out) {k : Nat} (hk : leNat (kBytes s (kRow s x index 0) 4) = k) :
    kGather x s = kWrite (indexCounted s x (indexLost x table k)) [job.num] (kRow s x out 0)
      (if k = 0xFFFFFFFF ∨ indexLost x table k = true then List.replicate (rowBytes out.fmt x.k.cols) 0
        else kBytes s (kRowIn s x 0 table k) (rowBytes out.fmt x.k.cols)) := by
  have hslot : kSlot x.k 0 = 0 := kSlot_first (by omega)
  unfold kGather indexAt
  rw [htable, hindex, hout]
  dsimp only
  rw [kRows_one hrows hjob, hk, hslot]
  simp only [kPoison_clean h, Bool.false_eq_true, if_false]
  unfold indexCounted indexLost
  by_cases hnone : k = 0xFFFFFFFF
  · simp [hnone]
  · by_cases hrow : holdsRow table x.k.cols k = true
    · simp [hnone, hrow]
    · simp [hnone, hrow]

/-- The work of SCATTER's index form on one row without poison. -/
theorem scatter_puts (h : Clean s) (hrows : x.k.rows = 1) (hjob : kJob s x 0 = some job) {table index src : Tensor} (htable : kTens x 4 = some table)
    (hindex : kTens x 8 = some index) (hsrc : kTens x 12 = some src) {k : Nat} (hk : leNat (kBytes s (kRow s x index 0) 4) = k) :
    kScatter x s = if k = 0xFFFFFFFF ∨ indexLost x table k = true then indexCounted s x (indexLost x table k)
      else kWrite s [job.num] (kRowIn s x 0 table k) (kBytes s (kRow s x src 0) (rowBytes src.fmt x.k.cols)) := by
  have hslot : kSlot x.k 0 = 0 := kSlot_first (by omega)
  unfold kScatter indexAt
  rw [htable, hindex, hsrc]
  dsimp only
  rw [kRows_one hrows hjob, hk, hslot]
  simp only [kPoison_clean h, Bool.false_eq_true, if_false]
  unfold indexCounted indexLost
  by_cases hnone : k = 0xFFFFFFFF
  · simp [hnone]
  · by_cases hrow : holdsRow table x.k.cols k = true
    · simp [hnone, hrow]
    · simp [hnone, hrow]

theorem length_kBytes (s : State) (a n : Nat) : (kBytes s a n).length = n := by
  unfold kBytes
  split
  · rw [List.length_map, spanLinear_length]
  · exact List.length_replicate

/-- An index counted, as a kernel's work. -/
theorem kernelWork_indexCounted (h : Clean s) (x : KRun) (lost : Bool) : KernelWork x.k (oCal x.k.stack + 0x20) s (indexCounted s x lost) := by
  unfold indexCounted
  split
  · exact kernelWork_regCount h _ _ _ _ _
  · exact kernelWork_refl h _ _

theorem indexCounted_spec (h : swf resetWord s.regs = true) (x : KRun) (lost : Bool) :
    indexCounted s x lost = { s with regs := (indexCounted s x lost).regs }
      ∧ regF (indexCounted s x lost) (oCal x.k.stack + 0x20) 31 16
        = if lost = true then min 65535 (regF s (oCal x.k.stack + 0x20) 31 16 + 1) else regF s (oCal x.k.stack + 0x20) 31 16 := by
  unfold indexCounted
  split
  · exact ⟨rfl, regF_regCount_same h _ 1 (by decide) (by decide)⟩
  · exact ⟨rfl, rfl⟩

/-- An index form's end: its write, if any, after its index has been counted. -/
theorem index_ends (h : KernelRuns code s v x n) (f : KRun → State → State) (lost : Bool) {jobs : List Nat}
    (hf : f x { s with out := [] } = kWrite (indexCounted { s with out := [] } x lost) jobs a b) {count : Nat} (hlen : b.length = count)
    (honce : (spanLinear a count).Nodup) (hopen : 0 < count → spanOpen s a count true = true) :
    ∃ t, runKernel code v f s = t ∧ Holds t a b ∧ MemBut s t (spanLinear a count)
      ∧ regF t (oCal x.k.stack + 0x20) 31 16
        = (if lost = true then min 65535 (regF s (oCal x.k.stack + 0x20) 31 16 + 1) else regF s (oCal x.k.stack + 0x20) 31 16)
      ∧ RegsBut s t [oCal x.k.stack + 0x20]
      ∧ t = { s with out := [], mem := t.mem, regs := t.regs, qc := t.qc, passes := ran s x n } := by
  subst hlen
  have hkernel : v.kernel.stack = x.k.stack := by rw [kernelRun_kernel h.runs]
  have hclean : Clean { s with out := [] } := ⟨h.canon.mem, h.clean.1, h.clean.2.1⟩
  have hwork := kernelWork_indexCounted hclean x lost
  obtain ⟨hframe, hcount⟩ := indexCounted_spec (s := { s with out := [] }) h.canon.regs x lost
  generalize indexCounted { s with out := [] } x lost = w at hf hwork hframe hcount
  have hholds := holds_kWrite hwork.clean (fun hpos => (spanOpen_work hwork (.inl rfl) a b.length true).trans (hopen hpos)) honce jobs
  obtain ⟨g, q, hwrite, -, hbut⟩ := kWrite_any hwork.clean jobs a b
  rw [hwrite] at hf hholds hbut
  refine ⟨{ s with out := [], mem := g, regs := w.regs, qc := q, passes := ran s x n }, ?_, hholds, fun y hy => (hbut y hy).trans ?_, hcount,
    hwork.regs, rfl⟩
  · rw [runKernel_sound h, hf, hkernel, hframe]
    rfl
  · rw [hframe]
    rfl

/-- An index form's end without a write. -/
theorem index_idle (h : KernelRuns code s v x n) (f : KRun → State → State) (lost : Bool)
    (hf : f x { s with out := [] } = indexCounted { s with out := [] } x lost) :
    ∃ t, runKernel code v f s = t ∧ t.mem = s.mem
      ∧ regF t (oCal x.k.stack + 0x20) 31 16
        = (if lost = true then min 65535 (regF s (oCal x.k.stack + 0x20) 31 16 + 1) else regF s (oCal x.k.stack + 0x20) 31 16)
      ∧ RegsBut s t [oCal x.k.stack + 0x20]
      ∧ t = { s with out := [], mem := t.mem, regs := t.regs, qc := t.qc, passes := ran s x n } := by
  have hkernel : v.kernel.stack = x.k.stack := by rw [kernelRun_kernel h.runs]
  have hclean : Clean { s with out := [] } := ⟨h.canon.mem, h.clean.1, h.clean.2.1⟩
  have hwork := kernelWork_indexCounted hclean x lost
  obtain ⟨hframe, hcount⟩ := indexCounted_spec (s := { s with out := [] }) h.canon.regs x lost
  generalize indexCounted { s with out := [] } x lost = w at hf hwork hframe hcount
  refine ⟨{ s with out := [], regs := w.regs, passes := ran s x n }, ?_, rfl, hcount, hwork.regs, rfl⟩
  rw [runKernel_sound h, hf, hkernel, hframe]
  rfl

/-- Settles O41: the work of the two index forms, by whether the index names a row. -/
theorem indexKernelsMoveRows : Obligations.IndexKernelsMoveRows := by
  unfold Obligations.IndexKernelsMoveRows
  intro s v x m job table index other hjob hform hone htable hindex hother k n a b lost Counted
  have hclean {code : KernelCode} (h : KernelRuns code s v x m) : Clean { s with out := [] } := ⟨h.canon.mem, h.clean.1, h.clean.2.1⟩
  have hrows {code : KernelCode} (h : KernelRuns code s v x m) : x.k.rows = 1 := by rw [kernelRun_kernel h.runs, hone]
  refine ⟨fun h honce hopen => ?_, fun h honce hopen => ?_⟩
  · have hexec : exec (.gather v) s = .next (runKernel .gather v kGather s) := congrArg Host.Outcome.next (if_neg (not_not.mpr hform))
    obtain ⟨t, ht, hspec⟩ := index_ends h kGather lost (gather_puts (hclean h) (hrows h) hjob htable hindex hother rfl) (count := n)
      (by split; exacts [List.length_replicate, length_kBytes _ _ _]) honce
      (hopen (a, n) List.mem_cons_self)
    exact ⟨t, by rw [hexec, ht], hspec⟩
  · have hexec : exec (.scatter v) s = .next (runKernel .scatter v kScatter s) := congrArg Host.Outcome.next (if_neg (not_not.mpr hform))
    have hf := scatter_puts (hclean h) (hrows h) hjob htable hindex hother rfl
    by_cases hnone : k = 0xFFFFFFFF ∨ lost = true
    · obtain ⟨t, ht, hmem, hspec⟩ := index_idle h kScatter lost (hf.trans (if_pos hnone))
      refine ⟨t, by rw [hexec, ht], ?_, hspec⟩
      rw [if_pos hnone]
      exact hmem
    · have hfound : lost = false := by
        rw [← Bool.not_eq_true]
        exact fun hlost => hnone (.inr hlost)
      obtain ⟨t, ht, hholds, hbut, hspec⟩ := index_ends h kScatter false (hf.trans (if_neg hnone)) (length_kBytes _ _ _) honce
        (hopen (b, n) List.mem_cons_self)
      refine ⟨t, by rw [hexec, ht], ?_, ?_⟩
      · rw [if_neg hnone]
        exact ⟨hholds, hbut⟩
      · rw [← hfound] at hspec
        exact hspec

end Sys2Proof.Machine

/-! O40: QUANTISE_DEFERRED and TRANSPOSE (R164, R239, R240). -/

namespace Sys2Proof.Machine

open Sys2Proof Sys2Proof.Terms

variable {s t u : State} {x : KRun} {k : Kernel} {a n m off : Nat} {b : Bytes} {code : KernelCode} {v : KernelEvent} {job : Ctx}

/-! ## QUANTISE_DEFERRED -/

/-- The values of a row of QUANTISE_DEFERRED. -/
def quantValues (s : State) (x : KRun) (o : OpRec) (td : Tensor) : List Word :=
  (kReadRow s x td 0 x.k.cols).map kWord ++ List.replicate (npadOf o - x.k.cols) 0

/-- The scale that the maxima of the row's parts give. -/
def quantCode (s : State) (x : KRun) (o : OpRec) (tp : Tensor) : Byte :=
  scaleCode o.dFmt ((kRead s 0 (kRow s x tp 0) (ceilDiv (npadOf o) o.tileN) none).map kWord)

theorem quantise_stores (h : Clean s) (hrows : x.k.rows = 1) (hjob : kJob s x 0 = some job) {o : OpRec} {tp out td : Tensor}
    (hop : opOf x.run.img (kNat x.k 0 2) = some o) (htp : kTens x 4 = some tp) (hout : kTens x 8 = some out)
    (htd : tensorGet x.run.img o.tensorD = some td) :
    ∃ bad : List Bool, ∃ valid, bad.all (!·) = true
      ∧ kQuantise x s = kStoreRow x (storeOf x.run.img o) (List.replicate (ceilDiv (npadOf o) 32) (quantCode s x o tp)) s job (kRow s x out 0)
          ((kTens x 12).map fun z => kRow s x z 0) (fun n => kLogical x.k 0 * x.k.cols + n) valid (quantValues s x o td) bad := by
  have hmax : ¬(kRead s 0 (kRow s x tp 0) (ceilDiv (npadOf o) o.tileN) none).any (·.bad) = true := by
    rw [List.any_eq_true]
    rintro ⟨y, hy, hyes⟩
    rw [kRead_clean h _ _ _ _ y hy] at hyes
    exact Bool.false_ne_true hyes
  have hrow : ¬(kReadRow s x td 0 x.k.cols).any (·.bad) = true := by
    rw [List.any_eq_true]
    rintro ⟨y, hy, hyes⟩
    rw [kRead_clean h _ _ _ _ y hy] at hyes
    exact Bool.false_ne_true hyes
  rw [Bool.not_eq_true] at hmax hrow
  refine ⟨(quantValues s x o td).map fun _ => false, fun n => decide (n < o.n) && decide (kLogical x.k 0 < o.m), all_not_map fun _ _ => rfl, ?_⟩
  unfold kQuantise
  rw [hop, htp, hout]
  dsimp only
  rw [htd]
  dsimp only
  rw [kRows_one hrows hjob, hmax, hrow]
  rfl

/-- A kernel whose work is to store row 0 of a tensor under an operation's settings. -/
theorem kernel_stores_row (h : KernelRuns code s v x n) (f : KRun → State → State) {st : Store} {scales : List Byte} {z : Option Nat}
    {index : Nat → Nat} {valid : Nat → Bool} {vals : List Word} {bad : List Bool}
    (hf : f x { s with out := [] } = kStoreRow x st scales { s with out := [] } job a z index valid vals bad) (hbad : bad.all (!·) = true)
    {row : List Nat × List Byte × Nat}
    (hrow : storeRow st (fun t => opalRound (opalOf job) x.k.opalTensor st.sr3 (index t)) scales vals = row)
    {data : Bytes} (hdata : pack (fmtWidth st.fmt) row.1 = data) {zs : Option Nat} (hz : (if st.scaled then z else none) = zs)
    (honce : (rowLins a data zs row.2.1).Nodup) (hopen : 0 < data.length → spanOpen s a data.length true = true)
    (hopenz : ∀ y, zs = some y → 0 < row.2.1.length → spanOpen s y row.2.1.length true = true) :
    ∃ t, runKernel code v f s = t ∧ Holds t a data ∧ (∀ y, zs = some y → Holds t y row.2.1) ∧ MemBut s t (rowLins a data zs row.2.1)
      ∧ RegsBut s t [oCal x.k.stack + 0x28] ∧ (x.k.digestLayer = 0xFFFFFFFF → t.ctxs = s.ctxs ∧ t.mirrorSums = s.mirrorSums)
      ∧ t = { s with out := [], mem := t.mem, regs := t.regs, qc := t.qc, ctxs := t.ctxs, mirrorSums := t.mirrorSums, passes := ran s x n } := by
  have hclean : Clean { s with out := [] } := ⟨h.canon.mem, h.clean.1, h.clean.2.1⟩
  obtain ⟨u, hu, hwork, hholds, hholdsz, hbut⟩ := kStoreRow_sound (s := { s with out := [] }) hclean hbad hrow hdata hz honce hopen hopenz valid
  obtain ⟨t, ht, hmem, hregs, -, hsums, hframe⟩ := kernel_ends h f (hf.trans hu) hwork
  exact ⟨t, ht, holds_same hholds hmem, fun y hy => holds_same (hholdsz y hy) hmem,
    fun y hy => (memBut_same hmem (l := []) y List.not_mem_nil).trans (hbut y hy), hregs, hsums, hframe⟩

/-! ## Writes within a row -/

/-- A kernel's work that writes within some bytes. -/
structure Within (k : Kernel) (off : Nat) (l : List Nat) (s t : State) : Prop where
  work : KernelWork k off s t
  but : MemBut s t l

theorem within_refl (h : Clean s) (k : Kernel) (off : Nat) (l : List Nat) : Within k off l s s := ⟨kernelWork_refl h k off, fun _ _ => rfl⟩

theorem within_trans {l : List Nat} (hst : Within k off l s t) (htu : Within k off l t u) : Within k off l s u :=
  ⟨kernelWork_trans hst.work htu.work, fun y hy => (htu.but y hy).trans (hst.but y hy)⟩

theorem within_more {l p : List Nat} (h : Within k off l s t) (hl : l ⊆ p) : Within k off p s t :=
  ⟨h.work, fun y hy => h.but y fun hyl => hy (hl hyl)⟩

theorem within_quiet (h : KernelWork k off s t) (hmem : t.mem = s.mem) (l : List Nat) : Within k off l s t := ⟨h, memBut_same hmem⟩

/-- Each step of a loop writes within the bytes, from a state that the kernel's work has reached. -/
theorem within_foldl {α : Type} {l : List Nat} {f : State → α → State} (ys : List α)
    (hf : ∀ y ∈ ys, ∀ t, Within k off l s t → Within k off l t (f t y)) (h : Within k off l s t) : Within k off l s (ys.foldl f t) := by
  induction ys generalizing t with
  | nil => exact h
  | cons y ys ih => exact ih (fun z hz => hf z (List.mem_cons_of_mem _ hz)) (within_trans h (hf y List.mem_cons_self t h))

/-! ## Some elements of a row -/

/-- The runs of bytes that are written lie among the bytes. -/
theorem byteRuns_inside (l : List (Byte × Bool)) (i : Nat) : ∀ r ∈ byteRuns l i, i ≤ r.1 ∧ r.1 + r.2.length ≤ i + l.length := by
  induction l generalizing i with
  | nil => exact fun r hr => absurd hr List.not_mem_nil
  | cons y l ih =>
    obtain ⟨b, w⟩ := y
    have hnext := ih (i + 1)
    have hlater : ∀ r ∈ byteRuns l (i + 1), i ≤ r.1 ∧ r.1 + r.2.length ≤ i + (l.length + 1) := fun r hr => by
      have := hnext r hr
      omega
    cases w with
    | false => exact hlater
    | true =>
      unfold byteRuns
      cases hruns : byteRuns l (i + 1) with
      | nil =>
        rintro r hr
        obtain rfl := List.mem_singleton.mp hr
        simp only [List.length_cons, List.length_nil]
        omega
      | cons r rs =>
        rw [hruns] at hlater hnext
        obtain ⟨j, bs⟩ := r
        dsimp only
        split
        · next hj =>
          have hfirst := hnext _ List.mem_cons_self
          rintro z hz
          obtain rfl | hz := List.mem_cons.mp hz
          · simp only [List.length_cons] at hfirst ⊢
            omega
          · exact hlater z (List.mem_cons_of_mem _ hz)
        · rintro z hz
          obtain rfl | hz := List.mem_cons.mp hz
          · simp only [List.length_cons, List.length_nil]
            omega
          · exact hlater z hz

theorem spanLinear_part {i n m : Nat} (h : i + n ≤ m) (a : Nat) : spanLinear (a + i) n ⊆ spanLinear a m := by
  intro y hy
  obtain ⟨j, hj, rfl⟩ := List.mem_map.mp hy
  rw [List.mem_range] at hj
  exact List.mem_map.mpr ⟨i + j, List.mem_range.mpr (by omega), by rw [Nat.add_assoc]⟩

theorem within_kWrite (h : Clean s) (k : Kernel) (off : Nat) (jobs : List Nat) (a : Nat) (b : Bytes) :
    Within k off (spanLinear a b.length) s (kWrite s jobs a b) := ⟨kernelWork_kWrite h k off jobs a b, memBut_kWrite h jobs a b⟩

theorem packedBytes_le {w n m : Nat} (h : n ≤ m) : packedBytes w n ≤ packedBytes w m := by
  have := Nat.mul_le_mul_left w h
  unfold packedBytes ceilDiv
  exact Nat.div_le_div_right (by omega)

/-- What is put of a row lies in the row. -/
theorem within_kPut (h : Clean s) (k : Kernel) (off : Nat) (jobs : List Nat) (a w : Nat) (bits : List Nat) (ok : List Bool) :
    Within k off (spanLinear a (packedBytes w bits.length)) s (kPut s jobs a w bits ok) := by
  unfold kPut
  split
  · have := within_kWrite h k off jobs a (pack w bits)
    rwa [length_pack] at this
  · refine within_foldl _ (fun r hr t ht => ?_) (within_refl h k off _)
    refine within_more (within_kWrite ht.work.clean k off jobs _ _) (spanLinear_part ?_ a)
    have hinside := (byteRuns_inside _ 0 r hr).2
    rw [List.length_map, List.length_zipIdx, length_pack, List.length_map, List.length_zipIdx, List.length_zip, Nat.zero_add] at hinside
    exact hinside.trans (packedBytes_le (Nat.min_le_left _ _))

/-! ## TRANSPOSE -/

/-- The bits of output row n. -/
def transposeBits (s : State) (x : KRun) (tin : Tensor) (rows : List (List KElem)) (n : Nat) : List Nat :=
  let els := rows.map fun r => r.getD n ⟨0, vzero, true⟩
  let lr := if kNat x.k 16 4 ≠ 0 then kNat x.k 16 4 else if x.k.slotRows ≠ 0 then x.k.slotRows else x.k.rows
  let draw (m : Nat) : Nat := match ((List.range x.k.rows).map (kJob s x)).getD m none with
    | some j => opalRound (opalOf j) x.k.opalTensor (kStoreOf x).sr3 (n * lr + kLogical x.k m)
    | none => 0
  if transposeCopies x tin then els.map (·.raw) else (storeVals (kStoreOf x) draw [] (els.map (·.v))).1

/-- Puts output row n in the slots in which the kernel's rows lie. -/
def transposePut (s : State) (x : KRun) (out : Tensor) (n : Nat) (bits : List Nat) (mine : Nat → List Bool) : State :=
  (((List.range x.k.rows).map (kSlot x.k)).dedup).foldl (fun t q =>
    kPut t ((jobOf t x.run q).map (·.num)).toList (kRowIn t x q out n) (fmtWidth (outFmt x.k)) bits (mine q)) s

/-- Adds the elements of output row n that are written to the running sums. -/
def transposeDigest (s : State) (x : KRun) (n : Nat) (bits : List Nat) (ok : List Bool) (t : State) : State :=
  let layer := x.k.digestLayer.toNat
  let lr := if kNat x.k 16 4 ≠ 0 then kNat x.k 16 4 else if x.k.slotRows ≠ 0 then x.k.slotRows else x.k.rows
  if x.k.digestLayer = 0xFFFFFFFF then t
  else (bits.zipIdx.filter fun (_, m) => ok.getD m false).foldl (fun t (b, m) => match ((List.range x.k.rows).map (kJob s x)).getD m none with
    | some j => ctxDigest t j.num layer (elementHash layer (outFmt x.k) none (n * lr + kLogical x.k m) b) x.run.partner
    | none => t) t

theorem transposeDigest_within (h : Clean t) (s : State) (x : KRun) (n off : Nat) (bits : List Nat) (ok : List Bool) :
    Within x.k off [] t (transposeDigest s x n bits ok t) := by
  unfold transposeDigest
  extract_lets layer lr
  split
  · exact within_refl h x.k off []
  next hk =>
  refine within_foldl _ (fun y _ u hu => ?_) (within_refl h x.k off [])
  dsimp only
  split
  · exact within_quiet (kernelWork_ctxDigest hu.work.clean hk _ _ _ _ _) (by unfold ctxDigest; split <;> rfl) _
  · exact within_refl hu.work.clean _ _ _

/-- Which elements of an output row have a job. -/
def transposeOk (s : State) (x : KRun) (good : List Bool) : List Bool :=
  good.zipIdx.map fun (g, m) => g && (((List.range x.k.rows).map (kJob s x)).getD m none).isSome

theorem all_zipIdx {l : List Bool} {f : Bool × Nat → Bool} (hl : l.all id = true) (hf : ∀ m < l.length, f (true, m) = true) :
    (l.zipIdx.map f).all id = true := by
  rw [List.all_eq_true] at hl ⊢
  intro y hy
  obtain ⟨⟨g, m⟩, hgm, rfl⟩ := List.mem_map.mp hy
  obtain ⟨hm, hg⟩ := List.mem_zipIdx' hgm
  have htrue : l[m] = true := hl _ (List.getElem_mem hm)
  rw [hg, htrue]
  exact hf m hm

theorem length_okOf (scaled : Bool) (bad : List Bool) : (okOf scaled bad).length = bad.length := by
  unfold okOf
  split
  · rw [List.length_map]
  · split
    · rw [List.length_map, List.length_zipIdx]
    · rw [List.length_map]

theorem transposeRow_parts (x : KRun) (tin out : Tensor) {rows : List (List KElem)} (hplain : outScaled x.k = false)
    (hlen : rows.length = x.k.rows) (hgood : ∀ r ∈ rows, (r.getD n ⟨0, vzero, true⟩).bad = false) (s : State) :
    ∃ (lost : Nat) (ok : List Bool) (mine : Nat → List Bool),
      transposeRow x tin out rows s n = transposeDigest s x n (transposeBits s x tin rows n) ok
        (transposePut (calNumev s x.k.stack lost) x out n (transposeBits s x tin rows n) mine)
      ∧ ∀ q, (∀ m < x.k.rows, (kJob s x m).isSome = true ∧ kSlot x.k m = q) → (mine q).all id = true := by
  have hscaled : (kStoreOf x).scaled = false := hplain
  have hbad : ((rows.map fun r => r.getD n ⟨0, vzero, true⟩).map (·.bad)).all (!·) = true := by
    rw [List.map_map]
    exact all_not_map hgood
  have hok := okOf_sound hbad false
  have hhurt (jobs : List (Option Ctx)) : (okOf false ((rows.map fun r => r.getD n ⟨0, vzero, true⟩).map (·.bad))).zipIdx.filterMap
      (fun (g, m) => if g then none else (jobs.getD m none).map (·.num)) = [] := by
    rw [List.filterMap_eq_nil_iff]
    rintro ⟨g, m⟩ hgm
    obtain ⟨hm, hg⟩ := List.mem_zipIdx' hgm
    rw [List.all_eq_true] at hok
    exact if_pos (hg.trans (hok _ (List.getElem_mem hm)))
  unfold transposeRow
  extract_lets st els jobs lr index copy vals scales draw
  split
  next good here ok hurt lost kept slots _ bits codes nans hvals =>
  extract_lets stored put
  have hst : st.scaled = false := hscaled
  have hscales : scales = [] := if_neg (by rw [hst]; exact Bool.false_ne_true)
  have hstored : stored = transposeBits s x tin rows n := by
    change (if copy = true then els.map (·.raw) else bits) = if copy = true then els.map (·.raw) else (storeVals st draw [] vals).1
    rw [← hscales, hvals]
  have hkept : kept = calNumev s x.k.stack lost := by
    have hnone : hurt = [] := by
      change List.dedup (List.filterMap _ (okOf st.scaled _).zipIdx) = []
      rw [hst]
      exact congrArg List.dedup (hhurt jobs)
    change calNumev (failAt s hurt .eccUncorrectable) x.k.stack lost = _
    rw [hnone]
    simp only [failAt, List.filter_nil, List.map_nil, List.append_nil]
  refine ⟨lost, ok, fun q => ok.zipIdx.map fun (k, m) => k && kSlot x.k m == q, ?_, fun q hq => ?_⟩
  · have hput : put = transposePut (calNumev s x.k.stack lost) x out n (transposeBits s x tin rows n)
        fun q => ok.zipIdx.map fun (k, m) => k && kSlot x.k m == q := by
      change List.foldl _ kept slots = _
      rw [hkept, hstored, hst]
      cases kTens x 12 <;> rfl
    rw [hput, hstored, hst]
    rfl
  · have hlength : good.length = x.k.rows := by
      change (okOf st.scaled (els.map (·.bad))).length = _
      rw [length_okOf, List.length_map, List.length_map, hlen]
    refine all_zipIdx (all_zipIdx ?_ fun m hm => ?_) fun m hm => ?_
    · change (okOf st.scaled _).all id = true
      rw [hst]
      exact hok
    · have hrow : (jobs.getD m none).isSome = true := by
        rw [hlength] at hm
        have hget : jobs.getD m none = kJob s x m := by
          simp [jobs, List.getD_eq_getElem?_getD, hm]
        rw [hget]
        exact (hq m hm).1
      exact hrow
    · rw [List.length_map, List.length_zipIdx, hlength] at hm
      simpa using (hq m hm).2

theorem length_storeVals {st : Store} (h : st.scaled = false) (u : Nat → Nat) (scales : List Byte) (vs : List Val) :
    (storeVals st u scales vs).1.length = vs.length := by
  unfold storeVals
  extract_lets rs
  rw [h]
  change (rs.map (·.1)).length = _
  rw [List.length_map, List.length_map, List.length_zipIdx]

theorem storeVals_congr (st : Store) {u w : Nat → Nat} (scales : List Byte) {vs : List Val} (h : ∀ m < vs.length, u m = w m) :
    storeVals st u scales vs = storeVals st w scales vs := by
  have hone : (vs.zipIdx.map fun (y, t) => storeOne st (if st.scaled then some (scales.getD (t / 32) 0x7F) else none) (if st.sr then u t else 0) y)
      = vs.zipIdx.map fun (y, t) => storeOne st (if st.scaled then some (scales.getD (t / 32) 0x7F) else none) (if st.sr then w t else 0) y := by
    refine List.map_congr_left ?_
    rintro ⟨y, m⟩ hy
    obtain ⟨hm, -⟩ := List.mem_zipIdx' hy
    dsimp only
    rw [h m hm]
  unfold storeVals
  rw [hone]

theorem length_transposeBits (hplain : outScaled x.k = false) (s : State) (tin : Tensor) (rows : List (List KElem)) (n : Nat) :
    (transposeBits s x tin rows n).length = rows.length := by
  have hscaled : (kStoreOf x).scaled = false := hplain
  unfold transposeBits
  extract_lets els lr draw
  split
  · rw [List.length_map, List.length_map]
  · rw [length_storeVals hscaled, List.length_map, List.length_map]

/-- The bytes of output row n in the slots in which the kernel's rows lie. -/
def transposeLins (s : State) (x : KRun) (out : Tensor) (n : Nat) : List Nat :=
  (List.range x.k.rows).flatMap fun m => spanLinear (kRowIn s x (kSlot x.k m) out n) (packedBytes (fmtWidth (outFmt x.k)) x.k.rows)

theorem kRowIn_work (h : KernelWork k off s t) (x : KRun) (q : Nat) (y : Tensor) (m : Nat) : kRowIn t x q y m = kRowIn s x q y m := by
  obtain ⟨f, hjobs⟩ := h.jobs
  exact kRowIn_kept hjobs x q y m

theorem transposePut_within (h : KernelWork x.k off s t) (out : Tensor) (n : Nat) {bits : List Nat} (hbits : bits.length = x.k.rows)
    (mine : Nat → List Bool) : Within x.k off (transposeLins s x out n) t (transposePut t x out n bits mine) := by
  refine within_foldl _ (fun q hq u hu => within_more (within_kPut hu.work.clean _ _ _ _ _ _ _) ?_) (within_refl h.clean _ _ _)
  obtain ⟨m, hm, rfl⟩ := List.mem_map.mp (List.mem_dedup.mp hq)
  rw [kRowIn_work (kernelWork_trans h hu.work), hbits]
  exact fun y hy => List.mem_flatMap.mpr ⟨m, hm, hy⟩

theorem transposeRow_within (h : KernelWork x.k (oCal x.k.stack + 0x28) s t) (tin out : Tensor) {rows : List (List KElem)}
    (hplain : outScaled x.k = false) (hlen : rows.length = x.k.rows) (hgood : ∀ r ∈ rows, (r.getD n ⟨0, vzero, true⟩).bad = false) :
    Within x.k (oCal x.k.stack + 0x28) (transposeLins s x out n) t (transposeRow x tin out rows t n) := by
  obtain ⟨lost, ok, mine, heq, -⟩ := transposeRow_parts x tin out hplain hlen hgood t
  have hlost := kernelWork_calNumev h.clean x.k x.k.stack lost
  have hput := transposePut_within (kernelWork_trans h hlost) out n
    ((length_transposeBits hplain t tin rows n).trans hlen) mine
  rw [heq]
  exact within_trans (within_quiet hlost (mem_calNumev t _ _) _)
    (within_trans hput (within_more (transposeDigest_within hput.work.clean t x n _ _ ok) (List.nil_subset _)))

theorem wrote_quiet {l : List Nat} {held : List (Nat × Bytes)} (h : Wrote k off s t l held) (hu : Within k off [] t u) :
    Wrote k off s u l held :=
  ⟨kernelWork_trans h.work hu.work, fun y hy => (hu.but y List.not_mem_nil).trans (h.but y hy), fun y hy =>
    ⟨holds_kept (h.holds y hy).1 hu.but (List.disjoint_nil_right _), (h.holds y hy).2⟩⟩

theorem kJob_first (hslots : ∀ m < x.k.rows, kSlot x.k m = 0) (hm : m < x.k.rows) (s : State) : kJob s x m = kJob s x 0 := by
  unfold kJob
  rw [hslots m hm, hslots 0 (by omega)]

/-- The kernel's work leaves the draws of an output row as they are. -/
theorem transposeBits_work (hslots : ∀ m < x.k.rows, kSlot x.k m = 0) (hjob : kJob s x 0 = some job) (h : KernelWork k off s t)
    (tin : Tensor) {rows : List (List KElem)} (hlen : rows.length = x.k.rows) (n : Nat) :
    transposeBits t x tin rows n = transposeBits s x tin rows n := by
  obtain ⟨f, hf, hctxs⟩ := h.jobs
  have hjob' : kJob t x 0 = some (f job) := (jobOf_kept ⟨hf, hctxs⟩ _ _).trans (congrArg _ hjob)
  unfold transposeBits
  extract_lets els lr draw' draw
  split
  · rfl
  · refine congrArg (·.1) (storeVals_congr _ _ fun m hm => ?_)
    rw [List.length_map, List.length_map, hlen] at hm
    have hat {u : State} {j : Ctx} (hu : kJob u x 0 = some j) : ((List.range x.k.rows).map (kJob u x)).getD m none = some j := by
      rw [List.getD_eq_getElem?_getD, List.getElem?_map, List.getElem?_range hm, Option.map_some, Option.getD_some,
        kJob_first hslots hm, hu]
    have hsame : opalOf (f job) = opalOf job := by
      unfold opalOf
      rw [(hf job).desc, (hf job).step]
    change (match ((List.range x.k.rows).map (kJob t x)).getD m none with | some j => _ | none => _)
      = match ((List.range x.k.rows).map (kJob s x)).getD m none with | some j => _ | none => _
    rw [hat hjob', hat hjob]
    dsimp only
    rw [hsame]

theorem transposePut_first (hslots : ∀ m < x.k.rows, kSlot x.k m = 0) (hrows : x.k.rows ≠ 0) (s : State) (out : Tensor) (n : Nat)
    (bits : List Nat) (mine : Nat → List Bool) :
    transposePut s x out n bits mine
      = kPut s ((jobOf s x.run 0).map (·.num)).toList (kRowIn s x 0 out n) (fmtWidth (outFmt x.k)) bits (mine 0) := by
  have hslot : ((List.range x.k.rows).map (kSlot x.k)).dedup = [0] := by
    rw [List.map_congr_left fun m hm => hslots m (List.mem_range.mp hm), List.map_const', List.length_range, List.replicate_dedup hrows]
  unfold transposePut
  rw [hslot]
  rfl

theorem transposePut_none (hrows : x.k.rows = 0) (s : State) (out : Tensor) (n : Nat) (bits : List Nat) (mine : Nat → List Bool) :
    transposePut s x out n bits mine = s := by
  unfold transposePut
  rw [hrows]
  rfl

/-- Where every row lies in slot 0 an output row is written whole. -/
theorem transposeRow_wrote (hslots : ∀ m < x.k.rows, kSlot x.k m = 0) (hjob : kJob s x 0 = some job)
    {l : List Nat} {held : List (Nat × Bytes)} (h : Wrote x.k (oCal x.k.stack + 0x28) s t l held) (tin out : Tensor) {rows : List (List KElem)}
    (hplain : outScaled x.k = false) (hlen : rows.length = x.k.rows) (hgood : ∀ r ∈ rows, (r.getD n ⟨0, vzero, true⟩).bad = false)
    {data : Bytes} (hdata : pack (fmtWidth (outFmt x.k)) (transposeBits s x tin rows n) = data)
    (hopen : 0 < data.length → spanOpen s (kRowIn s x 0 out n) data.length true = true)
    (honce : (l ++ spanLinear (kRowIn s x 0 out n) data.length).Nodup) :
    Wrote x.k (oCal x.k.stack + 0x28) s (transposeRow x tin out rows t n) (l ++ spanLinear (kRowIn s x 0 out n) data.length)
      (held ++ [(kRowIn s x 0 out n, data)]) := by
  obtain ⟨lost, ok, mine, heq, hmine⟩ := transposeRow_parts x tin out hplain hlen hgood t
  rw [heq, transposeBits_work hslots hjob h.work tin hlen]
  have hlost : Wrote x.k (oCal x.k.stack + 0x28) s (calNumev t x.k.stack lost) l held :=
    wrote_quiet h (within_quiet (kernelWork_calNumev h.work.clean x.k x.k.stack lost) (mem_calNumev t _ _) _)
  have hput : Wrote x.k (oCal x.k.stack + 0x28) s (transposePut (calNumev t x.k.stack lost) x out n (transposeBits s x tin rows n) mine)
      (l ++ spanLinear (kRowIn s x 0 out n) data.length) (held ++ [(kRowIn s x 0 out n, data)]) := by
    by_cases hrows : x.k.rows = 0
    · rw [transposePut_none hrows]
      refine wrote_more hlost (kernelWork_refl hlost.work.clean _ _) (memBut_same rfl) honce fun y hy => ?_
      obtain rfl := List.mem_singleton.mp hy
      have hlength := length_pack (fmtWidth (outFmt x.k)) (transposeBits s x tin rows n)
      rw [hdata, length_transposeBits hplain, hlen, hrows, packedBytes, Nat.mul_zero] at hlength
      obtain rfl : data = [] := List.length_eq_zero_iff.mp hlength
      exact ⟨rfl, List.Subset.refl _⟩
    · have hall : (mine 0).all id = true := hmine 0 fun m hm => ⟨by
        obtain ⟨f, hjobs⟩ := h.work.jobs
        have hkept : kJob t x 0 = some (f job) := (jobOf_kept hjobs _ _).trans (congrArg _ hjob)
        rw [kJob_first hslots hm, hkept, Option.isSome_some], hslots m hm⟩
      rw [transposePut_first hslots hrows, kPut_all hall, hdata, kRowIn_work hlost.work]
      exact wrote_kWrite hlost (.inr rfl) hopen honce _
  exact wrote_quiet hput (transposeDigest_within hput.work.clean t x n _ _ ok)

/-- The rows that TRANSPOSE reads. -/
def transposeReads (s : State) (x : KRun) (tin : Tensor) : List (List KElem) :=
  (List.range x.k.rows).map fun m => kReadScaled s x tin (kTens x 4) m x.k.cols

theorem transposeReads_good (h : Clean s) (x : KRun) (tin : Tensor) (hn : n < x.k.cols) :
    ∀ r ∈ transposeReads s x tin, (r.getD n ⟨0, vzero, true⟩).bad = false := by
  rintro r hr
  obtain ⟨m, -, rfl⟩ := List.mem_map.mp hr
  have hlen : n < (kReadScaled s x tin (kTens x 4) m x.k.cols).length := by
    unfold kReadScaled
    rwa [length_kRead]
  rw [List.getD_eq_getElem _ _ hlen]
  exact kRead_clean h _ _ _ _ _ (List.getElem_mem hlen)

theorem length_transposeReads (s : State) (x : KRun) (tin : Tensor) : (transposeReads s x tin).length = x.k.rows := by
  unfold transposeReads
  rw [List.length_map, List.length_range]

theorem transpose_within (h : Clean s) {tin out : Tensor} (htin : kTens x 0 = some tin) (hout : kTens x 8 = some out)
    (hplain : outScaled x.k = false) :
    Within x.k (oCal x.k.stack + 0x28) ((List.range x.k.cols).flatMap (transposeLins s x out)) s (kTranspose x s) := by
  unfold kTranspose
  rw [htin, hout]
  refine within_foldl _ (fun n hn t ht => within_more (transposeRow_within ht.work tin out hplain (length_transposeReads s x tin)
    (transposeReads_good h x tin (List.mem_range.mp hn))) fun y hy => List.mem_flatMap.mpr ⟨n, hn, hy⟩) (within_refl h _ _ _)

theorem transpose_wrote (h : Clean s) {tin out : Tensor} (htin : kTens x 0 = some tin) (hout : kTens x 8 = some out)
    (hplain : outScaled x.k = false) (hslots : ∀ m < x.k.rows, kSlot x.k m = 0) (hjob : kJob s x 0 = some job)
    {data : Nat → Bytes} (hdata : ∀ n < x.k.cols, pack (fmtWidth (outFmt x.k)) (transposeBits s x tin (transposeReads s x tin) n) = data n)
    (hopen : ∀ n < x.k.cols, 0 < (data n).length → spanOpen s (kRowIn s x 0 out n) (data n).length true = true)
    (honce : ((List.range x.k.cols).flatMap fun n => spanLinear (kRowIn s x 0 out n) (data n).length).Nodup) :
    Wrote x.k (oCal x.k.stack + 0x28) s (kTranspose x s) ((List.range x.k.cols).flatMap fun n => spanLinear (kRowIn s x 0 out n) (data n).length)
      ((List.range x.k.cols).map fun n => (kRowIn s x 0 out n, data n)) := by
  have hrows (c : Nat) (hc : c ≤ x.k.cols) : Wrote x.k (oCal x.k.stack + 0x28) s
      ((List.range c).foldl (transposeRow x tin out (transposeReads s x tin)) s)
      ((List.range c).flatMap fun n => spanLinear (kRowIn s x 0 out n) (data n).length)
      ((List.range c).map fun n => (kRowIn s x 0 out n, data n)) := by
    induction c with
    | zero => exact wrote_none h _ _
    | succ c ih =>
      have hfirst : ((List.range (c + 1)).flatMap fun n => spanLinear (kRowIn s x 0 out n) (data n).length).Nodup :=
        honce.sublist (List.Sublist.flatMap (List.range_sublist.mpr hc) _)
      rw [List.range_succ, List.flatMap_append, List.flatMap_singleton] at hfirst
      rw [List.range_succ, List.foldl_append, List.flatMap_append, List.map_append, List.flatMap_singleton, List.map_singleton]
      exact transposeRow_wrote hslots hjob (ih (by omega)) tin out hplain (length_transposeReads s x tin) (transposeReads_good h x tin hc)
        (hdata c hc) (hopen c hc) hfirst
  unfold kTranspose
  rw [htin, hout]
  exact hrows _ (Nat.le_refl _)

theorem transposeBits_eq (hslots : ∀ m < x.k.rows, kSlot x.k m = 0) (hjob : kJob s x 0 = some job) (tin : Tensor) (n : Nat) :
    transposeBits s x tin (transposeReads s x tin) n =
      if transposeCopies x tin then (List.range x.k.rows).map fun m => ((kReadScaled s x tin (kTens x 4) m x.k.cols).getD n ⟨0, vzero, true⟩).raw
      else (storeVals (kStoreOf x) (fun m => opalRound (opalOf job) x.k.opalTensor (kStoreOf x).sr3
          (n * (if kNat x.k 16 4 ≠ 0 then kNat x.k 16 4 else if x.k.slotRows ≠ 0 then x.k.slotRows else x.k.rows) + kLogical x.k m)) []
        ((List.range x.k.rows).map fun m => ((kReadScaled s x tin (kTens x 4) m x.k.cols).getD n ⟨0, vzero, true⟩).v)).1 := by
  have hread {α : Type} (f : KElem → α) : ((transposeReads s x tin).map fun r => r.getD n ⟨0, vzero, true⟩).map f
      = (List.range x.k.rows).map fun m => f ((kReadScaled s x tin (kTens x 4) m x.k.cols).getD n ⟨0, vzero, true⟩) := by
    unfold transposeReads
    rw [List.map_map, List.map_map]
    rfl
  unfold transposeBits
  extract_lets els lr draw
  split
  · exact hread _
  · rw [← hread (·.v)]
    refine congrArg (·.1) (storeVals_congr _ _ fun m hm => ?_)
    rw [List.length_map, List.length_map, length_transposeReads] at hm
    have hat : ((List.range x.k.rows).map (kJob s x)).getD m none = some job := by
      rw [List.getD_eq_getElem?_getD, List.getElem?_map, List.getElem?_range hm, Option.map_some, Option.getD_some, kJob_first hslots hm, hjob]
    change (match ((List.range x.k.rows).map (kJob s x)).getD m none with | some j => _ | none => _) = _
    rw [hat]


/-- Settles O40: QUANTISE_DEFERRED stores one row; the output rows of TRANSPOSE follow by induction on the columns. -/
theorem quantiseAndTransposeStoreTheirRows : Obligations.QuantiseAndTransposeStoreTheirRows := by
  unfold Obligations.QuantiseAndTransposeStoreTheirRows
  intro s v x n job hjob
  have hclean {code : KernelCode} (h : KernelRuns code s v x n) : Clean { s with out := [] } := ⟨h.canon.mem, h.clean.1, h.clean.2.1⟩
  refine ⟨fun o tp out td h hop htp hout htd hone => ?_, fun tin out h htin hout hplain => ?_⟩
  · intro code vals st bits data z lins scales honce hopen
    have hrows : x.k.rows = 1 := by rw [kernelRun_kernel h.runs, hone]
    obtain ⟨bad, valid, hbad, hf⟩ := quantise_stores (hclean h) hrows hjob hop htp hout htd
    have hz : (if st.scaled then (kTens x 12).map fun y => kRow s x y 0 else none) = z.map fun y => kRow s x y 0 := by
      change (if o.dScaled then _ else none) = Option.map _ (if o.dScaled then kTens x 12 else none)
      split <;> rfl
    have hlins : rowLins (kRow s x out 0) data (z.map fun y => kRow s x y 0) bits.2.1 = lins ++ scales :=
      congrArg (lins ++ ·) (scaleLins_tensor s x z bits.2.1)
    obtain ⟨hdata, hscales⟩ := writable_cons hopen
    obtain ⟨t, ht, hholds, hholdsz, hbut, hregs, hsums, hframe⟩ := kernel_stores_row (a := kRow s x out 0) h kQuantise hf hbad (row := bits) rfl (data := data) rfl hz
      (by rw [hlins]; exact honce) hdata (fun y hy => by
        obtain ⟨w, hw, rfl⟩ := Option.map_eq_some_iff.mp hy
        exact hscales _ (List.mem_map.mpr ⟨w, Option.mem_toList.mpr hw, rfl⟩))
    rw [hlins] at hbut
    exact ⟨t, congrArg Host.Outcome.next ht, hholds, fun y hy => hholdsz _ (by rw [hy]; rfl), hbut, hregs, hsums, hframe⟩
  · intro elem slotLen draw row len rowsOf
    have hclean := hclean h
    have hwithin := transpose_within hclean htin hout hplain
    obtain ⟨t, ht, hmem, hregs, -, hsums, hframe⟩ := kernel_ends h kTranspose rfl hwithin.work
    refine ⟨t, congrArg Host.Outcome.next ht, fun y hy => ?_, hregs, hsums, hframe, fun hslots honce hopen n hn => ?_⟩
    · refine (memBut_same hmem (l := []) y List.not_mem_nil).trans (hwithin.but y fun hmem => hy ?_)
      obtain ⟨n, hn, hy⟩ := List.mem_flatMap.mp hmem
      obtain ⟨m, hm, hy⟩ := List.mem_flatMap.mp hy
      exact List.mem_flatMap.mpr ⟨m, hm, List.mem_flatMap.mpr ⟨n, hn, hy⟩⟩
    · have hrow (n : Nat) : transposeBits { s with out := [] } x tin (transposeReads { s with out := [] } x tin) n = row n :=
        transposeBits_eq hslots hjob tin n
      have hlen (n : Nat) : (pack (fmtWidth (outFmt x.k)) (row n)).length = len := by
        rw [length_pack, ← hrow, length_transposeBits hplain, length_transposeReads]
      have hspans : ((List.range x.k.cols).flatMap fun n => spanLinear (kRowIn s x 0 out n) (pack (fmtWidth (outFmt x.k)) (row n)).length)
          = rowsOf 0 := by
        simp only [hlen, rowsOf]
      have hwrote := transpose_wrote hclean htin hout hplain hslots hjob (data := fun n => pack (fmtWidth (outFmt x.k)) (row n))
        (fun n _ => by rw [hrow]) (fun n hn hpos => by
          rw [hlen] at hpos ⊢
          exact hopen (kRowIn s x 0 out n, len) (List.mem_map_of_mem (List.mem_range.mpr hn)) hpos) (hspans ▸ honce)
      exact holds_same (hwrote.holds _ (List.mem_map.mpr ⟨n, List.mem_range.mpr hn, rfl⟩)).1 hmem

end Sys2Proof.Machine

/-! The page-read form of GATHER (R185, R193, R242). -/

namespace Sys2Proof.Machine

open Sys2Proof Sys2Proof.Terms

variable {s t u : State} {x : KRun} {k : Kernel} {a n m off : Nat} {b : Bytes} {code : KernelCode} {v : KernelEvent} {job : Ctx}

/-! ## Reading a page -/

/-- Each byte of a page's elements is one of the page. -/
theorem pageElemLins_page {slot fmt c i y : Nat} (hi : i < pageElems c) (hy : y ∈ pageElemLins slot fmt i) (scaled : Bool) :
    slot ≤ y ∧ y < slot + pageBytes fmt scaled c := by
  obtain ⟨j, hj, rfl⟩ := List.mem_map.mp hy
  rw [List.mem_range] at hj
  have hmul : fmtWidth fmt * i + fmtWidth fmt ≤ fmtWidth fmt * pageElems c := Nat.mul_le_mul_left (fmtWidth fmt) (show i + 1 ≤ pageElems c from hi)
  unfold pageBytes packedBytes
  generalize fmtWidth fmt * pageElems c = z at *
  generalize fmtWidth fmt * i = e at *
  generalize fmtWidth fmt = w at *
  unfold ceilDiv at hj ⊢
  omega

theorem pageElemNo_lt {kind c ch tok : Nat} (hch : ch < c) (htok : tok < 256) : pageElemNo kind c ch tok < pageElems c := by
  unfold pageElemNo pageElems
  split
  · calc tok * c + ch < tok * c + c := by omega
      _ = (tok + 1) * c := by ring
      _ ≤ 256 * c := Nat.mul_le_mul_right c (by omega)
  · omega

theorem pageScaleNo_lt {kind c ch tok : Nat} (hch : ch < c) (htok : tok < 256) : pageScaleNo kind c ch tok < 8 * c := by
  unfold pageScaleNo
  split
  · have htokens : tok * (c / 32) ≤ 255 * (c / 32) := Nat.mul_le_mul_right _ (by omega)
    omega
  · omega

/-- What GATHER reads of a page is in the page's bytes. -/
theorem pageRead_kept {p : Page} {kind c ch tok : Nat} (hch : ch < c) (htok : tok < 256)
    (h : ∀ y, p.slot ≤ y → y < p.slot + pageBytes p.fmt p.scaled c → byteAt t y = byteAt s y) :
    (pageRead t p kind c ch tok).1 = (pageRead s p kind c ch tok).1 := by
  have hraw : pageElem t p.slot p.fmt (pageElemNo kind c ch tok) = pageElem s p.slot p.fmt (pageElemNo kind c ch tok) := by
    unfold pageElem
    rw [List.map_congr_left fun y hy => by
      obtain ⟨hlow, hhigh⟩ := pageElemLins_page (pageElemNo_lt hch htok) hy p.scaled
      exact h y hlow hhigh]
  have hscale (hs : p.scaled = true) : byteAt t (pageScaleLin p.slot p.fmt c (pageScaleNo kind c ch tok))
      = byteAt s (pageScaleLin p.slot p.fmt c (pageScaleNo kind c ch tok)) := by
    have hno := pageScaleNo_lt (kind := kind) hch htok
    unfold pageScaleLin
    refine h _ (by omega) ?_
    unfold pageBytes
    rw [if_pos hs]
    omega
  unfold pageRead
  extract_lets i raw' zl sc' bad' raw sc bad
  have hraw' : raw' = raw := hraw
  have hsc' : sc' = sc := by
    change (if p.scaled = true then _ else _) = if p.scaled = true then _ else _
    split
    · next hs => exact hscale hs
    · rfl
  rw [hraw', hsc']
  split
  · rfl
  · split
    · rfl
    · rfl

theorem pageRead_sound (h : Clean s) (p : Page) (kind c ch tok : Nat) : (pageRead s p kind c ch tok).2.2 = false := by
  have hpoison : (s.poison.isEmpty) = true := by
    rw [h.poison]
    rfl
  unfold pageRead
  extract_lets i zl raw sc bad
  have hbad : bad = false := by
    change (!s.poison.isEmpty && _) = false
    rw [hpoison]
    rfl
  rw [hbad]
  split
  · rfl
  · split
    · rfl
    · rfl

theorem mappedPage_mem {c : Ctx} {layer kind i : Nat} {p : Page} (h : mappedPage s c layer kind i = some p) : p ∈ s.pages := by
  obtain ⟨id, -, hid⟩ := Option.bind_eq_some_iff.mp h
  exact List.mem_of_find?_eq_some hid

/-! ## The staging rows -/

/-- Two nested loops are one. -/
theorem foldl_nested {α : Type} (f : α → Nat → α) (m n : Nat) (s : α) :
    (List.range m).foldl (fun s h => (List.range n).foldl (fun s i => f s (h * n + i)) s) s = (List.range (m * n)).foldl f s := by
  induction m with
  | zero => rw [Nat.zero_mul]; rfl
  | succ m ih =>
    rw [List.range_succ, List.foldl_append, ih, Nat.succ_mul, List.range_add, List.foldl_append, List.foldl_map]
    rfl

/-- The element of a channel and a token, as GATHER takes it from a job's pages. -/
def gatherElem (x : KRun) (job : Ctx) (ps : List (Option Page)) (s : State) (ch tok : Nat) : Nat × Byte × Bool :=
  match ps.getD (tok / 256) none with
  | some p => if tok < job.length ∧ tok % 256 < p.valid ∧ p.state ≠ .dropped
      then pageRead s p (kNat x.k 9 1) (kNat x.k 12 2 * kNat x.k 14 2) ch (tok % 256) else (0, 0x7F, false)
  | none => (0, 0x7F, false)

/-- The elements of a staging row. -/
def gatherEls (x : KRun) (job : Ctx) (ps : List (Option Page)) (s : State) (r : Nat) : List (Nat × Byte × Bool) :=
  if kNat x.k 9 1 = 0 then (List.range (kNat x.k 14 2)).map fun ch =>
    gatherElem x job ps s (r / kNat x.k 16 4 * kNat x.k 14 2 + ch) (r % kNat x.k 16 4)
  else (List.range (kNat x.k 16 4)).map (gatherElem x job ps s r)

/-- The staging rows of the page-read form. -/
def gatherRows (x : KRun) : Nat := if kNat x.k 9 1 = 0 then kNat x.k 12 2 * kNat x.k 16 4 else kNat x.k 12 2 * kNat x.k 14 2

/-- The pages that GATHER reads. -/
def gatherPages (s : State) (x : KRun) (job : Ctx) : List (Option Page) := kPages s x job (min (kNat x.k 16 4 / 256) (ceilDiv job.length 256))

/-- The marks that GATHER leaves on the pages that it reads, and on a job of which one is DEMOTED. -/
def gatherMarked (s : State) (job : Ctx) (ps : List (Option Page)) : State :=
  let hit (q : Page) : Bool := ps.any fun p => p.any fun y => y.id == q.id
  let s : State := { s with pages := s.pages.map fun q => if hit q then { q with lastRead := s.beats } else q }
  if ps.any (fun p => p.any (·.state == .demoted)) then ctxMap s job.num fun c => { c with kvDemoted := true } else s

theorem kGatherPages_eq {staging : Tensor} (htens : kTens x 4 = some staging) (hjob : jobOf s x.run (kNat x.k 8 1) = some job)
    (hdropped : ¬(gatherPages s x job).any (fun p => p.any (fun q => q.state == .dropped)) = true) :
    ∃ scaled, kGatherPages x s = (List.range (gatherRows x)).foldl (fun t r =>
      stagingRow t x job staging scaled r (gatherEls x job (gatherPages s x job) t r)) (gatherMarked s job (gatherPages s x job)) := by
  refine ⟨outScaled x.k || (gatherPages s x job).any (fun p => p.any (·.homeScaled)), ?_⟩
  unfold kGatherPages
  rw [htens, hjob]
  unfold gatherPages at hdropped
  dsimp only
  rw [if_neg hdropped]
  unfold gatherEls gatherRows
  by_cases hk : kNat x.k 9 1 = 0
  · rw [if_pos hk, ← foldl_nested]
    refine List.foldl_ext _ _ _ fun t h _ => ?_
    rw [if_pos hk]
    refine List.foldl_ext _ _ _ fun t i hi => ?_
    rw [List.mem_range] at hi
    rw [if_pos hk, Nat.mul_add_mod', Nat.mod_eq_of_lt hi, Nat.mul_comm, Nat.mul_add_div (by omega), Nat.div_eq_of_lt hi, Nat.add_zero]
    rfl
  · rw [if_neg hk, ← foldl_nested]
    refine List.foldl_ext _ _ _ fun t h _ => ?_
    rw [if_neg hk]
    refine List.foldl_ext _ _ _ fun t i _ => ?_
    rw [if_neg hk]
    rfl

theorem mem_of_getD {α : Type} {l : List (Option α)} {i : Nat} {y : α} (h : l.getD i none = some y) : some y ∈ l := by
  rw [List.getD_eq_getElem?_getD] at h
  cases hget : l[i]? with
  | none => rw [hget] at h; cases h
  | some z =>
    rw [hget] at h
    obtain rfl : z = some y := h
    exact List.mem_of_getElem? hget

theorem gatherElem_kept {ps : List (Option Page)} (hps : ∀ p, some p ∈ ps → ∀ y, p.slot ≤ y →
      y < p.slot + pageBytes p.fmt p.scaled (kNat x.k 12 2 * kNat x.k 14 2) → byteAt t y = byteAt s y)
    {ch : Nat} (hch : ch < kNat x.k 12 2 * kNat x.k 14 2) (job : Ctx) (tok : Nat) :
    (gatherElem x job ps t ch tok).1 = (gatherElem x job ps s ch tok).1 := by
  unfold gatherElem
  cases hp : ps.getD (tok / 256) none with
  | none => rfl
  | some p =>
    have hmem := mem_of_getD hp
    dsimp only
    split
    · exact pageRead_kept hch (Nat.mod_lt _ (by decide)) (hps p hmem)
    · rfl

theorem gatherElem_sound (h : Clean s) (x : KRun) (job : Ctx) (ps : List (Option Page)) (ch tok : Nat) :
    (gatherElem x job ps s ch tok).2.2 = false := by
  unfold gatherElem
  split
  · split
    · exact pageRead_sound h _ _ _ _ _
    · rfl
  · rfl

theorem gatherEls_kept {ps : List (Option Page)} (hps : ∀ p, some p ∈ ps → ∀ y, p.slot ≤ y →
      y < p.slot + pageBytes p.fmt p.scaled (kNat x.k 12 2 * kNat x.k 14 2) → byteAt t y = byteAt s y)
    (job : Ctx) {r : Nat} (hr : r < gatherRows x) :
    (gatherEls x job ps t r).map (·.1) = (gatherEls x job ps s r).map (·.1) := by
  unfold gatherRows at hr
  unfold gatherEls
  split at hr
  · next hk =>
    rw [if_pos hk, if_pos hk, List.map_map, List.map_map]
    refine List.map_congr_left fun ch hch => ?_
    rw [List.mem_range] at hch
    have hhead : r / kNat x.k 16 4 + 1 ≤ kNat x.k 12 2 := Nat.div_lt_of_lt_mul (by rwa [Nat.mul_comm])
    refine gatherElem_kept hps (Nat.lt_of_lt_of_le ?_ (Nat.mul_le_mul_right _ hhead)) job _
    rw [Nat.succ_mul]
    omega
  · next hk =>
    rw [if_neg hk, if_neg hk, List.map_map, List.map_map]
    exact List.map_congr_left fun tok _ => gatherElem_kept hps hr job tok

theorem gatherEls_sound (h : Clean s) (x : KRun) (job : Ctx) (ps : List (Option Page)) (r : Nat) :
    (gatherEls x job ps s r).any (·.2.2) = false := by
  rw [List.any_eq_false]
  intro y hy
  unfold gatherEls at hy
  split at hy
  · obtain ⟨ch, -, rfl⟩ := List.mem_map.mp hy
    rw [gatherElem_sound h]
    exact Bool.false_ne_true
  · obtain ⟨tok, -, rfl⟩ := List.mem_map.mp hy
    rw [gatherElem_sound h]
    exact Bool.false_ne_true

/-! ## Writes of a page form -/

/-- Memory alone has been written: within some bytes, and what is held there. -/
structure Moved (s t : State) (l : List Nat) (held : List (Nat × Bytes)) : Prop where
  frame : t = { s with mem := t.mem, qc := t.qc }
  clean : Clean t
  but : MemBut s t l
  holds : ∀ y ∈ held, Holds t y.1 y.2 ∧ spanLinear y.1 y.2.length ⊆ l

theorem moved_none (h : Clean s) : Moved s s [] [] := ⟨rfl, h, fun _ _ => rfl, fun _ hy => absurd hy List.not_mem_nil⟩

theorem spanOpen_moved {l : List Nat} {held : List (Nat × Bytes)} (h : Moved s t l held) (a n : Nat) (write : Bool) :
    spanOpen t a n write = spanOpen s a n write := by
  rw [h.frame]
  rfl

theorem kRowIn_moved {l : List Nat} {held : List (Nat × Bytes)} (h : Moved s t l held) (x : KRun) (q : Nat) (y : Tensor) (m : Nat) :
    kRowIn t x q y m = kRowIn s x q y m := by
  rw [h.frame]
  rfl

/-- A further write of other bytes. -/
theorem moved_kWrite {l : List Nat} {held : List (Nat × Bytes)} (h : Moved s t l held)
    (hopen : 0 < b.length → spanOpen s a b.length true = true) (honce : (l ++ spanLinear a b.length).Nodup) (jobs : List Nat) :
    Moved s (kWrite t jobs a b) (l ++ spanLinear a b.length) (held ++ [(a, b)]) := by
  obtain ⟨-, hself, hapart⟩ := List.nodup_append'.mp honce
  have hclean := h.clean
  obtain ⟨g, q, heq, hform, hbut⟩ := kWrite_any hclean jobs a b
  have hholds := holds_kWrite hclean (fun hpos => (spanOpen_moved h _ _ _).trans (hopen hpos)) hself jobs
  refine ⟨?_, ?_, memBut_trans h.but hbut, fun y hy => ?_⟩
  · rw [heq, h.frame]
  · rw [heq]
    exact ⟨hform, hclean.poison, hclean.soft⟩
  · obtain hy | hy := List.mem_append.mp hy
    · obtain ⟨hheld, hin⟩ := h.holds y hy
      exact ⟨holds_kept hheld hbut fun z hz => hapart (hin hz), List.Subset.trans hin (List.subset_append_left _ _)⟩
    · obtain rfl := List.mem_singleton.mp hy
      exact ⟨hholds, List.subset_append_right _ _⟩

/-! ## GATHER -/

/-- The staging rows written, from the state that holds GATHER's marks. -/
theorem gatherRows_moved (h : Clean s) {staging : Tensor} {ps : List (Option Page)} (hz : tensorGet x.run.img (staging.id + 1) = none)
    (scaled : Bool) {data : Nat → Bytes}
    (hdata : ∀ r < gatherRows x, pack (fmtWidth staging.fmt) ((gatherEls x job ps s r).map (·.1)) = data r)
    {lins : List Nat} (hlins : lins = (List.range (gatherRows x)).flatMap fun r => spanLinear (kRowIn s x (kNat x.k 8 1) staging r) (data r).length)
    (honce : lins.Nodup)
    (hopen : ∀ r < gatherRows x, 0 < (data r).length → spanOpen s (kRowIn s x (kNat x.k 8 1) staging r) (data r).length true = true)
    (hps : ∀ p, some p ∈ ps → ∀ y, p.slot ≤ y → y < p.slot + pageBytes p.fmt p.scaled (kNat x.k 12 2 * kNat x.k 14 2) → y ∉ lins) :
    Moved s ((List.range (gatherRows x)).foldl (fun t r => stagingRow t x job staging scaled r (gatherEls x job ps t r)) s) lins
      ((List.range (gatherRows x)).map fun r => (kRowIn s x (kNat x.k 8 1) staging r, data r)) := by
  have hrows (c : Nat) (hc : c ≤ gatherRows x) : Moved s
      ((List.range c).foldl (fun t r => stagingRow t x job staging scaled r (gatherEls x job ps t r)) s)
      ((List.range c).flatMap fun r => spanLinear (kRowIn s x (kNat x.k 8 1) staging r) (data r).length)
      ((List.range c).map fun r => (kRowIn s x (kNat x.k 8 1) staging r, data r)) := by
    induction c with
    | zero => exact moved_none h
    | succ c ih =>
      have ih := ih (by omega)
      have hpart {c : Nat} (hc : c ≤ gatherRows x) :
          ((List.range c).flatMap fun r => spanLinear (kRowIn s x (kNat x.k 8 1) staging r) (data r).length).Sublist lins :=
        hlins ▸ List.Sublist.flatMap (List.range_sublist.mpr hc) _
      have hfirst := honce.sublist (hpart hc)
      rw [List.range_succ, List.flatMap_append, List.flatMap_singleton] at hfirst
      rw [List.range_succ, List.foldl_append, List.flatMap_append, List.map_append, List.flatMap_singleton, List.map_singleton]
      generalize (List.range c).foldl _ s = t at ih ⊢
      have hels : (gatherEls x job ps t c).map (·.1) = (gatherEls x job ps s c).map (·.1) :=
        gatherEls_kept (fun p hp y hlow hhigh => ih.but y fun hy => hps p hp y hlow hhigh ((hpart (Nat.le_of_lt hc)).subset hy)) job hc
      have hrow : stagingRow t x job staging scaled c (gatherEls x job ps t c)
          = kWrite t [job.num] (kRowIn s x (kNat x.k 8 1) staging c) (data c) := by
        unfold stagingRow
        rw [gatherEls_sound ih.clean, hz, hels, hdata c hc, kRowIn_moved ih]
        rfl
      change Moved s (stagingRow t x job staging scaled c (gatherEls x job ps t c)) _ _
      rw [hrow]
      exact moved_kWrite ih (hopen c hc) hfirst _
  rw [hlins]
  exact hrows _ (Nat.le_refl _)

theorem gatherMarked_frame (s : State) (job : Ctx) (ps : List (Option Page)) :
    gatherMarked s job ps = { s with
      pages := s.pages.map fun q => if ps.any (fun p => p.any fun y => y.id == q.id) then { q with lastRead := s.beats } else q
      ctxs := (if ps.any (fun p => p.any (·.state == .demoted)) then ctxMap s job.num fun c => { c with kvDemoted := true } else s).ctxs } := by
  unfold gatherMarked
  extract_lets hit marked
  split
  · rfl
  · rfl

theorem gatherMarked_kept (s : State) (job : Ctx) (ps : List (Option Page)) : ∃ f, JobsKept s (gatherMarked s job ps) f := by
  rw [gatherMarked_frame]
  split
  · refine ⟨fun c => if c.num = job.num then { c with kvDemoted := true } else c, fun c => ?_, rfl⟩
    dsimp only
    split
    · exact ⟨rfl, rfl, rfl, fun _ => rfl⟩
    · exact ⟨rfl, rfl, rfl, fun _ => rfl⟩
  · exact ⟨id, jobsKept_refl rfl⟩

theorem gatherMarked_clean (h : Clean s) (job : Ctx) (ps : List (Option Page)) : Clean (gatherMarked s job ps) := by
  rw [gatherMarked_frame]
  exact ⟨h.form, h.poison, h.soft⟩

theorem gatherPages_mem {p : Page} (h : some p ∈ gatherPages s x job) : ∃ q ∈ s.pages, p = kPage x q := by
  obtain ⟨i, -, hi⟩ := List.mem_map.mp h
  obtain ⟨q, hq, rfl⟩ := Option.map_eq_some_iff.mp hi
  exact ⟨q, mappedPage_mem hq, rfl⟩

/-- GATHER's page-read form, when it runs: the staging rows, and the marks. -/
theorem gatherPages_move (h : KernelRuns code s v x n) {staging : Tensor} (htens : kTens x 4 = some staging)
    (hjob : jobOf s x.run (kNat x.k 8 1) = some job) (hz : tensorGet x.run.img (staging.id + 1) = none)
    {data : Nat → Bytes} (hdata : ∀ r < gatherRows x, pack (fmtWidth staging.fmt) ((gatherEls x job (gatherPages s x job) s r).map (·.1)) = data r)
    {lins : List Nat} (hlins : lins = (List.range (gatherRows x)).flatMap fun r => spanLinear (kRowIn s x (kNat x.k 8 1) staging r) (data r).length)
    (honce : lins.Nodup)
    (hopen : ∀ r < gatherRows x, 0 < (data r).length → spanOpen s (kRowIn s x (kNat x.k 8 1) staging r) (data r).length true = true)
    (hpages : ∀ q ∈ s.pages, q.state ≠ .dropped ∧ ∀ y ∈ lins,
      y < (kPage x q).slot ∨ (kPage x q).slot + pageBytes q.fmt q.scaled (kNat x.k 12 2 * kNat x.k 14 2) ≤ y) :
    ∃ t, runKernel code v kGatherPages s = t ∧ (∀ r < gatherRows x, Holds t (kRowIn s x (kNat x.k 8 1) staging r) (data r)) ∧ MemBut s t lins
      ∧ t.pages = s.pages.map (fun q => if (gatherPages s x job).any (fun p => p.any fun y => y.id == q.id) then
          { q with lastRead := s.beats } else q)
      ∧ t.ctxs = (if (gatherPages s x job).any (fun p => p.any fun y => y.state == .demoted) then
          ctxMap s job.num fun c => { c with kvDemoted := true } else s).ctxs
      ∧ t = { s with out := [], mem := t.mem, qc := t.qc, pages := t.pages, ctxs := t.ctxs, passes := ran s x n } := by
  have hclean : Clean { s with out := [] } := ⟨h.canon.mem, h.clean.1, h.clean.2.1⟩
  have hdropped : ¬(gatherPages { s with out := [] } x job).any (fun p => p.any (fun q => q.state == .dropped)) = true := by
    rw [List.any_eq_true]
    rintro ⟨p, hp, hdrop⟩
    cases p with
    | none => exact Bool.false_ne_true hdrop
    | some p =>
      obtain ⟨q, hq, rfl⟩ := gatherPages_mem hp
      exact (hpages q hq).1 (eq_of_beq hdrop)
  obtain ⟨scaled, heq⟩ := kGatherPages_eq (s := { s with out := [] }) htens hjob hdropped
  obtain ⟨f, hkept⟩ := gatherMarked_kept { s with out := [] } job (gatherPages s x job)
  have hframe := gatherMarked_frame { s with out := [] } job (gatherPages s x job)
  have hmarked := gatherMarked_clean hclean job (gatherPages s x job)
  have hels (r : Nat) : gatherEls x job (gatherPages s x job) (gatherMarked { s with out := [] } job (gatherPages s x job)) r
      = gatherEls x job (gatherPages s x job) s r := by
    rw [hframe]
    rfl
  have hrow (r : Nat) : kRowIn (gatherMarked { s with out := [] } job (gatherPages s x job)) x (kNat x.k 8 1) staging r
      = kRowIn s x (kNat x.k 8 1) staging r := kRowIn_kept hkept x _ staging r
  have hspan (a n : Nat) : spanOpen (gatherMarked { s with out := [] } job (gatherPages s x job)) a n true = spanOpen s a n true := by
    rw [hframe]
    rfl
  change kGatherPages x { s with out := [] } = List.foldl _ (gatherMarked { s with out := [] } job (gatherPages s x job)) _ at heq
  generalize gatherMarked { s with out := [] } job (gatherPages s x job) = marked at *
  have hmoved := gatherRows_moved (job := job) (data := data) hmarked hz scaled (fun r hr => by rw [hels]; exact hdata r hr)
    (hlins.trans (by simp only [hrow])) honce (fun r hr hpos => by rw [hrow, hspan]; exact hopen r hr hpos)
    (fun p hp y hlow hhigh hy => by
      obtain ⟨q, hq, rfl⟩ := gatherPages_mem hp
      have hapart := (hpages q hq).2 y hy
      change y < (kPage x q).slot + pageBytes q.fmt q.scaled _ at hhigh
      omega)
  have hu : Moved marked (kGatherPages x { s with out := [] }) lins
      ((List.range (gatherRows x)).map fun r => (kRowIn marked x (kNat x.k 8 1) staging r, data r)) := by
    rw [heq]
    exact hmoved
  have hpages' : marked.pages = s.pages.map (fun q => if (gatherPages s x job).any (fun p => p.any fun y => y.id == q.id) then
      { q with lastRead := s.beats } else q) := by
    rw [hframe]
  have hctxs : marked.ctxs = (if (gatherPages s x job).any (fun p => p.any fun y => y.state == .demoted) then
      ctxMap s job.num fun c => { c with kvDemoted := true } else s).ctxs := by
    rw [hframe]
    dsimp only
    split
    · rfl
    · rfl
  have hmem : marked.mem = s.mem := by rw [hframe]
  clear heq
  generalize hf : kGatherPages x { s with out := [] } = u at hu
  have hstate : u = { s with out := [], mem := u.mem, qc := u.qc, pages := marked.pages, ctxs := marked.ctxs } := by
    rw [hu.frame, hframe]
  have hkernel : v.kernel.stack = x.k.stack := by rw [kernelRun_kernel h.runs]
  have hran : u.passes.map (fun p => if p = x.run.pass then { p with ran := (v.kernel.stack, n) :: p.ran } else p) = ran s x n := by
    rw [hstate, hkernel]
    rfl
  refine ⟨{ u with passes := ran s x n }, ?_, fun r hr => ?_, fun y hy => ?_, ?_, ?_, ?_⟩
  · rw [runKernel_sound h, hf, hran]
  · rw [← hrow]
    exact holds_same (hu.holds _ (List.mem_map_of_mem (List.mem_range.mpr hr))).1 rfl
  · exact (hu.but y hy).trans (memBut_same (l := []) hmem y List.not_mem_nil)
  · rw [hstate, hpages']
  · rw [hstate, hctxs]
  · rw [hstate]

end Sys2Proof.Machine

/-! Bits of packed elements, and the page-write form of SCATTER (R186). -/

namespace Sys2Proof.Machine

open Sys2Proof Sys2Proof.Terms

variable {s t u : State} {x : KRun} {k : Kernel} {a n m off : Nat} {b : Bytes} {code : KernelCode} {v : KernelEvent} {job : Ctx}

/-- Bit i of a byte string. -/
theorem testBit_leNat (b : Bytes) (i : Nat) : (leNat b).testBit i = (b.getD (i / 8) 0).toNat.testBit (i % 8) := by
  induction b generalizing i with
  | nil => simp [leNat]
  | cons y b ih =>
    have hy : y.toNat < 2 ^ 8 := y.isLt
    rw [leNat, Nat.add_comm, show (256 : Nat) = 2 ^ 8 from rfl, Nat.testBit_two_pow_mul_add _ hy]
    split
    · next hi => rw [Nat.div_eq_of_lt hi, Nat.mod_eq_of_lt hi, List.getD_cons_zero]
    · next hi =>
      obtain ⟨j, rfl⟩ : ∃ j, i = j + 8 := ⟨i - 8, by omega⟩
      rw [Nat.add_sub_cancel, ih, Nat.add_div_right _ (by decide), Nat.add_mod_right, List.getD_cons_succ]

/-- Bit b of the memory from a linear address on. -/
def pageBit (s : State) (slot b : Nat) : Bool := (byteAt s (slot + b / 8)).toNat.testBit (b % 8)

theorem testBit_bytesAt (s : State) (a n i : Nat) : (leNat (bytesAt s a n)).testBit i = (decide (i < 8 * n) && pageBit s a i) := by
  rw [testBit_leNat]
  unfold bytesAt pageBit
  by_cases hi : i < 8 * n
  · rw [List.getD_eq_getElem _ _ (by rw [List.length_map, List.length_range]; omega), List.getElem_map, List.getElem_range, decide_eq_true hi,
      Bool.true_and]
  · rw [List.getD_eq_default _ _ (by rw [List.length_map, List.length_range]; omega), decide_eq_false hi, Bool.false_and]
    exact Nat.zero_testBit _

theorem pageBit_add (s : State) (slot q r : Nat) : pageBit s (slot + q) r = pageBit s slot (8 * q + r) := by
  unfold pageBit
  rw [Nat.add_assoc, Nat.mul_add_div (by decide), Nat.mul_add_mod]

theorem testBit_pageElem (s : State) (slot fmt i j : Nat) :
    (pageElem s slot fmt i).testBit j = (decide (j < fmtWidth fmt) && pageBit s slot (fmtWidth fmt * i + j)) := by
  have hbytes : (pageElemLins slot fmt i).map (byteAt s)
      = bytesAt s (slot + fmtWidth fmt * i / 8) (ceilDiv (fmtWidth fmt * i % 8 + fmtWidth fmt) 8) := by
    unfold pageElemLins bytesAt
    rw [List.map_map]
    rfl
  unfold pageElem
  rw [hbytes, Nat.testBit_mod_two_pow, Nat.testBit_div_two_pow, testBit_bytesAt, pageBit_add]
  generalize fmtWidth fmt = w
  by_cases hj : j < w
  · rw [decide_eq_true hj, decide_eq_true (by unfold ceilDiv; omega), Bool.true_and, Bool.true_and]
    congr 1
    omega
  · rw [decide_eq_false hj, Bool.false_and, Bool.false_and]

theorem packNat_lt (w : Nat) (l : List Nat) : packNat w l < 2 ^ (w * l.length) := by
  induction l with
  | nil => exact Nat.one_pos
  | cons y l ih =>
    have hy : y % 2 ^ w < 2 ^ w := Nat.mod_lt _ (Nat.two_pow_pos w)
    rw [packNat, List.length_cons, Nat.mul_succ, Nat.add_comm (w * l.length), Nat.pow_add]
    calc y % 2 ^ w + 2 ^ w * packNat w l < 2 ^ w + 2 ^ w * packNat w l := by omega
      _ = 2 ^ w * (packNat w l + 1) := by ring
      _ ≤ 2 ^ w * 2 ^ (w * l.length) := Nat.mul_le_mul_left _ ih

/-- Bit j of packed element i. -/
theorem testBit_packNat {w j : Nat} (hj : j < w) (l : List Nat) (i : Nat) : (packNat w l).testBit (w * i + j) = (l.getD i 0).testBit j := by
  induction l generalizing i with
  | nil => simp [packNat]
  | cons y l ih =>
    have hy : y % 2 ^ w < 2 ^ w := Nat.mod_lt _ (Nat.two_pow_pos w)
    rw [packNat, Nat.add_comm, Nat.testBit_two_pow_mul_add _ hy]
    cases i with
    | zero => rw [Nat.mul_zero, Nat.zero_add, if_pos hj, Nat.testBit_mod_two_pow, decide_eq_true hj, Bool.true_and, List.getD_cons_zero]
    | succ i =>
      rw [if_neg (by rw [Nat.mul_succ]; omega), List.getD_cons_succ, ← ih i]
      congr 1
      rw [Nat.mul_succ]
      omega

/-- Bits of a number, from a place on, replaced by others. -/
def putBits (old sh top put : Nat) : Nat := old - (old / 2 ^ sh % 2 ^ top) * 2 ^ sh + put * 2 ^ sh

theorem testBit_putBits {old sh top put : Nat} (hput : put < 2 ^ top) (i : Nat) :
    (putBits old sh top put).testBit i = if sh ≤ i ∧ i < sh + top then put.testBit (i - sh) else old.testBit i := by
  have hlow : old % 2 ^ sh < 2 ^ sh := Nat.mod_lt _ (Nat.two_pow_pos sh)
  have hold : old = 2 ^ sh * (2 ^ top * (old / 2 ^ sh / 2 ^ top) + old / 2 ^ sh % 2 ^ top) + old % 2 ^ sh := by
    rw [Nat.div_add_mod, Nat.div_add_mod]
  have hnew : putBits old sh top put = 2 ^ sh * (2 ^ top * (old / 2 ^ sh / 2 ^ top) + put) + old % 2 ^ sh := by
    unfold putBits
    generalize old / 2 ^ sh / 2 ^ top = high at *
    generalize old / 2 ^ sh % 2 ^ top = mid at *
    generalize old % 2 ^ sh = low at *
    rw [hold, Nat.mul_add, Nat.mul_add, Nat.mul_comm mid, Nat.mul_comm put]
    omega
  rw [hnew]
  conv_rhs => rw [hold]
  rw [Nat.testBit_two_pow_mul_add _ hlow, Nat.testBit_two_pow_mul_add _ hlow]
  by_cases hi : i < sh
  · rw [if_pos hi, if_neg (by omega), if_pos hi]
  · rw [if_neg hi, if_neg hi, Nat.testBit_two_pow_mul_add _ hput, Nat.testBit_two_pow_mul_add _ (Nat.mod_lt _ (Nat.two_pow_pos top))]
    by_cases htop : i - sh < top
    · rw [if_pos htop, if_pos (by omega)]
    · rw [if_neg htop, if_neg (by omega), if_neg htop]

/-! ## Elements put in a page -/

/-- The bytes that elements from one on take. -/
def putLen (w i m : Nat) : Nat := ceilDiv (w * i % 8 + w * m) 8

/-- After the bytes of new elements are stored, their bits stand there, and every other bit is as it was. -/
theorem pageBit_put {slot w i : Nat} {bits : List Nat}
    (hput : bytesAt t (slot + w * i / 8) (putLen w i bits.length)
      = toLE (putBits (leNat (bytesAt s (slot + w * i / 8) (putLen w i bits.length))) (w * i % 8) (w * bits.length) (packNat w bits))
          (putLen w i bits.length))
    (hbut : ∀ y, (y < slot + w * i / 8 ∨ slot + w * i / 8 + putLen w i bits.length ≤ y) → byteAt t y = byteAt s y) (c : Nat) :
    pageBit t slot c = if w * i ≤ c ∧ c < w * i + w * bits.length then (packNat w bits).testBit (c - w * i) else pageBit s slot c := by
  have hlen : 8 * putLen w i bits.length < w * i % 8 + w * bits.length + 8 ∧ w * i % 8 + w * bits.length ≤ 8 * putLen w i bits.length := by
    unfold putLen ceilDiv
    omega
  have hbits := packNat_lt w bits
  generalize putLen w i bits.length = n at *
  generalize packNat w bits = put at *
  generalize w * bits.length = top at *
  by_cases hc : 8 * (w * i / 8) ≤ c ∧ c < 8 * (w * i / 8) + 8 * n
  · obtain ⟨r, rfl⟩ : ∃ r, c = 8 * (w * i / 8) + r := ⟨c - 8 * (w * i / 8), by omega⟩
    have hr : r < 8 * n := by omega
    have hbit (u : State) : pageBit u slot (8 * (w * i / 8) + r) = (leNat (bytesAt u (slot + w * i / 8) n)).testBit r := by
      rw [testBit_bytesAt, decide_eq_true hr, Bool.true_and, pageBit_add]
    rw [hbit t, hbit s, hput, leNat_toLE, show (256 : Nat) = 2 ^ 8 from rfl, ← Nat.pow_mul, Nat.testBit_mod_two_pow, decide_eq_true hr,
      Bool.true_and, testBit_putBits hbits]
    by_cases hin : w * i % 8 ≤ r ∧ r < w * i % 8 + top
    · rw [if_pos hin, if_pos (by omega)]
      congr 1
      omega
    · rw [if_neg hin, if_neg (by omega)]
  · rw [if_neg (by omega)]
    unfold pageBit
    rw [hbut _ (by omega)]

/-- After the bytes of new elements are stored, the page holds the new elements and the others. -/
theorem pageElem_put {slot fmt i : Nat} {bits : List Nat}
    (hput : bytesAt t (slot + fmtWidth fmt * i / 8) (putLen (fmtWidth fmt) i bits.length)
      = toLE (putBits (leNat (bytesAt s (slot + fmtWidth fmt * i / 8) (putLen (fmtWidth fmt) i bits.length))) (fmtWidth fmt * i % 8)
          (fmtWidth fmt * bits.length) (packNat (fmtWidth fmt) bits)) (putLen (fmtWidth fmt) i bits.length))
    (hbut : ∀ y, (y < slot + fmtWidth fmt * i / 8 ∨ slot + fmtWidth fmt * i / 8 + putLen (fmtWidth fmt) i bits.length ≤ y) →
      byteAt t y = byteAt s y) (e : Nat) :
    pageElem t slot fmt e = if i ≤ e ∧ e < i + bits.length then bits.getD (e - i) 0 % 2 ^ fmtWidth fmt else pageElem s slot fmt e := by
  refine Nat.eq_of_testBit_eq fun j => ?_
  rw [testBit_pageElem, pageBit_put hput hbut]
  generalize hw : fmtWidth fmt = w
  by_cases hj : j < w
  · rw [decide_eq_true hj, Bool.true_and]
    by_cases he : i ≤ e ∧ e < i + bits.length
    · obtain ⟨k, rfl⟩ := Nat.exists_eq_add_of_le he.1
      have hk : w * k + w ≤ w * bits.length := Nat.mul_le_mul_left w (show k + 1 ≤ bits.length by omega)
      rw [if_pos he, if_pos (by rw [Nat.mul_add]; omega), Nat.add_sub_cancel_left, Nat.testBit_mod_two_pow, decide_eq_true hj, Bool.true_and,
        ← testBit_packNat hj]
      congr 1
      rw [Nat.mul_add]
      omega
    · have hout : ¬(w * i ≤ w * e + j ∧ w * e + j < w * i + w * bits.length) := by
        rw [← Nat.mul_add]
        rintro ⟨hlow, hhigh⟩
        refine he ⟨?_, ?_⟩
        · by_contra hlt
          have := Nat.mul_le_mul_left w (show e + 1 ≤ i by omega)
          rw [Nat.mul_add] at this
          omega
        · by_contra hge
          have := Nat.mul_le_mul_left w (Nat.not_lt.mp hge)
          omega
      rw [if_neg he, if_neg hout, testBit_pageElem, hw, decide_eq_true hj, Bool.true_and]
  · have hmod (z : Nat) : (z % 2 ^ w).testBit j = false := by
      rw [Nat.testBit_mod_two_pow, decide_eq_false hj, Bool.false_and]
    rw [decide_eq_false hj, Bool.false_and]
    split
    · rw [hmod]
    · rw [testBit_pageElem, hw, decide_eq_false hj, Bool.false_and]

/-! ## Work in a page -/

/-- Memory alone has been written, between two linear addresses. -/
structure InPage (s t : State) (low high : Nat) : Prop where
  frame : t = { s with mem := t.mem, qc := t.qc }
  clean : Clean t
  but : ∀ y, (y < low ∨ high ≤ y) → byteAt t y = byteAt s y

theorem inPage_refl (h : Clean s) (low high : Nat) : InPage s s low high := ⟨rfl, h, fun _ _ => rfl⟩

theorem inPage_trans {low high : Nat} (hst : InPage s t low high) (htu : InPage t u low high) : InPage s u low high := by
  refine ⟨?_, htu.clean, fun y hy => (htu.but y hy).trans (hst.but y hy)⟩
  rw [htu.frame, hst.frame]

theorem spanOpen_inPage {low high : Nat} (h : InPage s t low high) (a n : Nat) (write : Bool) : spanOpen t a n write = spanOpen s a n write := by
  rw [h.frame]
  rfl

/-- Elements put in a page are read back, and the others stay. -/
theorem putElems_put (h : Clean s) {slot fmt i : Nat} {bits : List Nat} (jobs : List Nat)
    (hopen : 0 < putLen (fmtWidth fmt) i bits.length →
      spanOpen s (slot + fmtWidth fmt * i / 8) (putLen (fmtWidth fmt) i bits.length) true = true)
    {high : Nat} (hin : slot + fmtWidth fmt * i / 8 + putLen (fmtWidth fmt) i bits.length ≤ high) (hlinear : high ≤ 0x10000000000) :
    InPage s (putElems s jobs slot fmt i bits) slot high
      ∧ ∀ e, pageElem (putElems s jobs slot fmt i bits) slot fmt e
          = if i ≤ e ∧ e < i + bits.length then bits.getD (e - i) 0 % 2 ^ fmtWidth fmt else pageElem s slot fmt e := by
  obtain ⟨data, hdata⟩ : ∃ data, data = toLE (putBits (leNat (bytesAt s (slot + fmtWidth fmt * i / 8) (putLen (fmtWidth fmt) i bits.length)))
      (fmtWidth fmt * i % 8) (fmtWidth fmt * bits.length) (packNat (fmtWidth fmt) bits)) (putLen (fmtWidth fmt) i bits.length) := ⟨_, rfl⟩
  have hdef : putElems s jobs slot fmt i bits = kWrite s jobs (slot + fmtWidth fmt * i / 8) data := by
    rw [hdata]
    rfl
  have hlen : data.length = putLen (fmtWidth fmt) i bits.length := by rw [hdata, length_toLE]
  rw [hdef]
  rw [← hlen] at hin hopen
  obtain ⟨g, q, heq, hform, hbut⟩ := kWrite_any h jobs (slot + fmtWidth fmt * i / 8) data
  have hread : bytesAt (kWrite s jobs (slot + fmtWidth fmt * i / 8) data) (slot + fmtWidth fmt * i / 8) data.length = data := by
    rw [← spanRead_linear _ (by omega)]
    exact holds_kWrite h hopen (spanLinear_nodup (by omega)) jobs
  have hother (y : Nat) (hy : y < slot + fmtWidth fmt * i / 8 ∨ slot + fmtWidth fmt * i / 8 + data.length ≤ y) :
      byteAt (kWrite s jobs (slot + fmtWidth fmt * i / 8) data) y = byteAt s y := by
    refine hbut y fun hmem => ?_
    rw [spanLinear_linear (by omega)] at hmem
    obtain ⟨j, hj, rfl⟩ := List.mem_map.mp hmem
    rw [List.mem_range] at hj
    omega
  refine ⟨⟨by rw [heq], by rw [heq]; exact ⟨hform, h.poison, h.soft⟩, fun y hy => hother y (by omega)⟩, pageElem_put ?_ ?_⟩
  · rw [← hlen, hread, hdata, length_toLE]
  · rw [← hlen]
    exact hother

/-! ## SCATTER -/

/-- The elements that SCATTER takes from staging row r. -/
def scatterBits (x : KRun) (staging : Tensor) (fmt : Nat) (s : State) (r : Nat) : List Nat :=
  if kNat x.k 9 1 = 0 then (kRead s fmt (kRowIn s x (kNat x.k 8 1) staging r) (kNat x.k 14 2) none).map (·.raw)
  else [elemAt (fmtWidth fmt) (kBytes s (kRowIn s x (kNat x.k 8 1) staging r) (packedBytes (fmtWidth fmt) 1)) 0]

/-- Whether staging row r cannot be read. -/
def scatterBad (x : KRun) (staging : Tensor) (fmt : Nat) (s : State) (r : Nat) : Bool :=
  if kNat x.k 9 1 = 0 then (kRead s fmt (kRowIn s x (kNat x.k 8 1) staging r) (kNat x.k 14 2) none).any (·.bad)
  else kPoison s (kRowIn s x (kNat x.k 8 1) staging r) (packedBytes (fmtWidth fmt) 1)

/-- The elements of a row of the page-write form: those of a head for K, one for V. -/
def scatterRun (x : KRun) : Nat := if kNat x.k 9 1 = 0 then kNat x.k 14 2 else 1

/-- The rows of the page-write form of one token. -/
def scatterCount (x : KRun) : Nat := if kNat x.k 9 1 = 0 then kNat x.k 12 2 else kNat x.k 12 2 * kNat x.k 14 2

/-- Where row r goes in the page, for token position i. -/
def scatterPlace (x : KRun) (i r : Nat) : Nat := pageElemNo (kNat x.k 9 1) (kNat x.k 12 2 * kNat x.k 14 2) (r * scatterRun x) i

/-- One row of the page-write form of one token. -/
def scatterRow (x : KRun) (job : Ctx) (staging : Tensor) (slot fmt i : Nat) (s : State) (r : Nat) : State :=
  if scatterBad x staging fmt s r then failAt s [job.num] .eccUncorrectable
  else putElems s [job.num] slot fmt (scatterPlace x i r) (scatterBits x staging fmt s r)

theorem pageElemNo_channels {kind : Nat} (h : kind ≠ 0) (c ch i : Nat) : pageElemNo kind c ch i = pageElemNo 1 c ch i := by
  unfold pageElemNo
  rw [if_neg h]
  rfl

theorem scatterToken_eq {staging : Tensor} (hz : tensorGet x.run.img (staging.id + 1) = none) (htokens : kNat x.k 16 4 = 1)
    (hjob : job.recomputing = false) {own : Page} (hown : writablePage s x job (job.length / 256) = some own) :
    scatterToken x job staging s 0 =
      if own.valid < job.length % 256 + 1 then
        pagePut ((List.range (scatterCount x)).foldl (scatterRow x job staging (kPage x own).slot own.home (job.length % 256)) s)
          { own with valid := job.length % 256 + 1 }
      else (List.range (scatterCount x)).foldl (scatterRow x job staging (kPage x own).slot own.home (job.length % 256)) s := by
  have hplace : tokenPlace s x job 0 = some (job.length / 256, job.length % 256) := by
    unfold tokenPlace
    rw [if_neg (by rw [hjob]; exact Bool.false_ne_true)]
    rfl
  unfold scatterToken
  rw [hplace]
  dsimp only [Option.bind_some]
  rw [hown, hz, htokens]
  dsimp only
  refine congrArg (fun u => if own.valid < job.length % 256 + 1 then pagePut u { own with valid := job.length % 256 + 1 } else u) ?_
  unfold scatterCount
  by_cases hk : kNat x.k 9 1 = 0
  · rw [if_pos hk]
    refine List.foldl_ext _ _ _ fun t h _ => ?_
    unfold scatterRow scatterBad scatterBits scatterPlace scatterRun
    rw [if_pos hk, if_pos hk, if_pos hk, if_pos hk, hk]
    rw [Nat.mul_one, Nat.add_zero, List.any_nil, Bool.or_false]
    rfl
  · rw [if_neg hk, ← foldl_nested]
    refine List.foldl_ext _ _ _ fun t h _ => ?_
    rw [if_neg hk]
    refine List.foldl_ext _ _ _ fun t ch _ => ?_
    unfold scatterRow scatterBad scatterBits scatterPlace scatterRun
    rw [if_neg hk, if_neg hk, if_neg hk, Nat.mul_one, Option.map_none, Option.any_none, Bool.and_false, Bool.or_false, pageElemNo_channels hk]
    rfl

/-- What SCATTER takes of a row that it may read is the row's elements. -/
theorem scatterBits_read (hstores : s.stores = []) {staging : Tensor} {fmt r : Nat}
    (hopen : spanOpen s (kRowIn s x (kNat x.k 8 1) staging r) (packedBytes (fmtWidth fmt) (scatterRun x)) = true) :
    scatterBits x staging fmt s r = (List.range (scatterRun x)).map
      (elemAt (fmtWidth fmt) (spanRead s (kRowIn s x (kNat x.k 8 1) staging r) (packedBytes (fmtWidth fmt) (scatterRun x)))) := by
  have hbytes {a n : Nat} (ho : spanOpen s a n = true) : kBytes s a n = spanRead s a n := by
    unfold kBytes
    rw [if_pos ho]
    refine List.map_congr_left fun y _ => ?_
    unfold kByte
    rw [hstores]
    rfl
  unfold scatterRun at hopen ⊢
  unfold scatterBits
  split at hopen
  · next hk =>
    rw [if_pos hk, if_pos hk, ← hbytes hopen]
    unfold kRead
    rw [List.map_map]
    rfl
  · next hk =>
    rw [if_neg hk, if_neg hk, hbytes hopen]
    rfl

theorem scatterBad_clean (h : Clean s) (x : KRun) (staging : Tensor) (fmt r : Nat) : scatterBad x staging fmt s r = false := by
  unfold scatterBad
  split
  · rw [List.any_eq_false]
    intro y hy
    rw [kRead_clean h _ _ _ _ y hy]
    exact Bool.false_ne_true
  · exact kPoison_clean h _ _

theorem elemAt_lt (w : Nat) (b : Bytes) (i : Nat) : elemAt w b i < 2 ^ w := Nat.mod_lt _ (Nat.two_pow_pos w)

/-! ### The places of the rows -/

/-- Elements of one token, of the channels of a row, stand one after the other. -/
theorem pageElemNo_run {i r j : Nat} (hj : j < scatterRun x) :
    pageElemNo (kNat x.k 9 1) (kNat x.k 12 2 * kNat x.k 14 2) (r * scatterRun x + j) i = scatterPlace x i r + j := by
  unfold scatterPlace scatterRun pageElemNo at *
  split
  · rw [Nat.add_assoc]
  · next hk =>
    rw [if_neg hk] at hj
    obtain rfl : j = 0 := by omega
    rw [Nat.add_zero, Nat.add_zero]

theorem channel_lt {r j : Nat} (hr : r < scatterCount x) (hj : j < scatterRun x) :
    r * scatterRun x + j < kNat x.k 12 2 * kNat x.k 14 2 := by
  unfold scatterCount scatterRun at *
  split at hr
  · next hk =>
    rw [if_pos hk] at hj ⊢
    have hrow : (r + 1) * kNat x.k 14 2 ≤ kNat x.k 12 2 * kNat x.k 14 2 := Nat.mul_le_mul_right _ hr
    rw [Nat.succ_mul] at hrow
    omega
  · next hk =>
    rw [if_neg hk] at hj ⊢
    omega

/-- Two rows have no place in common. -/
theorem scatterPlace_apart (i : Nat) {r q : Nat} (hrq : r < q) {j : Nat} (hj : j < scatterRun x) :
    scatterPlace x i r + j < scatterPlace x i q := by
  unfold scatterPlace scatterRun pageElemNo at *
  split
  · next hk =>
    rw [if_pos hk] at hj
    have hnext : (r + 1) * kNat x.k 14 2 ≤ q * kNat x.k 14 2 := Nat.mul_le_mul_right _ hrq
    rw [Nat.succ_mul] at hnext
    omega
  · next hk =>
    rw [if_neg hk] at hj
    omega

theorem scatterPlace_le {i r : Nat} (hi : i < 256) (hr : r < scatterCount x) :
    scatterPlace x i r + scatterRun x ≤ pageElems (kNat x.k 12 2 * kNat x.k 14 2) := by
  unfold scatterPlace scatterRun scatterCount pageElemNo pageElems at *
  split at hr
  · next hk =>
    have hrow : (r + 1) * kNat x.k 14 2 ≤ kNat x.k 12 2 * kNat x.k 14 2 := Nat.mul_le_mul_right _ hr
    have htoken : (i + 1) * (kNat x.k 12 2 * kNat x.k 14 2) ≤ 256 * (kNat x.k 12 2 * kNat x.k 14 2) := Nat.mul_le_mul_right _ hi
    rw [Nat.succ_mul] at hrow htoken
    rw [if_pos hk, if_pos hk]
    omega
  · next hk =>
    rw [if_neg hk, if_neg hk]
    omega

theorem scatterPlace_page {i r : Nat} (hi : i < 256) (hr : r < scatterCount x) (slot fmt : Nat) :
    slot + fmtWidth fmt * scatterPlace x i r / 8 + putLen (fmtWidth fmt) (scatterPlace x i r) (scatterRun x)
      ≤ slot + pageBytes fmt false (kNat x.k 12 2 * kNat x.k 14 2) := by
  have hle := Nat.mul_le_mul_left (fmtWidth fmt) (scatterPlace_le hi hr)
  rw [Nat.mul_add] at hle
  unfold putLen pageBytes packedBytes ceilDiv
  rw [if_neg Bool.false_ne_true]
  omega

/-! ### The rows of one token -/

/-- After some rows of a token: their elements stand in the page, and the others are as before. -/
structure RowsPut (x : KRun) (slot fmt i : Nat) (elem : Nat → Nat → Nat) (s t : State) (count : Nat) : Prop where
  page : InPage s t slot (slot + pageBytes fmt false (kNat x.k 12 2 * kNat x.k 14 2))
  put : ∀ r < count, ∀ j < scatterRun x, pageElem t slot fmt (scatterPlace x i r + j) = elem r j
  kept : ∀ e, (∀ r < count, ¬(scatterPlace x i r ≤ e ∧ e < scatterPlace x i r + scatterRun x)) → pageElem t slot fmt e = pageElem s slot fmt e

theorem spanRead_inPage {low high : Nat} (h : InPage s t low high) {a n : Nat} (hout : ∀ y ∈ spanLinear a n, y < low ∨ high ≤ y) :
    spanRead t a n = spanRead s a n := List.map_congr_left fun y hy => h.but y (hout y hy)

theorem scatterRows_put (h : Clean s) (hstores : s.stores = []) {staging : Tensor} {slot fmt i : Nat} (hi : i < 256)
    (hlinear : slot + pageBytes fmt false (kNat x.k 12 2 * kNat x.k 14 2) ≤ 0x10000000000)
    (hread : ∀ r < scatterCount x, spanOpen s (kRowIn s x (kNat x.k 8 1) staging r) (packedBytes (fmtWidth fmt) (scatterRun x)) = true)
    (hopen : ∀ r < scatterCount x, 0 < putLen (fmtWidth fmt) (scatterPlace x i r) (scatterRun x) →
      spanOpen s (slot + fmtWidth fmt * scatterPlace x i r / 8) (putLen (fmtWidth fmt) (scatterPlace x i r) (scatterRun x)) true = true)
    (hout : ∀ r < scatterCount x, ∀ y ∈ spanLinear (kRowIn s x (kNat x.k 8 1) staging r) (packedBytes (fmtWidth fmt) (scatterRun x)),
      y < slot ∨ slot + pageBytes fmt false (kNat x.k 12 2 * kNat x.k 14 2) ≤ y) {count : Nat} (hcount : count ≤ scatterCount x) :
    RowsPut x slot fmt i (fun r => elemAt (fmtWidth fmt) (spanRead s (kRowIn s x (kNat x.k 8 1) staging r) (packedBytes (fmtWidth fmt) (scatterRun x))))
      s ((List.range count).foldl (scatterRow x job staging slot fmt i) s) count := by
  induction count with
  | zero => exact ⟨inPage_refl h _ _, fun r hr => absurd hr (Nat.not_lt_zero r), fun _ _ => rfl⟩
  | succ count ih =>
    have ih := ih (by omega)
    rw [List.range_succ, List.foldl_append]
    generalize (List.range count).foldl (scatterRow x job staging slot fmt i) s = t at ih ⊢
    change RowsPut x slot fmt i _ s (scatterRow x job staging slot fmt i t count) _
    have hrow : kRowIn t x (kNat x.k 8 1) staging count = kRowIn s x (kNat x.k 8 1) staging count := by
      rw [ih.page.frame]
      rfl
    have hbits : scatterBits x staging fmt t count = (List.range (scatterRun x)).map
        (elemAt (fmtWidth fmt) (spanRead s (kRowIn s x (kNat x.k 8 1) staging count) (packedBytes (fmtWidth fmt) (scatterRun x)))) := by
      rw [scatterBits_read (by rw [ih.page.frame]; exact hstores) (by rw [hrow, spanOpen_inPage ih.page]; exact hread count hcount), hrow,
        spanRead_inPage ih.page (hout count hcount)]
    have hlen : (scatterBits x staging fmt t count).length = scatterRun x := by rw [hbits, List.length_map, List.length_range]
    have hdef : scatterRow x job staging slot fmt i t count
        = putElems t [job.num] slot fmt (scatterPlace x i count) (scatterBits x staging fmt t count) := by
      unfold scatterRow
      rw [scatterBad_clean ih.page.clean]
      rfl
    obtain ⟨hpage, helem⟩ := putElems_put ih.page.clean (slot := slot) (fmt := fmt) (i := scatterPlace x i count)
      (bits := scatterBits x staging fmt t count) [job.num]
      (by rw [hlen, spanOpen_inPage ih.page]; exact hopen count hcount) (by rw [hlen]; exact scatterPlace_page hi hcount slot fmt) hlinear
    rw [hlen] at helem
    rw [hdef]
    refine ⟨inPage_trans ih.page hpage, fun r hr j hj => ?_, fun e he => ?_⟩
    · rw [helem]
      obtain hr | rfl := Nat.lt_succ_iff_lt_or_eq.mp hr
      · have hbefore := scatterPlace_apart i hr hj
        rw [if_neg (by omega)]
        exact ih.put r hr j hj
      · rw [if_pos (by omega), Nat.add_sub_cancel_left, hbits, List.getD_eq_getElem _ _ (by rw [List.length_map, List.length_range]; exact hj),
          List.getElem_map, List.getElem_range, Nat.mod_eq_of_lt (elemAt_lt _ _ _)]
    · rw [helem, if_neg (he count (Nat.lt_succ_self count))]
      exact ih.kept e fun r hr => he r (Nat.lt_succ_of_lt hr)

theorem kScatterPages_eq {staging : Tensor} (htens : kTens x 4 = some staging) (hjob : jobOf s x.run (kNat x.k 8 1) = some job)
    (htokens : kNat x.k 16 4 = 1) : kScatterPages x s = scatterToken x job staging s 0 := by
  unfold kScatterPages
  rw [htens, hjob, htokens]
  rfl

/-- A page's descriptor shows the tokens that it holds. -/
theorem validShown (h : Clean t) {p : Page} (hp : pageGet t p.id = some p) (hdesc : descAddr t p.id + 32 ≤ 0x10000000000) (valid : Nat) :
    ∃ u, (if p.valid < valid then pagePut t { p with valid := valid } else t) = u
      ∧ pageGet u p.id = some { p with valid := max p.valid valid } ∧ u = { t with mem := u.mem, pages := u.pages }
      ∧ ∀ y, (y < descAddr t p.id ∨ descAddr t p.id + 32 ≤ y) → byteAt u y = byteAt t y := by
  by_cases hlt : p.valid < valid
  · rw [if_pos hlt, Nat.max_eq_right (Nat.le_of_lt hlt)]
    exact pagePut_spec (p := { p with valid := valid }) h.poison h.soft h.form hdesc
  · rw [if_neg hlt, Nat.max_eq_left (Nat.not_lt.mp hlt)]
    exact ⟨t, rfl, hp, rfl, fun _ _ => rfl⟩

theorem pageElem_kept {slot fmt c e : Nat} (he : e < pageElems c)
    (h : ∀ y, slot ≤ y → y < slot + pageBytes fmt false c → byteAt t y = byteAt s y) : pageElem t slot fmt e = pageElem s slot fmt e := by
  unfold pageElem
  rw [List.map_congr_left fun y hy => by
    obtain ⟨hlow, hhigh⟩ := pageElemLins_page he hy false
    exact h y hlow hhigh]

end Sys2Proof.Machine

/-! O42: the page forms of GATHER and SCATTER (R185, R186). -/

namespace Sys2Proof.Machine

open Sys2Proof Sys2Proof.Terms

/-- Settles O42: the staging rows of GATHER are written one by one, the rows of SCATTER bit for bit into the page. -/
theorem pageKernelsMoveTokens : Obligations.PageKernelsMoveTokens := by
  unfold Obligations.PageKernelsMoveTokens
  intro s v x n job staging hform htens hjob hz kind layer heads d tokens rowAt hkind
  refine ⟨?_, ?_⟩
  · intro h pages elem rows row len lins honce hopen hpages
    have helem (ch tok : Nat) : (gatherElem x job (gatherPages s x job) s ch tok).1 = elem ch tok := by
      have hlist : pages = gatherPages s x job := rfl
      dsimp only [elem]
      rw [hlist]
      unfold gatherElem
      cases hp : (gatherPages s x job).getD (tok / 256) none with
      | none => rfl
      | some p =>
        obtain ⟨q, hq, rfl⟩ := gatherPages_mem (mem_of_getD hp)
        have hstate : (kPage x q).state ≠ .dropped := (hpages q hq).1
        dsimp only
        by_cases hin : tok < job.length ∧ tok % 256 < (kPage x q).valid
        · rw [if_pos ⟨hin.1, hin.2, hstate⟩, if_pos hin]
        · rw [if_neg fun hall => hin ⟨hall.1, hall.2.1⟩, if_neg hin]
    have hrow (r : Nat) : (gatherEls x job (gatherPages s x job) s r).map (·.1) = row r := by
      unfold gatherEls
      dsimp only [row]
      split
      · rw [List.map_map]
        exact List.map_congr_left fun ch _ => helem _ _
      · rw [List.map_map]
        exact List.map_congr_left fun tok _ => helem _ _
    have hlen (r : Nat) : (pack (fmtWidth staging.fmt) (row r)).length = len := by
      rw [length_pack]
      dsimp only [row, len]
      split
      · rw [List.length_map, List.length_range]
      · rw [List.length_map, List.length_range]
    have hlins : lins = (List.range (gatherRows x)).flatMap fun r =>
        spanLinear (kRowIn s x (kNat x.k 8 1) staging r) (pack (fmtWidth staging.fmt) (row r)).length := by
      simp only [hlen]
      rfl
    obtain ⟨t, ht, hheld, hbut, hpagest, hctxs, hframe⟩ := gatherPages_move h htens hjob hz (data := fun r => pack (fmtWidth staging.fmt) (row r))
      (fun r _ => by rw [hrow]) hlins honce
      (fun r hr hpos => by
        rw [hlen] at hpos ⊢
        exact hopen (rowAt r, len) (List.mem_map_of_mem (List.mem_range.mpr hr)) hpos) hpages
    refine ⟨t, ?_, hheld, hbut, hpagest, hctxs, hframe⟩
    change Host.Outcome.next (if kNat v.kernel 0 1 = 0 then _ else runKernel .gather v kGatherPages s) = _
    rw [if_neg hform, ht]
  · intro p h htokens hfresh hmapped hrange hget hlive hrefs hscaled slot hslot hdesc hapart w run count len place hread hopen hout
    have hclean : Clean { s with out := [] } := ⟨h.canon.mem, h.clean.1, h.clean.2.1⟩
    have hi : job.length % 256 < 256 := Nat.mod_lt _ (by decide)
    have hown : writablePage { s with out := [] } x job (job.length / 256) = some p := by
      have hfilter : (p.state == .live && p.refs == 1 && (if job.recomputing then p.fresh else (writeRange job).contains (job.length / 256)))
          = true := by
        rw [hlive, hrefs, hfresh, hrange]
        rfl
      exact (congrArg (Option.filter _) hmapped).trans (Option.filter_some_pos hfilter)
    have hrows := scatterRows_put (job := job) hclean h.clean.2.2 (slot := slot) (fmt := p.home) hi hslot hread
      (fun r hr hpos => hopen (slot + place r / 8, ceilDiv (place r % 8 + w * run) 8) (List.mem_map_of_mem (List.mem_range.mpr hr)) hpos)
      (fun r hr y hy => (hout r hr y hy).1) (Nat.le_refl _)
    have hf : kScatterPages x { s with out := [] } = _ := (kScatterPages_eq (s := { s with out := [] }) htens hjob htokens).trans
      (scatterToken_eq (s := { s with out := [] }) hz htokens hfresh hown)
    change kScatterPages x { s with out := [] } = if p.valid < job.length % 256 + 1 then
      pagePut ((List.range (scatterCount x)).foldl (scatterRow x job staging slot p.home (job.length % 256)) { s with out := [] }) _
      else (List.range (scatterCount x)).foldl (scatterRow x job staging slot p.home (job.length % 256)) { s with out := [] } at hf
    generalize (List.range (scatterCount x)).foldl (scatterRow x job staging slot p.home (job.length % 256)) { s with out := [] } = t at hrows hf
    have hdescs : descAddr t p.id = descAddr s p.id := by
      rw [hrows.page.frame]
      rfl
    have hpage : pageGet t p.id = some p := by
      rw [hrows.page.frame]
      exact hget
    obtain ⟨u, hu, hvalid, hframe, hother⟩ := validShown hrows.page.clean hpage (by rw [hdescs]; exact hdesc) (job.length % 256 + 1)
    rw [hu] at hf
    rw [hdescs] at hother
    have hstate : u = { s with out := [], mem := u.mem, qc := u.qc, pages := u.pages } := by
      rw [hframe, hrows.page.frame]
    have hkernel : v.kernel.stack = x.k.stack := by rw [kernelRun_kernel h.runs]
    have hran : u.passes.map (fun p => if p = x.run.pass then { p with ran := (v.kernel.stack, n) :: p.ran } else p) = ran s x n := by
      rw [hstate, hkernel]
      rfl
    have hkept (e : Nat) (he : e < pageElems (heads * d)) : pageElem u slot p.home e = pageElem t slot p.home e :=
      pageElem_kept he fun y hlow hhigh => hother y (by omega)
    refine ⟨{ u with passes := ran s x n }, ?_, fun r hr ch hch => ?_, fun e he hfar => ?_, fun y hy hydesc => ?_, hvalid, ?_⟩
    · change Host.Outcome.next (if kNat v.kernel 0 1 = 0 then _ else runKernel .scatter v kScatterPages s) = _
      rw [if_neg hform, runKernel_sound h, hf, hran]
    · have hchannel : r * d + ch < heads * d := by
        have hhead : (r + 1) * d ≤ heads * d := Nat.mul_le_mul_right d hr
        rw [Nat.succ_mul] at hhead
        omega
      refine (hkept _ (pageElemNo_lt hchannel hi)).trans ?_
      by_cases hk : kind = 0
      · have hrun : scatterRun x = d := if_pos hk
        have hat := pageElemNo_run (x := x) (i := job.length % 256) (r := r) (j := ch) (by rw [hrun]; exact hch)
        rw [hrun] at hat
        rw [if_pos hk, hat]
        exact hrows.put r (by rw [show scatterCount x = heads from if_pos hk]; exact hr) ch (by rw [hrun]; exact hch)
      · have hrun : scatterRun x = 1 := if_neg hk
        have hat := pageElemNo_run (x := x) (i := job.length % 256) (r := r * d + ch) (j := 0) (by rw [hrun]; exact Nat.one_pos)
        rw [hrun, Nat.mul_one, Nat.add_zero] at hat
        rw [if_neg hk, hat]
        exact hrows.put (r * d + ch) (by rw [show scatterCount x = heads * d from if_neg hk]; exact hchannel) 0 (by rw [hrun]; exact Nat.one_pos)
    · refine (hkept e he).trans (hrows.kept e fun r hr hin => ?_)
      obtain ⟨j, rfl⟩ := Nat.exists_eq_add_of_le hin.1
      have hj : j < scatterRun x := by omega
      exact hfar (r * scatterRun x + j) (channel_lt hr hj) (pageElemNo_run hj).symm
    · exact (hother y hydesc).trans (hrows.page.but y hy)
    · rw [hstate]

end Sys2Proof.Machine

/-! What a state has put out changes no work: memory, logs and words in error. -/

namespace Sys2Proof.Machine

open Sys2Proof Sys2Proof.Terms

variable {s t u : State} {o : List Output} {a n : Nat} {b : Bytes}

/-- The state with other outputs. -/
def aside (o : List Output) (s : State) : State := { s with out := o }

theorem foldl_aside {α : Type} {f g : State → α → State} (h : ∀ s y, g (aside o s) y = aside o (f s y)) (l : List α) (s : State) :
    l.foldl g (aside o s) = aside o (l.foldl f s) := List.foldl_hom (aside o) h

theorem ite_aside {c d : Prop} [Decidable c] [Decidable d] {x y x' y' : State} (hc : d = c) (hx : x' = aside o x) (hy : y' = aside o y) :
    (if d then x' else y') = aside o (if c then x else y) := by
  subst hc hx hy
  split
  · rfl
  · rfl

theorem taintSet_aside (s : State) (a n : Nat) (bad : Bool) : taintSet (aside o s) a n bad = aside o (taintSet s a n bad) :=
  ite_aside rfl rfl (ite_aside rfl rfl rfl)

theorem softClear_aside (s : State) (lins : List Nat) : softClear (aside o s) lins = aside o (softClear s lins) :=
  ite_aside rfl rfl rfl

theorem poisonClear_aside (s : State) (lins : List Nat) : poisonClear (aside o s) lins = aside o (poisonClear s lins) := by
  unfold poisonClear
  rw [softClear_aside]
  exact ite_aside rfl rfl rfl

theorem storeBytes_aside (s : State) (a : Nat) (b : Bytes) : storeBytes (aside o s) a b = aside o (storeBytes s a b) :=
  ite_aside rfl (softClear_aside (spanWrite s a b) _) (poisonClear_aside { s with mem := _ } _)

theorem winWrite_aside (s : State) (a : Nat) (b : Bytes) (bad : Bool) :
    winWrite (aside o s) a b bad = ((winWrite s a b bad).1, aside o (winWrite s a b bad).2) := by
  refine Prod.ext rfl ?_
  have hput : (if s.poison.isEmpty && s.soft.isEmpty then bytesPut (aside o s) a b else storeBytes (aside o s) a b)
      = aside o (if s.poison.isEmpty && s.soft.isEmpty then bytesPut s a b else storeBytes s a b) :=
    ite_aside rfl rfl (storeBytes_aside s a b)
  exact (congrArg (fun z => taintSet z a b.length bad) hput).trans (taintSet_aside _ a b.length bad)

theorem winWriteAt_aside (s : State) (a : Nat) (b : Bytes) (bad : List Nat) :
    winWriteAt (aside o s) a b bad = ((winWriteAt s a b bad).1, aside o (winWriteAt s a b bad).2) := by
  unfold winWriteAt
  rw [winWrite_aside]
  exact Prod.ext rfl (foldl_aside (fun _ _ => taintSet_aside _ _ _ _) _ _)

theorem failAt_aside (s : State) (l : List Nat) (c : Code) : failAt (aside o s) l c = aside o (failAt s l c) := rfl

theorem putStep_aside (s : State) (e off : Nat) (data : Bytes) (bad jobs : List Nat) :
    putStep (aside o s) e off data bad jobs = aside o (putStep s e off data bad jobs) := by
  unfold putStep
  rw [winWriteAt_aside]
  exact ite_aside rfl rfl rfl

theorem engSet_aside (s : State) (e : Nat) (x : Engine) : engSet (aside o s) e x = aside o (engSet s e x) := rfl

theorem engGet_aside (s : State) (e : Nat) : engGet (aside o s) e = engGet s e := rfl

theorem engineFenced_aside (s : State) (e : Nat) : engineFenced (aside o s) e = engineFenced s e := rfl

theorem taskAt_aside (s : State) (e cycle rank : Nat) (t : Task) : taskAt (aside o s) e cycle rank t = aside o (taskAt s e cycle rank t) := rfl

theorem logEvent_aside (s : State) (code : Nat) (unit : BitVec 16) (n : Option Nat) (b : Bytes) :
    logEvent (aside o s) code unit n b = aside o (logEvent s code unit n b) := rfl

theorem poisonAdd_aside (s : State) (w : Nat) : poisonAdd (aside o s) w = aside o (poisonAdd s w) := ite_aside rfl rfl rfl

theorem regSetF_aside (s : State) (off hi lo v : Nat) : regSetF (aside o s) off hi lo v = aside o (regSetF s off hi lo v) := rfl

theorem regCount_aside (s : State) (off hi lo v : Nat) : regCount (aside o s) off hi lo v = aside o (regCount s off hi lo v) := rfl

theorem notice_aside (s : State) (n : Nat) : notice (aside o s) n = aside o (notice s n) := rfl

theorem beginHealth_aside (s : State) : beginHealth (aside o s) = aside o (beginHealth s) := ite_aside rfl rfl rfl

/-- Two steps of work one after the other. -/
theorem then_aside {f g : State → State} (hf : ∀ s, f (aside o s) = aside o (f s)) (hg : ∀ s, g (aside o s) = aside o (g s)) (s : State) :
    g (f (aside o s)) = aside o (g (f s)) := by rw [hf, hg]

/-- What is noted of an error: the word, the event, the counter and the cause. -/
def errorNoted (lin code : Nat) (unit : BitVec 16) (detail : Bytes) (off c cause : Nat) (s : State) : State :=
  notice (regSetF (regCount (logEvent (poisonAdd s (wordAt lin)) code unit none detail) off 15 8 1) off 7 4 c) cause

theorem errorNoted_aside (lin code : Nat) (unit : BitVec 16) (detail : Bytes) (off c cause : Nat) (s : State) :
    errorNoted lin code unit detail off c cause (aside o s) = aside o (errorNoted lin code unit detail off c cause s) := by
  unfold errorNoted
  rw [poisonAdd_aside, logEvent_aside, regCount_aside, regSetF_aside, notice_aside]

/-- The second error of a region retires it. -/
def regionNoted (lin : Nat) (s : State) : State :=
  let r := mibOf lin
  let times := s.regionErrs.filterMap fun (k, t) => if k = r then some t else none
  let second := within times s.clock.health
  let s := { s with regionErrs := s.regionErrs ++ [(r, s.clock.health)] }
  if second ∧ !s.retired.contains r ∧ !s.retireNext.contains r then { s with retireNext := s.retireNext ++ [r] } else s

theorem regionNoted_aside (lin : Nat) (s : State) : regionNoted lin (aside o s) = aside o (regionNoted lin s) := ite_aside rfl rfl rfl

theorem stackUncorrectable_eq (s : State) (lin : Nat) : stackUncorrectable s lin = beginHealth (regionNoted lin
    (errorNoted lin 0x0101 (unitOf 3 (16 * stackOf lin + channelOf lin)) (toLE (channelAddr (wordAt lin)) 8) (oMem (stackOf lin) + 0x20)
      (channelOf lin) 3 s)) := rfl

theorem stackUncorrectable_aside (s : State) (lin : Nat) : stackUncorrectable (aside o s) lin = aside o (stackUncorrectable s lin) := by
  rw [stackUncorrectable_eq, stackUncorrectable_eq, errorNoted_aside, regionNoted_aside, beginHealth_aside]

theorem fenceEngine_aside (s : State) (e cause : Nat) : fenceEngine (aside o s) e cause = aside o (fenceEngine s e cause) :=
  beginHealth_aside (engSet s e _)

/-- The second error of an engine's SRAM fences the engine. -/
def engineNoted (e : Nat) (s : State) : State :=
  let second := within (engGet s e).errors s.clock.health
  let s := engSet s e { engGet s e with errors := (engGet s e).errors ++ [s.clock.health] }
  if second ∧ !engineFenced s e then fenceEngine s e 1 else beginHealth s

theorem engineNoted_aside (e : Nat) (s : State) : engineNoted e (aside o s) = aside o (engineNoted e s) :=
  ite_aside rfl (fenceEngine_aside (engSet s e _) e 1) (beginHealth_aside (engSet s e _))

theorem sramUncorrectable_eq (s : State) (lin : Nat) : sramUncorrectable s lin = engineNoted ((lin - sramBase) / 0x400000)
    (errorNoted lin 0x0201 (unitOf 1 ((lin - sramBase) / 0x400000))
      ([BitVec.ofNat 8 (sramCode ((lin - sramBase) % 0x400000)), 0] ++ toLE ((lin - sramBase) % 0x400000 - (lin - sramBase) % 0x400000 % 8
        - sramStart (sramCode ((lin - sramBase) % 0x400000))) 4)
      (oEng ((lin - sramBase) / 0x400000) + 0x20) (sramCode ((lin - sramBase) % 0x400000)) 1 s) := rfl

theorem sramUncorrectable_aside (s : State) (lin : Nat) : sramUncorrectable (aside o s) lin = aside o (sramUncorrectable s lin) := by
  rw [sramUncorrectable_eq, sramUncorrectable_eq, errorNoted_aside, engineNoted_aside]

theorem stackCorrected_aside (s : State) (lin : Nat) : stackCorrected (aside o s) lin = aside o (stackCorrected s lin) := ite_aside rfl rfl rfl

theorem sramCorrected_aside (s : State) (lin : Nat) : sramCorrected (aside o s) lin = aside o (sramCorrected s lin) := rfl

theorem outsideCode_aside (s : State) (lin : Nat) (stack : Bool) : outsideCode (aside o s) lin stack = aside o (outsideCode s lin stack) := by
  unfold outsideCode
  exact ite_aside rfl (ite_aside rfl (stackUncorrectable_aside (freeVal s).2 lin) (sramUncorrectable_aside (freeVal s).2 lin))
    (ite_aside rfl (ite_aside rfl (stackCorrected_aside (bytesPut (freeBytes (freeVal s).2 (wordSize lin)).2 (wordAt lin) _) lin)
      (sramCorrected_aside (bytesPut (freeBytes (freeVal s).2 (wordSize lin)).2 (wordAt lin) _) lin)) rfl)

theorem codewordFind_aside (s : State) (lin : Nat) (err : Bytes) : codewordFind (aside o s) lin err = aside o (codewordFind s lin err) := by
  unfold codewordFind
  refine ite_aside rfl (outsideCode_aside s lin true) ?_
  split
  · rfl
  · exact stackCorrected_aside s lin
  · exact stackUncorrectable_aside s lin

theorem sramFind_aside (s : State) (lin bits : Nat) : sramFind (aside o s) lin bits = aside o (sramFind s lin bits) :=
  ite_aside rfl rfl (ite_aside rfl (ite_aside rfl rfl rfl)
    (ite_aside rfl (sramUncorrectable_aside s lin) (outsideCode_aside s lin false)))

theorem eccFind_aside (s : State) (f : EccFind) : eccFind (aside o s) f = aside o (eccFind s f) :=
  ite_aside rfl rfl (ite_aside rfl (codewordFind_aside s _ _) (ite_aside rfl (sramFind_aside s _ _) rfl))

theorem softRead_aside (s : State) (lins : List Nat) : softRead (aside o s) lins = aside o (softRead s lins) :=
  ite_aside rfl rfl (foldl_aside sramCorrected_aside _ s)

theorem eccScan_aside (s : State) (lins : List Nat) (finds : List EccFind) : eccScan (aside o s) lins finds = aside o (eccScan s lins finds) := by
  unfold eccScan
  rw [softRead_aside]
  exact foldl_aside eccFind_aside _ _

theorem winRead_aside (s : State) (e off n : Nat) (finds : List EccFind) :
    winRead (aside o s) e off n finds = ((winRead s e off n finds).1, (winRead s e off n finds).2.1, aside o (winRead s e off n finds).2.2) := by
  unfold winRead
  simp only [eccScan_aside]
  rfl

end Sys2Proof.Machine
